-- ==== Sys2Proof/Word.lean ====
section
/-!
DEFINITION. The word types of the model: a register is 64 bits (R9), memory is addressed by the byte,
and a command packet is 64 bytes (R258).
-/
namespace Sys2Proof

/-- One byte of memory. -/
abbrev Byte := BitVec 8

/-- One register (R9). -/
abbrev Word := BitVec 64

/-- One 64-byte command packet; bit `8 * k + j` is bit `j` of byte `k` (R8, R258). -/
abbrev Packet := BitVec 512

end Sys2Proof
end

