-- ==== Sys2Proof/Machine/Store.lean ====
section
/-!
DEFINITION. Sparse tables, byte memory, and the bit and byte helpers every other file uses.
A table is a list of (key, value) pairs with strictly rising keys. A memory is a list of
(address, byte) pairs with strictly rising addresses that lists no zero byte: an address that is
not listed reads as zero.
-/
namespace Sys2Proof.Machine

/-- A sparse table keyed by a natural number, keys strictly rising. -/
abbrev Table (α : Type) := List (Nat × α)

/-- The entry of `k`, if the table has one. -/
def lookup {α : Type} (k : Nat) : Table α → Option α
  | [] => none
  | (j, v) :: t => if k = j then some v else lookup k t

/-- The table with entry `k` set to `v`. -/
def insertK {α : Type} (k : Nat) (v : α) : Table α → Table α
  | [] => [(k, v)]
  | (j, u) :: t =>
    if k < j then (k, v) :: (j, u) :: t
    else if k = j then (k, v) :: t
    else (j, u) :: insertK k v t

/-- The table without entry `k`. -/
def eraseK {α : Type} (k : Nat) : Table α → Table α
  | [] => []
  | (j, u) :: t => if k = j then eraseK k t else (j, u) :: eraseK k t

/-- The table with entry `k` changed by `f` where it exists. -/
def modifyK {α : Type} (k : Nat) (f : α → α) : Table α → Table α
  | [] => []
  | (j, u) :: t => if k = j then (j, f u) :: t else (j, u) :: modifyK k f t

/-- The entry of `k`, or `d` where the table has none. -/
def lookupD {α : Type} (d : α) (k : Nat) (t : Table α) : α := (lookup k t).getD d

/-- The values of a table in key order. -/
def valuesOf {α : Type} (t : Table α) : List α := t.map Prod.snd

/-- Does the table have an entry `k`? -/
def hasK {α : Type} (k : Nat) (t : Table α) : Bool := (lookup k t).isSome

/-! ## Byte memory -/

/-- Memory in its canonical form: addresses strictly rising, no listed zero. -/
abbrev Mem := List Host.Cell

/-- The byte at address `a`; an unlisted address reads as zero. -/
def readByte (a : Nat) : Mem → Byte
  | [] => 0
  | (j, v) :: t => if a = j then v else readByte a t

/-- The memory with the byte at `a` set to `b`, in canonical form. -/
def writeByte (a : Nat) (b : Byte) : Mem → Mem
  | [] => if b = 0 then [] else [(a, b)]
  | (j, v) :: t =>
    if a < j then (if b = 0 then (j, v) :: t else (a, b) :: (j, v) :: t)
    else if a = j then (if b = 0 then t else (a, b) :: t)
    else (j, v) :: writeByte a b t

/-- The `n` bytes from address `a` on. -/
def readBytes (a : Nat) : Nat → Mem → List Byte
  | 0, _ => []
  | n + 1, m => readByte a m :: readBytes (a + 1) n m

/-- The memory with the bytes `bs` stored from address `a` on. -/
def writeBytes (a : Nat) : List Byte → Mem → Mem
  | [], m => m
  | b :: bs, m => writeBytes (a + 1) bs (writeByte a b m)

/-- The memory with the `n` addresses from `a` on reading as zero. -/
def clearRange (a n : Nat) (m : Mem) : Mem := m.filter fun c => c.1 < a || a + n ≤ c.1

/-- The cells of `m` in the `n` addresses from `a` on. -/
def cellsIn (a n : Nat) (m : Mem) : Mem := m.filter fun c => a ≤ c.1 && c.1 < a + n

/-- The memory `m` with the `n` addresses from `a` on as they are in `src`. -/
def copyRange (a n : Nat) (src m : Mem) : Mem :=
  (m.filter fun c => c.1 < a) ++ cellsIn a n src ++ (m.filter fun c => a + n ≤ c.1)

/-- The canonical form: addresses strictly rising, and no entry equal to what an unlisted address reads as. -/
def Mem.wfFrom : Nat → Mem → Bool
  | _, [] => true
  | lo, (a, b) :: t => lo ≤ a && b != 0 && Mem.wfFrom (a + 1) t

/-- The canonical form of a whole memory. -/
def Mem.wf (m : Mem) : Bool := Mem.wfFrom 0 m

/-! ## Little-endian numbers (R8) -/

/-- The number that bytes spell, least significant byte first. -/
def leNat : List Byte → Nat
  | [] => 0
  | b :: bs => b.toNat + 256 * leNat bs

/-- The `n` low bytes of a number, least significant first. -/
def leBytes : Nat → Nat → List Byte
  | 0, _ => []
  | n + 1, v => BitVec.ofNat 8 v :: leBytes n (v / 256)

/-- Bits `lo` to `lo + len - 1` of a number. -/
def bitsOf (v lo len : Nat) : Nat := (v >>> lo) % 2 ^ len

/-- Bit `i` of a number. -/
def bitOf (v i : Nat) : Bool := (v >>> i) % 2 == 1

/-- Bit field `lo`, `len` of a packet, at byte `off` (R258). -/
def pktBits (p : Packet) (off lo len : Nat) : Nat := bitsOf p.toNat (8 * off + lo) len

/-- Bit field of a byte string taken as one little-endian number, at byte `off`. -/
def fieldOf (bs : List Byte) (off lo len : Nat) : Nat :=
  bitsOf (leNat ((bs.drop off).take ((lo + len + 7) / 8))) lo len

/-- The smaller of a value and the largest that `len` bits hold (a saturating field). -/
def satBits (len v : Nat) : Nat := min v (2 ^ len - 1)

/-- Ceiling division. -/
def ceilDiv (a b : Nat) : Nat := (a + b - 1) / b

/-- The numeric value of a Bool. -/
def b2n (b : Bool) : Nat := if b then 1 else 0

/-- The numbers `a`, `a + 1`, …, `a + n - 1`. -/
def upFrom (a : Nat) : Nat → List Nat
  | 0 => []
  | n + 1 => a :: upFrom (a + 1) n

/-- Two's-complement reading of the low `n` bits of `v`. -/
def signedOf (n v : Nat) : Int :=
  let u := v % 2 ^ n
  if u < 2 ^ (n - 1) then (u : Int) else (u : Int) - (2 : Int) ^ n

/-- Insertion into a rising list without repeats. -/
def insertSorted (x : Nat) : List Nat → List Nat
  | [] => [x]
  | y :: t => if x < y then x :: y :: t else if x = y then y :: t else y :: insertSorted x t

/-- Do the ranges `[a, a+n)` and `[b, b+m)` share an address? -/
def rangesMeet (a n b m : Nat) : Bool := n != 0 && m != 0 && a < b + m && b < a + n

end Sys2Proof.Machine
end

