-- ==== Sys2Proof/Machine/TypesTile.lean ====
section
/-!
DEFINITION. State of the tiles: program images in the banks, the Stoker, the engine queues, the scratchpad and the skip
predictor (chapters "Expert tiles", "Activation skipping" and "Rulliko intermediate code").
Each field's comment names its width or range, the rule that names it and its reset value.
-/
namespace Sys2Proof.Machine

/-- One layer binding of an image (R217). -/
structure Binding where
  routeDesc : Nat := 0
  layer : Nat := 0
  xchgDesc : Nat := 0
  tripEntry : Nat := 0
  skipDesc : Nat := 0
  predInsn : Nat := 0
  compInsn : Nat := 0
  actInsn : Nat := 0
  downInsn : Nat := 0
  deriving DecidableEq, Repr

/-- One declared scratchpad region (R216). -/
structure Region where
  base : Nat := 0
  len : Nat := 0
  kind : Nat := 0
  layer : Nat := 0
  deriving DecidableEq, Repr

/-- A kernel entry (R215). -/
structure KEntry where
  start : Nat := 0
  words : Nat := 0
  kind : Nat := 0
  deriving DecidableEq, Repr

/-- A skip descriptor (R192), as the loader read it. -/
structure SkipDesc where
  shadowAddr : Nat := 0
  srcFmt : Nat := 0
  srcPacked : Bool := false
  k : Nat := 0
  n : Nat := 0
  mode : Nat := 0
  act : Nat := 0
  makeupMax : Nat := 0
  theta : Nat := 0
  deriving DecidableEq, Repr

/-- A loaded image: what its bank holds (R213–R220). -/
structure Program where
  /-- IMAGE_ID · 16 bits · R307. -/
  id : Nat := 0
  /-- MODEL · 16 bits · R307. -/
  model : Nat := 0
  /-- Settled minor version, 0–3 · R221. -/
  minor : Nat := 0
  /-- RIC words · R214. -/
  code : List Word := []
  entries : List KEntry := []
  /-- CONST section, zero-filled past its length · R225. -/
  const : List Byte := []
  regions : List Region := []
  bindings : List Binding := []
  /-- Logical tiles of the TILES set · R214. -/
  tiles : List Nat := []
  deriving DecidableEq, Repr

/-- One instruction bank (R233). -/
structure Bank where
  /-- The image, or none for an empty bank · R233 · none. -/
  prog : Option Program := none
  /-- A load staged it and it has not been active since · R235 · false. -/
  staged : Bool := false
  deriving DecidableEq, Repr

/-- A work item (R226); `seq` and `msc` name the step it belongs to. -/
structure Item where
  payload : Nat := 0
  image : Nat := 0
  entry : Nat := 0
  kind : Nat := 0
  layer : Nat := 0
  ctx : Nat := 0
  stream : Nat := 0
  seq : Nat := 0
  msc : Nat := 0
  deriving DecidableEq, Repr

/-- An open loop (R246). -/
structure LoopFrame where
  /-- Word index of the LOOP. -/
  at_ : Nat := 0
  count : Nat := 0
  index : Nat := 0
  dst : Nat := 0
  deriving DecidableEq, Repr

/-- What a kernel is stopped at (R229, R249). -/
inductive Stall where
  | none
  | queueFull
  | event (e : Nat)
  | fence
  /-- Awaiting LDW data: the address and the destination register. -/
  | ldw (addr dst : Nat)
  deriving DecidableEq, Repr

/-- The kernel a Stoker runs (R228, R229). -/
structure Kernel where
  item : Item := {}
  /-- CODE word index of the next word · R249. -/
  pc : Nat := 0
  /-- First word past the kernel. -/
  stop : Nat := 0
  /-- s1–s31 that are not zero · 64 bits each · R224. -/
  regs : Table Word := []
  /-- Open loops, innermost first, at most eight · R224. -/
  loops : List LoopFrame := []
  stall : Stall := .none
  /-- CODE word index of a bank word whose fetch meets an uncorrectable error · R236 · none. -/
  badWord : Option Nat := none
  /-- DMEM address of a word that reads with an uncorrectable error · R247 · none. -/
  badDmem : Option Nat := none
  deriving DecidableEq, Repr

/-- A resolved operand: a generator with its base register and dynamic count put in (R240, R241, R244). -/
structure Opnd where
  /-- 0 A, 1 B, 2 C, 3 DEST. -/
  role : Nat := 0
  /-- 0 scratchpad, 1 weight space, 2 return. -/
  space : Nat := 0
  base : Nat := 0
  unit : Nat := 8
  /-- (count, stride) of each level, innermost first. -/
  levels : List (Nat × Int) := []
  fmt : Nat := 0
  /-- AGD of its descriptor. -/
  agd : Nat := 0
  deriving DecidableEq, Repr

/-- An array instruction's SHAPE word (R240). -/
structure ShapeW where
  shape : Nat := 0
  col : Bool := false
  transposed : Bool := false
  seg : Nat := 0
  rows : Nat := 1
  neurons : Nat := 1
  packed : Bool := false
  k : Nat := 1
  deriving DecidableEq, Repr

/-- An engine command in a queue (R229, R239). -/
structure EngCmd where
  engine : Nat := 0
  op : Nat := 0
  /-- CODE word index of its first word · R483. -/
  at_ : Nat := 0
  item : Item := {}
  waitA : Option Nat := none
  waitB : Option Nat := none
  signal : Option Nat := none
  woc : Nat := 0
  fmtA : Nat := 0
  fmtB : Nat := 0
  fn : Nat := 0
  opnds : List Opnd := []
  shape : Option ShapeW := none
  /-- A dynamic count of 0: it transfers and computes nothing · R244. -/
  idle : Bool := false
  /-- What its binding names it as: 1 predicted projection, 2 companion, 3 activation, 4 down-projection, 0 none · R217. -/
  part : Nat := 0
  /-- The skip descriptor of its layer's binding · R192 · none. -/
  skip : Option SkipDesc := none
  /-- Of a bound instruction: its group of up to 64 stationary rows of the expert, and the first neuron of a main pass. -/
  grp : Nat := 0
  base : Nat := 0
  /-- Declared regions of its image · R216, R483. -/
  regions : List Region := []
  deriving DecidableEq, Repr

/-- What a started command will have written when it completes (R230). -/
structure Effects where
  /-- Scratchpad writes: address and bytes. -/
  spad : List (Nat × List Byte) := []
  /-- Weight-space writes, made by COPY_OUT. -/
  wsp : List (Nat × List Byte) := []
  /-- Return rows: slot, offset in the row, bytes. -/
  ret : List (Nat × Nat × List Byte) := []
  /-- Neurons whose verdicts it has written (R195). -/
  evald : List Nat := []
  /-- Entries of the make-up queue it has computed (R201). -/
  made : Nat := 0
  deriving DecidableEq, Repr

/-- A command an engine has started. -/
structure InFlight where
  cmd : EngCmd := {}
  eff : Effects := {}
  /-- Its context's work was discarded after it started: it finishes, and nothing of it lands but open scratchpad bytes (R232, R271). -/
  dead : Bool := false
  /-- Scratchpad ranges it reads: address and bytes (R155). -/
  reads : List (Nat × Nat) := []
  /-- Another command in flight writes scratchpad bytes that it reads, in an order that nothing fixes (R155) · false. -/
  raced : Bool := false
  /-- Scratchpad ranges it writes that another command in flight writes too, in an order that nothing fixes (R155) · none. -/
  contested : List (Nat × Nat) := []
  deriving DecidableEq, Repr

/-- The skip predictor's and make-up state for the expert a tile runs (R195–R204). -/
structure SkipState where
  /-- The expert's work item. -/
  item : Item := {}
  /-- Times each neuron has been given a verdict: once for each group of up to 64 stationary rows · R195. -/
  evals : Table Nat := []
  /-- Neurons of the main passes issued, and written out, over all groups: predicted projection and companion. -/
  predIssued : Nat := 0
  compIssued : Nat := 0
  predDone : Nat := 0
  compDone : Nat := 0
  /-- Class of each neuron of a group's main passes, by group × 2^16 + neuron: 0 SKIP, 1 MAKEUP, 2 FULL · R197. -/
  classes : Table Nat := []
  /-- Verdict word by group × 2^16 + neuron · R195. -/
  verdicts : Table Nat := []
  /-- Bound of each pair evaluated: (group × 2^16 + neuron) × 64 + row → (FP32 bits of B, s ≤ 0) · R204. -/
  bounds : Table (Nat × Bool) := []
  /-- Make-up queue: neuron and mask of its uncertified rows, up to 1,024; an entry leaves it when its make-up passes
  have run · R200 · empty. -/
  makeup : List (Nat × Nat) := []
  /-- Entries at the front of the queue whose make-up pass has run, for the predicted projection and the companion. -/
  madePred : Nat := 0
  madeComp : Nat := 0
  /-- For each pair left to a make-up pass in an MX destination, the scale byte of its block, plus 256 where the block overflows: by
  (part × 2^16 + neuron) × 64 + row · R62, R198 · empty. -/
  scales : Table Nat := []
  /-- Groups whose make-up is written out and signalled on events 14 and 15, and those whose signal the activation and the
  down-projection have taken · R222. -/
  signalled : Nat := 0
  tookAct : Nat := 0
  tookDown : Nat := 0
  /-- Pairs skipped in speculative mode, and those possibly lost · R207. -/
  skipped : Nat := 0
  lost : Nat := 0
  /-- Bit addresses of the predicted projection's output elements whose verdict bit is 1 · R199. -/
  zeroed : List Nat := []
  deriving DecidableEq, Repr

/-- The active slots of the step in one resident slot that have not been resolved (R582). -/
structure Tally where
  /-- All of them. -/
  active : Nat := 0
  /-- Those of make-up passes. -/
  makeup : Nat := 0
  deriving DecidableEq, Repr

/-- One physical tile (R153, R224). -/
structure Tile where
  /-- The tile's row is powered · 1 bit · R182 · false. -/
  rowOn : Bool := false
  /-- The tile clock runs · 1 bit · R180 · false. -/
  clkOn : Bool := false
  /-- Banks 0 and 1 · R233 · empty. -/
  bank0 : Bank := {}
  bank1 : Bank := {}
  /-- Active bank · 1 bit · R233 · 0. -/
  active : Nat := 0
  /-- The loads that hold the tile, by sequence number, rising · R223 · empty. -/
  loadLocks : List Nat := []
  /-- Work items, in order of arrival, up to 64 · R226 · empty. -/
  items : List Item := []
  kernel : Option Kernel := none
  /-- Event counters 0–15 that are not zero · 8 bits each · R224 · 0. -/
  events : Table Nat := []
  /-- Engine queues: 0 MMA, 1 VEC, 2 XFER, 3 SKP · R229 · empty. -/
  q0 : List EngCmd := []
  q1 : List EngCmd := []
  q2 : List EngCmd := []
  q3 : List EngCmd := []
  /-- Started commands that have not completed, in order of start · R229 · none. -/
  flight : List InFlight := []
  /-- Scratchpad, 3 MiB, as its difference from `spadFree` · R154 · zero. -/
  spad : Mem := []
  /-- After a row was gated: the draw that its unwritten bytes read from (R157) · none: zero. -/
  spadFree : Option Nat := none
  /-- Scratchpad ranges that the work of each step in progress has written, by its sequence number · R271 · empty. -/
  wrote : Table (List (Nat × Nat)) := []
  /-- DMEM work area, 0xC000–0xFFFF · R225 · zero. -/
  dmem : Mem := []
  /-- Context whose items the work area has been used by · R225 · none. -/
  dmemCtx : Option Nat := none
  /-- A fault holds the tile until its context's teardown is complete · R248 · false. -/
  faulted : Bool := false
  /-- A kill or teardown drains: event counters are zeroed once no engine is busy · R232 · false. -/
  draining : Bool := false
  /-- One entry for each expert whose work is on the tile and skips, oldest first · R195–R204 · empty. -/
  skips : List SkipState := []
  /-- CERT_ALLOW and SPEC_ALLOW as read at the start of a layer step, by its sequence number · R208 · empty. -/
  skipCtl : Table (Bool × Bool) := []
  /-- Draws behind TIL_STK_STALL.QFULL and EVENT, since they were last read · 32 bits each · R249 · none: zero. -/
  stallFull : Option Nat := none
  stallEvent : Option Nat := none
  /-- Accumulator file of the next pass · 1 bit · R160 · 0. -/
  accFile : Nat := 0
  /-- Logical MACs performed and not yet counted, of 4,096 · R186 · 0. -/
  macs : Nat := 0
  /-- Open tallies of active slots, by resident slot · R582 · empty. -/
  tally : Table Tally := []
  /-- NO_STEAL as read at the start of the current pass · 1 bit · R176 · false. -/
  noSteal : Bool := false
  /-- Ember tick of the tile's latest work · 64 bits · R531 · 0. -/
  lastWork : Nat := 0
  deriving DecidableEq, Repr

end Sys2Proof.Machine
end

