-- ==== Sys2Proof/Machine/TypesXch.lean ====
section
/-!
DEFINITION. State of routing and the Runner: descriptors, Runner groups, layer steps, collectives (chapters "Routing
engines" and "The Runner").
Each field's comment names its width or range, the rule that names it and its reset value.
-/
namespace Sys2Proof.Machine

/-- A layer routing descriptor (R69). -/
structure RouteDesc where
  gateAddr : Nat := 0
  gateFmt : Nat := 3
  actFmt : Nat := 3
  biasAddr : Nat := 0
  placeAddr : Nat := 0
  eCount : Nat := 1
  expBase : Nat := 0
  layer : Nat := 0
  h : Nat := 1
  k : Nat := 1
  gateFn : Nat := 0
  norm : Bool := false
  renorm : Bool := false
  jitter : Bool := false
  mode : Nat := 0
  capMode : Nat := 0
  cf : Nat := 0
  capFixed : Nat := 1
  jitterScale : Nat := 0
  spillHi : Nat := 0
  hold : Nat := 0
  deriving DecidableEq, Repr

/-- A layer exchange descriptor (R119). -/
structure XchgDesc where
  hx : Nat := 1
  inFmt : Nat := 3
  dispWoc : Nat := 3
  retWoc : Nat := 6
  outWoc : Nat := 3
  addFmt : Nat := 6
  addN : Nat := 0
  capMax : Nat := 1
  recvTable : Nat := 0
  owned : Nat := 0
  deriving DecidableEq, Repr

/-- A packet of the Runner: its exchange header (R117) and what follows it. -/
structure ExPkt where
  /-- Job epoch, from the XL header. -/
  epoch : Nat := 0
  kind : Nat := 0
  hollow : Bool := false
  destTile : Nat := 0
  group : Nat := 0
  reforms : Nat := 0
  gen : Nat := 0
  /-- MSC_OR_SEQ. -/
  mscSeq : Nat := 0
  hash : Nat := 0
  srcRank : Nat := 0
  layer : Nat := 0
  slot : Nat := 0
  expSlot : Nat := 0
  choice : Nat := 0
  token : Nat := 0
  /-- Offset of the data, in units of 256 bytes: FRAG, with FRAG_HI for COLL_DATA; 0xFFFF on a RETURN marks a lost
  choice (R395). -/
  frag : Nat := 0
  /-- COLL_DATA: the contributing rank. ABORT: the offender's. SUSPECT: the lowest missing rank. -/
  rank : Nat := 0
  /-- ABORT: the detector's rank. -/
  rank2 : Nat := 0
  /-- ABORT: the detector's hash. CREDIT: the units granted. -/
  aux : Nat := 0
  /-- COLL_DATA: bytes of this contribution for this destination. -/
  total : Nat := 0
  data : List Byte := []
  deriving DecidableEq, Repr

/-- A count record (R84). -/
structure CountRec where
  msc : Nat := 0
  layer : Nat := 0
  modeEc : Bool := false
  failed : Bool := false
  rank : Nat := 0
  n : Nat := 0
  lost : List Nat := []
  eCount : Nat := 0
  maskVer : Nat := 0
  tokenBase : Nat := 0
  /-- FAILED alone: the page that could not be read (R105). -/
  page : Nat := 0
  /-- First and second choices of each expert, in index order. -/
  counts : List (Nat × Nat) := []
  deriving DecidableEq, Repr

/-- A choice of a local token (R79, R87, R99). -/
structure ChoiceRec where
  token : Nat := 0
  expert : Nat := 0
  second : Bool := false
  slot : Nat := 0
  spill : Bool := false
  renormed : Bool := false
  /-- GATE_WEIGHT, FP32. -/
  weight : Nat := 0
  /-- The owner: endpoint, logical tile and EXP_SLOT from the placement table (R71). -/
  destEp : Nat := 0
  destTile : Nat := 0
  expSlot : Nat := 0
  /-- Its dispatch has been sent. -/
  sent : Bool := false
  /-- Its return is complete; or it was lost (R98). -/
  back : Bool := false
  lost : Bool := false
  /-- Byte ranges of its return row received (R118), and the bytes. -/
  got : List (Nat × Nat) := []
  row : Mem := []
  deriving DecidableEq, Repr

/-- A dispatch row an owner has received or is receiving (R122, R127). -/
structure SlotRec where
  rank : Nat := 0
  token : Nat := 0
  choice : Nat := 0
  gen : Nat := 0
  /-- Byte ranges received (R118). -/
  got : List (Nat × Nat) := []
  whole : Bool := false
  /-- Byte ranges of its output row written, and the bytes (R127). -/
  outGot : List (Nat × Nat) := []
  out : Mem := []
  /-- Its RETURN has been sent. -/
  returned : Bool := false
  deriving DecidableEq, Repr

/-- An expert this module owns in a step (R102, R122). -/
structure OwnedExp where
  expert : Nat := 0
  expSlot : Nat := 0
  tile : Nat := 0
  region : Nat := 0
  filled : Nat := 0
  /-- Rows by slot · empty. -/
  rows : Table SlotRec := []
  /-- Rows received whole: its trigger counter (R122). -/
  arrived : Nat := 0
  /-- Its hand-over has waited for pages or staging (R401). -/
  delayed : Bool := false
  /-- Its trip-count record has been handed to the Stoker. -/
  handed : Bool := false
  /-- Its kernel and commands have ended. -/
  done : Bool := false
  /-- It became unavailable in this step (R98, R395). -/
  lost : Bool := false
  deriving DecidableEq, Repr

/-- Where a layer step stands (R28). -/
inductive StepStage where
  /-- Waits for the routing engines. -/
  | queued
  /-- Stage 2. -/
  | scoring
  /-- Stage 3: counts sent, waiting for records (parked, R81). -/
  | counting
  /-- Stage 3 of an expert-choice step: waiting for candidates or assignments (R90). -/
  | choosing
  /-- Offsets fixed; stage 4 runs. -/
  | building
  /-- The data phase (R122). -/
  | data
  /-- The layer does not route: only STEP kernels run. -/
  | local
  /-- It has ended; its commit waits for the journal (R270). -/
  | done
  deriving DecidableEq, Repr

/-- An open layer step (R28, R311), by the sequence number of its command. -/
structure LStep where
  ctx : Nat := 0
  stream : Nat := 0
  func : Nat := 0
  cls : Nat := 0
  layer : Nat := 0
  msc : Nat := 0
  image : Nat := 0
  model : Nat := 0
  group : Nat := 0
  gen : Nat := 0
  n : Nat := 0
  tokenBase : Nat := 0
  inAddr : Nat := 0
  outAddr : Nat := 0
  add0 : Nat := 0
  add1 : Nat := 0
  empty : Bool := false
  binding : Binding := {}
  route : RouteDesc := {}
  xchg : XchgDesc := {}
  stage : StepStage := .queued
  /-- The step runs expert-choice; under the automatic rule (R93, R94). -/
  ec : Bool := false
  auto : Bool := false
  /-- This member's mask version and bitmaps for the model when stage 2 began (R96, R97). -/
  maskVer : Nat := 0
  excluded : List Nat := []
  choices : List ChoiceRec := []
  /-- Keys of an expert-choice step's local candidates: (expert, key bits, global token, weight) (R90). -/
  cands : List (Nat × Nat × Nat × Nat) := []
  /-- Candidates received by this owner: (expert, key bits, global token, source rank) (R90). -/
  candsIn : List (Nat × Nat × Nat × Nat) := []
  /-- Members whose candidates, and whose assignments, have arrived, by rank (R90). -/
  candFrom : List Nat := []
  assignFrom : List Nat := []
  /-- Candidates, and assignments, still arriving, by rank (R90, R118). -/
  candParts : Table (List (Nat × Nat) × Mem) := []
  assignParts : Table (List (Nat × Nat) × Mem) := []
  /-- Absent choices of this member's tokens, unrouted tokens among them (R79). -/
  absent : Nat := 0
  /-- Count records received, by rank (R84). -/
  records : Table CountRec := []
  /-- Ranges and bytes of count records still arriving, by rank (R118). -/
  recParts : Table (List (Nat × Nat) × Mem) := []
  /-- Stage 2 met an uncorrectable or unmapped page: the page (R105). -/
  failed : Option Nat := none
  /-- Dispatch lists by engine, one number of 256 bits an entry (R99, R100). -/
  lists : Table (List Nat) := []
  /-- The capacity table: its header and its entries, one number of 256 bits each (R101). -/
  capTable : List Nat := []
  /-- STEP items that have ended, with the physical tile that took each (R507). -/
  partsDone : List (Nat × Item) := []
  /-- Logical tiles whose failure voids DISPATCH rows until their regions are armed again (R507). -/
  disarmed : List Nat := []
  /-- The draw that unstated figures of this step's capacity table read from (R101). -/
  freeDraw : Nat := 0
  cap : Nat := 0
  ntot : Nat := 0
  groupSpill : Nat := 0
  groupChoices : Nat := 0
  arms : List Nat := []
  owned : List OwnedExp := []
  combined : List Nat := []
  /-- Members whose dispatches, and tokens whose combination, wait for pages, rising (R390). -/
  armWait : List Nat := []
  tokWait : List Nat := []
  /-- Work of the count phase that waits for pages of the placement table: its kind, the rank and the bytes it came with (R390). -/
  placeWait : List (Nat × Nat × List Byte) := []
  /-- RETURN packets sent to other members and not acknowledged (R130). -/
  unacked : Nat := 0
  /-- STEP parts placed and not ended (R338): kernel × 256 + part. -/
  parts : List Nat := []
  /-- Items of STEP parts that wait for room or for staged data: physical tile and item (R226, R387). -/
  waiting : List (Nat × Item) := []
  /-- Those of them whose hand-over has waited for staging, by kernel × 256 + part · R401 · none. -/
  delayed : List Nat := []
  /-- Step status (R267). -/
  speculative : Bool := false
  expertLost : Bool := false
  possiblyLost : Nat := 0
  specSkipped : Nat := 0
  lostChoices : Nat := 0
  /-- LOST entries of its own record (R97). -/
  lostSent : List Nat := []
  /-- SKP_CTL.CERT_ALLOW and SPEC_ALLOW as the tiles read them at the step's start (R208). -/
  certAllow : Bool := true
  specAllow : Bool := true
  /-- Ember tick when its group timer started, or none (R143). -/
  timer : Option Nat := none
  deriving DecidableEq, Repr

/-- An ABORT kept for an operation not yet issued (R137): group, sequence number or MSC, layer and the report. -/
structure KeptAbort where
  group : Nat := 0
  reforms : Nat := 0
  mscSeq : Nat := 0
  layer : Nat := 0
  offender : Nat := 0
  detector : Nat := 0
  offHash : Nat := 0
  detHash : Nat := 0
  /-- The page of an ABORT that stands for ST_UNCORRECTABLE (R105). -/
  page : Nat := 0
  deriving DecidableEq, Repr

/-- The count records of a layer step that ended here before they had all come: what they announce still counts (R97). -/
structure LateCounts where
  msc : Nat := 0
  layer : Nat := 0
  model : Nat := 0
  /-- Ranks whose record is not all here. -/
  missing : List Nat := []
  /-- Ranges and bytes of their records, by rank (R118). -/
  parts : Table (List (Nat × Nat) × Mem) := []
  deriving DecidableEq, Repr

/-- A Runner group (R111–R116). -/
structure Group where
  epoch : Nat := 0
  func : Nat := 0
  /-- Endpoint of each member, in rank order. -/
  members : List Nat := []
  rank : Nat := 0
  timeoutUs : Nat := 60000
  collector : Nat := 0
  fanin : Nat := 0
  outstanding : Nat := 1
  cq : Nat := 0
  expert : Bool := false
  perMember : Bool := false
  landBytes : Nat := 0
  reformAddr : Nat := 0
  /-- Re-formation count · 16 bits · R117 · 0. -/
  reforms : Nat := 0
  /-- Sequence number of the next collective · 32 bits · R114 · 0. -/
  seq : Nat := 0
  /-- Bound stream: context × 64 + stream · R115 · none. -/
  bound : Option Nat := none
  broken : Bool := false
  removed : Bool := false
  /-- Model-step counter and layer of its layer step that ended last at this member · R137 · none. -/
  lastEnded : Option (Nat × Nat) := none
  /-- Count records still to come of the layer step that ended here last during its count phase · R97 · none. -/
  late : Option LateCounts := none
  /-- Numbers and descriptor hashes of the latest collectives that ended here, up to 16 · R137 · empty. -/
  endedColls : List (Nat × Nat) := []
  /-- CQ entries still reserved for it · R113. -/
  reserved : Nat := 0
  /-- The removed set of the last REFORM adopted · R145 · none. -/
  lastRemoved : Option (List Nat) := none
  /-- SUSPECT sent: ember tick · R146 · none. -/
  suspected : Option Nat := none
  /-- This member's second timer runs since this tick · R144 · none. -/
  second : Option Nat := none
  /-- Members that sent SUSPECT, and the union of their masks · R144 · empty. -/
  suspects : List Nat := []
  missing : List Nat := []
  deriving DecidableEq, Repr

/-- A piece of collective data still to be sent (R139). -/
structure Piece where
  dest : Nat := 0
  /-- The slice that sends it · R108. -/
  slice : Nat := 0
  /-- The contributing rank. -/
  rank : Nat := 0
  /-- Offset in the contribution, in units of 256 bytes. -/
  frag : Nat := 0
  data : List Byte := []
  deriving DecidableEq, Repr

/-- An open collective (R133–R141), by the sequence number of its command. -/
structure Coll where
  ctx : Nat := 0
  func : Nat := 0
  group : Nat := 0
  /-- Its number in the group · R114. -/
  number : Nat := 0
  op : Nat := 0
  fmt : Nat := 0
  woc : Nat := 0
  /-- The pool of the received data: function × 1,024 + pool. -/
  pool : Nat := 0
  count : Nat := 0
  src : Nat := 0
  /-- Elements for each destination of ALL_TO_ALLV. -/
  counts : List Nat := []
  /-- This member's descriptor hash · R136. -/
  hash : Nat := 0
  /-- Members whose hash has been compared · R137. -/
  heard : List Nat := []
  /-- Members whose BARRIER or DESC has arrived · R135. -/
  arrived : List Nat := []
  /-- Received contribution of each source rank: ranges and bytes. -/
  parts : Table (List (Nat × Nat) × Mem) := []
  /-- Whole contributions by source rank. -/
  whole : Table (List Byte) := []
  /-- Credit held toward the receiver, in 4 KiB units · R139. -/
  credit : Nat := 0
  toSend : List Piece := []
  /-- Buffers taken for the received data · R134. -/
  bufs : List Nat := []
  /-- A tree node has queued its own block for its parent · R141. -/
  forwarded : Bool := false
  /-- Ember tick when its group timer started · R143. -/
  timer : Nat := 0
  deriving DecidableEq, Repr

/-- A triggered operation (R126): it fires once, when its counter reaches its threshold. -/
structure TrigOp where
  /-- Sequence number of the command whose layer step or collective it belongs to. -/
  seq : Nat := 0
  /-- What its counter counts, within that command. -/
  key : Nat := 0
  /-- ACTION · 4 bits. -/
  action : Nat := 0
  /-- THRESHOLD · 32 bits. -/
  threshold : Nat := 0
  /-- OPERAND · 64 bits. -/
  operand : Nat := 0
  deriving DecidableEq, Repr

/-- The triggered operations of a Runner slice (R108, R126). -/
structure TrigSlice where
  /-- Entries in use by index, up to 8,192 · R126 · empty. -/
  entries : Table TrigOp := []
  /-- Trigger counters in use by number, up to 4,096: the command and the key each counts for · R126 · empty. -/
  counters : Table (Nat × Nat) := []
  /-- What has been counted, by command × 2^20 + key · R126 · empty. -/
  counts : Table Nat := []
  /-- Operations that wait for a free entry or counter, in order: the later parts of a step · R126 · empty. -/
  waiting : List TrigOp := []
  deriving DecidableEq, Repr

/-- A packet on the die mesh between two stops (R24), each given as row × 8 + column. -/
structure MeshPkt where
  src : Nat := 0
  dest : Nat := 0
  pkt : ExPkt := {}
  deriving DecidableEq, Repr

/-- The buffers of the die mesh by class, each by stop, in the order of arrival (R24). -/
structure MeshState where
  /-- Class request · R24 · empty. -/
  request : Table (List MeshPkt) := []
  /-- Class response · R24 · empty. -/
  response : Table (List MeshPkt) := []
  /-- Class exchange · R24 · empty. -/
  exchange : Table (List MeshPkt) := []
  deriving DecidableEq, Repr

/-- Routing and the Runner (R66–R152). -/
structure XchState where
  /-- Groups by epoch × 65,536 + GROUP_ID, up to 1,024 · R111, R112 · none. -/
  groups : Table Group := []
  /-- Groups whose GROUP_CREATE has completed and is not yet durable, by its sequence number: key and group · R270 · none. -/
  newGroups : Table (Nat × Group) := []
  /-- Open layer steps by sequence number · R28 · empty. -/
  steps : Table LStep := []
  /-- Open collectives by sequence number · R133 · empty. -/
  colls : Table Coll := []
  /-- Parked steps, in parking order, up to 63 · R81 · empty. -/
  parked : List Nat := []
  /-- The step whose stage 2 or 4 the engines run · R80 · none. -/
  routing : Option Nat := none
  /-- The resumed step whose stage 4 had begun when HALT was written: the engines finish it · R106 · none. -/
  stage4 : Option Nat := none
  /-- RUN_CLASS_MAP as it stood when the latest operation started · R150 · its reset value. -/
  classMap : Nat := 0x43267
  /-- RUN_CLASS_WEIGHT as it stood when the latest operation started · R150 · its reset value. -/
  classWeight : Nat := 0x20404
  /-- What each slice's injection arbiter has left to the classes DISPATCH, RETURN and BULK in its round · R150 · none: a
  round begins. -/
  arbiter : Table (List Nat) := []
  /-- Buffers of the die mesh · R24 · empty. -/
  mesh : MeshState := {}
  /-- Triggered operations by slice · R108, R126 · empty. -/
  trig : Table TrigSlice := []
  /-- ABORTs kept for operations not yet issued · R137 · empty. -/
  aborts : List KeptAbort := []
  /-- Packets of operations not yet issued here · R84, R137 · empty. -/
  early : List ExPkt := []
  /-- Experts queued for announcement, by model · R97 · empty. -/
  announce : Table (List Nat) := []
  /-- Announced experts to be set in the unavailable bitmap at the next layer step of the model · R97 · empty. -/
  lostNext : Table (List Nat) := []
  /-- Return data delivered late is counted here by RUN_STALE_DROPS · 48 bits · R151 · 0. -/
  staleDrops : Nat := 0
  deriving DecidableEq, Repr

end Sys2Proof.Machine
end

