-- ==== Sys2Proof/Machine/TypesFab.lean ====
section
/-!
DEFINITION. State of the fabric, the flask and the shaper: XL packets, ports, flows, multicast, remote operations,
coherence (chapters "Xordomer fabric" and "Flask memory semantics, traffic shaping and policing").
Each field's comment names its width or range, the rule that names it and its reset value.
-/
namespace Sys2Proof.Machine

/-- An XL packet: its header fields (R414) and its payload. LEN is the payload's length; the trailer is computed. -/
structure XlPkt where
  /-- 0 DATA, 1 ACK, 2 NACK, 3 NOTICE, 4 PROBE, 5 CONFIRM. -/
  kind : Nat := 0
  /-- 0 RUNNER, 1 REMOTE, 2 FLASK, 3 MCAST. -/
  proto : Nat := 0
  tc : Nat := 0
  order : Bool := false
  mcast : Bool := false
  nonmin : Bool := false
  passed : Bool := false
  epoch : Nat := 0
  dest : Nat := 0
  dslice : Nat := 0
  hops : Nat := 0
  src : Nat := 0
  via : Nat := 0
  age : Nat := 0
  seq : Nat := 0
  shapeTag : Nat := 0
  mgroup : Nat := 0
  /-- ARG, 64 bits. -/
  arg : Nat := 0
  payload : List Byte := []
  deriving DecidableEq, Repr

/-- A REMOTE or FLASK packet's header and data (R456). -/
structure RmPkt where
  op : Nat := 0
  tid : Nat := 0
  rank : Nat := 0
  type : Nat := 0
  aop : Nat := 0
  dlen : Nat := 0
  addr : Nat := 0
  flask : Nat := 0
  data : List Byte := []
  deriving DecidableEq, Repr

/-- Whose packet it is: where its failure is reported (R420) and its delivery noted (R130). -/
inductive Owner where
  /-- The Runner's. -/
  | runner
  /-- A RETURN of a layer step, by its command's sequence number. -/
  | ret (seq : Nat)
  /-- A remote command's packet, by the command's sequence number. -/
  | remote (seq : Nat)
  /-- A remote response: it frees its response slot when acknowledged. -/
  | response (slice : Nat)
  /-- A flask packet to a rank. -/
  | flask (rank : Nat)
  /-- A resent multicast packet (R437). -/
  | mcast (seq : Nat)
  | none
  deriving DecidableEq, Repr

/-- A packet on its way to its router slice (R465, R428). -/
structure Outgoing where
  pkt : XlPkt := {}
  owner : Owner := .none
  /-- Router slice, and the shaping hierarchy's subscriber and service; exempt packets bypass it (R466). -/
  slice : Nat := 0
  sub : Nat := 0
  svc : Nat := 0
  exempt : Bool := false
  /-- Sent again under its own SEQ (R419). -/
  again : Bool := false
  deriving DecidableEq, Repr

/-- A packet sent and not yet acknowledged (R415, R419). -/
structure Sent where
  pkt : XlPkt := {}
  owner : Owner := .none
  slice : Nat := 0
  tries : Nat := 1
  /-- Ember tick of the last send. -/
  at_ : Nat := 0
  /-- Not to be sent again before this tick, after a NACK with reason 0 or 2. -/
  notBefore : Nat := 0
  /-- After a NACK with reason 1: it waits for every earlier packet of the flow. -/
  afterEarlier : Bool := false
  deriving DecidableEq, Repr

/-- A flow at its source (R415). -/
structure TxFlow where
  next : Nat := 0
  sent : List Sent := []
  deriving DecidableEq, Repr

/-- A flow entry at its destination (R415, R417). -/
structure RxFlow where
  expected : Nat := 0
  /-- Numbers past `expected` that have arrived, up to 256 ahead. -/
  arrived : List Nat := []
  /-- Packets held for order, with their slice. -/
  held : List XlPkt := []
  ackPending : Bool := false
  /-- Ember tick of the last arrival. -/
  last : Nat := 0
  deriving DecidableEq, Repr

/-- A packet in the router: in an input buffer, or queued for a port (R423). -/
structure Arrived where
  /-- Port of arrival; 31 is the internal port. -/
  port : Nat := 31
  /-- Ember tick since when the packet is in this router. -/
  at_ : Nat := 0
  pkt : XlPkt := {}
  /-- It has reached this module's ejection: the router has done with it (R421, R427). -/
  here : Bool := false
  deriving DecidableEq, Repr

/-- A link flit as the replay buffer holds it (R407, R408). -/
structure Flit where
  fseq : Nat := 0
  ftype : Nat := 0
  /-- The credit return that it carries: virtual channel, rung, units. -/
  credit : Nat × Nat × Nat := (0, 0, 0)
  data : List Byte := []
  deriving DecidableEq, Repr

/-- One port (R404–R413). Its state, lanes, version and peer are in the FAB_PORT registers. -/
structure Port where
  /-- Bring-up step, 1–7, while it trains · R411 · 1. -/
  stage : Nat := 1
  /-- Training attempts of this bring-up · R411 · 0. -/
  attempts : Nat := 0
  /-- A retrain on two lanes returns to ACTIVE without HELD · R412 · false. -/
  quick : Bool := false
  /-- A timeout has set TRAIN_TIMEOUT or INIT_TIMEOUT since the port came up · R411 · false. -/
  timedOut : Bool := false
  /-- What the partner's latest INIT says of it, as FAB_PORT_PEER will report it at step 6 · R411 · 0. -/
  peer : Nat := 0
  /-- The partner's latest INIT names a version that the module does not run with: the port stays in INIT · R439 · false. -/
  verBad : Bool := false
  /-- FSEQ of the next data flit · 12 bits · R407 · 0. -/
  txSeq : Nat := 0
  /-- Flits sent and not acknowledged, up to 1,024 · R408 · empty. -/
  replay : List Flit := []
  /-- FSEQ of the latest data flit received intact · 12 bits · R407 · 0xFFF. -/
  rxSeq : Nat := 4095
  /-- Flits are discarded until the replay begins · R408 · false. -/
  discarding : Bool := false
  /-- Bytes of packets received and not yet whole · R407 · empty. -/
  rxBuf : List Byte := []
  /-- Ember ticks of the retries of the last millisecond · R408 · empty. -/
  retries : List Nat := []
  /-- Credits held for each virtual channel × 16 + rung, in 64-byte units · R409 · 0. -/
  credits : Table Nat := []
  /-- Credit returns owed to the partner: virtual channel, rung, units · R409 · empty. -/
  owed : List (Nat × Nat × Nat) := []
  /-- Shared units of the input buffer lent to each virtual channel × 16 + rung · R409 · 0. -/
  lent : Table Nat := []
  /-- Packets queued for the link, with the HOPS they will have across it · R424, R423 · empty. -/
  out : List Arrived := []
  /-- Bytes of packets started that do not fill a flit yet · under 628 bytes · R407 · empty. -/
  txBuf : List Byte := []
  /-- FACK of the latest flit sent · 12 bits · R407 · 0xFFF. -/
  ackSent : Nat := 4095
  /-- Deficit counters of the virtual channels · R424 · 0. -/
  deficit : Table Nat := []
  /-- The virtual channel served last · R424 · 7. -/
  lastVc : Nat := 7
  /-- Admission toward the port is stopped or slowed until its queue falls below LOW_KIB · R430 · false. -/
  throttled : Bool := false
  /-- Ember tick of the last admission while throttled · R430 · none. -/
  admitted : Option Nat := none
  deriving DecidableEq, Repr

/-- A multicast group entry (R434), by group number. -/
structure McastEntry where
  epoch : Nat := 0
  root : Nat := 0
  down : Nat := 0
  local_ : Bool := false
  up : Nat := 31
  leaves : List Nat := []
  deriving DecidableEq, Repr

/-- A multicast message this leaf receives (R437), by source and message number. -/
structure McastIn where
  src : Nat := 0
  msg : Nat := 0
  group : Nat := 0
  packets : Nat := 0
  got : List Nat := []
  acked : Bool := false
  deriving DecidableEq, Repr

/-- A multicast message this module sends (R436–R438), by its command's sequence number. -/
structure McastOut where
  group : Nat := 0
  msg : Nat := 0
  addr : Nat := 0
  data : List Byte := []
  leaves : List Nat := []
  /-- Leaves, by index, that have acknowledged, and that are undelivered. -/
  acked : List Nat := []
  undelivered : List Nat := []
  tries : Nat := 1
  at_ : Nat := 0
  deriving DecidableEq, Repr

/-- A remote command in progress (R460–R462), by its sequence number. -/
structure RemoteOp where
  dest : Nat := 0
  /-- 0x01 WRITE, 0x02 READ, 0x04 ATOMIC. -/
  op : Nat := 1
  laddr : Nat := 0
  len : Nat := 0
  /-- Packets not yet acknowledged (WRITE), or requests by transaction ID with their offset and length (READ). -/
  unacked : Nat := 0
  wanted : Table (Nat × Nat) := []
  /-- Data still to be sent or asked for: (remote address, local offset, bytes), for want of transaction IDs. -/
  rest : List (Nat × Nat × Nat) := []
  data : Mem := []
  deriving DecidableEq, Repr

/-- A JOB_ADMIT in progress (R433), by its sequence number. -/
structure Admit where
  list : List Nat := []
  confirmed : List Nat := []
  start : Nat := 0
  timeoutUs : Nat := 0
  deriving DecidableEq, Repr

/-- A fence in progress (R432): the EP_FENCE command while it drains. -/
structure Fence where
  /-- The EP_FENCE commands that the drain completes. -/
  seqs : List Nat := []
  deriving DecidableEq, Repr

/-- The router and the transport (R404–R444). -/
structure FabState where
  ports : Table Port := []
  /-- Packets held by the shaper, in order of arrival · R468 · empty. -/
  held : List Outgoing := []
  /-- Packets started by the shaper and not yet injected · R428 · empty. -/
  inject : List Outgoing := []
  /-- Flows by destination × 8 + class · R415 · empty. -/
  tx : Table TxFlow := []
  /-- Flow entries by source × 8 + class, up to 8,192 in each home slice · R415 · empty. -/
  rx : Table RxFlow := []
  /-- Next expected number of flows whose entry was freed · R415 · none (0). -/
  rxKept : Table Nat := []
  /-- Packets in the input buffers that the router has not forwarded · R427 · empty. -/
  input : List Arrived := []
  /-- Packets delivered and not yet consumed by their upper layer · R421 · empty. -/
  eject : List XlPkt := []
  /-- Multicast group entries, up to 4,096 · R434 · empty. -/
  mcast : Table McastEntry := []
  /-- Entries that an epoch fence destroyed: the router of a leaf among them still answers the copies of their trees · R432, R438 · empty. -/
  mcastGone : Table McastEntry := []
  mcastIn : List McastIn := []
  mcastOut : Table McastOut := []
  /-- Number of the next multicast message · 32 bits · R414 · 0. -/
  mcastNext : Nat := 0
  remotes : Table RemoteOp := []
  /-- Transaction IDs in use toward an endpoint: destination × 256 + TID, with their command · R456 · empty. -/
  tids : Table Nat := []
  /-- Response slots in use of each slice, of 2,048 · R461 · 0. -/
  slots : Table Nat := []
  admits : Table Admit := []
  fence : Fence := {}
  /-- What has been sent on the links: port and flit bytes, oldest first · R407 · nothing. -/
  linkOut : List (Nat × List Byte) := []
  /-- Token counts of the buckets, in 1/200 byte, by bucket number · R467 · empty (full or 0 by R469). -/
  tokens : Table Int := []
  /-- Deficit counters of the services at each port: slice × 64 + service · R468 · 0. -/
  svcDeficit : Table Nat := []
  /-- The service served last at each port · R468 · 63. -/
  lastSvc : Table Nat := []
  deriving DecidableEq, Repr

/-- A flask transaction this member has open as requester (R457, R458), by rank × 256 + TID. -/
structure FlaskTxn where
  /-- GET_S, GET_M, PUT_M, INV, RECALL, LEAVE or LOST. -/
  op : Nat := 0x20
  line : Nat := 0
  data : List Byte := []
  tries : Nat := 1
  at_ : Nat := 0
  /-- An INV or RECALL of the line came while its GET was open: the DATA that answers it is not used. -/
  stale : Bool := false
  deriving DecidableEq, Repr

/-- A line of the flask cache (R452), by rank × 2^28 + line number. No data: its home could not deliver it. -/
structure FlaskLine where
  /-- M; else S. -/
  modified : Bool := false
  data : List Byte := []
  deriving DecidableEq, Repr

/-- A directory entry (R455), by line number of this member's window. -/
structure DirEntry where
  owner : Option Nat := none
  sharers : List Nat := []
  /-- Order number of its latest grant. -/
  granted : Nat := 0
  deriving DecidableEq, Repr

/-- A request at the home that waits for other members (R455, R457), in order of arrival. -/
structure HomeTxn where
  /-- Requester's rank; 8 stands for this module's own access. -/
  rank : Nat := 8
  tid : Nat := 0
  op : Nat := 0x20
  line : Nat := 0
  /-- INV or RECALL sent and not ended: rank and TID. -/
  waits : List (Nat × Nat) := []
  started : Bool := false
  deriving DecidableEq, Repr

/-- Where a join stands (R445). -/
inductive JoinPhase where
  | out | joining | ready | member | leaving
  deriving DecidableEq, Repr

/-- The flask (R445–R459). -/
structure FlaskState where
  phase : JoinPhase := .out
  id : Nat := 0
  /-- Endpoints by rank · R445 · empty. -/
  members : List Nat := []
  rank : Nat := 0
  /-- Base of this module's window · 48 bits · R445 · 0. -/
  window : Nat := 0
  /-- Ranks with a matching JOIN and its minor version; ranks whose READY came · R445 · empty. -/
  joined : Table Nat := []
  readied : List Nat := []
  /-- Settled minor version · R447 · 0. -/
  minor : Nat := 0
  /-- The FLASK_JOIN or FLASK_LEAVE command in progress · R445, R449 · none. -/
  cmd : Option Nat := none
  start : Nat := 0
  timeoutUs : Nat := 0
  /-- Ranks that LEAVE has been sent to · R449 · empty. -/
  leaveSent : List Nat := []
  /-- Ranks left; ranks lost · R449, R459 · empty. -/
  left : List Nat := []
  lost : List Nat := []
  cache : Table FlaskLine := []
  txns : Table FlaskTxn := []
  dir : Table DirEntry := []
  grants : Nat := 0
  home : List HomeTxn := []
  /-- Poisoned lines of the weight space: address ÷ 256; they outlast the flask · R459 · empty. -/
  poisoned : List Nat := []
  /-- The lines given up to a RECALL, by rank × 256 + TID: line and bytes, sent again where the RECALL is · R458 · empty. -/
  given : Table (Nat × List Byte) := []
  deriving DecidableEq, Repr

end Sys2Proof.Machine
end

