-- ==== Sys2Proof/Machine/TypesSys.lean ====
section
/-!
DEFINITION. State of the reliability unit (error log, repair map, spares, SPDM responder) and of the recorder
(chapters "Fail-operational behaviour, errors and identity" and "Determinism, step counters and replay").
Each field's comment names its width or range, the rule that names it and its reset value.
-/
namespace Sys2Proof.Machine

/-- What fuses fix at manufacture (R3, R5, R6, R21, R514). No step changes any of it. -/
structure Fuses where
  /-- GRADE: 1 is X, 2 is S · 4 bits · R6. -/
  grade : Nat := 1
  /-- Physical tiles fused off · R3, R5. -/
  dark : List Nat := []
  /-- Physical tiles fused as spares, eight of them · R21. -/
  spares : List Nat := [144, 145, 146, 147, 148, 149, 150, 151]
  /-- Serial number · 64 bits · R514. -/
  serial : Nat := 0
  deriving DecidableEq, Repr

/-- An error log entry (R499). -/
structure LogEntry where
  seq : Nat := 0
  time : Nat := 0
  block : Nat := 0
  bit : Nat := 0
  cls : Nat := 0
  unit : Nat := 0xFFFF
  ctx : Nat := 0
  addr : Nat := 0
  jrnSeq : Nat := 0
  arg : Nat := 0
  deriving DecidableEq, Repr

/-- The state of a physical tile in the repair map (R503). -/
inductive TileRole where
  | inService | spare | failed | dark
  deriving DecidableEq, Repr

/-- Roles of the physical tiles as the fuses give them (R3, R21, R503). -/
def fusedRoles (f : Fuses) : List (Nat × TileRole) :=
  (upFrom 0 152).map fun t => (t, if f.dark.contains t then .dark else if f.spares.contains t then .spare else .inService)

/-- Logical tiles in ascending physical order (R21). -/
def ascendingL2p (roles : List (Nat × TileRole)) : List (Nat × Nat) :=
  let ts := (roles.filter fun e => e.2 = .inService).map Prod.fst
  (upFrom 0 ts.length).zip ts

/-- What the SPDM responder answers (R516, R517). -/
inductive SpdmMsg where
  /-- Versions ×10. -/
  | version (versions : List Nat)
  /-- CERT_CAP, CHAL_CAP, MEAS_CAP, CHUNK_CAP and CTExponent. -/
  | capabilities (version : Nat) (cert chal : Bool) (meas : Nat) (chunk : Bool) (ctExponent : Nat)
  /-- ECDSA P-384, SHA-384 for base and measurement hashes, DMTF measurements. -/
  | algorithms (version : Nat)
  | digests (slots : List Nat) (digests : List Nat)
  | certificate (slot : Nat) (portion : List Byte) (remainder : Nat)
  | challengeAuth (slot chainDigest nonce signature : Nat)
  /-- Blocks, and for a signed response its nonce and signature; a request for the count has no blocks. -/
  | measurements (count : Nat) (blocks : List (Nat × List Byte)) (signed : Option (Nat × Nat))
  | chunk (handle seq : Nat) (last : Bool) (bytes : List Byte)
  /-- An ERROR; with a handle where the response is large and is read with CHUNK_GET. -/
  | error (handle : Option Nat)
  deriving DecidableEq, Repr

/-- What the MCTP endpoint's control messages answer (R568): a completion code and data. -/
structure ControlReply where
  command : Nat
  code : Nat := 0
  data : List Byte := []
  deriving DecidableEq, Repr

/-- A message that the MCTP endpoint sends, by binding (0 the chain, 1 PCIe VDM) and requester's endpoint ID. -/
inductive MctpOut where
  | control (binding eid : Nat) (r : ControlReply)
  | spdm (binding eid : Nat) (m : SpdmMsg)
  deriving DecidableEq, Repr

/-- An MCTP packet (R568). -/
structure McPkt where
  dest : Nat
  src : Nat
  som : Bool
  eom : Bool
  seq : Nat
  owner : Bool
  tag : Nat
  body : List Byte
  deriving DecidableEq, Repr

/-- A message that the endpoint assembles (R568). -/
structure McPart where
  binding : Nat
  src : Nat
  owner : Bool
  tag : Nat
  next : Nat
  bytes : List Byte
  deriving DecidableEq, Repr

/-- One SPDM connection (R516). -/
structure SpdmConn where
  /-- Requester's MCTP endpoint, and the binding it came by. -/
  eid : Nat := 0
  binding : Nat := 0
  /-- Settled version ×10: 12 or 13 · R516. -/
  version : Nat := 0
  /-- GET_CAPABILITIES done. -/
  caps : Bool := false
  /-- NEGOTIATE_ALGORITHMS done. -/
  algs : Bool := false
  /-- Largest transfer that the requester takes · R516 · 4,096. -/
  transfer : Nat := 4096
  /-- Order number of its latest request (for the connection idle longest). -/
  lastUsed : Nat := 0
  /-- The rest of a large response being read with CHUNK_GET: (handle, next chunk sequence, bytes left). -/
  chunk : Option (Nat × Nat × List Byte) := none
  deriving DecidableEq, Repr

/-- The reliability unit (R497–R521). -/
structure RasState where
  /-- The error log ring, oldest first · 4,096 entries · R498 · empty. -/
  log : List LogEntry := []
  /-- SEQ of the next log entry · 64 bits · R520 · 1. -/
  logHead : Nat := 1
  /-- State of each physical tile, by number · R503 · from the fuses. -/
  roles : Table TileRole := fusedRoles {}
  /-- Physical tile of each logical tile that has one · R21, R503 · ascending order. -/
  l2p : Table Nat := ascendingL2p (fusedRoles {})
  /-- Hardware tile faults since module reset, per physical tile · R505 · 0. -/
  ueCount : Table Nat := []
  /-- Ember ticks of the scratchpad corrections of the last hour, per physical tile · R505 · none. -/
  ceTimes : Table (List Nat) := []
  /-- TILE_TEST has passed since the last module reset, per physical tile · R512 · none. -/
  testPassed : List Nat := []
  /-- The repair store failed to take a change · DEG_REASON.STORE · R504 · false. -/
  storeBad : Bool := false
  /-- Changes of the repair map not yet in both copies · R504 · 0. -/
  storePending : Nat := 0
  /-- Bits of RAS_IRQ_STATUS as last seen, by block · 23 bits · R500 · 0. -/
  irqSeen : Nat := 0
  /-- A class 6 error stands · R520 · false. -/
  fatal : Bool := false
  /-- SPDM connections, up to four · R516 · none. -/
  spdm : List SpdmConn := []
  /-- SPDM requests served so far (orders `lastUsed`, numbers the handles). -/
  spdmClock : Nat := 0
  /-- Images of logical tiles without a physical tile: banks 0 and 1 and the active bank · R236, R511 · none. -/
  lostImages : Table (Bank × Bank × Nat) := []
  /-- The repair map as last written to the store, as lists of numbers · R504, R517 · none written. -/
  mapWritten : List (List Nat) := []
  deriving DecidableEq, Repr

/-- A recorder record (R489); `body` is bytes 32–127. -/
structure RecEntry where
  seq : Nat := 0
  kind : Nat := 0
  layer : Nat := 0
  stream : Nat := 0
  ctx : Nat := 0
  msc : Nat := 0
  time : Nat := 0
  body : Nat := 0
  deriving DecidableEq, Repr

/-- The recorder (R488–R495). -/
structure DetState where
  /-- Records in the ring, oldest first · R488 · empty. -/
  ring : List RecEntry := []
  /-- SEQ of the next record · 64 bits · R495 · 0. -/
  head : Nat := 0
  /-- STATE: 0 OFF, 1 RECORDING, 2 REPLAYING, 3 DIVERGED, 4 DONE, 5 FULL · R495 · 0. -/
  state : Nat := 0
  /-- Divergences found, 32 bits, saturating · R495 · 0. -/
  divergences : Nat := 0
  /-- SEQs of ring records matched so far in replay · R493 · empty. -/
  matched : List Nat := []
  /-- SEQ of the next ring record to feed in replay · R492 · 0. -/
  feedAt : Nat := 0
  /-- Commands fed and still open, by sequence number, with the SEQ of their record · R494 · empty. -/
  fed : Table Nat := []
  /-- Draws for write-out and for jitter not yet making 4,096 · R496 · 0. -/
  drawsSr : Nat := 0
  drawsJitter : Nat := 0
  /-- The staged record of DET_REC_DATA writes, 128 bytes · R495 · 0. -/
  staged : Nat := 0
  /-- A first divergence is latched · R493 · false. -/
  latched : Bool := false
  /-- The replay's leftover-record check (end of feeding) has been made · R493 · false. -/
  leftoverDone : Bool := false
  /-- Dispatch rows, return rows received and their digest sums, per open step's sequence number · R490, R491 · empty. -/
  arrivals : Table (Nat × Nat × Nat × Nat) := []
  deriving DecidableEq, Repr

/-- An alert held until it is acknowledged (R560). -/
structure Alert where
  seq : Nat := 0
  cls : Nat := 0
  block : Nat := 0
  bit : Nat := 0
  repeats : Nat := 0
  deriving DecidableEq, Repr

/-- What the module sends on the management chain (R553–R560). -/
inductive ChainOut where
  /-- A frame's 24-byte-or-longer content as bytes, preamble left out. -/
  | frame (bytes : List Byte)
  /-- An ALERT of the module's own. -/
  | alert (a : Alert)
  deriving DecidableEq, Repr

/-- What a host write through BAR2 carries; poisoned data is discarded (R562). -/
structure HostData where
  bytes : List Byte
  poisoned : Bool := false
  deriving DecidableEq, Repr

/-- Where a host read of registers goes: an offset of BAR0, or of BAR4 (R253). -/
structure BarOffset where
  addr : Nat
  bar4 : Bool := false
  deriving DecidableEq, Repr

/-- The uncorrectable errors that a kernel is to meet: at a word of its bank, and at a byte of DMEM (R247). -/
structure KernelErrors where
  word : Option Nat := none
  dmem : Option Nat := none
  deriving DecidableEq, Repr

/-- A power sample (R537): the hottest sensors with their units, and the input power. -/
structure PowerSample where
  /-- Hottest compute-die sensor, °C, and its base die. -/
  die : Int := 40
  dieUnit : Nat := 0
  /-- Hottest base-die sensor, °C, and its base die. -/
  base : Int := 40
  baseUnit : Nat := 0
  /-- Hottest stack, °C, and its number. -/
  stack : Int := 40
  stackUnit : Nat := 0
  /-- Coolant inlet and outlet, °C. -/
  inlet : Int := 25
  outlet : Int := 30
  /-- Input power averaged over WINDOW_MS, W. -/
  input : Nat := 0
  /-- Highest 100 µs average of the sample, W. -/
  peak : Nat := 0
  deriving DecidableEq, Repr

/-- Which sensor met a limit (R538, R547): 0 compute die, 1 base die, 2 stack, 3 inlet, 4 regulator, 5 input power. -/
structure Reading where
  sensor : Nat
  unit : Nat
  temp : Int
  deriving DecidableEq, Repr

/-- What the self-test found where both copies of the repair store were unreadable (R504). -/
structure SelfTest where
  badTiles : List Nat
  badStacks : List Nat
  deriving DecidableEq, Repr

/-- The reset kinds that end with bring-up or with the cores' reboot (R541, R544). -/
inductive ResetKind where
  | warm | module | main
  deriving DecidableEq, Repr

/-- The ember controller's power sequencing, supervision and resets (R522–R546), beside its registers. -/
structure PwrState where
  /-- 54 V main is present · 1 bit · R525 · true. -/
  mainOn : Bool := true
  /-- 12 V standby is present · 1 bit · R523 · true. -/
  standbyOn : Bool := true
  /-- PERST# is asserted · 1 bit · R529 · false. -/
  perst : Bool := false
  /-- The reset whose completion is awaited, none where the module is ready or stopped · R544 · main power-up. -/
  reset : Option ResetKind := some .main
  /-- The power manager's core clock, MHz; the core clock is lower while an injector caps it · R537, R593 · 1,800. -/
  mhz : Nat := 1800
  /-- The 1 ms hold of a critical limit runs · 1 bit · R539 · false. -/
  critical : Bool := false
  /-- Consecutive samples that called for a step down, up to 10 · R539 · 0. -/
  downs : Nat := 0
  /-- The present 20 µs interval of duty throttling holds MMA passes · 1 bit · R539 · false. -/
  dutyHold : Bool := false
  /-- Target of the entry in progress: 0 none, 1 Smouldering, 2 Banked · R526, R528 · 0. -/
  target : Nat := 0
  /-- State that the exit in progress leaves: 0 none, 2 Smouldering, 3 Banked · R527, R529 · 0. -/
  leaving : Nat := 0
  /-- Domains powering down · R534 · none. -/
  goingDown : List Nat := []
  /-- A warm reset that was requested while Smouldering, with its SOURCE · R541 · none. -/
  warmWanted : Option Nat := none
  /-- Control cores that failed their self-test in the present bring-up or reboot · R288, R544 · none. -/
  deadCores : List Nat := []
  /-- Fabric domains that did not reach power good in the present bring-up · R544 · none. -/
  badDomains : List Nat := []
  /-- A TRIPPED module may leave by module reset: the last sample was 10 °C below every throttle limit · R540 · false. -/
  cooled : Bool := false
  deriving DecidableEq, Repr

/-- The host interface (R561–R567), beside its registers. -/
structure HifState where
  /-- VF Enable · 1 bit · R567 · 0. -/
  vfEnable : Bool := false
  /-- NumVFs · 0–32 · R567 · 0. -/
  numVfs : Nat := 0
  /-- Functions in D3hot, rising · R562 · none. -/
  d3hot : List Nat := []
  /-- The link is in L2/L3 Ready · 1 bit · R563 · false. -/
  l23 : Bool := false
  deriving DecidableEq, Repr

/-- The resource registers of a function (R565, R573). -/
inductive FnReg where
  | queues | contexts | pages
  deriving DecidableEq, Repr

/-- A hold that an injector started and that has not reached its DURATION (R591, R593). -/
structure Hold where
  inj : Nat
  /-- 0 DELAY, 1 BACKPRESSURE, 3 THROTTLE. -/
  action : Nat
  target : Nat
  unit : Nat
  sub : Nat
  freq : Nat
  deriving DecidableEq, Repr

/-- The perturbation unit, beside its registers (R591–R597). -/
structure PrtState where
  /-- Holds in progress · R591 · none. -/
  holds : List Hold := []
  deriving DecidableEq, Repr

/-- The collector, beside its registers (R584–R590). -/
structure PmcState where
  /-- Ember tick of the previous snapshot · R586 · 0: none. -/
  prevTick : Nat := 0
  /-- Snapshots missed since the ring was emptied · 64 bits · R586 · 0. -/
  missedCount : Nat := 0
  /-- A snapshot was missed since the previous one · R586 · false. -/
  missed : Bool := false
  /-- The module left Stoked since the previous snapshot · R586 · false. -/
  lowPower : Bool := false
  /-- An injector fired since the previous snapshot · R586 · false. -/
  prtActive : Bool := false
  /-- Banks cleared since the previous snapshot · R586, R589 · all 216. -/
  cleared : List Nat := List.range 216
  /-- Ember tick at which every bank was last zeroed, and those at which single banks were since · R578 · 0, none. -/
  zeroAll : Nat := 0
  zeroAt : Table Nat := []
  /-- Ember tick at which a domain's counters were saved, by domain; 64 + t: a failed tile's stopped · R524, R582 · none. -/
  savedAt : Table Nat := []
  deriving DecidableEq, Repr

/-- The management chain and the MCTP endpoint (R549–R571). -/
structure MgtState where
  alerts : List Alert := []
  /-- SEQ and response of the last request executed · R555 · none. -/
  last : Option (Nat × List Byte) := none
  /-- Messages being assembled, up to 8 · R568 · none. -/
  parts : List McPart := []
  /-- What the MCTP endpoint has sent, oldest first · R568 · nothing. -/
  mctpOut : List MctpOut := []
  chainOut : List ChainOut := []
  deriving DecidableEq, Repr

end Sys2Proof.Machine
end

