-- ==== Sys2Proof/Machine/Packets.lean ====
section
/-!
DEFINITION. What the operands of the block's commands carry: packets, frames, records and register names.
-/
namespace Sys2Proof.Machine

/-- One read of an SQ entry in a round: the queue and the 64 bytes that host memory returned (R255). -/
structure FetchRead where
  func : Nat
  queue : Nat
  packet : Packet
  deriving DecidableEq, Repr

/-- Which administration-queue register a write names (R289). -/
inductive AdminReg where
  | asq | acq | aqCfg
  deriving DecidableEq, Repr

/-- Which read of host memory passed the completion timeout (R573). -/
inductive CplSource where
  | sqEntry (func queue : Nat)
  | payload (seq addr : Nat)
  /-- A reply or a writeback of CQ `queue` (R257). -/
  | cqWrite (func queue : Nat)
  deriving DecidableEq, Repr

/-- How a read of NAND units went (R376): read-retries, units rebuilt from parity, and whether units were lost. -/
structure NandRead where
  retries : Nat := 0
  rebuilt : Nat := 0
  lost : Bool := false
  /-- Channel of the latest unit that failed every retry, and the units lost in a stripe (R376, R402). -/
  channel : Nat := 0
  lostUnits : Nat := 2
  deriving DecidableEq, Repr

/-- A read of `n` units can go so (R376): up to 8 retries of each, and two or more units lost where a stripe loses any. -/
def NandRead.inRange (r : NandRead) (n : Nat) : Bool := r.retries ≤ 8 * n && r.rebuilt ≤ n && (!r.lost || 2 ≤ r.lostUnits)

/-- What the patrol scrub met in a frame (R372, R373): the corrected blocks, each with the pseudo-channel chipkill
corrected where it did, and whether a block was uncorrectable. -/
structure ScrubResult where
  corrected : List (Nat × Option Nat)
  uncorrectable : Bool
  /-- Hopper link words of the frame with an error of their own SEC-DED code: the word's index, and whether it is uncorrectable (R347,
  R351). -/
  links : List (Nat × Bool) := []
  /-- How the read of the page's NAND copy went, where an uncorrectable block needs one (R392). -/
  nand : NandRead := {}
  /-- Not the patrol but some other reader of the frame has met the uncorrectable block (R392): it counts whatever SCRUB_EN is. -/
  byReader : Bool := false
  /-- This frame ends a patrol pass over the module. -/
  passEnd : Bool
  deriving DecidableEq, Repr

/-- The upkeep actions of the NAND translation layer (R377). -/
inductive Upkeep where
  /-- Blocks whose valid units, so many in all, were rewritten elsewhere. -/
  | readDisturb (blocks units : Nat)
  | wearLevel (blocks units : Nat)
  /-- So many units were read, and so many rewritten; the pages that units lost in a stripe belong to. -/
  | patrol (read : NandRead) (units rewritten : Nat) (pages : List Nat)
  | programFail (channel : Nat) (spareLow : Bool)
  deriving DecidableEq, Repr

/-- Which queued page move has ended (R379). -/
inductive MoveDone where
  | writeback
  /-- With how the read of the NAND copy went, where the move needs one. -/
  | migrate (read : NandRead)
  deriving DecidableEq, Repr

/-- Reads of NAND that a row's operand tells of can go so (R375, R376): a page has 128 units. -/
def Upkeep.inRange : Upkeep → Bool
  | .patrol r n _ _ => r.inRange n
  | _ => true
def MoveDone.inRange : MoveDone → Bool
  | .migrate r => r.inRange 128
  | .writeback => true

/-- What an engine's error checks meet when it starts a command (R156, R160, R184, R392). -/
inductive EngineEcc where
  | clean
  /-- Scratchpad words corrected, and the address of the latest. -/
  | corrected (words addr : Nat)
  | spadUncorr (addr : Nat)
  | accUncorr
  /-- The DRAM copy of the first page that the command reads in the weight space is uncorrectable. -/
  | bondUncorr
  deriving DecidableEq, Repr

/-- The bucket registers of one level. -/
inductive Level where
  | sub | svc | port | pol
  deriving DecidableEq, Repr

/-- The message of an INIT flit (R411). -/
structure InitMsg where
  /-- XL version. -/
  major : Nat
  minor : Nat
  /-- The partner's port number and endpoint ID. -/
  peerPort : Nat
  endpoint : Nat
  /-- 32 bits of its identity digest. -/
  digest : Nat
  /-- Rungs, and the credits offered for each channel and rung, in units of 64 bytes. -/
  rungs : Nat
  credits : Nat
  deriving DecidableEq, Repr

/-- An arriving REMOTE or FLASK packet: its payload's header and data, and what the XL header says of it. -/
structure RmIn where
  src : Nat
  tc : Nat
  slice : Nat
  seq : Nat
  epoch : Nat
  rm : RmPkt
  deriving DecidableEq, Repr

/-- What JOIN carries (R445). -/
structure JoinMsg where
  src : Nat
  epoch : Nat
  flask : Nat
  count : Nat
  digest : Nat
  major : Nat
  minor : Nat
  deriving DecidableEq, Repr

end Sys2Proof.Machine
end

