-- ==== Sys2Proof/Syntax.lean ====
section
/-!
DEFINITION. The commands of the block: one constructor for each row of spec/opcode_table.json, with the
operands that an occurrence of it carries. A row of the host's command set names the open command it is the
effect of by its sequence number; an arrival carries the packet; a timer names the unit it belongs to. The rows stand in the order of
the table, but that some, and those without operands, come last: Lean compiles a constructor with operands only among the first 245.
-/
namespace Sys2Proof

open Machine in
/-- A command of the block: something that reaches it from outside, or an event of its own clocks and engines. -/
inductive Instr where
  /-- NOP (R296). Administration command with no parameters that completes with ST_OK, marking a fence point when FENCE is set. -/
  | nop (seq : Nat)
  /-- SQ_CREATE (R298). Creates a submission queue bound to a completion queue, after checking its preconditions. -/
  | sqCreate (seq : Nat)
  /-- SQ_DELETE (R298). Deletes a submission queue, after which none of its unread entries is read. -/
  | sqDelete (seq : Nat)
  /-- CQ_CREATE (R298). Creates a completion queue with its vector and interrupt moderation settings. -/
  | cqCreate (seq : Nat)
  /-- CQ_DELETE (R298). Deletes a completion queue that has no bound SQ and no reservation. -/
  | cqDelete (seq : Nat)
  /-- CANCEL (R299). Increments a stream's generation so that its in-flight steps become stale. -/
  | cancel (seq : Nat)
  /-- JOURNAL_FLUSH (R300). Writes an image of the journal to NAND and replaces the previous image in one step. -/
  | journalFlush (seq : Nat)
  /-- JOURNAL_FETCH (R301). Copies entries of the flushed journal image to host memory. -/
  | journalFetch (seq : Nat)
  /-- CTX_CREATE (R303). Creates a context from its descriptor and zeroes its HOLD_LEFT counters. -/
  | ctxCreate (seq : Nat)
  /-- CTX_DESTROY (R303). Frees a context's buffer chains and quotas and deletes its entry. -/
  | ctxDestroy (seq : Nat)
  /-- STREAM_OPEN (R303). Opens a stream slot, increments its generation, and binds a group and reserves a return area. -/
  | streamOpen (seq : Nat)
  /-- STREAM_CLOSE (R303). Releases a stream's return area and group binding and frees the slot, keeping the generation. -/
  | streamClose (seq : Nat)
  /-- POOL_CREATE (R348). Creates a Hopper pool on a run of pages, writing its free list or ring. -/
  | poolCreate (seq : Nat)
  /-- POOL_QUOTA (R354). Sets a context's reserved minimum and quota in a pool without reclaiming buffers. -/
  | poolQuota (seq : Nat)
  /-- BUF_FREE (R352). Frees a buffer chain that the context holds, named by its handle. -/
  | bufFree (seq : Nat)
  /-- POOL_DESTROY (R302). Destroys a pool in which no buffer or return area is held. -/
  | poolDestroy (seq : Nat)
  /-- PAGE_MAP (R305). Creates page descriptors in the chosen tier, with the pages reading as zero. -/
  | pageMap (seq : Nat)
  /-- PAGE_UNMAP (R304). Removes the mappings of a range of pages. -/
  | pageUnmap (seq : Nat)
  /-- PAGE_WRITE (R305). Writes host data to every copy of weight-space pages. -/
  | pageWrite (seq : Nat)
  /-- PAGE_READ (R305). Reads weight-space data to the host, recovering from other copies where needed. -/
  | pageRead (seq : Nat)
  /-- MIGRATE (R305). Changes the tier, replication, pinning or stack of pages without changing their contents. -/
  | migrate (seq : Nat)
  /-- POUR_SET (R384). Installs a model's pour list, tagging, replicating and pinning its pages. -/
  | pourSet (seq : Nat)
  /-- POUR_CLEAR (R389). Removes a model's pour list, its tags and windows, and releases its staged data. -/
  | pourClear (seq : Nat)
  /-- PACK24 (R47). Builds packed 2:4 blocks from dense MX rows, pruning groups when PRUNE is set. -/
  | pack24 (seq : Nat)
  /-- SHADOW_BUILD (R209). Builds shadow-weight blocks with their error bounds from weight rows. -/
  | shadowBuild (seq : Nat)
  /-- LOAD (R307). Checks, translates and stages a program image in a bank of every named tile. -/
  | load (seq : Nat)
  /-- UNSTAGE (R308). Empties the inactive banks that hold a staged image not yet swapped in. -/
  | unstage (seq : Nat)
  /-- STEP (R311). Runs one layer step of a stream with the given inputs, seeds and model-step counter. -/
  | step (seq : Nat)
  /-- STEP_EMPTY (R309). Takes part in a routed layer step with no local tokens, owning and running experts only. -/
  | stepEmpty (seq : Nat)
  /-- EXPERT_MASK (R312). Sets or clears mask bits, or clears unavailable bits, for listed experts of a model. -/
  | expertMask (seq : Nat)
  /-- GROUP_CREATE (R313). Creates a Runner group from its descriptor, reserving completion entries and landing space. -/
  | groupCreate (seq : Nat)
  /-- GROUP_DESTROY (R313). Destroys a Runner group that has no work open. -/
  | groupDestroy (seq : Nat)
  /-- COLLECTIVE (R314). Issues an all-to-all, barrier, gather or gather-sum on a Runner group. -/
  | collective (seq : Nat)
  /-- EP_CONFIG (R316). Sets the endpoint ID and job epoch, making the endpoint live in that epoch. -/
  | epConfig (seq : Nat)
  /-- EP_FENCE (R432). Fences the endpoint, ends its open work, destroys its epoch's state and starts the drain. -/
  | epFence (seq : Nat)
  /-- EP_EPOCH (R432). Sets a new epoch on a fenced endpoint after quarantine and ends the fence. -/
  | epEpoch (seq : Nat)
  /-- JOB_ADMIT (R433). Probes listed endpoints until each confirms the issuer's epoch or the timeout passes. -/
  | jobAdmit (seq : Nat)
  /-- MCAST_SET (R434). Installs a multicast group entry after checking it. -/
  | mcastSet (seq : Nat)
  /-- MCAST_CLEAR (R315). Removes a multicast group entry of the current epoch. -/
  | mcastClear (seq : Nat)
  /-- MCAST_SEND (R436). Cuts local data into multicast packets and sends them to the group's root. -/
  | mcastSend (seq : Nat)
  /-- FLASK_JOIN (R445). Starts joining a flask by sending JOIN to every other listed member. -/
  | flaskJoin (seq : Nat)
  /-- FLASK_LEAVE (R449). Writes back and recalls lines and sends LEAVE to every peer. -/
  | flaskLeave (seq : Nat)
  /-- REMOTE_WRITE (R460). Writes local data to a remote endpoint's weight space in ordered packets. -/
  | remoteWrite (seq : Nat)
  /-- REMOTE_READ (R460). Reads remote weight-space data into local memory. -/
  | remoteRead (seq : Nat)
  /-- REMOTE_ATOMIC (R462). Applies an atomic add, min, max or compare-and-swap at a remote address. -/
  | remoteAtomic (seq : Nat)
  /-- TILE_TEST (R317). Runs the built-in self-test on a spare or failed tile. -/
  | tileTest (seq : Nat)
  /-- BITMAP_READ (R318). Copies a model's mask or unavailable bitmap to host memory. -/
  | bitmapRead (seq : Nat)
  /-- SQ_DOORBELL (R253). Host write of an SQ tail index to BAR4. -/
  | sqDoorbell (func : Nat) (queue : Nat) (value : Nat)
  /-- CQ_DOORBELL (R253). Host write of a CQ head index, releasing consumed reply entries. -/
  | cqDoorbell (func : Nat) (queue : Nat) (value : Nat)
  /-- COMMAND_FETCH (R255). The command processor reads at most one command from each SQ with unread entries in a round and checks it. -/
  | commandFetch (reads : List FetchRead)
  /-- ACCEPT (R264). A checked command reserves its CQ entry, takes a sequence number and writes its ACCEPT entry. -/
  | accept (func : Nat) (queue : Nat)
  /-- PAYLOAD_READ (R265). The read of a command's payload from host memory completes and the copy is kept. -/
  | payloadRead (seq : Nat) (bytes : List Byte) (failedAt : Option Nat)
  /-- JOURNAL_ENTRY_DURABLE (R275). Both copies of a journal entry have been written. -/
  | journalEntryDurable (retries : Nat) (oneCopy : Bool)
  /-- CQ_AGG_TIMEOUT (R256). The oldest unsignalled reply on a CQ reaches AGG_TIME and the vector fires. -/
  | cqAggTimeout (func : Nat) (queue : Nat)
  /-- JRN_BASE_WRITE (R283). A write to JRN_BASE moves and empties the journal ring or is refused whole. -/
  | jrnBaseWrite (base : Nat) (size : Nat)
  /-- ADMIN_QUEUE_WRITE (R289). A write to CP_ASQ, CP_ACQ or CP_AQ_CFG that may restart the administration queues. -/
  | adminQueueWrite (func : Nat) (which : AdminReg) (value : Word)
  /-- FETCH_ENABLE (R289). A write of CP_CTL.FETCH that starts or stops reading a function's SQs. -/
  | fetchEnable (func : Nat) (value : Bool)
  /-- STANDBY_SELF_TEST_DONE (R288). A reset core finishes its self-test and becomes the standby or stays out of service. -/
  | standbySelfTestDone (passed : Bool)
  /-- COUNT (R87). Arrival of a count record; when all have arrived, offsets, capacity and spills are fixed. -/
  | count (p : ExPkt)
  /-- EC_CANDIDATES (R90). Arrival at an expert's owner of a member's expert-choice candidates. -/
  | ecCandidates (p : ExPkt)
  /-- EC_ASSIGNMENT (R90). Arrival at a source of the owner's slot assignments for its tokens. -/
  | ecAssignment (p : ExPkt)
  /-- ARM (R122). Arrival of a member's ARM, which releases the source's dispatches to that member. -/
  | arm (p : ExPkt)
  /-- DISPATCH (R122). Arrival of a dispatch row, written into its slot; a complete expert is handed to its tile. -/
  | dispatch (p : ExPkt)
  /-- RETURN (R128). Arrival of an expert output row at its source; complete tokens are combined and the step may commit. -/
  | returnRow (p : ExPkt)
  /-- COLL_DATA (R139). Arrival of collective data in landing buffers or at a tree node. -/
  | collData (p : ExPkt)
  /-- CREDIT (R139). Arrival of landing credit that lets a sender inject more collective data. -/
  | credit (p : ExPkt)
  /-- DESC (R135). Arrival of a zero-count collective's descriptor packet carrying its hash. -/
  | desc (p : ExPkt)
  /-- BARRIER (R135). Arrival of a member's BARRIER packet. -/
  | barrier (p : ExPkt)
  /-- ABORT (R137). Arrival of an ABORT naming a descriptor mismatch, ending the collective or step. -/
  | abort (p : ExPkt)
  /-- SUSPECT (R144). Arrival at the coordinator of a member's mask of missing ranks. -/
  | suspect (p : ExPkt)
  /-- REFORM (R145). Arrival of a REFORM that re-forms the group and aborts its open work. -/
  | reform (p : ExPkt)
  /-- REDO (R508). Arrival of a request to resend dispatches for a re-armed logical tile. -/
  | redo (p : ExPkt)
  /-- GROUP_TIMEOUT (R143). A group timer passes TIMEOUT_US and the member sends SUSPECT. -/
  | groupTimeout (group : Nat)
  /-- SUSPECT_TIMER_END (R144). The second timer ends and the coordinator decides the removed set and sends REFORM. -/
  | suspectTimerEnd (group : Nat)
  /-- REFORM_WAIT_TIMEOUT (R146). No REFORM arrives within TIMEOUT_US ÷ 2 of SUSPECT, and the member counts itself removed. -/
  | reformWaitTimeout (group : Nat)
  /-- RUN_CLASS_MAP_WRITE (R149). A write to RUN_CLASS_MAP, ignored if it puts two classes on one channel. -/
  | runClassMapWrite (value : Nat)
  /-- RUN_HALT (R151). A write of RUN_CTL.HALT that stops the Runner starting operations. -/
  | runHalt (value : Bool)
  /-- RTE_HALT (R106). A write of RTE_CTL.HALT that parks the current stream and takes no new stream. -/
  | rteHalt (engine : Nat) (value : Bool)
  /-- POOL0_ALLOC (R346). A waiting pool 0 allocation receives a freed buffer. -/
  | pool0Alloc (die : Nat)
  /-- WORK_ITEM_START (R227). The Stoker takes the next work item, swaps banks if allowed, and starts its kernel. -/
  | workItemStart (tile : Nat) (errors : KernelErrors)
  /-- ADD (R238). Scalar add. -/
  | add (tile : Nat)
  /-- SUB (R238). Scalar subtract. -/
  | sub (tile : Nat)
  /-- AND (R238). Scalar and. -/
  | andS (tile : Nat)
  /-- OR (R238). Scalar or. -/
  | orS (tile : Nat)
  /-- XOR (R238). Scalar exclusive or. -/
  | xorS (tile : Nat)
  /-- SHL (R238). Scalar logical left shift. -/
  | shl (tile : Nat)
  /-- SHR (R238). Scalar logical right shift. -/
  | shr (tile : Nat)
  /-- SRA (R238). Scalar arithmetic right shift. -/
  | sra (tile : Nat)
  /-- MUL (R238). Low 64 bits of the unsigned product. -/
  | mul (tile : Nat)
  /-- MULHU (R238). High 64 bits of the unsigned product. -/
  | mulhu (tile : Nat)
  /-- DIVU (R238). Unsigned divide, with all ones for a zero divisor. -/
  | divu (tile : Nat)
  /-- REMU (R238). Unsigned remainder, giving SRCA for a zero divisor. -/
  | remu (tile : Nat)
  /-- MINU (R238). Unsigned minimum. -/
  | minu (tile : Nat)
  /-- MAXU (R238). Unsigned maximum. -/
  | maxu (tile : Nat)
  /-- SLT (R238). Signed set-less-than. -/
  | slt (tile : Nat)
  /-- SLTU (R238). Unsigned set-less-than. -/
  | sltu (tile : Nat)
  /-- ADDI (R238). Add of a sign-extended immediate. -/
  | addi (tile : Nat)
  /-- ANDI (R238). And with an immediate. -/
  | andi (tile : Nat)
  /-- ORI (R238). Or with an immediate. -/
  | ori (tile : Nat)
  /-- XORI (R238). Exclusive or with an immediate. -/
  | xori (tile : Nat)
  /-- SHLI (R238). Left shift by an immediate. -/
  | shli (tile : Nat)
  /-- SHRI (R238). Logical right shift by an immediate. -/
  | shri (tile : Nat)
  /-- SRAI (R238). Arithmetic right shift by an immediate. -/
  | srai (tile : Nat)
  /-- MULI (R238). Multiply by an immediate. -/
  | muli (tile : Nat)
  /-- LI (R238). Load a sign-extended immediate. -/
  | li (tile : Nat)
  /-- EXTI (R238). Extract a zero-extended bit field. -/
  | exti (tile : Nat)
  /-- CDIVI (R238). Unsigned ceiling division by an immediate. -/
  | cdivi (tile : Nat)
  /-- LD (R238). Load 8 bytes from DMEM. -/
  | ld (tile : Nat) (uncorrectable : Bool)
  /-- ST (R238). Store 8 bytes to the DMEM work area. -/
  | st (tile : Nat)
  /-- LDW (R238). Issue an 8-byte weight-space load, stalling the Stoker until data arrives. -/
  | ldw (tile : Nat)
  /-- LDW_DATA (R238). The data of an LDW arrives and the Stoker resumes. -/
  | ldwData (tile : Nat) (bad : Bool)
  /-- JMP (R238). Jump forward to TARGET. -/
  | jmp (tile : Nat)
  /-- BEQ (R238). Branch if equal. -/
  | beq (tile : Nat)
  /-- BNE (R238). Branch if not equal. -/
  | bne (tile : Nat)
  /-- BLTU (R238). Branch if unsigned less. -/
  | bltu (tile : Nat)
  /-- BGEU (R238). Branch if unsigned greater or equal. -/
  | bgeu (tile : Nat)
  /-- LOOP (R246). Opens a loop with a count checked against its ceiling. -/
  | loop (tile : Nat)
  /-- ENDLOOP (R246). Closes the innermost loop, iterating or exiting. -/
  | endloop (tile : Nat)
  /-- RIC_NOP (R238). Control word with no effect. -/
  | ricNop (tile : Nat)
  /-- END (R238). Ends the kernel, followed by a command-list boundary. -/
  | endKernel (tile : Nat)
  /-- EWAIT (R230). The Stoker waits on an event counter and decrements it. -/
  | ewait (tile : Nat)
  /-- ESIG (R230). The Stoker increments an event counter. -/
  | esig (tile : Nat)
  /-- RIC_FENCE (R238). The Stoker waits until every command of the kernel has completed. -/
  | ricFence (tile : Nat)
  /-- TRAP (R238). Raises the Stoker fault USER_TRAP with its code. -/
  | trap (tile : Nat)
  /-- PASS (R160). Issues one matrix-array pass to the MMA queue. -/
  | pass (tile : Nat)
  /-- MAKEUP (R201). Issues all make-up batches for a projection to the MMA queue. -/
  | makeup (tile : Nat)
  /-- VEC_ADD (R177). Vector add, written once under its write-out control byte. -/
  | vecAdd (tile : Nat)
  /-- VEC_SUB (R177). Vector subtract. -/
  | vecSub (tile : Nat)
  /-- VEC_MUL (R177). Vector multiply. -/
  | vecMul (tile : Nat)
  /-- FMA (R177). Vector fused multiply-add. -/
  | fma (tile : Nat)
  /-- SCALE (R177). Vector multiply by an FP32 scalar. -/
  | scale (tile : Nat)
  /-- VEC_MIN (R177). Element-wise minimum. -/
  | vecMin (tile : Nat)
  /-- VEC_MAX (R177). Element-wise maximum. -/
  | vecMax (tile : Nat)
  /-- ABS (R177). Element-wise magnitude. -/
  | abs (tile : Nat)
  /-- NEG (R177). Element-wise negation. -/
  | neg (tile : Nat)
  /-- SELECT (R177). Element-wise choice by comparison of C with D. -/
  | select (tile : Nat)
  /-- CVT (R177). Conversion to the destination format. -/
  | cvt (tile : Nat)
  /-- DIV (R177). Correctly rounded division. -/
  | div (tile : Nat)
  /-- SQRT (R177). Correctly rounded square root. -/
  | sqrt (tile : Nat)
  /-- EXP (R65). Element exponential by the defined FP32 value. -/
  | exp (tile : Nat)
  /-- LOG (R65). Element natural logarithm. -/
  | log (tile : Nat)
  /-- RSQRT (R65). Element reciprocal square root. -/
  | rsqrt (tile : Nat)
  /-- SIGMOID (R65). Element sigmoid. -/
  | sigmoid (tile : Nat)
  /-- TANH (R65). Element hyperbolic tangent. -/
  | tanh (tile : Nat)
  /-- RELU (R177). Element max(a, 0). -/
  | relu (tile : Nat)
  /-- RELU2 (R177). Element max(a, 0) squared. -/
  | relu2 (tile : Nat)
  /-- GELU_TANH (R65). Element tanh-approximated GELU. -/
  | geluTanh (tile : Nat)
  /-- SILU (R65). Element SiLU. -/
  | silu (tile : Nat)
  /-- ACT_MUL (R199). Gated activation act(g) × u, writing +0 for certified pairs. -/
  | actMul (tile : Nat)
  /-- RSUM (R179). Exact sum reduction. -/
  | rsum (tile : Nat)
  /-- RSUMSQ (R179). Exact sum-of-squares reduction. -/
  | rsumsq (tile : Nat)
  /-- RDOT (R179). Exact dot-product reduction. -/
  | rdot (tile : Nat)
  /-- RMAX (R179). Largest-element reduction. -/
  | rmax (tile : Nat)
  /-- RMIN (R179). Smallest-element reduction. -/
  | rmin (tile : Nat)
  /-- RARGMAX (R179). Index of the largest element. -/
  | rargmax (tile : Nat)
  /-- RARGMIN (R179). Index of the smallest element. -/
  | rargmin (tile : Nat)
  /-- COPY_IN (R239). Copies weight-space data into scratchpad. -/
  | copyIn (tile : Nat)
  /-- COPY_OUT (R239). Copies scratchpad data into weight space, visible at commit. -/
  | copyOut (tile : Nat)
  /-- COPY (R239). Copies scratchpad to scratchpad. -/
  | copy (tile : Nat)
  /-- FILL (R239). Fills a region with operand C's first 8 bytes repeated. -/
  | fill (tile : Nat)
  /-- EVAL (R194). Evaluates skip verdicts for one main pass. -/
  | eval (tile : Nat)
  /-- ENGINE_CMD_START (R230). An engine takes a queued command once its event waits are met and decrements the named counters. -/
  | engineCmdStart (tile : Nat) (engine : Nat) (ecc : EngineEcc)
  /-- ENGINE_CMD_COMPLETE (R230). An engine command's last write completes and it signals its event. -/
  | engineCmdComplete (tile : Nat) (engine : Nat)
  /-- TILE_HALT (R183). A write of TIL_CTL.HALT that halts the tile after its current pass and command list. -/
  | tileHalt (tile : Nat) (value : Bool)
  /-- TILE_CLOCK_START (R180). A tile's clock reaches frequency after work arrives, releasing waiting accesses. -/
  | tileClockStart (tile : Nat)
  /-- PAGE_FETCH_DONE (R390). An on-demand or prefetch fetch of a page from NAND completes and waiting readers resume. -/
  | pageFetchDone (page : Nat) (read : NandRead)
  /-- PAGE_MOVE_DONE (R379). A migration, writeback or re-pour page move completes and the descriptor switches. -/
  | pageMoveDone (page : Nat) (kind : MoveDone)
  /-- STAGE_DONE (R387). A STAGE entry's data is written into the tile's scratchpad. -/
  | stageDone (tile : Nat)
  /-- BAR2_READ (R363). Host read through BAR2 of weight space, pool buffers or the journal. -/
  | bar2Read (func : Nat) (offset : Nat) (len : Nat)
  /-- BAR2_WRITE (R363). Host write through BAR2 of weight space or pool buffers. -/
  | bar2Write (func : Nat) (offset : Nat) (data : HostData)
  /-- FLIT_RECEIVE (R408). A link flit arrives and is decoded, checked, credited or discarded for retry. -/
  | flitReceive (port : Nat) (symErrs : Nat) (bytes : List Byte)
  /-- PORT_ENABLE (R411). A write of FAB_PORT_CTL.ENABLE that starts port bring-up. -/
  | portEnable (port : Nat) (value : Bool)
  /-- PORT_FWD_EN (R411). A write of FAB_PORT_CTL.FWD_EN that lets a HELD port become ACTIVE. -/
  | portFwdEn (port : Nat) (value : Bool)
  /-- RETRAIN (R411). A write of FAB_PORT_CTL.RETRAIN that returns an ACTIVE port to training. -/
  | retrain (port : Nat) (value : Bool)
  /-- PORT_TRAINING_DONE (R411). A bring-up step of training, alignment or INIT completes and the port advances. -/
  | portTrainingDone (port : Nat) (lanes : Nat)
  /-- INIT (R411). Arrival of the partner's INIT flit carrying version, endpoint, digest and credits. -/
  | init (port : Nat) (msg : InitMsg)
  /-- PACKET_INJECT (R428). A packet is injected, choosing minimal or non-minimal routing. -/
  | packetInject (index : Nat)
  /-- PACKET_FORWARD (R427). A router forwards a transit packet to its least-loaded candidate or drops it. -/
  | packetForward (index : Nat)
  /-- DATA (R417). A DATA packet reaches its destination and is delivered, held for order, refused or discarded. -/
  | data (port : Nat) (bytes : List Byte)
  /-- ACK (R416). An ACK releases sent packets of a flow at the source. -/
  | ack (p : XlPkt)
  /-- ACK_SEND (R416). A slice sends one coalesced ACK per pending flow at most every 1 µs. -/
  | ackSend (slice : Nat)
  /-- NACK (R419). A NACK makes the source resend later. -/
  | nack (p : XlPkt)
  /-- NOTICE (R420). A NOTICE fails the packet at its source. -/
  | notice (p : XlPkt)
  /-- PROBE (R433). A PROBE is answered with CONFIRM when the epoch matches and the endpoint is not fenced. -/
  | probe (p : XlPkt)
  /-- CONFIRM (R433). A CONFIRM marks an endpoint as confirmed for JOB_ADMIT. -/
  | confirm (p : XlPkt)
  /-- PACKET_RESEND (R419). A packet unacknowledged for RTO_US, or after a NACK delay, is sent again. -/
  | packetResend (dest : Nat) (tc : Nat) (seq : Nat)
  /-- SHAPER_START (R468). The shaper starts a held packet once its buckets allow, charging them. -/
  | shaperStart (slice : Nat)
  /-- SHP_BUCKET_CFG_WRITE (R469). A write to a bucket register that may reset its tokens. -/
  | shpBucketCfgWrite (func : Nat) (level : Level) (index : Nat) (value : Nat)
  /-- JOIN (R445). Arrival of a flask JOIN, answered by a matching member. -/
  | join (msg : JoinMsg)
  /-- READY (R445). Arrival of READY from a peer, completing the join when all have arrived. -/
  | ready (arrived : RmIn)
  /-- ABORT_JOIN (R446). Arrival of ABORT_JOIN, treating the sender as lost after completion. -/
  | abortJoin (arrived : RmIn)
  /-- LEAVE (R449). Arrival of LEAVE from a member that leaves cleanly. -/
  | leave (arrived : RmIn)
  /-- LOST (R459). Arrival of LOST naming a rank, which discards, unshares and poisons its lines. -/
  | lost (arrived : RmIn)
  /-- GET_S (R455). At the home, a request for a line in S. -/
  | getS (arrived : RmIn)
  /-- GET_M (R455). At the home, a request for a line in M. -/
  | getM (arrived : RmIn)
  /-- PUT_M (R457). At the home, a writeback of an M line. -/
  | putM (arrived : RmIn)
  /-- INV (R452). At a sharer, an order to drop a line. -/
  | inv (arrived : RmIn)
  /-- RECALL (R457). At an owner, an order to return and drop a line. -/
  | flaskRecall (arrived : RmIn)
  /-- FLASK_DATA (R456). Arrival of line data at a requester or home. -/
  | flaskData (arrived : RmIn)
  /-- FLASK_ACK (R456). Arrival of an ACK ending an INV, data-less RECALL, PUT_M or LEAVE. -/
  | flaskAck (arrived : RmIn)
  /-- FLASK_RETRY (R458). A transaction unanswered for RETRY_US is sent again, or its peer declared lost. -/
  | flaskRetry (rank : Nat) (tid : Nat)
  /-- WRITE (R460). Arrival of a REMOTE WRITE, applied at the target. -/
  | write (arrived : RmIn)
  /-- READ (R461). Arrival of a REMOTE READ, answered with READ_DATA or refused for want of a slot. -/
  | read (arrived : RmIn)
  /-- READ_DATA (R460). Arrival of remote read data at the requester. -/
  | readData (arrived : RmIn)
  /-- ATOMIC (R462). Arrival of a REMOTE ATOMIC, applied indivisibly. -/
  | atomic (arrived : RmIn)
  /-- ATOMIC_RESULT (R462). Arrival of the value found by a remote atomic. -/
  | atomicResult (arrived : RmIn)
  /-- POWER_SAMPLE (R537). Every 40 µs the power manager reads sensors and steps the core clock. -/
  | powerSample (sample : PowerSample)
  /-- CRITICAL_LIMIT (R539). A critical limit drops the core clock to 0.60 GHz for 1 ms. -/
  | criticalLimit (reading : Reading)
  /-- TRIP_LIMIT (R540). A trip limit turns off the main domains and enters TRIPPED. -/
  | tripLimit (reading : Reading)
  /-- PLL_LOCK_LOST (R536). A PLL loses lock, retraining ports or raising a fatal error. -/
  | pllLockLost (pll : Nat)
  /-- PWR_REQ_STOKED (R527). A PWR_REQ write of TARGET 0 that ends Smouldering or cancels a pending entry. -/
  | pwrReqStoked (func : Nat)
  /-- PWR_REQ_SMOULDER (R526). A PWR_REQ write of TARGET 1 that requests Smouldering. -/
  | pwrReqSmoulder (func : Nat)
  /-- PWR_REQ_BANKED (R528). A PWR_REQ write of TARGET 2 that enters Banked or is refused. -/
  | pwrReqBanked (func : Nat)
  /-- BANKED_EXIT (R529). A WAKE or PERST# de-assertion starts the exit from Banked. -/
  | bankedExit (byPerst : Bool)
  /-- RST_CTL_WARM (R541). An RST_CTL write of KIND 1 with the key, causing a warm reset. -/
  | rstCtlWarm (func : Nat) (key : Nat)
  /-- RST_CTL_MODULE (R541). An RST_CTL write of KIND 2 with the key, causing a module reset. -/
  | rstCtlModule (func : Nat) (key : Nat)
  /-- WARM_RESET (R542). Chain request for a warm reset, which ends commands, closes streams and reboots the control cores. -/
  | warmReset (frame : List Byte)
  /-- MODULE_RESET (R544). Chain request for a module reset of domains 1–34. -/
  | moduleReset (frame : List Byte)
  /-- FLR (R543). A Function Level Reset ends and tears down one function's commands, contexts, pools and queues. -/
  | flr (func : Nat)
  /-- RESET_COMPLETE (R544). Bring-up finishes and RST_STATUS.READY becomes 1. -/
  | resetComplete (test : Option SelfTest)
  /-- VF_ENABLE (R567). Setting VF Enable brings up the virtual functions. -/
  | vfEnable (numVfs : Nat)
  /-- HIF_FN_CONFIG (R565). A write to a function's resource registers, refused if it breaks the rules. -/
  | hifFnConfig (func : Nat) (fn : Nat) (which : FnReg) (value : Nat)
  /-- CENSUS (R556). Enumeration pass that records addresses and resolves conflicts. -/
  | census (frame : List Byte)
  /-- ASSIGN (R556). Enumeration pass that gives unaddressed modules the lowest free address. -/
  | assign (frame : List Byte)
  /-- PING (R557). Chain request returning identity, fuse ID, power state and versions. -/
  | ping (frame : List Byte)
  /-- STATUS (R557). Chain request returning power, temperature and RAS status. -/
  | status (frame : List Byte)
  /-- REG_READ (R558). Chain request that reads BAR0 registers as the physical function. -/
  | regRead (frame : List Byte)
  /-- REG_WRITE (R558). Chain request that writes BAR0 registers as the physical function. -/
  | regWrite (frame : List Byte)
  /-- WAKE (R557). Chain request that ends Banked or Smouldering. -/
  | wake (frame : List Byte)
  /-- SET_POWER (R557). Chain request acting as the matching PWR_REQ write. -/
  | setPower (frame : List Byte)
  /-- TEST_MODE (R559). Chain request that sets or clears test mode. -/
  | testMode (frame : List Byte)
  /-- ALERT_ACK (R560). Chain acknowledgement that stops an alert's repeats. -/
  | alertAck (frame : List Byte)
  /-- REINSTATE (R512). A write of RAS_REINSTATE that makes a failed tile a spare again. -/
  | reinstate (func : Nat) (phys : Nat)
  /-- RETIRE (R512). A write of RAS_TILE_RETIRE that fails a logical tile's physical tile. -/
  | retire (func : Nat) (logical : Nat)
  /-- MARK (R490). A write of DET_REC_MARK that writes a MARK record. -/
  | mark (value : Nat)
  /-- DET_REC_APPEND (R495). A write of DET_REC_DATA_15 that appends the staged record. -/
  | detRecAppend (index : Nat) (value : Nat)
  /-- PMC_COLLECT (R584). A write of PMC_CTL.COLLECT that enables or stops the collector. -/
  | pmcCollect (func : Nat) (value : Bool)
  /-- PMC_SNAP (R585). A write of PMC_CTL.SNAP that takes an extra snapshot. -/
  | pmcSnap (func : Nat) (busy : Bool)
  /-- PMC_EMPTY (R590). A write of PMC_CTL.EMPTY that empties the snapshot ring. -/
  | pmcEmpty (func : Nat)
  /-- PMC_CLEAR (R578). A write of PMC_CLEAR that zeroes one or every bank. -/
  | pmcClear (func : Nat) (bank : Nat) (all : Bool)
  /-- PMC_SNAPSHOT (R585). A due snapshot latches the selected banks and is written to the ring. -/
  | pmcSnapshot (busy : Bool)
  /-- PRT_WRITE (R595). A write to a PRT_ register, refused outside test mode. -/
  | prtWrite (func : Nat) (offset : Nat) (value : Nat)
  /-- RC_READ (R11). A read of an RC field that returns and clears its value. -/
  | rcRead (func : Nat) (offset : BarOffset) (size : Nat)
  /-- REGISTER_WRITE (R11). A write to a register that has no row of its own, under its access codes. -/
  | registerWrite (func : Nat) (offset : Nat) (size : Nat) (value : Nat)
  /-- COMMAND_WORK_DONE (R270). A module-local command's own work (load placement, packing, shadow building, journal flush, page copy, pool set-up) finishes and its COMPLETE entry is written. -/
  | commandWorkDone (seq : Nat) (failed : Bool)
  /-- KILL_DRAIN_DONE (R232). After a kill, started engine commands have finished and the Stoker zeroes its event counters. -/
  | killDrainDone (tile : Nat)
  /-- WAIT_DEADLOCK (R231). 4,096 tile cycles with no engine busy and the Stoker waiting raise a Stoker fault. -/
  | waitDeadlock (tile : Nat)
  /-- TEARDOWN_COMPLETE (R248). Teardown has discarded the tile's work, and the tile's Stoker, queues and events are reset. -/
  | teardownComplete (tile : Nat)
  /-- TILE_CLOCK_STOP (R531). The idle window passes and the tile clock stops. -/
  | tileClockStop (tile : Nat)
  /-- LINGER_EXPIRE (R328). A lingering stream with no claim becomes OPEN after 50 µs. -/
  | lingerExpire (ctx : Nat) (stream : Nat)
  /-- STREAM_BLOCK_TIMEOUT (R333). A stream BLOCKED for BLOCK_US becomes evictable. -/
  | streamBlockTimeout (ctx : Nat) (stream : Nat)
  /-- PIN_WATCHDOG (R331). A pinned stream makes no progress for PIN_WD_MS and its step ends as removed. -/
  | pinWatchdog (ctx : Nat) (stream : Nat)
  /-- PATROL_SCRUB (R372). The patrol scrub reads a frame and writes corrected data back. -/
  | patrolScrub (stack : Nat) (frame : Nat) (result : ScrubResult)
  /-- STACK_FAILURE (R396). A stack fails and its pages are redirected, re-poured or marked LOST. -/
  | stackFailure (stack : Nat)
  /-- NAND_UPKEEP (R377). A background read-disturb, wear-levelling, patrol or program-failure action of the translation layer. -/
  | nandUpkeep (action : Upkeep)
  /-- NAND_CHANNEL_FAIL (R378). A NAND channel stops answering or retires too many blocks and the module runs degraded. -/
  | nandChannelFail (channel : Nat)
  /-- RETRY_REQ (R408). A partner's retry request makes the transmitter replay from its replay buffer. -/
  | retryReq (port : Nat) (fack : Nat)
  /-- PORT_STEP_TIMEOUT (R411). A bring-up step passes its timeout and the port returns to step 1 after 1 s. -/
  | portStepTimeout (port : Nat)
  /-- LANE_FAIL (R412). A lane loses signal or lock, and the port retrains on two lanes or fails. -/
  | laneFail (port : Nat) (lane : Nat)
  /-- FLOW_ENTRY_FREE (R415). A flow entry with no unacknowledged packet for 10 µs is freed. -/
  | flowEntryFree (src : Nat) (tc : Nat)
  /-- JOB_ADMIT_PROBE_TIMER (R433). Every 100 µs JOB_ADMIT probes the unconfirmed endpoints again. -/
  | jobAdmitProbeTimer (seq : Nat)
  /-- JOB_ADMIT_TIMEOUT (R316). JOB_ADMIT reaches TIMEOUT_US and completes with ST_NOT_CONFIRMED. -/
  | jobAdmitTimeout (seq : Nat)
  /-- MCAST_RESEND (R437). Leaves that have not acknowledged within RTO_US receive the message again by unicast. -/
  | mcastResend (seq : Nat)
  /-- ROW_IDLE_TIMEOUT (R532). A tile row idle for ROW_IDLE_US and free of live state is gated. -/
  | rowIdleTimeout (row : Nat)
  /-- ROW_WAKE_DONE (R532). A tile row reaches power good and its tiles' images are restored. -/
  | rowWakeDone (row : Nat)
  /-- RE_PAIR_IDLE_TIMEOUT (R533). An idle routing-engine pair is gated after RE_IDLE_US. -/
  | rePairIdleTimeout (pair : Nat)
  /-- RE_PAIR_WAKE_DONE (R533). A routing-engine pair finishes its wake. -/
  | rePairWakeDone (pair : Nat)
  /-- BRINGUP_STEP_TIMEOUT (R544). A bring-up step passes its timeout with the stated outcome. -/
  | bringupStepTimeout (step : Nat) (unit : Nat)
  /-- D3HOT_ENTER (R562). A function enters D3hot and stops reading its SQs. -/
  | d3hotEnter (func : Nat)
  /-- ALERT_REPEAT (R560). Every 100 ms an unacknowledged alert is sent again or dropped after 50 repeats. -/
  | alertRepeat (seq : Nat)
  /-- MCTP (R568). A chain frame carrying one MCTP packet for the endpoint. -/
  | mctp (frame : List Byte)
  /-- FRAME_FORWARD (R554). A chain frame not addressed to this module is forwarded cut-through. -/
  | frameForward (frame : List Byte)
  /-- SET_ENDPOINT_ID (R568). MCTP control request that assigns the binding's endpoint ID. -/
  | setEndpointId (binding : Nat) (src : Nat) (eid : Nat)
  /-- GET_ENDPOINT_ID (R568). MCTP control request returning the endpoint ID. -/
  | getEndpointId (binding : Nat) (src : Nat)
  /-- GET_ENDPOINT_UUID (R568). MCTP control request returning the endpoint UUID. -/
  | getEndpointUuid (binding : Nat) (src : Nat)
  /-- GET_MCTP_VERSION_SUPPORT (R568). MCTP control request returning supported versions. -/
  | getMctpVersionSupport (binding : Nat) (src : Nat)
  /-- GET_MESSAGE_TYPE_SUPPORT (R568). MCTP control request returning supported message types. -/
  | getMessageTypeSupport (binding : Nat) (src : Nat)
  /-- GET_VERSION (R516). SPDM request that starts a connection. -/
  | getVersion (binding : Nat) (src : Nat)
  /-- GET_CAPABILITIES (R516). SPDM request for responder capabilities. -/
  | getCapabilities (binding : Nat) (src : Nat) (version : Nat) (transfer : Nat)
  /-- NEGOTIATE_ALGORITHMS (R516). SPDM request that settles algorithms. -/
  | negotiateAlgorithms (binding : Nat) (src : Nat) (version : Nat) (common : Bool)
  /-- GET_DIGESTS (R516). SPDM request for certificate chain digests. -/
  | getDigests (binding : Nat) (src : Nat) (version : Nat)
  /-- GET_CERTIFICATE (R516). SPDM request for the certificate chain of slot 0. -/
  | getCertificate (binding : Nat) (src : Nat) (version : Nat) (slot : Nat) (offset : Nat) (length : Nat)
  /-- CHALLENGE (R516). SPDM request for a signed challenge response. -/
  | challenge (binding : Nat) (src : Nat) (version : Nat) (slot : Nat)
  /-- GET_MEASUREMENTS (R517). SPDM request for the signed measurement blocks. -/
  | getMeasurements (binding : Nat) (src : Nat) (version : Nat) (index : Nat) (signed : Bool)
  /-- CHUNK_GET (R516). SPDM request for the next chunk of a large response. -/
  | chunkGet (binding : Nat) (src : Nat) (version : Nat) (handle : Nat) (seq : Nat)
  /-- ENGINE_HANG (R505). An engine busy for 10 ms without progress fails its tile. -/
  | engineHang (tile : Nat)
  /-- WAKE_FAIL (R505). A tile clock or row wake not done within 1 ms fails the tile. -/
  | wakeFail (tile : Nat)
  /-- BOND_LINK_FAIL (R505). A bond port that cannot retrain within 50 µs fails its tile. -/
  | bondLinkFail (tile : Nat)
  /-- SPARE_SELF_TEST (R513). Every SPARE_TEST_H hours each idle spare runs its self-test. -/
  | spareSelfTest (tile : Nat) (passed : Bool)
  /-- REPAIR_STORE_WRITE (R504). A repair-map change is written to both copies, with retries. -/
  | repairStoreWrite (ok : Bool)
  /-- INJECT_HOLD_END (R591). An injected delay, back-pressure hold or throttle cap reaches its DURATION and is released. -/
  | injectHoldEnd (injector : Nat)
  /-- POWER_DOWN_DONE (R534). A domain's power-down finishes, letting a wake requested meanwhile take effect. -/
  | powerDownDone (domain : Nat)
  /-- D3HOT_EXIT (R562). A function returns from D3hot to D0 with all state kept and SQ reading resumed as FETCH allows. -/
  | d3hotExit (func : Nat)
  /-- PCIE_LINK_UP (R561). The PCIe link finishes training and HIF_LINK reports its speed, width and FLIT mode. -/
  | pcieLinkUp (speed : Nat) (width : Nat) (flit : Bool)
  /-- CPL_TIMEOUT (R573). A module read of host memory (SQ entry or payload) exceeds the PCIe completion timeout and fails. -/
  | cplTimeout (source : CplSource)
  /-- MCTP_OVER_PCIE_VDM (R568). An MCTP packet arrives as a PCIe vendor-defined message on the physical function. -/
  | mctpOverPcieVdm (func : Nat) (packet : McPkt)
  /-- INIT_REPEAT (R411). Every 1 ms during INIT the port sends its INIT flit again. -/
  | initRepeat (port : Nat)
  /-- FLASK_LINE_DROP (R452). The flask cache drops a line held in S of its own accord without sending a message. -/
  | flaskLineDrop (rank : Nat) (line : Nat)
  /-- HEARTBEAT (R285). The active control core reports its heartbeat to the ember controller. -/
  | heartbeat
  /-- HEARTBEAT_TIMEOUT (R285). After 5 ms without a heartbeat the ember controller isolates the core and promotes the standby. -/
  | heartbeatTimeout
  /-- CORE_ERROR_REPORT (R285). The active core reports an uncorrectable error in its own state, causing immediate failover. -/
  | coreErrorReport
  /-- ROUTE_START (R80). The routing engines take the next queued layer step by class and acceptance order and begin scoring. -/
  | routeStart
  /-- SELECTION_DONE (R84). Selection ends, counts are merged and the member sends its count record to every member. -/
  | selectionDone
  /-- LIST_BUILD_DONE (R99). Dispatch lists, capacity table and trip-count records are written and the data phase begins. -/
  | listBuildDone
  /-- SCHEDULE (R327). The scheduler binds a waiting stream to a free, lingering or held-back slot. -/
  | schedule
  /-- FENCE_DRAIN_DONE (R432). The fenced endpoint's outstanding packets are drained and EP_FENCE completes. -/
  | fenceDrainDone
  /-- QUARANTINE_END (R432). The 100 µs quarantine after a fence ends. -/
  | quarantineEnd
  /-- FLASK_JOIN_RETRY (R445). Every 100 µs JOIN is sent again to peers that have not answered. -/
  | flaskJoinRetry
  /-- FLASK_JOIN_TIMEOUT (R446). An incomplete join reaches TIMEOUT_US, sends ABORT_JOIN and completes with ST_NOT_CONFIRMED. -/
  | flaskJoinTimeout
  /-- CRITICAL_HOLD_END (R539). The 1 ms critical hold ends and ordinary throttling resumes. -/
  | criticalHoldEnd
  /-- SMOULDER_IDLE_TIMEOUT (R526). The idle conditions hold for SMOULDER_IDLE_US and entry to Smouldering starts. -/
  | smoulderIdleTimeout
  /-- SMOULDER_ENTRY (R526). A pending Smouldering request starts entry once its conditions hold. -/
  | smoulderEntry
  /-- WAKE_COMPLETE (R527). Domains are restored and the module is Stoked again. -/
  | wakeComplete
  /-- BANKED_ENTERED (R528). Entry to Banked completes with domains 1–34 off. -/
  | bankedEntered
  /-- MAIN_POWER_UP (R544). 54 V main arrives with standby present and bring-up starts. -/
  | mainPowerUp
  /-- MAIN_POWER_LOSS (R550). 54 V stays below 48 V for 100 µs and domains 1–34 switch off. -/
  | mainPowerLoss
  /-- STANDBY_POWER_UP (R541). 12 V standby arrives and the ember domain starts. -/
  | standbyPowerUp
  /-- STANDBY_LOSS (R550). 12 V standby stays below 10.8 V for 1 ms. -/
  | standbyLoss
  /-- AUTO_WARM_TIMEOUT (R541). AUTO_DELAY_MS after a fatal error the ember controller issues a warm reset. -/
  | autoWarmTimeout
  /-- PERST_ASSERT (R561). PERST# is asserted outside Banked, causing a warm reset. -/
  | perstAssert
  /-- PCIE_LINK_DOWN (R561). The PCIe link goes down, a conventional reset. -/
  | pcieLinkDown
  /-- VF_DISABLE (R567). Clearing VF Enable resets every virtual function. -/
  | vfDisable
  /-- PME_TURN_OFF (R563). A PME_Turn_Off outside Banked entry is answered with PME_TO_Ack. -/
  | pmeTurnOff
  /-- CHAIN_INPUT_LOCK (R552). The chain input locks after receiving idle. -/
  | chainInputLock
  /-- CHAIN_INPUT_LOST (R552). The chain input loses lock. -/
  | chainInputLost
  /-- DET_RECORD_START (R495). A DET_REC_CTL write from OFF to RECORD empties the ring and writes START. -/
  | detRecordStart
  /-- DET_REPLAY_START (R492). A DET_REC_CTL write of REPLAY starts feeding recorded commands. -/
  | detReplayStart
  /-- DET_REC_OFF (R495). A DET_REC_CTL write of MODE OFF stops recording or replay. -/
  | detRecOff
  /-- DET_REC_CLEAR (R495). A write of DET_REC_CTL.CLEAR that empties the ring. -/
  | detRecClear
  /-- REPLAY_FEED (R492). In replay, the next CMD record is fed to acceptance. -/
  | replayFeed
  /-- SMOULDER_ENTRY_DONE (R526). Entry to Smouldering finishes and PWR_STATUS.STATE leaves ENTERING for SMOULDERING. -/
  | smoulderEntryDone
  /-- DUTY_INTERVAL_END (R539). Under duty throttling each 20 µs interval ends, alternately allowing and holding MMA pass starts. -/
  | dutyIntervalEnd
  /-- HOT_RESET (R541). A PCIe hot reset received on the link causes a warm reset. -/
  | hotReset
  /-- DBG_RST (R551). Assertion of DBG_RST# on the debug header in test mode causes a module reset. -/
  | dbgRst
  deriving DecidableEq, Repr

end Sys2Proof
end

