-- ==== Sys2Proof/Decode.lean ====
section
/-!
DEFINITION. The command that a word spells. spec/opcode_table.json gives no row any bits: the block's commands are events and
packets, not instruction words, so no word spells one.
-/
namespace Sys2Proof

/-- The command of the table that `nbits` bits `_w` spell: none. -/
def decodeTableWord (_nbits _w : Nat) : Option Instr := none

end Sys2Proof
end

