-- ==== Sys2Proof/Config.lean ====
section
/-!
DEFINITION. What the spec leaves open, as constants without a body: nothing can evaluate them, so a statement holds
whatever they are. Each is applied to the operands it depends on, or to the model's own draw counter and the number of the
value within that draw.
-/
namespace Sys2Proof.Config

open Machine

/-- A byte whose value the spec leaves unspecified (R271, R273). -/
opaque freeByte : Nat → Nat → BitVec 8

/-- A byte of an uncommitted destination region as another reader sees it (R271, R273): the model's draw counter and the address. -/
opaque openByte : Nat → Nat → BitVec 8

/-- A 64-bit value the spec leaves unspecified, or gives no layout for. -/
opaque freeWord : Nat → Nat → BitVec 64

/-- A saved count of cycles: the ember tick at which it was saved, and the counter (R524). -/
opaque savedCount : Nat → Nat → BitVec 64

/-- A choice among `n` that the spec leaves to the module: a number below `n` is taken from it. -/
opaque freeChoice : Nat → Nat → Nat

/-- The FP32 value of a division whose result the spec does not state (R177, R601): by zero, and 0 / 0. -/
opaque divOpen : Int → Int → BitVec 32

/-- The FP32 value of the square root of a negative number, which the spec does not state (R177). -/
opaque sqrtOpen : Int → Int → BitVec 32

/-- The FP32 value of a function whose rounding the model's bounded evaluation does not settle (R65): function number,
numerator, denominator. -/
opaque elemOpen : Nat → Int → Nat → BitVec 32

/-- The 48 bytes of the identity digest, as a number (R515). -/
opaque identityDigest : Nat

/-- The SHA-384 digest of a thing that R515 to R517 have digested: its kind and its data. The spec gives no encoding of the data. -/
opaque sha384 : Nat → List (List Nat) → Nat

/-- An ECDSA P-384 signature by the device key, as a number of 768 bits, by its draw (R516, R517). -/
opaque signature : Nat → Nat

/-- A message as SPDM encodes it (R516): the encoding is that standard's. -/
opaque spdmBytes : SpdmMsg → List Byte

/-- The endpoint UUID of the MCTP endpoint, as a number of 128 bits (R568). -/
opaque endpointUuid : Nat

/-- The digest of a flask's LIST that JOIN carries (R445): of the endpoints, as a number. -/
opaque listDigest : Nat → BitVec 64

/-- The certificate chain of slot 0, as bytes (R514). -/
opaque certChain : List (BitVec 8)

/-- Whether firmware digest `n` has which value (R517): measurement blocks 1 to 3. -/
opaque firmwareDigest : Nat → Nat

/-- The blocks of a NAND channel, whose number the spec does not give (R378). -/
opaque nandBlocks : Nat

end Sys2Proof.Config
end

