-- ==== Sys2Proof/Machine/Registers.lean ====
section
/-!
DEFINITION. The BAR0 register tables of the spec (R6, R9–R11, R16 and each block's own register rule): for every
register its offset, its copies, and its fields with access code, reset value and the range a write may set.
Bits that no field covers are reserved: they read as zero and ignore writes (R10).
-/
namespace Sys2Proof.Machine

/-- The access codes of R11. -/
inductive Access where
  | ro | rw | wo | w1c | rc | rwl
  deriving DecidableEq, Repr

/-- One field of a register: its place, its access code, its reset value, and the values a write may set (R11). -/
structure FieldSpec where
  lo : Nat
  len : Nat
  acc : Access
  reset : Nat := 0
  min : Nat := 0
  max : Nat := 2 ^ 64
  unit : Nat := 1
  deriving DecidableEq, Repr

/-- One register, or `n` copies of it `stride` bytes apart. `perFn`: one copy for each function (R289, R566). -/
structure RegSpec where
  base : Nat
  n : Nat := 1
  stride : Nat := 8
  perFn : Bool := false
  fields : List FieldSpec := []
  deriving DecidableEq, Repr

/-- A field named by its register and its place there. -/
structure FieldRef where
  reg : RegSpec
  lo : Nat
  len : Nat
  deriving DecidableEq, Repr

namespace Reg

/-- CP_ID (R289). -/
def CP_ID : RegSpec := { base := 0x0, fields := [
  { lo := 0, len := 8, acc := .ro, reset := 3 },
  { lo := 8, len := 8, acc := .ro, reset := 1 },
  { lo := 16, len := 11, acc := .ro, reset := 1024 },
  { lo := 32, len := 11, acc := .ro, reset := 1024 }] }
/-- CP_CTL (R289). -/
def CP_CTL : RegSpec := { base := 0x8, perFn := true, fields := [
  { lo := 0, len := 1, acc := .rw },
  { lo := 1, len := 1, acc := .rw },
  { lo := 2, len := 1, acc := .rw, reset := 1 }] }
/-- CP_STATUS (R289). -/
def CP_STATUS : RegSpec := { base := 0x10, perFn := true, fields := [
  { lo := 0, len := 1, acc := .ro },
  { lo := 1, len := 1, acc := .ro },
  { lo := 2, len := 1, acc := .ro },
  { lo := 3, len := 1, acc := .ro },
  { lo := 16, len := 16, acc := .ro }] }
/-- CP_ERR (R289). -/
def CP_ERR : RegSpec := { base := 0x18, perFn := true, fields := [
  { lo := 0, len := 1, acc := .w1c },
  { lo := 1, len := 1, acc := .w1c },
  { lo := 2, len := 1, acc := .w1c },
  { lo := 3, len := 1, acc := .w1c },
  { lo := 4, len := 1, acc := .w1c },
  { lo := 5, len := 1, acc := .w1c }] }
/-- CP_ERR_INFO (R289). -/
def CP_ERR_INFO : RegSpec := { base := 0x20, perFn := true, fields := [
  { lo := 0, len := 6, acc := .ro },
  { lo := 6, len := 10, acc := .ro },
  { lo := 16, len := 4, acc := .ro },
  { lo := 32, len := 32, acc := .ro }] }
/-- CP_ASQ (R289). -/
def CP_ASQ : RegSpec := { base := 0x28, perFn := true, fields := [
  { lo := 12, len := 52, acc := .rw }] }
/-- CP_ACQ (R289). -/
def CP_ACQ : RegSpec := { base := 0x30, perFn := true, fields := [
  { lo := 12, len := 52, acc := .rw }] }
/-- CP_AQ_CFG (R289). -/
def CP_AQ_CFG : RegSpec := { base := 0x38, perFn := true, fields := [
  { lo := 0, len := 5, acc := .rw, reset := 6, min := 1, max := 16 },
  { lo := 8, len := 5, acc := .rw, reset := 6, min := 1, max := 16 },
  { lo := 16, len := 11, acc := .rw },
  { lo := 27, len := 1, acc := .rw, reset := 1 }] }
/-- JRN_CTL (R290). -/
def JRN_CTL : RegSpec := { base := 0x100000, fields := [
  { lo := 0, len := 1, acc := .rw },
  { lo := 1, len := 1, acc := .rw, reset := 1 }] }
/-- JRN_BASE (R290). -/
def JRN_BASE : RegSpec := { base := 0x100008, fields := [
  { lo := 20, len := 16, acc := .rw, reset := 65472 },
  { lo := 40, len := 5, acc := .rw, reset := 26 }] }
/-- JRN_EPOCH (R290). -/
def JRN_EPOCH : RegSpec := { base := 0x100010, fields := [
  { lo := 0, len := 32, acc := .ro },
  { lo := 32, len := 32, acc := .ro }] }
/-- JRN_HEAD (R290). -/
def JRN_HEAD : RegSpec := { base := 0x100018, fields := [
  { lo := 0, len := 64, acc := .ro, reset := 2 }] }
/-- JRN_OLDEST (R290). -/
def JRN_OLDEST : RegSpec := { base := 0x100020, fields := [
  { lo := 0, len := 64, acc := .ro, reset := 1 }] }
/-- JRN_POS (R290). -/
def JRN_POS : RegSpec := { base := 0x100028, fields := [
  { lo := 0, len := 23, acc := .ro, reset := 1 }] }
/-- JRN_ACK (R290). -/
def JRN_ACK : RegSpec := { base := 0x100030, fields := [
  { lo := 0, len := 64, acc := .rw }] }
/-- JRN_FLUSH (R290). -/
def JRN_FLUSH : RegSpec := { base := 0x100038, fields := [
  { lo := 0, len := 32, acc := .ro }] }
/-- JRN_ERR (R290). -/
def JRN_ERR : RegSpec := { base := 0x100040, fields := [
  { lo := 0, len := 1, acc := .w1c },
  { lo := 1, len := 1, acc := .w1c },
  { lo := 2, len := 1, acc := .w1c },
  { lo := 3, len := 1, acc := .w1c },
  { lo := 4, len := 1, acc := .w1c }] }
/-- CTX_ID (R355). -/
def CTX_ID : RegSpec := { base := 0x200000, fields := [
  { lo := 0, len := 19, acc := .ro, reset := 262144 },
  { lo := 32, len := 14, acc := .ro, reset := 8192 },
  { lo := 46, len := 7, acc := .ro, reset := 64 },
  { lo := 53, len := 3, acc := .ro, reset := 4 }] }
/-- CTX_CTL (R355). -/
def CTX_CTL : RegSpec := { base := 0x200008, fields := [
  { lo := 0, len := 1, acc := .rw, reset := 1 },
  { lo := 1, len := 1, acc := .rw, reset := 1 },
  { lo := 2, len := 1, acc := .rw, reset := 1 }] }
/-- CTX_STATUS (R355). -/
def CTX_STATUS : RegSpec := { base := 0x200010, fields := [
  { lo := 0, len := 7, acc := .ro },
  { lo := 8, len := 7, acc := .ro },
  { lo := 16, len := 7, acc := .ro },
  { lo := 24, len := 7, acc := .ro },
  { lo := 32, len := 4, acc := .ro },
  { lo := 40, len := 16, acc := .ro }] }
/-- CTX_TIMERS (R355). -/
def CTX_TIMERS : RegSpec := { base := 0x200018, fields := [
  { lo := 0, len := 20, acc := .rw, reset := 2000, min := 100, max := 600000 },
  { lo := 32, len := 24, acc := .rw, reset := 1000, min := 10, max := 16000000 }] }
/-- CTX_QUERY (R355). -/
def CTX_QUERY : RegSpec := { base := 0x200020, perFn := true, fields := [
  { lo := 0, len := 18, acc := .rw },
  { lo := 18, len := 6, acc := .rw }] }
/-- CTX_QUERY_CTX (R355). -/
def CTX_QUERY_CTX : RegSpec := { base := 0x200028, fields := [
  { lo := 0, len := 1, acc := .ro },
  { lo := 1, len := 2, acc := .ro },
  { lo := 3, len := 2, acc := .ro },
  { lo := 5, len := 6, acc := .ro },
  { lo := 11, len := 1, acc := .ro },
  { lo := 12, len := 7, acc := .ro },
  { lo := 32, len := 16, acc := .ro }] }
/-- CTX_QUERY_STREAM (R355). -/
def CTX_QUERY_STREAM : RegSpec := { base := 0x200030, fields := [
  { lo := 0, len := 3, acc := .ro },
  { lo := 3, len := 1, acc := .ro },
  { lo := 4, len := 2, acc := .ro },
  { lo := 6, len := 7, acc := .ro, reset := 127 },
  { lo := 16, len := 16, acc := .ro },
  { lo := 32, len := 16, acc := .ro }] }
/-- CTX_QUERY_PROGRESS (R355). -/
def CTX_QUERY_PROGRESS : RegSpec := { base := 0x200038, fields := [
  { lo := 0, len := 64, acc := .ro }] }
/-- CTX_ERR (R355). -/
def CTX_ERR : RegSpec := { base := 0x200040, fields := [
  { lo := 0, len := 1, acc := .w1c },
  { lo := 1, len := 1, acc := .w1c },
  { lo := 2, len := 1, acc := .w1c }] }
/-- CTX_ERR_INFO (R355). -/
def CTX_ERR_INFO : RegSpec := { base := 0x200048, fields := [
  { lo := 0, len := 18, acc := .ro },
  { lo := 18, len := 6, acc := .ro },
  { lo := 24, len := 4, acc := .ro },
  { lo := 28, len := 4, acc := .ro },
  { lo := 32, len := 8, acc := .ro }] }
/-- CTX_SLOT (R355). -/
def CTX_SLOT : RegSpec := { base := 0x201000, n := 64, stride := 8, fields := [
  { lo := 0, len := 1, acc := .ro },
  { lo := 1, len := 1, acc := .ro },
  { lo := 2, len := 2, acc := .ro },
  { lo := 4, len := 3, acc := .ro },
  { lo := 8, len := 18, acc := .ro },
  { lo := 26, len := 6, acc := .ro }] }
/-- HOP_ID (R357). -/
def HOP_ID : RegSpec := { base := 0x300000, fields := [
  { lo := 0, len := 3, acc := .ro, reset := 4 },
  { lo := 16, len := 10, acc := .ro, reset := 1023 },
  { lo := 32, len := 21, acc := .ro, reset := 1048576 }] }
/-- HOP_CTL (R357). -/
def HOP_CTL : RegSpec := { base := 0x300008, fields := [
  { lo := 0, len := 1, acc := .rw, reset := 1 }] }
/-- HOP_ERR (R357). -/
def HOP_ERR : RegSpec := { base := 0x300010, fields := [
  { lo := 0, len := 1, acc := .w1c },
  { lo := 1, len := 1, acc := .w1c }] }
/-- HOP_ERR_INFO (R357). -/
def HOP_ERR_INFO : RegSpec := { base := 0x300018, fields := [
  { lo := 0, len := 10, acc := .ro },
  { lo := 10, len := 6, acc := .ro },
  { lo := 16, len := 2, acc := .ro },
  { lo := 20, len := 4, acc := .ro },
  { lo := 32, len := 20, acc := .ro }] }
/-- HOP_QUERY (R357). -/
def HOP_QUERY : RegSpec := { base := 0x300020, perFn := true, fields := [
  { lo := 0, len := 10, acc := .rw },
  { lo := 10, len := 6, acc := .rw },
  { lo := 16, len := 2, acc := .rw },
  { lo := 18, len := 18, acc := .rw }] }
/-- HOP_QUERY_CFG (R357). -/
def HOP_QUERY_CFG : RegSpec := { base := 0x300028, fields := [
  { lo := 0, len := 1, acc := .ro },
  { lo := 1, len := 1, acc := .ro },
  { lo := 2, len := 1, acc := .ro },
  { lo := 3, len := 2, acc := .ro },
  { lo := 16, len := 10, acc := .ro },
  { lo := 32, len := 21, acc := .ro }] }
/-- HOP_QUERY_USE (R357). -/
def HOP_QUERY_USE : RegSpec := { base := 0x300030, fields := [
  { lo := 0, len := 21, acc := .ro },
  { lo := 32, len := 21, acc := .ro }] }
/-- HOP_QUERY_CTX (R357). -/
def HOP_QUERY_CTX : RegSpec := { base := 0x300038, fields := [
  { lo := 0, len := 21, acc := .ro },
  { lo := 32, len := 21, acc := .ro }] }
/-- HOP_QUERY_RING (R357). -/
def HOP_QUERY_RING : RegSpec := { base := 0x300040, fields := [
  { lo := 0, len := 20, acc := .ro },
  { lo := 32, len := 21, acc := .ro }] }
/-- HOP_QUERY_BUF (R357). -/
def HOP_QUERY_BUF : RegSpec := { base := 0x300048, fields := [
  { lo := 0, len := 36, acc := .ro }] }
/-- HOP_QUERY_LINK (R357). -/
def HOP_QUERY_LINK : RegSpec := { base := 0x300050, fields := [
  { lo := 0, len := 36, acc := .ro }] }
/-- RTE_ID (R106). -/
def RTE_ID : RegSpec := { base := 0x400000, n := 4, stride := 262144, fields := [
  { lo := 0, len := 2, acc := .ro },
  { lo := 2, len := 1, acc := .ro },
  { lo := 8, len := 8, acc := .ro, reset := 128 },
  { lo := 16, len := 5, acc := .ro, reset := 16 }] }
/-- RTE_CTL (R106). -/
def RTE_CTL : RegSpec := { base := 0x400008, n := 4, stride := 262144, fields := [
  { lo := 0, len := 1, acc := .rw },
  { lo := 1, len := 1, acc := .rw, reset := 1 }] }
/-- RTE_STATUS (R106). -/
def RTE_STATUS : RegSpec := { base := 0x400010, n := 4, stride := 262144, fields := [
  { lo := 0, len := 1, acc := .ro },
  { lo := 1, len := 3, acc := .ro },
  { lo := 4, len := 1, acc := .ro },
  { lo := 5, len := 6, acc := .ro },
  { lo := 11, len := 6, acc := .ro },
  { lo := 17, len := 10, acc := .ro },
  { lo := 27, len := 1, acc := .ro },
  { lo := 32, len := 18, acc := .ro }] }
/-- RTE_ERR (R106). -/
def RTE_ERR : RegSpec := { base := 0x400018, n := 4, stride := 262144, fields := [
  { lo := 0, len := 1, acc := .w1c },
  { lo := 1, len := 1, acc := .w1c },
  { lo := 2, len := 1, acc := .w1c },
  { lo := 3, len := 1, acc := .w1c }] }
/-- RTE_ERR_INFO (R106). -/
def RTE_ERR_INFO : RegSpec := { base := 0x400020, n := 4, stride := 262144, fields := [
  { lo := 0, len := 18, acc := .ro },
  { lo := 18, len := 10, acc := .ro },
  { lo := 28, len := 4, acc := .ro },
  { lo := 32, len := 27, acc := .ro }] }
/-- RTE_LAST_SWITCH (R106). -/
def RTE_LAST_SWITCH : RegSpec := { base := 0x400028, n := 4, stride := 262144, fields := [
  { lo := 0, len := 18, acc := .ro },
  { lo := 18, len := 10, acc := .ro },
  { lo := 28, len := 1, acc := .ro },
  { lo := 32, len := 16, acc := .ro }] }
/-- RTE_SWITCH_MSC (R106). -/
def RTE_SWITCH_MSC : RegSpec := { base := 0x400030, n := 4, stride := 262144, fields := [
  { lo := 0, len := 64, acc := .ro }] }
/-- RUN_ID (R151). -/
def RUN_ID : RegSpec := { base := 0x500000, fields := [
  { lo := 0, len := 3, acc := .ro, reset := 4 },
  { lo := 16, len := 14, acc := .ro, reset := 8192 },
  { lo := 32, len := 13, acc := .ro, reset := 4096 }] }
/-- RUN_CTL (R151). -/
def RUN_CTL : RegSpec := { base := 0x500008, fields := [
  { lo := 0, len := 1, acc := .rw },
  { lo := 1, len := 1, acc := .rw, reset := 1 }] }
/-- RUN_STATUS (R151). -/
def RUN_STATUS : RegSpec := { base := 0x500010, fields := [
  { lo := 0, len := 4, acc := .ro },
  { lo := 4, len := 1, acc := .ro },
  { lo := 8, len := 11, acc := .ro },
  { lo := 32, len := 8, acc := .ro }] }
/-- RUN_ERR (R151). -/
def RUN_ERR : RegSpec := { base := 0x500018, fields := [
  { lo := 0, len := 1, acc := .w1c },
  { lo := 1, len := 1, acc := .w1c },
  { lo := 2, len := 1, acc := .w1c },
  { lo := 3, len := 1, acc := .w1c },
  { lo := 4, len := 1, acc := .w1c },
  { lo := 5, len := 1, acc := .w1c }] }
/-- RUN_ERR_INFO (R151). -/
def RUN_ERR_INFO : RegSpec := { base := 0x500020, fields := [
  { lo := 0, len := 16, acc := .ro },
  { lo := 16, len := 11, acc := .ro },
  { lo := 28, len := 4, acc := .ro },
  { lo := 32, len := 32, acc := .ro }] }
/-- RUN_CLASS_MAP (R151). -/
def RUN_CLASS_MAP : RegSpec := { base := 0x500028, fields := [
  { lo := 0, len := 3, acc := .rw, reset := 7 },
  { lo := 4, len := 3, acc := .rw, reset := 6 },
  { lo := 8, len := 3, acc := .rw, reset := 2 },
  { lo := 12, len := 3, acc := .rw, reset := 3 },
  { lo := 16, len := 3, acc := .rw, reset := 4 }] }
/-- RUN_CLASS_WEIGHT (R151). -/
def RUN_CLASS_WEIGHT : RegSpec := { base := 0x500030, fields := [
  { lo := 0, len := 8, acc := .rw, reset := 4 },
  { lo := 8, len := 8, acc := .rw, reset := 4 },
  { lo := 16, len := 8, acc := .rw, reset := 2 }] }
/-- RUN_STALE_DROPS (R151). -/
def RUN_STALE_DROPS : RegSpec := { base := 0x500038, fields := [
  { lo := 0, len := 48, acc := .ro }] }
/-- RUN_TRIG (R151). -/
def RUN_TRIG : RegSpec := { base := 0x580000, n := 65536, stride := 8, fields := [
  { lo := 0, len := 64, acc := .ro }] }
/-- TIL_ID (R185). -/
def TIL_ID : RegSpec := { base := 0x600000, n := 152, stride := 4096, fields := [
  { lo := 0, len := 8, acc := .ro },
  { lo := 8, len := 5, acc := .ro },
  { lo := 13, len := 3, acc := .ro },
  { lo := 16, len := 2, acc := .ro },
  { lo := 20, len := 8, acc := .ro },
  { lo := 28, len := 2, acc := .ro }] }
/-- TIL_CTL (R185). -/
def TIL_CTL : RegSpec := { base := 0x600008, n := 152, stride := 4096, fields := [
  { lo := 0, len := 1, acc := .rw },
  { lo := 1, len := 1, acc := .rw, reset := 1 },
  { lo := 2, len := 1, acc := .rw }] }
/-- TIL_STATUS (R185). -/
def TIL_STATUS : RegSpec := { base := 0x600010, n := 152, stride := 4096, fields := [
  { lo := 0, len := 1, acc := .ro },
  { lo := 1, len := 1, acc := .ro },
  { lo := 2, len := 1, acc := .ro },
  { lo := 3, len := 1, acc := .ro },
  { lo := 4, len := 1, acc := .ro },
  { lo := 5, len := 1, acc := .ro },
  { lo := 6, len := 1, acc := .ro },
  { lo := 7, len := 1, acc := .ro },
  { lo := 8, len := 2, acc := .ro },
  { lo := 10, len := 2, acc := .ro },
  { lo := 12, len := 1, acc := .ro },
  { lo := 13, len := 1, acc := .ro },
  { lo := 16, len := 6, acc := .ro },
  { lo := 32, len := 18, acc := .ro }] }
/-- TIL_FAULT (R185). -/
def TIL_FAULT : RegSpec := { base := 0x600018, n := 152, stride := 4096, fields := [
  { lo := 0, len := 7, acc := .w1c },
  { lo := 16, len := 16, acc := .w1c }] }
/-- TIL_FAULT_INFO (R185). -/
def TIL_FAULT_INFO : RegSpec := { base := 0x600020, n := 152, stride := 4096, fields := [
  { lo := 0, len := 18, acc := .ro },
  { lo := 18, len := 6, acc := .ro },
  { lo := 24, len := 5, acc := .ro },
  { lo := 32, len := 27, acc := .ro }] }
/-- TIL_ECC (R185). -/
def TIL_ECC : RegSpec := { base := 0x600028, n := 152, stride := 4096, fields := [
  { lo := 0, len := 16, acc := .rc },
  { lo := 16, len := 22, acc := .ro }] }
/-- TIL_STK_STATUS (R249). -/
def TIL_STK_STATUS : RegSpec := { base := 0x600030, n := 152, stride := 4096, fields := [
  { lo := 0, len := 15, acc := .ro },
  { lo := 16, len := 6, acc := .ro },
  { lo := 22, len := 1, acc := .ro },
  { lo := 23, len := 1, acc := .ro },
  { lo := 24, len := 1, acc := .ro },
  { lo := 25, len := 1, acc := .ro },
  { lo := 26, len := 6, acc := .ro },
  { lo := 32, len := 7, acc := .ro }] }
/-- TIL_IBANK (R249). -/
def TIL_IBANK : RegSpec := { base := 0x600038, n := 152, stride := 4096, fields := [
  { lo := 0, len := 16, acc := .ro },
  { lo := 16, len := 16, acc := .ro },
  { lo := 32, len := 1, acc := .ro },
  { lo := 33, len := 1, acc := .ro },
  { lo := 34, len := 1, acc := .ro }] }
/-- TIL_STK_QUEUE (R249). -/
def TIL_STK_QUEUE : RegSpec := { base := 0x600040, n := 152, stride := 4096, fields := [
  { lo := 0, len := 5, acc := .ro },
  { lo := 8, len := 6, acc := .ro },
  { lo := 16, len := 5, acc := .ro },
  { lo := 24, len := 4, acc := .ro }] }
/-- TIL_STK_EVENT_LO (R249). -/
def TIL_STK_EVENT_LO : RegSpec := { base := 0x600048, n := 152, stride := 4096, fields := [
  { lo := 0, len := 8, acc := .ro },
  { lo := 8, len := 8, acc := .ro },
  { lo := 16, len := 8, acc := .ro },
  { lo := 24, len := 8, acc := .ro },
  { lo := 32, len := 8, acc := .ro },
  { lo := 40, len := 8, acc := .ro },
  { lo := 48, len := 8, acc := .ro },
  { lo := 56, len := 8, acc := .ro }] }
/-- TIL_STK_EVENT_HI (R249). -/
def TIL_STK_EVENT_HI : RegSpec := { base := 0x600050, n := 152, stride := 4096, fields := [
  { lo := 0, len := 8, acc := .ro },
  { lo := 8, len := 8, acc := .ro },
  { lo := 16, len := 8, acc := .ro },
  { lo := 24, len := 8, acc := .ro },
  { lo := 32, len := 8, acc := .ro },
  { lo := 40, len := 8, acc := .ro },
  { lo := 48, len := 8, acc := .ro },
  { lo := 56, len := 8, acc := .ro }] }
/-- TIL_STK_STALL (R249). -/
def TIL_STK_STALL : RegSpec := { base := 0x600058, n := 152, stride := 4096, fields := [
  { lo := 0, len := 32, acc := .rc },
  { lo := 32, len := 32, acc := .rc }] }
/-- SKP_ID (R211). -/
def SKP_ID : RegSpec := { base := 0x700000, fields := [
  { lo := 0, len := 8, acc := .ro, reset := 152 },
  { lo := 16, len := 16, acc := .ro, reset := 8192 },
  { lo := 32, len := 16, acc := .ro, reset := 1024 }] }
/-- SKP_CTL (R211). -/
def SKP_CTL : RegSpec := { base := 0x700008, fields := [
  { lo := 0, len := 1, acc := .rw, reset := 1 },
  { lo := 1, len := 1, acc := .rw, reset := 1 },
  { lo := 2, len := 1, acc := .rw, reset := 1 }] }
/-- SKP_STATUS (R211). -/
def SKP_STATUS : RegSpec := { base := 0x700010, fields := [
  { lo := 0, len := 8, acc := .ro },
  { lo := 8, len := 8, acc := .ro }] }
/-- SKP_ERR (R211). -/
def SKP_ERR : RegSpec := { base := 0x700018, fields := [
  { lo := 0, len := 1, acc := .w1c },
  { lo := 1, len := 1, acc := .w1c }] }
/-- SKP_ERR_INFO (R211). -/
def SKP_ERR_INFO : RegSpec := { base := 0x700020, fields := [
  { lo := 0, len := 18, acc := .ro },
  { lo := 18, len := 8, acc := .ro },
  { lo := 26, len := 4, acc := .ro },
  { lo := 32, len := 16, acc := .ro },
  { lo := 48, len := 6, acc := .ro }] }
/-- WSP_ID (R399). -/
def WSP_ID : RegSpec := { base := 0x800000, fields := [
  { lo := 0, len := 16, acc := .ro, reset := 45712 },
  { lo := 16, len := 5, acc := .ro, reset := 24 },
  { lo := 32, len := 26, acc := .ro, reset := 33554432 }] }
/-- WSP_CTL (R399). -/
def WSP_CTL : RegSpec := { base := 0x800008, fields := [
  { lo := 0, len := 1, acc := .rw, reset := 1 },
  { lo := 1, len := 1, acc := .rw, reset := 1 },
  { lo := 2, len := 1, acc := .rw, reset := 1 }] }
/-- WSP_STATUS (R399). -/
def WSP_STATUS : RegSpec := { base := 0x800010, fields := [
  { lo := 0, len := 24, acc := .ro },
  { lo := 24, len := 1, acc := .ro },
  { lo := 25, len := 1, acc := .ro },
  { lo := 32, len := 21, acc := .ro }] }
/-- WSP_UNPLACED (R399). -/
def WSP_UNPLACED : RegSpec := { base := 0x800018, fields := [
  { lo := 0, len := 25, acc := .ro }] }
/-- WSP_ERR (R399). -/
def WSP_ERR : RegSpec := { base := 0x800020, fields := [
  { lo := 0, len := 1, acc := .w1c },
  { lo := 1, len := 1, acc := .w1c },
  { lo := 2, len := 1, acc := .w1c },
  { lo := 3, len := 1, acc := .w1c },
  { lo := 4, len := 1, acc := .w1c },
  { lo := 5, len := 1, acc := .w1c },
  { lo := 6, len := 1, acc := .w1c }] }
/-- WSP_ERR_INFO (R399). -/
def WSP_ERR_INFO : RegSpec := { base := 0x800028, fields := [
  { lo := 0, len := 27, acc := .ro },
  { lo := 27, len := 5, acc := .ro },
  { lo := 32, len := 4, acc := .ro },
  { lo := 36, len := 20, acc := .ro }] }
/-- WSP_ERR_INFO2 (R399). -/
def WSP_ERR_INFO2 : RegSpec := { base := 0x800030, fields := [
  { lo := 0, len := 16, acc := .ro },
  { lo := 16, len := 16, acc := .ro }] }
/-- WSP_QUERY (R399). -/
def WSP_QUERY : RegSpec := { base := 0x800038, perFn := true, fields := [
  { lo := 0, len := 27, acc := .rw }] }
/-- WSP_QUERY_D (R399). -/
def WSP_QUERY_D : RegSpec := { base := 0x800040, n := 4, stride := 8, fields := [
  { lo := 0, len := 64, acc := .ro }] }
/-- WSP_STACK (R399). -/
def WSP_STACK : RegSpec := { base := 0x800100, n := 24, stride := 8, fields := [
  { lo := 0, len := 2, acc := .ro },
  { lo := 2, len := 16, acc := .ro },
  { lo := 18, len := 11, acc := .ro },
  { lo := 29, len := 7, acc := .ro },
  { lo := 36, len := 16, acc := .rc }] }
/-- NTL_ID (R402). -/
def NTL_ID : RegSpec := { base := 0x900000, fields := [
  { lo := 0, len := 5, acc := .ro, reset := 16 },
  { lo := 8, len := 8, acc := .ro, reset := 15 },
  { lo := 32, len := 25, acc := .ro, reset := 28610229 }] }
/-- NTL_CTL (R402). -/
def NTL_CTL : RegSpec := { base := 0x900008, fields := [
  { lo := 0, len := 1, acc := .rw, reset := 1 },
  { lo := 1, len := 1, acc := .rw, reset := 1 },
  { lo := 2, len := 1, acc := .rw, reset := 1 },
  { lo := 3, len := 1, acc := .rw, reset := 1 }] }
/-- NTL_CFG (R402). -/
def NTL_CFG : RegSpec := { base := 0x900010, fields := [
  { lo := 0, len := 32, acc := .rw, reset := 50000, min := 1000, max := 1000000 },
  { lo := 32, len := 16, acc := .rw, reset := 168, min := 1, max := 8760 },
  { lo := 48, len := 16, acc := .rw, reset := 500, min := 50, max := 5000 }] }
/-- NTL_STATUS (R402). -/
def NTL_STATUS : RegSpec := { base := 0x900018, fields := [
  { lo := 0, len := 16, acc := .ro },
  { lo := 16, len := 1, acc := .ro },
  { lo := 24, len := 8, acc := .ro },
  { lo := 32, len := 25, acc := .ro }] }
/-- NTL_ERR (R402). -/
def NTL_ERR : RegSpec := { base := 0x900020, fields := [
  { lo := 0, len := 1, acc := .w1c },
  { lo := 1, len := 1, acc := .w1c },
  { lo := 2, len := 1, acc := .w1c },
  { lo := 3, len := 1, acc := .w1c },
  { lo := 4, len := 1, acc := .w1c }] }
/-- NTL_ERR_INFO (R402). -/
def NTL_ERR_INFO : RegSpec := { base := 0x900028, fields := [
  { lo := 0, len := 4, acc := .ro },
  { lo := 4, len := 4, acc := .ro },
  { lo := 32, len := 25, acc := .ro }] }
/-- FAB_PORT_ID (R440). -/
def FAB_PORT_ID : RegSpec := { base := 0xA00000, n := 20, stride := 4096, fields := [
  { lo := 0, len := 5, acc := .ro },
  { lo := 5, len := 2, acc := .ro },
  { lo := 7, len := 2, acc := .ro },
  { lo := 9, len := 3, acc := .ro }] }
/-- FAB_PORT_CTL (R440). -/
def FAB_PORT_CTL : RegSpec := { base := 0xA00008, n := 20, stride := 4096, fields := [
  { lo := 0, len := 1, acc := .rw, reset := 1 },
  { lo := 1, len := 1, acc := .rw },
  { lo := 2, len := 1, acc := .rw, reset := 1 },
  { lo := 3, len := 1, acc := .wo },
  { lo := 4, len := 1, acc := .rw, reset := 1 },
  { lo := 5, len := 1, acc := .rw, reset := 1 }] }
/-- FAB_PORT_STATUS (R440). -/
def FAB_PORT_STATUS : RegSpec := { base := 0xA00010, n := 20, stride := 4096, fields := [
  { lo := 0, len := 3, acc := .ro },
  { lo := 3, len := 3, acc := .ro },
  { lo := 6, len := 1, acc := .ro },
  { lo := 7, len := 1, acc := .ro },
  { lo := 8, len := 4, acc := .ro },
  { lo := 12, len := 4, acc := .ro },
  { lo := 32, len := 16, acc := .ro }] }
/-- FAB_PORT_PEER (R440). -/
def FAB_PORT_PEER : RegSpec := { base := 0xA00018, n := 20, stride := 4096, fields := [
  { lo := 0, len := 20, acc := .ro },
  { lo := 20, len := 5, acc := .ro },
  { lo := 25, len := 1, acc := .ro },
  { lo := 32, len := 32, acc := .ro }] }
/-- FAB_PORT_LANES (R440). -/
def FAB_PORT_LANES : RegSpec := { base := 0xA00020, n := 20, stride := 4096, fields := [
  { lo := 0, len := 1, acc := .ro },
  { lo := 8, len := 1, acc := .ro },
  { lo := 16, len := 1, acc := .ro },
  { lo := 24, len := 1, acc := .ro },
  { lo := 1, len := 1, acc := .ro },
  { lo := 9, len := 1, acc := .ro },
  { lo := 17, len := 1, acc := .ro },
  { lo := 25, len := 1, acc := .ro },
  { lo := 2, len := 1, acc := .ro },
  { lo := 10, len := 1, acc := .ro },
  { lo := 18, len := 1, acc := .ro },
  { lo := 26, len := 1, acc := .ro }] }
/-- FAB_PORT_ERR (R440). -/
def FAB_PORT_ERR : RegSpec := { base := 0xA00028, n := 20, stride := 4096, fields := [
  { lo := 0, len := 1, acc := .w1c },
  { lo := 1, len := 1, acc := .w1c },
  { lo := 2, len := 1, acc := .w1c },
  { lo := 3, len := 1, acc := .w1c },
  { lo := 4, len := 1, acc := .w1c },
  { lo := 5, len := 1, acc := .w1c },
  { lo := 6, len := 1, acc := .w1c }] }
/-- XRT_ID (R442). -/
def XRT_ID : RegSpec := { base := 0xB00000, fields := [
  { lo := 0, len := 3, acc := .ro, reset := 4 },
  { lo := 3, len := 4, acc := .ro, reset := 8 },
  { lo := 7, len := 4, acc := .ro, reset := 12 },
  { lo := 16, len := 13, acc := .ro, reset := 4096 },
  { lo := 32, len := 16, acc := .ro, reset := 32768 },
  { lo := 48, len := 11, acc := .ro, reset := 1024 }] }
/-- XRT_CTL (R442). -/
def XRT_CTL : RegSpec := { base := 0xB00008, fields := [
  { lo := 0, len := 1, acc := .rw, reset := 1 }] }
/-- XRT_TOPO (R442). -/
def XRT_TOPO : RegSpec := { base := 0xB00010, fields := [
  { lo := 0, len := 2, acc := .rw, max := 1 },
  { lo := 2, len := 4, acc := .rw, reset := 8, min := 1, max := 8 },
  { lo := 6, len := 4, acc := .rw, reset := 8, min := 1, max := 8 },
  { lo := 10, len := 15, acc := .rw, reset := 1, min := 1, max := 16384 },
  { lo := 32, len := 5, acc := .rw, reset := 1, min := 1, max := 16 },
  { lo := 37, len := 5, acc := .rw, reset := 1, min := 1, max := 16 },
  { lo := 42, len := 5, acc := .rw, reset := 1, min := 1, max := 16 }] }
/-- XRT_SPRAY (R442). -/
def XRT_SPRAY : RegSpec := { base := 0xB00018, fields := [
  { lo := 0, len := 2, acc := .rw, reset := 1, max := 2 },
  { lo := 8, len := 8, acc := .rw, reset := 16 }] }
/-- XRT_VC_WEIGHT (R442). -/
def XRT_VC_WEIGHT : RegSpec := { base := 0xB00020, fields := [
  { lo := 0, len := 8, acc := .rw, reset := 2 },
  { lo := 8, len := 8, acc := .rw, reset := 2 },
  { lo := 16, len := 8, acc := .rw, reset := 4 },
  { lo := 24, len := 8, acc := .rw, reset := 4 },
  { lo := 32, len := 8, acc := .rw, reset := 2 },
  { lo := 40, len := 8, acc := .rw, reset := 1 },
  { lo := 48, len := 8, acc := .rw, reset := 8 },
  { lo := 56, len := 8, acc := .rw, reset := 8 }] }
/-- XRT_LIMITS (R442). -/
def XRT_LIMITS : RegSpec := { base := 0xB00028, fields := [
  { lo := 0, len := 4, acc := .ro, reset := 12 },
  { lo := 16, len := 9, acc := .ro, reset := 500 },
  { lo := 32, len := 16, acc := .rw, reset := 200, min := 100, max := 10000 },
  { lo := 48, len := 4, acc := .rw, reset := 8, min := 1 }] }
/-- XRT_THROTTLE (R442). -/
def XRT_THROTTLE : RegSpec := { base := 0xB00030, fields := [
  { lo := 0, len := 16, acc := .rw, reset := 128, min := 16, max := 448 },
  { lo := 16, len := 16, acc := .rw, reset := 64 },
  { lo := 32, len := 16, acc := .rw, reset := 64, min := 1 }] }
/-- XRT_EP (R442). -/
def XRT_EP : RegSpec := { base := 0xB00038, fields := [
  { lo := 0, len := 20, acc := .ro },
  { lo := 20, len := 1, acc := .ro },
  { lo := 21, len := 1, acc := .ro },
  { lo := 22, len := 1, acc := .ro },
  { lo := 23, len := 1, acc := .ro },
  { lo := 32, len := 16, acc := .ro },
  { lo := 48, len := 16, acc := .ro }] }
/-- XRT_QUAR_END (R442). -/
def XRT_QUAR_END : RegSpec := { base := 0xB00040, fields := [
  { lo := 0, len := 64, acc := .ro }] }
/-- XRT_CFG (R442). -/
def XRT_CFG : RegSpec := { base := 0xB00048, fields := [
  { lo := 0, len := 3, acc := .rw, reset := 5 }] }
/-- XRT_PORT_ROLE (R442). -/
def XRT_PORT_ROLE : RegSpec := { base := 0xB00050, fields := [
  { lo := 0, len := 2, acc := .rw, max := 2 },
  { lo := 2, len := 2, acc := .rw, max := 2 },
  { lo := 4, len := 2, acc := .rw, max := 2 },
  { lo := 6, len := 2, acc := .rw, max := 2 },
  { lo := 8, len := 2, acc := .rw, max := 2 },
  { lo := 10, len := 2, acc := .rw, max := 2 },
  { lo := 12, len := 2, acc := .rw, max := 2 },
  { lo := 14, len := 2, acc := .rw, max := 2 },
  { lo := 16, len := 2, acc := .rw, max := 2 },
  { lo := 18, len := 2, acc := .rw, max := 2 },
  { lo := 20, len := 2, acc := .rw, max := 2 },
  { lo := 22, len := 2, acc := .rw, max := 2 },
  { lo := 24, len := 2, acc := .rw, max := 2 },
  { lo := 26, len := 2, acc := .rw, max := 2 },
  { lo := 28, len := 2, acc := .rw, max := 2 },
  { lo := 30, len := 2, acc := .rw, max := 2 },
  { lo := 32, len := 2, acc := .rw, max := 2 },
  { lo := 34, len := 2, acc := .rw, max := 2 },
  { lo := 36, len := 2, acc := .rw, max := 2 },
  { lo := 38, len := 2, acc := .rw, max := 2 }] }
/-- XRT_ERR (R442). -/
def XRT_ERR : RegSpec := { base := 0xB00058, fields := [
  { lo := 0, len := 1, acc := .w1c },
  { lo := 1, len := 1, acc := .w1c },
  { lo := 2, len := 1, acc := .w1c },
  { lo := 3, len := 1, acc := .w1c },
  { lo := 4, len := 1, acc := .w1c },
  { lo := 5, len := 1, acc := .w1c },
  { lo := 6, len := 1, acc := .w1c },
  { lo := 7, len := 1, acc := .w1c },
  { lo := 8, len := 1, acc := .w1c }] }
/-- XRT_ERR_INFO (R442). -/
def XRT_ERR_INFO : RegSpec := { base := 0xB00060, fields := [
  { lo := 0, len := 20, acc := .ro },
  { lo := 20, len := 4, acc := .ro },
  { lo := 24, len := 5, acc := .ro },
  { lo := 32, len := 16, acc := .ro }] }
/-- XRT_GTBL (R443). -/
def XRT_GTBL : RegSpec := { base := 0xB10000, n := 16384, stride := 8, fields := [
  { lo := 0, len := 6, acc := .rw },
  { lo := 14, len := 1, acc := .rw },
  { lo := 15, len := 1, acc := .rw },
  { lo := 16, len := 6, acc := .rw },
  { lo := 30, len := 1, acc := .rw },
  { lo := 31, len := 1, acc := .rw },
  { lo := 32, len := 6, acc := .rw },
  { lo := 46, len := 1, acc := .rw },
  { lo := 47, len := 1, acc := .rw },
  { lo := 48, len := 6, acc := .rw },
  { lo := 62, len := 1, acc := .rw },
  { lo := 63, len := 1, acc := .rw }] }
/-- XRT_LTBL (R443). -/
def XRT_LTBL : RegSpec := { base := 0xB30000, n := 64, stride := 8, fields := [
  { lo := 0, len := 5, acc := .rw, reset := 31 }] }
/-- XRT_TDIR (R443). -/
def XRT_TDIR : RegSpec := { base := 0xB31000, n := 6, stride := 8, fields := [
  { lo := 0, len := 20, acc := .rw }] }
/-- XRT_MCAST (R443). -/
def XRT_MCAST : RegSpec := { base := 0xB40000, n := 8192, stride := 8, fields := [
  { lo := 0, len := 64, acc := .ro }] }
/-- SHP_ID (R473). -/
def SHP_ID : RegSpec := { base := 0xC00000, fields := [
  { lo := 0, len := 11, acc := .ro, reset := 1024 },
  { lo := 11, len := 7, acc := .ro, reset := 64 },
  { lo := 18, len := 7, acc := .ro, reset := 64 }] }
/-- SHP_CTL (R473). -/
def SHP_CTL : RegSpec := { base := 0xC00008, fields := [
  { lo := 0, len := 8, acc := .rw, reset := 192 }] }
/-- SHP_SUB_MAP (R473). -/
def SHP_SUB_MAP : RegSpec := { base := 0xC01000, n := 264, stride := 8, fields := [
  { lo := 0, len := 10, acc := .rw }] }
/-- SHP_SUB_CFG (R473). -/
def SHP_SUB_CFG : RegSpec := { base := 0xC20000, n := 1024, stride := 8, fields := [
  { lo := 0, len := 24, acc := .rw },
  { lo := 24, len := 16, acc := .rw, reset := 64, min := 8 },
  { lo := 40, len := 1, acc := .rw },
  { lo := 41, len := 1, acc := .rw },
  { lo := 42, len := 1, acc := .rw },
  { lo := 43, len := 6, acc := .rw }] }
/-- SHP_SUB_OVH (R473). -/
def SHP_SUB_OVH : RegSpec := { base := 0xC22000, n := 1024, stride := 8, fields := [
  { lo := 0, len := 8, acc := .rw }] }
/-- SHP_SVC_CFG (R473). -/
def SHP_SVC_CFG : RegSpec := { base := 0xC30000, n := 64, stride := 8, fields := [
  { lo := 0, len := 24, acc := .rw },
  { lo := 24, len := 16, acc := .rw, reset := 64, min := 8 },
  { lo := 40, len := 1, acc := .rw },
  { lo := 42, len := 1, acc := .rw },
  { lo := 49, len := 8, acc := .rw, reset := 1, min := 1 }] }
/-- SHP_SVC_OVH (R473). -/
def SHP_SVC_OVH : RegSpec := { base := 0xC30200, n := 64, stride := 8, fields := [
  { lo := 0, len := 8, acc := .rw }] }
/-- SHP_PORT_CFG (R473). -/
def SHP_PORT_CFG : RegSpec := { base := 0xC31000, n := 4, stride := 8, fields := [
  { lo := 0, len := 24, acc := .rw },
  { lo := 24, len := 16, acc := .rw, reset := 64, min := 8 },
  { lo := 40, len := 1, acc := .rw },
  { lo := 42, len := 1, acc := .rw }] }
/-- SHP_PORT_OVH (R473). -/
def SHP_PORT_OVH : RegSpec := { base := 0xC31020, n := 4, stride := 8, fields := [
  { lo := 0, len := 8, acc := .rw }] }
/-- SHP_POL_CFG (R473). -/
def SHP_POL_CFG : RegSpec := { base := 0xC32000, n := 64, stride := 8, fields := [
  { lo := 0, len := 24, acc := .rw },
  { lo := 24, len := 16, acc := .rw, reset := 64, min := 8 },
  { lo := 40, len := 1, acc := .rw },
  { lo := 42, len := 1, acc := .rw }] }
/-- SHP_POL_OVH (R473). -/
def SHP_POL_OVH : RegSpec := { base := 0xC32200, n := 64, stride := 8, fields := [
  { lo := 0, len := 8, acc := .rw },
  { lo := 8, len := 8, acc := .rw, reset := 63 }] }
/-- FLK_ID (R471). -/
def FLK_ID : RegSpec := { base := 0xD00000, fields := [
  { lo := 0, len := 8, acc := .ro, reset := 3 },
  { lo := 8, len := 8, acc := .ro, reset := 1 },
  { lo := 16, len := 4, acc := .ro, reset := 8 },
  { lo := 32, len := 20, acc := .ro }] }
/-- FLK_CTL (R471). -/
def FLK_CTL : RegSpec := { base := 0xD00008, fields := [
  { lo := 0, len := 1, acc := .rw, reset := 1 }] }
/-- FLK_CFG (R471). -/
def FLK_CFG : RegSpec := { base := 0xD00010, fields := [
  { lo := 0, len := 3, acc := .rw },
  { lo := 4, len := 3, acc := .rw, reset := 1 },
  { lo := 16, len := 16, acc := .rw, reset := 300, min := 100, max := 10000 },
  { lo := 32, len := 4, acc := .rw, reset := 8, min := 1 }] }
/-- FLK_STATUS (R471). -/
def FLK_STATUS : RegSpec := { base := 0xD00018, fields := [
  { lo := 0, len := 1, acc := .ro },
  { lo := 1, len := 3, acc := .ro },
  { lo := 4, len := 4, acc := .ro },
  { lo := 8, len := 8, acc := .ro },
  { lo := 16, len := 16, acc := .ro },
  { lo := 32, len := 8, acc := .ro }] }
/-- FLK_ERR (R471). -/
def FLK_ERR : RegSpec := { base := 0xD00020, fields := [
  { lo := 0, len := 1, acc := .w1c },
  { lo := 1, len := 1, acc := .w1c },
  { lo := 2, len := 1, acc := .w1c }] }
/-- FLK_ERR_INFO (R471). -/
def FLK_ERR_INFO : RegSpec := { base := 0xD00028, fields := [
  { lo := 0, len := 3, acc := .ro },
  { lo := 4, len := 4, acc := .ro },
  { lo := 32, len := 32, acc := .ro }] }
/-- FLK_MEMBER (R471). -/
def FLK_MEMBER : RegSpec := { base := 0xD00040, n := 8, stride := 8, fields := [
  { lo := 0, len := 20, acc := .ro },
  { lo := 20, len := 2, acc := .ro }] }
/-- DET_ID (R495). -/
def DET_ID : RegSpec := { base := 0xE00000, fields := [
  { lo := 0, len := 4, acc := .ro },
  { lo := 4, len := 8, acc := .ro, reset := 128 },
  { lo := 12, len := 5, acc := .ro, reset := 20 }] }
/-- DET_CTL (R495). -/
def DET_CTL : RegSpec := { base := 0xE00008, fields := [
  { lo := 0, len := 1, acc := .rw },
  { lo := 1, len := 1, acc := .rw },
  { lo := 2, len := 1, acc := .rw, reset := 1 }] }
/-- DET_REC_CTL (R495). -/
def DET_REC_CTL : RegSpec := { base := 0xE00010, fields := [
  { lo := 0, len := 2, acc := .rw, max := 2 },
  { lo := 2, len := 1, acc := .rw, reset := 1 },
  { lo := 3, len := 1, acc := .rw },
  { lo := 4, len := 5, acc := .rw, reset := 18, min := 12, max := 20 },
  { lo := 9, len := 1, acc := .wo },
  { lo := 16, len := 16, acc := .rw, reset := 510 }] }
/-- DET_REC_STATUS (R495). -/
def DET_REC_STATUS : RegSpec := { base := 0xE00018, fields := [
  { lo := 0, len := 3, acc := .ro },
  { lo := 32, len := 32, acc := .ro }] }
/-- DET_REC_HEAD (R495). -/
def DET_REC_HEAD : RegSpec := { base := 0xE00020, fields := [
  { lo := 0, len := 64, acc := .ro }] }
/-- DET_REC_OLDEST (R495). -/
def DET_REC_OLDEST : RegSpec := { base := 0xE00028, fields := [
  { lo := 0, len := 64, acc := .ro }] }
/-- DET_REC_INDEX (R495). -/
def DET_REC_INDEX : RegSpec := { base := 0xE00030, fields := [
  { lo := 0, len := 64, acc := .rw }] }
/-- DET_REC_MARK (R495). -/
def DET_REC_MARK : RegSpec := { base := 0xE00038, fields := [
  { lo := 0, len := 64, acc := .wo }] }
/-- DET_REC_DATA (R495). -/
def DET_REC_DATA : RegSpec := { base := 0xE00040, n := 16, stride := 8, fields := [
  { lo := 0, len := 64, acc := .rw }] }
/-- DET_DIVERGE (R495). -/
def DET_DIVERGE : RegSpec := { base := 0xE000C0, fields := [
  { lo := 0, len := 64, acc := .ro }] }
/-- DET_DIVERGE_INFO (R495). -/
def DET_DIVERGE_INFO : RegSpec := { base := 0xE000C8, fields := [
  { lo := 0, len := 4, acc := .ro },
  { lo := 4, len := 4, acc := .ro },
  { lo := 8, len := 18, acc := .ro },
  { lo := 26, len := 6, acc := .ro },
  { lo := 32, len := 10, acc := .ro }] }
/-- DET_DIVERGE_MSC (R495). -/
def DET_DIVERGE_MSC : RegSpec := { base := 0xE000D0, fields := [
  { lo := 0, len := 64, acc := .ro }] }
/-- DET_DIVERGE_EXP (R495). -/
def DET_DIVERGE_EXP : RegSpec := { base := 0xE000D8, fields := [
  { lo := 0, len := 64, acc := .ro }] }
/-- DET_DIVERGE_GOT (R495). -/
def DET_DIVERGE_GOT : RegSpec := { base := 0xE000E0, fields := [
  { lo := 0, len := 64, acc := .ro }] }
/-- DET_ERR (R495). -/
def DET_ERR : RegSpec := { base := 0xE000E8, fields := [
  { lo := 0, len := 1, acc := .w1c },
  { lo := 1, len := 1, acc := .w1c },
  { lo := 2, len := 1, acc := .w1c }] }
/-- RAS_ID (R520). -/
def RAS_ID : RegSpec := { base := 0xF00000, fields := [
  { lo := 0, len := 8, acc := .ro, reset := 152 },
  { lo := 8, len := 4, acc := .ro },
  { lo := 32, len := 13, acc := .ro, reset := 4096 }] }
/-- RAS_CTL (R520). -/
def RAS_CTL : RegSpec := { base := 0xF00008, fields := [
  { lo := 0, len := 1, acc := .rw, reset := 1 },
  { lo := 1, len := 1, acc := .rw },
  { lo := 2, len := 1, acc := .rw, reset := 1 }] }
/-- RAS_CFG (R520). -/
def RAS_CFG : RegSpec := { base := 0xF00010, fields := [
  { lo := 0, len := 4, acc := .rw, reset := 2, min := 1 },
  { lo := 16, len := 16, acc := .rw, reset := 1024, min := 16 },
  { lo := 32, len := 14, acc := .rw, reset := 24, min := 1, max := 8760 }] }
/-- RAS_STATUS (R520). -/
def RAS_STATUS : RegSpec := { base := 0xF00018, fields := [
  { lo := 0, len := 4, acc := .ro },
  { lo := 4, len := 1, acc := .ro },
  { lo := 5, len := 6, acc := .ro },
  { lo := 11, len := 1, acc := .ro },
  { lo := 16, len := 8, acc := .ro }] }
/-- RAS_IRQ_STATUS (R520). -/
def RAS_IRQ_STATUS : RegSpec := { base := 0xF00020, fields := [
  { lo := 0, len := 23, acc := .ro }] }
/-- RAS_IRQ_CFG (R520). -/
def RAS_IRQ_CFG : RegSpec := { base := 0xF00028, fields := [
  { lo := 0, len := 11, acc := .rw },
  { lo := 11, len := 1, acc := .rw }] }
/-- RAS_ERR (R520). -/
def RAS_ERR : RegSpec := { base := 0xF00030, fields := [
  { lo := 0, len := 1, acc := .w1c },
  { lo := 1, len := 1, acc := .w1c },
  { lo := 2, len := 1, acc := .w1c },
  { lo := 3, len := 1, acc := .w1c },
  { lo := 4, len := 1, acc := .w1c },
  { lo := 5, len := 1, acc := .w1c },
  { lo := 6, len := 1, acc := .w1c }] }
/-- RAS_ERR_INFO (R520). -/
def RAS_ERR_INFO : RegSpec := { base := 0xF00038, fields := [
  { lo := 0, len := 8, acc := .ro },
  { lo := 8, len := 8, acc := .ro },
  { lo := 16, len := 8, acc := .ro },
  { lo := 24, len := 4, acc := .ro },
  { lo := 28, len := 4, acc := .ro }] }
/-- RAS_LOG_HEAD (R520). -/
def RAS_LOG_HEAD : RegSpec := { base := 0xF00040, fields := [
  { lo := 0, len := 64, acc := .ro, reset := 1 }] }
/-- RAS_LOG_INDEX (R520). -/
def RAS_LOG_INDEX : RegSpec := { base := 0xF00048, fields := [
  { lo := 0, len := 64, acc := .rw }] }
/-- RAS_LOG_DATA (R520). -/
def RAS_LOG_DATA : RegSpec := { base := 0xF00050, n := 8, stride := 8, fields := [
  { lo := 0, len := 64, acc := .ro }] }
/-- RAS_REINSTATE (R520). -/
def RAS_REINSTATE : RegSpec := { base := 0xF00090, fields := [
  { lo := 0, len := 8, acc := .wo }] }
/-- RAS_TILE_RETIRE (R520). -/
def RAS_TILE_RETIRE : RegSpec := { base := 0xF00098, fields := [
  { lo := 0, len := 8, acc := .wo }] }
/-- RAS_SERIAL (R520). -/
def RAS_SERIAL : RegSpec := { base := 0xF000A0, fields := [
  { lo := 0, len := 64, acc := .ro }] }
/-- RAS_IDENT (R520). -/
def RAS_IDENT : RegSpec := { base := 0xF000A8, n := 6, stride := 8, fields := [
  { lo := 0, len := 64, acc := .ro }] }
/-- RAS_TILE_STATE (R520). -/
def RAS_TILE_STATE : RegSpec := { base := 0xF00100, n := 10, stride := 8, fields := [
  { lo := 0, len := 4, acc := .ro },
  { lo := 4, len := 4, acc := .ro },
  { lo := 8, len := 4, acc := .ro },
  { lo := 12, len := 4, acc := .ro },
  { lo := 16, len := 4, acc := .ro },
  { lo := 20, len := 4, acc := .ro },
  { lo := 24, len := 4, acc := .ro },
  { lo := 28, len := 4, acc := .ro },
  { lo := 32, len := 4, acc := .ro },
  { lo := 36, len := 4, acc := .ro },
  { lo := 40, len := 4, acc := .ro },
  { lo := 44, len := 4, acc := .ro },
  { lo := 48, len := 4, acc := .ro },
  { lo := 52, len := 4, acc := .ro },
  { lo := 56, len := 4, acc := .ro },
  { lo := 60, len := 4, acc := .ro }] }
/-- RAS_L2P (R520). -/
def RAS_L2P : RegSpec := { base := 0xF00200, n := 24, stride := 8, fields := [
  { lo := 0, len := 8, acc := .ro },
  { lo := 8, len := 8, acc := .ro },
  { lo := 16, len := 8, acc := .ro },
  { lo := 24, len := 8, acc := .ro },
  { lo := 32, len := 8, acc := .ro },
  { lo := 40, len := 8, acc := .ro },
  { lo := 48, len := 8, acc := .ro },
  { lo := 56, len := 8, acc := .ro }] }
/-- PWR_ID (R547). -/
def PWR_ID : RegSpec := { base := 0x1000000, fields := [
  { lo := 0, len := 6, acc := .ro, reset := 35 },
  { lo := 8, len := 5, acc := .ro, reset := 19 },
  { lo := 16, len := 11, acc := .ro, reset := 600 }] }
/-- PWR_CTL (R547). -/
def PWR_CTL : RegSpec := { base := 0x1000008, fields := [
  { lo := 0, len := 1, acc := .rw, reset := 1 },
  { lo := 1, len := 1, acc := .rw, reset := 1 },
  { lo := 2, len := 1, acc := .rw, reset := 1 },
  { lo := 3, len := 1, acc := .rw },
  { lo := 4, len := 5, acc := .rw, reset := 2, max := 19 }] }
/-- PWR_REQ (R547). -/
def PWR_REQ : RegSpec := { base := 0x1000010, fields := [
  { lo := 0, len := 2, acc := .wo }] }
/-- PWR_STATUS (R547). -/
def PWR_STATUS : RegSpec := { base := 0x1000018, fields := [
  { lo := 0, len := 3, acc := .ro, reset := 1 },
  { lo := 3, len := 1, acc := .ro },
  { lo := 8, len := 11, acc := .ro, reset := 1800 },
  { lo := 19, len := 1, acc := .ro },
  { lo := 20, len := 1, acc := .ro },
  { lo := 21, len := 1, acc := .ro },
  { lo := 32, len := 19, acc := .ro },
  { lo := 51, len := 2, acc := .ro }] }
/-- PWR_DOMAINS (R547). -/
def PWR_DOMAINS : RegSpec := { base := 0x1000020, fields := [
  { lo := 0, len := 35, acc := .ro }] }
/-- PWR_TIMERS (R547). -/
def PWR_TIMERS : RegSpec := { base := 0x1000028, fields := [
  { lo := 0, len := 16, acc := .rw, reset := 200, min := 20 },
  { lo := 16, len := 16, acc := .rw, reset := 500, min := 20 },
  { lo := 32, len := 24, acc := .rw, reset := 100000, min := 1000, max := 16000000 }] }
/-- PWR_LIMIT (R547). -/
def PWR_LIMIT : RegSpec := { base := 0x1000030, fields := [
  { lo := 0, len := 11, acc := .rw, reset := 1600, min := 400, max := 1600 },
  { lo := 16, len := 11, acc := .rw, reset := 2000, min := 400, max := 2000 },
  { lo := 32, len := 8, acc := .rw, reset := 10, min := 1 }] }
/-- PWR_THERM (R547). -/
def PWR_THERM : RegSpec := { base := 0x1000038, fields := [
  { lo := 0, len := 8, acc := .rw, reset := 95, min := 70, max := 100 },
  { lo := 8, len := 8, acc := .rw, reset := 85, min := 70, max := 90 },
  { lo := 16, len := 8, acc := .rw, reset := 40, min := 15, max := 60 }] }
/-- PWR_POWER (R547). -/
def PWR_POWER : RegSpec := { base := 0x1000040, fields := [
  { lo := 0, len := 11, acc := .ro },
  { lo := 16, len := 11, acc := .rc }] }
/-- PWR_TEMP (R547). -/
def PWR_TEMP : RegSpec := { base := 0x1000048, fields := [
  { lo := 0, len := 8, acc := .ro },
  { lo := 8, len := 8, acc := .ro },
  { lo := 16, len := 8, acc := .ro },
  { lo := 24, len := 8, acc := .ro },
  { lo := 32, len := 8, acc := .ro }] }
/-- PWR_ERR (R547). -/
def PWR_ERR : RegSpec := { base := 0x1000050, fields := [
  { lo := 0, len := 1, acc := .w1c },
  { lo := 1, len := 1, acc := .w1c },
  { lo := 2, len := 1, acc := .w1c },
  { lo := 3, len := 1, acc := .w1c },
  { lo := 4, len := 1, acc := .w1c },
  { lo := 5, len := 1, acc := .w1c },
  { lo := 6, len := 1, acc := .w1c }] }
/-- PWR_ERR_INFO (R547). -/
def PWR_ERR_INFO : RegSpec := { base := 0x1000058, fields := [
  { lo := 0, len := 4, acc := .ro },
  { lo := 4, len := 4, acc := .ro },
  { lo := 8, len := 6, acc := .ro },
  { lo := 16, len := 8, acc := .ro },
  { lo := 24, len := 4, acc := .ro }] }
/-- CLK_ID (R548). -/
def CLK_ID : RegSpec := { base := 0x1100000, fields := [
  { lo := 0, len := 8, acc := .ro, reset := 7 },
  { lo := 8, len := 8, acc := .ro, reset := 25 }] }
/-- CLK_CTL (R548). -/
def CLK_CTL : RegSpec := { base := 0x1100008, fields := [
  { lo := 0, len := 1, acc := .rw, reset := 1 }] }
/-- CLK_STATUS (R548). -/
def CLK_STATUS : RegSpec := { base := 0x1100010, fields := [
  { lo := 0, len := 7, acc := .ro }] }
/-- CLK_CORE (R548). -/
def CLK_CORE : RegSpec := { base := 0x1100018, fields := [
  { lo := 0, len := 11, acc := .ro, reset := 1800 },
  { lo := 16, len := 11, acc := .rw, reset := 1800, min := 600, max := 1800, unit := 50 }] }
/-- CLK_TILE_IDLE (R548). -/
def CLK_TILE_IDLE : RegSpec := { base := 0x1100020, fields := [
  { lo := 0, len := 16, acc := .rw, reset := 4096, min := 256 }] }
/-- CLK_EMBER_TICKS (R548). -/
def CLK_EMBER_TICKS : RegSpec := { base := 0x1100028, fields := [
  { lo := 0, len := 64, acc := .ro }] }
/-- CLK_ERR (R548). -/
def CLK_ERR : RegSpec := { base := 0x1100030, fields := [
  { lo := 0, len := 1, acc := .w1c },
  { lo := 4, len := 3, acc := .ro }] }
/-- RST_CTL (R548). -/
def RST_CTL : RegSpec := { base := 0x1200000, fields := [
  { lo := 0, len := 2, acc := .wo },
  { lo := 8, len := 8, acc := .wo }] }
/-- RST_CAUSE (R548). -/
def RST_CAUSE : RegSpec := { base := 0x1200008, fields := [
  { lo := 0, len := 3, acc := .ro },
  { lo := 4, len := 4, acc := .ro }] }
/-- RST_COUNT (R548). -/
def RST_COUNT : RegSpec := { base := 0x1200010, fields := [
  { lo := 0, len := 16, acc := .ro },
  { lo := 16, len := 16, acc := .ro },
  { lo := 32, len := 16, acc := .ro }] }
/-- RST_STATUS (R548). -/
def RST_STATUS : RegSpec := { base := 0x1200018, fields := [
  { lo := 0, len := 1, acc := .ro },
  { lo := 1, len := 1, acc := .ro },
  { lo := 2, len := 1, acc := .ro },
  { lo := 3, len := 1, acc := .ro }] }
/-- RST_CFG (R548). -/
def RST_CFG : RegSpec := { base := 0x1200020, fields := [
  { lo := 0, len := 1, acc := .rw },
  { lo := 16, len := 16, acc := .rw, reset := 1000, min := 100, max := 60000 }] }
/-- MGT_FUSE_ID (R6). -/
def MGT_FUSE_ID : RegSpec := { base := 0x1300000, fields := [
  { lo := 0, len := 4, acc := .ro },
  { lo := 4, len := 4, acc := .ro },
  { lo := 8, len := 8, acc := .ro },
  { lo := 16, len := 8, acc := .ro },
  { lo := 24, len := 4, acc := .ro },
  { lo := 28, len := 4, acc := .ro },
  { lo := 32, len := 5, acc := .ro },
  { lo := 37, len := 5, acc := .ro },
  { lo := 42, len := 5, acc := .ro }] }
/-- MGT_CHAIN (R572). -/
def MGT_CHAIN : RegSpec := { base := 0x1300008, fields := [
  { lo := 0, len := 7, acc := .ro },
  { lo := 8, len := 1, acc := .ro },
  { lo := 9, len := 1, acc := .ro },
  { lo := 12, len := 4, acc := .ro },
  { lo := 16, len := 8, acc := .ro },
  { lo := 24, len := 8, acc := .ro }] }
/-- MGT_CTL (R572). -/
def MGT_CTL : RegSpec := { base := 0x1300010, fields := [
  { lo := 0, len := 1, acc := .rw, reset := 1 },
  { lo := 1, len := 1, acc := .rw, reset := 1 },
  { lo := 2, len := 1, acc := .rw, reset := 1 }] }
/-- MGT_TEST (R572). -/
def MGT_TEST : RegSpec := { base := 0x1300018, fields := [
  { lo := 0, len := 1, acc := .ro }] }
/-- MGT_ERR (R572). -/
def MGT_ERR : RegSpec := { base := 0x1300020, fields := [
  { lo := 0, len := 1, acc := .w1c },
  { lo := 1, len := 1, acc := .w1c },
  { lo := 2, len := 1, acc := .w1c },
  { lo := 3, len := 1, acc := .w1c },
  { lo := 4, len := 1, acc := .w1c }] }
/-- PMC_ID (R590). -/
def PMC_ID : RegSpec := { base := 0x1400000, fields := [
  { lo := 0, len := 8, acc := .ro, reset := 216 },
  { lo := 8, len := 6, acc := .ro, reset := 32 },
  { lo := 14, len := 6, acc := .ro, reset := 48 }] }
/-- PMC_CTL (R590). -/
def PMC_CTL : RegSpec := { base := 0x1400008, fields := [
  { lo := 0, len := 1, acc := .rw, reset := 1 },
  { lo := 1, len := 1, acc := .rw },
  { lo := 2, len := 1, acc := .rw, reset := 1 },
  { lo := 3, len := 1, acc := .wo },
  { lo := 4, len := 1, acc := .wo }] }
/-- PMC_CFG (R590). -/
def PMC_CFG : RegSpec := { base := 0x1400010, fields := [
  { lo := 0, len := 32, acc := .rw, reset := 250000, min := 2500 }] }
/-- PMC_RING (R590). -/
def PMC_RING : RegSpec := { base := 0x1400018, fields := [
  { lo := 21, len := 27, acc := .rw },
  { lo := 48, len := 16, acc := .rw, reset := 16, min := 1 }] }
/-- PMC_MASK (R590). -/
def PMC_MASK : RegSpec := { base := 0x1400020, n := 4, stride := 8, fields := [
  { lo := 0, len := 64, acc := .rw }] }
/-- PMC_STATUS (R590). -/
def PMC_STATUS : RegSpec := { base := 0x1400040, fields := [
  { lo := 0, len := 2, acc := .ro },
  { lo := 32, len := 16, acc := .ro, reset := 835 }] }
/-- PMC_HEAD (R590). -/
def PMC_HEAD : RegSpec := { base := 0x1400048, fields := [
  { lo := 0, len := 64, acc := .ro }] }
/-- PMC_OLDEST (R590). -/
def PMC_OLDEST : RegSpec := { base := 0x1400050, fields := [
  { lo := 0, len := 64, acc := .ro }] }
/-- PMC_CLEAR (R590). -/
def PMC_CLEAR : RegSpec := { base := 0x1400058, fields := [
  { lo := 0, len := 8, acc := .wo },
  { lo := 8, len := 1, acc := .wo }] }
/-- PMC_ERR (R590). -/
def PMC_ERR : RegSpec := { base := 0x1400060, fields := [
  { lo := 0, len := 1, acc := .w1c },
  { lo := 1, len := 1, acc := .w1c },
  { lo := 2, len := 1, acc := .w1c },
  { lo := 3, len := 1, acc := .w1c }] }
/-- PMC_ERR_INFO (R590). -/
def PMC_ERR_INFO : RegSpec := { base := 0x1400068, fields := [
  { lo := 0, len := 27, acc := .ro },
  { lo := 27, len := 4, acc := .ro }] }
/-- PMC_CNT (R590). -/
def PMC_CNT : RegSpec := { base := 0x1410000, n := 6912, stride := 8, fields := [
  { lo := 0, len := 48, acc := .ro }] }
/-- PRT_ID (R596). -/
def PRT_ID : RegSpec := { base := 0x1500000, fields := [
  { lo := 0, len := 5, acc := .ro, reset := 16 },
  { lo := 5, len := 8, acc := .ro, reset := 16 }] }
/-- PRT_CTL (R596). -/
def PRT_CTL : RegSpec := { base := 0x1500008, fields := [
  { lo := 0, len := 1, acc := .rw, reset := 1 },
  { lo := 1, len := 1, acc := .rw }] }
/-- PRT_STATUS (R596). -/
def PRT_STATUS : RegSpec := { base := 0x1500010, fields := [
  { lo := 0, len := 1, acc := .ro },
  { lo := 16, len := 16, acc := .ro },
  { lo := 32, len := 16, acc := .ro }] }
/-- PRT_ERR (R596). -/
def PRT_ERR : RegSpec := { base := 0x1500018, fields := [
  { lo := 0, len := 1, acc := .w1c },
  { lo := 1, len := 1, acc := .w1c }] }
/-- PRT_INJ_CFG (R596). -/
def PRT_INJ_CFG : RegSpec := { base := 0x1500100, n := 16, stride := 64, fields := [
  { lo := 0, len := 1, acc := .rw },
  { lo := 1, len := 2, acc := .rw },
  { lo := 3, len := 1, acc := .rw },
  { lo := 4, len := 8, acc := .rw },
  { lo := 12, len := 8, acc := .rw },
  { lo := 20, len := 3, acc := .rw },
  { lo := 24, len := 20, acc := .rw, reset := 1, min := 1, max := 1000000 },
  { lo := 44, len := 11, acc := .rw, reset := 600, min := 600, max := 1750, unit := 50 }] }
/-- PRT_INJ_PAT (R596). -/
def PRT_INJ_PAT : RegSpec := { base := 0x1500108, n := 16, stride := 64, fields := [
  { lo := 0, len := 32, acc := .rw, reset := 1, min := 1 },
  { lo := 32, len := 24, acc := .rw }] }
/-- PRT_INJ_SEED (R596). -/
def PRT_INJ_SEED : RegSpec := { base := 0x1500110, n := 16, stride := 64, fields := [
  { lo := 0, len := 64, acc := .rw }] }
/-- PRT_INJ_LIMIT (R596). -/
def PRT_INJ_LIMIT : RegSpec := { base := 0x1500118, n := 16, stride := 64, fields := [
  { lo := 0, len := 32, acc := .rw },
  { lo := 32, len := 32, acc := .rw }] }
/-- PRT_INJ_EVENTS (R596). -/
def PRT_INJ_EVENTS : RegSpec := { base := 0x1500120, n := 16, stride := 64, fields := [
  { lo := 0, len := 48, acc := .ro }] }
/-- PRT_INJ_FIRED (R596). -/
def PRT_INJ_FIRED : RegSpec := { base := 0x1500128, n := 16, stride := 64, fields := [
  { lo := 0, len := 32, acc := .ro }] }
/-- HIF_ID (R573). -/
def HIF_ID : RegSpec := { base := 0x1600000, fields := [
  { lo := 0, len := 3, acc := .ro, reset := 6 },
  { lo := 3, len := 5, acc := .ro, reset := 16 },
  { lo := 8, len := 6, acc := .ro, reset := 32 }] }
/-- HIF_CTL (R573). -/
def HIF_CTL : RegSpec := { base := 0x1600008, fields := [
  { lo := 0, len := 1, acc := .rw, reset := 1 },
  { lo := 1, len := 6, acc := .rw, reset := 30, min := 20, max := 36 }] }
/-- HIF_LINK (R573). -/
def HIF_LINK : RegSpec := { base := 0x1600010, fields := [
  { lo := 0, len := 3, acc := .ro },
  { lo := 3, len := 5, acc := .ro },
  { lo := 8, len := 1, acc := .ro },
  { lo := 16, len := 16, acc := .ro },
  { lo := 32, len := 8, acc := .ro }] }
/-- HIF_ERR (R573). -/
def HIF_ERR : RegSpec := { base := 0x1600018, fields := [
  { lo := 0, len := 1, acc := .w1c },
  { lo := 1, len := 1, acc := .w1c },
  { lo := 2, len := 1, acc := .w1c },
  { lo := 3, len := 1, acc := .w1c }] }
/-- HIF_ERR_INFO (R573). -/
def HIF_ERR_INFO : RegSpec := { base := 0x1600020, fields := [
  { lo := 0, len := 6, acc := .ro },
  { lo := 8, len := 4, acc := .ro }] }
/-- HIF_FN_Q (R573). -/
def HIF_FN_Q : RegSpec := { base := 0x1601000, n := 33, stride := 32, fields := [
  { lo := 0, len := 11, acc := .rw }] }
/-- HIF_FN_CTX (R573). -/
def HIF_FN_CTX : RegSpec := { base := 0x1601008, n := 33, stride := 32, fields := [
  { lo := 0, len := 18, acc := .rw },
  { lo := 20, len := 19, acc := .rw }] }
/-- HIF_FN_WSP (R573). -/
def HIF_FN_WSP : RegSpec := { base := 0x1601010, n := 33, stride := 32, fields := [
  { lo := 0, len := 27, acc := .rw },
  { lo := 28, len := 28, acc := .rw }] }

end Reg

namespace Fld

/-- CP_ID.PROTO_MINOR (R289). -/
def CP_ID_PROTO_MINOR : FieldRef := ⟨Reg.CP_ID, 0, 8⟩
/-- CP_ID.PROTO_MAJOR (R289). -/
def CP_ID_PROTO_MAJOR : FieldRef := ⟨Reg.CP_ID, 8, 8⟩
/-- CP_ID.SQS (R289). -/
def CP_ID_SQS : FieldRef := ⟨Reg.CP_ID, 16, 11⟩
/-- CP_ID.CQS (R289). -/
def CP_ID_CQS : FieldRef := ⟨Reg.CP_ID, 32, 11⟩
/-- CP_CTL.FETCH (R289). -/
def CP_CTL_FETCH : FieldRef := ⟨Reg.CP_CTL, 0, 1⟩
/-- CP_CTL.PREEMPT_NOTE (R289). -/
def CP_CTL_PREEMPT_NOTE : FieldRef := ⟨Reg.CP_CTL, 1, 1⟩
/-- CP_CTL.ERR_IRQ_EN (R289). -/
def CP_CTL_ERR_IRQ_EN : FieldRef := ⟨Reg.CP_CTL, 2, 1⟩
/-- CP_STATUS.FETCHING (R289). -/
def CP_STATUS_FETCHING : FieldRef := ⟨Reg.CP_STATUS, 0, 1⟩
/-- CP_STATUS.ACTIVE_CORE (R289). -/
def CP_STATUS_ACTIVE_CORE : FieldRef := ⟨Reg.CP_STATUS, 1, 1⟩
/-- CP_STATUS.STANDBY (R289). -/
def CP_STATUS_STANDBY : FieldRef := ⟨Reg.CP_STATUS, 2, 1⟩
/-- CP_STATUS.DEGRADED (R289). -/
def CP_STATUS_DEGRADED : FieldRef := ⟨Reg.CP_STATUS, 3, 1⟩
/-- CP_STATUS.OPEN (R289). -/
def CP_STATUS_OPEN : FieldRef := ⟨Reg.CP_STATUS, 16, 16⟩
/-- CP_ERR.DOORBELL (R289). -/
def CP_ERR_DOORBELL : FieldRef := ⟨Reg.CP_ERR, 0, 1⟩
/-- CP_ERR.SQ_READ (R289). -/
def CP_ERR_SQ_READ : FieldRef := ⟨Reg.CP_ERR, 1, 1⟩
/-- CP_ERR.CQ_WRITE (R289). -/
def CP_ERR_CQ_WRITE : FieldRef := ⟨Reg.CP_ERR, 2, 1⟩
/-- CP_ERR.FAILOVER (R289). -/
def CP_ERR_FAILOVER : FieldRef := ⟨Reg.CP_ERR, 3, 1⟩
/-- CP_ERR.STANDBY_LOST (R289). -/
def CP_ERR_STANDBY_LOST : FieldRef := ⟨Reg.CP_ERR, 4, 1⟩
/-- CP_ERR.STOPPED (R289). -/
def CP_ERR_STOPPED : FieldRef := ⟨Reg.CP_ERR, 5, 1⟩
/-- CP_ERR_INFO.FUNC (R289). -/
def CP_ERR_INFO_FUNC : FieldRef := ⟨Reg.CP_ERR_INFO, 0, 6⟩
/-- CP_ERR_INFO.QUEUE (R289). -/
def CP_ERR_INFO_QUEUE : FieldRef := ⟨Reg.CP_ERR_INFO, 6, 10⟩
/-- CP_ERR_INFO.CAUSE (R289). -/
def CP_ERR_INFO_CAUSE : FieldRef := ⟨Reg.CP_ERR_INFO, 16, 4⟩
/-- CP_ERR_INFO.VALUE (R289). -/
def CP_ERR_INFO_VALUE : FieldRef := ⟨Reg.CP_ERR_INFO, 32, 32⟩
/-- CP_ASQ.BASE (R289). -/
def CP_ASQ_BASE : FieldRef := ⟨Reg.CP_ASQ, 12, 52⟩
/-- CP_ACQ.BASE (R289). -/
def CP_ACQ_BASE : FieldRef := ⟨Reg.CP_ACQ, 12, 52⟩
/-- CP_AQ_CFG.ASQ_LOG2 (R289). -/
def CP_AQ_CFG_ASQ_LOG2 : FieldRef := ⟨Reg.CP_AQ_CFG, 0, 5⟩
/-- CP_AQ_CFG.ACQ_LOG2 (R289). -/
def CP_AQ_CFG_ACQ_LOG2 : FieldRef := ⟨Reg.CP_AQ_CFG, 8, 5⟩
/-- CP_AQ_CFG.ACQ_VECTOR (R289). -/
def CP_AQ_CFG_ACQ_VECTOR : FieldRef := ⟨Reg.CP_AQ_CFG, 16, 11⟩
/-- CP_AQ_CFG.ACQ_IRQ_EN (R289). -/
def CP_AQ_CFG_ACQ_IRQ_EN : FieldRef := ⟨Reg.CP_AQ_CFG, 27, 1⟩
/-- JRN_CTL.STALL_ON_FULL (R290). -/
def JRN_CTL_STALL_ON_FULL : FieldRef := ⟨Reg.JRN_CTL, 0, 1⟩
/-- JRN_CTL.ERR_IRQ_EN (R290). -/
def JRN_CTL_ERR_IRQ_EN : FieldRef := ⟨Reg.JRN_CTL, 1, 1⟩
/-- JRN_BASE.BASE (R290). -/
def JRN_BASE_BASE : FieldRef := ⟨Reg.JRN_BASE, 20, 16⟩
/-- JRN_BASE.SIZE (R290). -/
def JRN_BASE_SIZE : FieldRef := ⟨Reg.JRN_BASE, 40, 5⟩
/-- JRN_EPOCH.EPOCH (R290). -/
def JRN_EPOCH_EPOCH : FieldRef := ⟨Reg.JRN_EPOCH, 0, 32⟩
/-- JRN_EPOCH.FLUSH_EPOCH (R290). -/
def JRN_EPOCH_FLUSH_EPOCH : FieldRef := ⟨Reg.JRN_EPOCH, 32, 32⟩
/-- JRN_HEAD.HEAD (R290). -/
def JRN_HEAD_HEAD : FieldRef := ⟨Reg.JRN_HEAD, 0, 64⟩
/-- JRN_OLDEST.OLDEST (R290). -/
def JRN_OLDEST_OLDEST : FieldRef := ⟨Reg.JRN_OLDEST, 0, 64⟩
/-- JRN_POS.POS (R290). -/
def JRN_POS_POS : FieldRef := ⟨Reg.JRN_POS, 0, 23⟩
/-- JRN_ACK.ACK (R290). -/
def JRN_ACK_ACK : FieldRef := ⟨Reg.JRN_ACK, 0, 64⟩
/-- JRN_FLUSH.ENTRIES (R290). -/
def JRN_FLUSH_ENTRIES : FieldRef := ⟨Reg.JRN_FLUSH, 0, 32⟩
/-- JRN_ERR.MOVE_REFUSED (R290). -/
def JRN_ERR_MOVE_REFUSED : FieldRef := ⟨Reg.JRN_ERR, 0, 1⟩
/-- JRN_ERR.STALLED (R290). -/
def JRN_ERR_STALLED : FieldRef := ⟨Reg.JRN_ERR, 1, 1⟩
/-- JRN_ERR.RETRY (R290). -/
def JRN_ERR_RETRY : FieldRef := ⟨Reg.JRN_ERR, 2, 1⟩
/-- JRN_ERR.LOST (R290). -/
def JRN_ERR_LOST : FieldRef := ⟨Reg.JRN_ERR, 3, 1⟩
/-- JRN_ERR.SINGLE_COPY (R290). -/
def JRN_ERR_SINGLE_COPY : FieldRef := ⟨Reg.JRN_ERR, 4, 1⟩
/-- CTX_ID.CONTEXTS (R355). -/
def CTX_ID_CONTEXTS : FieldRef := ⟨Reg.CTX_ID, 0, 19⟩
/-- CTX_ID.CACHE (R355). -/
def CTX_ID_CACHE : FieldRef := ⟨Reg.CTX_ID, 32, 14⟩
/-- CTX_ID.SLOTS (R355). -/
def CTX_ID_SLOTS : FieldRef := ⟨Reg.CTX_ID, 46, 7⟩
/-- CTX_ID.HELD_BACK (R355). -/
def CTX_ID_HELD_BACK : FieldRef := ⟨Reg.CTX_ID, 53, 3⟩
/-- CTX_CTL.PREEMPT_EN (R355). -/
def CTX_CTL_PREEMPT_EN : FieldRef := ⟨Reg.CTX_CTL, 0, 1⟩
/-- CTX_CTL.EVICT_EN (R355). -/
def CTX_CTL_EVICT_EN : FieldRef := ⟨Reg.CTX_CTL, 1, 1⟩
/-- CTX_CTL.ERR_IRQ_EN (R355). -/
def CTX_CTL_ERR_IRQ_EN : FieldRef := ⟨Reg.CTX_CTL, 2, 1⟩
/-- CTX_STATUS.RESIDENT (R355). -/
def CTX_STATUS_RESIDENT : FieldRef := ⟨Reg.CTX_STATUS, 0, 7⟩
/-- CTX_STATUS.RUNNING (R355). -/
def CTX_STATUS_RUNNING : FieldRef := ⟨Reg.CTX_STATUS, 8, 7⟩
/-- CTX_STATUS.BLOCKED (R355). -/
def CTX_STATUS_BLOCKED : FieldRef := ⟨Reg.CTX_STATUS, 16, 7⟩
/-- CTX_STATUS.PINNED (R355). -/
def CTX_STATUS_PINNED : FieldRef := ⟨Reg.CTX_STATUS, 24, 7⟩
/-- CTX_STATUS.HELD_BACK_USED (R355). -/
def CTX_STATUS_HELD_BACK_USED : FieldRef := ⟨Reg.CTX_STATUS, 32, 4⟩
/-- CTX_STATUS.WAITING (R355). -/
def CTX_STATUS_WAITING : FieldRef := ⟨Reg.CTX_STATUS, 40, 16⟩
/-- CTX_TIMERS.PIN_WD_MS (R355). -/
def CTX_TIMERS_PIN_WD_MS : FieldRef := ⟨Reg.CTX_TIMERS, 0, 20⟩
/-- CTX_TIMERS.BLOCK_US (R355). -/
def CTX_TIMERS_BLOCK_US : FieldRef := ⟨Reg.CTX_TIMERS, 32, 24⟩
/-- CTX_QUERY.CONTEXT (R355). -/
def CTX_QUERY_CONTEXT : FieldRef := ⟨Reg.CTX_QUERY, 0, 18⟩
/-- CTX_QUERY.STREAM (R355). -/
def CTX_QUERY_STREAM : FieldRef := ⟨Reg.CTX_QUERY, 18, 6⟩
/-- CTX_QUERY_CTX.VALID (R355). -/
def CTX_QUERY_CTX_VALID : FieldRef := ⟨Reg.CTX_QUERY_CTX, 0, 1⟩
/-- CTX_QUERY_CTX.STATE (R355). -/
def CTX_QUERY_CTX_STATE : FieldRef := ⟨Reg.CTX_QUERY_CTX, 1, 2⟩
/-- CTX_QUERY_CTX.CLASS (R355). -/
def CTX_QUERY_CTX_CLASS : FieldRef := ⟨Reg.CTX_QUERY_CTX, 3, 2⟩
/-- CTX_QUERY_CTX.FUNC (R355). -/
def CTX_QUERY_CTX_FUNC : FieldRef := ⟨Reg.CTX_QUERY_CTX, 5, 6⟩
/-- CTX_QUERY_CTX.CACHED (R355). -/
def CTX_QUERY_CTX_CACHED : FieldRef := ⟨Reg.CTX_QUERY_CTX, 11, 1⟩
/-- CTX_QUERY_CTX.RESIDENT (R355). -/
def CTX_QUERY_CTX_RESIDENT : FieldRef := ⟨Reg.CTX_QUERY_CTX, 12, 7⟩
/-- CTX_QUERY_CTX.OPEN (R355). -/
def CTX_QUERY_CTX_OPEN : FieldRef := ⟨Reg.CTX_QUERY_CTX, 32, 16⟩
/-- CTX_QUERY_STREAM.STATE (R355). -/
def CTX_QUERY_STREAM_STATE : FieldRef := ⟨Reg.CTX_QUERY_STREAM, 0, 3⟩
/-- CTX_QUERY_STREAM.SWAP_IN (R355). -/
def CTX_QUERY_STREAM_SWAP_IN : FieldRef := ⟨Reg.CTX_QUERY_STREAM, 3, 1⟩
/-- CTX_QUERY_STREAM.CLASS (R355). -/
def CTX_QUERY_STREAM_CLASS : FieldRef := ⟨Reg.CTX_QUERY_STREAM, 4, 2⟩
/-- CTX_QUERY_STREAM.SLOT (R355). -/
def CTX_QUERY_STREAM_SLOT : FieldRef := ⟨Reg.CTX_QUERY_STREAM, 6, 7⟩
/-- CTX_QUERY_STREAM.GENERATION (R355). -/
def CTX_QUERY_STREAM_GENERATION : FieldRef := ⟨Reg.CTX_QUERY_STREAM, 16, 16⟩
/-- CTX_QUERY_STREAM.GROUP_ID (R355). -/
def CTX_QUERY_STREAM_GROUP_ID : FieldRef := ⟨Reg.CTX_QUERY_STREAM, 32, 16⟩
/-- CTX_QUERY_PROGRESS.LAST (R355). -/
def CTX_QUERY_PROGRESS_LAST : FieldRef := ⟨Reg.CTX_QUERY_PROGRESS, 0, 64⟩
/-- CTX_ERR.FAULT (R355). -/
def CTX_ERR_FAULT : FieldRef := ⟨Reg.CTX_ERR, 0, 1⟩
/-- CTX_ERR.WATCHDOG (R355). -/
def CTX_ERR_WATCHDOG : FieldRef := ⟨Reg.CTX_ERR, 1, 1⟩
/-- CTX_ERR.STATE_UNCORR (R355). -/
def CTX_ERR_STATE_UNCORR : FieldRef := ⟨Reg.CTX_ERR, 2, 1⟩
/-- CTX_ERR_INFO.CONTEXT (R355). -/
def CTX_ERR_INFO_CONTEXT : FieldRef := ⟨Reg.CTX_ERR_INFO, 0, 18⟩
/-- CTX_ERR_INFO.STREAM (R355). -/
def CTX_ERR_INFO_STREAM : FieldRef := ⟨Reg.CTX_ERR_INFO, 18, 6⟩
/-- CTX_ERR_INFO.CAUSE (R355). -/
def CTX_ERR_INFO_CAUSE : FieldRef := ⟨Reg.CTX_ERR_INFO, 24, 4⟩
/-- CTX_ERR_INFO.SOURCE (R355). -/
def CTX_ERR_INFO_SOURCE : FieldRef := ⟨Reg.CTX_ERR_INFO, 28, 4⟩
/-- CTX_ERR_INFO.PHYS_TILE (R355). -/
def CTX_ERR_INFO_PHYS_TILE : FieldRef := ⟨Reg.CTX_ERR_INFO, 32, 8⟩
/-- CTX_SLOT.OCCUPIED (R355). -/
def CTX_SLOT_OCCUPIED : FieldRef := ⟨Reg.CTX_SLOT, 0, 1⟩
/-- CTX_SLOT.HELD_BACK (R355). -/
def CTX_SLOT_HELD_BACK : FieldRef := ⟨Reg.CTX_SLOT, 1, 1⟩
/-- CTX_SLOT.HB_CLASS (R355). -/
def CTX_SLOT_HB_CLASS : FieldRef := ⟨Reg.CTX_SLOT, 2, 2⟩
/-- CTX_SLOT.STATE (R355). -/
def CTX_SLOT_STATE : FieldRef := ⟨Reg.CTX_SLOT, 4, 3⟩
/-- CTX_SLOT.CONTEXT (R355). -/
def CTX_SLOT_CONTEXT : FieldRef := ⟨Reg.CTX_SLOT, 8, 18⟩
/-- CTX_SLOT.STREAM (R355). -/
def CTX_SLOT_STREAM : FieldRef := ⟨Reg.CTX_SLOT, 26, 6⟩
/-- HOP_ID.HOPPERS (R357). -/
def HOP_ID_HOPPERS : FieldRef := ⟨Reg.HOP_ID, 0, 3⟩
/-- HOP_ID.POOLS (R357). -/
def HOP_ID_POOLS : FieldRef := ⟨Reg.HOP_ID, 16, 10⟩
/-- HOP_ID.MAX_COUNT (R357). -/
def HOP_ID_MAX_COUNT : FieldRef := ⟨Reg.HOP_ID, 32, 21⟩
/-- HOP_CTL.ERR_IRQ_EN (R357). -/
def HOP_CTL_ERR_IRQ_EN : FieldRef := ⟨Reg.HOP_CTL, 0, 1⟩
/-- HOP_ERR.LIST_LOST (R357). -/
def HOP_ERR_LIST_LOST : FieldRef := ⟨Reg.HOP_ERR, 0, 1⟩
/-- HOP_ERR.LINK_UNCORR (R357). -/
def HOP_ERR_LINK_UNCORR : FieldRef := ⟨Reg.HOP_ERR, 1, 1⟩
/-- HOP_ERR_INFO.POOL (R357). -/
def HOP_ERR_INFO_POOL : FieldRef := ⟨Reg.HOP_ERR_INFO, 0, 10⟩
/-- HOP_ERR_INFO.FUNC (R357). -/
def HOP_ERR_INFO_FUNC : FieldRef := ⟨Reg.HOP_ERR_INFO, 10, 6⟩
/-- HOP_ERR_INFO.DIE (R357). -/
def HOP_ERR_INFO_DIE : FieldRef := ⟨Reg.HOP_ERR_INFO, 16, 2⟩
/-- HOP_ERR_INFO.CAUSE (R357). -/
def HOP_ERR_INFO_CAUSE : FieldRef := ⟨Reg.HOP_ERR_INFO, 20, 4⟩
/-- HOP_ERR_INFO.BUFFER (R357). -/
def HOP_ERR_INFO_BUFFER : FieldRef := ⟨Reg.HOP_ERR_INFO, 32, 20⟩
/-- HOP_QUERY.POOL (R357). -/
def HOP_QUERY_POOL : FieldRef := ⟨Reg.HOP_QUERY, 0, 10⟩
/-- HOP_QUERY.FUNC (R357). -/
def HOP_QUERY_FUNC : FieldRef := ⟨Reg.HOP_QUERY, 10, 6⟩
/-- HOP_QUERY.DIE (R357). -/
def HOP_QUERY_DIE : FieldRef := ⟨Reg.HOP_QUERY, 16, 2⟩
/-- HOP_QUERY.CONTEXT (R357). -/
def HOP_QUERY_CONTEXT : FieldRef := ⟨Reg.HOP_QUERY, 18, 18⟩
/-- HOP_QUERY_CFG.VALID (R357). -/
def HOP_QUERY_CFG_VALID : FieldRef := ⟨Reg.HOP_QUERY_CFG, 0, 1⟩
/-- HOP_QUERY_CFG.RING (R357). -/
def HOP_QUERY_CFG_RING : FieldRef := ⟨Reg.HOP_QUERY_CFG, 1, 1⟩
/-- HOP_QUERY_CFG.RING_FORCED (R357). -/
def HOP_QUERY_CFG_RING_FORCED : FieldRef := ⟨Reg.HOP_QUERY_CFG, 2, 1⟩
/-- HOP_QUERY_CFG.DIE (R357). -/
def HOP_QUERY_CFG_DIE : FieldRef := ⟨Reg.HOP_QUERY_CFG, 3, 2⟩
/-- HOP_QUERY_CFG.BUF_4K (R357). -/
def HOP_QUERY_CFG_BUF_4K : FieldRef := ⟨Reg.HOP_QUERY_CFG, 16, 10⟩
/-- HOP_QUERY_CFG.COUNT (R357). -/
def HOP_QUERY_CFG_COUNT : FieldRef := ⟨Reg.HOP_QUERY_CFG, 32, 21⟩
/-- HOP_QUERY_USE.FREE (R357). -/
def HOP_QUERY_USE_FREE : FieldRef := ⟨Reg.HOP_QUERY_USE, 0, 21⟩
/-- HOP_QUERY_USE.UNMET (R357). -/
def HOP_QUERY_USE_UNMET : FieldRef := ⟨Reg.HOP_QUERY_USE, 32, 21⟩
/-- HOP_QUERY_CTX.HELD (R357). -/
def HOP_QUERY_CTX_HELD : FieldRef := ⟨Reg.HOP_QUERY_CTX, 0, 21⟩
/-- HOP_QUERY_CTX.RESERVED_MIN (R357). -/
def HOP_QUERY_CTX_RESERVED_MIN : FieldRef := ⟨Reg.HOP_QUERY_CTX, 32, 21⟩
/-- HOP_QUERY_RING.HEAD (R357). -/
def HOP_QUERY_RING_HEAD : FieldRef := ⟨Reg.HOP_QUERY_RING, 0, 20⟩
/-- HOP_QUERY_RING.LOST (R357). -/
def HOP_QUERY_RING_LOST : FieldRef := ⟨Reg.HOP_QUERY_RING, 32, 21⟩
/-- HOP_QUERY_BUF.BASE (R357). -/
def HOP_QUERY_BUF_BASE : FieldRef := ⟨Reg.HOP_QUERY_BUF, 0, 36⟩
/-- HOP_QUERY_LINK.BASE (R357). -/
def HOP_QUERY_LINK_BASE : FieldRef := ⟨Reg.HOP_QUERY_LINK, 0, 36⟩
/-- RTE_ID.ENGINE (R106). -/
def RTE_ID_ENGINE : FieldRef := ⟨Reg.RTE_ID, 0, 2⟩
/-- RTE_ID.PAIR (R106). -/
def RTE_ID_PAIR : FieldRef := ⟨Reg.RTE_ID, 2, 1⟩
/-- RTE_ID.CRUC_DIM (R106). -/
def RTE_ID_CRUC_DIM : FieldRef := ⟨Reg.RTE_ID, 8, 8⟩
/-- RTE_ID.CNT_LOG2 (R106). -/
def RTE_ID_CNT_LOG2 : FieldRef := ⟨Reg.RTE_ID, 16, 5⟩
/-- RTE_CTL.HALT (R106). -/
def RTE_CTL_HALT : FieldRef := ⟨Reg.RTE_CTL, 0, 1⟩
/-- RTE_CTL.ERR_IRQ_EN (R106). -/
def RTE_CTL_ERR_IRQ_EN : FieldRef := ⟨Reg.RTE_CTL, 1, 1⟩
/-- RTE_STATUS.BUSY (R106). -/
def RTE_STATUS_BUSY : FieldRef := ⟨Reg.RTE_STATUS, 0, 1⟩
/-- RTE_STATUS.STAGE (R106). -/
def RTE_STATUS_STAGE : FieldRef := ⟨Reg.RTE_STATUS, 1, 3⟩
/-- RTE_STATUS.HALTED (R106). -/
def RTE_STATUS_HALTED : FieldRef := ⟨Reg.RTE_STATUS, 4, 1⟩
/-- RTE_STATUS.PARKED (R106). -/
def RTE_STATUS_PARKED : FieldRef := ⟨Reg.RTE_STATUS, 5, 6⟩
/-- RTE_STATUS.STREAM (R106). -/
def RTE_STATUS_STREAM : FieldRef := ⟨Reg.RTE_STATUS, 11, 6⟩
/-- RTE_STATUS.LAYER (R106). -/
def RTE_STATUS_LAYER : FieldRef := ⟨Reg.RTE_STATUS, 17, 10⟩
/-- RTE_STATUS.EC (R106). -/
def RTE_STATUS_EC : FieldRef := ⟨Reg.RTE_STATUS, 27, 1⟩
/-- RTE_STATUS.CONTEXT (R106). -/
def RTE_STATUS_CONTEXT : FieldRef := ⟨Reg.RTE_STATUS, 32, 18⟩
/-- RTE_ERR.UNCORR (R106). -/
def RTE_ERR_UNCORR : FieldRef := ⟨Reg.RTE_ERR, 0, 1⟩
/-- RTE_ERR.HDR_MISMATCH (R106). -/
def RTE_ERR_HDR_MISMATCH : FieldRef := ⟨Reg.RTE_ERR, 1, 1⟩
/-- RTE_ERR.CAND_LIMIT (R106). -/
def RTE_ERR_CAND_LIMIT : FieldRef := ⟨Reg.RTE_ERR, 2, 1⟩
/-- RTE_ERR.FAILED_PEER (R106). -/
def RTE_ERR_FAILED_PEER : FieldRef := ⟨Reg.RTE_ERR, 3, 1⟩
/-- RTE_ERR_INFO.CONTEXT (R106). -/
def RTE_ERR_INFO_CONTEXT : FieldRef := ⟨Reg.RTE_ERR_INFO, 0, 18⟩
/-- RTE_ERR_INFO.LAYER (R106). -/
def RTE_ERR_INFO_LAYER : FieldRef := ⟨Reg.RTE_ERR_INFO, 18, 10⟩
/-- RTE_ERR_INFO.CAUSE (R106). -/
def RTE_ERR_INFO_CAUSE : FieldRef := ⟨Reg.RTE_ERR_INFO, 28, 4⟩
/-- RTE_ERR_INFO.PAGE (R106). -/
def RTE_ERR_INFO_PAGE : FieldRef := ⟨Reg.RTE_ERR_INFO, 32, 27⟩
/-- RTE_LAST_SWITCH.CONTEXT (R106). -/
def RTE_LAST_SWITCH_CONTEXT : FieldRef := ⟨Reg.RTE_LAST_SWITCH, 0, 18⟩
/-- RTE_LAST_SWITCH.LAYER (R106). -/
def RTE_LAST_SWITCH_LAYER : FieldRef := ⟨Reg.RTE_LAST_SWITCH, 18, 10⟩
/-- RTE_LAST_SWITCH.TO_EC (R106). -/
def RTE_LAST_SWITCH_TO_EC : FieldRef := ⟨Reg.RTE_LAST_SWITCH, 28, 1⟩
/-- RTE_LAST_SWITCH.SPILL_FRAC (R106). -/
def RTE_LAST_SWITCH_SPILL_FRAC : FieldRef := ⟨Reg.RTE_LAST_SWITCH, 32, 16⟩
/-- RTE_SWITCH_MSC.MSC (R106). -/
def RTE_SWITCH_MSC_MSC : FieldRef := ⟨Reg.RTE_SWITCH_MSC, 0, 64⟩
/-- RUN_ID.SLICES (R151). -/
def RUN_ID_SLICES : FieldRef := ⟨Reg.RUN_ID, 0, 3⟩
/-- RUN_ID.TRIG_ENTRIES (R151). -/
def RUN_ID_TRIG_ENTRIES : FieldRef := ⟨Reg.RUN_ID, 16, 14⟩
/-- RUN_ID.TRIG_COUNTERS (R151). -/
def RUN_ID_TRIG_COUNTERS : FieldRef := ⟨Reg.RUN_ID, 32, 13⟩
/-- RUN_CTL.HALT (R151). -/
def RUN_CTL_HALT : FieldRef := ⟨Reg.RUN_CTL, 0, 1⟩
/-- RUN_CTL.ERR_IRQ_EN (R151). -/
def RUN_CTL_ERR_IRQ_EN : FieldRef := ⟨Reg.RUN_CTL, 1, 1⟩
/-- RUN_STATUS.SLICE_BUSY (R151). -/
def RUN_STATUS_SLICE_BUSY : FieldRef := ⟨Reg.RUN_STATUS, 0, 4⟩
/-- RUN_STATUS.HALTED (R151). -/
def RUN_STATUS_HALTED : FieldRef := ⟨Reg.RUN_STATUS, 4, 1⟩
/-- RUN_STATUS.GROUPS (R151). -/
def RUN_STATUS_GROUPS : FieldRef := ⟨Reg.RUN_STATUS, 8, 11⟩
/-- RUN_STATUS.OPEN (R151). -/
def RUN_STATUS_OPEN : FieldRef := ⟨Reg.RUN_STATUS, 32, 8⟩
/-- RUN_ERR.MISMATCH (R151). -/
def RUN_ERR_MISMATCH : FieldRef := ⟨Reg.RUN_ERR, 0, 1⟩
/-- RUN_ERR.REFORMED (R151). -/
def RUN_ERR_REFORMED : FieldRef := ⟨Reg.RUN_ERR, 1, 1⟩
/-- RUN_ERR.BROKEN (R151). -/
def RUN_ERR_BROKEN : FieldRef := ⟨Reg.RUN_ERR, 2, 1⟩
/-- RUN_ERR.TIMEOUT (R151). -/
def RUN_ERR_TIMEOUT : FieldRef := ⟨Reg.RUN_ERR, 3, 1⟩
/-- RUN_ERR.MAP_REFUSED (R151). -/
def RUN_ERR_MAP_REFUSED : FieldRef := ⟨Reg.RUN_ERR, 4, 1⟩
/-- RUN_ERR.FENCED (R151). -/
def RUN_ERR_FENCED : FieldRef := ⟨Reg.RUN_ERR, 5, 1⟩
/-- RUN_ERR_INFO.GROUP_ID (R151). -/
def RUN_ERR_INFO_GROUP_ID : FieldRef := ⟨Reg.RUN_ERR_INFO, 0, 16⟩
/-- RUN_ERR_INFO.RANK (R151). -/
def RUN_ERR_INFO_RANK : FieldRef := ⟨Reg.RUN_ERR_INFO, 16, 11⟩
/-- RUN_ERR_INFO.CAUSE (R151). -/
def RUN_ERR_INFO_CAUSE : FieldRef := ⟨Reg.RUN_ERR_INFO, 28, 4⟩
/-- RUN_ERR_INFO.HASH (R151). -/
def RUN_ERR_INFO_HASH : FieldRef := ⟨Reg.RUN_ERR_INFO, 32, 32⟩
/-- RUN_CLASS_MAP.CTRL_VC (R151). -/
def RUN_CLASS_MAP_CTRL_VC : FieldRef := ⟨Reg.RUN_CLASS_MAP, 0, 3⟩
/-- RUN_CLASS_MAP.COUNT_VC (R151). -/
def RUN_CLASS_MAP_COUNT_VC : FieldRef := ⟨Reg.RUN_CLASS_MAP, 4, 3⟩
/-- RUN_CLASS_MAP.DISPATCH_VC (R151). -/
def RUN_CLASS_MAP_DISPATCH_VC : FieldRef := ⟨Reg.RUN_CLASS_MAP, 8, 3⟩
/-- RUN_CLASS_MAP.RETURN_VC (R151). -/
def RUN_CLASS_MAP_RETURN_VC : FieldRef := ⟨Reg.RUN_CLASS_MAP, 12, 3⟩
/-- RUN_CLASS_MAP.BULK_VC (R151). -/
def RUN_CLASS_MAP_BULK_VC : FieldRef := ⟨Reg.RUN_CLASS_MAP, 16, 3⟩
/-- RUN_CLASS_WEIGHT.DISPATCH (R151). -/
def RUN_CLASS_WEIGHT_DISPATCH : FieldRef := ⟨Reg.RUN_CLASS_WEIGHT, 0, 8⟩
/-- RUN_CLASS_WEIGHT.RETURN (R151). -/
def RUN_CLASS_WEIGHT_RETURN : FieldRef := ⟨Reg.RUN_CLASS_WEIGHT, 8, 8⟩
/-- RUN_CLASS_WEIGHT.BULK (R151). -/
def RUN_CLASS_WEIGHT_BULK : FieldRef := ⟨Reg.RUN_CLASS_WEIGHT, 16, 8⟩
/-- RUN_STALE_DROPS.COUNT (R151). -/
def RUN_STALE_DROPS_COUNT : FieldRef := ⟨Reg.RUN_STALE_DROPS, 0, 48⟩
/-- RUN_TRIG.WORD (R151). -/
def RUN_TRIG_WORD : FieldRef := ⟨Reg.RUN_TRIG, 0, 64⟩
/-- TIL_ID.PHYS (R185). -/
def TIL_ID_PHYS : FieldRef := ⟨Reg.TIL_ID, 0, 8⟩
/-- TIL_ID.ROW (R185). -/
def TIL_ID_ROW : FieldRef := ⟨Reg.TIL_ID, 8, 5⟩
/-- TIL_ID.COL (R185). -/
def TIL_ID_COL : FieldRef := ⟨Reg.TIL_ID, 13, 3⟩
/-- TIL_ID.BASE_DIE (R185). -/
def TIL_ID_BASE_DIE : FieldRef := ⟨Reg.TIL_ID, 16, 2⟩
/-- TIL_ID.LOGICAL (R185). -/
def TIL_ID_LOGICAL : FieldRef := ⟨Reg.TIL_ID, 20, 8⟩
/-- TIL_ID.STATE (R185). -/
def TIL_ID_STATE : FieldRef := ⟨Reg.TIL_ID, 28, 2⟩
/-- TIL_CTL.HALT (R185). -/
def TIL_CTL_HALT : FieldRef := ⟨Reg.TIL_CTL, 0, 1⟩
/-- TIL_CTL.ERR_IRQ_EN (R185). -/
def TIL_CTL_ERR_IRQ_EN : FieldRef := ⟨Reg.TIL_CTL, 1, 1⟩
/-- TIL_CTL.CLK_HOLD (R185). -/
def TIL_CTL_CLK_HOLD : FieldRef := ⟨Reg.TIL_CTL, 2, 1⟩
/-- TIL_STATUS.ROW_ON (R185). -/
def TIL_STATUS_ROW_ON : FieldRef := ⟨Reg.TIL_STATUS, 0, 1⟩
/-- TIL_STATUS.CLK_ON (R185). -/
def TIL_STATUS_CLK_ON : FieldRef := ⟨Reg.TIL_STATUS, 1, 1⟩
/-- TIL_STATUS.HALTED (R185). -/
def TIL_STATUS_HALTED : FieldRef := ⟨Reg.TIL_STATUS, 2, 1⟩
/-- TIL_STATUS.STOKER_BUSY (R185). -/
def TIL_STATUS_STOKER_BUSY : FieldRef := ⟨Reg.TIL_STATUS, 3, 1⟩
/-- TIL_STATUS.LADLE_BUSY (R185). -/
def TIL_STATUS_LADLE_BUSY : FieldRef := ⟨Reg.TIL_STATUS, 4, 1⟩
/-- TIL_STATUS.ARRAY_BUSY (R185). -/
def TIL_STATUS_ARRAY_BUSY : FieldRef := ⟨Reg.TIL_STATUS, 5, 1⟩
/-- TIL_STATUS.VEC_BUSY (R185). -/
def TIL_STATUS_VEC_BUSY : FieldRef := ⟨Reg.TIL_STATUS, 6, 1⟩
/-- TIL_STATUS.ACC_FILE (R185). -/
def TIL_STATUS_ACC_FILE : FieldRef := ⟨Reg.TIL_STATUS, 7, 1⟩
/-- TIL_STATUS.SHAPE (R185). -/
def TIL_STATUS_SHAPE : FieldRef := ⟨Reg.TIL_STATUS, 8, 2⟩
/-- TIL_STATUS.SEGMENTS (R185). -/
def TIL_STATUS_SEGMENTS : FieldRef := ⟨Reg.TIL_STATUS, 10, 2⟩
/-- TIL_STATUS.AXIS (R185). -/
def TIL_STATUS_AXIS : FieldRef := ⟨Reg.TIL_STATUS, 12, 1⟩
/-- TIL_STATUS.STEAL_OFF (R185). -/
def TIL_STATUS_STEAL_OFF : FieldRef := ⟨Reg.TIL_STATUS, 13, 1⟩
/-- TIL_STATUS.STREAM (R185). -/
def TIL_STATUS_STREAM : FieldRef := ⟨Reg.TIL_STATUS, 16, 6⟩
/-- TIL_STATUS.CONTEXT (R185). -/
def TIL_STATUS_CONTEXT : FieldRef := ⟨Reg.TIL_STATUS, 32, 18⟩
/-- TIL_FAULT.DATAPATH (R185). -/
def TIL_FAULT_DATAPATH : FieldRef := ⟨Reg.TIL_FAULT, 0, 7⟩
/-- TIL_FAULT.STOKER (R185). -/
def TIL_FAULT_STOKER : FieldRef := ⟨Reg.TIL_FAULT, 16, 16⟩
/-- TIL_FAULT_INFO.CONTEXT (R185). -/
def TIL_FAULT_INFO_CONTEXT : FieldRef := ⟨Reg.TIL_FAULT_INFO, 0, 18⟩
/-- TIL_FAULT_INFO.STREAM (R185). -/
def TIL_FAULT_INFO_STREAM : FieldRef := ⟨Reg.TIL_FAULT_INFO, 18, 6⟩
/-- TIL_FAULT_INFO.CAUSE (R185). -/
def TIL_FAULT_INFO_CAUSE : FieldRef := ⟨Reg.TIL_FAULT_INFO, 24, 5⟩
/-- TIL_FAULT_INFO.ADDR (R185). -/
def TIL_FAULT_INFO_ADDR : FieldRef := ⟨Reg.TIL_FAULT_INFO, 32, 27⟩
/-- TIL_ECC.CORRECTED (R185). -/
def TIL_ECC_CORRECTED : FieldRef := ⟨Reg.TIL_ECC, 0, 16⟩
/-- TIL_ECC.LAST_ADDR (R185). -/
def TIL_ECC_LAST_ADDR : FieldRef := ⟨Reg.TIL_ECC, 16, 22⟩
/-- TIL_STK_STATUS.PC (R249). -/
def TIL_STK_STATUS_PC : FieldRef := ⟨Reg.TIL_STK_STATUS, 0, 15⟩
/-- TIL_STK_STATUS.ENTRY (R249). -/
def TIL_STK_STATUS_ENTRY : FieldRef := ⟨Reg.TIL_STK_STATUS, 16, 6⟩
/-- TIL_STK_STATUS.RUNNING (R249). -/
def TIL_STK_STATUS_RUNNING : FieldRef := ⟨Reg.TIL_STK_STATUS, 22, 1⟩
/-- TIL_STK_STATUS.WAIT_QUEUE (R249). -/
def TIL_STK_STATUS_WAIT_QUEUE : FieldRef := ⟨Reg.TIL_STK_STATUS, 23, 1⟩
/-- TIL_STK_STATUS.WAIT_EVENT (R249). -/
def TIL_STK_STATUS_WAIT_EVENT : FieldRef := ⟨Reg.TIL_STK_STATUS, 24, 1⟩
/-- TIL_STK_STATUS.WAIT_LDW (R249). -/
def TIL_STK_STATUS_WAIT_LDW : FieldRef := ⟨Reg.TIL_STK_STATUS, 25, 1⟩
/-- TIL_STK_STATUS.LOOP_DEPTH (R249). -/
def TIL_STK_STATUS_LOOP_DEPTH : FieldRef := ⟨Reg.TIL_STK_STATUS, 26, 6⟩
/-- TIL_STK_STATUS.ITEMS (R249). -/
def TIL_STK_STATUS_ITEMS : FieldRef := ⟨Reg.TIL_STK_STATUS, 32, 7⟩
/-- TIL_IBANK.IMAGE0 (R249). -/
def TIL_IBANK_IMAGE0 : FieldRef := ⟨Reg.TIL_IBANK, 0, 16⟩
/-- TIL_IBANK.IMAGE1 (R249). -/
def TIL_IBANK_IMAGE1 : FieldRef := ⟨Reg.TIL_IBANK, 16, 16⟩
/-- TIL_IBANK.ACTIVE (R249). -/
def TIL_IBANK_ACTIVE : FieldRef := ⟨Reg.TIL_IBANK, 32, 1⟩
/-- TIL_IBANK.SWAP_PENDING (R249). -/
def TIL_IBANK_SWAP_PENDING : FieldRef := ⟨Reg.TIL_IBANK, 33, 1⟩
/-- TIL_IBANK.LOAD_LOCK (R249). -/
def TIL_IBANK_LOAD_LOCK : FieldRef := ⟨Reg.TIL_IBANK, 34, 1⟩
/-- TIL_STK_QUEUE.MMA (R249). -/
def TIL_STK_QUEUE_MMA : FieldRef := ⟨Reg.TIL_STK_QUEUE, 0, 5⟩
/-- TIL_STK_QUEUE.VEC (R249). -/
def TIL_STK_QUEUE_VEC : FieldRef := ⟨Reg.TIL_STK_QUEUE, 8, 6⟩
/-- TIL_STK_QUEUE.XFER (R249). -/
def TIL_STK_QUEUE_XFER : FieldRef := ⟨Reg.TIL_STK_QUEUE, 16, 5⟩
/-- TIL_STK_QUEUE.SKP (R249). -/
def TIL_STK_QUEUE_SKP : FieldRef := ⟨Reg.TIL_STK_QUEUE, 24, 4⟩
/-- TIL_STK_EVENT_LO.EVENT0 (R249). -/
def TIL_STK_EVENT_LO_EVENT0 : FieldRef := ⟨Reg.TIL_STK_EVENT_LO, 0, 8⟩
/-- TIL_STK_EVENT_LO.EVENT1 (R249). -/
def TIL_STK_EVENT_LO_EVENT1 : FieldRef := ⟨Reg.TIL_STK_EVENT_LO, 8, 8⟩
/-- TIL_STK_EVENT_LO.EVENT2 (R249). -/
def TIL_STK_EVENT_LO_EVENT2 : FieldRef := ⟨Reg.TIL_STK_EVENT_LO, 16, 8⟩
/-- TIL_STK_EVENT_LO.EVENT3 (R249). -/
def TIL_STK_EVENT_LO_EVENT3 : FieldRef := ⟨Reg.TIL_STK_EVENT_LO, 24, 8⟩
/-- TIL_STK_EVENT_LO.EVENT4 (R249). -/
def TIL_STK_EVENT_LO_EVENT4 : FieldRef := ⟨Reg.TIL_STK_EVENT_LO, 32, 8⟩
/-- TIL_STK_EVENT_LO.EVENT5 (R249). -/
def TIL_STK_EVENT_LO_EVENT5 : FieldRef := ⟨Reg.TIL_STK_EVENT_LO, 40, 8⟩
/-- TIL_STK_EVENT_LO.EVENT6 (R249). -/
def TIL_STK_EVENT_LO_EVENT6 : FieldRef := ⟨Reg.TIL_STK_EVENT_LO, 48, 8⟩
/-- TIL_STK_EVENT_LO.EVENT7 (R249). -/
def TIL_STK_EVENT_LO_EVENT7 : FieldRef := ⟨Reg.TIL_STK_EVENT_LO, 56, 8⟩
/-- TIL_STK_EVENT_HI.EVENT0 (R249). -/
def TIL_STK_EVENT_HI_EVENT0 : FieldRef := ⟨Reg.TIL_STK_EVENT_HI, 0, 8⟩
/-- TIL_STK_EVENT_HI.EVENT1 (R249). -/
def TIL_STK_EVENT_HI_EVENT1 : FieldRef := ⟨Reg.TIL_STK_EVENT_HI, 8, 8⟩
/-- TIL_STK_EVENT_HI.EVENT2 (R249). -/
def TIL_STK_EVENT_HI_EVENT2 : FieldRef := ⟨Reg.TIL_STK_EVENT_HI, 16, 8⟩
/-- TIL_STK_EVENT_HI.EVENT3 (R249). -/
def TIL_STK_EVENT_HI_EVENT3 : FieldRef := ⟨Reg.TIL_STK_EVENT_HI, 24, 8⟩
/-- TIL_STK_EVENT_HI.EVENT4 (R249). -/
def TIL_STK_EVENT_HI_EVENT4 : FieldRef := ⟨Reg.TIL_STK_EVENT_HI, 32, 8⟩
/-- TIL_STK_EVENT_HI.EVENT5 (R249). -/
def TIL_STK_EVENT_HI_EVENT5 : FieldRef := ⟨Reg.TIL_STK_EVENT_HI, 40, 8⟩
/-- TIL_STK_EVENT_HI.EVENT6 (R249). -/
def TIL_STK_EVENT_HI_EVENT6 : FieldRef := ⟨Reg.TIL_STK_EVENT_HI, 48, 8⟩
/-- TIL_STK_EVENT_HI.EVENT7 (R249). -/
def TIL_STK_EVENT_HI_EVENT7 : FieldRef := ⟨Reg.TIL_STK_EVENT_HI, 56, 8⟩
/-- TIL_STK_STALL.QFULL (R249). -/
def TIL_STK_STALL_QFULL : FieldRef := ⟨Reg.TIL_STK_STALL, 0, 32⟩
/-- TIL_STK_STALL.EVENT (R249). -/
def TIL_STK_STALL_EVENT : FieldRef := ⟨Reg.TIL_STK_STALL, 32, 32⟩
/-- SKP_ID.UNITS (R211). -/
def SKP_ID_UNITS : FieldRef := ⟨Reg.SKP_ID, 0, 8⟩
/-- SKP_ID.PRODUCTS (R211). -/
def SKP_ID_PRODUCTS : FieldRef := ⟨Reg.SKP_ID, 16, 16⟩
/-- SKP_ID.QUEUE (R211). -/
def SKP_ID_QUEUE : FieldRef := ⟨Reg.SKP_ID, 32, 16⟩
/-- SKP_CTL.CERT_ALLOW (R211). -/
def SKP_CTL_CERT_ALLOW : FieldRef := ⟨Reg.SKP_CTL, 0, 1⟩
/-- SKP_CTL.SPEC_ALLOW (R211). -/
def SKP_CTL_SPEC_ALLOW : FieldRef := ⟨Reg.SKP_CTL, 1, 1⟩
/-- SKP_CTL.ERR_IRQ_EN (R211). -/
def SKP_CTL_ERR_IRQ_EN : FieldRef := ⟨Reg.SKP_CTL, 2, 1⟩
/-- SKP_STATUS.BUSY_UNITS (R211). -/
def SKP_STATUS_BUSY_UNITS : FieldRef := ⟨Reg.SKP_STATUS, 0, 8⟩
/-- SKP_STATUS.SPEC_UNITS (R211). -/
def SKP_STATUS_SPEC_UNITS : FieldRef := ⟨Reg.SKP_STATUS, 8, 8⟩
/-- SKP_ERR.BOUND_VIOLATION (R211). -/
def SKP_ERR_BOUND_VIOLATION : FieldRef := ⟨Reg.SKP_ERR, 0, 1⟩
/-- SKP_ERR.HDR_MISMATCH (R211). -/
def SKP_ERR_HDR_MISMATCH : FieldRef := ⟨Reg.SKP_ERR, 1, 1⟩
/-- SKP_ERR_INFO.CONTEXT (R211). -/
def SKP_ERR_INFO_CONTEXT : FieldRef := ⟨Reg.SKP_ERR_INFO, 0, 18⟩
/-- SKP_ERR_INFO.PHYS_TILE (R211). -/
def SKP_ERR_INFO_PHYS_TILE : FieldRef := ⟨Reg.SKP_ERR_INFO, 18, 8⟩
/-- SKP_ERR_INFO.CAUSE (R211). -/
def SKP_ERR_INFO_CAUSE : FieldRef := ⟨Reg.SKP_ERR_INFO, 26, 4⟩
/-- SKP_ERR_INFO.NEURON (R211). -/
def SKP_ERR_INFO_NEURON : FieldRef := ⟨Reg.SKP_ERR_INFO, 32, 16⟩
/-- SKP_ERR_INFO.ROW (R211). -/
def SKP_ERR_INFO_ROW : FieldRef := ⟨Reg.SKP_ERR_INFO, 48, 6⟩
/-- WSP_ID.FRAMES (R399). -/
def WSP_ID_FRAMES : FieldRef := ⟨Reg.WSP_ID, 0, 16⟩
/-- WSP_ID.STACKS (R399). -/
def WSP_ID_STACKS : FieldRef := ⟨Reg.WSP_ID, 16, 5⟩
/-- WSP_ID.MAX_PAGES (R399). -/
def WSP_ID_MAX_PAGES : FieldRef := ⟨Reg.WSP_ID, 32, 26⟩
/-- WSP_CTL.ERR_IRQ_EN (R399). -/
def WSP_CTL_ERR_IRQ_EN : FieldRef := ⟨Reg.WSP_CTL, 0, 1⟩
/-- WSP_CTL.PREFETCH_EN (R399). -/
def WSP_CTL_PREFETCH_EN : FieldRef := ⟨Reg.WSP_CTL, 1, 1⟩
/-- WSP_CTL.SCRUB_EN (R399). -/
def WSP_CTL_SCRUB_EN : FieldRef := ⟨Reg.WSP_CTL, 2, 1⟩
/-- WSP_STATUS.STACK_FAILED (R399). -/
def WSP_STATUS_STACK_FAILED : FieldRef := ⟨Reg.WSP_STATUS, 0, 24⟩
/-- WSP_STATUS.DEGRADED (R399). -/
def WSP_STATUS_DEGRADED : FieldRef := ⟨Reg.WSP_STATUS, 24, 1⟩
/-- WSP_STATUS.REPOUR (R399). -/
def WSP_STATUS_REPOUR : FieldRef := ⟨Reg.WSP_STATUS, 25, 1⟩
/-- WSP_STATUS.FREE_FRAMES (R399). -/
def WSP_STATUS_FREE_FRAMES : FieldRef := ⟨Reg.WSP_STATUS, 32, 21⟩
/-- WSP_UNPLACED.UNPLACED (R399). -/
def WSP_UNPLACED_UNPLACED : FieldRef := ⟨Reg.WSP_UNPLACED, 0, 25⟩
/-- WSP_ERR.DRAM_UNCORR (R399). -/
def WSP_ERR_DRAM_UNCORR : FieldRef := ⟨Reg.WSP_ERR, 0, 1⟩
/-- WSP_ERR.PAGE_LOST (R399). -/
def WSP_ERR_PAGE_LOST : FieldRef := ⟨Reg.WSP_ERR, 1, 1⟩
/-- WSP_ERR.EXPERT_LOST (R399). -/
def WSP_ERR_EXPERT_LOST : FieldRef := ⟨Reg.WSP_ERR, 2, 1⟩
/-- WSP_ERR.STACK_FAILED (R399). -/
def WSP_ERR_STACK_FAILED : FieldRef := ⟨Reg.WSP_ERR, 3, 1⟩
/-- WSP_ERR.FRAME_RETIRED (R399). -/
def WSP_ERR_FRAME_RETIRED : FieldRef := ⟨Reg.WSP_ERR, 4, 1⟩
/-- WSP_ERR.BAR2_MISS (R399). -/
def WSP_ERR_BAR2_MISS : FieldRef := ⟨Reg.WSP_ERR, 5, 1⟩
/-- WSP_ERR.FETCH_NO_ROOM (R399). -/
def WSP_ERR_FETCH_NO_ROOM : FieldRef := ⟨Reg.WSP_ERR, 6, 1⟩
/-- WSP_ERR_INFO.PAGE (R399). -/
def WSP_ERR_INFO_PAGE : FieldRef := ⟨Reg.WSP_ERR_INFO, 0, 27⟩
/-- WSP_ERR_INFO.STACK (R399). -/
def WSP_ERR_INFO_STACK : FieldRef := ⟨Reg.WSP_ERR_INFO, 27, 5⟩
/-- WSP_ERR_INFO.CAUSE (R399). -/
def WSP_ERR_INFO_CAUSE : FieldRef := ⟨Reg.WSP_ERR_INFO, 32, 4⟩
/-- WSP_ERR_INFO.EXPERT (R399). -/
def WSP_ERR_INFO_EXPERT : FieldRef := ⟨Reg.WSP_ERR_INFO, 36, 20⟩
/-- WSP_ERR_INFO2.MODEL (R399). -/
def WSP_ERR_INFO2_MODEL : FieldRef := ⟨Reg.WSP_ERR_INFO2, 0, 16⟩
/-- WSP_ERR_INFO2.FRAME (R399). -/
def WSP_ERR_INFO2_FRAME : FieldRef := ⟨Reg.WSP_ERR_INFO2, 16, 16⟩
/-- WSP_QUERY.PAGE (R399). -/
def WSP_QUERY_PAGE : FieldRef := ⟨Reg.WSP_QUERY, 0, 27⟩
/-- WSP_QUERY_D.DESC (R399). -/
def WSP_QUERY_D_DESC : FieldRef := ⟨Reg.WSP_QUERY_D, 0, 64⟩
/-- WSP_STACK.STATE (R399). -/
def WSP_STACK_STATE : FieldRef := ⟨Reg.WSP_STACK, 0, 2⟩
/-- WSP_STACK.FREE (R399). -/
def WSP_STACK_FREE : FieldRef := ⟨Reg.WSP_STACK, 2, 16⟩
/-- WSP_STACK.RETIRED (R399). -/
def WSP_STACK_RETIRED : FieldRef := ⟨Reg.WSP_STACK, 18, 11⟩
/-- WSP_STACK.PC_FAILED (R399). -/
def WSP_STACK_PC_FAILED : FieldRef := ⟨Reg.WSP_STACK, 29, 7⟩
/-- WSP_STACK.CORRECTED (R399). -/
def WSP_STACK_CORRECTED : FieldRef := ⟨Reg.WSP_STACK, 36, 16⟩
/-- NTL_ID.CHANNELS (R402). -/
def NTL_ID_CHANNELS : FieldRef := ⟨Reg.NTL_ID, 0, 5⟩
/-- NTL_ID.DATA_UNITS (R402). -/
def NTL_ID_DATA_UNITS : FieldRef := ⟨Reg.NTL_ID, 8, 8⟩
/-- NTL_ID.SLOTS (R402). -/
def NTL_ID_SLOTS : FieldRef := ⟨Reg.NTL_ID, 32, 25⟩
/-- NTL_CTL.ERR_IRQ_EN (R402). -/
def NTL_CTL_ERR_IRQ_EN : FieldRef := ⟨Reg.NTL_CTL, 0, 1⟩
/-- NTL_CTL.DISTURB_EN (R402). -/
def NTL_CTL_DISTURB_EN : FieldRef := ⟨Reg.NTL_CTL, 1, 1⟩
/-- NTL_CTL.PATROL_EN (R402). -/
def NTL_CTL_PATROL_EN : FieldRef := ⟨Reg.NTL_CTL, 2, 1⟩
/-- NTL_CTL.WEAR_EN (R402). -/
def NTL_CTL_WEAR_EN : FieldRef := ⟨Reg.NTL_CTL, 3, 1⟩
/-- NTL_CFG.DISTURB_READS (R402). -/
def NTL_CFG_DISTURB_READS : FieldRef := ⟨Reg.NTL_CFG, 0, 32⟩
/-- NTL_CFG.PATROL_HOURS (R402). -/
def NTL_CFG_PATROL_HOURS : FieldRef := ⟨Reg.NTL_CFG, 32, 16⟩
/-- NTL_CFG.WEAR_GAP (R402). -/
def NTL_CFG_WEAR_GAP : FieldRef := ⟨Reg.NTL_CFG, 48, 16⟩
/-- NTL_STATUS.CH_FAILED (R402). -/
def NTL_STATUS_CH_FAILED : FieldRef := ⟨Reg.NTL_STATUS, 0, 16⟩
/-- NTL_STATUS.DEGRADED (R402). -/
def NTL_STATUS_DEGRADED : FieldRef := ⟨Reg.NTL_STATUS, 16, 1⟩
/-- NTL_STATUS.LIFE_USED (R402). -/
def NTL_STATUS_LIFE_USED : FieldRef := ⟨Reg.NTL_STATUS, 24, 8⟩
/-- NTL_STATUS.FREE_SLOTS (R402). -/
def NTL_STATUS_FREE_SLOTS : FieldRef := ⟨Reg.NTL_STATUS, 32, 25⟩
/-- NTL_ERR.UNIT_UNCORR (R402). -/
def NTL_ERR_UNIT_UNCORR : FieldRef := ⟨Reg.NTL_ERR, 0, 1⟩
/-- NTL_ERR.STRIPE_LOST (R402). -/
def NTL_ERR_STRIPE_LOST : FieldRef := ⟨Reg.NTL_ERR, 1, 1⟩
/-- NTL_ERR.CH_FAILED (R402). -/
def NTL_ERR_CH_FAILED : FieldRef := ⟨Reg.NTL_ERR, 2, 1⟩
/-- NTL_ERR.WRITE_FAIL (R402). -/
def NTL_ERR_WRITE_FAIL : FieldRef := ⟨Reg.NTL_ERR, 3, 1⟩
/-- NTL_ERR.SPARE_LOW (R402). -/
def NTL_ERR_SPARE_LOW : FieldRef := ⟨Reg.NTL_ERR, 4, 1⟩
/-- NTL_ERR_INFO.CHANNEL (R402). -/
def NTL_ERR_INFO_CHANNEL : FieldRef := ⟨Reg.NTL_ERR_INFO, 0, 4⟩
/-- NTL_ERR_INFO.CAUSE (R402). -/
def NTL_ERR_INFO_CAUSE : FieldRef := ⟨Reg.NTL_ERR_INFO, 4, 4⟩
/-- NTL_ERR_INFO.SLOT (R402). -/
def NTL_ERR_INFO_SLOT : FieldRef := ⟨Reg.NTL_ERR_INFO, 32, 25⟩
/-- FAB_PORT_ID.PORT (R440). -/
def FAB_PORT_ID_PORT : FieldRef := ⟨Reg.FAB_PORT_ID, 0, 5⟩
/-- FAB_PORT_ID.BASE_DIE (R440). -/
def FAB_PORT_ID_BASE_DIE : FieldRef := ⟨Reg.FAB_PORT_ID, 5, 2⟩
/-- FAB_PORT_ID.CONNECTOR (R440). -/
def FAB_PORT_ID_CONNECTOR : FieldRef := ⟨Reg.FAB_PORT_ID, 7, 2⟩
/-- FAB_PORT_ID.POSITION (R440). -/
def FAB_PORT_ID_POSITION : FieldRef := ⟨Reg.FAB_PORT_ID, 9, 3⟩
/-- FAB_PORT_CTL.ENABLE (R440). -/
def FAB_PORT_CTL_ENABLE : FieldRef := ⟨Reg.FAB_PORT_CTL, 0, 1⟩
/-- FAB_PORT_CTL.FWD_EN (R440). -/
def FAB_PORT_CTL_FWD_EN : FieldRef := ⟨Reg.FAB_PORT_CTL, 1, 1⟩
/-- FAB_PORT_CTL.ERR_IRQ_EN (R440). -/
def FAB_PORT_CTL_ERR_IRQ_EN : FieldRef := ⟨Reg.FAB_PORT_CTL, 2, 1⟩
/-- FAB_PORT_CTL.RETRAIN (R440). -/
def FAB_PORT_CTL_RETRAIN : FieldRef := ⟨Reg.FAB_PORT_CTL, 3, 1⟩
/-- FAB_PORT_CTL.ALLOW_2LANE (R440). -/
def FAB_PORT_CTL_ALLOW_2LANE : FieldRef := ⟨Reg.FAB_PORT_CTL, 4, 1⟩
/-- FAB_PORT_CTL.ALLOW_1X (R440). -/
def FAB_PORT_CTL_ALLOW_1X : FieldRef := ⟨Reg.FAB_PORT_CTL, 5, 1⟩
/-- FAB_PORT_STATUS.STATE (R440). -/
def FAB_PORT_STATUS_STATE : FieldRef := ⟨Reg.FAB_PORT_STATUS, 0, 3⟩
/-- FAB_PORT_STATUS.LANES (R440). -/
def FAB_PORT_STATUS_LANES : FieldRef := ⟨Reg.FAB_PORT_STATUS, 3, 3⟩
/-- FAB_PORT_STATUS.PAIR (R440). -/
def FAB_PORT_STATUS_PAIR : FieldRef := ⟨Reg.FAB_PORT_STATUS, 6, 1⟩
/-- FAB_PORT_STATUS.RATE (R440). -/
def FAB_PORT_STATUS_RATE : FieldRef := ⟨Reg.FAB_PORT_STATUS, 7, 1⟩
/-- FAB_PORT_STATUS.VER_MAJOR (R440). -/
def FAB_PORT_STATUS_VER_MAJOR : FieldRef := ⟨Reg.FAB_PORT_STATUS, 8, 4⟩
/-- FAB_PORT_STATUS.VER_MINOR (R440). -/
def FAB_PORT_STATUS_VER_MINOR : FieldRef := ⟨Reg.FAB_PORT_STATUS, 12, 4⟩
/-- FAB_PORT_STATUS.RETRAINS (R440). -/
def FAB_PORT_STATUS_RETRAINS : FieldRef := ⟨Reg.FAB_PORT_STATUS, 32, 16⟩
/-- FAB_PORT_PEER.PEER_EP (R440). -/
def FAB_PORT_PEER_PEER_EP : FieldRef := ⟨Reg.FAB_PORT_PEER, 0, 20⟩
/-- FAB_PORT_PEER.PEER_PORT (R440). -/
def FAB_PORT_PEER_PEER_PORT : FieldRef := ⟨Reg.FAB_PORT_PEER, 20, 5⟩
/-- FAB_PORT_PEER.VALID (R440). -/
def FAB_PORT_PEER_VALID : FieldRef := ⟨Reg.FAB_PORT_PEER, 25, 1⟩
/-- FAB_PORT_PEER.PEER_DIGEST (R440). -/
def FAB_PORT_PEER_PEER_DIGEST : FieldRef := ⟨Reg.FAB_PORT_PEER, 32, 32⟩
/-- FAB_PORT_LANES.SIGNAL0 (R440). -/
def FAB_PORT_LANES_SIGNAL0 : FieldRef := ⟨Reg.FAB_PORT_LANES, 0, 1⟩
/-- FAB_PORT_LANES.SIGNAL1 (R440). -/
def FAB_PORT_LANES_SIGNAL1 : FieldRef := ⟨Reg.FAB_PORT_LANES, 8, 1⟩
/-- FAB_PORT_LANES.SIGNAL2 (R440). -/
def FAB_PORT_LANES_SIGNAL2 : FieldRef := ⟨Reg.FAB_PORT_LANES, 16, 1⟩
/-- FAB_PORT_LANES.SIGNAL3 (R440). -/
def FAB_PORT_LANES_SIGNAL3 : FieldRef := ⟨Reg.FAB_PORT_LANES, 24, 1⟩
/-- FAB_PORT_LANES.TRAINED0 (R440). -/
def FAB_PORT_LANES_TRAINED0 : FieldRef := ⟨Reg.FAB_PORT_LANES, 1, 1⟩
/-- FAB_PORT_LANES.TRAINED1 (R440). -/
def FAB_PORT_LANES_TRAINED1 : FieldRef := ⟨Reg.FAB_PORT_LANES, 9, 1⟩
/-- FAB_PORT_LANES.TRAINED2 (R440). -/
def FAB_PORT_LANES_TRAINED2 : FieldRef := ⟨Reg.FAB_PORT_LANES, 17, 1⟩
/-- FAB_PORT_LANES.TRAINED3 (R440). -/
def FAB_PORT_LANES_TRAINED3 : FieldRef := ⟨Reg.FAB_PORT_LANES, 25, 1⟩
/-- FAB_PORT_LANES.FAILED0 (R440). -/
def FAB_PORT_LANES_FAILED0 : FieldRef := ⟨Reg.FAB_PORT_LANES, 2, 1⟩
/-- FAB_PORT_LANES.FAILED1 (R440). -/
def FAB_PORT_LANES_FAILED1 : FieldRef := ⟨Reg.FAB_PORT_LANES, 10, 1⟩
/-- FAB_PORT_LANES.FAILED2 (R440). -/
def FAB_PORT_LANES_FAILED2 : FieldRef := ⟨Reg.FAB_PORT_LANES, 18, 1⟩
/-- FAB_PORT_LANES.FAILED3 (R440). -/
def FAB_PORT_LANES_FAILED3 : FieldRef := ⟨Reg.FAB_PORT_LANES, 26, 1⟩
/-- FAB_PORT_ERR.LANE_FAIL (R440). -/
def FAB_PORT_ERR_LANE_FAIL : FieldRef := ⟨Reg.FAB_PORT_ERR, 0, 1⟩
/-- FAB_PORT_ERR.PORT_FAIL (R440). -/
def FAB_PORT_ERR_PORT_FAIL : FieldRef := ⟨Reg.FAB_PORT_ERR, 1, 1⟩
/-- FAB_PORT_ERR.RETRY_STORM (R440). -/
def FAB_PORT_ERR_RETRY_STORM : FieldRef := ⟨Reg.FAB_PORT_ERR, 2, 1⟩
/-- FAB_PORT_ERR.VERSION (R440). -/
def FAB_PORT_ERR_VERSION : FieldRef := ⟨Reg.FAB_PORT_ERR, 3, 1⟩
/-- FAB_PORT_ERR.TRAIN_TIMEOUT (R440). -/
def FAB_PORT_ERR_TRAIN_TIMEOUT : FieldRef := ⟨Reg.FAB_PORT_ERR, 4, 1⟩
/-- FAB_PORT_ERR.PEER_CHANGED (R440). -/
def FAB_PORT_ERR_PEER_CHANGED : FieldRef := ⟨Reg.FAB_PORT_ERR, 5, 1⟩
/-- FAB_PORT_ERR.INIT_TIMEOUT (R440). -/
def FAB_PORT_ERR_INIT_TIMEOUT : FieldRef := ⟨Reg.FAB_PORT_ERR, 6, 1⟩
/-- XRT_ID.SLICES (R442). -/
def XRT_ID_SLICES : FieldRef := ⟨Reg.XRT_ID, 0, 3⟩
/-- XRT_ID.VCS (R442). -/
def XRT_ID_VCS : FieldRef := ⟨Reg.XRT_ID, 3, 4⟩
/-- XRT_ID.RUNGS (R442). -/
def XRT_ID_RUNGS : FieldRef := ⟨Reg.XRT_ID, 7, 4⟩
/-- XRT_ID.MCAST_ENTRIES (R442). -/
def XRT_ID_MCAST_ENTRIES : FieldRef := ⟨Reg.XRT_ID, 16, 13⟩
/-- XRT_ID.FLOWS (R442). -/
def XRT_ID_FLOWS : FieldRef := ⟨Reg.XRT_ID, 32, 16⟩
/-- XRT_ID.REORDER (R442). -/
def XRT_ID_REORDER : FieldRef := ⟨Reg.XRT_ID, 48, 11⟩
/-- XRT_CTL.ERR_IRQ_EN (R442). -/
def XRT_CTL_ERR_IRQ_EN : FieldRef := ⟨Reg.XRT_CTL, 0, 1⟩
/-- XRT_TOPO.MODE (R442). -/
def XRT_TOPO_MODE : FieldRef := ⟨Reg.XRT_TOPO, 0, 2⟩
/-- XRT_TOPO.HX_ROWS (R442). -/
def XRT_TOPO_HX_ROWS : FieldRef := ⟨Reg.XRT_TOPO, 2, 4⟩
/-- XRT_TOPO.HX_COLS (R442). -/
def XRT_TOPO_HX_COLS : FieldRef := ⟨Reg.XRT_TOPO, 6, 4⟩
/-- XRT_TOPO.GROUPS (R442). -/
def XRT_TOPO_GROUPS : FieldRef := ⟨Reg.XRT_TOPO, 10, 15⟩
/-- XRT_TOPO.TOR_X (R442). -/
def XRT_TOPO_TOR_X : FieldRef := ⟨Reg.XRT_TOPO, 32, 5⟩
/-- XRT_TOPO.TOR_Y (R442). -/
def XRT_TOPO_TOR_Y : FieldRef := ⟨Reg.XRT_TOPO, 37, 5⟩
/-- XRT_TOPO.TOR_Z (R442). -/
def XRT_TOPO_TOR_Z : FieldRef := ⟨Reg.XRT_TOPO, 42, 5⟩
/-- XRT_SPRAY.MODE (R442). -/
def XRT_SPRAY_MODE : FieldRef := ⟨Reg.XRT_SPRAY, 0, 2⟩
/-- XRT_SPRAY.NM_BIAS (R442). -/
def XRT_SPRAY_NM_BIAS : FieldRef := ⟨Reg.XRT_SPRAY, 8, 8⟩
/-- XRT_VC_WEIGHT.W_0 (R442). -/
def XRT_VC_WEIGHT_W_0 : FieldRef := ⟨Reg.XRT_VC_WEIGHT, 0, 8⟩
/-- XRT_VC_WEIGHT.W_1 (R442). -/
def XRT_VC_WEIGHT_W_1 : FieldRef := ⟨Reg.XRT_VC_WEIGHT, 8, 8⟩
/-- XRT_VC_WEIGHT.W_2 (R442). -/
def XRT_VC_WEIGHT_W_2 : FieldRef := ⟨Reg.XRT_VC_WEIGHT, 16, 8⟩
/-- XRT_VC_WEIGHT.W_3 (R442). -/
def XRT_VC_WEIGHT_W_3 : FieldRef := ⟨Reg.XRT_VC_WEIGHT, 24, 8⟩
/-- XRT_VC_WEIGHT.W_4 (R442). -/
def XRT_VC_WEIGHT_W_4 : FieldRef := ⟨Reg.XRT_VC_WEIGHT, 32, 8⟩
/-- XRT_VC_WEIGHT.W_5 (R442). -/
def XRT_VC_WEIGHT_W_5 : FieldRef := ⟨Reg.XRT_VC_WEIGHT, 40, 8⟩
/-- XRT_VC_WEIGHT.W_6 (R442). -/
def XRT_VC_WEIGHT_W_6 : FieldRef := ⟨Reg.XRT_VC_WEIGHT, 48, 8⟩
/-- XRT_VC_WEIGHT.W_7 (R442). -/
def XRT_VC_WEIGHT_W_7 : FieldRef := ⟨Reg.XRT_VC_WEIGHT, 56, 8⟩
/-- XRT_LIMITS.HOP_LIMIT (R442). -/
def XRT_LIMITS_HOP_LIMIT : FieldRef := ⟨Reg.XRT_LIMITS, 0, 4⟩
/-- XRT_LIMITS.AGE_LIMIT (R442). -/
def XRT_LIMITS_AGE_LIMIT : FieldRef := ⟨Reg.XRT_LIMITS, 16, 9⟩
/-- XRT_LIMITS.RTO_US (R442). -/
def XRT_LIMITS_RTO_US : FieldRef := ⟨Reg.XRT_LIMITS, 32, 16⟩
/-- XRT_LIMITS.MAX_TRIES (R442). -/
def XRT_LIMITS_MAX_TRIES : FieldRef := ⟨Reg.XRT_LIMITS, 48, 4⟩
/-- XRT_THROTTLE.HIGH_KIB (R442). -/
def XRT_THROTTLE_HIGH_KIB : FieldRef := ⟨Reg.XRT_THROTTLE, 0, 16⟩
/-- XRT_THROTTLE.LOW_KIB (R442). -/
def XRT_THROTTLE_LOW_KIB : FieldRef := ⟨Reg.XRT_THROTTLE, 16, 16⟩
/-- XRT_THROTTLE.GAP (R442). -/
def XRT_THROTTLE_GAP : FieldRef := ⟨Reg.XRT_THROTTLE, 32, 16⟩
/-- XRT_EP.ENDPOINT (R442). -/
def XRT_EP_ENDPOINT : FieldRef := ⟨Reg.XRT_EP, 0, 20⟩
/-- XRT_EP.VALID (R442). -/
def XRT_EP_VALID : FieldRef := ⟨Reg.XRT_EP, 20, 1⟩
/-- XRT_EP.FENCED (R442). -/
def XRT_EP_FENCED : FieldRef := ⟨Reg.XRT_EP, 21, 1⟩
/-- XRT_EP.DRAINING (R442). -/
def XRT_EP_DRAINING : FieldRef := ⟨Reg.XRT_EP, 22, 1⟩
/-- XRT_EP.QUARANTINE (R442). -/
def XRT_EP_QUARANTINE : FieldRef := ⟨Reg.XRT_EP, 23, 1⟩
/-- XRT_EP.EPOCH (R442). -/
def XRT_EP_EPOCH : FieldRef := ⟨Reg.XRT_EP, 32, 16⟩
/-- XRT_EP.PREV_EPOCH (R442). -/
def XRT_EP_PREV_EPOCH : FieldRef := ⟨Reg.XRT_EP, 48, 16⟩
/-- XRT_QUAR_END.TICK (R442). -/
def XRT_QUAR_END_TICK : FieldRef := ⟨Reg.XRT_QUAR_END, 0, 64⟩
/-- XRT_CFG.MCAST_TC (R442). -/
def XRT_CFG_MCAST_TC : FieldRef := ⟨Reg.XRT_CFG, 0, 3⟩
/-- XRT_PORT_ROLE.ROLE_0 (R442). -/
def XRT_PORT_ROLE_ROLE_0 : FieldRef := ⟨Reg.XRT_PORT_ROLE, 0, 2⟩
/-- XRT_PORT_ROLE.ROLE_1 (R442). -/
def XRT_PORT_ROLE_ROLE_1 : FieldRef := ⟨Reg.XRT_PORT_ROLE, 2, 2⟩
/-- XRT_PORT_ROLE.ROLE_2 (R442). -/
def XRT_PORT_ROLE_ROLE_2 : FieldRef := ⟨Reg.XRT_PORT_ROLE, 4, 2⟩
/-- XRT_PORT_ROLE.ROLE_3 (R442). -/
def XRT_PORT_ROLE_ROLE_3 : FieldRef := ⟨Reg.XRT_PORT_ROLE, 6, 2⟩
/-- XRT_PORT_ROLE.ROLE_4 (R442). -/
def XRT_PORT_ROLE_ROLE_4 : FieldRef := ⟨Reg.XRT_PORT_ROLE, 8, 2⟩
/-- XRT_PORT_ROLE.ROLE_5 (R442). -/
def XRT_PORT_ROLE_ROLE_5 : FieldRef := ⟨Reg.XRT_PORT_ROLE, 10, 2⟩
/-- XRT_PORT_ROLE.ROLE_6 (R442). -/
def XRT_PORT_ROLE_ROLE_6 : FieldRef := ⟨Reg.XRT_PORT_ROLE, 12, 2⟩
/-- XRT_PORT_ROLE.ROLE_7 (R442). -/
def XRT_PORT_ROLE_ROLE_7 : FieldRef := ⟨Reg.XRT_PORT_ROLE, 14, 2⟩
/-- XRT_PORT_ROLE.ROLE_8 (R442). -/
def XRT_PORT_ROLE_ROLE_8 : FieldRef := ⟨Reg.XRT_PORT_ROLE, 16, 2⟩
/-- XRT_PORT_ROLE.ROLE_9 (R442). -/
def XRT_PORT_ROLE_ROLE_9 : FieldRef := ⟨Reg.XRT_PORT_ROLE, 18, 2⟩
/-- XRT_PORT_ROLE.ROLE_10 (R442). -/
def XRT_PORT_ROLE_ROLE_10 : FieldRef := ⟨Reg.XRT_PORT_ROLE, 20, 2⟩
/-- XRT_PORT_ROLE.ROLE_11 (R442). -/
def XRT_PORT_ROLE_ROLE_11 : FieldRef := ⟨Reg.XRT_PORT_ROLE, 22, 2⟩
/-- XRT_PORT_ROLE.ROLE_12 (R442). -/
def XRT_PORT_ROLE_ROLE_12 : FieldRef := ⟨Reg.XRT_PORT_ROLE, 24, 2⟩
/-- XRT_PORT_ROLE.ROLE_13 (R442). -/
def XRT_PORT_ROLE_ROLE_13 : FieldRef := ⟨Reg.XRT_PORT_ROLE, 26, 2⟩
/-- XRT_PORT_ROLE.ROLE_14 (R442). -/
def XRT_PORT_ROLE_ROLE_14 : FieldRef := ⟨Reg.XRT_PORT_ROLE, 28, 2⟩
/-- XRT_PORT_ROLE.ROLE_15 (R442). -/
def XRT_PORT_ROLE_ROLE_15 : FieldRef := ⟨Reg.XRT_PORT_ROLE, 30, 2⟩
/-- XRT_PORT_ROLE.ROLE_16 (R442). -/
def XRT_PORT_ROLE_ROLE_16 : FieldRef := ⟨Reg.XRT_PORT_ROLE, 32, 2⟩
/-- XRT_PORT_ROLE.ROLE_17 (R442). -/
def XRT_PORT_ROLE_ROLE_17 : FieldRef := ⟨Reg.XRT_PORT_ROLE, 34, 2⟩
/-- XRT_PORT_ROLE.ROLE_18 (R442). -/
def XRT_PORT_ROLE_ROLE_18 : FieldRef := ⟨Reg.XRT_PORT_ROLE, 36, 2⟩
/-- XRT_PORT_ROLE.ROLE_19 (R442). -/
def XRT_PORT_ROLE_ROLE_19 : FieldRef := ⟨Reg.XRT_PORT_ROLE, 38, 2⟩
/-- XRT_ERR.HOP_DROP (R442). -/
def XRT_ERR_HOP_DROP : FieldRef := ⟨Reg.XRT_ERR, 0, 1⟩
/-- XRT_ERR.AGE_DROP (R442). -/
def XRT_ERR_AGE_DROP : FieldRef := ⟨Reg.XRT_ERR, 1, 1⟩
/-- XRT_ERR.NO_ROUTE (R442). -/
def XRT_ERR_NO_ROUTE : FieldRef := ⟨Reg.XRT_ERR, 2, 1⟩
/-- XRT_ERR.MCAST_MISS (R442). -/
def XRT_ERR_MCAST_MISS : FieldRef := ⟨Reg.XRT_ERR, 3, 1⟩
/-- XRT_ERR.HDR_BAD (R442). -/
def XRT_ERR_HDR_BAD : FieldRef := ⟨Reg.XRT_ERR, 4, 1⟩
/-- XRT_ERR.CRC_BAD (R442). -/
def XRT_ERR_CRC_BAD : FieldRef := ⟨Reg.XRT_ERR, 5, 1⟩
/-- XRT_ERR.FLOW_FULL (R442). -/
def XRT_ERR_FLOW_FULL : FieldRef := ⟨Reg.XRT_ERR, 6, 1⟩
/-- XRT_ERR.REORDER_FULL (R442). -/
def XRT_ERR_REORDER_FULL : FieldRef := ⟨Reg.XRT_ERR, 7, 1⟩
/-- XRT_ERR.UNREACHABLE (R442). -/
def XRT_ERR_UNREACHABLE : FieldRef := ⟨Reg.XRT_ERR, 8, 1⟩
/-- XRT_ERR_INFO.ENDPOINT (R442). -/
def XRT_ERR_INFO_ENDPOINT : FieldRef := ⟨Reg.XRT_ERR_INFO, 0, 20⟩
/-- XRT_ERR_INFO.CAUSE (R442). -/
def XRT_ERR_INFO_CAUSE : FieldRef := ⟨Reg.XRT_ERR_INFO, 20, 4⟩
/-- XRT_ERR_INFO.PORT (R442). -/
def XRT_ERR_INFO_PORT : FieldRef := ⟨Reg.XRT_ERR_INFO, 24, 5⟩
/-- XRT_ERR_INFO.EPOCH (R442). -/
def XRT_ERR_INFO_EPOCH : FieldRef := ⟨Reg.XRT_ERR_INFO, 32, 16⟩
/-- XRT_GTBL.NUM0 (R443). -/
def XRT_GTBL_NUM0 : FieldRef := ⟨Reg.XRT_GTBL, 0, 6⟩
/-- XRT_GTBL.HERE0 (R443). -/
def XRT_GTBL_HERE0 : FieldRef := ⟨Reg.XRT_GTBL, 14, 1⟩
/-- XRT_GTBL.VALID0 (R443). -/
def XRT_GTBL_VALID0 : FieldRef := ⟨Reg.XRT_GTBL, 15, 1⟩
/-- XRT_GTBL.NUM1 (R443). -/
def XRT_GTBL_NUM1 : FieldRef := ⟨Reg.XRT_GTBL, 16, 6⟩
/-- XRT_GTBL.HERE1 (R443). -/
def XRT_GTBL_HERE1 : FieldRef := ⟨Reg.XRT_GTBL, 30, 1⟩
/-- XRT_GTBL.VALID1 (R443). -/
def XRT_GTBL_VALID1 : FieldRef := ⟨Reg.XRT_GTBL, 31, 1⟩
/-- XRT_GTBL.NUM2 (R443). -/
def XRT_GTBL_NUM2 : FieldRef := ⟨Reg.XRT_GTBL, 32, 6⟩
/-- XRT_GTBL.HERE2 (R443). -/
def XRT_GTBL_HERE2 : FieldRef := ⟨Reg.XRT_GTBL, 46, 1⟩
/-- XRT_GTBL.VALID2 (R443). -/
def XRT_GTBL_VALID2 : FieldRef := ⟨Reg.XRT_GTBL, 47, 1⟩
/-- XRT_GTBL.NUM3 (R443). -/
def XRT_GTBL_NUM3 : FieldRef := ⟨Reg.XRT_GTBL, 48, 6⟩
/-- XRT_GTBL.HERE3 (R443). -/
def XRT_GTBL_HERE3 : FieldRef := ⟨Reg.XRT_GTBL, 62, 1⟩
/-- XRT_GTBL.VALID3 (R443). -/
def XRT_GTBL_VALID3 : FieldRef := ⟨Reg.XRT_GTBL, 63, 1⟩
/-- XRT_LTBL.PORT (R443). -/
def XRT_LTBL_PORT : FieldRef := ⟨Reg.XRT_LTBL, 0, 5⟩
/-- XRT_TDIR.PORTS (R443). -/
def XRT_TDIR_PORTS : FieldRef := ⟨Reg.XRT_TDIR, 0, 20⟩
/-- XRT_MCAST.WORD (R443). -/
def XRT_MCAST_WORD : FieldRef := ⟨Reg.XRT_MCAST, 0, 64⟩
/-- SHP_ID.SUBSCRIBERS (R473). -/
def SHP_ID_SUBSCRIBERS : FieldRef := ⟨Reg.SHP_ID, 0, 11⟩
/-- SHP_ID.SERVICES (R473). -/
def SHP_ID_SERVICES : FieldRef := ⟨Reg.SHP_ID, 11, 7⟩
/-- SHP_ID.POLICERS (R473). -/
def SHP_ID_POLICERS : FieldRef := ⟨Reg.SHP_ID, 18, 7⟩
/-- SHP_CTL.EXEMPT_TC (R473). -/
def SHP_CTL_EXEMPT_TC : FieldRef := ⟨Reg.SHP_CTL, 0, 8⟩
/-- SHP_SUB_MAP.SUBSCRIBER (R473). -/
def SHP_SUB_MAP_SUBSCRIBER : FieldRef := ⟨Reg.SHP_SUB_MAP, 0, 10⟩
/-- SHP_SUB_CFG.RATE_MBPS (R473). -/
def SHP_SUB_CFG_RATE_MBPS : FieldRef := ⟨Reg.SHP_SUB_CFG, 0, 24⟩
/-- SHP_SUB_CFG.BURST_KIB (R473). -/
def SHP_SUB_CFG_BURST_KIB : FieldRef := ⟨Reg.SHP_SUB_CFG, 24, 16⟩
/-- SHP_SUB_CFG.EN (R473). -/
def SHP_SUB_CFG_EN : FieldRef := ⟨Reg.SHP_SUB_CFG, 40, 1⟩
/-- SHP_SUB_CFG.BORROW (R473). -/
def SHP_SUB_CFG_BORROW : FieldRef := ⟨Reg.SHP_SUB_CFG, 41, 1⟩
/-- SHP_SUB_CFG.TOKENS_ON_CHANGE (R473). -/
def SHP_SUB_CFG_TOKENS_ON_CHANGE : FieldRef := ⟨Reg.SHP_SUB_CFG, 42, 1⟩
/-- SHP_SUB_CFG.SERVICE (R473). -/
def SHP_SUB_CFG_SERVICE : FieldRef := ⟨Reg.SHP_SUB_CFG, 43, 6⟩
/-- SHP_SUB_OVH.OVERHEAD (R473). -/
def SHP_SUB_OVH_OVERHEAD : FieldRef := ⟨Reg.SHP_SUB_OVH, 0, 8⟩
/-- SHP_SVC_CFG.RATE_MBPS (R473). -/
def SHP_SVC_CFG_RATE_MBPS : FieldRef := ⟨Reg.SHP_SVC_CFG, 0, 24⟩
/-- SHP_SVC_CFG.BURST_KIB (R473). -/
def SHP_SVC_CFG_BURST_KIB : FieldRef := ⟨Reg.SHP_SVC_CFG, 24, 16⟩
/-- SHP_SVC_CFG.EN (R473). -/
def SHP_SVC_CFG_EN : FieldRef := ⟨Reg.SHP_SVC_CFG, 40, 1⟩
/-- SHP_SVC_CFG.TOKENS_ON_CHANGE (R473). -/
def SHP_SVC_CFG_TOKENS_ON_CHANGE : FieldRef := ⟨Reg.SHP_SVC_CFG, 42, 1⟩
/-- SHP_SVC_CFG.WEIGHT (R473). -/
def SHP_SVC_CFG_WEIGHT : FieldRef := ⟨Reg.SHP_SVC_CFG, 49, 8⟩
/-- SHP_SVC_OVH.OVERHEAD (R473). -/
def SHP_SVC_OVH_OVERHEAD : FieldRef := ⟨Reg.SHP_SVC_OVH, 0, 8⟩
/-- SHP_PORT_CFG.RATE_MBPS (R473). -/
def SHP_PORT_CFG_RATE_MBPS : FieldRef := ⟨Reg.SHP_PORT_CFG, 0, 24⟩
/-- SHP_PORT_CFG.BURST_KIB (R473). -/
def SHP_PORT_CFG_BURST_KIB : FieldRef := ⟨Reg.SHP_PORT_CFG, 24, 16⟩
/-- SHP_PORT_CFG.EN (R473). -/
def SHP_PORT_CFG_EN : FieldRef := ⟨Reg.SHP_PORT_CFG, 40, 1⟩
/-- SHP_PORT_CFG.TOKENS_ON_CHANGE (R473). -/
def SHP_PORT_CFG_TOKENS_ON_CHANGE : FieldRef := ⟨Reg.SHP_PORT_CFG, 42, 1⟩
/-- SHP_PORT_OVH.OVERHEAD (R473). -/
def SHP_PORT_OVH_OVERHEAD : FieldRef := ⟨Reg.SHP_PORT_OVH, 0, 8⟩
/-- SHP_POL_CFG.RATE_MBPS (R473). -/
def SHP_POL_CFG_RATE_MBPS : FieldRef := ⟨Reg.SHP_POL_CFG, 0, 24⟩
/-- SHP_POL_CFG.BURST_KIB (R473). -/
def SHP_POL_CFG_BURST_KIB : FieldRef := ⟨Reg.SHP_POL_CFG, 24, 16⟩
/-- SHP_POL_CFG.EN (R473). -/
def SHP_POL_CFG_EN : FieldRef := ⟨Reg.SHP_POL_CFG, 40, 1⟩
/-- SHP_POL_CFG.TOKENS_ON_CHANGE (R473). -/
def SHP_POL_CFG_TOKENS_ON_CHANGE : FieldRef := ⟨Reg.SHP_POL_CFG, 42, 1⟩
/-- SHP_POL_OVH.OVERHEAD (R473). -/
def SHP_POL_OVH_OVERHEAD : FieldRef := ⟨Reg.SHP_POL_OVH, 0, 8⟩
/-- SHP_POL_OVH.TC_MASK (R473). -/
def SHP_POL_OVH_TC_MASK : FieldRef := ⟨Reg.SHP_POL_OVH, 8, 8⟩
/-- FLK_ID.PROTO_MINOR (R471). -/
def FLK_ID_PROTO_MINOR : FieldRef := ⟨Reg.FLK_ID, 0, 8⟩
/-- FLK_ID.PROTO_MAJOR (R471). -/
def FLK_ID_PROTO_MAJOR : FieldRef := ⟨Reg.FLK_ID, 8, 8⟩
/-- FLK_ID.MAX_MEMBERS (R471). -/
def FLK_ID_MAX_MEMBERS : FieldRef := ⟨Reg.FLK_ID, 16, 4⟩
/-- FLK_ID.DIR_ENTRIES (R471). -/
def FLK_ID_DIR_ENTRIES : FieldRef := ⟨Reg.FLK_ID, 32, 20⟩
/-- FLK_CTL.ERR_IRQ_EN (R471). -/
def FLK_CTL_ERR_IRQ_EN : FieldRef := ⟨Reg.FLK_CTL, 0, 1⟩
/-- FLK_CFG.REQ_TC (R471). -/
def FLK_CFG_REQ_TC : FieldRef := ⟨Reg.FLK_CFG, 0, 3⟩
/-- FLK_CFG.RSP_TC (R471). -/
def FLK_CFG_RSP_TC : FieldRef := ⟨Reg.FLK_CFG, 4, 3⟩
/-- FLK_CFG.RETRY_US (R471). -/
def FLK_CFG_RETRY_US : FieldRef := ⟨Reg.FLK_CFG, 16, 16⟩
/-- FLK_CFG.TRIES (R471). -/
def FLK_CFG_TRIES : FieldRef := ⟨Reg.FLK_CFG, 32, 4⟩
/-- FLK_STATUS.MEMBER (R471). -/
def FLK_STATUS_MEMBER : FieldRef := ⟨Reg.FLK_STATUS, 0, 1⟩
/-- FLK_STATUS.RANK (R471). -/
def FLK_STATUS_RANK : FieldRef := ⟨Reg.FLK_STATUS, 1, 3⟩
/-- FLK_STATUS.COUNT (R471). -/
def FLK_STATUS_COUNT : FieldRef := ⟨Reg.FLK_STATUS, 4, 4⟩
/-- FLK_STATUS.SETTLED_MINOR (R471). -/
def FLK_STATUS_SETTLED_MINOR : FieldRef := ⟨Reg.FLK_STATUS, 8, 8⟩
/-- FLK_STATUS.FLASK (R471). -/
def FLK_STATUS_FLASK : FieldRef := ⟨Reg.FLK_STATUS, 16, 16⟩
/-- FLK_STATUS.LOST (R471). -/
def FLK_STATUS_LOST : FieldRef := ⟨Reg.FLK_STATUS, 32, 8⟩
/-- FLK_ERR.MEMBER_LOST (R471). -/
def FLK_ERR_MEMBER_LOST : FieldRef := ⟨Reg.FLK_ERR, 0, 1⟩
/-- FLK_ERR.TC_REFUSED (R471). -/
def FLK_ERR_TC_REFUSED : FieldRef := ⟨Reg.FLK_ERR, 1, 1⟩
/-- FLK_ERR.POISON_READ (R471). -/
def FLK_ERR_POISON_READ : FieldRef := ⟨Reg.FLK_ERR, 2, 1⟩
/-- FLK_ERR_INFO.RANK (R471). -/
def FLK_ERR_INFO_RANK : FieldRef := ⟨Reg.FLK_ERR_INFO, 0, 3⟩
/-- FLK_ERR_INFO.CAUSE (R471). -/
def FLK_ERR_INFO_CAUSE : FieldRef := ⟨Reg.FLK_ERR_INFO, 4, 4⟩
/-- FLK_ERR_INFO.LINE (R471). -/
def FLK_ERR_INFO_LINE : FieldRef := ⟨Reg.FLK_ERR_INFO, 32, 32⟩
/-- FLK_MEMBER.ENDPOINT (R471). -/
def FLK_MEMBER_ENDPOINT : FieldRef := ⟨Reg.FLK_MEMBER, 0, 20⟩
/-- FLK_MEMBER.STATE (R471). -/
def FLK_MEMBER_STATE : FieldRef := ⟨Reg.FLK_MEMBER, 20, 2⟩
/-- DET_ID.RNG (R495). -/
def DET_ID_RNG : FieldRef := ⟨Reg.DET_ID, 0, 4⟩
/-- DET_ID.RECORD_BYTES (R495). -/
def DET_ID_RECORD_BYTES : FieldRef := ⟨Reg.DET_ID, 4, 8⟩
/-- DET_ID.MAX_LOG2 (R495). -/
def DET_ID_MAX_LOG2 : FieldRef := ⟨Reg.DET_ID, 12, 5⟩
/-- DET_CTL.NO_STEAL (R495). -/
def DET_CTL_NO_STEAL : FieldRef := ⟨Reg.DET_CTL, 0, 1⟩
/-- DET_CTL.FIXED_PLACE (R495). -/
def DET_CTL_FIXED_PLACE : FieldRef := ⟨Reg.DET_CTL, 1, 1⟩
/-- DET_CTL.ERR_IRQ_EN (R495). -/
def DET_CTL_ERR_IRQ_EN : FieldRef := ⟨Reg.DET_CTL, 2, 1⟩
/-- DET_REC_CTL.MODE (R495). -/
def DET_REC_CTL_MODE : FieldRef := ⟨Reg.DET_REC_CTL, 0, 2⟩
/-- DET_REC_CTL.WRAP (R495). -/
def DET_REC_CTL_WRAP : FieldRef := ⟨Reg.DET_REC_CTL, 2, 1⟩
/-- DET_REC_CTL.STOP (R495). -/
def DET_REC_CTL_STOP : FieldRef := ⟨Reg.DET_REC_CTL, 3, 1⟩
/-- DET_REC_CTL.LOG2 (R495). -/
def DET_REC_CTL_LOG2 : FieldRef := ⟨Reg.DET_REC_CTL, 4, 5⟩
/-- DET_REC_CTL.CLEAR (R495). -/
def DET_REC_CTL_CLEAR : FieldRef := ⟨Reg.DET_REC_CTL, 9, 1⟩
/-- DET_REC_CTL.EVENT_MASK (R495). -/
def DET_REC_CTL_EVENT_MASK : FieldRef := ⟨Reg.DET_REC_CTL, 16, 16⟩
/-- DET_REC_STATUS.STATE (R495). -/
def DET_REC_STATUS_STATE : FieldRef := ⟨Reg.DET_REC_STATUS, 0, 3⟩
/-- DET_REC_STATUS.DIVERGENCES (R495). -/
def DET_REC_STATUS_DIVERGENCES : FieldRef := ⟨Reg.DET_REC_STATUS, 32, 32⟩
/-- DET_REC_HEAD.HEAD (R495). -/
def DET_REC_HEAD_HEAD : FieldRef := ⟨Reg.DET_REC_HEAD, 0, 64⟩
/-- DET_REC_OLDEST.OLDEST (R495). -/
def DET_REC_OLDEST_OLDEST : FieldRef := ⟨Reg.DET_REC_OLDEST, 0, 64⟩
/-- DET_REC_INDEX.SEQ (R495). -/
def DET_REC_INDEX_SEQ : FieldRef := ⟨Reg.DET_REC_INDEX, 0, 64⟩
/-- DET_REC_MARK.VALUE (R495). -/
def DET_REC_MARK_VALUE : FieldRef := ⟨Reg.DET_REC_MARK, 0, 64⟩
/-- DET_REC_DATA.DATA (R495). -/
def DET_REC_DATA_DATA : FieldRef := ⟨Reg.DET_REC_DATA, 0, 64⟩
/-- DET_DIVERGE.SEQ (R495). -/
def DET_DIVERGE_SEQ : FieldRef := ⟨Reg.DET_DIVERGE, 0, 64⟩
/-- DET_DIVERGE_INFO.KIND (R495). -/
def DET_DIVERGE_INFO_KIND : FieldRef := ⟨Reg.DET_DIVERGE_INFO, 0, 4⟩
/-- DET_DIVERGE_INFO.CAUSE (R495). -/
def DET_DIVERGE_INFO_CAUSE : FieldRef := ⟨Reg.DET_DIVERGE_INFO, 4, 4⟩
/-- DET_DIVERGE_INFO.CONTEXT (R495). -/
def DET_DIVERGE_INFO_CONTEXT : FieldRef := ⟨Reg.DET_DIVERGE_INFO, 8, 18⟩
/-- DET_DIVERGE_INFO.STREAM (R495). -/
def DET_DIVERGE_INFO_STREAM : FieldRef := ⟨Reg.DET_DIVERGE_INFO, 26, 6⟩
/-- DET_DIVERGE_INFO.LAYER (R495). -/
def DET_DIVERGE_INFO_LAYER : FieldRef := ⟨Reg.DET_DIVERGE_INFO, 32, 10⟩
/-- DET_DIVERGE_MSC.MSC (R495). -/
def DET_DIVERGE_MSC_MSC : FieldRef := ⟨Reg.DET_DIVERGE_MSC, 0, 64⟩
/-- DET_DIVERGE_EXP.VALUE (R495). -/
def DET_DIVERGE_EXP_VALUE : FieldRef := ⟨Reg.DET_DIVERGE_EXP, 0, 64⟩
/-- DET_DIVERGE_GOT.VALUE (R495). -/
def DET_DIVERGE_GOT_VALUE : FieldRef := ⟨Reg.DET_DIVERGE_GOT, 0, 64⟩
/-- DET_ERR.DIVERGED (R495). -/
def DET_ERR_DIVERGED : FieldRef := ⟨Reg.DET_ERR, 0, 1⟩
/-- DET_ERR.FULL (R495). -/
def DET_ERR_FULL : FieldRef := ⟨Reg.DET_ERR, 1, 1⟩
/-- DET_ERR.REPLAY_REFUSED (R495). -/
def DET_ERR_REPLAY_REFUSED : FieldRef := ⟨Reg.DET_ERR, 2, 1⟩
/-- RAS_ID.PHYS_TILES (R520). -/
def RAS_ID_PHYS_TILES : FieldRef := ⟨Reg.RAS_ID, 0, 8⟩
/-- RAS_ID.SPARES (R520). -/
def RAS_ID_SPARES : FieldRef := ⟨Reg.RAS_ID, 8, 4⟩
/-- RAS_ID.LOG_ENTRIES (R520). -/
def RAS_ID_LOG_ENTRIES : FieldRef := ⟨Reg.RAS_ID, 32, 13⟩
/-- RAS_CTL.ERR_IRQ_EN (R520). -/
def RAS_CTL_ERR_IRQ_EN : FieldRef := ⟨Reg.RAS_CTL, 0, 1⟩
/-- RAS_CTL.LOG_CORRECTED (R520). -/
def RAS_CTL_LOG_CORRECTED : FieldRef := ⟨Reg.RAS_CTL, 1, 1⟩
/-- RAS_CTL.SPARE_TEST_EN (R520). -/
def RAS_CTL_SPARE_TEST_EN : FieldRef := ⟨Reg.RAS_CTL, 2, 1⟩
/-- RAS_CFG.TILE_UE_LIMIT (R520). -/
def RAS_CFG_TILE_UE_LIMIT : FieldRef := ⟨Reg.RAS_CFG, 0, 4⟩
/-- RAS_CFG.TILE_CE_LIMIT (R520). -/
def RAS_CFG_TILE_CE_LIMIT : FieldRef := ⟨Reg.RAS_CFG, 16, 16⟩
/-- RAS_CFG.SPARE_TEST_H (R520). -/
def RAS_CFG_SPARE_TEST_H : FieldRef := ⟨Reg.RAS_CFG, 32, 14⟩
/-- RAS_STATUS.SPARES_LEFT (R520). -/
def RAS_STATUS_SPARES_LEFT : FieldRef := ⟨Reg.RAS_STATUS, 0, 4⟩
/-- RAS_STATUS.DEGRADED (R520). -/
def RAS_STATUS_DEGRADED : FieldRef := ⟨Reg.RAS_STATUS, 4, 1⟩
/-- RAS_STATUS.DEG_REASON (R520). -/
def RAS_STATUS_DEG_REASON : FieldRef := ⟨Reg.RAS_STATUS, 5, 6⟩
/-- RAS_STATUS.FATAL (R520). -/
def RAS_STATUS_FATAL : FieldRef := ⟨Reg.RAS_STATUS, 11, 1⟩
/-- RAS_STATUS.LOGICAL_LOST (R520). -/
def RAS_STATUS_LOGICAL_LOST : FieldRef := ⟨Reg.RAS_STATUS, 16, 8⟩
/-- RAS_IRQ_STATUS.BLOCK (R520). -/
def RAS_IRQ_STATUS_BLOCK : FieldRef := ⟨Reg.RAS_IRQ_STATUS, 0, 23⟩
/-- RAS_IRQ_CFG.VECTOR (R520). -/
def RAS_IRQ_CFG_VECTOR : FieldRef := ⟨Reg.RAS_IRQ_CFG, 0, 11⟩
/-- RAS_IRQ_CFG.EN (R520). -/
def RAS_IRQ_CFG_EN : FieldRef := ⟨Reg.RAS_IRQ_CFG, 11, 1⟩
/-- RAS_ERR.TILE_FAILED (R520). -/
def RAS_ERR_TILE_FAILED : FieldRef := ⟨Reg.RAS_ERR, 0, 1⟩
/-- RAS_ERR.TILE_LOST (R520). -/
def RAS_ERR_TILE_LOST : FieldRef := ⟨Reg.RAS_ERR, 1, 1⟩
/-- RAS_ERR.SPARE_FAILED (R520). -/
def RAS_ERR_SPARE_FAILED : FieldRef := ⟨Reg.RAS_ERR, 2, 1⟩
/-- RAS_ERR.STORE_FAIL (R520). -/
def RAS_ERR_STORE_FAIL : FieldRef := ⟨Reg.RAS_ERR, 3, 1⟩
/-- RAS_ERR.MAP_REBUILT (R520). -/
def RAS_ERR_MAP_REBUILT : FieldRef := ⟨Reg.RAS_ERR, 4, 1⟩
/-- RAS_ERR.LOG_WRAP (R520). -/
def RAS_ERR_LOG_WRAP : FieldRef := ⟨Reg.RAS_ERR, 5, 1⟩
/-- RAS_ERR.REINSTATE_REFUSED (R520). -/
def RAS_ERR_REINSTATE_REFUSED : FieldRef := ⟨Reg.RAS_ERR, 6, 1⟩
/-- RAS_ERR_INFO.PHYS_TILE (R520). -/
def RAS_ERR_INFO_PHYS_TILE : FieldRef := ⟨Reg.RAS_ERR_INFO, 0, 8⟩
/-- RAS_ERR_INFO.SPARE (R520). -/
def RAS_ERR_INFO_SPARE : FieldRef := ⟨Reg.RAS_ERR_INFO, 8, 8⟩
/-- RAS_ERR_INFO.LOGICAL (R520). -/
def RAS_ERR_INFO_LOGICAL : FieldRef := ⟨Reg.RAS_ERR_INFO, 16, 8⟩
/-- RAS_ERR_INFO.CAUSE (R520). -/
def RAS_ERR_INFO_CAUSE : FieldRef := ⟨Reg.RAS_ERR_INFO, 24, 4⟩
/-- RAS_ERR_INFO.BIT (R520). -/
def RAS_ERR_INFO_BIT : FieldRef := ⟨Reg.RAS_ERR_INFO, 28, 4⟩
/-- RAS_LOG_HEAD.SEQ (R520). -/
def RAS_LOG_HEAD_SEQ : FieldRef := ⟨Reg.RAS_LOG_HEAD, 0, 64⟩
/-- RAS_LOG_INDEX.SEQ (R520). -/
def RAS_LOG_INDEX_SEQ : FieldRef := ⟨Reg.RAS_LOG_INDEX, 0, 64⟩
/-- RAS_LOG_DATA.DATA (R520). -/
def RAS_LOG_DATA_DATA : FieldRef := ⟨Reg.RAS_LOG_DATA, 0, 64⟩
/-- RAS_REINSTATE.PHYS (R520). -/
def RAS_REINSTATE_PHYS : FieldRef := ⟨Reg.RAS_REINSTATE, 0, 8⟩
/-- RAS_TILE_RETIRE.LOGICAL (R520). -/
def RAS_TILE_RETIRE_LOGICAL : FieldRef := ⟨Reg.RAS_TILE_RETIRE, 0, 8⟩
/-- RAS_SERIAL.SERIAL (R520). -/
def RAS_SERIAL_SERIAL : FieldRef := ⟨Reg.RAS_SERIAL, 0, 64⟩
/-- RAS_IDENT.DIGEST (R520). -/
def RAS_IDENT_DIGEST : FieldRef := ⟨Reg.RAS_IDENT, 0, 64⟩
/-- RAS_TILE_STATE.STATE_0 (R520). -/
def RAS_TILE_STATE_STATE_0 : FieldRef := ⟨Reg.RAS_TILE_STATE, 0, 4⟩
/-- RAS_TILE_STATE.STATE_1 (R520). -/
def RAS_TILE_STATE_STATE_1 : FieldRef := ⟨Reg.RAS_TILE_STATE, 4, 4⟩
/-- RAS_TILE_STATE.STATE_2 (R520). -/
def RAS_TILE_STATE_STATE_2 : FieldRef := ⟨Reg.RAS_TILE_STATE, 8, 4⟩
/-- RAS_TILE_STATE.STATE_3 (R520). -/
def RAS_TILE_STATE_STATE_3 : FieldRef := ⟨Reg.RAS_TILE_STATE, 12, 4⟩
/-- RAS_TILE_STATE.STATE_4 (R520). -/
def RAS_TILE_STATE_STATE_4 : FieldRef := ⟨Reg.RAS_TILE_STATE, 16, 4⟩
/-- RAS_TILE_STATE.STATE_5 (R520). -/
def RAS_TILE_STATE_STATE_5 : FieldRef := ⟨Reg.RAS_TILE_STATE, 20, 4⟩
/-- RAS_TILE_STATE.STATE_6 (R520). -/
def RAS_TILE_STATE_STATE_6 : FieldRef := ⟨Reg.RAS_TILE_STATE, 24, 4⟩
/-- RAS_TILE_STATE.STATE_7 (R520). -/
def RAS_TILE_STATE_STATE_7 : FieldRef := ⟨Reg.RAS_TILE_STATE, 28, 4⟩
/-- RAS_TILE_STATE.STATE_8 (R520). -/
def RAS_TILE_STATE_STATE_8 : FieldRef := ⟨Reg.RAS_TILE_STATE, 32, 4⟩
/-- RAS_TILE_STATE.STATE_9 (R520). -/
def RAS_TILE_STATE_STATE_9 : FieldRef := ⟨Reg.RAS_TILE_STATE, 36, 4⟩
/-- RAS_TILE_STATE.STATE_10 (R520). -/
def RAS_TILE_STATE_STATE_10 : FieldRef := ⟨Reg.RAS_TILE_STATE, 40, 4⟩
/-- RAS_TILE_STATE.STATE_11 (R520). -/
def RAS_TILE_STATE_STATE_11 : FieldRef := ⟨Reg.RAS_TILE_STATE, 44, 4⟩
/-- RAS_TILE_STATE.STATE_12 (R520). -/
def RAS_TILE_STATE_STATE_12 : FieldRef := ⟨Reg.RAS_TILE_STATE, 48, 4⟩
/-- RAS_TILE_STATE.STATE_13 (R520). -/
def RAS_TILE_STATE_STATE_13 : FieldRef := ⟨Reg.RAS_TILE_STATE, 52, 4⟩
/-- RAS_TILE_STATE.STATE_14 (R520). -/
def RAS_TILE_STATE_STATE_14 : FieldRef := ⟨Reg.RAS_TILE_STATE, 56, 4⟩
/-- RAS_TILE_STATE.STATE_15 (R520). -/
def RAS_TILE_STATE_STATE_15 : FieldRef := ⟨Reg.RAS_TILE_STATE, 60, 4⟩
/-- RAS_L2P.PHYS_0 (R520). -/
def RAS_L2P_PHYS_0 : FieldRef := ⟨Reg.RAS_L2P, 0, 8⟩
/-- RAS_L2P.PHYS_1 (R520). -/
def RAS_L2P_PHYS_1 : FieldRef := ⟨Reg.RAS_L2P, 8, 8⟩
/-- RAS_L2P.PHYS_2 (R520). -/
def RAS_L2P_PHYS_2 : FieldRef := ⟨Reg.RAS_L2P, 16, 8⟩
/-- RAS_L2P.PHYS_3 (R520). -/
def RAS_L2P_PHYS_3 : FieldRef := ⟨Reg.RAS_L2P, 24, 8⟩
/-- RAS_L2P.PHYS_4 (R520). -/
def RAS_L2P_PHYS_4 : FieldRef := ⟨Reg.RAS_L2P, 32, 8⟩
/-- RAS_L2P.PHYS_5 (R520). -/
def RAS_L2P_PHYS_5 : FieldRef := ⟨Reg.RAS_L2P, 40, 8⟩
/-- RAS_L2P.PHYS_6 (R520). -/
def RAS_L2P_PHYS_6 : FieldRef := ⟨Reg.RAS_L2P, 48, 8⟩
/-- RAS_L2P.PHYS_7 (R520). -/
def RAS_L2P_PHYS_7 : FieldRef := ⟨Reg.RAS_L2P, 56, 8⟩
/-- PWR_ID.DOMAINS (R547). -/
def PWR_ID_DOMAINS : FieldRef := ⟨Reg.PWR_ID, 0, 6⟩
/-- PWR_ID.ROWS (R547). -/
def PWR_ID_ROWS : FieldRef := ⟨Reg.PWR_ID, 8, 5⟩
/-- PWR_ID.CORE_MIN_MHZ (R547). -/
def PWR_ID_CORE_MIN_MHZ : FieldRef := ⟨Reg.PWR_ID, 16, 11⟩
/-- PWR_CTL.ERR_IRQ_EN (R547). -/
def PWR_CTL_ERR_IRQ_EN : FieldRef := ⟨Reg.PWR_CTL, 0, 1⟩
/-- PWR_CTL.ROW_GATE_EN (R547). -/
def PWR_CTL_ROW_GATE_EN : FieldRef := ⟨Reg.PWR_CTL, 1, 1⟩
/-- PWR_CTL.RE_GATE_EN (R547). -/
def PWR_CTL_RE_GATE_EN : FieldRef := ⟨Reg.PWR_CTL, 2, 1⟩
/-- PWR_CTL.AUTO_SMOULDER (R547). -/
def PWR_CTL_AUTO_SMOULDER : FieldRef := ⟨Reg.PWR_CTL, 3, 1⟩
/-- PWR_CTL.ROW_MIN (R547). -/
def PWR_CTL_ROW_MIN : FieldRef := ⟨Reg.PWR_CTL, 4, 5⟩
/-- PWR_REQ.TARGET (R547). -/
def PWR_REQ_TARGET : FieldRef := ⟨Reg.PWR_REQ, 0, 2⟩
/-- PWR_STATUS.STATE (R547). -/
def PWR_STATUS_STATE : FieldRef := ⟨Reg.PWR_STATUS, 0, 3⟩
/-- PWR_STATUS.SMOULDER_PENDING (R547). -/
def PWR_STATUS_SMOULDER_PENDING : FieldRef := ⟨Reg.PWR_STATUS, 3, 1⟩
/-- PWR_STATUS.CORE_MHZ (R547). -/
def PWR_STATUS_CORE_MHZ : FieldRef := ⟨Reg.PWR_STATUS, 8, 11⟩
/-- PWR_STATUS.THROTTLE_THERM (R547). -/
def PWR_STATUS_THROTTLE_THERM : FieldRef := ⟨Reg.PWR_STATUS, 19, 1⟩
/-- PWR_STATUS.THROTTLE_POWER (R547). -/
def PWR_STATUS_THROTTLE_POWER : FieldRef := ⟨Reg.PWR_STATUS, 20, 1⟩
/-- PWR_STATUS.DUTY (R547). -/
def PWR_STATUS_DUTY : FieldRef := ⟨Reg.PWR_STATUS, 21, 1⟩
/-- PWR_STATUS.ROWS_ON (R547). -/
def PWR_STATUS_ROWS_ON : FieldRef := ⟨Reg.PWR_STATUS, 32, 19⟩
/-- PWR_STATUS.RE_PAIRS_ON (R547). -/
def PWR_STATUS_RE_PAIRS_ON : FieldRef := ⟨Reg.PWR_STATUS, 51, 2⟩
/-- PWR_DOMAINS.ON (R547). -/
def PWR_DOMAINS_ON : FieldRef := ⟨Reg.PWR_DOMAINS, 0, 35⟩
/-- PWR_TIMERS.ROW_IDLE_US (R547). -/
def PWR_TIMERS_ROW_IDLE_US : FieldRef := ⟨Reg.PWR_TIMERS, 0, 16⟩
/-- PWR_TIMERS.RE_IDLE_US (R547). -/
def PWR_TIMERS_RE_IDLE_US : FieldRef := ⟨Reg.PWR_TIMERS, 16, 16⟩
/-- PWR_TIMERS.SMOULDER_IDLE_US (R547). -/
def PWR_TIMERS_SMOULDER_IDLE_US : FieldRef := ⟨Reg.PWR_TIMERS, 32, 24⟩
/-- PWR_LIMIT.SUSTAINED_W (R547). -/
def PWR_LIMIT_SUSTAINED_W : FieldRef := ⟨Reg.PWR_LIMIT, 0, 11⟩
/-- PWR_LIMIT.FAST_W (R547). -/
def PWR_LIMIT_FAST_W : FieldRef := ⟨Reg.PWR_LIMIT, 16, 11⟩
/-- PWR_LIMIT.WINDOW_MS (R547). -/
def PWR_LIMIT_WINDOW_MS : FieldRef := ⟨Reg.PWR_LIMIT, 32, 8⟩
/-- PWR_THERM.DIE_THROTTLE_C (R547). -/
def PWR_THERM_DIE_THROTTLE_C : FieldRef := ⟨Reg.PWR_THERM, 0, 8⟩
/-- PWR_THERM.STACK_THROTTLE_C (R547). -/
def PWR_THERM_STACK_THROTTLE_C : FieldRef := ⟨Reg.PWR_THERM, 8, 8⟩
/-- PWR_THERM.INLET_WARN_C (R547). -/
def PWR_THERM_INLET_WARN_C : FieldRef := ⟨Reg.PWR_THERM, 16, 8⟩
/-- PWR_POWER.INPUT_W (R547). -/
def PWR_POWER_INPUT_W : FieldRef := ⟨Reg.PWR_POWER, 0, 11⟩
/-- PWR_POWER.PEAK_W (R547). -/
def PWR_POWER_PEAK_W : FieldRef := ⟨Reg.PWR_POWER, 16, 11⟩
/-- PWR_TEMP.DIE_C (R547). -/
def PWR_TEMP_DIE_C : FieldRef := ⟨Reg.PWR_TEMP, 0, 8⟩
/-- PWR_TEMP.BASE_C (R547). -/
def PWR_TEMP_BASE_C : FieldRef := ⟨Reg.PWR_TEMP, 8, 8⟩
/-- PWR_TEMP.STACK_C (R547). -/
def PWR_TEMP_STACK_C : FieldRef := ⟨Reg.PWR_TEMP, 16, 8⟩
/-- PWR_TEMP.INLET_C (R547). -/
def PWR_TEMP_INLET_C : FieldRef := ⟨Reg.PWR_TEMP, 24, 8⟩
/-- PWR_TEMP.OUTLET_C (R547). -/
def PWR_TEMP_OUTLET_C : FieldRef := ⟨Reg.PWR_TEMP, 32, 8⟩
/-- PWR_ERR.REQ_REFUSED (R547). -/
def PWR_ERR_REQ_REFUSED : FieldRef := ⟨Reg.PWR_ERR, 0, 1⟩
/-- PWR_ERR.THERM_THROTTLE (R547). -/
def PWR_ERR_THERM_THROTTLE : FieldRef := ⟨Reg.PWR_ERR, 1, 1⟩
/-- PWR_ERR.POWER_THROTTLE (R547). -/
def PWR_ERR_POWER_THROTTLE : FieldRef := ⟨Reg.PWR_ERR, 2, 1⟩
/-- PWR_ERR.CRITICAL (R547). -/
def PWR_ERR_CRITICAL : FieldRef := ⟨Reg.PWR_ERR, 3, 1⟩
/-- PWR_ERR.TRIPPED (R547). -/
def PWR_ERR_TRIPPED : FieldRef := ⟨Reg.PWR_ERR, 4, 1⟩
/-- PWR_ERR.INLET_WARN (R547). -/
def PWR_ERR_INLET_WARN : FieldRef := ⟨Reg.PWR_ERR, 5, 1⟩
/-- PWR_ERR.DOMAIN_FAIL (R547). -/
def PWR_ERR_DOMAIN_FAIL : FieldRef := ⟨Reg.PWR_ERR, 6, 1⟩
/-- PWR_ERR_INFO.CAUSE (R547). -/
def PWR_ERR_INFO_CAUSE : FieldRef := ⟨Reg.PWR_ERR_INFO, 0, 4⟩
/-- PWR_ERR_INFO.SENSOR (R547). -/
def PWR_ERR_INFO_SENSOR : FieldRef := ⟨Reg.PWR_ERR_INFO, 4, 4⟩
/-- PWR_ERR_INFO.UNIT (R547). -/
def PWR_ERR_INFO_UNIT : FieldRef := ⟨Reg.PWR_ERR_INFO, 8, 6⟩
/-- PWR_ERR_INFO.TEMP_C (R547). -/
def PWR_ERR_INFO_TEMP_C : FieldRef := ⟨Reg.PWR_ERR_INFO, 16, 8⟩
/-- PWR_ERR_INFO.REASON (R547). -/
def PWR_ERR_INFO_REASON : FieldRef := ⟨Reg.PWR_ERR_INFO, 24, 4⟩
/-- CLK_ID.PLLS (R548). -/
def CLK_ID_PLLS : FieldRef := ⟨Reg.CLK_ID, 0, 8⟩
/-- CLK_ID.EMBER_MHZ (R548). -/
def CLK_ID_EMBER_MHZ : FieldRef := ⟨Reg.CLK_ID, 8, 8⟩
/-- CLK_CTL.ERR_IRQ_EN (R548). -/
def CLK_CTL_ERR_IRQ_EN : FieldRef := ⟨Reg.CLK_CTL, 0, 1⟩
/-- CLK_STATUS.LOCKED (R548). -/
def CLK_STATUS_LOCKED : FieldRef := ⟨Reg.CLK_STATUS, 0, 7⟩
/-- CLK_CORE.MHZ (R548). -/
def CLK_CORE_MHZ : FieldRef := ⟨Reg.CLK_CORE, 0, 11⟩
/-- CLK_CORE.CAP_MHZ (R548). -/
def CLK_CORE_CAP_MHZ : FieldRef := ⟨Reg.CLK_CORE, 16, 11⟩
/-- CLK_TILE_IDLE.CYCLES (R548). -/
def CLK_TILE_IDLE_CYCLES : FieldRef := ⟨Reg.CLK_TILE_IDLE, 0, 16⟩
/-- CLK_EMBER_TICKS.TICKS (R548). -/
def CLK_EMBER_TICKS_TICKS : FieldRef := ⟨Reg.CLK_EMBER_TICKS, 0, 64⟩
/-- CLK_ERR.LOCK_LOST (R548). -/
def CLK_ERR_LOCK_LOST : FieldRef := ⟨Reg.CLK_ERR, 0, 1⟩
/-- CLK_ERR.PLL (R548). -/
def CLK_ERR_PLL : FieldRef := ⟨Reg.CLK_ERR, 4, 3⟩
/-- RST_CTL.KIND (R548). -/
def RST_CTL_KIND : FieldRef := ⟨Reg.RST_CTL, 0, 2⟩
/-- RST_CTL.KEY (R548). -/
def RST_CTL_KEY : FieldRef := ⟨Reg.RST_CTL, 8, 8⟩
/-- RST_CAUSE.KIND (R548). -/
def RST_CAUSE_KIND : FieldRef := ⟨Reg.RST_CAUSE, 0, 3⟩
/-- RST_CAUSE.SOURCE (R548). -/
def RST_CAUSE_SOURCE : FieldRef := ⟨Reg.RST_CAUSE, 4, 4⟩
/-- RST_COUNT.WARM (R548). -/
def RST_COUNT_WARM : FieldRef := ⟨Reg.RST_COUNT, 0, 16⟩
/-- RST_COUNT.MODULE (R548). -/
def RST_COUNT_MODULE : FieldRef := ⟨Reg.RST_COUNT, 16, 16⟩
/-- RST_COUNT.MAIN (R548). -/
def RST_COUNT_MAIN : FieldRef := ⟨Reg.RST_COUNT, 32, 16⟩
/-- RST_STATUS.READY (R548). -/
def RST_STATUS_READY : FieldRef := ⟨Reg.RST_STATUS, 0, 1⟩
/-- RST_STATUS.DRAM_READY (R548). -/
def RST_STATUS_DRAM_READY : FieldRef := ⟨Reg.RST_STATUS, 1, 1⟩
/-- RST_STATUS.NAND_READY (R548). -/
def RST_STATUS_NAND_READY : FieldRef := ⟨Reg.RST_STATUS, 2, 1⟩
/-- RST_STATUS.SELF_TEST (R548). -/
def RST_STATUS_SELF_TEST : FieldRef := ⟨Reg.RST_STATUS, 3, 1⟩
/-- RST_CFG.AUTO_WARM (R548). -/
def RST_CFG_AUTO_WARM : FieldRef := ⟨Reg.RST_CFG, 0, 1⟩
/-- RST_CFG.AUTO_DELAY_MS (R548). -/
def RST_CFG_AUTO_DELAY_MS : FieldRef := ⟨Reg.RST_CFG, 16, 16⟩
/-- MGT_FUSE_ID.MEMBER (R6). -/
def MGT_FUSE_ID_MEMBER : FieldRef := ⟨Reg.MGT_FUSE_ID, 0, 4⟩
/-- MGT_FUSE_ID.GRADE (R6). -/
def MGT_FUSE_ID_GRADE : FieldRef := ⟨Reg.MGT_FUSE_ID, 4, 4⟩
/-- MGT_FUSE_ID.ENABLED_TILES (R6). -/
def MGT_FUSE_ID_ENABLED_TILES : FieldRef := ⟨Reg.MGT_FUSE_ID, 8, 8⟩
/-- MGT_FUSE_ID.PHYS_TILES (R6). -/
def MGT_FUSE_ID_PHYS_TILES : FieldRef := ⟨Reg.MGT_FUSE_ID, 16, 8⟩
/-- MGT_FUSE_ID.SPARE_TILES (R6). -/
def MGT_FUSE_ID_SPARE_TILES : FieldRef := ⟨Reg.MGT_FUSE_ID, 24, 4⟩
/-- MGT_FUSE_ID.BASE_DIES (R6). -/
def MGT_FUSE_ID_BASE_DIES : FieldRef := ⟨Reg.MGT_FUSE_ID, 28, 4⟩
/-- MGT_FUSE_ID.DRAM_STACKS (R6). -/
def MGT_FUSE_ID_DRAM_STACKS : FieldRef := ⟨Reg.MGT_FUSE_ID, 32, 5⟩
/-- MGT_FUSE_ID.NAND_CH (R6). -/
def MGT_FUSE_ID_NAND_CH : FieldRef := ⟨Reg.MGT_FUSE_ID, 37, 5⟩
/-- MGT_FUSE_ID.PORTS (R6). -/
def MGT_FUSE_ID_PORTS : FieldRef := ⟨Reg.MGT_FUSE_ID, 42, 5⟩
/-- MGT_CHAIN.ADDR (R572). -/
def MGT_CHAIN_ADDR : FieldRef := ⟨Reg.MGT_CHAIN, 0, 7⟩
/-- MGT_CHAIN.IN_LOCK (R572). -/
def MGT_CHAIN_IN_LOCK : FieldRef := ⟨Reg.MGT_CHAIN, 8, 1⟩
/-- MGT_CHAIN.OUT_ON (R572). -/
def MGT_CHAIN_OUT_ON : FieldRef := ⟨Reg.MGT_CHAIN, 9, 1⟩
/-- MGT_CHAIN.MINOR (R572). -/
def MGT_CHAIN_MINOR : FieldRef := ⟨Reg.MGT_CHAIN, 12, 4⟩
/-- MGT_CHAIN.LAST_SEQ (R572). -/
def MGT_CHAIN_LAST_SEQ : FieldRef := ⟨Reg.MGT_CHAIN, 16, 8⟩
/-- MGT_CHAIN.EID (R572). -/
def MGT_CHAIN_EID : FieldRef := ⟨Reg.MGT_CHAIN, 24, 8⟩
/-- MGT_CTL.ERR_IRQ_EN (R572). -/
def MGT_CTL_ERR_IRQ_EN : FieldRef := ⟨Reg.MGT_CTL, 0, 1⟩
/-- MGT_CTL.ALERT_EN (R572). -/
def MGT_CTL_ALERT_EN : FieldRef := ⟨Reg.MGT_CTL, 1, 1⟩
/-- MGT_CTL.MCTP_EN (R572). -/
def MGT_CTL_MCTP_EN : FieldRef := ⟨Reg.MGT_CTL, 2, 1⟩
/-- MGT_TEST.TEST_MODE (R572). -/
def MGT_TEST_TEST_MODE : FieldRef := ⟨Reg.MGT_TEST, 0, 1⟩
/-- MGT_ERR.CRC_BAD (R572). -/
def MGT_ERR_CRC_BAD : FieldRef := ⟨Reg.MGT_ERR, 0, 1⟩
/-- MGT_ERR.IN_LOST (R572). -/
def MGT_ERR_IN_LOST : FieldRef := ⟨Reg.MGT_ERR, 1, 1⟩
/-- MGT_ERR.BAD_VERSION (R572). -/
def MGT_ERR_BAD_VERSION : FieldRef := ⟨Reg.MGT_ERR, 2, 1⟩
/-- MGT_ERR.ALERT_UNACKED (R572). -/
def MGT_ERR_ALERT_UNACKED : FieldRef := ⟨Reg.MGT_ERR, 3, 1⟩
/-- MGT_ERR.CONFLICT (R572). -/
def MGT_ERR_CONFLICT : FieldRef := ⟨Reg.MGT_ERR, 4, 1⟩
/-- PMC_ID.BANKS (R590). -/
def PMC_ID_BANKS : FieldRef := ⟨Reg.PMC_ID, 0, 8⟩
/-- PMC_ID.COUNTERS (R590). -/
def PMC_ID_COUNTERS : FieldRef := ⟨Reg.PMC_ID, 8, 6⟩
/-- PMC_ID.WIDTH (R590). -/
def PMC_ID_WIDTH : FieldRef := ⟨Reg.PMC_ID, 14, 6⟩
/-- PMC_CTL.ERR_IRQ_EN (R590). -/
def PMC_CTL_ERR_IRQ_EN : FieldRef := ⟨Reg.PMC_CTL, 0, 1⟩
/-- PMC_CTL.COLLECT (R590). -/
def PMC_CTL_COLLECT : FieldRef := ⟨Reg.PMC_CTL, 1, 1⟩
/-- PMC_CTL.WRAP (R590). -/
def PMC_CTL_WRAP : FieldRef := ⟨Reg.PMC_CTL, 2, 1⟩
/-- PMC_CTL.SNAP (R590). -/
def PMC_CTL_SNAP : FieldRef := ⟨Reg.PMC_CTL, 3, 1⟩
/-- PMC_CTL.EMPTY (R590). -/
def PMC_CTL_EMPTY : FieldRef := ⟨Reg.PMC_CTL, 4, 1⟩
/-- PMC_CFG.PERIOD_TICKS (R590). -/
def PMC_CFG_PERIOD_TICKS : FieldRef := ⟨Reg.PMC_CFG, 0, 32⟩
/-- PMC_RING.BASE (R590). -/
def PMC_RING_BASE : FieldRef := ⟨Reg.PMC_RING, 21, 27⟩
/-- PMC_RING.PAGES (R590). -/
def PMC_RING_PAGES : FieldRef := ⟨Reg.PMC_RING, 48, 16⟩
/-- PMC_MASK.BANKS (R590). -/
def PMC_MASK_BANKS : FieldRef := ⟨Reg.PMC_MASK, 0, 64⟩
/-- PMC_STATUS.STATE (R590). -/
def PMC_STATUS_STATE : FieldRef := ⟨Reg.PMC_STATUS, 0, 2⟩
/-- PMC_STATUS.STRIDE_64 (R590). -/
def PMC_STATUS_STRIDE_64 : FieldRef := ⟨Reg.PMC_STATUS, 32, 16⟩
/-- PMC_HEAD.SEQ (R590). -/
def PMC_HEAD_SEQ : FieldRef := ⟨Reg.PMC_HEAD, 0, 64⟩
/-- PMC_OLDEST.SEQ (R590). -/
def PMC_OLDEST_SEQ : FieldRef := ⟨Reg.PMC_OLDEST, 0, 64⟩
/-- PMC_CLEAR.BANK (R590). -/
def PMC_CLEAR_BANK : FieldRef := ⟨Reg.PMC_CLEAR, 0, 8⟩
/-- PMC_CLEAR.ALL (R590). -/
def PMC_CLEAR_ALL : FieldRef := ⟨Reg.PMC_CLEAR, 8, 1⟩
/-- PMC_ERR.RING_BAD (R590). -/
def PMC_ERR_RING_BAD : FieldRef := ⟨Reg.PMC_ERR, 0, 1⟩
/-- PMC_ERR.FULL (R590). -/
def PMC_ERR_FULL : FieldRef := ⟨Reg.PMC_ERR, 1, 1⟩
/-- PMC_ERR.MISSED (R590). -/
def PMC_ERR_MISSED : FieldRef := ⟨Reg.PMC_ERR, 2, 1⟩
/-- PMC_ERR.CFG_REFUSED (R590). -/
def PMC_ERR_CFG_REFUSED : FieldRef := ⟨Reg.PMC_ERR, 3, 1⟩
/-- PMC_ERR_INFO.PAGE (R590). -/
def PMC_ERR_INFO_PAGE : FieldRef := ⟨Reg.PMC_ERR_INFO, 0, 27⟩
/-- PMC_ERR_INFO.CAUSE (R590). -/
def PMC_ERR_INFO_CAUSE : FieldRef := ⟨Reg.PMC_ERR_INFO, 27, 4⟩
/-- PMC_CNT.VALUE (R590). -/
def PMC_CNT_VALUE : FieldRef := ⟨Reg.PMC_CNT, 0, 48⟩
/-- PRT_ID.INJECTORS (R596). -/
def PRT_ID_INJECTORS : FieldRef := ⟨Reg.PRT_ID, 0, 5⟩
/-- PRT_ID.TARGETS (R596). -/
def PRT_ID_TARGETS : FieldRef := ⟨Reg.PRT_ID, 5, 8⟩
/-- PRT_CTL.ERR_IRQ_EN (R596). -/
def PRT_CTL_ERR_IRQ_EN : FieldRef := ⟨Reg.PRT_CTL, 0, 1⟩
/-- PRT_CTL.ENABLE (R596). -/
def PRT_CTL_ENABLE : FieldRef := ⟨Reg.PRT_CTL, 1, 1⟩
/-- PRT_STATUS.TEST_MODE (R596). -/
def PRT_STATUS_TEST_MODE : FieldRef := ⟨Reg.PRT_STATUS, 0, 1⟩
/-- PRT_STATUS.ACTIVE (R596). -/
def PRT_STATUS_ACTIVE : FieldRef := ⟨Reg.PRT_STATUS, 16, 16⟩
/-- PRT_STATUS.DONE (R596). -/
def PRT_STATUS_DONE : FieldRef := ⟨Reg.PRT_STATUS, 32, 16⟩
/-- PRT_ERR.REFUSED (R596). -/
def PRT_ERR_REFUSED : FieldRef := ⟨Reg.PRT_ERR, 0, 1⟩
/-- PRT_ERR.BAD_CFG (R596). -/
def PRT_ERR_BAD_CFG : FieldRef := ⟨Reg.PRT_ERR, 1, 1⟩
/-- PRT_INJ_CFG.EN (R596). -/
def PRT_INJ_CFG_EN : FieldRef := ⟨Reg.PRT_INJ_CFG, 0, 1⟩
/-- PRT_INJ_CFG.ACTION (R596). -/
def PRT_INJ_CFG_ACTION : FieldRef := ⟨Reg.PRT_INJ_CFG, 1, 2⟩
/-- PRT_INJ_CFG.PATTERN (R596). -/
def PRT_INJ_CFG_PATTERN : FieldRef := ⟨Reg.PRT_INJ_CFG, 3, 1⟩
/-- PRT_INJ_CFG.TARGET (R596). -/
def PRT_INJ_CFG_TARGET : FieldRef := ⟨Reg.PRT_INJ_CFG, 4, 8⟩
/-- PRT_INJ_CFG.UNIT (R596). -/
def PRT_INJ_CFG_UNIT : FieldRef := ⟨Reg.PRT_INJ_CFG, 12, 8⟩
/-- PRT_INJ_CFG.SUB (R596). -/
def PRT_INJ_CFG_SUB : FieldRef := ⟨Reg.PRT_INJ_CFG, 20, 3⟩
/-- PRT_INJ_CFG.DURATION (R596). -/
def PRT_INJ_CFG_DURATION : FieldRef := ⟨Reg.PRT_INJ_CFG, 24, 20⟩
/-- PRT_INJ_CFG.FREQ_MHZ (R596). -/
def PRT_INJ_CFG_FREQ_MHZ : FieldRef := ⟨Reg.PRT_INJ_CFG, 44, 11⟩
/-- PRT_INJ_PAT.PERIOD (R596). -/
def PRT_INJ_PAT_PERIOD : FieldRef := ⟨Reg.PRT_INJ_PAT, 0, 32⟩
/-- PRT_INJ_PAT.PROB (R596). -/
def PRT_INJ_PAT_PROB : FieldRef := ⟨Reg.PRT_INJ_PAT, 32, 24⟩
/-- PRT_INJ_SEED.SEED (R596). -/
def PRT_INJ_SEED_SEED : FieldRef := ⟨Reg.PRT_INJ_SEED, 0, 64⟩
/-- PRT_INJ_LIMIT.LIMIT (R596). -/
def PRT_INJ_LIMIT_LIMIT : FieldRef := ⟨Reg.PRT_INJ_LIMIT, 0, 32⟩
/-- PRT_INJ_LIMIT.OFFSET (R596). -/
def PRT_INJ_LIMIT_OFFSET : FieldRef := ⟨Reg.PRT_INJ_LIMIT, 32, 32⟩
/-- PRT_INJ_EVENTS.EVENTS (R596). -/
def PRT_INJ_EVENTS_EVENTS : FieldRef := ⟨Reg.PRT_INJ_EVENTS, 0, 48⟩
/-- PRT_INJ_FIRED.FIRED (R596). -/
def PRT_INJ_FIRED_FIRED : FieldRef := ⟨Reg.PRT_INJ_FIRED, 0, 32⟩
/-- HIF_ID.MAX_SPEED (R573). -/
def HIF_ID_MAX_SPEED : FieldRef := ⟨Reg.HIF_ID, 0, 3⟩
/-- HIF_ID.MAX_WIDTH (R573). -/
def HIF_ID_MAX_WIDTH : FieldRef := ⟨Reg.HIF_ID, 3, 5⟩
/-- HIF_ID.VFS (R573). -/
def HIF_ID_VFS : FieldRef := ⟨Reg.HIF_ID, 8, 6⟩
/-- HIF_CTL.ERR_IRQ_EN (R573). -/
def HIF_CTL_ERR_IRQ_EN : FieldRef := ⟨Reg.HIF_CTL, 0, 1⟩
/-- HIF_CTL.VF_BAR2_LOG2 (R573). -/
def HIF_CTL_VF_BAR2_LOG2 : FieldRef := ⟨Reg.HIF_CTL, 1, 6⟩
/-- HIF_LINK.SPEED (R573). -/
def HIF_LINK_SPEED : FieldRef := ⟨Reg.HIF_LINK, 0, 3⟩
/-- HIF_LINK.WIDTH (R573). -/
def HIF_LINK_WIDTH : FieldRef := ⟨Reg.HIF_LINK, 3, 5⟩
/-- HIF_LINK.FLIT (R573). -/
def HIF_LINK_FLIT : FieldRef := ⟨Reg.HIF_LINK, 8, 1⟩
/-- HIF_LINK.RETRAINS (R573). -/
def HIF_LINK_RETRAINS : FieldRef := ⟨Reg.HIF_LINK, 16, 16⟩
/-- HIF_LINK.EID (R573). -/
def HIF_LINK_EID : FieldRef := ⟨Reg.HIF_LINK, 32, 8⟩
/-- HIF_ERR.LINK_DOWN (R573). -/
def HIF_ERR_LINK_DOWN : FieldRef := ⟨Reg.HIF_ERR, 0, 1⟩
/-- HIF_ERR.CPL_TIMEOUT (R573). -/
def HIF_ERR_CPL_TIMEOUT : FieldRef := ⟨Reg.HIF_ERR, 1, 1⟩
/-- HIF_ERR.POISONED (R573). -/
def HIF_ERR_POISONED : FieldRef := ⟨Reg.HIF_ERR, 2, 1⟩
/-- HIF_ERR.FN_CFG (R573). -/
def HIF_ERR_FN_CFG : FieldRef := ⟨Reg.HIF_ERR, 3, 1⟩
/-- HIF_ERR_INFO.FUNC (R573). -/
def HIF_ERR_INFO_FUNC : FieldRef := ⟨Reg.HIF_ERR_INFO, 0, 6⟩
/-- HIF_ERR_INFO.CAUSE (R573). -/
def HIF_ERR_INFO_CAUSE : FieldRef := ⟨Reg.HIF_ERR_INFO, 8, 4⟩
/-- HIF_FN_Q.QUEUES (R573). -/
def HIF_FN_Q_QUEUES : FieldRef := ⟨Reg.HIF_FN_Q, 0, 11⟩
/-- HIF_FN_CTX.CTX_BASE (R573). -/
def HIF_FN_CTX_CTX_BASE : FieldRef := ⟨Reg.HIF_FN_CTX, 0, 18⟩
/-- HIF_FN_CTX.CTX_COUNT (R573). -/
def HIF_FN_CTX_CTX_COUNT : FieldRef := ⟨Reg.HIF_FN_CTX, 20, 19⟩
/-- HIF_FN_WSP.PAGE_BASE (R573). -/
def HIF_FN_WSP_PAGE_BASE : FieldRef := ⟨Reg.HIF_FN_WSP, 0, 27⟩
/-- HIF_FN_WSP.PAGE_COUNT (R573). -/
def HIF_FN_WSP_PAGE_COUNT : FieldRef := ⟨Reg.HIF_FN_WSP, 28, 28⟩

end Fld

/-- Registers of the spec, part 0, in offset order. -/
def allRegs0 : List RegSpec := [
  Reg.CP_ID, Reg.CP_CTL, Reg.CP_STATUS, Reg.CP_ERR, Reg.CP_ERR_INFO, Reg.CP_ASQ, Reg.CP_ACQ, Reg.CP_AQ_CFG, Reg.JRN_CTL, Reg.JRN_BASE, Reg.JRN_EPOCH, Reg.JRN_HEAD, Reg.JRN_OLDEST, Reg.JRN_POS, Reg.JRN_ACK, Reg.JRN_FLUSH, Reg.JRN_ERR, Reg.CTX_ID, Reg.CTX_CTL, Reg.CTX_STATUS, Reg.CTX_TIMERS, Reg.CTX_QUERY, Reg.CTX_QUERY_CTX, Reg.CTX_QUERY_STREAM]
/-- Registers of the spec, part 1, in offset order. -/
def allRegs1 : List RegSpec := [
  Reg.CTX_QUERY_PROGRESS, Reg.CTX_ERR, Reg.CTX_ERR_INFO, Reg.CTX_SLOT, Reg.HOP_ID, Reg.HOP_CTL, Reg.HOP_ERR, Reg.HOP_ERR_INFO, Reg.HOP_QUERY, Reg.HOP_QUERY_CFG, Reg.HOP_QUERY_USE, Reg.HOP_QUERY_CTX, Reg.HOP_QUERY_RING, Reg.HOP_QUERY_BUF, Reg.HOP_QUERY_LINK, Reg.RTE_ID, Reg.RTE_CTL, Reg.RTE_STATUS, Reg.RTE_ERR, Reg.RTE_ERR_INFO, Reg.RTE_LAST_SWITCH, Reg.RTE_SWITCH_MSC, Reg.RUN_ID, Reg.RUN_CTL]
/-- Registers of the spec, part 2, in offset order. -/
def allRegs2 : List RegSpec := [
  Reg.RUN_STATUS, Reg.RUN_ERR, Reg.RUN_ERR_INFO, Reg.RUN_CLASS_MAP, Reg.RUN_CLASS_WEIGHT, Reg.RUN_STALE_DROPS, Reg.RUN_TRIG, Reg.TIL_ID, Reg.TIL_CTL, Reg.TIL_STATUS, Reg.TIL_FAULT, Reg.TIL_FAULT_INFO, Reg.TIL_ECC, Reg.TIL_STK_STATUS, Reg.TIL_IBANK, Reg.TIL_STK_QUEUE, Reg.TIL_STK_EVENT_LO, Reg.TIL_STK_EVENT_HI, Reg.TIL_STK_STALL, Reg.SKP_ID, Reg.SKP_CTL, Reg.SKP_STATUS, Reg.SKP_ERR, Reg.SKP_ERR_INFO]
/-- Registers of the spec, part 3, in offset order. -/
def allRegs3 : List RegSpec := [
  Reg.WSP_ID, Reg.WSP_CTL, Reg.WSP_STATUS, Reg.WSP_UNPLACED, Reg.WSP_ERR, Reg.WSP_ERR_INFO, Reg.WSP_ERR_INFO2, Reg.WSP_QUERY, Reg.WSP_QUERY_D, Reg.WSP_STACK, Reg.NTL_ID, Reg.NTL_CTL, Reg.NTL_CFG, Reg.NTL_STATUS, Reg.NTL_ERR, Reg.NTL_ERR_INFO, Reg.FAB_PORT_ID, Reg.FAB_PORT_CTL, Reg.FAB_PORT_STATUS, Reg.FAB_PORT_PEER, Reg.FAB_PORT_LANES, Reg.FAB_PORT_ERR, Reg.XRT_ID, Reg.XRT_CTL]
/-- Registers of the spec, part 4, in offset order. -/
def allRegs4 : List RegSpec := [
  Reg.XRT_TOPO, Reg.XRT_SPRAY, Reg.XRT_VC_WEIGHT, Reg.XRT_LIMITS, Reg.XRT_THROTTLE, Reg.XRT_EP, Reg.XRT_QUAR_END, Reg.XRT_CFG, Reg.XRT_PORT_ROLE, Reg.XRT_ERR, Reg.XRT_ERR_INFO, Reg.XRT_GTBL, Reg.XRT_LTBL, Reg.XRT_TDIR, Reg.XRT_MCAST, Reg.SHP_ID, Reg.SHP_CTL, Reg.SHP_SUB_MAP, Reg.SHP_SUB_CFG, Reg.SHP_SUB_OVH, Reg.SHP_SVC_CFG, Reg.SHP_SVC_OVH, Reg.SHP_PORT_CFG, Reg.SHP_PORT_OVH]
/-- Registers of the spec, part 5, in offset order. -/
def allRegs5 : List RegSpec := [
  Reg.SHP_POL_CFG, Reg.SHP_POL_OVH, Reg.FLK_ID, Reg.FLK_CTL, Reg.FLK_CFG, Reg.FLK_STATUS, Reg.FLK_ERR, Reg.FLK_ERR_INFO, Reg.FLK_MEMBER, Reg.DET_ID, Reg.DET_CTL, Reg.DET_REC_CTL, Reg.DET_REC_STATUS, Reg.DET_REC_HEAD, Reg.DET_REC_OLDEST, Reg.DET_REC_INDEX, Reg.DET_REC_MARK, Reg.DET_REC_DATA, Reg.DET_DIVERGE, Reg.DET_DIVERGE_INFO, Reg.DET_DIVERGE_MSC, Reg.DET_DIVERGE_EXP, Reg.DET_DIVERGE_GOT, Reg.DET_ERR]
/-- Registers of the spec, part 6, in offset order. -/
def allRegs6 : List RegSpec := [
  Reg.RAS_ID, Reg.RAS_CTL, Reg.RAS_CFG, Reg.RAS_STATUS, Reg.RAS_IRQ_STATUS, Reg.RAS_IRQ_CFG, Reg.RAS_ERR, Reg.RAS_ERR_INFO, Reg.RAS_LOG_HEAD, Reg.RAS_LOG_INDEX, Reg.RAS_LOG_DATA, Reg.RAS_REINSTATE, Reg.RAS_TILE_RETIRE, Reg.RAS_SERIAL, Reg.RAS_IDENT, Reg.RAS_TILE_STATE, Reg.RAS_L2P, Reg.PWR_ID, Reg.PWR_CTL, Reg.PWR_REQ, Reg.PWR_STATUS, Reg.PWR_DOMAINS, Reg.PWR_TIMERS, Reg.PWR_LIMIT]
/-- Registers of the spec, part 7, in offset order. -/
def allRegs7 : List RegSpec := [
  Reg.PWR_THERM, Reg.PWR_POWER, Reg.PWR_TEMP, Reg.PWR_ERR, Reg.PWR_ERR_INFO, Reg.CLK_ID, Reg.CLK_CTL, Reg.CLK_STATUS, Reg.CLK_CORE, Reg.CLK_TILE_IDLE, Reg.CLK_EMBER_TICKS, Reg.CLK_ERR, Reg.RST_CTL, Reg.RST_CAUSE, Reg.RST_COUNT, Reg.RST_STATUS, Reg.RST_CFG, Reg.MGT_FUSE_ID, Reg.MGT_CHAIN, Reg.MGT_CTL, Reg.MGT_TEST, Reg.MGT_ERR, Reg.PMC_ID, Reg.PMC_CTL]
/-- Registers of the spec, part 8, in offset order. -/
def allRegs8 : List RegSpec := [
  Reg.PMC_CFG, Reg.PMC_RING, Reg.PMC_MASK, Reg.PMC_STATUS, Reg.PMC_HEAD, Reg.PMC_OLDEST, Reg.PMC_CLEAR, Reg.PMC_ERR, Reg.PMC_ERR_INFO, Reg.PMC_CNT, Reg.PRT_ID, Reg.PRT_CTL, Reg.PRT_STATUS, Reg.PRT_ERR, Reg.PRT_INJ_CFG, Reg.PRT_INJ_PAT, Reg.PRT_INJ_SEED, Reg.PRT_INJ_LIMIT, Reg.PRT_INJ_EVENTS, Reg.PRT_INJ_FIRED, Reg.HIF_ID, Reg.HIF_CTL, Reg.HIF_LINK, Reg.HIF_ERR]
/-- Registers of the spec, part 9, in offset order. -/
def allRegs9 : List RegSpec := [
  Reg.HIF_ERR_INFO, Reg.HIF_FN_Q, Reg.HIF_FN_CTX, Reg.HIF_FN_WSP]
/-- Every register of the spec, in offset order (R16). -/
def allRegs : List RegSpec :=
  allRegs0 ++ allRegs1 ++ allRegs2 ++ allRegs3 ++ allRegs4 ++ allRegs5 ++ allRegs6 ++ allRegs7 ++ allRegs8 ++ allRegs9

end Sys2Proof.Machine
end

