-- ==== Sys2Proof/Machine/TypesCp.lean ====
section
/-!
DEFINITION. State of the command processor, the journal, the contexts and streams, the Hopper pools and the
weight space (chapters "Command queues, packets, status and the journal", "Command reference", "Contexts,
streams, scheduling and the Hopper", "Weight space: DRAM stacks, the NAND tier and pour lists").
Each field's comment names its width or range, the rule that names it and its reset value.
-/
namespace Sys2Proof.Machine

/-- What the module sends to the host over PCIe (R256, R363). -/
inductive HostOut where
  /-- A posted write of bytes at a host address of a function (R252, R266). -/
  | write (func addr : Nat) (bytes : List Byte)
  /-- An MSI-X message (R256, R500). -/
  | msi (func vector : Nat)
  /-- The data a BAR read returns. -/
  | readData (bytes : List Byte)
  /-- PME_TO_Ack (R563). -/
  | pmeToAck
  /-- PM_Enter_L23 (R563). -/
  | pmEnterL23
  /-- A non-fatal error is logged in the function's AER capability and reported (R562). -/
  | aerNonFatal (func : Nat)
  /-- An MCTP packet over PCIe VDM (R568). -/
  | mctpVdm (bytes : List Byte)
  deriving DecidableEq, Repr

/-- The result of a command: status code, detail and two words (R266). -/
structure Result where
  status : Nat := 0
  detail : Nat := 0
  word0 : Nat := 0
  word1 : Nat := 0
  deriving DecidableEq, Repr

/-- A submission queue (R250–R252). -/
structure Sq where
  /-- Host address, 4 KiB aligned · R251 · from SQ_CREATE or CP_ASQ. -/
  base : Nat := 0
  /-- 1–16 · R251. -/
  depthLog2 : Nat := 6
  /-- Head index written back, past entries whose journal entry is durable · 16 bits · R252, R255 · 0. -/
  head : Nat := 0
  /-- Index of the next entry to read · 16 bits · R255 · 0. -/
  next : Nat := 0
  /-- Wrap count of the head · 32 bits · R252 · 0. -/
  wrap : Nat := 0
  /-- Tail index from the doorbell · 16 bits · R253 · 0. -/
  tail : Nat := 0
  /-- The CQ bound to the queue · 10 bits · R251 · 0. -/
  cq : Nat := 0
  /-- A PCIe error stopped the queue · 1 bit · R257 · false. -/
  stopped : Bool := false
  /-- The packet read and not yet accepted or refused, with its slot · R255 · none. -/
  held : Option (Packet × Nat) := none
  /-- A writeback of index 0 is owed when FETCH next becomes 1 · 1 bit · R289 · false. -/
  owesWriteback : Bool := false
  deriving DecidableEq, Repr

/-- A completion queue (R250–R252, R256, R264). -/
structure Cq where
  /-- Host address, 4 KiB aligned · R251 · from CQ_CREATE or CP_ACQ. -/
  base : Nat := 0
  /-- 1–16 · R251. -/
  depthLog2 : Nat := 6
  /-- Head index released by the host · 16 bits · R253 · 0. -/
  head : Nat := 0
  /-- Tail index: next reply to be posted · 16 bits · R252 · 0. -/
  tail : Nat := 0
  /-- Next entry to be given to a journaled reply; between tail and it lie replies not yet posted · R268 · 0. -/
  alloc : Nat := 0
  /-- Wrap count of the tail · 32 bits · R252 · 0. -/
  wrap : Nat := 0
  /-- Entries reserved for accepted commands · R264 · 0. -/
  reserved : Nat := 0
  /-- Entries reserved for Runner groups · R113 · 0. -/
  groupReserved : Nat := 0
  /-- Slots that hold replies of a group's reservation, with the group's key · R113 · empty. -/
  groupSlots : List (Nat × Nat) := []
  /-- MSI-X vector, or none · R251. -/
  vector : Option Nat := none
  /-- AGG_COUNT, 0–255 · R256 · 0. -/
  aggCount : Nat := 0
  /-- AGG_TIME, 0–1,023 µs · R256 · 0. -/
  aggTime : Nat := 0
  /-- Replies posted since the last message · R256 · 0. -/
  unsignalled : Nat := 0
  /-- A PCIe error stopped the queue · 1 bit · R257 · false. -/
  stopped : Bool := false
  /-- A writeback of index 0 is owed when FETCH next becomes 1 · 1 bit · R289 · false. -/
  owesWriteback : Bool := false
  /-- ST_PREEMPTED notes that wait for earlier replies: slot, bytes, and whether their command's IRQ flag is set · R256, R268 · empty. -/
  notes : List (Nat × List Byte × Bool) := []
  /-- Entries that hold replies without a journal entry of their own (notes, replies for a group's members) and that the host has not
  released, by slot · R268, R111, R287 · empty. -/
  noteSlots : List Nat := []
  deriving DecidableEq, Repr

/-- Where an accepted command stands (R264, R270). -/
inductive Phase where
  /-- Its ACCEPT entry is not yet durable. -/
  | accepting
  /-- Its ACCEPT entry is durable; it has not taken effect. -/
  | ready
  /-- It has taken effect and its work runs. -/
  | working
  /-- Its COMPLETE entry is written and not yet durable. -/
  | completing
  deriving DecidableEq, Repr

/-- A journal entry (R276); `body` is bytes 64–127. -/
structure JEntry where
  seq : Nat := 0
  epoch : Nat := 0
  kind : Nat := 0
  code : Nat := 0
  queue : Nat := 0
  func : Nat := 0
  slot : Nat := 0
  status : Nat := 0
  detail : Nat := 0
  rslot : Nat := 0
  ref : Nat := 0
  msc : Nat := 0
  time : Nat := 0
  word0 : Nat := 0
  word1 : Nat := 0
  body : Packet := 0
  /-- The model's own, in no byte of the entry: the CQ of a REFUSE entry's reply, bound to the SQ when the entry was formed. -/
  cq : Nat := 0
  /-- The model's own: the SQ of an ACCEPT or REFUSE entry was deleted or started again after it was formed, so its head does not
  move past it (R289, R298). -/
  gone : Bool := false
  deriving DecidableEq, Repr

/-- An open command (R264). -/
structure OpenCmd where
  /-- The packet · 64 bytes · R258. -/
  pkt : Packet := 0
  /-- Issuing function, 0–32 · R250. -/
  func : Nat := 0
  /-- SQ, 10 bits · R276. -/
  sq : Nat := 0
  /-- SQ index, 16 bits · R276. -/
  slot : Nat := 0
  /-- CQ that receives the reply, 10 bits · R264. -/
  cq : Nat := 0
  phase : Phase := .accepting
  /-- The copy of the payload, once read · R265 · none. -/
  payload : Option (List Byte) := none
  /-- The result, once known · R266. -/
  result : Result := {}
  /-- The command is past its last killable point · R274 · false. -/
  pinned : Bool := false
  /-- Ember tick of the command's last progress · 64 bits · R335 · 0. -/
  progress : Nat := 0
  /-- The reply slot, once its COMPLETE entry is written · R276. -/
  replySlot : Nat := 0
  /-- The reply uses a group's reservation and not one of its own · R113, R264 · false. -/
  groupReply : Bool := false
  /-- A COLLECTIVE's number in its group · 32 bits · R114 · 0. -/
  collNumber : Nat := 0
  /-- CANCELs of its stream, accepted later, that have committed while a step was open · R131, R299 · 0. -/
  cancels : Nat := 0
  /-- An event that changes only timing met the command · R267 · false. -/
  timingEvent : Bool := false
  /-- A run of the step has set a bit of an unavailable bitmap, a run that was killed too · R97, R271 · false. -/
  lostSet : Bool := false
  /-- Bytes the command has written to its destination regions · R271; not yet readable by others · empty. -/
  writes : Mem := []
  /-- The ranges (address, length) it has written there · R271, R393 · empty. -/
  written : List (Nat × Nat) := []
  /-- Hopper chains the command has taken and not handed over: (function·1024+pool or pool 0 of a die, buffers) · R271 · empty. -/
  chains : List (Nat × List Nat) := []
  /-- The run of pages that a POOL_CREATE has reserved: the first and how many · R362 · none. -/
  reserved : Option (Nat × Nat) := none
  /-- Its source and destination ranges, once it has taken effect, where its layer or image gives them · R304 · empty. -/
  regions : List (Nat × Nat) := []
  /-- Its destination ranges, once it has taken effect · R271 · empty. -/
  dest : List (Nat × Nat) := []
  /-- The journal image of a JOURNAL_FLUSH, as its copy began · R300 · empty. -/
  image : List JEntry := []
  /-- A step's output range (address, length), once its rows are written · R491 · none. -/
  outRange : Option (Nat × Nat) := none
  deriving DecidableEq, Repr

/-- The command journal (R275–R283). -/
structure Journal where
  /-- Entries still in the ring, oldest first · R275 · after bring-up: the EPOCH_START entry. -/
  ring : List JEntry := []
  /-- SEQ that the next entry will carry · 64 bits · R290 · 2 after EPOCH_START. -/
  head : Nat := 2
  /-- Ring index of the next entry · 23 bits · R290 · 1. -/
  pos : Nat := 1
  /-- Lowest SEQ of the ring when it lists none (R283) · 64 bits. -/
  oldest : Nat := 1
  /-- Entries whose two copies are not both written, oldest first, by SEQ · R275 · empty. -/
  notDurable : List Nat := []
  /-- Current epoch · 32 bits · R280. -/
  epoch : Nat := 0
  /-- Only one copy can be kept · 1 bit · R275 · false. -/
  singleCopy : Bool := false
  deriving DecidableEq, Repr

/-- What NAND keeps of the journal (R280, R300). -/
structure JournalNand where
  /-- Last journal epoch started · 32 bits · R280 · 0: none started. -/
  lastEpoch : Nat := 0
  /-- Epoch of the flush image, 0 if none · 32 bits · R300 · 0. -/
  flushEpoch : Nat := 0
  /-- The flush image, in SEQ order · R300 · empty. -/
  image : List JEntry := []
  deriving DecidableEq, Repr

/-- A packet read from an SQ that was deleted, or started again, before the packet was accepted or refused (R279, R298). -/
structure Orphan where
  func : Nat := 0
  queue : Nat := 0
  slot : Nat := 0
  cq : Nat := 0
  pkt : Packet := 0
  deriving DecidableEq, Repr

/-- The two control cores (R285–R288). -/
structure Cores where
  /-- The physical core that is active, 0 or 1 · R289 · 0. -/
  active : Nat := 0
  /-- A standby is ready · 1 bit · R288. -/
  standby : Bool := false
  /-- Command processing has stopped · 1 bit · R288 · false. -/
  stopped : Bool := false
  /-- A core under reset and self-test · R288 · false. -/
  testing : Bool := false
  /-- Ember tick of the last heartbeat · 64 bits · R285 · 0. -/
  lastBeat : Nat := 0
  deriving DecidableEq, Repr

/-- A packet's or a chain's place in the command processor (R250–R291). -/
structure CpState where
  /-- Submission queues, by function × 1,024 + queue; a queue 0 not listed is as CP_ASQ and CP_AQ_CFG define it · R250 · empty. -/
  sqs : Table Sq := []
  /-- Completion queues, by function × 1,024 + queue; a queue 0 not listed is as CP_ACQ and CP_AQ_CFG define it · R250 · empty. -/
  cqs : Table Cq := []
  /-- Packets read from SQs that are no more, not yet accepted or refused, oldest first · R279 · empty. -/
  orphans : List Orphan := []
  /-- Open commands by sequence number · R264 · empty. -/
  cmds : Table OpenCmd := []
  journal : Journal := {}
  nand : JournalNand := {}
  cores : Cores := {}
  deriving DecidableEq, Repr

/-- A stream's state (R326). -/
inductive StreamState where
  | closed | open | waiting | running | blocked | pinned | lingering | evicted
  deriving DecidableEq, Repr

/-- One of a context's 64 streams (R325–R336). -/
structure Stream where
  state : StreamState := .closed
  /-- The waiting step was evicted or pre-empted · 1 bit · R326 · false. -/
  swapIn : Bool := false
  /-- Class of the current step, 0–3 · R324 · 0. -/
  cls : Nat := 0
  /-- Resident slot, or none · R328 · none. -/
  slot : Option Nat := none
  /-- Generation · 16 bits · R12, R303 · 0. -/
  gen : Nat := 0
  /-- Bound expert group's ID, or 0 · 16 bits · R303 · 0. -/
  group : Nat := 0
  /-- Sequence number of the step it is running or waiting to run, or 0 · R326 · 0. -/
  stepSeq : Nat := 0
  /-- K_MAX of the stream, 1 or 2 · R302 · 0 while closed. -/
  kMax : Nat := 0
  /-- RET_ROW8 of the stream · 14 bits · R303 · 0. -/
  retRow8 : Nat := 0
  /-- Routing area address · 48 bits · R82 · 0. -/
  routeArea : Nat := 0
  /-- Return area: its pool (function·1024 + pool) and its chain · R353 · none. -/
  retArea : Option (Nat × List Nat) := none
  /-- Ember tick of the last progress · 64 bits · R335 · 0. -/
  progress : Nat := 0
  /-- Ember tick since which it is BLOCKED or LINGERING · R328, R333 · 0. -/
  since : Nat := 0
  /-- BLOCKED for BLOCK_US · 1 bit · R333 · false. -/
  evictable : Bool := false
  /-- Pages without a DRAM copy that its step waits for · R333, R390 · empty. -/
  waitPages : List Nat := []
  /-- Logical tiles that parts of its most recent step were placed on, by image × 65,536 + kernel × 256 + part · R339 · empty. -/
  lastTiles : Table Nat := []
  /-- Layer of the current or latest step, once one has taken effect · R385 · none. -/
  layer : Option Nat := none
  /-- Image of the current or latest step · R385 · 0. -/
  image : Nat := 0
  /-- The model's pour list the stream works under was adopted at this model step · R305 · 0. -/
  msc : Nat := 0
  deriving DecidableEq, Repr

/-- One context of the table (R319–R324). -/
structure Ctx where
  /-- Owning function, 0–32 · R320. -/
  func : Nat := 0
  /-- Default class, 0–3 · R324. -/
  cls : Nat := 0
  /-- STATE_ADDR · 48 bits · R321. -/
  stateAddr : Nat := 0
  /-- SEED · 64 bits · R321. -/
  seed : Nat := 0
  /-- DIE_PREF · 4 bits · R321. -/
  diePref : Nat := 0
  /-- STEP_TILES · 8 bits · R321. -/
  stepTiles : Nat := 1
  /-- MAX_RESIDENT · 1–64 · R321. -/
  maxResident : Nat := 64
  /-- The context is FAULTED · R343 · false. -/
  faulted : Bool := false
  /-- The entry is in the on-die cache · R319 · false. -/
  cached : Bool := false
  /-- Its streams that are not at their initial values · R325 · empty. -/
  streams : Table Stream := []
  /-- HOLD_LEFT of each layer, 0–255 · R94 · all 0. -/
  holdLeft : Table Nat := []
  deriving DecidableEq, Repr

/-- The context table and the resident slots (R319, R325). -/
structure CtxState where
  /-- Contexts by ID, 18 bits · R319 · empty. -/
  table : Table Ctx := []
  /-- Contexts whose table entry could not be read, each with the command that met it · R342 · empty. -/
  unread : List (Nat × Nat) := []
  /-- Tile rows not free of live state when the scheduler last looked, rising · R341 · empty. -/
  rowsLive : List Nat := []
  /-- Resident slots in use: slot → context × 64 + stream · R325 · empty. -/
  slots : Table Nat := []
  /-- The stream whose record a resident slot holds, in use or not: slot → context × 64 + stream · R328 · empty. -/
  records : Table Nat := []
  deriving DecidableEq, Repr

/-- A buffer chain that a context holds (R134, R352). -/
structure Chain where
  ctx : Nat := 0
  bufs : List Nat := []
  serial : Nat := 0
  deriving DecidableEq, Repr

/-- One context's figures in a pool (R302, R349). -/
structure Quota where
  /-- RESERVED_MIN · 32 bits · 0. -/
  min : Nat := 0
  /-- QUOTA · 32 bits; none is no limit · none. -/
  quota : Option Nat := none
  /-- Buffers held · R349 · 0. -/
  held : Nat := 0
  deriving DecidableEq, Repr

/-- One Hopper pool (R346–R352). -/
structure Pool where
  /-- COUNT buffers · 1–1,048,576 · R302. -/
  count : Nat := 0
  /-- BUF_BYTES · a multiple of 4,096 · R302. -/
  bufBytes : Nat := 4096
  /-- Base die, 0–3 · R302. -/
  die : Nat := 0
  /-- Ring mode · R350. -/
  ring : Bool := false
  /-- Ring mode set by R351. -/
  ringForced : Bool := false
  /-- Ring index · 20 bits · R350 · 0. -/
  head : Nat := 0
  /-- Free list in order: explicit head part; then `tailFrom`, `tailFrom+1`, … up to COUNT · R348. -/
  freeList : List Nat := []
  /-- First buffer of the untouched ascending tail of the free list · R348 · 0. -/
  tailFrom : Nat := 0
  /-- Held buffers with their link words' NEXT and END · R347 · empty. -/
  links : Table (Nat × Bool) := []
  /-- Buffers held for good · R351 · empty. -/
  lost : List Nat := []
  /-- Buffers whose link words cannot be read: (first, number) · R351 · none. -/
  badLinks : List (Nat × Nat) := []
  /-- Figures by context · R349 · empty. -/
  quotas : Table Quota := []
  /-- Chains handed over and not freed · R352 · empty. -/
  chains : List Chain := []
  /-- SERIAL of the next chain · 26 bits · R352 · 0. -/
  serial : Nat := 0
  /-- First page of the run (pools 1–1,023) · R347. -/
  firstPage : Nat := 0
  deriving DecidableEq, Repr

/-- The four Hoppers (R346). -/
structure HopState where
  /-- Pools 1–1,023 by function × 1,024 + pool · R346 · empty. -/
  pools : Table Pool := []
  /-- Pool 0 of each base die: 4,096 buffers of 4 KiB · R346. -/
  pool0 : Table Pool := []
  /-- Pool 0 allocations waiting for a buffer, oldest first: (die, tag) · R346 · empty. -/
  waiting : List (Nat × Nat) := []
  /-- Pool 0 buffers in use: the asker's tag, and die × 4,096 + buffer · R346 · empty. -/
  pool0Given : List (Nat × Nat) := []
  deriving DecidableEq, Repr

/-- A page descriptor (R364). -/
structure Page where
  /-- 0 NAND, 1 DRAM, 2 both. -/
  tier : Nat := 1
  replicated : Bool := false
  pin : Bool := false
  dirty : Bool := false
  lost : Bool := false
  moving : Bool := false
  module : Bool := false
  stack1 : Nat := 31
  stack2 : Nat := 31
  pref : Nat := 31
  frame1 : Nat := 0
  frame2 : Nat := 0
  slot : Nat := 0
  model : Nat := 0
  tag : Nat := 0
  expert : Nat := 0
  layer : Nat := 0
  context : Nat := 0
  ctxHeld : Bool := false
  /-- The model's own: DIRTY was set by a committed command's writes (R396). -/
  dirtyCmd : Bool := false
  deriving DecidableEq, Repr

/-- Why a page move is queued (R379). -/
inductive MoveKind where
  /-- A fetch of a PIN page after a reset, ahead of any other (R370). -/
  | restore
  | demand | repour | prefetch | writeback | migrate
  deriving DecidableEq, Repr

/-- A queued page move of the migration engines (R379). -/
structure Move where
  kind : MoveKind := .demand
  page : Nat := 0
  /-- Target tier of a MIGRATE; for other kinds unused. -/
  tier : Nat := 0
  /-- The command that waits for it, or 0. -/
  seq : Nat := 0
  deriving DecidableEq, Repr

/-- One pour-list entry (R382). -/
structure PourEntry where
  addr : Nat := 0
  layer : Nat := 0
  len : Nat := 0
  kind : Nat := 0
  rare : Bool := false
  single : Bool := false
  home : Bool := false
  tile : Nat := 0
  expert : Nat := 0
  spad : Nat := 0
  deriving DecidableEq, Repr

/-- A model's pour list (R382, R305). -/
structure PourList where
  ahead : Nat := 0
  entries : List PourEntry := []
  deriving DecidableEq, Repr

/-- One STAGE entry's progress on its tile (R387, R388). -/
structure Staged where
  model : Nat := 0
  entry : PourEntry := {}
  /-- Its data has been written and is held. -/
  held : Bool := false
  deriving DecidableEq, Repr

/-- What a stream works under since its latest step took effect: the model, the layer, the window of layers and the list that it
adopted then (R305, R385, R389). -/
structure Window where
  model : Nat := 0
  layer : Nat := 0
  layers : List Nat := []
  list : PourList := {}
  deriving DecidableEq, Repr

/-- The weight space, DRAM stacks and migration engines (R359–R398). -/
structure WspState where
  /-- Descriptors of mapped and held pages, by page number · R364 · empty. -/
  pages : Table Page := []
  /-- What the DRAM copies hold, by weight-space address · R368 · zero. -/
  dram : Mem := []
  /-- What the NAND copies hold, by weight-space address · R381 · zero. -/
  nand : Mem := []
  /-- Frames in use of each stack: stack × 65,536 + frame → page · R360 · empty. -/
  frames : Table Nat := []
  /-- Retired frames: stack × 65,536 + frame · R373 · empty. -/
  retired : List Nat := []
  /-- Failed stacks · R374 · none. -/
  failed : List Nat := []
  /-- Failed pseudo-channels: stack × 64 + channel · R373 · none. -/
  pcFailed : List Nat := []
  /-- Corrected blocks of a stack since its register was read · R399 · empty (0). -/
  corrected : Table Nat := []
  /-- Blocks of a frame corrected in this patrol pass: stack × 65,536 + frame → count · R373 · empty. -/
  blockHits : Table Nat := []
  /-- Pseudo-channel corrections in this patrol pass: stack × 64 + channel → distinct blocks (frame key × 32,768 + block) · R373 · empty. -/
  pcHits : Table (List Nat) := []
  /-- Moves queued, in order of arrival · R379 · empty. -/
  moves : List Move := []
  /-- Page → order number of its latest read, for eviction · R380 · empty. -/
  lastRead : Table Nat := []
  /-- Reads so far (orders `lastRead`) · R380 · 0. -/
  reads : Nat := 0
  /-- Pour lists in effect, by model · R305, R382 · empty. -/
  pour : Table PourList := []
  /-- Pour lists installed that no model step has put in effect yet, by model · R305 · empty. -/
  pourNext : Table PourList := []
  /-- STAGE entries being staged or held, per logical tile · R387 · empty. -/
  staged : List (Nat × Staged) := []
  /-- Windows of streams, by context × 64 + stream · R385 · empty. -/
  windows : Table Window := []
  /-- PIN pages left without a frame · R397 · 0. -/
  unplaced : List Nat := []
  deriving DecidableEq, Repr

/-- What the module keeps of a model (R96, R307): its bitmaps and MASK_VER. -/
structure ModelState where
  /-- Experts whose mask bit is set, rising · R96 · none. -/
  masked : List Nat := []
  /-- Experts whose unavailable bit is set, rising · R97 · none. -/
  unavailable : List Nat := []
  /-- MASK_VER · 32 bits · R96 · 0. -/
  maskVer : Nat := 0
  /-- Experts this owner has marked and whose bit is not yet set, rising · R97, R98 · none. -/
  marked : List Nat := []
  deriving DecidableEq, Repr

/-- The NAND translation layer (R375–R378). -/
structure NtlState where
  /-- Failed channels · R378 · none. -/
  chFailed : List Nat := []
  /-- Blocks retired, per channel · R378 · empty (0). -/
  blocksRetired : Table Nat := []
  /-- Page slots in use: slot → page · R360 · empty. -/
  slots : Table Nat := []
  /-- Persistent map: page → descriptor fields kept in NAND · R370 · empty. -/
  map : Table Page := []
  deriving DecidableEq, Repr

end Sys2Proof.Machine
end

