-- ==== Sys2Proof/Machine/State.lean ====
section
/-!
DEFINITION. The state of the module, its faults and refusals, and the state right after reset.
The parts of the state are laid down in the Types files; the command queue `pending` is the model's own.
-/
namespace Sys2Proof.Machine

/-- The whole state of the module. -/
structure State where
  /-- Fuses · R3, R6 · a grade X part. -/
  fuses : Fuses := {}
  /-- Registers that differ from their reset values: by offset in BAR0, plus 2^26 × function for a register that
  each function has of its own · R9, R16 · none. -/
  regs : Table Word := []
  /-- Counters that are not zero: by 32 × bank + counter · R575 · none. -/
  counters : Table Nat := []
  cp : CpState := {}
  ctx : CtxState := {}
  hop : HopState := {}
  wsp : WspState := {}
  ntl : NtlState := {}
  /-- Models that an image has been loaded for, by ID · R307 · none. -/
  models : Table ModelState := []
  /-- Tiles by physical number, 0–151 · R153 · rows gated, clocks stopped, banks empty. -/
  tiles : Table Tile := []
  xch : XchState := {}
  fab : FabState := {}
  flk : FlaskState := {}
  ras : RasState := {}
  det : DetState := {}
  mgt : MgtState := {}
  pwr : PwrState := {}
  hif : HifState := {}
  pmc : PmcState := {}
  prt : PrtState := {}
  /-- What has been sent to the host, oldest first · R256 · nothing. -/
  hostOut : List HostOut := []
  /-- Ember ticks · 64 bits · R523 · 0. -/
  ticks : Nat := 0
  /-- The model's own: how many free values have been drawn. -/
  free : Nat := 0
  /-- The model's own: commands waiting, first in, first out. -/
  pending : List Instr := []
  deriving DecidableEq, Repr

/-- The module as it is when a reset has just ended its effects and bring-up has not run (R544, R545): every register at its
reset value, no copy of anything in DRAM, no command, context or link, and every domain but the ember domain off. The repair
map, NAND and the journal epoch are those of a module that was never used. RESET_COMPLETE is the end of bring-up. -/
def State.reset : State := {}

/-- No step of this model ends in a fault. -/
inductive Fault where
  deriving DecidableEq, Repr

/-- Why a step has no meaning. -/
inductive Refusal where
  /-- Raised by `exec` for a row whose meaning is not written; safe, since nothing is claimed of it. -/
  | notModelled (mnemonic : String)
  deriving DecidableEq, Repr

/-- The outcome of a step of the module. -/
abbrev Out := Host.Outcome State Fault Refusal

end Sys2Proof.Machine
end

