-- ==== Sys2Proof/Machine/Ops.lean ====
section
/-!
DEFINITION. The operations every block shares: registers by field (R9–R11), block counters (R575, R577), the
error registers with the error log and the error interrupt (R497–R502), and outputs to the host.
-/
namespace Sys2Proof.Machine

/-! ## Registers -/

/-- The reset value of copy `idx` of a register, where the spec's table gives the same value to every copy. -/
def RegSpec.commonReset (r : RegSpec) : Nat :=
  (r.fields.map fun f => f.reset * 2 ^ f.lo).foldl (· + ·) 0

/-- The reset value of copy `idx` of a register (the register tables of each chapter). -/
def RegSpec.resetOf (r : RegSpec) (idx : Nat) : Nat :=
  if r.base = Reg.HIF_FN_Q.base then (if idx = 0 then 1024 else 0)
  else if r.base = Reg.HIF_FN_CTX.base then (if idx = 0 then 262144 * 2 ^ 20 else 0)
  else if r.base = Reg.HIF_FN_WSP.base then (if idx = 0 then 2 ^ 27 * 2 ^ 28 else 0)
  else if r.base = Reg.PMC_MASK.base then
    (if idx = 0 then 0x0003FFFFFFFFFFFF else if idx = 3 then 0xFFFFFF else 2 ^ 64 - 1)
  else r.commonReset

/-- The key of a register copy in the register file. -/
def regKey (r : RegSpec) (idx func : Nat) : Nat :=
  (if r.perFn then func * 2 ^ 26 else 0) + r.base + idx * r.stride

/-- What a register copy stores. -/
def raw (s : State) (r : RegSpec) (idx : Nat := 0) (func : Nat := 0) : Nat :=
  match lookup (regKey r idx func) s.regs with
  | some v => v.toNat
  | none => r.resetOf idx

/-- The state with a register copy storing `v`; a copy at its reset value is not listed. -/
def setRaw (s : State) (r : RegSpec) (idx func v : Nat) : State :=
  let k := regKey r idx func
  if v = r.resetOf idx then { s with regs := eraseK k s.regs }
  else { s with regs := insertK k (BitVec.ofNat 64 v) s.regs }

/-- `v` with the field at `lo`, `len` replaced by `x`. -/
def putBits (v lo len x : Nat) : Nat :=
  v - bitsOf v lo len * 2 ^ lo + (x % 2 ^ len) * 2 ^ lo

/-- What a field stores. -/
def fld (s : State) (f : FieldRef) (idx : Nat := 0) (func : Nat := 0) : Nat :=
  bitsOf (raw s f.reg idx func) f.lo f.len

/-- Is a one-bit field set? -/
def flag (s : State) (f : FieldRef) (idx : Nat := 0) (func : Nat := 0) : Bool := fld s f idx func != 0

/-- The state with a field storing `x`. -/
def setFld (s : State) (f : FieldRef) (x : Nat) (idx : Nat := 0) (func : Nat := 0) : State :=
  setRaw s f.reg idx func (putBits (raw s f.reg idx func) f.lo f.len x)

/-- A field that counts up and stops at its largest value. -/
def bumpFld (s : State) (f : FieldRef) (n : Nat := 1) (idx : Nat := 0) : State :=
  setFld s f (satBits f.len (fld s f idx + n)) idx

/-! ## Block counters (R575, R577) -/

/-- Counter banks (R575). -/
def bankCp : Nat := 0
def bankCtx : Nat := 2
def bankHop (die : Nat) : Nat := 3 + die
def bankRte (engine : Nat) : Nat := 7 + engine
def bankRun (slice : Nat) : Nat := 11 + slice
def bankSkp : Nat := 15
def bankWsp : Nat := 16
def bankNtl : Nat := 17
def bankFab (port : Nat) : Nat := 18 + port
def bankXrt : Nat := 38
def bankShp : Nat := 39
def bankFlk : Nat := 40
def bankDet : Nat := 41
def bankRas : Nat := 42
def bankPwr : Nat := 43
def bankClk : Nat := 44
def bankRst : Nat := 45
def bankMgt : Nat := 46
def bankPmc : Nat := 47
def bankPrt : Nat := 48
def bankHif : Nat := 49
def bankTil (tile : Nat) : Nat := 64 + tile

/-- Counter `c` of bank `b` (R576). -/
def counter (s : State) (b c : Nat) : Nat := lookupD 0 (32 * b + c) s.counters

/-- The state with counter `c` of bank `b` raised by `n`; 48 bits, saturating (R575). -/
def count (s : State) (b c : Nat) (n : Nat := 1) : State :=
  if n = 0 then s
  else { s with counters := insertK (32 * b + c) (min (2 ^ 48 - 1) (counter s b c + n)) s.counters }

/-! ## Outputs -/

/-- The state with one more item sent to the host. -/
def send (s : State) (o : HostOut) : State := { s with hostOut := s.hostOut ++ [o] }

/-! ## Errors (R497–R502) -/

/-- The classes of R497. -/
inductive ErrClass where
  | corrected | recovered | contained | declared | degraded | fatal
  deriving DecidableEq, Repr

/-- The code of a class (R497). -/
def ErrClass.code : ErrClass → Nat
  | .corrected => 1 | .recovered => 2 | .contained => 3 | .declared => 4 | .degraded => 5 | .fatal => 6

/-- Each block's ERR register, the bits of it that raise errors, and its ERR_IRQ_EN (R498, R500). -/
def errRegs : List (RegSpec × Nat × FieldRef) := [
  (Reg.CP_ERR, 0x3F, Fld.CP_CTL_ERR_IRQ_EN), (Reg.JRN_ERR, 0x1F, Fld.JRN_CTL_ERR_IRQ_EN),
  (Reg.CTX_ERR, 7, Fld.CTX_CTL_ERR_IRQ_EN), (Reg.HOP_ERR, 3, Fld.HOP_CTL_ERR_IRQ_EN),
  (Reg.RTE_ERR, 0xF, Fld.RTE_CTL_ERR_IRQ_EN), (Reg.RUN_ERR, 0x3F, Fld.RUN_CTL_ERR_IRQ_EN),
  (Reg.TIL_FAULT, 0xFFFF007F, Fld.TIL_CTL_ERR_IRQ_EN), (Reg.SKP_ERR, 3, Fld.SKP_CTL_ERR_IRQ_EN),
  (Reg.WSP_ERR, 0x7F, Fld.WSP_CTL_ERR_IRQ_EN), (Reg.NTL_ERR, 0x1F, Fld.NTL_CTL_ERR_IRQ_EN),
  (Reg.FAB_PORT_ERR, 0x7F, Fld.FAB_PORT_CTL_ERR_IRQ_EN), (Reg.XRT_ERR, 0x1FF, Fld.XRT_CTL_ERR_IRQ_EN),
  (Reg.FLK_ERR, 7, Fld.FLK_CTL_ERR_IRQ_EN), (Reg.DET_ERR, 7, Fld.DET_CTL_ERR_IRQ_EN),
  (Reg.RAS_ERR, 0x7F, Fld.RAS_CTL_ERR_IRQ_EN), (Reg.PWR_ERR, 0x7F, Fld.PWR_CTL_ERR_IRQ_EN),
  (Reg.CLK_ERR, 1, Fld.CLK_CTL_ERR_IRQ_EN), (Reg.MGT_ERR, 0x1F, Fld.MGT_CTL_ERR_IRQ_EN),
  (Reg.PMC_ERR, 0xF, Fld.PMC_CTL_ERR_IRQ_EN), (Reg.PRT_ERR, 3, Fld.PRT_CTL_ERR_IRQ_EN),
  (Reg.HIF_ERR, 0xF, Fld.HIF_CTL_ERR_IRQ_EN)]

/-- The block window number of an offset (R16, R499). -/
def blockOf (off : Nat) : Nat := off / 0x100000

/-- Does copy `idx` of the ERR register hold a set bit while its interrupt is enabled? -/
def errPending (s : State) (e : RegSpec × Nat × FieldRef) : Bool :=
  (upFrom 0 e.1.n).any fun i => (raw s e.1 i &&& e.2.1) != 0 && flag s e.2.2 i

/-- RAS_IRQ_STATUS as the ERR registers stand (R500). The check looks only at registers that differ from reset. -/
def irqStatus (s : State) : Nat :=
  errRegs.foldl (fun acc e =>
    if s.regs.any (fun c => e.1.base ≤ c.1 && c.1 < e.1.base + e.1.n * e.1.stride) && errPending s e
    then acc ||| 2 ^ blockOf e.1.base else acc) 0

/-- After a change of ERR or ERR_IRQ_EN bits: one MSI-X message for each bit of RAS_IRQ_STATUS that went from 0 to 1
while RAS_IRQ_CFG.EN is 1 (R500). -/
def irqUpdate (s : State) : State :=
  let now := irqStatus s
  let rose := (upFrom 0 23).filter fun n => bitOf now n && !bitOf s.ras.irqSeen n
  let vec := fld s Fld.RAS_IRQ_CFG_VECTOR
  let sent := if flag s Fld.RAS_IRQ_CFG_EN then rose.map fun _ => HostOut.msi 0 vec else []
  count { s with ras := { s.ras with irqSeen := now }, hostOut := s.hostOut ++ sent } bankRas 10 sent.length

/-- What the log entry of an error says beside its place (R499). -/
structure ErrInfo where
  unit : Nat := 0xFFFF
  ctx : Nat := 0
  addr : Nat := 0
  jrnSeq : Nat := 0
  arg : Nat := 0
  deriving DecidableEq, Repr

/-- The state with one more entry in the error log (R498). -/
def logEntry (s : State) (block bit : Nat) (cls : ErrClass) (i : ErrInfo) : State :=
  let e : LogEntry := { seq := s.ras.logHead, time := s.ticks, block, bit, cls := cls.code, unit := i.unit,
                        ctx := i.ctx, addr := i.addr, jrnSeq := i.jrnSeq, arg := i.arg }
  let full := s.ras.log.length ≥ 4096
  let s := { s with ras := { s.ras with
    log := (if full then s.ras.log.drop 1 else s.ras.log) ++ [e], logHead := s.ras.logHead + 1 } }
  let s := count s bankRas 9
  if full then setFld s Fld.RAS_ERR_LOG_WRAP 1 else s

/-- The management-chain report of a class 5 or 6 error or of a trip (R500, R560): up to 16 alerts are held. -/
def alert (s : State) (seq cls block bit : Nat) : State :=
  if flag s Fld.MGT_CTL_ALERT_EN && fld s Fld.MGT_CHAIN_ADDR != 0 then
    let held := s.mgt.alerts
    let above := held.length ≥ 16
    let a : Alert := { seq, cls, block, bit }
    let s := { s with mgt := { s.mgt with
      alerts := (if above then held.drop 1 else held) ++ [a]
      chainOut := s.mgt.chainOut ++ [.alert a] } }
    let s := count s bankMgt 5
    if above then irqUpdate (setFld s Fld.MGT_ERR_ALERT_UNACKED 1) else s
  else s

/-- A class 6 error stands, and command processing stops (R497). -/
def stopFatal (s : State) : State :=
  { s with ras := { s.ras with fatal := true }, cp := { s.cp with cores := { s.cp.cores with stopped := true } } }

/-- An error of a block: its ERR bit is set, the log takes it unless it is a class 1 error with LOG_CORRECTED clear,
classes 5 and 6 are reported on the chain, and the error interrupt follows (R498, R500). -/
def raiseErr (s : State) (f : FieldRef) (idx : Nat) (cls : ErrClass) (i : ErrInfo := {}) : State :=
  let s := setFld s f 1 idx
  let s :=
    if cls = .corrected && !flag s Fld.RAS_CTL_LOG_CORRECTED then s
    else
      let seq := s.ras.logHead
      let s := logEntry s (blockOf f.reg.base) f.lo cls i
      if cls = .degraded || cls = .fatal then alert s seq cls.code (blockOf f.reg.base) f.lo else s
  irqUpdate (if cls = .fatal then stopFatal s else s)

/-- An error that no ERR bit reports: a corrected one, which the log takes only while LOG_CORRECTED is 1, or a retry (R498, R501). Its
entry's BIT is 0, as R499 has it for a routing engine (DESIGN CHOICE elsewhere). -/
def noteErr (s : State) (block : Nat) (cls : ErrClass) (i : ErrInfo := {}) : State :=
  if cls = .corrected && !flag s Fld.RAS_CTL_LOG_CORRECTED then s else irqUpdate (logEntry s block 0 cls i)

/-- An ERR bit that reports an event outside the classes of R497 (a refused write, a throttle): the bit and the
interrupt, and no log entry. -/
def setErr (s : State) (f : FieldRef) (idx : Nat := 0) (func : Nat := 0) : State :=
  irqUpdate (setFld s f 1 idx func)

/-- The reasons for which the module runs degraded (R502), as DEG_REASON's bits from bit 5 on. -/
def degReason (s : State) : Nat :=
  b2n (!s.cp.cores.standby) + 2 * b2n s.cp.journal.singleCopy + 4 * b2n (s.wsp.failed != []) +
  8 * b2n (s.ntl.chFailed != []) +
  16 * b2n (s.ras.l2p.length < (if s.fuses.grade = 2 then 128 else 144)) + 32 * b2n s.ras.storeBad

/-- The module runs degraded (R502). -/
def isDegraded (s : State) : Bool := degReason s != 0

/-- Logical tiles of the grade (R6). -/
def enabledTiles (s : State) : Nat := if s.fuses.grade = 2 then 128 else 144

/-! ## Free values -/

/-- The next free value of the state, and the state that has drawn it. -/
def drawFree (s : State) : Nat × State := (s.free, { s with free := s.free + 1 })

end Sys2Proof.Machine
end

