-- ==== Sys2Proof/Machine/Trigger.lean ====
section
/-!
DEFINITION. The Runner's triggered operations (R108, R126): a slice's table of 8,192 entries and 4,096 counters, which a
step or collective fills, in parts where it does not fit, and whose entries fire as events are counted.
-/
namespace Sys2Proof.Machine

/-- The key of what a counter of a command counts. -/
def trigKey (seq key : Nat) : Nat := seq * 2 ^ 20 + key

/-- The lowest number that a table does not hold, from `k` on. -/
def gapFrom {α : Type} (k : Nat) : Table α → Nat
  | [] => k
  | (j, _) :: t => if j = k then gapFrom (k + 1) t else k

/-- An operation takes the lowest free entry, and its counter the lowest free number where it has none yet. -/
def TrigSlice.placeOne (x : TrigSlice) (o : TrigOp) : Option TrigSlice :=
  let known := x.counters.any fun e => e.2 = (o.seq, o.key)
  let i := gapFrom 0 x.entries
  let c := gapFrom 0 x.counters
  if 8192 ≤ i || (!known && 4096 ≤ c) then none
  else some { x with entries := insertK i o x.entries
                     counters := if known then x.counters else insertK c (o.seq, o.key) x.counters }

/-- Operations are placed in order while they fit; the rest waits (R126). -/
def TrigSlice.place : List TrigOp → TrigSlice → TrigSlice
  | [], x => x
  | o :: t, x => match x.placeOne o with
    | some y => TrigSlice.place t y
    | none => { x with waiting := x.waiting ++ o :: t }

/-- Entries and counters that hold `p`'s operations no more: a counter goes with its last entry. -/
def TrigSlice.without (x : TrigSlice) (p : TrigOp → Bool) : TrigSlice :=
  let es := x.entries.filter fun e => !p e.2
  { x with entries := es, counters := x.counters.filter fun c => es.any fun e => (e.2.seq, e.2.key) = c.2 }

/-- An operation whose counter has reached its threshold (R126). -/
def TrigSlice.due (x : TrigSlice) (o : TrigOp) : Bool := o.threshold ≤ lookupD 0 (trigKey o.seq o.key) x.counts

/-- Due entries fire and free their places, waiting operations take them, and so on; with the number fired. -/
def TrigSlice.settle : Nat → TrigSlice → TrigSlice × Nat
  | 0, x => (x, 0)
  | n + 1, x =>
    let x := TrigSlice.place x.waiting { x with waiting := [] }
    let fired := (x.entries.filter fun e => x.due e.2).length
    if fired = 0 then (x, 0)
    else
      let r := TrigSlice.settle n (x.without x.due)
      (r.1, fired + r.2)

/-- A slice's operations settle; each one that fires is counted (R126, R152). -/
def settleTrig (s : State) (slice : Nat) (x : TrigSlice) : State :=
  let (x, n) := x.settle (x.waiting.length + 2)
  let s := { s with xch := { s.xch with trig := if x = {} then eraseK slice s.xch.trig else insertK slice x s.xch.trig } }
  if n = 0 then s else count s (bankRun slice) 16 n

/-- A slice takes the operations of a step or collective; what does not fit is issued later, in parts (R126). -/
def issueTrig (s : State) (slice : Nat) (ops : List TrigOp) : State :=
  if ops.isEmpty then s
  else
    let x := lookupD {} slice s.xch.trig
    settleTrig s slice { x with waiting := x.waiting ++ ops }

/-- Operations of a command wait for places in a slice's table (R126). -/
def trigWaits (s : State) (slice seq : Nat) : Bool := (lookupD {} slice s.xch.trig).waiting.any fun o => o.seq = seq

/-- `n` events are counted by a counter of a slice (R126). -/
def bumpTrig (s : State) (slice seq key : Nat) (n : Nat := 1) : State :=
  let x := lookupD {} slice s.xch.trig
  if x.entries.isEmpty && x.waiting.isEmpty then s
  else
    let k := trigKey seq key
    settleTrig s slice { x with counts := insertK k (lookupD 0 k x.counts + n) x.counts }

/-- A command's operations leave a slice, with what it had counted. -/
def TrigSlice.drop (x : TrigSlice) (seq : Nat) : TrigSlice :=
  let y := x.without fun o => o.seq = seq
  { y with waiting := y.waiting.filter fun o => o.seq ≠ seq, counts := y.counts.filter fun e => e.1 / 2 ^ 20 ≠ seq }

/-- A command's operations leave every slice. -/
def dropTrig (s : State) (seq : Nat) : State :=
  s.xch.trig.foldl (fun s e => settleTrig s e.1 (e.2.drop seq)) s

/-- The operations on one of a command's counters are issued afresh, the counter from zero (R507). -/
def renewTrig (s : State) (slice seq key : Nat) (ops : List TrigOp) : State :=
  let x := lookupD {} slice s.xch.trig
  let mine := fun (o : TrigOp) => o.seq = seq && o.key = key
  let y := x.without mine
  settleTrig s slice { y with waiting := y.waiting.filter (fun o => !mine o) ++ ops, counts := eraseK (trigKey seq key) y.counts }

/-- An operation that a slice issues and that fires at once. -/
def fireTrig (s : State) (slice seq action operand : Nat) : State :=
  issueTrig s slice [{ seq, key := 2 ^ 20 - 1, action, threshold := 0, operand }]

/-- The next entry on the counter of entry `i`, 0x3FFF for none (R126). -/
def TrigSlice.next (x : TrigSlice) (i : Nat) (o : TrigOp) : Nat :=
  match x.entries.find? fun e => i < e.1 && (e.2.seq, e.2.key) = (o.seq, o.key) with
  | some e => e.1
  | none => 0x3FFF

/-- The 16 bytes of entry `i` as two 64-bit words; an unused entry reads zero (R126, R151). -/
def TrigSlice.words (x : TrigSlice) (i : Nat) : Nat × Nat :=
  match lookup i x.entries with
  | none => (0, 0)
  | some o =>
    let c := ((x.counters.find? fun e => e.2 = (o.seq, o.key)).map Prod.fst).getD 0
    (c + o.action * 2 ^ 12 + x.next i o * 2 ^ 16 + o.threshold % 2 ^ 32 * 2 ^ 32, o.operand % 2 ^ 64)

end Sys2Proof.Machine
end

