-- ==== Sys2Proof/Machine/Crc.lean ====
section
/-!
DEFINITION. The cyclic redundancy checks the spec names: CRC-64 ECMA-182 reflected (R491) and CRC-32C.
-/
namespace Sys2Proof.Machine

/-- Eight shifts of a reflected CRC register. -/
def crcShift (poly : Nat) : Nat → Nat → Nat
  | 0, c => c
  | n + 1, c => crcShift poly n (if c % 2 = 1 then (c >>> 1) ^^^ poly else c >>> 1)

/-- The register after the bytes. -/
def crcFold (poly : Nat) : Nat → List Byte → Nat
  | c, [] => c
  | c, b :: bs => crcFold poly (crcShift poly 8 (c ^^^ b.toNat)) bs

/-- CRC-64 with polynomial 0x42F0_E1EB_A9EA_3693 reflected, initial value and final XOR all ones (R491). -/
def crc64 (bs : List Byte) : Nat := crcFold 0xC96C5795D7870F42 (2 ^ 64 - 1) bs ^^^ (2 ^ 64 - 1)

/-- CRC-32C (Castagnoli), reflected, initial value and final XOR all ones. -/
def crc32c (bs : List Byte) : Nat := crcFold 0x82F63B78 (2 ^ 32 - 1) bs ^^^ (2 ^ 32 - 1)

end Sys2Proof.Machine
end

