-- ==== Sys2Proof/Machine/PacketCheck.lean ====
section
/-!
DEFINITION. The command packet: its fields (R258), the opcodes and their parameters (R292, R296 and the parameter
tables of "Command reference"), and the checks before acceptance in their order (R259–R263).
-/
namespace Sys2Proof.Machine

/-! ## Status codes (R14, R297) -/
def stOk : Nat := 0x0000
def stNoopZero : Nat := 0x0001
def stBadOpcode : Nat := 0x0010
def stBadVersion : Nat := 0x0011
def stBadParam : Nat := 0x0012
def stNoFit : Nat := 0x0020
def stEngineAbsent : Nat := 0x0021
def stPoolEmpty : Nat := 0x0030
def stOverQuota : Nat := 0x0031
def stCollMismatch : Nat := 0x0040
def stGroupReformed : Nat := 0x0041
def stStaleGeneration : Nat := 0x0042
def stDestFenced : Nat := 0x0050
def stNotConfirmed : Nat := 0x0051
def stUncorrectable : Nat := 0x0060
def stExpertUnavailable : Nat := 0x0061
def stContextFault : Nat := 0x0070
def stPreempted : Nat := 0x0071
def stBankActive : Nat := 0x0080
def stDegraded : Nat := 0x00F0

/-! ## Header fields (R258) -/
def pMajor (p : Packet) : Nat := pktBits p 0 0 8
def pMinor (p : Packet) : Nat := pktBits p 1 0 8
def pOpcode (p : Packet) : Nat := pktBits p 2 0 8
def pFence (p : Packet) : Bool := pktBits p 3 0 1 == 1
def pIrq (p : Packet) : Bool := pktBits p 3 1 1 == 1
def pContext (p : Packet) : Nat := pktBits p 4 0 18
def pStream (p : Packet) : Nat := pktBits p 4 18 6
def pClass (p : Packet) : Nat := pktBits p 4 24 2
def pHostTag (p : Packet) : Nat := pktBits p 8 0 64
def pMsc (p : Packet) : Nat := pktBits p 16 0 64
/-- The context and the stream that a CANCEL names. -/
def cancelCtx (p : Packet) : Nat := pktBits p 24 0 18
def cancelStream (p : Packet) : Nat := pktBits p 24 18 6
/-- The minor version a packet is read under (R260). -/
def pEffMinor (p : Packet) : Nat := min (pMinor p) 3

/-- What a zero means in a parameter (R292): N no-op, R refused, V an ordinary value. -/
inductive ZeroRule where
  | n | r | v
  deriving DecidableEq, Repr

/-- One parameter of an opcode: its byte offset, bits, zero rule and range (R292). -/
structure Param where
  byte : Nat
  lo : Nat := 0
  len : Nat
  zero : ZeroRule := .v
  min : Nat := 0
  max : Nat := 2 ^ 64
  unit : Nat := 1
  deriving DecidableEq, Repr

/-- The header fields an opcode uses (R296). -/
inductive HeaderUse where
  | none | c | cs
  deriving DecidableEq, Repr

/-- When an opcode's command can be killed (R274, R296). -/
inductive Killable where
  | never | beforeCommit | untilCount | untilPacket | untilRemoteWrite
  deriving DecidableEq, Repr

/-- One row of the opcode table (R296). -/
structure OpInfo where
  code : Nat
  header : HeaderUse := .none
  msc : Bool := false
  pfOnly : Bool := false
  kill : Killable := .beforeCommit
  params : List Param := []
  deriving DecidableEq, Repr

/-- A host address (R292): 8-byte aligned. -/
def hostAddr (b : Nat) : Param := { byte := b, len := 64, unit := 8 }
/-- A weight-space address (R292): 48 bits, 8-byte aligned. -/
def wspAddr (b : Nat) (unit : Nat := 8) : Param := { byte := b, len := 48, unit := unit }
/-- A byte length that is a multiple of 8. -/
def lenParam (b : Nat) : Param := { byte := b, len := 32, zero := .n, unit := 8 }
/-- A Hopper pool number, 1–1,023. -/
def poolParam (b : Nat) : Param := { byte := b, len := 10, zero := .r }
/-- A model ID, 1–65,535. -/
def modelParam (b : Nat) : Param := { byte := b, len := 16, zero := .r }
/-- The page range of PAGE_MAP, PAGE_UNMAP and MIGRATE. -/
def pageRange : List Param := [wspAddr 24 (2 ^ 21), { byte := 32, len := 27, zero := .n }]
/-- The placement fields of PAGE_MAP and MIGRATE. -/
def pagePlace : List Param :=
  [{ byte := 36, len := 2, max := 2 }, { byte := 36, lo := 2, len := 1 }, { byte := 36, lo := 3, len := 1 },
   { byte := 37, len := 5 }]
/-- The fields STEP and STEP_EMPTY share. -/
def stepShared : List Param :=
  [{ byte := 24, lo := 48, len := 10 }, { byte := 32, lo := 48, len := 16 }, { byte := 42, len := 16, zero := .r },
   { byte := 44, len := 16 }, { byte := 46, len := 16 }]

/-- The opcodes of administration, contexts, streams and pools. -/
def opTable0 : List OpInfo := [
  { code := 0x00, kill := .never },
  { code := 0x02, kill := .never, params := [
    { byte := 24, len := 64, unit := 4096 }, { byte := 32, len := 10, zero := .r }, { byte := 34, len := 10 },
    { byte := 36, len := 5, zero := .r, max := 16 }] },
  { code := 0x03, kill := .never, params := [{ byte := 32, len := 10, zero := .r }] },
  { code := 0x04, kill := .never, params := [
    { byte := 24, len := 64, unit := 4096 }, { byte := 32, len := 10, zero := .r },
    { byte := 36, len := 5, zero := .r, max := 16 }, { byte := 38, len := 11 }, { byte := 38, lo := 15, len := 1 },
    { byte := 40, len := 8 }, { byte := 42, len := 10 }] },
  { code := 0x05, kill := .never, params := [{ byte := 32, len := 10, zero := .r }] },
  { code := 0x08, kill := .never, params := [{ byte := 24, len := 18 }, { byte := 24, lo := 18, len := 6 }] },
  { code := 0x09, kill := .never, pfOnly := true },
  { code := 0x0A, kill := .never, pfOnly := true, params := [
    hostAddr 24, { byte := 32, len := 32 }, { byte := 36, len := 32, zero := .n }] },
  { code := 0x20, header := .c, params := [hostAddr 24] },
  { code := 0x21, header := .c },
  { code := 0x22, header := .cs, params := [
    { byte := 24, len := 16 }, { byte := 28, len := 14, zero := .n, max := 8192 },
    { byte := 30, len := 2, zero := .r, max := 2 }, poolParam 32, wspAddr 40] },
  { code := 0x23, header := .cs },
  { code := 0x28, params := [
    poolParam 24, { byte := 26, len := 2 }, { byte := 26, lo := 2, len := 1 },
    { byte := 28, len := 32, zero := .n, max := 2097152, unit := 4096 },
    { byte := 32, len := 32, zero := .n, max := 1048576 }] },
  { code := 0x29, header := .c, params := [poolParam 24, { byte := 28, len := 32 }, { byte := 32, len := 32 }] },
  { code := 0x2A, header := .c, params := [{ byte := 24, len := 64, zero := .r }] },
  { code := 0x2B, params := [poolParam 24] }]

/-- The opcodes of the weight space, programs and execution. -/
def opTable1 : List OpInfo := [
  { code := 0x40, params := pageRange ++ pagePlace },
  { code := 0x41, params := pageRange },
  { code := 0x42, params := [hostAddr 24, wspAddr 32, lenParam 40] },
  { code := 0x43, params := [hostAddr 24, wspAddr 32, lenParam 40] },
  { code := 0x44, params := pageRange ++ pagePlace },
  { code := 0x48, params := [
    modelParam 24, { byte := 26, len := 5, max := 16 }, hostAddr 32, { byte := 40, len := 32, zero := .n }] },
  { code := 0x49, params := [modelParam 24] },
  { code := 0x4C, params := [
    wspAddr 24, { byte := 24, lo := 48, len := 4, max := 5 }, { byte := 24, lo := 52, len := 1 }, wspAddr 32,
    { byte := 40, len := 20, zero := .n }, { byte := 44, len := 32, zero := .n }] },
  { code := 0x4D, params := [
    wspAddr 24, { byte := 24, lo := 48, len := 4, max := 5 }, { byte := 24, lo := 52, len := 1 }, wspAddr 32,
    { byte := 40, len := 20, zero := .n }, { byte := 44, len := 32, zero := .n }, wspAddr 48] },
  { code := 0x60, params := [
    hostAddr 24, { byte := 32, len := 32, zero := .n }, { byte := 36, len := 16, zero := .r }, modelParam 38,
    { byte := 40, len := 2, max := 2 }] },
  { code := 0x61, params := [{ byte := 36, len := 16, zero := .r }] },
  { code := 0x80, header := .cs, msc := true, kill := .untilCount, params := [
    wspAddr 24, wspAddr 32, { byte := 40, len := 15, zero := .n, max := 16384 }, wspAddr 48, wspAddr 56]
      ++ stepShared },
  { code := 0x81, header := .cs, msc := true, kill := .untilCount, params := stepShared },
  { code := 0x88, params := [
    modelParam 24, { byte := 26, len := 2, max := 2 }, hostAddr 32, { byte := 40, len := 32, zero := .n }] }]

/-- The opcodes of exchange, fabric, flask and diagnostics. -/
def opTable2 : List OpInfo := [
  { code := 0xA0, params := [hostAddr 24] },
  { code := 0xA1, params := [{ byte := 24, len := 16, zero := .r }, { byte := 26, len := 16 }] },
  { code := 0xA8, header := .c, kill := .untilPacket, params := [
    { byte := 24, len := 16, zero := .r }, { byte := 26, len := 8, zero := .r }, { byte := 27, len := 4 },
    { byte := 28, len := 8 }, poolParam 30, { byte := 32, len := 32 }, wspAddr 40, wspAddr 48] },
  { code := 0xC0, pfOnly := true, params := [{ byte := 24, len := 20 }, { byte := 28, len := 16 }] },
  { code := 0xC1, pfOnly := true },
  { code := 0xC2, pfOnly := true, params := [{ byte := 28, len := 16 }] },
  { code := 0xC3, pfOnly := true, params := [
    hostAddr 24, { byte := 32, len := 12, zero := .r, max := 2048 },
    { byte := 36, len := 32, zero := .r, min := 1000, max := 60000000 }] },
  { code := 0xC8, pfOnly := true, params := [{ byte := 24, len := 12 }, hostAddr 32] },
  { code := 0xC9, pfOnly := true, params := [{ byte := 24, len := 12 }] },
  { code := 0xCA, header := .c, kill := .untilRemoteWrite, params := [
    { byte := 24, len := 12 }, wspAddr 32, wspAddr 40, lenParam 48] },
  { code := 0xD0, pfOnly := true, params := [
    { byte := 24, len := 16, zero := .r }, { byte := 26, len := 4, zero := .r, max := 8 }, hostAddr 32,
    wspAddr 40 (2 ^ 36), { byte := 48, len := 32, zero := .r, min := 1000, max := 60000000 }] },
  { code := 0xD1, pfOnly := true },
  { code := 0xD4, header := .c, kill := .untilRemoteWrite, params := [
    { byte := 24, len := 20 }, wspAddr 32, wspAddr 40, lenParam 48] },
  { code := 0xD5, header := .c, params := [{ byte := 24, len := 20 }, wspAddr 32, wspAddr 40, lenParam 48] },
  { code := 0xD6, header := .c, kill := .untilRemoteWrite, params := [
    { byte := 24, len := 20 }, { byte := 28, len := 2 }, { byte := 28, lo := 2, len := 2 },
    { byte := 32, len := 48, unit := 4 }, { byte := 40, len := 64 }, { byte := 48, len := 64 }] },
  { code := 0xE0, pfOnly := true, params := [{ byte := 24, len := 8, max := 151 }] },
  { code := 0xE1, params := [modelParam 24, { byte := 26, len := 1 }, hostAddr 32] }]

/-- Every opcode the module assigns (R296). -/
def opTable : List OpInfo := opTable0 ++ opTable1 ++ opTable2

/-- The row of an opcode, if it is assigned. -/
def opInfo (code : Nat) : Option OpInfo := opTable.find? fun o => o.code == code

/-- Administration opcodes (R13). -/
def isAdmin (code : Nat) : Bool := code < 0x20

/-- The value of a parameter in a packet. -/
def Param.get (f : Param) (p : Packet) : Nat := pktBits p f.byte f.lo f.len

/-- The bits of bytes 24–63 that an opcode's table lists, as a mask over the packet (R292). -/
def OpInfo.cover (o : OpInfo) : Nat :=
  o.params.foldl (fun m f => m ||| ((2 ^ f.len - 1) <<< (8 * f.byte + f.lo))) 0

/-- The first byte from `k` on whose bits of `v` are not all zero. -/
def firstByte (v k : Nat) : Nat → Option Nat
  | 0 => none
  | n + 1 => if bitsOf v (8 * k) 8 != 0 then some k else firstByte v (k + 1) n

/-- The smallest of a list of offsets. -/
def leastOf : List Nat → Option Nat
  | [] => none
  | a :: t => match leastOf t with
    | none => some a
    | some b => some (min a b)

/-- The function's share of resources (R565). -/
def fnQueues (s : State) (f : Nat) : Nat := fld s Fld.HIF_FN_Q_QUEUES f

/-- The function exists (R562, R567). -/
def functionUp (s : State) (f : Nat) : Bool := f = 0 || (s.hif.vfEnable && f ≤ s.hif.numVfs)

/-- MSI-X vectors of a function (R562). -/
def fnVectors (f : Nat) : Nat := if f = 0 then 1024 else 32

/-- The function has its administration queues, SQ 0 and CQ 0 (R250, R565). -/
def hasQueue0 (s : State) (f : Nat) : Bool := functionUp s f && fnQueues s f ≠ 0
def fnCtxOwns (s : State) (f ctx : Nat) : Bool :=
  let b := fld s Fld.HIF_FN_CTX_CTX_BASE f
  b ≤ ctx && ctx < b + fld s Fld.HIF_FN_CTX_CTX_COUNT f
def fnPageOwns (s : State) (f page : Nat) : Bool :=
  let b := fld s Fld.HIF_FN_WSP_PAGE_BASE f
  b ≤ page && page < b + fld s Fld.HIF_FN_WSP_PAGE_COUNT f

/-- A byte of the weight space as its current copy holds it. -/
def descByte (s : State) (a : Nat) : Nat :=
  match lookup (a / 2 ^ 21) s.wsp.pages with
  | some d => (if d.tier = 0 then readByte a s.wsp.nand else readByte a s.wsp.dram).toNat
  | none => 0

/-- ADD_N of the layer that a STEP names, where a bank holds its image and the layer routes (R119, R129). -/
def stepAddN (s : State) (p : Packet) : Option Nat :=
  let id := pktBits p 42 0 16
  match s.tiles.findSome? fun e => (e.2.bank0.prog.toList ++ e.2.bank1.prog.toList).find? fun g => g.id = id && id != 0 with
  | none => none
  | some g => match g.bindings.find? fun b => b.layer = pktBits p 24 48 10 with
    | none => none
    | some b => if b.routeDesc = 0 then none else some (bitsOf (descByte s (b.xchgDesc + 6)) 4 2)

/-- The collective operation codes of R133. -/
def opAllToAll : Nat := 1
def opAllToAllV : Nat := 2
def opBarrier : Nat := 4
def opGather : Nat := 5
def opGatherSum : Nat := 6
/-- The operation codes COLLECTIVE accepts (R133; 0x03 is refused there). -/
def collOpKnown (o : Nat) : Bool := [1, 2, 4, 5, 6].contains o
/-- The element formats of each operation (R133). -/
def collFmtOk (o fmt : Nat) : Bool := if o = opGatherSum then [6, 7, 10].contains fmt else fmt ≤ 9
/-- A write-out control byte without a reserved FMT or MODE (R36, R59); EXACT ignores MODE. -/
def wocOk (b : Nat) : Bool := bitsOf b 0 4 ≤ 10 && (bitsOf b 0 4 == 10 || bitsOf b 4 3 ≤ 4)

/-- The parameters that a command's other fields, or its layer, leave unused (R293): their byte offsets. -/
def unusedParams (s : State) (op : Nat) (p : Packet) : List Nat :=
  if op = 0x22 && pktBits p 24 0 16 = 0 then [28, 30, 32, 40]
  else if op = 0x80 then
    (match stepAddN s p with
     | some n => (if n < 1 then [48] else []) ++ (if n < 2 then [56] else [])
     | none => [48, 56])
  else if op = 0xA8 then
    let o := pktBits p 26 0 8
    (if o = opBarrier then [27, 30, 40] else []) ++ (if o ≠ opGatherSum then [28] else []) ++
      (if o ≠ opAllToAllV then [48] else [])
  else if op = 0xD6 && pktBits p 28 0 2 ≠ 3 then [48]
  else []

/-- The checks of step 3 that concern more than one field, or the issuing function: offsets at fault. -/
def extraFaults (s : State) (func op : Nat) (p : Packet) : List Nat :=
  if op = 0x02 || op = 0x03 || op = 0x04 || op = 0x05 then
    (if pktBits p 32 0 10 ≥ fnQueues s func then [32] else []) ++
      (if op = 0x04 && pktBits p 38 15 1 = 1 && fnVectors func ≤ pktBits p 38 0 11 then [38] else [])
  else if op = 0x20 then (if fnCtxOwns s func (pContext p) then [] else [4])
  else if op = 0x40 || op = 0x41 || op = 0x44 then
    let va := pktBits p 24 0 48
    let n := pktBits p 32 0 27
    let st := pktBits p 37 0 5
    (if va + 2 ^ 21 * n > 2 ^ 48 then [32] else []) ++
      (if op ≠ 0x41 && 24 ≤ st && st ≤ 30 then [37] else [])
  else if op = 0xA8 then
    let o := pktBits p 26 0 8
    let fmt := pktBits p 27 0 4
    let cnt := pktBits p 32 0 32
    (if collOpKnown o then [] else [26]) ++
      (if o ≠ opBarrier && !collFmtOk o fmt then [27] else []) ++
      (if o = opGatherSum && !wocOk (pktBits p 28 0 8) then [28] else []) ++
      (if o = opBarrier then (if cnt ≠ 0 then [32] else [])
       else if fmt < 6 && cnt % 256 ≠ 0 then [32] else [])
  else if op = 0xD6 then
    (if pktBits p 28 2 2 < 2 && pktBits p 32 0 48 % 8 ≠ 0 then [32] else [])
  else []

/-- What the checks say of a packet: pass, or a status and the detail of its refusal (R261). -/
def checkPacket (s : State) (func sq : Nat) (p : Packet) : Option (Nat × Nat) :=
  if pMajor p ≠ 1 then some (stBadVersion, 0x0103)
  else match opInfo (pOpcode p) with
    | none => some (stBadOpcode, 2)
    | some o =>
      if (o.pfOnly && func ≠ 0) || (isAdmin o.code && sq ≠ 0) then some (stBadOpcode, 2)
      else
        let skip := unusedParams s o.code p
        let live := o.params.filter fun f => !skip.contains f.byte || (o.code = 0x80 && f.byte = 24)
        let hdrMask := match o.header with
          | .none => 2 ^ 32 - 1
          | .c => 2 ^ 32 - 1 - (2 ^ 18 - 1) - 3 * 2 ^ 24
          | .cs => 63 * 2 ^ 26
        let faults :=
          (if pktBits p 3 2 6 ≠ 0 || (pEffMinor p < 1 && pFence p) then [3] else []) ++
          (if pktBits p 4 0 32 &&& hdrMask ≠ 0 then [4] else []) ++
          (if !o.msc && pMsc p ≠ 0 then [16] else []) ++
          ((firstByte ((p.toNat >>> 192 <<< 192) - ((p.toNat >>> 192 <<< 192) &&& o.cover)) 24 40).toList) ++
          ((live.filter fun f =>
              let v := f.get p
              if v = 0 then f.zero = .r || (f.zero = .v && f.min > 0)
              else v < f.min || v > f.max || v % f.unit ≠ 0).map Param.byte) ++
          extraFaults s func o.code p
        match leastOf faults with
        | some b => some (stBadParam, b)
        | none =>
          if o.code = 0xE0 && s.fuses.dark.contains (pktBits p 24 0 8) then some (stEngineAbsent, 24)
          else match leastOf ((live.filter fun f => f.zero = .n && f.get p = 0).map Param.byte) with
            | some b => some (stNoopZero, b)
            | none => none

end Sys2Proof.Machine
end

