-- ==== Sys2Proof/Machine/Numerics.lean ====
section
/-!
DEFINITION. Number formats, exact accumulation and the rounding point (R36–R64): element decoding, the wide
accumulator, write-out under a control byte, MX blocks, packed 2:4 blocks and rows.
-/
namespace Sys2Proof.Machine

/-! ## Values -/

/-- An exact value: NaN, an infinity, or ±(m × 2^u), plus less than one unit more where `sticky` (a root or a
quotient cut short, used only on the way to a write-out); with no units, `sticky` marks −0 as a function's value. -/
inductive Val where
  | nan
  | inf (neg : Bool)
  | num (neg : Bool) (m : Nat) (u : Int) (sticky : Bool)
  deriving DecidableEq, Repr

/-- +0. -/
def Val.zero : Val := .num false 0 0 false

/-- The value −0 of an element function, which a write-out keeps: R64 makes +0 of an exact zero alone (R65, R599). -/
def Val.negZero : Val := .num true 0 0 true

/-- The exact value `n × 2^u`. -/
def Val.ofInt (n : Int) (u : Int) : Val := .num (n < 0) n.natAbs u false

/-- A value that is neither NaN nor infinite. -/
def Val.finite : Val → Bool
  | .num _ _ _ _ => true
  | _ => false

/-- The value is zero, of either sign. -/
def Val.isZero : Val → Bool
  | .num _ m _ _ => m == 0
  | _ => false

/-- `m × 2^k` for a shift `k` that is not negative. -/
def shl (m : Nat) (k : Int) : Nat := m <<< k.toNat

/-- The signed integer of a finite value in units of 2^w, where `w` is at most its own unit. -/
def Val.inUnits (w : Int) : Val → Int
  | .num neg m u _ => if neg then - (shl m (u - w) : Int) else (shl m (u - w) : Int)
  | _ => 0

/-- Negation. -/
def Val.neg : Val → Val
  | .nan => .nan
  | .inf s => .inf (!s)
  | .num s m u t => .num (!s) m u t

/-- Magnitude. -/
def Val.abs : Val → Val
  | .nan => .nan
  | .inf _ => .inf false
  | .num _ m u t => .num false m u t

/-- Exact product; infinity times zero is NaN (R55). -/
def Val.mul : Val → Val → Val
  | .num s m u _, .num t n v _ => .num (s != t) (m * n) (u + v) false
  | .nan, _ => .nan
  | _, .nan => .nan
  | .inf s, .inf t => .inf (s != t)
  | .inf s, .num t n _ _ => if n = 0 then .nan else .inf (s != t)
  | .num t n _ _, .inf s => if n = 0 then .nan else .inf (s != t)

/-- Exact sum; opposite infinities give NaN (R55). -/
def Val.add : Val → Val → Val
  | .num s m u a, .num t n v b =>
    let w := min u v
    .ofInt ((Val.num s m u a).inUnits w + (Val.num t n v b).inUnits w) w
  | .nan, _ => .nan
  | _, .nan => .nan
  | .inf s, .inf t => if s = t then .inf s else .nan
  | .inf s, .num _ _ _ _ => .inf s
  | .num _ _ _ _, .inf s => .inf s

/-- `a < b` among values that are not NaN, with −0 below +0 (R177). -/
def Val.lt : Val → Val → Bool
  | .nan, _ => false
  | _, .nan => false
  | .inf s, .inf t => s && !t
  | .inf s, .num _ _ _ _ => s
  | .num _ _ _ _, .inf t => !t
  | .num s m u a, .num t n v b =>
    if m = 0 && n = 0 then s && !t
    else
      let w := min u v
      (Val.num s m u a).inUnits w < (Val.num t n v b).inUnits w

/-- `a < b` as numbers, −0 and +0 alike. -/
def Val.ltNum (a b : Val) : Bool := a.lt b && !(a.isZero && b.isZero)

/-- Equality of values that are not NaN, −0 and +0 apart (R177). -/
def Val.eqv (a b : Val) : Bool := a != .nan && b != .nan && !a.lt b && !b.lt a

/-- Is the value at or below zero? -/
def Val.leZero : Val → Bool
  | .nan => false
  | .inf s => s
  | .num s m _ _ => s || m == 0

/-! ## Element formats (R36, R37) -/

def fmtE2M1 : Nat := 0
def fmtE2M3 : Nat := 1
def fmtE3M2 : Nat := 2
def fmtE4M3 : Nat := 3
def fmtE5M2 : Nat := 4
def fmtMxInt8 : Nat := 5
def fmtBf16 : Nat := 6
def fmtFp32 : Nat := 7
def fmtInt8 : Nat := 8
def fmtInt32 : Nat := 9
def fmtExact : Nat := 10

/-- A format with block scales. -/
def isMx (fmt : Nat) : Bool := fmt < 6

/-- Bits per element; an EXACT record has 768. -/
def elemBits (fmt : Nat) : Nat := [4, 6, 6, 8, 8, 8, 16, 32, 8, 32, 768].getD fmt 8
/-- Bytes per element of a format without block scales. -/
def elemBytes (fmt : Nat) : Nat := elemBits fmt / 8
/-- Exponent bits, fraction bits and bias of a floating-point format. -/
def floatParams (fmt : Nat) : Nat × Nat × Int :=
  match fmt with
  | 0 => (2, 1, 1) | 1 => (2, 3, 1) | 2 => (3, 2, 3) | 3 => (4, 3, 7) | 4 => (5, 2, 15) | 6 => (8, 7, 127)
  | _ => (8, 23, 127)

/-- The value of an element of a floating-point format (R36, R38, R39). -/
def decodeFloat (fmt bits : Nat) : Val :=
  let (eb, fb, bias) := floatParams fmt
  let f := bits % 2 ^ fb
  let e := bits / 2 ^ fb % 2 ^ eb
  let s := bits / 2 ^ (eb + fb) % 2 == 1
  let special := e = 2 ^ eb - 1
  if (fmt = 3 && special && f = 7) || (fmt ≠ 3 && fmt ≥ 4 && special && f ≠ 0) then .nan
  else if fmt ≠ 3 && fmt ≥ 4 && special then .inf s
  else if e = 0 then .num s f (1 - bias - fb) false
  else .num s (2 ^ fb + f) (e - bias - fb) false

/-- The element value of any format but EXACT, before a block scale. -/
def decodeElem (fmt bits : Nat) : Val :=
  if fmt = fmtMxInt8 then .ofInt (signedOf 8 bits) (-6)
  else if fmt = fmtInt8 then .ofInt (signedOf 8 bits) 0
  else if fmt = fmtInt32 then .ofInt (signedOf 32 bits) 0
  else decodeFloat fmt bits

/-- The value under a scale byte (R37, R39). -/
def scaled (scale : Nat) (v : Val) : Val :=
  if scale = 255 then .nan
  else match v with
    | .num s m u t => .num s m (u + scale - 127) t
    | x => x

/-! ## Exact accumulators (R53–R56) -/

/-- A wide exact accumulator: its integer in units of 2^-300, three flags and the addend count. -/
structure Acc where
  value : Int := 0
  nan : Bool := false
  pinf : Bool := false
  ninf : Bool := false
  count : Nat := 0
  deriving DecidableEq, Repr

/-- A finite value's integer in units of 2^-300 where an accumulator holds it exactly. -/
def Val.wide : Val → Option Int
  | .num s m u sticky =>
    let low := (-300 - u).toNat
    let n := if -300 ≤ u then shl m (u + 300) else m >>> low
    if (sticky && m ≠ 0) || (u < -300 && m % 2 ^ low ≠ 0) || 2 ^ 639 ≤ n then none
    else some (if s then -(n : Int) else n)
  | _ => none

/-- A value as an accumulator takes it: one that no accumulator holds, such as a quotient cut short
or a product of two EXACT elements below its lowest bit, is an open value (R52, R53, R56, R65). -/
def exactVal (v : Val) : Val :=
  match v with
  | .num s m u _ => match v.wide with
    | some n => .ofInt n (-300)
    | none => decodeFloat fmtFp32 (Config.elemOpen 7 (if s then -(m : Int) else m) u.natAbs).toNat
  | v => v

/-- An addend's value and flags; the count is kept apart. -/
def Acc.addVal (a : Acc) (v : Val) : Acc :=
  match exactVal v with
  | .nan => { a with nan := true }
  | .inf s => if s then { a with ninf := true } else { a with pinf := true }
  | w => { a with value := a.value + w.inUnits (-300) }

/-- One addend (R54). -/
def Acc.addend (a : Acc) (v : Val) : Acc := let b := a.addVal v; { b with count := b.count + 1 }

/-- The merge of two accumulators (R54, R55). -/
def Acc.merge (a b : Acc) : Acc :=
  { value := a.value + b.value, nan := a.nan || b.nan, pinf := a.pinf || b.pinf, ninf := a.ninf || b.ninf,
    count := a.count + b.count }

/-- An accumulator of the negated addends. -/
def Acc.neg (a : Acc) : Acc := { a with value := -a.value, pinf := a.ninf, ninf := a.pinf }

/-- The exact result of an accumulator (R55). -/
def Acc.val (a : Acc) : Val :=
  if a.nan || (a.pinf && a.ninf) then .nan
  else if a.pinf then .inf false
  else if a.ninf then .inf true
  else .ofInt a.value (-300)

/-- An EXACT record's 96 bytes (R56). -/
def Acc.bytes (a : Acc) : List Byte :=
  leBytes 80 (BitVec.ofInt 640 a.value).toNat ++ leBytes 4 (b2n a.nan + 2 * b2n a.pinf + 4 * b2n a.ninf) ++
    leBytes 4 a.count ++ leBytes 8 0

/-- The accumulator an EXACT record holds; reserved bits are ignored (R56). -/
def Acc.ofBytes (bs : List Byte) : Acc :=
  let f := fieldOf bs 80 0 3
  { value := signedOf 640 (leNat (bs.take 80)), nan := bitOf f 0, pinf := bitOf f 1, ninf := bitOf f 2,
    count := fieldOf bs 84 0 32 }

/-! ## Rounding (R58–R64) -/

/-- Rounding modes of a write-out control byte (R59). -/
def wocFmt (w : Nat) : Nat := bitsOf w 0 4
def wocMode (w : Nat) : Nat := bitsOf w 4 3
def wocInf (w : Nat) : Bool := bitOf w 7

/-- A magnitude rounded to a multiple of 2^lsb: the multiple (R60, R61). `draw` is the 24-bit draw of SR. -/
def roundMag (mode : Nat) (neg : Bool) (draw : Nat) (lsb : Int) (m : Nat) (u : Int) (sticky : Bool) : Nat :=
  if lsb ≤ u then shl m (u - lsb)
  else
    let sh := (lsb - u).toNat
    let q := m >>> sh
    let r := m % 2 ^ sh
    let inexact := r ≠ 0 || sticky
    let half := 2 ^ (sh - 1)
    let up :=
      match mode with
      | 0 => r > half || (r = half && (sticky || q % 2 = 1))
      | 1 => false
      | 2 => inexact && !neg
      | 3 => inexact && neg
      | _ => (r <<< 24 >>> sh) + draw ≥ 2 ^ 24
    q + b2n up

/-- Floor of log2 of a magnitude that is not zero. -/
def floorLog2 (m : Nat) (u : Int) : Int := u + Nat.log2 m

/-- The bits of a floating-point format for the rounded magnitude `q × 2^lsb`, which the format holds. -/
def packFloat (fmt : Nat) (neg : Bool) (q : Nat) (lsb : Int) : Nat :=
  let (eb, fb, bias) := floatParams fmt
  let s := if neg then 2 ^ (eb + fb) else 0
  if q = 0 then s
  else
    let e := floorLog2 q lsb
    let emin := 1 - bias
    if e < emin then s + (if lsb ≤ emin - fb then q / 2 ^ (emin - fb - lsb).toNat else shl q (lsb - (emin - fb)))
    else
      let k := e - fb
      let sig := if lsb ≤ k then q / 2 ^ (k - lsb).toNat else shl q (lsb - k)
      s + (e + bias).toNat * 2 ^ fb + (sig - 2 ^ fb)

/-- The unit a magnitude is rounded to in a floating-point format. -/
def lsbFor (fmt : Nat) (m : Nat) (u : Int) : Int :=
  let (_, fb, bias) := floatParams fmt
  max (floorLog2 m u - fb) (1 - bias - fb)

/-- Largest finite magnitude of a floating-point format, as (m, u). -/
def maxFinite (fmt : Nat) : Nat × Int :=
  match fmt with
  | 0 => (3, 1) | 1 => (15, -1) | 2 => (7, 2) | 3 => (7, 6) | 4 => (7, 13) | 6 => (255, 120) | _ => (2 ^ 24 - 1, 104)

/-- `q × 2^lsb > m × 2^u`. -/
def magGt (q : Nat) (lsb : Int) (m : Nat) (u : Int) : Bool :=
  let w := min lsb u
  shl q (lsb - w) > shl m (u - w)

/-- The bits of ±the largest finite value. -/
def maxBits (fmt : Nat) (neg : Bool) : Nat := packFloat fmt neg (maxFinite fmt).1 (maxFinite fmt).2

/-- The bits of an infinity of BF16, FP32 or E5M2. -/
def infBits (fmt : Nat) (neg : Bool) : Nat :=
  let (eb, fb, _) := floatParams fmt
  (if neg then 2 ^ (eb + fb) else 0) + (2 ^ eb - 1) * 2 ^ fb

/-- BF16 or FP32 bits of a value under a control byte (R60, R63, R64). -/
def encodeFloat (fmt woc draw : Nat) : Val → Nat
  | .nan => if fmt = fmtBf16 then 0x7FC0 else 0x7FC00000
  | .inf s => infBits fmt s
  | .num s m u sticky =>
    if m = 0 then (if s && sticky then 2 ^ (elemBits fmt - 1) else 0)
    else
      let lsb := lsbFor fmt m u
      let mode := wocMode woc
      let q := roundMag mode s draw lsb m u sticky
      let (mm, mu) := maxFinite fmt
      if magGt q lsb mm mu then
        let toMax := !wocInf woc || mode = 1 || (mode = 2 && s) || (mode = 3 && !s)
        if toMax then maxBits fmt s else infBits fmt s
      else packFloat fmt s q lsb

/-- INT8 or INT32 bits of a value (R60, R63). -/
def encodeInt (fmt woc draw : Nat) (v : Val) : Nat :=
  let w := elemBits fmt
  let hi := 2 ^ (w - 1) - 1
  match v with
  | .nan => 0
  | .inf s => if s then hi + 1 else hi
  | .num s m u sticky =>
    let q := if m = 0 then 0 else roundMag (wocMode woc) s draw 0 m u sticky
    if s then (2 ^ w - min q (hi + 1)) % 2 ^ w else min q hi

/-- The bits of an element of BF16, FP32, INT8 or INT32. -/
def encodeElem (woc draw : Nat) (v : Val) : Nat :=
  let fmt := wocFmt woc
  if fmt = fmtBf16 || fmt = fmtFp32 then encodeFloat fmt woc draw v else encodeInt fmt woc draw v

/-! ## MX blocks (R62, R63) -/

/-- emax of R62. -/
def mxEmax (fmt : Nat) : Int :=
  match fmt with
  | 0 => 2 | 1 => 2 | 2 => 4 | 3 => 8 | 4 => 15 | _ => 0

/-- Is the magnitude of `a` larger than that of `b`? Both finite. -/
def magLt (a b : Nat × Int) : Bool := magGt b.1 b.2 a.1 a.2

/-- The largest finite magnitude of a block (R62 step 1). -/
def blockAmax (vs : List Val) : Nat × Int :=
  vs.foldl (fun acc v => match v with
    | .num _ m u _ => if magGt m u acc.1 acc.2 then (m, u) else acc
    | _ => acc) (0, 0)

/-- The element bits of a value after scaling, in a block whose X and overflow mark are fixed (R62 steps 4 and 5,
R63); `none` makes the whole block NaN. -/
def mxElem (fmt woc draw : Nat) (x : Int) (above : Bool) (v : Val) : Option Nat :=
  let small := fmt = 0 || fmt = 1 || fmt = 2 || fmt = 5
  match v with
  | .nan => if small then none else some (if fmt = 3 then 0x7F else 0x7E)
  | .inf s =>
    if fmt = 4 then some (infBits 4 s)
    else if fmt = 3 then some (if wocInf woc then 0x7F else maxBits 3 s)
    else if wocInf woc then none
    else if fmt = 5 then some (if s then 256 - 127 else 127)
    else some (maxBits fmt s)
  | .num s m u sticky =>
    if m = 0 then some (if s && sticky && fmt ≠ 5 then 2 ^ (elemBits fmt - 1) else 0)
    else
      let u := u - x
      if fmt = 5 then
        let q := roundMag (wocMode woc) s draw (-6) m u sticky
        if q > 127 && above && wocInf woc then none
        else
          let q := min q 127
          some (if s then (256 - q) % 256 else q)
      else
        let lsb := lsbFor fmt m u
        let q := roundMag (wocMode woc) s draw lsb m u sticky
        let (mm, mu) := maxFinite fmt
        if magGt q lsb mm mu then
          if above && wocInf woc then
            (if fmt = 4 then some (infBits 4 s) else if fmt = 3 then some 0x7F else none)
          else some (maxBits fmt s)
        else some (packFloat fmt s q lsb)

/-- All of a list, where every one is present. -/
def allSome {α : Type} : List (Option α) → Option (List α)
  | [] => some []
  | none :: _ => none
  | some a :: t => (allSome t).map fun r => a :: r

/-- The X of a block of real elements, and whether it overflows (R62 steps 1 to 3, R63). -/
def mxShared (fmt : Nat) (vs : List Val) : Int × Bool :=
  let (am, au) := blockAmax vs
  let x0 : Int := if am = 0 then 0 else floorLog2 am au - mxEmax fmt
  let small := fmt = 0 || fmt = 1 || fmt = 2 || fmt = 5
  let hasInf := small && vs.any fun v => match v with | .inf _ => true | _ => false
  let above := x0 > 127 || hasInf
  (if above then 127 else if x0 < -127 then -127 else x0, above)

/-- One MX block of up to 32 real elements, each with its SR draw: the scale byte and the element bits (R62). -/
def mxBlock (woc : Nat) (vs : List (Val × Nat)) : Nat × List Nat :=
  let (x, above) := mxShared (wocFmt woc) (vs.map Prod.fst)
  match allSome (vs.map fun v => mxElem (wocFmt woc) woc v.2 x above v.1) with
  | some es => ((x + 127).toNat, es)
  | none => (255, vs.map fun _ => 0)

/-- A list in pieces of `n`. -/
def chunksOf {α : Type} (n : Nat) (l : List α) : Nat → List (List α)
  | 0 => []
  | k + 1 => if l.isEmpty then [] else l.take n :: chunksOf n (l.drop n) k

/-- Bytes of a number list at `w` bits each, little-endian. -/
def packBits (w : Nat) (l : List Nat) : Nat := l.foldr (fun e acc => e % 2 ^ w + acc * 2 ^ w) 0

/-- Bytes of one dense MX segment (R40). -/
def segBytes (fmt : Nat) : Nat := 32 * elemBits fmt + 8
/-- Bytes of one packed 2:4 block (R42). -/
def packedBytes (fmt : Nat) : Nat := 16 * elemBits fmt + 40

/-- One dense MX segment with up to 256 real elements; the rest is padding, written as +0 (R40, R41). -/
def mxSegment (woc : Nat) (vs : List (Val × Nat)) : List Byte :=
  let fmt := wocFmt woc
  let blocks := (chunksOf 32 vs 8).map (mxBlock woc)
  let blocks := blocks ++ List.replicate (8 - blocks.length) (127, [])
  let pad := fun (es : List Nat) => es ++ List.replicate (32 - es.length) 0
  leBytes (32 * elemBits fmt) (packBits (elemBits fmt) (blocks.flatMap fun b => pad b.2)) ++
    blocks.map fun b => BitVec.ofNat 8 b.1

/-- The 256 values of a dense MX segment, of which the first `real` are real and the others +0 (R40, R41). -/
def readSegment (fmt real : Nat) (bs : List Byte) : List Val :=
  let w := elemBits fmt
  let v := leNat (bs.take (32 * w))
  (upFrom 0 256).map fun j =>
    if j < real then
      scaled ((bs.getD (32 * w + j / 32) 0).toNat) (decodeElem fmt (bitsOf v (w * j) w))
    else Val.zero

/-- A nibble of packed metadata is well formed (R43). -/
def nibbleOk (n : Nat) : Bool := n % 4 < n / 4 % 4

/-- The 256 logical values of a packed 2:4 block with `real` logical positions below K; `none` where a group that
holds a real position has a malformed nibble (R42–R45). -/
def readPacked (fmt real : Nat) (bs : List Byte) : Option (List Val) :=
  let w := elemBits fmt
  let kept := leNat (bs.take (16 * w))
  let nib := fun g => bitsOf (bs.getD (16 * w + g / 2) 0).toNat (4 * (g % 2)) 4
  if (upFrom 0 64).any fun g => 4 * g < real && !nibbleOk (nib g) then none
  else some ((upFrom 0 256).map fun j =>
    if real ≤ j then Val.zero
    else
      let g := j / 4
      let i := j % 4
      let n := nib g
      let scale := (bs.getD (16 * w + 32 + j / 32) 0).toNat
      if i = n % 4 then scaled scale (decodeElem fmt (bitsOf kept (w * (2 * g)) w))
      else if i = n / 4 % 4 then scaled scale (decodeElem fmt (bitsOf kept (w * (2 * g + 1)) w))
      else if scale = 255 then .nan else Val.zero)

/-! ## Rows (R598) -/

/-- Bytes of a row of `h` elements: MX rows in whole segments, others rounded up to a multiple of 8. -/
def rowBytes (fmt h : Nat) : Nat :=
  if isMx fmt then ceilDiv h 256 * segBytes fmt else ceilDiv (h * elemBytes fmt) 8 * 8

/-- The values of a row of `h` elements in any format; an EXACT record reads as its exact value. -/
def readRow (fmt h : Nat) (bs : List Byte) : List Val :=
  if isMx fmt then
    ((upFrom 0 (ceilDiv h 256)).flatMap fun i =>
      readSegment fmt (h - 256 * i) ((bs.drop (i * segBytes fmt)).take (segBytes fmt))).take h
  else
    (upFrom 0 h).map fun i =>
      let e := (bs.drop (i * elemBytes fmt)).take (elemBytes fmt)
      if fmt = fmtExact then (Acc.ofBytes e).val else decodeElem fmt (leNat e)

/-- The bytes of a row under a write-out control byte, with the draw of each element (R58, R598). A value written in
EXACT is one addend's accumulator. -/
def writeRow (woc : Nat) (vs : List (Val × Nat)) : List Byte :=
  let fmt := wocFmt woc
  if isMx fmt then (chunksOf 256 vs vs.length).flatMap (mxSegment woc)
  else
    let body := vs.flatMap fun v =>
      if fmt = fmtExact then (Acc.addend {} v.1).bytes else leBytes (elemBytes fmt) (encodeElem woc v.2 v.1)
    body ++ List.replicate (rowBytes fmt vs.length - body.length) 0

/-! ## Counter-based draws (R481, R482) -/

/-- One round of Philox4x32-10. -/
def philoxRound (k : Nat × Nat) (c : Nat × Nat × Nat × Nat) : Nat × Nat × Nat × Nat :=
  let p0 := 0xD2511F53 * c.1
  let p1 := 0xCD9E8D57 * c.2.2.1
  ((p1 / 2 ^ 32) ^^^ c.2.1 ^^^ k.1, p1 % 2 ^ 32, (p0 / 2 ^ 32) ^^^ c.2.2.2 ^^^ k.2, p0 % 2 ^ 32)

/-- `n` rounds, the key stepping between them. -/
def philoxRounds (k : Nat × Nat) (c : Nat × Nat × Nat × Nat) : Nat → Nat × Nat × Nat × Nat
  | 0 => c
  | n + 1 => philoxRounds ((k.1 + 0x9E3779B9) % 2 ^ 32, (k.2 + 0xBB67AE85) % 2 ^ 32) (philoxRound k c) n

/-- The 24-bit draw u of a seed and the four counter words (R481). -/
def draw (seed c0 c1 c2 c3 : Nat) : Nat :=
  (philoxRounds (seed % 2 ^ 32, seed / 2 ^ 32 % 2 ^ 32) (c0 % 2 ^ 32, c1 % 2 ^ 32, c2 % 2 ^ 32, c3 % 2 ^ 32) 10).1 / 2 ^ 8

/-- The draw of a tile or Runner write-out (R482, purpose 0). -/
def drawWrite (seed tensor layer msc idx : Nat) : Nat :=
  draw seed (idx % 2 ^ 32) (tensor % 2 ^ 20 + layer % 2 ^ 10 * 2 ^ 20) (msc % 2 ^ 32) (msc / 2 ^ 32)

/-- The draw of routing jitter (R482, purpose 1). -/
def drawJitter (seed token expert layer msc : Nat) : Nat :=
  draw seed token (expert % 2 ^ 20 + layer % 2 ^ 10 * 2 ^ 20 + 2 ^ 30) (msc % 2 ^ 32) (msc / 2 ^ 32)

/-- The draw of a collective's write-out (R482, purpose 2). -/
def drawColl (seed idx collSeq group : Nat) : Nat := draw seed idx (2 * 2 ^ 30) collSeq (group % 2 ^ 16)

end Sys2Proof.Machine
end

