-- ==== Sys2Proof/Machine/Perturb.lean ====
section
/-!
DEFINITION. The perturbation unit's injectors: events at a point, the patterns that fire, and the holds in progress
(R591–R594). A delay changes only when later rows of the table come, so it is held and nothing waits for it here.
-/
namespace Sys2Proof.Machine

/-- The targets of R591 whose SUB field names a part of the unit. -/
def targetHasSub (target : Nat) : Bool := target = 1 || target = 5 || target = 8

/-- The domain that a point lies in (R522, R591). -/
def pointDomain (target unit : Nat) : Nat :=
  if target = 1 || target = 2 then 16 + unit / 8
  else if target = 3 then 15
  else if target = 4 then 12 + unit / 2
  else if target = 5 || target = 6 then 14
  else if target = 7 || target = 12 then 7 + unit
  else if target = 8 || target = 9 then 3 + unit / 5
  else if target = 10 then 7 + unit / 6
  else if target = 11 then 11
  else if target = 13 || target = 14 then 1
  else if target = 15 then 3
  else 0

/-- Injector `i` watches a point: enabled, with this TARGET, UNIT and SUB (R591). -/
def watches (s : State) (i target unit sub : Nat) : Bool :=
  flag s Fld.PRT_INJ_CFG_EN i && fld s Fld.PRT_INJ_CFG_TARGET i = target && fld s Fld.PRT_INJ_CFG_UNIT i = unit &&
    (!targetHasSub target || fld s Fld.PRT_INJ_CFG_SUB i = sub)

/-- Does injector `i` fire on event `k` (R592)? None fires while PRT_CTL.ENABLE is 0 (R596). -/
def firesOn (s : State) (i k : Nat) : Bool :=
  let limit := fld s Fld.PRT_INJ_LIMIT_LIMIT i
  let offset := fld s Fld.PRT_INJ_LIMIT_OFFSET i
  let c1 := i + fld s Fld.PRT_INJ_CFG_TARGET i * 2 ^ 4 + fld s Fld.PRT_INJ_CFG_UNIT i * 2 ^ 12 +
    fld s Fld.PRT_INJ_CFG_SUB i * 2 ^ 20 + 3 * 2 ^ 30
  flag s Fld.PRT_CTL_ENABLE && (limit = 0 || fld s Fld.PRT_INJ_FIRED_FIRED i < limit) && offset ≤ k &&
    (if flag s Fld.PRT_INJ_CFG_PATTERN i then
      draw (raw s Reg.PRT_INJ_SEED i) (k % 2 ^ 32) c1 (k / 2 ^ 32) 0 < fld s Fld.PRT_INJ_PAT_PROB i
    else (k - offset) % max 1 (fld s Fld.PRT_INJ_PAT_PERIOD i) = 0)

/-- The hold that a firing of injector `i` starts. -/
def holdOf (s : State) (i : Nat) : Hold :=
  { inj := i, action := fld s Fld.PRT_INJ_CFG_ACTION i, target := fld s Fld.PRT_INJ_CFG_TARGET i
    unit := fld s Fld.PRT_INJ_CFG_UNIT i, sub := fld s Fld.PRT_INJ_CFG_SUB i, freq := fld s Fld.PRT_INJ_CFG_FREQ_MHZ i }

/-- One event at a point that injector `i` watches: whether it fires, and the state after (R592, R597). -/
def injectorEvent (s : State) (i : Nat) : Bool × State :=
  let k := fld s Fld.PRT_INJ_EVENTS_EVENTS i
  let fires := firesOn s i k
  let s := bumpFld s Fld.PRT_INJ_EVENTS_EVENTS 1 i
  if !fires then (false, s)
  else
    let s := count (bumpFld s Fld.PRT_INJ_FIRED_FIRED 1 i) bankPrt i
    let h := holdOf s i
    let holds := if h.action = 2 then s.prt.holds else s.prt.holds.filter (fun x => x.inj ≠ i) ++ [h]
    (true, { s with prt := { s.prt with holds }, pmc := { s.pmc with prtActive := true } })

/-- One event at a point: whether some injector with action RETRY fires on it, and the state after (R591, R593). -/
def inject (s : State) (target unit : Nat) (sub : Nat := 0) : Bool × State :=
  if !bitOf (fld s Fld.PWR_DOMAINS_ON) (pointDomain target unit) && pointDomain target unit ≠ 0 then (false, s)
  else
    ((upFrom 0 16).filter fun i => watches s i target unit sub).foldl (fun (a : Bool × State) i =>
      let (f, s) := injectorEvent a.2 i
      (a.1 || (f && fld s Fld.PRT_INJ_CFG_ACTION i = 2), s)) (false, s)

/-- The state after one event at a point whose action changes nothing there. -/
def injectAt (s : State) (target unit : Nat) (sub : Nat := 0) : State := (inject s target unit sub).2

/-- Some injector is enabled. -/
def anyInjector (s : State) : Bool := (upFrom 0 16).any fun i => flag s Fld.PRT_INJ_CFG_EN i

/-- `n` events at a point, one after another: how many are retried, and the state after. -/
def injectEach (target unit : Nat) : Nat → State → Nat × State
  | 0, s => (0, s)
  | n + 1, s =>
    let (r, s) := inject s target unit
    let (m, s) := injectEach target unit n s
    (b2n r + m, s)

/-- `n` events at a point, which nothing sees where no injector is enabled. -/
def injectMany (target unit n : Nat) (s : State) : Nat × State :=
  if anyInjector s then injectEach target unit n s else (0, s)

/-- A back-pressure window is open at a point (R593). -/
def pointHeld (s : State) (target unit sub : Nat) : Bool :=
  s.prt.holds.any fun h => h.action = 1 && h.target = target && h.unit = unit && (!targetHasSub target || h.sub = sub)

/-- The injected cap of the core clock in MHz: the lowest of those in progress (R593). -/
def injectedCap (s : State) : Nat := ((s.prt.holds.filter fun h => h.action = 3).map Hold.freq).foldl min 1800

/-- The core clock is the lower of the power manager's clock and the injected cap (R593). -/
def showMhz (s : State) : State :=
  let m := min s.pwr.mhz (injectedCap s)
  setFld (setFld s Fld.PWR_STATUS_CORE_MHZ m) Fld.CLK_CORE_MHZ m

/-- The power manager's clock becomes `m` MHz (R537). -/
def setMhz (s : State) (m : Nat) : State := showMhz { s with pwr := { s.pwr with mhz := m } }

/-- Every hold ends (R595). -/
def dropHolds (s : State) : State :=
  let capped := s.prt.holds.any fun h => h.action = 3
  let s := { s with prt := {} }
  if capped then showMhz s else s

/-- INJECT_HOLD_END (R591): the hold that injector `injector` started ends. -/
def execInjectHoldEnd (injector : Nat) (s : State) : Out :=
  let s := { s with prt := { s.prt with holds := s.prt.holds.filter fun h => h.inj ≠ injector } }
  .next (showMhz s)

end Sys2Proof.Machine
end

