-- ==== Sys2Proof/Machine/Protocol.lean ====
section
/-!
DEFINITION. The command protocol: journal entries (R275–R281), reservations and replies (R255–R257, R264–R268),
command order (R269), completion, and kill (R274).
-/
namespace Sys2Proof.Machine

/-- The key of queue `q` of function `f`. -/
def qKey (f q : Nat) : Nat := f * 1024 + q

def State.cmd (s : State) (seq : Nat) : Option OpenCmd := lookup seq s.cp.cmds

/-- SQ 0 of a function as its registers define it, empty (R250, R289). -/
def sq0 (s : State) (f : Nat) : Sq :=
  { base := fld s Fld.CP_ASQ_BASE 0 f * 4096, depthLog2 := fld s Fld.CP_AQ_CFG_ASQ_LOG2 0 f }

/-- The fields of CQ 0 that come from CP_AQ_CFG. -/
def cq0Vector (s : State) (f : Nat) : Option Nat :=
  if flag s Fld.CP_AQ_CFG_ACQ_IRQ_EN 0 f then some (fld s Fld.CP_AQ_CFG_ACQ_VECTOR 0 f) else none

/-- CQ 0 of a function as its registers define it, empty (R250, R289). -/
def cq0 (s : State) (f : Nat) : Cq :=
  { base := fld s Fld.CP_ACQ_BASE 0 f * 4096, depthLog2 := fld s Fld.CP_AQ_CFG_ACQ_LOG2 0 f, vector := cq0Vector s f }

/-- An SQ of a function; SQ 0 stands without being created, and is as its registers define it until something befalls it (R250). -/
def State.sq (s : State) (f q : Nat) : Option Sq :=
  match lookup (qKey f q) s.cp.sqs with
  | some x => some x
  | none => if q = 0 && hasQueue0 s f then some (sq0 s f) else none
/-- A CQ of a function; CQ 0 stands without being created (R250). -/
def State.cq (s : State) (f q : Nat) : Option Cq :=
  match lookup (qKey f q) s.cp.cqs with
  | some x => some x
  | none => if q = 0 && hasQueue0 s f then some (cq0 s f) else none
def State.setCmd (s : State) (seq : Nat) (c : OpenCmd) : State :=
  { s with cp := { s.cp with cmds := insertK seq c s.cp.cmds } }
def State.modCmd (s : State) (seq : Nat) (f : OpenCmd → OpenCmd) : State :=
  { s with cp := { s.cp with cmds := modifyK seq f s.cp.cmds } }
def State.setSq (s : State) (f q : Nat) (x : Sq) : State :=
  { s with cp := { s.cp with sqs := insertK (qKey f q) x s.cp.sqs } }
def State.setCq (s : State) (f q : Nat) (x : Cq) : State :=
  { s with cp := { s.cp with cqs := insertK (qKey f q) x s.cp.cqs } }

/-! ## The journal -/

/-- Slots of the journal ring (R275). -/
def jrnSlots (s : State) : Nat := 2 ^ fld s Fld.JRN_BASE_SIZE / 128

/-- Lowest SEQ still in the ring (R290). -/
def jrnOldest (j : Journal) : Nat :=
  match j.ring with
  | [] => j.oldest
  | e :: _ => e.seq

/-- Slots that hold consumed entries or none (R281). -/
def jrnFreeSlots (s : State) : Nat :=
  let ack := fld s Fld.JRN_ACK_ACK
  jrnSlots s - (s.cp.journal.ring.filter fun e => ack < e.seq).length

/-- SQ reading is stopped for want of journal space (R281). -/
def jrnStalled (s : State) : Bool := flag s Fld.JRN_CTL_STALL_ON_FULL && jrnFreeSlots s < 4096

/-- The state with one more journal entry; it takes the next SEQ and the next ring slot, and the oldest entry goes
when the ring is full (R276, R279, R281). -/
def journal (s : State) (e : JEntry) : State :=
  let j := s.cp.journal
  let n := jrnSlots s
  let e := { e with seq := j.head, epoch := j.epoch, time := s.ticks }
  let full := j.ring.length ≥ n
  let lostIt := full && flag s Fld.JRN_CTL_STALL_ON_FULL &&
    (match j.ring with | [] => false | o :: _ => fld s Fld.JRN_ACK_ACK < o.seq)
  let ring := (if full then j.ring.drop 1 else j.ring) ++ [e]
  let s := { s with cp := { s.cp with journal := { j with
    ring, head := j.head + 1, pos := (j.pos + 1) % n, oldest := jrnOldest { j with ring },
    notDurable := j.notDurable ++ [e.seq] } } }
  let s := count s bankCp 8
  if lostIt then raiseErr s Fld.JRN_ERR_LOST 0 .recovered else s

/-- The SQ of the ACCEPT and REFUSE entries that `p` picks is no more, or starts again: no head moves past them (R289, R298). -/
def detachEntries (s : State) (p : JEntry → Bool) : State :=
  let ring := s.cp.journal.ring.map fun e => if (e.kind = 1 || e.kind = 2) && p e then { e with gone := true } else e
  { s with cp := { s.cp with journal := { s.cp.journal with ring } } }

/-- An SQ ends or starts again: its entries are detached, and the packet read from it and not yet accepted or refused waits on its own
(R279, R289, R298). -/
def detachSq (s : State) (f q : Nat) : State :=
  let s := detachEntries s fun e => e.func = f && e.queue = q
  match lookup (qKey f q) s.cp.sqs with
  | none => s
  | some x => match x.held with
    | none => s
    | some (pkt, slot) => { s with cp := { s.cp with orphans := s.cp.orphans ++ [{ func := f, queue := q, slot, cq := x.cq, pkt }] } }

/-- The first eight bytes of an event's BODY (R278). -/
def eventHead (ctx stream layer : Nat) : Nat := ctx % 2 ^ 18 + stream % 64 * 2 ^ 18 + layer % 1024 * 2 ^ 32

/-- The state with one more EVENT entry (R276, R278); FUNC is the function of the open command it refers to. -/
def journalEvent (s : State) (code ref w0 w1 body : Nat) (msc : Nat := 0) : State :=
  let func := match s.cmd ref with | some c => c.func | none => 0
  journal s { kind := 4, code, func, ref, word0 := w0, word1 := w1, msc, body := BitVec.ofNat 512 body }

/-- An EVENT entry whose contents the spec names and gives no places for (R95, R97, R207). The model puts them as 64-bit values into
BODY after its first 8 bytes, in the order the rule names them (DESIGN CHOICE); WORD0 and WORD1, of which the spec says
nothing, are free values. -/
def openEvent (s : State) (code ref ctx stream layer msc : Nat) (vals : List Nat) : State :=
  let (d, s) := drawFree s
  let w := fun (i : Nat) => (Config.freeWord d i).toNat
  let rest := ((vals.zip (upFrom 1 vals.length)).map fun v => v.1 % 2 ^ 64 * 2 ^ (64 * v.2)).foldl (· + ·) 0
  journalEvent s code ref (w 0) (w 1) (eventHead ctx stream layer + rest) msc

/-- SEQ of the next journal entry (R290). -/
def nextSeq (s : State) : Nat := s.cp.journal.head

/-- An error of the control cores: its bit, its information and its class (R288, R289, R498). -/
def coreErr (s : State) (ref : FieldRef) (cls : ErrClass) (jrnSeq : Nat := 0) : State :=
  raiseErr (setRaw s Reg.CP_ERR_INFO 0 0 (ref.lo * 2 ^ 16)) ref 0 cls { jrnSeq }

/-! ## Completion queues -/

/-- The number that stands for a CQ that is no more: no queue has it. -/
def noCq : Nat := 2 ^ 16 - 1

/-- Entries a CQ can use (R251). -/
def Cq.usable (c : Cq) : Nat := 2 ^ c.depthLog2 - 1
/-- Replies posted or given a slot, and not released by the host (R264). -/
def Cq.occupied (c : Cq) : Nat := (c.alloc + 2 ^ c.depthLog2 - c.head) % 2 ^ c.depthLog2
/-- Entries that are neither reserved nor occupied (R264). -/
def Cq.freeEntries (c : Cq) : Nat := c.usable - c.occupied - c.reserved - c.groupReserved

/-- Bytes of a status reply (R266). -/
def replyBytes (tag seq : Nat) (r : Result) : List Byte :=
  leBytes 8 tag ++ leBytes 4 seq ++ leBytes 2 r.status ++ leBytes 2 r.detail ++ leBytes 8 r.word0 ++ leBytes 8 r.word1

/-- The vector fires (R256). -/
def fireVector (s : State) (f q : Nat) : State :=
  match s.cq f q with
  | none => s
  | some c =>
    match c.vector with
    | none => s.setCq f q { c with unsignalled := 0 }
    | some v => count (send (s.setCq f q { c with unsignalled := 0 }) (.msi f v)) bankCp 11

/-- One reply's bytes go to slot `slot` of a CQ, then the tail writeback, then the message if it is due (R256);
nothing is written to a stopped queue, and none of its replies counts for its vector (R257). On a CQ 0 that was started again the reply
waits for the writeback record that comes first (R289). -/
def postOne (s : State) (f q slot : Nat) (bytes : List Byte) (irq : Bool) : State :=
  match s.cq f q with
  | none => s
  | some c =>
    let depth := 2 ^ c.depthLog2
    let tail := (slot + 1) % depth
    let wrap := (c.wrap + b2n (tail = 0)) % 2 ^ 32
    if c.owesWriteback then s.setCq f q { c with notes := c.notes ++ [(slot, bytes, irq)] }
    else if c.stopped then s.setCq f q { c with tail, wrap }
    else
      let c := { c with tail, wrap, unsignalled := c.unsignalled + 1 }
      let s := s.setCq f q c
      let s := send s (.write f (c.base + 32 * slot) bytes)
      let s := send s (.write f (c.base + 32 * depth) (leBytes 4 tail ++ leBytes 4 wrap))
      if irq || c.aggCount = 0 || c.aggCount ≤ c.unsignalled then fireVector s f q else s

/-- Notes, and replies that wait, are posted where the tail has reached their slot (R268). -/
def flushNotes (s : State) (f q : Nat) : Nat → State
  | 0 => s
  | n + 1 =>
    match s.cq f q with
    | none => s
    | some c =>
      match c.notes.find? fun e => e.1 = c.tail with
      | none => s
      | some e =>
        if c.owesWriteback then s
        else flushNotes (postOne (s.setCq f q { c with notes := c.notes.erase e }) f q e.1 e.2.1 e.2.2) f q n

/-- A reply is posted, and after it the notes that waited behind it. -/
def postReply (s : State) (f q slot : Nat) (bytes : List Byte) (irq : Bool) : State :=
  let s := postOne s f q slot bytes irq
  match s.cq f q with
  | none => s
  | some c => flushNotes s f q c.notes.length

/-- An SQ's head moves past slot `slot`, and its writeback record follows (R252, R255). -/
def advanceSqHead (s : State) (f q slot : Nat) : State :=
  match s.sq f q with
  | none => s
  | some x =>
    let depth := 2 ^ x.depthLog2
    let head := (slot + 1) % depth
    let wrap := (x.wrap + b2n (head = 0)) % 2 ^ 32
    let s := s.setSq f q { x with head, wrap }
    send s (.write f (x.base + 64 * depth) (leBytes 4 head ++ leBytes 4 wrap))

/-! ## Results by minor version (R260) -/

/-- The result as a packet's minor version carries it: fields added later are zero. -/
def trimResult (minor op : Nat) (r : Result) : Result :=
  if minor < 2 && (op = 0x80 || op = 0x81) && (r.status = stOk || r.status = stDegraded) then
    { r with detail := r.detail % 8, word1 := 0 }
  else r

/-- ST_OK becomes ST_DEGRADED while the module runs degraded (R15). -/
def degradeResult (s : State) (r : Result) : Result :=
  if r.status = stOk && isDegraded s then { r with status := stDegraded } else r

/-- A result whose effects are all of the command's (R14). -/
def Result.good (r : Result) : Bool := r.status = stOk || r.status = stDegraded

/-- The key of the group that a COLLECTIVE names, under the current epoch (R442). -/
def collGroupKey (s : State) (p : Packet) : Nat := fld s Fld.XRT_EP_EPOCH * 65536 + pktBits p 24 0 16

/-- A reply entry of a group's reservation is taken: slot `slot` of its CQ (R113). -/
def takeGroupEntry (s : State) (f q slot key : Nat) : State :=
  let s := match s.cq f q with
    | none => s
    | some c => s.setCq f q { c with groupReserved := c.groupReserved - 1, groupSlots := c.groupSlots ++ [(slot, key)] }
  { s with xch := { s.xch with groups := modifyK key (fun g => { g with reserved := g.reserved - 1 }) s.xch.groups } }

/-- A command ends: its result is fixed and its COMPLETE entry written, with the slot its reply will take; nothing it
changes is visible before that entry is durable (R264, R270, R276). None ends once command processing has stopped (R288). -/
def completeCmd (s : State) (seq : Nat) (r : Result) : State :=
  match s.cmd seq with
  | none => s
  | some c =>
    if c.phase = .completing || s.cp.cores.stopped then s
    else
      let r := trimResult (pEffMinor c.pkt) (pOpcode c.pkt) (degradeResult s r)
      let slot := match s.cq c.func c.cq with
        | none => 0
        | some q => q.alloc
      let s := match s.cq c.func c.cq with
        | none => s
        | some q =>
          let q := { q with alloc := (q.alloc + 1) % 2 ^ q.depthLog2 }
          if c.groupReply then takeGroupEntry (s.setCq c.func c.cq q) c.func c.cq slot (collGroupKey s c.pkt)
          else s.setCq c.func c.cq { q with reserved := q.reserved - 1 }
      let reply := replyBytes (pHostTag c.pkt) seq r
      let e : JEntry := { kind := 3, code := pOpcode c.pkt, queue := c.cq, func := c.func, slot,
                          status := r.status, detail := r.detail, ref := seq, msc := pMsc c.pkt,
                          word0 := r.word0, word1 := r.word1, body := BitVec.ofNat 512 (leNat reply) }
      let s := journal s e
      s.setCmd seq { c with phase := .completing, result := r, replySlot := slot }

/-- A command completes with a bare status. -/
def completeWith (s : State) (seq status : Nat) (detail : Nat := 0) (w0 : Nat := 0) (w1 : Nat := 0) : State :=
  completeCmd s seq { status, detail, word0 := w0, word1 := w1 }

/-! ## Order (R269) -/

/-- The header fields an open command uses. -/
def headerOf (c : OpenCmd) : HeaderUse :=
  match opInfo (pOpcode c.pkt) with
  | some o => o.header
  | none => .none

/-- Must command `b` (sequence number `sb`) wait for the earlier command `a`? -/
def mustWaitFor (a b : OpenCmd) : Bool :=
  let sameCtx := pContext a.pkt == pContext b.pkt && headerOf a != .none && headerOf b != .none
  (sameCtx && headerOf a == .cs && headerOf b == .cs && pStream a.pkt == pStream b.pkt) ||
  (sameCtx && (headerOf a == .c || headerOf b == .c)) ||
  (isAdmin (pOpcode a.pkt) && isAdmin (pOpcode b.pkt)) ||
  (pFence b.pkt && a.func == b.func && a.sq == b.sq)

/-- R269 lets an open command take effect: every earlier command it is ordered behind has ended. -/
def mayStart (s : State) (seq : Nat) (c : OpenCmd) : Bool :=
  s.cp.cmds.all fun e => seq ≤ e.1 || !mustWaitFor e.2 c

/-- Is the packet a STEP or STEP_EMPTY? -/
def isStepOp (p : Packet) : Bool := pOpcode p = 0x80 || pOpcode p = 0x81

/-- Does an opcode carry a payload in host memory, and how long is it? (R265 and the parameter tables.) -/
def payloadSpec (p : Packet) : Option (Nat × Nat) :=
  let op := pOpcode p
  if op = 0x20 then some (pktBits p 24 0 64, 64)
  else if op = 0x42 then some (pktBits p 24 0 64, pktBits p 40 0 32)
  else if op = 0x48 then some (pktBits p 32 0 64, 32 * pktBits p 40 0 32)
  else if op = 0x60 then some (pktBits p 24 0 64, pktBits p 32 0 32)
  else if op = 0x88 then some (pktBits p 32 0 64, 4 * pktBits p 40 0 32)
  else if op = 0xA0 then some (pktBits p 24 0 64, 64)
  else if op = 0xC3 then some (pktBits p 24 0 64, 4 * pktBits p 32 0 12)
  else if op = 0xC8 then some (pktBits p 32 0 64, 64)
  else if op = 0xD0 then some (pktBits p 32 0 64, 4 * pktBits p 26 0 4)
  else none

/-- Bytes of the payload that is read for a packet: a multicast group entry's leaves follow its 64 bytes (R434). -/
def payloadLen (p : Packet) (len : Nat) (bytes : List Byte) : Nat :=
  if pOpcode p = 0xC8 then 64 + 4 * min 128 (fieldOf bytes 12 0 8) else len

/-- The context a command names exists for its function (R320). -/
def ctxFor (s : State) (func id : Nat) : Option Ctx :=
  match lookup id s.ctx.table with
  | some c => if c.func = func then some c else none
  | none => none

/-- Does the acceptance of an opcode end Smouldering (R527)? -/
def wakesModule (op : Nat) : Bool := op ≠ 0 && !(0x02 ≤ op && op ≤ 0x05)

/-- The module is Stoked (R525). -/
def stoked (s : State) : Bool := fld s Fld.PWR_STATUS_STATE = 1

/-- The command is open, holds opcode `op`, its ACCEPT entry is durable, its payload is read, it has not taken effect,
R269 lets it, command processing has not stopped (R288), and the module is Stoked where the command ended Smouldering (R527):
it is about to take effect. -/
def takesEffect (s : State) (seq op : Nat) : Option OpenCmd :=
  match s.cmd seq with
  | none => none
  | some c =>
    if pOpcode c.pkt = op && c.phase = .ready && (payloadSpec c.pkt).isSome = c.payload.isSome && mayStart s seq c &&
      !s.cp.cores.stopped && (stoked s || !wakesModule op)
    then some c else none

/-- A command that names a FAULTED context ends at once, but for CTX_DESTROY and BUF_FREE (R345). -/
def faultedCtx (s : State) (c : OpenCmd) : Bool :=
  let op := pOpcode c.pkt
  let named := if op = 0x08 then some (cancelCtx c.pkt)
    else if headerOf c != .none && op ≠ 0x21 && op ≠ 0x2A then some (pContext c.pkt) else none
  match named.bind (ctxFor s c.func) with
  | some x => x.faulted
  | none => false

/-- The outcome of a precondition list: the first that fails (R294). -/
structure PreFail where
  num : Nat
  status : Nat := stBadParam
  word0 : Nat := 0
  word1 : Nat := 0
  deriving DecidableEq, Repr

/-- The common frame of a command's row: where the command is not about to take effect, nothing happens; where its
context is FAULTED it ends with ST_CONTEXT_FAULT (R345); where a precondition fails it ends with that status and the
precondition's number in DETAIL (R294); else `run` gives its effect. -/
def runCmd (s : State) (seq op : Nat) (pre : OpenCmd → Option PreFail) (run : OpenCmd → State) : Out :=
  match takesEffect s seq op with
  | none => .next s
  | some c =>
    if faultedCtx s c then .next (completeWith s seq stContextFault)
    else match pre c with
      | some f => .next (completeWith s seq f.status f.num f.word0 f.word1)
      | none => .next (run c)

/-- The first failing precondition of a list of (fails, outcome). -/
def firstFail : List (Bool × PreFail) → Option PreFail
  | [] => none
  | (b, f) :: t => if b then some f else firstFail t

/-- The state with a command's work running. -/
def startWork (s : State) (seq : Nat) : State := s.modCmd seq fun c => { c with phase := .working }

/-- An event that changes only timing meets an open command (R267 bit 5, R477). -/
def timingEvent (s : State) (seq : Nat) : State := s.modCmd seq fun c => { c with timingEvent := true }

/-- An event that changes only timing meets every open step of the module (R477). -/
def timingOpen (s : State) : State :=
  { s with cp := { s.cp with cmds := s.cp.cmds.map fun (e : Nat × OpenCmd) =>
    if (pOpcode e.2.pkt = 0x80 || pOpcode e.2.pkt = 0x81) && e.2.phase ≠ .completing then (e.1, { e.2 with timingEvent := true })
    else e } }

end Sys2Proof.Machine
end

