-- ==== Sys2Proof/Machine/Recorder.lean ====
section
/-!
DEFINITION. The recorder: records written (R488–R491), comparison and divergence in replay (R493), and the commands
of its registers (R492, R495).
-/
namespace Sys2Proof.Machine

/-- Bytes `off` to `off + len - 1` of a record, as a part of its body (bytes 32–127, R490). -/
def recAt (off len v : Nat) : Nat := v % 2 ^ (8 * len) * 2 ^ (8 * (off - 32))

/-- The bytes `off` to `off + len - 1` of a record's body as a number. -/
def recGet (body off len : Nat) : Nat := bitsOf body (8 * (off - 32)) (8 * len)

/-- Records the ring can hold (R488). -/
def recSlots (s : State) : Nat := 2 ^ fld s Fld.DET_REC_CTL_LOG2

/-- The ring with one more record: it takes the next SEQ; a full ring wraps, or recording stops (R488). -/
def recAppend (s : State) (e : RecEntry) : State :=
  let d := s.det
  let full := d.ring.length ≥ recSlots s
  if full && !flag s Fld.DET_REC_CTL_WRAP then
    setErr { s with det := { d with state := 5 } } Fld.DET_ERR_FULL
  else
    let e := { e with seq := d.head, time := s.ticks }
    let s := { s with det := { d with
      ring := (if full then d.ring.drop 1 else d.ring) ++ [e], head := d.head + 1 } }
    count (count s bankDet 0) bankDet 1 (b2n full)

/-- Is recording on (R488)? -/
def recording (s : State) : Bool := s.det.state == 1
/-- Is a replay running (R492, R493)? -/
def replaying (s : State) : Bool := s.det.state == 2 || s.det.state == 3

/-- The body bytes that replay compares, for each kind (R490), as (offset, length, cause when they differ). -/
def recCompared (kind : Nat) : List (Nat × Nat × Nat) :=
  if kind = 3 then [(32, 4, 3), (36, 4, 3), (40, 2, 3), (42, 1, 3), (44, 2, 3), (48, 8, 1)]
  else if kind = 4 then [(32, 4, 3), (36, 4, 3), (40, 8, 1), (48, 8, 1)]
  else if kind = 5 then [(32, 2, 2), (34, 2, 2), (40, 8, 3), (48, 8, 3), (56, 8, 1)]
  else if kind = 6 then [(32, 2, 2), (34, 2, 3), (36, 4, 3), (40, 8, 1)]
  else []

/-- What of a field is compared: DETAIL bit 5 of a COMMIT record is not (R490). -/
def recField (kind off len body : Nat) : Nat :=
  let v := recGet body off len
  if kind = 5 && off = 34 then v - bitsOf v 5 1 * 32 else v

/-- What identifies a record in replay (R493). -/
structure RecKey where
  kind : Nat := 0
  ctx : Nat := 0
  stream : Nat := 0
  layer : Nat := 0
  msc : Nat := 0
  deriving DecidableEq, Repr

/-- A divergence: the first is latched in DET_DIVERGE and the registers after it, all are counted (R493). -/
def diverge (s : State) (seq cause : Nat) (k : RecKey) (exp got : Nat) : State :=
  let first := !s.det.latched
  let s := count { s with det := { s.det with
    divergences := satBits 32 (s.det.divergences + 1), state := 3, latched := true } } bankDet 4
  let s := setErr s Fld.DET_ERR_DIVERGED
  if first then
    let s := setRaw s Reg.DET_DIVERGE 0 0 seq
    let s := setRaw s Reg.DET_DIVERGE_INFO 0 0
      (k.kind + cause * 2 ^ 4 + k.ctx * 2 ^ 8 + k.stream * 2 ^ 26 + k.layer * 2 ^ 32)
    let s := setRaw s Reg.DET_DIVERGE_MSC 0 0 k.msc
    setRaw (setRaw s Reg.DET_DIVERGE_EXP 0 0 exp) Reg.DET_DIVERGE_GOT 0 0 got
  else s

/-- The 8-byte body word that holds offset `off`. -/
def recWord (body off : Nat) : Nat := recGet body (off - off % 8) 8

/-- A produced record against its recorded one: the first compared field that differs diverges (R493). -/
def recCompare (s : State) (k : RecKey) (old : RecEntry) (body : Nat) : State :=
  match (recCompared k.kind).find? fun f =>
      recField k.kind f.1 f.2.1 old.body != recField k.kind f.1 f.2.1 body with
  | none => s
  | some f => diverge s old.seq f.2.2 k (recWord old.body f.1) (recWord body f.1)

/-- Two COLL records also match by group and sequence number (R493). -/
def recSameColl (kind a b : Nat) : Bool :=
  kind ≠ 6 || (recGet a 34 2 == recGet b 34 2 && recGet a 36 4 == recGet b 36 4)

/-- A record the module produces: written while recording, matched and compared while replaying (R490, R493). -/
def recProduce (s : State) (k : RecKey) (body : Nat) : State :=
  if recording s then
    recAppend s { kind := k.kind, ctx := k.ctx, stream := k.stream, layer := k.layer, msc := k.msc, body }
  else if replaying s then
    match s.det.ring.find? fun e => e.kind = k.kind && e.ctx = k.ctx && e.stream = k.stream && e.layer = k.layer &&
        e.msc = k.msc && recSameColl k.kind e.body body && !s.det.matched.contains e.seq with
    | none => diverge s s.det.head 4 k 0 (recWord body 32)
    | some e =>
      recCompare (count { s with det := { s.det with matched := e.seq :: s.det.matched } } bankDet 3) k e body
  else s

/-- An EVENT record, where its code's bit of EVENT_MASK is set (R490). -/
def recEvent (s : State) (code unit seq arg : Nat) (k : RecKey := {}) : State :=
  if recording s && bitOf (fld s Fld.DET_REC_CTL_EVENT_MASK) code then
    count (recAppend s { kind := 7, ctx := k.ctx, stream := k.stream, layer := k.layer, msc := k.msc,
                         body := recAt 32 4 code + recAt 36 4 unit + recAt 40 8 seq + recAt 48 8 arg }) bankDet 5
  else s

/-- The key of an open command's records; LAYER is given where the command has one. -/
def recKeyOf (kind : Nat) (c : OpenCmd) : RecKey :=
  let op := pOpcode c.pkt
  { kind, ctx := pContext c.pkt, stream := pStream c.pkt, msc := pMsc c.pkt,
    layer := if op = 0x80 || op = 0x81 then pktBits c.pkt 24 48 10 else 0 }

/-- The CMD record of an accepted command (R490): written once, when its payload is at hand. In replay the payload
digest is compared with the record that was fed. -/
def recordCmd (s : State) (seq : Nat) : State :=
  match s.cmd seq with
  | none => s
  | some c =>
    let bs := c.payload.getD []
    let dig := if c.payload.isSome then crc64 bs else 0
    let k := recKeyOf 2 c
    if recording s then
      recAppend s { kind := 2, ctx := k.ctx, stream := k.stream, layer := k.layer, msc := k.msc,
                    body := c.pkt.toNat + recAt 96 8 dig + recAt 104 4 bs.length +
                      recAt 108 2 (c.sq + c.func * 2 ^ 10) + recAt 112 8 seq }
    else if replaying s then
      match lookup seq s.det.fed with
      | none => s
      | some r =>
        match s.det.ring.find? fun e => e.seq = r with
        | none => s
        | some e =>
          if recGet e.body 96 8 = dig then s
          else diverge s e.seq 6 k (recGet e.body 96 8) dig
    else s

/-- A command that ends before its payload was read has its CMD record all the same, without a payload digest (R490: once for each
command accepted; DESIGN CHOICE, since the digest is of bytes that nobody read). -/
def recordLate (s : State) (seq : Nat) (c : OpenCmd) : State :=
  if (payloadSpec c.pkt).isSome && c.payload.isNone then recordCmd s seq else s

/-- A recorded record that replay matches and that was never matched is a divergence (R493). -/
def leftover (s : State) (e : RecEntry) : State :=
  if 3 ≤ e.kind && e.kind ≤ 6 && !s.det.matched.contains e.seq then
    diverge s e.seq 5 { kind := e.kind, ctx := e.ctx, stream := e.stream, layer := e.layer, msc := e.msc } (recWord e.body 32) 0
  else s

/-- The replay ends once every CMD record has been fed and every command fed has ended (R493, R494). -/
def replayDone (s : State) : State :=
  if replaying s && !s.det.leftoverDone && s.det.fed.isEmpty && !(s.det.ring.any fun e => e.kind = 2 && s.det.feedAt ≤ e.seq) then
    let s := s.det.ring.foldl leftover { s with det := { s.det with leftoverDone := true } }
    if s.det.state = 2 then { s with det := { s.det with state := 4 } } else s
  else s

/-- A fed command, or the refusal of one, has ended. -/
def endFed (s : State) (seq : Nat) : State :=
  if hasK seq s.det.fed then replayDone { s with det := { s.det with fed := eraseK seq s.det.fed } } else s

/-- Draws made for write-out (purpose 0 and 2), counted in units of 4,096 (R496). -/
def countDraws (s : State) (n : Nat) : State :=
  let d := s.det.drawsSr + n
  count { s with det := { s.det with drawsSr := d % 4096 } } bankDet 6 (d / 4096)

/-- Draws made for routing jitter, counted in units of 4,096 (R496). -/
def countJitter (s : State) (n : Nat) : State :=
  let d := s.det.drawsJitter + n
  count { s with det := { s.det with drawsJitter := d % 4096 } } bankDet 7 (d / 4096)

end Sys2Proof.Machine
end

