-- ==== Sys2Proof/Machine/Hooks.lean ====
section
/-!
DEFINITION. What acceptance asks of other blocks: the collective limit of a group (R113, R114), the wake from
Smouldering (R527), the D3hot state of a function (R562); and the opening of a command (R264).
-/
namespace Sys2Proof.Machine

/-- A function is in D3hot and its SQs are not read (R562). -/
def inD3hot (s : State) (f : Nat) : Bool := s.hif.d3hot.contains f

/-- How a packet's reply entry is reserved. -/
inductive Admission where
  /-- Its own reservation on its CQ (R264). -/
  | own
  /-- A reservation its group made on the group's CQ (R113). -/
  | group (cq : Nat)
  /-- The group holds OUTSTANDING open collectives: it waits (R114). -/
  | wait
  deriving DecidableEq, Repr

/-- Reply entries that one collective of a group takes at this member (R113). -/
def Group.entriesEach (g : Group) : Nat := 1 + (if g.perMember && g.collector = g.rank then g.members.length else 0)

/-- The admission of a packet: a COLLECTIVE waits while its group holds OUTSTANDING open collectives, whichever function issued them;
one of the group's own function uses the group's reservations (R113, R114, R264). -/
def admitCollective (s : State) (f : Nat) (p : Packet) : Admission :=
  if pOpcode p ≠ 0xA8 then .own
  else match lookup (collGroupKey s p) s.xch.groups with
    | none => .own
    | some g =>
      let all := s.cp.cmds.filter fun e => pOpcode e.2.pkt = 0xA8 && e.2.phase ≠ .completing &&
        pktBits e.2.pkt 24 0 16 = pktBits p 24 0 16
      let mine := (all.filter fun e => e.2.groupReply).length
      if g.outstanding ≤ all.length then .wait
      else if g.func ≠ f then .own
      else if g.reserved < g.entriesEach * (mine + 1) then .wait else .group g.cq

/-- The number that a COLLECTIVE takes in its group when it is issued, that is accepted, and the groups after it (R114). -/
def takeCollNumber (s : State) (p : Packet) : Nat × State :=
  if pOpcode p ≠ 0xA8 then (0, s)
  else
    let key := collGroupKey s p
    match lookup key s.xch.groups with
    | none => (0, s)
    | some g => (g.seq, { s with xch := { s.xch with
        groups := insertK key { g with seq := (g.seq + 1) % 2 ^ 32 } s.xch.groups } })

/-- A trigger of R527 ends Smouldering: the exit starts, or entry stops and turns into the exit. -/
def wakeTrigger (s : State) : State :=
  let st := fld s Fld.PWR_STATUS_STATE
  if st = 2 || (st = 4 && s.pwr.target = 1) then
    { setFld s Fld.PWR_STATUS_STATE 5 with pwr := { s.pwr with target := 0, leaving := 2 } }
  else s

/-! ## The context cache (R319) -/

/-- An entry stays in the cache: its context has a resident stream or an open command (R319). -/
def ctxLocked (s : State) (id : Nat) : Bool :=
  s.ctx.slots.any (fun e => e.2 / 64 = id) || s.cp.cmds.any fun e => headerOf e.2 != .none && pContext e.2.pkt = id

/-- A context's entry comes into the cache of 8,192; one that is not locked makes room where it is full (R319). Which one is free: no
rule orders them. -/
def cacheContext (s : State) (id : Nat) : State :=
  let inCache := (s.ctx.table.filter fun e => e.2.cached).map Prod.fst
  let out := inCache.filter fun c => !ctxLocked s c
  let put := fun (s : State) (i : Nat) (v : Bool) =>
    { s with ctx := { s.ctx with table := modifyK i (fun c => { c with cached := v }) s.ctx.table } }
  if inCache.length < 8192 then put s id true
  else
    let (d, s) := drawFree s
    match out[Config.freeChoice d 0 % out.length]? with
    | some v => put (put s v false) id true
    | none => s

/-- A context's table entry is read into the cache for command `seq`. Whether the read meets an uncorrectable error, which faults the
context (R342), is a free value: no event of the table reports it. -/
def readEntry (s : State) (seq id : Nat) : State :=
  let (d, s) := drawFree (cacheContext (count s bankCtx 6) id)
  if Config.freeChoice d 0 % 2 = 0 then s
  else { s with ctx := { s.ctx with unread := s.ctx.unread ++ [(seq, id)] } }

/-- A command of a context is accepted: its entry is in the cache from then on, and a miss is counted (R319, R356). -/
def touchContext (s : State) (f seq : Nat) (p : Packet) : State :=
  if headerOf { pkt := p } = .none then s
  else match ctxFor s f (pContext p) with
    | none => s
    | some c => if c.cached then s else readEntry s seq (pContext p)

/-- A packet becomes an open command: it takes the next SEQ and its ACCEPT entry is written (R264, R279). -/
def openCommand (s : State) (f q slot cq : Nat) (p : Packet) (groupReply : Bool) : State :=
  let seq := nextSeq s
  let e : JEntry := { kind := 1, code := pOpcode p, queue := q, func := f, slot, msc := pMsc p, body := p }
  let s := count (journal s e) bankCp 1
  let (collNumber, s) := takeCollNumber (touchContext s f seq p) p
  let s := s.setCmd seq { pkt := p, func := f, sq := q, slot, cq, progress := s.ticks, groupReply, collNumber }
  let s := if (payloadSpec p).isSome then s else recordCmd s seq
  if wakesModule (pOpcode p) then wakeTrigger s else s

/-- Duty throttling holds the starts of MMA passes (R539). -/
def mmaHeld (s : State) : Bool := flag s Fld.PWR_STATUS_DUTY && s.pwr.dutyHold

end Sys2Proof.Machine
end

