-- ==== Sys2Proof/Machine/Hopper.lean ====
section
/-!
DEFINITION. The Hopper: allocation and freeing of buffers, link words and chain handles (R346–R354), and pool 0's
waiting allocations.
-/
namespace Sys2Proof.Machine

/-- Buffers of a pool that are neither held nor lost (R349). -/
def Pool.freeCount (p : Pool) : Nat := p.count - p.links.length - p.lost.length

/-- A context's figures in a pool; none set means minimum 0 and no quota (R349). -/
def Pool.quotaOf (p : Pool) (ctx : Nat) : Quota := lookupD {} ctx p.quotas

/-- The unmet reserves of every context but `ctx` (R349 step 3). -/
def Pool.unmetBut (p : Pool) (ctx : Nat) : Nat :=
  (p.quotas.map fun e => if e.1 = ctx then 0 else e.2.min - e.2.held).foldl (· + ·) 0

/-- The unmet reserves of all contexts (R357). -/
def Pool.unmet (p : Pool) : Nat := (p.quotas.map fun e => e.2.min - e.2.held).foldl (· + ·) 0

/-- Set a context's figures; an entry with no effect and no holding is not kept. -/
def Pool.setQuota (p : Pool) (ctx : Nat) (q : Quota) : Pool :=
  if q = {} then { p with quotas := eraseK ctx p.quotas } else { p with quotas := insertK ctx q p.quotas }

/-- Link words of a chain: each buffer's NEXT, and END on the last (R347). -/
def chainLinks : List Nat → Table (Nat × Bool) → Table (Nat × Bool)
  | [], t => t
  | [b], t => insertK b (0, true) t
  | b :: c :: rest, t => chainLinks (c :: rest) (insertK b (c, false) t)

/-- The buffers a free-list request of `n` takes, in order: the list's head first (R348). -/
def takeList (p : Pool) (n : Nat) : List Nat × Pool :=
  let a := p.freeList.take n
  let m := n - a.length
  (a ++ upFrom p.tailFrom m, { p with freeList := p.freeList.drop n, tailFrom := p.tailFrom + m })

/-- The buffers a ring request of `n` takes: HEAD on, modulo COUNT (R350). -/
def ringRun (p : Pool) (n : Nat) : List Nat := (upFrom p.head n).map (· % p.count)

/-- The link word of a buffer cannot be read (R351). -/
def Pool.badLink (p : Pool) (b : Nat) : Bool := p.badLinks.any fun d => d.1 ≤ b && b < d.1 + d.2

/-- Why a request failed, with the Hopper counter that counts it. -/
inductive AllocFail where
  | overQuota | poolEmpty | reserved | ringHeld
  deriving DecidableEq, Repr

/-- The status of a failed request (R349, R350). -/
def AllocFail.status : AllocFail → Nat
  | .overQuota => stOverQuota | .poolEmpty => stPoolEmpty | .reserved => stOverQuota | .ringHeld => stPoolEmpty

/-- The Hopper counters of a failed request (R358); a ring that meets a held buffer answers ST_POOL_EMPTY too. -/
def AllocFail.counters : AllocFail → List Nat
  | .overQuota => [3] | .poolEmpty => [2] | .reserved => [4] | .ringHeld => [2, 5]

/-- A request by context `ctx` for `n` buffers, decided at once in the order of R349; in ring mode a held buffer among those from HEAD
on stands in the place of its step 2 (R350). -/
def Pool.request (p : Pool) (ctx n : Nat) : AllocFail ⊕ (List Nat × Pool) :=
  let q := p.quotaOf ctx
  let above := match q.quota with
    | none => false
    | some m => q.held + n > m
  let run := ringRun p n
  if above then .inl .overQuota
  else if p.ring && run.any (fun b => hasK b p.links || p.lost.contains b || p.badLink b) then .inl .ringHeld
  else if p.freeCount < n then .inl .poolEmpty
  else if p.freeCount - n < p.unmetBut ctx then .inl .reserved
  else
    let q := { q with held := q.held + n }
    if p.ring then .inr (run, { p.setQuota ctx q with
        head := (p.head + n) % p.count, links := chainLinks run p.links })
    else
      let (bufs, p) := takeList p n
      .inr (bufs, { p.setQuota ctx q with links := chainLinks bufs p.links })

/-- The first buffer whose NEXT a free-list request of `n` reads and cannot (R351): each buffer it takes names the next one, and the
last the new head. -/
def Pool.badNext (p : Pool) (n : Nat) : Option Nat := if p.ring then none else (takeList p n).1.find? p.badLink

/-- The buffers that a conversion to ring mode counts as LOST: those whose link words cannot be read (R351). -/
def Pool.unread (p : Pool) : List Nat :=
  ((p.badLinks.flatMap fun d => upFrom d.1 d.2).filter fun b => b < p.count && !p.lost.contains b).eraseDups

/-- A pool becomes a ring in place: HEAD is the buffer after the one whose NEXT failed, held buffers stay held, and the buffers whose
link words cannot be read are held for good (R351). -/
def Pool.toRing (p : Pool) (b : Nat) : Pool :=
  { p with ring := true, ringForced := true, head := (b + 1) % p.count, freeList := [], tailFrom := 0
           lost := p.lost ++ p.unread, links := p.links.filter fun e => !p.unread.contains e.1 }

/-- The buffers of a chain that a walk from its first one reaches: up to the first whose link word cannot be read (R351; DEDUCED: that
one is held for good, as in a conversion). -/
def Pool.reached (p : Pool) (bufs : List Nat) : List Nat :=
  (bufs.takeWhile fun b => !p.badLink b).filter fun b => hasK b p.links

/-- The buffers of a chain that freeing it cannot reach, and counts as LOST (R351). -/
def Pool.unreached (p : Pool) (bufs : List Nat) : List Nat :=
  (bufs.dropWhile fun b => !p.badLink b).filter fun b => hasK b p.links

/-- A chain's buffers go back: HELD clears, and in free-list mode they are pushed in chain order, so that the last is
the new head (R348, R350). The context's holdings fall by the chain's length, whatever of it is reached (R351). -/
def Pool.release (p : Pool) (ctx : Nat) (bufs : List Nat) : Pool :=
  let live := p.reached bufs
  let q := p.quotaOf ctx
  let gone := p.unreached bufs
  let p := p.setQuota ctx { q with held := q.held - bufs.length }
  { p with
    links := (live ++ gone).foldl (fun t b => eraseK b t) p.links
    lost := p.lost ++ gone
    freeList := if p.ring then p.freeList else live.reverse ++ p.freeList }

/-- The key of pool `n` of function `f`. -/
def poolKey (f n : Nat) : Nat := f * 1024 + n

def State.pool (s : State) (key : Nat) : Option Pool := lookup key s.hop.pools
def State.setPool (s : State) (key : Nat) (p : Pool) : State :=
  { s with hop := { s.hop with pools := insertK key p s.hop.pools } }

/-- A bit of HOP_ERR is set for the link word of buffer `b` of a pool, with HOP_ERR_INFO (R351, R357). -/
def linkErr (s : State) (f : FieldRef) (key : Nat) (p : Pool) (b : Nat) : State :=
  let info := key % 1024 + key / 1024 * 2 ^ 10 + p.die * 2 ^ 16 + f.lo * 2 ^ 20 + b * 2 ^ 32
  raiseErr (setRaw s Reg.HOP_ERR_INFO 0 0 info) f 0 .contained { unit := p.die, arg := info }

/-- A request that R349 grants reads the NEXT fields of the free buffers it takes; where one cannot be read, the pool becomes a ring
(R351). -/
def readLinks (s : State) (key ctx n : Nat) : State :=
  match s.pool key with
  | none => s
  | some p => match p.badNext n, p.request ctx n with
    | some b, .inr _ =>
      linkErr (count (s.setPool key (p.toRing b)) (bankHop p.die) 10 p.unread.length) Fld.HOP_ERR_LIST_LOST key p b
    | _, _ => s

/-- A request of an open command or a stream, with the Hopper's counters (R349, R351, R358): the buffers, or why it failed, and the
state after it. -/
def allocBufs (s : State) (key ctx n : Nat) : (AllocFail × State) ⊕ (List Nat × State) :=
  let s := readLinks s key ctx n
  match s.pool key with
  | none => .inl (.poolEmpty, s)
  | some p =>
    match p.request ctx n with
    | .inl e => .inl (e, e.counters.foldl (fun s n => count s (bankHop p.die) n) s)
    | .inr (bufs, p') => .inr (bufs, count (s.setPool key p') (bankHop p.die) 0 n)

/-- Buffers go back to their pool (R348, R350, R351). -/
def freeBufs (s : State) (key ctx : Nat) (bufs : List Nat) : State :=
  match s.pool key with
  | none => s
  | some p =>
    let gone := (p.unreached bufs).length
    let s := count (count (s.setPool key (p.release ctx bufs)) (bankHop p.die) 1 (p.reached bufs).length) (bankHop p.die) 10 gone
    match bufs.find? fun b => p.badLink b && (hasK b p.links || p.lost.contains b) with
    | some b => linkErr s Fld.HOP_ERR_LINK_UNCORR key p b
    | none => s

/-- A chain is freed by BUF_FREE or by a teardown: it counts (R358). -/
def freeChain (s : State) (key ctx : Nat) (bufs : List Nat) : State :=
  match s.pool key with
  | none => s
  | some p => freeBufs (count s (bankHop p.die) 7) key ctx bufs

/-- Every chain an open command took and did not hand over goes back (R271, R343); `torn`: in a teardown. -/
def freeCmdChains (s : State) (seq : Nat) (torn : Bool := false) : State :=
  match s.cmd seq with
  | none => s
  | some c =>
    let free := fun (s : State) (e : Nat × List Nat) => (if torn then freeChain else freeBufs) s e.1 (pContext c.pkt) e.2
    (c.chains.foldl free s).modCmd seq fun c => { c with chains := [] }

/-- The 64-bit handle of a chain (R352). -/
def chainHandle (key die first serial : Nat) : Nat :=
  first + key % 1024 * 2 ^ 20 + die * 2 ^ 30 + key / 1024 * 2 ^ 32 + serial % 2 ^ 26 * 2 ^ 38

/-- A chain is handed over to a context: it takes the pool's next SERIAL (R134, R352). -/
def handOver (s : State) (key ctx : Nat) (bufs : List Nat) : Nat × State :=
  match s.pool key with
  | none => (0, s)
  | some p =>
    let serial := p.serial
    let h := chainHandle key p.die (bufs.headD 0) serial
    let p := { p with serial := (serial + 1) % 2 ^ 26, chains := p.chains ++ [{ ctx, bufs, serial }] }
    (h, count (s.setPool key p) (bankHop p.die) 6)

/-- The chain that a handle names among those a context holds (R352). -/
def findChain (s : State) (func ctx h : Nat) : Option (Nat × Chain) :=
  let key := poolKey (bitsOf h 32 6) (bitsOf h 20 10)
  match s.pool key with
  | none => none
  | some p =>
    if bitsOf h 32 6 = func && bitsOf h 30 2 = p.die then
      ((p.chains.find? fun c => c.ctx = ctx && c.bufs.headD 0 = bitsOf h 0 20 && c.serial = bitsOf h 38 26).map
        fun c => (key, c))
    else none

/-- A chain that a context holds is the context's no more (R303, R352). -/
def forgetChain (s : State) (key : Nat) (c : Chain) : State :=
  match s.pool key with
  | none => s
  | some p => s.setPool key { p with chains := p.chains.erase c }

/-- BUF_FREE frees a chain that a context holds (R303, R352). -/
def dropChain (s : State) (key : Nat) (c : Chain) : State := freeChain (forgetChain s key c) key c.ctx c.bufs

/-- Every chain that context `ctx` holds in any pool is freed, and its figures are removed (R303, CTX_DESTROY). -/
def dropContextHoldings (s : State) (ctx : Nat) : State :=
  s.hop.pools.foldl (fun s e =>
    let s := (e.2.chains.filter fun c => c.ctx = ctx).foldl (fun s c => freeBufs (forgetChain s e.1 c) e.1 c.ctx c.bufs) s
    match s.pool e.1 with
    | none => s
    | some p => s.setPool e.1 { p with quotas := eraseK ctx p.quotas }) s

/-! ## Pool 0 (R346) -/

/-- Pool 0 of a base die as module reset leaves it: 4,096 buffers of 4 KiB. -/
def pool0Fresh (die : Nat) : Pool := { count := 4096, bufBytes := 4096, die }

/-- Pool 0 of a base die. -/
def pool0Of (s : State) (die : Nat) : Pool := lookupD (pool0Fresh die) die s.hop.pool0

/-- The Runner asks pool 0 for a buffer: it gets one, or waits (R346). `tag` names the asker. -/
def pool0Ask (s : State) (die tag : Nat) : Option Nat × State :=
  let s := injectAt s 7 die
  match (pool0Of s die).request 0 1 with
  | .inr (b :: _, p) =>
    let hop := { s.hop with pool0 := insertK die p s.hop.pool0
                            pool0Given := s.hop.pool0Given ++ [(tag, die * 4096 + b)] }
    (some b, count { s with hop } (bankHop die) 0)
  | _ => (none, { s with hop := { s.hop with waiting := s.hop.waiting ++ [(die, tag)] } })

/-- A buffer of pool 0 comes back. -/
def pool0Give (s : State) (die b : Nat) : State :=
  let p := (pool0Of s die).release 0 [b]
  let hop := { s.hop with pool0 := insertK die p s.hop.pool0
                          pool0Given := s.hop.pool0Given.filter fun e => e.2 ≠ die * 4096 + b }
  count { s with hop } (bankHop die) 1

/-- POOL0_ALLOC (R346): the oldest waiting allocation of a base die receives a freed buffer. -/
def execPool0Alloc (die : Nat) (s : State) : Out :=
  match s.hop.waiting.find? fun w => w.1 = die with
  | none => .next s
  | some w =>
    match (pool0Of s die).request 0 1 with
    | .inl _ => .next s
    | .inr (bufs, p) =>
      let hop := { s.hop with pool0 := insertK die p s.hop.pool0, waiting := s.hop.waiting.erase w
                              pool0Given := s.hop.pool0Given ++ [(w.2, die * 4096 + bufs.headD 0)] }
      .next (count { s with hop } (bankHop die) 0)

end Sys2Proof.Machine
end

