-- ==== Sys2Proof/Machine/Weight.lean ====
section
/-!
DEFINITION. The weight space: pages and who may name them (R359–R364, R565), frames and placement (R366, R367),
reads and writes of its bytes (R368, R381, R393, R600), staged data released by a write (R388), and the queue of
page moves (R379, R380).
-/
namespace Sys2Proof.Machine

def pageBytes : Nat := 2 ^ 21
/-- The page of a weight-space address (R359). -/
def pageOf (a : Nat) : Nat := a / pageBytes
/-- The pages that `n` bytes from `a` on touch. -/
def pagesOf (a n : Nat) : List Nat :=
  if n = 0 then [] else upFrom (pageOf a) (pageOf (a + n - 1) - pageOf a + 1)

/-- Pages of a pool's buffers, and of its link array (R347). -/
def poolBufPages (bufBytes n : Nat) : Nat := ceilDiv (bufBytes * n) pageBytes
def poolLinkPages (n : Nat) : Nat := ceilDiv (4 * n) pageBytes

/-- Link words on one page (R347). -/
def linksPerPage : Nat := pageBytes / 4

/-- The buffer of a pool whose link word is word `w` of page `q`, if there is one (R347). -/
def Pool.bufferAt (p : Pool) (q w : Nat) : Option Nat :=
  let first := p.firstPage + poolBufPages p.bufBytes p.count
  let b := (q - first) * linksPerPage + w
  if first ≤ q && b < p.count then some b else none

/-- `n` link words from word `w` of page `q` on can no longer be read (R351). -/
def loseLinks (s : State) (q w n : Nat) : State :=
  { s with hop := { s.hop with pools := s.hop.pools.map fun e => match e.2.bufferAt q w with
      | some b => (e.1, { e.2 with badLinks := e.2.badLinks ++ [(b, n)] })
      | none => e } }

def State.page (s : State) (p : Nat) : Option Page := lookup p s.wsp.pages
def State.setPage (s : State) (p : Nat) (d : Page) : State :=
  { s with wsp := { s.wsp with pages := insertK p d s.wsp.pages } }
def State.modPage (s : State) (p : Nat) (f : Page → Page) : State :=
  { s with wsp := { s.wsp with pages := modifyK p f s.wsp.pages } }

/-- BAR2 offset of the journal ring, and its size (R275, R290). -/
def jrnBase (s : State) : Nat := fld s Fld.JRN_BASE_BASE * 2 ^ 20
def jrnSize (s : State) : Nat := 2 ^ fld s Fld.JRN_BASE_SIZE
/-- The page lies under the journal ring, and is held by the module (R362). -/
def jrnPage (s : State) (p : Nat) : Bool :=
  rangesMeet (p * pageBytes) pageBytes (jrnBase s) (jrnSize s)

/-- The module holds the page: PAGE_MAP finds it mapped, every other command finds it not mapped (R362). -/
def heldPage (s : State) (p : Nat) : Bool :=
  jrnPage s p || (match s.page p with | some d => d.module | none => false)

/-- The page as a command of function `f` sees it: mapped, not held by the module, and within f's range (R362, R565). -/
def pageFor (s : State) (f p : Nat) : Option Page :=
  if jrnPage s p || !fnPageOwns s f p then none
  else match s.page p with
    | some d => if d.module then none else some d
    | none => none

/-- The first page of a range that a function finds not mapped, if any. -/
def firstUnmapped (s : State) (f a n : Nat) : Option Nat :=
  (pagesOf a n).find? fun p => (pageFor s f p).isNone

/-- The page has a DRAM copy. -/
def Page.inDram (d : Page) : Bool := d.tier != 0
/-- The page has a NAND copy. -/
def Page.inNand (d : Page) : Bool := d.tier != 1

/-! ## Frames and placement -/

def frameKey (stack frame : Nat) : Nat := stack * 65536 + frame
def stackFailed (s : State) (st : Nat) : Bool := s.wsp.failed.contains st
/-- Base die of a stack (R20). -/
def dieOfStack (st : Nat) : Nat := st / 6

/-- Weight frames of a stack in use, but for retired ones that a page has yet to leave. -/
def usedFrames (s : State) (st : Nat) : Nat :=
  (s.wsp.frames.filter fun e => e.1 / 65536 = st && !s.wsp.retired.contains e.1).length
/-- Retired frames of a stack (R373, R399). -/
def retiredFrames (s : State) (st : Nat) : Nat := (s.wsp.retired.filter fun k => k / 65536 = st).length
/-- Free weight frames of a stack; a failed stack has none (R360, R373). -/
def freeFrames (s : State) (st : Nat) : Nat :=
  if stackFailed s st then 0
  else 45712 - usedFrames s st - (s.wsp.retired.filter fun k => k / 65536 = st && 64 ≤ k % 65536).length
def freeOnDie (s : State) (d : Nat) : Nat := ((upFrom (6 * d) 6).map (freeFrames s)).foldl (· + ·) 0
def freeAll (s : State) : Nat := ((upFrom 0 24).map (freeFrames s)).foldl (· + ·) 0

/-- The first number from `n` on that is not in a rising list, looking at most `fuel` times. -/
def firstGap (used : List Nat) (n : Nat) : Nat → Nat
  | 0 => n
  | k + 1 => if used.contains n then firstGap used (n + 1) k else n

/-- The lowest free frame of a stack (R366). -/
def lowestFrame (s : State) (st : Nat) : Option Nat :=
  if freeFrames s st = 0 then none
  else
    let used := ((s.wsp.frames.filter fun e => e.1 / 65536 = st).map fun e => e.1 % 65536) ++
      ((s.wsp.retired.filter fun k => k / 65536 = st).map (· % 65536))
    some (firstGap used 64 (used.length + 1))

/-- The candidate with the largest figure; a tie goes to the lower number. -/
def argMaxLow (f : Nat → Nat) : List Nat → Option Nat
  | [] => none
  | a :: t => match argMaxLow f t with
    | none => some a
    | some b => if f b > f a then some b else some a

/-- The stack of a die with the most free frames (R366 rule 3, second half). -/
def bestStackOn (s : State) (d : Nat) : Option Nat :=
  match argMaxLow (freeFrames s) (upFrom (6 * d) 6) with
  | some st => if freeFrames s st = 0 then none else some st
  | none => none

/-- Rule 3 of R366: the die with the most free frames, and on it the stack with the most. -/
def bestStack (s : State) : Option Nat :=
  match argMaxLow (freeOnDie s) [0, 1, 2, 3] with
  | some d => bestStackOn s d
  | none => none

/-- The physical tile's home base die (R19). -/
def homeDie (t : Nat) : Nat := t % 8 / 2

/-- The latest pour list installed for each model, in effect or not yet (R305, R382). -/
def installedLists (s : State) : Table PourList :=
  s.wsp.pourNext ++ s.wsp.pour.filter fun e => !hasK e.1 s.wsp.pourNext

/-- The pour-list entry with HOME that covers a page, as its TILE (R366 rule 2, R382). -/
def homeTile (s : State) (p : Nat) : Option Nat :=
  ((installedLists s).findSome? fun e => (e.2.entries.find? fun x =>
    x.home && x.kind < 2 && pageOf x.addr ≤ p && p < pageOf x.addr + x.len).map PourEntry.tile)

/-- The stack of a primary copy (R366). -/
def placeStack (s : State) (p pref : Nat) : Option Nat :=
  if pref < 24 then
    if freeFrames s pref ≠ 0 then some pref
    else match (upFrom (6 * dieOfStack pref) 6).find? fun st => freeFrames s st ≠ 0 with
      | some st => some st
      | none => bestStack s
  else match homeTile s p with
    | some t =>
      (match lookup t s.ras.l2p with
       | some phys => match bestStackOn s (homeDie phys) with
         | some st => some st
         | none => bestStack s
       | none => bestStack s)
    | none => bestStack s

/-- The stack of a second copy (R367). -/
def placeSecond (s : State) (st1 : Nat) : Option Nat :=
  [1, 2, 3].findSome? fun k => bestStackOn s ((dieOfStack st1 + k) % 4)

/-- The frame is taken by page `p`. -/
def takeFrame (s : State) (st fr p : Nat) : State :=
  { s with wsp := { s.wsp with frames := insertK (frameKey st fr) p s.wsp.frames } }
/-- The frame is given back. -/
def dropFrame (s : State) (st fr : Nat) : State :=
  { s with wsp := { s.wsp with frames := eraseK (frameKey st fr) s.wsp.frames } }

/-- The page gets its primary DRAM copy, where a frame is free; its second copy is placed when it is REPLICATED
(R366, R367). The tier becomes DRAM or both. -/
def placePrimary (s : State) (p : Nat) : Option State :=
  match s.page p with
  | none => none
  | some d =>
    if d.inDram && d.stack1 ≠ 31 then some s
    else match placeStack s p d.pref with
      | none => none
      | some st => match lowestFrame s st with
        | none => none
        | some fr =>
          let d := { d with stack1 := st, frame1 := fr, tier := if d.tier = 0 then 2 else d.tier }
          some (takeFrame (s.setPage p d) st fr p)

/-- The second copy of a REPLICATED page is placed where a frame is free; else it waits (R367). -/
def placeReplica (s : State) (p : Nat) : State :=
  match s.page p with
  | none => s
  | some d =>
    if d.replicated && d.stack1 ≠ 31 && d.stack2 = 31 then
      match placeSecond s d.stack1 with
      | none => s
      | some st => match lowestFrame s st with
        | none => s
        | some fr => takeFrame (s.setPage p { d with stack2 := st, frame2 := fr }) st fr p
    else s

/-- How far a stack's die is from that of the primary copy, in the order in which a second copy's die is tried (R367): 1 to 3, and 4
for the primary's own die. -/
def replicaDistance (st1 st : Nat) : Nat :=
  let k := (dieOfStack st + 4 - dieOfStack st1) % 4
  if k = 0 then 4 else k

/-- The second copy follows a primary that has moved: to a nearer die that has a frame (R367). -/
def followPrimary (s : State) (p : Nat) : State :=
  match s.page p with
  | none => s
  | some d =>
    if d.stack1 = 31 || d.stack2 = 31 then s
    else match placeSecond s d.stack1 with
      | none =>
        if replicaDistance d.stack1 d.stack2 = 4 then
          (dropFrame s d.stack2 d.frame2).setPage p { d with stack2 := 31, frame2 := 0 }
        else s
      | some st =>
        if replicaDistance d.stack1 st < replicaDistance d.stack1 d.stack2 then
          match lowestFrame s st with
          | none => s
          | some fr => takeFrame ((dropFrame s d.stack2 d.frame2).setPage p { d with stack2 := st, frame2 := fr }) st fr p
        else s

/-- Where a page goes that leaves a frame of stack `st`: a page of a Hopper pool stays on its die (R362), any other is placed anew
(R366). -/
def newStack (s : State) (p st : Nat) (d : Page) : Option Nat :=
  if d.module then bestStackOn s (dieOfStack st) else placeStack s p d.pref

/-- A page leaves a retired frame, where another is free; until then it stays, and is read there (R373, R379). A page of the journal ring
has no descriptor of its own. -/
def leaveFrame (s : State) (p st fr : Nat) : State :=
  match s.page p with
  | none =>
    match (bestStack s).bind fun st' => (lowestFrame s st').map fun fr' => (st', fr') with
    | some (st', fr') => takeFrame (dropFrame s st fr) st' fr' p
    | none => s
  | some d =>
    if d.stack2 = st && d.frame2 = fr then
      placeReplica (count ((dropFrame s st fr).setPage p { d with stack2 := 31, frame2 := 0 }) bankWsp 4) p
    else match (newStack s p st d).bind fun st' => (lowestFrame s st').map fun fr' => (st', fr') with
      | some (st', fr') =>
        let s := takeFrame ((dropFrame s st fr).setPage p { d with stack1 := st', frame1 := fr' }) st' fr' p
        followPrimary (count s bankWsp 4) p
      | none =>
        if d.stack2 = 31 then s
        else (dropFrame s st fr).setPage p { d with stack1 := d.stack2, frame1 := d.frame2, stack2 := 31, frame2 := 0 }

/-- Pages that have yet to leave a retired frame, and second copies that have no frame yet, are placed when one frees (R367, R373). -/
def placeReplicas (s : State) : State :=
  let s := (s.wsp.frames.filter fun e => s.wsp.retired.contains e.1).foldl
    (fun s e => leaveFrame s e.2 (e.1 / 65536) (e.1 % 65536)) s
  (s.wsp.pages.filter fun e => e.2.replicated && e.2.stack1 ≠ 31 && e.2.stack2 = 31).foldl
    (fun s e => placeReplica s e.1) s

/-! ## The journal ring's frames (R275, R360, R362) -/

/-- The pages under the journal ring. -/
def ringPages (s : State) : List Nat := pagesOf (jrnBase s) (jrnSize s)

/-- A ring page takes a frame, by rule 3 of R366 (DEDUCED: it is a page of the weight space without PREF). -/
def placeRingPage (s : State) (q : Nat) : State :=
  match (bestStack s).bind fun st => (lowestFrame s st).map fun fr => (st, fr) with
  | some (st, fr) => takeFrame s st fr q
  | none => s

/-- The ring's pages take their frames; those of an earlier ring are given back. -/
def placeRing (s : State) : State :=
  (ringPages s).foldl placeRingPage { s with wsp := { s.wsp with frames := s.wsp.frames.filter fun e => hasK e.2 s.wsp.pages } }

/-- The page's DRAM copies are given up. -/
def dropCopies (s : State) (p : Nat) : State :=
  match s.page p with
  | none => s
  | some d =>
    let s := if d.stack1 ≠ 31 then dropFrame s d.stack1 d.frame1 else s
    let s := if d.stack2 ≠ 31 then dropFrame s d.stack2 d.frame2 else s
    s.setPage p { d with stack1 := 31, stack2 := 31, frame1 := 0, frame2 := 0 }

/-- The lowest free NAND slot (R360). -/
def lowestSlot (s : State) : Option Nat :=
  if s.ntl.slots.length ≥ 28610229 then none
  else some (firstGap (s.ntl.slots.map Prod.fst) 0 (s.ntl.slots.length + 1))

/-- The page gets a NAND slot. -/
def takeSlot (s : State) (p : Nat) : Option State :=
  match s.page p, lowestSlot s with
  | some d, some k => some { s.setPage p { d with slot := k } with
      ntl := { s.ntl with slots := insertK k p s.ntl.slots } }
  | _, _ => none

/-- The page's NAND slot is given up. -/
def dropSlot (s : State) (p : Nat) : State :=
  match s.page p with
  | some d => if d.inNand then { s with ntl := { s.ntl with slots := eraseK d.slot s.ntl.slots } } else s
  | none => s

/-- The persistent map follows the descriptors of pages with a NAND copy (R370). -/
def mapPersist (s : State) (p : Nat) : State :=
  match s.page p with
  | some d =>
    if d.inNand && !d.module then { s with ntl := { s.ntl with map := insertK p d s.ntl.map } }
    else { s with ntl := { s.ntl with map := eraseK p s.ntl.map } }
  | none => { s with ntl := { s.ntl with map := eraseK p s.ntl.map } }

/-! ## Moves (R379) -/

/-- A page move is queued, unless the same one already is. -/
def queueMove (s : State) (m : Move) : State :=
  if s.wsp.moves.any fun x => x.page = m.page && x.kind = m.kind && x.seq = m.seq then s
  else { s with wsp := { s.wsp with moves := s.wsp.moves ++ [m] } }

/-- The rank of a move's class (R379). -/
def MoveKind.rank : MoveKind → Nat
  | .restore => 0 | .demand => 1 | .repour => 2 | .prefetch => 3 | .writeback => 4 | .migrate => 5

/-- The page was read: it is the most recent for eviction (R380). -/
def noteRead (s : State) (p : Nat) : State :=
  { s with wsp := { s.wsp with reads := s.wsp.reads + 1, lastRead := insertK p (s.wsp.reads + 1) s.wsp.lastRead } }

/-- Every page of a range was read. -/
def noteReads (s : State) (a n : Nat) : State := (pagesOf a n).foldl noteRead s

/-- A DRAM copy is evicted: the page becomes TIER 0 (R380). -/
def evict (s : State) (p : Nat) : State :=
  let s := (dropCopies s p).modPage p fun d => { d with tier := 0 }
  count (mapPersist s p) bankWsp 2

/-- A LOST page has been written whole and is good again; one that should be in DRAM takes a frame, or, where none is free, is kept in
NAND (R393; DEDUCED for the last). -/
def revivePage (s : State) (p : Nat) : State :=
  match s.page p with
  | none => s
  | some d =>
    if !d.lost then s
    else
      let s := s.setPage p { d with lost := false }
      if !d.inDram || d.stack1 ≠ 31 then s
      else match placePrimary s p with
        | some s => mapPersist (placeReplica s p) p
        | none => mapPersist ((if d.inNand then s else (takeSlot s p).getD s).modPage p fun d => { d with tier := 0 }) p

/-! ## LOST pages (R393, R394) -/

/-- The page lies in the collector's ring while COLLECT is 1 (R584). -/
def ringPage (s : State) (p : Nat) : Bool :=
  flag s Fld.PMC_CTL_COLLECT && fld s Fld.PMC_RING_BASE ≤ p && p < fld s Fld.PMC_RING_BASE + fld s Fld.PMC_RING_PAGES

/-- PMC_ERR.RING_BAD for a ring page (R584, R590). -/
def ringBadErr (s : State) (p : Nat) : State := setErr (setRaw s Reg.PMC_ERR_INFO 0 0 p) Fld.PMC_ERR_RING_BAD

/-- A ring page that becomes LOST stops the collector (R584). -/
def stopCollector (s : State) (p : Nat) : State :=
  match s.page p with
  | some d => if !d.lost && ringPage s p then ringBadErr (setFld s Fld.PMC_STATUS_STATE 3) p else s
  | none => s

/-- WSP_ERR_INFO of an error: the page, the stack or 31, and the bit of WSP_ERR (R399). -/
def wspInfo (f : FieldRef) (page stack : Nat) : Nat := page + stack * 2 ^ 27 + f.lo * 2 ^ 32

/-- A bit of WSP_ERR that reports nothing else than its page (R363, R380, R393, R399). -/
def wspErr (s : State) (f : FieldRef) (page : Nat) : State := setErr (setRaw s Reg.WSP_ERR_INFO 0 0 (wspInfo f page 31)) f

/-- A page with no good copy becomes LOST (R393). The DRAM and NAND copies are bad; the mapping stays; the link words on it cannot be
read (R351). -/
def losePage (s : State) (p : Nat) : State :=
  let s := stopCollector s p
  match s.page p with
  | none => s
  | some d =>
    if d.lost then s
    else
      let s := s.setPage p { d with lost := true }
      let s := if d.module then loseLinks s p 0 linksPerPage else s
      let s := count s bankWsp 8
      let info := wspInfo Fld.WSP_ERR_PAGE_LOST p d.stack1
      let s := setRaw s Reg.WSP_ERR_INFO 0 0 info
      raiseErr s Fld.WSP_ERR_PAGE_LOST 0 .contained { addr := p, arg := info, unit := d.stack1 }

/-- The first page of a range that is LOST, if any. -/
def firstLost (s : State) (a n : Nat) : Option Nat :=
  (pagesOf a n).find? fun p => (s.page p).any (fun d => d.lost) ||
    s.flk.poisoned.any fun l => pageOf (l * 256) = p && rangesMeet (l * 256) 256 a n

/-- The pages of a range without a DRAM copy. -/
def absentPages (s : State) (a n : Nat) : List Nat :=
  (pagesOf a n).filter fun p => match s.page p with | some d => !d.inDram | none => false

/-! ## Bytes -/

/-- A byte as the module keeps it: the DRAM copy, or the NAND copy where there is no DRAM copy (R305, R368). -/
def keptByte (s : State) (a : Nat) : Byte :=
  match s.page (pageOf a) with
  | some d => if d.inDram then readByte a s.wsp.dram else readByte a s.wsp.nand
  | none => 0

/-- First address of the flask aperture (R450). -/
def apertureBase : Nat := 0xFF8000000000
/-- Bytes of one rank's window (R450). -/
def windowBytes : Nat := 2 ^ 36
/-- This module is a member of a flask. -/
def inFlask (s : State) : Bool := s.flk.phase = .member || s.flk.phase = .leaving

/-- The address lies in a destination region of a command, other than `seq`, that has taken effect and not committed. -/
def inOpenDest (s : State) (seq a : Nat) : Bool :=
  s.cp.cmds.any fun e => e.1 ≠ seq && e.2.dest.any fun d => d.1 ≤ a && a < d.1 + d.2

/-- The byte lies in a destination region of a command, other than `seq`, that has taken effect and not committed (R271, R273). A byte of
this module's own window is also reached through the aperture (R450). -/
def openTo (s : State) (seq a : Nat) : Bool :=
  inOpenDest s seq a || (inFlask s && s.flk.window ≤ a && a < s.flk.window + windowBytes &&
    inOpenDest s seq (apertureBase + s.flk.rank * windowBytes + (a - s.flk.window)))

/-- A byte as command `seq` reads it: one that another command may be writing, and has not committed, is a free value (R31, R271, R273).
Two reads see one value of it where no free value was drawn between them (DESIGN CHOICE). -/
def byteFor (s : State) (seq a : Nat) : Byte := if openTo s seq a then Config.openByte s.free a else keptByte s a

/-- A byte as a reader that is no open command's own work sees it. -/
def wspByte (s : State) (a : Nat) : Byte := byteFor s 0 a

/-- `n` bytes of the weight space. -/
def wspBytes (s : State) (a : Nat) : Nat → List Byte
  | 0 => []
  | n + 1 => wspByte s a :: wspBytes s (a + 1) n

/-- `n` bytes as the command that writes them sees them: what it has written, else what is there (R271, R393). -/
def ownBytes (s : State) (seq : Nat) (w : Mem) (written : List (Nat × Nat)) (a : Nat) : Nat → List Byte
  | 0 => []
  | n + 1 =>
    (if written.any fun d => d.1 ≤ a && a < d.1 + d.2 then readByte a w else byteFor s seq a) ::
      ownBytes s seq w written (a + 1) n

/-- A write releases the staged data of every STAGE entry whose source it touches (R388). -/
def releaseStaged (s : State) (a n : Nat) : State :=
  let hit (x : Nat × Staged) : Bool := x.2.held && rangesMeet x.2.entry.addr x.2.entry.len a n
  let k := (s.wsp.staged.filter hit).length
  if k = 0 then s
  else
    let staged := s.wsp.staged.map fun x => if hit x then (x.1, { x.2 with held := false }) else x
    count { s with wsp := { s.wsp with staged } } bankWsp 13 k

/-- NAND units of 16 KiB that a range touches (R375). -/
def nandUnits (a n : Nat) : Nat := if n = 0 then 0 else (a + n - 1) / 16384 - a / 16384 + 1

/-- Bytes written to a page's NAND copy, and its units counted (R403). -/
def storeNand (s : State) (a : Nat) (bs : List Byte) : State :=
  count { s with wsp := { s.wsp with nand := writeBytes a bs s.wsp.nand } } bankNtl 1 (nandUnits a bs.length)

/-- One page's share of a committed write: every DRAM copy takes it and DIRTY is set where a NAND copy exists; a page
with a NAND copy only takes it there (R305, R368). `byCmd`: a command's write, not the host's through BAR2; `all`: PAGE_WRITE's, which
writes every copy in every tier, so that the NAND copy is as new as the DRAM copy (R305). -/
def storePage (byCmd all : Bool) (s : State) (p a : Nat) (bs : List Byte) : State :=
  match s.page p with
  | none => s
  | some d =>
    if d.inDram then
      let s := { s with wsp := { s.wsp with dram := writeBytes a bs s.wsp.dram } }
      if d.inNand && all then storeNand s a bs
      else if d.inNand then s.setPage p { d with dirty := true, dirtyCmd := d.dirtyCmd || byCmd } else s
    else storeNand s a bs

/-- Poison ends for the lines that a write covers whole (R459). -/
def clearPoison (s : State) (a n : Nat) : State :=
  let covered := fun (l : Nat) => a ≤ l * 256 && (l + 1) * 256 ≤ a + n
  { s with flk := { s.flk with poisoned := s.flk.poisoned.filter fun l => !covered l } }

/-- Bytes written to the weight space, page by page (R368); staged copies of them are released (R388), and lines that they fill are
poisoned no more (R459). -/
def wspStore (byCmd : Bool) (s : State) (a : Nat) (bs : List Byte) (all : Bool := false) : State :=
  let s := (pagesOf a bs.length).foldl (fun s p =>
    let lo := max a (p * pageBytes)
    let hi := min (a + bs.length) ((p + 1) * pageBytes)
    storePage byCmd all s p lo ((bs.drop (lo - a)).take (hi - lo))) s
  clearPoison (releaseStaged s a bs.length) a bs.length

/-- How far from `a` on the ranges cover without a gap. -/
def coverFrom (rs : List (Nat × Nat)) (a : Nat) : Nat → Nat
  | 0 => a
  | k + 1 =>
    match rs.find? fun d => d.1 ≤ a && a < d.1 + d.2 with
    | some d => coverFrom rs (d.1 + d.2) k
    | none => a

/-- Do the ranges together cover the `n` bytes from `a` on? -/
def covers (rs : List (Nat × Nat)) (a n : Nat) : Bool := a + n ≤ coverFrom rs a (rs.length + 1)

/-- The pages that a set of written ranges covers whole (R393). -/
def wholePages (rs : List (Nat × Nat)) : List Nat :=
  ((rs.flatMap fun d => pagesOf d.1 d.2).eraseDups).filter fun p => covers rs (p * pageBytes) pageBytes

/-- The first LOST page that a set of written ranges touches and does not cover whole (R393). -/
def partLost (s : State) (rs : List (Nat × Nat)) : Option Nat :=
  ((rs.flatMap fun d => pagesOf d.1 d.2).eraseDups).find? fun p =>
    (match s.page p with | some d => d.lost | none => false) && !covers rs (p * pageBytes) pageBytes

/-- What an uncommitted command wrote becomes the contents of the ranges it wrote (R271, at commit); LOST pages it
wrote whole are good again (R393). -/
def commitWrites (s : State) (all : Bool) (w : Mem) (written : List (Nat × Nat)) : State :=
  let s := (wholePages written).foldl revivePage s
  written.foldl (fun s d => wspStore true s d.1 (readBytes d.1 d.2 w) all) s

/-- A command's own write to the weight space, kept with it until it commits (R271). -/
def ownWrite (s : State) (seq a : Nat) (bs : List Byte) : State :=
  s.modCmd seq fun c => { c with writes := writeBytes a bs c.writes, written := c.written ++ [(a, bs.length)] }

/-- Pages held by the module are given back. -/
def releasePages (s : State) (p : Nat) : Nat → State
  | 0 => s
  | n + 1 =>
    let s := dropCopies s p
    let s := { s with wsp := { s.wsp with
      pages := eraseK p s.wsp.pages, dram := clearRange (p * pageBytes) pageBytes s.wsp.dram } }
    releasePages s (p + 1) n

/-- A run of pages that a POOL_CREATE has reserved and not turned into its pool goes back (R362). -/
def dropReserved (s : State) (seq : Nat) : State :=
  match (s.cmd seq).bind fun c => c.reserved with
  | none => s
  | some (p, n) => (releasePages s p n).modCmd seq fun c => { c with reserved := none }

end Sys2Proof.Machine
end

