-- ==== Sys2Proof/Machine/TileStop.lean ====
section
/-!
DEFINITION. Stopping a command's work on tiles and in the exchange (R232, R274, R343), and the ties between streams and
Runner groups (R115, R303).
-/
namespace Sys2Proof.Machine

/-! ## Groups -/

/-- This endpoint's current job epoch and endpoint ID (R442). -/
def curEpoch (s : State) : Nat := fld s Fld.XRT_EP_EPOCH
def endpointId (s : State) : Nat := fld s Fld.XRT_EP_ENDPOINT

/-- The key of a group under an epoch. -/
def groupKey (epoch g : Nat) : Nat := epoch * 65536 + g

def State.groupAt (s : State) (key : Nat) : Option Group := lookup key s.xch.groups
/-- The group with an ID under the current epoch. -/
def State.group (s : State) (g : Nat) : Option Group := s.groupAt (groupKey (curEpoch s) g)
def State.setGroup (s : State) (key : Nat) (g : Group) : State :=
  { s with xch := { s.xch with groups := insertK key g s.xch.groups } }
def State.modGroup (s : State) (g : Nat) (f : Group → Group) : State :=
  { s with xch := { s.xch with groups := modifyK (groupKey (curEpoch s) g) f s.xch.groups } }
def State.step (s : State) (seq : Nat) : Option LStep := lookup seq s.xch.steps
def State.setStep (s : State) (seq : Nat) (x : LStep) : State :=
  { s with xch := { s.xch with steps := insertK seq x s.xch.steps } }
def State.modStep (s : State) (seq : Nat) (f : LStep → LStep) : State :=
  { s with xch := { s.xch with steps := modifyK seq f s.xch.steps } }

/-- A group of the current epoch with EXPERT_GROUP set (R302). -/
def expertGroup (s : State) (g : Nat) : Bool := match s.group g with | some x => x.expert | none => false

/-- A stream is bound to the group already (R115). -/
def groupBound (s : State) (g : Nat) : Bool := match s.group g with | some x => x.bound.isSome | none => false

/-- A stream is bound to an expert group (R303). -/
def bindGroup (s : State) (g ctx st : Nat) : State := s.modGroup g fun x => { x with bound := some (ctx * 64 + st) }

/-- A stream's expert group is unbound (R303). -/
def unbindGroup (s : State) (ctx st : Nat) : State :=
  let drop := fun (e : Nat × Group) =>
    if e.2.bound = some (ctx * 64 + st) then (e.1, { e.2 with bound := none }) else e
  { s with xch := { s.xch with groups := s.xch.groups.map drop } }

/-- A group is broken on this member (R331, R145, R146). -/
def breakGroup (s : State) (g : Nat) : State := s.modGroup g fun x => { x with broken := true, removed := true }

/-- Detail word 0 of R145 with REMOVED and BROKEN set and its other fields zero (R331). -/
def removedBroken : Nat := 2 ^ 48 + 2 ^ 49

/-- The loss of an expert is queued for announcement to the members that share it (R97). -/
def announceLost (s : State) (model expert : Nat) : State :=
  let l := lookupD [] model s.xch.announce
  if l.contains expert then s
  else { s with xch := { s.xch with announce := insertK model (l ++ [expert]) s.xch.announce } }

/-! ## Scratchpads -/

/-- Bytes of a tile's scratchpad (R154). -/
def spadBytes : Nat := 3145728

def State.tile (s : State) (t : Nat) : Tile := lookupD {} t s.tiles
def State.setTile (s : State) (t : Nat) (x : Tile) : State := { s with tiles := insertK t x s.tiles }
def State.modTile (s : State) (t : Nat) (f : Tile → Tile) : State := s.setTile t (f (s.tile t))

/-- What an unwritten scratchpad byte reads as: zero, or after gating a value that nothing defines (R157). -/
def Tile.spadBase (x : Tile) (a : Nat) : Byte :=
  match x.spadFree with
  | none => 0
  | some d => Config.freeByte d a

/-- `n` bytes of the scratchpad. -/
def Tile.readSpad (x : Tile) (a : Nat) : Nat → List Byte
  | 0 => []
  | n + 1 => (readByte a x.spad ^^^ x.spadBase a) :: x.readSpad (a + 1) n

/-- The scratchpad with bytes stored from `a` on. -/
def Tile.writeSpad (x : Tile) (a : Nat) : List Byte → Tile
  | [] => x
  | b :: bs => ({ x with spad := writeByte a (b ^^^ x.spadBase a) x.spad }).writeSpad (a + 1) bs

/-- A range joins those that a step has written, unless one covers it. -/
def addRange (l : List (Nat × Nat)) (a n : Nat) : List (Nat × Nat) :=
  if n = 0 || l.any (fun r => r.1 ≤ a && a + n ≤ r.1 + r.2) then l else l ++ [(a, n)]

/-- Bytes that a step's work writes to the scratchpad (R271). -/
def Tile.stepWrite (x : Tile) (seq a : Nat) (bs : List Byte) : Tile :=
  { x.writeSpad a bs with wrote := insertK seq (addRange (lookupD [] seq x.wrote) a bs.length) x.wrote }

/-- What a step that was killed or torn down has written is discarded: nothing defines those bytes (R271). -/
def Tile.discardStep (x : Tile) (seq d : Nat) : Tile :=
  let x := (lookupD [] seq x.wrote).foldl (fun x r => x.writeSpad r.1 ((upFrom r.1 r.2).map (Config.freeByte d))) x
  { x with wrote := eraseK seq x.wrote }

/-! ## Stopping work -/

/-- The tile holds work of the items `p` picks: a running kernel, queued commands or started ones. -/
def Tile.hasWork (x : Tile) (p : Item → Bool) : Bool :=
  (match x.kernel with | some k => p k.item | none => false) ||
    (x.q0 ++ x.q1 ++ x.q2 ++ x.q3).any (fun c => p c.item) || x.flight.any (fun f => p f.cmd.item)

/-- One tile stops the work of the items `p` picks: it stops fetching their kernel, discards commands no engine has
started, lets started ones finish, and drops waiting items (R232). -/
def Tile.stopWhere (x : Tile) (p : Item → Bool) : Tile :=
  let keep := fun (c : EngCmd) => !p c.item
  { x with
    kernel := match x.kernel with | some k => if p k.item then none else some k | none => none
    items := x.items.filter fun i => !p i
    q0 := x.q0.filter keep, q1 := x.q1.filter keep, q2 := x.q2.filter keep, q3 := x.q3.filter keep
    flight := x.flight.map fun f => if p f.cmd.item then { f with dead := true } else f
    skips := x.skips.filter fun k => !p k.item
    draining := x.draining || x.hasWork p || x.items.any p }

/-- One tile stops a step's work and discards what it wrote, which reads as draw `d` (R232, R271). -/
def Tile.stopStep (x : Tile) (seq d : Nat) : Tile :=
  let x := (x.stopWhere fun i => i.seq = seq).discardStep seq d
  { x with skipCtl := eraseK seq x.skipCtl }

/-- The work items a tile has taken or queued, oldest first. -/
def Tile.allItems (x : Tile) : List Item :=
  ((x.flight.map fun f => f.cmd.item) ++ ((x.q0 ++ x.q1 ++ x.q2 ++ x.q3).map fun c => c.item) ++
    (x.kernel.toList.map fun k => k.item) ++ x.items).eraseDups

/-- A kill of step `seq` reaches the tile: it holds work of the step. -/
def Tile.killHits (x : Tile) (seq : Nat) : Bool := x.hasWork (fun i => i.seq = seq) || x.items.any fun i => i.seq = seq

/-- The work of the context's other steps that a kill of step `seq` takes off the tile with it (R232). -/
def Tile.killAgain (x : Tile) (ctx seq : Nat) : List Item :=
  if x.killHits seq then x.allItems.filter fun i => i.ctx = ctx && i.seq ≠ seq else []

/-- One tile stops for a kill of step `seq` of context `ctx`: it discards everything of the context that no engine has started, its
waiting items, and what the step wrote (R232, R271). -/
def Tile.killFor (x : Tile) (ctx seq d : Nat) : Tile :=
  let x := if x.killHits seq then x.stopWhere fun i => i.ctx = ctx else x
  { x.discardStep seq d with skipCtl := eraseK seq x.skipCtl }

/-- An item goes back to its source, which hands it to its tile again when the queue has room (R226). -/
def handBack (s : State) (w : Nat × Item) : State :=
  s.modStep w.2.seq fun y =>
    if w.2.kind = 0 then
      { y with owned := y.owned.map fun o => if o.expert = w.2.payload % 2 ^ 16 then { o with handed := false } else o }
    else { y with waiting := y.waiting ++ [w] }

/-! ## Tallies of active slots (R582) -/

/-- The open tallies of a resident slot, with the tiles that keep them. -/
def talliesOf (s : State) (slot : Nat) : List (Nat × Tally) :=
  s.tiles.filterMap fun e => (lookup slot e.2.tally).map fun y => (e.1, y)

/-- The tallies of a resident slot are resolved: RETIRED where its step committed, WASTED_KILLED where not, and WASTED_MAKEUP for the
make-up passes in either case (R581, R582). -/
def resolveTally (s : State) (slot : Nat) (committed : Bool) : State :=
  (talliesOf s slot).foldl (fun s e =>
    let s := { s with tiles := modifyK e.1 (fun x => { x with tally := eraseK slot x.tally }) s.tiles }
    count (count s (bankTil e.1) (if committed then 20 else 21) (e.2.active - e.2.makeup)) (bankTil e.1) 22 e.2.makeup) s

/-- Every tile that holds work of a killed step stops it (R232). The items of the context's other steps, which are not killed and
must still end, go back to their sources and run again from their start (DESIGN CHOICE: the spec does not say what becomes of
them). -/
def killTileWork (s : State) (ctx seq : Nat) : State :=
  let (d, s) := drawFree s
  let back := s.tiles.flatMap fun e => (e.2.killAgain ctx seq).map fun i => (e.1, i)
  back.foldl handBack { s with tiles := s.tiles.map fun e => (e.1, e.2.killFor ctx seq d) }

/-- The tiles discard what a command has placed on them, and what it wrote there (R232, R271). -/
def stopTileWork (s : State) (seq : Nat) : State :=
  let (d, s) := drawFree s
  { s with tiles := s.tiles.map fun e => (e.1, e.2.stopStep seq d) }

/-- A step has committed: what it wrote on the tiles stands. -/
def keepTileWork (s : State) (seq : Nat) : State :=
  { s with tiles := s.tiles.map fun e => (e.1, { e.2 with wrote := eraseK seq e.2.wrote, skipCtl := eraseK seq e.2.skipCtl }) }

/-- Announced losses wait for the model's next layer step (R97). -/
def noteLost (s : State) (model : Nat) (experts : List Nat) : State :=
  let es := experts.foldl (fun l e => insertSorted e l) (lookupD [] model s.xch.lostNext)
  if es.isEmpty then s else { s with xch := { s.xch with lostNext := insertK model es s.xch.lostNext } }

/-- The losses that the step's records announce wait for the model's next layer step (R97). -/
def noteAnnounced (s : State) (x : LStep) : State := noteLost s x.model (x.records.flatMap fun e => e.2.lost)

/-- The LOST entries of a count record's header (R84); none before its 64 bytes are there. -/
def lostOf (a : List (Nat × Nat) × Mem) : List Nat :=
  if !covers a.1 0 64 then []
  else (upFrom 0 (leNat (readBytes 14 1 a.2) % 16)).map fun i => leNat (readBytes (32 + 4 * i) 4 a.2) % 2 ^ 20

/-- A step stops in its count phase: what its records announced stands, and what those still to come announce will (R97). -/
def countsStop (s : State) (x : LStep) : State :=
  if x.stage ≠ .counting then s
  else
    let s := x.recParts.foldl (fun s e => noteLost s x.model (lostOf e.2)) (noteAnnounced s x)
    s.modGroup x.group fun g =>
      let missing := (upFrom 0 g.members.length).filter fun r => r ≠ g.rank && !hasK r x.records
      { g with late := some { msc := x.msc, layer := x.layer, model := x.model, missing, parts := x.recParts } }

/-- The routing engines and the Runner drop a command's layer step or collective. -/
def stopStepWork (s : State) (seq : Nat) : State :=
  let s := dropTrig s seq
  let s := match s.step seq with | some x => countsStop s x | none => s
  { s with xch := { s.xch with
    steps := eraseK seq s.xch.steps, colls := eraseK seq s.xch.colls
    parked := s.xch.parked.filter (· ≠ seq)
    routing := if s.xch.routing = some seq then none else s.xch.routing
    stage4 := if s.xch.stage4 = some seq then none else s.xch.stage4 } }

/-- A command's remote transfer, multicast message or probes are dropped: it asks for nothing more, and no answer finds it (R271,
R343). -/
def dropFabWork (s : State) (seq : Nat) : State :=
  { s with fab := { s.fab with
    remotes := eraseK seq s.fab.remotes, mcastOut := eraseK seq s.fab.mcastOut, admits := eraseK seq s.fab.admits
    tids := s.fab.tids.filter fun e => e.2 ≠ seq } }

end Sys2Proof.Machine
end

