-- ==== Sys2Proof/Machine/Contexts.lean ====
section
/-!
DEFINITION. Streams and resident slots: the scheduler's choices, pre-emption and eviction (R325–R336), the step
watchdog (R331), kill and rerun (R274), and the teardown of a faulted context (R342–R345).
-/
namespace Sys2Proof.Machine

/-- The identity of a stream: context × 64 + stream slot. -/
def streamId (ctx st : Nat) : Nat := ctx * 64 + st

def State.context (s : State) (id : Nat) : Option Ctx := lookup id s.ctx.table
def State.setContext (s : State) (id : Nat) (c : Ctx) : State :=
  { s with ctx := { s.ctx with table := insertK id c s.ctx.table } }
/-- A stream of a context; one that was never opened is CLOSED. -/
def State.stream (s : State) (ctx st : Nat) : Stream :=
  match s.context ctx with
  | some c => lookupD {} st c.streams
  | none => {}
def State.setStream (s : State) (ctx st : Nat) (x : Stream) : State :=
  match s.context ctx with
  | some c => s.setContext ctx { c with streams := insertK st x c.streams }
  | none => s
def State.modStream (s : State) (ctx st : Nat) (f : Stream → Stream) : State :=
  s.setStream ctx st (f (s.stream ctx st))

/-- Every stream that is not at its initial value: (context, slot, stream). -/
def allStreams (s : State) : List (Nat × Nat × Stream) :=
  s.ctx.table.flatMap fun c => c.2.streams.map fun x => (c.1, x.1, x.2)

/-- The class a command of a context runs at: its own, or the context's default class where that is lower (R324). -/
def effClass (c : Ctx) (p : Packet) : Nat := min (pClass p) c.cls

/-- Resident streams of a context (R327). -/
def residentOf (s : State) (ctx : Nat) : Nat :=
  (s.ctx.slots.filter fun e => e.2 / 64 = ctx).length

/-! ## Staged data that is needed (R388) -/

/-- The stream's current or latest step runs an image of the model (R385, R389). -/
def streamUsesModel (s : State) (id model : Nat) : Bool :=
  let x := s.stream (id / 64) (id % 64)
  x.layer.isSome && s.tiles.any fun e => (e.2.bank0.prog.toList ++ e.2.bank1.prog.toList).any fun p =>
    p.id = x.image && p.model = model

/-- The layer is the window's own or one of its layers (R386, R388). -/
def Window.needs (w : Window) (layer : Nat) : Bool := w.layer = layer || w.layers.contains layer

/-- The windows of the resident streams (R386, R388). -/
def residentWindows (s : State) : List Window := s.ctx.slots.filterMap fun e => lookup e.2 s.wsp.windows

/-- A resident stream of the model has the layer as its current layer or in its window (R388). -/
def layerInUse (s : State) (model layer : Nat) : Bool :=
  s.ctx.slots.any fun e =>
    (match lookup e.2 s.wsp.windows with | some w => w.model = model && w.needs layer | none => false) ||
      ((s.stream (e.2 / 64) (e.2 % 64)).layer = some layer && streamUsesModel s e.2 model)

/-- A staged entry is still needed: its data while a resident stream of the model needs its layer, and its staging while a window
does, under a list that has the entry (R388, R389). -/
def stageNeeded (s : State) (d : Staged) : Bool :=
  if d.held then layerInUse s d.model d.entry.layer &&
    (residentWindows s).any fun w => w.model = d.model && w.list.entries.contains d.entry
  else s.wsp.windows.any fun w => w.2.model = d.model && w.2.needs d.entry.layer && w.2.list.entries.contains d.entry

/-- Staged data that no resident stream needs is released (R388). -/
def releaseStale (s : State) : State :=
  if s.wsp.staged.isEmpty then s
  else { s with wsp := { s.wsp with staged := s.wsp.staged.filter fun d => stageNeeded s d.2 } }

/-! ## Notes, kill (R268, R274) -/

/-- A killed command's note, for a command written for minor 3, in an unreserved free entry (R268). -/
def preemptNote (s : State) (seq : Nat) (c : OpenCmd) : State :=
  if flag s Fld.CP_CTL_PREEMPT_NOTE 0 c.func && pEffMinor c.pkt = 3 then
    match s.cq c.func c.cq with
    | none => s
    | some q =>
      if q.freeEntries = 0 then count s bankCp 6
      else
        let bytes := replyBytes (pHostTag c.pkt) seq { status := stPreempted }
        let s := s.setCq c.func c.cq
          { q with alloc := (q.alloc + 1) % 2 ^ q.depthLog2, notes := q.notes ++ [(q.alloc, bytes, pIrq c.pkt)]
                   noteSlots := q.noteSlots ++ [q.alloc] }
        flushNotes s c.func c.cq (q.notes.length + 1)
  else s

/-- A command is killed: its PREEMPT event is written, what it took is given back, and it will rerun from its start
with the same sequence number and payload (R274, R271). `cause` is 1 for pre-emption and eviction, 2 for failover;
`why` is the event's WORD1 and `recArg` the recorder's argument. -/
def killCmd (s : State) (seq cause why recArg : Nat) : State :=
  match (s.cmd seq).filter fun c => c.phase ≠ .completing with
  | none => s
  | some c =>
    let k := recKeyOf 7 c
    let jseq := nextSeq s
    let s := journalEvent s 0x01 seq cause why (eventHead k.ctx k.stream k.layer) (pMsc c.pkt)
    let s := if isStepOp c.pkt then killTileWork s (pContext c.pkt) seq else stopTileWork s seq
    let x := s.stream (pContext c.pkt) (pStream c.pkt)
    let s := match x.slot with
      | some k => if isStepOp c.pkt && x.stepSeq = seq then resolveTally s k false else s
      | none => s
    let s := stopStepWork s seq
    let s := dropReserved (freeCmdChains s seq) seq
    let s := s.modCmd seq fun c =>
      { c with phase := .ready, writes := [], written := [], outRange := none, timingEvent := true, pinned := false }
    let s := preemptNote s seq c
    let _ := jseq
    recEvent (count s bankCp 5) 1 0 seq recArg k

/-! ## Ends of commands -/

/-- The output digest of a step that commits: the CRC-64 of its output rows (R491). -/
def outputDigest (c : OpenCmd) (r : Result) : Nat :=
  match c.outRange with
  | some (a, n) => if r.good && n ≠ 0 then crc64 (readBytes a n c.writes) else 0
  | none => 0

/-- A command ends; a step's ARRIVAL and COMMIT records are produced as well (R490). -/
def endCmd (s : State) (seq : Nat) (r : Result) : State :=
  match s.cmd seq with
  | none => s
  | some c =>
    let op := pOpcode c.pkt
    if op = 0x80 || op = 0x81 then
      let (dn, rn, dd, rd) := lookupD (0, 0, 0, 0) seq s.det.arrivals
      let s := recProduce s (recKeyOf 4 c) (recAt 32 4 dn + recAt 36 4 rn + recAt 40 8 dd + recAt 48 8 rd)
      let r' := degradeResult s r
      let s := recProduce s (recKeyOf 5 c)
        (recAt 32 2 r'.status + recAt 34 2 r'.detail + recAt 40 8 r'.word0 + recAt 48 8 r'.word1 +
         recAt 56 8 (outputDigest c r') + recAt 64 8 seq)
      let s := { s with det := { s.det with arrivals := eraseK seq s.det.arrivals } }
      let ctx := pContext c.pkt
      let st := pStream c.pkt
      let s := if c.phase = .working then
          s.modGroup (s.stream ctx st).group fun g => { g with lastEnded := some (pMsc c.pkt, pktBits c.pkt 24 48 10) }
        else s
      completeCmd s seq r
    else completeCmd s seq r

/-! ## Slots -/

/-- A stream is bound to a resident slot (R328, R335). -/
def bindSlot (s : State) (slot ctx st : Nat) : State :=
  let x := s.stream ctx st
  let s := { s with ctx := { s.ctx with slots := insertK slot (streamId ctx st) s.ctx.slots
                                        records := insertK slot (streamId ctx st) s.ctx.records } }
  let s := s.setStream ctx st { x with state := .running, slot := some slot, swapIn := false, progress := s.ticks }
  let s := count s bankCtx 0
  let s := count s bankCtx 1 (b2n x.swapIn)
  count s bankCtx 2 (b2n (x.swapIn && slot ≥ 60))

/-- A stream gives its slot up. -/
def unbindSlot (s : State) (ctx st : Nat) (after : StreamState) : State :=
  let x := s.stream ctx st
  let s := match x.slot with
    | some k => { s with ctx := { s.ctx with slots := eraseK k s.ctx.slots } }
    | none => s
  releaseStale (s.setStream ctx st { x with state := after, slot := none, evictable := false })

/-- A bound stream's step makes progress (R335). -/
def streamProgress (s : State) (ctx st : Nat) : State := s.modStream ctx st fun x => { x with progress := s.ticks }

/-- A stream's step has committed, or ended without commit, its COMPLETE entry durable (R104, R330): its tallies are resolved (R582), and
it lingers in a general slot, and leaves a held-back one (R328, R329). -/
def stepEnds (s : State) (ctx st : Nat) (committed : Bool) : State :=
  let x := s.stream ctx st
  match x.slot with
  | none =>
    if x.state = .closed then s
    else s.setStream ctx st { x with state := .open, stepSeq := 0, swapIn := false, progress := s.ticks }
  | some k =>
    let s := resolveTally s k committed
    let s := s.setStream ctx st
      { x with stepSeq := 0, progress := s.ticks, since := s.ticks, state := .lingering, evictable := false }
    if k ≥ 60 then unbindSlot s ctx st .open else s

/-! ## The scheduler (R327–R334) -/

/-- A waiting stream as the scheduler orders them: higher class, then swap-ins, then the lowest sequence number. -/
def waitsBefore (a b : Stream) : Bool :=
  if a.cls ≠ b.cls then a.cls > b.cls
  else if a.swapIn ≠ b.swapIn then a.swapIn
  else a.stepSeq < b.stepSeq

/-- Insertion into a list of waiting streams in the scheduler's order. -/
def insertWaiting (x : Nat × Nat × Stream) : List (Nat × Nat × Stream) → List (Nat × Nat × Stream)
  | [] => [x]
  | y :: t => if waitsBefore x.2.2 y.2.2 then x :: y :: t else y :: insertWaiting x t

/-- The WAITING streams in the scheduler's order, without those whose context holds MAX_RESIDENT (R327). -/
def waitingStreams (s : State) : List (Nat × Nat × Stream) :=
  (allStreams s).foldl (fun acc x =>
    if x.2.2.state = .waiting &&
        (match s.context x.1 with | some c => residentOf s x.1 < c.maxResident && !c.faulted | none => false)
    then insertWaiting x acc else acc) []

/-- The lowest free general slot (R328). -/
def freeGeneral (s : State) : Option Nat := (upFrom 0 60).find? fun k => !hasK k s.ctx.slots

/-- The bound streams in general slots: (slot, context, stream slot, stream). -/
def generalStreams (s : State) : List (Nat × Nat × Nat × Stream) :=
  (s.ctx.slots.filter fun e => e.1 < 60).map fun e => (e.1, e.2 / 64, e.2 % 64, s.stream (e.2 / 64) (e.2 % 64))

/-- The first of a list under an order, earlier entries winning ties. -/
def bestBy {α : Type} (lt : α → α → Bool) : List α → Option α
  | [] => none
  | a :: t => some (t.foldl (fun b x => if lt x b then x else b) a)

/-- The LINGERING stream that yields: the one that has lingered longest, then the lowest slot (R328). -/
def lingeringChoice (s : State) : Option (Nat × Nat × Nat × Stream) :=
  bestBy (fun a b => a.2.2.2.since < b.2.2.2.since) ((generalStreams s).filter fun e => e.2.2.2.state = .lingering)

/-- The order of victims: oldest last progress, then lowest context ID, then lowest stream slot (R332, R334). -/
def victimBefore (a b : Nat × Nat × Nat × Stream) : Bool :=
  if a.2.2.2.progress ≠ b.2.2.2.progress then a.2.2.2.progress < b.2.2.2.progress
  else if a.2.1 ≠ b.2.1 then a.2.1 < b.2.1
  else a.2.2.1 < b.2.2.1

/-- The stream that a step of class `c` pre-empts (R332): none whose step has ended and only waits for its entry to be durable, since
such a step can be killed no more. -/
def preemptChoice (s : State) (c : Nat) : Option (Nat × Nat × Nat × Stream) :=
  let all := (s.ctx.slots).map fun e => (e.1, e.2 / 64, e.2 % 64, s.stream (e.2 / 64) (e.2 % 64))
  bestBy (fun a b => if a.2.2.2.cls ≠ b.2.2.2.cls then a.2.2.2.cls < b.2.2.2.cls else victimBefore a b)
    (all.filter fun e => e.2.2.2.cls < c && e.2.2.2.state ≠ .pinned &&
      !(s.cmd e.2.2.2.stepSeq).any fun c => c.phase = .completing)

/-- The stream that is evicted, where R334 calls for one. -/
def evictStreamChoice (s : State) : Option (Nat × Nat × Nat × Stream) :=
  let g := generalStreams s
  if g.all fun e => e.2.2.2.state = .blocked || e.2.2.2.state = .pinned then
    bestBy victimBefore (g.filter fun e => e.2.2.2.state = .blocked && e.2.2.2.evictable)
  else none

/-- A stream gives way: its step is killed, its record goes to the state area, its slot is freed (R336). `why` is 1 for
pre-emption by class, 2 for eviction. A step that had not taken effect still has to (R326, R333). -/
def displace (s : State) (ctx st why : Nat) : State :=
  let x := s.stream ctx st
  let blocked := x.state = .blocked
  let begun := (s.cmd x.stepSeq).any fun c => c.phase ≠ .ready
  let s := killCmd s x.stepSeq 1 why why
  let s := unbindSlot s ctx st (if blocked then .evicted else .waiting)
  let s := s.modStream ctx st fun y => { y with swapIn := true, evictable := false }
  let s := s.modCmd x.stepSeq fun c => { c with phase := if begun then .working else c.phase }
  count s bankCtx (if why = 1 then 3 else 4)

/-- A waiting swap-in can take its class's held-back slot (R329). -/
def heldBackFree (s : State) (x : Stream) : Bool := x.swapIn && !hasK (60 + x.cls) s.ctx.slots

/-- What the scheduler does for a waiting stream: it binds it to a free general slot, to a lingering one or, a swap-in, to its class's
held-back slot; else to a slot won by pre-emption or eviction (R328, R329, R332, R334). A stream pre-empted in a held-back slot
frees no slot that the waiting one may take: the scheduler then looks again. -/
def tryBind (s : State) (x : Nat × Nat × Stream) : Option State :=
  match freeGeneral s with
  | some k => some (bindSlot s k x.1 x.2.1)
  | none =>
    match lingeringChoice s with
    | some (k, c, t, _) => some (bindSlot (count (unbindSlot s c t .open) bankCtx 5) k x.1 x.2.1)
    | none =>
      if heldBackFree s x.2.2 then some (bindSlot s (60 + x.2.2.cls) x.1 x.2.1)
      else
        match (if flag s Fld.CTX_CTL_PREEMPT_EN then preemptChoice s x.2.2.cls else none) with
        | some (k, c, t, _) =>
          let s := displace s c t 1
          some (if k < 60 then bindSlot s k x.1 x.2.1 else s)
        | none =>
          match (if flag s Fld.CTX_CTL_EVICT_EN then evictStreamChoice s else none) with
          | some (k, c, t, _) => some (bindSlot (displace s c t 2) k x.1 x.2.1)
          | none => none

/-- The first waiting stream, in order, that the scheduler can act for: the stream and the state after. -/
def scheduleFirst (s : State) : List (Nat × Nat × Stream) → Option ((Nat × Nat) × State)
  | [] => none
  | x :: t => match tryBind s x with
    | some s' => some ((x.1, x.2.1), s')
    | none => scheduleFirst s t

/-- LINGER_EXPIRE (R328): a LINGERING stream with no claim on its slot becomes OPEN. -/
def execLingerExpire (ctx stream : Nat) (s : State) : Out :=
  if (s.stream ctx stream).state = .lingering then .next (unbindSlot s ctx stream .open) else .next s

/-- A runnable step waits that only an eviction can serve: no slot is free or lingering, R332 pre-empts for none, and EVICT_EN is 1
(R334). -/
def evictionDue (s : State) : Bool :=
  let ws := waitingStreams s
  flag s Fld.CTX_CTL_EVICT_EN && (freeGeneral s).isNone && (lingeringChoice s).isNone &&
    ws.any (fun x => !heldBackFree s x.2.2) &&
    !(flag s Fld.CTX_CTL_PREEMPT_EN && ws.any fun x => !heldBackFree s x.2.2 && (preemptChoice s x.2.2.cls).isSome)

/-- STREAM_BLOCK_TIMEOUT (R333): a BLOCKED stream becomes evictable; where a step waits and every general slot is
BLOCKED or PINNED, the scheduler examines the slots again (R334). -/
def execStreamBlockTimeout (ctx stream : Nat) (s : State) : Out :=
  let x := s.stream ctx stream
  if x.state ≠ .blocked then .next s
  else
    let s := s.setStream ctx stream { x with evictable := true }
    if !evictionDue s then .next s
    else match evictStreamChoice s with
      | some (_, c, t, _) => .next (displace s c t 2)
      | none => .next s

/-! ## Closing a stream, teardown -/

/-- STREAM_CLOSE's effect: the return area and the group are released and the slot freed; the generation stays
(R303); a step of it that ends with it leaves no tally open (R582). `torn`: in a teardown. -/
def closeStream (s : State) (ctx st : Nat) (torn : Bool := false) : State :=
  let x := s.stream ctx st
  let committed := (s.cmd x.stepSeq).any fun c => c.phase = .completing && c.result.good
  let s := match x.slot with
    | some k =>
      let s := resolveTally s k committed
      { s with ctx := { s.ctx with slots := eraseK k s.ctx.slots } }
    | none => s
  let s := { s with ctx := { s.ctx with records := s.ctx.records.filter fun e => e.2 ≠ streamId ctx st } }
  let s := match x.retArea with
    | some (key, bufs) => (if torn then freeChain else freeBufs) s key ctx bufs
    | none => s
  let s := unbindGroup s ctx st
  let s := { s with wsp := { s.wsp with windows := eraseK (streamId ctx st) s.wsp.windows } }
  releaseStale (s.setStream ctx st { gen := x.gen })

/-- What faulted a context (R344). -/
structure FaultInfo where
  /-- 1 datapath, 2 Stoker, 3 skip predictor, 4 context table or state area. -/
  source : Nat := 1
  phys : Nat := 0xFF
  /-- Sequence number of the command whose work faulted. -/
  seq : Nat := 0
  cause : Nat := 0
  deriving DecidableEq, Repr

/-- The open commands of a context that have not written their COMPLETE entry. -/
def cmdsOfContext (s : State) (ctx : Nat) : List Nat :=
  (s.cp.cmds.filter fun e => headerOf e.2 != .none && pContext e.2.pkt = ctx && e.2.phase != .completing).map Prod.fst

/-- Teardown of a faulted context, in the order of R343. -/
def teardown (s : State) (ctx : Nat) (i : FaultInfo) : State :=
  match s.context ctx with
  | none => s
  | some c =>
    if c.faulted then s
    else
      let cmds := cmdsOfContext s ctx
      let s := s.setContext ctx { c with faulted := true }
      let s := cmds.foldl (fun s q => dropFabWork (stopStepWork (stopTileWork s q) q) q) s
      let s := cmds.foldl (fun s q => freeCmdChains s q true) s
      let s := (c.streams.filter fun e => e.2.state ≠ .closed).foldl (fun s e => closeStream s ctx e.1 true) s
      let detail := i.phys % 256 + i.source * 2 ^ 8
      let jseq := nextSeq s
      let s := journalEvent s 0x08 i.seq (detail + i.cause % 64 * 2 ^ 16) cmds.length (eventHead ctx 0 0)
      let info := ctx + i.source * 2 ^ 28 + i.phys % 256 * 2 ^ 32
      let s := setRaw s Reg.CTX_ERR_INFO 0 0 info
      let s := raiseErr s Fld.CTX_ERR_FAULT 0 .contained { unit := i.phys, ctx, jrnSeq := jseq, arg := info }
      let s := cmds.foldl (fun s q => endCmd s q
        { status := stContextFault, detail, word0 := i.seq, word1 := i.cause % 64 }) s
      count (count s bankCtx 10) bankCtx 11 cmds.length

/-- A context whose table entry or state area cannot be read is torn down, SOURCE 4; `seq` is the command whose work met
it (R342, R344). -/
def stateAreaFault (seq : Nat) (s : State) (ctx : Nat) : State :=
  teardown (setErr s Fld.CTX_ERR_STATE_UNCORR) ctx { source := 4, phys := 0xFF, seq }

/-- PIN_WATCHDOG (R331): a pinned stream without progress for PIN_WD_MS ends its step as removed, and its group is
broken on this member. -/
def execPinWatchdog (ctx stream : Nat) (s : State) : Out :=
  let x := s.stream ctx stream
  if x.state ≠ .pinned || (s.cmd x.stepSeq).any (fun c => c.phase = .completing) then .next s
  else
    let seq := x.stepSeq
    let s := stopStepWork (stopTileWork s seq) seq
    let s := freeCmdChains s seq
    let s := breakGroup s x.group
    let info := ctx + stream * 2 ^ 18 + 1 * 2 ^ 24
    let s := setRaw s Reg.CTX_ERR_INFO 0 0 info
    let jseq := nextSeq s
    let layer := x.layer.getD 0
    let s := journalEvent s 0x06 seq (removedBroken) 0 (eventHead ctx stream layer) x.msc
    let s := raiseErr s Fld.CTX_ERR_WATCHDOG 0 .contained { ctx, jrnSeq := jseq, arg := info }
    let s := endCmd s seq { status := stGroupReformed, word0 := removedBroken }
    .next (count s bankCtx 9)

end Sys2Proof.Machine
end

