-- ==== Sys2Proof/Machine/Models.lean ====
section
/-!
DEFINITION. Models: what counts as loaded, mask and unavailable bitmaps (R96, R97, R307), and the regions of open
commands (R272, R304).
-/
namespace Sys2Proof.Machine

/-- Programs in both banks. -/
def Tile.programs (x : Tile) : List Program := x.bank0.prog.toList ++ x.bank1.prog.toList

/-- An image of the model is loaded: a bank holds it (R307, R318). The bitmaps outlive the images (R307). -/
def modelLoaded (s : State) (m : Nat) : Bool :=
  hasK m s.models && s.tiles.any fun e => e.2.programs.any fun p => p.model = m

/-- The page lies in a destination region of an open command (R381): it is not written back. -/
def pageInDest (s : State) (p : Nat) : Bool :=
  s.cp.cmds.any fun e => (e.2.dest ++ e.2.written).any fun d => rangesMeet d.1 d.2 (p * pageBytes) pageBytes

/-- An expert of a model becomes unavailable at its owner (R97, R98, R394): the owner marks it and queues
the loss for announcement; its bit is set from the layer step after the one that announces it. -/
def makeUnavailable (s : State) (model expert page : Nat) : State :=
  match lookup model s.models with
  | none => s
  | some m =>
    if m.unavailable.contains expert || m.marked.contains expert then s
    else
      let s := { s with models := insertK model { m with marked := insertSorted expert m.marked } s.models }
      let info := page + 31 * 2 ^ 27 + 2 * 2 ^ 32 + expert * 2 ^ 36
      let s := setRaw (setRaw s Reg.WSP_ERR_INFO 0 0 info) Reg.WSP_ERR_INFO2 0 0 model
      let s := raiseErr s Fld.WSP_ERR_EXPERT_LOST 0 .declared { addr := page, arg := info }
      announceLost (count s bankWsp 9) model expert

/-- The line that holds an address is poisoned (R459). -/
def poisonedAt (s : State) (a : Nat) : Bool := s.flk.poisoned.contains (a / 256)

/-- A read has met a poisoned line of a page (R459, R471). -/
def meetPoison (s : State) (p : Nat) : State :=
  match s.flk.poisoned.find? fun l => pageOf (l * 256) = p with
  | none => s
  | some l =>
    let info := s.flk.rank % 8 + 2 * 2 ^ 4 + l % 2 ^ 28 * 2 ^ 32
    raiseErr (setRaw s Reg.FLK_ERR_INFO 0 0 info) Fld.FLK_ERR_POISON_READ 0 .contained { addr := p, arg := info }

/-- A reader meets a LOST page, or a poisoned line of one that is not (R394, R459): PAGE_LOST is set, and the expert of an
EXPERT-tagged page becomes unavailable. -/
def meetLost (s : State) (p : Nat) : State :=
  let s := wspErr s Fld.WSP_ERR_PAGE_LOST p
  match s.page p with
  | none => s
  | some d =>
    let s := if d.lost then s else meetPoison s p
    if d.tag = 2 then makeUnavailable s d.model d.expert p else s

/-- The range lies inside a STAGE region of an image of the model on a logical tile (R383, R387). -/
def stageRegionCovers (s : State) (model tile spad len : Nat) : Bool :=
  match lookup tile s.ras.l2p with
  | none => false
  | some t => (lookupD {} t s.tiles).programs.any fun p =>
      p.model = model && p.regions.any fun r => r.kind = 4 && r.base ≤ spad && spad + len ≤ r.base + r.len

/-- No layer step of the context has taken effect in the model step yet (R305). -/
def beginsModelStep (s : State) (ctx msc : Nat) : Bool :=
  match s.context ctx with
  | some c => !c.streams.any fun e =>
      e.2.layer.isSome && e.2.msc = msc && !(s.cmd e.2.stepSeq).any fun c => c.phase = .ready
  | none => false

/-- A change of the repair map is to be written to both copies of the repair store (R504). -/
def repairChange (s : State) : State := { s with ras := { s.ras with storePending := s.ras.storePending + 1 } }

end Sys2Proof.Machine
end

