-- ==== Sys2Proof/Machine/CommandsAdmin.lean ====
section
/-!
DEFINITION. The administration commands and the commands on contexts, streams and Hopper pools: preconditions
(R298–R302), what they do when they take effect, and what changes at their commit (R298–R303, R346–R354).
-/
namespace Sys2Proof.Machine

/-- A command with no work of its own: its preconditions pass and it ends with ST_OK. -/
def endsOk (s : State) (seq : Nat) (w0 : Nat := 0) (w1 : Nat := 0) : State := completeWith s seq stOk 0 w0 w1

/-! ## NOP and queues -/

/-- NOP (R296). -/
def execNop (seq : Nat) (s : State) : Out := runCmd s seq 0x00 (fun _ => none) fun _ => endsOk s seq

/-- QUEUE of a queue command. -/
def qNum (p : Packet) : Nat := pktBits p 32 0 10

/-- SQ_CREATE (R298). -/
def execSqCreate (seq : Nat) (s : State) : Out :=
  runCmd s seq 0x02 (fun c => firstFail [((s.sq c.func (qNum c.pkt)).isSome, { num := 1 }),
    ((s.cq c.func (pktBits c.pkt 34 0 10)).isNone, { num := 2 })]) fun _ => endsOk s seq

/-- SQ_DELETE (R298). -/
def execSqDelete (seq : Nat) (s : State) : Out :=
  runCmd s seq 0x03 (fun c => firstFail [((s.sq c.func (qNum c.pkt)).isNone, { num := 1 })]) fun _ => endsOk s seq

/-- CQ_CREATE (R298). -/
def execCqCreate (seq : Nat) (s : State) : Out :=
  runCmd s seq 0x04 (fun c => firstFail [((s.cq c.func (qNum c.pkt)).isSome, { num := 1 })]) fun _ => endsOk s seq

/-- An SQ of the function is bound to CQ `q`. -/
def cqBound (s : State) (f q : Nat) : Bool := s.cp.sqs.any fun e => e.1 / 1024 = f && e.2.cq = q

/-- CQ_DELETE (R298). -/
def execCqDelete (seq : Nat) (s : State) : Out :=
  runCmd s seq 0x05 (fun c =>
    match s.cq c.func (qNum c.pkt) with
    | none => some { num := 1 }
    | some q => firstFail [(cqBound s c.func (qNum c.pkt), { num := 2 }),
        (q.reserved ≠ 0 || q.groupReserved ≠ 0, { num := 3 })]) fun _ => endsOk s seq

/-- What SQ_CREATE makes at commit (R298). -/
def commitSqCreate (s : State) (c : OpenCmd) : State :=
  let x : Sq := { base := pktBits c.pkt 24 12 52 * 4096, depthLog2 := pktBits c.pkt 36 0 5, cq := pktBits c.pkt 34 0 10 }
  send (s.setSq c.func (qNum c.pkt) x) (.write c.func (x.base + 64 * 2 ^ x.depthLog2) (leBytes 8 0))

/-- What SQ_DELETE removes at commit (R298). -/
def commitSqDelete (s : State) (c : OpenCmd) : State :=
  let s := detachSq s c.func (qNum c.pkt)
  { s with cp := { s.cp with sqs := eraseK (qKey c.func (qNum c.pkt)) s.cp.sqs } }

/-- What CQ_CREATE makes at commit (R298). -/
def commitCqCreate (s : State) (c : OpenCmd) : State :=
  let p := c.pkt
  let x : Cq := { base := pktBits p 24 12 52 * 4096, depthLog2 := pktBits p 36 0 5,
                  vector := if pktBits p 38 15 1 = 1 then some (pktBits p 38 0 11) else none,
                  aggCount := pktBits p 40 0 8, aggTime := pktBits p 42 0 10 }
  send (s.setCq c.func (qNum p) x) (.write c.func (x.base + 32 * 2 ^ x.depthLog2) (leBytes 8 0))

/-- What CQ_DELETE removes at commit (R298). A packet that waits on its own for this CQ gets its entry all the same, and no reply (R279). -/
def commitCqDelete (s : State) (c : OpenCmd) : State :=
  { s with cp := { s.cp with
    cqs := eraseK (qKey c.func (qNum c.pkt)) s.cp.cqs
    orphans := s.cp.orphans.map fun o => if o.func = c.func && o.cq = qNum c.pkt then { o with cq := noCq } else o } }

/-! ## CANCEL -/


/-- CANCEL (R299): the old and new generation are its answer; the change is made at commit. -/
def execCancel (seq : Nat) (s : State) : Out :=
  runCmd s seq 0x08 (fun c => firstFail [((ctxFor s c.func (cancelCtx c.pkt)).isNone, { num := 1 }),
    ((s.stream (cancelCtx c.pkt) (cancelStream c.pkt)).state = .closed, { num := 2 })]) fun c =>
    let g := (s.stream (cancelCtx c.pkt) (cancelStream c.pkt)).gen
    endsOk s seq (g + (g + 1) % 2 ^ 16 * 2 ^ 16)

/-! ## The journal image -/

/-- The 128 bytes of a journal entry (R276). -/
def JEntry.bytes (e : JEntry) : List Byte :=
  leBytes 8 e.seq ++ leBytes 4 e.epoch ++ leBytes 1 (e.kind % 16) ++ leBytes 1 e.code ++
  leBytes 2 (e.queue % 1024 + e.func * 1024) ++ leBytes 2 e.slot ++ leBytes 2 e.status ++ leBytes 2 e.detail ++
  leBytes 2 e.rslot ++ leBytes 8 e.ref ++ leBytes 8 e.msc ++ leBytes 8 e.time ++ leBytes 8 e.word0 ++
  leBytes 8 e.word1 ++ leBytes 64 e.body.toNat

/-- JOURNAL_FLUSH (R300): the copy to NAND starts: of every entry from JRN_OLDEST to the flush's own ACCEPT entry. -/
def execJournalFlush (seq : Nat) (s : State) : Out :=
  runCmd s seq 0x09 (fun _ => none) fun _ =>
    (startWork s seq).modCmd seq fun c => { c with image := s.cp.journal.ring.filter fun e => e.seq ≤ seq }

/-- The flush's copy ends: the image replaces the previous one;
or the NAND write failed and the previous image stays (R300). -/
def finishJournalFlush (s : State) (seq : Nat) (failed : Bool) : State :=
  if failed then completeWith s seq stUncorrectable
  else
    let image := match s.cmd seq with | some c => c.image | none => []
    let s := count { s with cp := { s.cp with nand := { s.cp.nand with image, flushEpoch := s.cp.journal.epoch } } } bankNtl 1
      (nandUnits 0 (128 * image.length))
    endsOk s seq s.cp.journal.epoch image.length

/-- JOURNAL_FETCH (R301): entries of the flush image go to host memory. -/
def execJournalFetch (seq : Nat) (s : State) : Out :=
  runCmd s seq 0x0A (fun c => firstFail [(s.cp.nand.flushEpoch = 0, { num := 1 }),
    (pktBits c.pkt 32 0 32 + pktBits c.pkt 36 0 32 > s.cp.nand.image.length, { num := 2 })]) fun c =>
    let es := (s.cp.nand.image.drop (pktBits c.pkt 32 0 32)).take (pktBits c.pkt 36 0 32)
    let s := count s bankNtl 0 (nandUnits (128 * pktBits c.pkt 32 0 32) (128 * es.length))
    endsOk (send s (.write c.func (pktBits c.pkt 24 0 64) (es.flatMap JEntry.bytes))) seq s.cp.nand.flushEpoch

/-! ## Contexts -/

/-- The context descriptor of R321. -/
structure CtxDesc where
  stateAddr : Nat
  seed : Nat
  diePref : Nat
  stepTiles : Nat
  maxResident : Nat
  reservedOk : Bool
  deriving DecidableEq, Repr

/-- The descriptor that 64 bytes spell. -/
def ctxDesc (bs : List Byte) : CtxDesc :=
  { stateAddr := fieldOf bs 0 0 48, seed := fieldOf bs 8 0 64, diePref := fieldOf bs 16 0 4,
    stepTiles := fieldOf bs 17 0 8, maxResident := fieldOf bs 18 0 7,
    reservedOk := fieldOf bs 0 48 16 = 0 && fieldOf bs 16 4 4 = 0 && fieldOf bs 18 7 1 = 0 &&
      (bs.drop 19).all fun b => b = 0 }

/-- Whether a descriptor fails its checks, and the page address it reports (R322). -/
def ctxDescFails (s : State) (f : Nat) (d : CtxDesc) : Option Nat :=
  if !d.reservedOk || d.stepTiles = 0 || enabledTiles s < d.stepTiles || d.maxResident = 0 || 64 < d.maxResident ||
      d.stateAddr % 2 ^ 16 ≠ 0 then some 0
  else
    let p := pageOf d.stateAddr
    match pageFor s f p with
    | none => some (p * pageBytes)
    | some x => if !x.inDram || !x.pin || x.ctxHeld then some (p * pageBytes) else none

/-- CTX_CREATE (R302, R322). -/
def execCtxCreate (seq : Nat) (s : State) : Out :=
  runCmd s seq 0x20 (fun c =>
    if (s.context (pContext c.pkt)).isSome then some { num := 1 }
    else (ctxDescFails s c.func (ctxDesc (c.payload.getD []))).map fun a => { num := 2, word0 := a })
    fun _ => endsOk s seq

/-- What CTX_CREATE makes at commit (R303, R320, R323). -/
def commitCtxCreate (s : State) (c : OpenCmd) : State :=
  let d := ctxDesc (c.payload.getD [])
  let id := pContext c.pkt
  let s := cacheContext (s.setContext id
    { func := c.func, cls := pClass c.pkt, stateAddr := d.stateAddr, seed := d.seed, diePref := d.diePref,
      stepTiles := d.stepTiles, maxResident := d.maxResident }) id
  s.modPage (pageOf d.stateAddr) fun x => { x with context := id, ctxHeld := true }

/-- CTX_DESTROY (R302). -/
def execCtxDestroy (seq : Nat) (s : State) : Out :=
  runCmd s seq 0x21 (fun c =>
    match ctxFor s c.func (pContext c.pkt) with
    | none => some { num := 1 }
    | some x => firstFail [(x.streams.any fun e => e.2.state != .closed, { num := 2 })]) fun _ => endsOk s seq

/-- A context is gone: its chains and figures, its state area's mark, its entry (R303, R323). -/
def destroyContext (s : State) (id : Nat) : State :=
  let s := dropContextHoldings s id
  let s := match s.context id with
    | some x => s.modPage (pageOf x.stateAddr) fun d => { d with context := 0, ctxHeld := false }
    | none => s
  { s with ctx := { s.ctx with table := eraseK id s.ctx.table } }

/-! ## Streams -/

/-- Buffers of a return area (R353). -/
def retAreaBufs (kMax row8 bufBytes : Nat) : Nat := ceilDiv (kMax * 16384 * 8 * row8) bufBytes

/-- STREAM_OPEN's preconditions 1 to 5 (R302). -/
def streamOpenPre (s : State) (c : OpenCmd) : Option PreFail :=
  let p := c.pkt
  let g := pktBits p 24 0 16
  match ctxFor s c.func (pContext p) with
  | none => some { num := 1 }
  | some _ =>
    firstFail [((s.stream (pContext p) (pStream p)).state != .closed, { num := 2 }),
      (g ≠ 0 && !expertGroup s g, { num := 3 }), (g ≠ 0 && groupBound s g, { num := 4 }),
      (g ≠ 0 && (s.pool (poolKey c.func (pktBits p 32 0 10))).isNone, { num := 5 })]

/-- STREAM_OPEN (R302, R303): its return area is taken when it takes effect; the rest is made at commit. -/
def execStreamOpen (seq : Nat) (s : State) : Out :=
  runCmd s seq 0x22 (streamOpenPre s) fun c =>
    let p := c.pkt
    let g := pktBits p 24 0 16
    let gen := ((s.stream (pContext p) (pStream p)).gen + 1) % 2 ^ 16
    if g = 0 then endsOk s seq gen
    else
      let key := poolKey c.func (pktBits p 32 0 10)
      let bb := match s.pool key with | some q => q.bufBytes | none => 1
      match allocBufs s key (pContext p) (retAreaBufs (pktBits p 30 0 2) (pktBits p 28 0 14) bb) with
      | .inl (e, s) => completeWith s seq e.status 6
      | .inr (bufs, s) => endsOk (s.modCmd seq fun c => { c with chains := [(key, bufs)] }) seq gen

/-- What STREAM_OPEN makes at commit (R303). -/
def commitStreamOpen (s : State) (seq : Nat) (c : OpenCmd) : State :=
  let p := c.pkt
  let g := pktBits p 24 0 16
  let x := s.stream (pContext p) (pStream p)
  let s := s.modCmd seq fun c => { c with chains := [] }
  let s := s.setStream (pContext p) (pStream p)
    { state := .open, gen := (x.gen + 1) % 2 ^ 16, group := g,
      kMax := if g = 0 then 0 else pktBits p 30 0 2, retRow8 := if g = 0 then 0 else pktBits p 28 0 14,
      routeArea := if g = 0 then 0 else pktBits p 40 0 48, retArea := c.chains.head?, progress := x.progress }
  bindGroup s g (pContext p) (pStream p)

/-- STREAM_CLOSE (R302). -/
def execStreamClose (seq : Nat) (s : State) : Out :=
  runCmd s seq 0x23 (fun c => firstFail [((ctxFor s c.func (pContext c.pkt)).isNone ||
    (s.stream (pContext c.pkt) (pStream c.pkt)).state = .closed, { num := 1 })]) fun _ => endsOk s seq

/-! ## Pools -/


/-- The page is free for a pool's run (R362). -/
def pageUnmapped (s : State) (p : Nat) : Bool := (s.page p).isNone && !jrnPage s p

/-- The lowest run of `n` free page numbers at or above `p` and below `lim`, looking at `fuel` more numbers; `have_`
is how many free pages end at `p`. -/
def findRun (s : State) (n lim p have_ : Nat) : Nat → Option Nat
  | 0 => none
  | k + 1 =>
    if have_ = n then some (p - n)
    else if lim ≤ p then none
    else if pageUnmapped s p then findRun s n lim (p + 1) (have_ + 1) k
    else findRun s n lim (p + 1) 0 k

/-- The pages a pool of function `f` may lie in: below 32,768, and a virtual function's within its range and its BAR2
window (R362, R565). -/
def poolRange (s : State) (f : Nat) : Nat × Nat :=
  if f = 0 then (0, 32768)
  else
    let b := fld s Fld.HIF_FN_WSP_PAGE_BASE f
    let n := min (fld s Fld.HIF_FN_WSP_PAGE_COUNT f) (2 ^ fld s Fld.HIF_CTL_VF_BAR2_LOG2 / pageBytes)
    (b, min 32768 (b + n))

/-- Where a pool's run would lie, if pages and frames allow it (R302, R362). -/
def poolRun (s : State) (f die bufBytes n : Nat) : Option Nat :=
  let pages := poolBufPages bufBytes n + poolLinkPages n
  let (lo, hi) := poolRange s f
  if freeOnDie s die < pages then none else findRun s pages hi lo 0 (hi - lo + 1)

/-- A run of module-held pages is backed by frames on a die (R362). -/
def holdPages (s : State) (die p : Nat) : Nat → State
  | 0 => s
  | n + 1 =>
    match bestStackOn s die with
    | none => s
    | some st =>
      match lowestFrame s st with
      | none => s
      | some fr =>
        let d : Page := { module := true, stack1 := st, frame1 := fr, pref := 31 }
        holdPages (takeFrame (s.setPage p d) st fr p) die (p + 1) n

/-- Pages of the run that a POOL_CREATE asks for (R347). -/
def poolPages (p : Packet) : Nat := poolBufPages (pktBits p 28 0 32) (pktBits p 32 0 32) + poolLinkPages (pktBits p 32 0 32)

/-- The lowest run that fits is taken, and its frames on the die, so that nothing else can have them before the commit (R362). -/
def reservePool (s : State) (seq : Nat) (c : OpenCmd) : State :=
  let p := c.pkt
  match poolRun s c.func (pktBits p 26 0 2) (pktBits p 28 0 32) (pktBits p 32 0 32) with
  | none => s
  | some first =>
    (holdPages s (pktBits p 26 0 2) first (poolPages p)).modCmd seq fun x => { x with reserved := some (first, poolPages p) }

/-- POOL_CREATE (R302): its pages are reserved and its pool is set up. -/
def execPoolCreate (seq : Nat) (s : State) : Out :=
  runCmd s seq 0x28 (fun c =>
    let p := c.pkt
    firstFail [((s.pool (poolKey c.func (pktBits p 24 0 10))).isSome, { num := 1 }),
      ((poolRun s c.func (pktBits p 26 0 2) (pktBits p 28 0 32) (pktBits p 32 0 32)).isNone,
        { num := 2, status := stNoFit })]) fun c => reservePool (startWork s seq) seq c

/-- What POOL_CREATE makes at commit, on the pages it has reserved (R347, R348, R350). -/
def commitPoolCreate (s : State) (c : OpenCmd) : State :=
  let p := c.pkt
  match c.reserved with
  | none => s
  | some (first, n) =>
    let s := { s with wsp := { s.wsp with dram := clearRange (first * pageBytes) (n * pageBytes) s.wsp.dram } }
    s.setPool (poolKey c.func (pktBits p 24 0 10))
      { count := pktBits p 32 0 32, bufBytes := pktBits p 28 0 32, die := pktBits p 26 0 2, ring := pktBits p 26 2 1 = 1
        firstPage := first }

/-- POOL_QUOTA (R302); WORD0 returns the context's QUOTA (R357). -/
def execPoolQuota (seq : Nat) (s : State) : Out :=
  runCmd s seq 0x29 (fun c =>
    let p := c.pkt
    match s.pool (poolKey c.func (pktBits p 24 0 10)) with
    | none => some { num := 1 }
    | some q =>
      let others := (q.quotas.map fun e => if e.1 = pContext p then 0 else e.2.min).foldl (· + ·) 0
      firstFail [(pktBits p 32 0 32 < pktBits p 28 0 32, { num := 2 }),
        (q.count < others + pktBits p 28 0 32, { num := 3, status := stNoFit })]) fun c =>
    endsOk s seq (pktBits c.pkt 32 0 32)

/-- What POOL_QUOTA sets at commit: nothing is reclaimed (R303, R354). -/
def commitPoolQuota (s : State) (c : OpenCmd) : State :=
  let p := c.pkt
  let key := poolKey c.func (pktBits p 24 0 10)
  match s.pool key with
  | none => s
  | some q =>
    let lim := pktBits p 32 0 32
    s.setPool key (q.setQuota (pContext p)
      { q.quotaOf (pContext p) with min := pktBits p 28 0 32
                                    quota := if lim = 0xFFFFFFFF then none else some lim })

/-- BUF_FREE (R302, R352). -/
def execBufFree (seq : Nat) (s : State) : Out :=
  runCmd s seq 0x2A (fun c =>
    firstFail [((findChain s c.func (pContext c.pkt) (pktBits c.pkt 24 0 64)).isNone, { num := 1 })])
    fun _ => endsOk s seq

/-- What BUF_FREE frees at commit. -/
def commitBufFree (s : State) (c : OpenCmd) : State :=
  match findChain s c.func (pContext c.pkt) (pktBits c.pkt 24 0 64) with
  | none => s
  | some (key, x) => dropChain s key x

/-- POOL_DESTROY (R302). -/
def execPoolDestroy (seq : Nat) (s : State) : Out :=
  runCmd s seq 0x2B (fun c =>
    match s.pool (poolKey c.func (pktBits c.pkt 24 0 10)) with
    | none => some { num := 1 }
    | some q => firstFail [(!q.links.isEmpty, { num := 2 })]) fun _ => endsOk s seq

/-- A pool is gone, with its run of pages. -/
def destroyPool (s : State) (key : Nat) : State :=
  match s.pool key with
  | none => s
  | some q =>
    let s := releasePages s q.firstPage (poolBufPages q.bufBytes q.count + poolLinkPages q.count)
    placeReplicas { s with hop := { s.hop with pools := eraseK key s.hop.pools } }

end Sys2Proof.Machine
end

