-- ==== Sys2Proof/Machine/FabSend.lean ====
section
/-!
DEFINITION. The wire forms of the exchange header (R117) and of REMOTE and FLASK packets (R456), and the hand-over of a
packet to the shaping hierarchy (R465, R466).
-/
namespace Sys2Proof.Machine

/-- Little-endian number of the field at bytes `off`, `n` long. -/
def byteField (bs : List Byte) (off n : Nat) : Nat := leNat ((bs.drop off).take n)

/-- The bytes padded with zeros to a multiple of eight (R414, LEN). -/
def padTo8 (bs : List Byte) : List Byte := bs ++ List.replicate ((8 - bs.length % 8) % 8) 0

/-! ## The exchange header (R117) -/

/-- Bytes 24–31 of the exchange header by kind (R117, R122, R137, R139, R143). -/
def exTail (p : ExPkt) : Nat :=
  if p.kind = 1 || p.kind = 2 then
    p.slot % 2 ^ 16 + p.expSlot % 2 ^ 12 * 2 ^ 16 + p.choice % 2 * 2 ^ 28 + p.token % 2 ^ 14 * 2 ^ 32 + p.frag % 2 ^ 16 * 2 ^ 48
  else if p.kind = 3 then p.frag % 2 ^ 16 * 2 ^ 48
  else if p.kind = 4 then p.rank % 2 ^ 11 + p.frag / 2 ^ 16 % 2 ^ 16 * 2 ^ 16 + p.frag % 2 ^ 16 * 2 ^ 48
  else if p.kind = 5 then p.rank % 2 ^ 11 + p.rank2 % 2 ^ 11 * 2 ^ 16 + p.aux % 2 ^ 32 * 2 ^ 32
  else if p.kind = 7 then p.aux % 2 ^ 32
  else if p.kind = 11 then p.rank % 2 ^ 11
  else 0

/-- The bits of bytes 24–31 that a kind gives a meaning. -/
def exTailMask (kind : Nat) : Nat :=
  if kind = 1 || kind = 2 then 0xFFFF3FFF1FFFFFFF
  else if kind = 3 then 0xFFFF000000000000
  else if kind = 4 then 0xFFFF0000FFFF07FF
  else if kind = 5 then 0xFFFFFFFF07FF07FF
  else if kind = 7 then 0xFFFFFFFF
  else if kind = 11 then 0x7FF
  else 0

/-- The payload of a Runner packet: its exchange header and its data (R117). -/
def encodeEx (p : ExPkt) : List Byte :=
  padTo8 (leBytes 1 (p.kind % 16 + b2n p.hollow * 16) ++ leBytes 1 p.destTile ++ leBytes 2 p.group ++ leBytes 2 p.reforms ++
    leBytes 2 p.gen ++ leBytes 8 p.mscSeq ++ leBytes 4 p.hash ++ leBytes 2 (p.srcRank % 2 ^ 11) ++
    leBytes 2 (p.layer % 2 ^ 10) ++ leBytes 8 (exTail p) ++ p.data)

/-- A Runner packet read from its payload; none where it is malformed or its KIND is reserved (R117, R508). -/
def parseEx (epoch : Nat) (bs : List Byte) : Option ExPkt :=
  let b0 := byteField bs 0 1
  let kind := b0 % 16
  let hollow := bitOf b0 4
  let tail := byteField bs 24 8
  let gen := byteField bs 6 2
  let destTile := byteField bs 1 1
  let bad := bs.length < 32 || kind = 0 || 12 < kind || 32 ≤ b0 || (hollow && kind != 1) ||
    2 ^ 11 ≤ byteField bs 20 2 || 2 ^ 10 ≤ byteField bs 22 2 || tail &&& exTailMask kind != tail ||
    ((2 < kind) && gen != 0) || (2 < kind && kind != 12 && destTile != 0)
  if bad then none
  else
    let p : ExPkt := {
      epoch, kind, hollow, destTile, group := byteField bs 2 2, reforms := byteField bs 4 2, gen
      mscSeq := byteField bs 8 8, hash := byteField bs 16 4, srcRank := byteField bs 20 2, layer := byteField bs 22 2
      slot := if kind ≤ 2 then tail % 2 ^ 16 else 0
      expSlot := if kind ≤ 2 then bitsOf tail 16 12 else 0
      choice := if kind ≤ 2 then bitsOf tail 28 1 else 0
      token := if kind ≤ 2 then bitsOf tail 32 14 else 0
      frag := if kind ≤ 3 then bitsOf tail 48 16 else if kind = 4 then bitsOf tail 48 16 + bitsOf tail 16 16 * 2 ^ 16 else 0
      rank := if kind = 4 || kind = 5 || kind = 11 then bitsOf tail 0 11 else 0
      rank2 := if kind = 5 then bitsOf tail 16 11 else 0
      aux := if kind = 5 then bitsOf tail 32 32 else if kind = 7 then bitsOf tail 0 32 else 0
      data := bs.drop 32 }
    some p

/-! ## REMOTE and FLASK packets (R456) -/

/-- The payload of a REMOTE or FLASK packet. -/
def encodeRm (p : RmPkt) : List Byte :=
  padTo8 (leBytes 1 p.op ++ leBytes 1 p.tid ++ leBytes 1 (p.rank % 8) ++ leBytes 1 (p.type % 4 + p.aop % 4 * 4) ++
    leBytes 4 (p.dlen % 2 ^ 13) ++ leBytes 6 p.addr ++ leBytes 2 p.flask ++ p.data)

/-- A REMOTE or FLASK packet read from its payload; none where a reserved bit is set or it is too short (R456). -/
def parseRm (remote : Bool) (bs : List Byte) : Option RmPkt :=
  let rank := byteField bs 2 1
  let t := byteField bs 3 1
  let dlen := byteField bs 4 4
  let op := byteField bs 0 1
  let opOk := if remote then 1 ≤ op && op ≤ 5
    else (0x10 ≤ op && op ≤ 0x14) || (0x20 ≤ op && op ≤ 0x27 && op != 0x23)
  if bs.length < 16 || 8 ≤ rank || 16 ≤ t || 4096 < dlen || !opOk ||
      (remote && (rank != 0 || byteField bs 14 2 != 0)) then none
  else
    let p : RmPkt := { op, tid := byteField bs 1 1, rank, type := t % 4, aop := t / 4, dlen
                       addr := byteField bs 8 6, flask := byteField bs 14 2, data := bs.drop 16 }
    some p

/-! ## Handing a packet to the shaper -/

/-- The endpoint is set and not fenced: it sends (R432). -/
def mayInject (s : State) : Bool := flag s Fld.XRT_EP_VALID && !flag s Fld.XRT_EP_FENCED

/-- A packet of function `func` enters the shaping hierarchy at a slice, or bypasses it (R465, R466). -/
def sendPkt (s : State) (func slice : Nat) (owner : Owner) (p : XlPkt) : State :=
  if !mayInject s && !(p.kind = 3 && flag s Fld.XRT_EP_VALID) then s
  else
    let sub := fld s Fld.SHP_SUB_MAP_SUBSCRIBER (8 * func + p.tc)
    let svc := fld s Fld.SHP_SUB_CFG_SERVICE sub
    let exempt := p.kind ≠ 0 || bitOf (fld s Fld.SHP_CTL_EXEMPT_TC) p.tc
    let pkt := { p with src := endpointId s, epoch := if p.kind = 0 || p.kind = 4 then curEpoch s else p.epoch
                        shapeTag := if exempt then 0 else sub + svc * 2 ^ 10 }
    let o : Outgoing := { pkt, owner, slice, sub, svc, exempt }
    if exempt then { s with fab := { s.fab with inject := s.fab.inject ++ [o] } }
    else { s with fab := { s.fab with held := s.fab.held ++ [o] } }

/-- The class of a Runner packet's kind: 0 CTRL, 1 COUNT, 2 DISPATCH, 3 RETURN, 4 BULK (R149, R508). -/
def exchangeClass (kind : Nat) : Nat := if kind = 1 then 2 else if kind = 2 then 3 else if kind = 3 then 1 else if kind = 4 then 4 else 0

/-- The virtual channel of a Runner packet's class, by the map that the latest operation started with (R149, R150,
R508). -/
def exchangeTc (s : State) (kind : Nat) : Nat := bitsOf s.xch.classMap (4 * exchangeClass kind) 3

/-- A Runner packet leaves for another endpoint (R117, R149). -/
def sendEx (s : State) (func slice dest : Nat) (owner : Owner) (p : ExPkt) : State :=
  let x : XlPkt := { proto := 0, tc := exchangeTc s p.kind, dest, dslice := slice % 4, payload := encodeEx p }
  sendPkt s func slice owner x

end Sys2Proof.Machine
end

