-- ==== Sys2Proof/Machine/FlaskAccess.lean ====
section
/-!
DEFINITION. The flask as accesses meet it (R450–R459): the aperture, the cache of other members' lines, the home
directory of this module's window, and the transactions that bring a line to where it is wanted.
-/
namespace Sys2Proof.Machine

/-! ## What a read meets -/

/-- A line that an access wants first: of another rank's window, or (rank 8) of this module's own. -/
structure LineNeed where
  rank : Nat
  line : Nat
  write : Bool
  deriving DecidableEq, Repr

/-- What a read by an engine, the Stoker or a command meets. -/
inductive Rd where
  | ok (bs : List Byte)
  /-- A cause of TIL_FAULT, and its address. -/
  | fault (cause addr : Nat)
  /-- Pages without a DRAM copy: the read waits for their fetch (R390). -/
  | absent (pages : List Nat)
  /-- Lines to be fetched, recalled or invalidated first (R452, R454). -/
  | lines (ls : List LineNeed)
  /-- A LOST page (R394). -/
  | lost (page : Nat)
  deriving DecidableEq, Repr

/-- Two reads one after the other. -/
def Rd.append : Rd → Rd → Rd
  | .ok a, .ok b => .ok (a ++ b)
  | .ok _, r => r
  | .absent p, .absent q => .absent (p ++ q)
  | .absent p, .ok _ => .absent p
  | .absent p, .lines _ => .absent p
  | .absent _, r => r
  | .lines p, .lines q => .lines (p ++ q)
  | .lines p, .ok _ => .lines p
  | .lines _, r => r
  | r, _ => r

/-! ## Where an address lies (R450) -/

/-- Bytes of a line (R452). -/
def lineBytes : Nat := 256
/-- Lines of the flask cache: 16 MiB (R452). -/
def cacheLines : Nat := 65536

def inAperture (a : Nat) : Bool := apertureBase ≤ a && a < 2 ^ 48
/-- A rank is a member that has not left and is not lost (R451). -/
def rankUp (s : State) (r : Nat) : Bool :=
  inFlask s && r < s.flk.members.length && !s.flk.left.contains r && !s.flk.lost.contains r
/-- The key of a line in the flask cache. -/
def lineKey (rank line : Nat) : Nat := rank * 2 ^ 28 + line

/-- How one line's bytes are reached. -/
inductive LineAcc where
  /-- At this weight-space address. -/
  | plain (addr : Nat)
  /-- At this weight-space address of this module's own window. -/
  | window (addr line : Nat)
  /-- In the flask cache, under this key. -/
  | cached (key : Nat)
  | need (n : LineNeed)
  | lost (page : Nat)
  deriving DecidableEq, Repr

/-- An access to this module's own window, at offset `off` of it (R454, R459). -/
def ownLine (s : State) (write whole : Bool) (a off : Nat) : LineAcc :=
  let l := off / lineBytes
  let e := lookupD {} l s.flk.dir
  if e.owner.isSome || (write && !e.sharers.isEmpty) then .need ⟨8, l, write⟩
  else if poisonedAt s a && !(write && whole) then .lost (pageOf a)
  else .window a l

/-- How an access reaches address `a`; `whole` says that it covers its line. -/
def lineAcc (s : State) (write whole : Bool) (a : Nat) : LineAcc :=
  if inAperture a then
    let r := (a - apertureBase) / windowBytes
    let off := (a - apertureBase) % windowBytes
    let l := off / lineBytes
    if inFlask s && r = s.flk.rank then ownLine s write whole (s.flk.window + off) off
    else if !rankUp s r then .lost (pageOf a)
    else match lookup (lineKey r l) s.flk.cache with
      | none => .need ⟨r, l, write⟩
      | some c =>
        if c.data.isEmpty && !(write && whole) then .lost (pageOf a)
        else if write && !c.modified then .need ⟨r, l, true⟩ else .cached (lineKey r l)
  else if inFlask s && s.flk.window ≤ a && a < s.flk.window + windowBytes then
    ownLine s write whole a (a - s.flk.window)
  else if poisonedAt s a && !(write && whole) then .lost (pageOf a)
  else .plain a

/-- A range cut at line boundaries: address and length of each piece. -/
def linePieces (a n : Nat) : List (Nat × Nat) :=
  if n = 0 then [] else
  (upFrom (a / lineBytes) ((a + n - 1) / lineBytes - a / lineBytes + 1)).map fun l =>
    let lo := max a (l * lineBytes)
    (lo, min (a + n) ((l + 1) * lineBytes) - lo)

/-- The range has to do with a flask, or with lines that one has left poisoned. -/
def touchesFlask (s : State) (a n : Nat) : Bool :=
  apertureBase < a + n || !s.flk.poisoned.isEmpty || (inFlask s && rangesMeet a n s.flk.window windowBytes)

/-- Bytes at `a` as command `seq` reads them from the flask cache: those that another command may be writing, and has not committed, are
free values (R271, R453). -/
def seenBytes (s : State) (seq : Nat) : Nat → List Byte → List Byte
  | _, [] => []
  | a, b :: t => (if openTo s seq a then Config.openByte s.free a else b) :: seenBytes s seq (a + 1) t

/-- A read by command `seq` (0: by no command's own work) of `n` bytes at `a`, where `plain` reads this module's own weight space
(R450–R454). -/
def coherentRead (s : State) (seq : Nat) (plain : Nat → Nat → Rd) (a n : Nat) : Rd :=
  if !touchesFlask s a n then plain a n
  else (linePieces a n).foldl (fun acc p => acc.append (match lineAcc s false false p.1 with
    | .plain a => plain a p.2
    | .window a _ => plain a p.2
    | .cached k => .ok (seenBytes s seq p.1 (((lookupD {} k s.flk.cache).data.drop (p.1 % lineBytes)).take p.2))
    | .need x => .lines [x]
    | .lost pg => .lost pg)) (.ok [])

/-- What a write of `n` bytes at `a` wants first, or the LOST page it meets (R451, R454). -/
def coherentReady (s : State) (a n : Nat) : Rd :=
  if !touchesFlask s a n then .ok []
  else (linePieces a n).foldl (fun acc p => acc.append (match lineAcc s true (p.2 = lineBytes) p.1 with
    | .plain _ => .ok []
    | .window _ _ => .ok []
    | .cached _ => .ok []
    | .need x => .lines [x]
    | .lost pg => .lost pg)) (.ok [])

/-- A write whose lines are held: into the cache, into the window at once, or by `plain` elsewhere (R453). What other
readers of this module, and the members that ask its home for the line, see of a command's bytes before it commits is open (R271): a free
value (`seenBytes`, `byteFor`). A written line that leaves the cache for its home carries the bytes written, since it is then the only
copy of what the commit makes defined (R452). -/
def coherentWrite (s : State) (plain : State → Nat → List Byte → State) (a : Nat) (bs : List Byte) (all : Bool := false) :
    State :=
  if !touchesFlask s a bs.length then plain s a bs
  else (linePieces a bs.length).foldl (fun s p =>
    let piece := (bs.drop (p.1 - a)).take p.2
    match lineAcc s true (p.2 = lineBytes) p.1 with
    | .plain a => plain s a piece
    | .window a _ => wspStore true s a piece all
    | .cached k =>
      let put := fun (c : FlaskLine) =>
        { c with data := c.data.take (p.1 % lineBytes) ++ piece ++ c.data.drop (p.1 % lineBytes + p.2) }
      { s with flk := { s.flk with cache := modifyK k put s.flk.cache } }
    | _ => s) s

/-! ## Packets (R456, R464) -/

/-- The function that a FLASK packet's work belongs to: the one that issued FLASK_JOIN or FLASK_LEAVE, for the packets of a join or a
leave (R465); function 0 for the packets of coherence and for LOST (DESIGN CHOICE: they serve the flask, and R465 names no function
for them). -/
def flaskFunc (s : State) (op : Nat) : Nat :=
  if op < 0x14 then ((s.flk.cmd.bind fun q => lookup q s.cp.cmds).map OpenCmd.func).getD 0 else 0

/-- A FLASK packet to a rank: requests in REQ_TC, responses in RSP_TC (R456, R457, R464). -/
def sendFlask (s : State) (rank op tid addr : Nat) (data : List Byte) (order : Bool) : State :=
  let rsp := op = 0x26 || op = 0x27
  let tc := fld s (if rsp then Fld.FLK_CFG_RSP_TC else Fld.FLK_CFG_REQ_TC)
  let p : RmPkt := { op, tid, rank := s.flk.rank, dlen := data.length, addr, flask := s.flk.id, data }
  sendPkt s (flaskFunc s op) 0 (.flask rank)
    { proto := 2, tc, order, dest := s.flk.members.getD rank 0, dslice := 0, payload := encodeRm p }

/-- Lowest transaction ID free toward a rank (R457). -/
def freeTid (s : State) (rank : Nat) : Option Nat :=
  (upFrom 0 256).find? fun t => !hasK (rank * 256 + t) s.flk.txns

/-- A transaction opened toward a rank; without a free entry it is not (R457). -/
def openTxn (s : State) (rank op line : Nat) (data : List Byte) : Option (Nat × State) :=
  match freeTid s rank with
  | none => none
  | some tid =>
    let t : FlaskTxn := { op, line, data, at_ := s.ticks }
    let s := { s with flk := { s.flk with txns := insertK (rank * 256 + tid) t s.flk.txns } }
    let s := if op = 0x20 then count s bankFlk 0 else if op = 0x21 then count s bankFlk 1
      else if op = 0x22 then count s bankFlk 2 else s
    some (tid, sendFlask s rank op tid (line * lineBytes) data (op = 0x22))

/-- The member has a transaction of this op open for a line. -/
def txnOpen (s : State) (rank line : Nat) (p : Nat → Bool) : Bool :=
  s.flk.txns.any fun e => e.1 / 256 = rank && e.2.line = line && p e.2.op

/-- Lines that the cache holds, and that requests have asked for (R452). -/
def linesTaken (s : State) : Nat :=
  s.flk.cache.length + (s.flk.txns.filter fun e => e.2.op = 0x20 || e.2.op = 0x21).length

/-- Room for one more line in the cache: an S line is dropped, or an M line written back, of the module's own choice; none where no
transaction entry is free to write it back, and the request waits (R452, R457). -/
def makeLineRoom (s : State) : Option State :=
  if linesTaken s < cacheLines then some s
  else
    let (d, s) := drawFree s
    match s.flk.cache[Config.freeChoice d 0 % s.flk.cache.length]? with
    | none => none
    | some (k, c) =>
      let gone := { s with flk := { s.flk with cache := eraseK k s.flk.cache } }
      if !c.modified then some gone else (openTxn gone (k / 2 ^ 28) 0x22 (k % 2 ^ 28) c.data).map Prod.snd

/-! ## The home (R455, R457) -/

/-- The line's directory entry. -/
def dirOf (s : State) (l : Nat) : DirEntry := lookupD {} l s.flk.dir
/-- The directory with a line's entry; one that nobody holds is dropped. -/
def setDir (s : State) (l : Nat) (e : DirEntry) : State :=
  { s with flk := { s.flk with
    dir := if e.owner.isNone && e.sharers.isEmpty then eraseK l s.flk.dir else insertK l e s.flk.dir } }

/-- Lines of the same directory set (R455): 32,768 sets of 16. -/
def sameSet (a b : Nat) : Bool := a % 32768 = b % 32768

/-- The least recently granted line of a set. -/
def oldestOf (s : State) (l : Nat) : Option Nat :=
  (s.flk.dir.filter fun e => sameSet e.1 l).foldl (fun acc e => match acc with
    | none => some e.1
    | some k => if e.2.granted < (dirOf s k).granted then some e.1 else some k) none

/-- Whether a transaction at the home is first for its line. -/
def homeTurn (hs : List HomeTxn) (i : Nat) : Bool :=
  match hs[i]? with
  | none => false
  | some h => !(hs.take i).any fun g => g.line = h.line

/-- The members that must give a line up before `h` is answered: rank, and INV or RECALL. -/
def homeCalls (s : State) (h : HomeTxn) : List (Nat × Nat) :=
  let e := dirOf s h.line
  (match e.owner with | some o => if o = h.rank then [] else [(o, 0x25)] | none => []) ++
    (if h.op = 0x21 then (e.sharers.filter (· ≠ h.rank)).map fun r => (r, 0x24) else [])

/-- The line's 256 bytes at the home; none where the page is not mapped or LOST, or the line poisoned (R459). -/
def homeBytes (s : State) (l : Nat) : List Byte :=
  let a := s.flk.window + l * lineBytes
  match s.page (pageOf a) with
  | none => []
  | some d => if d.lost || poisonedAt s a then [] else wspBytes s a lineBytes

/-- Does the home's line wait for a page that has only a NAND copy (R448)? -/
def homeAbsent (s : State) (l : Nat) : List Nat := absentPages s (s.flk.window + l * lineBytes) lineBytes

/-- The home answers a request whose line nobody else holds against it (R455, R457). -/
def homeGrant (s : State) (h : HomeTxn) : State :=
  if h.rank = 8 then s
  else
    let e := dirOf s h.line
    let g := s.flk.grants + 1
    let s := { s with flk := { s.flk with grants := g } }
    let s := if h.op = 0x21 then setDir s h.line { owner := some h.rank, sharers := [], granted := g }
      else if e.owner = some h.rank then setDir s h.line { owner := none, sharers := [h.rank], granted := g }
      else setDir s h.line { e with sharers := insertSorted h.rank e.sharers, granted := g }
    sendFlask s h.rank 0x26 h.tid (h.line * lineBytes) (homeBytes s h.line) false

/-- One transaction at the home moves as far as it can: it calls the line back, makes room in a full set, waits for a
page, or is answered and leaves. -/
def homeStep (s : State) (i : Nat) : State :=
  match s.flk.home[i]? with
  | none => s
  | some h =>
    let put (s : State) (h : HomeTxn) : State :=
      { s with flk := { s.flk with home := s.flk.home.set i h } }
    if !homeTurn s.flk.home i then s
    else if !h.started then
      let h := { h with started := true }
      let (s, ws) := (homeCalls s h).foldl (fun (acc : State × List (Nat × Nat)) c =>
        match openTxn acc.1 c.1 c.2 h.line [] with
        | some (tid, s) => (s, acc.2 ++ [(c.1, tid)])
        | none => acc) (s, [])
      put s { h with waits := ws }
    else if !h.waits.isEmpty then s
    else if !(homeCalls s h).isEmpty then put s { h with started := false }
    else if h.rank ≠ 8 && !hasK h.line s.flk.dir &&
        16 ≤ (s.flk.dir.filter fun e => sameSet e.1 h.line).length then
      if s.flk.minor = 0 then s
      else match oldestOf s h.line with
        | none => s
        | some v =>
          if s.flk.home.any fun g => g.line = v then s
          else
            let s := count (timingOpen s) bankFlk 6
            { s with flk := { s.flk with home := s.flk.home ++ [{ rank := 8, op := 0x21, line := v }] } }
    else match homeAbsent s h.line with
      | p :: ps =>
        if h.rank = 8 then { s with flk := { s.flk with home := s.flk.home.eraseIdx i } }
        else (p :: ps).foldl (fun s p => queueMove s { kind := .demand, page := p }) s
      | [] =>
        let s := { s with flk := { s.flk with home := s.flk.home.eraseIdx i } }
        homeGrant s h

/-- Every transaction at the home moves as far as it can. -/
def homePump (s : State) : State :=
  let pass (s : State) : State := (upFrom 0 s.flk.home.length).reverse.foldl homeStep s
  pass (pass (pass s))

/-- An INV or RECALL that the home sent has ended: by DATA, stored in the window, or by ACK (R457). -/
def homeEnded (s : State) (rank tid : Nat) (data : List Byte) : State :=
  match lookup (rank * 256 + tid) s.flk.txns with
  | none => s
  | some t =>
    let s := { s with flk := { s.flk with txns := eraseK (rank * 256 + tid) s.flk.txns } }
    let e := dirOf s t.line
    let s := if data.isEmpty then s else wspStore true s (s.flk.window + t.line * lineBytes) data
    let s := setDir s t.line { e with owner := if e.owner = some rank then none else e.owner
                                      sharers := e.sharers.filter (· ≠ rank) }
    let drop := fun (h : HomeTxn) => { h with waits := h.waits.filter (· ≠ (rank, tid)) }
    homePump { s with flk := { s.flk with home := s.flk.home.map drop } }

/-! ## Asking for lines -/

/-- A line is asked for, unless it is being fetched already (R452, R454, R457). -/
def askLine (s : State) (n : LineNeed) : State :=
  if n.rank = 8 then
    let op := if n.write then 0x21 else 0x20
    if s.flk.home.any fun h => h.rank = 8 && h.line = n.line && (h.op = op || h.op = 0x21) then s
    else homePump { s with flk := { s.flk with home := s.flk.home ++ [{ rank := 8, op, line := n.line }] } }
  else if txnOpen s n.rank n.line (fun _ => true) then s
  else match makeLineRoom s with
    | none => s
    | some room => match openTxn room n.rank (if n.write then 0x21 else 0x20) n.line [] with
      | some (_, s) => count s bankFlk 5
      | none => s

/-- Every line an access wants is asked for. -/
def askLines (s : State) (ls : List LineNeed) : State := ls.eraseDups.foldl askLine s

/-- The lines of this module's own window that accesses to ranges call in first (R454). -/
def windowLines (s : State) (write : Bool) (rs : List (Nat × Nat)) : List LineNeed :=
  rs.flatMap fun d => match (if write then coherentReady s d.1 d.2 else coherentRead s 0 (fun _ _ => .ok []) d.1 d.2) with
    | .lines ls => ls
    | _ => []

/-- Lines of the cache that an access finds held (R472). -/
def cacheHits (s : State) (a n : Nat) : Nat :=
  if !touchesFlask s a n then 0
  else ((linePieces a n).filter fun p => match lineAcc s false false p.1 with
    | .cached _ => true
    | _ => false).length

end Sys2Proof.Machine
end

