-- ==== Sys2Proof/Machine/Mesh.lean ====
section
/-!
DEFINITION. The die mesh (R24, R27): its stops, the fixed route between two of them, and its three classes of buffers.
-/
namespace Sys2Proof.Machine

/-- A stop of the die mesh: one per physical tile, one per routing engine, four bridge stops (R22, R24). -/
inductive MeshStop where
  | tile (phys : Nat)
  | engine (n : Nat)
  | bridge (die : Nat)
  deriving DecidableEq, Repr

/-- The three classes of the mesh (R24). -/
inductive MeshClass where
  | request | response | exchange
  deriving DecidableEq, Repr

/-- Row and column of a stop. Row 0 is the north edge, rows 1–19 are the tile rows, row 20 is the south edge (R18, R22); which
column of its pair an edge stop has is the model's (DESIGN CHOICE). -/
def MeshStop.place : MeshStop → Nat × Nat
  | .tile t => (t / 8 + 1, t % 8)
  | .engine n => (if n < 2 then 0 else 20, 2 * n)
  | .bridge d => (20, 2 * d + 1)

/-- The number of a place. -/
def placeNo (p : Nat × Nat) : Nat := p.1 * 8 + p.2

/-- The numbers passed from `a`, left out, to `b`. -/
def along (a b : Nat) : List Nat := if a < b then upFrom (a + 1) (b - a) else (upFrom b (a - b)).reverse

/-- The places after the first on the way between two: along the row first and then along the column (R24). -/
def meshRoute (a b : Nat × Nat) : List (Nat × Nat) :=
  (along a.2 b.2).map (fun c => (a.1, c)) ++ (along a.1 b.1).map fun r => (r, b.2)

/-- The buffers of a class. -/
def MeshState.buffers (m : MeshState) : MeshClass → Table (List MeshPkt)
  | .request => m.request
  | .response => m.response
  | .exchange => m.exchange

/-- The mesh with other buffers of a class: those of the other classes stay (R24). -/
def MeshState.withBuffers (m : MeshState) (c : MeshClass) (b : Table (List MeshPkt)) : MeshState :=
  match c with
  | .request => { m with request := b }
  | .response => { m with response := b }
  | .exchange => { m with exchange := b }

/-- A packet joins the end of a stop's buffer. -/
def meshPush (at_ : Nat) (p : MeshPkt) (b : Table (List MeshPkt)) : Table (List MeshPkt) :=
  insertK at_ (lookupD [] at_ b ++ [p]) b

/-- The first packet of a stop's buffer leaves it. -/
def meshPop (at_ : Nat) (b : Table (List MeshPkt)) : Option MeshPkt × Table (List MeshPkt) :=
  match lookupD [] at_ b with
  | [] => (none, b)
  | p :: t => (some p, if t.isEmpty then eraseK at_ b else insertK at_ t b)

/-- The first packet of a stop's buffer moves to the next stop. -/
def meshHop (from_ to_ : Nat) (b : Table (List MeshPkt)) : Table (List MeshPkt) :=
  match meshPop from_ b with
  | (none, b) => b
  | (some p, b) => meshPush to_ p b

/-- Hops along a way. -/
def meshHops : Nat → List Nat → Table (List MeshPkt) → Table (List MeshPkt)
  | _, [], b => b
  | a, n :: t, b => meshHops n t (meshHop a n b)

/-- A packet crosses the mesh in a class's buffers: it enters at its first stop, passes every stop of its route and leaves at its
last. The crossing takes no time that anything else can meet (R25, R27: the mesh changes latency only). -/
def meshCarry (s : State) (c : MeshClass) (a b : MeshStop) (p : ExPkt) : State :=
  let src := a.place
  let dst := b.place
  let way := (meshRoute src dst).map placeNo
  let m : MeshPkt := { src := placeNo src, dest := placeNo dst, pkt := p }
  let bufs := meshHops (placeNo src) way (meshPush (placeNo src) m (s.xch.mesh.buffers c))
  let bufs := (meshPop (placeNo dst) bufs).2
  { s with xch := { s.xch with mesh := s.xch.mesh.withBuffers c bufs } }

/-- The bridge stop above the base die whose stack holds an address's page (R25). -/
def bridgeOf (s : State) (a : Nat) : MeshStop :=
  match s.page (pageOf a) with
  | some d => .bridge (if d.stack1 < 24 then dieOfStack d.stack1 else 0)
  | none => .bridge 0

/-- A tile's access to DRAM crosses the mesh (R25): the request on its way down. -/
def meshAsk (s : State) (t a : Nat) : State := meshCarry s .request (.tile t) (bridgeOf s a) {}
/-- The response of DRAM crosses the mesh to its tile (R25). -/
def meshAnswer (s : State) (t a : Nat) : State := meshCarry s .response (bridgeOf s a) (.tile t) {}

end Sys2Proof.Machine
end

