-- ==== Sys2Proof/Machine/ElemFn.lean ====
section
/-!
DEFINITION. Division, square root and the element functions (R65, R177, R599). A function's FP32 value is the exact
value rounded once with RNE; the model finds it by bounding the exact value more and more closely until both bounds
round alike.
-/
namespace Sys2Proof.Machine

/-- Bits kept below the unit of any destination when a quotient or root is cut short. -/
def guardBits : Nat := 64

/-- The quotient of two finite values, the divisor not zero, cut short with a sticky mark (R65). -/
def divMag (s : Bool) (m n : Nat) (u v : Int) : Val :=
  if m = 0 then Val.zero
  else
    let k := Nat.log2 n + guardBits + 320
    let a := m <<< k
    .num s (a / n) (u - v - k) (a % n ≠ 0)

/-- Division, correctly rounded at the write-out; where the spec states no result (a zero divisor), the operands' own
free value (R65, R177). DESIGN CHOICE: the spec states no result for an infinite operand either; the model takes the
limit's (infinity over infinity NaN, infinity over a number a signed infinity, a number over infinity zero). -/
def Val.div : Val → Val → Val
  | .nan, _ => .nan
  | _, .nan => .nan
  | .inf _, .inf _ => .nan
  | .inf s, .num t _ _ _ => .inf (s != t)
  | .num s _ _ _, .inf t => .num (s != t) 0 0 false
  | .num s m u _, .num t n v _ =>
    if n = 0 then decodeFloat fmtFp32 (Config.divOpen ((Val.num s m u false).inUnits (min u (-300))) (b2n t)).toNat
    else divMag (s != t) m n u v

/-- Integer square root: the largest r with r × r ≤ n, by bits. -/
def isqrtBits (n r : Nat) : Nat → Nat
  | 0 => r
  | k + 1 => let t := r + 2 ^ k; isqrtBits n (if t * t ≤ n then t else r) k

/-- Integer square root. -/
def isqrt (n : Nat) : Nat := isqrtBits n 0 (Nat.log2 n / 2 + 1)

/-- Square root, cut short with a sticky mark; where the spec states no result (a negative number), the operand's own
free value (R65, R177). -/
def Val.sqrt : Val → Val
  | .nan => .nan
  | .inf s => if s then decodeFloat fmtFp32 (Config.sqrtOpen (-1) 0).toNat else .inf false
  | .num s m u _ =>
    if m = 0 then Val.zero
    else if s then decodeFloat fmtFp32 (Config.sqrtOpen (-(m : Int)) u).toNat
    else
      let sh := 2 * (guardBits + 320) + (if u % 2 = 0 then 0 else 1)
      let a := m <<< sh
      let r := isqrt a
      .num false r ((u - sh) / 2) (r * r ≠ a)

/-! ## Bounded evaluation, in fixed point with P fraction bits -/

/-- A fixed-point number divided by 2^k, toward −∞. -/
def fxShr (a : Int) (k : Nat) : Int := a >>> k
/-- Product of two fixed-point numbers. -/
def fxMul (P : Nat) (a b : Int) : Int := (a * b) >>> P
/-- Quotient of two fixed-point numbers, the divisor positive. -/
def fxDiv (P : Nat) (a b : Int) : Int := (a <<< P) / b
/-- A dyadic value in fixed point. -/
def fxOf (P : Nat) (neg : Bool) (m : Nat) (u : Int) : Int :=
  let k := u + P
  let a : Int := if k ≥ 0 then (m <<< k.toNat : Nat) else (m >>> (-k).toNat : Nat)
  if neg then -a else a

/-- Σ of r^i / i! for i = 0 … n, by Horner's rule from the last term. -/
def fxExpSeries (P : Nat) (r : Int) : Nat → Nat → Int
  | 0, _ => (1 : Int) <<< P
  | k + 1, i => ((1 : Int) <<< P) + fxMul P r (fxExpSeries P r k (i + 1)) / i

/-- `a` squared `n` times. -/
def fxSquare (P : Nat) (a : Int) : Nat → Int
  | 0 => a
  | n + 1 => fxSquare P (fxMul P a a) n

/-- e^x for |x| below 2^9. -/
def fxExp (P : Nat) (x : Int) : Int := fxSquare P (fxExpSeries P (fxShr x 12) (P / 6 + 8) 1) 12

/-- Σ of t^(2i+1) / (2i+1), `n` terms from t. -/
def fxAtanhSeries (P : Nat) (t t2 : Int) (k : Nat) : Nat → Int
  | 0 => 0
  | n + 1 => t / k + fxAtanhSeries P (fxMul P t t2) t2 (k + 2) n

/-- atanh t for |t| ≤ 1/3. -/
def fxAtanh (P : Nat) (t : Int) : Int := fxAtanhSeries P t (fxMul P t t) 1 (P / 3 + 8)

/-- ln 2. -/
def fxLn2 (P : Nat) : Int := 2 * fxAtanh P (((1 : Int) <<< P) / 3)

/-- Σ of (−1)^i t^(2i+1) / (2i+1). -/
def fxAtanSeries (P : Nat) (t t2 : Int) (k : Nat) : Nat → Int
  | 0 => 0
  | n + 1 => t / k - fxAtanSeries P (fxMul P t t2) t2 (k + 2) n

/-- π by Machin's formula. -/
def fxPi (P : Nat) : Int :=
  let at_ := fun (d : Int) => let t := ((1 : Int) <<< P) / d; fxAtanSeries P t (fxMul P t t) 1 (P / 4 + 8)
  16 * at_ 5 - 4 * at_ 239

/-- The FP32 bits of a fixed-point number with RNE and no saturation (R65). -/
def fxFp32 (P : Nat) (a : Int) : Nat :=
  if a = 0 then 0 else encodeFloat fmtFp32 0x87 0 (.num (a < 0) a.natAbs (-P) true)

/-- The bound on a bounded evaluation's error: a relative and an absolute part. -/
def fxErr (P : Nat) (a : Int) : Int := ((a.natAbs >>> (P / 3) : Nat) : Int) + ((2 ^ 40 : Nat) : Int)

/-- The FP32 value once both bounds round alike; the sign of a value that rounds to zero is `neg` (R65). -/
def settle (P : Nat) (a : Int) (neg : Bool) : Option Nat :=
  let e := fxErr P a
  let lo := fxFp32 P (a - e)
  let hi := fxFp32 P (a + e)
  let z := fun (b : Nat) => b % 2 ^ 31 = 0
  if lo = hi || (z lo && z hi) then some (if z hi then (if neg then 2 ^ 31 else 0) else hi) else none

/-- Evaluation at rising precision; where three do not settle it, the input's own free value. -/
def settleAt (fn : Nat) (s : Bool) (m : Nat) (u : Int) (neg : Bool) (f : Nat → Int) : Val :=
  match settle 512 (f 512) neg with
  | some b => decodeFloat fmtFp32 b
  | none => match settle 1024 (f 1024) neg with
    | some b => decodeFloat fmtFp32 b
    | none => match settle 2048 (f 2048) neg with
      | some b => decodeFloat fmtFp32 b
      | none => decodeFloat fmtFp32 (Config.elemOpen fn ((Val.num s m u false).inUnits (min u (-300))) 1).toNat

/-- `|x| ≥ n` for a finite magnitude. -/
def magGe (m : Nat) (u : Int) (n : Nat) : Bool := !magGt n 0 m u

/-- The element functions (R599). -/
inductive ElemFn where
  | exp | log | rsqrt | sigmoid | tanh | geluTanh | silu
  deriving DecidableEq, Repr

/-- e^x. -/
def expVal (s : Bool) (m : Nat) (u : Int) : Val :=
  if magGe m u 128 then (if s then Val.zero else .inf false)
  else settleAt 0 s m u false fun P => fxExp P (fxOf P s m u)

/-- ln x for x > 0. -/
def logVal (m : Nat) (u : Int) : Val :=
  let k := Nat.log2 m
  if m = 2 ^ k && u + k = 0 then Val.zero
  else
    -- m' in [3/4, 3/2)
    let big := 2 * m ≥ 3 * 2 ^ k
    let e : Int := u + k + b2n big
    let den : Nat := if big then 2 ^ (k + 1) else 2 ^ k
    settleAt 1 false m u (e < 0 || (e = 0 && m < den)) fun P =>
      let t := (((m : Int) - den) <<< P) / ((m : Int) + den)
      e * fxLn2 P + 2 * fxAtanh P t

/-- 1 ÷ √x for x > 0, as its FP32 value. -/
def rsqrtVal (m : Nat) (u : Int) : Val :=
  let odd := u % 2 ≠ 0
  let m := if odd then 2 * m else m
  let u := if odd then u - 1 else u
  -- floor of 2^k ÷ √m
  let k := Nat.log2 m + guardBits
  let a := 2 ^ (2 * k) / m
  let r := isqrt a
  decodeFloat fmtFp32 (encodeFloat fmtFp32 0x87 0 (.num false r (-(u / 2) - k) (r * r * m ≠ 2 ^ (2 * k))))

/-- x ÷ (1 + e^(−y)), with y in fixed point. -/
def fxGate (P : Nat) (x y : Int) : Int :=
  let one := (1 : Int) <<< P
  if y ≥ 0 then fxDiv P x (one + fxExp P (-y))
  else let e := fxExp P y; fxDiv P (fxMul P x e) (one + e)

/-- 2 × √(2 ÷ π) × (x + 0.044715 x³), kept within ±256. -/
def fxGeluArg (P : Nat) (s : Bool) (m : Nat) (u : Int) : Int :=
  let x := fxOf P s m u
  let cube := fxMul P (fxMul P x x) x
  let inner := x + cube * 44715 / 1000000
  let c2 := fxDiv P ((2 : Int) <<< P) (fxPi P)
  let c : Int := isqrt ((c2 <<< P).toNat)
  2 * fxMul P c inner

/-- The FP32 value of a number a little below m × 2^u, by far less than its last bit (R65). -/
def justBelow (m : Nat) (u : Int) : Val :=
  decodeFloat fmtFp32 (encodeFloat fmtFp32 0x87 0 (.num false ((m <<< guardBits) - 1) (u - guardBits) true))

/-- The FP32 value of an element function (R65, R599). -/
def elemFn (f : ElemFn) : Val → Val
  | .nan => .nan
  | .inf s =>
    match f with
    | .exp => if s then Val.zero else .inf false
    | .log => if s then .nan else .inf false
    | .rsqrt => if s then .nan else Val.zero
    | .sigmoid => if s then Val.zero else .ofInt 1 0
    | .tanh => .ofInt (if s then -1 else 1) 0
    | .geluTanh => if s then .num true 0 0 false else .inf false
    | .silu => if s then .num true 0 0 false else .inf false
  | .num s m u _ =>
    if m = 0 then
      match f with
      | .exp => .ofInt 1 0
      | .log => .inf true
      | .rsqrt => .inf s
      | .sigmoid => .num false 1 (-1) false
      | _ => .num s 0 0 false
    else
      match f with
      | .exp => expVal s m u
      | .log => if s then .nan else logVal m u
      | .rsqrt => if s then .nan else rsqrtVal m u
      | .sigmoid =>
        if magGe m u 128 then (if s then Val.zero else .ofInt 1 0)
        else settleAt 3 s m u false fun P => fxGate P ((1 : Int) <<< P) (fxOf P s m u)
      | .tanh =>
        if magGe m u 64 then .ofInt (if s then -1 else 1) 0
        else settleAt 4 s m u s fun P =>
          let e := fxExp P (2 * fxOf P s m u)
          fxDiv P (e - ((1 : Int) <<< P)) (e + ((1 : Int) <<< P))
      | .geluTanh =>
        if magGe m u 16 then (if s then .num true 0 0 false else justBelow m u)
        else settleAt 5 s m u s fun P => fxGate P (fxOf P s m u) (fxGeluArg P s m u)
      | .silu =>
        if magGe m u 256 then (if s then .num true 0 0 false else justBelow m u)
        else settleAt 6 s m u s fun P => fxGate P (fxOf P s m u) (fxOf P s m u)

/-- An element function's value as an instruction writes it directly: −0 keeps its sign (R64, R65, R599). -/
def fnResult (f : ElemFn) (v : Val) : Val :=
  match elemFn f v with
  | .num true 0 _ _ => Val.negZero
  | r => r

/-- RELU and RELU2, exact (R177). -/
def relu (v : Val) : Val :=
  match v with
  | .nan => .nan
  | v => if v.leZero then Val.zero else v
def relu2 (v : Val) : Val := (relu v).mul (relu v)

end Sys2Proof.Machine
end

