-- ==== Sys2Proof/Machine/Programs.lean ====
section
/-!
DEFINITION. Program images and the loader's checks (R213–R223, R237–R246), and the descriptors that a program binds
(R69, R70, R119, R120, R192, R193).
-/
namespace Sys2Proof.Machine

/-- `n` bytes of a byte string at `off`, as a number. -/
def num (bs : List Byte) (off n : Nat) : Nat := leNat ((bs.drop off).take n)

/-! ## RIC words (R237–R240) -/

/-- An OPERAND word's fields (R240). -/
structure RawOp where
  role : Nat
  space : Nat
  agd : Nat
  baseReg : Nat
  cntReg : Nat
  dynLevel : Nat
  fmt : Nat
  spare : Nat
  deriving DecidableEq, Repr

def rawOp (w : Nat) : RawOp :=
  { role := bitsOf w 8 2, space := bitsOf w 10 2, agd := bitsOf w 12 13, baseReg := bitsOf w 25 5,
    cntReg := bitsOf w 30 5, dynLevel := bitsOf w 35 3, fmt := bitsOf w 38 4, spare := bitsOf w 42 22 }

/-- A SHAPE word's fields (R240). -/
def shapeOf (w : Nat) : ShapeW :=
  { shape := bitsOf w 8 2, col := bitOf w 10, transposed := bitOf w 11, seg := bitsOf w 12 2,
    rows := bitsOf w 14 7, neurons := bitsOf w 21 9, packed := bitOf w 30, k := bitsOf w 31 20 }

/-- Groups of a shape (R167). -/
def ShapeW.groups (s : ShapeW) : Nat := 2 ^ s.shape
/-- Segments (R170). -/
def ShapeW.segs (s : ShapeW) : Nat := 2 ^ s.seg

/-- An engine command word with its extension words (R239). -/
structure RawCmd where
  word : Nat
  exts : List Nat
  deriving DecidableEq, Repr

def RawCmd.engine (c : RawCmd) : Nat := bitsOf c.word 4 2
def RawCmd.op (c : RawCmd) : Nat := bitsOf c.word 6 6
def RawCmd.xwords (c : RawCmd) : Nat := bitsOf c.word 27 3
def RawCmd.woc (c : RawCmd) : Nat := bitsOf c.word 30 8
def RawCmd.fmtA (c : RawCmd) : Nat := bitsOf c.word 38 4
def RawCmd.fmtB (c : RawCmd) : Nat := bitsOf c.word 42 4
def RawCmd.fn (c : RawCmd) : Nat := bitsOf c.word 46 8
/-- Its OPERAND words in order. -/
def RawCmd.ops (c : RawCmd) : List RawOp := (c.exts.filter fun w => bitsOf w 4 4 = 0).map rawOp
/-- Its SHAPE words. -/
def RawCmd.shapes (c : RawCmd) : List ShapeW := (c.exts.filter fun w => bitsOf w 4 4 = 1).map shapeOf
def RawCmd.isPass (c : RawCmd) : Bool := c.engine = 0 && c.op = 0
/-- The first operand of a role. -/
def RawCmd.role (c : RawCmd) (r : Nat) : Option RawOp := c.ops.find? fun o => o.role = r

/-- The word at a CODE index; past the end, zero. -/
def wordAt (code : List Word) (i : Nat) : Nat := (code.getD i 0).toNat

/-- The engine command at a CODE index. -/
def rawCmd (code : List Word) (i : Nat) : RawCmd :=
  let w := wordAt code i
  { word := w, exts := (upFrom (i + 1) (bitsOf w 27 3)).map (wordAt code) }

/-! ## Generator descriptors (R241) -/

/-- A generator descriptor as stored. -/
structure Gen where
  base : Nat
  levels : Nat
  unit : Nat
  counts : List Nat
  strides : List Int
  spare : Nat
  deriving DecidableEq, Repr

/-- The generator descriptor at an AGD of the constant area. -/
def genAt (const : List Byte) (agd : Nat) : Gen :=
  let d := 8 * agd
  let q0 := num const d 8
  let q1 := num const (d + 8) 8
  let l := bitsOf q0 48 3
  { base := bitsOf q0 0 48, levels := l, unit := bitsOf q1 0 16,
    counts := (upFrom 0 (min l 6)).map fun i => bitsOf (num const (d + 16 + 8 * i) 8) 0 17
    strides := (upFrom 0 (min l 6)).map fun i => signedOf 32 (bitsOf (num const (d + 16 + 8 * i) 8) 32 32)
    spare := bitsOf q0 51 13 + bitsOf q1 16 48 +
      ((upFrom 0 (min l 6)).map fun i => bitsOf (num const (d + 16 + 8 * i) 8) 17 15).foldl (· + ·) 0 }

/-- Units a generator visits. -/
def Gen.total (g : Gen) : Nat := g.counts.foldl (· * ·) 1

/-- Lowest and highest byte offset a generator touches at its ceilings, BASE_REG taken as zero (R219). -/
def Gen.extent (g : Gen) : Int × Int :=
  (g.counts.zip g.strides).foldl (fun acc cs =>
    let span : Int := ((cs.1 : Int) - 1) * cs.2
    if span < 0 then (acc.1 + span, acc.2) else (acc.1, acc.2 + span)) ((g.base : Int), (g.base : Int) + g.unit)

/-! ## Formats of an array pair (R52, R158, R159) -/

/-- Chunk length of a pair (R159): streamed format, stationary format, packed; `none` where the array does not accept
the pair. -/
def chunkLen (a b : Nat) (packed : Bool) : Option Nat :=
  let mx8 := fun f => f = fmtE4M3 || f = fmtE5M2
  let base : Option Nat :=
    if a = 0 && (b = 0 || b = 3) then some 128
    else if (a = 1 || a = 2) && b = 3 then some 64
    else if mx8 a && mx8 b then some 64
    else if a = 5 && b = 5 then some 64
    else if a = 8 && b = 8 then some 64
    else if a = 6 && b = 6 then some 16
    else none
  match base with
  | none => none
  | some k => if packed then (if isMx a then some (2 * k) else none) else some k

/-- Bytes of 256 logical elements of an array operand (R243). -/
def arrayUnit (fmt : Nat) (packed : Bool) : Nat :=
  if packed then packedBytes fmt else if isMx fmt then segBytes fmt else 256 * elemBytes fmt

/-! ## Checks of an engine command -/

/-- Roles a command carries, in order of role number; C twice for SELECT (R177, R240). -/
def rolesOf (engine op : Nat) : Option (List Nat) :=
  if engine = 0 then (if op < 2 then some [0, 1, 3] else none)
  else if engine = 1 then
    if op < 3 || op = 5 || op = 6 || op = 0xB || op = 0x16 then some [0, 1, 3]
    else if op = 3 then some [0, 1, 2, 3]
    else if op = 4 then some [0, 2, 3]
    else if op = 9 then some [0, 1, 2, 2, 3]
    else if op < 0x16 then some [0, 3]
    else if op = 0x22 then some [0, 1, 3]
    else if 0x20 ≤ op && op ≤ 0x26 then some [0, 3]
    else none
  else if engine = 2 then (if op < 3 then some [0, 3] else if op = 3 then some [2, 3] else none)
  else if op = 0 then some [0, 1, 3] else none

/-- Has the command an operand B, so that FMT_B names a format? -/
def usesB (engine op : Nat) : Bool := match rolesOf engine op with | some r => r.contains 1 | none => false

/-- ENCODING faults of an engine command's own word; every such word has a write-out control byte (R36, R59, R234, R239). -/
def cmdWordBad (w : Nat) : Bool :=
  let engine := bitsOf w 4 2
  let op := bitsOf w 6 6
  let fn := bitsOf w 46 8
  let fnBad :=
    if engine = 1 && op = 9 then bitsOf fn 2 6 ≠ 0
    else if engine = 1 && op = 0x16 then bitsOf fn 0 2 ≠ 0 || 4 < bitsOf fn 2 3 || bitsOf fn 5 3 ≠ 0
    else fn ≠ 0
  (rolesOf engine op).isNone || bitsOf w 27 3 = 0 || 6 < bitsOf w 27 3 || bitsOf w 54 10 ≠ 0 || fnBad ||
    !wocOk (bitsOf w 30 8) || 10 < bitsOf w 38 4 || 10 < bitsOf w 42 4 || (!usesB engine op && bitsOf w 42 4 ≠ 0) ||
    (bitOf w 16 && 14 ≤ bitsOf w 12 4) || (bitOf w 21 && 14 ≤ bitsOf w 17 4) || (bitOf w 26 && 14 ≤ bitsOf w 22 4)

/-- ENCODING faults of an extension word (R240). -/
def extBad (w : Nat) : Bool :=
  let o := rawOp w
  let s := shapeOf w
  bitsOf w 0 4 ≠ 5 || 1 < bitsOf w 4 4 ||
    (bitsOf w 4 4 = 0 && (o.spare ≠ 0 || o.space = 3 || 6143 < o.agd || (o.role ≠ 2 && o.fmt ≠ 0) ||
      (o.role = 2 && 10 < o.fmt))) ||
    (bitsOf w 4 4 = 1 && (bitsOf w 51 13 ≠ 0 || s.shape = 3 || s.seg = 3 || s.rows = 0 || 64 / s.groups < s.rows ||
      s.neurons = 0 || 64 * s.groups < s.neurons || s.k = 0))

/-- ENCODING faults of an engine command (R218 0x04). -/
def encBad (c : RawCmd) : Bool := cmdWordBad c.word || c.exts.any extBad

/-- The groups of a pass share their stationary rows: the stride of B's group level is 0 (R168, R243). -/
def sharedRows (const : List Byte) (c : RawCmd) (s : ShapeW) : Bool :=
  s.groups = 1 || (match c.role 1 with
    | some o => (genAt const o.agd).strides.getLastD 1 == 0
    | none => false)

/-- Constructs of a later minor version than `minor` (R221). -/
def newerMinor (const : List Byte) (minor : Nat) (c : RawCmd) : Bool :=
  let dyn := c.ops.any fun o => o.cntReg ≠ 0 && o.dynLevel + 1 ≠ (genAt const o.agd).levels
  (minor < 1 && (c.engine = 0 && c.op = 1)) ||
    c.shapes.any (fun s => (minor < 1 && (s.shape ≠ 0 || s.col || s.transposed)) ||
      (minor < 2 && (s.seg ≠ 0 || !sharedRows const c s))) ||
    (minor < 3 && (dyn || (c.engine = 0 && wocFmt c.woc = fmtExact)))

/-- Bytes of a return row of a bound layer and of its return space, which holds a row for each slot (R121, R125). -/
structure RetSpace where
  row : Nat
  slots : Nat
  deriving DecidableEq, Repr

/-- A generator breaks the rules of the return space of a layer: level 0 steps within a row, level 1 by slot, and its footprint
lies inside (R219, R242). -/
def retBad (g : Gen) (r : RetSpace) : Bool :=
  let (lo, hi) := g.extent
  let span : Int := ((g.counts.headD 1 : Int) - 1) * g.strides.headD 0
  g.strides.getD 1 0 ≠ r.row || span < 0 || (r.row : Int) < span + g.unit || lo < 0 || (r.row * r.slots : Int) < hi

/-- The generator fits its space and its fields are in range (R241, R242, R219); `rets` are the return spaces of the layers
that the kernel runs. -/
def genBad (const : List Byte) (rets : List RetSpace) (c : RawCmd) (o : RawOp) : Bool :=
  let g := genAt const o.agd
  let (lo, hi) := g.extent
  let unitMax := if c.isPass && o.role = 3 && wocFmt c.woc = fmtExact then 24576 else 4096
  let top : Int := if o.space = 0 then 3145728 else 2 ^ 48
  g.spare ≠ 0 || g.levels = 0 || 6 < g.levels || g.unit = 0 || unitMax < g.unit ||
    g.counts.any (fun n => 65536 < n) || (o.cntReg ≠ 0 && g.levels ≤ o.dynLevel) ||
    (if o.space = 2 then g.base ≠ 0 || g.levels < 2 || rets.any (retBad g)
     else g.base % 8 ≠ 0 || g.unit % 8 ≠ 0 || g.strides.any (fun x => x % 8 ≠ 0) || lo < 0 || top < hi)

/-- The space is allowed for the role (R242). -/
def spaceBad (c : RawCmd) (o : RawOp) : Bool :=
  if o.space = 1 then
    !((c.engine = 0 && o.role = 0) || (c.engine = 2 && c.op = 0 && o.role = 0) ||
      (c.engine = 2 && c.op = 1 && o.role = 3) || (c.engine = 3 && o.role = 0))
  else if o.space = 2 then !(o.role = 3 && wocFmt c.woc = fmtBf16 && (c.isPass || c.engine = 1))
  else (c.engine = 2 && ((c.op = 0 && o.role = 0) || (c.op = 1 && o.role = 3)))

/-- Elements that a generator's bytes hold in a format; `none` where an MX unit is not whole segments (R601). -/
def elemCount (fmt unit units : Nat) : Option Nat :=
  if isMx fmt then (if unit % segBytes fmt = 0 then some (unit / segBytes fmt * 256 * units) else none)
  else some (unit * units / elemBytes fmt)

/-- The format of an operand of a vector instruction. -/
def fmtOfRole (c : RawCmd) (o : RawOp) : Nat :=
  if o.role = 0 then c.fmtA else if o.role = 1 then c.fmtB else if o.role = 2 then o.fmt else wocFmt c.woc

/-- The static counts of a vector instruction disagree, or a reduction's DEST has no room for its element or record (R601). -/
def vecCountsBad (const : List Byte) (c : RawCmd) : Bool :=
  let cnt := fun (o : RawOp) =>
    let g := genAt const o.agd
    elemCount (if c.op = 0x25 || c.op = 0x26 then (if o.role = 3 then fmtInt32 else fmtOfRole c o) else fmtOfRole c o)
      g.unit g.total
  let isRed := 0x20 ≤ c.op
  let counted := c.ops.filter fun o => !(c.op = 4 && o.role = 2) && !(isRed && o.role = 3)
  match counted.map cnt with
  | [] => true
  | n :: t => n.isNone || t.any (fun m => m != n) ||
      (c.op = 4 && c.ops.any (fun o => o.role = 2 && o.fmt ≠ fmtFp32)) ||
      (isRed && c.ops.any fun o => o.role = 3 &&
        (let g := genAt const o.agd
         let fmt := if 0x25 ≤ c.op then fmtInt32 else wocFmt c.woc
         (elemCount fmt g.unit g.total).isNone || g.unit * g.total < (if isMx fmt then 1 else elemBytes fmt)))

/-- The shape of a PASS's generators and its pair (R52, R158, R166–R170, R243). -/
def passBad (const : List Byte) (c : RawCmd) : Bool :=
  match c.shapes, c.role 0, c.role 1, c.role 3 with
  | [s], some a, some b, some d =>
    let ga := genAt const a.agd
    let gb := genAt const b.agd
    let gd := genAt const d.agd
    let g := s.groups
    let n := s.segs
    let lv := 2 + (if 1 < n then 1 else 0) + (if 1 < g then 1 else 0)
    let c0 := ceilDiv s.k 256
    let tail := (if 1 < n then [n] else []) ++ (if 1 < g then [g] else [])
    let shared := sharedRows const c s && n = 1
    let per := if shared then s.neurons else s.neurons / (g * n)
    let unitD := if isMx (wocFmt c.woc) then ceilDiv per 256 * segBytes (wocFmt c.woc) else per * elemBytes (wocFmt c.woc)
    (match chunkLen c.fmtA c.fmtB s.packed with
     | none => true
     | some kc => (1 < n && (c.fmtA = 6 || (kc = 64 && 2 < n) || (isMx c.fmtA && kc / n % 32 ≠ 0)))) ||
      (s.col && s.shape ≠ 0) || (8 < (if sharedRows const c s then 1 else g) * n) ||
      ga.unit ≠ arrayUnit c.fmtA s.packed || gb.unit ≠ arrayUnit c.fmtB false ||
      ga.levels ≠ lv || gb.levels ≠ lv || ga.counts.headD 0 ≠ c0 || gb.counts.headD 0 ≠ c0 ||
      ga.counts.drop 2 ≠ tail || gb.counts.drop 2 ≠ tail ||
      ga.counts.getD 1 0 * n * g ≠ s.neurons || gb.counts.getD 1 0 ≠ s.rows || gd.unit ≠ unitD ||
      gd.total ≠ (if shared then s.rows else s.rows * g * n)
  | _, _, _, _ => true

/-- OPERAND faults of an engine command (R218 0x0A). -/
def operandBad (const : List Byte) (rets : List RetSpace) (c : RawCmd) : Bool :=
  let roles := c.ops.map RawOp.role
  let want := (rolesOf c.engine c.op).getD []
  let same := [0, 1, 2, 3].all fun r => (roles.filter (· = r)).length = (want.filter (· = r)).length
  !same || c.ops.any (spaceBad c) || c.ops.any (genBad const rets c) ||
    (c.isPass && passBad const c) || (c.engine = 0 && !c.isPass && (chunkLen c.fmtA c.fmtB false).isNone) || (!c.isPass && c.shapes != []) ||
    (c.engine = 1 && vecCountsBad const c)

/-- CEILING faults: a used level count of zero (R218 0x07). -/
def ceilingBad (const : List Byte) (c : RawCmd) : Bool := c.ops.any fun o => (genAt const o.agd).counts.contains 0

/-- Static addend count of a vector reduction at its ceilings (R54). -/
def addendsOf (const : List Byte) (c : RawCmd) : Nat :=
  if c.engine = 1 && 0x20 ≤ c.op then
    match c.role 0 with
    | none => 0
    | some o =>
      let n := (elemCount c.fmtA (genAt const o.agd).unit (genAt const o.agd).total).getD 0
      if (c.op = 0x21 && isMx c.fmtA) || (c.op = 0x22 && isMx c.fmtA && isMx c.fmtB) then ceilDiv n 32 else n
  else 0

/-! ## Kernels (R215, R245) -/

/-- CODE indices of the instructions of a kernel: extension words belong to their command. -/
def instrStarts (code : List Word) (i stop : Nat) : Nat → List Nat
  | 0 => []
  | k + 1 =>
    if stop ≤ i then []
    else
      let w := wordAt code i
      let step := if bitsOf w 0 4 = 4 then 1 + bitsOf w 27 3 else 1
      i :: instrStarts code (i + step) stop k

/-- The loops of a kernel as (LOOP, ENDLOOP) pairs, the unpaired or ill-paired ones, and the depth: a scan with a stack. -/
structure LoopScan where
  stack : List Nat := []
  pairs : List (Nat × Nat) := []
  bad : List Nat := []
  deriving DecidableEq, Repr

def loopScan (code : List Word) (l : List Nat) : LoopScan :=
  l.foldl (fun a i =>
    let w := wordAt code i
    if bitsOf w 0 4 = 3 && bitsOf w 4 8 = 8 then
      { a with stack := i :: a.stack, bad := if 8 ≤ a.stack.length then i :: a.bad else a.bad }
    else if bitsOf w 0 4 = 3 && bitsOf w 4 8 = 9 then
      match a.stack with
      | [] => { a with bad := i :: a.bad }
      | j :: t => { a with stack := t, pairs := (j, i) :: a.pairs,
                           bad := if bitsOf (wordAt code j) 32 16 = i then a.bad else j :: a.bad }
    else a) {}

/-- A kernel's last word is END (R245). -/
def endsInEnd (code : List Word) (k : KEntry) : Bool :=
  let last := wordAt code (k.start + k.words - 1)
  bitsOf last 0 4 = 6 && bitsOf last 4 8 = 1

/-- Words that break the rules of R245 on branches and loops. -/
def controlBad (code : List Word) (k : KEntry) : List Nat :=
  let stop := k.start + k.words
  let l := instrStarts code k.start stop k.words
  let sc := loopScan code l
  let br := l.filter fun i =>
    let w := wordAt code i
    bitsOf w 0 4 = 3 && bitsOf w 4 8 ≤ 4 &&
      (let t := bitsOf w 32 16
       t ≤ i || stop ≤ t || !l.contains t ||
         sc.pairs.any fun p => p.1 < t && t ≤ p.2 && !(p.1 < i && i ≤ p.2))
  sc.bad ++ sc.stack ++ br

/-- A word that is not an engine command breaks its form (R237, R238, R234). -/
def wordBad (w : Nat) : Bool :=
  let op := bitsOf w 4 8
  match bitsOf w 0 4 with
  | 0 => 0xF < op || bitsOf w 27 37 ≠ 0
  | 1 =>
    let imm := bitsOf w 22 42
    if op = 0x11 then bitsOf imm 6 7 = 0 || 64 < bitsOf imm 0 6 + bitsOf imm 6 7 || bitsOf imm 13 29 ≠ 0
    else if op = 0x12 then 2 ^ 41 ≤ imm
    else !(op = 0 || (2 ≤ op && op ≤ 8) || op = 0x10)
  | 2 => 2 < op || bitsOf w 44 20 ≠ 0
  | 3 => !(op ≤ 4 || op = 8 || op = 9) || bitsOf w 22 10 ≠ 0
  | 6 => 5 < op || bitsOf w 32 32 ≠ 0 || ((op = 2 || op = 3) && 14 ≤ bitsOf w 12 4)
  | _ => true

/-! ## Descriptors -/

/-- A routing descriptor from its 64 bytes, where R70 accepts it. -/
def routeDesc (b : List Byte) : Option RouteDesc :=
  let q0 := num b 0 8
  let q1 := num b 8 8
  let q2 := num b 16 8
  let d24 := num b 24 4
  let d28 := num b 28 4
  let b34 := num b 34 1
  let b35 := num b 35 1
  let d40 := num b 40 4
  let r : RouteDesc :=
    { gateAddr := bitsOf q0 0 48, gateFmt := bitsOf q0 48 4, actFmt := bitsOf q0 52 4, biasAddr := bitsOf q1 0 48,
      placeAddr := bitsOf q2 0 48, eCount := bitsOf d24 0 17, expBase := bitsOf d28 0 20, layer := bitsOf d28 20 10,
      h := num b 32 2, k := bitsOf b34 0 2, gateFn := bitsOf b34 2 3, norm := bitOf b34 5, renorm := bitOf b34 6,
      jitter := bitOf b34 7, mode := bitsOf b35 0 2, capMode := bitsOf b35 2 1, cf := num b 36 2,
      capFixed := bitsOf d40 0 17, jitterScale := num b 44 4, spillHi := num b 48 2, hold := num b 50 1 }
  let spare := bitsOf q0 56 8 + bitsOf q1 48 16 + bitsOf q2 48 16 + bitsOf d24 17 15 + bitsOf d28 30 2 +
    bitsOf b35 3 5 + num b 38 2 + bitsOf d40 17 15 + num b 51 13
  let fmts := (([3, 4].contains r.actFmt || r.actFmt = 6) && [3, 4].contains r.gateFmt) ||
    (r.actFmt = 6 && r.gateFmt = 6)
  let scaleOk := r.jitterScale < 0x7F800000 || r.jitterScale = 0x80000000
  if spare = 0 && fmts && r.gateAddr % 8 = 0 && 1 ≤ r.eCount && r.eCount ≤ 65536 && 1 ≤ r.h && r.h ≤ 32768 &&
      1 ≤ r.k && r.k ≤ 2 && r.gateFn ≤ 2 && r.mode ≤ 2 && r.k ≤ r.eCount && scaleOk &&
      (r.capMode = 1 || r.cf ≠ 0) && (r.capMode = 0 || (1 ≤ r.capFixed && r.capFixed ≤ 65536)) &&
      (r.mode ≠ 2 || (r.spillHi ≠ 0 && r.hold ≠ 0))
  then some r else none

/-- An exchange descriptor from its 64 bytes, where the ST_BAD_PARAM part of R120 accepts it. -/
def xchgDesc (b : List Byte) (r : RouteDesc) : Option XchgDesc :=
  let cap := num b 8 4
  let q := num b 16 8
  let own := num b 24 4
  let b6 := num b 6 1
  let x : XchgDesc :=
    { hx := num b 0 2, inFmt := bitsOf (num b 2 1) 0 4, dispWoc := num b 3 1, retWoc := num b 4 1,
      outWoc := num b 5 1, addFmt := bitsOf b6 0 4, addN := bitsOf b6 4 2, capMax := bitsOf cap 0 17,
      recvTable := bitsOf q 0 48, owned := bitsOf own 0 13 }
  let spare := bitsOf (num b 2 1) 4 4 + bitsOf b6 6 2 + num b 7 1 + bitsOf cap 17 15 + num b 12 4 + bitsOf q 48 16 +
    bitsOf own 13 19 + num b 28 36
  if spare = 0 && 1 ≤ x.hx && x.hx ≤ 32768 && x.hx = r.h && x.inFmt = r.actFmt && wocOk x.dispWoc &&
      [3, 4, 6].contains (wocFmt x.dispWoc) && wocOk x.retWoc && wocFmt x.retWoc = 6 && wocOk x.outWoc &&
      [3, 4, 6, 7, 10].contains (wocFmt x.outWoc) && x.addN ≤ 2 && (x.addN = 0 || x.addFmt = 6 || x.addFmt = 7) &&
      1 ≤ x.capMax && x.capMax ≤ 65536 && x.owned ≤ 4096
  then some x else none

/-- A skip descriptor from its 32 bytes, and whether a reserved bit is set (R192). -/
def skipDesc (b : List Byte) : SkipDesc × Bool :=
  let q0 := num b 0 8
  let d8 := num b 8 4
  let d12 := num b 12 4
  ({ shadowAddr := bitsOf q0 0 48, srcFmt := bitsOf q0 48 4, srcPacked := bitOf q0 52, k := bitsOf d8 0 20,
     n := bitsOf d12 0 17, mode := bitsOf (num b 16 1) 0 2, act := bitsOf (num b 17 1) 0 4,
     makeupMax := bitsOf (num b 18 1) 0 5, theta := num b 20 4 },
   bitsOf q0 53 11 + bitsOf d8 20 12 + bitsOf d12 17 15 + num b 16 1 / 4 + num b 17 1 / 16 + num b 18 1 / 32 +
     num b 19 1 + num b 24 8 ≠ 0)

/-- The activation code of a vector instruction (R189); 15 where it is none. -/
def actCode (c : RawCmd) : Nat :=
  if c.engine ≠ 1 then 15
  else if c.op = 0x12 then 0 else if c.op = 0x13 then 1
  else if c.op = 0x14 then 4 else if c.op = 0x15 then 5 else if c.op = 0x10 then 6
  else if c.op = 0x16 then [2, 3, 7, 8, 9].getD (bitsOf c.fn 2 3) 15
  else 15

/-- ACT codes with a companion projection (R189, R217). -/
def gatedAct (a : Nat) : Bool := [2, 3, 7, 8, 9].contains a

/-- The skip descriptor breaks R193 against the instructions its binding names. -/
def skipBad (const : List Byte) (code : List Word) (b : Binding) (d : SkipDesc) (spare : Bool) : Bool :=
  if spare then true
  else if d.mode = 0 then false
  else
    let pred := rawCmd code b.predInsn
    let comp := rawCmd code b.compInsn
    let down := rawCmd code b.downInsn
    let sh := fun (c : RawCmd) => c.shapes.headD {}
    let paired := b.compInsn ≠ 0xFFFFFFFF
    let plain := fun (c : RawCmd) => let s := sh c
      !s.col && !s.transposed && s.seg = 0 && sharedRows const c s
    d.mode = 3 || 9 < d.act || 16 < d.makeupMax || d.k = 0 || d.n = 0 || 65536 < d.n || 5 < d.srcFmt ||
      d.shadowAddr % 8 ≠ 0 || (d.mode = 1 && 4 ≤ d.act) ||
      (d.mode = 2 && bitsOf d.theta 23 8 = 255) || (sh pred).k ≠ d.k || (paired && (sh comp).k ≠ d.k) ||
      (sh down).k ≠ d.n || pred.fmtA ≠ d.srcFmt || (sh pred).packed ≠ d.srcPacked ||
      actCode (rawCmd code b.actInsn) ≠ d.act || (pred.fmtB ≠ 0 && pred.fmtB ≠ 3) ||
      !plain pred || (paired && !plain comp) || !plain down

/-! ## Images (R213–R217) -/

/-- A section of a type: offset and length; absent, (0, 0). -/
def sectionOf (bs : List Byte) (typ : Nat) : Nat × Nat :=
  match (upFrom 0 (num bs 8 2)).find? fun i => num bs (64 + 16 * i) 1 = typ with
  | some i => (num bs (68 + 16 * i) 4, num bs (72 + 16 * i) 4)
  | none => (0, 0)

/-- A fault of an image: reason, status, image offset and amount needed (R218). -/
structure LoadFault where
  reason : Nat
  off : Nat := 0
  need : Nat := 0
  status : Nat := stBadParam
  word0 : Option Nat := none
  deriving DecidableEq, Repr

/-- HEADER faults (R213, R214): the first offending field, reserved byte or entry; a section that is missing is SECTIONS'
fault. -/
def headerFaults (bs : List Byte) (len : Nat) : List LoadFault :=
  let size := num bs 4 4
  let ns := num bs 8 2
  let spare := ((upFrom 2 2 ++ upFrom 10 54).find? fun i => num bs i 1 ≠ 0).toList
  let fields := spare ++
    (if size ≠ len || size % 8 ≠ 0 || size < 256 || 16777216 < size then [4] else []) ++
    (if ns < 3 || 6 < ns then [8] else [])
  let sec := fun i => (num bs (68 + 16 * i) 4, num bs (72 + 16 * i) 4)
  let lim := fun t => match t with
    | 1 => (8, 8, 524288) | 2 => (8, 8, 512) | 3 => (8, 0, 2 ^ 32) | 4 => (16, 0, 4096) | 5 => (48, 0, 49152)
    | _ => (24, 24, 24)
  let entryBad := fun i =>
    let d := 64 + 16 * i
    let t := num bs d 1
    let (o, l) := sec i
    let (m, lo, hi) := lim t
    t = 0 || 6 < t || num bs (d + 1) 3 ≠ 0 || num bs (d + 12) 4 ≠ 0 || o % 8 ≠ 0 || o < 64 + 16 * ns ||
      size < o + l || l % m ≠ 0 || l < lo || hi < l ||
      (upFrom 0 i).any fun j => num bs (64 + 16 * j) 1 = t || rangesMeet o l (sec j).1 (sec j).2
  let entries := if ns < 3 || 6 < ns then [] else ((upFrom 0 ns).filter entryBad).map fun i => 64 + 16 * i
  let missing := [1, 2, 6].filter fun t => !(upFrom 0 (min ns 6)).any fun i => num bs (64 + 16 * i) 1 = t
  (fields ++ entries ++ (if entries = [] && missing ≠ [] then [8] else [])).map fun o => { reason := 2, off := o }

/-- The image's CODE, as words. -/
def imageCode (bs : List Byte) : List Word :=
  let (o, l) := sectionOf bs 1
  (upFrom 0 (l / 8)).map fun i => BitVec.ofNat 64 (num bs (o + 8 * i) 8)
/-- Its kernel entries. -/
def imageEntries (bs : List Byte) : List KEntry :=
  let (o, l) := sectionOf bs 2
  (upFrom 0 (l / 8)).map fun i =>
    let v := num bs (o + 8 * i) 8
    { start := bitsOf v 0 16, words := bitsOf v 16 16, kind := bitsOf v 32 2 }
/-- Its kernels, each with the image offset of its entry. -/
def kernelsAt (bs : List Byte) : List (KEntry × Nat) :=
  let (o, l) := sectionOf bs 2
  (imageEntries bs).zip ((upFrom 0 (l / 8)).map fun i => o + 8 * i)
/-- Its constant area (R225). -/
def imageConst (bs : List Byte) : List Byte := let (o, l) := sectionOf bs 3; (bs.drop o).take l
/-- Its region declarations. -/
def imageRegions (bs : List Byte) : List Region :=
  let (o, l) := sectionOf bs 4
  (upFrom 0 (l / 16)).map fun i =>
    let v := num bs (o + 16 * i) 8
    { base := bitsOf v 0 22, len := bitsOf v 22 22, kind := bitsOf v 44 4, layer := bitsOf v 48 10 }
/-- Its layer bindings. -/
def imageBindings (bs : List Byte) : List Binding :=
  let (o, l) := sectionOf bs 5
  (upFrom 0 (l / 48)).map fun i =>
    let d := o + 48 * i
    { routeDesc := bitsOf (num bs d 8) 0 48, layer := bitsOf (num bs d 8) 48 10,
      xchgDesc := bitsOf (num bs (d + 8) 8) 0 48, tripEntry := bitsOf (num bs (d + 8) 8) 48 6,
      skipDesc := bitsOf (num bs (d + 16) 8) 0 48, predInsn := num bs (d + 24) 4, compInsn := num bs (d + 28) 4,
      actInsn := num bs (d + 32) 4, downInsn := num bs (d + 36) 4 }
/-- Its TILES set. -/
def imageTiles (bs : List Byte) : List Nat :=
  let (o, _) := sectionOf bs 6
  (upFrom 0 192).filter fun t => bitOf (num bs o 24) t

/-- No instruction named (R217). -/
def noInsn : Nat := 0xFFFFFFFF

/-- REGION faults of the declarations (R216). -/
def regionFaults (bs : List Byte) : List LoadFault :=
  let (o, l) := sectionOf bs 4
  let rs := imageRegions bs
  ((upFrom 0 (l / 16)).filter fun i =>
    let v := num bs (o + 16 * i) 8
    let r := rs.getD i {}
    bitsOf v 58 6 ≠ 0 || num bs (o + 16 * i + 8) 8 ≠ 0 || r.base % 256 ≠ 0 || r.len = 0 || 3145728 < r.base + r.len ||
      4 < r.kind || ((r.kind = 0 || r.kind = 4) && r.layer ≠ 0) ||
      (rs.take i).any fun q => rangesMeet q.base q.len r.base r.len).map fun i => { reason := 8, off := o + 16 * i }

/-- The instruction at a CODE index lies in a kernel, starts a command there and passes a test. -/
def namedIn (code : List Word) (k : KEntry) (i : Nat) (test : RawCmd → Bool) : Bool :=
  (instrStarts code k.start (k.start + k.words) k.words).contains i && bitsOf (wordAt code i) 0 4 = 4 &&
    test (rawCmd code i)

/-- REGION faults of the bindings (R217). -/
def bindingFaults (bs : List Byte) : List LoadFault :=
  let (o, l) := sectionOf bs 5
  let code := imageCode bs
  let es := imageEntries bs
  let all := imageBindings bs
  ((upFrom 0 (l / 48)).filter fun i =>
    let d := o + 48 * i
    let b := all.getD i {}
    let spare := bitsOf (num bs d 8) 58 6 + bitsOf (num bs (d + 8) 8) 54 10 + bitsOf (num bs (d + 16) 8) 48 16 +
      num bs (d + 40) 8
    let trip := match es[b.tripEntry]? with
      | some k => if k.kind = 0 then some k else none
      | none => none
    let insns := match trip with
      | none => false
      | some k => namedIn code k b.predInsn RawCmd.isPass && namedIn code k b.downInsn RawCmd.isPass &&
          namedIn code k b.actInsn (fun c => c.engine = 1) &&
          (if gatedAct (actCode (rawCmd code b.actInsn)) then namedIn code k b.compInsn RawCmd.isPass
           else b.compInsn = noInsn || namedIn code k b.compInsn RawCmd.isPass)
    spare ≠ 0 || ((b.routeDesc = 0) != (b.xchgDesc = 0)) || (b.routeDesc ≠ 0 && trip.isNone) ||
      (all.take i).any (fun q => q.layer = b.layer) ||
      (if b.skipDesc ≠ 0 then !insns
       else b.predInsn ≠ noInsn || b.compInsn ≠ noInsn || b.actInsn ≠ noInsn || b.downInsn ≠ noInsn)).map
    fun i => { reason := 8, off := o + 48 * i }

/-- The fault of reading a descriptor's `n` bytes at `a`: a page not mapped, or LOST (R218 0x09, R394). -/
def descRead (s : State) (func a n off : Nat) : List LoadFault :=
  match firstUnmapped s func a n with
  | some _ => [{ reason := 9, off }]
  | none => match firstLost s a n with
    | some p => [{ reason := 9, off, status := stUncorrectable, word0 := some (max a (p * pageBytes)) }]
    | none => []

/-- Row bytes of a receive region (R120). -/
def recvRow (x : XchgDesc) : Nat := rowBytes (wocFmt x.dispWoc) x.hx

/-- DESCRIPTOR and SPAD_FIT faults of one binding (R218 0x09, 0x0C). -/
def descFaults (s : State) (func : Nat) (bs : List Byte) (b : Binding) (off : Nat) : List LoadFault :=
  let rs := imageRegions bs
  let declared := (rs.map Region.len).foldl (· + ·) 0
  let bad : List LoadFault := [{ reason := 9, off }]
  let routed :=
    if b.routeDesc = 0 then []
    else match descRead s func b.routeDesc 64 off ++ descRead s func b.xchgDesc 64 off with
      | f :: _ => [f]
      | [] => match routeDesc (wspBytes s b.routeDesc 64) with
        | none => bad
        | some r => if r.layer ≠ b.layer then bad else
          match xchgDesc (wspBytes s b.xchgDesc 64) r with
          | none => bad
          | some x =>
            match (if x.owned = 0 then [] else descRead s func x.recvTable (4 * x.owned) off) with
            | f :: _ => [f]
            | [] =>
              let ents := (upFrom 0 x.owned).map fun i =>
                let v := leNat (wspBytes s (x.recvTable + 4 * i) 4)
                (bitsOf v 0 8, bitsOf v 8 22, bitsOf v 30 2)
              if ents.any fun e => e.2.2 ≠ 0 || e.2.1 % 256 ≠ 0 || enabledTiles s ≤ e.1 then bad
              else
                let sz := x.capMax * recvRow x
                let inside := fun (e : Nat × Nat × Nat) => rs.any fun r => r.kind = 1 && r.layer = b.layer &&
                  r.base ≤ e.2.1 && e.2.1 + sz ≤ r.base + r.len
                if (upFrom 0 ents.length).any fun i =>
                    let e := ents.getD i (0, 0, 0)
                    !inside e || (ents.take i).any fun q => q.1 = e.1 && rangesMeet q.2.1 sz e.2.1 sz
                then [{ reason := 0xC, off, need := declared + sz, status := stNoFit }] else []
  let skip :=
    if b.skipDesc = 0 then []
    else match descRead s func b.skipDesc 32 off with
      | f :: _ => [f]
      | [] =>
        let (d, spare) := skipDesc (wspBytes s b.skipDesc 32)
        if skipBad (imageConst bs) (imageCode bs) b d spare then bad else []
  routed ++ skip

/-- Faults of the word or command at CODE index `i`, in a kernel or a run of loose words that ends at `stop` (R218 0x04, 0x05, 0x07,
0x0A, 0x0E). DESIGN CHOICE: an extension word that follows no command is refused in a kernel alone. -/
def wordFaults (bs : List Byte) (minor : Nat) (rets : List RetSpace) (loose : Bool) (stop i : Nat) : List LoadFault :=
  let code := imageCode bs
  let const := imageConst bs
  let off := (sectionOf bs 1).1 + 8 * i
  let w := wordAt code i
  if bitsOf w 0 4 = 4 then
    let c := rawCmd code i
    (if encBad c || stop < i + 1 + c.xwords then [{ reason := 4, off }] else []) ++
      (if newerMinor const minor c then [{ reason := 5, off }] else []) ++
      (if ceilingBad const c then [{ reason := 7, off }] else []) ++
      (if operandBad const rets c then [{ reason := 0xA, off }] else []) ++
      (if 2 ^ 32 - 1 < addendsOf const c then [{ reason := 0xE, off, need := addendsOf const c, status := stNoFit }] else [])
  else
    (if (if loose && bitsOf w 0 4 = 5 then extBad w else wordBad w) then [{ reason := 4, off }] else []) ++
      (if minor < 3 && bitsOf w 0 4 = 2 && bitsOf w 4 8 = 2 then [{ reason := 5, off }] else []) ++
      (if (bitsOf w 0 4 = 3 && bitsOf w 4 8 = 8 && bitsOf w 48 16 = 0) ||
          (bitsOf w 0 4 = 1 && bitsOf w 4 8 = 0x12 && bitsOf w 22 42 = 0)
       then [{ reason := 7, off }] else [])

/-- Faults of the words of one kernel (R218 0x04–0x07, 0x0A, 0x0E); a kernel without its END is reported at its entry. -/
def kernelFaults (bs : List Byte) (minor : Nat) (rets : List RetSpace) (k : KEntry) (entry : Nat) : List LoadFault :=
  let code := imageCode bs
  (instrStarts code k.start (k.start + k.words) k.words).flatMap (wordFaults bs minor rets false (k.start + k.words)) ++
    (if endsInEnd code k then [] else [{ reason := 6, off := entry }]) ++
    (controlBad code k).map fun i => { reason := 6, off := (sectionOf bs 1).1 + 8 * i }

/-- Runs of CODE words that lie in no kernel: first word and length. -/
def looseRuns (es : List KEntry) (n : Nat) : List (Nat × Nat) :=
  (upFrom 0 n).foldl (fun acc i =>
    if es.any fun k => k.start ≤ i && i < k.start + k.words then acc
    else match acc with
      | r :: t => if r.1 + r.2 = i then (r.1, r.2 + 1) :: t else (i, 1) :: r :: t
      | [] => [(i, 1)]) []

/-- Faults of the CODE words that lie in no kernel, which have no return space (R218). -/
def looseFaults (bs : List Byte) (minor : Nat) : List LoadFault :=
  let code := imageCode bs
  (looseRuns (imageEntries bs) code.length).flatMap fun r =>
    (instrStarts code r.1 (r.1 + r.2) r.2).flatMap (wordFaults bs minor [] true (r.1 + r.2))

/-- The return spaces of the layers whose experts kernel `i` runs (R121, R125, R217). -/
def retSpaces (s : State) (bs : List Byte) (i : Nat) : List RetSpace :=
  ((imageBindings bs).filter fun b => b.routeDesc ≠ 0 && b.tripEntry = i).map fun b =>
    let q := wspBytes s b.xchgDesc 64
    { row := rowBytes fmtBf16 (num q 0 2), slots := bitsOf (num q 8 4) 0 17 }

/-- ENCODING faults of the kernel entries (R215). -/
def entryFaults (bs : List Byte) : List LoadFault :=
  let (o, l) := sectionOf bs 2
  let es := imageEntries bs
  let n := (imageCode bs).length
  ((upFrom 0 (l / 8)).filter fun i =>
    let k := es.getD i {}
    num bs (o + 8 * i) 8 / 2 ^ 34 ≠ 0 || k.words = 0 || 1 < k.kind || n < k.start + k.words ||
      (es.take i).any fun q => rangesMeet q.start q.words k.start k.words).map fun i => { reason := 4, off := o + 8 * i }

/-- The skip descriptor of a binding, where it has one and its page can be read. -/
def bindingSkip (s : State) (b : Binding) : Option SkipDesc :=
  if b.skipDesc = 0 then none else some (skipDesc (wspBytes s b.skipDesc 32)).1

/-- Some unit that a generator visits, `base` on, meets a test of its address and length; `levels` are outermost first. -/
def anyUnit (test : Int → Nat → Bool) (unit : Nat) (base : Int) : List (Nat × Int) → Bool
  | [] => test base unit
  | (n, st) :: t => (upFrom 0 n).any fun (j : Nat) => anyUnit test unit (base + (j : Int) * st) t

/-- A generator's units meet a test at its ceilings (R219). -/
def Gen.visits (g : Gen) (test : Int → Nat → Bool) : Bool :=
  anyUnit test g.unit (g.base : Int) ((g.counts.zip g.strides).reverse)

/-- A unit meets the output region of a skipping projection or its companion: a declared region of the layer, or a unit of the
DEST of one of their passes (R199). -/
def inSkipOut (outs : List Region) (dests : List Gen) (a : Int) (n : Nat) : Bool :=
  (outs.any fun r => a < (r.base + r.len : Nat) && (r.base : Int) < a + n) ||
    dests.any fun g => (g.extent.1 < a + n && a < g.extent.2) && g.visits fun b m => b < a + n && a < b + m

/-- READ_RULE faults, R190's, and skip MODE 2 before minor 2 (R190, R199, R221). -/
def skipFaults (s : State) (bs : List Byte) (minor : Nat) : List LoadFault :=
  let code := imageCode bs
  let const := imageConst bs
  let (co, _) := sectionOf bs 1
  let (bo, _) := sectionOf bs 5
  let insns := (imageEntries bs).flatMap fun k =>
    (instrStarts code k.start (k.start + k.words) k.words).filter fun i => bitsOf (wordAt code i) 0 4 = 4
  let all := imageBindings bs
  (upFrom 0 all.length).flatMap fun j =>
    let b := all.getD j {}
    match bindingSkip s b with
    | none => []
    | some d =>
      let outs := (imageRegions bs).filter fun r => r.kind = 3 && r.layer = b.layer
      let dests := ([b.predInsn, b.compInsn].filter fun i => i < code.length).filterMap fun i =>
        ((rawCmd code i).role 3).bind fun o => if o.space = 0 then some (genAt const o.agd) else none
      (if d.mode = 2 && minor < 2 then [{ reason := 5, off := bo + 48 * j }] else []) ++
      (if d.mode = 1 && (d.act = 2 || d.act = 3) && wocInf (rawCmd code b.compInsn).woc then
        [{ reason := 0xA, off := co + 8 * b.compInsn }] else []) ++
      (if d.mode = 0 then []
       else ((insns.filter fun i => i ≠ b.actInsn && (rawCmd code i).ops.any fun o =>
          o.role ≠ 3 && o.space = 0 && (genAt const o.agd).visits (inSkipOut outs dests)).map
          fun i => { reason := 0xB, off := co + 8 * i }))

/-- The native length of an image (R220). -/
def nativeBytes (bs : List Byte) : Nat :=
  8 * (imageCode bs).length + 16 * ((imageBindings bs).filter fun b => b.skipDesc ≠ 0).length

/-- Every fault the loader finds in an image, of whatever reason (R218). -/
def imageFaults (s : State) (func len : Nat) (bs : List Byte) : List LoadFault :=
  if num bs 0 1 ≠ 1 then [{ reason := 1, status := stBadVersion }]
  else match headerFaults bs len with
    | f :: t => f :: t
    | [] =>
      let minor := min (num bs 1 1) 3
      let tiles := imageTiles bs
      let (bo, _) := sectionOf bs 5
      let all := imageBindings bs
      (if tiles = [] || tiles.any (fun t => enabledTiles s ≤ t) then [{ reason := 3, off := (sectionOf bs 6).1 }] else []) ++
        entryFaults bs ++ looseFaults bs minor ++
        ((kernelsAt bs).zip (upFrom 0 (kernelsAt bs).length)).flatMap
          (fun e => kernelFaults bs minor (retSpaces s bs e.2) e.1.1 e.1.2) ++
        regionFaults bs ++ bindingFaults bs ++
        ((upFrom 0 all.length).flatMap fun i => descFaults s func bs (all.getD i {}) (bo + 48 * i)) ++
        skipFaults s bs minor ++
        (if 49152 < (sectionOf bs 3).2 then
          [{ reason := 0xD, off := (sectionOf bs 3).1, need := (sectionOf bs 3).2, status := stNoFit }] else []) ++
        (if 32768 < nativeBytes bs then [{ reason := 0xF, need := nativeBytes bs, status := stNoFit }] else [])

/-- The first failure: the lowest reason, and within it the lowest offset (R218). -/
def firstFault : List LoadFault → Option LoadFault
  | [] => none
  | f :: t => match firstFault t with
    | none => some f
    | some g => if g.reason < f.reason || (g.reason = f.reason && g.off < f.off) then some g else some f

/-- The image as a bank holds it (R220, R221). -/
def programOf (id model : Nat) (bs : List Byte) : Program :=
  { id, model, minor := min (num bs 1 1) 3, code := imageCode bs, entries := imageEntries bs, const := imageConst bs,
    regions := imageRegions bs, bindings := imageBindings bs, tiles := imageTiles bs }

end Sys2Proof.Machine
end

