-- ==== Sys2Proof/Machine/Tiles.lean ====
section
/-!
DEFINITION. A tile's parts as the Stoker and the engines reach them: scratchpad (R154), DMEM (R225), banks (R233),
queues (R229), event counters (R230), the weight space through the bond port (R600), and faults (R184, R196, R247).
-/
namespace Sys2Proof.Machine

/-- The logical number of a physical tile, if it holds one (R21). -/
def logicalOf (s : State) (t : Nat) : Option Nat := (s.ras.l2p.find? fun e => e.2 = t).map Prod.fst
/-- The physical tile of a logical number (R21). -/
def physOf (s : State) (l : Nat) : Option Nat := lookup l s.ras.l2p

/-- Bank `n` of a tile. -/
def Tile.bank (x : Tile) (n : Nat) : Bank := if n = 0 then x.bank0 else x.bank1
def Tile.setBank (x : Tile) (n : Nat) (b : Bank) : Tile := if n = 0 then { x with bank0 := b } else { x with bank1 := b }
/-- Image ID of a bank; 0 for empty (R249). -/
def Bank.image (b : Bank) : Nat := match b.prog with | some p => p.id | none => 0
/-- The active bank's program. -/
def Tile.program (x : Tile) : Option Program := (x.bank x.active).prog
/-- The bank that is not active. -/
def Tile.idleBank (x : Tile) : Nat := 1 - x.active
/-- The tile holds an image in either bank. -/
def Tile.holds (x : Tile) (id : Nat) : Bool := x.bank0.image = id || x.bank1.image = id
/-- The program with an image ID in either bank, the active bank first. -/
def Tile.progOf (x : Tile) (id : Nat) : Option Program :=
  if (x.bank x.active).image = id then (x.bank x.active).prog
  else if (x.bank x.idleBank).image = id then (x.bank x.idleBank).prog else none

/-- The queue of an engine (R229). -/
def Tile.queue (x : Tile) (e : Nat) : List EngCmd := if e = 0 then x.q0 else if e = 1 then x.q1 else if e = 2 then x.q2 else x.q3
def Tile.setQueue (x : Tile) (e : Nat) (q : List EngCmd) : Tile :=
  if e = 0 then { x with q0 := q } else if e = 1 then { x with q1 := q } else if e = 2 then { x with q2 := q }
  else { x with q3 := q }
/-- Queue entries of an engine (R229). -/
def queueDepth (e : Nat) : Nat := if e = 0 then 16 else if e = 1 then 32 else if e = 2 then 16 else 8
/-- Is an engine busy? -/
def Tile.busy (x : Tile) (e : Nat) : Bool := x.flight.any fun f => f.cmd.engine = e
/-- No engine is busy. -/
def Tile.idle (x : Tile) : Bool := x.flight.isEmpty

/-- Event counter `e`. -/
def Tile.event (x : Tile) (e : Nat) : Nat := lookupD 0 e x.events
def Tile.setEvent (x : Tile) (e n : Nat) : Tile :=
  { x with events := if n = 0 then eraseK e x.events else insertK e n x.events }

/-- The constant area or work area byte at a DMEM address (R225). -/
def Tile.dmemByte (x : Tile) (a : Nat) : Byte :=
  if a < 0xC000 then (match x.program with | some p => p.const.getD a 0 | none => 0) else readByte a x.dmem
/-- Eight bytes of DMEM as a number. -/
def Tile.dmemWord (x : Tile) (a : Nat) : Nat := leNat ((upFrom a 8).map x.dmemByte)

/-- The Stoker has a queued item or a running kernel, or an engine is busy (R341). -/
def Tile.live (x : Tile) : Bool :=
  !x.items.isEmpty || x.kernel.isSome || !x.flight.isEmpty || !x.q0.isEmpty || !x.q1.isEmpty || !x.q2.isEmpty ||
    !x.q3.isEmpty

/-! ## Operand addresses (R241) -/

/-- Offsets of a generator's units, level 0 fastest. -/
def levelOffsets : List (Nat × Int) → List Int
  | [] => [0]
  | (n, st) :: t => (levelOffsets t).flatMap fun o => (upFrom 0 n).map fun (j : Nat) => o + (j : Int) * st

/-- An address in an operand's space: scratchpad addresses are taken modulo 2^22 (R241). -/
def wrapAddr (space : Nat) (a : Int) : Nat := if space = 0 then (a % 2 ^ 22).toNat else (a % 2 ^ 64).toNat

/-- The addresses of an operand's units, in order. -/
def Opnd.addrs (o : Opnd) : List Nat := (levelOffsets o.levels).map fun d => wrapAddr o.space ((o.base : Int) + d)

/-- Units of an operand. -/
def Opnd.total (o : Opnd) : Nat := (o.levels.map Prod.fst).foldl (· * ·) 1

/-- The operands of a command with a role. -/
def EngCmd.role (c : EngCmd) (r : Nat) : Option Opnd := c.opnds.find? fun o => o.role = r

/-! ## Reads -/

/-- The weight-space ranges a command has written and their bytes (R393). -/
def cmdWrites (s : State) (seq : Nat) : Mem × List (Nat × Nat) :=
  match s.cmd seq with
  | some c => (c.writes, c.written)
  | none => ([], [])

/-- A read of the weight space by the work of step `seq` of function `func` (R390, R393, R394, R600). -/
def wspRead (s : State) (seq func a n : Nat) : Rd :=
  let (w, wr) := cmdWrites s seq
  match firstUnmapped s func a n with
  | some p => .fault 6 p
  | none =>
    if 2 ^ 48 < a + n then .fault 6 (2 ^ 27 - 1)
    else
      let own := fun p =>
        let lo := max a (p * pageBytes)
        covers wr lo (min (a + n) ((p + 1) * pageBytes) - lo)
      match (pagesOf a n).find? fun p => !own p && (match s.page p with | some d => d.lost | none => false) with
      | some p => .lost p
      | none =>
        match (absentPages s a n) with
        | [] => .ok (ownBytes s seq w wr a n)
        | ps => .absent ps

/-- A read of the weight space, the flask aperture among it, by the work of step `seq` (R390, R450–R454). -/
def coherentWsp (s : State) (seq func a n : Nat) : Rd := coherentRead s seq (wspRead s seq func) a n

/-- One unit of an operand. -/
def readUnit (s : State) (t : Nat) (c : EngCmd) (func : Nat) (o : Opnd) (a : Nat) : Rd :=
  if o.space = 0 then
    if spadBytes < a + o.unit then .fault 3 (max a spadBytes) else .ok ((s.tile t).readSpad a o.unit)
  else if c.engine = 3 && inAperture a then wspRead s c.item.seq func a o.unit else coherentWsp s c.item.seq func a o.unit

/-- Every unit of an operand, back to back. -/
def readOpnd (s : State) (t : Nat) (c : EngCmd) (func : Nat) (o : Opnd) : Rd :=
  o.addrs.foldl (fun acc a => acc.append (readUnit s t c func o a)) (.ok [])

/-! ## Faults -/

/-- TIL_FAULT_INFO of a fault (R185). -/
def tileFaultInfo (ctx st cause addr : Nat) : Nat := ctx + st * 2 ^ 18 + cause * 2 ^ 24 + addr % 2 ^ 27 * 2 ^ 32

/-- A faulted tile is held; the faulting context's kernel and started commands end at once, and nothing of theirs is
written (R184, R248). -/
def Tile.stopFor (ctx : Nat) (x : Tile) : Tile :=
  { x with
    faulted := true
    kernel := match x.kernel with
      | some k => if k.item.ctx = ctx then none else some k
      | none => none
    flight := x.flight.filter fun f => f.cmd.item.ctx ≠ ctx }

/-- SEQ of the CONTEXT_FAULT entry that a fault of a context's work brings; none where the context is faulted already (R342, R499). -/
def faultEntry (s : State) (ctx : Nat) : Nat := if (s.context ctx).any fun c => !c.faulted then nextSeq s else 0

/-- A tile or Stoker fault of the work of an item: the engines and the Stoker stop, and the owning context is torn down
(R184, R247, R248, R342). `cause` is the bit number in TIL_FAULT; source 1 is the datapath, 2 the Stoker. -/
def tileFault (s : State) (t : Nat) (i : Item) (cause addr : Nat) : State :=
  let f : FieldRef := { reg := Reg.TIL_FAULT, lo := cause, len := 1 }
  let info := tileFaultInfo i.ctx i.stream cause addr
  let s := setRaw s Reg.TIL_FAULT_INFO t 0 info
  let s := raiseErr s f t .contained { unit := t, ctx := i.ctx, addr, jrnSeq := faultEntry s i.ctx, arg := info }
  let s := s.modTile t (Tile.stopFor i.ctx)
  teardown s i.ctx { source := if 16 ≤ cause then 2 else 1, phys := t, seq := i.seq, cause }

/-- A skip fault (R196, R204). -/
def skipFault (s : State) (t : Nat) (i : Item) (cause neuron row : Nat) : State :=
  let f : FieldRef := { reg := Reg.SKP_ERR, lo := cause, len := 1 }
  let info := i.ctx + t * 2 ^ 18 + cause * 2 ^ 26 + neuron % 2 ^ 16 * 2 ^ 32 + row * 2 ^ 48
  let s := setRaw s Reg.SKP_ERR_INFO 0 0 info
  let s := if cause = 0 then count s bankSkp 10 else s
  let s := raiseErr s f 0 .contained { unit := t, ctx := i.ctx, jrnSeq := faultEntry s i.ctx, arg := info }
  let s := s.modTile t (Tile.stopFor i.ctx)
  teardown s i.ctx { source := 3, phys := t, seq := i.seq, cause }

/-- A step's stream waits for pages: it is BLOCKED unless pinned, and the fetches are queued (R333, R390). -/
def waitForPages (s : State) (ctx st : Nat) (pages : List Nat) : State :=
  let s := pages.eraseDups.foldl (fun s p => queueMove s { kind := .demand, page := p }) s
  let x := s.stream ctx st
  let s := recEvent (timingEvent s x.stepSeq) 7 0 x.stepSeq 0 { ctx, stream := st }
  if x.state = .running then
    s.setStream ctx st { x with state := .blocked, since := s.ticks, waitPages := pages.eraseDups }
  else s

end Sys2Proof.Machine
end

