-- ==== Sys2Proof/Machine/Routing.lean ====
section
/-!
DEFINITION. The routing engines: scoring and keys (R67–R75), gate weights (R76, R77, R89, R91), selection (R78, R79),
count records (R84), capacity and slots (R86–R88), expert-choice (R90), and the structures they write (R99–R102).
-/
namespace Sys2Proof.Machine

/-! ## Reading what a step names -/

/-- Bytes of the weight space as a step reads them. -/
def stepBytes (s : State) (seq a n : Nat) : List Byte := let (w, wr) := cmdWrites s seq; ownBytes s seq w wr a n

/-- The first page of a range that a step's readers cannot read: not mapped for its function, or LOST (R105, R394,
R600). -/
def badPage (s : State) (func a n : Nat) : Option Nat :=
  match firstUnmapped s func a n with
  | some p => some p
  | none => firstLost s a n

/-- A reader has met a page that it cannot read: one that is LOST is met as such (R394); one that is not mapped, or that the function may
not name, is not LOST (R600). -/
def meetBad (s : State) (func p : Nat) : State := if (pageFor s func p).isSome then meetLost s p else s

/-- Bytes of an input row of a layer (R120). -/
def RouteDesc.rowLen (r : RouteDesc) : Nat := rowBytes r.actFmt r.h
/-- Bytes of a gate row (R71). -/
def RouteDesc.gateLen (r : RouteDesc) : Nat := rowBytes r.gateFmt r.h

/-- The ranges that stage 2 of a step reads: gate matrix, bias vector, placement table, activations. -/
def routeRanges (x : LStep) : List (Nat × Nat) :=
  let r := x.route
  [(r.gateAddr, r.eCount * r.gateLen)] ++ (if r.biasAddr = 0 then [] else [(r.biasAddr, 4 * r.eCount)]) ++
    [(r.placeAddr, 8 * r.eCount)] ++ (if x.n = 0 then [] else [(x.inAddr, x.n * r.rowLen)])

/-- An expert's owner, logical tile and EXP_SLOT from the placement table (R71). -/
def placeOf (s : State) (x : LStep) (e : Nat) : Nat × Nat × Nat :=
  let v := leNat (wspBytes s (x.route.placeAddr + 8 * e) 8)
  (bitsOf v 0 20, bitsOf v 20 8, bitsOf v 32 12)

/-! ## Scoring (R67, R68, R73, R74) -/

/-- Write-out control of the default FP32 rounding: RNE, SAT (R76). -/
def wocFp32 : Nat := 7
/-- One rounding to FP32 (rne32 of R76), as a value. -/
def rne32 (v : Val) : Val := decodeFloat fmtFp32 (encodeFloat fmtFp32 wocFp32 0 v)

/-- The quarter of a token and its length (R29). -/
def quarterLen (n : Nat) : Nat := ceilDiv n 4
def quarterOf (n t : Nat) : Nat := if quarterLen n = 0 then 0 else t / quarterLen n
/-- An engine takes part in a step of `n` tokens (R29): its quarter is not empty. -/
def engineUsed (n engine : Nat) : Bool := engine * quarterLen n < n
/-- A routing-engine pair is needed by a step of `n` tokens: one of its engines takes part. -/
def pairUsed (n pair : Nat) : Bool := engineUsed n (2 * pair) || engineUsed n (2 * pair + 1)
/-- A routing-engine pair routes a step or holds a parked stream (R533). -/
def pairBusy (s : State) (pair : Nat) : Bool :=
  (s.xch.routing.toList ++ s.xch.parked).any fun q => (s.step q).any fun x => pairUsed x.n pair

/-- The activation row a Crucible holds: BF16 against an MXFP8 gate is first written out as E4M3, RNE, SAT (R68). -/
def scoreRow (s : State) (seq : Nat) (x : LStep) (t : Nat) : List Val :=
  let r := x.route
  let bs := stepBytes s seq (x.inAddr + t * r.rowLen) r.rowLen
  let vs := readRow r.actFmt r.h bs
  if r.actFmt = fmtBf16 && r.gateFmt ≠ fmtBf16 then
    readRow fmtE4M3 r.h (writeRow fmtE4M3 (vs.map fun v => (v, 0)))
  else vs

/-- The exact logit λ of a token's row and a gate row (R73). -/
def exactLogit (a g : List Val) : Acc := (a.zip g).foldl (fun acc p => acc.addend (p.1.mul p.2)) {}

/-- The jitter j(t, e) (R74). -/
def jitterOf (s : State) (x : LStep) (token e : Nat) : Val :=
  if x.route.jitter then
    let seed := match s.context x.ctx with | some c => c.seed | none => 0
    let u := drawJitter seed token e x.layer x.msc
    (decodeFloat fmtFp32 x.route.jitterScale).mul (Val.ofInt ((u : Int) - 2 ^ 23) (-23))
  else Val.zero

/-- One token's logits and keys: for each expert that R75 leaves available, its index, key and logit, FP32 values. -/
def scoreToken (s : State) (seq : Nat) (x : LStep) (t : Nat) : List (Nat × Val × Val) :=
  let r := x.route
  let row := scoreRow s seq x t
  (upFrom 0 r.eCount).filterMap fun e =>
    if x.excluded.contains (r.expBase + e) then none
    else
      let g := readRow r.gateFmt r.h (wspBytes s (r.gateAddr + e * r.gateLen) r.gateLen)
      let acc := exactLogit row g
      let logit := rne32 acc.val
      let bias := if r.biasAddr = 0 then Val.zero
        else decodeFloat fmtFp32 (leNat (wspBytes s (r.biasAddr + 4 * e) 4))
      let key := rne32 ((acc.addend bias).addend (jitterOf s x (x.tokenBase + t) e)).val
      match key with
      | .nan => none
      | .inf true => none
      | k => some (e, k, logit)

/-- Order of experts for a token: higher key first, equal keys (+0 and −0 alike) by lower index (R78). -/
def keyBefore (a b : Nat × Val × Val) : Bool :=
  let lt := fun (p q : Val) => !(p.isZero && q.isZero) && p.lt q
  if lt b.2.1 a.2.1 then true else if lt a.2.1 b.2.1 then false else a.1 < b.1

/-- Insertion into a list under an order. -/
def insertBy {α : Type} (before : α → α → Bool) (x : α) : List α → List α
  | [] => [x]
  | y :: t => if before x y then x :: y :: t else y :: insertBy before x t

/-- A list sorted under an order. -/
def sortBy {α : Type} (before : α → α → Bool) (l : List α) : List α := l.foldr (insertBy before) []

/-! ## Gate weights (R76, R77) -/

/-- The exact sum of FP32 values. -/
def exactSum (vs : List Val) : Val := (vs.foldl Acc.addend {}).val

/-- The largest of a list of values; NaN when one is NaN. -/
def maxVal : List Val → Val
  | [] => .inf true
  | v :: t => let m := maxVal t
    if v = .nan || m = .nan then .nan else if m.lt v then v else m

/-- The softmax weight of a logit over a set (R76, GATE_FN 0 and 1). -/
def softmaxWeight (above : List Val) (l : Val) : Val :=
  let m := maxVal above
  let x := fun v => elemFn .exp (rne32 (v.add m.neg))
  rne32 ((x l).div (exactSum (above.map x)))

/-- The weights of the selected experts of a token, in their order (R76, R77). -/
def gateWeights (r : RouteDesc) (avail sel : List (Nat × Val × Val)) : List Val :=
  let ws := sel.map fun e =>
    if r.gateFn = 0 then softmaxWeight (avail.map fun a => a.2.2) e.2.2
    else if r.gateFn = 1 then softmaxWeight (sel.map fun a => a.2.2) e.2.2
    else elemFn .sigmoid e.2.2
  if r.norm && r.gateFn ≠ 1 then ws.map fun w => rne32 (w.div (exactSum ws)) else ws

/-- FP32 bits of a value that is one. -/
def fp32Bits (v : Val) : Nat := encodeFloat fmtFp32 wocFp32 0 v

/-- The choices of one token of a token-choice step (R78, R79). -/
def chooseToken (x : LStep) (t : Nat) (avail : List (Nat × Val × Val)) : List ChoiceRec :=
  let best := (sortBy keyBefore avail).take x.route.k
  let ws := gateWeights x.route avail best
  (best.zip (ws.zip (upFrom 0 best.length))).map fun (e, w, j) =>
    { token := t, expert := e.1, second := j = 1, weight := fp32Bits w }

/-- The candidates of one token of an expert-choice step: expert, key bits, global token, weight bits (R90, R91). -/
def candToken (x : LStep) (t : Nat) (avail : List (Nat × Val × Val)) : List (Nat × Nat × Nat × Nat) :=
  avail.map fun e =>
    let w := if x.route.gateFn = 2 then elemFn .sigmoid e.2.2 else softmaxWeight (avail.map fun a => a.2.2) e.2.2
    (e.1, fp32Bits e.2.1, x.tokenBase + t, fp32Bits w)

/-! ## Count records (R84) -/

/-- First and second choices of each expert among a member's choices. -/
def choiceCounts (x : LStep) : List (Nat × Nat) :=
  (upFrom 0 x.route.eCount).map fun e =>
    ((x.choices.filter fun c => c.expert = e && !c.second).length, (x.choices.filter fun c => c.expert = e && c.second).length)

/-- The bytes of a count record (R84). -/
def CountRec.bytes (r : CountRec) : List Byte :=
  leBytes 8 r.msc ++ leBytes 2 (r.layer % 2 ^ 10 + b2n r.modeEc * 2 ^ 10 + b2n r.failed * 2 ^ 11) ++ leBytes 2 r.rank ++
    leBytes 2 r.n ++ leBytes 2 r.lost.length ++ leBytes 4 r.eCount ++ leBytes 4 r.maskVer ++ leBytes 4 r.tokenBase ++
    leBytes 4 r.page ++ (upFrom 0 8).flatMap (fun i => leBytes 4 (r.lost.getD i 0)) ++
    r.counts.flatMap (fun c => leBytes 2 c.1 ++ leBytes 2 c.2)

/-- A count record read from its bytes (R84). -/
def CountRec.ofBytes (bs : List Byte) : CountRec :=
  let b := byteField bs
  let e := b 16 4 % 2 ^ 17
  let f := b 8 2
  { msc := b 0 8, layer := f % 2 ^ 10, modeEc := bitOf f 10, failed := bitOf f 11, rank := b 10 2 % 2 ^ 11
    n := b 12 2 % 2 ^ 15, lost := (upFrom 0 (b 14 1 % 16)).map fun i => b (32 + 4 * i) 4 % 2 ^ 20
    eCount := e, maskVer := b 20 4, tokenBase := b 24 4, page := b 28 4
    counts := (upFrom 0 e).map fun i => (b (64 + 4 * i) 2, b (66 + 4 * i) 2) }

/-! ## Capacity and slots (R86–R89) -/

/-- Tokens of the group (R83). -/
def totalTokens (x : LStep) : Nat := (x.records.map fun e => e.2.n).foldl (· + ·) 0

/-- Capacity of the layer's experts in the step (R86). -/
def capacityOf (r : RouteDesc) (ntot : Nat) : Nat :=
  if r.capMode = 1 then r.capFixed
  else min 65536 (max 1 (ceilDiv (r.cf * r.k * ntot) (256 * r.eCount)))

/-- Group totals of an expert: first and second choices. -/
def expertTotals (x : LStep) (e : Nat) : Nat × Nat :=
  x.records.foldl (fun acc m => let c := m.2.counts.getD e (0, 0); (acc.1 + c.1, acc.2 + c.2)) (0, 0)

/-- This member's bases of an expert (R87). -/
def expertBases (x : LStep) (rank e : Nat) : Nat × Nat :=
  let low := (x.records.filter fun m => m.1 < rank).foldl
    (fun acc m => let c := m.2.counts.getD e (0, 0); (acc.1 + c.1, acc.2 + c.2)) (0, 0)
  (low.1, (expertTotals x e).1 + low.2)

/-- The slot of each choice in choice-major, global token order, and whether it spills (R87, R88). -/
def slotChoices (x : LStep) (rank c : Nat) : List ChoiceRec :=
  (upFrom 0 x.choices.length).filterMap fun i =>
    x.choices[i]?.map fun ch =>
      let before := ((x.choices.take i).filter fun d => d.expert = ch.expert && d.second = ch.second).length
      let base := expertBases x rank ch.expert
      let slot := (if ch.second then base.2 else base.1) + before
      { ch with slot, spill := c ≤ slot }

/-- The sum weight of a token whose other choice spilled, where RENORM is set (R89). -/
def renormChoice (r : RouteDesc) (all : List ChoiceRec) (c : ChoiceRec) : ChoiceRec :=
  match all.filter fun d => d.token = c.token && d.second != c.second with
  | [d] =>
    if r.renorm && !c.spill && d.spill then
      let w := rne32 ((decodeFloat fmtFp32 c.weight).add (decodeFloat fmtFp32 d.weight))
      { c with weight := fp32Bits w, renormed := true }
    else c
  | _ => c

/-- The group's spill and choices figures (R94). -/
def groupFigures (x : LStep) (c : Nat) : Nat × Nat :=
  (upFrom 0 x.route.eCount).foldl (fun acc e =>
    let t := expertTotals x e
    (acc.1 + (t.1 + t.2 - c), acc.2 + t.1 + t.2)) (0, 0)

/-! ## Expert-choice (R90) -/

/-- Order of an expert's candidates: higher key first, then lower global token; entries are (expert, key, token, _). -/
def candBefore (a b : Nat × Nat × Nat × Nat) : Bool :=
  let ka := decodeFloat fmtFp32 a.2.1
  let kb := decodeFloat fmtFp32 b.2.1
  let lt := fun (p q : Val) => !(p.isZero && q.isZero) && p.lt q
  if lt kb ka then true else if lt ka kb then false else a.2.2.1 < b.2.2.1

/-- The best C candidates of an expert among a list. -/
def bestCands (c e : Nat) (l : List (Nat × Nat × Nat × Nat)) : List (Nat × Nat × Nat × Nat) :=
  (sortBy candBefore (l.filter fun x => x.1 = e)).take c

/-- The assignments of an expert: (expert, slot, global token, source rank), slots in ascending global token index. -/
def assignSlots (c e : Nat) (l : List (Nat × Nat × Nat × Nat)) : List (Nat × Nat × Nat × Nat) :=
  let kept := sortBy (fun (a b : Nat × Nat × Nat × Nat) => a.2.2.1 < b.2.2.1) (bestCands c e l)
  (kept.zip (upFrom 0 kept.length)).map fun (k, i) => (e, i, k.2.2.1, k.2.2.2)

/-! ## Structures written (R99–R102) -/

/-- A dispatch list entry (R99), 256 bits. -/
def dispatchEntry (x : LStep) (c : ChoiceRec) : Nat :=
  (x.tokenBase + c.token) % 2 ^ 32 + c.expert * 2 ^ 32 + min c.slot 65535 * 2 ^ 48 + c.destEp * 2 ^ 64 +
    c.destTile * 2 ^ 84 + b2n c.second * 2 ^ 92 + b2n c.spill * 2 ^ 93 + b2n c.renormed * 2 ^ 94 + c.weight * 2 ^ 96 +
    c.token * 2 ^ 128 + x.gen * 2 ^ 144 + x.layer * 2 ^ 160 + c.expSlot * 2 ^ 192

/-- Order of a dispatch list: surviving entries by DEST_EP, EXPERT, SLOT; then spilled ones by token and CHOICE
(R100). -/
def dispatchBefore (a b : ChoiceRec) : Bool :=
  if a.spill != b.spill then b.spill
  else if a.spill then if a.token ≠ b.token then a.token < b.token else !a.second && b.second
  else if a.destEp ≠ b.destEp then a.destEp < b.destEp
  else if a.expert ≠ b.expert then a.expert < b.expert else a.slot < b.slot

/-- What a member knows of F for an expert of another owner in an expert-choice step (R90): the least and the greatest value that its
own candidates, the slots its own tokens were given and the group's token count allow. -/
def filledBounds (x : LStep) (e : Nat) : Nat × Nat :=
  let own := (x.cands.filter fun c => c.1 = e).length
  let given := (x.choices.filter fun c => c.expert = e).foldl (fun m c => max m (c.slot + 1)) 0
  if x.excluded.contains (x.route.expBase + e) then (0, 0)
  else (max given (min x.cap own), max given (min x.cap (own + (x.ntot - x.n))))

/-- The real slots of an expert (R101, FILLED). In an expert-choice step the exchanges of R90 tell a member F of its own
experts only; of the others it is a free value within what the member knows (DESIGN CHOICE: no exchange of R90 carries it). -/
def filledOf (x : LStep) (e : Nat) : Nat :=
  if x.ec then
    (match x.owned.find? fun o => o.expert = e with
     | some o => o.filled
     | none =>
       let b := filledBounds x e
       b.1 + (Config.freeWord x.freeDraw e).toNat % (b.2 - b.1 + 1))
  else let t := expertTotals x e; min x.cap (t.1 + t.2)

/-- The capacity table: header and one entry per expert (R101). -/
def capTableOf (x : LStep) (rank size : Nat) : List Nat :=
  let head := x.msc + (x.layer + b2n x.ec * 2 ^ 10 + b2n (x.ec && x.auto) * 2 ^ 11) * 2 ^ 64 + rank * 2 ^ 80 +
    x.cap * 2 ^ 96 + x.ntot * 2 ^ 128 + size * 2 ^ 160 + x.groupSpill * 2 ^ 192 + x.groupChoices * 2 ^ 224
  let loc := choiceCounts x
  head :: (upFrom 0 x.route.eCount).map fun e =>
    let t := if x.ec then (filledOf x e, 0) else expertTotals x e
    let b := if x.ec then (0, 0) else expertBases x rank e
    let l := loc.getD e (0, 0)
    let sp := fun (two : Bool) => (x.choices.filter fun c => c.expert = e && c.second = two && c.spill).length
    t.1 + t.2 * 2 ^ 32 + b.1 * 2 ^ 64 + b.2 * 2 ^ 96 + l.1 * 2 ^ 128 + l.2 * 2 ^ 144 + filledOf x e * 2 ^ 160 +
      sp false * 2 ^ 192 + sp true * 2 ^ 208

/-! ## The routing area (R81, R82) -/

/-- The capacity counters of the four engines as they stand at parking: for each engine and expert, first and second choices (R66,
R87). -/
def engineCounts (x : LStep) : List (Nat × Nat) :=
  (upFrom 0 4).flatMap fun n => (upFrom 0 x.route.eCount).map fun e =>
    let mine := x.choices.filter fun c => c.expert = e && quarterOf x.n c.token = n
    ((mine.filter fun c => !c.second).length, (mine.filter fun c => c.second).length)

/-- The parts of a routing area by offset. R82 names them and gives no layout; the model lays them end to end (DESIGN CHOICE): the
capacity table, the parked counters of engines 0 to 3 as two 32-bit fields an expert, the fallback candidates as 8 bytes
each (R90), then the four dispatch lists. -/
def areaCounters (x : LStep) : Nat := 32 + 32 * x.route.eCount
def areaCands (x : LStep) : Nat := areaCounters x + 32 * x.route.eCount
def areaLists (x : LStep) : Nat := areaCands x + 8 * x.cands.length

/-- The module writes its own bytes into a stream's routing area in DRAM. Bytes for a page that the stream's function does not find
mapped with a DRAM copy are not written (DESIGN CHOICE: no rule says what then happens; the engines hold the data all the same). -/
def areaStore (s : State) (x : LStep) (off : Nat) (bs : List Byte) : State :=
  let a := (s.stream x.ctx x.stream).routeArea + off
  let here := (pagesOf a bs.length).all fun p => match pageFor s x.func p with | some d => d.inDram && !d.lost | none => false
  if (s.stream x.ctx x.stream).routeArea = 0 || !here then s else wspStore false s a bs

/-- What parking writes (R81): the capacity counters, and an expert-choice step's candidates. -/
def writeParked (s : State) (x : LStep) : State :=
  let s := areaStore s x (areaCounters x) ((engineCounts x).flatMap fun c => leBytes 4 c.1 ++ leBytes 4 c.2)
  areaStore s x (areaCands x) (x.cands.flatMap fun c => leBytes 4 c.2.1 ++ leBytes 4 c.2.2.1)

/-- What stage 4 writes (R82, R99, R101): the capacity table and the dispatch lists. -/
def writeBuilt (s : State) (x : LStep) : State :=
  let s := areaStore s x 0 (x.capTable.flatMap (leBytes 32))
  areaStore s x (areaLists x) (x.lists.flatMap fun l => l.2.flatMap (leBytes 32))

/-- A trip-count record (R102). -/
def tripRecord (expert gen filled : Nat) : Nat := expert + gen * 2 ^ 16 + filled * 2 ^ 32

end Sys2Proof.Machine
end

