-- ==== Sys2Proof/Machine/Runner.lean ====
section
/-!
DEFINITION. The Runner in a layer step: first packets and mismatch (R136–R138), the data phase (R122–R125), returns and
combine (R127–R130), lost experts (R98, R395), and the end of a step (R267, R311).
-/
namespace Sys2Proof.Machine

/-! ## Groups and sends -/

/-- `x` rotated left by `n` within 32 bits. -/
def rotl32 (x n : Nat) : Nat := ((x <<< n) ||| (x >>> (32 - n))) % 2 ^ 32

/-- The descriptor hash of three words (R136). -/
def descHash (op fmt epoch cnt group : Nat) : Nat :=
  (op + fmt * 2 ^ 8 + epoch * 2 ^ 16) ^^^ rotl32 cnt 11 ^^^ rotl32 group 22

/-- A step's hash (R136). -/
def stepHash (s : State) (x : LStep) : Nat := descHash 0x03 9 (curEpoch s) x.route.eCount x.group

/-- This member's group of a step; a step without one stands alone. -/
def groupOf (s : State) (g : Nat) : Group := (s.group g).getD { members := [endpointId s] }

/-- The rank of an endpoint in a group. -/
def Group.rankOf (g : Group) (ep : Nat) : Option Nat := (g.members.zip (upFrom 0 g.members.length)).lookup ep

/-- The endpoint of a rank. -/
def Group.endpoint (g : Group) (r : Nat) : Nat := g.members.getD r 0

/-- The ranks of a group but this member's. -/
def Group.peers (g : Group) : List Nat := (upFrom 0 g.members.length).filter (· ≠ g.rank)

/-- A Runner packet of a group to one rank (R117). -/
def sendRank (s : State) (func slice gid rank : Nat) (owner : Owner) (p : ExPkt) : State :=
  let g := groupOf s gid
  sendEx s func slice (g.endpoint rank) owner { p with group := gid, reforms := g.reforms, srcRank := g.rank }

/-- A packet of a layer step to one rank; a sent packet is progress (R331). -/
def sendStep (s : State) (x : LStep) (slice rank : Nat) (owner : Owner) (p : ExPkt) : State :=
  let s := sendRank s x.func slice x.group rank owner { p with mscSeq := x.msc, layer := x.layer, hash := stepHash s x }
  streamProgress s x.ctx x.stream

/-- Pieces of data of at most 4,096 bytes, with their FRAG (R117). -/
def fragments (bs : List Byte) : List (Nat × List Byte) :=
  let ps := chunksOf 4096 bs (bs.length / 4096 + 1)
  (ps.zip (upFrom 0 ps.length)).map fun (p, i) => (16 * i, p)

/-- A contribution of known place, with its length before it where the receiver cannot know it. -/
def withLength (bs : List Byte) : List Byte := leBytes 8 bs.length ++ bs

/-- Data received in pieces: the new piece put in its place (R118). -/
def assemble (a : List (Nat × Nat) × Mem) (frag : Nat) (bs : List Byte) : List (Nat × Nat) × Mem :=
  if covers a.1 (256 * frag) bs.length && bs.length ≠ 0 then a
  else (a.1 ++ [(256 * frag, bs.length)], writeBytes (256 * frag) bs a.2)

/-- The contribution behind its length, once it is all there. -/
def assembled (a : List (Nat × Nat) × Mem) : Option (List Byte) :=
  if covers a.1 0 8 then
    let n := leNat (readBytes 0 8 a.2)
    if covers a.1 0 (8 + n) then some (readBytes 8 n a.2) else none
  else none

/-- RUN_ERR and RUN_ERR_INFO (R151). -/
def runErr (s : State) (f : FieldRef) (gid rank hash : Nat) : State :=
  let s := setRaw s Reg.RUN_ERR_INFO 0 0 (gid + rank % 2 ^ 11 * 2 ^ 16 + f.lo * 2 ^ 28 + hash * 2 ^ 32)
  setErr s f

/-- RTE_ERR and RTE_ERR_INFO of some engines (R106). -/
def rteErrAt (s : State) (f : FieldRef) (engines : List Nat) (x : LStep) (page : Nat) : State :=
  engines.foldl (fun s n =>
    let s := setRaw s Reg.RTE_ERR_INFO n 0 (x.ctx + x.layer * 2 ^ 18 + f.lo * 2 ^ 28 + page * 2 ^ 32)
    setErr s f n) s

/-- The engines that a step concerns: those that take part in it (R29). A step without tokens has none; what befalls its count
phase is then shown by engine 0 (DESIGN CHOICE). -/
def stepEngines (x : LStep) : List Nat :=
  let l := (upFrom 0 4).filter (engineUsed x.n)
  if l.isEmpty then [0] else l

/-- RTE_ERR and RTE_ERR_INFO of a step's engines (R106). -/
def rteErr (s : State) (f : FieldRef) (x : LStep) (page : Nat) : State := rteErrAt s f (stepEngines x) x page

/-- The engines that read page `q` in stage 2 of a step: its activations are read by the engines of those tokens, all else by
every engine that takes part (R29, R105). -/
def enginesMeeting (x : LStep) (q : Nat) : List Nat :=
  let len := x.route.rowLen
  let acts := (upFrom 0 4).filter fun n => (upFrom 0 x.n).any fun t =>
    quarterOf x.n t = n && rangesMeet (q * pageBytes) pageBytes (x.inAddr + t * len) len
  if acts.isEmpty then stepEngines x else acts

/-! ## How a step ends -/

/-- A step ends at this member without commit: its work stops everywhere (R311). -/
def failStep (s : State) (seq : Nat) (r : Result) : State :=
  match s.step seq with
  | none => s
  | some _ =>
    let s := stopStepWork (stopTileWork s seq) seq
    endCmd (freeCmdChains s seq) seq r

/-- The report of a mismatch (R138); `num` is the sequence number or the layer. -/
def mismatchResult (s : State) (gid offender offHash detector detHash num : Nat) : Result :=
  { status := stCollMismatch, detail := offender, word0 := offHash + detHash * 2 ^ 32
    word1 := detector + gid * 2 ^ 16 + curEpoch s * 2 ^ 32 + num % 2 ^ 16 * 2 ^ 48 }

/-- A step ends for a mismatch: RUN_ERR, the COLL_ABORT event and the completion (R137, R138). -/
def endMismatch (s : State) (seq : Nat) (x : LStep) (offender offHash detector detHash : Nat) : State :=
  let r := mismatchResult s x.group offender offHash detector detHash x.layer
  let s := runErr s Fld.RUN_ERR_MISMATCH x.group offender offHash
  let s := journalEvent s 0x05 seq r.word0 r.word1 (eventHead x.ctx x.stream x.layer) x.msc
  failStep s seq r

/-- ABORT goes to every other member (R137), with `data` after its header. -/
def sendAbort (s : State) (x : LStep) (offender offHash detHash : Nat) (data : List Byte := []) : State :=
  let g := groupOf s x.group
  g.peers.foldl (fun s m =>
    sendRank s x.func 0 x.group m .runner
      { kind := 5, mscSeq := x.msc, layer := x.layer, hash := offHash, rank := offender, rank2 := g.rank, aux := detHash, data }) s

/-- This member finds a difference and aborts the step on every member (R85, R124, R137). `hash` is the offender's
hash; none where a DISPATCH is at fault and the hashes are zero. -/
def detectMismatch (s : State) (seq : Nat) (x : LStep) (offender : Nat) (hash : Option Nat) : State :=
  let g := groupOf s x.group
  let own := if hash.isSome then stepHash s x else 0
  let offHash := hash.getD 0
  let s := count s (bankRun 0) 9
  let s := sendAbort s x offender offHash own
  endMismatch s seq x offender offHash g.rank own

/-- An ABORT that stands for ST_UNCORRECTABLE (R105): the format of R137 has no place for it. The model marks it so (DESIGN CHOICE):
its detector is its offender, and the second hash is the complement of the first, which no mismatch of R85, R124 or R137 gives; the
page number, 8 bytes, follows its header. -/
def abortMark (hash : Nat) : Nat := hash ^^^ 0xFFFFFFFF

/-- An uncorrectable or unmapped page met after the member's record has gone: the step aborts on every member, with
ST_UNCORRECTABLE (R105, R394, R600). -/
def abortUncorrectable (s : State) (seq : Nat) (x : LStep) (page : Nat) : State :=
  let g := groupOf s x.group
  let s := meetBad s x.func page
  let s := if x.binding.routeDesc = 0 then s else sendAbort s x g.rank (stepHash s x) (abortMark (stepHash s x)) (leBytes 8 page)
  failStep s seq { status := stUncorrectable, word0 := g.rank + page * 2 ^ 32 }

/-- Each routing engine that met a page that cannot be read logs it (R105, R499). -/
def logUncorr (s : State) (x : LStep) (engines : List Nat) (page : Nat) : State :=
  engines.foldl (fun s e => raiseErr s Fld.RTE_ERR_UNCORR e .contained { unit := e, ctx := x.ctx, addr := page }) s

/-- Page `page`, which a routing engine reads, cannot be read once the member's record has gone (R105): it is logged, and the step
aborts. -/
def abortRouting (s : State) (seq : Nat) (x : LStep) (page : Nat) : State :=
  let es := enginesMeeting x page
  let s := rteErrAt s Fld.RTE_ERR_UNCORR es x page
  let s := logUncorr s x es page
  abortUncorrectable s seq x page

/-- A step ends with the contents of an ABORT: those of a mismatch, or ST_UNCORRECTABLE where it stands for that (R105, R137). -/
def endAborted (s : State) (seq : Nat) (x : LStep) (k : KeptAbort) : State :=
  if k.offender = k.detector && k.detHash = abortMark k.offHash then
    failStep s seq { status := stUncorrectable, word0 := k.offender + k.page * 2 ^ 32 }
  else endMismatch s seq x k.offender k.offHash k.detector k.detHash

/-- The first page of the placement table that cannot be read. -/
def badPlacement (s : State) (x : LStep) : Option Nat := badPage s x.func x.route.placeAddr (8 * x.route.eCount)

/-- A group at which no operation runs any more: broken, or this member is removed from it (R145, R146). -/
def Group.shut (g : Group) : Bool := g.broken || g.removed

/-- Detail word 0 of ST_GROUP_REFORMED at such a group (R145, R146). -/
def brokenWord (g : Group) : Nat := b2n g.removed * 2 ^ 48 + b2n g.broken * 2 ^ 49

/-! ## Triggered operations of a layer step (R126) -/

/-- What a layer step's counters count: the rows of an owned expert, a member's ARM, the returns of a token, the step's end. -/
def trigRows (e : Nat) : Nat := e
def trigArm (rank : Nat) : Nat := 2 ^ 16 + rank
def trigToken (t : Nat) : Nat := 2 ^ 17 + t
def trigEnd : Nat := 2 ^ 18

/-- Bytes of a received row (R120). -/
def rowLenOf (x : LStep) : Nat := rowBytes (wocFmt x.xchg.dispWoc) x.xchg.hx

/-- The slice that serves an owned expert: that of its tile's home base die (R108). -/
def ownerSlice (s : State) (tile : Nat) : Nat := match physOf s tile with | some t => homeDie t | none => 0

/-- The choices of a token that contribute to it (R129). -/
def contributing (x : LStep) (t : Nat) : List ChoiceRec := x.choices.filter fun c => c.token = t && !c.spill

/-- The triggered operations that slice `n` builds from a step's dispatch lists and capacity table (R108, R122, R126, R129):
padding and the trip-count record of each expert it serves, the row of each surviving choice of its tokens, the combination of
each of its tokens, and on slice 0 the report to the command processor. Which entries an operation takes and what its
counters count is the model's (DESIGN CHOICE). -/
def stepOps (s : State) (seq : Nat) (x : LStep) (n : Nat) : List TrigOp :=
  let g := groupOf s x.group
  let op := fun (key action threshold operand : Nat) => ({ seq, key, action, threshold, operand } : TrigOp)
  let mine := x.owned.filter fun o => ownerSlice s o.tile = n
  let toks := (upFrom 0 x.n).filter fun t => quarterOf x.n t = n
  let inLen := rowBytes x.xchg.inFmt x.xchg.hx
  mine.flatMap (fun o =>
    (if o.filled < x.cap then [op (trigRows o.expert) 1 0 (o.region + o.filled * rowLenOf x)] else []) ++
      [op (trigRows o.expert) 2 o.filled (tripRecord o.expert x.gen o.filled + o.tile * 2 ^ 56)]) ++
  toks.flatMap (fun t => (contributing x t).filterMap fun c => (g.rankOf c.destEp).map fun r =>
    op (trigArm r) 0 1 (x.inAddr + t * inLen)) ++
  toks.map (fun t => op (trigToken t) 3 (contributing x t).length t) ++
  (if n = 0 then [op trigEnd 6 1 seq] else [])

/-- A step's triggered operations are issued to the four slices, each of which counts a step that it must issue in parts (R126,
R152). -/
def issueStep (s : State) (seq : Nat) (x : LStep) : State :=
  (upFrom 0 4).foldl (fun s n =>
    let s := issueTrig s n (stepOps s seq x n)
    if trigWaits s n seq then count s (bankRun n) 17 else s) s

/-! ## Work handed to tiles (R102, R122, R226, R387, R391) -/

/-- Pages tagged with an expert of a model (R365). -/
def expertPages (s : State) (model expert : Nat) : List Nat :=
  (s.wsp.pages.filter fun e => e.2.tag = 2 && e.2.model = model && e.2.expert = expert).map Prod.fst

/-- The STAGE entries of the layer for a logical tile that are not skipped, under the list of the stream's step (R387, R389). -/
def stageEntries (s : State) (x : LStep) (tile : Nat) : List PourEntry :=
  match lookup (streamId x.ctx x.stream) s.wsp.windows with
  | none => []
  | some w => if w.model ≠ x.model then []
    else w.list.entries.filter fun e =>
      e.kind = 2 && e.layer = x.layer && e.tile = tile && stageRegionCovers s x.model tile e.spad e.len

/-- Every one of them holds its data (R387). -/
def stageReady (s : State) (x : LStep) (tile : Nat) : Bool :=
  (stageEntries s x tile).all fun e => s.wsp.staged.contains (tile, { model := x.model, entry := e, held := true })

/-- The STAGE entries that a work item waits for are staged, those too whose staging no change of a window asked for (R387, R388;
DEDUCED: PREFETCH_EN 0, a release and an eviction change timing only, so the item must not wait for ever). -/
def wantStaged (s : State) (x : LStep) (tile : Nat) : State :=
  let want := (stageEntries s x tile).filter fun e =>
    !s.wsp.staged.any fun d => d.1 = tile && d.2.model = x.model && d.2.entry = e
  { s with wsp := { s.wsp with staged := s.wsp.staged ++ want.map fun e => (tile, { model := x.model, entry := e }) } }

/-- A work item joins a tile's queue where it has room (R226). -/
def queueItem (s : State) (t : Nat) (i : Item) : Option State :=
  if (s.tile t).items.length < 64 then some (s.modTile t fun x => { x with items := x.items ++ [i], lastWork := s.ticks })
  else none

/-- One owned expert's record goes to its tile once its rows and tagged pages are there (R122, R391). -/
def handOne (s : State) (seq : Nat) (o : OwnedExp) : State :=
  match s.step seq with
  | none => s
  | some x =>
    let due := !o.handed && !o.lost && !x.disarmed.contains o.tile && o.filled ≤ o.arrived
    let ready := (o.filled = 0 || (expertPages s x.model (x.route.expBase + o.expert)).all fun p =>
        (match s.page p with | some d => d.inDram | none => true)) && stageReady s x o.tile
    if !due then s
    else if !ready then
      let s := wantStaged s x o.tile
      if o.delayed then s
      else (count s bankWsp 14).modStep seq fun y => { y with owned := y.owned.map fun p =>
        if p.expert = o.expert then { p with delayed := true } else p }
    else match physOf s o.tile with
      | none => s
      | some t =>
        let i : Item := { payload := tripRecord o.expert x.gen o.filled, image := x.image, entry := x.binding.tripEntry
                          kind := 0, layer := x.layer, ctx := x.ctx, stream := x.stream, seq, msc := x.msc }
        match queueItem s t i with
        | none => s
        | some s =>
          let s := meshCarry s .request (.bridge (homeDie t)) (.tile t) {}
          let s := streamProgress s x.ctx x.stream
          s.modStep seq fun y => { y with owned := y.owned.map fun p => if p.expert = o.expert then { p with handed := true } else p }

/-- One STEP part goes to its tile where the queue has room and the layer's staged data is there (R226, R387). -/
def handPart (s : State) (seq : Nat) (w : Nat × Item) : State :=
  match s.step seq with
  | none => s
  | some x =>
    let ready := match logicalOf s w.1 with
      | some l => stageReady s x l
      | none => true
    let part := w.2.entry * 256 + bitsOf w.2.payload 30 8
    if !ready then
      let s := match logicalOf s w.1 with
        | some l => wantStaged s x l
        | none => s
      if x.delayed.contains part then s
      else (count s bankWsp 14).modStep seq fun y => { y with delayed := part :: y.delayed }
    else match queueItem s w.1 w.2 with
      | none => s
      | some s =>
        let s := meshCarry s .request (.bridge (homeDie w.1)) (.tile w.1) {}
        (streamProgress s x.ctx x.stream).modStep seq fun y => { y with waiting := y.waiting.filter (· ≠ w) }

/-- Every record and every STEP part of every open step that can be handed over is (R122, R226, R387, R391). -/
def handReady (s : State) : State :=
  s.xch.steps.foldl (fun s e =>
    let s := e.2.waiting.foldl (fun s w => handPart s e.1 w) s
    e.2.owned.foldl (fun s o => handOne s e.1 o) s) s

/-! ## Return and combine (R128–R130) -/

/-- Bytes of a returned row: BF16 (R125). -/
def retBytes (x : LStep) : Nat := rowBytes fmtBf16 x.xchg.hx

/-- The byte address of offset `off` in a chain of buffers of a pool. -/
def chainAddr (p : Pool) (bufs : List Nat) (off : Nat) : Nat :=
  p.firstPage * pageBytes + bufs.getD (off / p.bufBytes) 0 * p.bufBytes + off % p.bufBytes

/-- Bytes written into a chain of buffers from offset `off` on. -/
def chainWrite (s : State) (key : Nat) (bufs : List Nat) (off : Nat) (bs : List Byte) : State :=
  match s.pool key with
  | none => s
  | some p =>
    let put := fun (m : Mem) (b : Byte × Nat) => writeByte (chainAddr p bufs (off + b.2)) b.1 m
    { s with wsp := { s.wsp with dram := (bs.zip (upFrom 0 bs.length)).foldl put s.wsp.dram } }

/-- A token has all its parts (R129). -/
def tokenComplete (x : LStep) (t : Nat) : Bool := (contributing x t).all fun c => c.back

/-- The combined row of a token (R129, R483), and how many draws it took. -/
def combineRow (s : State) (seq : Nat) (x : LStep) (t : Nat) : List Byte × Nat :=
  let hx := x.xchg.hx
  let parts := ((contributing x t).filter fun c => !c.lost).map fun c =>
    (readRow fmtBf16 hx (readBytes 0 (retBytes x) c.row)).map fun y => (decodeFloat fmtFp32 c.weight).mul y
  let addLen := rowBytes x.xchg.addFmt hx
  let adds := ([x.add0, x.add1].take x.xchg.addN).map fun a =>
    readRow x.xchg.addFmt hx (stepBytes s seq (a + t * addLen) addLen)
  let all := parts ++ adds
  let accs := (upFrom 0 hx).map fun e => all.foldl (fun (acc : Acc) r => acc.addend (r.getD e .zero)) {}
  let woc := x.xchg.outWoc
  if wocFmt woc = fmtExact then (accs.flatMap Acc.bytes, 0)
  else
    let seed := match s.context x.ctx with | some c => c.seed | none => 0
    let sr := wocMode woc = 4
    let d := fun e => if sr then drawWrite seed 0xFFFFF x.layer x.msc ((x.tokenBase + t) * hx + e) else 0
    (writeRow woc ((accs.zip (upFrom 0 hx)).map fun (a, e) => (a.val, d e)), if sr then hx else 0)

/-- Bytes of an output row. -/
def outBytes (x : LStep) : Nat :=
  if wocFmt x.xchg.outWoc = fmtExact then 96 * x.xchg.hx else rowBytes (wocFmt x.xchg.outWoc) x.xchg.hx

/-- A CANCEL accepted after the step has committed (R131, R299). -/
def stepStale (s : State) (seq : Nat) : Bool := (s.cmd seq).any fun c => c.cancels ≠ 0

/-- The addend rows of a token. -/
def tokenAddends (x : LStep) (t : Nat) : List (Nat × Nat) :=
  let len := rowBytes x.xchg.addFmt x.xchg.hx
  ([x.add0, x.add1].take x.xchg.addN).map fun a => (a + t * len, len)

/-- The first page of a token's addends that cannot be read. -/
def badAddend (s : State) (x : LStep) (t : Nat) : Option Nat := (tokenAddends x t).findSome? fun a => badPage s x.func a.1 a.2

/-- The first LOST page of the return area under the rows returned for a token (R394, R396). -/
def lostReturn (s : State) (x : LStep) (t : Nat) : Option Nat :=
  match (s.stream x.ctx x.stream).retArea with
  | none => none
  | some (key, bufs) => match s.pool key with
    | none => none
    | some p => ((contributing x t).filter fun c => !c.lost).findSome? fun c =>
        let off := (t * x.route.k + b2n c.second) * retBytes x
        ((upFrom 0 (retBytes x / 8)).map fun w => pageOf (chainAddr p bufs (off + 8 * w))).eraseDups.find? fun q =>
          (s.page q).any fun d => d.lost

/-- A token's row is combined and written to the step's output (R129). -/
def writeToken (s : State) (seq : Nat) (x : LStep) (t : Nat) : State :=
  let (bs, draws) := combineRow s seq x t
  let s := (tokenAddends x t).foldl (fun s a => noteReads s a.1 a.2) s
  let s := countDraws (ownWrite s seq (x.outAddr + t * outBytes x) bs) draws
  let s := count s (bankRun (quarterOf x.n t)) 7
  s.modStep seq fun y => { y with combined := t :: y.combined, tokWait := y.tokWait.filter (· ≠ t) }

/-- The lines that peers hold of what combining a token reads and writes (R454). -/
def tokenLines (s : State) (x : LStep) (t : Nat) : List LineNeed :=
  windowLines s false (tokenAddends x t) ++ windowLines s true [(x.outAddr + t * outBytes x, outBytes x)]

/-- A token whose parts are all there is combined (R129); the member's tile work and its other tokens do not matter. A page of its addends
without a DRAM copy is fetched first (R369, R390), as are lines that peers hold (R454), and one that cannot be read aborts the step (R394,
R600). -/
def combineToken (s : State) (seq t : Nat) : State :=
  match s.step seq with
  | none => s
  | some x =>
    if x.stage ≠ .data || x.combined.contains t || stepStale s seq || x.n ≤ t || !tokenComplete x t then s
    else match lostReturn s x t, badAddend s x t, (tokenAddends x t).flatMap fun a => absentPages s a.1 a.2 with
      | some q, _, _ => abortUncorrectable (meetLost s q) seq x q
      | none, some q, _ => abortUncorrectable s seq x q
      | none, none, [] =>
        if (tokenLines s x t).isEmpty then writeToken s seq x t
        else askLines (s.modStep seq fun y => { y with tokWait := insertSorted t y.tokWait }) (tokenLines s x t)
      | none, none, ps => waitForPages (s.modStep seq fun y => { y with tokWait := insertSorted t y.tokWait }) x.ctx x.stream ps

/-- Choices of this member that were lost (R98). -/
def lostChoices (x : LStep) : Nat := (x.choices.filter fun c => c.lost).length

/-- The step status of a step that commits (R267). -/
def stepStatus (s : State) (seq : Nat) (x : LStep) : Result :=
  let spills := (x.choices.filter fun c => c.spill).length
  let lost := lostChoices x
  let timing := match s.cmd seq with | some c => c.timingEvent | none => false
  { status := stOk
    detail := b2n x.speculative + 2 * b2n (x.expertLost || lost ≠ 0) + 4 * b2n (x.ec && x.auto) + 8 * b2n (spills ≠ 0) +
      16 * b2n (x.absent ≠ 0) + 32 * b2n timing
    word0 := satBits 32 x.possiblyLost + satBits 32 x.specSkipped * 2 ^ 32
    word1 := satBits 32 spills + satBits 16 lost * 2 ^ 32 }

/-- An owned expert's work is done: its kernel has ended, or it is lost and all its rows have come. -/
def OwnedExp.worked (o : OwnedExp) : Bool := o.done || (o.lost && o.filled ≤ o.arrived)

/-- Every row of an owned expert has come, and the output of every one from another member has been sent back (R130). -/
def OwnedExp.repaid (o : OwnedExp) (own : Nat) : Bool :=
  o.filled ≤ o.arrived && o.rows.all fun r => r.2.returned || r.2.rank = own

/-- R130's second condition: every RETURN owed to other members has been sent and acknowledged. -/
def returnsDone (x : LStep) (own : Nat) : Bool := x.unacked = 0 && x.owned.all fun o => o.repaid own

/-- A step whose tokens are combined, whose returns are delivered and whose tile work is done ends: it commits, or for a
cancelled one, whose dispatches have all gone, ends with ST_STALE_GENERATION (R28, R130, R131). Its stream is free once the
step's COMPLETE entry is durable (R104). -/
def maybeCommit (s : State) (seq : Nat) : State :=
  match s.step seq with
  | none => s
  | some x =>
    let work := x.parts.isEmpty && x.owned.all OwnedExp.worked
    let stale := stepStale s seq
    let routed := x.stage = .data && work && returnsDone x (groupOf s x.group).rank
    let mine := if stale then x.choices.all fun c => c.spill || c.sent
      else (upFrom 0 x.n).all fun t => x.combined.contains t
    let ended := (x.stage = .local && work) || (routed && mine)
    if !ended then s
    else
      let s := dropTrig (bumpTrig s 0 seq trigEnd) seq
      if stale then
        let s := stopTileWork { s with xch := { s.xch with steps := eraseK seq s.xch.steps } } seq
        endCmd s seq { status := stStaleGeneration }
      else
        let s := if x.n = 0 || x.stage = .local then s
          else s.modCmd seq fun c => { c with outRange := some (x.outAddr, x.n * outBytes x) }
        let s := keepTileWork (s.modStep seq fun y => { y with stage := .done }) seq
        endCmd s seq (stepStatus s seq x)

/-- Rows and digests of a step for the recorder (R490, R491): dispatch rows and returns received. -/
def noteArrival (s : State) (seq : Nat) (ret : Bool) (key row : List Byte) : State :=
  let (dn, rn, dd, rd) := lookupD (0, 0, 0, 0) seq s.det.arrivals
  let h := crc64 (key ++ row)
  let v := if ret then (dn, rn + 1, dd, (rd + h) % 2 ^ 64) else (dn + 1, rn, (dd + h) % 2 ^ 64, rd)
  { s with det := { s.det with arrivals := insertK seq v s.det.arrivals } }

/-- The open layer step that a packet of a group names (R114). -/
def stepFor (s : State) (gid msc layer : Nat) : Option (Nat × LStep) :=
  s.xch.steps.find? fun e => e.2.group = gid && e.2.msc = msc && e.2.layer = layer && e.2.stage ≠ .done

/-- The choice that a RETURN from the owner at endpoint `ep` names (R127, R128). -/
def returnsTo (p : ExPkt) (ep : Nat) (c : ChoiceRec) : Bool :=
  c.token = p.token && b2n c.second = p.choice && c.destEp = ep && c.expSlot = p.expSlot && c.slot = p.slot && !c.spill

/-- The choices changed by `f` where they are the one that a RETURN names. -/
def modChoice (x : LStep) (p : ExPkt) (ep : Nat) (f : ChoiceRec → ChoiceRec) : LStep :=
  { x with choices := x.choices.map fun c => if returnsTo p ep c then f c else c }

/-- A return of a generation that is not its stream's is discarded and counted (R128, R151, R152). -/
def dropStale (s : State) (slice : Nat) : State :=
  count (bumpFld { s with xch := { s.xch with staleDrops := min (2 ^ 48 - 1) (s.xch.staleDrops + 1) } }
    Fld.RUN_STALE_DROPS_COUNT) (bankRun slice) 6

/-- A RETURN that meets no open step: it is discarded, and counted where its generation is not its stream's any more. -/
def lateReturn (s : State) (p : ExPkt) (slice : Nat) : State :=
  match (s.group p.group).bind fun g => g.bound with
  | some id => if p.gen = (s.stream (id / 64) (id % 64)).gen then s else dropStale s slice
  | none => s

/-- A RETURN reaches its source at a slice (R128, R395, R509): its bytes land in the return area, its choice completes, its token
is combined and the step may commit. -/
def takeReturn (s : State) (p : ExPkt) (at_ : Nat) : State :=
  match stepFor s p.group p.mscSeq p.layer with
  | none => lateReturn s p at_
  | some (seq, x) =>
    let slice := quarterOf x.n p.token
    let s := streamProgress s x.ctx x.stream
    if p.gen ≠ x.gen || stepStale s seq then maybeCommit (dropStale s slice) seq
    else
      let ep := (groupOf s x.group).endpoint p.srcRank
      match x.choices.find? (returnsTo p ep) with
      | none => s
      | some c =>
        if c.back then count s bankRas 6
        else if p.frag = 0xFFFF then
          let s := s.modStep seq fun y => modChoice { y with expertLost := true } p ep fun d => { d with back := true, lost := true }
          let s := bumpTrig (count s (bankRte slice) 6) slice seq (trigToken p.token)
          maybeCommit (combineToken s seq p.token) seq
        else if covers c.got (256 * p.frag) p.data.length then count s bankRas 6
        else
          let a := assemble (c.got, c.row) p.frag (p.data.take (retBytes x - 256 * p.frag))
          let whole := covers a.1 0 (retBytes x)
          let s := s.modStep seq fun y => modChoice y p ep fun d => { d with got := a.1, row := a.2, back := whole }
          let s := match (s.stream x.ctx x.stream).retArea with
            | some (key, bufs) =>
              chainWrite s key bufs ((p.token * x.route.k + p.choice) * retBytes x + 256 * p.frag) p.data
            | none => s
          if !whole then s
          else
            let s := injectAt s 6 slice
            let row := readBytes 0 (retBytes x) a.2
            let key := leBytes 2 x.layer ++ leBytes 2 p.token ++ leBytes 1 p.choice ++ List.replicate 11 0
            let s := count (noteArrival s seq true key row) (bankRun slice) 5
            let s := bumpTrig s slice seq (trigToken p.token)
            maybeCommit (combineToken s seq p.token) seq

/-- A RETURN packet of one fragment, to a rank; to this member itself it lands at once (R27, R127). -/
def sendReturn (s : State) (seq : Nat) (x : LStep) (slice : Nat) (r : SlotRec) (o : OwnedExp) (slot : Nat)
    (frag : Nat) (bs : List Byte) : State :=
  let g := groupOf s x.group
  let p : ExPkt := { kind := 2, destTile := o.tile, group := x.group, reforms := g.reforms, gen := r.gen, mscSeq := x.msc,
                     hash := stepHash s x, srcRank := g.rank, layer := x.layer, slot, expSlot := o.expSlot
                     choice := r.choice, token := r.token, frag, data := bs }
  let s := match physOf s o.tile with
    | some t => meshCarry s .exchange (.tile t) (.bridge slice) p
    | none => s
  if r.rank = g.rank then takeReturn s p slice
  else
    let s := s.modStep seq fun y => { y with unacked := y.unacked + 1 }
    sendStep s x slice r.rank (.ret seq) p

/-- An expert's output row in its slot is whole: it is returned (R127). -/
def returnRow (s : State) (seq : Nat) (o : OwnedExp) (slot : Nat) (r : SlotRec) : State :=
  match s.step seq with
  | none => s
  | some x =>
    let slice := ownerSlice s o.tile
    let s := count s (bankRun slice) 4
    (fragments (readBytes 0 (retBytes x) r.out)).foldl (fun s f => sendReturn s seq x slice r o slot f.1 f.2) s

/-- The owned experts of a step with one changed. -/
def modOwned (s : State) (seq e : Nat) (f : OwnedExp → OwnedExp) : State :=
  s.modStep seq fun x => { x with owned := x.owned.map fun o => if o.expert = e then f o else o }

/-- A tile writes bytes of an expert's output row, whose tail stays zero (R127, R598); a whole row goes back to its source. -/
def writeReturn (s : State) (seq e slot off : Nat) (bs : List Byte) : State :=
  match s.step seq with
  | none => s
  | some x =>
    match x.owned.find? fun o => o.expert = e with
    | none => s
    | some o =>
      match lookup slot o.rows with
      | none => s
      | some r =>
        let bs := bs.take (2 * x.xchg.hx - off)
        let r := { r with outGot := r.outGot ++ [(off, bs.length)], out := writeBytes off bs r.out }
        let whole := covers r.outGot 0 (2 * x.xchg.hx) && !r.returned
        let r := if whole then { r with returned := true } else r
        let s := modOwned s seq e fun o => { o with rows := insertK slot r o.rows }
        if whole then returnRow s seq o slot r else s

/-- A choice of a lost expert goes back without a row (R98). -/
def returnLost (s : State) (seq : Nat) (o : OwnedExp) (slot : Nat) (r : SlotRec) : State :=
  match s.step seq with
  | none => s
  | some x =>
    let s := modOwned s seq o.expert fun q => { q with rows := insertK slot { r with returned := true } q.rows }
    sendReturn s seq x (ownerSlice s o.tile) r o slot 0xFFFF []

/-- An expert becomes unavailable in an open step: its tile's item is discarded and every choice not returned goes back
as lost, one whose row has yet to arrive when it arrives (R98, R394, R395). -/
def loseExpert (s : State) (seq e : Nat) : State :=
  match s.step seq with
  | none => s
  | some x =>
    match x.owned.find? fun o => o.expert = e with
    | none => s
    | some o =>
      if o.lost then s
      else
        let s := modOwned s seq e fun o => { o with lost := true }
        let its := fun (i : Item) => i.seq = seq && i.kind = 0 && i.payload % 2 ^ 16 = e
        let s := { s with tiles := s.tiles.map fun (t : Nat × Tile) => (t.1, t.2.stopWhere its) }
        let s := s.modStep seq fun y => { y with expertLost := true }
        let s := (o.rows.filter fun r => r.2.whole && !r.2.returned).foldl (fun s r => returnLost s seq o r.1 r.2) s
        maybeCommit s seq

/-! ## Dispatch (R122–R124) -/

/-- A row for dispatch: the token's row written out under DISP_WOC, or unchanged (R122), and its draws. -/
def dispatchRow (s : State) (seq : Nat) (x : LStep) (t : Nat) : List Byte × Nat :=
  let woc := x.xchg.dispWoc
  let h := x.xchg.hx
  let len := rowBytes x.xchg.inFmt h
  let bs := stepBytes s seq (x.inAddr + t * len) len
  if wocFmt woc = x.xchg.inFmt then (bs, 0)
  else
    let seed := match s.context x.ctx with | some c => c.seed | none => 0
    let sr := wocMode woc = 4
    let d := fun e => if sr then drawWrite seed 0xFFFFE x.layer x.msc ((x.tokenBase + t) * h + e) else 0
    let vs := readRow x.xchg.inFmt h bs
    (writeRow woc ((vs.zip (upFrom 0 h)).map fun (v, e) => (v, d e)), if sr then h else 0)

/-- Bytes stored in a tile's scratchpad: one write that arrives at its bond port (R591). -/
def spadStore (s : State) (seq tile a : Nat) (bs : List Byte) : State :=
  match physOf s tile with
  | some t => (injectAt s 3 t).modTile t fun y => y.stepWrite seq a bs
  | none => s

/-- A DISPATCH reaches its owner (R122 steps 3 and 4, R124, R509): a bad one aborts the step, a repeated one is
discarded, else its row is written into its slot and a complete expert is handed to its tile. -/
def takeDispatch (s : State) (p : ExPkt) : State :=
  match stepFor s p.group p.mscSeq p.layer with
  | none => s
  | some (seq, x) =>
    let s := streamProgress s x.ctx x.stream
    match x.owned.find? fun o => o.expSlot = p.expSlot with
    | none => detectMismatch s seq x p.srcRank none
    | some o =>
      if x.disarmed.contains o.tile then count s bankRas 5
      else if p.destTile ≠ o.tile || o.filled ≤ p.slot then detectMismatch s seq x p.srcRank none
      else
        let old := lookupD {} p.slot o.rows
        if old.whole then count s bankRas 5
        else
          let len := rowLenOf x
          let bs := if p.hollow then List.replicate len 0 else p.data.take (len - 256 * p.frag)
          let off := if p.hollow then 0 else 256 * p.frag
          let s := spadStore s seq o.tile (o.region + p.slot * len + off) bs
          let got := old.got ++ [(off, bs.length)]
          let whole := covers got 0 len
          let r := { old with rank := p.srcRank, token := p.token, choice := p.choice, gen := p.gen, got, whole }
          let s := modOwned s seq o.expert fun o =>
            { o with rows := insertK p.slot r o.rows, arrived := o.arrived + b2n whole }
          if !whole then s
          else
            let row := match physOf s o.tile with
              | some t => (s.tile t).readSpad (o.region + p.slot * len) len
              | none => []
            let key := leBytes 2 x.layer ++ leBytes 2 o.expSlot ++ leBytes 2 p.slot ++ List.replicate 10 0
            let s := bumpTrig (noteArrival s seq false key row) (ownerSlice s o.tile) seq (trigRows o.expert)
            if o.lost then
              maybeCommit (returnLost s seq o p.slot r) seq
            else match (s.step seq).bind fun y => y.owned.find? fun q => q.expert = o.expert with
              | some o' => handOne s seq o'
              | none => s

/-- A DISPATCH crosses the mesh from the slice that has it to its tile, and is taken there (R26, R27). -/
def bringDispatch (s : State) (slice : Nat) (p : ExPkt) : State :=
  takeDispatch (match physOf s p.destTile with
    | some t => meshCarry s .exchange (.bridge slice) (.tile t) p
    | none => s) p

/-- One choice is dispatched to its owner; a choice of this module's own experts goes to its tile at once (R27, R122);
a cancelled one goes hollow (R131). -/
def dispatchOne (s : State) (seq : Nat) (c : ChoiceRec) : State :=
  match s.step seq with
  | none => s
  | some x =>
    let g := groupOf s x.group
    let slice := quarterOf x.n c.token
    let hollow := stepStale s seq
    let (bs, draws) := if hollow then ([], 0) else dispatchRow s seq x c.token
    let s := if hollow then s else noteReads s (x.inAddr + c.token * x.route.rowLen) x.route.rowLen
    let p : ExPkt := { kind := 1, hollow, destTile := c.destTile, group := x.group, reforms := g.reforms, gen := x.gen
                       mscSeq := x.msc, hash := stepHash s x, srcRank := g.rank, layer := x.layer, slot := c.slot
                       expSlot := c.expSlot, choice := b2n c.second, token := c.token }
    let s := countDraws s draws
    let fs := if hollow then [(0, [])] else fragments bs
    let s := s.modStep seq fun y => { y with choices := y.choices.map fun d =>
      if d.token = c.token && d.expert = c.expert then { d with sent := true } else d }
    let s := if hollow then count s (bankRun slice) 2 else s
    if c.destEp = endpointId s then
      fs.foldl (fun s f => bringDispatch s slice { p with frag := f.1, data := f.2 }) (count s (bankRun slice) 1)
    else match g.rankOf c.destEp with
      | none => s
      | some r => fs.foldl (fun s f => sendStep s x slice r .runner { p with frag := f.1, data := f.2 })
          (count s (bankRun slice) 0)

/-- The surviving choices for an owner, in list order, that have not been sent (R100, R122). -/
def unsentFor (x : LStep) (ep : Nat) : List ChoiceRec :=
  sortBy dispatchBefore (x.choices.filter fun c => !c.spill && !c.sent && c.destEp = ep)

/-- A member that has armed is sent its dispatches (R122 step 2). Pages of the input rows without a DRAM copy are fetched first (R369,
R390), and lines that peers hold (R454), but for a cancelled step, which sends no rows (R131); one that cannot be read aborts the step
(R394, R600). -/
def sendRows (s : State) (seq rank : Nat) : State :=
  match s.step seq with
  | none => s
  | some x =>
    let rows := if stepStale s seq then [] else [(x.inAddr, x.n * rowBytes x.xchg.inFmt x.xchg.hx)]
    let later (s : State) : State := s.modStep seq fun y => { y with armWait := insertSorted rank y.armWait }
    match rows.findSome? fun d => badPage s x.func d.1 d.2, rows.flatMap fun d => absentPages s d.1 d.2, windowLines s false rows with
    | some q, _, _ => abortUncorrectable s seq x q
    | none, [], [] => maybeCommit ((unsentFor x ((groupOf s x.group).endpoint rank)).foldl (fun s c => dispatchOne s seq c) s) seq
    | none, [], ls => askLines (later s) ls
    | none, ps, _ => waitForPages (later s) x.ctx x.stream ps

/-- A source sends again, in list order, what it had sent for a re-armed tile of a member, and the remaining entries as usual (R508). The
input rows are read again, so they wait for pages and lines as at the first sending; a step that has ended aborts no more. -/
def resendRows (s : State) (seq rank tile : Nat) : State :=
  match s.step seq with
  | none => s
  | some x =>
    let ep := (groupOf s x.group).endpoint rank
    let hit (c : ChoiceRec) : Bool := c.sent && !c.spill && c.destTile = tile && c.destEp = ep
    if !x.choices.any hit then s
    else if x.stage = .done then (sortBy dispatchBefore (x.choices.filter hit)).foldl (fun s c => dispatchOne s seq c) s
    else sendRows (s.modStep seq fun y => { y with choices := y.choices.map fun c => if hit c then { c with sent := false } else c }) seq rank

/-- A member's ARM has arrived: this source sends it its dispatches (R122 step 2). -/
def takeArm (s : State) (seq rank : Nat) : State :=
  match s.step seq with
  | none => s
  | some x =>
    let s := s.modStep seq fun y => { y with arms := if y.arms.contains rank then y.arms else rank :: y.arms }
    let s := streamProgress s x.ctx x.stream
    if x.stage ≠ .data then s
    else
      let s := (upFrom 0 4).foldl (fun s n => bumpTrig s n seq (trigArm rank)) s
      if x.n = 0 then s else sendRows s seq rank

/-- The Runner's reads of a step that waited for pages are tried again (R390). -/
def resumeRunner (s : State) (seq : Nat) : State :=
  match s.step seq with
  | none => s
  | some x =>
    let s := s.modStep seq fun y => { y with armWait := [], tokWait := [] }
    let s := x.armWait.foldl (fun s r => sendRows s seq r) s
    x.tokWait.foldl (fun s t => maybeCommit (combineToken s seq t) seq) s

/-! ## What follows a change of the weight space -/

/-- The experts of open steps that became unavailable after their stage 2 are lost in them (R98, R395). -/
def sweepLost (s : State) : State :=
  s.xch.steps.foldl (fun s e => e.2.owned.foldl (fun s o =>
    let m := lookupD {} e.2.model s.models
    let id := e.2.route.expBase + o.expert
    if e.2.stage = .data && !o.lost && !o.done && o.filled ≠ 0 && !e.2.excluded.contains id &&
        (m.marked.contains id || m.unavailable.contains id)
    then loseExpert s e.1 o.expert else s) s) s

/-- The physical tiles that hold live state (R341): queued or running work, or an open tally (R582); STEP parts of open steps, waiting or
placed; a receive region of an owned expert; staged data that is held. -/
def liveTiles (s : State) : List Nat :=
  let held := s.wsp.staged.filterMap fun d => if d.2.held then physOf s d.1 else none
  let steps := s.xch.steps.flatMap fun e =>
    e.2.waiting.map Prod.fst ++
      (e.2.owned.map OwnedExp.tile ++ (s.stream e.2.ctx e.2.stream).lastTiles.map Prod.snd).filterMap (physOf s)
  ((s.tiles.filter fun (e : Nat × Tile) => e.2.live || e.2.tally != []).map Prod.fst) ++ steps ++ held

/-- The tile rows that hold live state, rising (R341). -/
def liveRows (s : State) : List Nat := (liveTiles s).foldl (fun acc t => insertSorted (t / 8) acc) []

/-- The scheduler reports a row free of live state (R341). -/
def rowFree (s : State) (row : Nat) : Bool := !(liveRows s).contains row

/-- The scheduler reports the rows that have become free of live state to the power manager, and counts the reports (R341, R356). -/
def reportRows (s : State) : State :=
  let live := liveRows s
  let freed := (s.ctx.rowsLive.filter fun r => !live.contains r).length
  count { s with ctx := { s.ctx with rowsLive := live } } bankCtx 13 freed

/-- Lost experts are swept out of open steps, staged data that nothing needs is released, work that can be handed to tiles is, and rows
that are free are reported (R98, R122, R341, R388, R391). -/
def settleWork (s : State) : State := reportRows (homePump (handReady (releaseStale (sweepLost s))))

/-- The outcome with its next state settledOut. -/
def settledOut : Out → Out
  | .next s => .next (settleWork s)
  | o => o

end Sys2Proof.Machine
end

