-- ==== Sys2Proof/Machine/StepCommands.lean ====
section
/-!
DEFINITION. STEP and STEP_EMPTY (R309–R311), the scheduler's SCHEDULE row (R327–R334), the placing of STEP parts
(R338, R339, R487), and the windows of pour lists (R385–R388).
-/
namespace Sys2Proof.Machine

/-! ## Images and layers -/

/-- A program with an image ID in any bank. -/
def programById (s : State) (id : Nat) : Option Program :=
  if id = 0 then none else s.tiles.findSome? fun e => e.2.programs.find? fun p => p.id = id

/-- The binding of a layer (R217). -/
def Program.binding (p : Program) (layer : Nat) : Option Binding := p.bindings.find? fun b => b.layer = layer

/-- A layer's routing and exchange descriptors, as memory holds them (R69, R119). -/
def layerDescs (s : State) (b : Binding) : Option (RouteDesc × XchgDesc) :=
  if b.routeDesc = 0 then none
  else (routeDesc (wspBytes s b.routeDesc 64)).bind fun r => (xchgDesc (wspBytes s b.xchgDesc 64) r).map fun x => (r, x)

/-! ## Pour-list windows (R385–R388) -/

/-- An installed list takes effect with the first layer step of a model step that uses the model (R305). -/
def adoptList (s : State) (ctx model msc : Nat) : State :=
  match lookup model s.wsp.pourNext with
  | some l =>
    if beginsModelStep s ctx msc then
      { s with wsp := { s.wsp with pour := insertK model l s.wsp.pour, pourNext := eraseK model s.wsp.pourNext } }
    else s
  | none => s

/-- The window of a stream at layer L (R385). -/
def windowOf (l : PourList) (layer : Nat) : List Nat :=
  let lam := l.entries.foldl (fun acc e => insertSorted e.layer acc) []
  let after := lam.filter (layer < ·)
  let before := lam.filter (· ≤ layer)
  (after ++ before).take l.ahead

/-- The prefetches of one entry (R386): pages without a DRAM copy, or staging. -/
def prefetchEntry (model : Nat) (s : State) (e : PourEntry) : State :=
  if e.kind = 2 then
    if stageRegionCovers s model e.tile e.spad e.len then
      if s.wsp.staged.any fun d => d.1 = e.tile && d.2.model = model && d.2.entry = e then s
      else { s with wsp := { s.wsp with staged := s.wsp.staged ++ [(e.tile, { model, entry := e })] } }
    else count s bankWsp 12
  else if e.kind = 1 && e.rare then s
  else (upFrom (pageOf e.addr) e.len).foldl (fun s q => match s.page q with
    | some d => if d.inDram then s else queueMove s { kind := .prefetch, page := q }
    | none => s) s

/-- The layers whose entries are prefetched: the step's own, then those that have just entered the window of the same model and list
(R386). -/
def enteringLayers (s : State) (key : Nat) (w : Window) : List Nat :=
  let old := match lookup key s.wsp.windows with
    | some v => if v.model = w.model && v.list = w.list then v.layers else []
    | none => []
  w.layer :: w.layers.filter fun y => !old.contains y

/-- A stream's step of layer L takes effect: it adopts the model's list, its window changes and prefetches are issued (R385, R386,
R389). -/
def enterWindow (s : State) (ctx st model layer : Nat) : State :=
  let key := streamId ctx st
  match lookup model s.wsp.pour with
  | none => releaseStale { s with wsp := { s.wsp with windows := eraseK key s.wsp.windows } }
  | some l =>
    let w : Window := { model, layer, layers := windowOf l layer, list := l }
    let layers := enteringLayers s key w
    let s := releaseStale { s with wsp := { s.wsp with windows := insertK key w s.wsp.windows } }
    if !flag s Fld.WSP_CTL_PREFETCH_EN then s
    else layers.foldl (fun s y => (l.entries.filter fun e => e.layer = y).foldl (prefetchEntry model) s) s

/-! ## Placing STEP parts (R338, R339, R487) -/

/-- The order of candidate tiles for part `i` of a kernel (R339); entries are logical and physical numbers. -/
def placeBefore (s : State) (c : Ctx) (last : Option Nat) (a b : Nat × Nat) : Bool :=
  let pick := fun (f : Nat × Nat → Bool) (rest : Bool) => if f a != f b then f a else rest
  let la := (s.tile a.2).items.length
  let lb := (s.tile b.2).items.length
  pick (fun t => last = some t.1) <| pick (fun t => c.diePref = 0 || bitOf c.diePref (homeDie t.2)) <|
    pick (fun t => (s.tile t.2).rowOn) <|
    if la ≠ lb then la < lb else if a.2 / 8 ≠ b.2 / 8 then a.2 / 8 < b.2 / 8 else a.1 < b.1

/-- Part `i` of kernel `k` of an image, as a stream's `lastTiles` numbers it. -/
def partKey (image k i : Nat) : Nat := image * 65536 + k * 256 + i

/-- The tile of part `i` of kernel `k`: logical and physical number (R339, R487). -/
def placePart (s : State) (c : Ctx) (x : Stream) (p : Program) (k i : Nat) (used : List Nat) : Option (Nat × Nat) :=
  let cand := p.tiles.filterMap fun l => (physOf s l).bind fun t => if (s.tile t).holds p.id then some (l, t) else none
  if flag s Fld.DET_CTL_FIXED_PLACE then cand[i % max 1 cand.length]?
  else
    let fresh := cand.filter fun t => !used.contains t.1
    bestBy (placeBefore s c (lookup (partKey p.id k i) x.lastTiles)) (if fresh.isEmpty then cand else fresh)

/-- The argument of part `i` of `parts` (R338). -/
def partPayload (n parts i : Nat) : Nat :=
  let q := ceilDiv n parts
  let first := min n (i * q)
  first + (min n ((i + 1) * q) - first) * 2 ^ 15 + i * 2 ^ 30 + parts * 2 ^ 38

/-- The parts of one STEP kernel are placed (R338, R339). -/
def placeKernel (s : State) (seq : Nat) (x : LStep) (p : Program) (k : Nat) : State :=
  match s.context x.ctx with
  | none => s
  | some c =>
    let parts := max 1 (min c.stepTiles p.tiles.length)
    let go := fun (acc : State × List Nat) (i : Nat) =>
      let st := acc.1.stream x.ctx x.stream
      match placePart acc.1 c st p k i acc.2 with
      | none => acc
      | some (l, t) =>
        let it : Item := { payload := partPayload x.n parts i, image := x.image, entry := k, kind := 1, layer := x.layer
                           ctx := x.ctx, stream := x.stream, seq, msc := x.msc }
        let other := match lookup (partKey p.id k i) st.lastTiles with
          | some o => o ≠ l
          | none => false
        let s := (count acc.1 bankCtx 12 (b2n other)).modStep seq fun y => { y with parts := y.parts ++ [k * 256 + i], waiting := y.waiting ++ [(t, it)] }
        (s.modStream x.ctx x.stream fun y => { y with lastTiles := insertK (partKey p.id k i) l y.lastTiles }, l :: acc.2)
    ((upFrom 0 parts).foldl go (s, [])).1

/-- A stream's most recent layer step is now this one: the tiles of parts of an earlier one are forgotten (R339). -/
def keepParts (s : State) (seq : Nat) : State :=
  match s.step seq with
  | some x => s.modStream x.ctx x.stream fun y =>
      { y with lastTiles := y.lastTiles.filter fun e => e.1 / 65536 = x.image && x.parts.contains (e.1 % 65536) }
  | none => s

/-! ## STEP and STEP_EMPTY -/

/-- Is the packet a STEP_EMPTY? -/
def isStepEmpty (p : Packet) : Bool := pOpcode p = 0x81
/-- A step's layer, image, generation, tokens and TOKEN_BASE (the parameter table of STEP). -/
def pStepLayer (p : Packet) : Nat := pktBits p 24 48 10
def pStepImage (p : Packet) : Nat := pktBits p 42 0 16
def pStepGen (p : Packet) : Nat := pktBits p 44 0 16
def pStepN (p : Packet) : Nat := if isStepEmpty p then 0 else pktBits p 40 0 15
def pStepBase (p : Packet) : Nat := pktBits p 46 0 16 + pktBits p 32 48 16 * 2 ^ 16

/-- The regions of a STEP of a layer that routes: IN and the addends, and OUT (R309). -/
def stepRegions (p : Packet) (r : RouteDesc) (x : XchgDesc) : List (Nat × Nat) × (Nat × Nat) :=
  let n := pStepN p
  let out := if wocFmt x.outWoc = fmtExact then 96 * x.hx else rowBytes (wocFmt x.outWoc) x.hx
  let adds := ([pktBits p 48 0 48, pktBits p 56 0 48].take x.addN).map fun a => (a, n * rowBytes x.addFmt x.hx)
  ((pktBits p 24 0 48, n * r.rowLen) :: adds, (pktBits p 32 0 48, n * out))

/-- The regions of a STEP or STEP_EMPTY: source regions, and destination regions (R309, R310). A layer that does not route names no
row format, so that only the first byte of IN and of OUT is known to be in its regions, and it has no addends (DEDUCED). -/
def stepRanges (s : State) (b : Binding) (p : Packet) : List (Nat × Nat) × List (Nat × Nat) :=
  if isStepEmpty p then ([], [])
  else match layerDescs s b with
    | some (r, g) => let q := stepRegions p r g; (q.1, [q.2])
    | none => ([(pktBits p 24 0 48, 1)], [(pktBits p 32 0 48, 1)])

/-- The generation that a step is held to: that of the CANCELs accepted before it, whether they have committed or not, and
of no CANCEL accepted after it (R131, R299). -/
def genFor (s : State) (seq : Nat) (c : OpenCmd) : Nat :=
  let ctx := pContext c.pkt
  let st := pStream c.pkt
  let due := (s.cp.cmds.filter fun e => e.1 < seq && pOpcode e.2.pkt = 0x08 && cancelCtx e.2.pkt = ctx &&
    cancelStream e.2.pkt = st && (e.2.phase ≠ .completing || e.2.result.good)).length
  ((s.stream ctx st).gen + due + 2 ^ 16 - c.cancels) % 2 ^ 16

/-- The preconditions of STEP and STEP_EMPTY (R310); a context of another function does not exist, and so has no open stream (R320). -/
def stepPre (s : State) (seq : Nat) (c : OpenCmd) : Option PreFail :=
  let p := c.pkt
  let x := s.stream (pContext p) (pStream p)
  let closed := (ctxFor s c.func (pContext p)).isNone || x.state = .closed
  let stale := pStepGen p ≠ genFor s seq c
  let prog := programById s (pStepImage p)
  let bind := prog.bind fun g => g.binding (pStepLayer p)
  match bind with
  | none => firstFail [(closed, { num := 1 }), (stale, { num := 2, status := stStaleGeneration }),
      (true, { num := 3 })]
  | some b =>
    let descs := layerDescs s b
    let (src, dst) := stepRanges s b p
    let unmapped := (src.take 1 ++ dst ++ src.drop 1).findSome? fun d => (firstUnmapped s c.func d.1 d.2).map (· * pageBytes)
    firstFail [
      (closed, { num := 1 }),
      (stale, { num := 2, status := stStaleGeneration }),
      (if b.routeDesc = 0 then isStepEmpty p else x.group = 0, { num := 4 }),
      (unmapped.isSome, { num := 5, word0 := unmapped.getD 0 }),
      (src.any fun d => dst.any fun o => rangesMeet d.1 d.2 o.1 o.2, { num := 6 }),
      (match descs with
       | some (r, g) => x.kMax < r.k || 8 * x.retRow8 < rowBytes fmtBf16 g.hx
       | none => false, { num := 7, status := stNoFit })]

/-- A bound step begins: its parts are placed, and a layer that routes joins the routing engines' queue (R28, R338). A
broken group ends it at once (R145, R146). One whose image or binding went while it waited for its slot ends as precondition
3 of R310 would have ended it (DESIGN CHOICE: R311 names no status for it). -/
def startStep (s : State) (seq ctx st : Nat) : State :=
  match s.cmd seq with
  | none => s
  | some c =>
    let p := c.pkt
    match (programById s (pStepImage p)).bind fun g => (g.binding (pStepLayer p)).map fun b => (g, b) with
    | none => endCmd s seq { status := stBadParam, detail := 3 }
    | some (prog, b) =>
      let descs := layerDescs s b
      let x := s.stream ctx st
      let step : LStep := {
        ctx, stream := st, func := c.func, cls := x.cls, layer := pStepLayer p, msc := pMsc p, image := prog.id
        model := prog.model, group := if b.routeDesc = 0 then 0 else x.group, gen := pStepGen p, n := pStepN p
        tokenBase := pStepBase p, inAddr := pktBits p 24 0 48, outAddr := pktBits p 32 0 48, add0 := pktBits p 48 0 48
        add1 := pktBits p 56 0 48, empty := isStepEmpty p, binding := b
        route := (descs.map Prod.fst).getD {}, xchg := (descs.map Prod.snd).getD {}
        stage := if b.routeDesc = 0 then .local else .queued
        certAllow := flag s Fld.SKP_CTL_CERT_ALLOW, specAllow := flag s Fld.SKP_CTL_SPEC_ALLOW }
      let s := s.setStep seq step
      let g := groupOf s step.group
      if step.group ≠ 0 && (g.shut || (s.group step.group).isNone) then
        failStep s seq { status := stGroupReformed, word0 := brokenWord g }
      else
        let kernels := ((prog.entries.zip (upFrom 0 prog.entries.length)).filter fun e => e.1.kind = 1).map Prod.snd
        let s := keepParts (kernels.foldl (fun s k => placeKernel s seq step prog k) s) seq
        maybeCommit (handReady s) seq

/-- The group that a step would run on, where it is broken on this member or gone: the step ends at once (R145, R146, R331). -/
def brokenFor (s : State) (p : Packet) : Option Group :=
  let routes := ((programById s (pStepImage p)).bind fun g => g.binding (pStepLayer p)).any fun b => b.routeDesc ≠ 0
  let gid := (s.stream (pContext p) (pStream p)).group
  if routes && gid ≠ 0 && ((groupOf s gid).shut || (s.group gid).isNone) then some (groupOf s gid) else none

/-- The effect of a step whose preconditions hold. On a broken group it ends at once, without a slot. Else its stream waits for a slot, or runs at once in the slot it holds, where it
lingers or was BLOCKED until the step could take effect, and its window changes (R326, R328, R333, R385). -/
def beginStep (s : State) (seq : Nat) (c : OpenCmd) : State :=
  let p := c.pkt
  match brokenFor s p with
  | some g => endCmd s seq { status := stGroupReformed, word0 := brokenWord g }
  | none =>
  let ctx := pContext p
  let st := pStream p
  let x := s.stream ctx st
  let cls := match s.context ctx with | some k => effClass k p | none => 0
  let model := ((programById s (pStepImage p)).map Program.model).getD 0
  let (src, dst) := match (programById s (pStepImage p)).bind fun g => g.binding (pStepLayer p) with
    | some b => stepRanges s b p
    | none => ([], [])
  let s := s.setCmd seq { c with phase := .working, regions := dst ++ src, dest := dst }
  let bound := x.state = .lingering || (x.state = .blocked && x.stepSeq = seq)
  let x := { x with state := if bound then .running else .waiting, stepSeq := seq, cls, layer := some (pStepLayer p)
                    image := pStepImage p, msc := pMsc p, evictable := false }
  let s := (adoptList s ctx model (pMsc p)).setStream ctx st x
  let s := enterWindow s ctx st model (pStepLayer p)
  if bound then startStep s seq ctx st else s

/-- The descriptors that a step reads. -/
def descRanges (s : State) (p : Packet) : List (Nat × Nat) :=
  match (programById s (pStepImage p)).bind fun g => g.binding (pStepLayer p) with
  | none => []
  | some b => if b.routeDesc = 0 then [] else [(b.routeDesc, 64), (b.xchgDesc, 64)]

/-- The pages of a step's descriptors that have no DRAM copy (R369). -/
def absentDescs (s : State) (p : Packet) : List Nat := (descRanges s p).flatMap fun d => absentPages s d.1 d.2

/-- A STEP or STEP_EMPTY whose descriptors are not in DRAM waits for their fetch (R390), and for lines of them that peers hold (R454). One that fails ends with its COMMIT and ARRIVAL records too (R490). -/
def runStep (s : State) (seq op : Nat) : Out :=
  match takesEffect s seq op with
  | none => .next s
  | some c =>
    if faultedCtx s c then .next (endCmd s seq { status := stContextFault })
    else match absentDescs s c.pkt with
    | p :: ps => .next (waitForPages s (pContext c.pkt) (pStream c.pkt) (p :: ps))
    | [] => if !(windowLines s false (descRanges s c.pkt)).isEmpty then
        .next (askLines s (windowLines s false (descRanges s c.pkt))) else
      match stepPre s seq c with
      | some f => .next (endCmd s seq { status := f.status, detail := f.num, word0 := f.word0, word1 := f.word1 })
      | none => .next (beginStep s seq c)

/-- STEP (R309–R311). -/
def execStep (seq : Nat) (s : State) : Out := runStep s seq 0x80

/-- STEP_EMPTY (R309–R311). -/
def execStepEmpty (seq : Nat) (s : State) : Out := runStep s seq 0x81

/-- Binding a stream reads its record from a state area that is LOST: the record is not in the slot already (R323, R328,
R394). -/
def recordLost (s s' : State) (ctx st : Nat) : Option Nat :=
  match (s'.stream ctx st).slot, s.context ctx with
  | some k, some c =>
    let q := pageOf c.stateAddr
    if lookup k s.ctx.records ≠ some (streamId ctx st) && (s'.page q).any (fun d => d.lost) then some q else none
  | _, _ => none

/-- SCHEDULE (R327–R334): the first waiting stream that can have a slot is bound to it, and its step begins; a record that
cannot be read tears its context down (R342). Where a stream in a held-back slot was pre-empted for it, it waits on. -/
def execSchedule (s : State) : Out :=
  match scheduleFirst s (waitingStreams s) with
  | none => .next s
  | some ((ctx, st), s') =>
    let seq := (s'.stream ctx st).stepSeq
    match recordLost s s' ctx st with
    | some q => .next (stateAreaFault seq (meetLost s' q) ctx)
    | none => if (s'.stream ctx st).slot.isNone then .next s' else .next (startStep s' seq ctx st)

end Sys2Proof.Machine
end

