-- ==== Sys2Proof/Machine/RoutingRows.lean ====
section
/-!
DEFINITION. The rows of the routing engines and of a layer step's count phase (R80–R105): ROUTE_START, SELECTION_DONE,
COUNT, EC_CANDIDATES, EC_ASSIGNMENT and LIST_BUILD_DONE, with the admission of Runner packets (R117).
-/
namespace Sys2Proof.Machine

/-! ## Admission (R117) -/

/-- A delivered packet carries this exchange packet. -/
def carriesEx (p : ExPkt) (e : XlPkt) : Bool := e.proto = 0 && parseEx e.epoch e.payload = some p

/-- The slice that an exchange packet reaches: its XL packet's DSLICE. -/
def sliceOf (s : State) (p : ExPkt) : Nat :=
  match s.fab.eject.find? (carriesEx p) with
  | some e => e.dslice % 4
  | none => 0

/-- The delivered packet that carries an exchange packet is consumed. -/
def consumeEx (s : State) (p : ExPkt) : State :=
  { s with fab := { s.fab with eject := s.fab.eject.eraseP (carriesEx p) } }

/-- The group that an arriving packet belongs to, where R117 admits it. The sender of a second REFORM with the group's own count
gives its rank of before that re-formation. -/
def admitEx (s : State) (p : ExPkt) : Option Group :=
  match s.groupAt (groupKey p.epoch p.group) with
  | none => none
  | some g =>
    let again := p.kind = 6 && p.reforms = g.reforms && g.lastRemoved.isSome
    let ok := if p.kind = 6 then p.reforms = (g.reforms + 1) % 2 ^ 16 || again else p.reforms = g.reforms
    let size := g.members.length + (if again then (g.lastRemoved.getD []).length else 0)
    if ok && p.srcRank < size then some g else none

/-- The frame of a Runner packet's row: one that R117 does not admit is discarded and counted. -/
def recvEx (s : State) (p : ExPkt) (kind : Nat) (f : State → Group → State) : Out :=
  if p.kind ≠ kind || !stoked s then .next s
  else
    let slice := sliceOf s p
    let s := consumeEx s p
    match admitEx s p with
    | none => .next (count s (bankRun slice) 12)
    | some g => .next (f s g)

/-- A packet of a layer step was received: the step makes progress (R331). -/
def noteReceipt (s : State) (p : ExPkt) : State :=
  match stepFor s p.group p.mscSeq p.layer with
  | some (_, x) => streamProgress s x.ctx x.stream
  | none => s

/-! ## ROUTE_START -/

/-- HALT is set in a routing engine that takes part in a step (R29, R106). -/
def rteHalt (s : State) (x : LStep) : Bool := (upFrom 0 4).any fun n => engineUsed x.n n && flag s Fld.RTE_CTL_HALT n

/-- The routing-engine pairs that a step needs are powered (R29, R533). -/
def rtePowered (s : State) (x : LStep) : Bool :=
  (upFrom 0 2).all fun p => !pairUsed x.n p || bitOf (fld s Fld.PWR_DOMAINS_ON) (12 + p)

/-- The parked stream that the engines run stage 4 of: the first to have resumed, or the one that HALT found there (R81, R106). -/
def resumedNow (s : State) : Option Nat :=
  match s.xch.stage4 with
  | some q => some q
  | none => s.xch.parked.find? fun q => (s.step q).any fun x => x.stage = .building && !rteHalt s x && rtePowered s x

/-- The step whose stream the routing engines hold: one in stage 2, or the parked one that has resumed for stage 4 (R81). -/
def routedNow (s : State) : Option Nat := match s.xch.routing with | some q => some q | none => resumedNow s

/-- The next layer step to be routed: highest class, then earliest accepted (R80); its stream runs. -/
def nextQueued (s : State) : Option (Nat × LStep) :=
  bestBy (fun a b => if a.2.cls ≠ b.2.cls then a.2.cls > b.2.cls else a.1 < b.1)
    (s.xch.steps.filter fun e => e.2.stage = .queued && (s.stream e.2.ctx e.2.stream).state = .running)

/-- Announced experts of a model become unavailable here, in a step's stage 2 (R97); whether this run of the step or a killed one set
such a bit. -/
def applyAnnounced (s : State) (seq model : Nat) : Bool × State :=
  match lookup model s.xch.lostNext, lookup model s.models with
  | some es, some m =>
    let m := { m with unavailable := es.foldl (fun l e => insertSorted e l) m.unavailable
                      marked := m.marked.filter fun e => !es.contains e }
    let s := { s with models := insertK model m s.models }
    let s := { s with xch := { s.xch with lostNext := eraseK model s.xch.lostNext } }
    let s := if es.isEmpty then s else s.modCmd seq fun c => { c with lostSet := true }
    ((s.cmd seq).any fun c => c.lostSet, s)
  | _, _ => ((s.cmd seq).any fun c => c.lostSet, s)

/-- HOLD_LEFT of a layer in a context (R94). -/
def holdLeft (s : State) (ctx layer : Nat) : Nat := match s.context ctx with | some c => lookupD 0 layer c.holdLeft | none => 0

/-- Stage 2 of a step with MODE 2 reads HOLD_LEFT from a state area that is LOST: its page (R94, R323, R342). -/
def holdLost (s : State) (x : LStep) : Option Nat :=
  if x.route.mode ≠ 2 then none
  else match s.context x.ctx with
    | some c => let q := pageOf c.stateAddr; if (s.page q).any (fun d => d.lost) then some q else none
    | none => none

/-- One token scored and selected: its choices, its candidates, and its keys that were left. -/
def routeToken (s : State) (seq : Nat) (x : LStep) (t : Nat) : List ChoiceRec × List (Nat × Nat × Nat × Nat) × Nat :=
  let avail := scoreToken s seq x t
  if x.ec then ([], candToken x t avail, avail.length) else (chooseToken x t avail, [], avail.length)

/-- The counters of one token's routing at its engine (R107), and its absent choices. -/
def countToken (x : LStep) (hidden : Nat) (acc : State × Nat) (t : Nat × Nat × Nat) : State × Nat :=
  let e := bankRte (quarterOf x.n t.1)
  let absent := if x.ec then 0 else x.route.k - t.2.1 + b2n (t.2.1 = 0)
  let s := count (count (count acc.1 e 0) e 1 (x.route.eCount - hidden - t.2.2)) e 2 hidden
  (count (count s e 3 t.2.1) e 7 absent, acc.2 + absent)

/-- Column passes of an engine's Crucible that score its quarter of a step (R67). -/
def columnPasses (x : LStep) (engine : Nat) : Nat :=
  ceilDiv ((upFrom 0 x.n).filter fun t => quarterOf x.n t = engine).length 128 * ceilDiv x.route.eCount 128

/-- A step's tokens are scored and selected (R73–R79); each column pass is an event of its engine (R591). -/
def routeTokens (s : State) (seq : Nat) (x : LStep) : State :=
  let s := (upFrom 0 4).foldl (fun s e => (injectMany 4 e (columnPasses x e) s).2) s
  let toks := upFrom 0 x.n
  let rs := toks.map fun t => (t, routeToken s seq x t)
  let hidden := ((upFrom 0 x.route.eCount).filter fun e => x.excluded.contains (x.route.expBase + e)).length
  let (s, absent) := (rs.map fun r => (r.1, r.2.1.length, r.2.2.2)).foldl (countToken x hidden) (s, 0)
  let s := if x.route.jitter then countJitter s (x.n * (x.route.eCount - hidden)) else s
  s.setStep seq { x with choices := rs.flatMap fun r => r.2.1
                         cands := rs.flatMap fun r => r.2.2.1
                         absent }

/-- ROUTE_START (R80, R93–R97, R105): the engines take the next queued layer step. A page it needs that has no DRAM copy is
fetched first; one that is lost or not mapped makes the step's count record a FAILED one. While 63 streams are parked, R81's
limit, no further one is taken (DESIGN CHOICE: R81 does not say what then happens). -/
def execRouteStart (s : State) : Out :=
  if (routedNow s).isSome || flag s Fld.RUN_CTL_HALT || 63 ≤ s.xch.parked.length then .next s
  else match (nextQueued s).filter fun q => !rteHalt s q.2 && rtePowered s q.2 with
    | none => .next s
    | some (seq, x) =>
      let rs := routeRanges x
      match holdLost s x with
      | some q => .next (stateAreaFault seq (meetLost s q) x.ctx)
      | none =>
      match rs.findSome? fun d => badPage s x.func d.1 d.2 with
      | some p =>
        let (lost, s) := applyAnnounced (meetBad s x.func p) seq x.model
        let es := enginesMeeting x p
        let s := rteErrAt s Fld.RTE_ERR_UNCORR es x p
        let s := logUncorr s x es p
        let hold := holdLeft s x.ctx x.layer
        let ec := x.route.mode = 1 || (x.route.mode = 2 && hold ≠ 0)
        let m := lookupD {} x.model s.models
        let s := s.setStep seq { x with stage := .scoring, failed := some p, expertLost := lost, maskVer := m.maskVer, ec
                                        auto := x.route.mode = 2 }
        .next { s with xch := { s.xch with routing := some seq } }
      | none =>
        match rs.flatMap fun d => absentPages s d.1 d.2 with
        | p :: ps => .next (waitForPages s x.ctx x.stream (p :: ps))
        | [] => if !(windowLines s false rs).isEmpty then .next (askLines s (windowLines s false rs)) else
          let (lost, s) := applyAnnounced s seq x.model
          let m := lookupD {} x.model s.models
          let ec := x.route.mode = 1 || (x.route.mode = 2 && holdLeft s x.ctx x.layer ≠ 0)
          let x := { x with stage := .scoring, expertLost := lost, maskVer := m.maskVer, ec, auto := x.route.mode = 2
                            excluded := m.masked ++ m.unavailable }
          let s := rs.foldl (fun s d => noteReads s d.1 d.2) s
          let s := routeTokens (streamProgress s x.ctx x.stream) seq x
          .next { s with xch := { s.xch with routing := some seq } }

/-! ## Expert-choice exchange (R90) -/

/-- A contribution of a step's own exchange to one rank, in COLL_DATA packets, its length before it. Slice 0 sends it (DESIGN
CHOICE: R90 names no slice). -/
def sendPart (s : State) (x : LStep) (rank : Nat) (bs : List Byte) : State :=
  let g := groupOf s x.group
  let all := withLength bs
  (fragments all).foldl (fun s f => sendStep s x 0 rank .runner
    { kind := 4, rank := g.rank, total := all.length, frag := f.1, data := f.2 }) s

/-- The per-layer experts that an endpoint owns, with tile and EXP_SLOT, by the placement table (R71). -/
def expertsOf (s : State) (x : LStep) (ep : Nat) : List (Nat × Nat × Nat) :=
  (upFrom 0 x.route.eCount).filterMap fun e => let p := placeOf s x e; if p.1 = ep then some (e, p.2.1, p.2.2) else none

/-- The candidates that a member sends to an owner: for each of its experts, in per-layer index order, a 4-byte number and that many
entries (DESIGN CHOICE: R90 does not say how the owner tells which expert an entry is for). -/
def candBytes (x : LStep) (es : List Nat) : List Byte :=
  es.flatMap fun e =>
    let l := bestCands x.cap e x.cands
    leBytes 4 l.length ++ l.flatMap fun c => leBytes 4 c.2.1 ++ leBytes 4 c.2.2.1

/-- Candidates read from a contribution: (expert, key bits, global token, source rank). -/
def candsOf (rank : Nat) : List Nat → List Byte → List (Nat × Nat × Nat × Nat)
  | [], _ => []
  | e :: es, bs =>
    let n := byteField bs 0 4
    ((upFrom 0 n).map fun i => (e, byteField bs (4 + 8 * i) 4, byteField bs (8 + 8 * i) 4, rank)) ++
      candsOf rank es (bs.drop (4 + 8 * n))

/-- A member's assignments are all here: its tokens' choices are known and stage 4 may run (R90, R91). -/
def ecChosen (s : State) (seq : Nat) : State :=
  match s.step seq with
  | none => s
  | some x =>
    let free := (upFrom 0 x.n).filter fun t => !x.choices.any fun c => c.token = t
    let s := free.foldl (fun s t => count s (bankRte (quarterOf x.n t)) 7) s
    let s := x.choices.foldl (fun s c => count s (bankRte (quarterOf x.n c.token)) 3) s
    s.setStep seq { x with stage := .building, absent := x.absent + free.length }

/-- What keeps the count phase from reading the placement table now (R105, R369, R390, R454): a page that cannot be read aborts the step;
pages without a DRAM copy are fetched, lines that peers hold are recalled, and `e`, the work in hand, is kept until they are there. -/
def placementWait (s : State) (seq : Nat) (x : LStep) (e : Nat × Nat × List Byte) : Option State :=
  let r := (x.route.placeAddr, 8 * x.route.eCount)
  let kept (s : State) : State := s.modStep seq fun y => { y with placeWait := y.placeWait ++ [e] }
  match badPlacement s x, absentPages s r.1 r.2, windowLines s false [r] with
  | some q, _, _ => some (abortRouting s seq x q)
  | none, [], [] => none
  | none, [], ls => some (askLines (kept s) ls)
  | none, ps, _ => some (waitForPages (kept s) x.ctx x.stream ps)

/-- Assignments of one owner reach a source (R90 step 5). -/
def takeAssign (s : State) (seq rank : Nat) (bs : List Byte) : State :=
  match s.step seq with
  | none => s
  | some x =>
    if x.assignFrom.contains rank then s
    else match placementWait s seq x (4, rank, bs) with
    | some s => s
    | none =>
      let es := (chunksOf 8 bs (bs.length / 8 + 1)).filter fun c => c.length = 8
      let new := es.map fun c =>
        let e := byteField c 0 2
        let tok := byteField c 4 4
        let p := placeOf s x e
        let w := match x.cands.find? fun d => d.1 = e && d.2.2.1 = tok with | some d => d.2.2.2 | none => 0
        let ch : ChoiceRec := { token := tok - x.tokenBase, expert := e, slot := byteField c 2 2, weight := w
                                destEp := p.1, destTile := p.2.1, expSlot := p.2.2 }
        ch
      let x := { x with choices := x.choices ++ new, assignFrom := rank :: x.assignFrom }
      let s := streamProgress (s.setStep seq x) x.ctx x.stream
      if x.assignFrom.length = (groupOf s x.group).members.length then ecChosen s seq else s

/-- The owner's slots for its experts, and each source's share of them (R90 steps 4 and 5). -/
def ecAssign (s : State) (seq : Nat) : State :=
  match s.step seq with
  | none => s
  | some x => match placementWait s seq x (3, 0, []) with
  | some s => s
  | none =>
    let g := groupOf s x.group
    let own := expertsOf s x (endpointId s)
    let all := own.map fun e => (e, assignSlots x.cap e.1 x.candsIn)
    let owned := all.map fun (e, l) =>
      let o : OwnedExp := { expert := e.1, tile := e.2.1, expSlot := e.2.2, filled := l.length }
      o
    let s := s.setStep seq { x with owned }
    let part := fun (r : Nat) => (all.flatMap fun a => a.2.filter fun d => d.2.2.2 = r).flatMap fun d =>
      leBytes 2 d.1 ++ leBytes 2 d.2.1 ++ leBytes 4 d.2.2.1
    let s := g.peers.foldl (fun s m => sendPart s x m (part m)) s
    takeAssign s seq g.rank (part g.rank)

/-- One member's candidates reach this owner (R90 step 4). -/
def takeCands (s : State) (seq rank : Nat) (bs : List Byte) : State :=
  match s.step seq with
  | none => s
  | some x =>
    if x.candFrom.contains rank then s
    else match placementWait s seq x (2, rank, bs) with
    | some s => s
    | none =>
      let own := (expertsOf s x (endpointId s)).map Prod.fst
      let x := { x with candsIn := x.candsIn ++ candsOf rank own bs, candFrom := rank :: x.candFrom }
      let s := streamProgress (s.setStep seq x) x.ctx x.stream
      if x.candFrom.length = (groupOf s x.group).members.length then ecAssign s seq else s

/-- This member's candidates go to every owner (R90 steps 2 and 3). -/
def sendCands (s : State) (seq : Nat) : State :=
  match s.step seq with
  | none => s
  | some x => match placementWait s seq x (1, 0, []) with
  | some s => s
  | none =>
    let g := groupOf s x.group
    let part := fun (m : Nat) => candBytes x ((expertsOf s x (g.endpoint m)).map Prod.fst)
    let s := g.peers.foldl (fun s m => sendPart s x m (part m)) s
    let s := takeCands s seq g.rank (part g.rank)
    x.candParts.foldl (fun s e => match assembled e.2 with | some bs => takeCands s seq e.1 bs | none => s) s

/-! ## Count records (R83–R89) -/

/-- The bytes of all records in rank order (R491). -/
def recordBytes (x : LStep) : List Byte := x.records.flatMap fun e => e.2.bytes

/-- The COUNT record of a step whose offsets are fixed (R490). -/
def countRecord (s : State) (seq : Nat) (x : LStep) (size : Nat) : State :=
  match s.cmd seq with
  | none => s
  | some c => recProduce s (recKeyOf 3 c) (recAt 32 4 x.cap + recAt 36 4 x.ntot + recAt 40 2 size +
      recAt 42 1 (b2n x.ec + 2 * b2n (x.ec && x.auto)) + recAt 44 2 x.group + recAt 48 8 (crc64 (recordBytes x)))

/-- The first rank whose TOKEN_BASE is not the sum of the lower ranks' N (R85). -/
def badBase (x : LStep) : Option Nat :=
  (x.records.find? fun e =>
    e.2.tokenBase ≠ ((x.records.filter fun d => d.1 < e.1).map fun d => d.2.n).foldl (· + ·) 0).map Prod.fst

/-- Every record has arrived: Ntot, capacity, slots and spills are fixed (R83, R85–R92, R121). The Runner and the Sieve do so for a
parked stream whatever RTE_CTL.HALT is; HALT holds the stream at its next stage, the building of its lists (DESIGN CHOICE:
R106 says that parked streams wait until HALT is 0). -/
def fixOffsets (s : State) (seq : Nat) : State :=
  match s.step seq with
  | none => s
  | some x =>
    let g := groupOf s x.group
    match badBase x with
    | some r => detectMismatch (rteErr s Fld.RTE_ERR_HDR_MISMATCH x 0) seq x r (some (stepHash s x))
    | none => match placementWait s seq x (0, 0, []) with
    | some s => s
    | none =>
      let ntot := totalTokens x
      let c := capacityOf x.route ntot
      if x.ec && 4194304 < x.route.eCount * c then
        failStep (rteErr s Fld.RTE_ERR_CAND_LIMIT x 0) seq { status := stNoFit }
      else if x.xchg.capMax < c then failStep s seq { status := stNoFit }
      else
        let x := { x with ntot, cap := c }
        if x.ec then
          let s := noteAnnounced (countRecord (s.setStep seq { x with stage := .choosing }) seq x g.members.length) x
          sendCands s seq
        else
          let placed := (slotChoices x g.rank c).map fun d =>
            let p := placeOf s x d.expert
            { d with destEp := p.1, destTile := p.2.1, expSlot := p.2.2 }
          let choices := placed.map (renormChoice x.route placed)
          let (spill, total) := groupFigures x c
          let s := (choices.filter fun d => d.spill).foldl (fun s d =>
            count s (bankRte (quarterOf x.n d.token)) (if d.second then 5 else 4)) s
          let x := { x with choices, groupSpill := spill, groupChoices := total, stage := .building }
          noteAnnounced (countRecord (s.setStep seq x) seq x g.members.length) x

/-- A whole count record of a rank (R85, R97, R105). The page that R105 has a FAILED record report is in the record's bytes 28–31, which
R84 leaves reserved (DESIGN CHOICE). -/
def takeRecord (s : State) (seq rank hash : Nat) (r : CountRec) : State :=
  match s.step seq with
  | none => s
  | some x =>
    let x := { x with records := insertK rank r x.records }
    let s := s.setStep seq x
    if r.msc ≠ x.msc || r.layer ≠ x.layer || r.modeEc ≠ x.ec || r.eCount ≠ x.route.eCount || r.maskVer ≠ x.maskVer then
      detectMismatch (rteErr s Fld.RTE_ERR_HDR_MISMATCH x 0) seq x rank (some hash)
    else if r.failed then
      let s := if rank = (groupOf s x.group).rank then s else rteErr s Fld.RTE_ERR_FAILED_PEER x 0
      failStep s seq { status := stUncorrectable, word0 := rank + r.page * 2 ^ 32 }
    else
      let s := streamProgress s x.ctx x.stream
      if x.records.length = (groupOf s x.group).members.length then fixOffsets s seq else s

/-- A COUNT packet for a step that counts (R85, R118, R137). -/
def takeCount (s : State) (seq : Nat) (p : ExPkt) : State :=
  match s.step seq with
  | none => s
  | some x =>
    if p.hash ≠ stepHash s x then detectMismatch s seq x p.srcRank (some p.hash)
    else if hasK p.srcRank x.records then s
    else
      let a := assemble (lookupD ([], []) p.srcRank x.recParts) p.frag p.data
      let s := s.setStep seq { x with recParts := insertK p.srcRank a x.recParts }
      if !covers a.1 0 64 then s
      else
        let head := CountRec.ofBytes (readBytes 0 64 a.2)
        let len := 64 + 4 * x.route.eCount
        if head.eCount ≠ x.route.eCount || covers a.1 0 len then
          takeRecord s seq p.srcRank p.hash (CountRec.ofBytes (readBytes 0 len a.2))
        else s

/-- This member's own count record (R84, R97, R105). -/
def ownRecord (s : State) (x : LStep) (lost : List Nat) : CountRec :=
  let f := x.failed.isSome
  let zero := List.replicate x.route.eCount (0, 0)
  { msc := x.msc, layer := x.layer, modeEc := x.ec, failed := f, rank := (groupOf s x.group).rank, n := x.n, lost
    eCount := x.route.eCount, maskVer := x.maskVer, tokenBase := x.tokenBase, page := x.failed.getD 0
    counts := if f || x.ec then zero else choiceCounts x }

/-- The report of an ABORT kept for a step that had not been issued (R137). -/
def keptFor (s : State) (x : LStep) : Option KeptAbort :=
  s.xch.aborts.find? fun a => a.group = x.group && a.reforms = (groupOf s x.group).reforms && a.mscSeq = x.msc && a.layer = x.layer

/-- Packets of a group that came before their operation was issued, taken out of the waiting room. -/
def earlyFor (s : State) (test : ExPkt → Bool) : List ExPkt × State :=
  (s.xch.early.filter test, { s with xch := { s.xch with early := s.xch.early.filter fun p => !test p } })

/-- An operation starts: it runs under RUN_CLASS_MAP and RUN_CLASS_WEIGHT as they now stand (R150). -/
def latchClasses (s : State) : State :=
  let w := raw s Reg.RUN_CLASS_WEIGHT
  { s with xch := { s.xch with classMap := raw s Reg.RUN_CLASS_MAP, classWeight := w
                               arbiter := if w = s.xch.classWeight then s.xch.arbiter else [] } }

/-- SELECTION_DONE (R81, R84, R97, R104, R143): the count phase opens. The member's record goes to every member, the stream
is pinned and parked, what parking writes goes to its routing area, and the group's timer starts. Stage 3 ends for the
engines with the sending of the counts, so that a HALT written during stage 2 parks the stream here as any other (DESIGN
CHOICE: R106 has a halted engine finish its current stage and park, and does not say on which side of the counts). Slice
0 sends the count record (DESIGN CHOICE: R29 and R108 name no slice). -/
def execSelectionDone (s : State) : Out :=
  match s.xch.routing with
  | none => .next s
  | some seq => match s.step seq with
    | none => .next s
    | some x =>
      if x.stage ≠ .scoring then .next s
      else
        let s := { s with xch := { s.xch with routing := none } }
        let g := groupOf s x.group
        match keptFor s x with
        | some k =>
          let s := { s with xch := { s.xch with aborts := s.xch.aborts.erase k } }
          .next (endAborted s seq x k)
        | none =>
          if g.shut then .next (failStep s seq { status := stGroupReformed, word0 := brokenWord g })
          else
            let queued := lookupD [] x.model s.xch.announce
            let lost := queued.take 8
            let rest := queued.drop 8
            let s := latchClasses s
            let s := { s with xch := { s.xch with
              announce := if rest.isEmpty then eraseK x.model s.xch.announce else insertK x.model rest s.xch.announce
              parked := s.xch.parked ++ [seq] } }
            let s := lost.foldl (fun s e => openEvent s 0x03 seq x.ctx x.stream x.layer x.msc [e]) s
            let s := s.modStream x.ctx x.stream fun y => { y with state := .pinned, progress := s.ticks }
            let s := s.modCmd seq fun c => { c with pinned := true }
            let x := { x with stage := .counting, timer := some s.ticks, lostSent := lost }
            let s := writeParked (s.setStep seq x) x
            let r := ownRecord s x lost
            let s := g.peers.foldl (fun s m =>
              (fragments r.bytes).foldl (fun s f => sendStep s x 0 m .runner { kind := 3, frag := f.1, data := f.2 }) s) s
            let s := takeRecord s seq g.rank (stepHash s x) r
            let (es, s) := earlyFor s fun p => p.kind = 3 && p.group = x.group && p.reforms = g.reforms && p.mscSeq = x.msc &&
              p.layer = x.layer
            .next (es.foldl (fun s p => takeCount s seq p) s)

/-- A part of a count record of the step that ended here last, from a member whose record had not all come (R97); none for any
other. A reissue of that step cannot be told from it until the record is whole (DEDUCED). -/
def takeLate (s : State) (g : Group) (p : ExPkt) : Option State :=
  match g.late with
  | none => none
  | some l =>
    if l.msc ≠ p.mscSeq || l.layer ≠ p.layer || !l.missing.contains p.srcRank then none
    else
      let a := assemble (lookupD ([], []) p.srcRank l.parts) p.frag p.data
      let whole := covers a.1 0 64 && covers a.1 0 (64 + 4 * (leNat (readBytes 16 4 a.2) % 2 ^ 17))
      let l := { l with parts := insertK p.srcRank a l.parts
                        missing := if whole then l.missing.filter (· ≠ p.srcRank) else l.missing }
      some ((noteLost s l.model (lostOf a)).modGroup p.group fun g => { g with late := some l })

/-- COUNT (R85–R92): a count record, or a part of one, arrives. One for a step not yet counting here waits; of one that has ended
here, the announcements count (R97). -/
def execCount (p : ExPkt) (s : State) : Out :=
  recvEx s p 3 fun s g =>
    let s := noteReceipt s p
    match s.xch.steps.find? fun e => e.2.group = p.group && e.2.msc = p.mscSeq && e.2.layer = p.layer &&
        e.2.stage ≠ .queued && e.2.stage ≠ .scoring && e.2.stage ≠ .done with
    | some (seq, _) => takeCount s seq p
    | none => match takeLate s g p with
      | some s => s
      | none => { s with xch := { s.xch with early := s.xch.early ++ [p] } }

/-- EC_CANDIDATES (R90): a member's candidates reach an owner. -/
def execEcCandidates (p : ExPkt) (s : State) : Out :=
  recvEx s p 4 fun s _ =>
    let s := noteReceipt s p
    match stepFor s p.group p.mscSeq p.layer with
    | none => s
    | some (seq, x) =>
      let a := assemble (lookupD ([], []) p.srcRank x.candParts) p.frag p.data
      let s := s.setStep seq { x with candParts := insertK p.srcRank a x.candParts }
      match assembled a with
      | some bs => if x.stage = .choosing then takeCands s seq p.srcRank bs else s
      | none => s

/-- EC_ASSIGNMENT (R90, R91): an owner's slots for this member's tokens arrive. -/
def execEcAssignment (p : ExPkt) (s : State) : Out :=
  recvEx s p 4 fun s _ =>
    let s := noteReceipt s p
    match stepFor s p.group p.mscSeq p.layer with
    | none => s
    | some (seq, x) =>
      let a := assemble (lookupD ([], []) p.srcRank x.assignParts) p.frag p.data
      let s := s.setStep seq { x with assignParts := insertK p.srcRank a x.assignParts }
      match assembled a with
      | some bs => if x.stage = .choosing then takeAssign s seq p.srcRank bs else s
      | none => s

/-! ## LIST_BUILD_DONE -/

/-- The experts this module owns in a step, with their regions from RECV_TABLE (R119, R122) and FILLED. -/
def ownedOf (s : State) (x : LStep) : List OwnedExp :=
  (expertsOf s x (endpointId s)).filterMap fun e =>
    if x.xchg.owned ≤ e.2.2 then none
    else
      let v := leNat (wspBytes s (x.xchg.recvTable + 4 * e.2.2) 4)
      let o : OwnedExp := { expert := e.1, expSlot := e.2.2, tile := bitsOf v 0 8, region := bitsOf v 8 22
                            filled := filledOf x e.1 }
      some o

/-- Another step's claim on a receive region that this one needs. -/
def regionTaken (s : State) (seq : Nat) (x : LStep) (os : List OwnedExp) : Bool :=
  s.xch.steps.any fun e => e.1 ≠ seq && e.2.stage = .data && e.2.owned.any fun o => !o.done && !(o.lost && o.filled ≤ o.arrived) &&
    os.any fun p => p.tile = o.tile && rangesMeet p.region (x.cap * rowLenOf x) o.region (e.2.cap * rowLenOf e.2)

/-- Padding rows of an expert are written as +0 (R122 step 1, R123). -/
def writePadding (seq : Nat) (x : LStep) (s : State) (o : OwnedExp) : State :=
  let n := x.cap - o.filled
  let len := rowLenOf x
  let slice := match physOf s o.tile with | some t => homeDie t | none => 0
  count (spadStore s seq o.tile (o.region + o.filled * len) (List.replicate (n * len) 0)) (bankRun slice) 3 n

/-- The tagged pages of owned experts with rows are fetched, and a lost one makes its expert unavailable (R391,
R394); a fetch meets the step (R477). -/
def fetchTagged (x : LStep) (s : State) (o : OwnedExp) : State :=
  if o.filled = 0 then s
  else (expertPages s x.model (x.route.expBase + o.expert)).foldl (fun s q =>
    match s.page q with
    | some d => if d.lost then meetLost s q else if d.inDram then s
      else timingEvent (queueMove s { kind := .demand, page := q }) (s.stream x.ctx x.stream).stepSeq
    | none => s) s

/-- ARM goes to every peer (R122 step 1). Slice 0 sends it, as every control packet of a step, also where quarter 0 is empty (DESIGN
CHOICE: R29 and R108 name no slice for COUNT, ARM, ABORT and the parts of R90's exchanges). -/
def sendArms (s : State) (x : LStep) : State :=
  (groupOf s x.group).peers.foldl (fun s m => sendStep s x 0 m .runner { kind := 10 }) s

/-- The dispatch lists of the four engines (R99, R100). -/
def buildLists (x : LStep) : Table (List Nat) :=
  (upFrom 0 4).map fun n => (n, (sortBy dispatchBefore (x.choices.filter fun c => quarterOf x.n c.token = n)).map (dispatchEntry x))

/-- LIST_BUILD_DONE (R81, R99–R102, R122, R391): the first parked stream whose counts are all there resumes; its lists and
table are written and its data phase begins. -/
def execListBuildDone (s : State) : Out :=
  if s.xch.routing.isSome then .next s
  else match (resumedNow s).bind fun q => (s.step q).map fun x => (q, x) with
    | none => .next s
    | some (seq, x) => match badPlacement s x with
    | some q => .next (abortRouting s seq x q)
    | none =>
      let table := (x.xchg.recvTable, 4 * x.xchg.owned)
      match badPage s x.func table.1 table.2 with
      | some p => .next (abortUncorrectable s seq x p)
      | none => match absentPages s x.route.placeAddr (8 * x.route.eCount) ++ absentPages s table.1 table.2 with
        | p :: ps => .next (waitForPages s x.ctx x.stream (p :: ps))
        | [] => if !(windowLines s false [(x.route.placeAddr, 8 * x.route.eCount), table]).isEmpty then
            .next (askLines s (windowLines s false [(x.route.placeAddr, 8 * x.route.eCount), table])) else
          let (d, s) := drawFree s
          let x := { x with freeDraw := d }
          let os := ownedOf s x
          if regionTaken s seq x os then .next s
          else
            let g := groupOf s x.group
            let figures := if x.ec then ((upFrom 0 x.route.eCount).map (filledOf x)).foldl (· + ·) 0 else x.groupChoices
            let x := { x with groupChoices := figures }
            let x := { x with stage := .data, owned := os, lists := buildLists x, capTable := capTableOf x g.rank g.members.length }
            let s := { s with xch := { s.xch with parked := s.xch.parked.filter (· ≠ seq), stage4 := none } }
            let s := streamProgress (s.setStep seq x) x.ctx x.stream
            let s := writeBuilt s x
            let s := os.foldl (writePadding seq x) s
            let s := issueStep s seq x
            let s := os.foldl (fetchTagged x) s
            let s := sendArms s x
            let s := (upFrom 0 x.n).foldl (fun s t => combineToken s seq t) s
            let s := (g.rank :: x.arms.reverse).foldl (fun s r => takeArm s seq r) s
            .next (maybeCommit (settleWork s) seq)

/-! ## Reads that waited for pages (R390) -/

/-- Work of the count phase that waited for the placement table is taken up again. -/
def resumePlacement (s : State) (seq : Nat) : State :=
  match s.step seq with
  | none => s
  | some x =>
    x.placeWait.foldl (fun s e =>
      if e.1 = 0 then fixOffsets s seq
      else if e.1 = 1 then sendCands s seq
      else if e.1 = 2 then takeCands s seq e.2.1 e.2.2
      else if e.1 = 3 then ecAssign s seq
      else takeAssign s seq e.2.1 e.2.2) (s.modStep seq fun y => { y with placeWait := [] })

/-- Reads of the Runner and of the routing engines that waited for pages, all of which are there now, or for lines are tried again. -/
def resumeReads (s : State) : State :=
  s.xch.steps.foldl (fun s e =>
    if (e.2.placeWait.isEmpty && e.2.armWait.isEmpty && e.2.tokWait.isEmpty) ||
        !(s.stream e.2.ctx e.2.stream).waitPages.isEmpty then s
    else resumeRunner (resumePlacement s e.1) e.1) s

end Sys2Proof.Machine
end

