-- ==== Sys2Proof/Machine/Collectives.lean ====
section
/-!
DEFINITION. Collectives (R133–R141): the gather tree, what each member sends and expects, landing credit, mismatch, and
how a collective ends; the COLLECTIVE command and the arrival rows COLL_DATA, CREDIT, DESC and BARRIER.
-/
namespace Sys2Proof.Machine

/-! ## The gather tree (R140) -/

/-- The least number of levels whose fan-in covers `size` members. -/
def treeLevels (f size : Nat) : Nat :=
  if f < 2 then 0 else ((upFrom 0 12).find? fun l => size ≤ f ^ l).getD 12

/-- r' of a rank (R140). -/
def Group.rel (g : Group) (r : Nat) : Nat := (r + g.members.length - g.collector) % max 1 g.members.length
/-- The rank of an r'. -/
def Group.ofRel (g : Group) (r : Nat) : Nat := (r + g.collector) % max 1 g.members.length

/-- The level of a node with a given r': the largest i with F^i dividing it; the root has every level. -/
def relLevel (f levels r : Nat) : Nat :=
  if r = 0 then levels else ((upFrom 0 levels).filter fun i => r % f ^ (i + 1) = 0).length

/-- The members that send to a rank directly in a gather (R140, R142). -/
def Group.senders (g : Group) (rank : Nat) : List Nat :=
  let n := g.members.length
  let r := g.rel rank
  if g.fanin < 2 then (if r = 0 then (upFrom 0 n).filter (· ≠ rank) else [])
  else
    let lv := relLevel g.fanin (treeLevels g.fanin n) r
    ((upFrom 1 lv).flatMap fun i => (upFrom 1 (g.fanin - 1)).filterMap fun j =>
      let c := r + g.fanin ^ (i - 1) * j
      if c < n then some (g.ofRel c) else none)

/-- The members whose blocks a rank's contribution carries: itself and everything below it, as r' in ascending order. -/
def Group.subtree (g : Group) (rank : Nat) : List Nat :=
  let n := g.members.length
  let r := g.rel rank
  if g.fanin < 2 then (if r = 0 then upFrom 0 n else [r])
  else
    let width := g.fanin ^ relLevel g.fanin (treeLevels g.fanin n) r
    (upFrom r width).filter (· < n)

/-- The receiver of a rank's gather data (R140); none for the collector. -/
def Group.parent (g : Group) (rank : Nat) : Option Nat :=
  (upFrom 0 g.members.length).find? fun m => m ≠ rank && (g.senders m).contains rank

/-! ## Sizes -/

/-- Bytes of `n` elements of a format, back to back. -/
def collBytes (fmt n : Nat) : Nat := if isMx fmt then ceilDiv n 256 * segBytes fmt else n * elemBytes fmt

/-- Is the operation a gather, whose data needs credit (R139)? -/
def Coll.gathers (x : Coll) : Bool := x.op = opGather || x.op = opGatherSum

/-- A collective of COUNT zero, or a BARRIER: no data moves (R135). -/
def Coll.noData (x : Coll) : Bool := x.op = opBarrier || x.count = 0

/-- The ranks that this member waits for. -/
def Coll.sources (x : Coll) (g : Group) : List Nat := if x.gathers then g.senders g.rank else g.peers

/-- Bytes of the contribution expected from a rank; none while its length is not known (ALL_TO_ALLV). -/
def Coll.expected (x : Coll) (g : Group) (rank : Nat) (a : List (Nat × Nat) × Mem) : Option Nat :=
  if x.op = opAllToAllV then
    if covers a.1 0 8 then some (8 + collBytes x.fmt (leNat (readBytes 0 8 a.2))) else none
  else if x.op = opGather then some ((g.subtree rank).length * collBytes x.fmt x.count)
  else if x.op = opGatherSum then
    some (if (g.senders rank).isEmpty then collBytes x.fmt x.count else 96 * x.count)
  else some (collBytes x.fmt x.count)

/-- Bytes of the largest result at this member (R134). -/
def Coll.room (x : Coll) (g : Group) : Nat :=
  let n := g.members.length
  if x.noData then 0
  else if x.op = opAllToAll then n * collBytes x.fmt x.count
  else if x.op = opAllToAllV then 4 * n + n * collBytes x.fmt x.count
  else if g.rank ≠ g.collector then 0
  else if x.op = opGather then n * collBytes x.fmt x.count
  else if isMx (wocFmt x.woc) then rowBytes (wocFmt x.woc) x.count else collBytes (wocFmt x.woc) x.count

def State.coll (s : State) (seq : Nat) : Option Coll := lookup seq s.xch.colls
def State.setColl (s : State) (seq : Nat) (x : Coll) : State := { s with xch := { s.xch with colls := insertK seq x s.xch.colls } }

/-- The open collective that a packet of a group names (R114). -/
def collFor (s : State) (gid number : Nat) : Option (Nat × Coll) :=
  s.xch.colls.find? fun e => e.2.group = gid && e.2.number = number

/-! ## Ends -/

/-- A collective ends: its COLL record, its buffers unless it commits, and its completion (R134, R490). Its operations, all of which
fire once they are placed, stay where they wait. -/
def endColl (s : State) (seq : Nat) (x : Coll) (r : Result) (digest : Nat) : State :=
  let r' := degradeResult s r
  let s := match s.cmd seq with
    | some c => recProduce s (recKeyOf 6 c)
        (recAt 32 2 r'.status + recAt 34 2 x.group + recAt 36 4 x.number + recAt 40 8 digest + recAt 48 8 seq)
    | none => s
  let s := s.modGroup x.group fun g => { g with endedColls := ((x.number, x.hash) :: g.endedColls).take 16 }
  let s := fireTrig { s with xch := { s.xch with colls := eraseK seq s.xch.colls } } 0 seq 6 seq
  completeCmd (freeCmdChains s seq) seq r

/-- A collective ends for a mismatch (R137, R138). -/
def endCollMismatch (s : State) (seq : Nat) (x : Coll) (offender offHash detector detHash : Nat) : State :=
  let r := mismatchResult s x.group offender offHash detector detHash x.number
  let s := runErr s Fld.RUN_ERR_MISMATCH x.group offender offHash
  let s := journalEvent s 0x05 seq r.word0 r.word1 (eventHead x.ctx 0 0)
  endColl s seq x r 0

/-- A packet of a collective from a slice to one rank. Control packets leave from slice 0 (DESIGN CHOICE: R108 splits the contribution
among the slices and says nothing of them). -/
def sendColl (s : State) (x : Coll) (rank : Nat) (p : ExPkt) (slice : Nat := 0) : State :=
  sendRank s x.func slice x.group rank .runner { p with mscSeq := x.number, hash := x.hash }

/-- This member finds a different hash: it stops, tells every member, and completes (R137). -/
def detectColl (s : State) (seq : Nat) (x : Coll) (offender offHash : Nat) : State :=
  let g := groupOf s x.group
  let s := count s (bankRun 0) 9
  let s := g.peers.foldl (fun s m => sendRank s x.func 0 x.group m .runner
    { kind := 5, mscSeq := x.number, hash := offHash, rank := offender, rank2 := g.rank, aux := x.hash }) s
  endCollMismatch s seq x offender offHash g.rank x.hash

/-- One completion for each contributing member, at the collector of a group with PER_MEMBER_CQE (R111, R113). The spec
states no contents for it but what any reply has: its detail and words are free values. -/
def memberCqes (s : State) (seq : Nat) (x : Coll) (g : Group) (ranks : List Nat) : State :=
  if !(g.perMember && g.collector = g.rank && x.gathers) || x.noData || s.cp.cores.stopped then s
  else ranks.foldl (fun s _ =>
    match s.cmd seq with
    | none => s
    | some c =>
      if !c.groupReply then s
      else match s.cq c.func c.cq with
        | none => s
        | some q =>
          let (d, s) := drawFree s
          let w := fun i => (Config.freeWord d i).toNat
          let bytes := replyBytes (pHostTag c.pkt) seq { status := stOk, detail := w 0 % 2 ^ 16, word0 := w 1, word1 := w 2 }
          let s := s.setCq c.func c.cq { q with
            alloc := (q.alloc + 1) % 2 ^ q.depthLog2, notes := q.notes ++ [(q.alloc, bytes, pIrq c.pkt)]
            noteSlots := q.noteSlots ++ [q.alloc] }
          let s := takeGroupEntry s c.func c.cq q.alloc (collGroupKey s c.pkt)
          flushNotes s c.func c.cq (q.notes.length + 1)) s

/-! ## The result -/

/-- The exact values of `n` elements of a part: elements of a format, or EXACT records (R56, R141). -/
def partAccs (fmt n : Nat) (bs : List Byte) : List Acc :=
  (upFrom 0 n).map fun i =>
    let e := (bs.drop (i * elemBytes fmt)).take (elemBytes fmt)
    if fmt = fmtExact then Acc.ofBytes e else Acc.addend {} (decodeElem fmt (leNat e))

/-- The element-wise merge of the parts that a node holds, its own among them (R141). -/
def sumAccs (s : State) (x : Coll) (g : Group) : List Acc :=
  let own := partAccs x.fmt x.count (wspBytes s x.src (collBytes x.fmt x.count))
  x.whole.foldl (fun acc e =>
    let fmt := if (g.senders e.1).isEmpty then x.fmt else fmtExact
    (acc.zip (partAccs fmt x.count e.2)).map fun (a, b) => a.merge b) own

/-- The sum written out under the command's write-out control byte (R133, R141, R482), and its draws. -/
def sumBytes (s : State) (x : Coll) (g : Group) : List Byte × Nat :=
  let accs := sumAccs s x g
  if wocFmt x.woc = fmtExact then (accs.flatMap Acc.bytes, 0)
  else
    let seed := match s.context x.ctx with | some c => c.seed | none => 0
    let sr := wocMode x.woc = 4
    let d := fun e => if sr then drawColl seed e x.number x.group else 0
    let bs := writeRow x.woc ((accs.zip (upFrom 0 x.count)).map fun (a, e) => (a.val, d e))
    (if isMx (wocFmt x.woc) then bs else bs.take (collBytes (wocFmt x.woc) x.count), if sr then x.count else 0)

/-- Where this member's own contribution to a rank lies in SRC, and its elements. -/
def Coll.ownPart (x : Coll) (rank : Nat) : Nat × Nat :=
  if x.op = opAllToAllV then
    (x.src + ((x.counts.take rank).map (collBytes x.fmt)).foldl (· + ·) 0, x.counts.getD rank 0)
  else if x.op = opAllToAll then (x.src + rank * collBytes x.fmt x.count, x.count)
  else (x.src, x.count)

/-- The bytes of this member's own contribution to a rank, as they travel. That of ALL_TO_ALLV carries its number of elements in 8 bytes
before it (DESIGN CHOICE: R133 lets the lengths differ and does not say how a receiver learns one). -/
def ownPartBytes (s : State) (x : Coll) (rank : Nat) : List Byte :=
  let (a, n) := x.ownPart rank
  let bs := wspBytes s a (collBytes x.fmt n)
  if x.op = opAllToAllV then leBytes 8 n ++ bs else bs

/-- The blocks of a gather node in ascending r' (R141): its own and its children's contributions, each of which covers a
run of r'. -/
def gatherBytes (s : State) (x : Coll) (g : Group) : List Byte :=
  let parts := (g.rel g.rank, ownPartBytes s x g.rank) :: x.whole.map fun e => (g.rel e.1, e.2)
  (sortBy (fun (a b : Nat × List Byte) => a.1 < b.1) parts).flatMap fun p => p.2

/-- The blocks of a GATHER at the collector in rank order (R133): r' order turned back by the collector's rank. -/
def gatherResult (s : State) (x : Coll) (g : Group) : List Byte :=
  let len := collBytes x.fmt x.count
  let bs := gatherBytes s x g
  (upFrom 0 g.members.length).flatMap fun r => (bs.drop (g.rel r * len)).take len

/-- The result of a collective whose data is all there, and its draws (R133). -/
def collResult (s : State) (x : Coll) (g : Group) : List Byte × Nat :=
  let ranks := upFrom 0 g.members.length
  let block := fun r => if r = g.rank then ownPartBytes s x r else lookupD [] r x.whole
  if x.op = opAllToAll then (ranks.flatMap block, 0)
  else if x.op = opAllToAllV then
    (ranks.flatMap (fun r => leBytes 4 (leNat ((block r).take 8))) ++ ranks.flatMap (fun r => (block r).drop 8), 0)
  else if g.rank ≠ g.collector then ([], 0)
  else if x.op = opGather then (gatherResult s x g, 0)
  else sumBytes s x g

/-- The buffers that a result of `n` bytes does not need go back to their pool. -/
def trimBufs (s : State) (seq : Nat) (x : Coll) (n : Nat) : List Nat × State :=
  match s.pool x.pool with
  | none => (x.bufs, s)
  | some p =>
    let k := ceilDiv n p.bufBytes
    let keep := x.bufs.take k
    if x.bufs.length ≤ k then (keep, s)
    else
      let s := freeBufs s x.pool x.ctx (x.bufs.drop k)
      match s.pool x.pool with
      | none => (keep, s)
      | some p => (keep, (s.setPool x.pool { p with links := chainLinks keep p.links }).modCmd seq fun c =>
          { c with chains := [(x.pool, keep)] })

/-- A collective whose data is all there completes with its buffer chain (R133, R134, R135). -/
def finishColl (s : State) (seq : Nat) (x : Coll) : State :=
  let g := groupOf s x.group
  let s := (upFrom 0 4).foldl (fun s n => count s (bankRun n) 8) s
  if x.op = opBarrier then endColl s seq x { status := stOk } 0
  else if x.count = 0 then endColl s seq x { status := stNoopZero } 0
  else
    let (bs, draws) := collResult s x g
    let s := countDraws s draws
    let (bufs, s) := trimBufs s seq x bs.length
    let s := chainWrite s x.pool bufs 0 bs
    let (h, s) := if bufs.isEmpty then (0, s) else handOver s x.pool x.ctx bufs
    let s := s.modCmd seq fun c => { c with chains := [] }
    endColl s seq x { status := stOk, word0 := h, word1 := bs.length } (if bs.isEmpty then 0 else crc64 bs)

/-! ## Progress -/

/-- What waits is sent, as far as credit goes (R139). -/
def pumpColl (s : State) (seq : Nat) : Nat → State
  | 0 => s
  | n + 1 =>
    match s.coll seq with
    | none => s
    | some x =>
      match x.toSend with
      | [] => s
      | p :: rest =>
        if x.gathers && x.credit = 0 then s
        else
          let s := s.setColl seq { x with toSend := rest, credit := x.credit - b2n x.gathers }
          let s := fireTrig s p.slice seq 0 p.frag
          pumpColl (sendColl s x p.dest { kind := 4, rank := p.rank, frag := p.frag, data := p.data } p.slice) seq n

/-- Units of 256 bytes in each quarter of `n` bytes but the last (R108). The quarters of a contribution to one destination are as
equal as FRAG's unit allows (DESIGN CHOICE: R108 says contiguous quarters and neither how they are rounded nor whether a
contribution to many members is cut as one). -/
def quarterUnits (n : Nat) : Nat := ceilDiv (ceilDiv n 256) 4

/-- A contribution is queued for a rank: slice n sends its n-th quarter (R108). -/
def Coll.queue (x : Coll) (dest rank : Nat) (bs : List Byte) : Coll :=
  let q := quarterUnits bs.length
  let part := fun (n : Nat) => (bs.drop (256 * q * n)).take (256 * q)
  let ps := (upFrom 0 4).flatMap fun n => if (part n).isEmpty then [] else
    (fragments (part n)).map fun f => ({ dest, slice := n, rank, frag := q * n + f.1, data := f.2 } : Piece)
  let ps := if bs.isEmpty then [{ dest, slice := 0, rank, frag := 0, data := [] }] else ps
  { x with toSend := x.toSend ++ ps }

/-- A collective goes on: a tree node whose children have sent forwards, what can be sent is sent, and a collective that has
everything ends (R135, R141). -/
def advanceColl (s : State) (seq : Nat) : State :=
  match s.coll seq with
  | none => s
  | some x =>
    let g := groupOf s x.group
    let have_ := (x.sources g).all fun r => hasK r x.whole
    let x := if !x.noData && x.gathers && have_ && !x.forwarded then
        match g.parent g.rank with
        | some p =>
          let bs := if x.op = opGather then gatherBytes s x g
            else if (g.senders g.rank).isEmpty then ownPartBytes s x g.rank
            else (sumAccs s x g).flatMap Acc.bytes
          { x.queue p g.rank bs with forwarded := true }
        | none => { x with forwarded := true }
      else x
    let s := s.setColl seq x
    let s := pumpColl s seq (x.toSend.length + 1)
    match s.coll seq with
    | none => s
    | some x =>
      let done := if x.noData then g.peers.all fun r => x.arrived.contains r else have_ && x.toSend.isEmpty
      if done then finishColl s seq x else s

/-- A packet of a collective arrives: the first of each sender is held against this member's hash (R137). -/
def takeColl (s : State) (seq : Nat) (p : ExPkt) : State :=
  match s.coll seq with
  | none => s
  | some x =>
    let g := groupOf s x.group
    if !x.heard.contains p.srcRank && p.hash ≠ x.hash then detectColl s seq x p.srcRank p.hash
    else
      let x := { x with heard := if x.heard.contains p.srcRank then x.heard else p.srcRank :: x.heard }
      if p.kind = 7 then advanceColl (s.setColl seq { x with credit := x.credit + p.aux }) seq
      else if p.kind = 8 || p.kind = 9 then
        advanceColl (s.setColl seq { x with arrived := if x.arrived.contains p.srcRank then x.arrived else p.srcRank :: x.arrived }) seq
      else if hasK p.srcRank x.whole || !(x.sources g).contains p.srcRank || x.noData then s.setColl seq x
      else
        let a := assemble (lookupD ([], []) p.srcRank x.parts) p.frag p.data
        let x := { x with parts := insertK p.srcRank a x.parts }
        let n := x.expected g p.srcRank a
        let full := match n with | some n => covers a.1 0 n | none => false
        let x := if full then { x with whole := insertK p.srcRank (readBytes 0 (n.getD 0) a.2) x.whole } else x
        let s := s.setColl seq x
        let s := if x.gathers then sendColl (fireTrig s 0 seq 5 p.srcRank) x p.srcRank { kind := 7, aux := 1 } else s
        let s := if full then memberCqes s seq x g ((g.subtree p.srcRank).map g.ofRel) else s
        advanceColl s seq

/-- A collective with a number is accepted here and has not begun (R114). -/
def collIssued (s : State) (gid number : Nat) : Bool :=
  s.cp.cmds.any fun e => pOpcode e.2.pkt = 0xA8 && pktBits e.2.pkt 24 0 16 = gid && e.2.collNumber = number &&
    (e.2.phase = .accepting || e.2.phase = .ready)

/-- A packet of a collective: it goes to its collective, or waits for one not yet issued here. -/
def routeColl (s : State) (g : Group) (p : ExPkt) : State :=
  match collFor s p.group p.mscSeq with
  | some (seq, _) => takeColl s seq p
  | none =>
    if g.shut || (!collIssued s p.group p.mscSeq && (p.mscSeq + 2 ^ 32 - g.seq) % 2 ^ 32 ≥ 2 ^ 31) then s
    else { s with xch := { s.xch with early := s.xch.early ++ [p] } }

/-- COLL_DATA (R139, R141). -/
def execCollData (p : ExPkt) (s : State) : Out := recvEx s p 4 fun s g => routeColl s g p
/-- CREDIT (R139). -/
def execCredit (p : ExPkt) (s : State) : Out := recvEx s p 7 fun s g => routeColl s g p
/-- DESC (R135). -/
def execDesc (p : ExPkt) (s : State) : Out := recvEx s p 9 fun s g => routeColl s g p
/-- BARRIER (R135). -/
def execBarrier (p : ExPkt) (s : State) : Out := recvEx s p 8 fun s g => routeColl s g p

/-! ## The command -/

/-- The per-destination counts of an ALL_TO_ALLV (R314). -/
def collCounts (s : State) (p : Packet) (size : Nat) : List Nat :=
  (upFrom 0 size).map fun i => leNat (wspBytes s (pktBits p 48 0 48 + 4 * i) 4)

/-- The weight-space ranges that a COLLECTIVE reads: COUNTS, then SRC. -/
def collRanges (s : State) (p : Packet) (size : Nat) : List (Nat × Nat) :=
  let op := pktBits p 26 0 8
  let fmt := pktBits p 27 0 4
  let n := pktBits p 32 0 32
  let src := pktBits p 40 0 48
  if op = opBarrier || n = 0 then []
  else if op = opAllToAll then [(src, size * collBytes fmt n)]
  else if op = opAllToAllV then
    [(pktBits p 48 0 48, 4 * size), (src, ((collCounts s p size).map (collBytes fmt)).foldl (· + ·) 0)]
  else [(src, collBytes fmt n)]

/-- COLLECTIVE's preconditions (R314). -/
def collectivePre (s : State) (c : OpenCmd) : Option PreFail :=
  match s.group (pktBits c.pkt 24 0 16) with
  | none => some { num := 1 }
  | some g =>
    let bad := (collRanges s c.pkt g.members.length).findSome? fun d => (firstUnmapped s c.func d.1 d.2).map (· * pageBytes)
    firstFail [(bad.isSome, { num := 2, word0 := bad.getD 0 }),
      (g.shut, { num := 3, status := stGroupReformed, word0 := brokenWord g })]

/-- The first packets of a collective go out, and what came before it was issued is taken (R135, R137, R139). -/
def openColl (s : State) (seq : Nat) (x : Coll) (g : Group) : State :=
  let s := s.modCmd seq fun c => { c with pinned := true, phase := .working }
  let s := latchClasses (if x.noData then s else noteReads s x.src (collBytes x.fmt x.count))
  let kind := if x.op = opBarrier then 8 else 9
  let s := if x.noData then g.peers.foldl (fun s m => sendColl s x m { kind }) s else s
  let x := if x.noData || x.gathers then x
    else g.peers.foldl (fun (x : Coll) m => x.queue m g.rank (ownPartBytes s x m)) x
  let s := s.setColl seq x
  let from_ := g.senders g.rank
  let grant := if from_.isEmpty then 0 else g.landBytes / (4096 * from_.length)
  let s := if x.gathers && !x.noData then from_.foldl (fun s m => sendColl s x m { kind := 7, aux := grant }) s else s
  let s := memberCqes s seq x g [g.rank]
  let s := advanceColl s seq
  let (es, s) := earlyFor s fun p => p.kind ≠ 3 && p.group = x.group && p.reforms = g.reforms && p.mscSeq = x.number
  es.foldl (fun s p => takeColl s seq p) s

/-- A collective begins: it ends at once where an ABORT waits for it, where a count passes
MAX_COUNT, or where it gets no buffers (R114, R133, R134, R137). -/
def beginColl (s : State) (seq : Nat) (c : OpenCmd) (g : Group) : State :=
  let p := c.pkt
  let gid := pktBits p 24 0 16
  let op := pktBits p 26 0 8
  let fmt := if op = opBarrier then 0 else pktBits p 27 0 4
  let n := pktBits p 32 0 32
  let counts := if op = opAllToAllV && n ≠ 0 then collCounts s p g.members.length else []
  let x : Coll := { ctx := pContext p, func := c.func, group := gid, number := c.collNumber, op, fmt, woc := pktBits p 28 0 8
                    pool := poolKey c.func (pktBits p 30 0 10), count := n, src := pktBits p 40 0 48, counts
                    hash := descHash op fmt (curEpoch s) n gid, timer := s.ticks }
  let s := s.modCmd seq fun c => { c with regions := collRanges s p g.members.length }
  match s.xch.aborts.find? fun a => a.group = gid && a.reforms = g.reforms && a.mscSeq = x.number && a.layer = 0 with
  | some a =>
    let s := { s with xch := { s.xch with aborts := s.xch.aborts.erase a } }
    endCollMismatch s seq x a.offender a.offHash a.detector a.detHash
  | none =>
    if counts.any fun k => n < k then endColl s seq x { status := stBadParam } 0
    else match (collRanges s p g.members.length).findSome? fun d => (firstLost s d.1 d.2).map fun q => (q, max d.1 (q * pageBytes)) with
      | some (q, a) => endColl (meetLost s q) seq x { status := stUncorrectable, word0 := a } 0
      | none =>
        let bb := match s.pool x.pool with | some q => q.bufBytes | none => 1
        let need := ceilDiv (x.room g) bb
        if need = 0 then openColl s seq x g
        else match allocBufs s x.pool x.ctx need with
          | .inl (e, s) => endColl s seq x { status := e.status } 0
          | .inr (bufs, s) =>
            openColl (s.modCmd seq fun c => { c with chains := [(x.pool, bufs)] }) seq { x with bufs } g

/-- COLLECTIVE (R133–R141, R314). The Runner starts none while RUN_CTL.HALT is 1 (R151); a page without a DRAM copy is
fetched first (R390). -/
def execCollective (seq : Nat) (s : State) : Out :=
  match takesEffect s seq 0xA8 with
  | none => .next s
  | some c =>
    if flag s Fld.RUN_CTL_HALT then .next s
    else if faultedCtx s c then .next (completeWith s seq stContextFault)
    else match collectivePre s c with
      | some f => .next (completeWith s seq f.status f.num f.word0 f.word1)
      | none => match s.group (pktBits c.pkt 24 0 16) with
        | none => .next s
        | some g =>
          match (collRanges s c.pkt g.members.length).flatMap fun d => absentPages s d.1 d.2 with
          | [] =>
            let ls := windowLines s false (collRanges s c.pkt g.members.length)
            if ls.isEmpty then .next (beginColl s seq c g) else .next (askLines s ls)
          | ps => .next (ps.foldl (fun s p => queueMove s { kind := .demand, page := p, seq }) s)

end Sys2Proof.Machine
end

