-- ==== Sys2Proof/Machine/Groups.lean ====
section
/-!
DEFINITION. Runner groups: creation and destruction (R111–R116, R142, R313), ABORT (R137), timeout and re-formation
(R143–R147), the end of groups by fence (R116, R148), and the Runner's control registers (R149–R151).
-/
namespace Sys2Proof.Machine

/-! ## GROUP_CREATE and GROUP_DESTROY -/

/-- The group that a descriptor lays out (R111), with the weight-space address of its member list. -/
def groupDesc (func : Nat) (bs : List Byte) : Nat × Nat × Group :=
  let b := byteField bs
  (b 0 2, b 8 6,
   { epoch := b 2 2, func, rank := b 6 2, timeoutUs := b 16 4, collector := b 20 2, fanin := b 22 1, outstanding := b 23 1
     cq := b 24 2, expert := bitOf (b 26 1) 0, perMember := bitOf (b 26 1) 1, landBytes := b 28 4, reformAddr := b 32 6 })

/-- SIZE of a descriptor. -/
def groupSize (bs : List Byte) : Nat := byteField bs 4 2

/-- The offset of the first field of a descriptor that R112's condition 1 faults (R111, R140). -/
def groupFieldFault (s : State) (bs : List Byte) : Option Nat :=
  let b := byteField bs
  let size := b 4 2
  let checks : List (Bool × Nat) := [
    (b 0 2 = 0, 0), (b 2 2 ≠ curEpoch s, 2), (size = 0 || 2048 < size, 4), (size ≤ b 6 2, 6),
    (b 8 8 % 8 ≠ 0 || 2 ^ 48 ≤ b 8 8, 8), (b 16 4 < 60000 || 60000000 < b 16 4, 16), (size ≤ b 20 2, 20),
    (b 22 1 = 1 || 64 < b 22 1 || (b 22 1 ≠ 0 && 3 < treeLevels (b 22 1) size), 22),
    (b 23 1 = 0 || 8 < b 23 1, 23), (4 ≤ b 26 1, 26), (b 27 1 ≠ 0, 27), (b 28 4 % 4096 ≠ 0, 28),
    (b 32 8 % 8 ≠ 0 || 2 ^ 48 ≤ b 32 8, 32), ((bs.drop 40).any (· ≠ 0), 40)]
  (checks.find? Prod.fst).map Prod.snd

/-- The member list's entries, reserved bits and all. -/
def memberWords (s : State) (a size : Nat) : List Nat := (upFrom 0 size).map fun i => leNat (wspBytes s (a + 4 * i) 4)

/-- The index of the first MEMBERS entry that R112's condition 2 faults: not this endpoint at MY_RANK, or equal to an
earlier one; a set reserved bit makes it differ from every endpoint. -/
def memberFault (s : State) (rank : Nat) (ms : List Nat) : Option Nat :=
  (upFrom 0 ms.length).find? fun i =>
    let m := ms.getD i 0
    (i = rank && m ≠ endpointId s) || (ms.take i).contains m || 2 ^ 20 ≤ m

/-- Entries that a group reserves in its completion queue (R113). -/
def Group.entries (g : Group) : Nat := g.outstanding * g.entriesEach

/-- Landing bytes that a group needs at this member (R142). -/
def Group.landNeed (g : Group) : Nat := 4096 * (g.senders g.rank).length

/-- GROUP_CREATE's conditions (R112), numbered from 1. -/
def groupCreatePre (s : State) (c : OpenCmd) : Option PreFail :=
  let bs := c.payload.getD []
  let (gid, addr, g) := groupDesc c.func bs
  let size := groupSize bs
  let key := groupKey g.epoch gid
  match groupFieldFault s bs with
  | some o => some { num := 1, word0 := o }
  | none =>
    let pageOf4 := fun (a : Nat) => (firstUnmapped s c.func a (4 * size)).map fun q => q * pageBytes
    let listBad := pageOf4 addr
    let bad := match listBad with
      | some a => some a
      | none => if g.reformAddr = 0 then none else pageOf4 g.reformAddr
    let ms := memberWords s addr size
    let m := if listBad.isSome then none else memberFault s g.rank ms
    let g := { g with members := ms }
    let held := s.xch.groups.length + s.xch.newGroups.length
    let free := match s.cq c.func g.cq with | some q => q.freeEntries | none => 0
    firstFail [(m.isSome, { num := 2, word0 := m.getD 0 }),
      (hasK key s.xch.groups || (s.xch.newGroups.any fun e => e.2.1 = key) || 1024 ≤ g.cq || (s.cq c.func g.cq).isNone, { num := 3 }),
      (bad.isSome, { num := 4, word0 := bad.getD 0 }),
      (1024 ≤ held, { num := 5, status := stNoFit }),
      (free < g.entries, { num := 6, status := stNoFit, word1 := g.entries }),
      (g.landBytes < g.landNeed, { num := 7, status := stNoFit, word1 := g.landNeed })]

/-- GROUP_CREATE (R111–R113, R142, R313): its entries are reserved, and the group exists from commit on. -/
def execGroupCreate (seq : Nat) (s : State) : Out :=
  runCmd s seq 0xA0 (groupCreatePre s) fun c =>
    let bs := c.payload.getD []
    let (gid, addr, g) := groupDesc c.func bs
    let g := { g with members := memberWords s addr (groupSize bs) }
    let g := { g with reserved := g.entries }
    let s := match s.cq c.func g.cq with
      | some q => s.setCq c.func g.cq { q with groupReserved := q.groupReserved + g.entries }
      | none => s
    let s := { s with xch := { s.xch with newGroups := insertK seq (groupKey g.epoch gid, g) s.xch.newGroups } }
    endsOk s seq

/-- What GROUP_CREATE makes at commit. -/
def commitGroupCreate (s : State) (seq : Nat) : State :=
  match lookup seq s.xch.newGroups with
  | none => s
  | some (key, g) =>
    let s := { s with xch := { s.xch with newGroups := eraseK seq s.xch.newGroups } }
    s.setGroup key g

/-- A group goes: its reserved entries return to its queue (R113, R116). -/
def dropGroup (s : State) (key : Nat) : State :=
  match s.groupAt key with
  | none => s
  | some g =>
    let s := match s.cq g.func g.cq with
      | some q => s.setCq g.func g.cq { q with groupReserved := q.groupReserved - g.reserved
                                               groupSlots := q.groupSlots.filter fun e => e.2 ≠ key }
      | none => s
    { s with xch := { s.xch with
      groups := eraseK key s.xch.groups
      early := s.xch.early.filter fun p => groupKey p.epoch p.group ≠ key
      aborts := s.xch.aborts.filter fun a => a.group ≠ key % 65536 } }

/-- The group that a layer step or collective runs on, for a command that has one open: it is open from its acceptance to its end
(R28, R114, R116, R284); 0 for a layer that does not route, or whose image is not there yet. -/
def openOn (s : State) (e : Nat × OpenCmd) : Option Nat :=
  let p := e.2.pkt
  if e.2.phase = .completing then none
  else if pOpcode p = 0xA8 then some (pktBits p 24 0 16)
  else if isStepOp p then
    match s.step e.1 with
    | some x => some x.group
    | none =>
      let routes := ((programById s (pStepImage p)).bind fun g => g.binding (pStepLayer p)).any fun b => b.routeDesc ≠ 0
      some (if routes then (s.stream (pContext p) (pStream p)).group else 0)
  else none

/-- A collective or layer step is open on a group of the current epoch (R116). -/
def groupOpen (s : State) (gid : Nat) : Bool := s.cp.cmds.any fun e => openOn s e = some gid

/-- GROUP_DESTROY (R116, R313). -/
def execGroupDestroy (seq : Nat) (s : State) : Out :=
  runCmd s seq 0xA1 (fun c =>
    let key := groupKey (pktBits c.pkt 26 0 16) (pktBits c.pkt 24 0 16)
    firstFail [((s.groupAt key).isNone, { num := 1 }),
      (pktBits c.pkt 26 0 16 = curEpoch s && groupOpen s (pktBits c.pkt 24 0 16), { num := 2 })]) fun _ => endsOk s seq

/-- What GROUP_DESTROY removes at commit. -/
def commitGroupDestroy (s : State) (c : OpenCmd) : State :=
  dropGroup s (groupKey (pktBits c.pkt 26 0 16) (pktBits c.pkt 24 0 16))

/-! ## Ending a group's operations -/

/-- One open layer step or collective ends with a result, begun or not (R145, R146, R148). `event`: it writes a GROUP_REFORM event. -/
def endOpen (event : Bool) (r : Result) (s : State) (e : Nat × OpenCmd) : State :=
  let p := e.2.pkt
  let note := fun (st layer msc : Nat) => if event then journalEvent s 0x06 e.1 r.word0 0 (eventHead (pContext p) st layer) msc else s
  if isStepOp p then
    let s := note (pStream p) (pStepLayer p) (pMsc p)
    if (s.step e.1).isSome then failStep s e.1 r
    else if e.2.phase ≠ .working then endCmd s e.1 r
    else endCmd (s.modStream (pContext p) (pStream p) fun x => { x with state := .open, swapIn := false }) e.1 r
  else
    let s := note 0 0 0
    match s.coll e.1 with
    | some x => endColl s e.1 x r 0
    | none => endCmd s e.1 r

/-- Every open layer step and collective of a group ends with a result (R145, R146, R148). -/
def endGroupWork (s : State) (gid : Nat) (event : Bool) (r : Result) : State :=
  (s.cp.cmds.filter fun e => openOn s e = some gid).foldl (endOpen event r) s

/-- The endpoint is fenced: every open layer step and collective ends with ST_DEST_FENCED, one that runs on no group too (R148), and
every group of the epoch is destroyed (R116). -/
def fenceGroups (s : State) : State :=
  let mine := s.xch.groups.filter fun e => e.1 / 65536 = curEpoch s
  let work := s.cp.cmds.filter fun e => (openOn s e).isSome
  let s := if work.isEmpty then s else runErr s Fld.RUN_ERR_FENCED 0 0 0
  let s := mine.foldl (fun s e => if groupOpen s (e.1 % 65536) then runErr s Fld.RUN_ERR_FENCED (e.1 % 65536) 0 0 else s) s
  let s := work.foldl (endOpen false { status := stDestFenced }) s
  mine.foldl (fun s e => dropGroup s e.1) s

/-! ## ABORT (R137) -/

/-- An ABORT arrives: it ends the operation it names with its own contents, or is kept for one not yet issued. One that names the layer
step that ended last here is late, or early for a reissue of that step: nothing in it tells which, and whether it is kept is open
(DESIGN CHOICE). One that names a collective which ended here, with its hash, is late. -/
def takeAbort (s : State) (g : Group) (p : ExPkt) : State :=
  let s := count s (bankRun 0) 10
  let keep : KeptAbort := { group := p.group, reforms := p.reforms, mscSeq := p.mscSeq, layer := p.layer, offender := p.rank
                            detector := p.rank2, offHash := p.hash, detHash := p.aux
                            page := leNat (p.data.take 8) % 2 ^ 32 }
  let kept := { s with xch := { s.xch with aborts := s.xch.aborts ++ [keep] } }
  match stepFor s p.group p.mscSeq p.layer with
  | some (seq, x) =>
    if x.stage = .queued || x.stage = .scoring then kept else endAborted s seq x keep
  | none => match collFor s p.group p.mscSeq with
    | some (seq, x) => if p.layer = 0 then endCollMismatch s seq x p.rank p.hash p.rank2 p.aux else kept
    | none =>
      let ended := p.layer = 0 && g.endedColls.any fun e => e.1 = p.mscSeq && (e.2 = p.hash || e.2 = p.aux)
      if ended then s
      else if g.lastEnded = some (p.mscSeq, p.layer) then
        if Config.freeChoice s.free 0 % 2 = 0 then { s with free := s.free + 1 } else { kept with free := s.free + 1 }
      else if g.expert || collIssued s p.group p.mscSeq || (p.mscSeq + 2 ^ 32 - g.seq) % 2 ^ 32 < 2 ^ 31 then kept else s

/-- ABORT (R137). -/
def execAbort (p : ExPkt) (s : State) : Out := recvEx s p 5 fun s g => takeAbort s g p

/-! ## Timeout (R143, R144, R146) -/

/-- The bytes of a mask of ranks (R143). -/
def rankMask (size : Nat) (rs : List Nat) : List Byte :=
  leBytes (ceilDiv size 8) ((rs.eraseDups.map fun r => 2 ^ r).foldl (· + ·) 0)

/-- The ranks that a mask names. -/
def maskRanks (size : Nat) (bs : List Byte) : List Nat := let v := leNat bs; (upFrom 0 size).filter fun r => bitOf v r

/-- Surviving choices of a rank for an expert, by the count records (R87). -/
def rowsFrom (x : LStep) (rank e : Nat) : Nat :=
  match lookup rank x.records with
  | none => 0
  | some m =>
    let c := m.counts.getD e (0, 0)
    let b := expertBases x rank e
    (min x.cap (b.1 + c.1) - min x.cap b.1) + (min x.cap (b.2 + c.2) - min x.cap b.2)

/-- The ranks whose part in a layer step this member lacks (R143). -/
def stepMissing (x : LStep) (g : Group) : List Nat :=
  g.peers.filter fun r =>
    if x.stage = .counting then !hasK r x.records
    else if x.stage = .choosing then !x.candFrom.contains r || !x.assignFrom.contains r
    else
      !x.arms.contains r ||
        (x.choices.any fun c => !c.spill && !c.back && g.endpoint r = c.destEp) ||
        (x.owned.any fun o =>
          ((o.rows.filter fun w => w.2.whole && w.2.rank = r).length <
            (if x.ec then (x.candsIn.filter fun c => c.1 = o.expert && c.2.2.2 = r &&
                (bestCands x.cap o.expert x.candsIn).contains c).length
             else rowsFrom x r o.expert)))

/-- The ranks whose part in a collective this member lacks (R143). -/
def collMissing (x : Coll) (g : Group) : List Nat :=
  if x.noData then g.peers.filter fun r => !x.arrived.contains r
  else
    let want := (x.sources g).filter fun r => !hasK r x.whole
    let stuck := if x.toSend.isEmpty then [] else match g.parent g.rank with
      | some p => if x.gathers then [p] else []
      | none => []
    (want ++ stuck).eraseDups

/-- The ranks this member lacks in its group's open operations, and the number of the first of them. -/
def groupMissing (s : State) (gid : Nat) (g : Group) : List Nat :=
  let a := (s.xch.steps.filter fun e => e.2.group = gid && e.2.timer.isSome && e.2.stage ≠ .done).flatMap fun e => stepMissing e.2 g
  let b := (s.xch.colls.filter fun e => e.2.group = gid).flatMap fun e => collMissing e.2 g
  (a ++ b).eraseDups

/-- The coordinator: the lowest rank not held missing (R143). -/
def coordinatorOf (g : Group) (missing : List Nat) : Nat :=
  ((upFrom 0 g.members.length).find? fun r => !missing.contains r).getD g.rank

/-- A group's timer runs at this member (R143). -/
def groupTiming (s : State) (gid : Nat) : Bool :=
  (s.xch.steps.any fun e => e.2.group = gid && e.2.timer.isSome && e.2.stage ≠ .done) ||
    (s.xch.colls.any fun e => e.2.group = gid)

/-- GROUP_TIMEOUT (R143): the member sends SUSPECT to the coordinator and starts its second timer. -/
def execGroupTimeout (group : Nat) (s : State) : Out :=
  match s.group group with
  | none => .next s
  | some g =>
    if g.removed || g.suspected.isSome || !groupTiming s group then .next s
    else
      let missing := groupMissing s group g
      let low := missing.foldl min 2047
      let s := runErr s Fld.RUN_ERR_TIMEOUT group low 0
      let coord := coordinatorOf g missing
      let s := s.modGroup group fun g =>
        { g with suspected := some s.ticks, second := some s.ticks
                 suspects := if coord = g.rank then g.rank :: g.suspects else g.suspects
                 missing := if coord = g.rank then (g.missing ++ missing).eraseDups else g.missing }
      if coord = g.rank then .next s
      else .next (sendRank s g.func 0 group coord .runner
        { kind := 11, rank := low, data := rankMask g.members.length missing })

/-- SUSPECT (R144): the coordinator gathers masks, and the first one starts its second timer. -/
def execSuspect (p : ExPkt) (s : State) : Out :=
  recvEx s p 11 fun s _ => s.modGroup p.group fun g =>
    { g with suspects := if g.suspects.contains p.srcRank then g.suspects else p.srcRank :: g.suspects
             missing := (g.missing ++ maskRanks g.members.length p.data).eraseDups
             second := match g.second with | some t => some t | none => some s.ticks }

/-! ## Re-formation (R144, R145) -/

/-- The new rank of an old one among the survivors. -/
def newRank (removed : List Nat) (r : Nat) : Nat := ((upFrom 0 r).filter fun q => !removed.contains q).length

/-- The collector after a re-formation, as a new rank (R145 step 2). -/
def newCollector (g : Group) (removed : List Nat) : Nat :=
  let n := g.members.length
  match (upFrom 0 n).find? fun k => !removed.contains ((g.collector + k) % n) with
  | some k => newRank removed ((g.collector + k) % n)
  | none => 0

/-- The new member list is written at REFORM_ADDR; true where it could not be (R145 step 3). -/
def writeMembers (s : State) (g : Group) (ms : List Nat) : Bool × State :=
  if g.reformAddr = 0 then (false, s)
  else
    let n := 4 * ms.length
    if (badPage s g.func g.reformAddr n).isSome then (true, s)
    else (false, wspStore false s g.reformAddr (ms.flatMap fun m => leBytes 4 m))

/-- A REFORM with a new count is adopted (R145). -/
def adoptReform (s : State) (gid : Nat) (g : Group) (removed : List Nat) : State :=
  let survivors := (upFrom 0 g.members.length).filter fun r => !removed.contains r
  let gone := removed.contains g.rank
  let ms := survivors.map fun r => g.members.getD r 0
  let col := newCollector g removed
  let rank := newRank removed g.rank
  let g' := { g with members := ms, rank, collector := col, reforms := (g.reforms + 1) % 2 ^ 16, lastRemoved := some removed
                     suspected := none, second := none, suspects := [], missing := [], removed := gone }
  let broken := !gone && g'.landBytes < g'.landNeed
  let g' := { g' with broken := g.broken || broken }
  let (bad, s) := writeMembers s g ms
  let word := removed.length + (removed.foldl min 2047) * 2 ^ 16 + g'.reforms * 2 ^ 32 + b2n gone * 2 ^ 48 +
    b2n g'.broken * 2 ^ 49 + b2n bad * 2 ^ 50 + col * 2 ^ 51
  let s := endGroupWork s gid true { status := stGroupReformed, detail := ms.length, word0 := word }
  let s := s.setGroup (groupKey g.epoch gid) { g' with bound := ((s.group gid).map Group.bound).getD none
                                                       reserved := ((s.group gid).map Group.reserved).getD 0 }
  let s := { s with xch := { s.xch with
    early := s.xch.early.filter fun p => p.group ≠ gid
    aborts := s.xch.aborts.filter fun a => a.group ≠ gid } }
  let s := runErr (count s (bankRun 0) 11) Fld.RUN_ERR_REFORMED gid (removed.foldl min 2047) 0
  if broken then runErr s Fld.RUN_ERR_BROKEN gid (removed.foldl min 2047) 0 else s

/-- A group becomes broken on this member. -/
def setBroken (s : State) (gid rank : Nat) : State :=
  runErr (s.modGroup gid fun g => { g with broken := true }) Fld.RUN_ERR_BROKEN gid rank 0

/-- REFORM (R117, R145): a new count is adopted; the same count with another removed set breaks the group. A member that is removed, by
REFORM or by its own count (R146), takes no part in later re-formations: its state of the group stays until host
software destroys the group. -/
def execReform (p : ExPkt) (s : State) : Out :=
  recvEx s p 6 fun s g =>
    if p.reforms = g.reforms then
      match g.lastRemoved with
      | some r =>
        if rankMask (g.members.length + r.length) r = p.data.take (ceilDiv (g.members.length + r.length) 8) then s
        else setBroken s p.group (r.foldl min 2047)
      | none => s
    else if g.removed then s
    else adoptReform s p.group g (maskRanks g.members.length p.data)

/-- SUSPECT_TIMER_END (R144): a coordinator decides the removed set, sends REFORM and adopts it. -/
def execSuspectTimerEnd (group : Nat) (s : State) : Out :=
  match s.group group with
  | none => .next s
  | some g =>
    match g.second with
    | none => .next s
    | some _ =>
      let s := s.modGroup group fun g => { g with second := none }
      if g.removed || g.suspects.isEmpty then .next s
      else
        let all := upFrom 0 g.members.length
        let removed := all.filter fun r => g.missing.contains r || (r ≠ g.rank && !g.suspects.contains r)
        let mask := rankMask g.members.length removed
        let s := g.peers.foldl (fun s m => sendEx s g.func 0 (g.endpoint m) .runner
          { kind := 6, group, reforms := (g.reforms + 1) % 2 ^ 16, srcRank := g.rank, data := mask }) s
        .next (adoptReform s group g removed)

/-- REFORM_WAIT_TIMEOUT (R146): no REFORM came; this member counts itself removed. -/
def execReformWaitTimeout (group : Nat) (s : State) : Out :=
  match s.group group with
  | none => .next s
  | some g =>
    if g.suspected.isNone || g.removed || g.suspects.contains g.rank then .next s
    else
      let s := endGroupWork s group true { status := stGroupReformed, word0 := removedBroken }
      let s := s.modGroup group fun g => { g with removed := true, broken := true, suspected := none, second := none }
      .next (runErr s Fld.RUN_ERR_BROKEN group g.rank 0)

/-! ## Registers (R106, R149–R151) -/

/-- RUN_CLASS_MAP_WRITE (R149): a map that puts two classes on one channel is ignored. -/
def execRunClassMapWrite (value : Nat) (s : State) : Out :=
  let vs := [bitsOf value 0 3, bitsOf value 4 3, bitsOf value 8 3, bitsOf value 12 3, bitsOf value 16 3]
  if vs.eraseDups.length ≠ 5 then .next (runErr s Fld.RUN_ERR_MAP_REFUSED 0 0 0)
  else
    let v := (vs.zip [0, 4, 8, 12, 16]).foldl (fun acc e => acc + e.1 * 2 ^ e.2) 0
    .next (setRaw s Reg.RUN_CLASS_MAP 0 0 v)

/-- RUN_HALT (R151): a write of RUN_CTL.HALT. -/
def execRunHalt (value : Bool) (s : State) : Out := .next (setFld s Fld.RUN_CTL_HALT (b2n value))

/-- A stream that is in stage 4 as HALT is written finishes it (R106). -/
def keepStage4 (s : State) : State :=
  { s with xch := { s.xch with stage4 := if s.xch.routing.isSome then s.xch.stage4 else resumedNow s } }

/-- RTE_HALT (R106): a write of RTE_CTL.HALT of an engine. -/
def execRteHalt (engine : Nat) (value : Bool) (s : State) : Out :=
  .next (setFld (keepStage4 s) Fld.RTE_CTL_HALT (b2n value) engine)

/-! ## The data phase's rows -/

/-- ARM (R122): a member's regions are claimed; this source may send it its rows. -/
def execArm (p : ExPkt) (s : State) : Out :=
  recvEx s p 10 fun s _ =>
    let s := noteReceipt s p
    match stepFor s p.group p.mscSeq p.layer with
    | some (seq, _) => takeArm s seq p.srcRank
    | none => s

/-- DISPATCH (R122–R124, R98): a row reaches its owner. -/
def execDispatch (p : ExPkt) (s : State) : Out :=
  recvEx s p 1 fun s _ =>
    let s := noteReceipt s p
    match stepFor s p.group p.mscSeq p.layer with
    | some (_, x) => if x.stage = .data then settleWork (bringDispatch s (ownerSlice s p.destTile) p) else s
    | none => s

/-- A staging buffer of pool 0 for a RETURN at a slice (R128, R346): one already granted, or one asked for; none while the asker
waits. The buffers of RETURNs are asked for under tag 1. -/
def stageBuf (s : State) (die : Nat) : Option Nat × State :=
  match s.hop.pool0Given.find? fun e => e.1 = 1 && e.2 / 4096 = die with
  | some e => (some (e.2 % 4096), s)
  | none => if s.hop.waiting.contains (die, 1) then (none, s) else pool0Ask s die 1

/-- RETURN (R128–R130, R395): an output row reaches its source. It passes through a staging buffer of its slice's Hopper, freed once
the row is in the return area or discarded; while there is none, it waits (R346). -/
def execReturn (p : ExPkt) (s : State) : Out :=
  let slice := sliceOf s p
  if p.kind ≠ 2 || !stoked s || (admitEx s p).isNone then recvEx s p 2 fun s _ => s
  else match stageBuf s slice with
    | (none, s) => .next s
    | (some b, s) => recvEx s p 2 fun s _ => settleWork (pool0Give (takeReturn (noteReceipt s p) p slice) slice b)

/-- REDO (R508): the source sends again what it had sent for the owner's re-armed tile. -/
def execRedo (p : ExPkt) (s : State) : Out :=
  recvEx s p 12 fun s _ =>
    let s := count (noteReceipt s p) bankRas 4
    match stepFor s p.group p.mscSeq p.layer with
    | none => s
    | some (seq, _) => resendRows s seq p.srcRank p.destTile

/-! ## Masks (R96, R312, R318) -/

/-- Another command on the same model's bitmaps is past its effect and not yet committed. -/
def maskBusy (s : State) (seq model : Nat) : Bool :=
  s.cp.cmds.any fun e => e.1 ≠ seq && e.2.phase = .completing && (pOpcode e.2.pkt = 0x88 || pOpcode e.2.pkt = 0xE1) &&
    pktBits e.2.pkt 24 0 16 = model

/-- The expert IDs of an EXPERT_MASK's list. -/
def maskList (c : OpenCmd) : List Nat :=
  let bs := c.payload.getD []
  (upFrom 0 (bs.length / 4)).map fun i => byteField bs (4 * i) 4

/-- A bitmap's change by one listed expert. -/
def maskOne (op : Nat) (m : ModelState) (e : Nat) : ModelState :=
  if op = 0 then { m with masked := insertSorted e m.masked }
  else if op = 1 then { m with masked := m.masked.filter (· ≠ e) }
  else { m with unavailable := m.unavailable.filter (· ≠ e) }

/-- A model's bitmaps after an EXPERT_MASK, and the bits changed (R312). -/
def maskAll (op : Nat) (m : ModelState) (es : List Nat) : ModelState × Nat :=
  let m' := es.foldl (maskOne op) m
  let diff := fun (a b : List Nat) => (a.filter fun e => !b.contains e).length
  let n := diff m.masked m'.masked + diff m'.masked m.masked + diff m.unavailable m'.unavailable
  (if n = 0 then m' else { m' with maskVer := (m.maskVer + 1) % 2 ^ 32 }, n)

/-- EXPERT_MASK (R312). -/
def execExpertMask (seq : Nat) (s : State) : Out :=
  match s.cmd seq with
  | none => .next s
  | some c =>
    let model := pktBits c.pkt 24 0 16
    if maskBusy s seq model then .next s
    else runCmd s seq 0x88 (fun c => firstFail [(!modelLoaded s model, { num := 1 }),
        ((maskList c).any fun e => 2 ^ 20 ≤ e, { num := 2 })]) fun c =>
      let (m, n) := maskAll (pktBits c.pkt 26 0 2) (lookupD {} model s.models) (maskList c)
      endsOk s seq (m.maskVer + n * 2 ^ 32)

/-- What EXPERT_MASK changes at commit. -/
def commitExpertMask (s : State) (c : OpenCmd) : State :=
  let model := pktBits c.pkt 24 0 16
  match lookup model s.models with
  | none => s
  | some m => { s with models := insertK model (maskAll (pktBits c.pkt 26 0 2) m (maskList c)).1 s.models }

/-- BITMAP_READ (R318): the bitmap is written to the host at commit. -/
def execBitmapRead (seq : Nat) (s : State) : Out :=
  match s.cmd seq with
  | none => .next s
  | some c =>
    let model := pktBits c.pkt 24 0 16
    if maskBusy s seq model then .next s
    else runCmd s seq 0xE1 (fun _ => firstFail [(!modelLoaded s model, { num := 1 })]) fun _ =>
      endsOk s seq (lookupD {} model s.models).maskVer

/-- The 131,072 bytes of a bitmap of experts, listed in rising order. -/
def bitmapBytes (es : List Nat) : List Byte :=
  (upFrom 0 131072).map fun n =>
    BitVec.ofNat 8 (((es.filter fun e => e / 8 = n).map fun e => 2 ^ (e % 8)).foldl (· + ·) 0)

/-- What BITMAP_READ writes to the host at commit. -/
def commitBitmapRead (s : State) (c : OpenCmd) : State :=
  let m := lookupD {} (pktBits c.pkt 24 0 16) s.models
  send s (.write c.func (pktBits c.pkt 32 0 64) (bitmapBytes (if pktBits c.pkt 26 0 1 = 0 then m.masked else m.unavailable)))

end Sys2Proof.Machine
end

