-- ==== Sys2Proof/Machine/Coding.lean ====
section
/-!
DEFINITION. The coding of a link flit on a port's lanes (R405): transcoded blocks, the RS(544,514) codeword, the dealing of its
symbols and their PAM4 levels. FLIT_RECEIVE's operands are a flit after correction (R406), so no command decodes one.
-/
namespace Sys2Proof.Machine

/-- Bits of a number, least significant first. -/
def lsbBits (n v : Nat) : List Bool := (upFrom 0 n).map fun i => v.testBit i
/-- The number that bits spell, least significant first. -/
def ofLsbBits (bs : List Bool) : Nat := bs.foldr (fun b n => b2n b + 2 * n) 0

/-- The transcoded blocks of a flit's 640 bytes, 257 bits each: bit 0 is 1, then 32 bytes (R405, item 2). -/
def transcode (flit : List Byte) : List (List Bool) :=
  (chunksOf 32 flit 20).map fun bs => true :: bs.flatMap fun b => lsbBits 8 b.toNat

/-- The data symbols of a codeword, ten bits each (R405, item 3). -/
def dataSymbols (flit : List Byte) : List Nat := (chunksOf 10 (transcode flit).flatten 514).map ofLsbBits

/-- Multiplication by x in GF(2^10), modulo x^10 + x^3 + 1 (PRESUMED: IEEE 802.3's field, which R405 names and does not give). -/
def gfTimesX (a : Nat) : Nat := if 512 ≤ a then (2 * a - 1024) ^^^ 9 else 2 * a
/-- Multiplication in GF(2^10). -/
def gfMul (a b : Nat) : Nat :=
  ((upFrom 0 10).foldl (fun (acc : Nat × Nat) i => (if b.testBit i then acc.1 ^^^ acc.2 else acc.1, gfTimesX acc.2)) (0, a)).1

/-- The generator polynomial of RS(544,514), the product of x - 2^j for j = 0 to 29, highest coefficient first and without the leading
1 (PRESUMED: IEEE 802.3's). -/
def generator : List Nat :=
  ((upFrom 0 30).foldl (fun (acc : List Nat × Nat) _ =>
    ((acc.1 ++ [0]).zipWith (· ^^^ ·) (0 :: acc.1.map (gfMul acc.2)), gfTimesX acc.2)) ([1], 1)).1.drop 1

/-- The 30 parity symbols of data symbols: the remainder of their polynomial by the generator (R405, item 3). -/
def parity (data : List Nat) : List Nat :=
  data.foldl (fun (r : List Nat) d =>
    let f := d ^^^ r.headD 0
    ((r.drop 1) ++ [0]).zipWith (· ^^^ ·) (generator.map (gfMul f))) (List.replicate 30 0)

/-- The 544 symbols of a flit's codeword, data first. -/
def codeword (flit : List Byte) : List Nat :=
  let d := dataSymbols flit
  d ++ parity d

/-- The active lanes of a port, in order: all four, or a pair's two (R404, R412). -/
def activeLanes (s : State) (port : Nat) : List Nat :=
  let n := fld s Fld.FAB_PORT_STATUS_LANES port
  if n = 4 then [0, 1, 2, 3]
  else if n = 2 then (let p := fld s Fld.FAB_PORT_STATUS_PAIR port; [2 * p, 2 * p + 1]) else []

/-- Symbols dealt round-robin over `n` lanes: those of lane `i` (R405, item 4). -/
def dealt (n i : Nat) (symbols : List Nat) : List Nat :=
  (upFrom 0 symbols.length).filterMap fun j => if j % n = i then symbols[j]? else none

/-- The level of two bits, the first the less significant: 0, 1, 3, 2 for 0 to 3 (R405, item 5; PRESUMED: IEEE 802.3's Gray
code). -/
def grayLevel (v : Nat) : Nat := if v = 2 then 3 else if v = 3 then 2 else v
/-- The five PAM4 symbols of a symbol. -/
def pam4 (symbol : Nat) : List Nat := (upFrom 0 5).map fun i => grayLevel (bitsOf symbol (2 * i) 2)

/-- What each active lane of a port carries for a flit: lane and levels (R405). -/
def laneLevels (s : State) (port : Nat) (flit : List Byte) : List (Nat × List Nat) :=
  let lanes := activeLanes s port
  (lanes.zip (upFrom 0 lanes.length)).map fun e => (e.1, (dealt lanes.length e.2 (codeword flit)).flatMap pam4)

end Sys2Proof.Machine
end

