-- ==== Sys2Proof/Machine/FabWire.lean ====
section
/-!
DEFINITION. The XL packet's wire form (R414), the choice of ports (R425–R429), and the hand-over of packets to the
router's queues and input buffers (R413, R423, R424).
-/
namespace Sys2Proof.Machine

/-! ## The wire form (R414) -/

/-- The 32 header bytes. -/
def headerBytes (p : XlPkt) : List Byte :=
  leBytes 1 (p.kind % 16 + p.proto % 16 * 16) ++
  leBytes 1 (p.tc % 8 + b2n p.order * 8 + b2n p.mcast * 16 + b2n p.nonmin * 32 + b2n p.passed * 64) ++ leBytes 2 p.epoch ++
  leBytes 4 (p.dest % 2 ^ 20 + p.dslice % 4 * 2 ^ 20 + p.hops % 16 * 2 ^ 22) ++ leBytes 4 (p.src % 2 ^ 20) ++
  leBytes 2 (p.via % 2 ^ 14) ++ leBytes 2 (p.age % 2 ^ 10) ++ leBytes 2 p.seq ++ leBytes 2 (p.payload.length % 2 ^ 13) ++
  leBytes 2 p.shapeTag ++ leBytes 2 (p.mgroup % 2 ^ 12) ++ leBytes 8 p.arg

/-- The trailer: CRC-32C with HOPS, AGE and PASSED taken as zero. -/
def trailerOf (p : XlPkt) : Nat := crc32c (headerBytes { p with hops := 0, age := 0, passed := false } ++ p.payload)

/-- The packet's bytes. -/
def encodePkt (p : XlPkt) : List Byte := headerBytes p ++ p.payload ++ leBytes 4 (trailerOf p)

/-- Bytes on the wire. -/
def XlPkt.size (p : XlPkt) : Nat := 36 + p.payload.length
/-- Credit units of 64 bytes (R409). -/
def XlPkt.units (p : XlPkt) : Nat := ceilDiv p.size 64

/-- What the bytes of a packet are. -/
inductive Parsed where
  | ok (p : XlPkt)
  | hdrBad (p : XlPkt)
  | crcBad (p : XlPkt)
  deriving DecidableEq, Repr

/-- The ARG bits that a packet may use, by kind (R414, R461). -/
def argMask (kind proto : Nat) (mcast : Bool) : Nat :=
  if kind = 0 then (if proto = 3 then 2 ^ 64 - 1 else 0)
  else if kind = 1 then (if mcast then 0xFFFFFFFF else 0xFFFFFFFF0000FFFF)
  else if kind = 2 then 0xFFFFFF
  else if kind = 3 then (if mcast then 0xFFFFFFFF00FFFFFF else 0xFFFFFF)
  else 0

/-- The packet that bytes spell, and whether it stands (R414). -/
def parsePkt (bs : List Byte) : Parsed :=
  let b0 := byteField bs 0 1
  let b1 := byteField bs 1 1
  let d := byteField bs 4 4
  let len := byteField bs 18 2
  let p : XlPkt := {
    kind := b0 % 16, proto := b0 / 16, tc := b1 % 8, order := bitOf b1 3, mcast := bitOf b1 4, nonmin := bitOf b1 5
    passed := bitOf b1 6, epoch := byteField bs 2 2, dest := d % 2 ^ 20, dslice := bitsOf d 20 2, hops := bitsOf d 22 4
    src := byteField bs 8 4 % 2 ^ 20, via := byteField bs 12 2 % 2 ^ 14, age := byteField bs 14 2 % 2 ^ 10
    seq := byteField bs 16 2, shapeTag := byteField bs 20 2, mgroup := byteField bs 22 2 % 2 ^ 12
    arg := byteField bs 24 8, payload := (bs.drop 32).take (len % 2 ^ 13) }
  let bad := bs.length < 36 || 5 < p.kind || (p.kind = 0 && 3 < p.proto) || (p.kind ≠ 0 && p.proto ≠ 0) ||
    (p.mcast && p.order) || bitOf b1 7 || d / 2 ^ 26 ≠ 0 || 12 < p.hops || 2 ^ 20 ≤ byteField bs 8 4 ||
    2 ^ 14 ≤ byteField bs 12 2 || 2 ^ 10 ≤ byteField bs 14 2 || 2 ^ 13 ≤ len || 4128 < len || len % 8 ≠ 0 ||
    (p.kind ≠ 0 && len ≠ 0) || 2 ^ 12 ≤ byteField bs 22 2 || (p.mgroup ≠ 0 && !(p.kind = 0 && p.proto = 3)) ||
    (p.kind = 0 && p.mcast && (p.proto ≠ 3 || 2 ^ 12 ≤ p.dest)) || p.arg &&& argMask p.kind p.proto p.mcast ≠ p.arg ||
    bs.length ≠ 36 + len ||
    (p.kind = 2 && 2 < bitsOf p.arg 16 8) || (p.kind = 3 && 2 < bitsOf p.arg 16 8)
  if bad then .hdrBad p
  else if byteField bs (32 + len) 4 ≠ trailerOf p then .crcBad p
  else .ok p

/-! ## Errors -/

/-- XRT_ERR and XRT_ERR_INFO for a packet (R442, R497). -/
def xrtErr (s : State) (f : FieldRef) (port endpoint epoch : Nat) : State :=
  let s := setRaw s Reg.XRT_ERR_INFO 0 0 (endpoint % 2 ^ 20 + f.lo * 2 ^ 20 + port % 32 * 2 ^ 24 + epoch % 2 ^ 16 * 2 ^ 32)
  setErr s f

/-! ## Ports -/

/-- What the fabric keeps of a port. -/
def State.port (s : State) (p : Nat) : Port := lookupD {} p s.fab.ports
def State.setPort (s : State) (p : Nat) (x : Port) : State := { s with fab := { s.fab with ports := insertK p x s.fab.ports } }

/-- The port is fused off (R5). -/
def portFused (s : State) (p : Nat) : Bool := s.fuses.grade = 2 && p % 5 = 4
/-- Role of a port (R426). -/
def portRole (s : State) (p : Nat) : Nat := bitsOf (raw s Reg.XRT_PORT_ROLE) (2 * p) 2
/-- Only an ACTIVE port carries packets (R410). -/
def portActive (s : State) (p : Nat) : Bool := fld s Fld.FAB_PORT_STATUS_STATE p = 5
/-- A port that tables may name (R443). -/
def portNamed (s : State) (p : Nat) : Bool := p < 20 && !portFused s p && portRole s p ≠ 0
/-- The link's partner is an XL 1.x module (R439). -/
def portOld (s : State) (p : Nat) : Bool := fld s Fld.FAB_PORT_STATUS_VER_MAJOR p = 1
/-- The partner can run a link of two lanes: XL 2.1 (R439). -/
def twoLanes (s : State) (port : Nat) : Bool :=
  fld s Fld.FAB_PORT_STATUS_VER_MAJOR port = 2 && 1 ≤ fld s Fld.FAB_PORT_STATUS_VER_MINOR port
/-- Bytes queued for a port. -/
def queuedBytes (s : State) (p : Nat) : Nat := ((s.port p).out.map fun e => e.pkt.size).foldl (· + ·) 0
/-- Credits that a packet needs lie under virtual channel × 16 + rung. -/
def creditKey (p : XlPkt) (rung : Nat) : Nat := p.tc * 16 + rung
/-- Room for a packet on the next rung, beyond the packets of that rung already queued (R409, R427). -/
def hasCredit (s : State) (port : Nat) (p : XlPkt) : Bool :=
  let x := s.port port
  let waiting := ((x.out.filter fun q => q.pkt.tc = p.tc && q.pkt.hops = p.hops + 1).map fun q => q.pkt.units).foldl (· + ·) 0
  waiting + p.units ≤ lookupD 0 (creditKey p (p.hops + 1)) x.credits && !pointHeld s 8 port p.tc

/-! ## Candidates (R425–R429) -/

def topoMode (s : State) : Nat := fld s Fld.XRT_TOPO_MODE
/-- Group and position of an endpoint (R425). -/
def groupNo (ep : Nat) : Nat := ep / 64
def positionNo (ep : Nat) : Nat := ep % 64

/-- The direct port to a position that shares this module's row or column (R426). -/
def directPort (s : State) (q : Nat) : Option Nat :=
  let p := raw s Reg.XRT_LTBL q
  let p := p % 32
  if q ≠ positionNo (endpointId s) && portNamed s p && portRole s p = 1 then some p else none

/-- Candidates toward a position of the own group (R426). -/
def towardPosition (s : State) (q : Nat) : List Nat :=
  let cols := max 1 (fld s Fld.XRT_TOPO_HX_COLS)
  let me := positionNo (endpointId s)
  let shares := q / cols = me / cols || q % cols = me % cols
  if shares then (directPort s q).toList
  else (directPort s (me / cols * cols + q % cols)).toList ++ (directPort s (q / cols * cols + me % cols)).toList

/-- The valid ways of a group's entry: HERE, and the port or position (R443). -/
def waysTo (s : State) (g : Nat) : List (Bool × Nat) :=
  let v := raw s Reg.XRT_GTBL g
  (upFrom 0 4).filterMap fun w =>
    let e := bitsOf v (16 * w) 16
    if bitOf e 15 then some (bitOf e 14, if bitOf e 14 then e % 32 else e % 64) else none

/-- Candidates toward another group (R426). -/
def towardGroup (s : State) (g : Nat) : List Nat :=
  let ws := waysTo s g
  let here := (ws.filter fun w => w.1 && portNamed s w.2 && portRole s w.2 = 2).map Prod.snd
  if !here.isEmpty then here.eraseDups
  else ((ws.filter fun w => !w.1).flatMap fun w => towardPosition s w.2).eraseDups

/-- The direction that a coordinate's difference takes: 0 positive, 1 negative; none where it does not differ (R429). -/
def torusWay (extent me d : Nat) : Option Nat :=
  let e := max 1 extent
  let up := (d + e - me % e) % e
  if up = 0 then none else if 2 * up ≤ e then some 0 else some 1

/-- Minimal candidates in a torus (R429). -/
def torusPorts (s : State) (dest : Nat) : List Nat :=
  let me := endpointId s
  let dim := fun (lo i extent : Nat) => match torusWay extent (bitsOf me lo 4) (bitsOf dest lo 4) with
    | none => []
    | some w => (upFrom 0 20).filter fun p => bitOf (fld s Fld.XRT_TDIR_PORTS (2 * i + w)) p && portNamed s p
  (dim 0 0 (fld s Fld.XRT_TOPO_TOR_X) ++ dim 4 1 (fld s Fld.XRT_TOPO_TOR_Y) ++ dim 8 2 (fld s Fld.XRT_TOPO_TOR_Z)).eraseDups

/-- Where a unicast packet goes next (R427). -/
inductive Hop where
  | eject
  | ports (ps : List Nat)
  deriving DecidableEq, Repr

/-- PASSED once the packet is in group VIA (R427). -/
def markPassed (s : State) (p : XlPkt) : XlPkt :=
  if topoMode s = 0 && p.nonmin && !p.passed && groupNo (endpointId s) = p.via then { p with passed := true } else p

/-- The next hop of a unicast packet, and its candidates by the tables (R427, R429). -/
def nextHop (s : State) (p : XlPkt) : Hop :=
  let me := endpointId s
  if topoMode s ≠ 0 then (if p.dest = me then .eject else .ports (torusPorts s p.dest))
  else
    let tg := if p.nonmin && !p.passed then p.via else groupNo p.dest
    if groupNo me ≠ tg then .ports (towardGroup s tg)
    else if positionNo me ≠ positionNo p.dest then .ports (towardPosition s (positionNo p.dest))
    else .eject

/-- The links that can carry a packet: ACTIVE, and not XL 1.x for one that has its detour before it (R413, R439). -/
def usablePorts (s : State) (p : XlPkt) (ps : List Nat) : List Nat :=
  ps.filter fun c => portActive s c && !(p.nonmin && !p.passed && portOld s c)

/-- The candidate with the fewest bytes queued; ties go to the lower port (R427). -/
def leastLoaded (s : State) (ps : List Nat) : Option Nat :=
  bestBy (fun a b => queuedBytes s a < queuedBytes s b || (queuedBytes s a = queuedBytes s b && a < b)) ps

/-! ## Queues -/

/-- Base die of a port, and so its router slice (R26, R440). -/
def sliceOfPort (p : Nat) : Nat := p / 5

/-- A link that does not carry a NOTICE with MCAST: its partner is before XL 2.1 (R439). -/
def dropsNotice (s : State) (port : Nat) (p : XlPkt) : Bool :=
  p.kind = 3 && p.mcast && !twoLanes s port

/-- The packet joins a port's queue; it has crossed one more link when it gets there (R423, R439, R444). What the link does not carry
is discarded before it. -/
def enqueue (s : State) (port fromPort fromSlice since : Nat) (p : XlPkt) : State :=
  if dropsNotice s port p then s else
  let p := if portOld s port then { p with shapeTag := 0 } else p
  let x := s.port port
  let e : Arrived := { port := fromPort, at_ := since, pkt := { p with hops := p.hops + 1 } }
  let s := (injectAt s 8 port p.tc).setPort port { x with out := x.out ++ [e] }
  if sliceOfPort port = fromSlice then s else count s bankXrt 17

/-- AGE after the time that the packet spent in the router and on the link (R423). -/
def aged (s : State) (since : Nat) (p : XlPkt) : XlPkt :=
  { p with age := min 1023 (p.age + max 1 (ceilDiv ((s.ticks - since) * 40) 100)) }

/-- A transport control packet of this endpoint; it bypasses the shaper (R416, R466). `src`: the endpoint it speaks for. -/
def sendControl (s : State) (src : Nat) (p : XlPkt) : State :=
  let o : Outgoing := { pkt := { p with src }, slice := (p.dest + p.tc) % 4, exempt := true }
  { s with fab := { s.fab with inject := s.fab.inject ++ [o] } }

/-- A NOTICE that answers a DATA packet (R420, R425, R431, R438): it carries the packet's epoch and comes from the packet's
destination. -/
def sendNotice (s : State) (p : XlPkt) (from_ reason : Nat) : State :=
  let arg := p.seq % 2 ^ 16 + reason * 2 ^ 16 + (if p.mcast then p.arg % 2 ^ 32 * 2 ^ 32 else 0)
  sendControl s from_ { kind := 3, tc := p.tc, mcast := p.mcast, epoch := p.epoch, dest := p.src, arg }

/-- A packet for which no usable port exists is dropped with a NOTICE (R425). -/
def dropNoRoute (s : State) (port : Nat) (p : XlPkt) : State :=
  let s := count (xrtErr s Fld.XRT_ERR_NO_ROUTE port p.dest p.epoch) bankXrt 6
  if p.kind = 0 then sendNotice s p (if p.mcast then endpointId s else p.dest) 2 else s

/-- A packet reaches this module's own ejection (R421), across the link to the slice of its DSLICE where it is at another (R26, R444). -/
def ejectHere (s : State) (port slice : Nat) (p : XlPkt) : State :=
  let s := { s with fab := { s.fab with input := s.fab.input ++ [{ port, at_ := s.ticks, pkt := p, here := true }] } }
  if slice = p.dslice then s else count s bankXrt 17

/-! ## Multicast trees (R436) -/

/-- The entry for a group under an epoch (R434, R435). -/
def mcastFor (s : State) (group epoch : Nat) : Option McastEntry :=
  match lookup group s.fab.mcast with
  | some e => if e.epoch = epoch then some e else none
  | none => none

/-- AGE at which a router drops a packet (R423). -/
def tooOld (s : State) (since : Nat) (p : XlPkt) : Bool := 500 < (aged s since p).age

/-- A packet too old to be forwarded (R423). -/
def dropAged (s : State) (port : Nat) (p : XlPkt) : State := count (xrtErr s Fld.XRT_ERR_AGE_DROP port p.dest p.epoch) bankXrt 5

/-- The ports that a packet's copies go to at a router of its tree (R436). -/
def treePorts (port : Nat) (e : McastEntry) : List Nat := (upFrom 0 20).filter fun d => bitOf e.down d && d ≠ port

/-- The ports of a tree that can carry a copy (R413, R439). -/
def copyPorts (s : State) (port : Nat) (e : McastEntry) : List Nat :=
  (treePorts port e).filter fun d => portActive s d && !portOld s d

/-- One copy of a tree packet goes to each port of DOWN but the port of arrival, unless it may not be forwarded (R423, R436). -/
def copyOn (s : State) (port slice since : Nat) (p : XlPkt) (e : McastEntry) : State :=
  if (treePorts port e).isEmpty then s
  else if p.hops = 12 then count (xrtErr s Fld.XRT_ERR_HOP_DROP port p.dest p.epoch) bankXrt 4
  else if tooOld s since p then dropAged s port p
  else
    let ds := copyPorts s port e
    let s := ds.foldl (fun s d => count (enqueue s d port slice since p) bankXrt 8) s
    count s bankXrt 2 (b2n (port < 20 && !ds.isEmpty))

/-- A packet at a router of its tree: a local copy, and one copy for each port of DOWN but the port of arrival (R436, R438). A packet
that may not be forwarded any more is still delivered here (R423). -/
def replicate (s : State) (port slice since : Nat) (p : XlPkt) (e : McastEntry) : State :=
  copyOn (if e.local_ then count (ejectHere s port slice p) bankXrt 8 else s) port slice since p e

/-- A tree packet at a router without a matching entry (R435). -/
def mcastMiss (s : State) (port : Nat) (p : XlPkt) : State :=
  count (xrtErr s Fld.XRT_ERR_MCAST_MISS port p.dest p.epoch) bankXrt 9

/-- A tree packet at a router that has no entry for it under its epoch. A leaf's router whose entry an epoch fence destroyed drops the
copy addressed to the leaf, answers it with a NOTICE, and delivers the other branches; one whose entry is of another epoch answers it
too (R432, R438; that the router still knows the destroyed entry is DEDUCED). Any other router discards it (R435). -/
def leafMiss (s : State) (port slice since : Nat) (p : XlPkt) : State :=
  let reason := b2n (!flag s Fld.XRT_EP_FENCED)
  let answer (s : State) : State := count (sendNotice s p (endpointId s) reason) bankXrt 7
  match (lookup p.dest s.fab.mcastGone).filter fun e => e.epoch = p.epoch with
  | some e => if e.local_ then copyOn (answer s) port slice since p e else mcastMiss s port p
  | none => match lookup p.dest s.fab.mcast with
    | some e => if e.local_ then answer s else mcastMiss s port p
    | none => mcastMiss s port p

/-- A DATA packet with PROTO MCAST and MCAST clear for this endpoint is a leg of a tree that starts here; it is a resend to a leaf where
the group's entry, or the one that a fence destroyed, has another root (R436, R437). -/
def isLeg (s : State) (p : XlPkt) : Bool :=
  match mcastFor s p.mgroup p.epoch with
  | some e => e.root = endpointId s
  | none => match (lookup p.mgroup s.fab.mcastGone).filter fun e => e.epoch = p.epoch with
    | some e => e.root = endpointId s
    | none => true

end Sys2Proof.Machine
end

