-- ==== Sys2Proof/Machine/RegAccess.lean ====
section
/-!
DEFINITION. A write to a register under its fields' access codes (R9–R11).
-/
namespace Sys2Proof.Machine

/-- The register at an offset of BAR0, with its copy number. -/
def regAt (off : Nat) : Option (RegSpec × Nat) :=
  (allRegs.find? fun r => r.base ≤ off && (off - r.base) % r.stride = 0 && (off - r.base) / r.stride < r.n).map
    fun r => (r, (off - r.base) / r.stride)

/-- A value that a field may hold: within its range, and a multiple of its unit. -/
def FieldSpec.takes (f : FieldSpec) (x : Nat) : Bool := f.min ≤ x && x ≤ f.max && x % Nat.max 1 f.unit = 0

/-- What a field stores after `x` is written to it, of which the bits of `m` are written at all (R9, R11). -/
def FieldSpec.written (f : FieldSpec) (old x m : Nat) : Nat :=
  let new := (old &&& ((2 ^ f.len - 1) ^^^ (m % 2 ^ f.len))) ||| (x &&& m)
  match f.acc with
  | .ro => old
  | .wo => old
  | .rc => old
  | .rw => if f.takes new then new else old
  | .w1c => old &&& ((2 ^ f.len - 1) ^^^ (x &&& m % 2 ^ f.len))
  | .rwl => if old = f.reset && f.takes new then new else old

/-- A register's stored value after a write of `v` to the bits of `mask`; reserved bits keep out (R10). -/
def RegSpec.written (r : RegSpec) (old v mask : Nat) : Nat :=
  r.fields.foldl (fun acc f => putBits acc f.lo f.len (f.written (bitsOf old f.lo f.len) (bitsOf v f.lo f.len)
    (bitsOf mask f.lo f.len))) old

/-- A write to a register copy under its access codes. -/
def writeReg (s : State) (r : RegSpec) (idx func v : Nat) (mask : Nat := 2 ^ 64 - 1) : State :=
  setRaw s r idx func (r.written (raw s r idx func) v mask)

end Sys2Proof.Machine
end

