-- ==== Sys2Proof/Machine/Shaper.lean ====
section
/-!
DEFINITION. Deficit round robin, token buckets, the shaping hierarchy and the policers (R424, R465–R470, R473, R474).
-/
namespace Sys2Proof.Machine

/-! ## Deficit round robin (R424, R468) -/

/-- Bytes that a weight of one is worth in a round: the largest length of a packet, overhead and all. -/
def quantum : Nat := 4608

/-- Deficit round robin over `n` queues: the queue that sends next, and the counters after it. `head` is the length at a
queue's head, where it has one. -/
def drrPick (n : Nat) (head : Nat → Option Nat) (weight : Nat → Nat) (deficit : Nat → Nat) (last : Nat) :
    Option (Nat × Nat) :=
  let stay := match head last with
    | some z => if z ≤ deficit last then some (last, deficit last - z) else none
    | none => none
  match stay with
  | some r => some r
  | none => (upFrom 1 n).findSome? fun i =>
      let k := (last + i) % n
      match head k with
      | some z =>
        let d := (if k = last then 0 else deficit k) + max 1 (weight k) * quantum
        if z ≤ d then some (k, d - z) else none
      | none => none

/-! ## Buckets (R467) -/

def Level.cfg : Level → RegSpec
  | .sub => Reg.SHP_SUB_CFG | .svc => Reg.SHP_SVC_CFG | .port => Reg.SHP_PORT_CFG | .pol => Reg.SHP_POL_CFG
def Level.ovh : Level → RegSpec
  | .sub => Reg.SHP_SUB_OVH | .svc => Reg.SHP_SVC_OVH | .port => Reg.SHP_PORT_OVH | .pol => Reg.SHP_POL_OVH
/-- The number of a level's first bucket. -/
def Level.base : Level → Nat
  | .sub => 0 | .svc => 1024 | .port => 1088 | .pol => 1092

/-- The level and copy of a bucket number. -/
def bucketAt (b : Nat) : Level × Nat :=
  if b < 1024 then (.sub, b) else if b < 1088 then (.svc, b - 1024) else if b < 1092 then (.port, b - 1088) else (.pol, b - 1092)

def bktRate (s : State) (l : Level) (i : Nat) : Nat := bitsOf (raw s l.cfg i) 0 24
def bktEn (s : State) (l : Level) (i : Nat) : Bool := bitOf (raw s l.cfg i) 40
/-- Burst in tokens of 1/200 byte. -/
def bktCap (s : State) (l : Level) (i : Nat) : Int := (bitsOf (raw s l.cfg i) 24 16 * 1024 * 200 : Nat)
def bktOverhead (s : State) (l : Level) (i : Nat) : Nat := bitsOf (raw s l.ovh i) 0 8
/-- Tokens of a bucket. -/
def tokens (s : State) (l : Level) (i : Nat) : Int := lookupD 0 (l.base + i) s.fab.tokens
def setTokens (s : State) (l : Level) (i : Nat) (t : Int) : State :=
  { s with fab := { s.fab with tokens := insertK (l.base + i) t s.fab.tokens } }

/-- A bucket that lets a packet pass. -/
def bktOpen (s : State) (l : Level) (i : Nat) : Bool := !bktEn s l i || 0 < tokens s l i

/-- The length of a packet at a bucket, in tokens. -/
def lengthAt (s : State) (l : Level) (i : Nat) (p : XlPkt) : Int := ((p.size + bktOverhead s l i) * 200 : Nat)

/-- A packet's charge to a bucket; a service's count keeps above minus its burst (R468). -/
def charge (s : State) (l : Level) (i : Nat) (p : XlPkt) : State :=
  if !bktEn s l i then s
  else
    let t := tokens s l i - lengthAt s l i p
    setTokens s l i (if l = .svc then max t (-bktCap s l i) else t)

/-- One ember tick's tokens of every bucket with EN set: RATE_MBPS × 40 ns (R467). -/
def refill (s : State) : State :=
  let add := fun (e : Nat × Int) =>
    let (l, i) := bucketAt e.1
    if bktEn s l i then (e.1, min (bktCap s l i) (e.2 + (bktRate s l i : Nat))) else e
  { s with fab := { s.fab with tokens := s.fab.tokens.map add } }

/-! ## The hierarchy (R468) -/

/-- How a packet passes its subscriber: none where it is held, else whether it passes by borrowing. -/
def passes (s : State) (o : Outgoing) : Option Bool :=
  if bktOpen s .sub o.sub then some false
  else if bitOf (raw s Reg.SHP_SUB_CFG o.sub) 41 && bktEn s .svc o.svc && 0 < tokens s .svc o.svc then some true
  else none

/-- The subscriber's present service: SERVICE applies to packets not yet started (R469). -/
def withService (s : State) (o : Outgoing) : Outgoing := { o with svc := fld s Fld.SHP_SUB_CFG_SERVICE o.sub }

/-- Held packets of a port that no earlier packet of their subscriber and class keeps, with their place. -/
def frontPackets (s : State) (slice : Nat) : List (Nat × Outgoing) :=
  let all := (upFrom 0 s.fab.held.length).zip (s.fab.held.map (withService s))
  all.filter fun e => e.2.slice % 4 = slice && !(all.any fun d => d.1 < e.1 && d.2.sub = e.2.sub && d.2.pkt.tc = e.2.pkt.tc)

/-- A service without a packet at a port keeps no deficit there. -/
def keepDeficits (slice : Nat) (held : List Outgoing) (t : Table Nat) : Table Nat :=
  t.filter fun e => e.1 / 64 ≠ slice || held.any fun o => o.svc = e.1 % 64

/-- SHAPER_START (R468): the port of a slice starts the packet that its service order gives it. -/
def execShaperStart (slice : Nat) (s : State) : Out :=
  let slice := slice % 4
  if !bktOpen s .port slice then .next s
  else
    let front := (frontPackets s slice).filter fun e => (passes s e.2).isSome
    let rich := front.filter fun e => bktOpen s .svc e.2.svc
    let pool := if rich.isEmpty then front else rich
    let head := fun v => (pool.find? fun e => e.2.svc = v).map fun e => e.2.pkt.size + bktOverhead s .svc v
    let weight := fun v => fld s Fld.SHP_SVC_CFG_WEIGHT v
    match drrPick 64 head weight (fun v => lookupD 0 (slice * 64 + v) s.fab.svcDeficit) (lookupD 63 slice s.fab.lastSvc) with
    | none => .next s
    | some (v, d) =>
      match pool.find? fun e => e.2.svc = v with
      | none => .next s
      | some (i, o) =>
        let borrowed := passes s o = some true
        let s := count s bankShp 0
        let s := if borrowed then count s bankShp 1 else s
        let s := if rich.isEmpty then count s bankShp 4 else s
        let s := charge (charge s .port slice o.pkt) .svc v o.pkt
        let s := if borrowed then s else charge s .sub o.sub o.pkt
        let o := { o with pkt := { o.pkt with shapeTag := o.sub + v * 2 ^ 10 } }
        let held := s.fab.held.eraseIdx i
        .next { s with fab := { s.fab with
          held
          inject := s.fab.inject ++ [o]
          svcDeficit := keepDeficits slice ((held.map (withService s)).filter fun o => o.slice % 4 = slice)
            (insertK (slice * 64 + v) d s.fab.svcDeficit)
          lastSvc := insertK slice v s.fab.lastSvc } }

/-- SHP_BUCKET_CFG_WRITE (R469, R473): a change of RATE_MBPS, BURST_KIB or EN sets the tokens to zero or to full. -/
def execShpBucketCfgWrite (func : Nat) (level : Level) (index value : Nat) (s : State) : Out :=
  if func ≠ 0 || level.cfg.n ≤ index then .next s
  else
    let old := raw s level.cfg index
    let s := writeReg s level.cfg index 0 value
    if bitsOf old 0 41 = bitsOf (raw s level.cfg index) 0 41 then .next s
    else .next (setTokens s level index (if bitOf value 42 then bktCap s level index else 0))

/-! ## Policing (R470) -/

/-- A DATA packet meets its policer on ejection: whether it passes, and the state after it. -/
def police (s : State) (p : XlPkt) : Bool × State :=
  let i := p.shapeTag / 2 ^ 10 % 64
  if !bktEn s .pol i || !bitOf (fld s Fld.SHP_POL_OVH_TC_MASK i) p.tc then (true, s)
  else if lengthAt s .pol i p ≤ tokens s .pol i then (true, count (setTokens s .pol i (tokens s .pol i - lengthAt s .pol i p)) bankShp 5)
  else (false, count (count (timingOpen s) bankShp 6) bankShp 7 (ceilDiv p.size 64))

end Sys2Proof.Machine
end

