-- ==== Sys2Proof/Machine/Router.lean ====
section
/-!
DEFINITION. The router: injection with spraying and throttling, forwarding, and the sending of queued packets on the links
(R407–R409, R413, R423–R430).
-/
namespace Sys2Proof.Machine

/-! ## Throttle (R430) -/

/-- A slice admits a new packet from its internal port toward a port. -/
def admits (s : State) (port : Nat) : Bool :=
  let q := queuedBytes s port
  let high := fld s Fld.XRT_THROTTLE_HIGH_KIB * 1024
  let x := s.port port
  if 2 * high < q then false
  else if x.throttled || high < q then
    match x.admitted with
    | none => true
    | some t => fld s Fld.XRT_THROTTLE_GAP ≤ 60 * (s.ticks - t)
  else true

/-- The throttle of a port follows its queue. -/
def throttleUpdate (s : State) (port : Nat) : State :=
  let q := queuedBytes s port
  let x := s.port port
  let t := if fld s Fld.XRT_THROTTLE_HIGH_KIB * 1024 < q then true
    else if q < fld s Fld.XRT_THROTTLE_LOW_KIB * 1024 then false else x.throttled
  if t = x.throttled then s else s.setPort port { x with throttled := t }

/-- A new packet has been admitted toward a port. -/
def admitted (s : State) (port : Nat) : State :=
  throttleUpdate (s.setPort port { s.port port with admitted := some s.ticks }) port

/-! ## Injection (R428) -/

/-- Fewest bytes queued among the usable ports of a list, in units of 256 bytes. -/
def fewestQueued (s : State) (p : XlPkt) (ps : List Nat) : Option Nat :=
  (leastLoaded s (usablePorts s p ps)).map fun c => queuedBytes s c / 256

/-- The groups that VIA may be drawn from (R428). -/
def viaGroups (s : State) (p : XlPkt) : List Nat :=
  (upFrom 0 (fld s Fld.XRT_TOPO_GROUPS)).filter fun g => g ≠ groupNo (endpointId s) && g ≠ groupNo p.dest

/-- A packet as it is injected, minimal or by way of a drawn group (R428). -/
def spray (s : State) (p : XlPkt) : XlPkt × State :=
  let mode := fld s Fld.XRT_SPRAY_MODE
  let gs := viaGroups s p
  if topoMode s ≠ 0 || groupNo p.dest = groupNo (endpointId s) || mode = 0 || gs.isEmpty then (p, s)
  else
    let (d, s) := drawFree s
    let via := gs.getD (Config.freeChoice d 0 % gs.length) 0
    let np := { p with nonmin := true, via }
    if mode = 2 then (np, s)
    else match fewestQueued s p (towardGroup s (groupNo p.dest)), fewestQueued s np (towardGroup s via) with
      | some qm, some qn => if 2 * qn + fld s Fld.XRT_SPRAY_NM_BIAS < qm then (np, s) else (p, s)
      | _, _ => (p, s)

/-- A DATA packet that its source numbers: unicast, and no leg of a multicast message (R415, R436). -/
def Outgoing.inFlow (o : Outgoing) : Bool := o.pkt.kind = 0 && !o.pkt.mcast && !(o.pkt.proto = 3 && o.owner = .none)

/-- The key of a packet's flow at its source. -/
def flowKey (ep tc : Nat) : Nat := ep * 8 + tc

/-- The packet is numbered and kept until it is acknowledged (R415, R419). -/
def number (s : State) (o : Outgoing) : Outgoing × State :=
  if !o.inFlow || o.again then (o, s)
  else
    let k := flowKey o.pkt.dest o.pkt.tc
    let f := lookupD {} k s.fab.tx
    let p := { o.pkt with seq := f.next }
    let f := { f with next := (f.next + 1) % 65536, sent := f.sent ++ [{ pkt := p, owner := o.owner, slice := o.slice, at_ := s.ticks }] }
    ({ o with pkt := p }, { s with fab := { s.fab with tx := insertK k f s.fab.tx } })

/-- The Runner's class of a packet, by its KIND (R149); none for a packet that is not the Runner's. -/
def runnerClass (o : Outgoing) : Option Nat :=
  if o.pkt.proto = 0 && o.pkt.kind = 0 then some (exchangeClass (byteField o.pkt.payload 0 1 % 16)) else none

/-- The Runner's injection point holds a packet back (R591). -/
def runnerHeld (s : State) (o : Outgoing) : Bool :=
  match runnerClass o with
  | some i => pointHeld s 5 (o.slice % 4) i
  | none => false

/-- The event of a Runner packet's injection (R591). -/
def runnerInjected (s : State) (o : Outgoing) : State :=
  match runnerClass o with
  | some i => injectAt s 5 (o.slice % 4) i
  | none => s

/-! ## The injection arbiter (R150) -/

/-- The weights of DISPATCH, RETURN and BULK that the latest operation started with. -/
def classWeights (s : State) : List Nat :=
  [bitsOf s.xch.classWeight 0 8, bitsOf s.xch.classWeight 8 8, bitsOf s.xch.classWeight 16 8]

/-- What a slice's arbiter has left to the three classes in its round. -/
def roundLeft (s : State) (slice : Nat) : List Nat := lookupD (classWeights s) slice s.xch.arbiter

/-- The packet at `index` enters the network: the state after it; none where it has to wait (R415, R427, R428, R430). -/
def injectOne (s : State) (index : Nat) : Option State :=
  match s.fab.inject[index]? with
  | none => none
  | some o =>
    let gone := runnerInjected { s with fab := { s.fab with inject := s.fab.inject.eraseIdx index } } o
    if !mayInject s && o.pkt.kind ≠ 3 then some gone
    else
      let same := fun (q : Outgoing) => q.inFlow && !q.again && q.pkt.dest = o.pkt.dest && q.pkt.tc = o.pkt.tc
      let held := o.inFlow && !o.again && ((s.fab.inject.take index).any same ||
        256 ≤ (lookupD {} (flowKey o.pkt.dest o.pkt.tc) s.fab.tx).sent.length) || runnerHeld s o
      if held then none
      else if o.pkt.kind = 0 && o.pkt.mcast then
        match mcastFor gone o.pkt.dest o.pkt.epoch with
        | none => some (mcastMiss gone 31 o.pkt)
        | some e =>
          let ps := copyPorts s 31 e
          if !ps.all (admits s) then none
          else
            let gone := ps.foldl admitted (replicate gone 31 (o.slice % 4) s.ticks o.pkt e)
            some (count gone bankXrt 0)
      else
        let (p, gone) := spray gone o.pkt
        match nextHop s p with
        | .eject =>
          let (o, gone) := number gone { o with pkt := p }
          some (count (ejectHere gone 31 (o.slice % 4) o.pkt) bankXrt 0)
        | .ports ps =>
          let ps := usablePorts s p ps
          if ps.isEmpty then
            let (o, gone) := number gone { o with pkt := p }
            some (dropNoRoute gone 31 o.pkt)
          else match leastLoaded s (ps.filter fun c => hasCredit s c p && admits s c) with
            | none => none
            | some c =>
              let (o, gone) := number gone { o with pkt := p }
              let gone := count (admitted (enqueue gone c 31 (o.slice % 4) s.ticks o.pkt) c) bankXrt 0
              some (if o.pkt.nonmin then count gone bankXrt 3 else gone)

/-- The classes of which the Runner slice has a packet ready to enter, among those other than `own` (R149). -/
def readyClasses (s : State) (slice own : Nat) : List Nat :=
  ((upFrom 0 s.fab.inject.length).filterMap fun i => (s.fab.inject[i]?).bind fun o =>
    match runnerClass o with
    | some c => if o.slice % 4 = slice && c ≠ own && (injectOne s i).isSome then some c else none
    | none => none).eraseDups

/-- The arbiter of R150 lets a class go before the other ready ones: CTRL is 0, COUNT 1, then DISPATCH, RETURN and BULK in proportion
to their weights. The model shares by rounds of as many packets as the weights say (DESIGN CHOICE: R150 says in proportion
and not by what means). -/
def arbiterLets (s : State) (slice c : Nat) : Bool :=
  let ready := readyClasses s slice c
  let w := classWeights s
  let left := roundLeft s slice
  if c ≤ 1 then ready.all fun d => c < d
  else if w.getD (c - 2) 0 = 0 then ready.isEmpty
  else
    let rivals := ready.filter fun d => 2 ≤ d && w.getD (d - 2) 0 ≠ 0
    (ready.all fun d => 2 ≤ d) && (left.getD (c - 2) 0 ≠ 0 || rivals.all fun d => left.getD (d - 2) 0 = 0)

/-- A class has sent a packet: its share of the round falls, and a new round begins where it had none left. -/
def arbiterSent (s : State) (slice c : Nat) : State :=
  if c ≤ 1 then s
  else
    let left := roundLeft s slice
    let left := if left.getD (c - 2) 0 = 0 then classWeights s else left
    let left := left.set (c - 2) (left.getD (c - 2) 0 - 1)
    let arbiter := if left = classWeights s then eraseK slice s.xch.arbiter else insertK slice left s.xch.arbiter
    { s with xch := { s.xch with arbiter } }

/-- PACKET_INJECT (R150, R415, R427, R428, R430): the packet at `index` of those waiting enters the network, unless an earlier one
of its flow waits, its flow has 256 packets unacknowledged, no port admits it, or its Runner slice's arbiter serves another
class first. -/
def execPacketInject (index : Nat) (s : State) : Out :=
  match injectOne s index, s.fab.inject[index]? with
  | some s', some o =>
    match runnerClass o with
    | none => .next s'
    | some c => if arbiterLets s (o.slice % 4) c then .next (arbiterSent s' (o.slice % 4) c) else .next s
  | _, _ => .next s

/-! ## Forwarding (R423, R427, R436) -/

/-- A packet leaves the router's input: out of an input buffer, it gives back what its pair holds of the shared space, and the rest of its
units goes back to the partner (R409). One that has reached ejection holds no buffer any more. -/
def leaveInput (s : State) (a : Arrived) (index : Nat) : State :=
  let s := { s with fab := { s.fab with input := s.fab.input.eraseIdx index } }
  if a.port < 20 && !a.here then
    let x := s.port a.port
    let k := a.pkt.tc * 16 + a.pkt.hops
    let shared := min (lookupD 0 k x.lent) a.pkt.units
    let back := if shared = a.pkt.units then [] else [(a.pkt.tc, a.pkt.hops, a.pkt.units - shared)]
    s.setPort a.port { x with lent := if shared = 0 then x.lent else insertK k (lookupD 0 k x.lent - shared) x.lent
                              owed := x.owed ++ back }
  else s

/-- PACKET_FORWARD (R423, R427, R436): the router moves the packet at `index` of its input buffers to a candidate's queue, into
its multicast tree, or to this module's ejection, or drops it; without credit it stays. -/
def execPacketForward (index : Nat) (s : State) : Out :=
  match s.fab.input[index]? with
  | none => .next s
  | some a =>
    if a.here then .next s
    else
      let gone := leaveInput s a index
      let slice := sliceOfPort (min a.port 19)
      let p := markPassed s a.pkt
      if p.kind = 0 && p.mcast then
        match mcastFor s p.dest p.epoch with
        | none => .next (leafMiss gone a.port slice a.at_ p)
        | some e => .next (replicate gone a.port slice a.at_ p e)
      else match nextHop s p with
      | .eject =>
        if p.kind = 0 && p.proto = 3 && isLeg s p then
          match mcastFor s p.mgroup p.epoch with
          | none => .next (mcastMiss gone a.port p)
          | some e => .next (replicate gone 31 slice a.at_ { p with mcast := true, dest := p.mgroup } e)
        else .next (ejectHere gone a.port slice p)
      | .ports ps =>
        if p.hops = 12 then .next (count (xrtErr gone Fld.XRT_ERR_HOP_DROP a.port p.dest p.epoch) bankXrt 4)
        else if tooOld s a.at_ p then .next (dropAged gone a.port p)
        else
          let ps := usablePorts s p ps
          if ps.isEmpty then .next (dropNoRoute gone a.port p)
          else match leastLoaded s (ps.filter fun c => hasCredit s c p) with
            | none => .next s
            | some c => .next (throttleUpdate (count (enqueue gone c a.port slice a.at_ p) bankXrt 2 (b2n (!dropsNotice s c p))) c)

/-- A port leaves ACTIVE: its queued packets are routed again where another candidate exists, one with credit first, else they are
discarded and counted (R413, R427). -/
def rerouteQueue (s : State) (port : Nat) : State :=
  let x := s.port port
  x.out.foldl (fun s e =>
    let p := { e.pkt with hops := e.pkt.hops - 1 }
    let cands := if p.mcast && p.kind = 0 then [] else match nextHop s p with
      | .eject => []
      | .ports ps => (usablePorts s p ps).filter fun c => c ≠ port
    let ready := cands.filter fun c => hasCredit s c p
    match leastLoaded s (if ready.isEmpty then cands else ready) with
    | none => count s bankXrt 6
    | some c => count (enqueue s c e.port (sliceOfPort port) e.at_ p) bankXrt 18) (s.setPort port { x with out := [], throttled := false })

/-! ## Flits (R407–R409) -/

/-- The bytes of a link flit. -/
def flitBytes (fseq fack : Nat) (retry : Bool) (cr : Nat × Nat × Nat) (ftype : Nat) (data : List Byte) : List Byte :=
  let head := fseq % 4096 + fack % 4096 * 2 ^ 12 + b2n retry * 2 ^ 24 + cr.1 % 8 * 2 ^ 25 + cr.2.1 % 16 * 2 ^ 28 +
    cr.2.2 % 2 ^ 16 * 2 ^ 32 + ftype % 16 * 2 ^ 48
  let body := leBytes 8 head ++ data ++ List.replicate (628 - data.length) 0
  body ++ leBytes 4 (crc32c body)

/-- A flit goes out on a port's link; it carries FACK. -/
def emitFlit (s : State) (port fseq ftype : Nat) (retry : Bool) (credit : Nat × Nat × Nat) (data : List Byte) : State :=
  let x := s.port port
  let s := s.setPort port { x with ackSent := x.rxSeq }
  { s with fab := { s.fab with linkOut := s.fab.linkOut ++ [(port, flitBytes fseq x.rxSeq retry credit ftype data)] } }

/-- FSEQ of the last data flit sent: idle flits carry it. -/
def Port.lastSeq (x : Port) : Nat := (x.txSeq + 4095) % 4096

/-- An idle flit: it carries FACK, or asks for a replay, and no credit return, since a lost one is not replayed (DESIGN CHOICE). -/
def sendIdle (s : State) (port : Nat) (retry : Bool) : State := emitFlit s port (s.port port).lastSeq 1 retry (0, 0, 0) []

/-- A new data flit: it takes the next FSEQ and the first credit return owed, and stays in the replay buffer. -/
def sendDataFlit (s : State) (port : Nat) (data : List Byte) : State :=
  let x := s.port port
  let q := x.txSeq
  let credit := x.owed.headD (0, 0, 0)
  let s := s.setPort port { x with txSeq := (q + 1) % 4096, owed := x.owed.drop 1, replay := x.replay ++ [{ fseq := q, credit, data }] }
  count (emitFlit s port q 0 false credit data) (bankFab port) 0

/-- The channels of a port whose first packet has credit, with its length (R409, R424). -/
def readyChannel (s : State) (port v : Nat) : Option Nat :=
  let x := s.port port
  match x.out.find? fun e => e.pkt.tc = v with
  | some e => if e.pkt.units ≤ lookupD 0 (e.pkt.tc * 16 + e.pkt.hops) x.credits then some e.pkt.size else none
  | none => none

/-- The channel that an ACTIVE port serves next (R424). -/
def pickChannel (s : State) (port : Nat) : Option (Nat × Nat) :=
  let x := s.port port
  let weight := fun v => bitsOf (raw s Reg.XRT_VC_WEIGHT) (8 * v) 8
  let heavy := (upFrom 0 8).any fun v => weight v ≠ 0 && (readyChannel s port v).isSome
  let head := fun v => if heavy && weight v = 0 then none else readyChannel s port v
  drrPick 8 head weight (fun v => lookupD 0 v x.deficit) x.lastVc

/-- Queued packets that have grown too old are discarded (R423). -/
def dropOld (s : State) (port : Nat) : State :=
  let x := s.port port
  let old := x.out.filter fun e => tooOld s e.at_ e.pkt
  if old.isEmpty then s
  else
    let s := s.setPort port { x with out := x.out.filter fun e => !tooOld s e.at_ e.pkt }
    throttleUpdate (old.foldl (fun s e => dropAged s e.port e.pkt) s) port

/-- Bytes of packets go out as far as they fill flits, and the rest stays for the flit to come (R407); the replay buffer must have room
for the flits. -/
def packFlits (s : State) (port : Nat) (bs : List Byte) : State :=
  let full := bs.length / 628
  let s := s.setPort port { s.port port with txBuf := bs.drop (628 * full) }
  (chunksOf 628 (bs.take (628 * full)) full).foldl (fun s f => sendDataFlit s port f) s

/-- Zeros that fill the flit after the last packet: at least 36, as many as no packet begins with, so that what follows fewer than 36 goes
on for one more flit (DESIGN CHOICE: R407 has no field for where the packets of a flit end). -/
def fillBytes (n : Nat) : List Byte := List.replicate (if 628 < n % 628 + 36 then 1256 - n % 628 else 628 - n % 628) 0

/-- An ACTIVE port with no packet to send: the flit begun is filled and sent; credit returns owed go in a data flit, filled whole where
there is nothing else; an idle flit acknowledges (R407–R409). -/
def flushTick (s : State) (port : Nat) : State :=
  let x := s.port port
  let idle := if x.ackSent = x.rxSeq then s else sendIdle s port false
  if x.txBuf.isEmpty && x.owed.isEmpty then idle
  else
    let bs := x.txBuf ++ fillBytes x.txBuf.length
    if 1024 < x.replay.length + bs.length / 628 then idle else packFlits s port bs

/-- One ember tick of an ACTIVE port: it starts a packet where the replay buffer has room for the flits it fills, back to back with the
one before (R407–R409, R424). -/
def linkTick (s : State) (port : Nat) : State :=
  if !portActive s port then s
  else
    let s := dropOld s port
    let x := s.port port
    match pickChannel s port with
    | none => flushTick s port
    | some (v, d) =>
      match x.out.find? fun e => e.pkt.tc = v with
      | none => flushTick s port
      | some e =>
        let bs := x.txBuf ++ encodePkt (aged s e.at_ e.pkt)
        if 1024 < x.replay.length + bs.length / 628 then flushTick s port
        else
          let k := e.pkt.tc * 16 + e.pkt.hops
          let out := x.out.erase e
          let x := { x with out, deficit := (insertK v d x.deficit).filter fun q => out.any fun e => e.pkt.tc = q.1, lastVc := v
                            credits := insertK k (lookupD 0 k x.credits - e.pkt.units) x.credits }
          count (packFlits (throttleUpdate (s.setPort port x) port) port bs) (bankFab port) 10

/-- One ember tick of the fabric: the buckets gain tokens and every ACTIVE port sends (R424, R467). -/
def fabricTick (s : State) : State := (upFrom 0 20).foldl linkTick (refill s)

end Sys2Proof.Machine
end

