-- ==== Sys2Proof/Machine/Links.lean ====
section
/-!
DEFINITION. The ports: flit reception and retry, bring-up and degradation (R404–R413, R439–R441).
-/
namespace Sys2Proof.Machine

/-! ## Port state (R410) -/

/-- The fabric power domain of a port's base die is on (R411). -/
def fabricOn (s : State) (port : Nat) : Bool := bitOf (fld s Fld.PWR_DOMAINS_ON) (3 + port / 5)

/-- STATE of a port; one that leaves ACTIVE gives up its queue (R413). -/
def setPortState (s : State) (port st : Nat) : State :=
  let was := portActive s port
  let s := setFld s Fld.FAB_PORT_STATUS_STATE st port
  if was && st ≠ 5 then rerouteQueue s port else s

/-- Step 1 of bring-up (R411). -/
def beginTraining (s : State) (port : Nat) : State :=
  let s := setFld (setPortState s port 1) Fld.FAB_PORT_STATUS_LANES 0 port
  s.setPort port { s.port port with stage := 1, attempts := 0, verBad := false }

/-- A return to step 1 (R411). -/
def retrainPort (s : State) (port : Nat) : State :=
  count (bumpFld (beginTraining (timingOpen s) port) Fld.FAB_PORT_STATUS_RETRAINS 1 port) (bankFab port) 8

/-- The port comes up where it may (R411), or goes down. -/
def portFollow (s : State) (port : Nat) : State :=
  if portFused s port || 20 ≤ port then s
  else if fabricOn s port && flag s Fld.FAB_PORT_CTL_ENABLE port then
    if fld s Fld.FAB_PORT_STATUS_STATE port = 0 then beginTraining s port else s
  else
    let s := setPortState s port 0
    let s := setFld s Fld.FAB_PORT_STATUS_LANES 0 port
    (setRaw s Reg.FAB_PORT_LANES port 0 0).setPort port {}

/-- The port fails (R412). -/
def failPort (s : State) (port : Nat) : State :=
  let s := recEvent (setPortState (timingOpen s) port 6) 4 port 0 0
  raiseErr s Fld.FAB_PORT_ERR_PORT_FAIL port .recovered { unit := port }

/-- FAB_PORT_LANES bits of a lane: 0 SIGNAL, 1 TRAINED, 2 FAILED. -/
def laneBit (s : State) (port lane b : Nat) : Bool := bitOf (raw s Reg.FAB_PORT_LANES port) (8 * lane + b)
def setLaneBit (s : State) (port lane b : Nat) (v : Bool) : State :=
  setRaw s Reg.FAB_PORT_LANES port 0 (putBits (raw s Reg.FAB_PORT_LANES port) (8 * lane + b) 1 (b2n v))

/-- A lane is marked failed (R412). -/
def markLane (s : State) (port lane : Nat) : State :=
  let s := recEvent (setLaneBit (timingOpen s) port lane 2 true) 4 port 0 0
  count (raiseErr s Fld.FAB_PORT_ERR_LANE_FAIL port .recovered { unit := port, addr := lane }) (bankFab port) 9

/-- The lanes of a pair that have not failed are all there. -/
def pairGood (s : State) (port pair : Nat) : Bool := !laneBit s port (2 * pair) 2 && !laneBit s port (2 * pair + 1) 2

/-! ## Retry (R408) -/

/-- The replay buffer frees what FACK acknowledges. -/
def freeReplay (x : Port) (fack : Nat) : Port :=
  if x.replay.any fun f => f.fseq = fack then
    { x with replay := (x.replay.dropWhile fun f => f.fseq ≠ fack).drop 1 }
  else x

/-- The transmitter sends its replay buffer again. -/
def replayFlits (s : State) (port : Nat) : State :=
  let x := s.port port
  count (x.replay.foldl (fun s f => emitFlit s port f.fseq f.ftype false f.credit f.data) (timingOpen s)) (bankFab port) 7 x.replay.length

/-- Retries within 1 ms, in ember ticks. -/
def retryWindow : Nat := 25000

/-- The receiver discards and asks for a replay; 64 retries within 1 ms retrain the port. -/
def askRetry (s : State) (port : Nat) : State :=
  let x := s.port port
  let s := noteErr (timingOpen s) (blockOf Reg.FAB_PORT_ERR.base) .recovered { unit := port }
  let recent := (x.retries.filter fun t => s.ticks < t + retryWindow) ++ [s.ticks]
  let s := s.setPort port { x with discarding := true, retries := recent }
  let s := count (sendIdle s port true) (bankFab port) 6
  if recent.length < 64 then s
  else
    let s := s.setPort port { s.port port with retries := [] }
    retrainPort (recEvent (raiseErr s Fld.FAB_PORT_ERR_RETRY_STORM port .recovered { unit := port }) 8 port 0 0) port

/-- RETRY_REQ (R408): the partner has everything up to FACK and wants the rest again. -/
def execRetryReq (port fack : Nat) (s : State) : Out :=
  if !portActive s port then .next s
  else .next (replayFlits (s.setPort port (freeReplay (s.port port) fack)) port)

/-! ## Reception (R406–R409, R414) -/

/-- Units of an input buffer of 512 KiB beyond the 66 that each of the 8 × 12 pairs of virtual channel and rung holds (R409). -/
def sharedUnits : Nat := 512 * 1024 / 64 - 8 * 12 * 66

/-- Units that the packets of a pair hold in a port's input buffer (R409, R423). -/
def heldUnits (s : State) (port key : Nat) : Nat :=
  ((s.fab.input.filter fun a => a.port = port && !a.here && a.pkt.tc * 16 + a.pkt.hops = key).map fun a => a.pkt.units).foldl (· + ·) 0

/-- The units of a packet of the largest size: what each pair of virtual channel and rung holds reserved (R409). -/
def reservedUnits : Nat := 66

/-- A packet has come in: where its pair's reserved space, and what the pair has been lent, is full, the pair gets shared space for
another packet of the largest size, if that is free (R409; how much is lent at a time is a DESIGN CHOICE and changes timing only). -/
def lendShared (s : State) (port : Nat) (p : XlPkt) : State :=
  let x := s.port port
  let k := p.tc * 16 + p.hops
  let lent := lookupD 0 k x.lent
  if heldUnits s port k < reservedUnits + lent || sharedUnits < (valuesOf x.lent).foldl (· + ·) 0 + reservedUnits then s
  else s.setPort port { x with lent := insertK k (lent + reservedUnits) x.lent, owed := x.owed ++ [(p.tc, p.hops, reservedUnits)] }

/-- A packet is discarded as it arrives: its units go back to the partner (R409, R414). -/
def refuseArrival (s : State) (port : Nat) (p : XlPkt) : State :=
  let x := s.port port
  if p.hops = 0 || 12 < p.hops then s else s.setPort port { x with owed := x.owed ++ [(p.tc, p.hops, p.units)] }

/-- The packets at the head of a port's received bytes, each checked; what is left of the buffer. Zeros as long as a packet's header and
trailer fill the rest of a flit (`fillBytes`). -/
def takePackets (port : Nat) : Nat → List Byte → State → State × List Byte
  | 0, buf, s => (s, buf)
  | n + 1, buf, s =>
    if buf.length < 36 then (s, buf)
    else if (buf.take 36).all (· = 0) then (s, [])
    else
      let len := byteField buf 18 2 % 2 ^ 13
      if buf.length < 36 + len then (s, buf)
      else
        let s := count s (bankFab port) 11
        let s := match parsePkt (buf.take (36 + len)) with
          | .hdrBad p => refuseArrival (xrtErr s Fld.XRT_ERR_HDR_BAD port p.dest p.epoch) port p
          | .crcBad p => refuseArrival (count (xrtErr s Fld.XRT_ERR_CRC_BAD port p.dest p.epoch) bankXrt 15) port p
          | .ok p => lendShared { s with fab := { s.fab with input := s.fab.input ++ [{ port, at_ := s.ticks, pkt := p }] } } port p
        takePackets port n (buf.drop (36 + len)) s

/-- The credit return that a flit's head carries (R407, R409). -/
def takeCredit (x : Port) (head : Nat) : Port :=
  let rung := bitsOf head 28 4
  let key := bitsOf head 25 3 * 16 + rung
  if 1 ≤ rung && rung ≤ 12 then
    { x with credits := insertK key (lookupD 0 key x.credits + bitsOf head 32 16) x.credits } else x

/-- What any flit that is not discarded says of the link: FACK, credits, and a request for a replay (R407, R408). -/
def takeHead (s : State) (port head : Nat) : State :=
  let s := s.setPort port (takeCredit (freeReplay (s.port port) (bitsOf head 12 12)) head)
  if bitOf head 24 then replayFlits s port else s

/-- A flit that decoded and passed its CRC. After a bad one every flit is discarded until the data flit that the replay begins with comes; a
data flit that has come before is discarded, and one beyond the next asks for a replay (R408). -/
def goodFlit (s : State) (port : Nat) (bytes : List Byte) : State :=
  let head := byteField bytes 0 8
  let fseq := bitsOf head 0 12
  let x := s.port port
  if bitsOf head 48 4 ≠ 0 || !portActive s port then (if x.discarding then s else takeHead s port head)
  else if fseq ≠ (x.rxSeq + 1) % 4096 then
    if x.discarding || (x.rxSeq + 4096 - fseq) % 4096 < 2048 then s else askRetry s port
  else
    let s := count (takeHead s port head) (bankFab port) 1
    let buf := x.rxBuf ++ (bytes.drop 8).take 628
    let (s, rest) := takePackets port (buf.length / 36 + 1) buf s
    s.setPort port { s.port port with rxSeq := fseq, discarding := false, rxBuf := rest }

/-- FLIT_RECEIVE (R406–R409): a link flit arrives with `symErrs` symbol errors in its codeword; `bytes` are its 640 bytes
after correction. A HELD port takes link management only (R410). -/
def execFlitReceive (port symErrs : Nat) (bytes : List Byte) (s : State) : Out :=
  let st := fld s Fld.FAB_PORT_STATUS_STATE port
  if 20 ≤ port || bytes.length ≠ 640 || (st ≠ 4 && st ≠ 5) then .next s
  else if 15 < symErrs then .next (askRetry (count s (bankFab port) 4) port)
  else
    let s := if symErrs = 0 then s
      else noteErr (count (count s (bankFab port) 2) (bankFab port) 3 symErrs) (blockOf Reg.FAB_PORT_ERR.base) .corrected { unit := port }
    if crc32c (bytes.take 636) ≠ byteField bytes 636 4 then .next (askRetry (count s (bankFab port) 5) port)
    else
      let data := bitsOf (byteField bytes 0 8) 48 4 = 0
      let (again, s) := if data then inject s 9 port else (false, s)
      if again then .next (askRetry (count s (bankFab port) 5) port) else .next (goodFlit s port bytes)

/-! ## Bring-up (R411) -/

/-- The data of this module's INIT flit. -/
def initData (s : State) (port : Nat) : List Byte :=
  [2, 1] ++ leBytes 1 port ++ leBytes 4 (endpointId s) ++ leBytes 4 Config.identityDigest ++ leBytes 1 12 ++ leBytes 2 66

/-- An INIT flit goes out (R407, R411). -/
def sendInit (s : State) (port : Nat) : State := emitFlit s port (s.port port).lastSeq 2 false (0, 0, 0) (initData s port)

/-- INIT_REPEAT (R411). -/
def execInitRepeat (port : Nat) (s : State) : Out :=
  if fld s Fld.FAB_PORT_STATUS_STATE port = 3 then .next (sendInit s port) else .next s

/-- PORT_ENABLE (R411): a write of FAB_PORT_CTL.ENABLE. -/
def execPortEnable (port : Nat) (value : Bool) (s : State) : Out :=
  if 20 ≤ port || portFused s port then .next s
  else .next (portFollow (setFld s Fld.FAB_PORT_CTL_ENABLE (b2n value) port) port)

/-- A HELD port that may be ACTIVE is (R411, step 7). -/
def portActivate (s : State) (port : Nat) : State :=
  if fld s Fld.FAB_PORT_STATUS_STATE port = 4 && flag s Fld.FAB_PORT_CTL_FWD_EN port then
    (setFld s Fld.FAB_PORT_STATUS_STATE 5 port).setPort port { s.port port with stage := 7 }
  else s

/-- PORT_FWD_EN (R411): a write of FAB_PORT_CTL.FWD_EN. -/
def execPortFwdEn (port : Nat) (value : Bool) (s : State) : Out :=
  if 20 ≤ port || portFused s port then .next s
  else .next (portActivate (setFld s Fld.FAB_PORT_CTL_FWD_EN (b2n value) port) port)

/-- RETRAIN (R411): 1 sends an ACTIVE port back to step 1. -/
def execRetrain (port : Nat) (value : Bool) (s : State) : Out :=
  if value && portActive s port then .next (retrainPort s port) else .next s

/-- Training has ended without these lanes: each fails (R412). -/
def lanesFailed (s : State) (port : Nat) : State :=
  ((upFrom 0 4).filter fun l => !laneBit s port l 1 && !laneBit s port l 2).foldl (fun s l => markLane s port l) s

/-- The lanes in `mask` have trained at a rate: step 3 follows on four lanes, or on one good pair where that is allowed. A port whose
two pairs both lack a lane after the last attempt fails (R411, R412). -/
def lanesTrained (s : State) (port mask rate : Nat) : State :=
  let s := (upFrom 0 4).foldl (fun s l =>
    let up := bitOf mask l && !laneBit s port l 2
    setLaneBit (setLaneBit s port l 0 up) port l 1 up) s
  let up := fun l => laneBit s port l 1
  let all := up 0 && up 1 && up 2 && up 3
  let pair := if up 0 && up 1 then some 0 else if up 2 && up 3 then some 1 else none
  let x := s.port port
  let next (s : State) (lanes pair : Nat) : State :=
    let s := setFld (setFld (setFld s Fld.FAB_PORT_STATUS_LANES lanes port) Fld.FAB_PORT_STATUS_PAIR pair port)
      Fld.FAB_PORT_STATUS_RATE rate port
    setPortState (s.setPort port { s.port port with stage := 3 }) port 2
  if all then next s 4 0
  else if rate = 1 then failPort (lanesFailed s port) port
  else match pair with
    | some p =>
      let s := lanesFailed s port
      if flag s Fld.FAB_PORT_CTL_ALLOW_2LANE port then next s 2 p else failPort s port
    | none =>
      if x.attempts + 1 < 3 then s.setPort port { x with attempts := x.attempts + 1 }
      else if flag s Fld.FAB_PORT_CTL_ALLOW_1X port then s.setPort port { x with attempts := 3, stage := 2 }
      else failPort (lanesFailed s port) port

/-- The peer is reported (R411, step 6): one whose endpoint ID or digest differs from the one last reported holds the port at
HELD. -/
def reportPeer (s : State) (port : Nat) : State :=
  let w := (s.port port).peer
  let changed := flag s Fld.FAB_PORT_PEER_VALID port &&
    (fld s Fld.FAB_PORT_PEER_PEER_EP port ≠ w % 2 ^ 20 || fld s Fld.FAB_PORT_PEER_PEER_DIGEST port ≠ w / 2 ^ 32)
  let s := if changed then setErr (setFld s Fld.FAB_PORT_CTL_FWD_EN 0 port) Fld.FAB_PORT_ERR_PEER_CHANGED port else s
  setRaw s Reg.FAB_PORT_PEER port 0 w

/-- PORT_TRAINING_DONE (R411, R412): the present step of bring-up ends; `lanes` are the lanes trained in steps 1 and 2. -/
def execPortTrainingDone (port lanes : Nat) (s : State) : Out :=
  let x := s.port port
  let st := fld s Fld.FAB_PORT_STATUS_STATE port
  if 20 ≤ port then .next s
  else if st = 1 then .next (lanesTrained s port lanes (if x.stage = 2 then 1 else 0))
  else if st = 2 then
    if x.quick then
      let s := s.setPort port { x with stage := 7, quick := false }
      .next (replayFlits (setFld s Fld.FAB_PORT_STATUS_STATE 5 port) port)
    else .next (sendInit (setPortState (s.setPort port { x with stage := 4 }) port 3) port)
  else if st = 3 && x.stage = 5 then
    .next (portActivate (reportPeer (setPortState (s.setPort port { x with stage := 6, timedOut := false }) port 4) port) port)
  else .next s

/-- PORT_STEP_TIMEOUT (R411): the port is back at step 1, its second of waiting over; one that has met a version it does not run with
stays in INIT (R439). -/
def execPortStepTimeout (port : Nat) (s : State) : Out :=
  let st := fld s Fld.FAB_PORT_STATUS_STATE port
  let x := s.port port
  if st = 0 || 3 < st || x.verBad then .next s
  else
    let s := if x.timedOut then s
      else setErr s (if st = 3 then Fld.FAB_PORT_ERR_INIT_TIMEOUT else Fld.FAB_PORT_ERR_TRAIN_TIMEOUT) port
    let s := s.setPort port { x with timedOut := true, quick := false }
    .next (retrainPort s port)

/-- The settled minor version of a link (R17, R439): the lower of two minors under one major. -/
def settledMinor (m : InitMsg) : Nat := if m.major = 2 then min 1 m.minor else m.minor

/-- INIT (R411, R439): the partner's INIT flit arrives. A link that trained two lanes with a partner without the two-lane mode fails
(R412). -/
def execInit (port : Nat) (msg : InitMsg) (s : State) : Out :=
  let x := s.port port
  if 20 ≤ port || fld s Fld.FAB_PORT_STATUS_STATE port ≠ 3 || x.stage ≠ 4 then .next s
  else if msg.major = 0 || 3 ≤ msg.major then
    .next (setErr (s.setPort port { x with verBad := true }) Fld.FAB_PORT_ERR_VERSION port)
  else
    let s := setFld (setFld s Fld.FAB_PORT_STATUS_VER_MAJOR msg.major port) Fld.FAB_PORT_STATUS_VER_MINOR (settledMinor msg) port
    if fld s Fld.FAB_PORT_STATUS_LANES port = 2 && !twoLanes s port then .next (failPort s port) else
    let peer := msg.endpoint % 2 ^ 20 + msg.peerPort % 2 ^ 5 * 2 ^ 20 + 2 ^ 25 + msg.digest % 2 ^ 32 * 2 ^ 32
    let rungs := upFrom 1 (min 12 msg.rungs)
    let credits := (upFrom 0 8).flatMap fun v => rungs.map fun r => (v * 16 + r, msg.credits)
    let s := s.setPort port { x with stage := 5, peer, verBad := false, credits, lent := [], txSeq := 0, rxSeq := 4095, ackSent := 4095, replay := [], rxBuf := [], txBuf := []
                                     owed := [], discarding := false, retries := [] }
    .next (sendInit s port)

/-- LANE_FAIL (R412): a lane of a port that has trained fails: the port retrains on the other pair, or fails. Before the partner's version
is settled, whether it has the two-lane mode is found at INIT. -/
def execLaneFail (port lane : Nat) (s : State) : Out :=
  let st := fld s Fld.FAB_PORT_STATUS_STATE port
  if 20 ≤ port || 4 ≤ lane || st < 2 || 5 < st || laneBit s port lane 2 then .next s
  else
    let s := markLane s port lane
    let x := s.port port
    let settled := x.quick || 5 ≤ x.stage
    if (pairGood s port 0 || pairGood s port 1) && flag s Fld.FAB_PORT_CTL_ALLOW_2LANE port && (!settled || twoLanes s port) then
      .next (retrainPort (s.setPort port { x with quick := x.quick || st = 5 }) port)
    else .next (failPort s port)

end Sys2Proof.Machine
end

