-- ==== Sys2Proof/Machine/Recovery.lean ====
section
/-!
DEFINITION. What keeps the memory tiers going: frames won by eviction (R380), reads of NAND and their recovery (R375–R378), failed stacks
(R374, R396–R398), retired frames (R373), and DRAM copies that cannot be corrected (R372, R392, R393).
-/
namespace Sys2Proof.Machine

/-! ## Frames for fetches, and reads of NAND -/

/-- The event of a page move at the migration engine of the base die that holds the page's frame (R591). -/
def injectMove (s : State) (q : Nat) : State :=
  match s.page q with
  | some d => if d.stack1 < 24 then injectAt s 0xC (d.stack1 / 6) else s
  | none => s

/-- How a read of NAND goes, `per` units of it on each channel, once channels have failed: the units of one failed channel are rebuilt from
parity, unless another unit of a stripe cannot be read either; two failed channels leave two such units in every stripe (R376, R378). -/
def readAs (s : State) (r : NandRead) (per : Nat) : NandRead :=
  match s.ntl.chFailed with
  | [] => r
  | [c] =>
    if r.lost || r.rebuilt ≠ 0 then { r with rebuilt := 0, lost := true, channel := c, lostUnits := max r.lostUnits (2 * r.rebuilt) }
    else { r with rebuilt := per, channel := c }
  | c :: t => { r with rebuilt := 0, lost := true, channel := c, lostUnits := per * (t.length + 1) }

/-- What reads of NAND units leave: retries, rebuilt units, each read from the 15 others of its stripe and rewritten, and units lost in a
stripe (R376, R402, R403). -/
def nandOutcome (s : State) (r : NandRead) (slot : Nat) : State :=
  let s := count (count (count (count s bankNtl 2 r.retries) bankNtl 3 r.rebuilt) bankNtl 1 r.rebuilt) bankNtl 0 (15 * r.rebuilt)
  let info := fun (cause : Nat) => r.channel % 16 + cause * 2 ^ 4 + slot * 2 ^ 32
  let note := fun (s : State) (f : FieldRef) =>
    raiseErr (setRaw s Reg.NTL_ERR_INFO 0 0 (info f.lo)) f 0 .recovered { unit := r.channel % 16, arg := info f.lo }
  let s := if r.retries ≠ 0 || r.rebuilt ≠ 0 then timingOpen s else s
  let s := if r.rebuilt ≠ 0 || r.lost then note s Fld.NTL_ERR_UNIT_UNCORR else s
  let s := if r.retries ≠ 0 && r.rebuilt = 0 && !r.lost
    then noteErr s (blockOf Reg.NTL_ERR.base) .recovered { unit := r.channel % 16, addr := slot } else s
  if r.lost then note (count s bankNtl 4 r.lostUnits) Fld.NTL_ERR_STRIPE_LOST else s

/-- A page's read from its slot: 128 units, 8 on each channel (R375, R376, R403). -/
def countNand (s : State) (r : NandRead) (slot : Nat) : State :=
  let (again, s) := (upFrom 0 16).foldl (fun (a : Nat × State) ch =>
    let (n, s) := injectMany 0xB ch 8 a.2
    (a.1 + n, s)) (0, s)
  nandOutcome (count s bankNtl 0 128) (readAs s { r with retries := r.retries + again } 8) slot

/-- Streams whose step waited for a page go on: a BLOCKED one runs, an EVICTED one waits for a slot (R336, R390); what the Runner and the
routing engines could not read goes on too (R369). -/
def wakeWaiters (s : State) (q : Nat) : State :=
  resumeReads <| (allStreams s).foldl (fun s x =>
    if x.2.2.waitPages.contains q then
      let y := { x.2.2 with waitPages := x.2.2.waitPages.filter (· ≠ q) }
      s.setStream x.1 x.2.1
        (if y.waitPages.isEmpty then
          (if y.state = .blocked then { y with state := .running, evictable := false }
           else if y.state = .evicted then { y with state := .waiting, swapIn := true } else y)
         else y)
    else s) s

/-- Pages that a prefetch may not evict: those of entries whose layer is current, or in the window, of a resident stream (R386). -/
def protectedPage (s : State) (p : Nat) : Bool :=
  (residentWindows s).any fun w =>
    w.list.entries.any fun x => x.kind < 2 && pageOf x.addr ≤ p && p < pageOf x.addr + x.len && w.needs x.layer

/-- The page whose DRAM copy is given up when a fetch needs a frame: the one read longest ago (R380). -/
def evictChoice (s : State) (forPrefetch : Bool) : Option Nat :=
  let ok := s.wsp.pages.filter fun e =>
    e.2.tier = 2 && !e.2.pin && !e.2.dirty && !e.2.moving && !e.2.module && !(forPrefetch && protectedPage s e.1)
  let age := fun p => lookupD 0 p s.wsp.lastRead
  match ok.map Prod.fst with
  | [] => none
  | a :: t => some (t.foldl (fun b p => if age p < age b then p else b) a)

/-- A frame for a fetch: a free one, or one won by eviction (R380). -/
def placeFetch (s : State) (q : Nat) (forPrefetch : Bool) : Option State :=
  match placePrimary s q with
  | some s' => some s'
  | none => match evictChoice s forPrefetch with
    | some v => (placePrimary (timingOpen (evict s v)) q).map placeReplicas
    | none => none

/-! ## DRAM: scrub, retirement, stack failure -/

/-- The pages whose copy lies on a stack: (page, descriptor). -/
def pagesOnStack (s : State) (st : Nat) : List (Nat × Page) :=
  s.wsp.pages.filter fun e => e.2.stack1 = st || e.2.stack2 = st

/-- What a stack's failure does to one page that had a copy there (R396). -/
def failPage (st : Nat) (s : State) (e : Nat × Page) : State :=
  let q := e.1
  match s.page q with
  | none => s
  | some d =>
    if d.stack1 = st && d.stack2 ≠ 31 then
      s.setPage q { d with stack1 := d.stack2, frame1 := d.frame2, stack2 := 31, frame2 := 0 }
    else if d.stack2 = st then s.setPage q { d with stack2 := 31, frame2 := 0 }
    else
      let gone := { d with stack1 := 31, frame1 := 0 }
      if d.module then
        losePage (s.setPage q gone) q
      else if d.tier = 2 && !d.dirty then
        let s := mapPersist (s.setPage q { gone with tier := 0 }) q
        if d.pin then queueMove s { kind := .repour, page := q } else s
      else if d.tier = 2 && !d.dirtyCmd then
        let s := mapPersist (s.setPage q { gone with tier := 0, dirty := false }) q
        if d.pin then queueMove s { kind := .repour, page := q } else s
      else if d.tier = 2 then
        losePage (mapPersist (s.setPage q { gone with tier := 0, dirty := false, dirtyCmd := false }) q) q
      else losePage (s.setPage q gone) q

/-- The free buffers of a pool that lay on lost pages are held for good (R396, R351). -/
def loseBuffers (s : State) : State :=
  s.hop.pools.foldl (fun s e =>
    let p := e.2
    let onLost (b : Nat) : Bool :=
      (pagesOf (p.firstPage * pageBytes + b * p.bufBytes) p.bufBytes).any fun q =>
        match s.page q with | some d => d.lost | none => false
    let free := (upFrom 0 p.count).filter fun b => !hasK b p.links && !p.lost.contains b
    let bad := free.filter onLost
    if bad.isEmpty then s
    else
      let rest := free.filter fun b => !bad.contains b
      count (s.setPool e.1 { p with
        lost := p.lost ++ bad
        freeList := if p.ring then p.freeList else
          (p.freeList ++ upFrom p.tailFrom (p.count - p.tailFrom)).filter fun b => rest.contains b
        tailFrom := if p.ring then p.tailFrom else p.count }) (bankHop p.die) 10 bad.length) s

/-- The contexts whose state area had a page on the failed stack, which is LOST now (R396). -/
def lostContexts (s : State) (onIt : List (Nat × Page)) : List Nat :=
  (s.ctx.table.filter fun e => !e.2.faulted && hasK (pageOf e.2.stateAddr) onIt &&
    (match s.page (pageOf e.2.stateAddr) with | some d => d.lost | none => false)).map Prod.fst

/-- The pages of current windows are prefetched again (R397 item 5). -/
def refillWindows (s : State) : State :=
  if !flag s Fld.WSP_CTL_PREFETCH_EN then s
  else s.wsp.windows.foldl (fun s w =>
    (w.2.list.entries.filter fun e => e.kind < 2 && w.2.needs e.layer).foldl (prefetchEntry w.2.model) s) s

/-- A stack fails (R374, R396–R398). `cause` is 1 pseudo-channels, 2 PHY, 3 retired frames. -/
def failStack (s : State) (st cause : Nat) : State :=
  if stackFailed s st || 24 ≤ st then s
  else
    let onIt := pagesOnStack s st
    let lost0 := counter s bankWsp 8
    let ring := (s.wsp.frames.filter fun e => e.1 / 65536 = st && !hasK e.2 s.wsp.pages).map Prod.snd
    let s := { s with wsp := { s.wsp with
      failed := insertSorted st s.wsp.failed
      frames := s.wsp.frames.filter fun e => e.1 / 65536 ≠ st } }
    let s := repairChange s
    let s := ring.foldl placeRingPage (onIt.foldl (failPage st) s)
    let repoured := s.wsp.moves.filter fun m => m.kind = .repour && onIt.any fun e => e.1 = m.page
    let lost := counter s bankWsp 8 - lost0
    let one := (onIt.filter fun e => e.2.replicated && e.2.stack1 ≠ 31 && e.2.stack2 ≠ 31).length
    let s := loseBuffers s
    let torn := lostContexts s onIt
    let s := torn.foldl (stateAreaFault 0) s
    let s := refillWindows (placeReplicas s)
    let mask := s.wsp.failed.foldl (fun m k => m ||| 2 ^ k) 0
    let body := (st + cause * 2 ^ 8 + one * 2 ^ 32 + repoured.length * 2 ^ 64 + lost * 2 ^ 96 +
      torn.length * 2 ^ 128) * 2 ^ 64
    let jseq := nextSeq s
    let s := journalEvent s 0x0A 0 mask (freeAll s) body
    let info := st * 2 ^ 27 + 3 * 2 ^ 32
    raiseErr (setRaw s Reg.WSP_ERR_INFO 0 0 info) Fld.WSP_ERR_STACK_FAILED 0 .degraded
      { unit := st, jrnSeq := jseq, arg := info }

/-- A frame is in service no more (R373); too many on one stack fail it (R374). -/
def dropService (s : State) (st fr q : Nat) : State :=
  let info := q + st * 2 ^ 27 + 4 * 2 ^ 32
  let s := setRaw (setRaw s Reg.WSP_ERR_INFO 0 0 info) Reg.WSP_ERR_INFO2 0 0 (fr * 2 ^ 16)
  let s := raiseErr s Fld.WSP_ERR_FRAME_RETIRED 0 .recovered { unit := st, addr := q, arg := info }
  if 1024 < retiredFrames s st then failStack s st 3 else s

/-- A frame is retired: it is never used again, and its page leaves it (R373). -/
def retireFrame (s : State) (st fr : Nat) : State :=
  let k := frameKey st fr
  if s.wsp.retired.contains k then s
  else
    let holder := lookup k s.wsp.frames
    let s := { s with wsp := { s.wsp with retired := insertSorted k s.wsp.retired } }
    let s := timingOpen (repairChange (count s bankWsp 10))
    let s := match holder with
      | some q => leaveFrame s q st fr
      | none => s
    dropService s st fr (holder.getD 0)

/-- One corrected block: counted, and its frame and pseudo-channel charged (R372, R373). -/
def correctBlock (st fr : Nat) (s : State) (b : Nat × Option Nat) : State :=
  let s := noteErr (timingOpen (count s bankWsp 5)) (blockOf Reg.WSP_STACK.base) .corrected { unit := st }
  let k := frameKey st fr * 32768 + b.1
  let corrected := insertK st (min 0xFFFF (lookupD 0 st s.wsp.corrected + 1)) s.wsp.corrected
  let blockHits := insertK k (lookupD 0 k s.wsp.blockHits + 1) s.wsp.blockHits
  let s : State := { s with wsp := { s.wsp with corrected := corrected, blockHits := blockHits } }
  let s : State := match b.2 with
    | none => s
    | some pc =>
      let k := st * 64 + pc
      let hits := insertSorted (frameKey st fr * 32768 + b.1) (lookupD [] k s.wsp.pcHits)
      let s := { s with wsp := { s.wsp with pcHits := insertK k hits s.wsp.pcHits } }
      if hits.length ≤ 256 || s.wsp.pcFailed.contains k then s
      else
        let second := s.wsp.pcFailed.any fun j => j / 8 = k / 8
        let s := repairChange { s with wsp := { s.wsp with pcFailed := insertSorted k s.wsp.pcFailed } }
        if second then failStack s st 1 else s
  if 16 < lookupD 0 (frameKey st fr * 32768 + b.1) s.wsp.blockHits then retireFrame s st fr else s

/-- An uncorrectable DRAM copy in a frame (R392, R393): the other DRAM copy serves, then a clean NAND copy, whose read goes as `r`
says, else the page is LOST. The frame is retired; a page that NAND serves, and that finds no other frame, is kept there alone. -/
def recoverFrame (s : State) (st fr : Nat) (r : NandRead := {}) : State :=
  match lookup (frameKey st fr) s.wsp.frames with
  | none => retireFrame s st fr
  | some q => match s.page q with
    | none => retireFrame s st fr
    | some d =>
      let info := q + st * 2 ^ 27
      let s := setRaw (setRaw s Reg.WSP_ERR_INFO 0 0 info) Reg.WSP_ERR_INFO2 0 0 (fr * 2 ^ 16)
      let s := raiseErr s Fld.WSP_ERR_DRAM_UNCORR 0 .recovered { unit := st, addr := q, arg := info }
      let clean := d.tier = 2 && !d.dirty
      if d.stack1 ≠ 31 && d.stack2 ≠ 31 then retireFrame (count s bankWsp 6) st fr
      else
        let s := if clean then countNand s r d.slot else s
        if clean && !(readAs s r 8).lost then
          let s := retireFrame (count s bankWsp 7) st fr
          match s.page q with
          | some e => if e.stack1 = st && e.frame1 = fr then mapPersist ((dropCopies s q).modPage q fun d => { d with tier := 0 }) q
            else s
          | none => s
        else retireFrame (dropCopies (meetLost (losePage s q) q) q) st fr

/-- Tile `t` reads page `q` from the copy on its own home die, else from the primary (R368): its stack and frame. -/
def tileCopy (d : Page) (t : Nat) : Nat × Nat :=
  if d.stack2 ≠ 31 && dieOfStack d.stack2 = homeDie t && dieOfStack d.stack1 ≠ homeDie t then (d.stack2, d.frame2)
  else (d.stack1, d.frame1)

/-- The copy of page `q` that tile `t` reads is uncorrectable: recovery tries the others (R392). -/
def recoverRead (s : State) (t q : Nat) : State :=
  match s.page q with
  | some d => let c := tileCopy d t; recoverFrame s c.1 c.2
  | none => s

/-- The patrol meets an error in a Hopper link word of page `q`: a corrected word is counted and written back; one that cannot be
corrected fails the Hopper when it next reads it (R351, R358). -/
def scrubLink (q : Nat) (s : State) (w : Nat × Bool) : State :=
  match s.hop.pools.find? fun e => (e.2.bufferAt q w.1).isSome with
  | none => s
  | some (_, p) => if w.2 then loseLinks s q w.1 1
    else noteErr (timingOpen (count s (bankHop p.die) 9)) (blockOf Reg.HOP_ERR.base) .corrected { unit := p.die }


end Sys2Proof.Machine
end

