-- ==== Sys2Proof/Machine/Engines.lean ====
section
/-!
DEFINITION. What a tile's engines compute: the matrix array (R158–R174), the vector unit (R177–R179, R601), copies
(R239) and the skip predictor with its make-up passes (R187–R206).
-/
namespace Sys2Proof.Machine

/-- What starting an engine command comes to. -/
inductive Run where
  /-- It runs: what it will have written, and the state with its counters and its expert's skip state. -/
  | done (e : Effects) (s : State)
  /-- A tile fault. -/
  | fault (cause addr : Nat)
  /-- A skip fault. -/
  | skip (cause neuron row : Nat)
  /-- A read cannot be served yet, or meets a LOST page. -/
  | wait (r : Rd)
  /-- The order of the skip predictor and the make-up passes does not let it start (R202, R210). -/
  | hold
  deriving DecidableEq, Repr

/-- The bytes of a read, or why the command does not run. -/
def Rd.use (r : Rd) (f : List Byte → Run) : Run :=
  match r with
  | .ok bs => f bs
  | .fault c a => .fault c a
  | r => .wait r

/-- An operand of a role, or a fault that no loaded program meets. -/
def EngCmd.get (c : EngCmd) (r : Nat) (f : Opnd → Run) : Run :=
  match c.role r with
  | some o => f o
  | none => .fault 3 0

/-! ## Array operands (R159, R243) -/

/-- The 256 logical values of one unit, of which the first `real` lie below the extent; none for malformed metadata. -/
def unitVals (fmt : Nat) (packed : Bool) (real : Nat) (bs : List Byte) : Option (List Val) :=
  if packed then readPacked fmt real bs
  else if isMx fmt then some (readSegment fmt real bs)
  else some ((upFrom 0 256).map fun j =>
    if j < real then decodeElem fmt (leNat ((bs.drop (j * elemBytes fmt)).take (elemBytes fmt))) else Val.zero)

/-- Bytes cut into units. -/
def unitsOf (o : Opnd) (bs : List Byte) : List (List Byte) := chunksOf (max 1 o.unit) bs bs.length

/-- Units along the reduction: the level-0 count. -/
def Opnd.inner (o : Opnd) : Nat := (o.levels.headD (1, 0)).1
/-- Count of a level. -/
def Opnd.count (o : Opnd) (l : Nat) : Nat := (o.levels.getD l (1, 0)).1

/-- The unit whose 2:4 metadata is malformed (R44). -/
def badUnit (fmt : Nat) (packed : Bool) (inner k : Nat) (us : List (List Byte)) : Option Nat :=
  if !packed then none
  else (upFrom 0 us.length).find? fun i => (unitVals fmt packed (k - 256 * (i % max 1 inner)) (us.getD i [])).isNone

/-- The rows of an array operand: each is `inner` units back to back, of `k` logical values. -/
def arrayRows (fmt : Nat) (packed : Bool) (inner k : Nat) (us : List (List Byte)) : List (List Val) :=
  (chunksOf (max 1 inner) us us.length).map fun row =>
    (upFrom 0 row.length).flatMap fun j => (unitVals fmt packed (k - 256 * j) (row.getD j [])).getD []

/-- The address that META reports: the unit's in the scratchpad, or 0 (R185). -/
def metaAddr (o : Opnd) (i : Nat) : Nat := if o.space = 0 then o.addrs.getD i 0 else 0

/-- The exact sum of products of two rows (R51, R55). -/
def dotVals (a b : List Val) : Acc := (a.zip b).foldl (fun acc p => acc.addVal (p.1.mul p.2)) {}

/-- The sum of products down the cells of a column: the cells past the declared rows hold +0 (R162, R165). -/
def dotColumn (a b : List Val) : Acc := dotVals a (b ++ List.replicate (a.length - b.length) Val.zero)

/-- Addends of an output of reduction extent `k` (R54, R174). -/
def addendCount (fmt : Nat) (perProduct : Bool) (k : Nat) : Nat := if isMx fmt && !perProduct then ceilDiv k 32 else k

/-! ## Writing (R58–R64, R481–R483) -/

/-- Byte position and bit offset of element `i` in a destination's stream of units. -/
def elemPos (fmt i : Nat) : Nat × Nat :=
  if isMx fmt then
    let b := elemBits fmt * (i % 256)
    (i / 256 * segBytes fmt + b / 8, b % 8)
  else (i * elemBytes fmt, 0)

/-- The base of the declared region that holds an address, or 0 (R483). -/
def regionBase (rs : List Region) (a : Nat) : Nat :=
  match rs.find? fun r => r.base ≤ a && a < r.base + r.len with
  | some r => r.base
  | none => 0

/-- Bytes of a return row of a step (R125). -/
def retRow (s : State) (seq : Nat) : Nat := match s.step seq with | some x => retBytes x | none => 0

/-- The global token index and choice of the row of a return slot (R83, R483). -/
def slotToken (s : State) (i : Item) (slot : Nat) : Nat × Nat × Nat :=
  match s.step i.seq with
  | none => (0, 0, 0)
  | some x =>
    let r : SlotRec := match x.owned.find? fun o => o.expert = i.payload % 2 ^ 16 with
      | some o => lookupD {} slot o.rows
      | none => {}
    ((lookupD {} r.rank x.records).tokenBase + r.token, r.choice, x.xchg.hx)

/-- The element index of a write-out by a tile (R483): `pos` is the element's byte address in the destination's space
and its bit offset. -/
def drawIndex (s : State) (c : EngCmd) (space fmt addr bit : Nat) : Nat :=
  if space = 2 then
    let r := max 1 (retRow s c.item.seq)
    let (g, ch, hx) := slotToken s c.item (addr / r)
    (2 * g + ch) * hx + addr % r / max 1 (elemBytes fmt)
  else ((addr - regionBase c.regions addr) * 8 + bit) / elemBits fmt

/-- The seed of a work item's context. -/
def itemSeed (s : State) (i : Item) : Nat := match s.context i.ctx with | some c => c.seed | none => 0

/-- The draw of an element written at an address (R481–R483); 0 where the write-out does not round under SR. -/
def elemDraw (s : State) (c : EngCmd) (space addr bit : Nat) : Nat :=
  if wocMode c.woc ≠ 4 then 0
  else drawWrite (itemSeed s c.item) c.at_ c.item.layer c.item.msc (drawIndex s c space (wocFmt c.woc) addr bit)

/-- The draws of a destination's elements, in order. -/
def destDraws (s : State) (c : EngCmd) (o : Opnd) (n : Nat) : List Nat :=
  if wocMode c.woc ≠ 4 then List.replicate n 0
  else
    let as := o.addrs
    (upFrom 0 n).map fun i =>
      let (p, b) := elemPos (wocFmt c.woc) i
      elemDraw s c o.space (as.getD (p / max 1 o.unit) 0 + p % max 1 o.unit) b

/-- The draws are counted (R484). -/
def countWrites (s : State) (c : EngCmd) (n : Nat) : State :=
  if wocMode c.woc = 4 && wocFmt c.woc ≠ fmtExact then countDraws s n else s

/-- Accumulators written under a control byte, back to back (R56, R58). -/
def accBytes (woc : Nat) (l : List (Acc × Nat)) : List Byte :=
  if wocFmt woc = fmtExact then l.flatMap fun a => a.1.bytes
  else writeRow woc (l.map fun a => (a.1.val, a.2))

/-- Values written under a control byte, back to back (R58). -/
def valBytes (woc : Nat) (l : List (Val × Nat)) : List Byte := writeRow woc l

/-- Bytes put at an address of a destination's space. -/
def putAt (s : State) (c : EngCmd) (space a : Nat) (bs : List Byte) (e : Effects) : Effects :=
  if space = 0 then { e with spad := e.spad ++ [(a, bs)] }
  else if space = 1 then { e with wsp := e.wsp ++ [(a, bs)] }
  else
    let r := max 1 (retRow s c.item.seq)
    { e with ret := e.ret ++ [(a / r, a % r, bs)] }

/-- A stream of bytes laid into a destination's units, in order. -/
def scatter (s : State) (c : EngCmd) (o : Opnd) (bs : List Byte) : Effects :=
  ((o.addrs.zip (unitsOf o bs)).foldl (fun e p => putAt s c o.space p.1 p.2 e) {})

/-- Where a destination cannot be written: beyond the scratchpad, or a page that is not mapped, LOST or not held
(R154, R451, R600). -/
def destReady (s : State) (func : Nat) (o : Opnd) : Rd :=
  if o.space = 0 then
    match o.addrs.find? fun a => spadBytes < a + o.unit with
    | some a => .fault 3 (max a spadBytes)
    | none => .ok []
  else if o.space = 1 then
    o.addrs.foldl (fun acc a =>
      let own := if apertureBase < a + o.unit then none else firstUnmapped s func a o.unit
      match own with
      | some p => acc.append (.fault 6 p)
      | none => if 2 ^ 48 < a + o.unit then acc.append (.fault 6 (2 ^ 27 - 1))
        else acc.append (coherentReady s a o.unit)) (.ok [])
  else .ok []

/-! ## The skip predictor's state (R195–R204) -/

/-- The skip state of an item's expert. -/
def Tile.skipOf (x : Tile) (i : Item) : SkipState := (x.skips.find? fun k => k.item = i).getD { item := i }
def Tile.setSkip (x : Tile) (k : SkipState) : Tile :=
  if x.skips.any fun q => q.item = k.item then
    { x with skips := x.skips.map fun q => if q.item = k.item then k else q }
  else { x with skips := x.skips ++ [k] }
def setSkip (s : State) (t : Nat) (k : SkipState) : State := s.modTile t fun x => x.setSkip k

/-- The mode a projection runs in: 0 off, 1 certified, 2 speculative (R192, R208). -/
def effMode (x : Tile) (seq : Nat) (d : SkipDesc) : Nat :=
  let (cert, spec) := lookupD (true, true) seq x.skipCtl
  let certified := if cert then 1 else 0
  if d.mode = 1 then certified
  else if d.mode = 2 then (if spec then 2 else if d.act ≤ 3 then certified else 0)
  else 0

/-- The mode of a command's projection. -/
def EngCmd.mode (x : Tile) (c : EngCmd) : Nat :=
  match c.skip with
  | some d => effMode x c.item.seq d
  | none => 0

/-- The key of a neuron of a group of stationary rows. -/
def neuronKey (g n : Nat) : Nat := g * 2 ^ 16 + n

/-- The neurons of a main pass of `n` neurons have their group's verdicts (R204, R210). -/
def verdictsReady (k : SkipState) (c : EngCmd) (n : Nat) : Bool :=
  (upFrom c.base n).all fun i => c.grp < lookupD 0 i k.evals

/-- Verdict bits of a row range that are clear. -/
def clearRows (v r : Nat) : List Nat := (upFrom 0 r).filter fun i => !bitOf v i

/-- One neuron of a group's main pass is classified, unless it has been (R197, R200). -/
def classify (d : SkipDesc) (g r : Nat) (a : SkipState × State) (n : Nat) : SkipState × State :=
  let (k, s) := a
  let key := neuronKey g n
  if hasK key k.classes then (k, s)
  else
    let v := lookupD 0 key k.verdicts
    let u := clearRows v r
    let cert := r - u.length
    let small := u.length ≠ 0 && u.length ≤ d.makeupMax
    if u.isEmpty then ({ k with classes := insertK key 0 k.classes }, count s bankSkp 2)
    else if small && k.makeup.length < 1024 then
      ({ k with classes := insertK key 1 k.classes
                makeup := k.makeup ++ [(n, (u.map fun i => 2 ^ i).foldl (· + ·) 0)] }, count s bankSkp 3)
    else
      let s := count (count s bankSkp 4) bankSkp 5 cert
      ({ k with classes := insertK key 2 k.classes }, if small then count s bankSkp 8 else s)

/-- The outcome of comparing a computed pair with its bound (R204): the violation, if any, and whether s and z disagree
about being at or below zero. `key` is the neuron's. -/
def checkBound (k : SkipState) (key row : Nat) (z : Val) : Bool × Bool :=
  match lookup (key * 64 + row) k.bounds with
  | none => (false, false)
  | some (b, sneg) => ((decodeFloat fmtFp32 b).ltNum z, sneg != z.leZero)

/-! ## The matrix array -/

/-- What a pass computes: neurons and rows of each block, and the accumulator of each pair. -/
structure PassOut where
  /-- Neurons of one group and segment, and stationary rows. -/
  nPer : Nat := 0
  rows : Nat := 0
  /-- Groups × segments. -/
  blocks : Nat := 0
  acc : Nat → Nat → Acc := fun _ _ => {}

/-- The pairs of an array command from its operands' rows: `a` by neuron, `b` by row of each block; COL reduces over the
stationary rows of the neuron's block (R161, R165, R168–R170). -/
def passOut (col : Bool) (nPer r addends : Nat) (a b : List (List Val)) : PassOut :=
  let blocks := if nPer = 0 then 0 else a.length / nPer
  if col then
    { nPer := nPer * blocks, rows := r, blocks := 1
      acc := fun n i =>
        let t := dotColumn (a.getD n []) (((b.drop (n / max 1 nPer * r)).take r).map fun row => row.getD i Val.zero)
        { t with count := addends } }
  else
    { nPer, rows := r, blocks
      acc := fun p row =>
        let t := dotVals (a.getD p []) (b.getD (p / max 1 nPer * r + row) [])
        { t with count := addends } }

/-- The streamed rows of a TRANSPOSED operand: each unit visited is one stored row of the reduction, and its elements are
the neurons of its block; a stored row that is not visited is an open value (R165). -/
def transposedRows (fmt : Nat) (packed : Bool) (perBlock nPer k seed : Nat) (us : List (List Byte)) : List (List Val) :=
  let open_ := fun (q i n : Nat) =>
    decodeFloat fmtFp32 ((Config.freeWord seed ((q * 2 ^ 20 + i) * 2 ^ 20 + n)).toNat % 2 ^ 32)
  (upFrom 0 (us.length / max 1 perBlock)).flatMap fun q =>
    let rows := (upFrom 0 (min k perBlock)).map fun i => (unitVals fmt packed nPer (us.getD (q * perBlock + i) [])).getD []
    (upFrom 0 nPer).map fun n => (upFrom 0 k).map fun i =>
      match rows[i]? with
      | some r => r.getD n Val.zero
      | none => open_ q i n

/-- Whether the groups of a pass hold the same stationary rows (R168). -/
def sharedAt (sh : ShapeW) (b : Opnd) : Bool := sh.seg = 0 && (sh.shape = 0 || (b.levels.getLastD (1, 1)).2 = 0)

/-- The neurons of one DEST unit of a pass, and its row (R243): NEURONS results of a row, or those of one block. -/
def unitPairs (p : PassOut) (col shared : Bool) (u : Nat) : List Nat × Nat :=
  if col then (upFrom 0 p.nPer, u)
  else if shared then (upFrom 0 (p.blocks * p.nPer), u)
  else (upFrom (u / max 1 p.rows * p.nPer) p.nPer, u % max 1 p.rows)

/-- DEST units of a pass. -/
def passUnits (p : PassOut) (col shared : Bool) (total : Nat) : Nat :=
  if col then total else min total (if shared then p.rows else p.rows * p.blocks)

/-- The value written for a pair under its class and verdict (R198): none where nothing is written. -/
def pairOut (k : SkipState) (key row : Nat) (a : Acc) : Option Acc :=
  if bitOf (lookupD 0 key k.verdicts) row then some { count := a.count }
  else if lookupD 2 key k.classes = 2 then some a
  else none

/-- Elements written each alone in a row at `a`, in a format without block scales. -/
def putEach (s : State) (c : EngCmd) (space a : Nat) (outs : List (Nat × Acc)) (e : Effects) : Effects :=
  let fmt := wocFmt c.woc
  outs.foldl (fun e o =>
    let p := a + o.1 * elemBytes fmt
    putAt s c space p ((accBytes c.woc [(o.2, elemDraw s c space p 0)]).take (elemBytes fmt)) e) e

/-- The address of the element bits of block `b` of a row at `a`, and of its scale byte (R40). -/
def blockAddr (fmt a b : Nat) : Nat × Nat :=
  (a + b / 8 * segBytes fmt + b % 8 * (4 * elemBits fmt), a + b / 8 * segBytes fmt + 32 * elemBits fmt + b % 8)

/-- Block `b` of the scratchpad row at `a`, its elements `f` of their bits as they stand. -/
def putBlock (s : State) (t : Nat) (c : EngCmd) (a b : Nat) (f : Nat → Nat → Nat) (e : Effects) : Effects :=
  let fmt := wocFmt c.woc
  let w := elemBits fmt
  let ea := (blockAddr fmt a b).1
  let old := leNat ((s.tile t).readSpad ea (4 * w))
  putAt s c 0 ea (leBytes (4 * w) (packBits w ((upFrom 0 32).map fun j => f j (bitsOf old (w * j) w)))) e

/-- The real elements of block `b` of a pass's row `u`, with their draws: their exact sums as with MODE 0, but +0 for a pair skipped
in speculative mode (R191, R198, R205). -/
def blockVals (s : State) (c : EngCmd) (o : Opnd) (mode : Nat) (k : SkipState) (p : PassOut) (u a b : Nat) : List (Val × Nat) :=
  (upFrom (32 * b) (min 32 (p.blocks * p.nPer - 32 * b))).map fun i =>
    (if mode = 2 && bitOf (lookupD 0 (neuronKey c.grp (c.base + i)) k.verdicts) u then Val.zero else (p.acc i u).val,
      elemDraw s c o.space (a + (elemPos (wocFmt c.woc) i).1) (elemPos (wocFmt c.woc) i).2)

/-- The MX row `u` of a pass that skips (R62, R191, R198): each block's scale and results are those of its exact sums; a certified or
skipped pair's element is +0, and the element of a pair left to the make-up pass keeps its bits. -/
def skipRowMx (s : State) (t : Nat) (c : EngCmd) (o : Opnd) (mode : Nat) (k : SkipState) (p : PassOut) (u a : Nat) (e : Effects) :
    Effects :=
  let fmt := wocFmt c.woc
  let n := p.blocks * p.nPer
  (upFrom 0 (8 * ceilDiv n 256)).foldl (fun e b =>
    let (scale, es) := mxBlock c.woc (blockVals s c o mode k p u a b)
    let elem := fun (j old : Nat) =>
      let key := neuronKey c.grp (c.base + 32 * b + j)
      if n ≤ 32 * b + j || bitOf (lookupD 0 key k.verdicts) u then 0
      else if lookupD 2 key k.classes = 2 then es.getD j 0
      else old
    putAt s c 0 (blockAddr fmt a b).2 [BitVec.ofNat 8 scale] (putBlock s t c a b elem e)) e

/-- The key of a pair left to the make-up pass of a projection. -/
def pairKey (part n row : Nat) : Nat := (part * 2 ^ 16 + n) * 64 + row

/-- The block scales that the make-up pass of a projection takes up for the pairs of a pass's row `u` left to it (R62, R198). -/
def noteScales (s : State) (c : EngCmd) (o : Opnd) (mode : Nat) (p : PassOut) (u a : Nat) (k : SkipState) : SkipState :=
  if !isMx (wocFmt c.woc) then k
  else
    { k with scales := (upFrom 0 (p.blocks * p.nPer)).foldl (fun tb i =>
        let key := neuronKey c.grp (c.base + i)
        if bitOf (lookupD 0 key k.verdicts) u || lookupD 2 key k.classes = 2 then tb
        else
          let vs := blockVals s c o mode k p u a (i / 32)
          insertK (pairKey c.part (c.base + i) u)
            ((mxBlock c.woc vs).1 + 256 * b2n (mxShared (wocFmt c.woc) (vs.map Prod.fst)).2) tb) k.scales }

/-- The DEST unit of a pass that skips: +0 for certified pairs, results for computed ones, nothing for those that the
make-up pass writes (R198). -/
def skipUnit (s : State) (t : Nat) (c : EngCmd) (o : Opnd) (mode : Nat) (k : SkipState) (p : PassOut) (u a : Nat) (e : Effects) :
    Effects :=
  if isMx (wocFmt c.woc) then skipRowMx s t c o mode k p u a e
  else
    let n := p.blocks * p.nPer
    let body := n * elemBytes (wocFmt c.woc)
    putAt s c o.space (a + body) (List.replicate (o.unit - body) 0) (putEach s c o.space a ((upFrom 0 n).filterMap fun i =>
      (pairOut k (neuronKey c.grp (c.base + i)) u (p.acc i u)).map fun x => (i, x)) e)

/-- The result of a make-up pair in an MX destination goes into its element alone, under its block's scale (R62, R201). -/
def putMakeup (s : State) (t : Nat) (c : EngCmd) (k : SkipState) (row a : Nat) (outs : List (Nat × Acc)) (e : Effects) : Effects :=
  let fmt := wocFmt c.woc
  let bits := fun (n : Nat) (x : Acc) =>
    let code := lookupD 127 (pairKey c.part n row) k.scales
    if code % 256 = 255 then 0
    else (mxElem fmt c.woc (elemDraw s c 0 (a + (elemPos fmt n).1) (elemPos fmt n).2) ((code % 256 : Nat) - 127) (256 ≤ code)
      x.val).getD 0
  ((outs.map fun o => o.1 / 32).eraseDups).foldl (fun e b =>
    putBlock s t c a b (fun j old => match outs.find? fun o => o.1 = 32 * b + j with
      | some o => bits o.1 o.2
      | none => old) e) e

/-- Bit addresses of the elements a pass writes, each with its row and neuron (R199). -/
def elemBitsOf (c : EngCmd) (o : Opnd) (n r : Nat) : List (Nat × Nat × Nat) :=
  (upFrom 0 r).flatMap fun u => (upFrom 0 n).map fun i =>
    let (p, b) := elemPos (wocFmt c.woc) i
    ((o.addrs.getD u 0 + p) * 8 + b, u, i)

/-- The elements that read as zero to the activation after a main pass of the predicted projection: those of its pairs whose
verdict bit is 1, and others no longer (R199). -/
def zeroedAfter (k : SkipState) (c : EngCmd) (o : Opnd) (n r : Nat) : List Nat :=
  let all := elemBitsOf c o n r
  k.zeroed.filter (fun q => !all.any fun e => e.1 = q) ++
    ((all.filter fun e => bitOf (lookupD 0 (neuronKey c.grp (c.base + e.2.2)) k.verdicts) e.2.1).map Prod.fst)

/-- A pass that skips: classes, write-out and the comparison with the bounds (R197, R198, R200, R204). -/
def skipPass (s : State) (t : Nat) (c : EngCmd) (d : SkipDesc) (o : Opnd) (p : PassOut) : Run :=
  let k := (s.tile t).skipOf c.item
  let n := p.blocks * p.nPer
  let key := fun i => neuronKey c.grp (c.base + i)
  let (k, s) := (upFrom c.base n).foldl (classify d c.grp p.rows) (k, s)
  let full := (upFrom 0 n).filter fun i => lookupD 2 (key i) k.classes = 2
  let pairs := if c.part = 1 then full.flatMap fun i => (upFrom 0 p.rows).map fun row => (i, row) else []
  let checks := pairs.map fun q => (q, checkBound k (key q.1) q.2 (p.acc q.1 q.2).val)
  match checks.find? fun q => q.2.1 with
  | some q => .skip 0 (c.base + q.1.1) q.1.2
  | none =>
    let s := count s bankSkp 9 (checks.filter fun q => q.2.2).length
    let units := passUnits p false true o.addrs.length
    let mode := c.mode (s.tile t)
    let e := (upFrom 0 units).foldl (fun e u => skipUnit s t c o mode k p u (o.addrs.getD u 0) e) {}
    let k := (upFrom 0 units).foldl (fun k u => noteScales s c o mode p u (o.addrs.getD u 0) k) k
    let k := if c.part = 1 then { k with zeroed := zeroedAfter k c o n p.rows } else k
    .done e (countWrites (setSkip s t k) c (n * p.rows))

/-- The write-out of a pass that does not skip: each DEST unit takes its results, and no byte past them (R58, R243, R598). -/
def plainPass (s : State) (c : EngCmd) (o : Opnd) (p : PassOut) (col shared : Bool) : Run :=
  .done ((upFrom 0 (passUnits p col shared o.addrs.length)).foldl (fun e u =>
      let (ns, row) := unitPairs p col shared u
      let ad := o.addrs.getD u 0
      putAt s c o.space ad ((accBytes c.woc (ns.map fun n =>
        (p.acc n row, elemDraw s c o.space (ad + (elemPos (wocFmt c.woc) (n - ns.headD 0)).1)
          (elemPos (wocFmt c.woc) (n - ns.headD 0)).2))).take o.unit) e) {})
    (countWrites s c (p.blocks * p.nPer * p.rows))

/-- NO_STEAL as a pass finds it (R176); while it is 0, how many steals the pass makes is timing, and free (R175, R186). -/
def latchSteal (s : State) (t : Nat) : State :=
  let off := flag s Fld.DET_CTL_NO_STEAL
  let s := s.modTile t fun x => { x with noSteal := off }
  if off then s
  else
    let (d, s) := drawFree s
    count s (bankTil t) 9 (Config.freeChoice d 9)

/-- One array pass (R160–R170, R243). A TRANSPOSED unit of a packed operand holds one stored row along the neurons, so its groups are
judged against the neurons of its block (DEDUCED: R44's extent is the reduction's). -/
def runPass (s : State) (t func : Nat) (c : EngCmd) : Run :=
  let sh := c.shape.getD {}
  c.get 0 fun a => c.get 1 fun b => c.get 3 fun o =>
    (readOpnd s t c func a).use fun abs => (readOpnd s t c func b).use fun bbs => (destReady s func o).use fun _ =>
      let ua := unitsOf a abs
      let ub := unitsOf b bbs
      let perBlock := a.inner * a.count 1
      let nPer := if sh.transposed then min (sh.neurons / max 1 (sh.groups * sh.segs)) 256 else a.count 1
      let bad := if sh.transposed then badUnit c.fmtA sh.packed 1 nPer ua else badUnit c.fmtA sh.packed a.inner sh.k ua
      match bad with
      | some i => .fault 0 (metaAddr a i)
      | none =>
        let rowsA := if sh.transposed then transposedRows c.fmtA sh.packed perBlock nPer sh.k s.free ua
          else arrayRows c.fmtA sh.packed a.inner sh.k ua
        let rowsB := arrayRows c.fmtB false b.inner (if sh.col then 256 * b.inner else sh.k) ub
        let p := passOut sh.col nPer (b.count 1)
          (addendCount c.fmtA (sh.col || sh.transposed) sh.k) rowsA rowsB
        let shared := sharedAt sh b
        let s := if sh.shape ≠ 0 then count s (bankTil t) 10 else s
        let s := if sh.col || sh.transposed then count s (bankTil t) 11 else s
        let s := { s with free := s.free + 1 }
        let s := latchSteal (s.modTile t fun x => { x with accFile := 1 - x.accFile }) t
        match c.skip with
        | some d =>
          if (c.part = 1 || c.part = 2) && c.mode (s.tile t) ≠ 0 then
            (if !verdictsReady ((s.tile t).skipOf c.item) c (p.blocks * p.nPer) then .hold
             else skipPass s t c d o p)
          else plainPass s c o p sh.col shared
        | none => plainPass s c o p sh.col shared

/-! ## Make-up passes (R201) -/

/-- Batches of the make-up queue: a batch ends before the entry that would raise the union of its rows above 16 or its
neurons above 256. -/
def makeupBatches (l : List (Nat × Nat)) : List (List (Nat × Nat)) :=
  let ones := fun (m : Nat) => ((upFrom 0 64).filter (bitOf m)).length
  let step := fun (acc : List (List (Nat × Nat))) (e : Nat × Nat) =>
    match acc with
    | [] => [[e]]
    | b :: rest =>
      let union := b.foldl (fun m q => m ||| q.2) e.2
      if 16 < ones union || 256 ≤ b.length then [e] :: b :: rest else (b ++ [e]) :: rest
  (l.foldl step []).reverse

/-- The entries of the queue that a make-up command of the predicted projection, or of the companion, computes (R201). -/
def makeupEntries (k : SkipState) (pred : Bool) : List (Nat × Nat) := k.makeup.drop (if pred then k.madePred else k.madeComp)

/-- All make-up batches of a projection (R201): each pair of the queue, in its original row and neuron. -/
def runMakeup (s : State) (t func : Nat) (c : EngCmd) : Run :=
  let d := c.skip.getD {}
  let entries := makeupEntries ((s.tile t).skipOf c.item) (c.part = 1)
  let k := (s.tile t).skipOf c.item
  if entries.isEmpty then .done {} s
  else if (s.tile t).flight.any fun f => f.cmd.item = c.item && f.cmd.engine = 0 && f.cmd.part ≠ 4 then .hold
  else c.get 0 fun a => c.get 1 fun b => c.get 3 fun o =>
    let stride := (a.levels.getD 1 (1, 0)).2
    let inner := ceilDiv d.k 256
    let streamOf := fun (n : Nat) => { a with base := (wrapAddr 1 ((a.base : Int) + n * stride)), levels := a.levels.take 1 }
    (readOpnd s t c func b).use fun bbs =>
      let rowsB := arrayRows c.fmtB false inner d.k (unitsOf b bbs)
      let reads := entries.map fun e => (e, readOpnd s t c func (streamOf e.1))
      (reads.foldl (fun (acc : Rd) r => acc.append r.2) (.ok [])).use fun _ => (destReady s func o).use fun _ =>
        let us := reads.map fun r => (r.1, match r.2 with | .ok bs => unitsOf a bs | _ => [])
        match us.find? fun u => (badUnit c.fmtA d.srcPacked inner d.k u.2).isSome with
        | some u => .fault 0 (metaAddr (streamOf u.1.1) ((badUnit c.fmtA d.srcPacked inner d.k u.2).getD 0))
        | none =>
          let cnt := addendCount c.fmtA false d.k
          let weights := us.map fun u => (u.1, (arrayRows c.fmtA d.srcPacked inner d.k u.2).headD [])
          let e := (upFrom 0 64).foldl (fun e row =>
            let outs := (weights.filter fun u => bitOf u.1.2 row).map fun u =>
              (u.1.1, { dotVals u.2 (rowsB.getD row []) with count := cnt })
            if isMx (wocFmt c.woc) then putMakeup s t c k row (o.addrs.getD row 0) outs e
            else putEach s c o.space (o.addrs.getD row 0) outs e) {}
          let pairs := (entries.map fun e => ((upFrom 0 64).filter (bitOf e.2)).length).foldl (· + ·) 0
          let batches := (makeupBatches entries).length
          let s := count (count s bankSkp 6 pairs) bankSkp 7 batches
          let s := latchSteal (s.modTile t fun x => { x with accFile := (x.accFile + batches) % 2 }) t
          .done { e with made := entries.length } (countWrites { s with free := s.free + 1 } c pairs)

/-- Entries whose make-up is done for the projection, and for its companion where it has one, leave the queue (R200). -/
def SkipState.settle (k : SkipState) (gated : Bool) : SkipState :=
  let m := if gated then min k.madePred k.madeComp else k.madePred
  { k with makeup := k.makeup.drop m, madePred := k.madePred - m, madeComp := if gated then k.madeComp - m else 0 }

/-- The skip descriptor's activation has a companion. -/
def EngCmd.gated (c : EngCmd) : Bool := match c.skip with | some d => gatedAct d.act | none => false

/-- Every make-up batch of a group has written out: its main passes have, and the queue is empty (R202). -/
def groupMade (k : SkipState) (c : EngCmd) (g : Nat) : Bool :=
  let n := match c.skip with | some d => d.n | none => 0
  (g + 1) * n ≤ k.predDone && (!c.gated || (g + 1) * n ≤ k.compDone) && k.makeup.isEmpty

/-- No main or make-up pass of an item can come any more: its kernel has ended and its array commands have run. -/
def Tile.passesOver (x : Tile) (i : Item) : Bool :=
  let pass := fun (c : EngCmd) => c.item = i && c.engine = 0 && c.part ≠ 4
  !(match x.kernel with | some k => k.item = i | none => false) && !x.q0.any pass && !x.flight.any fun f => pass f.cmd

/-- The wait that the loader puts before the activation instruction and the down-projection holds the command (R202,
R222). -/
def makeupOpen (x : Tile) (c : EngCmd) : Bool :=
  let k := x.skipOf c.item
  !groupMade k c c.grp && !(k.makeup.isEmpty && x.passesOver c.item)

/-! ## The vector unit (R177–R179) -/

/-- The elements of an operand's bytes: 256 for each MX segment (R601). -/
def streamVals (fmt : Nat) (bs : List Byte) : List Val :=
  if isMx fmt then (chunksOf (segBytes fmt) bs bs.length).flatMap (readSegment fmt 256)
  else readRow fmt (bs.length / max 1 (elemBytes fmt)) bs

/-- The accumulators that an operand's EXACT records hold, or one addend for each element (R57, R179). -/
def streamAccs (fmt : Nat) (bs : List Byte) : List Acc :=
  if fmt = fmtExact then
    (upFrom 0 (bs.length / 96)).map fun i => Acc.ofBytes ((bs.drop (96 * i)).take 96)
  else (streamVals fmt bs).map (Acc.addend {})

/-- The element function of an op code of the vector unit. -/
def vecFn (op : Nat) : ElemFn :=
  match op with
  | 0x0D => .exp | 0x0E => .log | 0x0F => .rsqrt | 0x10 => .sigmoid | 0x11 => .tanh | 0x14 => .geluTanh | _ => .silu

/-- The gate function of ACT_MUL (R239). -/
def gateFnVal (fn : Nat) (g : Val) : Val :=
  match fn with
  | 0 => relu g | 1 => relu2 g | 2 => elemFn .geluTanh g | 3 => elemFn .silu g | _ => elemFn .sigmoid g

/-- MIN and MAX of two elements, −0 below +0, a NaN giving NaN (R177). -/
def minOf (a b : Val) : Val := if a = .nan || b = .nan then .nan else if b.lt a then b else a
def maxOf (a b : Val) : Val := if a = .nan || b = .nan then .nan else if a.lt b then b else a

/-- SELECT's comparison of two values that are not NaN (R177). -/
def selectHolds (cmp : Nat) (c d : Val) : Bool :=
  match cmp with | 0 => c.lt d | 1 => !d.lt c | 2 => c.eqv d | _ => !c.eqv d

/-- SELECT (R177). -/
def selectVal (cmp : Nat) (a b c d : Val) : Val :=
  if a = .nan || b = .nan || c = .nan || d = .nan then .nan else if selectHolds cmp c d then a else b

/-- The result of an element-wise instruction on one element of its operands (R177, R178). -/
def vecElem (op fn : Nat) (a b c d : Val) : Val :=
  match op with
  | 0 => a.add b
  | 1 => a.add b.neg
  | 2 => a.mul b
  | 3 => (a.mul b).add c
  | 4 => a.mul c
  | 5 => minOf a b
  | 6 => maxOf a b
  | 7 => a.abs
  | 8 => a.neg
  | 9 => selectVal (fn % 4) a b c d
  | 0xA => a
  | 0xB => a.div b
  | 0xC => a.sqrt
  | 0x12 => relu a
  | 0x13 => relu2 a
  | 0x16 => (gateFnVal (bitsOf fn 2 3) a).mul b
  | op => fnResult (vecFn op) a

/-- The accumulator of an element-wise result written in EXACT (R54–R57): sums merge their addends' accumulators, a copy keeps its
operand's, and any other result is one addend. -/
def vecAcc (op fn : Nat) (a b c d : Acc) : Acc :=
  match op with
  | 0 => a.merge b
  | 1 => a.merge b.neg
  | 3 => (Acc.addend {} (a.val.mul b.val)).merge c
  | 9 =>
    if a.val = .nan || b.val = .nan || c.val = .nan || d.val = .nan then Acc.addend {} .nan
    else if selectHolds (fn % 4) c.val d.val then a else b
  | 0xA => a
  | op => Acc.addend {} (vecElem op fn a.val b.val c.val d.val)

/-- Elements of a vector instruction: those its destination visits. -/
def vecCount (c : EngCmd) (a : Opnd) : Nat := (elemCount c.fmtA a.unit a.total).getD 0

/-- The index of the largest or smallest element: a tie goes to the lower index, a NaN before every number (R179). -/
def argBest (better : Val → Val → Bool) (vs : List Val) : Nat :=
  let idx := vs.zip (upFrom 0 vs.length)
  match idx.find? fun p => p.1 = .nan with
  | some p => p.2
  | none => match idx with
    | [] => 0
    | p :: t => (t.foldl (fun (best : Val × Nat) q => if better q.1 best.1 then q else best) p).2

/-- The sum of products of a reduction: an addend for each product, or for each pair of MX blocks that share their scales
(R51, R54). -/
def sumProducts (blocks : Bool) (l : List (Val × Val)) : Acc :=
  { l.foldl (fun (a : Acc) p => a.addVal (p.1.mul p.2)) ({} : Acc) with count := if blocks then ceilDiv l.length 32 else l.length }

/-- The bytes of a reduction's result, or nothing where the addend limit is passed (R54, R179). -/
def reduceBytes (c : EngCmd) (d : Nat) (abs bbs : List Byte) : Option (List Byte) :=
  let va := streamVals c.fmtA abs
  let one := fun (a : Acc) => if 2 ^ 32 ≤ a.count then none
    else some (if isMx (wocFmt c.woc) then mxSegment c.woc [(a.val, d)] else (accBytes c.woc [(a, d)]).take (elemBytes (wocFmt c.woc)))
  let val := fun (v : Val) =>
    let v := match v with | .num true 0 _ _ => Val.negZero | v => v
    some (if isMx (wocFmt c.woc) then mxSegment c.woc [(v, d)]
    else (valBytes c.woc [(v, d)]).take (elemBytes (wocFmt c.woc)))
  let best := fun (f : Val → Val → Val) => match va with | [] => Val.nan | v :: t => t.foldl f v
  match c.op with
  | 0x20 => one ((streamAccs c.fmtA abs).foldl Acc.merge {})
  | 0x21 => one (sumProducts (isMx c.fmtA) (va.zip va))
  | 0x22 => one (sumProducts (isMx c.fmtA && isMx c.fmtB) (va.zip (streamVals c.fmtB bbs)))
  | 0x23 => val (best maxOf)
  | 0x24 => val (best minOf)
  | 0x25 => some (leBytes 4 (argBest (fun x y => y.lt x) va))
  | _ => some (leBytes 4 (argBest (fun x y => x.lt y) va))

/-- The bit address of element `i` of an operand in the scratchpad. -/
def opndBit (o : Opnd) (fmt i : Nat) : Nat :=
  let (p, b) := elemPos fmt i
  (o.addrs.getD (p / max 1 o.unit) 0 + p % max 1 o.unit) * 8 + b

/-- A vector instruction (R177–R179, R199, R601). -/
def runVec (s : State) (t func : Nat) (c : EngCmd) : Run :=
  c.get 0 fun a => c.get 3 fun o =>
    let rd := fun (x : Option Opnd) => match x with | some x => readOpnd s t c func x | none => .ok []
    let cs := c.opnds.filter fun x => x.role = 2
    (readOpnd s t c func a).use fun abs => (rd (c.role 1)).use fun bbs =>
    (rd cs.head?).use fun cbs => (rd (cs.drop 1).head?).use fun dbs => (destReady s func o).use fun _ =>
      let s := count s (bankTil t) 12
      if 0x20 ≤ c.op then
        let ad := o.addrs.headD 0
        let dr := elemDraw s c o.space ad 0
        let s := count s (bankTil t) 13 (vecCount c a)
        match reduceBytes c dr abs bbs with
        | none => .fault 1 0
        | some bs =>
          let s := if c.op < 0x25 then countWrites s c 1 else s
          .done (scatter s c o bs) s
      else
        let cOps := cs.zip [cbs, dbs]
        let k := (s.tile t).skipOf c.item
        let zero := fun i => c.part = 3 && k.zeroed.contains (opndBit a c.fmtA i)
        let at3 := fun i => if c.op = 4 then 0 else i
        if wocFmt c.woc = fmtExact then
          let cd := cOps.map fun q => streamAccs q.1.fmt q.2
          let va := streamAccs c.fmtA abs
          let vb := streamAccs c.fmtB bbs
          let vs := (upFrom 0 va.length).map fun i =>
            if zero i then Acc.addend {} Val.zero
            else vecAcc c.op c.fn (va.getD i {}) (vb.getD i {}) ((cd.getD 0 []).getD (at3 i) {}) ((cd.getD 1 []).getD i {})
          if vs.any fun x => 2 ^ 32 ≤ x.count then .fault 1 0
          else .done (scatter s c o ((vs.flatMap Acc.bytes).take (o.unit * o.total))) s
        else
          let cd := cOps.map fun q => streamVals q.1.fmt q.2
          let va := streamVals c.fmtA abs
          let vb := streamVals c.fmtB bbs
          let n := va.length
          let vs := (upFrom 0 n).map fun i =>
            if zero i then Val.zero
            else vecElem c.op c.fn (va.getD i Val.zero) (vb.getD i Val.zero)
              ((cd.getD 0 []).getD (at3 i) Val.zero) ((cd.getD 1 []).getD i Val.zero)
          let bs := valBytes c.woc (vs.zip (destDraws s c o n))
          .done (scatter s c o (bs.take (o.unit * o.total))) (countWrites s c n)

/-! ## Copies (R239) -/

/-- COPY_IN, COPY_OUT, COPY and FILL. -/
def runXfer (s : State) (t func : Nat) (c : EngCmd) : Run :=
  c.get 3 fun o =>
    if c.op = 3 then c.get 2 fun x =>
      (readUnit s t c func { x with unit := 8 } (x.addrs.headD 0)).use fun bs => (destReady s func o).use fun _ =>
        .done (scatter s c o ((List.replicate (o.unit * o.total / 8) bs).flatten)) s
    else c.get 0 fun a =>
      (readOpnd s t c func a).use fun bs => (destReady s func o).use fun _ =>
        .done (scatter s c o (bs.take (o.unit * o.total))) s

/-! ## The skip predictor (R187–R196) -/

/-- The verdict, the bound's FP32 bits, whether s ≤ 0, and whether a skip may be lost (R187, R188, R205, R206). -/
structure Verdict where
  bit : Bool
  bound : Nat
  sneg : Bool
  lost : Bool
  deriving DecidableEq, Repr

/-- One pair: shadow weights `v`, error bound bits `e`, row `x` (R187, R188, R205, R206). -/
def judge (d : SkipDesc) (mode : Nat) (v : List Val) (e : Nat) (x : List Val) : Verdict :=
  let sum := (dotVals v x).val
  let err := decodeFloat fmtFp32 e
  let big := x.foldl (fun m y => maxOf m y.abs) Val.zero
  let b := sum.add (err.mul big)
  let ru := encodeFloat fmtFp32 0xA7 0 b
  let fin := err.finite && x.all Val.finite
  let cert := mode = 1 && fin && b.finite && b.leZero
  let theta := decodeFloat fmtFp32 d.theta
  let spec := mode = 2 && fin && sum.finite && !theta.ltNum sum
  { bit := cert || spec, bound := ru, sneg := sum.leZero, lost := spec && theta.ltNum (decodeFloat fmtFp32 ru) }

/-- The neuron whose verdict word lies at a scratchpad address: its place in the verdict region of the layer (R195). DESIGN
CHOICE: outside every such region, its place from the destination's start. -/
def verdictNeuron (c : EngCmd) (o : Opnd) (a : Nat) : Nat :=
  match c.regions.find? fun r => r.kind = 2 && r.layer = c.item.layer && r.base ≤ a && a < r.base + r.len with
  | some r => (a - r.base) / 8
  | none => (a - o.addrs.headD 0) / 8

/-- The neurons an EVAL gives verdicts, in the order of its words. -/
def evalNeurons (c : EngCmd) (o : Opnd) : List Nat :=
  (upFrom 0 (o.unit * o.total / 8)).map fun i =>
    verdictNeuron c o (o.addrs.getD (8 * i / max 1 o.unit) 0 + 8 * i % max 1 o.unit)

/-- EVAL: the verdicts of one main pass's neurons, for the next group of stationary rows of each (R194–R196, R204). -/
def runEval (s : State) (t func : Nat) (c : EngCmd) : Run :=
  let x := s.tile t
  c.get 3 fun o =>
    let ns := evalNeurons c o
    let words := ns.length
    let d := c.skip.getD {}
    let mode := c.mode x
    let k := x.skipOf c.item
    if mode = 0 then (destReady s func o).use fun _ =>
      .done { scatter s c o (List.replicate (8 * words) 0) with evald := ns } s
    else c.get 0 fun a => c.get 1 fun b =>
      (readOpnd s t c func a).use fun abs => (readOpnd s t c func b).use fun bbs => (destReady s func o).use fun _ =>
        let segs := ceilDiv d.k 256
        let blk := 8 + 136 * segs
        let rows := arrayRows c.fmtB false segs d.k (unitsOf b bbs)
        let n := min words (abs.length / blk)
        let block := fun i => (abs.drop (i * blk)).take blk
        let head := fun i => leNat ((block i).take 8)
        let bad := fun i => let h := head i
          bitsOf h 32 20 ≠ d.k || bitsOf h 52 4 ≠ d.srcFmt || bitOf h 56 != d.srcPacked
        match (upFrom 0 n).find? bad with
        | some i => .skip 1 (ns.getD i 0) 0
        | none =>
          let key := fun i => neuronKey (lookupD 0 (ns.getD i 0) k.evals) (ns.getD i 0)
          let judged := (upFrom 0 n).map fun i =>
            let v := (arrayRows 0 false segs d.k (chunksOf 136 ((block i).drop 8) segs)).headD []
            rows.map fun r => judge d mode v (head i % 2 ^ 32) r
          let word := fun (vs : List Verdict) => (vs.zip (upFrom 0 vs.length)).foldl (fun w p => w + b2n p.1.bit * 2 ^ p.2) 0
          let verdicts := (upFrom 0 n).foldl (fun tb i => insertK (key i) (word (judged.getD i [])) tb) k.verdicts
          let bounds := (upFrom 0 n).foldl (fun tb i =>
            ((judged.getD i []).zip (upFrom 0 rows.length)).foldl (fun tb p =>
              insertK (key i * 64 + p.2) (p.1.bound, p.1.sneg) tb) tb) k.bounds
          let all := judged.flatten
          let bits := (all.filter Verdict.bit).length
          let lost := (all.filter Verdict.lost).length
          let s := count s bankSkp 0 all.length
          let s := if mode = 2 then count (count s bankSkp 11 bits) bankSkp 12 lost else count s bankSkp 1 bits
          let s := if mode = 2 then s.modStep c.item.seq fun y => { y with speculative := true } else s
          let k := if mode = 2 then { k with skipped := k.skipped + bits, lost := k.lost + lost } else k
          .done { scatter s c o ((upFrom 0 n).flatMap fun i => leBytes 8 (word (judged.getD i []))) with evald := ns.take n }
            (setSkip s t { k with verdicts, bounds })

/-- What a command computes when an engine starts it. -/
def runCommand (s : State) (t func : Nat) (c : EngCmd) : Run :=
  if c.idle then .done {} s
  else if (c.part = 3 || c.part = 4) && c.mode (s.tile t) ≠ 0 && makeupOpen (s.tile t) c then .hold
  else if c.engine = 0 then (if c.op = 0 then runPass s t func c else runMakeup s t func c)
  else if c.engine = 1 then runVec s t func c
  else if c.engine = 2 then runXfer s t func c
  else runEval s t func c

end Sys2Proof.Machine
end

