-- ==== Sys2Proof/Machine/TileFail.lean ====
section
/-!
DEFINITION. The failure of a tile and its replacement by a spare (R503–R511), and the counts of hardware faults and
corrections that lead to it (R505).
-/
namespace Sys2Proof.Machine

/-- The role of a physical tile (R503). -/
def roleOf (s : State) (t : Nat) : TileRole := lookupD .dark t s.ras.roles
def setRole (s : State) (t : Nat) (r : TileRole) : State :=
  repairChange { s with ras := { s.ras with roles := insertK t r s.ras.roles } }
/-- Tiles in the spare state. -/
def spares (s : State) : List Nat := (s.ras.roles.filter fun e => e.2 = .spare).map Prod.fst

/-- Distance of two numbers. -/
def natDist (a b : Nat) : Nat := (a - b) + (b - a)

/-- The spare that replaces a tile: same base die, least difference in row, lowest number (R506). -/
def chooseSpare (s : State) (t : Nat) : Option Nat :=
  bestBy (fun a b =>
    let da := homeDie a = homeDie t
    let db := homeDie b = homeDie t
    if da != db then da
    else if natDist (a / 8) (t / 8) ≠ natDist (b / 8) (t / 8) then natDist (a / 8) (t / 8) < natDist (b / 8) (t / 8)
    else a < b) (spares s)

/-- An owned expert whose kernel ended and whose return rows were all sent is kept (R507). -/
def OwnedExp.kept (o : OwnedExp) : Bool := o.lost || (o.done && o.rows.all fun r => r.2.returned)

/-- An expert of the failed tile starts over (R507). -/
def OwnedExp.again (o : OwnedExp) : OwnedExp :=
  let fresh := fun (r : Nat × SlotRec) =>
    (r.1, { r.2 with got := [], whole := false, outGot := [], out := [], returned := false })
  { o with rows := o.rows.map fresh, arrived := 0, handed := false, done := false }

/-- The number of a STEP item's part: its kernel's entry and its place in it (R338). -/
def partNo (i : Item) : Nat := i.entry * 256 + bitsOf i.payload 30 8

/-- STEP items of an uncommitted step that ended on a tile (R507). -/
def LStep.endedOn (x : LStep) (t : Nat) : List Item :=
  if x.stage = .done then [] else (x.partsDone.filter fun e => e.1 = t).map Prod.snd

/-- STEP items that ended on a failed tile are to run again (R507, R511). -/
def LStep.reopen (x : LStep) (t : Nat) : LStep :=
  { x with parts := x.parts ++ (x.endedOn t).map partNo, partsDone := x.partsDone.filter fun e => e.1 ≠ t }

/-- One step whose work the failed tile `t`, logical `l`, held goes to the spare `sp` (R507): of its STEP items those that have ended too,
in their order; the count of items issued again. -/
def moveStep (t l sp : Nat) (items : List Item) (a : State × Nat) (e : Nat × LStep) : State × Nat :=
  let (s, n) := a
  let x := e.2
  if x.stage = .done then (s, n)
  else
    let redo := x.owned.filter fun o => o.tile = l && !o.kept
    let trips := (redo.filter fun o => o.handed).length
    let parts := x.endedOn t ++ items.filter fun i => i.seq = e.1 && i.kind = 1
    let waiting := (x.waiting.map fun w => if w.1 = t then (sp, w.2) else w) ++ parts.map fun i => (sp, i)
    if redo.isEmpty && parts.isEmpty && waiting = x.waiting then (s, n)
    else
      let owned := x.owned.map fun o => if o.tile = l && !o.kept then o.again else o
      let y := { x.reopen t with owned, waiting, disarmed := if redo.isEmpty then x.disarmed else insertSorted l x.disarmed }
      (timingEvent (s.setStep e.1 y) e.1, n + trips + parts.length)

/-- The receive regions of a logical tile are armed again, and REDO goes to every member of each step's group, this one
among them (R507, R508). -/
def rearmTile (s : State) (l : Nat) : State :=
  s.xch.steps.foldl (fun s e =>
    match s.step e.1 with
    | none => s
    | some x =>
      if !x.disarmed.contains l then s
      else
        let s := s.setStep e.1 { x with disarmed := x.disarmed.filter (· ≠ l) }
        let s := (x.owned.filter fun o => o.tile = l && !o.kept).foldl (fun s o =>
          let n := ownerSlice s o.tile
          let ops := (stepOps s e.1 x n).filter fun p => p.key = trigRows o.expert
          renewTrig (writePadding e.1 x s o) n e.1 (trigRows o.expert) ops) s
        let g := groupOf s x.group
        let s := count s bankRas 3 g.members.length
        let s := g.peers.foldl (fun s m => sendStep s x 0 m .runner { kind := 12, destTile := l }) s
        let s := count s bankRas 4
        resendRows s e.1 g.rank l) s

/-- STAGE entries of a logical tile are staged again (R507). -/
def restage (s : State) (l : Nat) : State :=
  { s with wsp := { s.wsp with
    staged := s.wsp.staged.map fun d => if d.1 = l then (d.1, { d.2 with held := false }) else d } }

/-- Experts that loaded images place on a logical tile, with their models (R511). -/
def expertsOn (s : State) (l : Nat) : List (Nat × Nat) :=
  let progs := (s.tiles.flatMap fun e => e.2.programs).eraseDups
  progs.flatMap fun p => p.bindings.flatMap fun b =>
    if b.routeDesc = 0 then []
    else match layerDescs s b with
      | none => []
      | some (r, xd) =>
        let x : LStep := { route := r, xchg := xd, binding := b, model := p.model }
        ((expertsOf s x (endpointId s)).filter fun e =>
          e.2.2 < xd.owned && bitsOf (leNat (wspBytes s (xd.recvTable + 4 * e.2.2) 4)) 0 8 = l).map
            fun e => (p.model, r.expBase + e.1)

/-- A STEP part of a lost tile is placed on another (R339, R511). -/
def replacePart (s : State) (it : Item) : State :=
  match s.step it.seq, s.context it.ctx, programById s it.image with
  | some _, some c, some p =>
    let i := bitsOf it.payload 30 8
    match placePart s c (s.stream it.ctx it.stream) p it.entry i [] with
    | none => s
    | some (l, t) =>
      let s := s.modStep it.seq fun y => { y with waiting := y.waiting ++ [(t, it)] }
      timingEvent (s.modStream it.ctx it.stream fun y => { y with lastTiles := insertK (partKey it.image it.entry i) l y.lastTiles })
        it.seq
  | _, _, _ => s

/-- The work of a logical tile that no spare takes (R511): its experts are lost, its STEP parts go elsewhere. The counts
of items issued again and of experts made unavailable. -/
def loseTile (s : State) (t l : Nat) (items : List Item) : State × Nat × Nat :=
  let exps := (expertsOn s l).eraseDups
  let s := exps.foldl (fun s e => makeUnavailable s e.1 e.2 0) s
  let s := s.xch.steps.foldl (fun s e =>
    (e.2.owned.filter fun o => o.tile = l && !o.done && !o.lost).foldl (fun s o => loseExpert s e.1 o.expert) s) s
  let waits := s.xch.steps.flatMap fun e => (e.2.waiting.filter fun w => w.1 = t).map Prod.snd
  let ended := s.xch.steps.flatMap fun e => e.2.endedOn t
  let s := { s with xch := { s.xch with steps := s.xch.steps.map fun (e : Nat × LStep) =>
    (e.1, { e.2.reopen t with waiting := e.2.waiting.filter fun w => w.1 ≠ t }) } }
  let parts := ended ++ (items.filter fun i => i.kind = 1) ++ waits
  (parts.foldl replacePart s, parts.length, exps.length)

/-- RAS_ERR_INFO (R520). -/
def rasInfo (t sp l cause bit : Nat) : Nat := t + sp * 2 ^ 8 + l * 2 ^ 16 + cause * 2 ^ 24 + bit * 2 ^ 28

/-- The SPARE_TAKEOVER event (R510). -/
def takeoverEvent (s : State) (t sp l cause again lost : Nat) : State :=
  recEvent (journalEvent s 0x09 0 (spares s).length s.ticks
    ((t + sp * 2 ^ 8 + l * 2 ^ 16 + cause * 2 ^ 24 + again % 2 ^ 16 * 2 ^ 32 + lost % 2 ^ 16 * 2 ^ 48) * 2 ^ 64)) 2 t 0 0

/-- A physical tile fails (R505–R511): it is isolated, and the logical number it held passes to a spare with its work, or
is lost. -/
def failTile (s : State) (t cause : Nat) : State :=
  let role := roleOf s t
  if role = .failed || role = .dark then s
  else
    let old := s.tile t
    let l := logicalOf s t
    let sp := if l.isSome then chooseSpare s t else none
    let s := setRole (count s bankRas 0) t .failed
    let s := s.setTile t { rowOn := old.rowOn }
    let s := { s with pmc := { s.pmc with savedAt := insertK (64 + t) s.ticks s.pmc.savedAt } }
    match l, sp with
    | some l, some sp =>
      let s := setRole { s with ras := { s.ras with l2p := insertK l sp s.ras.l2p } } sp .inService
      let put := fun (x : Tile) =>
        { x with bank0 := old.bank0, bank1 := old.bank1, active := old.active, loadLocks := old.loadLocks
                 skipCtl := old.skipCtl, items := [], kernel := none }
      let s := restage (s.modTile sp put) l
      let (s, n) := s.xch.steps.foldl (moveStep t l sp old.allItems) (s, 0)
      let s := count (count s bankRas 1) bankRas 2 n
      let jseq := nextSeq s
      let s := takeoverEvent s t sp l cause n 0
      let info := rasInfo t sp l cause 0
      let s := setRaw s Reg.RAS_ERR_INFO 0 0 info
      let s := raiseErr s Fld.RAS_ERR_TILE_FAILED 0 .recovered { unit := t, jrnSeq := jseq, arg := info }
      settleWork (if (s.tile sp).rowOn then rearmTile s l else s)
    | some l, none =>
      let lostImages := insertK l (old.bank0, old.bank1, old.active) s.ras.lostImages
      let s := { s with ras := { s.ras with l2p := eraseK l s.ras.l2p, lostImages } }
      let (s, n, m) := loseTile (restage s l) t l old.allItems
      let s := count s bankRas 2 n
      let jseq := nextSeq s
      let s := takeoverEvent s t 0xFF l cause n m
      let info := rasInfo t 0xFF l cause 1
      let s := setRaw s Reg.RAS_ERR_INFO 0 0 info
      settleWork (raiseErr s Fld.RAS_ERR_TILE_LOST 0 .degraded { unit := t, jrnSeq := jseq, arg := info })
    | none, _ => takeoverEvent s t 0xFF 0xFF cause 0 0

/-- A tile or Stoker fault with a hardware cause counts toward UE_LIMIT (R247, R505). -/
def hwFault (s : State) (t : Nat) (i : Item) (cause addr : Nat) : State :=
  let s := tileFault s t i cause addr
  let n := lookupD 0 t s.ras.ueCount + 1
  let s := { s with ras := { s.ras with ueCount := insertK t n s.ras.ueCount } }
  if fld s Fld.RAS_CFG_TILE_UE_LIMIT ≤ n then failTile s t 1 else s

/-- Ember ticks of one hour: 25 MHz (R523). -/
def hourTicks : Nat := 90000000000

/-- An event that changes only timing meets the steps whose work a tile holds (R477). -/
def timingTile (s : State) (t : Nat) : State := ((s.tile t).allItems.map fun i => i.seq).foldl timingEvent s

/-- Scratchpad words corrected on a tile (R156, R505): counted, and beyond TILE_CE_LIMIT within one hour the tile fails. -/
def corrected (s : State) (t n addr : Nat) : State :=
  if n = 0 then s
  else
    let s := timingTile s t
    let s := bumpFld s Fld.TIL_ECC_CORRECTED n t
    let s := setFld s Fld.TIL_ECC_LAST_ADDR addr t
    let s := count s (bankTil t) 15 n
    let s := noteErr s (blockOf Reg.TIL_ECC.base) .corrected { unit := t, addr }
    let old := (lookupD [] t s.ras.ceTimes).filter fun k => s.ticks < k + hourTicks
    let l := old ++ List.replicate n s.ticks
    let s := { s with ras := { s.ras with ceTimes := insertK t l s.ras.ceTimes } }
    if fld s Fld.RAS_CFG_TILE_CE_LIMIT < l.length then failTile s t 2 else s

end Sys2Proof.Machine
end

