-- ==== Sys2Proof/Machine/Stoker.lean ====
section
/-!
DEFINITION. The Stoker (R224–R248): work items and banks, and the scalar, memory, branch, loop and control words of a
kernel. A row that executes a word fires on a tile whose Stoker stands at a word of that name.
-/
namespace Sys2Proof.Machine

/-! ## Work items and banks (R226–R228, R235) -/

/-- A tile that can run: its row is powered, its clock runs and no fault holds it. -/
def Tile.runs (x : Tile) : Bool := x.rowOn && x.clkOn && !x.faulted

/-- A command-list boundary: the inactive bank is swapped in if the next item is for it, or if it is freshly staged and
no item waits (R223, R235). -/
def swapBanks (x : Tile) : Tile :=
  if x.kernel.isSome || x.loadLocks != [] then x
  else match (x.bank x.idleBank).prog with
    | none => x
    | some p =>
      let want := match x.items.head? with
        | some i => i.image = p.id
        | none => (x.bank x.idleBank).staged
      if !want then x
      else
        let b := x.bank x.idleBank
        { (x.setBank x.idleBank { b with staged := false }) with active := x.idleBank }

/-- A tile at a command-list boundary swaps where R235 says; the steps whose work it holds meet the swap (R477). -/
def swapTile (s : State) (t : Nat) : State :=
  let x := s.tile t
  let y := swapBanks x
  if y.active = x.active then s else (timingTile s t).setTile t y

/-- The work area as an item finds it: zeroed if the context changes; else each byte is kept or zero, as it may be
(R225). -/
def freshDmem (x : Tile) (ctx d : Nat) : Mem :=
  if x.dmemCtx = some ctx then x.dmem.filter fun c => Config.freeChoice d c.1 % 2 = 0 else []

/-- The registers a kernel starts with (R228). -/
def startRegs (i : Item) (logical : Nat) : Table Word :=
  [(1, i.payload), (2, i.layer), (3, i.ctx), (4, i.stream), (5, logical), (6, i.msc)].foldl
    (fun t e => if e.2 % 2 ^ 64 = 0 then t else insertK e.1 (BitVec.ofNat 64 e.2) t) []

/-- A step's use of SKP_CTL on a tile: as it was at the step's start (R208). -/
def latchSkip (s : State) (x : Tile) (seq : Nat) : Tile :=
  match s.step seq with
  | some y => { x with skipCtl := insertK seq (y.certAllow, y.specAllow) x.skipCtl }
  | none => x

/-- A Stoker fault, which has a tile fault's consequences (R247). -/
def stokerFault (s : State) (t : Nat) (i : Item) (n addr : Nat) : State :=
  if n < 2 then hwFault s t i (16 + n) addr else tileFault s t i (16 + n) addr

/-- The Stoker takes its next item (R227, R228); `badWord` and `badDmem` are the bank word and the DMEM word that read with
an uncorrectable error while its kernel runs (R236, R247). -/
def takeItem (s : State) (t : Nat) (badWord badDmem : Option Nat) : State :=
  let x := s.tile t
  match x.items with
  | [] => s
  | i :: rest =>
    match x.program with
    | none => if x.holds i.image then s else stokerFault s t i 7 0
    | some p =>
      if p.id ≠ i.image then (if x.holds i.image then s else stokerFault s t i 7 0)
      else match p.entries[i.entry]? with
        | none => stokerFault s t i 8 0
        | some e =>
          if e.kind ≠ i.kind then stokerFault s t i 8 0
          else
            let (d, s) := drawFree s
            let k : Kernel := { item := i, pc := e.start, stop := e.start + e.words
                                regs := startRegs i ((logicalOf s t).getD 0xFF), badWord, badDmem }
            let x := latchSkip s x i.seq
            s.setTile t { x with items := rest, kernel := some k, dmem := freshDmem x i.ctx d, dmemCtx := some i.ctx
                                 lastWork := s.ticks }

/-- WORK_ITEM_START (R226, R227, R235). -/
def execWorkItemStart (tile : Nat) (errors : KernelErrors) (s : State) : Out :=
  let s := settleWork s
  let x := s.tile tile
  if !x.runs || x.draining || x.kernel.isSome then .next s
  else
    let s := swapTile s tile
    if flag s Fld.TIL_CTL_HALT tile then .next s else .next (settleWork (takeItem s tile errors.word errors.dmem))

/-! ## The end of an item (R28, R127, R338) -/

/-- No word and no command of an item is left on the tile. -/
def Tile.itemOver (x : Tile) (i : Item) : Bool :=
  (match x.kernel with | some k => k.item != i | none => true) &&
    !(x.q0 ++ x.q1 ++ x.q2 ++ x.q3).any (fun c => c.item = i) && !x.flight.any (fun f => f.cmd.item = i)

/-- An item whose kernel and commands have ended: its expert, or its part of a STEP kernel, is done, and its counts of
skipped and possibly lost pairs are the step's (R207). -/
def itemEnds (s : State) (t : Nat) (i : Item) : State :=
  if !(s.tile t).itemOver i then s
  else
    let k := (s.tile t).skipOf i
    let s := s.modStep i.seq fun y => { y with specSkipped := y.specSkipped + k.skipped, possiblyLost := y.possiblyLost + k.lost }
    let s := s.modTile t fun x => { x with skips := x.skips.filter fun k => k.item ≠ i }
    let s := streamProgress s i.ctx i.stream
    let s :=
      if i.kind = 0 then modOwned s i.seq (i.payload % 2 ^ 16) fun o => { o with done := true }
      else s.modStep i.seq fun y => { y with parts := y.parts.erase (partNo i), partsDone := y.partsDone ++ [(t, i)] }
    maybeCommit s i.seq

/-! ## Words -/

/-- The word a Stoker stands at, with its kernel, on a tile that runs. -/
def wordOf (s : State) (t : Nat) : Option (Kernel × Nat) :=
  let x := s.tile t
  if !x.runs then none
  else match x.kernel, x.program with
    | some k, some p => some (k, wordAt p.code k.pc)
    | _, _ => none

/-- The kernel awaits LDW data. -/
def Kernel.awaiting (k : Kernel) : Bool := match k.stall with | .ldw _ _ => true | _ => false

/-- Fetching `n` words from the Stoker's place meets an uncorrectable error (R236). -/
def Kernel.fetchBad (k : Kernel) (n : Nat) : Bool := match k.badWord with | some i => k.pc ≤ i && i < k.pc + n | none => false
/-- Reading `n` DMEM bytes at `a` meets an uncorrectable error (R247). -/
def Kernel.dmemBad (k : Kernel) (a n : Nat) : Bool := match k.badDmem with | some b => b < a + n && a < b / 8 * 8 + 8 | none => false

/-- Executes the word of form `form` and operation `op` that the Stoker of tile `t` stands at; with any other word there
nothing happens, and a word that cannot be read faults (R229, R236). -/
def atWord (s : State) (t form op : Nat) (f : Kernel → Nat → State) : Out :=
  match wordOf s t with
  | some (k, w) =>
    if bitsOf w 0 4 = form && bitsOf w 4 8 = op && !k.awaiting then
      .next (if k.fetchBad 1 then stokerFault s t k.item 0 0 else f k w)
    else .next s
  | none => .next s

/-- The kernel of a tile. -/
def setKernel (s : State) (t : Nat) (k : Kernel) : State := s.modTile t fun x => { x with kernel := some k }

/-- Scalar register `i`: s0 reads zero (R224). -/
def Kernel.reg (k : Kernel) (i : Nat) : Word := if i = 0 then 0 else lookupD 0 i k.regs
/-- A write of register `i`: s0 ignores it (R224). -/
def Kernel.setReg (k : Kernel) (i : Nat) (v : Word) : Kernel :=
  if i = 0 then k else { k with regs := if v = 0 then eraseK i k.regs else insertK i v k.regs }
/-- The kernel at its next word. -/
def Kernel.next (k : Kernel) : Kernel := { k with pc := k.pc + 1, stall := .none }

/-- A scalar word: DST := f SRCA SRCB (R237, R238). -/
def scalarWord (s : State) (t op : Nat) (f : Word → Word → Word) : Out :=
  atWord s t 0 op fun k w =>
    setKernel s t ((k.setReg (bitsOf w 12 5) (f (k.reg (bitsOf w 17 5)) (k.reg (bitsOf w 22 5)))).next)

/-- An immediate word: DST := f SRC IMM, with IMM sign-extended (R237, R238). -/
def immWord (s : State) (t op : Nat) (f : Word → Word → Word) : Out :=
  atWord s t 1 op fun k w =>
    setKernel s t ((k.setReg (bitsOf w 12 5)
      (f (k.reg (bitsOf w 17 5)) (BitVec.ofInt 64 (signedOf 42 (bitsOf w 22 42))))).next)

/-- A shift amount: bits [5:0] (R238). -/
def shiftOf (v : Word) : Nat := v.toNat % 64
/-- The word that stands for a comparison (R238). -/
def boolWord (b : Bool) : Word := if b then 1 else 0

/-! The scalar and immediate words (R238). -/

def execAdd (tile : Nat) (s : State) : Out := scalarWord s tile 0x00 fun a b => a + b
def execSub (tile : Nat) (s : State) : Out := scalarWord s tile 0x01 fun a b => a - b
def execAnd (tile : Nat) (s : State) : Out := scalarWord s tile 0x02 fun a b => a &&& b
def execOr (tile : Nat) (s : State) : Out := scalarWord s tile 0x03 fun a b => a ||| b
def execXor (tile : Nat) (s : State) : Out := scalarWord s tile 0x04 fun a b => a ^^^ b
def execShl (tile : Nat) (s : State) : Out := scalarWord s tile 0x05 fun a b => a <<< shiftOf b
def execShr (tile : Nat) (s : State) : Out := scalarWord s tile 0x06 fun a b => a >>> shiftOf b
def execSra (tile : Nat) (s : State) : Out := scalarWord s tile 0x07 fun a b => a.sshiftRight (shiftOf b)
def execMul (tile : Nat) (s : State) : Out := scalarWord s tile 0x08 fun a b => a * b
def execMulhu (tile : Nat) (s : State) : Out :=
  scalarWord s tile 0x09 fun a b => BitVec.ofNat 64 (a.toNat * b.toNat / 2 ^ 64)
/-- DIVU: a zero divisor gives all ones (R238). -/
def execDivu (tile : Nat) (s : State) : Out :=
  scalarWord s tile 0x0A fun a b => if b = 0 then BitVec.allOnes 64 else a / b
/-- REMU: a zero divisor gives SRCA (R238). -/
def execRemu (tile : Nat) (s : State) : Out := scalarWord s tile 0x0B fun a b => if b = 0 then a else a % b
def execMinu (tile : Nat) (s : State) : Out := scalarWord s tile 0x0C fun a b => if a.ult b then a else b
def execMaxu (tile : Nat) (s : State) : Out := scalarWord s tile 0x0D fun a b => if a.ult b then b else a
def execSlt (tile : Nat) (s : State) : Out := scalarWord s tile 0x0E fun a b => boolWord (a.slt b)
def execSltu (tile : Nat) (s : State) : Out := scalarWord s tile 0x0F fun a b => boolWord (a.ult b)

def execAddi (tile : Nat) (s : State) : Out := immWord s tile 0x00 fun a b => a + b
def execAndi (tile : Nat) (s : State) : Out := immWord s tile 0x02 fun a b => a &&& b
def execOri (tile : Nat) (s : State) : Out := immWord s tile 0x03 fun a b => a ||| b
def execXori (tile : Nat) (s : State) : Out := immWord s tile 0x04 fun a b => a ^^^ b
def execShli (tile : Nat) (s : State) : Out := immWord s tile 0x05 fun a b => a <<< shiftOf b
def execShri (tile : Nat) (s : State) : Out := immWord s tile 0x06 fun a b => a >>> shiftOf b
def execSrai (tile : Nat) (s : State) : Out := immWord s tile 0x07 fun a b => a.sshiftRight (shiftOf b)
def execMuli (tile : Nat) (s : State) : Out := immWord s tile 0x08 fun a b => a * b
def execLi (tile : Nat) (s : State) : Out := immWord s tile 0x10 fun _ b => b
/-- EXTI: lo in IMM[5:0], w in IMM[12:6] (R238). -/
def execExti (tile : Nat) (s : State) : Out :=
  immWord s tile 0x11 fun a b => BitVec.ofNat 64 (bitsOf a.toNat (b.toNat % 64) (b.toNat / 64 % 128))
/-- CDIVI: ceil(SRC ÷ IMM), unsigned; the loader refuses a zero divisor (R218, R238). -/
def execCdivi (tile : Nat) (s : State) : Out :=
  immWord s tile 0x12 fun a b => BitVec.ofNat 64 (ceilDiv a.toNat b.toNat)

/-! ## Memory words (R225, R238) -/

/-- BASE + OFFSET, modulo 2^64. -/
def memAddr (k : Kernel) (w : Nat) : Nat :=
  (k.reg (bitsOf w 17 5) + BitVec.ofInt 64 (signedOf 22 (bitsOf w 22 22))).toNat

/-- LD, with whether the DMEM word has an uncorrectable error (R238, R247). -/
def execLd (tile : Nat) (uncorrectable : Bool) (s : State) : Out :=
  atWord s tile 2 0x00 fun k w =>
    let a := memAddr k w
    if a % 8 ≠ 0 || 0x10000 ≤ a then stokerFault s tile k.item 2 0
    else if uncorrectable || k.dmemBad a 8 then stokerFault s tile k.item 1 0
    else setKernel s tile ((k.setReg (bitsOf w 12 5) (BitVec.ofNat 64 ((s.tile tile).dmemWord a))).next)

/-- ST: into the work area alone, at any byte address of it (R225, R238). DESIGN CHOICE: bytes past DMEM's end go nowhere. -/
def execSt (tile : Nat) (s : State) : Out :=
  atWord s tile 2 0x01 fun k w =>
    let a := memAddr k w
    if a < 0xC000 then stokerFault s tile k.item 3 0
    else if 0x10000 ≤ a then stokerFault s tile k.item 2 0
    else
      let bs := (leBytes 8 (k.reg (bitsOf w 12 5)).toNat).take (0x10000 - a)
      let s := setKernel s tile { k.next with badDmem := if k.badDmem = some a && a % 8 = 0 then none else k.badDmem }
      s.modTile tile fun x => { x with dmem := writeBytes a bs x.dmem }

/-- The function that owns a context. -/
def ctxFunc (s : State) (ctx : Nat) : Nat := match s.context ctx with | some c => c.func | none => 0

/-- A read that meets a LOST page (R394): an expert's page makes its expert unavailable, and the expert's item is
discarded with it; any other page, or an item that is left, faults the tile. -/
def lostRead (s : State) (t : Nat) (i : Item) (page : Nat) : State :=
  let s := settleWork (meetLost s page)
  if (s.tile t).itemOver i then s else tileFault s t i 5 0

/-- LDW is issued (R238, R600): the Stoker stalls until LDW_DATA. -/
def execLdw (tile : Nat) (s : State) : Out :=
  atWord s tile 2 0x02 fun k w =>
    let a := memAddr k w
    if a % 8 ≠ 0 || 2 ^ 48 ≤ a then stokerFault s tile k.item 2 0
    else match coherentWsp s k.item.seq (ctxFunc s k.item.ctx) a 8 with
      | .fault c p => tileFault s tile k.item c p
      | .absent ps => waitForPages (setKernel s tile { k with stall := .ldw a (bitsOf w 12 5) }) k.item.ctx k.item.stream ps
      | .lines ls => askLines (setKernel s tile { k with stall := .ldw a (bitsOf w 12 5) }) ls
      | _ => setKernel (meshAsk s tile a) tile { k with stall := .ldw a (bitsOf w 12 5) }

/-- A tile meets an uncorrectable DRAM copy of page `q`: recovery tries the others, and where none is good the page is LOST and the read
ends as R394 says; `go` goes on with a read that recovery delivers (R392). An address without a page of this module's is the peer's
line: the tile faults. -/
def badRead (s : State) (t : Nat) (i : Item) (q : Nat) (go : State → Out) : Out :=
  if (s.page q).isNone then .next (settleWork (tileFault s t i 5 0))
  else
    let s := recoverRead s t q
    if (s.page q).any fun d => d.lost then .next (lostRead s t i q) else go s

/-- LDW_DATA (R238, R392, R394), with whether the DRAM copy that the tile reads is uncorrectable. -/
def execLdwData (tile : Nat) (bad : Bool) (s : State) : Out :=
  match wordOf s tile with
  | none => .next s
  | some (k, _) =>
    match k.stall with
    | .ldw a dst =>
      (match coherentWsp s k.item.seq (ctxFunc s k.item.ctx) a 8 with
       | .ok bs =>
         let go := fun (s : State) =>
           .next (setKernel (meshAnswer (noteReads s a 8) tile a) tile ((k.setReg dst (BitVec.ofNat 64 (leNat bs))).next))
         if bad then badRead s tile k.item (pageOf a) go else go s
       | .fault c p => .next (tileFault s tile k.item c p)
       | .absent ps => .next (waitForPages s k.item.ctx k.item.stream ps)
       | .lines ls => .next (askLines s ls)
       | .lost p => .next (lostRead s tile k.item p))
    | _ => .next s

/-! ## Branches and loops (R245, R246) -/

/-- TARGET of a branch or loop word. -/
def targetOf (w : Nat) : Nat := bitsOf w 32 16

/-- The kernel at a branch's target; loops it leaves are closed. -/
def Kernel.jump (k : Kernel) (code : List Word) (t : Nat) : Kernel :=
  { k with
    pc := t, stall := .none
    loops := k.loops.dropWhile fun l => !(l.at_ < t && t ≤ targetOf (wordAt code l.at_)) }

/-- The code a tile runs. -/
def Tile.code (x : Tile) : List Word := match x.program with | some p => p.code | none => []

/-- A branch word: to TARGET if the comparison of SRCA with SRCB holds (R238). -/
def branchWord (s : State) (t op : Nat) (p : Word → Word → Bool) : Out :=
  atWord s t 3 op fun k w =>
    if p (k.reg (bitsOf w 12 5)) (k.reg (bitsOf w 17 5)) then setKernel s t (k.jump (s.tile t).code (targetOf w))
    else setKernel s t k.next

def execJmp (tile : Nat) (s : State) : Out := branchWord s tile 0x00 fun _ _ => true
def execBeq (tile : Nat) (s : State) : Out := branchWord s tile 0x01 fun a b => a == b
def execBne (tile : Nat) (s : State) : Out := branchWord s tile 0x02 fun a b => a != b
def execBltu (tile : Nat) (s : State) : Out := branchWord s tile 0x03 fun a b => a.ult b
def execBgeu (tile : Nat) (s : State) : Out := branchWord s tile 0x04 fun a b => !a.ult b

/-- LOOP (R246): a count of zero passes the loop by; one above CEIL faults. -/
def execLoop (tile : Nat) (s : State) : Out :=
  atWord s tile 3 0x08 fun k w =>
    let n := (k.reg (bitsOf w 12 5)).toNat
    let dst := bitsOf w 17 5
    if n = 0 then setKernel s tile { k with pc := targetOf w + 1, stall := .none }
    else if bitsOf w 48 16 < n then stokerFault s tile k.item 4 0
    else
      let f : LoopFrame := { at_ := k.pc, count := n, index := 0, dst }
      setKernel s tile { (k.setReg dst 0).next with loops := f :: k.loops }

/-- ENDLOOP (R246): the next iteration with its index in SRCB, or the word after the loop. -/
def execEndloop (tile : Nat) (s : State) : Out :=
  atWord s tile 3 0x09 fun k _ =>
    match k.loops with
    | [] => setKernel s tile k.next
    | f :: rest =>
      if f.index + 1 < f.count then
        let k := k.setReg f.dst (BitVec.ofNat 64 (f.index + 1))
        setKernel s tile { k with pc := f.at_ + 1, stall := .none, loops := { f with index := f.index + 1 } :: rest }
      else setKernel s tile { k.next with loops := rest }

/-! ## Control words (R230, R235, R238) -/

def execRicNop (tile : Nat) (s : State) : Out := atWord s tile 6 0x00 fun k _ => setKernel s tile k.next

/-- END: the kernel ends, and a command-list boundary follows (R235). -/
def execEnd (tile : Nat) (s : State) : Out :=
  atWord s tile 6 0x01 fun k _ =>
    let s := s.modTile tile fun x => { x with kernel := none }
    let s := itemEnds s tile k.item
    settleWork (swapTile s tile)

/-- The Stoker stops at an EWAIT or a FENCE: TIL_STK_STALL.EVENT counts cycles, a number the model leaves open (R249). -/
def stallEvent (s : State) (t : Nat) (k : Kernel) (w : Stall) : State :=
  let (d, s) := drawFree s
  (setKernel s t { k with stall := w }).modTile t fun x => { x with stallEvent := some d }

/-- EWAIT: the Stoker waits for the event and takes one signal of it (R230). -/
def execEwait (tile : Nat) (s : State) : Out :=
  atWord s tile 6 0x02 fun k w =>
    let e := bitsOf w 12 4
    let n := (s.tile tile).event e
    if n = 0 then stallEvent s tile k (.event e)
    else (setKernel s tile k.next).modTile tile fun x => x.setEvent e (n - 1)

/-- ESIG: one more signal of the event; past 255 it faults (R230, R231). -/
def execEsig (tile : Nat) (s : State) : Out :=
  atWord s tile 6 0x03 fun k w =>
    let e := bitsOf w 12 4
    let n := (s.tile tile).event e
    if 255 ≤ n then stokerFault s tile k.item 5 0
    else (setKernel s tile k.next).modTile tile fun x => x.setEvent e (n + 1)

/-- A command of an item is queued or runs. -/
def Tile.outstanding (x : Tile) (i : Item) : Bool :=
  (x.q0 ++ x.q1 ++ x.q2 ++ x.q3).any (fun c => c.item = i) || x.flight.any (fun f => f.cmd.item = i)

/-- FENCE: the Stoker waits until every command of this kernel has completed (R238). -/
def execRicFence (tile : Nat) (s : State) : Out :=
  atWord s tile 6 0x04 fun k _ =>
    if (s.tile tile).outstanding k.item then stallEvent s tile k .fence else setKernel s tile k.next

/-- TRAP: USER_TRAP, with CODE in TIL_FAULT_INFO (R247, R248). -/
def execTrap (tile : Nat) (s : State) : Out :=
  atWord s tile 6 0x05 fun k w => stokerFault s tile k.item 9 (bitsOf w 16 16)

/-! ## Engine commands are issued (R229, R239–R244) -/

/-- An OPERAND word resolved with the registers: its generator, or TRIP_CEILING for a count above its ceiling (R241,
R244). -/
def resolveOp (p : Program) (k : Kernel) (c : RawCmd) (o : RawOp) : Option Opnd :=
  let g := genAt p.const o.agd
  let v := (k.reg o.cntReg).toNat
  let dyn := o.cntReg ≠ 0
  if dyn && g.counts.getD o.dynLevel 0 < v then none
  else
    let counts := if dyn then g.counts.set o.dynLevel v else g.counts
    some { role := o.role, space := o.space, base := g.base + (k.reg o.baseReg).toNat, unit := g.unit
           levels := counts.zip g.strides, fmt := fmtOfRole c o, agd := o.agd }

/-- The binding whose experts a kernel runs, if it skips (R217). -/
def skipBinding (p : Program) (i : Item) : Option Binding :=
  if i.kind ≠ 0 then none
  else p.bindings.find? fun b => b.layer = i.layer && b.tripEntry = i.entry && b.skipDesc ≠ 0

/-- What the binding names the command at a CODE index as (R201, R217). -/
def partOf (p : Program) (b : Binding) (c : RawCmd) (i : Nat) : Nat :=
  if c.engine = 0 && c.op = 1 then
    let agd := fun (r : RawCmd) => (r.role 0).map RawOp.agd
    if agd c = agd (rawCmd p.code b.predInsn) then 1 else 2
  else if i = b.predInsn then 1 else if i = b.compInsn then 2 else if i = b.actInsn then 3
  else if i = b.downInsn then 4 else 0

/-- The element counts of a vector instruction's operands disagree at issue (R601). -/
def countsDiffer (c : RawCmd) (os : List Opnd) : Bool :=
  let red := 0x20 ≤ c.op
  let cnt := fun (o : Opnd) => (elemCount o.fmt o.unit o.total).getD 0
  let counted := os.filter fun o => !(c.op = 4 && o.role = 2) && !(red && o.role = 3)
  match counted.map cnt with
  | [] => false
  | n :: t => t.any fun m => m != n

/-- The slot a return-space operand reaches is not below FILLED of the trip record (R242). -/
def slotBad (s : State) (k : Kernel) (os : List Opnd) : Bool :=
  let filled := if k.item.kind = 0 then bitsOf k.item.payload 32 17 else 0
  os.any fun o => o.space = 2 && o.addrs.any fun a => filled * retRow s k.item.seq ≤ a

/-- The group of stationary rows and the first neuron of a bound instruction as it is issued: main passes follow one another
through the expert's neurons, and again for each further group of rows (R200, R204). -/
def issuePlace (k : SkipState) (part n : Nat) : Nat × Nat :=
  if n = 0 then (0, 0)
  else if part = 1 then (k.predIssued / n, k.predIssued % n)
  else if part = 2 then (k.compIssued / n, k.compIssued % n)
  else ((k.predIssued - 1) / n, 0)

/-- A main pass of `n` neurons has been issued. -/
def noteIssued (k : SkipState) (part n : Nat) : SkipState :=
  if part = 1 then { k with predIssued := k.predIssued + n }
  else if part = 2 then { k with compIssued := k.compIssued + n } else k

/-- The write-out control byte of a command: RET_WOC for a write into the return space (R127). -/
def wocOf (s : State) (i : Item) (woc : Nat) (os : List Opnd) : Nat :=
  if os.any fun o => o.role = 3 && o.space = 2 then
    match s.step i.seq with | some x => x.xchg.retWoc | none => woc
  else woc

/-- The Stoker stalls before a command: TIL_STK_STALL.QFULL counts cycles, a number the model leaves open (R229, R249). -/
def stallFull (s : State) (t : Nat) (k : Kernel) : State :=
  let (d, s) := drawFree s
  (setKernel s t { k with stall := .queueFull }).modTile t fun x => { x with stallFull := some d }

/-- An engine command at the Stoker's word is issued to its queue, or stalls it, or faults (R229, R236, R242, R244, R247,
R601). -/
def issueWord (s : State) (t engine op : Nat) : Out :=
  match wordOf s t, (s.tile t).program with
  | some (k, w), some p =>
    let c := rawCmd p.code k.pc
    if bitsOf w 0 4 ≠ 4 || c.engine ≠ engine || c.op ≠ op || k.awaiting then .next s
    else
      let x := s.tile t
      if queueDepth engine ≤ (x.queue engine).length || pointHeld s 1 t engine then .next (stallFull s t k)
      else if k.fetchBad (1 + c.xwords) then .next (stokerFault s t k.item 0 0)
      else if c.ops.any fun o => k.dmemBad (8 * o.agd) 64 then .next (stokerFault s t k.item 1 0)
      else match allSome (c.ops.map (resolveOp p k c)) with
        | none => .next (stokerFault s t k.item 4 0)
        | some os =>
          let idle := os.any fun o => o.total = 0
          if !idle && engine = 1 && countsDiffer c os then .next (stokerFault s t k.item 11 0)
          else if !idle && slotBad s k os then .next (stokerFault s t k.item 10 0)
          else
            let b := skipBinding p k.item
            let part := match b with | some b => partOf p b c k.pc | none => 0
            let skip := b.bind (bindingSkip s)
            let sk := x.skipOf k.item
            let place := issuePlace sk part (match skip with | some d => d.n | none => 0)
            let on := fun (e v : Nat) => if bitOf w e then some (bitsOf w v 4) else none
            let writer := if engine = 0 && op = 1 then (match b with
              | some b => if part = 1 then b.predInsn else b.compInsn
              | none => k.pc) else k.pc
            let cmd : EngCmd :=
              { engine, op, at_ := writer, item := k.item, waitA := on 16 12, waitB := on 21 17, signal := on 26 22
                woc := wocOf s k.item c.woc os, fmtA := c.fmtA, fmtB := c.fmtB, fn := c.fn, opnds := os, shape := c.shapes.head?, idle
                part, skip, grp := place.1, base := place.2, regions := p.regions }
            let s := if skip.isSome then setSkip s t (noteIssued sk part (match c.shapes.head? with | some sh => sh.neurons | none => 0)) else s
            let s := (injectAt s 1 t engine).modTile t fun x => x.setQueue engine (x.queue engine ++ [cmd])
            .next (setKernel s t { k with pc := k.pc + 1 + c.xwords, stall := .none })
  | _, _ => .next s

def execPass (tile : Nat) (s : State) : Out := issueWord s tile 0 0x00
def execMakeup (tile : Nat) (s : State) : Out := issueWord s tile 0 0x01
def execVecAdd (tile : Nat) (s : State) : Out := issueWord s tile 1 0x00
def execVecSub (tile : Nat) (s : State) : Out := issueWord s tile 1 0x01
def execVecMul (tile : Nat) (s : State) : Out := issueWord s tile 1 0x02
def execFma (tile : Nat) (s : State) : Out := issueWord s tile 1 0x03
def execScale (tile : Nat) (s : State) : Out := issueWord s tile 1 0x04
def execVecMin (tile : Nat) (s : State) : Out := issueWord s tile 1 0x05
def execVecMax (tile : Nat) (s : State) : Out := issueWord s tile 1 0x06
def execAbs (tile : Nat) (s : State) : Out := issueWord s tile 1 0x07
def execNeg (tile : Nat) (s : State) : Out := issueWord s tile 1 0x08
def execSelect (tile : Nat) (s : State) : Out := issueWord s tile 1 0x09
def execCvt (tile : Nat) (s : State) : Out := issueWord s tile 1 0x0A
def execDiv (tile : Nat) (s : State) : Out := issueWord s tile 1 0x0B
def execSqrt (tile : Nat) (s : State) : Out := issueWord s tile 1 0x0C
def execExp (tile : Nat) (s : State) : Out := issueWord s tile 1 0x0D
def execLog (tile : Nat) (s : State) : Out := issueWord s tile 1 0x0E
def execRsqrt (tile : Nat) (s : State) : Out := issueWord s tile 1 0x0F
def execSigmoid (tile : Nat) (s : State) : Out := issueWord s tile 1 0x10
def execTanh (tile : Nat) (s : State) : Out := issueWord s tile 1 0x11
def execRelu (tile : Nat) (s : State) : Out := issueWord s tile 1 0x12
def execRelu2 (tile : Nat) (s : State) : Out := issueWord s tile 1 0x13
def execGeluTanh (tile : Nat) (s : State) : Out := issueWord s tile 1 0x14
def execSilu (tile : Nat) (s : State) : Out := issueWord s tile 1 0x15
def execActMul (tile : Nat) (s : State) : Out := issueWord s tile 1 0x16
def execRsum (tile : Nat) (s : State) : Out := issueWord s tile 1 0x20
def execRsumsq (tile : Nat) (s : State) : Out := issueWord s tile 1 0x21
def execRdot (tile : Nat) (s : State) : Out := issueWord s tile 1 0x22
def execRmax (tile : Nat) (s : State) : Out := issueWord s tile 1 0x23
def execRmin (tile : Nat) (s : State) : Out := issueWord s tile 1 0x24
def execRargmax (tile : Nat) (s : State) : Out := issueWord s tile 1 0x25
def execRargmin (tile : Nat) (s : State) : Out := issueWord s tile 1 0x26
def execCopyIn (tile : Nat) (s : State) : Out := issueWord s tile 2 0x00
def execCopyOut (tile : Nat) (s : State) : Out := issueWord s tile 2 0x01
def execCopy (tile : Nat) (s : State) : Out := issueWord s tile 2 0x02
def execFill (tile : Nat) (s : State) : Out := issueWord s tile 2 0x03
def execEval (tile : Nat) (s : State) : Out := issueWord s tile 3 0x00

/-! ## Engines start and complete commands (R230) -/

/-- The events a command waits on are there: one named twice wants two signals (R230). -/
def waitsMet (x : Tile) (c : EngCmd) : Bool :=
  match c.waitA, c.waitB with
  | none, none => true
  | some a, none => 1 ≤ x.event a
  | none, some b => 1 ≤ x.event b
  | some a, some b => if a = b then 2 ≤ x.event a else 1 ≤ x.event a && 1 ≤ x.event b

/-- The signals a command takes when it starts (R230). -/
def takeWaits (x : Tile) (c : EngCmd) : Tile :=
  let dec := fun (x : Tile) (e : Option Nat) => match e with
    | some e => x.setEvent e (x.event e - 1)
    | none => x
  dec (dec x c.waitA) c.waitB

/-- Commands an engine may have in flight: a pass accumulates while the next is taken and the one before writes out
(R160, R229); the other engines have one. -/
def engineSlots (e : Nat) : Nat := if e = 0 then 3 else 1

/-- Active slots are added to the tally of the resident slot whose step owns the pass (R582). A pass of a stream in no slot, which no
rule gives a tally, counts as resolved without commit (DESIGN CHOICE). -/
def addActive (s : State) (t n : Nat) (i : Item) (makeup : Bool) : State :=
  if n = 0 then s
  else match (s.stream i.ctx i.stream).slot with
    | some k => s.modTile t fun x =>
        let y := lookupD {} k x.tally
        { x with tally := insertK k { active := y.active + n, makeup := y.makeup + (if makeup then n else 0) } x.tally }
    | none => count s (bankTil t) (if makeup then 22 else 21) n

/-- The slots in which `beats` beats enter an array of `g` groups: one each, or up to `g` together, which is timing and free (R583). -/
def activeSlots (s : State) (beats g : Nat) : Nat × State :=
  if g ≤ 1 || beats ≤ 1 then (beats, s)
  else
    let (d, s) := drawFree s
    let lo := ceilDiv beats g
    (lo + Config.freeChoice d 0 % (beats - lo + 1), s)

/-- Beats, packed beats and logical MACs go into the array, of `g` groups, for a pass of item `i` (R159, R186, R582). -/
def countArray (s : State) (t beats macs : Nat) (packed : Bool) (g : Nat) (i : Item) (makeup : Bool) : State :=
  let s := count s (bankTil t) 2 beats
  let (n, s) := activeSlots s beats g
  let s := addActive s t n i makeup
  let s := (injectMany 2 t beats s).2
  let s := if packed then count s (bankTil t) 6 beats else s
  let m := (s.tile t).macs + macs
  count (s.modTile t fun x => { x with macs := m % 4096 }) (bankTil t) 3 (m / 4096)

/-- Neurons of a class among those of a main pass. -/
def classCount (k : SkipState) (c : EngCmd) (n : Nat) (p : Nat → Bool) : Nat :=
  ((upFrom c.base n).filter fun i => p (lookupD 2 (neuronKey c.grp i) k.classes)).length

/-- The hidden neurons that a down-projection keeps, block by block of 32, where it leaves out those classified SKIP
(R173, R203). -/
def keptBlocks (k : SkipState) (g n : Nat) : List Nat :=
  (upFrom 0 (ceilDiv n 32)).map fun b =>
    ((upFrom (32 * b) (min 32 (n - 32 * b))).filter fun i => lookupD 2 (neuronKey g i) k.classes ≠ 0).length

/-- What a pass sends: beats, MACs and octet lanes, and the neurons left out (R159, R170, R172, R173, R186, R203). DEDUCED: a
merged reduction fills its octets block by block, and its beats octet by octet; a packed TRANSPOSED stream is counted as the dense
one it becomes (R166); in COL mode a neuron's beats cover the stationary columns that DEST visits (R165). -/
def countPass (s : State) (t : Nat) (c : EngCmd) : State :=
  match c.shape, c.role 1 with
  | some sh, some b =>
    if c.idle then s
    else match chunkLen c.fmtA c.fmtB (sh.packed && !sh.transposed) with
      | none => s
      | some kc =>
        let rows := b.count 1
        let packed := sh.packed && !sh.transposed
        let k := (s.tile t).skipOf c.item
        let mode := c.mode (s.tile t)
        let skips := (c.part = 1 || c.part = 2) && mode ≠ 0
        let neurons := sh.neurons - (if skips then classCount k c sh.neurons (· ≠ 2) else 0)
        let s := if skips then count s (bankTil t) 7 (classCount k c sh.neurons (· = 0)) else s
        if c.part = 4 && mode = 1 then
          let kept := keptBlocks k c.grp sh.k
          let octet := max 1 (kc / 8)
          let lanes := kept.foldl (· + ·) 0
          let beats := ceilDiv ((kept.map fun n => ceilDiv n octet).foldl (· + ·) 0) 8
          let s := count s (bankTil t) 8 (neurons * (beats * kc - lanes))
          countArray s t (beats * neurons) (neurons * rows * lanes) packed (2 ^ sh.shape) c.item false
        else if sh.col then
          let cols := match c.role 3 with | some o => o.total | none => 0
          countArray s t (neurons * ceilDiv cols kc) (neurons * rows * cols) packed (2 ^ sh.shape) c.item false
        else
          countArray s t (ceilDiv sh.k (max 1 (kc / sh.segs)) * ceilDiv neurons sh.segs) (neurons * rows * sh.k) packed
            (2 ^ sh.shape) c.item false
  | _, _ => s

/-- What the batches of a make-up command send: each is a pass in SHAPE 2 of the union of its rows (R186, R201). -/
def countMakeup (s : State) (t : Nat) (c : EngCmd) : State :=
  match c.skip with
  | none => s
  | some d => match chunkLen c.fmtA c.fmtB d.srcPacked with
    | none => s
    | some kc =>
      (makeupBatches (makeupEntries ((s.tile t).skipOf c.item) (c.part = 1))).foldl (fun s b =>
        let mask := b.foldl (fun m q => m ||| q.2) 0
        let rows := ((upFrom 0 64).filter (bitOf mask)).length
        countArray (count s (bankTil t) 10) t (ceilDiv d.k kc * b.length) (b.length * rows * d.k) d.srcPacked 4 c.item true) s

/-- Scratchpad ranges that a command's operands read. -/
def cmdReads (c : EngCmd) : List (Nat × Nat) :=
  (c.opnds.filter fun o => o.role ≠ 3 && o.space = 0).flatMap fun o => o.addrs.map fun a => (a, o.unit)

/-- Weight-space ranges that a command's operands read. -/
def cmdFetches (c : EngCmd) : List (Nat × Nat) :=
  (c.opnds.filter fun o => o.role ≠ 3 && o.space = 1).flatMap fun o => o.addrs.map fun a => (a, o.unit)

/-- Two lists of ranges meet. -/
def anyMeet (l m : List (Nat × Nat)) : Bool := l.any fun a => m.any fun b => rangesMeet a.1 a.2 b.1 b.2

/-- Scratchpad ranges that a started command will write. -/
def InFlight.writes (f : InFlight) : List (Nat × Nat) := f.eff.spad.map fun w => (w.1, w.2.length)

/-- The parts of ranges `l` that ranges `m` cover. -/
def shared (l m : List (Nat × Nat)) : List (Nat × Nat) :=
  l.flatMap fun a => m.filterMap fun b =>
    let lo := max a.1 b.1
    let hi := min (a.1 + a.2) (b.1 + b.2)
    if lo < hi then some (lo, hi - lo) else none

/-- A command joins those in flight, and nothing orders it among them (R155, R230). Where one reads scratchpad bytes that another
writes, what the reader writes is open; where two write the same bytes, those bytes are. -/
def joinFlight (l : List InFlight) (f : InFlight) : List InFlight :=
  l.map (fun g => { g with raced := g.raced || anyMeet f.writes g.reads, contested := g.contested ++ shared g.writes f.writes }) ++
    [{ f with raced := l.any fun g => anyMeet g.writes f.reads, contested := l.flatMap fun g => shared g.writes f.writes }]

/-- The first activation, and the first down-projection, of a group takes the signal of its make-up (R222). -/
def takeMade (x : Tile) (c : EngCmd) : Tile :=
  let k := x.skipOf c.item
  if c.part = 3 && k.tookAct ≤ c.grp && c.grp < k.signalled then
    (x.setSkip { k with tookAct := c.grp + 1 }).setEvent 14 (x.event 14 - 1)
  else if c.part = 4 && k.tookDown ≤ c.grp && c.grp < k.signalled then
    (x.setSkip { k with tookDown := c.grp + 1 }).setEvent 15 (x.event 15 - 1)
  else x

/-- A command is taken from its queue and runs (R229, R230). -/
def beginCmd (s : State) (t engine : Nat) (c : EngCmd) (e : Effects) : State :=
  let s := s.modTile t fun x =>
    let x := takeMade (takeWaits (x.setQueue engine ((x.queue engine).drop 1)) c) c
    { x with flight := joinFlight x.flight { cmd := c, eff := e, reads := if c.idle then [] else cmdReads c }
             lastWork := s.ticks }
  let s := if c.idle then s else (cmdFetches c).foldl (fun s d => noteReads s d.1 d.2) s
  if engine = 0 && c.op = 0 then countPass s t c
  else if engine = 0 && c.op = 1 then countMakeup s t c else s

/-- The engine runs the command at the front of its queue, or stops at what it meets. -/
def startCmd (s : State) (tile engine : Nat) (c : EngCmd) : Out :=
  match runCommand s tile (ctxFunc s c.item.ctx) c with
  | .done e s => .next (beginCmd s tile engine c e)
  | .fault k a => .next (settleWork (tileFault s tile c.item k a))
  | .skip k n r => .next (settleWork (skipFault s tile c.item k n r))
  | .hold => .next s
  | .wait (.absent ps) => .next (waitForPages s c.item.ctx c.item.stream ps)
  | .wait (.lines ls) => .next (askLines s ls)
  | .wait (.lost p) => .next (lostRead s tile c.item p)
  | .wait _ => .next s

/-- ENGINE_CMD_START (R154, R156, R184, R230, R390, R392, R394), with what the engine's error checks meet. -/
def execEngineCmdStart (tile engine : Nat) (ecc : EngineEcc) (s : State) : Out :=
  let x := s.tile tile
  match x.queue engine with
  | [] => .next s
  | c :: _ =>
    if !x.runs || 4 ≤ engine || !waitsMet x c || engineSlots engine ≤ (x.flight.filter fun f => f.cmd.engine = engine).length ||
        (engine = 0 && mmaHeld s) then .next s
    else match ecc with
      | .spadUncorr a => .next (settleWork (hwFault s tile c.item 2 a))
      | .accUncorr => .next (settleWork (hwFault s tile c.item 4 0))
      | .bondUncorr => match (cmdFetches c).head? with
        | none => startCmd s tile engine c
        | some d => badRead s tile c.item (pageOf d.1) fun s => startCmd s tile engine c
      | .corrected n a =>
        let s := corrected s tile n a
        if !(s.tile tile).runs || ((s.tile tile).queue engine).isEmpty then .next s else startCmd s tile engine c
      | .clean => startCmd s tile engine c

/-- Bytes as a raced command leaves them: nothing fixes them (R155). -/
def openBytes (d a : Nat) (bs : List Byte) : List Byte := (upFrom a bs.length).map (Config.freeByte d)

/-- Bytes at `a`, those in the ranges `l` as nothing fixes them (R155). -/
def openWithin (l : List (Nat × Nat)) (d a : Nat) (bs : List Byte) : List Byte :=
  (upFrom 0 bs.length).map fun i =>
    if l.any fun r => r.1 ≤ a + i && a + i < r.1 + r.2 then Config.freeByte d (a + i) else bs.getD i 0

/-- What a command in flight writes: open where it raced for what it read, in the bytes that another wrote too, and where its
work has been discarded (R155, R271). -/
def InFlight.settled (f : InFlight) (d : Nat) : Effects :=
  if !(f.raced || f.dead) then { f.eff with spad := f.eff.spad.map fun w => (w.1, openWithin f.contested d w.1 w.2) }
  else { f.eff with
    spad := f.eff.spad.map fun w => (w.1, openBytes d w.1 w.2)
    wsp := f.eff.wsp.map fun w => (w.1, openBytes d w.1 w.2)
    ret := f.eff.ret.map fun w => (w.1, w.2.1, openBytes d (w.1 * 2 ^ 16 + w.2.1) w.2.2) }

/-- The writes of a command land: scratchpad, weight space and return rows (R127, R239). -/
def landWrites (s : State) (t : Nat) (f : InFlight) : State :=
  let i := f.cmd.item
  let (d, s) := if f.dead || f.raced || !f.contested.isEmpty then drawFree s else (0, s)
  let e := f.settled d
  let s := s.modTile t fun x => e.spad.foldl (fun x w => if f.dead then x.writeSpad w.1 w.2 else x.stepWrite i.seq w.1 w.2) x
  if f.dead then s
  else
    let s := e.wsp.foldl (fun s w => coherentWrite s (fun s a bs => ownWrite s i.seq a bs) w.1 w.2) s
    e.ret.foldl (fun s w => writeReturn s i.seq (i.payload % 2 ^ 16) w.1 w.2.1 w.2.2) s

/-- What a completed command adds to its expert's skip state: verdicts and passes written out, make-up entries computed
(R195, R200, R202). -/
def skipAfter (k : SkipState) (f : InFlight) : SkipState :=
  let c := f.cmd
  let n := (c.shape.getD {}).neurons
  if c.engine = 3 then { k with evals := f.eff.evald.foldl (fun t i => insertK i (lookupD 0 i t + 1) t) k.evals }
  else if c.engine = 0 && c.op = 1 then
    (if c.part = 1 then { k with madePred := k.madePred + f.eff.made }
     else { k with madeComp := k.madeComp + f.eff.made }).settle c.gated
  else if c.part = 1 then { k with predDone := k.predDone + n }
  else if c.part = 2 then { k with compDone := k.compDone + n }
  else k

/-- A group of rows whose make-up is all written out signals events 14 and 15, once (R222). DESIGN CHOICE: the spec gives the
two events to the loader and not how it uses them. -/
def signalMade (x : Tile) (c : EngCmd) : Tile :=
  let k := x.skipOf c.item
  if c.mode x ≠ 0 && groupMade k c k.signalled && 0 < k.predDone then
    ((x.setSkip { k with signalled := k.signalled + 1 }).setEvent 14 (min 255 (x.event 14 + 1))).setEvent 15 (min 255 (x.event 15 + 1))
  else x

/-- A completed command's part in its expert's skip state. -/
def landSkip (s : State) (t : Nat) (f : InFlight) : State :=
  if f.cmd.skip.isNone then s
  else s.modTile t fun x => signalMade (x.setSkip (skipAfter (x.skipOf f.cmd.item) f)) f.cmd

/-- The lines a command's weight-space writes want held (R453). -/
def wantedLines (s : State) (f : InFlight) : List LineNeed :=
  if f.dead then [] else f.eff.wsp.flatMap fun w => match coherentReady s w.1 w.2.length with
    | .lines ls => ls
    | _ => []

/-- ENGINE_CMD_COMPLETE (R230, R231): the writes have landed, and the event is signalled. -/
def execEngineCmdComplete (tile engine : Nat) (s : State) : Out :=
  let x := s.tile tile
  match x.flight.find? fun f => f.cmd.engine = engine with
  | none => .next s
  | some f =>
    if !x.runs then .next s
    else match wantedLines s f with
      | l :: ls => .next (askLines s (l :: ls))
      | [] =>
        let c := f.cmd
        let s := landWrites s tile f
        let s := s.modTile tile fun x => { x with flight := x.flight.erase f, lastWork := s.ticks }
        if f.dead then .next (settleWork s)
        else
          let s := landSkip s tile f
          let full := match c.signal with | some e => decide (255 ≤ (s.tile tile).event e) | none => false
          if full then .next (settleWork (stokerFault s tile c.item 5 0))
          else
            let s := match c.signal with
              | some e => s.modTile tile fun x => x.setEvent e (x.event e + 1)
              | none => s
            .next (settleWork (itemEnds s tile c.item))

/-! ## Deadlock, teardown, halt and clock -/

/-- WAIT_DEADLOCK (R231): 4,096 tile cycles with no engine busy and the Stoker waiting. -/
def execWaitDeadlock (tile : Nat) (s : State) : Out :=
  let x := s.tile tile
  match x.kernel with
  | none => .next s
  | some k =>
    let waits := match k.stall with
      | .event e => decide (x.event e = 0)
      | .fence => x.outstanding k.item
      | .queueFull => (match x.program with
        | some p => decide (queueDepth (rawCmd p.code k.pc).engine ≤ (x.queue (rawCmd p.code k.pc).engine).length)
        | none => false)
      | _ => false
    if x.runs && waits && x.idle then .next (settleWork (stokerFault s tile k.item 6 0)) else .next s

/-- TEARDOWN_COMPLETE (R248): the faulted tile returns to service, its event counters at zero. -/
def execTeardownComplete (tile : Nat) (s : State) : Out :=
  let x := s.tile tile
  if !x.faulted then .next s
  else .next (s.setTile tile { x with faulted := false, draining := false, events := [] })

/-- KILL_DRAIN_DONE (R232): no engine is busy, and every event counter becomes zero. -/
def execKillDrainDone (tile : Nat) (s : State) : Out :=
  let x := s.tile tile
  if !x.draining || x.faulted || !x.idle then .next s
  else .next (settleWork (s.setTile tile { x with draining := false, events := [] }))

/-- TILE_HALT (R16, R182, R183): TIL_CTL.HALT is written; a gated tile and one that is fused off ignore it. -/
def execTileHalt (tile : Nat) (value : Bool) (s : State) : Out :=
  if (s.tile tile).rowOn && roleOf s tile ≠ .dark then .next (setFld s Fld.TIL_CTL_HALT (b2n value) tile) else .next s

/-- HALT has taken effect (R183). -/
def tileHalted (s : State) (t : Nat) : Bool :=
  let x := s.tile t
  flag s Fld.TIL_CTL_HALT t && x.kernel.isNone && x.idle && x.q0.isEmpty && x.q1.isEmpty && x.q2.isEmpty && x.q3.isEmpty

/-- TILE_CLOCK_START (R180). -/
def execTileClockStart (tile : Nat) (s : State) : Out :=
  let x := s.tile tile
  if !x.rowOn || x.clkOn || roleOf s tile = .failed || roleOf s tile = .dark then .next s
  else .next (settleWork (count (s.setTile tile { x with clkOn := true, lastWork := s.ticks }) (bankTil tile) 1))

/-- TILE_CLOCK_STOP (R181, R183, R531): nothing holds the clock, a halted tile's queue included, and the idle window has
passed. -/
def execTileClockStop (tile : Nat) (s : State) : Out :=
  let x := s.tile tile
  let work := !x.items.isEmpty || x.kernel.isSome || !x.idle ||
    !x.q0.isEmpty || !x.q1.isEmpty || !x.q2.isEmpty || !x.q3.isEmpty
  let fault := raw s Reg.TIL_FAULT tile ≠ 0 || x.faulted
  if !x.clkOn || work || fault || flag s Fld.TIL_CTL_CLK_HOLD tile then .next s
  else .next (s.setTile tile { x with clkOn := false })

end Sys2Proof.Machine
end

