-- ==== Sys2Proof/Machine/Power.lean ====
section
/-!
DEFINITION. The ember controller: power states and domains, gating on demand, throttling, thermal protection and clocks
(R522–R540).
-/
namespace Sys2Proof.Machine

/-! ## Domains (R525) -/

/-- STATE of PWR_STATUS (R547). -/
def powerState (s : State) : Nat := fld s Fld.PWR_STATUS_STATE

/-- The domain is powered; the ember domain is wherever 12 V standby is present (R23, R525). -/
def domainOn (s : State) (d : Nat) : Bool := if d = 0 then s.pwr.standbyOn else bitOf (fld s Fld.PWR_DOMAINS_ON) d

/-- The bits of a domain in PWR_DOMAINS and PWR_STATUS; one that is switched off has its counters saved (R524). -/
def setDomainBit (s : State) (d : Nat) (on : Bool) : State :=
  let savedAt := if on then eraseK d s.pmc.savedAt else insertK d s.ticks s.pmc.savedAt
  let s := { s with pmc := { s.pmc with savedAt } }
  let on := setFld s Fld.PWR_DOMAINS_ON (putBits (fld s Fld.PWR_DOMAINS_ON) d 1 (b2n on))
  let m := fld on Fld.PWR_DOMAINS_ON
  setFld (setFld on Fld.PWR_STATUS_ROWS_ON (m / 2 ^ 16)) Fld.PWR_STATUS_RE_PAIRS_ON (m / 2 ^ 12)

/-- The ports of a base die. -/
def portsOfDie (die : Nat) : List Nat := upFrom (5 * die) 5

/-- The physical tiles of a row. -/
def tilesOfRow (row : Nat) : List Nat := upFrom (8 * row) 8

/-- A tile whose row is gated: images stay with the module, everything R157 names is lost; `d` names the values its
scratchpad holds after the next wake. -/
def Tile.gated (x : Tile) (d : Nat) : Tile :=
  { bank0 := x.bank0, bank1 := x.bank1, active := x.active, loadLocks := x.loadLocks, spadFree := some d }

/-- The tiles of a row lose their power. -/
def gateTiles (s : State) (row : Nat) : State :=
  (tilesOfRow row).foldl (fun s t => let (d, s) := drawFree s; s.modTile t fun x => x.gated d) s

/-- The tiles of a row have power again. -/
def powerTiles (s : State) (row : Nat) : State :=
  (tilesOfRow row).foldl (fun s t => s.modTile t fun x => { x with rowOn := true }) s

/-- A domain is switched off. -/
def switchOff (s : State) (d : Nat) : State :=
  if !domainOn s d then s
  else
    let s := setDomainBit s d false
    if 16 ≤ d then gateTiles s (d - 16)
    else if 3 ≤ d && d ≤ 6 then (portsOfDie (d - 3)).foldl portFollow s
    else s

/-- A domain is switched on. -/
def switchOn (s : State) (d : Nat) : State :=
  if domainOn s d then s
  else
    let s := setDomainBit s d true
    if 16 ≤ d then powerTiles s (d - 16)
    else if 3 ≤ d && d ≤ 6 then (portsOfDie (d - 3)).foldl portFollow s
    else s

/-- The ROW_MIN lowest-numbered rows that hold an in-service tile (R532). -/
def minRows (s : State) : List Nat :=
  ((upFrom 0 19).filter fun r => (tilesOfRow r).any fun t => roleOf s t = .inService).take (fld s Fld.PWR_CTL_ROW_MIN)

/-! ## Gating on demand (R531–R534, R341) -/

/-- Work waits for a row to wake (R532). -/
def rowWanted (s : State) (row : Nat) : Bool :=
  (tilesOfRow row).any fun t => !(s.tile t).items.isEmpty || (s.tile t).loadLocks != [] ||
    s.xch.steps.any fun e => e.2.waiting.any (fun w => w.1 = t) || e.2.disarmed.any fun l => logicalOf s t = some l

/-- ROW_IDLE_TIMEOUT (R532): the row is gated where gating is on, its tile clocks are stopped, it is free of live state and is
none of the ROW_MIN rows. -/
def execRowIdleTimeout (row : Nat) (s : State) : Out :=
  let idle := (tilesOfRow row).all fun t => !(s.tile t).clkOn
  if 19 ≤ row || !domainOn s (16 + row) || !flag s Fld.PWR_CTL_ROW_GATE_EN || !idle || !rowFree s row ||
      (minRows s).contains row then .next s
  else
    let s := switchOff s (16 + row)
    .next (count { s with pwr := { s.pwr with goingDown := insertSorted (16 + row) s.pwr.goingDown } } bankPwr 1)

/-- A layer step waits for an engine of a pair (R533). -/
def pairWanted (s : State) (pair : Nat) : Bool :=
  s.xch.steps.any fun e => e.2.stage = .queued && (engineUsed e.2.n (2 * pair) || engineUsed e.2.n (2 * pair + 1))

/-- POWER_DOWN_DONE (R534): a wake wanted meanwhile may go on, and is counted. -/
def execPowerDownDone (domain : Nat) (s : State) : Out :=
  if !s.pwr.goingDown.contains domain then .next s
  else
    let s := { s with pwr := { s.pwr with goingDown := s.pwr.goingDown.filter (· ≠ domain) } }
    let wanted := if 16 ≤ domain then rowWanted s (domain - 16) else 12 ≤ domain && domain ≤ 13 && pairWanted s (domain - 12)
    .next (if wanted then count s bankPwr 9 else s)

/-- A takeover that waited for its row goes on: the receive regions of the row's tiles are armed again (R506, R507). The work that they
then hold has met the restore of their images (R236, R477). -/
def resumeRow (s : State) (row : Nat) : State :=
  (tilesOfRow row).foldl timingTile <| settleWork ((tilesOfRow row).foldl (fun s t => match logicalOf s t with
    | some l => rearmTile s l
    | none => s) s)

/-- ROW_WAKE_DONE (R532): the row has power and its tiles have their images (R236). -/
def execRowWakeDone (row : Nat) (s : State) : Out :=
  if 19 ≤ row || domainOn s (16 + row) || s.pwr.goingDown.contains (16 + row) || !stoked s then .next s
  else .next (resumeRow (count (switchOn s (16 + row)) bankPwr 0) row)

/-- RE_PAIR_IDLE_TIMEOUT (R533). -/
def execRePairIdleTimeout (pair : Nat) (s : State) : Out :=
  if 2 ≤ pair || !domainOn s (12 + pair) || !flag s Fld.PWR_CTL_RE_GATE_EN || pairBusy s pair then .next s
  else
    let s := switchOff s (12 + pair)
    .next { s with pwr := { s.pwr with goingDown := insertSorted (12 + pair) s.pwr.goingDown } }

/-- RE_PAIR_WAKE_DONE (R533). -/
def execRePairWakeDone (pair : Nat) (s : State) : Out :=
  if 2 ≤ pair || domainOn s (12 + pair) || s.pwr.goingDown.contains (12 + pair) || !stoked s then .next s
  else .next (count (switchOn s (12 + pair)) bankPwr 2)

/-! ## Smouldering (R526, R527) -/

/-- What entry to Smouldering needs: no open command, no resident stream, rows free of live state, no migration work. -/
def mayIdle (s : State) : Bool :=
  s.cp.cmds.isEmpty && s.ctx.slots.isEmpty && s.wsp.moves.isEmpty && (upFrom 0 19).all (rowFree s)

/-- Entry to Smouldering starts. -/
def startSmoulder (s : State) : State :=
  let s := setFld (setFld s Fld.PWR_STATUS_SMOULDER_PENDING 0) Fld.PWR_STATUS_STATE 4
  { s with pwr := { s.pwr with target := 1 }, pmc := { s.pmc with lowPower := true } }

/-- SMOULDER_IDLE_TIMEOUT (R526). -/
def execSmoulderIdleTimeout (s : State) : Out :=
  if flag s Fld.PWR_CTL_AUTO_SMOULDER && stoked s && mayIdle s then .next (startSmoulder s) else .next s

/-- SMOULDER_ENTRY (R526). -/
def execSmoulderEntry (s : State) : Out :=
  if flag s Fld.PWR_STATUS_SMOULDER_PENDING && stoked s && mayIdle s then .next (startSmoulder s) else .next s

/-- SMOULDER_ENTRY_DONE (R525, R526): domains 12–34 are off. -/
def execSmoulderEntryDone (s : State) : Out :=
  if powerState s ≠ 4 || s.pwr.target ≠ 1 then .next s
  else
    let s := (upFrom 12 23).foldl switchOff s
    let s := setFld s Fld.PWR_STATUS_STATE 2
    .next (count { s with pwr := { s.pwr with target := 0, goingDown := [] } } bankPwr 3)

/-- A write of PWR_REQ with TARGET 0: it ends Smouldering, and cancels a pending entry (R526, R527). -/
def requestStoked (s : State) : State := wakeTrigger (setFld s Fld.PWR_STATUS_SMOULDER_PENDING 0)

/-- A write of PWR_REQ with TARGET 1: entry starts, or waits for its conditions (R526). -/
def requestSmoulder (s : State) : State :=
  if stoked s && mayIdle s then startSmoulder s
  else if stoked s || powerState s = 5 then setFld s Fld.PWR_STATUS_SMOULDER_PENDING 1
  else s

/-- What PWR_ERR_INFO says (R547). -/
def pwrInfo (s : State) (cause sensor unit : Nat) (temp : Int) (reason : Nat) : State :=
  setRaw s Reg.PWR_ERR_INFO 0 0
    (cause + sensor % 16 * 2 ^ 4 + unit % 64 * 2 ^ 8 + (temp % 256).toNat * 2 ^ 16 + reason % 16 * 2 ^ 24)

/-- The first reason of R528 that refuses Banked, if one does. -/
def bankedRefusal (s : State) : Option Nat :=
  let ep := flag s Fld.XRT_EP_VALID && !(flag s Fld.XRT_EP_FENCED && !flag s Fld.XRT_EP_DRAINING && !flag s Fld.XRT_EP_QUARANTINE)
  let st := powerState s
  if !s.cp.cmds.isEmpty then some 1
  else if (upFrom 0 33).any fun f => flag s Fld.CP_CTL_FETCH 0 f then some 2
  else if !s.ctx.slots.isEmpty then some 3
  else if ep then some 4
  else if s.flk.phase ≠ .out then some 5
  else if st = 4 || st = 5 then some 6
  else if st = 6 then some 7
  else none

/-- A write of PWR_REQ with TARGET 2 (R528): the reason of its refusal, if it is refused. -/
def requestBanked (s : State) : Option Nat × State :=
  match bankedRefusal s with
  | some r => (some r, setErr (pwrInfo s 0 0 0 0 r) Fld.PWR_ERR_REQ_REFUSED)
  | none =>
    if powerState s = 0 || powerState s = 3 then (none, s)
    else (none, { setFld s Fld.PWR_STATUS_STATE 4 with pwr := { s.pwr with target := 2 }, pmc := { s.pmc with lowPower := true } })

/-- PWR_REQ_STOKED: only the physical function's view writes PWR_REQ (R547). -/
def execPwrReqStoked (func : Nat) (s : State) : Out := if func = 0 then .next (requestStoked s) else .next s
/-- PWR_REQ_SMOULDER (R526). -/
def execPwrReqSmoulder (func : Nat) (s : State) : Out := if func = 0 then .next (requestSmoulder s) else .next s
/-- PWR_REQ_BANKED (R528). -/
def execPwrReqBanked (func : Nat) (s : State) : Out := if func = 0 then .next (requestBanked s).2 else .next s

/-- BANKED_ENTERED (R528, R563): migration work has ended; the link is in L2 and domains 1–34 are off. -/
def execBankedEntered (s : State) : Out :=
  if powerState s ≠ 4 || s.pwr.target ≠ 2 || !s.wsp.moves.isEmpty then .next s
  else
    let s := send s .pmEnterL23
    let s := setFld (setFld (setFld s Fld.HIF_LINK_SPEED 0) Fld.HIF_LINK_WIDTH 0) Fld.HIF_LINK_FLIT 0
    let s := (upFrom 1 34).foldl switchOff s
    let s := setFld (setFld s Fld.PWR_STATUS_STATE 3) Fld.PWR_STATUS_SMOULDER_PENDING 0
    .next (count { s with pwr := { s.pwr with target := 0, goingDown := [] }, hif := { s.hif with l23 := true } } bankPwr 4)

/-- The exit from Banked starts (R529). -/
def leaveBanked (s : State) : State :=
  if powerState s = 3 then { setFld s Fld.PWR_STATUS_STATE 5 with pwr := { s.pwr with leaving := 3 } } else s

/-- BANKED_EXIT (R529): a WAKE of the chain, or PERST# de-asserted after its assertion. -/
def execBankedExit (byPerst : Bool) (s : State) : Out :=
  if !byPerst then .next (leaveBanked s)
  else if s.pwr.perst then .next (leaveBanked { s with pwr := { s.pwr with perst := false } })
  else .next s

/-- The domains that a wake turns on, and the wake's counters (R527, R529, R548). -/
def wakeDomains (s : State) : State :=
  let rows := (minRows s).filter fun r => !domainOn s (16 + r)
  let pairs := (upFrom 0 2).filter fun p => !domainOn s (12 + p)
  let s := (upFrom 1 15 ++ rows.map (16 + ·)).foldl switchOn s
  count (count s bankPwr 0 rows.length) bankPwr 2 pairs.length

/-! ## Throttling (R537–R539) -/

/-- The die or stack reading of a sample that is at or above its threshold, the first in sensor order. -/
def hotReading (s : State) (x : PowerSample) : Option Reading :=
  let t := fld s Fld.PWR_THERM_DIE_THROTTLE_C
  if (t : Int) ≤ x.die then some { sensor := 0, unit := x.dieUnit, temp := x.die }
  else if (t : Int) ≤ x.base then some { sensor := 1, unit := x.baseUnit, temp := x.base }
  else if (fld s Fld.PWR_THERM_STACK_THROTTLE_C : Int) ≤ x.stack then some { sensor := 2, unit := x.stackUnit, temp := x.stack }
  else none

/-- Every die sensor and stack is at least `k` °C below its throttle threshold. -/
def coolBy (s : State) (x : PowerSample) (k : Int) : Bool :=
  let t : Int := fld s Fld.PWR_THERM_DIE_THROTTLE_C
  x.die + k ≤ t && x.base + k ≤ t && x.stack + k ≤ (fld s Fld.PWR_THERM_STACK_THROTTLE_C : Int)

/-- The sample as the sensor registers hold it (R547). -/
def takeReadings (s : State) (x : PowerSample) : State :=
  let b := fun (t : Int) => (t % 256).toNat
  let s := setRaw s Reg.PWR_TEMP 0 0
    (b x.die + b x.base * 2 ^ 8 + b x.stack * 2 ^ 16 + b x.inlet * 2 ^ 24 + b x.outlet * 2 ^ 32)
  let s := setFld s Fld.PWR_POWER_INPUT_W (satBits 11 x.input)
  let s := setFld s Fld.PWR_POWER_PEAK_W (max (fld s Fld.PWR_POWER_PEAK_W) (satBits 11 x.peak))
  { s with pwr := { s.pwr with cooled := coolBy s x 10 } }

/-- One step down, and what reports it (R537, R539). -/
def stepDown (s : State) (hot : Option Reading) (above : Bool) : State :=
  let mhz := s.pwr.mhz
  let downs := min 10 (s.pwr.downs + 1)
  let s := setFld (setFld s Fld.PWR_STATUS_THROTTLE_THERM (b2n hot.isSome)) Fld.PWR_STATUS_THROTTLE_POWER (b2n above)
  let s := { s with pwr := { s.pwr with downs } }
  if 600 < mhz then
    let s := timingOpen (setMhz s (max 600 (mhz - 50)))
    let s := if above then setErr (pwrInfo s 2 5 0 0 0) Fld.PWR_ERR_POWER_THROTTLE else s
    match hot with
      | some r => setErr (pwrInfo s 1 r.sensor r.unit r.temp 0) Fld.PWR_ERR_THERM_THROTTLE
      | none => s
  else if downs = 10 then timingOpen (setFld s Fld.PWR_STATUS_DUTY 1)
  else s

/-- One step up, to at most CAP_MHZ; duty throttling ends (R537, R539). -/
def stepUp (s : State) : State :=
  let s := setFld (setFld (setFld s Fld.PWR_STATUS_THROTTLE_THERM 0) Fld.PWR_STATUS_THROTTLE_POWER 0) Fld.PWR_STATUS_DUTY 0
  let s := setMhz s (min (fld s Fld.CLK_CORE_CAP_MHZ) (s.pwr.mhz + 50))
  { s with pwr := { s.pwr with downs := 0, dutyHold := false } }

/-- The clock holds: a limit that allows no step up holds it below CAP_MHZ. -/
def stepHold (s : State) (x : PowerSample) : State :=
  let below := s.pwr.mhz < fld s Fld.CLK_CORE_CAP_MHZ
  let s := setFld s Fld.PWR_STATUS_THROTTLE_THERM (b2n (below && !coolBy s x 3))
  let s := setFld s Fld.PWR_STATUS_THROTTLE_POWER (b2n (below && 97 * fld s Fld.PWR_LIMIT_SUSTAINED_W < 100 * x.input))
  { s with pwr := { s.pwr with downs := 0 } }

/-- A power or thermal limit throttles the core (R537, R539). -/
def throttled (s : State) : Bool :=
  flag s Fld.PWR_STATUS_THROTTLE_THERM || flag s Fld.PWR_STATUS_THROTTLE_POWER || flag s Fld.PWR_STATUS_DUTY

/-- The recorder's EVENT of a throttle's start or end (R490). -/
def throttleEvent (before : Bool) (s : State) : State :=
  if throttled s && !before then recEvent s 5 0 0 0
  else if before && !throttled s then recEvent s 6 0 0 0
  else s

/-- The injected THROTTLE of a sample: a firing caps the core clock (R591, R593, R594). -/
def injectThrottle (s : State) : State :=
  let before := s.prt.holds
  let s := injectAt s 0x10 0
  if s.prt.holds = before then s else showMhz (timingOpen s)

/-- POWER_SAMPLE (R537): sensors and input power are read, and the core clock moves by at most one step. -/
def execPowerSample (sample : PowerSample) (s : State) : Out :=
  let was := throttled s
  let s := injectThrottle (takeReadings s sample)
  let s := if (fld s Fld.PWR_THERM_INLET_WARN_C : Int) ≤ sample.inlet then
    setErr (pwrInfo s 5 3 0 sample.inlet 0) Fld.PWR_ERR_INLET_WARN else s
  let st := powerState s
  if s.pwr.critical || st = 0 || st = 3 || st = 6 then .next s
  else
    let limit := fld s Fld.PWR_LIMIT_SUSTAINED_W
    let hot := hotReading s sample
    let above := limit < sample.input
    if hot.isSome || above then .next (throttleEvent was (stepDown s hot above))
    else if coolBy s sample 3 && 100 * sample.input ≤ 97 * limit then .next (throttleEvent was (stepUp s))
    else .next (throttleEvent was (stepHold s sample))

/-- CRITICAL_LIMIT (R539): the core clock drops to 0.60 GHz and stays there for 1 ms. -/
def execCriticalLimit (reading : Reading) (s : State) : Out :=
  let st := powerState s
  let was := throttled s
  if st = 0 || st = 3 || st = 6 then .next s
  else
    let s := setFld (timingOpen (setMhz s 600))
      (if reading.sensor = 5 then Fld.PWR_STATUS_THROTTLE_POWER else Fld.PWR_STATUS_THROTTLE_THERM) 1
    let s := { s with pwr := { s.pwr with critical := true } }
    .next (throttleEvent was <| count (setErr (pwrInfo s 3 reading.sensor reading.unit reading.temp 0) Fld.PWR_ERR_CRITICAL) bankPwr 8)

/-- CRITICAL_HOLD_END (R539). -/
def execCriticalHoldEnd (s : State) : Out := .next { s with pwr := { s.pwr with critical := false } }

/-- DUTY_INTERVAL_END (R539): passes start only in alternate intervals. -/
def execDutyIntervalEnd (s : State) : Out :=
  if flag s Fld.PWR_STATUS_DUTY then .next { s with pwr := { s.pwr with dutyHold := !s.pwr.dutyHold } } else .next s

/-- One ember tick's throttling counters (R548). -/
def throttleTick (s : State) : State :=
  let s := if flag s Fld.PWR_STATUS_THROTTLE_THERM then count s bankPwr 5 else s
  let s := if flag s Fld.PWR_STATUS_THROTTLE_POWER then count s bankPwr 6 else s
  if flag s Fld.PWR_STATUS_DUTY then count s bankPwr 7 else s

end Sys2Proof.Machine
end

