-- ==== Sys2Proof/Machine/Collector.lean ====
section
/-!
DEFINITION. The collector: its enable, the snapshot ring, the clear of counters, and snapshots (R578, R584–R590).
-/
namespace Sys2Proof.Machine

/-! ## Banks (R575) -/

/-- The 202 implemented banks, rising. -/
def allBanks : List Nat := upFrom 0 50 ++ upFrom 64 152

/-- The unit of a bank is fused off (R575, R586). -/
def bankAbsent (s : State) (b : Nat) : Bool :=
  if 18 ≤ b && b < 38 then portFused s (b - 18)
  else if 64 ≤ b then roleOf s (b - 64) = .dark
  else false

/-- The domains whose blocks count in a bank (R522, R575); the ember domain's is never off. -/
def bankDomains (b : Nat) : List Nat :=
  if b < 3 then [1]
  else if b < 7 then [14]
  else if b < 11 then [12 + (b - 7) / 2]
  else if b < 15 then [14]
  else if b = 15 then upFrom 16 19
  else if b = 16 then upFrom 7 4
  else if b = 17 then [11]
  else if b < 38 then [3 + (b - 18) / 5]
  else if b < 41 then upFrom 3 4
  else if b = 41 || b = 47 || b = 48 then [1]
  else if b < 47 then [0]
  else if b = 49 then [2]
  else [16 + (b - 64) / 8]

/-- The domain of a bank is off: its counters hold the values saved (R524, R586). -/
def bankOff (s : State) (b : Nat) : Bool := (bankDomains b).all fun d => d ≠ 0 && !domainOn s d

/-- Ember tick at which a bank was last zeroed (R545, R578). -/
def zeroedAt (s : State) (b : Nat) : Nat := lookupD s.pmc.zeroAll b s.pmc.zeroAt

/-- Ember tick at which a bank's counters stopped: its domain is off, or its tile has failed (R524, R582). -/
def stoppedAt (s : State) (b : Nat) : Option Nat :=
  if 64 ≤ b && roleOf s (b - 64) = .failed then some (lookupD 0 b s.pmc.savedAt)
  else if bankOff s b then (bankDomains b).findSome? fun d => lookup d s.pmc.savedAt
  else none
/-- Counters of cycles, and of events below the rows of this model: what they count is free (R575). -/
def timingCounter (b c : Nat) : Bool :=
  if b = 0 then c = 7
  else if b < 3 then false
  else if b < 7 then c = 8
  else if b < 11 then 10 ≤ c && c ≤ 13
  else if b < 15 then 13 ≤ c && c ≤ 15
  else if b = 15 then c = 13 || c = 14
  else if b < 18 then false
  else if b < 38 then c = 12
  else if b = 38 then c = 14
  else if b = 39 then c = 2 || c = 3
  else if b = 40 then c = 11
  else if b = 49 then c = 0 || c = 1 || c = 3 || c = 5
  else if 64 ≤ b then [4, 5, 14].contains c || (23 ≤ c && c ≤ 28) || c = 30
  else false

/-- What a counter of cycles has counted since its bank was zeroed: nothing within that tick, and else a free value, one and the same
while the bank stands still (R575, R578, R524). -/
def timedCount (s : State) (d b c : Nat) : Nat :=
  let z := zeroedAt s b
  if z = s.ticks then 0
  else match stoppedAt s b with
    | some k => if k ≤ z then 0 else (Config.savedCount k (32 * b + c)).toNat % 2 ^ 48
    | none => (Config.freeWord d (32 * b + c)).toNat % 2 ^ 48

/-- A counter that is kept, or one of cycles. -/
def plainCount (s : State) (d b c : Nat) : Nat :=
  if timingCounter b c then timedCount s d b c else counter s b c

/-- Active slots in a tile's open tallies: PENDING (R581). -/
def pendingSlots (x : Tile) : Nat := x.tally.foldl (fun n e => n + e.2.active) 0

/-- Tile counter 0: every tile cycle with the clock running is in one of counters 20 to 30 (R581). -/
def tileCycles (s : State) (d b : Nat) : Nat :=
  min (2 ^ 48 - 1) (pendingSlots (s.tile (b - 64)) + ((upFrom 20 9 ++ [30]).map (plainCount s d b)).foldl (· + ·) 0)

/-- What PMC_CNT reads of counter `c` of bank `b` (R575, R576, R581); free values are those of draw `d`. -/
def counterValue (s : State) (d b c : Nat) : Nat :=
  if bankAbsent s b then 0
  else if 64 ≤ b && c = 0 then tileCycles s d b
  else if 64 ≤ b && c = 29 then pendingSlots (s.tile (b - 64))
  else if 64 ≤ b && c = 31 then timedCount s d b 31 % (tileCycles s d b - plainCount s d b 30 + 1)
  else plainCount s d b c

/-- The banks that PMC_MASK_n select, rising (R590). -/
def selectedBanks (s : State) : List Nat :=
  allBanks.filter fun b => bitOf (raw s Reg.PMC_MASK (b / 64)) (b % 64)

/-- Stride of a record ÷ 64 (R586). -/
def stride64 (s : State) : Nat := ceilDiv (64 + 264 * (selectedBanks s).length) 64

/-- A clear of one bank, or of every bank, with the open tallies of its tile (R578, R582); PMC_ counter 3 counts it. -/
def clearBanks (s : State) (bank : Nat) (all : Bool) : State :=
  if !all && !allBanks.contains bank then s
  else
    let kept := if all then [] else s.counters.filter fun e => e.1 / 32 ≠ bank
    let cleared := if all then upFrom 0 216 else bank :: s.pmc.cleared
    let pmc := { s.pmc with cleared, zeroAll := if all then s.ticks else s.pmc.zeroAll
                            zeroAt := if all then [] else insertK bank s.ticks s.pmc.zeroAt }
    let tiles := s.tiles.map fun e => if all || e.1 + 64 = bank then (e.1, { e.2 with tally := [] }) else e
    count { s with counters := kept, pmc, tiles } bankPmc 3

/-- PMC_CLEAR (R578, R590): written from the physical function's view. -/
def execPmcClear (func bank : Nat) (all : Bool) (s : State) : Out :=
  if func = 0 then .next (clearBanks s bank all) else .next s

/-! ## The ring (R584, R590) -/

/-- The first page of the ring that is not mapped with a DRAM copy and PIN, is held by the module, or is LOST. -/
def badRingPage (s : State) : Option Nat :=
  (upFrom (fld s Fld.PMC_RING_BASE) (fld s Fld.PMC_RING_PAGES)).find? fun p =>
    match s.page p with
    | none => true
    | some d => !d.inDram || !d.pin || d.module || d.lost

/-- PMC_CTL.COLLECT takes a value. -/
def setCollect (s : State) (value : Bool) : State :=
  if value = flag s Fld.PMC_CTL_COLLECT then s
  else if !value then setFld (setFld s Fld.PMC_CTL_COLLECT 0) Fld.PMC_STATUS_STATE 0
  else match badRingPage s with
    | some p => ringBadErr s p
    | none => setFld (setFld s Fld.PMC_CTL_COLLECT 1) Fld.PMC_STATUS_STATE 1

/-- PMC_COLLECT (R584). -/
def execPmcCollect (func : Nat) (value : Bool) (s : State) : Out :=
  if func = 0 then .next (setCollect s value) else .next s

/-- PMC_CTL.EMPTY: the ring is emptied while COLLECT is 0. -/
def emptySnapshots (s : State) : State :=
  if flag s Fld.PMC_CTL_COLLECT then s
  else
    let s := setRaw (setRaw s Reg.PMC_HEAD 0 0 0) Reg.PMC_OLDEST 0 0 0
    { s with pmc := { s.pmc with missedCount := 0 } }

/-- PMC_EMPTY (R590). -/
def execPmcEmpty (func : Nat) (s : State) : Out := if func = 0 then .next (emptySnapshots s) else .next s

/-! ## Snapshots (R585–R588) -/

/-- One bank's record (R586), with the free values of draw `d`. -/
def bankRecord (s : State) (d b : Nat) : List Byte :=
  let v := (upFrom 0 32).map (counterValue s d b)
  let sat := ((upFrom 0 32).map fun c => if counterValue s d b c = 2 ^ 48 - 1 then 2 ^ c else 0).foldl (· + ·) 0
  let head := b + b2n (bankOff s b) * 2 ^ 8 + b2n (bankAbsent s b) * 2 ^ 9 + b2n (s.pmc.cleared.contains b) * 2 ^ 10 + sat * 2 ^ 32
  leBytes 8 head ++ v.flatMap (leBytes 8)

/-- The header of the next snapshot (R586). -/
def snapHeader (s : State) (banks : Nat) : List Byte :=
  let p := s.pmc
  leBytes 8 (raw s Reg.PMC_HEAD) ++ leBytes 8 s.ticks ++ leBytes 8 (nextSeq s) ++ leBytes 2 banks ++
    leBytes 1 (b2n p.prtActive + 2 * b2n p.lowPower + 4 * b2n p.missed + 8 * fld s Fld.MGT_TEST_TEST_MODE) ++
    leBytes 1 (fld s Fld.PWR_STATUS_STATE) ++ leBytes 2 (fld s Fld.PWR_STATUS_CORE_MHZ) ++ leBytes 2 0 ++
    leBytes 8 p.prevTick ++ leBytes 8 p.missedCount ++ leBytes 16 0

/-- A snapshot that falls due is missed (R588). -/
def missSnapshot (s : State) : State :=
  let s := { s with pmc := { s.pmc with missed := true, missedCount := s.pmc.missedCount + 1 } }
  setErr (setRaw (count s bankPmc 1) Reg.PMC_ERR_INFO 0 0 (2 * 2 ^ 27)) Fld.PMC_ERR_MISSED

/-- Records that the ring holds (R586). -/
def ringRecords (s : State) : Nat := fld s Fld.PMC_RING_PAGES * pageBytes / (64 * stride64 s)

/-- A snapshot is written to its slot of the ring (R586). -/
def writeSnapshot (s : State) : State :=
  let banks := selectedBanks s
  let n := raw s Reg.PMC_HEAD
  let (d, s) := drawFree s
  let bytes := snapHeader s banks.length ++ banks.flatMap (bankRecord s d)
  let at_ := fld s Fld.PMC_RING_BASE * pageBytes + n % max 1 (ringRecords s) * (64 * stride64 s)
  let s := wspStore false s at_ bytes
  let oldest := if ringRecords s ≤ n - raw s Reg.PMC_OLDEST then raw s Reg.PMC_OLDEST + 1 else raw s Reg.PMC_OLDEST
  let s := setRaw (setRaw s Reg.PMC_HEAD 0 0 (n + 1)) Reg.PMC_OLDEST 0 0 oldest
  let s := { s with pmc := { s.pmc with prevTick := s.ticks, missed := false, lowPower := false, prtActive := false, cleared := [] } }
  count (count s bankPmc 0) bankPmc 2 banks.length

/-- A snapshot is taken, or missed: the previous one is still being written, or the ring is full and does not wrap (R588). -/
def takeSnapshot (s : State) (busy : Bool) : State :=
  if busy then missSnapshot s
  else if ringRecords s ≤ raw s Reg.PMC_HEAD - raw s Reg.PMC_OLDEST && !flag s Fld.PMC_CTL_WRAP then
    let s := if flag s Fld.PMC_CTL_COLLECT then setFld s Fld.PMC_STATUS_STATE 2 else s
    missSnapshot (setErr (setRaw s Reg.PMC_ERR_INFO 0 0 (1 * 2 ^ 27)) Fld.PMC_ERR_FULL)
  else writeSnapshot s

/-- PMC_SNAPSHOT (R585, R588): a snapshot falls due; `busy`: the previous one is still being written. -/
def execPmcSnapshot (busy : Bool) (s : State) : Out :=
  if !flag s Fld.PMC_CTL_COLLECT || fld s Fld.PMC_STATUS_STATE ≠ 1 then .next s
  else if !stoked s then .next (count s bankPmc 4)
  else .next (takeSnapshot s busy)

/-- PMC_CTL.SNAP: one extra snapshot at once, where the ring is as R584 asks and the module is Stoked. -/
def extraSnapshot (s : State) (busy : Bool) : State :=
  match badRingPage s with
  | some p => ringBadErr s p
  | none => if stoked s then takeSnapshot s busy else s

/-- PMC_SNAP (R585). -/
def execPmcSnap (func : Nat) (busy : Bool) (s : State) : Out :=
  if func = 0 then .next (extraSnapshot s busy) else .next s

/-- The PMC_ registers that COLLECT protects (R584): a write of one of them, or its refusal. -/
def pmcConfigWrite (s : State) (r : RegSpec) (idx v mask : Nat) : State :=
  if flag s Fld.PMC_CTL_COLLECT then setErr (setRaw s Reg.PMC_ERR_INFO 0 0 (3 * 2 ^ 27)) Fld.PMC_ERR_CFG_REFUSED
  else if r.base = Reg.PMC_MASK.base then
    let valid := (allBanks.filter fun b => b / 64 = idx).foldl (fun a b => a + 2 ^ (b % 64)) 0
    writeReg s r idx 0 (v &&& valid) mask
  else writeReg s r idx 0 v mask

end Sys2Proof.Machine
end

