-- ==== Sys2Proof/Machine/FlaskOps.lean ====
section
/-!
DEFINITION. The flask's membership: what its registers read, how a member is lost or left, and how this module leaves
(R445–R449, R458, R459, R471).
-/
namespace Sys2Proof.Machine

/-! ## Registers (R471) -/

/-- STATE of a rank in FLK_MEMBER: 0 absent, 1 joined, 2 left, 3 lost. -/
def rankState (s : State) (r : Nat) : Nat :=
  if !inFlask s || s.flk.members.length ≤ r then 0
  else if s.flk.lost.contains r then 3
  else if s.flk.left.contains r then 2
  else 1

/-- FLK_STATUS and the FLK_MEMBER registers follow the state. -/
def flkRegs (s : State) : State :=
  let f := s.flk
  let gone := ((upFrom 0 8).map fun r => if 2 ≤ rankState s r then 2 ^ r else 0).foldl (· + ·) 0
  let v := if inFlask s then 1 + f.rank * 2 + f.members.length * 16 + f.minor * 2 ^ 8 + f.id * 2 ^ 16 + gone * 2 ^ 32 else 0
  let s := setRaw s Reg.FLK_STATUS 0 0 v
  (upFrom 0 8).foldl (fun s r =>
    setRaw s Reg.FLK_MEMBER r 0 (if rankState s r = 0 then 0 else f.members.getD r 0 + rankState s r * 2 ^ 20)) s

/-- The rank of an endpoint. -/
def rankOfEp (s : State) (ep : Nat) : Option Nat := (s.flk.members.zip (upFrom 0 s.flk.members.length)).lookup ep

/-- Ranks of the other members that are up, or that a join still counts on. -/
def peerRanks (s : State) : List Nat :=
  (upFrom 0 s.flk.members.length).filter fun r => r ≠ s.flk.rank && !s.flk.left.contains r && !s.flk.lost.contains r

/-- The flask ends at this module (R447, R449, R316); poisoned lines stay so until they are written whole (R459). -/
def dropFlask (s : State) : State := flkRegs { s with flk := { poisoned := s.flk.poisoned } }

/-! ## Joining (R445) -/

/-- The digest of LIST. -/
def listDigest (members : List Nat) : Nat := (Config.listDigest (leNat (members.flatMap (leBytes 4)))).toNat

/-- JOIN to a rank. -/
def sendJoin (s : State) (r : Nat) : State :=
  sendFlask s r 0x10 0 0 (leBytes 1 s.flk.members.length ++ [1, 3] ++ leBytes 5 0 ++ leBytes 8 (listDigest s.flk.members)) false

/-- Matching joins from every peer: READY goes to every peer; READY from every peer as well: the module is a member and
FLASK_JOIN completes (R445, R447). -/
def joinAdvance (s : State) : State :=
  let peers := (upFrom 0 s.flk.members.length).filter (· ≠ s.flk.rank)
  let s :=
    if s.flk.phase = .joining && peers.all fun r => hasK r s.flk.joined then
      let minor := (valuesOf s.flk.joined).foldl min 3
      let s := { s with flk := { s.flk with phase := .ready, minor } }
      peers.foldl (fun s r => sendFlask s r 0x11 0 0 [] false) s
    else s
  if s.flk.phase = .ready && peers.all fun r => s.flk.readied.contains r then
    match s.flk.cmd with
    | none => s
    | some seq => completeWith (flkRegs { s with flk := { s.flk with phase := .member, cmd := none } }) seq stOk
  else s

/-! ## Leaving (R449) -/

/-- FLASK_LEAVE moves as far as it can, one step after the other: M lines are written back and acknowledged, lines of the own window are
called in, LEAVE is sent, and the command completes once every peer has acknowledged it. -/
def leaveAdvance (s : State) : State :=
  match s.flk.cmd with
  | none => s
  | some seq =>
    if s.flk.phase ≠ .leaving then s
    else
      let s := { s with flk := { s.flk with cache := s.flk.cache.filter fun e => e.2.modified } }
      let s := s.flk.cache.foldl (fun s e =>
        let gone := { s with flk := { s.flk with cache := eraseK e.1 s.flk.cache } }
        if !rankUp s (e.1 / 2 ^ 28) then gone
        else match openTxn gone (e.1 / 2 ^ 28) 0x22 (e.1 % 2 ^ 28) e.2.data with
          | some (_, s) => s
          | none => s) s
      if !s.flk.cache.isEmpty || s.flk.txns.any fun e => e.2.op = 0x22 then s else
      let s := (s.flk.dir.filter fun e => !s.flk.home.any fun h => h.line = e.1).foldl (fun s e =>
        { s with flk := { s.flk with home := s.flk.home ++ [{ rank := 8, op := 0x21, line := e.1 }] } }) s
      let s := homePump s
      if !s.flk.dir.isEmpty || !s.flk.home.isEmpty then s
      else
        let open_ := s.flk.txns.any fun e => e.2.op ≠ 0x13
        if open_ then s
        else
          let peers := peerRanks s
          let unsent := peers.filter fun r => !s.flk.leaveSent.contains r
          if !unsent.isEmpty then
            unsent.foldl (fun s r => match openTxn s r 0x13 0 [] with
              | some (_, s) => { s with flk := { s.flk with leaveSent := r :: s.flk.leaveSent } }
              | none => s) s
          else if s.flk.txns.isEmpty then completeWith (dropFlask s) seq stOk
          else s

/-! ## Losing a member (R459) -/

/-- The entry without a rank. -/
def DirEntry.without (e : DirEntry) (r : Nat) : DirEntry :=
  { e with owner := if e.owner = some r then none else e.owner, sharers := e.sharers.filter (· ≠ r) }

/-- The flask ends on this module, and every rank is absent (R447, R459); a FLASK_LEAVE in progress has nothing left to do. -/
def endFlask (s : State) : State :=
  match s.flk.cmd with
  | none => dropFlask s
  | some seq => completeWith (dropFlask s) seq stOk

/-- This module learns that a rank is lost. -/
def learnLost (s : State) (r : Nat) : State :=
  if !inFlask s || s.flk.lost.contains r || r = s.flk.rank || s.flk.members.length ≤ r then s
  else
    let owned := s.flk.dir.filter fun e => e.2.owner = some r
    let poison := if 3 ≤ s.flk.minor then owned.map fun e => s.flk.window / lineBytes + e.1 else []
    let f := s.flk
    let dir := (f.dir.map fun e => (e.1, e.2.without r)).filter fun e => e.2.owner.isSome || !e.2.sharers.isEmpty
    let home := (f.home.filter fun h => h.rank ≠ r).map fun h => { h with waits := h.waits.filter fun w => w.1 ≠ r }
    let cache := f.cache.filter fun e => e.1 / 2 ^ 28 ≠ r
    let txns := f.txns.filter fun e => e.1 / 256 ≠ r
    let kept : FlaskState := { f with lost := f.lost ++ [r], cache, txns, dir, home, poisoned := f.poisoned ++ poison }
    let s := { s with flk := kept }
    let s := count s bankFlk 10 poison.length
    let info := r % 8
    let s := setRaw s Reg.FLK_ERR_INFO 0 0 info
    let s := raiseErr s Fld.FLK_ERR_MEMBER_LOST 0 .contained { unit := r, arg := info }
    if s.flk.minor < 3 then endFlask s else leaveAdvance (homePump (flkRegs s))

/-- This module declares a rank lost and tells every other member (R459). -/
def declareLost (s : State) (r : Nat) : State :=
  if !inFlask s || s.flk.lost.contains r then s
  else if s.flk.minor < 3 then
    learnLost ((peerRanks s).foldl (fun s p => if p = r then s else sendFlask s p 0x14 0 (r * lineBytes) [] false) s) r
  else
    let s := learnLost s r
    (peerRanks s).foldl (fun s p => match openTxn s p 0x14 r [] with
      | some (_, s) => s
      | none => s) s

/-- A transaction toward a rank has had no response: it is sent again, or its peer is lost (R458). -/
def retryTxn (s : State) (key : Nat) : State :=
  match lookup key s.flk.txns with
  | none => s
  | some t =>
    let r := key / 256
    if fld s Fld.FLK_CFG_TRIES ≤ t.tries then declareLost s r
    else
      let s := { s with flk := { s.flk with txns := insertK key { t with tries := t.tries + 1, at_ := s.ticks } s.flk.txns } }
      let s := noteErr s (blockOf Reg.FLK_ERR.base) .recovered { unit := r }
      count (sendFlask (timingOpen s) r t.op (key % 256) (t.line * lineBytes) t.data (t.op = 0x22)) bankFlk 7

end Sys2Proof.Machine
end

