-- ==== Sys2Proof/Machine/RemoteOps.lean ====
section
/-!
DEFINITION. Remote and multicast commands in progress: their packets, and how they end (R420, R436–R438, R460–R462).
-/
namespace Sys2Proof.Machine

/-! ## Remote commands -/

/-- A REMOTE packet to an endpoint: ordered, in REQ_TC or RSP_TC (R460, R464). -/
def sendRemote (s : State) (func dest : Nat) (rsp : Bool) (owner : Owner) (p : RmPkt) : State :=
  let slice := p.addr / 4096 % 4
  let tc := fld s (if rsp then Fld.FLK_CFG_RSP_TC else Fld.FLK_CFG_REQ_TC)
  sendPkt s func slice owner { proto := 1, tc, order := true, dest, dslice := slice, payload := encodeRm p }

/-- The lowest transaction ID free toward an endpoint (R456). -/
def freeRemoteTid (s : State) (dest : Nat) : Option Nat := (upFrom 0 256).find? fun t => !hasK (dest * 256 + t) s.fab.tids

def takeTid (s : State) (dest tid seq : Nat) : State :=
  { s with fab := { s.fab with tids := insertK (dest * 256 + tid) seq s.fab.tids } }

def State.remote (s : State) (seq : Nat) : Option RemoteOp := lookup seq s.fab.remotes
def State.setRemote (s : State) (seq : Nat) (x : RemoteOp) : State :=
  { s with fab := { s.fab with remotes := insertK seq x s.fab.remotes } }

/-- A remote command ends; its transaction IDs are free. -/
def endRemote (s : State) (seq : Nat) (r : Result) : State :=
  match s.remote seq with
  | none => s
  | some _ =>
    let s := { s with fab := { s.fab with
      remotes := eraseK seq s.fab.remotes, tids := s.fab.tids.filter fun e => e.2 ≠ seq } }
    completeCmd s seq r

/-- A packet of a remote command failed (R316, R420). -/
def failRemote (s : State) (seq reason : Nat) : State :=
  endRemote s seq { status := stDestFenced, word0 := 1, word1 := reason }

/-- A packet of a remote command is acknowledged: REMOTE_WRITE completes with its last. -/
def remoteAcked (s : State) (seq : Nat) : State :=
  match s.remote seq with
  | none => s
  | some x =>
    let x := { x with unacked := x.unacked - 1 }
    let s := s.setRemote seq x
    if x.op = 1 && x.unacked = 0 then endRemote s seq { status := stOk } else s

/-- REMOTE_READ asks for what it has not asked for yet, as transaction IDs allow (R460). -/
def askRemote (s : State) (seq func : Nat) : Nat → State
  | 0 => s
  | n + 1 =>
    match s.remote seq with
    | none => s
    | some x =>
      match x.rest, freeRemoteTid s x.dest with
      | (ra, off, len) :: rest, some tid =>
        let s := (takeTid s x.dest tid seq).setRemote seq { x with rest, wanted := insertK tid (off, len) x.wanted }
        askRemote (sendRemote s func x.dest false (.remote seq) { op := 2, tid, dlen := len, addr := ra }) seq func n
      | _, _ => s

/-- REMOTE_READ with all its data writes it to its local range and completes; lines of the own window that peers hold are
called in first (R271, R453, R454). -/
def finishRead (s : State) (seq : Nat) : State :=
  match s.remote seq with
  | none => s
  | some x =>
    if x.op ≠ 2 || !x.wanted.isEmpty || !x.rest.isEmpty then s
    else match coherentReady s x.laddr x.len with
      | .lines ls => askLines s ls
      | _ =>
        let put := fun (s : State) (a : Nat) (bs : List Byte) => ownWrite s seq a bs
        endRemote (coherentWrite s put x.laddr (readBytes 0 x.len x.data)) seq { status := stOk }

/-- Every REMOTE_READ that waits only for lines moves on. -/
def finishReads (s : State) : State := s.fab.remotes.foldl (fun s e => finishRead s e.1) s

/-- What waited for lines of this module's window goes on: they have been given up, or their holder is lost (R454, R459). -/
def resumeLines (s : State) : State := resumeReads (finishReads s)

/-! ## Multicast messages (R436–R438) -/

/-- The packets of a message: index, payload. -/
def McastOut.packets (m : McastOut) : List (Nat × List Byte) :=
  let ps := chunksOf 4096 m.data (m.data.length / 4096 + 1)
  (upFrom 0 ps.length).zip (ps.zip (upFrom 0 ps.length) |>.map fun e => leBytes 8 (m.addr + 4096 * e.2) ++ e.1)

/-- One packet of a message: into the tree at the root, on a leg to the root elsewhere; or to one leaf (R436, R437). A resend to the leaf
at the root's own module goes there as a leg, which enters the tree again, unless this module is the root: then it is a packet of its
flow to itself. -/
def sendMcastPkt (s : State) (func seq : Nat) (m : McastOut) (e : McastEntry) (leaf : Option Nat) (p : Nat × List Byte) : State :=
  let n := m.packets.length
  let x : XlPkt := { proto := 3, tc := fld s Fld.XRT_CFG_MCAST_TC, mgroup := m.group
                     arg := m.msg % 2 ^ 32 + p.1 % 2 ^ 16 * 2 ^ 32 + n % 2 ^ 16 * 2 ^ 48, payload := p.2 }
  match leaf with
  | some l =>
    if l = e.root && l ≠ endpointId s then sendPkt s func 0 .none { x with dest := l }
    else sendPkt s func 0 (.mcast seq) { x with dest := l }
  | none =>
    if e.root = endpointId s then sendPkt s func 0 .none { x with mcast := true, dest := m.group }
    else sendPkt s func 0 .none { x with dest := e.root }

/-- The mask of a message's undelivered leaves. -/
def McastOut.mask (m : McastOut) : Nat := (m.undelivered.map fun i => 2 ^ i).foldl (· + ·) 0

/-- MCAST_SEND completes once every leaf has acknowledged or is undelivered (R316, R438). -/
def mcastCheck (s : State) (seq : Nat) : State :=
  match lookup seq s.fab.mcastOut with
  | none => s
  | some m =>
    if !((upFrom 0 m.leaves.length).all fun i => m.acked.contains i || m.undelivered.contains i) then s
    else
      let s := { s with fab := { s.fab with mcastOut := eraseK seq s.fab.mcastOut } }
      if m.undelivered.isEmpty then completeWith s seq stOk
      else completeWith s seq stDestFenced m.undelivered.length (m.mask % 2 ^ 64) (m.mask / 2 ^ 64)

/-- A leaf, by its endpoint, has acknowledged a message, or is undelivered. -/
def mcastLeaf (s : State) (seq ep : Nat) (acked : Bool) : State :=
  match lookup seq s.fab.mcastOut with
  | none => s
  | some m =>
    match (m.leaves.zip (upFrom 0 m.leaves.length)).lookup ep with
    | none => s
    | some i =>
      if m.acked.contains i || m.undelivered.contains i then s
      else
        let m := if acked then { m with acked := i :: m.acked } else { m with undelivered := i :: m.undelivered }
        mcastCheck { s with fab := { s.fab with mcastOut := insertK seq m s.fab.mcastOut } } seq

/-- The message of a number that this module sends. -/
def mcastBy (s : State) (msg : Nat) : Option Nat := (s.fab.mcastOut.find? fun e => e.2.msg = msg).map Prod.fst

/-- A leaf receives a packet of a message (R437): its data is written once, and the leaf acknowledges the whole message. -/
def takeMcast (s : State) (p : XlPkt) : State :=
  let msg := p.arg % 2 ^ 32
  let idx := bitsOf p.arg 32 16
  let n := bitsOf p.arg 48 16
  let group := if p.mcast then p.dest else p.mgroup
  let mine := fun (m : McastIn) => m.src = p.src && m.msg = msg
  let m := (s.fab.mcastIn.find? mine).getD { src := p.src, msg, group, packets := n }
  let ack := fun (s : State) => sendControl s (endpointId s)
    { kind := 1, tc := p.tc, mcast := true, epoch := curEpoch s, dest := p.src, arg := msg }
  if m.got.contains idx then
    let s := count (timingOpen s) bankXrt 13
    if m.acked then ack s else s
  else
    let s := wspStore true s (leNat (p.payload.take 6)) (p.payload.drop 8)
    let m := { m with got := idx :: m.got }
    let whole := m.packets ≤ m.got.length
    let m := { m with acked := whole }
    let s := { s with fab := { s.fab with mcastIn := m :: s.fab.mcastIn.filter fun e => !mine e } }
    if whole then ack s else s

end Sys2Proof.Machine
end

