-- ==== Sys2Proof/Machine/Transport.lean ====
section
/-!
DEFINITION. The transport between endpoints (R415–R421, R431–R433, R437, R438): arrival and order, acknowledgement, refusal
and resending, notices, probes, and the drain of a fenced endpoint.
-/
namespace Sys2Proof.Machine

/-! ## At the destination (R417) -/

/-- Does the endpoint take a packet of this epoch (R431)? -/
def epochOk (s : State) (epoch : Nat) : Bool := mayInject s && epoch = curEpoch s

/-- A NACK for a packet (R414, R417, R461). -/
def sendNack (s : State) (p : XlPkt) (reason : Nat) : State :=
  count (sendControl (timingOpen s) (endpointId s)
    { kind := 2, tc := p.tc, epoch := curEpoch s, dest := p.src, arg := p.seq % 2 ^ 16 + reason * 2 ^ 16 }) bankXrt 11

/-- How far a number lies after another of its series. -/
def seqAhead (a b : Nat) : Nat := (a + 65536 - b) % 65536

/-- The number has arrived. -/
def RxFlow.has (f : RxFlow) (seq : Nat) : Bool := 32768 ≤ seqAhead seq f.expected || f.arrived.contains seq

/-- Every number before `seq` has arrived (R417). -/
def RxFlow.earlier (f : RxFlow) (seq : Nat) : Bool :=
  (upFrom 0 (seqAhead seq f.expected)).all fun i => f.arrived.contains ((f.expected + i) % 65536)

/-- A READ or ATOMIC, which needs a response slot (R461). -/
def needsSlot (p : XlPkt) : Bool := p.proto = 1 && (byteField p.payload 0 1 = 2 || byteField p.payload 0 1 = 4)

/-- A packet is delivered to its slice; a malformed Runner packet is discarded there and counted (R117), and a REMOTE or FLASK packet whose
header R456 does not allow is discarded (R421); a READ or ATOMIC without a free response slot is not, and draws a NACK (R461). -/
def deliver (s : State) (p : XlPkt) : Option State :=
  if (p.proto = 1 || p.proto = 2) && (parseRm (p.proto = 1) p.payload).isNone then some s
  else if needsSlot p then
    let used := lookupD 0 p.dslice s.fab.slots
    if 2048 ≤ used then none
    else some { s with fab := { s.fab with slots := insertK p.dslice (used + 1) s.fab.slots, eject := s.fab.eject ++ [p] } }
  else if p.proto = 3 then some (takeMcast s p)
  else if p.proto = 0 && (parseEx p.epoch p.payload).isNone then some (count s (bankRun (p.dslice % 4)) 12)
  else some { s with fab := { s.fab with eject := s.fab.eject ++ [p] } }

/-- Expected moves past the numbers that have arrived, and packets held for order are delivered on the way (R417). -/
def releaseHeld (s : State) (f : RxFlow) : Nat → State × RxFlow
  | 0 => (s, f)
  | n + 1 =>
    if !f.arrived.contains f.expected then (s, f)
    else
      let seq := f.expected
      let past := { f with expected := (seq + 1) % 65536, arrived := f.arrived.filter (· ≠ seq) }
      match f.held.find? fun q => q.seq = seq with
      | none => releaseHeld s past n
      | some q =>
        let held := f.held.filter fun r => r.seq ≠ seq
        match deliver s q with
        | some s => releaseHeld s { past with held } n
        | none => (count (sendNack s q 2) bankFlk 8, { f with held, arrived := f.arrived.filter (· ≠ seq) })

/-- The flow entry of a packet, an old one or a free one of its home slice (R415, R417). -/
def flowEntry (s : State) (key : Nat) : Option RxFlow :=
  match lookup key s.fab.rx with
  | some f => some f
  | none =>
    let slice := fun (k : Nat) => (k / 8 + k % 8) % 4
    if 8192 ≤ (s.fab.rx.filter fun e => slice e.1 = slice key).length then none
    else some { expected := lookupD 0 key s.fab.rxKept }

def setFlow (s : State) (key : Nat) (f : RxFlow) : State := { s with fab := { s.fab with rx := insertK key f s.fab.rx } }

/-- Reorder slots of a slice in use (R417). -/
def heldIn (s : State) (slice : Nat) : Nat :=
  ((valuesOf s.fab.rx).map fun f => (f.held.filter fun q => q.dslice = slice).length).foldl (· + ·) 0

/-- A DATA packet of a flow arrives (R417). -/
def takeData (s : State) (port : Nat) (p : XlPkt) : State :=
  let key := flowKey p.src p.tc
  match flowEntry s key with
  | none => sendNack (xrtErr s Fld.XRT_ERR_FLOW_FULL port p.src p.epoch) p 0
  | some f =>
    let pend := fun (f : RxFlow) => { f with ackPending := true, last := s.ticks }
    if f.has p.seq then count (setFlow (timingOpen s) key (pend f)) bankXrt 13
    else
      let g := { f with arrived := p.seq :: f.arrived }
      if p.order && !f.earlier p.seq then
        if heldIn s p.dslice < 1024 then
          let (s, g) := releaseHeld s { g with held := p :: g.held } 257
          setFlow (count s bankXrt 10) key (pend g)
        else sendNack (xrtErr (setFlow s key f) Fld.XRT_ERR_REORDER_FULL port p.src p.epoch) p 1
      else match deliver s p with
        | none => count (sendNack (setFlow s key f) p 2) bankFlk 8
        | some s =>
          let (s, g) := releaseHeld s g 257
          setFlow s key (pend g)

/-- The arrival that carries a packet leaves the input buffers, where it is there. -/
def leaveArrival (s : State) (port : Nat) (p : XlPkt) : State :=
  match (s.fab.input.zip (upFrom 0 s.fab.input.length)).find? fun e => e.1.port = port && e.1.pkt = p with
  | some (a, i) => leaveInput s a i
  | none => s

/-- DATA (R417, R431, R438, R470): the bytes of a DATA packet at its destination. -/
def execData (port : Nat) (bytes : List Byte) (s : State) : Out :=
  match parsePkt bytes with
  | .hdrBad p => .next (xrtErr s Fld.XRT_ERR_HDR_BAD port p.dest p.epoch)
  | .crcBad p => .next (count (xrtErr s Fld.XRT_ERR_CRC_BAD port p.dest p.epoch) bankXrt 15)
  | .ok p =>
    if p.kind ≠ 0 || (!p.mcast && p.dest ≠ endpointId s) then .next s
    else
      let s := count (leaveArrival s port p) bankXrt 1
      let (pass, s) := police s p
      if !pass then .next s
      else if !epochOk s p.epoch then
        .next (count (sendNotice s p (endpointId s) (if flag s Fld.XRT_EP_FENCED then 0 else 1)) bankXrt 7)
      else if p.mcast then .next (takeMcast (wakeTrigger s) p)
      else .next (takeData (wakeTrigger s) port p)

/-- A refusal of a remote write: a READ_DATA without data (R316). -/
def isRefusal (p : XlPkt) : Bool := p.proto = 1 && byteField p.payload 0 1 = 3 && byteField p.payload 4 4 = 0

/-- A refusal that this module has sent to an endpoint, and that the endpoint has not acknowledged. -/
def refusalOpen (s : State) (ep : Nat) : Bool :=
  (s.fab.held ++ s.fab.inject).any (fun o => isRefusal o.pkt && o.pkt.dest = ep) ||
  s.fab.tx.any fun e => e.1 / 8 = ep && e.2.sent.any fun x => isRefusal x.pkt

/-- A flow of remote requests whose ACK comes later: a remote write of it has not been applied or refused yet, or its source has not
acknowledged a refusal. The spec says that a refusal completes REMOTE_WRITE (R316) and not how its source learns of it before the last
ACK; R416 gives an ACK no latest time, so the model sends it then (DESIGN CHOICE; it changes timing only). Refusals go in RSP_TC, whose
flows always get their ACK, so two endpoints never wait for each other. -/
def ackWaits (s : State) (key : Nat) : Bool :=
  key % 8 = fld s Fld.FLK_CFG_REQ_TC &&
  ((s.fab.eject.any fun p => p.proto = 1 && byteField p.payload 0 1 = 1 && flowKey p.src p.tc = key) || refusalOpen s (key / 8))

/-- ACK_SEND (R416): the flows of a home slice with the flag set are acknowledged. -/
def execAckSend (slice : Nat) (s : State) : Out :=
  if !mayInject s then .next s
  else .next ((s.fab.rx.filter fun e => e.2.ackPending && (e.1 / 8 + e.1 % 8) % 4 = slice && !ackWaits s e.1).foldl (fun s e =>
    let f := e.2
    let map := ((upFrom 0 32).map fun i => if f.arrived.contains ((f.expected + 1 + i) % 65536) then 2 ^ i else 0).foldl (· + ·) 0
    let s := setFlow s e.1 { f with ackPending := false }
    sendControl s (endpointId s) { kind := 1, tc := e.1 % 8, epoch := curEpoch s, dest := e.1 / 8, arg := f.expected + map * 2 ^ 32 }) s)

/-- FLOW_ENTRY_FREE (R415): an entry whose flow has nothing unacknowledged is freed, so no number is missing before one that has arrived;
the number it expected is kept. -/
def execFlowEntryFree (src tc : Nat) (s : State) : Out :=
  let key := flowKey src (tc % 8)
  match lookup key s.fab.rx with
  | none => .next s
  | some f =>
    if f.ackPending || !f.held.isEmpty || !f.arrived.isEmpty then .next s
    else .next { s with fab := { s.fab with rx := eraseK key s.fab.rx, rxKept := insertK key f.expected s.fab.rxKept } }

/-! ## At the source (R416, R419, R420) -/

/-- A packet of the source is acknowledged: what waited for its delivery moves on (R130, R460, R461). -/
def released (s : State) (x : Sent) : State :=
  match x.owner with
  | .ret seq => maybeCommit (s.modStep seq fun y => { y with unacked := y.unacked - 1 }) seq
  | .remote seq => remoteAcked s seq
  | .response slice => { s with fab := { s.fab with slots := insertK slice (lookupD 0 slice s.fab.slots - 1) s.fab.slots } }
  | _ => s

/-- A packet of the source fails, and its upper layer learns of it (R420, R459). -/
def failSent (s : State) (x : Sent) (reason : Nat) : State :=
  let s := count s bankXrt 16
  let s := if 2 ≤ reason then xrtErr s Fld.XRT_ERR_UNREACHABLE 31 x.pkt.dest x.pkt.epoch else s
  match x.owner with
  | .remote seq => failRemote s seq reason
  | .response slice => released s { x with owner := .response slice }
  | .mcast seq => mcastLeaf s seq x.pkt.dest false
  | .flask r =>
    if reason = 3 then
      let key := r * 256 + byteField x.pkt.payload 1 1
      if (lookup key s.flk.txns).any fun t => t.op = byteField x.pkt.payload 0 1 then retryTxn s key else s
    else declareLost s r
  | _ => s

/-- A flow's sent packets change; a fenced endpoint's upper layers hear nothing (R432). -/
def dropSent (s : State) (key : Nat) (gone : Sent → Bool) (tell : State → Sent → State) : State :=
  match lookup key s.fab.tx with
  | none => s
  | some f =>
    let out := f.sent.filter gone
    let s := { s with fab := { s.fab with tx := insertK key { f with sent := f.sent.filter fun x => !gone x } s.fab.tx } }
    if flag s Fld.XRT_EP_FENCED then s else out.foldl tell s

/-- An ACK, NACK or NOTICE is taken: its epoch is the endpoint's, and the endpoint is not fenced, or drains (R431, R432). -/
def controlOk (s : State) (p : XlPkt) : Bool :=
  flag s Fld.XRT_EP_VALID && p.epoch = curEpoch s && (!flag s Fld.XRT_EP_FENCED || flag s Fld.XRT_EP_DRAINING)

/-- The frame of a transport control packet's row. -/
def recvControl (s : State) (p : XlPkt) (kind : Nat) (ok : Bool) (f : State → State) : Out :=
  if p.kind ≠ kind then .next s
  else
    let s := match s.fab.input.find? fun a => a.pkt = p with
      | some a => leaveArrival s a.port p
      | none => s
    let s := count s bankXrt 1
    if ok then .next (settleWork (resumeLines (f s))) else .next s

/-- ACK (R416, R437): sent numbers below the cumulative field, and those the bitmap marks, are released; with MCAST, a leaf
holds a message. -/
def execAck (p : XlPkt) (s : State) : Out :=
  recvControl s p 1 (controlOk s p) fun s =>
    if p.mcast then match mcastBy s (p.arg % 2 ^ 32) with
      | some seq => mcastLeaf s seq p.src true
      | none => s
    else
      let cum := p.arg % 65536
      let hit := fun (x : Sent) =>
        let back := seqAhead cum x.pkt.seq
        let on := seqAhead x.pkt.seq cum
        (back ≠ 0 && back < 32768) || (1 ≤ on && on ≤ 32 && bitOf p.arg (32 + on - 1))
      dropSent s (flowKey p.src p.tc) hit released

/-- NACK (R419, R461). -/
def execNack (p : XlPkt) (s : State) : Out :=
  recvControl s p 2 (controlOk s p) fun s =>
    let s := timingOpen s
    let key := flowKey p.src p.tc
    let seq := p.arg % 65536
    let later := fun (x : Sent) =>
      if x.pkt.seq ≠ seq then x
      else if bitsOf p.arg 16 8 = 1 then { x with afterEarlier := true } else { x with notBefore := s.ticks + 50 }
    match lookup key s.fab.tx with
    | none => s
    | some f => { s with fab := { s.fab with tx := insertK key { f with sent := f.sent.map later } s.fab.tx } }

/-- NOTICE (R420, R438, R459). -/
def execNotice (p : XlPkt) (s : State) : Out :=
  recvControl s p 3 (controlOk s p) fun s =>
    let reason := bitsOf p.arg 16 8
    if p.mcast then match mcastBy s (p.arg / 2 ^ 32) with
      | some seq => mcastLeaf s seq p.src false
      | none => s
    else dropSent s (flowKey p.src p.tc) (fun x => x.pkt.seq = p.arg % 65536) fun s x => failSent s x reason

/-- A packet may be sent again (R419): after a NACK its delay is over or every earlier packet of the flow is acknowledged, unless RTO_US
has passed; of one that drew no NACK, the row says that RTO_US has passed. -/
def dueAgain (s : State) (f : TxFlow) (x : Sent) : Bool :=
  let rto := x.at_ + 25 * fld s Fld.XRT_LIMITS_RTO_US ≤ s.ticks
  let first := !(f.sent.any fun y => let back := seqAhead x.pkt.seq y.pkt.seq; back ≠ 0 && back < 32768)
  rto || ((!x.afterEarlier || first) && x.notBefore ≤ s.ticks)

/-- PACKET_RESEND (R419, R420): a packet is sent again with its SEQ, or fails after MAX_TRIES. -/
def execPacketResend (dest tc seq : Nat) (s : State) : Out :=
  let key := flowKey dest (tc % 8)
  match (lookup key s.fab.tx).bind fun f => (f.sent.find? fun x => x.pkt.seq = seq).map fun x => (f, x) with
  | none => .next s
  | some (f, x) =>
    if !mayInject s || !dueAgain s f x then .next s
    else if fld s Fld.XRT_LIMITS_MAX_TRIES ≤ x.tries then
      .next (settleWork (resumeLines (dropSent s key (fun y => y.pkt.seq = seq) fun s y => failSent s y 3)))
    else
      let again := fun (y : Sent) =>
        if y.pkt.seq = seq then { y with tries := y.tries + 1, at_ := s.ticks, notBefore := 0, afterEarlier := false } else y
      let tx := modifyK key (fun (f : TxFlow) => { f with sent := f.sent.map again }) s.fab.tx
      let o : Outgoing := { pkt := { x.pkt with nonmin := false, passed := false, via := 0, hops := 0, age := 0 }
                            owner := x.owner, slice := x.slice, exempt := true, again := true }
      .next (count (timingOpen { s with fab := { s.fab with tx, inject := s.fab.inject ++ [o] } }) bankXrt 12)

/-- MCAST_RESEND (R437): leaves that have not acknowledged get the message by unicast, or are undelivered after MAX_TRIES. -/
def execMcastResend (seq : Nat) (s : State) : Out :=
  match lookup seq s.fab.mcastOut, s.cmd seq with
  | some m, some c =>
    let waiting := (upFrom 0 m.leaves.length).filter fun i => !m.acked.contains i && !m.undelivered.contains i
    if fld s Fld.XRT_LIMITS_MAX_TRIES ≤ m.tries then
      let s := xrtErr s Fld.XRT_ERR_UNREACHABLE 31 (m.leaves.getD (waiting.headD 0) 0) (curEpoch s)
      .next (waiting.foldl (fun s i => mcastLeaf s seq (m.leaves.getD i 0) false) s)
    else match mcastFor s m.group (curEpoch s) with
      | none => .next s
      | some e =>
        let s := timingOpen s
        let s := { s with fab := { s.fab with mcastOut := insertK seq { m with tries := m.tries + 1, at_ := s.ticks } s.fab.mcastOut } }
        .next (waiting.foldl (fun s i => m.packets.foldl (fun s p =>
          count (sendMcastPkt s c.func seq m e (some (m.leaves.getD i 0)) p) bankXrt 12) s) s)
  | _, _ => .next s

/-! ## Probes (R433) -/

/-- PROBE: answered where the endpoint is not fenced and its epoch is the PROBE's. -/
def execProbe (p : XlPkt) (s : State) : Out :=
  recvControl s p 4 (epochOk s p.epoch) fun s =>
    sendControl s (endpointId s) { kind := 5, tc := p.tc, epoch := p.epoch, dest := p.src }

/-- A JOB_ADMIT whose every endpoint is confirmed completes (R316). -/
def admitCheck (s : State) (seq : Nat) : State :=
  match lookup seq s.fab.admits with
  | none => s
  | some a =>
    if a.list.all a.confirmed.contains then
      completeWith { s with fab := { s.fab with admits := eraseK seq s.fab.admits } } seq stOk
    else s

/-- CONFIRM: an endpoint of LIST is confirmed, whatever the packet's epoch (R433). -/
def execConfirm (p : XlPkt) (s : State) : Out :=
  recvControl s p 5 true fun s =>
    s.fab.admits.foldl (fun s e =>
      let a := { e.2 with confirmed := if e.2.list.contains p.src then p.src :: e.2.confirmed else e.2.confirmed }
      admitCheck { s with fab := { s.fab with admits := insertK e.1 a s.fab.admits } } e.1) s

/-- A PROBE goes to every endpoint of LIST that has not confirmed, but the own one. -/
def sendProbes (s : State) (a : Admit) : State :=
  if !mayInject s then s
  else (a.list.filter fun ep => ep ≠ endpointId s && !a.confirmed.contains ep).foldl (fun s ep =>
    sendControl s (endpointId s) { kind := 4, epoch := curEpoch s, dest := ep }) s

/-- JOB_ADMIT_PROBE_TIMER (R433). -/
def execJobAdmitProbeTimer (seq : Nat) (s : State) : Out :=
  match lookup seq s.fab.admits with
  | none => .next s
  | some a => .next (sendProbes s a)

/-- JOB_ADMIT_TIMEOUT (R316). -/
def execJobAdmitTimeout (seq : Nat) (s : State) : Out :=
  match lookup seq s.fab.admits with
  | none => .next s
  | some a =>
    let missing := (a.list.zip (upFrom 0 a.list.length)).filter fun e => !a.confirmed.contains e.1
    let s := { s with fab := { s.fab with admits := eraseK seq s.fab.admits } }
    let first := missing.headD (0, 0)
    .next (completeWith s seq stNotConfirmed missing.length first.1 first.2)

/-! ## Fence (R432) -/

/-- A fence destroys the flask windows: the flask is left, and a FLASK_LEAVE in progress has nothing more to give up and completes
(R316; DEDUCED). -/
def fenceFlask (s : State) : State :=
  match (if s.flk.phase = .leaving then s.flk.cmd else none) with
  | some q => completeWith (dropFlask s) q stOk
  | none => dropFlask s

/-- The endpoint is fenced: its operations end, what the epoch holds is destroyed, and it sends no more. A join in progress has no
window yet; what it had heard goes, and FLASK_JOIN ends by a join under a later epoch or at its timeout (R316, R446). -/
def fenceEndpoint (s : State) (seq : Nat) : State :=
  let s := setFld (setFld s Fld.XRT_EP_FENCED 1) Fld.XRT_EP_DRAINING 1
  let s := fenceGroups s
  let s := s.fab.remotes.foldl (fun s e => failRemote s e.1 0) s
  let s := s.fab.mcastOut.foldl (fun s e => e.2.leaves.foldl (fun s l => mcastLeaf s e.1 l false) s) s
  let s := if s.flk.phase = .joining || s.flk.phase = .ready
    then { s with flk := { s.flk with phase := .joining, joined := [], readied := [] } } else fenceFlask s
  { s with fab := { s.fab with
    mcast := [], mcastGone := s.fab.mcast.foldl (fun t e => insertK e.1 e.2 t) s.fab.mcastGone, mcastIn := [], rx := [], rxKept := [], held := [], inject := s.fab.inject.filter fun o => o.pkt.kind = 3
    eject := [], slots := [], fence := { seqs := s.fab.fence.seqs.filter (· ≠ seq) ++ [seq] } } }

/-- FENCE_DRAIN_DONE (R432): no packet of the endpoint remains; every EP_FENCE that waits completes and the quarantine begins. -/
def execFenceDrainDone (s : State) : Out :=
  if !flag s Fld.XRT_EP_DRAINING then .next s
  else
    let end_ := s.ticks + 2500
    let s := setFld (setFld s Fld.XRT_EP_DRAINING 0) Fld.XRT_EP_QUARANTINE 1
    let s := setRaw s Reg.XRT_QUAR_END 0 0 end_
    let seqs := s.fab.fence.seqs
    let s := { s with fab := { s.fab with tx := [], fence := {} } }
    .next (seqs.foldl (fun s q => completeWith s q stOk 0 end_) s)

/-- QUARANTINE_END (R432). -/
def execQuarantineEnd (s : State) : Out := .next (setFld s Fld.XRT_EP_QUARANTINE 0)

end Sys2Proof.Machine
end

