-- ==== Sys2Proof/Machine/CommandsFabric.lean ====
section
/-!
DEFINITION. The fabric and flask commands (R315, R316, R433–R438, R445–R449, R460–R462).
-/
namespace Sys2Proof.Machine

/-! ## Endpoint and epoch -/

/-- No endpoint ID is set. -/
def noEndpoint (s : State) : Bool := !flag s Fld.XRT_EP_VALID
def epFenced (s : State) : Bool := flag s Fld.XRT_EP_FENCED

/-- EP_CONFIG: an epoch is in force on an endpoint that is set and not fenced. -/
def execEpConfig (seq : Nat) (s : State) : Out :=
  runCmd s seq 0xC0 (fun c => firstFail [
    (!noEndpoint s && endpointId s ≠ pktBits c.pkt 24 0 20, { num := 1 }),
    (!noEndpoint s && !epFenced s, { num := 2 })]) fun _ => endsOk s seq

/-- EP_CONFIG at commit: an endpoint with no ID set is live at once; a fenced one stays as it is (R316, R433). -/
def commitEpConfig (s : State) (c : OpenCmd) : State :=
  if !noEndpoint s then s
  else
    let ep := pktBits c.pkt 24 0 20
    let s := setFld (setFld s Fld.XRT_EP_ENDPOINT ep) Fld.XRT_EP_VALID 1
    setFld (setFld s Fld.XRT_EP_FENCED 0) Fld.XRT_EP_EPOCH (pktBits c.pkt 28 0 16)

/-- EP_FENCE (R432): it completes when the drain is done. -/
def execEpFence (seq : Nat) (s : State) : Out :=
  runCmd s seq 0xC1 (fun _ => firstFail [(noEndpoint s, { num := 1 })]) fun _ =>
    settleWork (fenceEndpoint (startWork s seq) seq)

/-- EP_EPOCH. -/
def execEpEpoch (seq : Nat) (s : State) : Out :=
  runCmd s seq 0xC2 (fun c => firstFail [
    (!epFenced s, { num := 1 }),
    (flag s Fld.XRT_EP_QUARANTINE || flag s Fld.XRT_EP_DRAINING, { num := 2 }),
    (pktBits c.pkt 28 0 16 = curEpoch s, { num := 3 })]) fun _ => endsOk s seq

/-- EP_EPOCH at commit: the new epoch is in force, and every flow starts afresh (R316, R432). -/
def commitEpEpoch (s : State) (c : OpenCmd) : State :=
  let s := setFld s Fld.XRT_EP_PREV_EPOCH (curEpoch s)
  let s := setFld (setFld s Fld.XRT_EP_EPOCH (pktBits c.pkt 28 0 16)) Fld.XRT_EP_FENCED 0
  { s with fab := { s.fab with tx := [], rx := [], rxKept := [] } }

/-- The 4-byte entries of a list of endpoints. -/
def endpointList (bs : List Byte) : List Nat := (chunksOf 4 bs (bs.length / 4)).map leNat

/-- Reserved bits of an entry are set (R10). -/
def listReserved (l : List Nat) : Bool := l.any fun e => 2 ^ 20 ≤ e

/-- JOB_ADMIT (R433): the endpoints of LIST are probed. -/
def execJobAdmit (seq : Nat) (s : State) : Out :=
  runCmd s seq 0xC3 (fun c =>
    let l := endpointList (c.payload.getD [])
    firstFail [(listReserved l, { num := 0 }), (noEndpoint s, { num := 1 }), (!l.contains (endpointId s), { num := 2 })]) fun c =>
    let a : Admit := { list := endpointList (c.payload.getD []), confirmed := if epFenced s then [] else [endpointId s]
                       start := s.ticks, timeoutUs := pktBits c.pkt 36 0 32 }
    let s := startWork s seq
    let s := { s with fab := { s.fab with admits := insertK seq a s.fab.admits } }
    admitCheck (sendProbes s a) seq

/-! ## Multicast -/

/-- A multicast group entry that 64 bytes and its leaves spell (R434). -/
def mcastEntry (bs : List Byte) : McastEntry :=
  let d := byteField bs 8 4
  { epoch := byteField bs 2 2, root := byteField bs 4 4 % 2 ^ 20, down := d % 2 ^ 20, local_ := bitOf d 20
    up := bitsOf d 21 5, leaves := endpointList ((bs.drop 64).take (4 * byteField bs 12 1)) }

/-- The entry fails its checks (R434, R435). -/
def mcastEntryBad (s : State) (group : Nat) (bs : List Byte) : Bool :=
  let e := mcastEntry bs
  let me := endpointId s
  let n := byteField bs 12 1
  byteField bs 0 2 ≠ group || e.epoch ≠ curEpoch s || 2 ^ 20 ≤ byteField bs 4 4 || 2 ^ 26 ≤ byteField bs 8 4 ||
  (19 < e.up && e.up ≠ 31) || n = 0 || 128 < n || byteField bs 13 1 ≠ 0 || (bs.drop 14).take 50 ≠ List.replicate 50 0 ||
  listReserved e.leaves || (upFrom 0 20).any (fun p => bitOf e.down p && !portNamed s p) ||
  e.leaves.eraseDups.length ≠ e.leaves.length || e.local_ ≠ e.leaves.contains me || (e.up = 31) ≠ (e.root = me)

/-- MCAST_SET. An entry that passes its checks and whose UP names a port that is fused off ends with ST_ENGINE_ABSENT (R4; that it comes
after the checks is DEDUCED from the order of acceptance, where the checks come first). -/
def execMcastSet (seq : Nat) (s : State) : Out :=
  runCmd s seq 0xC8 (fun c =>
    let bs := c.payload.getD []
    firstFail [(mcastEntryBad s (pktBits c.pkt 24 0 12) bs, { num := 1 }),
      ((mcastEntry bs).up < 20 && portFused s (mcastEntry bs).up, { num := 0, status := stEngineAbsent })])
    fun _ => endsOk s seq

/-- MCAST_SET at commit. -/
def commitMcastSet (s : State) (c : OpenCmd) : State :=
  { s with fab := { s.fab with mcast := insertK (pktBits c.pkt 24 0 12) (mcastEntry (c.payload.getD [])) s.fab.mcast } }

/-- MGROUP holds no entry under the current epoch. -/
def noMcast (s : State) (c : OpenCmd) : Bool := (mcastFor s (pktBits c.pkt 24 0 12) (curEpoch s)).isNone

/-- MCAST_CLEAR. -/
def execMcastClear (seq : Nat) (s : State) : Out :=
  runCmd s seq 0xC9 (fun c => firstFail [(noMcast s c, { num := 1 })]) fun _ => endsOk s seq

/-- MCAST_CLEAR at commit. -/
def commitMcastClear (s : State) (c : OpenCmd) : State :=
  { s with fab := { s.fab with mcast := eraseK (pktBits c.pkt 24 0 12) s.fab.mcast } }

/-- What a command reads of the local weight space before it sends: the bytes, or what they wait for (R390, R394, R454). -/
def localRead (s : State) (a n : Nat) : Rd :=
  coherentRead s 0 (fun a n => match firstLost s a n with
    | some q => .lost q
    | none => match absentPages s a n with
      | [] => .ok (wspBytes s a n)
      | ps => .absent ps) a n

/-- A command with its local data at hand goes on; one that waits asks for what it lacks; LOST data ends it (R394). -/
def withLocal (s : State) (seq a n : Nat) (go : State → List Byte → State) : State :=
  match localRead s a n with
  | .ok bs => go (noteReads s a n) bs
  | .lost q => completeWith (meetLost s q) seq stUncorrectable 0 (max a (q * pageBytes))
  | .absent ps => ps.foldl (fun s p => queueMove s { kind := .demand, page := p }) s
  | .lines ls => askLines s ls
  | .fault _ _ => s

/-- MCAST_SEND (R436): the message is cut into packets that enter the tree; data on a page that is not mapped ends it (R600). -/
def execMcastSend (seq : Nat) (s : State) : Out :=
  runCmd s seq 0xCA (fun c => firstFail [(noMcast s c, { num := 1 })]) fun c =>
    let a := pktBits c.pkt 32 0 48
    let n := pktBits c.pkt 48 0 32
    match firstUnmapped s c.func a n, mcastFor s (pktBits c.pkt 24 0 12) (curEpoch s) with
    | some q, _ => completeWith s seq stBadParam 0 (max a (q * pageBytes))
    | _, none => s
    | none, some e => withLocal s seq a n fun s bs =>
      let m : McastOut := { group := pktBits c.pkt 24 0 12, msg := s.fab.mcastNext, addr := pktBits c.pkt 40 0 48, data := bs
                            leaves := e.leaves, at_ := s.ticks }
      let s := (startWork s seq).modCmd seq fun c => { c with pinned := true }
      let s := { s with fab := { s.fab with mcastNext := (s.fab.mcastNext + 1) % 2 ^ 32
                                            mcastOut := insertK seq m s.fab.mcastOut } }
      m.packets.foldl (fun s p => sendMcastPkt s c.func seq m e none p) s

/-! ## Remote operations (R460–R462) -/

/-- The preconditions of REMOTE_WRITE and REMOTE_READ. -/
def remotePre (s : State) (c : OpenCmd) : Option PreFail :=
  let bad := firstUnmapped s c.func (pktBits c.pkt 40 0 48) (pktBits c.pkt 48 0 32)
  firstFail [(noEndpoint s, { num := 1 }),
    (bad.isSome, { num := 2, word0 := bad.getD 0 * pageBytes })]

/-- A range cut at multiples of 4,096 bytes from its start: offset and length. -/
def remotePieces (n : Nat) : List (Nat × Nat) :=
  (upFrom 0 (ceilDiv n 4096)).map fun i => (4096 * i, min 4096 (n - 4096 * i))

/-- REMOTE_WRITE: its packets go out in ascending order; it completes when all are acknowledged. -/
def execRemoteWrite (seq : Nat) (s : State) : Out :=
  runCmd s seq 0xD4 (remotePre s) fun c =>
    let dest := pktBits c.pkt 24 0 20
    let ra := pktBits c.pkt 32 0 48
    let la := pktBits c.pkt 40 0 48
    let n := pktBits c.pkt 48 0 32
    match freeRemoteTid s dest with
    | none => s
    | some tid => withLocal s seq la n fun s bs =>
      let ps := remotePieces n
      let s := takeTid ((startWork s seq).modCmd seq fun c => { c with pinned := true }) dest tid seq
      let s := s.setRemote seq { dest, op := 1, laddr := la, len := n, unacked := ps.length }
      ps.foldl (fun s p => sendRemote s c.func dest false (.remote seq)
        { op := 1, tid, dlen := p.2, addr := ra + p.1, data := (bs.drop p.1).take p.2 }) s

/-- REMOTE_READ: its requests go out as transaction IDs allow. -/
def execRemoteRead (seq : Nat) (s : State) : Out :=
  runCmd s seq 0xD5 (remotePre s) fun c =>
    let ra := pktBits c.pkt 32 0 48
    let n := pktBits c.pkt 48 0 32
    let rest := (remotePieces n).map fun p => (ra + p.1, p.1, p.2)
    let s := ((startWork s seq).modCmd seq fun x => { x with dest := [(pktBits c.pkt 40 0 48, n)] }).setRemote seq
      { dest := pktBits c.pkt 24 0 20, op := 2, laddr := pktBits c.pkt 40 0 48, len := n, rest }
    askRemote s seq c.func 256

/-- REMOTE_ATOMIC. -/
def execRemoteAtomic (seq : Nat) (s : State) : Out :=
  runCmd s seq 0xD6 (fun _ => firstFail [(noEndpoint s, { num := 1 })]) fun c =>
    let dest := pktBits c.pkt 24 0 20
    match freeRemoteTid s dest with
    | none => s
    | some tid =>
      let s := takeTid ((startWork s seq).modCmd seq fun c => { c with pinned := true }) dest tid seq
      let s := s.setRemote seq { dest, op := 4, len := 8, wanted := [(tid, (0, 8))] }
      sendRemote s c.func dest false (.remote seq)
        { op := 4, tid, type := pktBits c.pkt 28 2 2, aop := pktBits c.pkt 28 0 2, dlen := 16, addr := pktBits c.pkt 32 0 48
          data := leBytes 8 (pktBits c.pkt 40 0 64) ++ leBytes 8 (pktBits c.pkt 48 0 64) }

/-! ## The flask -/

/-- FLASK_JOIN (R445): JOIN goes to every other endpoint of LIST. -/
def execFlaskJoin (seq : Nat) (s : State) : Out :=
  runCmd s seq 0xD0 (fun c =>
    let l := endpointList (c.payload.getD [])
    let w := pktBits c.pkt 40 0 48
    firstFail [(listReserved l, { num := 0 }), (s.flk.phase ≠ .out, { num := 1 }),
      (noEndpoint s || !l.contains (endpointId s) || l.eraseDups.length ≠ l.length, { num := 2 }),
      ((firstUnmapped s c.func w windowBytes).isSome, { num := 3, word0 := ((firstUnmapped s c.func w windowBytes).getD 0) * pageBytes })]) fun c =>
    let l := endpointList (c.payload.getD [])
    let rank := ((l.zip (upFrom 0 l.length)).lookup (endpointId s)).getD 0
    let f : FlaskState := { phase := .joining, id := pktBits c.pkt 24 0 16, members := l, rank, window := pktBits c.pkt 40 0 48
                            cmd := some seq, start := s.ticks, timeoutUs := pktBits c.pkt 48 0 32, poisoned := s.flk.poisoned }
    let s := { startWork s seq with flk := f }
    joinAdvance ((peerRanks s).foldl sendJoin s)

/-- FLASK_LEAVE (R449). -/
def execFlaskLeave (seq : Nat) (s : State) : Out :=
  runCmd s seq 0xD1 (fun _ => firstFail [(!inFlask s, { num := 1 })]) fun _ =>
    let s := startWork s seq
    leaveAdvance { s with flk := { s.flk with phase := .leaving, cmd := some seq } }

end Sys2Proof.Machine
end

