-- ==== Sys2Proof/Machine/FabricRows.lean ====
section
/-!
DEFINITION. The rows of the flask and of remote operations: their packets' arrivals and their timers (R445–R463).
-/
namespace Sys2Proof.Machine

/-! ## The frame of an arrival -/

/-- The delivered packet that carries a REMOTE or FLASK payload. -/
def rmPacket (proto : Nat) (i : RmIn) (e : XlPkt) : Bool :=
  e.proto = proto && e.src = i.src && e.seq = i.seq && e.tc = i.tc && parseRm (proto = 1) e.payload = some i.rm

/-- The packet waits in the ejection queue. -/
def rmWaiting (s : State) (proto : Nat) (i : RmIn) : Bool := s.fab.eject.any (rmPacket proto i)

/-- It is consumed. -/
def rmConsume (s : State) (proto : Nat) (i : RmIn) : State :=
  { s with fab := { s.fab with eject := s.fab.eject.eraseP (rmPacket proto i) } }

/-- Its data, without the padding. -/
def RmPkt.bytes (p : RmPkt) : List Byte := p.data.take p.dlen

/-- The sending member of a FLASK packet, where it is one that is up (R456, R459). -/
def flaskSender (s : State) (i : RmIn) : Option Nat :=
  if i.rm.flask = s.flk.id && i.src = s.flk.members.getD i.rm.rank 0 && rankUp s i.rm.rank && i.rm.rank ≠ s.flk.rank
  then some i.rm.rank else none

/-- The frame of a FLASK packet's row: one of another epoch, flask or of no member is discarded. -/
def recvFlask (s : State) (i : RmIn) (op : Nat) (f : State → Nat → State) : Out :=
  if i.rm.op ≠ op || !epochOk s i.epoch || !stoked s then .next s
  else
    let s := rmConsume s 2 i
    match flaskSender s i with
    | none => .next s
    | some r =>
      let (lost, s) := if op = 0x26 || op = 0x27 then inject s 0xF r else (false, s)
      if lost then .next s else .next (settleWork (leaveAdvance (resumeLines (f s r))))

/-- The line a FLASK packet names. -/
def RmIn.line (i : RmIn) : Nat := i.rm.addr / lineBytes

/-! ## Forming and leaving (R445–R449) -/

/-- JOIN (R445, R446): a matching one counts, and the first of a peer is answered. -/
def execJoin (msg : JoinMsg) (s : State) : Out :=
  if !epochOk s msg.epoch then .next s
  else
    let eject := s.fab.eject.eraseP fun e => e.proto = 2 && e.src = msg.src && byteField e.payload 0 1 = 0x10
    let s := { s with fab := { s.fab with eject } }
    match rankOfEp s msg.src with
    | none => .next s
    | some r =>
      let ok := s.flk.phase ≠ .out && msg.flask = s.flk.id && msg.count = s.flk.members.length &&
        msg.digest = listDigest s.flk.members && msg.major = 1 && r ≠ s.flk.rank
      if !ok || hasK r s.flk.joined then .next s
      else
        let s := sendJoin { s with flk := { s.flk with joined := insertK r msg.minor s.flk.joined } } r
        .next (joinAdvance s)

/-- READY (R445). -/
def execReady (i : RmIn) (s : State) : Out :=
  if i.rm.op ≠ 0x11 || !epochOk s i.epoch then .next s
  else
    let s := rmConsume s 2 i
    match rankOfEp s i.src with
    | none => .next s
    | some r =>
      if s.flk.phase = .out || i.rm.flask ≠ s.flk.id || s.flk.readied.contains r then .next s
      else .next (joinAdvance { s with flk := { s.flk with readied := r :: s.flk.readied } })

/-- ABORT_JOIN (R446): after the join completed, its sender is lost; before, its JOIN no longer counts. -/
def execAbortJoin (i : RmIn) (s : State) : Out :=
  if i.rm.op ≠ 0x12 || !epochOk s i.epoch then .next s
  else
    let s := rmConsume s 2 i
    match rankOfEp s i.src with
    | none => .next s
    | some r =>
      if i.rm.flask ≠ s.flk.id then .next s
      else if inFlask s then .next (settleWork (resumeLines (declareLost s r)))
      else .next { s with flk := { s.flk with joined := eraseK r s.flk.joined, readied := s.flk.readied.filter (· ≠ r) } }

/-- The LEAVE of a member that has left already: it has had no ACK, and gets it again (R458). -/
def leftAgain (s : State) (i : RmIn) : Bool :=
  i.rm.op = 0x13 && epochOk s i.epoch && stoked s && inFlask s && i.rm.flask = s.flk.id && s.flk.left.contains i.rm.rank &&
    i.src = s.flk.members.getD i.rm.rank 0

/-- LEAVE (R449): the sender has left cleanly. -/
def execLeave (i : RmIn) (s : State) : Out :=
  if leftAgain s i then .next (sendFlask (rmConsume s 2 i) i.rm.rank 0x27 i.rm.tid 0 [] false)
  else recvFlask s i 0x13 fun s r =>
    let s := sendFlask s r 0x27 i.rm.tid 0 [] false
    let f := s.flk
    let dir := (f.dir.map fun e => (e.1, e.2.without r)).filter fun e => e.2.owner.isSome || !e.2.sharers.isEmpty
    let cache := f.cache.filter fun e => e.1 / 2 ^ 28 ≠ r
    let txns := f.txns.filter fun e => e.1 / 256 ≠ r
    let home := (f.home.filter fun h => h.rank ≠ r).map fun h => { h with waits := h.waits.filter fun w => w.1 ≠ r }
    let kept : FlaskState := { f with left := f.left ++ [r], cache, txns, dir, home }
    homePump (flkRegs { s with flk := kept })

/-- LOST (R459): the sender names a lost rank. -/
def execLost (i : RmIn) (s : State) : Out :=
  recvFlask s i 0x14 fun s r => learnLost (sendFlask s r 0x27 i.rm.tid 0 [] false) i.line

/-- FLASK_JOIN_RETRY (R445). -/
def execFlaskJoinRetry (s : State) : Out :=
  if s.flk.phase ≠ .joining then .next s
  else .next ((peerRanks s).foldl (fun s r => if hasK r s.flk.joined then s else sendJoin s r) s)

/-- FLASK_JOIN_TIMEOUT (R446). -/
def execFlaskJoinTimeout (s : State) : Out :=
  match s.flk.cmd with
  | none => .next s
  | some seq =>
    if s.flk.phase ≠ .joining && s.flk.phase ≠ .ready then .next s
    else
      let missing := (peerRanks s).filter fun r => !(hasK r s.flk.joined && s.flk.readied.contains r)
      let s := (peerRanks s).foldl (fun s r => sendFlask s r 0x12 0 0 [] false) s
      let first := missing.headD 0
      let ep := s.flk.members.getD first 0
      .next (completeWith (dropFlask s) seq stNotConfirmed missing.length ep first)

/-! ## Coherence (R452–R458) -/

/-- A request at the home: a TID already open from that rank continues the open transaction (R457, R458). -/
def homeRequest (s : State) (i : RmIn) (r : Nat) : State :=
  if s.flk.home.any fun h => h.rank = r && h.tid = i.rm.tid then s
  else homePump { s with flk := { s.flk with home := s.flk.home ++ [{ rank := r, tid := i.rm.tid, op := i.rm.op, line := i.line }] } }

/-- GET_S (R455, R457). -/
def execGetS (i : RmIn) (s : State) : Out := recvFlask s i 0x20 fun s r => homeRequest s i r
/-- GET_M (R455, R457). -/
def execGetM (i : RmIn) (s : State) : Out := recvFlask s i 0x21 fun s r => homeRequest s i r

/-- PUT_M (R457): the owner's line is stored, and acknowledged. -/
def execPutM (i : RmIn) (s : State) : Out :=
  recvFlask s i 0x22 fun s r =>
    let e := dirOf s i.line
    let s := if e.owner = some r then
        setDir (wspStore true s (s.flk.window + i.line * lineBytes) i.rm.bytes) i.line { e with owner := none }
      else s
    homePump (sendFlask s r 0x27 i.rm.tid i.rm.addr [] false)

/-- A line given up by a sharer or an owner; a request for it that is open will be made again (R457). -/
def giveUp (s : State) (r line : Nat) : State :=
  let txns := s.flk.txns.map fun e => if e.1 / 256 = r && e.2.line = line && (e.2.op = 0x20 || e.2.op = 0x21)
    then (e.1, { e.2 with stale := true }) else e
  { s with flk := { s.flk with cache := eraseK (lineKey r line) s.flk.cache, txns } }

/-- INV (R452, R457). -/
def execInv (i : RmIn) (s : State) : Out :=
  recvFlask s i 0x24 fun s r => sendFlask (giveUp (timingOpen (count s bankFlk 3)) r i.line) r 0x27 i.rm.tid i.rm.addr [] true

/-- RECALL (R457): the line goes back with its data, or an ACK does where it is not held in M; a RECALL sent again gets the data it has
had already (R458). -/
def execRecall (i : RmIn) (s : State) : Out :=
  recvFlask s i 0x25 fun s r =>
    let s := timingOpen (count s bankFlk 3)
    match lookup (lineKey r i.line) s.flk.cache with
    | some c =>
      if c.modified then
        let s := giveUp s r i.line
        let s := { s with flk := { s.flk with given := insertK (r * 256 + i.rm.tid) (i.line, c.data) s.flk.given } }
        sendFlask s r 0x26 i.rm.tid i.rm.addr c.data true
      else sendFlask (giveUp s r i.line) r 0x27 i.rm.tid i.rm.addr [] true
    | none => match lookup (r * 256 + i.rm.tid) s.flk.given with
      | some (l, bs) => if l = i.line then sendFlask s r 0x26 i.rm.tid i.rm.addr bs true
        else sendFlask (giveUp s r i.line) r 0x27 i.rm.tid i.rm.addr [] true
      | none => sendFlask (giveUp s r i.line) r 0x27 i.rm.tid i.rm.addr [] true

/-- FLASK_DATA (R456, R457): the answer to a GET fills the cache; the answer to a RECALL goes to the home's memory. -/
def execFlaskData (i : RmIn) (s : State) : Out :=
  recvFlask s i 0x26 fun s r =>
    let key := r * 256 + i.rm.tid
    match lookup key s.flk.txns with
    | none => s
    | some t =>
      if t.op = 0x25 then homeEnded s r i.rm.tid i.rm.bytes
      else if t.op ≠ 0x20 && t.op ≠ 0x21 then s
      else if t.stale then
        let s := { s with flk := { s.flk with txns := insertK key { t with stale := false } s.flk.txns } }
        sendFlask s r t.op i.rm.tid (t.line * lineBytes) [] false
      else
        let line : FlaskLine := { modified := t.op = 0x21, data := i.rm.bytes }
        { s with flk := { s.flk with
          txns := eraseK key s.flk.txns
          cache := insertK (lineKey r t.line) line s.flk.cache
          given := s.flk.given.filter fun e => e.1 / 256 ≠ r || e.2.1 ≠ t.line } }

/-- FLASK_ACK (R456, R457): it ends an INV, a RECALL without data, a PUT_M, a LEAVE or a LOST. -/
def execFlaskAck (i : RmIn) (s : State) : Out :=
  recvFlask s i 0x27 fun s r =>
    let key := r * 256 + i.rm.tid
    match lookup key s.flk.txns with
    | none => s
    | some t =>
      if t.op = 0x24 || t.op = 0x25 then homeEnded s r i.rm.tid []
      else if t.op = 0x20 || t.op = 0x21 then s
      else { s with flk := { s.flk with txns := eraseK key s.flk.txns } }

/-- FLASK_RETRY (R458). -/
def execFlaskRetry (rank tid : Nat) (s : State) : Out := .next (settleWork (resumeLines (retryTxn s (rank * 256 + tid % 256))))

/-- FLASK_LINE_DROP (R452): a line held in S goes without a message. -/
def execFlaskLineDrop (rank line : Nat) (s : State) : Out :=
  match lookup (lineKey rank line) s.flk.cache with
  | none => .next s
  | some c => if c.modified then .next s
    else .next { s with flk := { s.flk with cache := eraseK (lineKey rank line) s.flk.cache } }

/-! ## Remote operations at their target (R460–R463) -/

/-- Why a target does not apply an operation: 0 a page is not mapped, 1 a window before flask 1.2. What it reads may be LOST besides, which
is type 2 of its answer. -/
def remoteRefusal (s : State) (a n : Nat) : Option Nat :=
  if inAperture a || 2 ^ 48 < a + n then some 0
  else if (pagesOf a n).any fun p => (s.page p).isNone || heldPage s p then some 0
  else if inFlask s && s.flk.minor < 2 && rangesMeet a n s.flk.window windowBytes then some 1
  else none

/-- A response of this module to a remote request; it holds a response slot until it is acknowledged. -/
def respond (s : State) (i : RmIn) (op type : Nat) (data : List Byte) (slot : Bool) : State :=
  sendRemote s 0 i.src true (if slot then .response i.slice else .none)
    { op, tid := i.rm.tid, type, dlen := data.length, addr := i.rm.addr, data }

/-- The frame of a remote request's row. -/
def recvRemote (s : State) (i : RmIn) (op : Nat) (f : State → State) : Out :=
  if i.rm.op ≠ op || !epochOk s i.epoch || !stoked s then .next s else .next (settleWork (f s))

/-- WRITE (R460, R463): the data is written in order; a window's other copies are called in first. What it writes may be LOST (R393). -/
def execWrite (i : RmIn) (s : State) : Out :=
  recvRemote s i 1 fun s =>
    let a := i.rm.addr
    match remoteRefusal s a i.rm.dlen with
    | some t => respond (rmConsume s 1 i) i 3 t [] false
    | none => match coherentReady s a i.rm.dlen with
      | .lines ls => askLines s ls
      | _ => coherentWrite (rmConsume s 1 i) (fun s a bs => wspStore true s a bs) a i.rm.bytes

/-- A request that came without its delivery takes a response slot, or is refused for want of one (R461). -/
def slotFor (s : State) (i : RmIn) : Option State :=
  if rmWaiting s 1 i then some s
  else
    let used := lookupD 0 i.slice s.fab.slots
    if 2048 ≤ used then none else some { s with fab := { s.fab with slots := insertK i.slice (used + 1) s.fab.slots } }

/-- The refusal of a request for want of a response slot: NACK reason 2, and the number has not arrived (R461). -/
def refuseSlot (s : State) (i : RmIn) : State :=
  let key := flowKey i.src i.tc
  let rx := modifyK key (fun (f : RxFlow) => if seqAhead i.seq f.expected < 32768
    then { f with arrived := f.arrived.filter (· ≠ i.seq) } else { f with expected := i.seq }) s.fab.rx
  let s := { s with fab := { s.fab with rx } }
  count (sendNack s { src := i.src, tc := i.tc, seq := i.seq } 2) bankFlk 8

/-- READ (R461, R463). -/
def execRead (i : RmIn) (s : State) : Out :=
  recvRemote s i 2 fun s =>
    let a := i.rm.addr
    match remoteRefusal s a i.rm.dlen with
    | some t => match slotFor s i with
      | none => refuseSlot s i
      | some s => respond (rmConsume s 1 i) i 3 t [] true
    | none => match localRead s a i.rm.dlen with
      | .ok bs => match slotFor s i with
        | none => refuseSlot s i
        | some s => respond (rmConsume (noteReads s a i.rm.dlen) 1 i) i 3 0 bs true
      | .absent ps => ps.foldl (fun s p => queueMove s { kind := .demand, page := p }) s
      | .lines ls => askLines s ls
      | .lost q => match slotFor s i with
        | none => refuseSlot s i
        | some s => respond (rmConsume (meetLost s q) 1 i) i 3 2 [] true
      | .fault _ _ => s

/-- The value that an atomic leaves, of `w` bits (R316, R462). -/
def atomicValue (aop type w old operand compare : Nat) : Nat :=
  let m := 2 ^ w
  let less := fun (a b : Nat) => if type % 2 = 0 then decide (signedOf w a < signedOf w b) else decide (a < b)
  let x := operand % m
  if aop = 0 then (old + x) % m
  else if aop = 1 then (if less x old then x else old)
  else if aop = 2 then (if less old x then x else old)
  else if old = compare % m then x else old

/-- ATOMIC (R462, R463). -/
def execAtomic (i : RmIn) (s : State) : Out :=
  recvRemote s i 4 fun s =>
    let n := if i.rm.type < 2 then 8 else 4
    let a := i.rm.addr
    match remoteRefusal s a n with
    | some t => match slotFor s i with
      | none => refuseSlot s i
      | some s => respond (rmConsume s 1 i) i 5 t [] true
    | none => match localRead s a n, coherentReady s a n with
      | .absent ps, _ => ps.foldl (fun s p => queueMove s { kind := .demand, page := p }) s
      | _, .lines ls => askLines s ls
      | .lines ls, _ => askLines s ls
      | .lost q, _ => match slotFor s i with
        | none => refuseSlot s i
        | some s => respond (rmConsume (meetLost s q) 1 i) i 5 2 [] true
      | .ok bs, _ => match slotFor s i with
        | none => refuseSlot s i
        | some s =>
          let old := leNat bs
          let v := atomicValue i.rm.aop i.rm.type (8 * n) old (leNat (i.rm.data.take 8)) (leNat ((i.rm.data.drop 8).take 8))
          let s := count (coherentWrite (rmConsume (noteReads s a n) 1 i) (fun s a bs => wspStore true s a bs) a (leBytes n v)) bankFlk 9
          respond s i 5 0 (leBytes 8 old) true
      | _, _ => s

/-- What a target's refusal makes of the command (R316, R447, R394). -/
def refusedRemote (type : Nat) : Result :=
  if type = 0 then { status := stBadParam, detail := 0x0010 }
  else if type = 1 then { status := stBadParam, detail := 0x0020 }
  else { status := stUncorrectable }

/-- The remote command that a response answers. -/
def remoteOf (s : State) (i : RmIn) : Option (Nat × RemoteOp) :=
  match lookup (i.src * 256 + i.rm.tid) s.fab.tids with
  | none => none
  | some seq => (s.remote seq).map fun x => (seq, x)

/-- READ_DATA (R460): the data of one request arrives; or a target refuses. -/
def execReadData (i : RmIn) (s : State) : Out :=
  recvRemote s i 3 fun s =>
    let s := rmConsume s 1 i
    match remoteOf s i with
    | none => s
    | some (seq, x) =>
      if i.rm.dlen = 0 then endRemote s seq (refusedRemote i.rm.type)
      else match lookup i.rm.tid x.wanted with
        | none => s
        | some (off, _) =>
          let x := { x with wanted := eraseK i.rm.tid x.wanted, data := writeBytes off i.rm.bytes x.data }
          let s := { s with fab := { s.fab with tids := eraseK (i.src * 256 + i.rm.tid) s.fab.tids } }
          let func := match s.cmd seq with | some c => c.func | none => 0
          finishRead (askRemote (s.setRemote seq x) seq func 1) seq

/-- ATOMIC_RESULT (R462): the value found completes REMOTE_ATOMIC. -/
def execAtomicResult (i : RmIn) (s : State) : Out :=
  recvRemote s i 5 fun s =>
    let s := rmConsume s 1 i
    match remoteOf s i with
    | none => s
    | some (seq, _) =>
      if i.rm.dlen = 0 then endRemote s seq (refusedRemote i.rm.type)
      else endRemote s seq { status := stOk, word0 := leNat i.rm.bytes }

end Sys2Proof.Machine
end

