-- ==== Sys2Proof/Machine/Regions.lean ====
section
/-!
DEFINITION. The regions of commands in the weight space (the parameter tables of "Command reference"), and the pages that PAGE_UNMAP
leaves alone (R304).
-/
namespace Sys2Proof.Machine

/-! ## PACK24 and SHADOW_BUILD (R306) -/

def pkSrc (p : Packet) : Nat := pktBits p 24 0 48
def pkFmt (p : Packet) : Nat := pktBits p 24 48 4
def pkFlag (p : Packet) : Bool := pktBits p 24 52 1 == 1
def pkDst (p : Packet) : Nat := pktBits p 32 0 48
def pkK (p : Packet) : Nat := pktBits p 40 0 20
def pkRows (p : Packet) : Nat := pktBits p 44 0 32
def pkComp (p : Packet) : Nat := pktBits p 48 0 48
def pkPack (p : Packet) : Bool := pOpcode p = 0x4C
/-- 256-element units of a row. -/
def pkUnits (p : Packet) : Nat := ceilDiv (pkK p) 256
/-- Bytes of a source unit, dense or packed. -/
def pkUnit (p : Packet) : Nat := if !pkPack p && pkFlag p then packedBytes (pkFmt p) else segBytes (pkFmt p)
/-- Bytes of a source row and of a destination row. -/
def pkSrcRow (p : Packet) : Nat := pkUnits p * pkUnit p
def pkDstRow (p : Packet) : Nat := if pkPack p then pkUnits p * packedBytes (pkFmt p) else 8 + 136 * pkUnits p
/-- The source ranges: SRC, and COMP where it is given. -/
def pkSources (p : Packet) : List (Nat × Nat) :=
  (pkSrc p, pkRows p * pkSrcRow p) :: (if pkPack p || pkComp p = 0 then [] else [(pkComp p, pkRows p * pkSrcRow p)])
def pkDest (p : Packet) : Nat × Nat := (pkDst p, pkRows p * pkDstRow p)

/-! ## Open commands -/

/-- The source and destination ranges of an open command in the weight space: of a STEP or COLLECTIVE those it found when it took effect,
or would find now. -/
def cmdRegions (s : State) (c : OpenCmd) : List (Nat × Nat) :=
  let p := c.pkt
  let op := pOpcode p
  if op = 0x42 || op = 0x43 then [(pktBits p 32 0 48, pktBits p 40 0 32)]
  else if op = 0x4C || op = 0x4D then pkDest p :: pkSources p
  else if op = 0xCA then [(pktBits p 32 0 48, pktBits p 48 0 32)]
  else if op = 0xD4 || op = 0xD5 then [(pktBits p 40 0 48, pktBits p 48 0 32)]
  else if op = 0xD0 then [(pktBits p 40 0 48, 2 ^ 36)]
  else if !c.regions.isEmpty then c.regions
  else if isStepOp p then
    (match (programById s (pStepImage p)).bind fun g => g.binding (pStepLayer p) with
     | some b => (stepRanges s b p).2 ++ (stepRanges s b p).1
     | none => [])
  else if op = 0xA8 then
    (match s.group (pktBits p 24 0 16) with
     | some g => collRanges s p g.members.length
     | none => [])
  else []

/-- The page lies in a region of an open command, in a context's state area, in this module's window while it is in a
flask, or in the collector's ring (R304, R323, R448, R584). -/
def pageInUse (s : State) (p : Nat) : Bool :=
  ringPage s p ||
  ((s.flk.phase = .member || s.flk.phase = .leaving) && rangesMeet s.flk.window (2 ^ 36) (p * pageBytes) pageBytes) ||
  (s.cp.cmds.any fun e => e.2.phase != .accepting &&
    (cmdRegions s e.2).any fun d => rangesMeet d.1 d.2 (p * pageBytes) pageBytes) ||
  (match s.page p with | some d => d.ctxHeld | none => false)

end Sys2Proof.Machine
end

