-- ==== Sys2Proof/Machine/CommandsWsp.lean ====
section
/-!
DEFINITION. The commands on pages and pour lists (R304, R305, R382–R389), and the events of the memory tiers: fetches
and moves (R379–R381, R390), the patrol scrub and stack failure (R372–R374, R396–R398), NAND upkeep and channel
failure (R376–R378), and the BAR2 window (R362, R363).
-/
namespace Sys2Proof.Machine

/-! ## Pages -/

def rangeFirst (p : Packet) : Nat := pageOf (pktBits p 24 0 48)
def rangeCount (p : Packet) : Nat := pktBits p 32 0 27
def rangePages (p : Packet) : List Nat := upFrom (rangeFirst p) (rangeCount p)
def pTier (p : Packet) : Nat := pktBits p 36 0 2
def pReplicated (p : Packet) : Bool := pktBits p 36 2 1 == 1
def pPin (p : Packet) : Bool := pktBits p 36 3 1 == 1
def pPref (p : Packet) : Nat := pktBits p 37 0 5

/-- Frames that `n` new primary copies need are there (R359, R360). -/
def framesFor (s : State) (n : Nat) : Bool := n ≤ freeAll s
/-- NAND slots for `n` pages are there (R360). -/
def slotsFor (s : State) (n : Nat) : Bool := s.ntl.slots.length + n ≤ 28610229

/-- PAGE_MAP's capacity (R304, R359). -/
def mapFits (s : State) (p : Packet) : Bool :=
  let n := rangeCount p
  s.wsp.pages.length + n ≤ 33554432 && (pTier p = 0 || framesFor s n) && (pTier p = 1 || slotsFor s n)

/-- PAGE_MAP (R304, R451, R600). -/
def execPageMap (seq : Nat) (s : State) : Out :=
  runCmd s seq 0x40 (fun c =>
    let p := c.pkt
    match (rangePages p).find? fun q => (s.page q).isSome || heldPage s q || inAperture (q * pageBytes) with
    | some q => some { num := 1, word0 := q * pageBytes }
    | none =>
      match (rangePages p).find? fun q => !fnPageOwns s c.func q with
      | some q => some { num := 0, word0 := q * pageBytes }
      | none => firstFail [(pTier p = 0 && (pReplicated p || pPin p), { num := 2 }),
          (!mapFits s p, { num := 3, status := stNoFit })]) fun _ => endsOk s seq

/-- One page is mapped; it reads as zero (R305). -/
def mapPage (p : Packet) (s : State) (q : Nat) : State :=
  let d : Page := { tier := pTier p, replicated := pReplicated p, pin := pPin p, pref := pPref p }
  let s := { s.setPage q d with wsp := { (s.setPage q d).wsp with
    dram := clearRange (q * pageBytes) pageBytes s.wsp.dram
    nand := clearRange (q * pageBytes) pageBytes s.wsp.nand } }
  let s := if pTier p = 0 then s else (placePrimary s q).getD s
  let s := if pTier p = 1 then s else (takeSlot s q).getD s
  mapPersist (placeReplica s q) q

/-- What PAGE_MAP makes at commit. -/
def commitPageMap (s : State) (c : OpenCmd) : State := (rangePages c.pkt).foldl (mapPage c.pkt) s

/-- The first page of a list that a function finds not mapped (R294). -/
def unmappedPre (s : State) (f : Nat) (ps : List Nat) (num : Nat) : Option PreFail :=
  (ps.find? fun q => (pageFor s f q).isNone).map fun q => { num, word0 := q * pageBytes }

/-- PAGE_UNMAP (R304). -/
def execPageUnmap (seq : Nat) (s : State) : Out :=
  runCmd s seq 0x41 (fun c =>
    match unmappedPre s c.func (rangePages c.pkt) 1 with
    | some f => some f
    | none =>
      let t := { s with cp := { s.cp with cmds := eraseK seq s.cp.cmds } }
      ((rangePages c.pkt).find? (pageInUse t)).map fun q => { num := 2, word0 := q * pageBytes })
    fun _ => endsOk s seq

/-- One page's mapping is gone. -/
def unmapPage (s : State) (q : Nat) : State :=
  let s := dropSlot (dropCopies s q) q
  mapPersist { s with wsp := { s.wsp with
    pages := eraseK q s.wsp.pages
    moves := s.wsp.moves.filter fun m => m.page ≠ q
    unplaced := s.wsp.unplaced.filter (· ≠ q)
    dram := clearRange (q * pageBytes) pageBytes s.wsp.dram
    nand := clearRange (q * pageBytes) pageBytes s.wsp.nand } } q

/-- What PAGE_UNMAP removes at commit. -/
def commitPageUnmap (s : State) (c : OpenCmd) : State := placeReplicas ((rangePages c.pkt).foldl unmapPage s)

/-- MIGRATE's capacity: frames for the pages that gain a DRAM copy, slots for those that gain a NAND copy. -/
def migrateFits (s : State) (p : Packet) : Bool :=
  let ds := (rangePages p).filterMap fun q => s.page q
  (pTier p = 0 || framesFor s (ds.filter fun d => !d.inDram).length) &&
  (pTier p = 1 || slotsFor s (ds.filter fun d => !d.inNand).length)

/-- MIGRATE (R304, R305): its page moves are queued behind the others (R379). -/
def execMigrate (seq : Nat) (s : State) : Out :=
  runCmd s seq 0x44 (fun c =>
    let p := c.pkt
    match unmappedPre s c.func (rangePages p) 1 with
    | some f => some f
    | none => firstFail [(pTier p = 0 && (pReplicated p || pPin p), { num := 2 }),
        (!migrateFits s p, { num := 3, status := stNoFit })]) fun c =>
    (rangePages c.pkt).foldl (fun s q =>
      queueMove (s.modPage q fun d => { d with moving := true })
        { kind := .migrate, page := q, tier := pTier c.pkt, seq }) (startWork s seq)

/-- The second copy of a page that is REPLICATED no more is given up (R364). -/
def dropReplica (s : State) (q : Nat) : State :=
  match s.page q with
  | some d => if !d.replicated && d.stack2 ≠ 31 then
      (dropFrame s d.stack2 d.frame2).setPage q { d with stack2 := 31, frame2 := 0 } else s
  | none => s

/-- The placement fields that a MIGRATE sets at commit (R305). -/
def commitMigrate (s : State) (c : OpenCmd) : State :=
  let p := c.pkt
  placeReplicas ((rangePages p).foldl (fun s q =>
    mapPersist (placeReplica (dropReplica (s.modPage q fun d =>
      { d with replicated := pReplicated p, pin := pPin p, pref := pPref p }) q) q) q) s)

/-! ## PAGE_WRITE and PAGE_READ -/

/-- The pages of a range that must be mapped: those outside the flask aperture, which these commands may name (R451). -/
def plainPages (a n : Nat) : List Nat := (pagesOf a n).filter fun p => !inAperture (p * pageBytes)

/-- PAGE_WRITE (R304). -/
def execPageWrite (seq : Nat) (s : State) : Out :=
  runCmd s seq 0x42 (fun c =>
    unmappedPre s c.func (plainPages (pktBits c.pkt 32 0 48) (pktBits c.pkt 40 0 32)) 1) fun c =>
    (startWork s seq).modCmd seq fun x =>
      { x with dest := [(pktBits c.pkt 32 0 48, pktBits c.pkt 40 0 32)] }

/-- The address of the first byte of a range that lies on page `q`. -/
def firstOn (a q : Nat) : Nat := max a (q * pageBytes)

/-- PAGE_WRITE's data is written, and LOST pages that it covers whole are good again; a LOST page that it covers only in part, or an absent
rank's aperture, fails it (R393, R394, R451); lines of a flask that others hold are called in first (R453, R454). -/
def finishPageWrite (s : State) (seq : Nat) (c : OpenCmd) : State :=
  let a := pktBits c.pkt 32 0 48
  let n := pktBits c.pkt 40 0 32
  match partLost s [(a, n)], coherentReady s a n with
  | some q, _ => completeWith (meetLost s q) seq stUncorrectable 0 (firstOn a q)
  | none, .lost q => completeWith (meetLost s q) seq stUncorrectable 0 (firstOn a q)
  | none, .lines ls => askLines s ls
  | none, _ =>
    let s := (wholePages [(a, n)]).foldl revivePage s
    endsOk (coherentWrite s (fun s a bs => ownWrite s seq a bs) a (c.payload.getD []) true) seq

/-- PAGE_READ (R304). -/
def execPageRead (seq : Nat) (s : State) : Out :=
  runCmd s seq 0x43 (fun c =>
    unmappedPre s c.func (plainPages (pktBits c.pkt 32 0 48) (pktBits c.pkt 40 0 32)) 1) fun _ => startWork s seq

/-- PAGE_READ's data goes to the host; data that cannot be recovered fails it (R305, R394, R451). -/
def finishPageRead (s : State) (seq : Nat) (c : OpenCmd) : State :=
  let a := pktBits c.pkt 32 0 48
  let n := pktBits c.pkt 40 0 32
  let plain := fun (a n : Nat) => match firstLost s a n with
    | some q => Rd.lost q
    | none => match absentPages s a n with
      | [] => .ok (wspBytes s a n)
      | ps => .absent ps
  match coherentRead s seq plain a n with
  | .lost q => completeWith (meetLost s q) seq stUncorrectable 0 (firstOn a q)
  | .absent ps => ps.foldl (fun s p => queueMove s { kind := .demand, page := p }) s
  | .lines ls => askLines s ls
  | .ok bs => endsOk (send (noteReads s a n) (.write c.func (pktBits c.pkt 24 0 64) bs)) seq
  | .fault _ _ => s

/-! ## Pour lists -/

/-- The entry that 32 bytes spell (R382). -/
def pourEntry (bs : List Byte) : PourEntry :=
  { addr := fieldOf bs 0 0 48, layer := fieldOf bs 0 48 10, len := fieldOf bs 8 0 32, kind := fieldOf bs 12 0 2,
    rare := fieldOf bs 12 2 1 = 1, single := fieldOf bs 12 3 1 = 1, home := fieldOf bs 12 4 1 = 1,
    tile := fieldOf bs 13 0 8, expert := fieldOf bs 16 0 20, spad := fieldOf bs 20 0 22 }

/-- Are an entry's reserved bits zero (R382)? -/
def pourReservedOk (bs : List Byte) : Bool :=
  fieldOf bs 0 58 6 = 0 && fieldOf bs 12 5 3 = 0 && fieldOf bs 14 0 16 = 0 && fieldOf bs 16 20 12 = 0 &&
  fieldOf bs 20 22 10 = 0 && fieldOf bs 24 0 64 = 0

/-- The list that a payload spells: each entry with its bytes. -/
def pourList (bs : List Byte) : Nat → List (PourEntry × List Byte)
  | 0 => []
  | n + 1 => (pourEntry (bs.take 32), bs.take 32) :: pourList (bs.drop 32) n

/-- The pages of a KIND 0 or 1 entry, or the source pages of a STAGE entry. -/
def pourPages (e : PourEntry) : List Nat :=
  if e.kind < 2 then upFrom (pageOf e.addr) e.len else pagesOf e.addr e.len

/-- The tag an entry gives its pages (R382, R384): 1 SHARED, 2 EXPERT; none for STAGE. -/
def pourTag (model : Nat) (e : PourEntry) : Option (Nat × Nat × Nat × Nat) :=
  if e.kind = 0 then some (model, 1, 0, e.layer)
  else if e.kind = 1 then some (model, 2, e.expert, e.layer)
  else none

/-- Do two entries give some page different tags? A tag is what R364 keeps of it: TAG and, for EXPERT, the expert. -/
def pourClash (a b : PourEntry) : Bool :=
  a.kind < 2 && b.kind < 2 && rangesMeet (pageOf a.addr) a.len (pageOf b.addr) b.len &&
  (a.kind ≠ b.kind || (a.kind = 1 && a.expert ≠ b.expert))

/-- The checks of R383 on entry `idx` of a list of `model`; of two entries that cannot both stand, the later one fails. -/
def pourEntryBad (s : State) (f model : Nat) (all : List PourEntry) (idx : Nat) (e : PourEntry) (bs : List Byte) :
    Bool :=
  !pourReservedOk bs || e.kind = 3 ||
  (e.kind ≠ 1 && (e.rare || e.expert ≠ 0)) || (e.kind ≠ 0 && e.single) ||
  (e.kind = 2 && e.home) || (e.kind ≠ 2 && e.spad ≠ 0) || (e.kind ≠ 2 && !e.home && e.tile ≠ 0) ||
  (if e.kind = 2 then e.len < 8 || 3145728 < e.len || e.len % 8 ≠ 0 || e.addr % 8 ≠ 0 || e.spad % 8 ≠ 0
   else e.len < 1 || 65536 < e.len || e.addr % pageBytes ≠ 0) ||
  (pourPages e).any (fun q => (pageFor s f q).isNone) ||
  (e.kind < 2 && (pourPages e).any fun q => match s.page q with
    | some d => d.tag ≠ 0 && d.model ≠ model
    | none => false) ||
  (all.take idx).any (fun x => pourClash x e) ||
  ((e.kind = 2 || e.home) && enabledTiles s ≤ e.tile) ||
  (e.kind = 2 && (3145728 < e.spad + e.len || !stageRegionCovers s model e.tile e.spad e.len ||
    (all.take idx).any fun x =>
      x.kind = 2 && x.layer = e.layer && x.tile = e.tile && rangesMeet x.spad x.len e.spad e.len))

/-- The index of the first entry that fails its checks (R383). -/
def pourFirstBad (s : State) (f model : Nat) (all : List PourEntry) : Nat → List (PourEntry × List Byte) → Option Nat
  | _, [] => none
  | i, (e, bs) :: t => if pourEntryBad s f model all i e bs then some i else pourFirstBad s f model all (i + 1) t

/-- The list of a POUR_SET command. -/
def pourOf (c : OpenCmd) : List (PourEntry × List Byte) := pourList (c.payload.getD []) (pktBits c.pkt 40 0 32)

/-- POUR_SET (R304, R383). -/
def execPourSet (seq : Nat) (s : State) : Out :=
  runCmd s seq 0x48 (fun c =>
    let m := pktBits c.pkt 24 0 16
    if !modelLoaded s m then some { num := 1 }
    else if 1048576 < pktBits c.pkt 40 0 32 then some { num := 2, word0 := 1048576 }
    else
      let es := pourOf c
      (pourFirstBad s c.func m (es.map Prod.fst) 0 es).map fun i => { num := 2, word0 := i }) fun _ => endsOk s seq

/-- A page without the tag that a model's list set. -/
def Page.untagged (d : Page) (m : Nat) : Page :=
  if d.tag ≠ 0 && d.model = m then { d with tag := 0, model := 0, expert := 0, layer := 0 } else d

/-- A model's tags go, from the persistent map too (R365, R370, R384 step 1, R389). -/
def clearTags (s : State) (m : Nat) : State :=
  { s with
    wsp := { s.wsp with pages := s.wsp.pages.map fun e => (e.1, e.2.untagged m) }
    ntl := { s.ntl with map := s.ntl.map.map fun e => (e.1, e.2.untagged m) } }

/-- One entry's tags and pins (R384 steps 2 and 3). -/
def applyEntry (m : Nat) (s : State) (e : PourEntry) : State :=
  match pourTag m e with
  | none => s
  | some (model, tag, expert, layer) =>
    (pourPages e).foldl (fun s q =>
      let s := s.modPage q fun d =>
        let d := { d with model, tag, expert, layer }
        if e.kind = 0 && !e.single then { d with replicated := true, pin := true } else d
      mapPersist (placeReplica s q) q) s

/-- Every PIN page without a DRAM copy is queued for fetch (R384 step 4). -/
def queuePins (s : State) (ps : List Nat) : State :=
  ps.foldl (fun s q => match s.page q with
    | some d => if d.pin && !d.inDram then queueMove s { kind := .prefetch, page := q } else s
    | none => s) s

/-- What POUR_SET installs at commit: tags and pins at once, the list itself from the next model step on (R305, R384). -/
def commitPourSet (s : State) (c : OpenCmd) : State :=
  let m := pktBits c.pkt 24 0 16
  let es := (pourOf c).map Prod.fst
  let s := clearTags s m
  let s := { s with wsp := { s.wsp with
    pourNext := insertK m { ahead := pktBits c.pkt 26 0 5, entries := es } s.wsp.pourNext } }
  let s := es.foldl (applyEntry m) s
  queuePins s (s.wsp.pages.map Prod.fst)

/-- POUR_CLEAR (R304). -/
def execPourClear (seq : Nat) (s : State) : Out :=
  runCmd s seq 0x49 (fun c => firstFail [(!hasK (pktBits c.pkt 24 0 16) (installedLists s), { num := 1 })])
    fun _ => endsOk s seq

/-- What POUR_CLEAR removes at commit (R389). -/
def commitPourClear (s : State) (c : OpenCmd) : State :=
  let m := pktBits c.pkt 24 0 16
  let s := clearTags s m
  { s with wsp := { s.wsp with
    pour := eraseK m s.wsp.pour, pourNext := eraseK m s.wsp.pourNext
    staged := s.wsp.staged.filter fun x => x.2.model ≠ m
    windows := s.wsp.windows.filter fun w => w.2.model ≠ m } }

/-! ## Fetches and moves -/

/-- The highest-ranking move queued for fetching a page; a MIGRATE to DRAM fetches one as well (R379). -/
def fetchMove (s : State) (q : Nat) : Option Move :=
  bestBy (fun a b => a.kind.rank < b.kind.rank)
    (s.wsp.moves.filter fun m => m.page = q && (m.kind ≠ .migrate || m.tier ≠ 0) && m.kind ≠ .writeback)

/-- PAGE_FETCH_DONE (R380, R390, R392): a page comes from NAND into DRAM; its readers go on. Without a frame, a prefetch
is dropped and an on-demand fetch waits. A LOST page is not read again (R393). -/
def execPageFetchDone (page : Nat) (read : NandRead) (s : State) : Out := settledOut <|
  match fetchMove s page, s.page page with
  | some m, some d =>
    let drop (s : State) : State := { s with wsp := { s.wsp with moves := s.wsp.moves.filter fun x =>
      !(x.page = page && (x.kind = .demand || x.kind = .repour || x.kind = .prefetch || x.kind = .restore)) } }
    if d.inDram || d.lost then .next (wakeWaiters (drop s) page)
    else if (readAs s read 8).lost then .next (wakeWaiters (meetLost (losePage (countNand (drop s) read d.slot) page) page) page)
    else match placeFetch s page (m.kind = .prefetch) with
      | none =>
        if m.kind = .prefetch then
          .next (count { s with wsp := { s.wsp with moves := s.wsp.moves.erase m } } bankWsp 17)
        else if m.kind = .repour || m.kind = .restore then
          .next { s with wsp := { s.wsp with moves := s.wsp.moves.erase m
                                             unplaced := insertSorted page s.wsp.unplaced } }
        else .next (wspErr s Fld.WSP_ERR_FETCH_NO_ROOM page)
      | some s =>
        let s := drop (countNand s read d.slot)
        let s := { s with wsp := { s.wsp with
          dram := copyRange (page * pageBytes) pageBytes s.wsp.nand s.wsp.dram
          unplaced := s.wsp.unplaced.filter (· ≠ page) } }
        let s := injectMove (count (count s bankWsp 0 (b2n (m.kind = .demand))) bankWsp 1 (b2n (m.kind = .prefetch))) page
        .next (wakeWaiters (noteRead (mapPersist (placeReplica s page) page) page) page)
  | _, _ => .next s

/-- The NAND copy takes what DRAM holds (R381). -/
def writeBack (s : State) (q : Nat) : State :=
  let s := { s with wsp := { s.wsp with nand := copyRange (q * pageBytes) pageBytes s.wsp.dram s.wsp.nand } }
  count (s.modPage q fun d => { d with dirty := false, dirtyCmd := false }) bankNtl 1 128

/-- A page reaches the tier that a MIGRATE names: it gains the copies it lacks, with the page's current contents, and
then loses those the tier has not (R305, R381). A new DRAM copy is placed by the MIGRATE's preference (R366). -/
def reachTier (s : State) (q t pref : Nat) (read : NandRead) : Option State :=
  match s.page q with
  | none => some s
  | some d =>
    let s := s.setPage q { d with pref }
    let up : Option State :=
      if t ≠ 1 && !d.inNand then (takeSlot s q).map fun s => writeBack (s.modPage q fun d => { d with tier := 2 }) q
      else if t ≠ 0 && !d.inDram then (placeFetch s q false).map fun s => countNand
        { s with wsp := { s.wsp with dram := copyRange (q * pageBytes) pageBytes s.wsp.nand s.wsp.dram } } read d.slot
      else if t ≠ 1 && d.dirty then some (count (writeBack s q) bankWsp 3)
      else some s
    up.map fun s =>
      let s := s.modPage q fun e => { e with tier := t, pref := d.pref, dirty := e.dirty && t = 2, dirtyCmd := e.dirtyCmd && t = 2 }
      if t = 0 then dropCopies s q
      else if t = 1 then
        let s := if d.inNand then { s with ntl := { s.ntl with slots := eraseK d.slot s.ntl.slots } } else s
        { s with wsp := { s.wsp with nand := clearRange (q * pageBytes) pageBytes s.wsp.nand } }
      else s

/-- The stack that a page on stack `cur` moves to for its PREF: that stack, or, where it is full and the page is on another die, the first
stack of its die that has a frame (R366). -/
def prefStack (s : State) (cur pref : Nat) : Option Nat :=
  if 24 ≤ pref || cur = pref then none
  else if freeFrames s pref ≠ 0 then some pref
  else if dieOfStack cur = dieOfStack pref then none
  else (upFrom (6 * dieOfStack pref) 6).find? fun st => freeFrames s st ≠ 0

/-- A page moves to where its PREF asks for, and its second copy follows (R366, R367). -/
def movePref (s : State) (q pref : Nat) : State :=
  match s.page q with
  | none => s
  | some d =>
    if d.stack1 = 31 then s
    else match (prefStack s d.stack1 pref).bind fun st => (lowestFrame s st).map fun fr => (st, fr) with
      | some (st, fr) =>
        followPrimary (takeFrame ((dropFrame s d.stack1 d.frame1).setPage q { d with stack1 := st, frame1 := fr }) st fr q) q
      | none => s

/-- A MIGRATE has to read the page to give it a copy that it lacks. -/
def moveReads (d : Page) (t : Nat) : Bool := (t ≠ 1 && (!d.inNand || d.dirty)) || (t ≠ 0 && !d.inDram)

/-- A MIGRATE meets a LOST page that it has to read: it ends with ST_UNCORRECTABLE and the page's address (R394; DEDUCED: a MIGRATE is a
command that reads the weight space), and its other moves are dropped. -/
def failMigrate (s : State) (seq q : Nat) : State :=
  let mine := s.wsp.moves.filter fun m => m.kind = .migrate && m.seq = seq
  let s := mine.foldl (fun s m => s.modPage m.page fun d => { d with moving := false }) s
  let s := { s with wsp := { s.wsp with moves := s.wsp.moves.filter fun m => m.kind ≠ .migrate || m.seq ≠ seq } }
  completeWith (meetLost s q) seq stUncorrectable 0 (q * pageBytes)

/-- PAGE_MOVE_DONE (R379, R381): a writeback or a MIGRATE's page move completes and the descriptor switches. A page in a
destination region of an open command is not written back. -/
def execPageMoveDone (page : Nat) (kind : MoveDone) (s : State) : Out := settledOut <|
  match kind, s.page page with
  | .writeback, some d =>
    if d.dirty && d.inNand && d.inDram && !d.lost && !pageInDest s page then
      .next (count (writeBack (injectMove s page) page) bankWsp 3)
    else .next s
  | .migrate read, some d =>
    match s.wsp.moves.find? fun m => m.page = page && m.kind = .migrate with
    | none => .next s
    | some m =>
      if pageInDest s page && m.tier ≠ 1 then .next s
      else if d.lost && moveReads d m.tier then .next (failMigrate s m.seq page)
      else if m.tier ≠ 0 && !d.inDram && (readAs s read 8).lost then
        .next (failMigrate (losePage (countNand s read d.slot) page) m.seq page)
      else
        let pref := ((s.cmd m.seq).map fun c => pPref c.pkt).getD d.pref
        match reachTier s page m.tier pref read with
        | none => .next (wspErr s Fld.WSP_ERR_FETCH_NO_ROOM page)
        | some s =>
          let s := movePref s page pref
          let s := { s with wsp := { s.wsp with moves := s.wsp.moves.erase m } }
          let s := s.modPage page fun d => { d with moving := false }
          .next (wakeWaiters (placeReplicas (mapPersist (timingOpen (count (injectMove s page) bankWsp 4)) page)) page)
  | _, none => .next s

/-- Pages of a MIGRATE to TIER 2 that have been written since their move ended: the NAND copy is old again (R381). -/
def staleMoves (s : State) (c : OpenCmd) : List Nat :=
  if pTier c.pkt ≠ 2 then [] else (rangePages c.pkt).filter fun q => (s.page q).any fun d => d.dirty && d.tier = 2

/-- MIGRATE ends when every move of its has ended and the NAND copies hold the pages' current contents; a page written since is moved
again (R381). -/
def finishMigrate (s : State) (seq : Nat) : State :=
  if s.wsp.moves.any fun m => m.kind = .migrate && m.seq = seq then s
  else match s.cmd seq with
    | none => s
    | some c => match staleMoves s c with
      | [] => endsOk s seq
      | qs => qs.foldl (fun s q => queueMove (s.modPage q fun d => { d with moving := true })
          { kind := .migrate, page := q, tier := 2, seq }) s

/-! ## DRAM: scrub, retirement, stack failure -/

/-- STACK_FAILURE (R374): the stack's PHY lost link training and could not retrain. -/
def execStackFailure (stack : Nat) (s : State) : Out := .next (settleWork (failStack s stack 2))

/-- PATROL_SCRUB (R372, R373): the patrol reads a frame. Nothing happens while SCRUB_EN is 0 or migration is paused (R525). The row also
stands for another reader that meets an uncorrectable block of the frame (R392; DESIGN CHOICE: no row reports that). -/
def execPatrolScrub (stack frame : Nat) (result : ScrubResult) (s : State) : Out := settledOut <|
  if stackFailed s stack || 24 ≤ stack || 45776 ≤ frame then .next s
  else if result.byReader then .next (if result.uncorrectable then recoverFrame s stack frame result.nand else s)
  else if !stoked s || !flag s Fld.WSP_CTL_SCRUB_EN then .next s
  else
    let s := result.corrected.foldl (correctBlock stack frame) s
    let s := match lookup (frameKey stack frame) s.wsp.frames with
      | some q => result.links.foldl (scrubLink q) s
      | none => s
    let s := if result.uncorrectable then recoverFrame s stack frame result.nand else s
    if result.passEnd then .next { s with wsp := { s.wsp with blockHits := [], pcHits := [] } } else .next s

/-! ## NAND -/

/-- Units of blocks read and rewritten elsewhere, and the blocks erased (R377, R403). -/
def countMoved (s : State) (blocks units : Nat) : State :=
  count (count (count s bankNtl 5 blocks) bankNtl 0 units) bankNtl 1 units

/-- A NAND channel is out of service and the module runs degraded (R378). -/
def failChannel (s : State) (channel : Nat) : State :=
  let info := channel + 2 * 2 ^ 4
  let s := repairChange { s with ntl := { s.ntl with chFailed := insertSorted channel s.ntl.chFailed } }
  raiseErr (setRaw s Reg.NTL_ERR_INFO 0 0 info) Fld.NTL_ERR_CH_FAILED 0 .degraded { unit := channel, arg := info }

/-- A page whose units a patrol of NAND found lost in a stripe: its DRAM copy is written to NAND anew, or the page is LOST (R376, R392,
R394). -/
def losePatrolled (s : State) (q : Nat) : State :=
  match s.page q with
  | none => s
  | some d =>
    if !d.inNand then s
    else if d.inDram && !d.lost then count { s with wsp := { s.wsp with
      nand := copyRange (q * pageBytes) pageBytes s.wsp.dram s.wsp.nand } } bankNtl 1 128
    else meetLost (losePage s q) q

/-- The patrol of NAND has read `u` units, and rewritten `n`. -/
def nandPatrol (s : State) (r : NandRead) (u n : Nat) (pages : List Nat) : State :=
  let r := readAs s r (u / 16)
  let s := count (count (nandOutcome (count s bankNtl 0 u) r 0) bankNtl 8 n) bankNtl 1 n
  if r.lost then pages.foldl losePatrolled s else s

/-- A unit failed to program: it is written elsewhere and its block retired; more than 2 % of a channel's blocks fail the channel (R377,
R378). -/
def programFail (s : State) (ch : Nat) (low : Bool) : State :=
  let info := fun (cause : Nat) => ch + cause * 2 ^ 4
  let s := count (count (count s bankNtl 9) bankNtl 10) bankNtl 1
  let n := lookupD 0 ch s.ntl.blocksRetired + 1
  let s := { s with ntl := { s.ntl with blocksRetired := insertK ch n s.ntl.blocksRetired } }
  let s := raiseErr (setRaw s Reg.NTL_ERR_INFO 0 0 (info 3)) Fld.NTL_ERR_WRITE_FAIL 0 .recovered { unit := ch, arg := info 3 }
  let s := if low then setErr (setRaw s Reg.NTL_ERR_INFO 0 0 (info 4)) Fld.NTL_ERR_SPARE_LOW else s
  if Config.nandBlocks < 50 * n && !s.ntl.chFailed.contains ch then failChannel s ch else s

/-- NAND_UPKEEP (R377): one background action; each kind stops while its enable bit is 0, and all in Smouldering (R525). -/
def execNandUpkeep (action : Upkeep) (s : State) : Out :=
  if !stoked s then .next s
  else match action with
  | .readDisturb n u => .next (if flag s Fld.NTL_CTL_DISTURB_EN then countMoved (count s bankNtl 6 n) n u else s)
  | .wearLevel n u => .next (if flag s Fld.NTL_CTL_WEAR_EN then countMoved (count s bankNtl 7 n) n u else s)
  | .patrol r u n pages => .next (if flag s Fld.NTL_CTL_PATROL_EN then settleWork (nandPatrol s r u n pages) else s)
  | .programFail ch low => .next (if 16 ≤ ch then s else programFail s ch low)

/-- NAND_CHANNEL_FAIL (R378): the channel is out of service and the module runs degraded. -/
def execNandChannelFail (channel : Nat) (s : State) : Out :=
  if 16 ≤ channel || s.ntl.chFailed.contains channel then .next s else .next (failChannel s channel)

/-! ## BAR2 (R362, R363) -/

/-- The weight-space address of an offset in a function's BAR2, where it has one (R362, R565). -/
def bar2Addr (s : State) (f o : Nat) : Option Nat :=
  if f = 0 then (if o < 2 ^ 36 then some o else none)
  else if o < 2 ^ fld s Fld.HIF_CTL_VF_BAR2_LOG2 && o < fld s Fld.HIF_FN_WSP_PAGE_COUNT f * pageBytes then
    some (fld s Fld.HIF_FN_WSP_PAGE_BASE f * pageBytes + o)
  else none

/-- A byte of the journal ring (R275, R284): each entry at its ring index, unused slots zero. -/
def jrnByte (s : State) (a : Nat) : Byte :=
  let j := s.cp.journal
  let n := jrnSlots s
  let idx := (a - jrnBase s) / 128
  match j.ring.find? fun e => (j.pos + (j.head - e.seq) * (n - 1)) % n = idx with
  | some e => (e.bytes).getD ((a - jrnBase s) % 128) 0
  | none => 0

/-- The link word of a buffer (R347). -/
def linkWord (p : Pool) (b : Nat) : Nat :=
  match lookup b p.links with
  | some (nxt, e) => nxt + 2 ^ 20 + b2n e * 2 ^ 21
  | none =>
    if p.lost.contains b then 2 ^ 20
    else if p.ring then 0
    else
      match p.freeList.dropWhile (· ≠ b) with
      | _ :: n :: _ => n
      | [_] => if p.tailFrom < p.count then p.tailFrom else 0
      | [] => if b + 1 < p.count then b + 1 else 0

/-- The pool whose run holds a page. -/
def poolOfPage (s : State) (q : Nat) : Option Pool :=
  (s.hop.pools.find? fun e => e.2.firstPage ≤ q &&
    q < e.2.firstPage + poolBufPages e.2.bufBytes e.2.count + poolLinkPages e.2.count).map Prod.snd

/-- A byte of a pool's run: a buffer's byte, a link word's byte, or zero (R347); a link word that cannot be read gives a free value. -/
def poolByte (s : State) (p : Pool) (a k : Nat) : Byte :=
  let o := a - p.firstPage * pageBytes
  let linkAt := poolBufPages p.bufBytes p.count * pageBytes
  if o < p.bufBytes * p.count then readByte a s.wsp.dram
  else if linkAt ≤ o && o < linkAt + 4 * p.count then
    if p.badLink ((o - linkAt) / 4) then Config.freeByte k 0 else (leBytes 4 (linkWord p ((o - linkAt) / 4))).getD ((o - linkAt) % 4) 0
  else 0

/-- One byte read through BAR2 (R363); a byte of an uncommitted destination region is unspecified (R273). -/
def bar2Byte (s : State) (a k : Nat) : Byte :=
  let q := pageOf a
  if jrnPage s q && jrnBase s ≤ a && a < jrnBase s + jrnSize s then jrnByte s a
  else match s.page q with
    | none => 0
    | some d =>
      if d.lost then 0
      else if d.module then (match poolOfPage s q with | some p => poolByte s p a k | none => 0)
      else if !d.inDram then 0
      else if poisonedAt s a then 0
      else if openTo s 0 a then Config.freeByte k 0
      else readByte a s.wsp.dram

/-- The bytes of a BAR2 read. -/
def bar2Bytes (s : State) (f o k : Nat) : Nat → List Byte
  | 0 => []
  | n + 1 =>
    (match bar2Addr s f o with
     | some a => bar2Byte s a k
     | none => 0) :: bar2Bytes s f (o + 1) (k + 1) n

/-- The pages that a BAR2 access of a function meets. -/
def bar2Pages (s : State) (f o n : Nat) : List Nat :=
  match bar2Addr s f o with
  | some a => pagesOf a n
  | none => []

/-- BAR2_MISS and PAGE_LOST as an access's pages call for them (R363, R394). -/
def bar2Errors (s : State) (f o n : Nat) (write : Bool) : State :=
  (bar2Pages s f o n).foldl (fun s q =>
    match s.page q with
    | none => s
    | some d =>
      if jrnPage s q then s
      else if d.lost then
        let s := wspErr s Fld.WSP_ERR_PAGE_LOST q
        if write then s else count (wspErr s Fld.WSP_ERR_BAR2_MISS q) bankWsp 16
      else if !d.inDram then count (wspErr s Fld.WSP_ERR_BAR2_MISS q) bankWsp 16
      else if write then s else noteRead s q) s

/-- The lines of this module's window that an access calls in first (R454). -/
def bar2Lines (s : State) (f o n : Nat) (write : Bool) : List LineNeed :=
  match bar2Addr s f o with
  | none => []
  | some a => windowLines s write [(a, n)]

/-- BAR2_READ (R363): the data goes back to the host; the access ends Smouldering (R527). Lines that peers hold in M are
recalled first, and the read waits for them (R454). -/
def execBar2Read (func offset len : Nat) (s : State) : Out :=
  let s := wakeTrigger s
  match bar2Lines s func offset len false with
  | l :: ls => .next (askLines s (l :: ls))
  | [] =>
    let bs := bar2Bytes s func offset s.free len
    let s := { s with free := s.free + len }
    let s := bar2Errors (send s (.readData bs)) func offset len false
    match bar2Addr s func offset with
    | none => .next s
    | some a => match s.flk.poisoned.find? fun l => rangesMeet (l * 256) 256 a len with
      | some l => .next (meetPoison s (pageOf (l * 256)))
      | none => .next s

/-- One byte written through BAR2 (R363). -/
def bar2Put (s : State) (a : Nat) (b : Byte) : State :=
  let q := pageOf a
  if jrnPage s q then s
  else match s.page q with
    | none => s
    | some d =>
      if d.lost || !d.inDram then s
      else if d.module then
        match poolOfPage s q with
        | some p => if a - p.firstPage * pageBytes < p.bufBytes * p.count then
            { s with wsp := { s.wsp with dram := writeByte a b s.wsp.dram } } else s
        | none => s
      else wspStore false s a [b]

/-- The bytes of a BAR2 write. -/
def bar2Store (s : State) (f o : Nat) : List Byte → State
  | [] => s
  | b :: t => bar2Store (match bar2Addr s f o with | some a => bar2Put s a b | none => s) f (o + 1) t

/-- A poisoned write: it is discarded and logged as a non-fatal AER error (R562, R573). -/
def poisonedWrite (s : State) (func : Nat) : State :=
  setErr (setRaw (send s (.aerNonFatal func)) Reg.HIF_ERR_INFO 0 0 (func % 64 + 2 * 2 ^ 8)) Fld.HIF_ERR_POISONED

/-- BAR2_WRITE (R363, R562): lines of this module's window that peers hold are called in first (R454). -/
def execBar2Write (func offset : Nat) (data : HostData) (s : State) : Out :=
  let s := wakeTrigger s
  let bytes := data.bytes
  if data.poisoned then .next (poisonedWrite s func) else
  match bar2Lines s func offset bytes.length true with
  | l :: ls => .next (askLines s (l :: ls))
  | [] =>
    let s := bar2Errors (bar2Store s func offset bytes) func offset bytes.length true
    match bar2Addr s func offset with
    | some a => .next (clearPoison s a bytes.length)
    | none => .next s

end Sys2Proof.Machine
end

