-- ==== Sys2Proof/Machine/CommandsProg.lean ====
section
/-!
DEFINITION. The commands on programs and weights: PACK24 and SHADOW_BUILD (R47–R50, R209, R306), LOAD and UNSTAGE (R218,
R223, R233, R307, R308), TILE_TEST (R317), and the staging of pour-list entries (R387, R388).
-/
namespace Sys2Proof.Machine

/-! ## PACK24 and SHADOW_BUILD -/

/-- Element bits, scale byte and logical position of a dense unit's real elements. -/
def unitElems (fmt k j : Nat) (bs : List Byte) : List (Nat × Nat × Nat) :=
  let w := elemBits fmt
  let v := leNat (bs.take (32 * w))
  (upFrom 0 (min 256 (k - 256 * j))).map fun i => (bitsOf v (w * i) w, (bs.getD (32 * w + i / 32) 0).toNat, 256 * j + i)

/-- The first non-finite element of a unit; a block with scale 0xFF is reported as its first element (R47, R306). -/
def badElem (fmt k j : Nat) (bs : List Byte) : Option Nat :=
  ((unitElems fmt k j bs).find? fun e => e.2.1 = 255 || !(decodeElem fmt e.1).finite).map fun e =>
    if e.2.1 = 255 then e.2.2 / 32 * 32 else e.2.2

/-- The first group of a unit with three or four non-zeros (R47). -/
def fullGroup (fmt k j : Nat) (bs : List Byte) : Option Nat :=
  let es := unitElems fmt k j bs
  ((upFrom 0 64).find? fun g =>
    2 < ((es.drop (4 * g)).take 4 |>.filter fun e => !(decodeElem fmt e.1).isZero).length).map fun g => 256 * j + 4 * g

/-- The magnitude of an element code, as a number to compare within one block. -/
def codeMag (fmt bits : Nat) : Nat × Int := match decodeElem fmt bits with | .num _ m u _ => (m, u) | _ => (0, 0)

/-- The two positions of a group that are kept, rising, with their codes (R47). -/
def keptOf (fmt : Nat) (g : List Nat) : List (Nat × Nat) :=
  let all := g.zip (upFrom 0 4)
  let nz := all.filter fun e => !(decodeElem fmt e.1).isZero
  let before := fun (a b : Nat × Nat) =>
    if magLt (codeMag fmt b.1) (codeMag fmt a.1) then true
    else if magLt (codeMag fmt a.1) (codeMag fmt b.1) then false else a.2 < b.2
  let top := (sortBy before nz).take 2
  let free := ((upFrom 0 4).filter fun i => !top.any fun e => e.2 = i).take (2 - top.length)
  sortBy (fun a b => a.2 < b.2) (top ++ free.map fun i => (0, i))

/-- A packed 2:4 block from a dense segment (R42, R47). -/
def packUnit (fmt k j : Nat) (bs : List Byte) : List Byte :=
  let es := (unitElems fmt k j bs).map Prod.fst
  let kept := (upFrom 0 64).map fun g =>
    let codes := (es.drop (4 * g)).take 4
    keptOf fmt (codes ++ List.replicate (4 - codes.length) 0)
  let values := kept.flatMap fun g => g.map Prod.fst
  let nib := fun (g : List (Nat × Nat)) => (g.getD 0 (0, 0)).2 + 4 * (g.getD 1 (0, 0)).2
  let scale := fun b => if k ≤ 256 * j + 32 * b then (127 : Byte) else bs.getD (32 * elemBits fmt + b) 0
  leBytes (16 * elemBits fmt) (packBits (elemBits fmt) values) ++
    ((upFrom 0 32).map fun i => BitVec.ofNat 8 (nib (kept.getD (2 * i) []) + 16 * nib (kept.getD (2 * i + 1) []))) ++
    (upFrom 0 8).map scale

/-- A shadow block of one row (R48–R50, R209): its weights, and whether the companion row is finite. -/
def shadowRow (p : Packet) (ws : List Val) (compOk : Bool) : List Byte :=
  let segs := (chunksOf 256 ws (pkUnits p)).map fun seg => mxSegment 0 (seg.map fun v => (v, 0))
  let vs := (upFrom 0 segs.length).flatMap fun j => readSegment 0 (pkK p - 256 * j) (segs.getD j [])
  let err := (ws.zip vs).foldl (fun (a : Acc) q => a.addVal ((q.1.add q.2.neg).abs)) {}
  let e := if ws.all Val.finite && compOk then encodeFloat fmtFp32 0xA7 0 err.val else 0x7F800000
  let head := e + pkK p * 2 ^ 32 + pkFmt p * 2 ^ 52 + b2n (pkFlag p) * 2 ^ 56
  leBytes 8 head ++ segs.flatten

/-- A source row's bytes, and its units. -/
def srcRow (s : State) (p : Packet) (a r : Nat) : List Byte := wspBytes s (a + r * pkSrcRow p) (pkSrcRow p)
def srcUnits (s : State) (p : Packet) (a r : Nat) : List (List Byte) :=
  chunksOf (pkUnit p) (srcRow s p a r) (pkUnits p)

/-- The first unit of the source rows, row by row, that a test finds something in: row, unit and what it found. -/
def firstUnit (s : State) (p : Packet) (a : Nat) (f : Nat → List Byte → Option Nat) : Option (Nat × Nat × Nat) :=
  (upFrom 0 (pkRows p)).findSome? fun r =>
    let us := srcUnits s p a r
    (upFrom 0 us.length).findSome? fun j => (f j (us.getD j [])).map fun e => (r, j, e)

/-- A report of R306: row, element, and the address of the segment or block. -/
def packFail (p : Packet) (num a : Nat) (h : Nat × Nat × Nat) : PreFail :=
  { num, word0 := h.2.2 + h.1 * 2 ^ 32, word1 := a + h.1 * pkSrcRow p + h.2.1 * pkUnit p }

/-- A malformed nibble in a group of a packed unit that holds a logical position below K (R43, R44, R306). -/
def badNibble (fmt k j : Nat) (bs : List Byte) : Option Nat :=
  ((upFrom 0 64).find? fun g => 256 * j + 4 * g < k &&
    !nibbleOk (bitsOf (bs.getD (16 * elemBits fmt + g / 2) 0).toNat (4 * (g % 2)) 4)).map fun g => 256 * j + 4 * g

/-- The LOST page that the sources meet (R305, R394). -/
def lostSource (s : State) (p : Packet) : Option (Nat × Nat) :=
  (pkSources p).findSome? fun d => (firstLost s d.1 d.2).map fun q => (q, firstOn d.1 q)

/-- Of two reports, that of the lower row, then of the lower element; SRC's where they are equal (R306; DESIGN CHOICE for the last). -/
def firstReport (a b : Option (Nat × (Nat × Nat × Nat))) : Option (Nat × (Nat × Nat × Nat)) :=
  match a, b with
  | some x, some y => if y.2.1 < x.2.1 || (y.2.1 = x.2.1 && y.2.2.2 < x.2.2.2) then b else a
  | some _, none => a
  | none, _ => b

/-- The first malformed nibble of SRC and COMP together, with the range it lies in (R306). -/
def firstNibble (s : State) (p : Packet) : Option (Nat × (Nat × Nat × Nat)) :=
  let at_ := fun (a : Nat) => (firstUnit s p a (badNibble (pkFmt p) (pkK p))).map fun h => (a, h)
  firstReport (at_ (pkSrc p)) (if pkComp p = 0 then none else at_ (pkComp p))

/-- The preconditions of R306. -/
def packPre (s : State) (c : OpenCmd) : Option PreFail :=
  let p := c.pkt
  let ranges := pkSources p ++ [pkDest p]
  match (ranges.findSome? fun d => unmappedPre s c.func (pagesOf d.1 d.2) 1) with
  | some f => some f
  | none =>
    if (pkSources p).any fun d => rangesMeet d.1 d.2 (pkDest p).1 (pkDest p).2 then some { num := 2 }
    else if (lostSource s p).isSome then none
    else if pkPack p then
      match firstUnit s p (pkSrc p) (badElem (pkFmt p) (pkK p)) with
      | some h => some (packFail p 3 (pkSrc p) h)
      | none => if pkFlag p then none
        else (firstUnit s p (pkSrc p) (fullGroup (pkFmt p) (pkK p))).map (packFail p 4 (pkSrc p))
    else if !pkFlag p then none
    else (firstNibble s p).map fun h => packFail p 5 h.1 h.2

/-- PACK24 and SHADOW_BUILD begin: a LOST source ends them, and absent pages are fetched first (R305, R390). -/
def beginPack (s : State) (seq : Nat) (c : OpenCmd) : State :=
  match lostSource s c.pkt with
  | some (q, a) => completeWith (meetLost s q) seq stUncorrectable 0 a
  | none => (startWork s seq).modCmd seq fun x => { x with dest := [pkDest c.pkt] }

/-- PACK24 (R47, R306). -/
def execPack24 (seq : Nat) (s : State) : Out := runCmd s seq 0x4C (packPre s) (beginPack s seq)
/-- SHADOW_BUILD (R209, R306). -/
def execShadowBuild (seq : Nat) (s : State) : Out := runCmd s seq 0x4D (packPre s) (beginPack s seq)

/-- A row's weights; a malformed nibble has been refused (R209). -/
def rowWeights (p : Packet) (us : List (List Byte)) : List Val :=
  ((upFrom 0 us.length).flatMap fun j => (unitVals (pkFmt p) (pkFlag p) (pkK p - 256 * j) (us.getD j [])).getD []).take (pkK p)

/-- The rows of PACK24 or SHADOW_BUILD are written. -/
def finishPack (s : State) (seq : Nat) (c : OpenCmd) : State :=
  let p := c.pkt
  let absent := (pkSources p).flatMap fun d => absentPages s d.1 d.2
  match absent, lostSource s p, partLost s [pkDest p] with
  | q :: qs, _, _ => (q :: qs).foldl (fun s p => queueMove s { kind := .demand, page := p }) s
  | [], some (q, a), _ => completeWith (meetLost s q) seq stUncorrectable 0 a
  | [], none, some q => completeWith (meetLost s q) seq stUncorrectable 0 (firstOn (pkDst p) q)
  | [], none, none =>
    let ls := windowLines s false (pkSources p) ++ windowLines s true [pkDest p]
    if !ls.isEmpty then askLines s ls else
    let row := fun r =>
      let us := srcUnits s p (pkSrc p) r
      if pkPack p then (upFrom 0 us.length).flatMap fun j => packUnit (pkFmt p) (pkK p) j (us.getD j [])
      else shadowRow p (rowWeights p us)
        (pkComp p = 0 || (rowWeights p (srcUnits s p (pkComp p) r)).all Val.finite)
    let bs := (upFrom 0 (pkRows p)).flatMap row
    endsOk (ownWrite ((pkSources p).foldl (fun s d => noteReads s d.1 d.2) s) seq (pkDst p) bs) seq

/-! ## LOAD and UNSTAGE -/

def ldImage (p : Packet) : Nat := pktBits p 36 0 16
def ldModel (p : Packet) : Nat := pktBits p 38 0 16
def ldBank (p : Packet) : Nat := pktBits p 40 0 2
/-- The bank a LOAD names on a tile (R233). -/
def bankFor (x : Tile) (p : Packet) : Nat := if ldBank p = 2 then x.idleBank else ldBank p

/-- Physical tiles of an image's TILES set. -/
def loadTiles (s : State) (bs : List Byte) : List Nat := (imageTiles bs).filterMap (physOf s)

/-- The loader's verdict on an image, banks and lost tiles included (R218, R233, R511). -/
def loadCheck (s : State) (c : OpenCmd) : Option LoadFault :=
  let bs := c.payload.getD []
  let here := imageFaults s c.func (pktBits c.pkt 32 0 32) bs
  match firstFault here with
  | some f => some f
  | none =>
    let xs := (loadTiles s bs).map s.tile
    if xs.any fun x => bankFor x c.pkt = x.active then
      some { reason := 0x10, status := stBankActive }
    else if (imageTiles bs).any fun l => (physOf s l).isNone then some { reason := 0x11, status := stNoFit }
    else if xs.any fun x => (x.bank x.active).image = ldImage c.pkt then some { reason := 0, status := stBadParam }
    else none

/-- A load accepted earlier holds a named tile (R223). -/
def loadBusy (s : State) (seq : Nat) (bs : List Byte) : Bool :=
  (loadTiles s bs).any fun t => (s.tile t).loadLocks.any (· < seq)

/-- A load holds tiles: they swap no bank (R223). -/
def holdTiles (s : State) (seq : Nat) (ts : List Nat) : State :=
  ts.foldl (fun s t => s.modTile t fun x => { x with loadLocks := insertSorted seq x.loadLocks }) s

/-- A LOAD is accepted. No named tile swaps banks from then on, so that the bank that is inactive now is inactive until the load ends
(R223, R233); until its image has been read the module does not know which tiles it names, and every tile is held (DESIGN CHOICE: it
delays swaps only). -/
def loadAccepted (s : State) (seq : Nat) : State :=
  match s.cmd seq with
  | none => s
  | some c => if pOpcode c.pkt = 0x60 then holdTiles s seq (valuesOf s.ras.l2p) else s

/-- Tiles that a load holds and that are not among `ts` are free of it. -/
def freeTiles (s : State) (seq : Nat) (ts : List Nat) : State :=
  { s with tiles := s.tiles.map fun (e : Nat × Tile) =>
      (e.1, if ts.contains e.1 then e.2 else { e.2 with loadLocks := e.2.loadLocks.filter (· ≠ seq) }) }

/-- The image of a LOAD has been read: it holds only the tiles that the image names (R223). -/
def loadRead (s : State) (seq : Nat) : State :=
  match s.cmd seq with
  | none => s
  | some c => if pOpcode c.pkt = 0x60 then freeTiles s seq (loadTiles s (c.payload.getD [])) else s

/-- LOAD (R218, R223, R307): the image is checked, and its tiles are held while it is placed. Loads that name one tile run in order of
acceptance. -/
def execLoad (seq : Nat) (s : State) : Out :=
  match takesEffect s seq 0x60 with
  | none => .next s
  | some c =>
    let bs := c.payload.getD []
    match loadCheck s c with
    | some f => .next (completeWith s seq f.status f.reason (f.word0.getD f.off) f.need)
    | none =>
      if loadBusy s seq bs then .next s
      else
        .next (holdTiles (startWork s seq) seq (loadTiles s bs))

/-- Every tile a load holds is free again (R223). -/
def unlockLoad (s : State) (seq : Nat) : State := freeTiles s seq []

/-- The image has been placed, or its placing failed: then the named banks stay empty (R223). -/
def finishLoad (s : State) (seq : Nat) (c : OpenCmd) (failed : Bool) : State :=
  let bs := c.payload.getD []
  if failed then
    let s := (loadTiles s bs).foldl (fun s t => s.modTile t fun x => x.setBank (bankFor x c.pkt) {}) s
    completeWith (unlockLoad s seq) seq stUncorrectable
  else endsOk s seq (nativeBytes bs) (min (num bs 1 1) 3)

/-- LOAD commits: the image sits staged in its bank of every named tile, and its model's bitmaps exist (R223, R307). -/
def commitLoad (s : State) (seq : Nat) (c : OpenCmd) : State :=
  let bs := c.payload.getD []
  let p := programOf (ldImage c.pkt) (ldModel c.pkt) bs
  let s := (loadTiles s bs).foldl (fun s t => s.modTile t fun x =>
    x.setBank (bankFor x c.pkt) { prog := some p, staged := true }) s
  let s := if hasK p.model s.models then s else { s with models := insertK p.model {} s.models }
  let s := unlockLoad s seq
  settleWork ((loadTiles s bs).foldl (fun s t => s.modTile t fun x => if x.items.isEmpty then swapBanks x else x) s)

/-- UNSTAGE (R308). -/
def execUnstage (seq : Nat) (s : State) : Out :=
  runCmd s seq 0x61 (fun c =>
    let id := ldImage c.pkt
    firstFail [
      (!s.tiles.any (fun e => e.2.holds id), { num := 1 }),
      (s.tiles.any (fun e => (e.2.bank e.2.active).image = id), { num := 2, status := stBankActive })]) fun _ => endsOk s seq

/-- UNSTAGE commits: banks where the image is staged and not yet swapped in are emptied (R308). -/
def commitUnstage (s : State) (c : OpenCmd) : State :=
  { s with tiles := s.tiles.map fun (e : Nat × Tile) =>
      let b := e.2.bank e.2.idleBank
      (e.1, if b.image = ldImage c.pkt && b.staged then e.2.setBank e.2.idleBank {} else e.2) }

/-! ## TILE_TEST (R317) -/

/-- TILE_TEST (R317): a tile in service is refused. -/
def execTileTest (seq : Nat) (s : State) : Out :=
  runCmd s seq 0xE0 (fun c => firstFail [(roleOf s (pktBits c.pkt 24 0 8) = .inService, { num := 1 })])
    fun _ => startWork s seq

/-- The self-test has ended; the number of the first failing test is the module's (R317). -/
def finishTileTest (s : State) (seq : Nat) (c : OpenCmd) (failed : Bool) : State :=
  let t := pktBits c.pkt 24 0 8
  if failed then
    let (d, s) := drawFree s
    endsOk s seq ((Config.freeChoice d 0 % 255 + 1) * 256)
  else endsOk { s with ras := { s.ras with testPassed := insertSorted t s.ras.testPassed } } seq 1

/-! ## Staging (R387, R388) -/

/-- Held data of another layer or model on the tile overlaps the entry's scratchpad bytes (R388). -/
def stageBlocked (s : State) (tile : Nat) (d : Staged) : Bool :=
  s.wsp.staged.any fun q => q.1 = tile && q.2.held && !(q.2.model = d.model && q.2.entry = d.entry) &&
    rangesMeet q.2.entry.spad q.2.entry.len d.entry.spad d.entry.len

/-- A staged entry waits for its data and can have it now (R387, R388). -/
def stageDue (s : State) (tile : Nat) (q : Nat × Staged) : Bool :=
  q.1 = tile && !q.2.held && stageRegionCovers s q.2.model tile q.2.entry.spad q.2.entry.len && !stageBlocked s tile q.2

/-- STAGE_DONE (R387, R394): the first entry of the logical tile that waits, and can be staged, holds its data. One whose source is LOST
is given up, until a work item asks for it again. -/
def execStageDone (tile : Nat) (s : State) : Out :=
  match s.wsp.staged.find? (stageDue s tile), physOf s tile with
  | some q, some t =>
    let e := q.2.entry
    if !(s.tile t).rowOn then .next s
    else match firstLost s e.addr e.len, absentPages s e.addr e.len with
      | some p, _ =>
        .next (settleWork (meetLost { s with wsp := { s.wsp with staged := s.wsp.staged.filter (· ≠ q) } } p))
      | none, p :: ps => .next ((p :: ps).foldl (fun s p => queueMove s { kind := .prefetch, page := p }) s)
      | none, [] => if !(windowLines s false [(e.addr, e.len)]).isEmpty then .next (askLines s (windowLines s false [(e.addr, e.len)])) else
        let s := (injectAt (noteReads s e.addr e.len) 3 t).modTile t fun x => x.writeSpad e.spad (wspBytes s e.addr e.len)
        let mark := fun (d : Nat × Staged) => if d = q then (d.1, { d.2 with held := true }) else d
        .next (settleWork (count { s with wsp := { s.wsp with staged := s.wsp.staged.map mark } } bankWsp 11))
  | _, _ => .next s

end Sys2Proof.Machine
end

