-- ==== Sys2Proof/Machine/Durable.lean ====
section
/-!
DEFINITION. The journal's entries become durable: acceptance, refusal and commit (R255, R262, R270, R271, R275, R276);
the end of commands' work; and the failover of the control cores (R285–R288).
-/
namespace Sys2Proof.Machine

/-! ## Commit (R270, R271) -/

/-- The RTE registers and counters of a change of a layer's mode under R94, and its journal entry (R95, R106, R107). -/
def modeSwitch (s : State) (seq : Nat) (x : LStep) (toEc : Bool) : State :=
  let frac := if x.groupChoices = 0 then 0 else satBits 16 (x.groupSpill * 65536 / x.groupChoices)
  let v := x.ctx + x.layer * 2 ^ 18 + b2n toEc * 2 ^ 28 + frac * 2 ^ 32
  let s := (upFrom 0 4).foldl (fun s n =>
    let s := setRaw (setRaw s Reg.RTE_LAST_SWITCH n 0 v) Reg.RTE_SWITCH_MSC n 0 x.msc
    count s (bankRte n) (if toEc then 8 else 9)) s
  openEvent s 0x02 seq x.ctx x.stream x.layer x.msc [b2n toEc, x.groupSpill, x.groupChoices]

/-- HOLD_LEFT after a step that commits (R94). -/
def holdAfter (x : LStep) (h : Nat) : Nat :=
  if x.ec then h - 1
  else if x.groupChoices ≠ 0 && x.route.spillHi * x.groupChoices ≤ x.groupSpill * 65536 then x.route.hold
  else h

/-- A layer step commits: HOLD_LEFT and its mode's change, and the entry of a speculative step (R94, R95, R207). -/
def commitStep (s : State) (seq : Nat) : State :=
  match s.step seq with
  | none => s
  | some x =>
    let s := { s with xch := { s.xch with steps := eraseK seq s.xch.steps } }
    let h := holdLeft s x.ctx x.layer
    let h' := if x.route.mode = 2 && x.binding.routeDesc ≠ 0 then holdAfter x h else h
    let s := if h' = h then s else match s.context x.ctx with
      | some c => s.setContext x.ctx { c with holdLeft := if h' = 0 then eraseK x.layer c.holdLeft else insertK x.layer h' c.holdLeft }
      | none => s
    let s := if (h = 0) = (h' = 0) then s else modeSwitch s seq x (h = 0)
    if x.speculative then openEvent s 0x04 seq x.ctx x.stream x.layer x.msc [x.specSkipped, x.possiblyLost] else s

/-- CANCEL commits: the stream's generation moves on, and its open steps accepted before it are cancelled (R131, R299). -/
def commitCancel (s : State) (seq : Nat) (c : OpenCmd) : State :=
  let ctx := cancelCtx c.pkt
  let st := cancelStream c.pkt
  let s := s.modStream ctx st fun x => { x with gen := (x.gen + 1) % 2 ^ 16 }
  let mine := s.cp.cmds.filter fun e => e.1 < seq && e.2.phase ≠ .completing &&
    (pOpcode e.2.pkt = 0x80 || pOpcode e.2.pkt = 0x81) && pContext e.2.pkt = ctx && pStream e.2.pkt = st
  let s := mine.foldl (fun s e => s.modCmd e.1 fun x => { x with cancels := x.cancels + 1 }) s
  mine.foldl (fun s e => maybeCommit s e.1) s

/-- What a command that ends without error changes when it commits, by opcode (R270, R271). -/
def commitOp (s : State) (seq : Nat) (c : OpenCmd) : State :=
  let op := pOpcode c.pkt
  if op = 0x02 then commitSqCreate s c
  else if op = 0x03 then commitSqDelete s c
  else if op = 0x04 then commitCqCreate s c
  else if op = 0x05 then commitCqDelete s c
  else if op = 0x08 then commitCancel s seq c
  else if op = 0x20 then commitCtxCreate s c
  else if op = 0x21 then destroyContext s (pContext c.pkt)
  else if op = 0x22 then commitStreamOpen s seq c
  else if op = 0x23 then closeStream s (pContext c.pkt) (pStream c.pkt)
  else if op = 0x28 then commitPoolCreate s c
  else if op = 0x29 then commitPoolQuota s c
  else if op = 0x2A then commitBufFree s c
  else if op = 0x2B then destroyPool s (poolKey c.func (pktBits c.pkt 24 0 10))
  else if op = 0x40 then commitPageMap s c
  else if op = 0x41 then commitPageUnmap s c
  else if op = 0x44 then commitMigrate s c
  else if op = 0x48 then commitPourSet s c
  else if op = 0x49 then commitPourClear s c
  else if op = 0x60 then commitLoad s seq c
  else if op = 0x61 then commitUnstage s c
  else if op = 0x80 || op = 0x81 then commitStep s seq
  else if op = 0x88 then commitExpertMask s c
  else if op = 0xA0 then commitGroupCreate s seq
  else if op = 0xA1 then commitGroupDestroy s c
  else if op = 0xC0 then commitEpConfig s c
  else if op = 0xC2 then commitEpEpoch s c
  else if op = 0xC8 then commitMcastSet s c
  else if op = 0xC9 then commitMcastClear s c
  else if op = 0xE1 then commitBitmapRead s c
  else s

/-- The next step of a stream, where it is runnable: R269 lets it take effect and its preconditions hold (R326). -/
def runnableStep (s : State) (ctx st : Nat) : Option (Nat × OpenCmd) :=
  s.cp.cmds.find? fun e => isStepOp e.2.pkt && pContext e.2.pkt = ctx && pStream e.2.pkt = st &&
    (takesEffect s e.1 (pOpcode e.2.pkt)).isSome && !faultedCtx s e.2 && (absentDescs s e.2.pkt).isEmpty && (windowLines s false (descRanges s e.2.pkt)).isEmpty && (stepPre s e.1 e.2).isNone

/-- A stream whose step has ended goes on with its next one, where that is runnable: it stays RUNNING in its general slot, or waits (R328,
R329). -/
def nextStep (s : State) (ctx st : Nat) : State :=
  match runnableStep s ctx st with
  | some (q, c) => beginStep s q c
  | none => s

/-- A resident stream whose next step is accepted and must wait under R269, behind an earlier command or for a FENCE, is BLOCKED
(R333; DEDUCED from stream S2 of the worked example of R336: R328 lets a stream without a runnable step linger); once it may take
effect, it begins. -/
def settleStream (s : State) (x : Nat × Nat × Stream) : State :=
  let y := s.stream x.1 x.2.1
  let next := s.cp.cmds.find? fun e => isStepOp e.2.pkt && pContext e.2.pkt = x.1 && pStream e.2.pkt = x.2.1
  match y.slot, next with
  | some _, some (q, c) =>
    if c.phase ≠ .ready then s
    else if y.state = .lingering && !mayStart s q c then
      s.setStream x.1 x.2.1 { y with
        state := .blocked, since := s.ticks, stepSeq := q, cls := ((s.context x.1).map fun k => effClass k c.pkt).getD 0
        layer := some (pStepLayer c.pkt), msc := pMsc c.pkt }
    else if y.state = .blocked && y.stepSeq = q then nextStep s x.1 x.2.1
    else s
  | _, _ => s

/-- Every stream as R333 has it once a command is accepted or has ended. -/
def settleStreams (s : State) : State := (allStreams s).foldl settleStream s

/-- A command commits, or ends in error without effect (R14, R270); it is open no more, and a step's stream is free (R104). -/
def commitCmd (s : State) (seq : Nat) (c : OpenCmd) : State :=
  let s := recordLate s seq c
  let s := if c.result.good then commitOp (commitWrites s (pOpcode c.pkt = 0x42) c.writes c.written) seq c
    else
      let s := dropReserved (unlockLoad (freeCmdChains s seq) seq) seq
      { s with xch := { s.xch with newGroups := eraseK seq s.xch.newGroups } }
  let s := count s bankCp (if c.result.good then 3 else 4)
  let ctx := pContext c.pkt
  let st := pStream c.pkt
  let ends := isStepOp c.pkt && (s.stream ctx st).stepSeq = seq
  let s := if ends then stepEnds s ctx st c.result.good else s
  let s := endFed { s with cp := { s.cp with cmds := eraseK seq s.cp.cmds } } seq
  if ends then nextStep s ctx st else s

/-! ## Durable entries (R255, R262, R264, R275, R276) -/

/-- The reply of a REFUSE or COMPLETE entry, rebuilt from the entry (R276). -/
def JEntry.reply (e : JEntry) : List Byte :=
  if e.kind = 2 then replyBytes (pHostTag e.body) e.seq { status := e.status, detail := e.detail, word0 := e.word0, word1 := e.word1 }
  else leBytes 32 (e.body.toNat % 2 ^ 256)

/-- What follows once an entry is durable: an accepted command may be acted on, a refusal is answered, a command that ended
commits and is answered. -/
def entryDurable (s : State) (e : JEntry) : State :=
  if e.kind = 1 then
    let ready := fun (c : OpenCmd) => if c.phase = .accepting then { c with phase := .ready } else c
    let s := loadAccepted (s.modCmd e.seq ready) e.seq
    if hasK e.seq s.det.fed || e.gone then s else advanceSqHead s e.func e.queue e.slot
  else if e.kind = 2 then
    let s := if hasK e.seq s.det.fed then endFed s e.seq
      else if e.gone then s else advanceSqHead s e.func e.queue e.slot
    postReply s e.func e.cq e.rslot e.reply (pIrq e.body)
  else if e.kind = 3 then
    match s.cmd e.ref with
    | none => s
    | some c => postReply (commitCmd s e.ref c) e.func e.queue e.slot e.reply (pIrq c.pkt)
  else s

/-- The oldest entry that is not durable becomes so. -/
def oldestDurable (s : State) : State :=
  match s.cp.journal.notDurable with
  | [] => s
  | q :: rest =>
    let s := { s with cp := { s.cp with journal := { s.cp.journal with notDurable := rest } } }
    match s.cp.journal.ring.find? fun e => e.seq = q with
    | none => s
    | some e => entryDurable s e

/-- `n` entries become durable, in order. -/
def entriesDurable : Nat → State → State
  | 0, s => s
  | n + 1, s => entriesDurable n (oldestDurable s)

/-- Contexts whose table entry could not be read are torn down, once the command that met it may take effect (R342; when is DEDUCED:
no command takes effect before its entry is durable, R275). -/
def faultUnread (s : State) : State :=
  let due := s.ctx.unread.filter fun e => !s.cp.journal.notDurable.contains e.1
  let s := { s with ctx := { s.ctx with unread := s.ctx.unread.filter fun e => !due.contains e } }
  due.foldl (fun s e => stateAreaFault e.1 s e.2) s

/-- JOURNAL_ENTRY_DURABLE (R275): the oldest entry whose copies were not both written is durable. `retries` counts copy writes
that were retried; `oneCopy`: only one copy can be kept. -/
def execJournalEntryDurable (retries : Nat) (oneCopy : Bool) (s : State) : Out :=
  if s.cp.journal.notDurable.isEmpty || s.cp.cores.stopped then .next s
  else
    let (again, s) := injectMany 0xE 0 (if oneCopy then 1 else 2) s
    let retries := retries + again
    let s := if retries = 0 then s
      else raiseErr (timingOpen (count s bankCp 9 retries)) Fld.JRN_ERR_RETRY 0 .recovered
    let was := s.cp.journal.singleCopy
    let s := { s with cp := { s.cp with journal := { s.cp.journal with singleCopy := oneCopy } } }
    let s := if oneCopy && !was then raiseErr s Fld.JRN_ERR_SINGLE_COPY 0 .degraded else s
    .next (settleStreams (settleWork (faultUnread (oldestDurable s))))

/-! ## The end of a command's work -/

/-- COMMAND_WORK_DONE (R270): the work that a command had running ends. `failed`: its one way to fail happened (a NAND write, an
image read, a self-test). -/
def execCommandWorkDone (seq : Nat) (failed : Bool) (s : State) : Out :=
  match s.cmd seq with
  | none => .next s
  | some c =>
    let op := pOpcode c.pkt
    if c.phase ≠ .working || s.cp.cores.stopped then .next s
    else if op = 0x09 then .next (finishJournalFlush s seq failed)
    else if op = 0x28 then .next (endsOk s seq)
    else if op = 0x42 then .next (finishPageWrite s seq c)
    else if op = 0x43 then .next (finishPageRead s seq c)
    else if op = 0x44 then .next (finishMigrate s seq)
    else if op = 0x4C || op = 0x4D then .next (finishPack s seq c)
    else if op = 0x60 then .next (finishLoad s seq c failed)
    else if op = 0xE0 then .next (finishTileTest s seq c failed)
    else .next s

/-! ## Control cores (R285–R288) -/

/-- The CQ index that an entry's reply took (R276). -/
def JEntry.replyIndex (e : JEntry) : Nat := if e.kind = 2 then e.rslot else e.slot

/-- The entries whose replies lie in the `n` indices below `tail` of a CQ of `depth` entries; `js` are the queue's entries, latest
first, and `notes` the indices that hold notes (R268). -/
def unreleased (depth : Nat) (notes : List Nat) : Nat → Nat → List JEntry → List JEntry
  | 0, _, _ => []
  | n + 1, tail, js =>
    let k := (tail + depth - 1) % depth
    if notes.contains k then unreleased depth notes n k js
    else match js with
      | [] => []
      | j :: rest => if j.replyIndex = k then j :: unreleased depth notes n k rest else unreleased depth notes n k (j :: rest)

/-- Every REFUSE and COMPLETE entry of the ring whose reply slot the host has not released is posted again, byte for byte, and then
the tail writeback (R287). -/
def rewriteReplies (s : State) : State :=
  s.cp.cqs.foldl (fun s e =>
    let f := e.1 / 1024
    let q := e.1 % 1024
    let c := e.2
    let depth := 2 ^ c.depthLog2
    let posted := (c.tail + depth - c.head) % depth
    if c.stopped || posted = 0 then s
    else
      let mine := fun (j : JEntry) => j.func = f && (j.replyIndex + depth - c.head) % depth < posted &&
        ((j.kind = 3 && j.queue = q) || (j.kind = 2 && j.cq = q))
      let js := (unreleased depth c.noteSlots posted c.tail (s.cp.journal.ring.filter mine).reverse).reverse
      let s := js.foldl (fun s j => send s (.write f (c.base + 32 * j.replyIndex) j.reply)) s
      send s (.write f (c.base + 32 * depth) (leBytes 4 c.tail ++ leBytes 4 c.wrap))) s

/-- What the failed core held of a command is killed with cause 2 and runs again (R286): a load starts over, an administration
command resumes, a step not yet issued to the routing engines is issued again. -/
def rerunHeld (s : State) (e : Nat × OpenCmd) : State :=
  let seq := e.1
  let c := e.2
  let op := pOpcode c.pkt
  if c.phase = .completing || c.phase = .accepting then s
  else if op = 0x60 then (if c.phase = .working then killCmd s seq 2 0 3 else s)
  else if isAdmin op then
    if c.phase = .working then
      let k := recKeyOf 7 c
      let s := journalEvent s 0x01 seq 2 0 (eventHead k.ctx k.stream k.layer) (pMsc c.pkt)
      recEvent (count (preemptNote s seq c) bankCp 5) 1 0 seq 3 k
    else s
  else if op = 0x80 || op = 0x81 then
    match s.step seq with
    | some x =>
      if x.stage = .queued then
        let s := (killCmd s seq 2 0 3).modCmd seq fun c => { c with phase := .working }
        startStep s seq x.ctx x.stream
      else s
    | none =>
      if c.phase = .ready then killCmd s seq 2 0 3
      else (killCmd s seq 2 0 3).modCmd seq fun c => { c with phase := .working }
  else s

/-- The active core has failed (R285–R288): the standby takes over, or command processing stops. -/
def failover (s : State) : State :=
  let k := s.cp.cores
  if k.stopped then s
  else if !k.standby then coreErr s Fld.CP_ERR_STOPPED .fatal
  else
    let s := { s with cp := { s.cp with cores := { k with active := 1 - k.active, standby := false, testing := true, lastBeat := s.ticks } } }
    let s := timingOpen (count s bankCp 10)
    let s := entriesDurable s.cp.journal.notDurable.length s
    let s := s.cp.cmds.foldl rerunHeld s
    let jseq := nextSeq s
    let s := recEvent (journalEvent s 0x07 0 0 0 0) 3 0 0 0
    let s := coreErr s Fld.CP_ERR_FAILOVER .recovered jseq
    settleStreams (settleWork (rewriteReplies s))

/-- HEARTBEAT (R285). -/
def execHeartbeat (s : State) : Out :=
  .next { s with cp := { s.cp with cores := { s.cp.cores with lastBeat := s.ticks } } }

/-- HEARTBEAT_TIMEOUT (R285). -/
def execHeartbeatTimeout (s : State) : Out := .next (failover s)

/-- CORE_ERROR_REPORT (R285). -/
def execCoreErrorReport (s : State) : Out := .next (failover s)

/-- STANDBY_SELF_TEST_DONE (R288): the core under test becomes the standby, or stays out of service. -/
def execStandbySelfTestDone (passed : Bool) (s : State) : Out :=
  if !s.cp.cores.testing then .next s
  else
    let s := { s with cp := { s.cp with cores := { s.cp.cores with testing := false, standby := passed } } }
    .next (if passed then s else coreErr s Fld.CP_ERR_STANDBY_LOST .degraded)

end Sys2Proof.Machine
end

