-- ==== Sys2Proof/Machine/CommandProc.lean ====
section
/-!
DEFINITION. The command processor's queues: doorbells, fetch rounds, refusal, acceptance, payload reads, interrupt
moderation, the administration queues and the journal ring's move (R250–R265, R283, R289).
-/
namespace Sys2Proof.Machine

/-- An error of a queue of function `f`: the bit and its information, in that function's view and in the physical
function's (R289, R566). -/
def cpErr (s : State) (ref : FieldRef) (f q value : Nat) : State :=
  let info := f + q * 2 ^ 6 + ref.lo * 2 ^ 16 + value % 2 ^ 32 * 2 ^ 32
  let s := setRaw (setFld s ref 1 0 f) Reg.CP_ERR_INFO 0 f info
  irqUpdate (setRaw (setFld s ref 1 0 0) Reg.CP_ERR_INFO 0 0 info)

/-! ## Doorbells (R253, R254, R564) -/

/-- The tail of an SQ is kept, unless R254 ignores the write. -/
def sqTail (s : State) (func queue value : Nat) : State :=
  match s.sq func queue with
  | none => cpErr s Fld.CP_ERR_DOORBELL func queue value
  | some x =>
    if value ≥ 2 ^ x.depthLog2 then cpErr s Fld.CP_ERR_DOORBELL func queue value
    else s.setSq func queue { x with tail := value }

/-- The REFUSE entry of a packet (R262, R276). -/
def refusal (f q slot cq rslot : Nat) (p : Packet) (why : Nat × Nat) (gone : Bool) : JEntry :=
  { kind := 2, code := pOpcode p, queue := q, func := f, slot, status := why.1, detail := why.2, rslot, msc := pMsc p, body := p, cq, gone }

/-- A packet of SQ `q` that fails its checks is journaled and its reply's slot is taken; none while its CQ has no free entry, or the
journal stalls (R262, R276, R281). Without its CQ it gets its entry and no reply (R279, R298). -/
def refusePacket (s : State) (f q slot cq : Nat) (p : Packet) (why : Nat × Nat) (gone : Bool) : Option State :=
  if jrnStalled s || s.cp.cores.stopped then none
  else if cq = noCq then some (count (journal s (refusal f q slot cq 0 p why gone)) bankCp 2)
  else match s.cq f cq with
    | none => none
    | some c =>
      if c.freeEntries = 0 then none
      else
        let s := s.setCq f cq { c with alloc := (c.alloc + 1) % 2 ^ c.depthLog2 }
        some (count (journal s (refusal f q slot cq c.alloc p why gone)) bankCp 2)

/-- The refused packet that waits on an SQ is answered once that can be (R262). -/
def refuseHeld (s : State) (f q : Nat) : State :=
  match s.sq f q with
  | none => s
  | some x =>
    match x.held with
    | none => s
    | some (p, slot) =>
      match checkPacket s f q p with
      | none => s
      | some why => (refusePacket (s.setSq f q { x with held := none }) f q slot x.cq p why false).getD s

/-- The first packet read from an SQ `q` that is no more. -/
def firstOrphan (s : State) (f q : Nat) : Option Orphan := s.cp.orphans.find? fun o => o.func = f && o.queue = q

/-- The state without a packet that waited on its own. -/
def dropOrphan (s : State) (o : Orphan) : State := { s with cp := { s.cp with orphans := s.cp.orphans.erase o } }

/-- A packet that waits on its own is refused, once that can be (R262, R279). -/
def refuseOrphan (s : State) (o : Orphan) : State :=
  match checkPacket s o.func o.queue o.pkt with
  | none => s
  | some why => (refusePacket (dropOrphan s o) o.func o.queue o.slot o.cq o.pkt why true).getD s

/-- Every refused packet that waits for room on CQ `q` of function `f` is served, in ascending order of its SQ (R262). -/
def serveRefusals (s : State) (f q : Nat) : State :=
  let s := (s.cp.orphans.filter fun o => o.func = f && o.cq = q).foldl refuseOrphan s
  (s.cp.sqs.filter fun e => e.1 / 1024 = f && e.2.cq = q && e.2.held.isSome).foldl
    (fun s e => refuseHeld s f (e.1 % 1024)) s

/-- Released reply entries of groups go back to the groups' reservations (R113). -/
def returnGroupEntries (s : State) (f q value : Nat) (c : Cq) : State :=
  let depth := 2 ^ c.depthLog2
  let gone := fun (e : Nat × Nat) => (e.1 + depth - c.head) % depth < (value + depth - c.head) % depth
  let back := c.groupSlots.filter gone
  let c := { c with groupSlots := c.groupSlots.filter fun e => !gone e
                    noteSlots := c.noteSlots.filter fun n => !gone (n, 0)
                    groupReserved := c.groupReserved + back.length }
  let groups := back.foldl (fun t e => modifyK e.2 (fun (g : Group) => { g with reserved := g.reserved + 1 }) t) s.xch.groups
  let s := s.setCq f q { c with head := value }
  { s with xch := { s.xch with groups := groups } }

/-- The head of a CQ moves and replies are released, unless R254 ignores the write; refused packets that waited for room are
answered. -/
def cqHead (s : State) (func queue value : Nat) : State :=
  match s.cq func queue with
  | none => cpErr s Fld.CP_ERR_DOORBELL func queue value
  | some c =>
    let depth := 2 ^ c.depthLog2
    if value ≥ depth || (value + depth - c.head) % depth > (c.tail + depth - c.head) % depth then
      cpErr s Fld.CP_ERR_DOORBELL func queue value
    else serveRefusals (returnGroupEntries s func queue value c) func queue

/-- The offset in BAR4 of an SQ's tail doorbell (R253). -/
def sqDoorbellAt (q : Nat) : Nat := 16 * q
/-- The offset in BAR4 of a CQ's head doorbell (R253). -/
def cqDoorbellAt (q : Nat) : Nat := 0x8 + 16 * q
/-- The first offset in BAR4 past the doorbells (R253). -/
def doorbellEnd : Nat := 0x4000

/-- A host write at an offset of BAR4: a doorbell takes the low 32 bits (R253, R564). -/
def bar4Write (s : State) (func off value : Nat) : State :=
  if doorbellEnd ≤ off then s
  else if off % 16 = 0 then sqTail s func (off / 16) (value % 2 ^ 32)
  else if off % 16 = 8 then cqHead s func (off / 16) (value % 2 ^ 32)
  else s

/-- The bytes of a host read at an offset of BAR4: doorbells read zero (R253). What the MSI-X table and the PBA hold is PCIe's, and
the spec gives only where they lie (R564): free values. -/
def bar4Read (k off n : Nat) : List Byte :=
  (upFrom off n).map fun o => if o < doorbellEnd then 0 else Config.freeByte k o

/-- SQ_DOORBELL (R253): a write of the tail doorbell of an SQ. -/
def execSqDoorbell (func queue value : Nat) (s : State) : Out := .next (bar4Write s func (sqDoorbellAt queue) value)

/-- CQ_DOORBELL (R253, R254): a write of the head doorbell of a CQ. -/
def execCqDoorbell (func queue value : Nat) (s : State) : Out := .next (bar4Write s func (cqDoorbellAt queue) value)

/-! ## Fetch (R255) -/

/-- The SQs of a function are read: FETCH is 1, the function is not in D3hot, and command processing runs. -/
def fetching (s : State) (f : Nat) : Bool :=
  flag s Fld.CP_CTL_FETCH 0 f && !s.cp.cores.stopped && !inD3hot s f && fld s Fld.DET_REC_CTL_MODE ≠ 2

/-- A new entry would overwrite one that a running JOURNAL_FLUSH is still to copy (R300). The copy ends as a whole in the model. -/
def flushHolds (s : State) : Bool :=
  s.cp.journal.ring.length ≥ jrnSlots s && s.cp.cmds.any fun e => pOpcode e.2.pkt = 0x09 && e.2.phase = .working &&
    jrnOldest s.cp.journal ≤ e.1

/-- One SQ's turn in a round: the packet the host's memory holds is taken and checked (R255, R261); none while the journal stalls, or
a flush is to copy the entry that a new one would overwrite (R281, R300). -/
def fetchOne (s : State) (r : FetchRead) : State :=
  match s.sq r.func r.queue with
  | none => s
  | some x =>
    if fetching s r.func && !jrnStalled s && !flushHolds s && !x.stopped && x.held.isNone && x.next ≠ x.tail then
      let s := s.setSq r.func r.queue
        { x with held := some (r.packet, x.next), next := (x.next + 1) % 2 ^ x.depthLog2 }
      refuseHeld (injectAt (count s bankCp 0) 0xD r.func) r.func r.queue
    else s

/-- The reads of a round in the order of R255: the physical function's SQ 0, then ascending function and queue, and
at most one from each SQ. -/
def roundOrder (reads : List FetchRead) : List FetchRead :=
  (reads.foldl (fun (t : Table FetchRead) r =>
    if hasK (qKey r.func r.queue) t then t else insertK (qKey r.func r.queue) r t) []).map Prod.snd

/-- JRN_ERR.STALLED is set while reading is stopped (R281). -/
def noteStall (s : State) : State := if jrnStalled s then setErr s Fld.JRN_ERR_STALLED else s

/-- COMMAND_FETCH (R255): one round. Nothing is read once the journal stalls (R281). -/
def execCommandFetch (reads : List FetchRead) (s : State) : Out :=
  .next (noteStall ((roundOrder reads).foldl fetchOne s))

/-! ## Acceptance (R264) -/

/-- A packet that passes its checks becomes an open command (R264); none while there is no reply entry, no journal space, or no room in
its group (R255, R281, R300). -/
def admitPacket (s : State) (func queue slot cq : Nat) (p : Packet) : Option State :=
  if jrnStalled s || flushHolds s || s.cp.cores.stopped then none
  else match admitCollective s func p with
    | .wait => none
    | .group g => some (openCommand s func queue slot g p true)
    | .own => match s.cq func cq with
      | none => if cq = noCq then some (openCommand s func queue slot cq p false) else none
      | some c =>
        if c.freeEntries = 0 then none
        else some (openCommand (s.setCq func cq { c with reserved := c.reserved + 1 }) func queue slot cq p false)

/-- A packet that waits on its own becomes an open command, or is refused (R279). -/
def takeOrphan (s : State) (o : Orphan) : State :=
  match checkPacket s o.func o.queue o.pkt with
  | some _ => refuseOrphan s o
  | none =>
    match admitPacket (dropOrphan s o) o.func o.queue o.slot o.cq o.pkt with
    | none => s
    | some t => detachEntries t fun e => e.seq = nextSeq s

/-- ACCEPT (R264): the packet waiting on an SQ passes its checks, reserves its reply's entry, takes a sequence number
and is entered in the journal; one that fails its checks is refused. It waits while it must (R255). -/
def execAccept (func queue : Nat) (s : State) : Out :=
  match firstOrphan s func queue, s.sq func queue with
  | some o, _ => .next (takeOrphan s o)
  | none, none => .next s
  | none, some x =>
    match x.held with
    | none => .next s
    | some (p, slot) =>
      match checkPacket s func queue p with
      | some _ => .next (refuseHeld s func queue)
      | none => .next ((admitPacket (s.setSq func queue { x with held := none }) func queue slot x.cq p).getD s)

/-- PAYLOAD_READ (R265): the payload is read before the command has any other effect, also while R269 still holds it back (DESIGN
CHOICE: no rule says when), and the copy is kept; one that cannot be read ends a command that may start. -/
def execPayloadRead (seq : Nat) (bytes : List Byte) (failedAt : Option Nat) (s : State) : Out :=
  match s.cmd seq with
  | none => .next s
  | some c =>
    match payloadSpec c.pkt with
    | none => .next s
    | some (_, len) =>
      if c.phase ≠ .ready || c.payload.isSome || s.cp.cores.stopped then .next s
      else match failedAt with
        | some a => .next (if mayStart s seq c then completeWith s seq stUncorrectable 1 a else s)
        | none =>
          if bytes.length ≠ payloadLen c.pkt len bytes then .next s
          else .next (loadRead (recordCmd (s.setCmd seq { c with payload := some bytes }) seq) seq)

/-- CQ_AGG_TIMEOUT (R256): the oldest unsignalled reply is AGG_TIME old and the vector fires. -/
def execCqAggTimeout (func queue : Nat) (s : State) : Out :=
  match s.cq func queue with
  | none => .next s
  | some c => if c.unsignalled = 0 || c.stopped then .next s else .next (fireVector s func queue)

/-! ## The journal ring's move (R283) -/

/-- JRN_BASE_WRITE (R283): the ring moves and empties, or the write is ignored whole. `base` is the field's value,
BAR2 offset bits [35:20]. Entries that are not yet durable become so in the old ring first, so that a refusal's reply is posted and its
SQ's head moves (DEDUCED from R255 and R262; R283 asks only that no command be open). -/
def execJrnBaseWrite (base size : Nat) (s : State) : Out :=
  let at_ := base % 2 ^ 16 * 2 ^ 20
  let ok := s.cp.cmds.isEmpty && (upFrom 0 33).all (fun f => !flag s Fld.CP_CTL_FETCH 0 f) &&
    20 ≤ size && size ≤ 30 && at_ % 2 ^ size = 0 &&
    (upFrom (at_ / 2 ^ 21) (2 ^ (size - 21))).all (fun p => !hasK p s.wsp.pages)
  if ok then
    let s := entriesDurable s.cp.journal.notDurable.length s
    let s := setRaw s Reg.JRN_BASE 0 0 (base % 2 ^ 16 * 2 ^ 20 + size * 2 ^ 40)
    .next (placeRing { s with cp := { s.cp with journal := { s.cp.journal with
      ring := [], oldest := s.cp.journal.head, pos := 0 } } })
  else .next (setErr s Fld.JRN_ERR_MOVE_REFUSED)

/-! ## Administration queues (R289) -/

/-- SQ 0 of a function starts again, empty. -/
def restartSq0 (s : State) (f : Nat) : State :=
  (detachSq s f 0).setSq f 0 { sq0 s f with owesWriteback := true }

/-- CQ 0 of a function starts again, empty. -/
def restartCq0 (s : State) (f : Nat) : State :=
  s.setCq f 0 { cq0 s f with owesWriteback := true }

/-- CQ 0 holds a reservation or an unconsumed reply. -/
def cq0Busy (s : State) (f : Nat) : Bool :=
  match s.cq f 0 with
  | none => false
  | some c => c.reserved ≠ 0 || c.groupReserved ≠ 0 || c.occupied ≠ 0

/-- ADMIN_QUEUE_WRITE (R289): a write of CP_ASQ, CP_ACQ or CP_AQ_CFG in a function's view. -/
def execAdminQueueWrite (func : Nat) (which : AdminReg) (value : Word) (s : State) : Out :=
  if flag s Fld.CP_CTL_FETCH 0 func || (s.sq func 0).isNone then .next s
  else
    let v := value.toNat
    match which with
    | .asq => .next (restartSq0 (setRaw s Reg.CP_ASQ 0 func (v - v % 4096)) func)
    | .acq =>
      if cq0Busy s func then .next s
      else .next (restartCq0 (setRaw s Reg.CP_ACQ 0 func (v - v % 4096)) func)
    | .aqCfg =>
      let a := bitsOf v 0 5
      let c := bitsOf v 8 5
      let cChange := c ≠ fld s Fld.CP_AQ_CFG_ACQ_LOG2 0 func
      let aChange := a ≠ fld s Fld.CP_AQ_CFG_ASQ_LOG2 0 func
      if a < 1 || 16 < a || c < 1 || 16 < c || fnVectors func ≤ bitsOf v 16 11 || (cChange && cq0Busy s func) then .next s
      else
        let s := setRaw s Reg.CP_AQ_CFG 0 func (a + c * 2 ^ 8 + bitsOf v 16 12 * 2 ^ 16)
        let s := if aChange then restartSq0 s func else s
        if cChange then .next (restartCq0 s func)
        else match s.cq func 0 with
          | none => .next s
          | some q => .next (s.setCq func 0 { q with vector := cq0Vector s func })

/-- FETCH_ENABLE (R289): CP_CTL.FETCH of a function's view; the writebacks owed by restarted queues come first, and then the
replies that waited for them. -/
def execFetchEnable (func : Nat) (value : Bool) (s : State) : Out :=
  let s := setFld s Fld.CP_CTL_FETCH (b2n value) 0 func
  if !value then .next s
  else
    let s := match s.sq func 0 with
      | some x => if x.owesWriteback then
          send (s.setSq func 0 { x with owesWriteback := false })
            (.write func (x.base + 64 * 2 ^ x.depthLog2) (leBytes 8 0)) else s
      | none => s
    match s.cq func 0 with
    | some c =>
      if c.owesWriteback then
        let s := send (s.setCq func 0 { c with owesWriteback := false }) (.write func (c.base + 32 * 2 ^ c.depthLog2) (leBytes 8 0))
        .next (flushNotes s func 0 c.notes.length)
      else .next s
    | none => .next s

/-- CPL_TIMEOUT (R573, R257, R265): an access to host memory fails. A read that does so stops an SQ or ends a command. No row of the
table is a PCIe error on a reply or a writeback, which stops a CQ; the model lets this row's operand name it (DESIGN CHOICE). -/
def execCplTimeout (source : CplSource) (s : State) : Out :=
  let mark (s : State) (f : Nat) : State :=
    setErr (setRaw s Reg.HIF_ERR_INFO 0 0 (f + 1 * 2 ^ 8)) Fld.HIF_ERR_CPL_TIMEOUT
  match source with
  | .sqEntry f q =>
    match s.sq f q with
    | none => .next s
    | some x => .next (mark (cpErr (s.setSq f q { x with stopped := true }) Fld.CP_ERR_SQ_READ f q 0) f)
  | .payload seq a =>
    match s.cmd seq with
    | none => .next s
    | some c =>
      if c.phase = .ready && c.payload.isNone && (payloadSpec c.pkt).isSome && mayStart s seq c && !s.cp.cores.stopped then
        .next (completeWith (mark s c.func) seq stUncorrectable 1 a)
      else .next s
  | .cqWrite f q =>
    match s.cq f q with
    | none => .next s
    | some x => .next (cpErr (s.setCq f q { x with stopped := true }) Fld.CP_ERR_CQ_WRITE f q 0)

end Sys2Proof.Machine
end

