-- ==== Sys2Proof/Machine/Reset.lean ====
section
/-!
DEFINITION. Resets, bring-up and loss of power: what each ends, keeps and clears (R282, R370, R541–R546, R550, R567).
-/
namespace Sys2Proof.Machine

/-! ## Ending commands (R282) -/

/-- What lay in a command's destination regions is unspecified once it has taken effect and ended without commit, whether a kill came
between or not (R271). -/
def spoilDest (s : State) (c : OpenCmd) : State :=
  (if c.dest.isEmpty then c.written else c.dest).foldl (fun s r =>
    let (d, s) := drawFree s
    wspStore true s r.1 ((upFrom 0 r.2).map fun i => Config.freeByte d i) (pOpcode c.pkt = 0x42)) s

/-- What a command holds in the blocks that work for it is dropped. -/
def dropWork (s : State) (seq : Nat) : State :=
  let s := dropReserved (unlockLoad (freeCmdChains (stopStepWork (stopTileWork s seq) seq) seq) seq) seq
  let s := dropFabWork s seq
  let mine := s.wsp.moves.filter fun m => m.kind = .migrate && m.seq = seq
  let s := mine.foldl (fun s m => s.modPage m.page fun d => { d with moving := false }) s
  let moves := s.wsp.moves.filter fun m => !(m.kind = .migrate && m.seq = seq)
  { s with wsp := { s.wsp with moves }, xch := { s.xch with newGroups := eraseK seq s.xch.newGroups } }

/-- A reset ends an open command: its ABANDON entry is written and no reply is posted (R282). -/
def abandonCmd (s : State) (e : Nat × OpenCmd) : State :=
  let c := e.2
  let s := spoilDest (dropWork s e.1) c
  let s := journal s { kind := 6, code := pOpcode c.pkt, func := c.func, ref := e.1, msc := pMsc c.pkt }
  let s := recordLate s e.1 e.2
  { s with cp := { s.cp with cmds := eraseK e.1 s.cp.cmds }, det := { s.det with fed := eraseK e.1 s.det.fed } }

/-- A packet that was read and waits to be refused or accepted gets its entry, and no reply, since its queues are about to go (R279,
R282). -/
def enterHeld (s : State) (f q slot : Nat) (p : Packet) : State :=
  match checkPacket s f q p with
  | some why => count (journal s (refusal f q slot noCq 0 p why true)) bankCp 2
  | none => openCommand s f q slot noCq p false

/-- Every packet that waits on an SQ of the functions that `p` picks gets its entry (R279). -/
def enterAllHeld (s : State) (p : Nat → Bool) : State :=
  let s := (s.cp.orphans.filter fun o => p o.func).foldl (fun s o => enterHeld s o.func o.queue o.slot o.pkt) s
  s.cp.sqs.foldl (fun s e => match e.2.held with
    | some (pkt, slot) => if p (e.1 / 1024) then enterHeld s (e.1 / 1024) (e.1 % 1024) slot pkt else s
    | none => s) s

/-- The open commands of the functions that `p` picks end, in order of sequence number; entries already written are durable first, and a
packet already read gets its entry (R279, R282). -/
def abandonAll (s : State) (p : Nat → Bool) : State :=
  let s := enterAllHeld (entriesDurable s.cp.journal.notDurable.length s) p
  (s.cp.cmds.filter fun e => p e.2.func).foldl abandonCmd s

/-! ## What survives (R545, R546) -/

/-- The offset in BAR0 of a key of the register file. -/
def keyOffset (k : Nat) : Nat := k % 2 ^ 26

/-- Is the key one of a register's copies? -/
def ofReg (r : RegSpec) (k : Nat) : Bool := r.base ≤ keyOffset k && keyOffset k < r.base + r.n * r.stride

/-- Registers that every reset but loss of standby keeps: PWR_, CLK_, RST_ and MGT_ and the ERR registers of the ember domain. -/
def emberReg (k : Nat) : Bool :=
  let b := blockOf (keyOffset k)
  b = blockOf Reg.PWR_CTL.base || b = blockOf Reg.CLK_CTL.base || b = blockOf Reg.RST_CTL.base || b = blockOf Reg.MGT_CTL.base ||
    ofReg Reg.RAS_ERR k || ofReg Reg.RAS_ERR_INFO k

/-- Registers that a warm reset keeps (R545, R546). -/
def warmReg (k : Nat) : Bool :=
  let b := blockOf (keyOffset k)
  let err := ofReg Reg.FAB_PORT_ERR k || ofReg Reg.XRT_ERR k || ofReg Reg.XRT_ERR_INFO k
  emberReg k || ((b = blockOf Reg.FAB_PORT_CTL.base || b = blockOf Reg.XRT_EP.base || b = blockOf Reg.SHP_CTL.base) && !err) ||
    ofReg Reg.JRN_BASE k || ofReg Reg.JRN_CTL k || ofReg Reg.WSP_CTL k || ofReg Reg.NTL_CTL k || ofReg Reg.NTL_CFG k ||
    ofReg Reg.DET_REC_CTL k || ofReg Reg.HIF_LINK k

/-- Test mode ends, and with it every perturbation is off (R545, R559). -/
def endTestMode (s : State) : State :=
  let off := s.regs.filter fun e => blockOf (keyOffset e.1) ≠ blockOf Reg.PRT_CTL.base || ofReg Reg.PRT_ERR e.1
  dropHolds (setFld { s with regs := off } Fld.MGT_TEST_TEST_MODE 0)

/-- The link of the host interface is down. -/
def linkDown (s : State) : State :=
  setFld (setFld (setFld s Fld.HIF_LINK_SPEED 0) Fld.HIF_LINK_WIDTH 0) Fld.HIF_LINK_FLIT 0

/-- The state of domains 1–34 and of DRAM is lost (R545): the ember domain, fuses, NAND and the repair map stay. -/
def wipeMain (s : State) : State :=
  let s := endTestMode s
  let wiped : State := {
    fuses := s.fuses
    regs := s.regs.filter fun e => emberReg e.1
    cp := { nand := s.cp.nand }
    wsp := { nand := s.wsp.nand, failed := s.wsp.failed, pcFailed := s.wsp.pcFailed, retired := s.wsp.retired }
    ntl := s.ntl
    fab := { linkOut := s.fab.linkOut }
    ras := { roles := s.ras.roles, l2p := s.ras.l2p, storeBad := s.ras.storeBad, storePending := s.ras.storePending
             mapWritten := s.ras.mapWritten, spdm := s.ras.spdm.filter fun c => c.binding = 0, spdmClock := s.ras.spdmClock }
    mgt := { s.mgt with parts := s.mgt.parts.filter fun p => p.binding = 0 }
    pwr := { s.pwr with critical := false, downs := 0, dutyHold := false, target := 0, leaving := 0, goingDown := []
                        warmWanted := none, deadCores := [], badDomains := [] }
    pmc := { zeroAll := s.ticks }
    hostOut := s.hostOut, ticks := s.ticks, free := s.free, pending := s.pending }
  let off := setFld (setFld (setFld wiped Fld.PWR_DOMAINS_ON 0) Fld.PWR_STATUS_ROWS_ON 0) Fld.PWR_STATUS_RE_PAIRS_ON 0
  let off := setFld (setFld off Fld.PWR_STATUS_SMOULDER_PENDING 0) Fld.PWR_STATUS_DUTY 0
  let off := setRaw (setFld off Fld.CLK_STATUS_LOCKED 0) Reg.RST_STATUS 0 0 0
  { off with ras := { off.ras with irqSeen := irqStatus off } }

/-! ## Warm reset (R542) -/

/-- Every stream of every context closes, keeping its generation. -/
def closeAllStreams (s : State) : State :=
  s.ctx.table.foldl (fun s e => (e.2.streams.filter fun x => x.2.state ≠ .closed).foldl (fun s x => closeStream s e.1 x.1) s) s

/-- What a warm reset leaves of a tile: its images and its power. -/
def Tile.warm (x : Tile) (d : Nat) : Tile := { x.gated d with rowOn := x.rowOn, loadLocks := [] }

/-- The effects of a warm reset. -/
def warmEffects (s : State) : State :=
  let s := abandonAll s fun _ => true
  let s := closeAllStreams s
  let s := dropFlask (endTestMode s)
  let s := (s.tiles.map Prod.fst).foldl (fun s t => let (d, s) := drawFree s; s.modTile t fun x => x.warm d) s
  let kept : State := { s with
    regs := s.regs.filter fun e => warmReg e.1
    counters := []
    cp := { s.cp with sqs := [], cqs := [], cmds := [], orphans := [], cores := { active := 0, standby := false, testing := true, lastBeat := s.ticks } }
    hop := { s.hop with pool0 := [], waiting := [], pool0Given := [] }
    wsp := { s.wsp with staged := [], windows := [], corrected := [] }
    xch := {}
    pmc := { zeroAll := s.ticks, savedAt := s.pmc.savedAt }
    fab := { s.fab with mcast := [], mcastIn := [], mcastOut := [], remotes := [], tids := [], slots := [], admits := [], eject := []
                        fence := {} }
    ras := { s.ras with fatal := false, spdm := s.ras.spdm.filter fun c => c.binding = 0 }
    mgt := { s.mgt with parts := s.mgt.parts.filter fun p => p.binding = 0 }
    det := { ring := s.det.ring, head := s.det.head }
    pwr := { s.pwr with deadCores := [], warmWanted := none }
    hif := {} }
  let kept := setFld (setFld kept Fld.DET_REC_CTL_MODE 0) Fld.HIF_LINK_EID 0
  { kept with ras := { kept.ras with irqSeen := irqStatus kept } }

/-- RST_CAUSE and RST_COUNT after a reset (R541). -/
def noteReset (s : State) (kind source : Nat) (counter : FieldRef) : State :=
  bumpFld (setFld (setFld s Fld.RST_CAUSE_KIND kind) Fld.RST_CAUSE_SOURCE source) counter

/-- A warm reset is requested, with its SOURCE (R541): none while another reset runs, or without power to reset; a Smouldering
module wakes first; an entry to Banked gives way. -/
def warmReset (s : State) (source : Nat) : State :=
  let st := powerState s
  if s.pwr.reset.isSome || st = 0 || st = 3 || st = 6 then s
  else if st = 2 || st = 5 || (st = 4 && s.pwr.target = 1) then
    wakeTrigger { s with pwr := { s.pwr with warmWanted := some source } }
  else
    let s := setFld { s with pwr := { s.pwr with target := 0 } } Fld.PWR_STATUS_STATE 1
    let s := setFld (noteReset (warmEffects s) 3 source Fld.RST_COUNT_WARM) Fld.RST_STATUS_READY 0
    { s with pwr := { s.pwr with reset := some .warm } }

/-- The key of RST_CTL (R541). -/
def resetKey : Nat := 0xB7

/-- RST_CTL_WARM (R541). -/
def execRstCtlWarm (func key : Nat) (s : State) : Out :=
  if func = 0 && key = resetKey then .next (warmReset s 1) else .next s

/-- WARM_RESET, where the chain's request has passed its checks (R541, R557). -/
def chainWarmReset (s : State) : State := warmReset s 2

/-- AUTO_WARM_TIMEOUT (R541). -/
def execAutoWarmTimeout (s : State) : Out :=
  if flag s Fld.RST_CFG_AUTO_WARM && s.ras.fatal && powerState s ≠ 6 then .next (warmReset s 5) else .next s

/-- A PCIe conventional reset (R541): a warm reset; the link is down until it trains again. -/
def conventionalReset (s : State) : State := linkDown (warmReset s 3)

/-- PERST_ASSERT (R529, R561): outside Banked, a warm reset. -/
def execPerstAssert (s : State) : Out :=
  let s := { s with pwr := { s.pwr with perst := true } }
  if powerState s = 3 then .next s else .next (conventionalReset s)

/-- HOT_RESET (R541). -/
def execHotReset (s : State) : Out := .next (conventionalReset s)

/-- The link goes down (R541, R573). -/
def pcieDown (s : State) : State :=
  if s.hif.l23 || powerState s = 0 || powerState s = 6 then s
  else
    let s := conventionalReset s
    setErr (setRaw s Reg.HIF_ERR_INFO 0 0 0) Fld.HIF_ERR_LINK_DOWN

/-- PCIE_LINK_DOWN (R541, R561). -/
def execPcieLinkDown (s : State) : Out := .next (pcieDown s)

/-- PLL_LOCK_LOST (R536): PLL 6 retrains the ports; the PCIe PLL (numbered 7 here) takes the link down; any other is fatal. -/
def execPllLockLost (pll : Nat) (s : State) : Out :=
  if pll = 6 then
    .next ((upFrom 0 20).foldl (fun s p =>
      let st := fld s Fld.FAB_PORT_STATUS_STATE p
      if st = 0 || st = 6 then s else retrainPort s p) s)
  else if pll = 7 then .next (pcieDown s)
  else if 8 ≤ pll then .next s
  else
    let s := setFld s Fld.CLK_STATUS_LOCKED (putBits (fld s Fld.CLK_STATUS_LOCKED) pll 1 0)
    .next (raiseErr (setFld s Fld.CLK_ERR_PLL pll) Fld.CLK_ERR_LOCK_LOST 0 .fatal { unit := pll })

/-- WAKE_COMPLETE (R527, R529): the domains are restored and the module is Stoked; a warm reset that waited for it follows. -/
def execWakeComplete (s : State) : Out :=
  if powerState s ≠ 5 || s.pwr.leaving = 0 then .next s
  else
    let s := setFld (wakeDomains s) Fld.PWR_STATUS_STATE 1
    let s := { s with pwr := { s.pwr with leaving := 0 }, hif := { s.hif with l23 := false } }
    match s.pwr.warmWanted with
    | none => .next s
    | some source => .next (warmReset { s with pwr := { s.pwr with warmWanted := none } } source)

/-! ## Module reset, power-up and loss (R540, R541, R550) -/

/-- Domains 1–34 are to be brought up (R544). -/
def startBringUp (s : State) (kind : ResetKind) : State :=
  setFld { s with pwr := { s.pwr with reset := some kind } } Fld.PWR_STATUS_STATE 5

/-- A module reset is requested, with its SOURCE: in TRIPPED only once the module has cooled (R540, R541). -/
def moduleReset (s : State) (source : Nat) : State :=
  let st := powerState s
  if s.pwr.reset.isSome || st = 0 || (st = 6 && !s.pwr.cooled) then s
  else startBringUp (noteReset (wipeMain s) 2 (if st = 6 then 4 else source) Fld.RST_COUNT_MODULE) .module

/-- RST_CTL_MODULE (R541). -/
def execRstCtlModule (func key : Nat) (s : State) : Out :=
  if func = 0 && key = resetKey then .next (moduleReset s 1) else .next s

/-- DBG_RST (R551): it works only in test mode. -/
def execDbgRst (s : State) : Out := if flag s Fld.MGT_TEST_TEST_MODE then .next (moduleReset s 6) else .next s

/-- TRIP_LIMIT (R540): domains 1–34 and the stack supplies go off, and with DRAM the error log; the class 6 error is reported on the
chain. -/
def execTripLimit (reading : Reading) (s : State) : Out :=
  let st := powerState s
  if st = 0 || st = 6 then .next s
  else
    let seq := s.ras.logHead
    let s := wipeMain { s with pwr := { s.pwr with reset := none, cooled := false } }
    let s := stopFatal (setFld (setFld s Fld.PWR_STATUS_STATE 6) Fld.PWR_ERR_TRIPPED 1)
    .next (alert (pwrInfo s 4 reading.sensor reading.unit reading.temp 0) seq ErrClass.fatal.code
      (blockOf Reg.PWR_ERR.base) Fld.PWR_ERR_TRIPPED.lo)

/-- MAIN_POWER_LOSS (R550): the ember domain runs alone. -/
def execMainPowerLoss (s : State) : Out :=
  if !s.pwr.mainOn then .next s
  else
    let s := wipeMain { s with pwr := { s.pwr with reset := none, mainOn := false } }
    .next (setFld s Fld.PWR_STATUS_STATE 0)

/-- MAIN_POWER_UP (R541, R544): with standby present, bring-up starts. -/
def execMainPowerUp (s : State) : Out :=
  if s.pwr.mainOn || !s.pwr.standbyOn then .next s
  else
    let s := noteReset { s with pwr := { s.pwr with mainOn := true } } 1 0 Fld.RST_COUNT_MAIN
    .next (startBringUp s .main)

/-- STANDBY_LOSS (R545, R550): the ember domain goes too; the chain address and the tick count go with it. -/
def execStandbyLoss (s : State) : Out :=
  if !s.pwr.standbyOn then .next s
  else
    let s := wipeMain s
    let bare : State := { s with regs := [], ticks := 0, mgt := {}, ras := { s.ras with irqSeen := 0, spdm := [] }
                                 pwr := { mainOn := false, standbyOn := false, reset := none } }
    .next (setFld bare Fld.PWR_STATUS_STATE 0)

/-- STANDBY_POWER_UP (R523, R541, R552): the ember domain starts, and drives its chain output. -/
def execStandbyPowerUp (s : State) : Out :=
  if s.pwr.standbyOn then .next s
  else
    let s := setFld { s with ticks := 0, pwr := { s.pwr with standbyOn := true } } Fld.MGT_CHAIN_OUT_ON 1
    .next (setFld (setFld s Fld.RST_CAUSE_KIND 0) Fld.RST_CAUSE_SOURCE 0)

/-! ## Bring-up (R544) -/

/-- The repair map as the store holds it; a store never written holds what the fuses give. -/
def readMap (s : State) : State :=
  if s.ras.roles.isEmpty then
    let roles := fusedRoles s.fuses
    { s with ras := { s.ras with roles, l2p := ascendingL2p roles } }
  else s

/-- The map rebuilt from a self-test of every tile and stack, with no retired frames (R504). -/
def rebuildMap (s : State) (x : SelfTest) : State :=
  let roles := fusedRoles s.fuses
  let s := { s with ras := { s.ras with roles, l2p := ascendingL2p roles }
                    wsp := { s.wsp with failed := [], pcFailed := [], retired := [] }, ntl := { s.ntl with chFailed := [] } }
  let s := x.badTiles.foldl (fun s t =>
    match logicalOf s t, chooseSpare s t with
    | some l, some sp =>
      { s with ras := { s.ras with roles := insertK t .failed (insertK sp .inService s.ras.roles), l2p := insertK l sp s.ras.l2p } }
    | some l, none => { s with ras := { s.ras with roles := insertK t .failed s.ras.roles, l2p := eraseK l s.ras.l2p } }
    | none, _ => if roleOf s t = .spare then { s with ras := { s.ras with roles := insertK t .failed s.ras.roles } } else s) s
  let s := { s with wsp := { s.wsp with failed := x.badStacks } }
  setErr (repairChange s) Fld.RAS_ERR_MAP_REBUILT

/-- A page as the persistent map brings it back (R370). -/
def Page.restored (d : Page) : Page :=
  { d with tier := 0, dirty := false, dirtyCmd := false, moving := false, lost := false, stack1 := 31, stack2 := 31, frame1 := 0
           frame2 := 0, context := if d.ctxHeld then 0 else d.context, ctxHeld := false }

/-- The weight space rebuilt from the persistent map; PIN pages are fetched in ascending order (R370). -/
def rebuildWsp (s : State) : State :=
  let pages := s.ntl.map.map fun (e : Nat × Page) => (e.1, e.2.restored)
  let s := { s with wsp := { s.wsp with pages }, ntl := { s.ntl with map := pages } }
  (pages.filter fun e => e.2.pin).foldl (fun s e => queueMove s { kind := .restore, page := e.1 }) s

/-- A new journal starts (R280). -/
def startJournal (s : State) (kind : ResetKind) : State :=
  let last := s.cp.nand.lastEpoch
  let cause := if last = 0 then 1 else if kind = .module then 3 else 2
  let epoch := last + 1
  let s := { s with cp := { s.cp with nand := { s.cp.nand with lastEpoch := epoch }
                                      journal := { epoch, head := 1, pos := 0 } } }
  journal s { kind := 5, word0 := last, word1 := cause + s.cp.nand.flushEpoch * 2 ^ 32 }

/-- The cores have booted: both serve, but for one that failed its self-test (R288, R544). -/
def bootCores (s : State) : State :=
  let dead := s.pwr.deadCores
  let active := if dead.contains 0 then 1 else 0
  { s with cp := { s.cp with cores := { active, standby := dead.isEmpty, stopped := s.cp.cores.stopped, lastBeat := s.ticks } } }

/-- RESET_COMPLETE (R544): bring-up ends, or the cores have rebooted after a warm reset, and READY is 1. `test` is the self-test's
outcome where both copies of the repair store were unreadable (R504). -/
def execResetComplete (test : Option SelfTest) (s : State) : Out :=
  match s.pwr.reset with
  | none => .next s
  | some kind =>
    let s := bootCores s
    let s := match kind, test with
      | .warm, _ => s
      | _, none => readMap s
      | _, some x => rebuildMap s x
    let s := match kind with
      | .warm => s
      | _ =>
        let up := (upFrom 1 15).filter fun d => !s.pwr.badDomains.contains d
        let s := (up ++ (minRows s).map (16 + ·)).foldl switchOn s
        startJournal (placeRing (rebuildWsp s)) kind
    let s := setFld (setFld (setRaw s Reg.RST_STATUS 0 0 7) Fld.PWR_STATUS_STATE 1) Fld.CLK_STATUS_LOCKED 0x7F
    .next { s with pwr := { s.pwr with reset := none, deadCores := [] } }

/-- A step of bring-up fails for good: class 6 (R544). -/
def bringUpFails (s : State) (unit : Nat) : State :=
  let s := { s with pwr := { s.pwr with reset := none } }
  raiseErr (pwrInfo s 6 0 unit 0 0) Fld.PWR_ERR_DOMAIN_FAIL 0 .fatal { unit }

/-- BRINGUP_STEP_TIMEOUT (R544): a step of bring-up, of a reboot or of a later wake passes its timeout; `unit` is the domain, core or
stack of the step. A warm reset reboots the cores, and has no other step (R542). -/
def execBringupStepTimeout (step unit : Nat) (s : State) : Out :=
  let up := s.pwr.reset = some .module || s.pwr.reset = some .main
  let s := if up then readMap s else s
  let later := powerState s = 1 && step = 6 && 12 ≤ unit && unit ≤ 34 && !domainOn s unit && unit ≠ 14 && unit ≠ 15
  if !up && s.pwr.reset.isNone && powerState s ≠ 5 && !later then .next s
  else if s.pwr.reset = some .warm && step ≠ 3 then .next s
  else if step = 3 && unit < 2 then
    let s := { s with pwr := { s.pwr with deadCores := insertSorted unit (s.pwr.deadCores.filter (· ≠ unit)) } }
    if s.pwr.deadCores.length = 2 then
      .next (coreErr { s with pwr := { s.pwr with reset := none } } Fld.CP_ERR_STOPPED .fatal)
    else .next (coreErr s Fld.CP_ERR_STANDBY_LOST .degraded)
  else if step = 4 then .next (failStack s unit 2)
  else if step = 6 && 3 ≤ unit && unit ≤ 6 then
    let s := (portsOfDie (unit - 3)).foldl (fun s p => if portFused s p then s else failPort s p) s
    .next { s with pwr := { s.pwr with badDomains := insertSorted unit (s.pwr.badDomains.filter (· ≠ unit)) } }
  else if step = 6 && 16 ≤ unit && unit ≤ 34 then .next ((tilesOfRow (unit - 16)).foldl (fun s t => failTile s t 4) s)
  else if 1 ≤ step && step ≤ 6 then .next (bringUpFails s unit)
  else .next s

/-! ## Function level reset (R543, R567) -/

/-- The registers that a function has of its own return to their reset values, but for its error registers (R545). -/
def clearFunction (s : State) (f : Nat) : State :=
  let own := fun (k : Nat) => k / 2 ^ 26 = f && allRegs.any (fun r => r.perFn && ofReg r k) &&
    !(ofReg Reg.CP_ERR k || ofReg Reg.CP_ERR_INFO k)
  { s with regs := s.regs.filter fun e => !own e.1 }

/-- The effects of an FLR on one function. -/
def resetFunction (s : State) (f : Nat) : State :=
  let s := abandonAll s fun g => g = f
  let ids := (s.ctx.table.filter fun e => e.2.func = f).map Prod.fst
  let s := ids.foldl (fun s id =>
    let open_ : Table Stream := match s.context id with
      | some c => c.streams.filter fun x => x.2.state ≠ .closed
      | none => []
    destroyContext (open_.foldl (fun s x => closeStream s id x.1) s) id) s
  let s := (s.hop.pools.filter fun e => e.1 / 1024 = f).foldl (fun s e => destroyPool s e.1) s
  let s := clearFunction s f
  let sqs := s.cp.sqs.filter fun e => e.1 / 1024 ≠ f
  let cqs := s.cp.cqs.filter fun e => e.1 / 1024 ≠ f
  { s with cp := { s.cp with sqs, cqs, orphans := s.cp.orphans.filter fun o => o.func ≠ f }
           hif := { s.hif with d3hot := s.hif.d3hot.filter (· ≠ f) } }

/-- Every virtual function is reset and VF Enable is 0. -/
def dropVfs (s : State) : State :=
  let s := (upFrom 1 s.hif.numVfs).foldl resetFunction s
  { s with hif := { s.hif with vfEnable := false, numVfs := 0 } }

/-- Configuration requests are served: until READY they complete with Request Retry Status (R561, R574). -/
def configServed (s : State) (f : State → State) : State :=
  if flag s Fld.RST_STATUS_READY then f s else count s bankHif 5

/-- FLR (R543, R559, R567): of the physical function, it resets every virtual function and the HIF_ registers as well. -/
def execFlr (func : Nat) (s : State) : Out :=
  if 32 < func then .next s
  else .next <| configServed s fun s =>
    let s := endTestMode (resetFunction s func)
    if func ≠ 0 then settleWork s
    else
      let s := dropVfs s
      let keep := fun (e : Nat × Word) => blockOf (keyOffset e.1) ≠ blockOf Reg.HIF_CTL.base || ofReg Reg.HIF_LINK e.1
      settleWork (irqUpdate (setFld { s with regs := s.regs.filter keep } Fld.HIF_LINK_EID 0))

end Sys2Proof.Machine
end

