-- ==== Sys2Proof/Machine/Reliability.lean ====
section
/-!
DEFINITION. The reliability unit's events (R503–R513): failures of tiles, retirement and reinstatement, spare tests and the repair
store.
-/
namespace Sys2Proof.Machine

/-- A tile that can still fail. -/
def failing (s : State) (t : Nat) : Bool := roleOf s t = .inService || roleOf s t = .spare

/-- ENGINE_HANG (R505): a busy engine makes no progress. -/
def execEngineHang (tile : Nat) (s : State) : Out :=
  if failing s tile && !(s.tile tile).idle then .next (failTile s tile 3) else .next s

/-- WAKE_FAIL (R505): a tile clock or a row wake is not done in time. -/
def execWakeFail (tile : Nat) (s : State) : Out :=
  if failing s tile && !(s.tile tile).clkOn then .next (failTile s tile 4) else .next s

/-- BOND_LINK_FAIL (R505). -/
def execBondLinkFail (tile : Nat) (s : State) : Out :=
  if failing s tile then .next (failTile s tile 5) else .next s

/-- A write of RAS_TILE_RETIRE; in a virtual function's view it is ignored. -/
def retire (s : State) (func logical : Nat) : State :=
  if func ≠ 0 then s
  else match physOf s logical with
    | some t => failTile s t 7
    | none => s

/-- RETIRE (R512). -/
def execRetire (func logical : Nat) (s : State) : Out := .next (retire s func logical)

/-- SPARE_SELF_TEST (R513): an idle spare has run its test. -/
def execSpareSelfTest (tile : Nat) (passed : Bool) (s : State) : Out :=
  if !flag s Fld.RAS_CTL_SPARE_TEST_EN || roleOf s tile ≠ .spare then .next s
  else
    let s := count s bankRas 7
    if passed then .next s
    else
      let jseq := nextSeq s
      let s := failTile (count s bankRas 8) tile 6
      let info := rasInfo tile 0xFF 0xFF 6 2
      .next (raiseErr (setRaw s Reg.RAS_ERR_INFO 0 0 info) Fld.RAS_ERR_SPARE_FAILED 0 .recovered { unit := tile, jrnSeq := jseq, arg := info })

/-- Logical tiles without a physical tile, rising (R511). -/
def lostLogicals (s : State) : List Nat := (upFrom 0 (enabledTiles s)).filter fun l => (physOf s l).isNone

/-- A spare takes a lost logical number with its images (R506, R512). -/
def adopt (s : State) (l t : Nat) : State :=
  let s := setRole { s with ras := { s.ras with l2p := insertK l t s.ras.l2p } } t .inService
  let s := match lookup l s.ras.lostImages with
    | some (b0, b1, a) => s.modTile t fun x => { x with bank0 := b0, bank1 := b1, active := a }
    | none => s
  settleWork (count { s with ras := { s.ras with lostImages := eraseK l s.ras.lostImages } } bankRas 1)

/-- A failed tile that has passed TILE_TEST is a spare again, and serves a lost logical number at once. -/
def reinstate (s : State) (func phys : Nat) : State :=
  if func ≠ 0 then s
  else if roleOf s phys = .failed && s.ras.testPassed.contains phys then
    let s := setRole s phys .spare
    match lostLogicals s with
    | l :: _ => adopt s l phys
    | [] => s
  else
    setErr (setRaw s Reg.RAS_ERR_INFO 0 0 (rasInfo phys 0xFF 0xFF 0 6)) Fld.RAS_ERR_REINSTATE_REFUSED

/-- REINSTATE (R512). -/
def execReinstate (func phys : Nat) (s : State) : Out := .next (reinstate s func phys)

/-- The repair map as lists of numbers (R503). -/
def mapLists (s : State) : List (List Nat) :=
  let code := fun (r : TileRole) => match r with | .inService => 0 | .spare => 1 | .failed => 2 | .dark => 3
  [s.ras.roles.map fun e => code e.2, s.ras.l2p.map Prod.fst, s.ras.l2p.map Prod.snd, s.wsp.failed, s.wsp.pcFailed,
   s.wsp.retired, s.ntl.chFailed]

/-- REPAIR_STORE_WRITE (R504): the map's changes reach both copies, or every retry of a copy failed. -/
def execRepairStoreWrite (ok : Bool) (s : State) : Out :=
  if s.ras.storePending = 0 then .next s
  else if ok then
    .next { s with ras := { s.ras with storePending := 0, storeBad := false, mapWritten := mapLists s } }
  else
    .next (raiseErr { s with ras := { s.ras with storeBad := true } } Fld.RAS_ERR_STORE_FAIL 0 .degraded)

end Sys2Proof.Machine
end

