-- ==== Sys2Proof/Machine/Mctp.lean ====
section
/-!
DEFINITION. The MCTP endpoint and the SPDM responder (R514–R517, R568).
-/
namespace Sys2Proof.Machine

/-! ## The endpoint (R568) -/

/-- The endpoint ID of a binding: 0 the chain's, 1 PCIe's. -/
def mctpEid (s : State) (binding : Nat) : Nat := if binding = 0 then fld s Fld.MGT_CHAIN_EID else fld s Fld.HIF_LINK_EID
def setMctpEid (s : State) (binding eid : Nat) : State :=
  if binding = 0 then setFld s Fld.MGT_CHAIN_EID eid else setFld s Fld.HIF_LINK_EID eid

/-- A message of the endpoint goes out. -/
def mctpSend (s : State) (m : MctpOut) : State := { s with mgt := { s.mgt with mctpOut := s.mgt.mctpOut ++ [m] } }

/-- A message is discarded (R574). -/
def mctpDiscard (s : State) : State := count s bankMgt 7

/-- A control message's answer. -/
def control (s : State) (binding eid command : Nat) (data : List Byte) (code : Nat := 0) : State :=
  mctpSend s (.control binding eid { command, code, data })

/-- An answer goes to a requester. -/
def spdmSend (s : State) (binding eid : Nat) (m : SpdmMsg) : State :=
  count (mctpSend s (.spdm binding eid m)) bankRas 11

/-- An ERROR goes to a requester. -/
def spdmError (s : State) (binding eid : Nat) : State := spdmSend s binding eid (.error none)

/-- Codes of the requests that the responder serves (R516; the codes are DMTF DSP0274's). -/
def spdmServed : List Nat := [0x81, 0x82, 0x83, 0x84, 0x86, 0xE0, 0xE1, 0xE3]

/-- A message is whole (R568): types other than control and SPDM are discarded and counted, and so is a control message that is no
request. A control command that the endpoint lacks is answered with completion code 0x05, an SPDM request that the responder lacks with
an ERROR (R516); any other goes to its own row. Beside the state, has it an answer? The places of a control message's Rq bit and
command, and of an SPDM request's code, are DSP0236's and DSP0275's (PRESUMED). -/
def mctpWhole (s : State) (binding src : Nat) (bytes : List Byte) : Bool × State :=
  let at_ := fun (i : Nat) => fieldOf bytes i 0 8
  if bytes.isEmpty then (false, mctpDiscard s)
  else if at_ 0 % 128 = 0 then
    if at_ 1 < 128 then (false, mctpDiscard s)
    else if 1 ≤ at_ 2 && at_ 2 ≤ 5 then (true, s)
    else (true, control s binding src (at_ 2) [] 5)
  else if at_ 0 % 128 = 5 then (if spdmServed.contains (at_ 2) then (true, s) else (true, spdmError s binding src))
  else (false, mctpDiscard s)

/-- A packet of a binding arrives: it begins, continues or ends one of up to 8 messages of up to 4,096 bytes. Beside the state,
has it completed a message that calls for an answer? -/
def mctpPacket (s : State) (binding : Nat) (p : McPkt) : Bool × State :=
  let s := count s bankMgt 6
  let mine := p.dest = 0 || p.dest = 0xFF || p.dest = mctpEid s binding
  let same := fun (x : McPart) => x.binding = binding && x.src = p.src && x.owner = p.owner && x.tag = p.tag
  let old := s.mgt.parts.find? same
  let rest := s.mgt.parts.filter fun x => !same x
  let put := fun (ps : List McPart) => { s with mgt := { s.mgt with parts := ps } }
  if !mine || 64 < p.body.length then (false, mctpDiscard s)
  else if p.som then
    let s := if old.isSome then mctpDiscard (put rest) else s
    if p.eom then mctpWhole s binding p.src p.body
    else if 8 ≤ rest.length then (false, mctpDiscard s)
    else
      let x : McPart := { binding, src := p.src, owner := p.owner, tag := p.tag, next := (p.seq + 1) % 4, bytes := p.body }
      (false, { s with mgt := { s.mgt with parts := rest ++ [x] } })
  else match old with
    | none => (false, mctpDiscard s)
    | some x =>
      let bytes := x.bytes ++ p.body
      if x.next ≠ p.seq % 4 || 4096 < bytes.length then (false, mctpDiscard (put rest))
      else if p.eom then mctpWhole (put rest) binding p.src bytes
      else (false, put (rest ++ [{ x with next := (x.next + 1) % 4, bytes }]))

/-- MCTP_OVER_PCIE_VDM (R568): on the physical function only. -/
def execMctpOverPcieVdm (func : Nat) (packet : McPkt) (s : State) : Out :=
  if func = 0 then .next (mctpPacket s 1 packet).2 else .next s

/-- SET_ENDPOINT_ID (R568): the binding's bus owner assigns its endpoint ID. -/
def execSetEndpointId (binding src eid : Nat) (s : State) : Out :=
  if 1 < binding then .next s
  else if eid = 0 || 255 ≤ eid then .next (control s binding src 1 [] 2)
  else .next (control (setMctpEid s binding eid) binding src 1 (leBytes 1 0 ++ leBytes 1 eid ++ leBytes 1 0))

/-- GET_ENDPOINT_ID (R568). -/
def execGetEndpointId (binding src : Nat) (s : State) : Out :=
  if 1 < binding then .next s else .next (control s binding src 2 (leBytes 1 (mctpEid s binding) ++ leBytes 2 0))

/-- GET_ENDPOINT_UUID (R568). -/
def execGetEndpointUuid (binding src : Nat) (s : State) : Out :=
  if 1 < binding then .next s else .next (control s binding src 3 (leBytes 16 Config.endpointUuid))

/-- GET_MCTP_VERSION_SUPPORT (R568): version 1.3 of DSP0236. -/
def execGetMctpVersionSupport (binding src : Nat) (s : State) : Out :=
  if 1 < binding then .next s else .next (control s binding src 4 ([1, 0xF1, 0xF3, 0xFF, 0]))

/-- GET_MESSAGE_TYPE_SUPPORT (R568): SPDM, beside control. -/
def execGetMessageTypeSupport (binding src : Nat) (s : State) : Out :=
  if 1 < binding then .next s else .next (control s binding src 5 ([1, 5]))

/-! ## The responder (R516, R517) -/

/-- The connection of a requester. -/
def spdmConn (s : State) (binding eid : Nat) : Option SpdmConn :=
  s.ras.spdm.find? fun c => c.binding = binding && c.eid = eid

/-- The connections with one of a requester's put in place of its old one. -/
def setConn (s : State) (c : SpdmConn) : State :=
  let rest := s.ras.spdm.filter fun x => !(x.binding = c.binding && x.eid = c.eid)
  let c := { c with lastUsed := s.ras.spdmClock }
  { s with ras := { s.ras with spdm := rest ++ [c], spdmClock := s.ras.spdmClock + 1 } }

/-- An answer of a connection: one larger than its transfer size is read with CHUNK_GET. -/
def spdmAnswer (s : State) (c : SpdmConn) (m : SpdmMsg) : State :=
  let bytes := Config.spdmBytes m
  if bytes.length ≤ c.transfer then spdmSend (setConn s { c with chunk := none }) c.binding c.eid m
  else
    let handle := s.ras.spdmClock % 256
    spdmSend (setConn s { c with chunk := some (handle, 0, bytes) }) c.binding c.eid (.error (some handle))

/-- A request at an open connection whose version is settled and, where `algs`, whose algorithms are. -/
def spdmRequest (s : State) (binding eid version : Nat) (algs : Bool) (ok : Bool) (f : SpdmConn → State) : Out :=
  match spdmConn s binding eid with
  | some c => if c.caps && c.version = version && (c.algs || !algs) && ok then .next (f c) else .next (spdmError s binding eid)
  | none => .next (spdmError s binding eid)

/-- GET_VERSION (R516): a connection begins; a fifth requester's ends the one idle longest. -/
def execGetVersion (binding src : Nat) (s : State) : Out :=
  let others := s.ras.spdm.filter fun x => !(x.binding = binding && x.eid = src)
  let idle := bestBy (fun (a b : SpdmConn) => a.lastUsed < b.lastUsed) others
  let kept := if others.length < 4 then others else match idle with
    | some c => others.erase c
    | none => others
  let s := setConn { s with ras := { s.ras with spdm := kept } } { eid := src, binding }
  .next (spdmSend s binding src (.version [12, 13]))

/-- GET_CAPABILITIES (R516): it settles the version, 1.2 or 1.3. -/
def execGetCapabilities (binding src version transfer : Nat) (s : State) : Out :=
  match spdmConn s binding src with
  | some c =>
    if version = 12 || version = 13 then
      let c := { c with version, caps := true, algs := false, transfer }
      .next (spdmSend (setConn s c) binding src (.capabilities version true true 2 true 17))
    else .next (spdmError s binding src)
  | none => .next (spdmError s binding src)

/-- NEGOTIATE_ALGORITHMS (R516): `common` says whether the requester offers the algorithms of the table. -/
def execNegotiateAlgorithms (binding src version : Nat) (common : Bool) (s : State) : Out :=
  spdmRequest s binding src version false common fun c => spdmAnswer s { c with algs := true } (.algorithms version)

/-- The digest of the certificate chain of slot 0. -/
def chainDigest : Nat := Config.sha384 0 [Config.certChain.map BitVec.toNat]

/-- GET_DIGESTS (R516). -/
def execGetDigests (binding src version : Nat) (s : State) : Out :=
  spdmRequest s binding src version true true fun c => spdmAnswer s c (.digests [0] [chainDigest])

/-- GET_CERTIFICATE (R514, R516): a portion of slot 0's chain. -/
def execGetCertificate (binding src version slot offset length : Nat) (s : State) : Out :=
  spdmRequest s binding src version true (slot = 0 && offset < Config.certChain.length) fun c =>
    let rest := Config.certChain.drop offset
    spdmAnswer s c (.certificate 0 (rest.take length) (rest.length - length))

/-- A nonce of the responder: 256 bits that nothing fixes. -/
def freshNonce (d : Nat) : Nat := ((upFrom 0 4).map fun i => (Config.freeWord d i).toNat * 2 ^ (64 * i)).foldl (· + ·) 0

/-- CHALLENGE (R516): a signed answer. -/
def execChallenge (binding src version slot : Nat) (s : State) : Out :=
  spdmRequest s binding src version true (slot = 0) fun c =>
    let (d, s) := drawFree s
    spdmAnswer s c (.challengeAuth 0 chainDigest (freshNonce d) (Config.signature d))

/-- The 10 version bytes of R517 index 6: command protocol, RIC, XL, management chain, flask; major then minor. -/
def versionBytes : List Byte := [1, 3, 1, 3, 2, 1, 1, 3, 1, 3]

/-- The measurement of an index (R517). -/
def measurement (s : State) (i : Nat) : List Byte :=
  if i ≤ 3 then leBytes 48 (Config.firmwareDigest i)
  else if i = 4 then leBytes 48 (Config.sha384 4 [[s.fuses.grade], s.fuses.dark, s.fuses.spares])
  else if i = 5 then leBytes 48 (Config.sha384 5 s.ras.mapWritten)
  else versionBytes

/-- GET_MEASUREMENTS (R517): index 0 asks for the count, 0xFF for all. -/
def execGetMeasurements (binding src version index : Nat) (signed : Bool) (s : State) : Out :=
  spdmRequest s binding src version true (index ≤ 6 || index = 0xFF) fun c =>
    let (d, s) := drawFree s
    let is := if index = 0 then [] else if index = 0xFF then upFrom 1 6 else [index]
    spdmAnswer s c (.measurements 6 (is.map fun i => (i, measurement s i))
      (if signed then some (freshNonce d, Config.signature d) else none))

/-- CHUNK_GET (R516): the next chunk of the large response. -/
def execChunkGet (binding src version handle seq : Nat) (s : State) : Out :=
  match spdmConn s binding src with
  | some c =>
    match c.chunk with
    | some (h, next, left) =>
      if c.version = version && h = handle && next = seq then
        let rest := left.drop (max 1 c.transfer)
        let s := setConn s { c with chunk := if rest.isEmpty then none else some (h, next + 1, rest) }
        .next (spdmSend s binding src (.chunk h seq rest.isEmpty (left.take (max 1 c.transfer))))
      else .next (spdmError s binding src)
    | none => .next (spdmError s binding src)
  | none => .next (spdmError s binding src)

end Sys2Proof.Machine
end

