-- ==== Sys2Proof/Machine/RecorderRows.lean ====
section
/-!
DEFINITION. The recorder's own rows: starting and ending a recording or a replay, marks, loading the ring, and feeding
recorded commands (R488–R495).
-/
namespace Sys2Proof.Machine

/-- Is any function's SQ reading on (R492)? -/
def anyFetch (s : State) : Bool := (upFrom 0 33).any fun f => flag s Fld.CP_CTL_FETCH 0 f

/-- The ring is empty; the next record carries SEQ 0 (R488). -/
def emptyRing (s : State) : State := { s with det := { s.det with ring := [], head := 0 } }

/-- The START record (R490). -/
def startRecord (s : State) : State :=
  recAppend s { kind := 1, body := recAt 32 4 s.cp.journal.epoch + recAt 40 8 (nextSeq s) + recAt 48 8 (raw s Reg.DET_CTL) }

/-- What a change of DET_REC_CTL.MODE to `m` does (R492, R494, R495): a replay starts only while no function's SQs are read. -/
def setRecMode (s : State) (m : Nat) : State :=
  let old := fld s Fld.DET_REC_CTL_MODE
  if m = old || 3 ≤ m then s
  else if m = 0 then
    let s := setFld s Fld.DET_REC_CTL_MODE 0
    { s with det := { s.det with state := 0 } }
  else if m = 1 then
    let s := setFld s Fld.DET_REC_CTL_MODE 1
    if old = 0 then
      let s := emptyRing s
      startRecord { s with det := { s.det with state := 1 } }
    else { s with det := { s.det with state := 1 } }
  else if anyFetch s then setErr s Fld.DET_ERR_REPLAY_REFUSED
  else
    let s := setFld s Fld.DET_REC_CTL_MODE 2
    replayDone { s with det := { s.det with
      state := 2, matched := [], fed := [], latched := false, divergences := 0, leftoverDone := false
      feedAt := (s.det.ring.head?.map RecEntry.seq).getD s.det.head } }

/-- DET_RECORD_START (R490, R495): MODE goes from OFF to RECORD. -/
def execDetRecordStart (s : State) : Out := .next (if fld s Fld.DET_REC_CTL_MODE = 0 then setRecMode s 1 else s)

/-- DET_REPLAY_START (R492): MODE becomes REPLAY. -/
def execDetReplayStart (s : State) : Out := .next (setRecMode s 2)

/-- DET_REC_OFF (R495): MODE becomes OFF. -/
def execDetRecOff (s : State) : Out := .next (setRecMode s 0)

/-- A write of DET_REC_CTL.CLEAR: the ring is emptied while MODE is OFF (R495). -/
def clearRing (s : State) : State := if fld s Fld.DET_REC_CTL_MODE = 0 then emptyRing s else s

/-- DET_REC_CLEAR (R495). -/
def execDetRecClear (s : State) : Out := .next (clearRing s)

/-- A write of DET_REC_MARK: a MARK record while RECORDING (R490, R495). -/
def markRecord (s : State) (value : Nat) : State :=
  if recording s then recAppend s { kind := 8, body := recAt 32 8 value } else s

/-- MARK (R490). -/
def execMark (value : Nat) (s : State) : Out := .next (markRecord s value)

/-- The record that 128 staged bytes spell (R489). -/
def stagedRecord (v : Nat) : RecEntry :=
  let b := fun (off lo len : Nat) => bitsOf v (8 * off + lo) len
  { kind := b 8 0 4, layer := b 10 0 10, stream := b 10 10 6, ctx := b 12 0 18, msc := b 16 0 64, time := b 24 0 64
    body := b 32 0 768 }

/-- A write of DET_REC_DATA_n (R495): while MODE is OFF it stages 8 bytes, and that of DATA_15 appends the staged record. -/
def stageRecord (s : State) (index value : Nat) : State :=
  if fld s Fld.DET_REC_CTL_MODE ≠ 0 || 16 ≤ index then s
  else
    let s := { s with det := { s.det with staged := putBits s.det.staged (64 * index) 64 value } }
    if index ≠ 15 then s
    else
      let d := s.det
      let full := d.ring.length ≥ recSlots s
      if full && !flag s Fld.DET_REC_CTL_WRAP then setErr s Fld.DET_ERR_FULL
      else
        let e := { stagedRecord d.staged with seq := d.head }
        let s := { s with det := { d with ring := (if full then d.ring.drop 1 else d.ring) ++ [e], head := d.head + 1 } }
        count (count s bankDet 0) bankDet 1 (b2n full)

/-- DET_REC_APPEND (R495). -/
def execDetRecAppend (index value : Nat) (s : State) : Out := .next (stageRecord s index value)

/-- The next CMD record to feed (R492). -/
def nextFed (s : State) : Option RecEntry := s.det.ring.find? fun e => e.kind = 2 && s.det.feedAt ≤ e.seq

/-- Feeding goes on: MODE is REPLAY, the replay has not ended, and a divergence has not stopped it (R493). -/
def feeding (s : State) : Bool :=
  s.det.state == 2 || (s.det.state == 3 && !flag s Fld.DET_REC_CTL_STOP)

/-- The fed record is taken, under the sequence number that its command's first entry will carry. -/
def markFed (s : State) (e : RecEntry) : State :=
  count { s with det := { s.det with feedAt := e.seq + 1, fed := insertK (nextSeq s) e.seq s.det.fed } } bankDet 2

/-- REPLAY_FEED (R492): the next CMD record passes the packet checks as if read from its SQ, and is accepted or refused. It waits
while its CQ can reserve no entry. The SQ index of its entries is a free value: it was read from no SQ. -/
def execReplayFeed (s : State) : Out :=
  match nextFed s with
  | none => .next s
  | some e =>
    let p : Packet := BitVec.ofNat 512 (e.body % 2 ^ 512)
    let q := bitsOf (recGet e.body 108 2) 0 10
    let f := bitsOf (recGet e.body 108 2) 10 6
    if !feeding s || jrnStalled s || s.cp.cores.stopped then .next s
    else match s.sq f q with
      | none => .next s
      | some x =>
        let (d, t) := drawFree s
        let slot := (Config.freeWord d 0).toNat % 2 ^ 16
        match checkPacket s f q p with
        | some why => .next ((refusePacket (markFed t e) f q slot x.cq p why false).getD s)
        | none => .next ((admitPacket (markFed t e) f q slot x.cq p).getD s)

end Sys2Proof.Machine
end

