-- ==== Sys2Proof/Machine/Live.lean ====
section
/-!
DEFINITION. Registers whose value follows the state and is not stored (the register tables of each chapter): what a read of
each returns.
-/
namespace Sys2Proof.Machine

/-- A list of (place, value) as one register value. -/
def bitsFrom (l : List (Nat × Nat)) : Nat := (l.map fun e => e.2 * 2 ^ e.1).foldl (· + ·) 0

/-- Bits `n` of the numbers in a list. -/
def maskOf (l : List Nat) : Nat := (l.map fun n => 2 ^ n).foldl (· + ·) 0

/-! ## CP_ and JRN_ (R289, R290) -/

def cpStatus (s : State) (f : Nat) : Nat :=
  let open_ := if f = 0 then s.cp.cmds.length else (s.cp.cmds.filter fun e => e.2.func = f).length
  bitsFrom [(0, b2n (fetching s f)), (1, s.cp.cores.active), (2, b2n s.cp.cores.standby), (3, b2n (isDegraded s)), (16, satBits 16 open_)]

/-! ## CTX_ (R355) -/

/-- The code of a stream state (R326). -/
def StreamState.code : StreamState → Nat
  | .closed => 0 | .open => 1 | .waiting => 2 | .running => 3 | .blocked => 4 | .pinned => 5 | .lingering => 6 | .evicted => 7

/-- Streams in a state. -/
def streamsIn (s : State) (k : StreamState) : Nat :=
  (s.ctx.table.map fun e => (e.2.streams.filter fun x => x.2.state = k).length).foldl (· + ·) 0

def ctxStatus (s : State) : Nat :=
  bitsFrom [(0, s.ctx.slots.length), (8, streamsIn s .running), (16, streamsIn s .blocked), (24, streamsIn s .pinned),
    (32, ((upFrom 0 4).map fun c => b2n (hasK (60 + c) s.ctx.slots) * 2 ^ c).foldl (· + ·) 0), (40, satBits 16 (streamsIn s .waiting))]

def ctxSlot (s : State) (i : Nat) : Nat :=
  let fixed := if 60 ≤ i then 2 + (i - 60) * 4 else 0
  match lookup i s.ctx.slots with
  | none => fixed
  | some id => fixed + bitsFrom [(0, 1), (4, (s.stream (id / 64) (id % 64)).state.code), (8, id / 64), (26, id % 64)]

/-- The context that CTX_QUERY names in function `f`'s view. -/
def queriedCtx (s : State) (f : Nat) : Option Ctx :=
  match lookup (fld s Fld.CTX_QUERY_CONTEXT 0 f) s.ctx.table with
  | some c => if f = 0 || c.func = f then some c else none
  | none => none

def queryCtx (s : State) (f : Nat) : Nat :=
  match queriedCtx s f with
  | none => 0
  | some c =>
    let id := fld s Fld.CTX_QUERY_CONTEXT 0 f
    let open_ := (s.cp.cmds.filter fun e => headerOf e.2 != .none && pContext e.2.pkt = id).length
    bitsFrom [(0, 1), (1, if c.faulted then 2 else 1), (3, c.cls), (5, c.func), (11, b2n c.cached),
      (12, (c.streams.filter fun x => x.2.slot.isSome).length), (32, satBits 16 open_)]

/-- The stream that CTX_QUERY names; one that has no record is CLOSED. -/
def queriedStream (s : State) (f : Nat) : Stream :=
  match queriedCtx s f with
  | none => {}
  | some c => lookupD {} (fld s Fld.CTX_QUERY_STREAM 0 f) c.streams

def queryStream (s : State) (f : Nat) : Nat :=
  let x := queriedStream s f
  bitsFrom [(0, x.state.code), (3, b2n x.swapIn), (4, x.cls), (6, x.slot.getD 127), (16, x.gen), (32, x.group)]

/-! ## HOP_ (R357) -/

/-- The pool that HOP_QUERY names in function `f`'s view: pool 0 belongs to no function. -/
def queriedPool (s : State) (f : Nat) : Option Pool :=
  let n := fld s Fld.HOP_QUERY_POOL 0 f
  if n = 0 then (if f = 0 then some (pool0Of s (fld s Fld.HOP_QUERY_DIE 0 f)) else none)
  else s.pool (poolKey (if f = 0 then fld s Fld.HOP_QUERY_FUNC 0 f else f) n)

/-- The function of the pool that HOP_QUERY names. -/
def queriedOwner (s : State) (f : Nat) : Nat := if f = 0 then fld s Fld.HOP_QUERY_FUNC 0 f else f

/-- A weight-space address as an offset in a function's BAR2 (R347, R565). -/
def bar2Offset (s : State) (f a : Nat) : Nat := if f = 0 then a else a - fld s Fld.HIF_FN_WSP_PAGE_BASE f * pageBytes

/-- The six query registers of HOP_, by their place after HOP_QUERY. -/
def hopQuery (s : State) (f which : Nat) : Nat :=
  match queriedPool s f with
  | none => 0
  | some p =>
    let zero := fld s Fld.HOP_QUERY_POOL 0 f = 0
    let o := queriedOwner s f
    let base := p.firstPage * pageBytes
    if which = 0 then bitsFrom [(0, 1), (1, b2n p.ring), (2, b2n p.ringForced), (3, p.die), (16, p.bufBytes / 4096), (32, p.count)]
    else if which = 1 then bitsFrom [(0, p.freeCount), (32, satBits 21 p.unmet)]
    else if which = 3 then bitsFrom [(0, if p.ring then p.head else 0), (32, p.lost.length)]
    else if zero then 0
    else if which = 2 then
      let q := p.quotaOf (fld s Fld.HOP_QUERY_CONTEXT 0 f)
      bitsFrom [(0, q.held), (32, satBits 21 q.min)]
    else if which = 4 then bar2Offset s o base
    else bar2Offset s o (base + ceilDiv (p.bufBytes * p.count) pageBytes * pageBytes)

/-! ## RTE_, RUN_ (R106, R151) -/

/-- RTE_STATUS (R106). Stage 3 lasts no longer than the row that sends the counts: the stream is parked with it. -/
def rteStatus (s : State) (n : Nat) : Nat :=
  let halt := flag s Fld.RTE_CTL_HALT n
  let uses := fun (x : LStep) => engineUsed x.n n
  let now := routedNow s
  let parked := min 63 (s.xch.parked.filter fun q => some q ≠ now && (s.step q).any uses).length
  match (now.bind fun q => s.step q).filter uses with
  | none => bitsFrom [(4, b2n halt), (5, parked)]
  | some x =>
    let stage := if x.stage = .scoring then 2 else if x.stage = .building then 4 else if x.stage = .counting || x.stage = .choosing then 3 else 0
    bitsFrom [(0, 1), (1, stage), (5, parked), (11, x.stream), (17, x.layer), (27, b2n x.ec), (32, x.ctx)]

/-- Slice `n` has work open: a collective, a layer step with tokens in its quarter, or an expert that it serves (R29, R108). -/
def sliceBusy (s : State) (n : Nat) : Bool :=
  !s.xch.colls.isEmpty || s.xch.steps.any fun e => e.2.stage ≠ .local && e.2.stage ≠ .done &&
    (engineUsed e.2.n n || e.2.owned.any fun o => ownerSlice s o.tile = n && !(o.worked && o.repaid (groupOf s e.2.group).rank))

/-- A layer step that the Runner and the routing engines have begun and not ended. -/
def LStep.begun (x : LStep) : Bool := x.stage ≠ .queued && x.stage ≠ .local && x.stage ≠ .done

/-- RUN_STATUS (R151): HALT has taken effect once no operation that had begun is left. -/
def runStatus (s : State) : Nat :=
  let n := (s.cp.cmds.filter fun e => (openOn s e).isSome).length
  let busy := !s.xch.colls.isEmpty || s.xch.steps.any fun e => e.2.begun
  bitsFrom [(0, ((upFrom 0 4).map fun k => b2n (sliceBusy s k) * 2 ^ k).foldl (· + ·) 0), (4, b2n (flag s Fld.RUN_CTL_HALT && !busy)), (8, s.xch.groups.length), (32, satBits 8 n)]

/-! ## TIL_ (R153, R224–R249) -/

/-- TIL_ID (R18, R19, R503). -/
def tilId (s : State) (t : Nat) : Nat :=
  let role := roleOf s t
  if role = .dark then 0
  else
    let st := match role with | .inService => 0 | .spare => 1 | _ => 2
    bitsFrom [(0, t), (8, t / 8), (13, t % 8), (16, homeDie t), (20, (logicalOf s t).getD 0xFF), (28, st)]

/-- The work that TIL_STATUS names: the kernel's item, or that of a running command. -/
def currentItem (x : Tile) : Option Item :=
  match x.kernel with
  | some k => some k.item
  | none => x.flight.head?.map fun f => f.cmd.item

/-- The pass that the array runs: the one started last. -/
def currentPass (x : Tile) : Option EngCmd := ((x.flight.filter fun f => f.cmd.engine = 0).getLast?).map fun f => f.cmd

/-- The shape of an array command's passes: make-up batches run in SHAPE 2 (R201). -/
def passShape (c : EngCmd) : ShapeW := if c.op = 1 then { shape := 2 } else c.shape.getD {}

def tilStatus (s : State) (t : Nat) : Nat :=
  let x := s.tile t
  let pass := currentPass x
  let sh := (pass.map passShape).getD {}
  let i := (currentItem x).getD {}
  bitsFrom [(0, b2n x.rowOn), (1, b2n x.clkOn), (2, b2n (tileHalted s t)),
    (3, b2n x.kernel.isSome), (4, b2n pass.isSome), (5, b2n pass.isSome), (6, b2n (x.busy 1)), (7, if pass.isSome then 1 - x.accFile else 0),
    (8, if pass.isSome then sh.shape else 0), (10, if pass.isSome then sh.seg else 0), (12, b2n (pass.isSome && sh.col)), (13, b2n (pass.isSome && x.noSteal)), (16, i.stream), (32, i.ctx)]

/-- TIL_STK_STALL: cycle counts that the model leaves open once the Stoker has stalled or stopped since they were read (R249). -/
def stkStall (x : Tile) : Nat :=
  let half := fun (d : Option Nat) => match d with | some d => (Config.freeWord d 0).toNat % 2 ^ 32 | none => 0
  half x.stallFull + half x.stallEvent * 2 ^ 32

/-- Native byte offset of a CODE word: a skipping binding has one word inserted before its activation and one before its
down-projection (R220, R222). -/
def nativeOffset (p : Program) (i : Nat) : Nat :=
  let skips := p.bindings.filter fun b => b.skipDesc ≠ 0
  8 * (i + (skips.filter fun b => b.actInsn ≤ i).length + (skips.filter fun b => b.downInsn ≤ i).length)

def stkStatus (x : Tile) : Nat :=
  match x.kernel, x.program with
  | some k, some p =>
    let q := match k.stall with | .queueFull => 1 | .event _ => 2 | .fence => 2 | .ldw _ _ => 4 | .none => 0
    bitsFrom [(0, nativeOffset p k.pc % 2 ^ 15), (16, k.item.entry), (22, 1), (23, q), (26, k.loops.length), (32, x.items.length)]
  | _, _ => bitsFrom [(32, x.items.length)]

def ibank (x : Tile) : Nat :=
  bitsFrom [(0, x.bank0.image), (16, x.bank1.image), (32, x.active), (33, b2n (x.bank x.idleBank).staged), (34, b2n (x.loadLocks != []))]

def stkQueue (x : Tile) : Nat := bitsFrom [(0, x.q0.length), (8, x.q1.length), (16, x.q2.length), (24, x.q3.length)]

def stkEvents (x : Tile) (hi : Nat) : Nat := bitsFrom ((upFrom 0 8).map fun k => (8 * k, x.event (k + 8 * hi)))

/-- SKP_STATUS (R211): units that evaluate a projection, and those in speculative mode. -/
def skpStatus (s : State) : Nat :=
  let busy := s.tiles.filter fun (e : Nat × Tile) => e.2.busy 3
  let spec := busy.filter fun (e : Nat × Tile) =>
    e.2.flight.any fun f => f.cmd.engine = 3 && f.cmd.mode e.2 = 2
  bitsFrom [(0, busy.length), (8, spec.length)]

/-! ## WSP_, NTL_ (R364, R399, R402) -/

/-- A page descriptor as its four words (R364). -/
def descWord (p : Nat) (d : Page) (n : Nat) : Nat :=
  if n = 0 then
    bitsFrom [(0, p), (32, d.tier), (34, b2n d.replicated), (35, b2n d.pin), (36, b2n d.dirty), (37, b2n d.lost), (38, b2n d.moving),
      (39, b2n d.module), (40, d.stack1), (48, d.stack2), (56, d.pref)]
  else if n = 1 then bitsFrom [(0, d.frame1), (16, d.frame2), (32, if d.tier = 1 then 0 else d.slot)]
  else if n = 2 then bitsFrom [(0, d.model), (16, d.tag), (32, d.expert), (52, d.layer)]
  else bitsFrom [(0, d.context), (18, b2n d.ctxHeld)]

/-- The descriptor of a page of the journal ring: held, in DRAM, on its frame (R361, R362). -/
def ringDesc (s : State) (q : Nat) : Page :=
  match s.wsp.frames.find? fun e => e.2 = q with
  | some e => { pin := true, module := true, stack1 := e.1 / 65536, frame1 := e.1 % 65536 }
  | none => { pin := true, module := true }

/-- WSP_QUERY_D in a function's view (R400). -/
def queryPage (s : State) (f n : Nat) : Nat :=
  let p := fld s Fld.WSP_QUERY_PAGE 0 f
  let base := fld s Fld.HIF_FN_WSP_PAGE_BASE f
  if f ≠ 0 && !(base ≤ p && p < base + fld s Fld.HIF_FN_WSP_PAGE_COUNT f) then 0
  else match s.page p with
    | some x => descWord p { x with moving := x.moving || s.wsp.moves.any fun m => m.page = p } n
    | none => if jrnPage s p then descWord p (ringDesc s p) n else 0

/-- PIN pages left without a frame by re-pour (R397). -/
def unplacedPages (s : State) : List Nat :=
  s.wsp.unplaced.filter fun q => match s.page q with | some d => d.pin && !d.inDram | none => false

def wspStatus (s : State) : Nat :=
  bitsFrom [(0, maskOf s.wsp.failed), (24, b2n (s.wsp.failed != [])), (25, b2n (s.wsp.moves.any fun m => m.kind = .repour)),
    (32, freeAll s)]

def wspStack (s : State) (st : Nat) : Nat :=
  bitsFrom [(0, b2n (stackFailed s st)), (2, satBits 16 (freeFrames s st)), (18, satBits 11 (retiredFrames s st)),
    (29, (s.wsp.pcFailed.filter fun k => k / 64 = st).length), (36, lookupD 0 st s.wsp.corrected)]

/-- NTL_STATUS (R402): the mean erase count is a free value, since the spec gives no number of blocks. -/
def ntlStatus (s : State) (d : Nat) : Nat :=
  bitsFrom [(0, maskOf s.ntl.chFailed), (16, b2n (s.ntl.chFailed != [])), (24, (Config.freeWord d 0).toNat % 256),
    (32, 28610229 - s.ntl.slots.length)]

/-! ## FAB_, XRT_ (R440, R443) -/

def fabPortId (p : Nat) : Nat := bitsFrom [(0, p), (5, p / 5), (7, p / 5), (9, p % 5)]

/-- The two words of an XRT_MCAST entry (R443). -/
def mcastWord (s : State) (i : Nat) : Nat :=
  match lookup (i / 2) s.fab.mcast with
  | none => 0
  | some e =>
    if i % 2 = 0 then bitsFrom [(0, 1), (16, e.epoch), (32, e.root)]
    else bitsFrom [(0, e.down), (20, b2n e.local_), (21, e.up), (26, e.leaves.length)]

/-! ## DET_, RAS_ (R489, R495, R499, R520) -/

/-- A record as a number of 1,024 bits (R489). -/
def RecEntry.value (e : RecEntry) : Nat :=
  bitsFrom [(0, e.seq), (64, e.kind), (80, e.layer), (90, e.stream), (96, e.ctx), (128, e.msc), (192, e.time), (256, e.body)]

def recData (s : State) (n : Nat) : Nat :=
  match s.det.ring.find? fun e => e.seq = raw s Reg.DET_REC_INDEX with
  | some e => bitsOf e.value (64 * n) 64
  | none => 0

/-- A log entry as a number of 512 bits (R499). -/
def LogEntry.value (e : LogEntry) : Nat :=
  bitsFrom [(0, e.seq), (64, e.time), (128, e.block), (136, e.bit), (144, e.cls), (160, e.unit), (192, e.ctx), (256, e.addr % 2 ^ 64),
    (320, e.jrnSeq), (384, e.arg % 2 ^ 64)]

def logData (s : State) (n : Nat) : Nat :=
  match s.ras.log.find? fun e => e.seq = raw s Reg.RAS_LOG_INDEX with
  | some e => bitsOf e.value (64 * n) 64
  | none => 0

def rasStatus (s : State) : Nat :=
  bitsFrom [(0, (spares s).length), (4, b2n (isDegraded s)), (5, degReason s), (11, b2n s.ras.fatal),
    (16, enabledTiles s - s.ras.l2p.length)]

def tileStateWord (s : State) (n : Nat) : Nat :=
  bitsFrom ((upFrom 0 16).map fun j =>
    let t := 16 * n + j
    (4 * j, if 152 ≤ t then 15 else match roleOf s t with | .inService => 0 | .spare => 1 | .failed => 2 | .dark => 3))

def l2pWord (s : State) (n : Nat) : Nat := bitsFrom ((upFrom 0 8).map fun j => (8 * j, (physOf s (8 * n + j)).getD 0xFF))

/-- MGT_FUSE_ID (R6). -/
def fuseId (s : State) : Nat :=
  bitsFrom [(0, 9), (4, s.fuses.grade), (8, enabledTiles s), (16, 152), (24, 8), (28, 4), (32, 24), (37, 16), (42, if s.fuses.grade = 2 then 16 else 20)]

/-- PRT_STATUS (R596). -/
def prtStatus (s : State) : Nat :=
  let done := fun (i : Nat) => fld s Fld.PRT_INJ_LIMIT_LIMIT i ≠ 0 && fld s Fld.PRT_INJ_LIMIT_LIMIT i ≤ fld s Fld.PRT_INJ_FIRED_FIRED i
  bitsFrom [(0, fld s Fld.MGT_TEST_TEST_MODE), (16, maskOf ((upFrom 0 16).filter fun i => flag s Fld.PRT_INJ_CFG_EN i && !done i)),
    (32, maskOf ((upFrom 0 16).filter done))]

/-! ## One register -/

/-- The value of copy `i` of a register in function `f`'s view, where it follows the state; free values are those of
draw `d`. -/
def liveReg (s : State) (f d : Nat) (r : RegSpec) (i : Nat) : Option Nat :=
  let t := s.tile i
  let b := r.base
  if b = Reg.CP_STATUS.base then some (cpStatus s f)
  else if b = Reg.JRN_EPOCH.base then some (s.cp.journal.epoch + s.cp.nand.flushEpoch * 2 ^ 32)
  else if b = Reg.JRN_HEAD.base then some s.cp.journal.head
  else if b = Reg.JRN_OLDEST.base then some (jrnOldest s.cp.journal)
  else if b = Reg.JRN_POS.base then some s.cp.journal.pos
  else if b = Reg.JRN_FLUSH.base then some s.cp.nand.image.length
  else if b = Reg.CTX_STATUS.base then some (ctxStatus s)
  else if b = Reg.CTX_SLOT.base then some (ctxSlot s i)
  else if b = Reg.CTX_QUERY_CTX.base then some (queryCtx s f)
  else if b = Reg.CTX_QUERY_STREAM.base then some (queryStream s f)
  else if b = Reg.CTX_QUERY_PROGRESS.base then some (queriedStream s f).progress
  else if b = Reg.HOP_QUERY_CFG.base then some (hopQuery s f 0)
  else if b = Reg.HOP_QUERY_USE.base then some (hopQuery s f 1)
  else if b = Reg.HOP_QUERY_CTX.base then some (hopQuery s f 2)
  else if b = Reg.HOP_QUERY_RING.base then some (hopQuery s f 3)
  else if b = Reg.HOP_QUERY_BUF.base then some (hopQuery s f 4)
  else if b = Reg.HOP_QUERY_LINK.base then some (hopQuery s f 5)
  else if b = Reg.RTE_ID.base then some (bitsFrom [(0, i), (2, i / 2), (8, 0x80), (16, 16)])
  else if b = Reg.RTE_STATUS.base then some (rteStatus s i)
  else if b = Reg.RUN_STATUS.base then some (runStatus s)
  else if b = Reg.RUN_TRIG.base then
    some (let w := (lookupD {} (i / 16384) s.xch.trig).words (i % 16384 / 2); if i % 2 = 0 then w.1 else w.2)
  else if b = Reg.TIL_ID.base then some (tilId s i)
  else if b = Reg.TIL_STATUS.base then some (if roleOf s i = .dark then 0 else tilStatus s i)
  else if b = Reg.TIL_STK_STATUS.base then some (stkStatus t)
  else if b = Reg.TIL_IBANK.base then some (ibank t)
  else if b = Reg.TIL_STK_QUEUE.base then some (stkQueue t)
  else if b = Reg.TIL_STK_EVENT_LO.base then some (stkEvents t 0)
  else if b = Reg.TIL_STK_EVENT_HI.base then some (stkEvents t 1)
  else if b = Reg.TIL_STK_STALL.base then some (stkStall t)
  else if b = Reg.SKP_STATUS.base then some (skpStatus s)
  else if b = Reg.WSP_STATUS.base then some (wspStatus s)
  else if b = Reg.WSP_UNPLACED.base then some (unplacedPages s).length
  else if b = Reg.WSP_QUERY_D.base then some (queryPage s f i)
  else if b = Reg.WSP_STACK.base then some (wspStack s i)
  else if b = Reg.NTL_STATUS.base then some (ntlStatus s d)
  else if b = Reg.FAB_PORT_ID.base then some (fabPortId i)
  else if b = Reg.XRT_MCAST.base then some (mcastWord s i)
  else if b = Reg.DET_REC_STATUS.base then some (bitsFrom [(0, s.det.state), (32, s.det.divergences)])
  else if b = Reg.DET_REC_HEAD.base then some s.det.head
  else if b = Reg.DET_REC_OLDEST.base then some ((s.det.ring.head?.map RecEntry.seq).getD s.det.head)
  else if b = Reg.DET_REC_DATA.base then some (recData s i)
  else if b = Reg.RAS_ID.base then some (bitsFrom [(0, 152), (8, s.fuses.spares.length), (32, 4096)])
  else if b = Reg.RAS_STATUS.base then some (rasStatus s)
  else if b = Reg.RAS_IRQ_STATUS.base then some (irqStatus s)
  else if b = Reg.RAS_LOG_HEAD.base then some s.ras.logHead
  else if b = Reg.RAS_LOG_DATA.base then some (logData s i)
  else if b = Reg.RAS_SERIAL.base then some s.fuses.serial
  else if b = Reg.RAS_IDENT.base then some (bitsOf Config.identityDigest (64 * i) 64)
  else if b = Reg.RAS_TILE_STATE.base then some (tileStateWord s i)
  else if b = Reg.RAS_L2P.base then some (l2pWord s i)
  else if b = Reg.CLK_EMBER_TICKS.base then some s.ticks
  else if b = Reg.PWR_DOMAINS.base then some (putBits (raw s Reg.PWR_DOMAINS) 0 1 (b2n s.pwr.standbyOn))
  else if b = Reg.MGT_FUSE_ID.base then some (fuseId s)
  else if b = Reg.MGT_CHAIN.base then some (putBits (raw s Reg.MGT_CHAIN) 9 1 (b2n s.pwr.standbyOn))
  else if b = Reg.PMC_STATUS.base then some (putBits (raw s Reg.PMC_STATUS) 32 16 (stride64 s))
  else if b = Reg.PMC_CNT.base then some (counterValue s d (i / 32) (i % 32))
  else if b = Reg.PRT_STATUS.base then some (prtStatus s)
  else none

/-- The unit of a register copy is fused off: its window reads zero and ignores writes (R16). -/
def copyFused (s : State) (r : RegSpec) (i : Nat) : Bool :=
  if blockOf r.base = blockOf Reg.TIL_ID.base then roleOf s i = .dark
  else if blockOf r.base = blockOf Reg.FAB_PORT_ID.base then portFused s i
  else false

/-- The tile's row is gated and the register is neither TIL_ID nor TIL_STATUS: it reads zero and ignores writes (R182). -/
def copyGated (s : State) (r : RegSpec) (i : Nat) : Bool :=
  blockOf r.base = blockOf Reg.TIL_ID.base && r.base ≠ Reg.TIL_ID.base && r.base ≠ Reg.TIL_STATUS.base && !(s.tile i).rowOn

end Sys2Proof.Machine
end

