-- ==== Sys2Proof/Machine/PerturbRows.lean ====
section
/-!
DEFINITION. Writes to the perturbation registers (R591, R595, R596).
-/
namespace Sys2Proof.Machine

/-- The actions that a target allows (R591). -/
def allowedActions (target : Nat) : List Nat :=
  if target = 5 then [0, 1]
  else if target = 1 || target = 3 || target = 8 then [1]
  else if target = 9 || target = 11 || target = 14 || target = 15 then [2]
  else if target = 16 then [3]
  else if 1 ≤ target && target < 16 then [0]
  else []

/-- PRT_ERR.BAD_CFG (R596). -/
def badCfg (s : State) : State := setErr s Fld.PRT_ERR_BAD_CFG

/-- The value that a masked write of `v` asks of a field of a register that stores `old` (R9). -/
def askedOf (old v mask lo len : Nat) : Nat :=
  let m := bitsOf mask lo len
  (bitsOf old lo len &&& ((2 ^ len - 1) ^^^ m)) ||| (bitsOf v lo len &&& m)

/-- A field of the register is asked to hold a value out of its range. -/
def asksBeyond (r : RegSpec) (old v mask : Nat) : Bool :=
  r.fields.any fun f => f.acc == .rw && !f.takes (askedOf old v mask f.lo f.len)

/-- A write of PRT_INJ_CFG_n: refused where it changes the point or the pattern of an enabled injector; an ACTION that the
TARGET does not allow leaves both; EN going to 1 starts the event numbers afresh (R591, R592, R596). -/
def injectorCfgWrite (s : State) (i v mask : Nat) : State :=
  let old := raw s Reg.PRT_INJ_CFG i
  let ask := fun (lo len : Nat) => askedOf old v mask lo len
  let changed := ask 3 20 ≠ bitsOf old 3 20
  if bitOf old 0 && changed then count (badCfg s) bankPrt 16
  else
    let pair := ask 1 2 ≠ bitsOf old 1 2 || ask 4 8 ≠ bitsOf old 4 8
    let wrong := pair && !(allowedActions (ask 4 8)).contains (ask 1 2)
    let beyond := asksBeyond Reg.PRT_INJ_CFG old v mask
    let v' := if wrong then putBits (putBits v 1 2 (bitsOf old 1 2)) 4 8 (bitsOf old 4 8) else v
    let s := writeReg s Reg.PRT_INJ_CFG i 0 v' mask
    let s := if !bitOf old 0 && flag s Fld.PRT_INJ_CFG_EN i then
      setRaw (setRaw s Reg.PRT_INJ_EVENTS i 0 0) Reg.PRT_INJ_FIRED i 0 0 else s
    if wrong || beyond then badCfg s else s

/-- A write of PRT_INJ_PAT_n, _SEED_n, _LIMIT_n or of PRT_CTL: a value out of range leaves its field (R596). -/
def prtPlainWrite (s : State) (r : RegSpec) (i v mask : Nat) : State :=
  let beyond := asksBeyond r (raw s r i) v mask
  let s := writeReg s r i 0 v mask
  if beyond then badCfg s else s

/-- A write to a register of the PRT_ window, by BAR0 offset (R595). -/
def prtWrite (s : State) (func off v mask : Nat) : State :=
  if off = Reg.PRT_ERR.base then irqUpdate (writeReg s Reg.PRT_ERR 0 0 v mask)
  else if (regAt off).isNone then s
  else if !flag s Fld.MGT_TEST_TEST_MODE || func ≠ 0 then count (setErr s Fld.PRT_ERR_REFUSED) bankPrt 16
  else if off = Reg.PRT_CTL.base then irqUpdate (prtPlainWrite s Reg.PRT_CTL 0 v mask)
  else if off < Reg.PRT_INJ_CFG.base || Reg.PRT_INJ_CFG.base + 1024 ≤ off then s
  else
    let i := (off - Reg.PRT_INJ_CFG.base) / 64
    let k := (off - Reg.PRT_INJ_CFG.base) % 64
    if k = 0 then injectorCfgWrite s i v mask
    else if k = 8 then prtPlainWrite s Reg.PRT_INJ_PAT i v mask
    else if k = 16 then prtPlainWrite s Reg.PRT_INJ_SEED i v mask
    else if k = 24 then prtPlainWrite s Reg.PRT_INJ_LIMIT i v mask
    else s

/-- PRT_WRITE (R595): a 64-bit write at an offset of the PRT_ window. -/
def execPrtWrite (func offset value : Nat) (s : State) : Out :=
  .next (prtWrite s func (Reg.PRT_ID.base + offset) value (2 ^ 64 - 1))

end Sys2Proof.Machine
end

