-- ==== Sys2Proof/Machine/Bus.lean ====
section
/-!
DEFINITION. Register accesses through BAR0: what a function's view holds (R566), reads (R9–R11, R16, R576) and writes, with
the effect that each register's chapter gives them (R564–R567 and the register tables).
-/
namespace Sys2Proof.Machine

/-! ## Addressing (R16) -/

/-- Blocks of the ember domain, and the error unit, which answer in every power state over the chain (R558). -/
def emberBlock (b : Nat) : Bool := b = 15 || b = 16 || b = 17 || b = 18 || b = 19

/-- The domains that a register's block needs, of which one must be on (R22, R23). -/
def domainsOf (off : Nat) : List Nat :=
  let b := blockOf off
  if emberBlock b then [0]
  else if b = 3 || b = 5 then [14]
  else if b = 4 then [12 + off % 0x100000 / 0x80000 % 2]
  else if b = 6 then (if off % 0x1000 = 0 || off % 0x1000 = 0x10 then [15] else [16 + off % 0x100000 / 0x8000])
  else if b = 7 then upFrom 16 19
  else if b = 8 then upFrom 7 4
  else if b = 9 then [11]
  else if b = 10 then [3 + off % 0x100000 / 0x1000 / 5]
  else if b = 11 || b = 12 || b = 13 then upFrom 3 4
  else if b = 22 then [2]
  else [1]

/-- Every domain that the block at an offset needs is off. -/
def blockOff (s : State) (off : Nat) : Bool := (domainsOf off).all fun d => d ≠ 0 && !domainOn s d

/-- The registers of a virtual function's view (R566). -/
def vfSees (r : RegSpec) (i : Nat) : Bool :=
  let b := blockOf r.base
  let isId := r.base % 0x100000 = 0 && i = 0 && ! [1, 12, 16, 17, 18].contains b
  let named := [Reg.CP_CTL, Reg.CP_ASQ, Reg.CP_ACQ, Reg.CP_AQ_CFG, Reg.CP_STATUS, Reg.CP_ERR, Reg.CP_ERR_INFO, Reg.CTX_QUERY,
    Reg.CTX_QUERY_CTX, Reg.CTX_QUERY_STREAM, Reg.CTX_QUERY_PROGRESS, Reg.HOP_QUERY, Reg.HOP_QUERY_CFG, Reg.HOP_QUERY_USE,
    Reg.HOP_QUERY_CTX, Reg.HOP_QUERY_RING, Reg.HOP_QUERY_BUF, Reg.HOP_QUERY_LINK, Reg.WSP_QUERY, Reg.WSP_QUERY_D]
  isId || named.any fun n => n.base = r.base

/-- The register that function `f` reaches at an offset, where its view holds one that is not dark or gated (R16, R182, R566). -/
def viewReg (s : State) (f off : Nat) : Option (RegSpec × Nat) :=
  match regAt off with
  | none => none
  | some (r, i) => if (f = 0 || vfSees r i) && !copyFused s r i && !copyGated s r i then some (r, i) else none

/-! ## Reads -/

/-- TIL_STK_STALL after a read of some of its halves: zero, but where the Stoker still stalls or stops (R9, R249). -/
def clearStall (s : State) (t halves : Nat) : State :=
  let x := s.tile t
  let (d, s) := drawFree s
  let stall := match x.kernel with | some k => k.stall | none => .none
  let full := if stall = .queueFull then some d else none
  let event := match stall with | .event _ => some d | .fence => some d | _ => none
  s.setTile t { x with stallFull := if bitOf halves 0 then full else x.stallFull
                       stallEvent := if bitOf halves 1 then event else x.stallEvent }

/-- The state after the RC fields in the low (1), high (2) or both (3) halves of a register were read (R9, R11). -/
def clearRc (s : State) (r : RegSpec) (i halves : Nat) : State :=
  let s := if r.base = Reg.WSP_STACK.base && bitOf halves 1 then { s with wsp := { s.wsp with corrected := eraseK i s.wsp.corrected } }
    else if r.base = Reg.TIL_STK_STALL.base then clearStall s i halves else s
  let v := r.fields.foldl (fun v f =>
    if f.acc == .rc && bitOf halves (f.lo / 32) then putBits v f.lo f.len 0 else v) (raw s r i)
  if v = raw s r i then s else setRaw s r i 0 v

/-- A read of the register at an 8-byte-aligned offset: its 64-bit value, and the state after (R9, R11). -/
def busRead (s : State) (f off halves : Nat) : Nat × State :=
  match viewReg s f off with
  | none => (0, s)
  | some (r, i) =>
    let (d, t) := drawFree s
    match liveReg s f d r i with
    | some v => (v % 2 ^ 64, clearRc t r i halves)
    | none => (raw s r i f, clearRc s r i halves)

/-- A host access to a block whose domain is off ends Smouldering, but for a tile window (R527). -/
def wakeByAccess (s : State) (off : Nat) : State :=
  if blockOf off ≠ 6 && blockOff s off then wakeTrigger s else s

/-- RC_READ (R9, R11, R253): a read of BAR0 by a function, or of BAR4, which holds no register but reads through the same interface
(`bar4`). An access of another size or alignment to BAR0 returns zero. -/
def execRcRead (func : Nat) (offset : BarOffset) (size : Nat) (s : State) : Out :=
  let at_ := offset.addr
  if offset.bar4 then
    let (k, s) := drawFree s
    .next (send s (.readData (bar4Read k at_ size)))
  else if (size = 8 && at_ % 8 = 0) || (size = 4 && at_ % 4 = 0) then
    let s := wakeByAccess s at_
    let hi := at_ % 8 / 4
    let (v, s) := busRead s func (at_ - at_ % 8) (if size = 8 then 3 else 1 + hi)
    .next (send s (.readData (leBytes size (v / 2 ^ (32 * hi)))))
  else .next (send s (.readData (List.replicate size 0)))

/-! ## Writes with an effect of their own -/

/-- The state of an outcome. -/
def stateOf (s : State) (o : Out) : State :=
  match o with
  | .next t => t
  | _ => s

/-- A live resource of function `fn` falls outside new resources (R565). -/
def strandsLive (s : State) (fn queues base count : Nat) : Bool :=
  (s.cp.sqs.any fun e => e.1 / 1024 = fn && queues ≤ e.1 % 1024) || (s.cp.cqs.any fun e => e.1 / 1024 = fn && queues ≤ e.1 % 1024) ||
    (s.ctx.table.any fun e => e.2.func = fn && !(base ≤ e.1 && e.1 < base + count))

/-- Two functions' context ranges overlap, with those of `fn` as given (R565). -/
def ctxOverlap (s : State) (fn base count : Nat) : Bool :=
  (upFrom 0 33).any fun g => g ≠ fn && rangesMeet base count (fld s Fld.HIF_FN_CTX_CTX_BASE g) (fld s Fld.HIF_FN_CTX_CTX_COUNT g)

/-- A write to a resource register of function `fn`, or its refusal (R565). -/
def fnConfig (s : State) (r : RegSpec) (fn v mask : Nat) : State :=
  let new := r.written (raw s r fn) v mask
  let t := setRaw s r fn 0 new
  let queues := fld t Fld.HIF_FN_Q_QUEUES fn
  let base := fld t Fld.HIF_FN_CTX_CTX_BASE fn
  let cnt := fld t Fld.HIF_FN_CTX_CTX_COUNT fn
  let total := ((upFrom 0 33).map fun g => fld t Fld.HIF_FN_Q_QUEUES g).foldl (· + ·) 0
  if fn = 0 && queues = 0 then s
  else if s.hif.vfEnable || 1024 < total || ctxOverlap t fn base cnt || strandsLive s fn queues base cnt then
    setErr (setRaw s Reg.HIF_ERR_INFO 0 0 (fn + 3 * 2 ^ 8)) Fld.HIF_ERR_FN_CFG
  else t

/-- HIF_FN_CONFIG (R565): a write to HIF_FN_Q, HIF_FN_CTX or HIF_FN_WSP of function `fn`, from function `func`'s view. -/
def execHifFnConfig (func fn : Nat) (which : FnReg) (value : Nat) (s : State) : Out :=
  if func ≠ 0 || 33 ≤ fn then .next s
  else match which with
    | .queues => .next (fnConfig s Reg.HIF_FN_Q fn value (2 ^ 64 - 1))
    | .contexts => .next (fnConfig s Reg.HIF_FN_CTX fn value (2 ^ 64 - 1))
    | .pages => .next (fnConfig s Reg.HIF_FN_WSP fn value (2 ^ 64 - 1))

/-- A write to FLK_CFG: two roles on one channel, or a channel of the Runner's or of multicast, are refused (R464). -/
def flkCfgWrite (s : State) (v mask : Nat) : State :=
  let new := Reg.FLK_CFG.written (raw s Reg.FLK_CFG) v mask
  let q := bitsOf new 0 3
  let p := bitsOf new 4 3
  let map := raw s Reg.RUN_CLASS_MAP
  let taken := fld s Fld.XRT_CFG_MCAST_TC :: (upFrom 0 5).map fun i => bitsOf map (4 * i) 3
  if q = p || taken.contains q || taken.contains p then setErr (setRaw s Reg.FLK_ERR_INFO 0 0 (1 * 2 ^ 4)) Fld.FLK_ERR_TC_REFUSED
  else setRaw s Reg.FLK_CFG 0 0 new

/-- A write to DET_REC_CTL: LOG2 and CLEAR act while MODE is OFF; a refused start of a replay changes nothing (R492, R495). -/
def recCtlWrite (s : State) (v mask : Nat) : State :=
  let old := raw s Reg.DET_REC_CTL
  let new := Reg.DET_REC_CTL.written old v mask
  let m := bitsOf new 0 2
  if m = 2 && bitsOf old 0 2 ≠ 2 && anyFetch s then setErr s Fld.DET_ERR_REPLAY_REFUSED
  else
    let off := bitsOf old 0 2 = 0
    let s := if off && bitOf v 9 && bitOf mask 9 then clearRing s else s
    let kept := putBits (if off then new else putBits new 4 5 (bitsOf old 4 5)) 0 2 (bitsOf old 0 2)
    let s := setRaw s Reg.DET_REC_CTL 0 0 kept
    let s := { s with det := { s.det with ring := s.det.ring.drop (s.det.ring.length - recSlots s) } }
    setRecMode s m

/-- A write to PMC_CTL (R584, R585, R590). -/
def pmcCtlWrite (s : State) (v mask : Nat) : State :=
  let old := raw s Reg.PMC_CTL
  let new := Reg.PMC_CTL.written old v mask
  let s := irqUpdate (setRaw s Reg.PMC_CTL 0 0 (putBits new 1 1 (bitsOf old 1 1)))
  let s := setCollect s (bitOf new 1)
  let s := if bitOf v 4 && bitOf mask 4 then emptySnapshots s else s
  if bitOf v 3 && bitOf mask 3 then extraSnapshot s false else s

/-- A write to PWR_REQ, or to RST_CTL (R526–R528, R541). -/
def pwrReqWrite (s : State) (v : Nat) : State :=
  let t := v % 4
  if t = 0 then requestStoked s else if t = 1 then requestSmoulder s else if t = 2 then (requestBanked s).2 else s
def rstCtlWrite (s : State) (v : Nat) : State :=
  if bitsOf v 8 8 ≠ resetKey then s
  else if v % 4 = 1 then warmReset s 1 else if v % 4 = 2 then moduleReset s 1 else s

/-- A write to PWR_LIMIT: FAST_W takes no value below SUSTAINED_W (R538, R547). -/
def pwrLimitWrite (s : State) (v mask : Nat) : State :=
  let old := raw s Reg.PWR_LIMIT
  let new := Reg.PWR_LIMIT.written old v mask
  setRaw s Reg.PWR_LIMIT 0 0 (if bitsOf new 16 11 < bitsOf new 0 11 then putBits new 16 11 (bitsOf old 16 11) else new)

/-- A write to XRT_THROTTLE: LOW_KIB takes no value at or above HIGH_KIB, and where the stored LOW_KIB is not below the written HIGH_KIB
either, neither field takes its value (DESIGN CHOICE; R442 gives LOW_KIB the range below HIGH_KIB). -/
def throttleWrite (s : State) (v mask : Nat) : State :=
  let old := raw s Reg.XRT_THROTTLE
  let new := Reg.XRT_THROTTLE.written old v mask
  let kept := if bitsOf new 16 16 < bitsOf new 0 16 then new
    else if bitsOf old 16 16 < bitsOf new 0 16 then putBits new 16 16 (bitsOf old 16 16)
    else putBits new 0 32 (bitsOf old 0 32)
  setRaw s Reg.XRT_THROTTLE 0 0 kept

/-- A write to CLK_CORE: a clock above the new CAP_MHZ comes down to it (R537, R548). -/
def clkCoreWrite (s : State) (v mask : Nat) : State :=
  let s := writeReg s Reg.CLK_CORE 0 0 v mask
  if fld s Fld.CLK_CORE_CAP_MHZ < s.pwr.mhz then setMhz s (fld s Fld.CLK_CORE_CAP_MHZ) else s

/-- A write to FAB_PORT_CTL: the plain fields, then ENABLE, FWD_EN and RETRAIN (R411). -/
def portCtlWrite (s : State) (p v mask : Nat) : State :=
  let old := raw s Reg.FAB_PORT_CTL p
  let new := Reg.FAB_PORT_CTL.written old v mask
  let s := irqUpdate (setRaw s Reg.FAB_PORT_CTL p 0 (putBits new 0 2 (bitsOf old 0 2)))
  let s := if bitsOf new 0 1 = bitsOf old 0 1 then s else stateOf s (execPortEnable p (bitOf new 0) s)
  let s := if bitsOf new 1 1 = bitsOf old 1 1 then s else stateOf s (execPortFwdEn p (bitOf new 1) s)
  if bitOf v 3 && bitOf mask 3 then stateOf s (execRetrain p true s) else s

/-- The bucket configuration register of a level. -/
def levelOf (r : RegSpec) : Option Level :=
  if r.base = Reg.SHP_SUB_CFG.base then some .sub else if r.base = Reg.SHP_SVC_CFG.base then some .svc
  else if r.base = Reg.SHP_PORT_CFG.base then some .port else if r.base = Reg.SHP_POL_CFG.base then some .pol else none

/-- A masked write as a whole value. -/
def merged (old v mask : Nat) : Nat := (old &&& ((2 ^ 64 - 1) ^^^ mask % 2 ^ 64)) ||| (v &&& mask % 2 ^ 64)

/-- The function's view that a register's copy belongs to. -/
def viewOf (r : RegSpec) (f : Nat) : Nat := if r.perFn then f else 0

/-- A write to a register with an effect of its own, where it is one. -/
def specialWrite (s : State) (f : Nat) (r : RegSpec) (i v mask : Nat) : Option State :=
  let b := r.base
  let whole := merged (raw s r i (viewOf r f)) v mask
  if b = Reg.CP_CTL.base then
    let old := raw s r 0 f
    let new := r.written old v mask
    let s := irqUpdate (setRaw s r 0 f (putBits new 0 1 (bitsOf old 0 1)))
    some (if bitsOf new 0 1 = bitsOf old 0 1 then s else stateOf s (execFetchEnable f (bitOf new 0) s))
  else if b = Reg.CP_ASQ.base then some (stateOf s (execAdminQueueWrite f .asq (BitVec.ofNat 64 whole) s))
  else if b = Reg.CP_ACQ.base then some (stateOf s (execAdminQueueWrite f .acq (BitVec.ofNat 64 whole) s))
  else if b = Reg.CP_AQ_CFG.base then some (stateOf s (execAdminQueueWrite f .aqCfg (BitVec.ofNat 64 whole) s))
  else if b = Reg.JRN_BASE.base then some (stateOf s (execJrnBaseWrite (bitsOf whole 20 16) (bitsOf whole 40 5) s))
  else if b = Reg.RUN_CLASS_MAP.base then some (stateOf s (execRunClassMapWrite whole s))
  else if b = Reg.RTE_CTL.base then some (irqUpdate (writeReg (keepStage4 s) r i 0 v mask))
  else if b = Reg.FAB_PORT_CTL.base then some (portCtlWrite s i v mask)
  else if b = Reg.FLK_CFG.base then some (flkCfgWrite s v mask)
  else if b = Reg.DET_REC_CTL.base then some (recCtlWrite s v mask)
  else if b = Reg.DET_REC_MARK.base then some (markRecord s (v &&& mask))
  else if b = Reg.DET_REC_DATA.base then some (stageRecord s i (merged (bitsOf s.det.staged (64 * i) 64) v mask))
  else if b = Reg.RAS_REINSTATE.base then some (if bitOf mask 0 then reinstate s f (bitsOf v 0 8) else s)
  else if b = Reg.RAS_TILE_RETIRE.base then some (if bitOf mask 0 then retire s f (bitsOf v 0 8) else s)
  else if b = Reg.PWR_REQ.base then some (if bitOf mask 0 then pwrReqWrite s v else s)
  else if b = Reg.RST_CTL.base then some (if bitOf mask 0 then rstCtlWrite s v else s)
  else if b = Reg.PWR_LIMIT.base then some (pwrLimitWrite s v mask)
  else if b = Reg.XRT_THROTTLE.base then some (throttleWrite s v mask)
  else if b = Reg.CLK_CORE.base then some (clkCoreWrite s v mask)
  else if b = Reg.PMC_CTL.base then some (pmcCtlWrite s v mask)
  else if b = Reg.PMC_CFG.base || b = Reg.PMC_RING.base || b = Reg.PMC_MASK.base then some (pmcConfigWrite s r i v mask)
  else if b = Reg.PMC_CLEAR.base then some (if bitOf mask 0 then clearBanks s (bitsOf v 0 8) (bitOf v 8) else s)
  else if b = Reg.HIF_FN_Q.base || b = Reg.HIF_FN_CTX.base || b = Reg.HIF_FN_WSP.base then some (fnConfig s r i v mask)
  else if b = Reg.HIF_CTL.base then
    let new := r.written (raw s r) v mask
    some (irqUpdate (setRaw s r 0 0 (if s.hif.vfEnable then putBits new 1 6 (bitsOf (raw s r) 1 6) else new)))
  else match levelOf r with
    | some l => some (stateOf s (execShpBucketCfgWrite f l i whole s))
    | none => none

/-! ## Any write -/

/-- A write of the bits of `mask` at an 8-byte-aligned offset through function `f`'s view: PRT_ registers by their own rule, a
register with an effect by that effect, and any other by its access codes (R9–R11). -/
def busWrite (s : State) (f off v mask : Nat) : State :=
  if blockOf off = blockOf Reg.PRT_ID.base then prtWrite s f off v mask
  else match viewReg s f off with
    | none => s
    | some (r, i) =>
      match specialWrite s f r i v mask with
      | some t => t
      | none => irqUpdate (writeReg s r i (viewOf r f) v mask)

/-- REGISTER_WRITE (R9–R11): a write of BAR0 by a function. An access of another size or alignment is ignored. -/
def execRegisterWrite (func offset size value : Nat) (s : State) : Out :=
  if size = 8 && offset % 8 = 0 then .next (busWrite (wakeByAccess s offset) func offset value (2 ^ 64 - 1))
  else if size = 4 && offset % 4 = 0 then
    let hi := 32 * (offset % 8 / 4)
    .next (busWrite (wakeByAccess s offset) func (offset - offset % 8) (value % 2 ^ 32 * 2 ^ hi) ((2 ^ 32 - 1) * 2 ^ hi))
  else .next s

end Sys2Proof.Machine
end

