-- ==== Sys2Proof/Machine/Chain.lean ====
section
/-!
DEFINITION. The management chain: frames, enumeration, requests and alerts (R552–R560, R568, R570).
-/
namespace Sys2Proof.Machine

/-! ## Frames (R553) -/

/-- A frame's header and payload. -/
structure ChFrame where
  dest : Nat
  resp : Bool
  src : Nat
  type : Nat
  seq : Nat
  minor : Nat
  major : Nat
  /-- A reserved bit of the header is set, or STATUS of a request. -/
  reserved : Bool
  payload : List Byte
  deriving DecidableEq, Repr

/-- Bytes with the CRC-32C of R553 after them. -/
def sealFrame (bs : List Byte) : List Byte := bs ++ leBytes 4 (crc32c bs)

/-- The frame is whole and its CRC holds. -/
def frameGood (bs : List Byte) : Bool :=
  12 ≤ bs.length && bs.length = fieldOf bs 4 0 11 + 12 && bs = sealFrame (bs.take (bs.length - 4))

/-- The fields of a frame's bytes. -/
def readFrame (bs : List Byte) : ChFrame where
  dest := fieldOf bs 0 0 7
  resp := fieldOf bs 0 7 1 = 1
  src := fieldOf bs 1 0 7
  type := fieldOf bs 2 0 8
  seq := fieldOf bs 3 0 8
  minor := fieldOf bs 6 0 4
  major := fieldOf bs 6 4 4
  reserved := fieldOf bs 1 7 1 ≠ 0 || fieldOf bs 5 3 5 ≠ 0 || fieldOf bs 7 0 8 ≠ 0
  payload := (bs.drop 8).take (bs.length - 12)

/-- The module's chain address, 0 where it has none. -/
def ringAddr (s : State) : Nat := fld s Fld.MGT_CHAIN_ADDR

/-- A frame leaves the module. -/
def chainSend (s : State) (bs : List Byte) : State := { s with mgt := { s.mgt with chainOut := s.mgt.chainOut ++ [.frame bs] } }

/-- A frame is forwarded (R554, R574). -/
def chainForward (s : State) (bs : List Byte) : State := count (chainSend s bs) bankMgt 1

/-- A response's bytes, at the version that R570 settles. -/
def responseBytes (s : State) (f : ChFrame) (status : Nat) (payload : List Byte) : List Byte :=
  sealFrame ([BitVec.ofNat 8 0x80, BitVec.ofNat 8 (ringAddr s), BitVec.ofNat 8 f.type, BitVec.ofNat 8 f.seq] ++
    leBytes 2 payload.length ++ [BitVec.ofNat 8 (min f.minor 3 + 16), BitVec.ofNat 8 status] ++ payload)

/-- A response goes out. -/
def chainRespond (s : State) (f : ChFrame) (status : Nat) (payload : List Byte := []) : State :=
  setFld (chainSend s (responseBytes s f status payload)) Fld.MGT_CHAIN_MINOR (min f.minor 3)

/-! ## Enumeration (R556) -/

/-- The chain address is cleared or taken; without an address there is no chain endpoint ID (R568). -/
def setChainAddr (s : State) (a : Nat) : State :=
  let s := setFld s Fld.MGT_CHAIN_ADDR a
  if a = 0 then setFld s Fld.MGT_CHAIN_EID 0 else s

/-- A request has been executed (R572, R574). -/
def noteExecuted (s : State) (f : ChFrame) : State := count (setFld s Fld.MGT_CHAIN_LAST_SEQ f.seq) bankMgt 2

/-- The payload of an enumeration pass: MASK, UNASSIGNED, CONFLICT, SKIPPED and LEFT. -/
def passBytes (mask unassigned conflict skipped left : Nat) : List Byte :=
  leBytes 8 mask ++ [unassigned, conflict, skipped, left].map fun n => BitVec.ofNat 8 (min 255 n)

/-- What a module of its own major version does in CENSUS: the payload that goes on, and the state. -/
def census (s : State) (f : ChFrame) (mask un co sk le : Nat) : List Byte × State :=
  let a := ringAddr s
  if a = 0 then (passBytes mask (un + 1) co sk le, s)
  else if !bitOf mask (a - 1) then (passBytes (putBits mask (a - 1) 1 1) un co sk le, s)
  else if min f.minor 3 < 3 then (passBytes mask un co sk le, s)
  else (passBytes mask (un + 1) (co + 1) sk le, setErr (setChainAddr s 0) Fld.MGT_ERR_CONFLICT)

/-- What a module of its own major version does in ASSIGN. -/
def assign (s : State) (mask un co sk le : Nat) : List Byte × State :=
  if ringAddr s ≠ 0 then (passBytes mask un co sk le, s)
  else match (upFrom 0 64).find? fun i => !bitOf mask i with
    | some i => (passBytes (putBits mask i 1 1) (un - 1) co sk le, setChainAddr s (i + 1))
    | none => (passBytes mask un co sk (le + 1), s)

/-- An enumeration pass reaches the module and goes on, with its CRC made anew. -/
def enumerate (s : State) (bs : List Byte) (f : ChFrame) : State :=
  if f.payload.length ≠ 12 || f.reserved then chainForward s bs
  else
    let n := fun (i : Nat) => fieldOf f.payload i 0 8
    let mask := fieldOf f.payload 0 0 64
    let on := fun (p : List Byte) => sealFrame (bs.take 8 ++ p)
    if f.major ≠ 1 then
      chainForward (setErr s Fld.MGT_ERR_BAD_VERSION) (on (passBytes mask (n 8) (n 9) (n 10 + 1) (n 11)))
    else
      let (p, s) := if f.type = 1 then census s f mask (n 8) (n 9) (n 10) (n 11) else assign s mask (n 8) (n 9) (n 10) (n 11)
      let s := noteExecuted s f
      chainForward { s with mgt := { s.mgt with last := none } } (on p)

/-! ## Requests (R557–R559) -/

/-- What a request comes to: its status, its response's payload and the state. -/
abbrev Answer := Nat × List Byte × State

/-- A register's bytes as the physical function reads them (R558). -/
def chainReg (s : State) (off : Nat) : List Byte × State :=
  let (v, s) := busRead s 0 off 3
  (leBytes 8 v, s)

/-- The bytes of registers read in turn. -/
def chainRegs (s : State) (offs : List Nat) : List Byte × State :=
  offs.foldl (fun x o => let (b, s) := chainReg x.2 o; (x.1 ++ b, s)) ([], s)

/-- PING's answer. -/
def pingAnswer (s : State) : Answer :=
  let (a, s) := chainRegs s [Reg.RAS_SERIAL.base, Reg.MGT_FUSE_ID.base, Reg.RAS_IDENT.base, Reg.PWR_STATUS.base]
  (0, a ++ versionBytes, s)

/-- STATUS's answer. -/
def statusAnswer (s : State) : Answer :=
  let (a, s) := chainRegs s [Reg.PWR_STATUS.base, Reg.PWR_TEMP.base, Reg.PWR_POWER.base, Reg.RAS_STATUS.base]
  (0, a, s)

/-- The offsets of a range: it stops at the first unassigned window. -/
def chainRange (off n : Nat) : List Nat := ((upFrom 0 n).map (off + 8 * ·)).filter (· < 0x1700000)

/-- The block at an offset is in reset: under a warm reset domains 1 and 12–34 are, under any other every domain but the ember domain
(R541, R542). -/
def blockInReset (s : State) (off : Nat) : Bool :=
  match s.pwr.reset with
  | none => false
  | some .warm => (domainsOf off).all fun d => d = 1 || 12 ≤ d
  | some _ => true

/-- The block at an offset does not answer the chain: its domain is off or in reset (R558). -/
def chainBlocked (s : State) (off : Nat) : Bool := !emberBlock (blockOf off) && (blockInReset s off || blockOff s off)

/-- OFFSET and COUNT of a register request, where they are in range. -/
def rangeArgs (f : ChFrame) (most : Nat) : Option (Nat × Nat) :=
  let off := fieldOf f.payload 0 0 64
  let n := fieldOf f.payload 8 0 64
  if f.payload.length < 16 || off % 8 ≠ 0 || 2 ^ 26 ≤ off || most < n then none else some (off, n)

/-- The most registers of a request, by its version (R570). -/
def mostRegs (f : ChFrame) : Nat := if 2 ≤ f.minor then 128 else 1

/-- REG_READ's answer. -/
def regReadAnswer (s : State) (f : ChFrame) : Answer :=
  match rangeArgs f (mostRegs f) with
  | none => (4, [], s)
  | some (off, n) =>
    if f.payload.length ≠ 16 then (4, [], s)
    else if n = 0 then (1, [], s)
    else if (chainRange off n).any (chainBlocked s) then (5, [], s)
    else
      let (b, s) := chainRegs s (chainRange off n)
      (0, b, s)

/-- REG_WRITE's answer. -/
def regWriteAnswer (s : State) (f : ChFrame) : Answer :=
  match rangeArgs f (mostRegs f) with
  | none => (4, [], s)
  | some (off, n) =>
    if f.payload.length ≠ 16 + 8 * n then (4, [], s)
    else if n = 0 then (1, [], s)
    else if (chainRange off n).any (chainBlocked s) then (5, [], s)
    else (0, [], (chainRange off n).foldl (fun s o =>
      busWrite s 0 o (fieldOf f.payload (16 + (o - off)) 0 64) (2 ^ 64 - 1)) s)

/-- WAKE's answer: Banked or Smouldering ends (R527, R529). -/
def wakeAnswer (s : State) : Answer := (0, [], wakeTrigger (leaveBanked s))

/-- The answer of WARM_RESET or MODULE_RESET: `may` says that the reset can run. -/
def resetAnswer (s : State) (f : ChFrame) (may : Bool) : Answer :=
  if fieldOf f.payload 0 0 8 ≠ resetKey then (6, [], s)
  else if s.pwr.reset.isSome then (7, [], s)
  else (if may then 0 else 6, [], s)

/-- SET_POWER's answer: a refusal carries the reason of R528. -/
def setPowerAnswer (s : State) (f : ChFrame) : Answer :=
  let t := fieldOf f.payload 0 0 8
  if 2 < t then (4, [], s)
  else if t = 0 then (0, [], requestStoked s)
  else if t = 1 then (0, [], requestSmoulder s)
  else match requestBanked s with
    | (some r, s) => (6, leBytes 1 r, s)
    | (none, s) => (0, [], s)

/-- TEST_MODE's answer (R559). -/
def testModeAnswer (s : State) (f : ChFrame) : Answer :=
  let on := fieldOf f.payload 0 0 8
  if 1 < on then (4, [], s)
  else if fieldOf f.payload 1 0 8 ≠ 0x5A then (6, [], s)
  else (0, [], if on = 1 then setFld s Fld.MGT_TEST_TEST_MODE 1 else endTestMode s)

/-- ALERT_ACK's answer: the alert that it names is held no longer (R560). -/
def alertAckAnswer (s : State) (f : ChFrame) : Answer :=
  let n := fieldOf f.payload 0 0 64
  (0, [], { s with mgt := { s.mgt with alerts := s.mgt.alerts.filter fun a => a.seq ≠ n } })

/-- The MCTP packet in a frame's payload. -/
def readMcPkt (p : List Byte) : McPkt where
  dest := fieldOf p 1 0 8
  src := fieldOf p 2 0 8
  som := fieldOf p 3 7 1 = 1
  eom := fieldOf p 3 6 1 = 1
  seq := fieldOf p 3 4 2
  owner := fieldOf p 3 3 1 = 1
  tag := fieldOf p 3 0 3
  body := p.drop 4

/-- The minor version since which a type exists; ALERT is no request (R557). -/
def typeSince (t : Nat) : Option Nat :=
  if [1, 2, 3, 4, 0x10, 0x11, 0x20, 0x21, 0x22].contains t then some 0
  else if t = 0x31 then some 1
  else if t = 0x40 then some 2
  else if t = 0x23 || t = 0x24 then some 3
  else none

/-- The payload length of a type whose length is fixed. -/
def fixedLen (t : Nat) : Option Nat :=
  if [3, 4, 0x20].contains t then some 0
  else if [0x21, 0x22, 0x23].contains t then some 1
  else if t = 0x24 then some 2
  else if t = 0x31 then some 8
  else none

/-- A request of a known type. -/
def chainAnswer (s : State) (f : ChFrame) : Answer :=
  let st := powerState s
  if f.reserved || 1040 < f.payload.length || (fixedLen f.type).any (· ≠ f.payload.length) then (4, [], s)
  else if f.type = 3 then pingAnswer s
  else if f.type = 4 then statusAnswer s
  else if f.type = 0x10 then regReadAnswer s f
  else if f.type = 0x11 then regWriteAnswer s f
  else if f.type = 0x20 then wakeAnswer s
  else if f.type = 0x21 then resetAnswer s f (st ≠ 0 && st ≠ 3 && st ≠ 6)
  else if f.type = 0x22 then resetAnswer s f (st ≠ 0 && (st ≠ 6 || s.pwr.cooled))
  else if f.type = 0x23 then setPowerAnswer s f
  else if f.type = 0x24 then testModeAnswer s f
  else if f.type = 0x31 then alertAckAnswer s f
  else (4, [], s)

/-- The response of an executed request is kept against a resend (R555). -/
def keepAnswer (s : State) (f : ChFrame) (bs : List Byte) : State :=
  let s := noteExecuted s f
  { s with mgt := { s.mgt with last := some (f.seq, bs) } }

/-- An MCTP frame (R557, R568): where its packet completes a message, the answer is the message's own; otherwise it is empty. -/
def serveMctp (s : State) (f : ChFrame) : State :=
  if !flag s Fld.MGT_CTL_MCTP_EN then chainRespond s f 3
  else if f.reserved || f.payload.length < 4 then chainRespond s f 4
  else
    let (later, s) := if fieldOf f.payload 0 0 4 = 1 then mctpPacket s 0 (readMcPkt f.payload)
      else (false, mctpDiscard (count s bankMgt 6))
    if later then keepAnswer (setFld s Fld.MGT_CHAIN_MINOR (min f.minor 3)) f []
    else keepAnswer (chainRespond s f 0) f (responseBytes s f 0 [])

/-- A request for this module, or for all (R554, R555, R557, R570). Answers 1 to 4 execute nothing. -/
def chainServe (s : State) (f : ChFrame) : State :=
  if f.major ≠ 1 then chainRespond (setErr s Fld.MGT_ERR_BAD_VERSION) f 2
  else if s.mgt.last.any fun l => l.1 = f.seq then
    count (match s.mgt.last with
      | some (_, b :: bs) => chainSend s (b :: bs)
      | _ => s) bankMgt 3
  else if (typeSince f.type).all fun m => min f.minor 3 < m then chainRespond s f 3
  else if f.type = 0x40 then serveMctp s f
  else
    let (status, payload, t) := chainAnswer s f
    if 1 ≤ status && status ≤ 4 then chainRespond s f status
    else
      let bs := responseBytes t f status payload
      let t := keepAnswer (chainRespond t f status payload) f bs
      if status ≠ 0 then t
      else if f.type = 0x21 then chainWarmReset t
      else if f.type = 0x22 then moduleReset t 2
      else t

/-- A frame reaches the module (R554): a bad one is dropped and counted; a request for this module is absorbed; a broadcast
is executed and goes on; everything else goes on. A module with no address takes part in enumeration alone. -/
def chainReceive (s : State) (bs : List Byte) : State :=
  if !s.pwr.standbyOn then s
  else
    let s := count s bankMgt 0
    let f := readFrame bs
    let a := ringAddr s
    if !frameGood bs then count (setErr s Fld.MGT_ERR_CRC_BAD) bankMgt 4
    else if f.resp then chainForward s bs
    else if f.dest = 0x7F then
      if f.type = 1 || f.type = 2 then enumerate s bs f
      else if a = 0 then chainForward s bs
      else if f.major ≠ 1 then chainForward (setErr s Fld.MGT_ERR_BAD_VERSION) bs
      else chainForward (chainServe s f) bs
    else if a ≠ 0 && f.dest = a then chainServe s f
    else chainForward s bs

/-- A row's frame: one of the row's type is received. -/
def receiveType (s : State) (type : Nat) (bs : List Byte) : Out :=
  if (readFrame bs).type = type then .next (chainReceive s bs) else .next s

/-- CENSUS (R556). -/
def execCensus (frame : List Byte) (s : State) : Out := receiveType s 0x01 frame
/-- ASSIGN (R556). -/
def execAssign (frame : List Byte) (s : State) : Out := receiveType s 0x02 frame
/-- PING (R557). -/
def execPing (frame : List Byte) (s : State) : Out := receiveType s 0x03 frame
/-- STATUS (R557). -/
def execStatus (frame : List Byte) (s : State) : Out := receiveType s 0x04 frame
/-- REG_READ (R558). -/
def execRegRead (frame : List Byte) (s : State) : Out := receiveType s 0x10 frame
/-- REG_WRITE (R558). -/
def execRegWrite (frame : List Byte) (s : State) : Out := receiveType s 0x11 frame
/-- WAKE (R557). -/
def execWake (frame : List Byte) (s : State) : Out := receiveType s 0x20 frame
/-- WARM_RESET (R542, R557). -/
def execWarmReset (frame : List Byte) (s : State) : Out := receiveType s 0x21 frame
/-- MODULE_RESET (R544, R557). -/
def execModuleReset (frame : List Byte) (s : State) : Out := receiveType s 0x22 frame
/-- SET_POWER (R528, R557). -/
def execSetPower (frame : List Byte) (s : State) : Out := receiveType s 0x23 frame
/-- TEST_MODE (R559). -/
def execTestMode (frame : List Byte) (s : State) : Out := receiveType s 0x24 frame
/-- ALERT_ACK (R560). -/
def execAlertAck (frame : List Byte) (s : State) : Out := receiveType s 0x31 frame
/-- MCTP (R568). -/
def execMctp (frame : List Byte) (s : State) : Out := receiveType s 0x40 frame
/-- FRAME_FORWARD (R554): any frame of the ring. -/
def execFrameForward (frame : List Byte) (s : State) : Out := .next (chainReceive s frame)

/-! ## Alerts and the input (R552, R560) -/

/-- ALERT_REPEAT (R560): an alert is sent again, or dropped after 50 repeats. -/
def execAlertRepeat (seq : Nat) (s : State) : Out :=
  match s.mgt.alerts.find? fun a => a.seq = seq with
  | none => .next s
  | some a =>
    if 50 ≤ a.repeats then
      .next (setErr { s with mgt := { s.mgt with alerts := s.mgt.alerts.filter fun x => x.seq ≠ seq } } Fld.MGT_ERR_ALERT_UNACKED)
    else if flag s Fld.MGT_CTL_ALERT_EN && ringAddr s ≠ 0 then
      let a' : Alert := { a with repeats := a.repeats + 1 }
      let alerts := s.mgt.alerts.map fun x => if x.seq = seq then a' else x
      .next (count { s with mgt := { s.mgt with alerts, chainOut := s.mgt.chainOut ++ [.alert a'] } } bankMgt 5)
    else .next s

/-- CHAIN_INPUT_LOCK (R552, R572). -/
def execChainInputLock (s : State) : Out :=
  if s.pwr.standbyOn then .next (setFld s Fld.MGT_CHAIN_IN_LOCK 1) else .next s

/-- CHAIN_INPUT_LOST (R552, R572). -/
def execChainInputLost (s : State) : Out :=
  if flag s Fld.MGT_CHAIN_IN_LOCK then .next (setErr (setFld s Fld.MGT_CHAIN_IN_LOCK 0) Fld.MGT_ERR_IN_LOST) else .next s

end Sys2Proof.Machine
end

