-- ==== Sys2Proof/Machine/HostLink.lean ====
section
/-!
DEFINITION. Events of the host interface: SR-IOV, D3hot, power-management messages and link training (R561–R563, R567).
-/
namespace Sys2Proof.Machine

/-- VF_ENABLE (R567): virtual functions 1 to NumVFs come up with the resources their registers hold. -/
def execVfEnable (numVfs : Nat) (s : State) : Out :=
  if 32 < numVfs then .next s
  else .next <| configServed s fun s =>
    if s.hif.vfEnable then s else { s with hif := { s.hif with vfEnable := true, numVfs } }

/-- VF_DISABLE (R543, R567): every virtual function is reset. -/
def execVfDisable (s : State) : Out :=
  .next <| configServed s fun s => if s.hif.vfEnable then settleWork (dropVfs s) else s

/-- D3HOT_ENTER (R562): the function stops reading its SQs. -/
def execD3hotEnter (func : Nat) (s : State) : Out :=
  .next <| configServed s fun s =>
    if functionUp s func && !inD3hot s func then { s with hif := { s.hif with d3hot := insertSorted func s.hif.d3hot } } else s

/-- D3HOT_EXIT (R562): the function reads its SQs again as FETCH allows; all its state is as it was. -/
def execD3hotExit (func : Nat) (s : State) : Out :=
  .next <| configServed s fun s => { s with hif := { s.hif with d3hot := s.hif.d3hot.filter (· ≠ func) } }

/-- PME_TURN_OFF (R563): outside Banked entry it is answered, with no other effect. -/
def execPmeTurnOff (s : State) : Out :=
  if powerState s = 4 && s.pwr.target = 2 then .next s else .next (send s .pmeToAck)

/-- PCIE_LINK_UP (R561, R573, R574): the link has trained, or trained again where it was up. -/
def execPcieLinkUp (speed width : Nat) (flit : Bool) (s : State) : Out :=
  let st := powerState s
  if st = 0 || st = 3 || st = 6 || speed = 0 || 6 < speed || ! [1, 2, 4, 8, 16].contains width then .next s
  else
    let again := fld s Fld.HIF_LINK_SPEED ≠ 0
    let s := setFld (setFld (setFld s Fld.HIF_LINK_SPEED speed) Fld.HIF_LINK_WIDTH width) Fld.HIF_LINK_FLIT (b2n flit)
    let s := { s with hif := { s.hif with l23 := false } }
    .next (if again then count (bumpFld s Fld.HIF_LINK_RETRAINS) bankHif 2 else s)

end Sys2Proof.Machine
end

