-- ==== Sys2Proof/Machine/Dispatch.lean ====
section
/-! DEFINITION. Every command of the block goes to its own meaning, one arm per constructor. -/

namespace Sys2Proof.Machine

def exec (i : Instr) (s : State) : Host.Outcome State Fault Refusal :=
  match i with
  | .nop seq => Sys2Proof.Machine.execNop seq s
  | .sqCreate seq => Sys2Proof.Machine.execSqCreate seq s
  | .sqDelete seq => Sys2Proof.Machine.execSqDelete seq s
  | .cqCreate seq => Sys2Proof.Machine.execCqCreate seq s
  | .cqDelete seq => Sys2Proof.Machine.execCqDelete seq s
  | .cancel seq => Sys2Proof.Machine.execCancel seq s
  | .journalFlush seq => Sys2Proof.Machine.execJournalFlush seq s
  | .journalFetch seq => Sys2Proof.Machine.execJournalFetch seq s
  | .ctxCreate seq => Sys2Proof.Machine.execCtxCreate seq s
  | .ctxDestroy seq => Sys2Proof.Machine.execCtxDestroy seq s
  | .streamOpen seq => Sys2Proof.Machine.execStreamOpen seq s
  | .streamClose seq => Sys2Proof.Machine.execStreamClose seq s
  | .poolCreate seq => Sys2Proof.Machine.execPoolCreate seq s
  | .poolQuota seq => Sys2Proof.Machine.execPoolQuota seq s
  | .bufFree seq => Sys2Proof.Machine.execBufFree seq s
  | .poolDestroy seq => Sys2Proof.Machine.execPoolDestroy seq s
  | .pageMap seq => Sys2Proof.Machine.execPageMap seq s
  | .pageUnmap seq => Sys2Proof.Machine.execPageUnmap seq s
  | .pageWrite seq => Sys2Proof.Machine.execPageWrite seq s
  | .pageRead seq => Sys2Proof.Machine.execPageRead seq s
  | .migrate seq => Sys2Proof.Machine.execMigrate seq s
  | .pourSet seq => Sys2Proof.Machine.execPourSet seq s
  | .pourClear seq => Sys2Proof.Machine.execPourClear seq s
  | .pack24 seq => Sys2Proof.Machine.execPack24 seq s
  | .shadowBuild seq => Sys2Proof.Machine.execShadowBuild seq s
  | .load seq => Sys2Proof.Machine.execLoad seq s
  | .unstage seq => Sys2Proof.Machine.execUnstage seq s
  | .step seq => Sys2Proof.Machine.execStep seq s
  | .stepEmpty seq => Sys2Proof.Machine.execStepEmpty seq s
  | .expertMask seq => Sys2Proof.Machine.execExpertMask seq s
  | .groupCreate seq => Sys2Proof.Machine.execGroupCreate seq s
  | .groupDestroy seq => Sys2Proof.Machine.execGroupDestroy seq s
  | .collective seq => Sys2Proof.Machine.execCollective seq s
  | .epConfig seq => Sys2Proof.Machine.execEpConfig seq s
  | .epFence seq => Sys2Proof.Machine.execEpFence seq s
  | .epEpoch seq => Sys2Proof.Machine.execEpEpoch seq s
  | .jobAdmit seq => Sys2Proof.Machine.execJobAdmit seq s
  | .mcastSet seq => Sys2Proof.Machine.execMcastSet seq s
  | .mcastClear seq => Sys2Proof.Machine.execMcastClear seq s
  | .mcastSend seq => Sys2Proof.Machine.execMcastSend seq s
  | .flaskJoin seq => Sys2Proof.Machine.execFlaskJoin seq s
  | .flaskLeave seq => Sys2Proof.Machine.execFlaskLeave seq s
  | .remoteWrite seq => Sys2Proof.Machine.execRemoteWrite seq s
  | .remoteRead seq => Sys2Proof.Machine.execRemoteRead seq s
  | .remoteAtomic seq => Sys2Proof.Machine.execRemoteAtomic seq s
  | .tileTest seq => Sys2Proof.Machine.execTileTest seq s
  | .bitmapRead seq => Sys2Proof.Machine.execBitmapRead seq s
  | .sqDoorbell func queue value => Sys2Proof.Machine.execSqDoorbell func queue value s
  | .cqDoorbell func queue value => Sys2Proof.Machine.execCqDoorbell func queue value s
  | .commandFetch reads => Sys2Proof.Machine.execCommandFetch reads s
  | .accept func queue => Sys2Proof.Machine.execAccept func queue s
  | .payloadRead seq bytes failedAt => Sys2Proof.Machine.execPayloadRead seq bytes failedAt s
  | .journalEntryDurable retries oneCopy => Sys2Proof.Machine.execJournalEntryDurable retries oneCopy s
  | .cqAggTimeout func queue => Sys2Proof.Machine.execCqAggTimeout func queue s
  | .killDrainDone tile => Sys2Proof.Machine.execKillDrainDone tile s
  | .jrnBaseWrite base size => Sys2Proof.Machine.execJrnBaseWrite base size s
  | .adminQueueWrite func which value => Sys2Proof.Machine.execAdminQueueWrite func which value s
  | .fetchEnable func value => Sys2Proof.Machine.execFetchEnable func value s
  | .heartbeat => Sys2Proof.Machine.execHeartbeat s
  | .heartbeatTimeout => Sys2Proof.Machine.execHeartbeatTimeout s
  | .coreErrorReport => Sys2Proof.Machine.execCoreErrorReport s
  | .standbySelfTestDone passed => Sys2Proof.Machine.execStandbySelfTestDone passed s
  | .routeStart => Sys2Proof.Machine.execRouteStart s
  | .selectionDone => Sys2Proof.Machine.execSelectionDone s
  | .count p => Sys2Proof.Machine.execCount p s
  | .ecCandidates p => Sys2Proof.Machine.execEcCandidates p s
  | .ecAssignment p => Sys2Proof.Machine.execEcAssignment p s
  | .listBuildDone => Sys2Proof.Machine.execListBuildDone s
  | .arm p => Sys2Proof.Machine.execArm p s
  | .dispatch p => Sys2Proof.Machine.execDispatch p s
  | .returnRow p => Sys2Proof.Machine.execReturn p s
  | .collData p => Sys2Proof.Machine.execCollData p s
  | .credit p => Sys2Proof.Machine.execCredit p s
  | .desc p => Sys2Proof.Machine.execDesc p s
  | .barrier p => Sys2Proof.Machine.execBarrier p s
  | .abort p => Sys2Proof.Machine.execAbort p s
  | .suspect p => Sys2Proof.Machine.execSuspect p s
  | .reform p => Sys2Proof.Machine.execReform p s
  | .redo p => Sys2Proof.Machine.execRedo p s
  | .groupTimeout group => Sys2Proof.Machine.execGroupTimeout group s
  | .suspectTimerEnd group => Sys2Proof.Machine.execSuspectTimerEnd group s
  | .reformWaitTimeout group => Sys2Proof.Machine.execReformWaitTimeout group s
  | .runClassMapWrite value => Sys2Proof.Machine.execRunClassMapWrite value s
  | .runHalt value => Sys2Proof.Machine.execRunHalt value s
  | .rteHalt engine value => Sys2Proof.Machine.execRteHalt engine value s
  | .pool0Alloc die => Sys2Proof.Machine.execPool0Alloc die s
  | .workItemStart tile errors => Sys2Proof.Machine.execWorkItemStart tile errors s
  | .add tile => Sys2Proof.Machine.execAdd tile s
  | .sub tile => Sys2Proof.Machine.execSub tile s
  | .andS tile => Sys2Proof.Machine.execAnd tile s
  | .orS tile => Sys2Proof.Machine.execOr tile s
  | .xorS tile => Sys2Proof.Machine.execXor tile s
  | .shl tile => Sys2Proof.Machine.execShl tile s
  | .shr tile => Sys2Proof.Machine.execShr tile s
  | .sra tile => Sys2Proof.Machine.execSra tile s
  | .mul tile => Sys2Proof.Machine.execMul tile s
  | .mulhu tile => Sys2Proof.Machine.execMulhu tile s
  | .divu tile => Sys2Proof.Machine.execDivu tile s
  | .remu tile => Sys2Proof.Machine.execRemu tile s
  | .minu tile => Sys2Proof.Machine.execMinu tile s
  | .maxu tile => Sys2Proof.Machine.execMaxu tile s
  | .slt tile => Sys2Proof.Machine.execSlt tile s
  | .sltu tile => Sys2Proof.Machine.execSltu tile s
  | .addi tile => Sys2Proof.Machine.execAddi tile s
  | .andi tile => Sys2Proof.Machine.execAndi tile s
  | .ori tile => Sys2Proof.Machine.execOri tile s
  | .xori tile => Sys2Proof.Machine.execXori tile s
  | .shli tile => Sys2Proof.Machine.execShli tile s
  | .shri tile => Sys2Proof.Machine.execShri tile s
  | .srai tile => Sys2Proof.Machine.execSrai tile s
  | .muli tile => Sys2Proof.Machine.execMuli tile s
  | .li tile => Sys2Proof.Machine.execLi tile s
  | .exti tile => Sys2Proof.Machine.execExti tile s
  | .cdivi tile => Sys2Proof.Machine.execCdivi tile s
  | .ld tile uncorrectable => Sys2Proof.Machine.execLd tile uncorrectable s
  | .st tile => Sys2Proof.Machine.execSt tile s
  | .ldw tile => Sys2Proof.Machine.execLdw tile s
  | .ldwData tile bad => Sys2Proof.Machine.execLdwData tile bad s
  | .jmp tile => Sys2Proof.Machine.execJmp tile s
  | .beq tile => Sys2Proof.Machine.execBeq tile s
  | .bne tile => Sys2Proof.Machine.execBne tile s
  | .bltu tile => Sys2Proof.Machine.execBltu tile s
  | .bgeu tile => Sys2Proof.Machine.execBgeu tile s
  | .loop tile => Sys2Proof.Machine.execLoop tile s
  | .endloop tile => Sys2Proof.Machine.execEndloop tile s
  | .ricNop tile => Sys2Proof.Machine.execRicNop tile s
  | .endKernel tile => Sys2Proof.Machine.execEnd tile s
  | .ewait tile => Sys2Proof.Machine.execEwait tile s
  | .esig tile => Sys2Proof.Machine.execEsig tile s
  | .ricFence tile => Sys2Proof.Machine.execRicFence tile s
  | .trap tile => Sys2Proof.Machine.execTrap tile s
  | .pass tile => Sys2Proof.Machine.execPass tile s
  | .makeup tile => Sys2Proof.Machine.execMakeup tile s
  | .vecAdd tile => Sys2Proof.Machine.execVecAdd tile s
  | .vecSub tile => Sys2Proof.Machine.execVecSub tile s
  | .vecMul tile => Sys2Proof.Machine.execVecMul tile s
  | .fma tile => Sys2Proof.Machine.execFma tile s
  | .scale tile => Sys2Proof.Machine.execScale tile s
  | .vecMin tile => Sys2Proof.Machine.execVecMin tile s
  | .vecMax tile => Sys2Proof.Machine.execVecMax tile s
  | .abs tile => Sys2Proof.Machine.execAbs tile s
  | .neg tile => Sys2Proof.Machine.execNeg tile s
  | .select tile => Sys2Proof.Machine.execSelect tile s
  | .cvt tile => Sys2Proof.Machine.execCvt tile s
  | .div tile => Sys2Proof.Machine.execDiv tile s
  | .sqrt tile => Sys2Proof.Machine.execSqrt tile s
  | .exp tile => Sys2Proof.Machine.execExp tile s
  | .log tile => Sys2Proof.Machine.execLog tile s
  | .rsqrt tile => Sys2Proof.Machine.execRsqrt tile s
  | .sigmoid tile => Sys2Proof.Machine.execSigmoid tile s
  | .tanh tile => Sys2Proof.Machine.execTanh tile s
  | .relu tile => Sys2Proof.Machine.execRelu tile s
  | .relu2 tile => Sys2Proof.Machine.execRelu2 tile s
  | .geluTanh tile => Sys2Proof.Machine.execGeluTanh tile s
  | .silu tile => Sys2Proof.Machine.execSilu tile s
  | .actMul tile => Sys2Proof.Machine.execActMul tile s
  | .rsum tile => Sys2Proof.Machine.execRsum tile s
  | .rsumsq tile => Sys2Proof.Machine.execRsumsq tile s
  | .rdot tile => Sys2Proof.Machine.execRdot tile s
  | .rmax tile => Sys2Proof.Machine.execRmax tile s
  | .rmin tile => Sys2Proof.Machine.execRmin tile s
  | .rargmax tile => Sys2Proof.Machine.execRargmax tile s
  | .rargmin tile => Sys2Proof.Machine.execRargmin tile s
  | .copyIn tile => Sys2Proof.Machine.execCopyIn tile s
  | .copyOut tile => Sys2Proof.Machine.execCopyOut tile s
  | .copy tile => Sys2Proof.Machine.execCopy tile s
  | .fill tile => Sys2Proof.Machine.execFill tile s
  | .eval tile => Sys2Proof.Machine.execEval tile s
  | .engineCmdStart tile engine ecc => Sys2Proof.Machine.execEngineCmdStart tile engine ecc s
  | .engineCmdComplete tile engine => Sys2Proof.Machine.execEngineCmdComplete tile engine s
  | .waitDeadlock tile => Sys2Proof.Machine.execWaitDeadlock tile s
  | .teardownComplete tile => Sys2Proof.Machine.execTeardownComplete tile s
  | .tileHalt tile value => Sys2Proof.Machine.execTileHalt tile value s
  | .tileClockStart tile => Sys2Proof.Machine.execTileClockStart tile s
  | .tileClockStop tile => Sys2Proof.Machine.execTileClockStop tile s
  | .schedule => Sys2Proof.Machine.execSchedule s
  | .lingerExpire ctx stream => Sys2Proof.Machine.execLingerExpire ctx stream s
  | .streamBlockTimeout ctx stream => Sys2Proof.Machine.execStreamBlockTimeout ctx stream s
  | .pinWatchdog ctx stream => Sys2Proof.Machine.execPinWatchdog ctx stream s
  | .pageFetchDone page read => Sys2Proof.Machine.execPageFetchDone page read s
  | .pageMoveDone page kind => Sys2Proof.Machine.execPageMoveDone page kind s
  | .stageDone tile => Sys2Proof.Machine.execStageDone tile s
  | .patrolScrub stack frame result => Sys2Proof.Machine.execPatrolScrub stack frame result s
  | .stackFailure stack => Sys2Proof.Machine.execStackFailure stack s
  | .nandUpkeep action => Sys2Proof.Machine.execNandUpkeep action s
  | .nandChannelFail channel => Sys2Proof.Machine.execNandChannelFail channel s
  | .bar2Read func offset len => Sys2Proof.Machine.execBar2Read func offset len s
  | .bar2Write func offset data => Sys2Proof.Machine.execBar2Write func offset data s
  | .flitReceive port symErrs bytes => Sys2Proof.Machine.execFlitReceive port symErrs bytes s
  | .retryReq port fack => Sys2Proof.Machine.execRetryReq port fack s
  | .portEnable port value => Sys2Proof.Machine.execPortEnable port value s
  | .portFwdEn port value => Sys2Proof.Machine.execPortFwdEn port value s
  | .retrain port value => Sys2Proof.Machine.execRetrain port value s
  | .portTrainingDone port lanes => Sys2Proof.Machine.execPortTrainingDone port lanes s
  | .portStepTimeout port => Sys2Proof.Machine.execPortStepTimeout port s
  | .init port msg => Sys2Proof.Machine.execInit port msg s
  | .laneFail port lane => Sys2Proof.Machine.execLaneFail port lane s
  | .packetInject index => Sys2Proof.Machine.execPacketInject index s
  | .packetForward index => Sys2Proof.Machine.execPacketForward index s
  | .data port bytes => Sys2Proof.Machine.execData port bytes s
  | .ack p => Sys2Proof.Machine.execAck p s
  | .ackSend slice => Sys2Proof.Machine.execAckSend slice s
  | .nack p => Sys2Proof.Machine.execNack p s
  | .notice p => Sys2Proof.Machine.execNotice p s
  | .probe p => Sys2Proof.Machine.execProbe p s
  | .confirm p => Sys2Proof.Machine.execConfirm p s
  | .packetResend dest tc seq => Sys2Proof.Machine.execPacketResend dest tc seq s
  | .flowEntryFree src tc => Sys2Proof.Machine.execFlowEntryFree src tc s
  | .fenceDrainDone => Sys2Proof.Machine.execFenceDrainDone s
  | .quarantineEnd => Sys2Proof.Machine.execQuarantineEnd s
  | .jobAdmitProbeTimer seq => Sys2Proof.Machine.execJobAdmitProbeTimer seq s
  | .jobAdmitTimeout seq => Sys2Proof.Machine.execJobAdmitTimeout seq s
  | .mcastResend seq => Sys2Proof.Machine.execMcastResend seq s
  | .shaperStart slice => Sys2Proof.Machine.execShaperStart slice s
  | .shpBucketCfgWrite func level index value => Sys2Proof.Machine.execShpBucketCfgWrite func level index value s
  | .join msg => Sys2Proof.Machine.execJoin msg s
  | .ready arrived => Sys2Proof.Machine.execReady arrived s
  | .abortJoin arrived => Sys2Proof.Machine.execAbortJoin arrived s
  | .leave arrived => Sys2Proof.Machine.execLeave arrived s
  | .lost arrived => Sys2Proof.Machine.execLost arrived s
  | .getS arrived => Sys2Proof.Machine.execGetS arrived s
  | .getM arrived => Sys2Proof.Machine.execGetM arrived s
  | .putM arrived => Sys2Proof.Machine.execPutM arrived s
  | .inv arrived => Sys2Proof.Machine.execInv arrived s
  | .flaskRecall arrived => Sys2Proof.Machine.execRecall arrived s
  | .flaskData arrived => Sys2Proof.Machine.execFlaskData arrived s
  | .flaskAck arrived => Sys2Proof.Machine.execFlaskAck arrived s
  | .flaskJoinRetry => Sys2Proof.Machine.execFlaskJoinRetry s
  | .flaskJoinTimeout => Sys2Proof.Machine.execFlaskJoinTimeout s
  | .flaskRetry rank tid => Sys2Proof.Machine.execFlaskRetry rank tid s
  | .write arrived => Sys2Proof.Machine.execWrite arrived s
  | .read arrived => Sys2Proof.Machine.execRead arrived s
  | .readData arrived => Sys2Proof.Machine.execReadData arrived s
  | .atomic arrived => Sys2Proof.Machine.execAtomic arrived s
  | .atomicResult arrived => Sys2Proof.Machine.execAtomicResult arrived s
  | .powerSample sample => Sys2Proof.Machine.execPowerSample sample s
  | .criticalLimit reading => Sys2Proof.Machine.execCriticalLimit reading s
  | .criticalHoldEnd => Sys2Proof.Machine.execCriticalHoldEnd s
  | .tripLimit reading => Sys2Proof.Machine.execTripLimit reading s
  | .pllLockLost pll => Sys2Proof.Machine.execPllLockLost pll s
  | .pwrReqStoked func => Sys2Proof.Machine.execPwrReqStoked func s
  | .pwrReqSmoulder func => Sys2Proof.Machine.execPwrReqSmoulder func s
  | .pwrReqBanked func => Sys2Proof.Machine.execPwrReqBanked func s
  | .smoulderIdleTimeout => Sys2Proof.Machine.execSmoulderIdleTimeout s
  | .smoulderEntry => Sys2Proof.Machine.execSmoulderEntry s
  | .wakeComplete => Sys2Proof.Machine.execWakeComplete s
  | .bankedEntered => Sys2Proof.Machine.execBankedEntered s
  | .bankedExit byPerst => Sys2Proof.Machine.execBankedExit byPerst s
  | .rowIdleTimeout row => Sys2Proof.Machine.execRowIdleTimeout row s
  | .rowWakeDone row => Sys2Proof.Machine.execRowWakeDone row s
  | .rePairIdleTimeout pair => Sys2Proof.Machine.execRePairIdleTimeout pair s
  | .rePairWakeDone pair => Sys2Proof.Machine.execRePairWakeDone pair s
  | .mainPowerUp => Sys2Proof.Machine.execMainPowerUp s
  | .mainPowerLoss => Sys2Proof.Machine.execMainPowerLoss s
  | .standbyPowerUp => Sys2Proof.Machine.execStandbyPowerUp s
  | .standbyLoss => Sys2Proof.Machine.execStandbyLoss s
  | .rstCtlWarm func key => Sys2Proof.Machine.execRstCtlWarm func key s
  | .rstCtlModule func key => Sys2Proof.Machine.execRstCtlModule func key s
  | .warmReset frame => Sys2Proof.Machine.execWarmReset frame s
  | .moduleReset frame => Sys2Proof.Machine.execModuleReset frame s
  | .autoWarmTimeout => Sys2Proof.Machine.execAutoWarmTimeout s
  | .perstAssert => Sys2Proof.Machine.execPerstAssert s
  | .pcieLinkDown => Sys2Proof.Machine.execPcieLinkDown s
  | .flr func => Sys2Proof.Machine.execFlr func s
  | .resetComplete test => Sys2Proof.Machine.execResetComplete test s
  | .bringupStepTimeout step unit => Sys2Proof.Machine.execBringupStepTimeout step unit s
  | .vfEnable numVfs => Sys2Proof.Machine.execVfEnable numVfs s
  | .vfDisable => Sys2Proof.Machine.execVfDisable s
  | .d3hotEnter func => Sys2Proof.Machine.execD3hotEnter func s
  | .pmeTurnOff => Sys2Proof.Machine.execPmeTurnOff s
  | .hifFnConfig func fn which value => Sys2Proof.Machine.execHifFnConfig func fn which value s
  | .census frame => Sys2Proof.Machine.execCensus frame s
  | .assign frame => Sys2Proof.Machine.execAssign frame s
  | .ping frame => Sys2Proof.Machine.execPing frame s
  | .status frame => Sys2Proof.Machine.execStatus frame s
  | .regRead frame => Sys2Proof.Machine.execRegRead frame s
  | .regWrite frame => Sys2Proof.Machine.execRegWrite frame s
  | .wake frame => Sys2Proof.Machine.execWake frame s
  | .setPower frame => Sys2Proof.Machine.execSetPower frame s
  | .testMode frame => Sys2Proof.Machine.execTestMode frame s
  | .alertAck frame => Sys2Proof.Machine.execAlertAck frame s
  | .alertRepeat seq => Sys2Proof.Machine.execAlertRepeat seq s
  | .mctp frame => Sys2Proof.Machine.execMctp frame s
  | .frameForward frame => Sys2Proof.Machine.execFrameForward frame s
  | .chainInputLock => Sys2Proof.Machine.execChainInputLock s
  | .chainInputLost => Sys2Proof.Machine.execChainInputLost s
  | .setEndpointId binding src eid => Sys2Proof.Machine.execSetEndpointId binding src eid s
  | .getEndpointId binding src => Sys2Proof.Machine.execGetEndpointId binding src s
  | .getEndpointUuid binding src => Sys2Proof.Machine.execGetEndpointUuid binding src s
  | .getMctpVersionSupport binding src => Sys2Proof.Machine.execGetMctpVersionSupport binding src s
  | .getMessageTypeSupport binding src => Sys2Proof.Machine.execGetMessageTypeSupport binding src s
  | .getVersion binding src => Sys2Proof.Machine.execGetVersion binding src s
  | .getCapabilities binding src version transfer => Sys2Proof.Machine.execGetCapabilities binding src version transfer s
  | .negotiateAlgorithms binding src version common => Sys2Proof.Machine.execNegotiateAlgorithms binding src version common s
  | .getDigests binding src version => Sys2Proof.Machine.execGetDigests binding src version s
  | .getCertificate binding src version slot offset length => Sys2Proof.Machine.execGetCertificate binding src version slot offset length s
  | .challenge binding src version slot => Sys2Proof.Machine.execChallenge binding src version slot s
  | .getMeasurements binding src version index signed => Sys2Proof.Machine.execGetMeasurements binding src version index signed s
  | .chunkGet binding src version handle seq => Sys2Proof.Machine.execChunkGet binding src version handle seq s
  | .engineHang tile => Sys2Proof.Machine.execEngineHang tile s
  | .wakeFail tile => Sys2Proof.Machine.execWakeFail tile s
  | .bondLinkFail tile => Sys2Proof.Machine.execBondLinkFail tile s
  | .spareSelfTest tile passed => Sys2Proof.Machine.execSpareSelfTest tile passed s
  | .reinstate func phys => Sys2Proof.Machine.execReinstate func phys s
  | .retire func logical => Sys2Proof.Machine.execRetire func logical s
  | .repairStoreWrite ok => Sys2Proof.Machine.execRepairStoreWrite ok s
  | .detRecordStart => Sys2Proof.Machine.execDetRecordStart s
  | .detReplayStart => Sys2Proof.Machine.execDetReplayStart s
  | .detRecOff => Sys2Proof.Machine.execDetRecOff s
  | .detRecClear => Sys2Proof.Machine.execDetRecClear s
  | .mark value => Sys2Proof.Machine.execMark value s
  | .detRecAppend index value => Sys2Proof.Machine.execDetRecAppend index value s
  | .replayFeed => Sys2Proof.Machine.execReplayFeed s
  | .pmcCollect func value => Sys2Proof.Machine.execPmcCollect func value s
  | .pmcSnap func busy => Sys2Proof.Machine.execPmcSnap func busy s
  | .pmcEmpty func => Sys2Proof.Machine.execPmcEmpty func s
  | .pmcClear func bank all => Sys2Proof.Machine.execPmcClear func bank all s
  | .pmcSnapshot busy => Sys2Proof.Machine.execPmcSnapshot busy s
  | .prtWrite func offset value => Sys2Proof.Machine.execPrtWrite func offset value s
  | .injectHoldEnd injector => Sys2Proof.Machine.execInjectHoldEnd injector s
  | .rcRead func offset size => Sys2Proof.Machine.execRcRead func offset size s
  | .registerWrite func offset size value => Sys2Proof.Machine.execRegisterWrite func offset size value s
  | .smoulderEntryDone => Sys2Proof.Machine.execSmoulderEntryDone s
  | .powerDownDone domain => Sys2Proof.Machine.execPowerDownDone domain s
  | .dutyIntervalEnd => Sys2Proof.Machine.execDutyIntervalEnd s
  | .hotReset => Sys2Proof.Machine.execHotReset s
  | .dbgRst => Sys2Proof.Machine.execDbgRst s
  | .d3hotExit func => Sys2Proof.Machine.execD3hotExit func s
  | .pcieLinkUp speed width flit => Sys2Proof.Machine.execPcieLinkUp speed width flit s
  | .cplTimeout source => Sys2Proof.Machine.execCplTimeout source s
  | .mctpOverPcieVdm func packet => Sys2Proof.Machine.execMctpOverPcieVdm func packet s
  | .initRepeat port => Sys2Proof.Machine.execInitRepeat port s
  | .flaskLineDrop rank line => Sys2Proof.Machine.execFlaskLineDrop rank line s
  | .commandWorkDone seq failed => Sys2Proof.Machine.execCommandWorkDone seq failed s

end Sys2Proof.Machine
end

