-- ==== Sys2Proof/Machine/Tick.lean ====
section
/-!
DEFINITION. What an ember tick does whatever is commanded: the tick count, the counters of ticks, and the fabric's sending
(R356, R401, R424, R467, R523, R548).
-/
namespace Sys2Proof.Machine

/-- The scheduler's counters of ticks (R356). -/
def contextTick (s : State) : State :=
  let general := s.ctx.slots.filter fun e => e.1 < 60
  let stuck := fun (e : Nat × Nat) =>
    let st := (s.stream (e.2 / 64) (e.2 % 64)).state
    st = .blocked || st = .pinned
  let waits := s.ctx.table.any fun e => e.2.streams.any fun x => x.2.state = .waiting
  let s := if waits && 60 ≤ general.length then count s bankCtx 7 else s
  if 60 ≤ general.length && general.all stuck then count s bankCtx 8 else s

/-- An on-demand fetch waits for a frame (R401). -/
def fetchStarved (s : State) : Bool :=
  s.wsp.moves.any fun m => m.kind = .demand && (placeFetch s m.page false).isNone

/-- The 64-byte reads of a DRAM stack in a tick, where an injector watches them; their number is a free value (R591). -/
def readTick (s : State) : State :=
  if !anyInjector s then s
  else (upFrom 0 24).foldl (fun s st =>
    if (upFrom 0 16).any fun i => watches s i 0xA st 0 then
      let (d, s) := drawFree s
      (injectMany 0xA st (Config.freeWord d st).toNat s).2
    else s) s

/-- One ember tick (R523): without standby power the block does nothing. -/
def emberTick (s : State) : State :=
  if !s.pwr.standbyOn then s
  else
    let s := throttleTick { s with ticks := (s.ticks + 1) % 2 ^ 64 }
    let s := readTick (contextTick s)
    let s := if fetchStarved s then count s bankWsp 15 else s
    fabricTick s

end Sys2Proof.Machine
end

