-- ==== Sys2Proof/WellFormed.lean ====
section
/-!
DEFINITION. Which commands are well formed: each operand within the range that its register, port, queue, tile or message field has
(R16, R182, R250, R320, R405, R524, R553, R565). Operands whose type bounds them need no check.
-/
namespace Sys2Proof

/-- The command's operands are within their ranges. -/
def operandsInRange (i : Instr) : Bool :=
  match i with
  | .nop seq | .sqCreate seq | .sqDelete seq | .cqCreate seq | .cqDelete seq | .cancel seq | .journalFlush seq
  | .journalFetch seq | .ctxCreate seq | .ctxDestroy seq | .streamOpen seq | .streamClose seq | .poolCreate seq
  | .poolQuota seq | .bufFree seq | .poolDestroy seq | .pageMap seq | .pageUnmap seq | .pageWrite seq | .pageRead seq
  | .migrate seq | .pourSet seq | .pourClear seq | .pack24 seq | .shadowBuild seq | .load seq | .unstage seq | .step seq
  | .stepEmpty seq | .expertMask seq | .groupCreate seq | .groupDestroy seq | .collective seq | .epConfig seq
  | .epFence seq | .epEpoch seq | .jobAdmit seq | .mcastSet seq | .mcastClear seq | .mcastSend seq | .flaskJoin seq
  | .flaskLeave seq | .remoteWrite seq | .remoteRead seq | .remoteAtomic seq | .tileTest seq | .bitmapRead seq
  | .jobAdmitProbeTimer seq | .jobAdmitTimeout seq | .mcastResend seq | .alertRepeat seq | .commandWorkDone seq _ =>
    seq < 2 ^ 64
  | .sqDoorbell func queue value | .cqDoorbell func queue value => func ≤ 32 && queue < 1024 && value < 2 ^ 64
  | .commandFetch _ | .heartbeat | .heartbeatTimeout | .coreErrorReport | .standbySelfTestDone _ | .routeStart
  | .selectionDone | .count _ | .ecCandidates _ | .ecAssignment _ | .listBuildDone | .arm _ | .dispatch _ | .returnRow _
  | .collData _ | .credit _ | .desc _ | .barrier _ | .abort _ | .suspect _ | .reform _ | .redo _ | .runHalt _ | .schedule
  | .ack _ | .nack _ | .notice _ | .probe _ | .confirm _ | .fenceDrainDone | .quarantineEnd | .join _ | .ready _
  | .abortJoin _ | .leave _ | .lost _ | .getS _ | .getM _ | .putM _ | .inv _ | .flaskRecall _ | .flaskData _ | .flaskAck _
  | .flaskJoinRetry | .flaskJoinTimeout | .write _ | .read _ | .readData _ | .atomic _ | .atomicResult _ | .powerSample _
  | .criticalLimit _ | .criticalHoldEnd | .tripLimit _ | .smoulderIdleTimeout | .smoulderEntry | .wakeComplete
  | .bankedEntered | .bankedExit _ | .mainPowerUp | .mainPowerLoss | .standbyPowerUp | .standbyLoss | .autoWarmTimeout
  | .perstAssert | .pcieLinkDown | .resetComplete _ | .vfDisable | .pmeTurnOff | .chainInputLock | .chainInputLost
  | .repairStoreWrite _ | .detRecordStart | .detReplayStart | .detRecOff | .detRecClear | .replayFeed | .pmcSnapshot _
  | .smoulderEntryDone | .dutyIntervalEnd | .hotReset | .dbgRst | .cplTimeout _ => true
  | .accept func queue | .cqAggTimeout func queue => func ≤ 32 && queue < 1024
  | .payloadRead seq bytes _ => seq < 2 ^ 64 && bytes.length ≤ 2 ^ 31
  | .journalEntryDurable retries _ => retries < 2 ^ 32
  | .killDrainDone tile | .workItemStart tile _ | .add tile | .sub tile | .andS tile | .orS tile | .xorS tile | .shl tile
  | .shr tile | .sra tile | .mul tile | .mulhu tile | .divu tile | .remu tile | .minu tile | .maxu tile | .slt tile
  | .sltu tile | .addi tile | .andi tile | .ori tile | .xori tile | .shli tile | .shri tile | .srai tile | .muli tile
  | .li tile | .exti tile | .cdivi tile | .ld tile _ | .st tile | .ldw tile | .ldwData tile _ | .jmp tile | .beq tile
  | .bne tile | .bltu tile | .bgeu tile | .loop tile | .endloop tile | .ricNop tile | .endKernel tile | .ewait tile
  | .esig tile | .ricFence tile | .trap tile | .pass tile | .makeup tile | .vecAdd tile | .vecSub tile | .vecMul tile
  | .fma tile | .scale tile | .vecMin tile | .vecMax tile | .abs tile | .neg tile | .select tile | .cvt tile | .div tile
  | .sqrt tile | .exp tile | .log tile | .rsqrt tile | .sigmoid tile | .tanh tile | .relu tile | .relu2 tile
  | .geluTanh tile | .silu tile | .actMul tile | .rsum tile | .rsumsq tile | .rdot tile | .rmax tile | .rmin tile
  | .rargmax tile | .rargmin tile | .copyIn tile | .copyOut tile | .copy tile | .fill tile | .eval tile
  | .waitDeadlock tile | .teardownComplete tile | .tileHalt tile _ | .tileClockStart tile | .tileClockStop tile
  | .stageDone tile | .engineHang tile | .wakeFail tile | .bondLinkFail tile | .spareSelfTest tile _ => tile < 152
  | .jrnBaseWrite base size => base < 2 ^ 16 && size < 32
  | .adminQueueWrite func _ _ | .fetchEnable func _ | .pwrReqStoked func | .pwrReqSmoulder func | .pwrReqBanked func
  | .flr func | .d3hotEnter func | .pmcCollect func _ | .pmcSnap func _ | .pmcEmpty func | .d3hotExit func
  | .mctpOverPcieVdm func _ => func ≤ 32
  | .groupTimeout group | .suspectTimerEnd group | .reformWaitTimeout group => group < 65536
  | .runClassMapWrite value | .mark value => value < 2 ^ 64
  | .rteHalt engine _ => engine < 4
  | .pool0Alloc die => die < 4
  | .engineCmdStart tile engine _ | .engineCmdComplete tile engine => tile < 152 && engine < 4
  | .lingerExpire ctx stream | .streamBlockTimeout ctx stream | .pinWatchdog ctx stream => ctx < 262144 && stream < 64
  | .pageFetchDone page read => page < 2 ^ 27 && read.inRange 128
  | .pageMoveDone page kind => page < 2 ^ 27 && kind.inRange
  | .patrolScrub stack frame result => stack < 24 && frame < 45776 && result.nand.inRange 128
  | .stackFailure stack => stack < 24
  | .nandUpkeep action => action.inRange
  | .nandChannelFail channel => channel < 16
  | .bar2Read func offset len => func ≤ 32 && offset < 2 ^ 36 && 1 ≤ len && len ≤ 4096
  | .bar2Write func offset data => func ≤ 32 && offset < 2 ^ 36 && 1 ≤ data.bytes.length && data.bytes.length ≤ 4096
  | .flitReceive port symErrs bytes => port < 20 && symErrs ≤ 640 && bytes.length = 640
  | .retryReq port fack => port < 20 && fack < 4096
  | .portEnable port _ | .portFwdEn port _ | .retrain port _ | .portStepTimeout port | .init port _ | .initRepeat port =>
    port < 20
  | .portTrainingDone port lanes => port < 20 && lanes < 16
  | .laneFail port lane => port < 20 && lane < 4
  | .packetInject index | .packetForward index => index < 2 ^ 32
  | .data port bytes => port < 20 && bytes.length ≤ 4608
  | .ackSend slice | .shaperStart slice => slice < 4
  | .packetResend dest tc seq => dest < 2 ^ 20 && tc < 8 && seq < 65536
  | .flowEntryFree src tc => src < 2 ^ 20 && tc < 8
  | .shpBucketCfgWrite func _ index value => func ≤ 32 && index < 2 ^ 32 && value < 2 ^ 64
  | .flaskRetry rank tid => rank < 8 && tid < 256
  | .pllLockLost pll => pll < 8
  | .rowIdleTimeout row | .rowWakeDone row => row < 19
  | .rePairIdleTimeout pair | .rePairWakeDone pair => pair < 2
  | .rstCtlWarm func key | .rstCtlModule func key => func ≤ 32 && key < 256
  | .warmReset frame | .moduleReset frame | .census frame | .assign frame | .ping frame | .status frame | .regRead frame
  | .regWrite frame | .wake frame | .setPower frame | .testMode frame | .alertAck frame | .mctp frame
  | .frameForward frame => 12 ≤ frame.length && frame.length ≤ 2059
  | .bringupStepTimeout step unit => 1 ≤ step && step ≤ 7 && unit < 35
  | .vfEnable numVfs => numVfs ≤ 32
  | .hifFnConfig func fn _ value => func ≤ 32 && fn ≤ 32 && value < 2 ^ 64
  | .setEndpointId binding src eid => binding < 2 && src < 256 && eid < 256
  | .getEndpointId binding src | .getEndpointUuid binding src | .getMctpVersionSupport binding src
  | .getMessageTypeSupport binding src | .getVersion binding src => binding < 2 && src < 256
  | .getCapabilities binding src version transfer =>
    binding < 2 && src < 256 && version < 256 && 42 ≤ transfer && transfer < 2 ^ 32
  | .negotiateAlgorithms binding src version _ | .getDigests binding src version =>
    binding < 2 && src < 256 && version < 256
  | .getCertificate binding src version slot offset length =>
    binding < 2 && src < 256 && version < 256 && slot < 8 && offset < 65536 && length < 65536
  | .challenge binding src version slot => binding < 2 && src < 256 && version < 256 && slot < 8
  | .getMeasurements binding src version index _ => binding < 2 && src < 256 && version < 256 && index < 256
  | .chunkGet binding src version handle seq => binding < 2 && src < 256 && version < 256 && handle < 256 && seq < 65536
  | .reinstate func phys => func ≤ 32 && phys < 256
  | .retire func logical => func ≤ 32 && logical < 256
  | .detRecAppend index value => index < 16 && value < 2 ^ 64
  | .pmcClear func bank _ => func ≤ 32 && bank < 216
  | .prtWrite func offset value => func ≤ 32 && offset % 8 = 0 && offset < 2 ^ 20 && value < 2 ^ 64
  | .injectHoldEnd injector => injector < 16
  | .rcRead func offset size => func ≤ 32 && offset.addr < 2 ^ 26 && (size = 4 || size = 8)
  | .registerWrite func offset size value => func ≤ 32 && offset < 2 ^ 26 && (size = 4 || size = 8) && value < 2 ^ 64
  | .powerDownDone domain => domain < 35
  | .pcieLinkUp speed width _ => 1 ≤ speed && speed ≤ 6 && [1, 2, 4, 8, 16].contains width
  | .flaskLineDrop rank line => rank < 8 && line < 2 ^ 28

/-- The command is well formed. -/
abbrev WellFormed (i : Instr) : Prop := operandsInRange i = true

end Sys2Proof
end

