-- ==== Sys2Proof/Safety.lean ====
section
/-!
DEFINITION. The terms in which claims speak: memory in its canonical form, a step that answers, a command about to take effect, a
Stoker standing at a word, and messages that are taken in.
-/
namespace Sys2Proof.Machine

/-- Every byte memory of the module is in its canonical form: DRAM, NAND, and each tile's scratchpad and DMEM. -/
def MemoryCanonical (s : State) : Prop :=
  s.wsp.dram.wf = true ∧ s.wsp.nand.wf = true ∧ ∀ e ∈ s.tiles, e.2.spad.wf = true ∧ e.2.dmem.wf = true

/-- An outcome that is a next state. -/
def Answers (o : Out) : Prop := ∃ t, o = .next t

/-- Open command `seq`, which is `c`, is about to take effect as opcode `op`, and no FAULTED context ends it (R269, R345). -/
def Starts (s : State) (seq op : Nat) (c : OpenCmd) : Prop := takesEffect s seq op = some c ∧ faultedCtx s c = false

/-- The Stoker of tile `t` runs and stands at word `w` of form `form` and operation `op`, with kernel `k` (R229, R236). -/
def AtWord (s : State) (t form op : Nat) (k : Kernel) (w : Nat) : Prop :=
  wordOf s t = some (k, w) ∧ bitsOf w 0 4 = form ∧ bitsOf w 4 8 = op ∧ k.awaiting = false ∧ k.fetchBad 1 = false

/-- The kernel `k` after the word that writes `v` into register `d`: at its next word. -/
def Kernel.wrote (k : Kernel) (d : Nat) (v : Word) : Kernel := (k.setReg d v).next

/-- Wherever a Stoker stands at a scalar word of operation `op`, the row `c` writes `f SRCA SRCB` into DST and moves the Stoker to its
next word; nothing else changes (R237, R238). -/
def ScalarResult (c : Nat → Instr) (op : Nat) (f : Word → Word → Word) : Prop :=
  ∀ (t w : Nat) (k : Kernel) (s : State), AtWord s t 0 op k w →
    exec (c t) s = .next (setKernel s t (k.wrote (bitsOf w 12 5) (f (k.reg (bitsOf w 17 5)) (k.reg (bitsOf w 22 5)))))

/-- Wherever a Stoker stands at an immediate word of operation `op`, the row `c` writes `f SRC IMM` into DST, with IMM sign-extended
from 42 bits, and moves the Stoker to its next word; nothing else changes (R237, R238). -/
def ImmediateResult (c : Nat → Instr) (op : Nat) (f : Word → Word → Word) : Prop :=
  ∀ (t w : Nat) (k : Kernel) (s : State), AtWord s t 1 op k w →
    exec (c t) s = .next (setKernel s t (k.wrote (bitsOf w 12 5)
      (f (k.reg (bitsOf w 17 5)) (BitVec.ofInt 64 (signedOf 42 (bitsOf w 22 42))))))

/-- Wherever a Stoker stands at a branch word of operation `op`, the row `c` takes it to TARGET, and out of the loops it leaves, if `p`
holds of SRCA and SRCB, and else to its next word; no register and nothing else changes (R238, R245). -/
def BranchResult (c : Nat → Instr) (op : Nat) (p : Word → Word → Bool) : Prop :=
  ∀ (t w : Nat) (k : Kernel) (s : State), AtWord s t 3 op k w →
    exec (c t) s = .next (setKernel s t
      (if p (k.reg (bitsOf w 12 5)) (k.reg (bitsOf w 17 5)) = true then k.jump (s.tile t).code (targetOf w) else k.next))

/-- The Stoker of tile `t` stands at a command of an engine and operation whose words and descriptors read, whose queue has room, whose operands resolve, and whose
counts and slots are good (R229, R242, R244, R601). -/
def AtCommand (s : State) (t engine op : Nat) (k : Kernel) (p : Program) (w : Nat) (os : List Opnd) : Prop :=
  wordOf s t = some (k, w) ∧ (s.tile t).program = some p ∧ bitsOf w 0 4 = 4 ∧ (rawCmd p.code k.pc).engine = engine ∧
  (rawCmd p.code k.pc).op = op ∧ k.awaiting = false ∧ ((s.tile t).queue engine).length < queueDepth engine ∧
  pointHeld s 1 t engine = false ∧ allSome ((rawCmd p.code k.pc).ops.map (resolveOp p k (rawCmd p.code k.pc))) = some os ∧
  (engine = 1 → countsDiffer (rawCmd p.code k.pc) os = false) ∧ slotBad s k os = false ∧
  k.fetchBad (1 + (rawCmd p.code k.pc).xwords) = false ∧ ∀ o ∈ (rawCmd p.code k.pc).ops, k.dmemBad (8 * o.agd) 64 = false

/-- At such a command the row `c` puts one command of that engine, operation, item and operands at the end of the engine's queue, and the
Stoker moves past its words; a make-up pass of a skipping binding goes by the CODE index of the pass it makes up (R191, R229). -/
def Issues (c : Nat → Instr) (engine op : Nat) : Prop :=
  ∀ (t w : Nat) (k : Kernel) (p : Program) (os : List Opnd) (s : State), AtCommand s t engine op k p w os →
    ∃ (e : EngCmd) (u : State), e.engine = engine ∧ e.op = op ∧ e.item = k.item ∧ e.opnds = os ∧
      (e.at_ = k.pc ∨ engine = 0 ∧ op = 1 ∧ ∃ b, skipBinding p k.item = some b ∧ (e.at_ = b.predInsn ∨ e.at_ = b.compInsn)) ∧
      (u = s ∨ ∃ q : SkipState, q.item = k.item ∧ e.skip.isSome ∧ u = setSkip s t q) ∧
      exec (c t) s = .next (setKernel ((injectAt u 1 t engine).modTile t fun x => x.setQueue engine (x.queue engine ++ [e])) t
        { k with pc := k.pc + 1 + (rawCmd p.code k.pc).xwords, stall := .none })

/-- A Runner message of a kind is taken in by group `g` (R92, R93). -/
def GroupTakes (s : State) (p : ExPkt) (kind : Nat) (g : Group) : Prop :=
  p.kind = kind ∧ stoked s = true ∧ admitEx (consumeEx s p) p = some g

/-- A FLASK message of an operation comes from member `r` (R445, R450). -/
def FlaskFrom (s : State) (i : RmIn) (op r : Nat) : Prop :=
  i.rm.op = op ∧ epochOk s i.epoch = true ∧ stoked s = true ∧ flaskSender (rmConsume s 2 i) i = some r

/-- A FLASK message that `f` handles: it is consumed, `f` acts for the sending member, and what waited on it goes on. -/
def FlaskActs (c : RmIn → Instr) (op : Nat) (f : RmIn → State → Nat → State) : Prop :=
  ∀ (i : RmIn) (r : Nat) (s : State), FlaskFrom s i op r →
    exec (c i) s = .next (settleWork (leaveAdvance (resumeLines (f i (rmConsume s 2 i) r))))

/-- A REMOTE message of an operation is taken in (R460). -/
def RemoteTakes (s : State) (i : RmIn) (op : Nat) : Prop :=
  i.rm.op = op ∧ epochOk s i.epoch = true ∧ stoked s = true

/-- A control packet of a kind is taken in, and leaves `u`: it is counted, and the arrival that carries it, if one does, has left its input
(R409, R444). -/
def ControlTakes (s : State) (p : XlPkt) (kind : Nat) (u : State) : Prop :=
  p.kind = kind ∧ u = count (match s.fab.input.find? (fun a => a.pkt = p) with
    | some a => leaveArrival s a.port p
    | none => s) bankXrt 1

/-- From `s`, an outcome that is a warm reset of source `source` (R541, R542, R545): every open command, every function's queues and every
group is gone, READY is 0, RST_CAUSE says so, and the fuses are as they were. -/
def WarmReset (s : State) (o : Out) (source : Nat) : Prop :=
  ∃ t, o = .next t ∧ t.pwr.reset = some .warm ∧ flag t Fld.RST_STATUS_READY = false ∧ t.cp.cmds = [] ∧ t.cp.sqs = [] ∧ t.cp.cqs = [] ∧
    t.xch = {} ∧ fld t Fld.RST_CAUSE_KIND = 3 ∧ fld t Fld.RST_CAUSE_SOURCE = source ∧ t.fuses = s.fuses

/-- The row `c` receives each frame of type `type`: one for this module is served, one for another module goes on, and a broadcast one
is executed and goes on, the passes of enumeration also where the module has no address (R554–R559). -/
def ChainRow (c : List Byte → Instr) (type : Nat) : Prop :=
  ∀ (bs : List Byte) (f : ChFrame) (s : State), s.pwr.standbyOn = true → frameGood bs = true → readFrame bs = f → f.type = type →
    f.resp = false →
    (f.dest = ringAddr s → f.dest ≠ 0 → f.dest ≠ 0x7F → exec (c bs) s = .next (chainServe (count s bankMgt 0) f)) ∧
    (f.dest ≠ ringAddr s → f.dest ≠ 0x7F → exec (c bs) s = .next (chainForward (count s bankMgt 0) bs)) ∧
    (f.dest = 0x7F → type = 1 ∨ type = 2 → exec (c bs) s = .next (enumerate (count s bankMgt 0) bs f)) ∧
    (f.dest = 0x7F → type ≠ 1 → type ≠ 2 → ringAddr s ≠ 0 → f.major = 1 →
      exec (c bs) s = .next (chainForward (chainServe (count s bankMgt 0) f) bs))

/-- A requester's SPDM connection whose version is settled, and its algorithms where `algs` (R516). -/
def SpdmReady (s : State) (binding eid version : Nat) (c : SpdmConn) : Prop :=
  spdmConn s binding eid = some c ∧ c.caps = true ∧ c.version = version ∧ c.algs = true

end Sys2Proof.Machine
end

