-- ==== Sys2Proof/Certificates/Slice0/Obligations.lean ====
section
/-!
DEFINITION. The statements for the provers.
-/
open Sys2Proof Sys2Proof.Machine

/-! ## Steps -/

/-- A step with a command at the front of the queue is that command on the state with the queue's rest. The model's own choices it rests
on: log entry 1. -/
def Obligations.StepRunsFrontCommand : Prop :=
  ∀ (c : Instr) (rest : List Instr) (s : State),
    step { s with pending := c :: rest } = exec c { s with pending := rest }

/-- With no command waiting one ember tick passes: the tick count goes up by one (R523), and a module without standby power stands still.
The model's own choices it rests on: log entry 5. -/
def Obligations.IdleStepIsOneTick : Prop :=
  (∀ s : State, s.pending = [] → s.pwr.standbyOn = true → ∃ t, step s = .next t ∧ t.ticks = (s.ticks + 1) % 2 ^ 64) ∧
  (∀ s : State, s.pending = [] → s.pwr.standbyOn = false → step s = .next s)

/-- Every command of the table, on every state and with any operands, answers a next state; so does every step. -/
def Obligations.NoStepStops : Prop :=
  (∀ (c : Instr) (s : State), Answers (exec c s)) ∧ (∀ s : State, Answers (step s))

/-- Every step keeps every byte memory in its canonical form. -/
def Obligations.StepsKeepMemoryCanonical : Prop :=
  ∀ s t : State, MemoryCanonical s → step s = .next t → MemoryCanonical t

/-- Memory has its canonical form at reset. The model's own choices it rests on: log entries 2, 4. -/
def Obligations.ResetMemoryCanonical : Prop :=
  MemoryCanonical State.reset

/-- What reset leaves, where the spec gives the value: 1,024 queues and all 262,144 contexts for the physical function and none for
another (R573); the counts of resets and every error register 0 (R498, R548); a port enabled, not forwarding (R440); the clock's cap, the
count of tries, and the units that are off; nothing open or waiting, and fetch off (R289). The model's own choices it rests on: log
entries 2, 4. -/
def Obligations.ResetValues : Prop :=
  fld State.reset Fld.HIF_FN_Q_QUEUES 0 = 1024 ∧ (∀ f : Nat, 1 ≤ f → f < 33 → fld State.reset Fld.HIF_FN_Q_QUEUES f = 0) ∧
  fld State.reset Fld.HIF_FN_CTX_CTX_COUNT 0 = 262144 ∧ (∀ f : Nat, 1 ≤ f → f < 33 → fld State.reset Fld.HIF_FN_CTX_CTX_COUNT f = 0) ∧
  (∀ i f : Nat, errRegs.all (fun e => raw State.reset e.1 i f = 0) = true) ∧ raw State.reset Reg.RST_COUNT = 0 ∧
  (∀ p : Nat, p < 20 → flag State.reset Fld.FAB_PORT_CTL_ENABLE p = true ∧ flag State.reset Fld.FAB_PORT_CTL_FWD_EN p = false) ∧
  fld State.reset Fld.CLK_CORE_CAP_MHZ = 1800 ∧ fld State.reset Fld.XRT_LIMITS_MAX_TRIES = 8 ∧
  fld State.reset Fld.DET_REC_CTL_MODE = 0 ∧ fld State.reset Fld.PMC_CTL_COLLECT = 0 ∧ fld State.reset Fld.PRT_CTL_ENABLE = 0 ∧
  fld State.reset Fld.MGT_TEST_TEST_MODE = 0 ∧ State.reset.pending = [] ∧ State.reset.cp.cmds = [] ∧ State.reset.xch.steps = [] ∧
  (∀ f : Nat, f < 33 → fld State.reset Fld.CP_CTL_FETCH 0 f = 0)

/-- No step changes the fuses. -/
def Obligations.StepsKeepFuses : Prop :=
  ∀ s t : State, step s = .next t → t.fuses = s.fuses

/-- A command leaves the waiting commands as they are. -/
def Obligations.CommandsKeepTheQueue : Prop :=
  ∀ (c : Instr) (s t : State), exec c s = .next t → t.pending = s.pending

/-- Only loss of standby, and standby coming back, changes the count of ember ticks by a command (R523). The model's own choices it rests
on: log entry 48. -/
def Obligations.OnlyStandbyLossClearsTicks : Prop :=
  ∀ (c : Instr) (s t : State), c ≠ .standbyLoss → c ≠ .standbyPowerUp → exec c s = .next t → t.ticks = s.ticks

/-! ## Numerics -/

/-- R39: which bits of which format are NaN, and a block of scale byte 0xFF is all NaN, dense or packed, whatever its elements' bits; the
value NaN has no payload that a result could carry. -/
def Obligations.NanEncodings : Prop :=
  (∀ fmt b : Nat, fmt < 10 → (decodeElem fmt b = .nan ↔ fmt = fmtE4M3 ∧ b % 2 ^ 7 = 0x7F ∨ fmt = fmtE5M2 ∧ 0x7C < b % 2 ^ 7 ∨
    fmt = fmtBf16 ∧ 0x7F80 < b % 2 ^ 15 ∨ fmt = fmtFp32 ∧ 0x7F800000 < b % 2 ^ 31)) ∧
  (∀ v : Val, scaled 0xFF v = .nan) ∧
  (∀ (fmt real j : Nat) (bs : List Byte), fmt < 6 → j < real → real ≤ 256 → bs[32 * elemBits fmt + j / 32]? = some 0xFF →
    (readSegment fmt real bs)[j]? = some .nan) ∧
  (∀ (fmt real j : Nat) (bs : List Byte) (vs : List Val), fmt < 6 → j < real → real ≤ 256 →
    bs[16 * elemBits fmt + 32 + j / 32]? = some 0xFF → readPacked fmt real bs = some vs → vs[j]? = some .nan) ∧
  (∀ fmt b c : Nat, decodeElem fmt b = .nan → decodeElem fmt c = .nan → decodeElem fmt b = decodeElem fmt c)

/-- R55: what a non-finite addend sets, the integer unchanged; how the flags decide the result before the integer does; and that merging
two accumulators ORs their flags. -/
def Obligations.NonFiniteAddends : Prop :=
  (∀ a : Acc, a.addend .nan = { a with nan := true, count := a.count + 1 }) ∧
  (∀ a : Acc, a.addend (.inf false) = { a with pinf := true, count := a.count + 1 }) ∧
  (∀ a : Acc, a.addend (.inf true) = { a with ninf := true, count := a.count + 1 }) ∧
  (∀ v : Val, Val.mul .nan v = .nan ∧ Val.mul v .nan = .nan ∧ Val.mul (scaled 0xFF v) v = .nan) ∧
  (∀ (s t k : Bool) (u : Int), Val.mul (.inf s) (.num t 0 u k) = .nan ∧ Val.mul (.num t 0 u k) (.inf s) = .nan) ∧
  (∀ (s t k : Bool) (m : Nat) (u : Int), m ≠ 0 → Val.mul (.inf s) (.num t m u k) = .inf (s != t) ∧
    Val.mul (.num t m u k) (.inf s) = .inf (s != t)) ∧
  (∀ s t : Bool, Val.mul (.inf s) (.inf t) = .inf (s != t)) ∧
  (∀ a : Acc, (a.nan = true ∨ a.pinf = true ∧ a.ninf = true) → a.val = .nan) ∧
  (∀ a : Acc, a.nan = false → a.pinf = true → a.ninf = false → a.val = .inf false) ∧
  (∀ a : Acc, a.nan = false → a.pinf = false → a.ninf = true → a.val = .inf true) ∧
  (∀ a : Acc, a.nan = false → a.pinf = false → a.ninf = false → a.val = .ofInt a.value (-300)) ∧
  (∀ a b : Acc, (a.merge b).nan = (a.nan || b.nan) ∧ (a.merge b).pinf = (a.pinf || b.pinf) ∧ (a.merge b).ninf = (a.ninf || b.ninf))

/-- R56: the record of an accumulator, byte by byte; its reserved bits are zero and are not read; and an accumulator read from its record
and merged into another is as if every addend had been added to one. -/
def Obligations.ExactRecords : Prop :=
  (∀ a : Acc, a.bytes.length = 96 ∧ leNat (a.bytes.take 80) = (BitVec.ofInt 640 a.value).toNat ∧
    a.bytes[80]? = some (BitVec.ofNat 8 (b2n a.nan + 2 * b2n a.pinf + 4 * b2n a.ninf)) ∧ (a.bytes.drop 81).take 3 = [0, 0, 0] ∧
    leNat ((a.bytes.drop 84).take 4) = a.count % 2 ^ 32 ∧ a.bytes.drop 88 = List.replicate 8 0) ∧
  (∀ bs cs : List Byte, bs.take 80 = cs.take 80 → (bs.getD 80 0).toNat % 8 = (cs.getD 80 0).toNat % 8 → bs.length = 96 → cs.length = 96 →
    (bs.drop 84).take 4 = (cs.drop 84).take 4 → Acc.ofBytes bs = Acc.ofBytes cs) ∧
  (∀ a : Acc, -(2 ^ 639 : Int) ≤ a.value → a.value < 2 ^ 639 → a.count < 2 ^ 32 → Acc.ofBytes a.bytes = a) ∧
  (∀ (l m : List Val) (a b : Acc), b = m.foldl Acc.addend {} → -(2 ^ 639 : Int) ≤ b.value → b.value < 2 ^ 639 → b.count < 2 ^ 32 →
    (l.foldl Acc.addend a).merge (Acc.ofBytes b.bytes) = (l ++ m).foldl Acc.addend a)

/-- The exact value of a sum does not depend on the order of its addends, nor on how they are grouped into accumulators that are merged
(chapter 2, "Why order does not matter"; R53, R55, R57). The model's own choices it rests on: log entry 131. -/
def Obligations.SumsIgnoreOrder : Prop :=
  (∀ (l m : List Val) (a : Acc), l.Perm m → l.foldl Acc.addend a = m.foldl Acc.addend a) ∧
  (∀ (parts : List (List Val)) (l : List Val), parts.flatten.Perm l →
    (parts.map fun p => p.foldl Acc.addend {}).foldl Acc.merge {} = l.foldl Acc.addend {})

/-- R64: an exact zero is written as +0; a value that rounds to zero keeps its sign in BF16, FP32 and the five floating-point element
formats, and is written as 0 in MXINT8, INT8 and INT32. -/
def Obligations.ZeroResults : Prop :=
  (∀ (woc draw : Nat) (s : Bool) (u : Int), draw < 2 ^ 24 → wocFmt woc ∈ [fmtBf16, fmtFp32, fmtInt8, fmtInt32] →
    encodeElem woc draw (.num s 0 u false) = 0) ∧
  (∀ (fmt woc draw : Nat) (s above : Bool) (u x : Int), fmt < 6 → mxElem fmt woc draw x above (.num s 0 u false) = some 0) ∧
  (∀ (woc draw m : Nat) (s k : Bool) (u : Int), wocFmt woc ∈ [fmtBf16, fmtFp32] → m ≠ 0 →
    roundMag (wocMode woc) s draw (lsbFor (wocFmt woc) m u) m u k = 0 →
    encodeElem woc draw (.num s m u k) = if s then 2 ^ (elemBits (wocFmt woc) - 1) else 0) ∧
  (∀ (fmt woc draw m : Nat) (s above k : Bool) (u x : Int), fmt < 5 → m ≠ 0 →
    roundMag (wocMode woc) s draw (lsbFor fmt m (u - x)) m (u - x) k = 0 →
    mxElem fmt woc draw x above (.num s m u k) = some (if s then 2 ^ (elemBits fmt - 1) else 0)) ∧
  (∀ (woc draw m : Nat) (s above k : Bool) (u x : Int), m ≠ 0 → roundMag (wocMode woc) s draw (-6) m (u - x) k = 0 →
    mxElem fmtMxInt8 woc draw x above (.num s m u k) = some 0) ∧
  (∀ (woc draw m : Nat) (s k : Bool) (u : Int), wocFmt woc ∈ [fmtInt8, fmtInt32] → roundMag (wocMode woc) s draw 0 m u k = 0 →
    encodeElem woc draw (.num s m u k) = 0)

/-! ## Queues, doorbells and the journal -/

/-- SQ_DOORBELL keeps the tail it is given; a write that R254 rules out changes no queue and sets CP_ERR.DOORBELL. A queue number of 1,024
or more names no doorbell (R253). CQ_DOORBELL releases the replies up to its value, gives entries of groups back to their groups, and
serves the refusals that waited for room (R113, R262); one that R254 rules out (no such queue, a value beyond the ring or beyond the
replies posted) changes no queue and sets CP_ERR.DOORBELL. -/
def Obligations.DoorbellsMoveQueues : Prop :=
  (∀ (f q v : Nat) (x : Sq) (s : State), q < 1024 → v < 2 ^ 32 → s.sq f q = some x → v < 2 ^ x.depthLog2 →
    exec (.sqDoorbell f q v) s = .next (s.setSq f q { x with tail := v })) ∧
  (∀ (f q v : Nat) (x : Sq) (s : State), q < 1024 → v < 2 ^ 32 → s.sq f q = some x → 2 ^ x.depthLog2 ≤ v →
    ∃ t, exec (.sqDoorbell f q v) s = .next t ∧ t.cp = s.cp ∧ flag t Fld.CP_ERR_DOORBELL 0 f = true) ∧
  (∀ (f q v : Nat) (s : State), q < 1024 → s.sq f q = none →
    ∃ t, exec (.sqDoorbell f q v) s = .next t ∧ t.cp = s.cp ∧ flag t Fld.CP_ERR_DOORBELL 0 f = true) ∧
  (∀ (f q v : Nat) (c : Cq) (s : State), q < 1024 → v < 2 ^ 32 → s.cq f q = some c → v < 2 ^ c.depthLog2 →
    (v + 2 ^ c.depthLog2 - c.head) % 2 ^ c.depthLog2 ≤ (c.tail + 2 ^ c.depthLog2 - c.head) % 2 ^ c.depthLog2 →
    exec (.cqDoorbell f q v) s = .next (serveRefusals (returnGroupEntries s f q v c) f q)) ∧
  (∀ (f q v : Nat) (c : Cq) (s : State), q < 1024 → v < 2 ^ 32 → s.cq f q = some c → v < 2 ^ c.depthLog2 →
    (v + 2 ^ c.depthLog2 - c.head) % 2 ^ c.depthLog2 ≤ (c.tail + 2 ^ c.depthLog2 - c.head) % 2 ^ c.depthLog2 →
    c.groupSlots = [] → c.noteSlots = [] → s.cp.orphans = [] → (∀ e ∈ s.cp.sqs, e.2.held = none) →
    ∃ t, exec (.cqDoorbell f q v) s = .next t ∧ t.cq f q = some { c with head := v } ∧ t.cp.sqs = s.cp.sqs) ∧
  (∀ (f q v : Nat) (s : State), q < 1024 → s.cq f q = none →
    ∃ t, exec (.cqDoorbell f q v) s = .next t ∧ t.cp = s.cp ∧ flag t Fld.CP_ERR_DOORBELL 0 f = true) ∧
  (∀ (f q v : Nat) (c : Cq) (s : State), q < 1024 → v < 2 ^ 32 → s.cq f q = some c →
    (c.tail + 2 ^ c.depthLog2 - c.head) % 2 ^ c.depthLog2 < (v + 2 ^ c.depthLog2 - c.head) % 2 ^ c.depthLog2 →
    ∃ t, exec (.cqDoorbell f q v) s = .next t ∧ t.cp = s.cp ∧ flag t Fld.CP_ERR_DOORBELL 0 f = true) ∧
  (∀ (f q v : Nat) (c : Cq) (s : State), q < 1024 → v < 2 ^ 32 → s.cq f q = some c → 2 ^ c.depthLog2 ≤ v →
    ∃ t, exec (.cqDoorbell f q v) s = .next t ∧ t.cp = s.cp ∧ flag t Fld.CP_ERR_DOORBELL 0 f = true) ∧
  (∀ (f q v : Nat) (s : State), 1024 ≤ q →
    exec (.sqDoorbell f q v) s = .next s ∧ exec (.cqDoorbell f q v) s = .next s)

/-- A round of COMMAND_FETCH with one read takes the packet, moves on in the ring, and counts it, where its SQ is read (R255). ACCEPT
gives the packet that waits the next sequence number: it becomes an open command, its CQ reserves an entry, and the queue holds it no
longer (R264). A packet read from an SQ that has gone comes first, and is accepted likewise (R279), without an entry where its CQ has gone
too. A COLLECTIVE of its group's function takes an entry that the group holds (R113); and a packet waits while there is no entry or no
space in the journal (R255, R281), or while its group has no room for it (R114). PAYLOAD_READ keeps the copy of a payload, also while its
command still waits to start; CQ_AGG_TIMEOUT fires the vector of unsignalled replies, but not for a stopped CQ; a failed read of host
memory stops the SQ or ends a command that may start, and a failed write of a reply stops the CQ (R256, R257, R265). The model's own
choices it rests on: log entries 9, 10, 11, 67, 93, 119, 154, 155, 158, 189, 223. -/
def Obligations.PacketsBecomeCommands : Prop :=
  (∀ (r : FetchRead) (x : Sq) (s : State), jrnStalled s = false → flushHolds s = false → s.sq r.func r.queue = some x →
    fetching s r.func = true → x.stopped = false → x.held = none → x.next ≠ x.tail →
    exec (.commandFetch [r]) s = .next (noteStall (refuseHeld (injectAt (count (s.setSq r.func r.queue
      { x with held := some (r.packet, x.next), next := (x.next + 1) % 2 ^ x.depthLog2 }) bankCp 0) 0xD r.func)
      r.func r.queue))) ∧
  (∀ (r : FetchRead) (s : State), jrnStalled s = false → fetching s r.func = false → exec (.commandFetch [r]) s = .next s) ∧
  (∀ (rs : List FetchRead) (s : State), jrnStalled s = true →
    ∃ t, exec (.commandFetch rs) s = .next t ∧ t.cp = s.cp ∧ flag t Fld.JRN_ERR_STALLED = true) ∧
  (∀ (rs : List FetchRead) (s : State), jrnStalled s = false → flushHolds s = true → exec (.commandFetch rs) s = .next s) ∧
  (∀ (f q slot : Nat) (x : Sq) (c : Cq) (p : Packet) (s : State), s.sq f q = some x → x.held = some (p, slot) →
    firstOrphan s f q = none → checkPacket s f q p = none → jrnStalled s = false → flushHolds s = false → s.cp.cores.stopped = false → admitCollective s f p = .own →
    s.cq f x.cq = some c → c.freeEntries ≠ 0 →
    exec (.accept f q) s = .next (openCommand ((s.setSq f q { x with held := none }).setCq f x.cq
      { c with reserved := c.reserved + 1 }) f q slot x.cq p false)) ∧
  (∀ (o : Orphan) (c : Cq) (s : State), firstOrphan s o.func o.queue = some o → checkPacket s o.func o.queue o.pkt = none →
    jrnStalled s = false → flushHolds s = false → s.cp.cores.stopped = false → admitCollective s o.func o.pkt = .own →
    s.cq o.func o.cq = some c → c.freeEntries ≠ 0 →
    exec (.accept o.func o.queue) s = .next (detachEntries (openCommand ((dropOrphan s o).setCq o.func o.cq
      { c with reserved := c.reserved + 1 }) o.func o.queue o.slot o.cq o.pkt false) fun e => e.seq = nextSeq s)) ∧
  (∀ (o : Orphan) (s : State), firstOrphan s o.func o.queue = some o → checkPacket s o.func o.queue o.pkt = none →
    jrnStalled s = false → flushHolds s = false → s.cp.cores.stopped = false → admitCollective s o.func o.pkt = .own →
    o.cq = noCq → s.cq o.func o.cq = none →
    exec (.accept o.func o.queue) s = .next (detachEntries (openCommand (dropOrphan s o) o.func o.queue o.slot o.cq o.pkt false)
      fun e => e.seq = nextSeq s)) ∧
  (∀ (f q slot g : Nat) (x : Sq) (p : Packet) (s : State), s.sq f q = some x → x.held = some (p, slot) →
    firstOrphan s f q = none → checkPacket s f q p = none → jrnStalled s = false → flushHolds s = false →
    s.cp.cores.stopped = false → admitCollective s f p = .group g →
    exec (.accept f q) s = .next (openCommand (s.setSq f q { x with held := none }) f q slot g p true)) ∧
  (∀ (f q slot : Nat) (x : Sq) (p : Packet) (s : State), s.sq f q = some x → x.held = some (p, slot) →
    firstOrphan s f q = none → checkPacket s f q p = none →
    (jrnStalled s = true ∨ flushHolds s = true ∨ s.cp.cores.stopped = true ∨ admitCollective s f p = .wait ∨
      admitCollective s f p = .own ∧ (s.cq f x.cq).any (fun c => c.freeEntries = 0) = true) →
    exec (.accept f q) s = .next s) ∧
  (∀ (seq a n : Nat) (bs : List Byte) (c : OpenCmd) (s : State), s.cmd seq = some c → payloadSpec c.pkt = some (a, n) →
    c.phase = .ready → c.payload = none → s.cp.cores.stopped = false → bs.length = payloadLen c.pkt n bs →
    exec (.payloadRead seq bs none) s = .next (loadRead (recordCmd (s.setCmd seq { c with payload := some bs }) seq) seq)) ∧
  (∀ (f q : Nat) (c : Cq) (s : State), s.cq f q = some c → c.unsignalled ≠ 0 →
    exec (.cqAggTimeout f q) s = .next (if c.stopped = true then s else fireVector s f q)) ∧
  (∀ (seq a n at_ : Nat) (bs : List Byte) (c : OpenCmd) (s : State), s.cmd seq = some c → payloadSpec c.pkt = some (a, n) →
    c.phase = .ready → c.payload = none → mayStart s seq c = true → s.cp.cores.stopped = false →
    exec (.payloadRead seq bs (some at_)) s = .next (completeWith s seq stUncorrectable 1 at_) ∧
    exec (.cplTimeout (.payload seq at_)) s = .next (completeWith (setErr (setRaw s Reg.HIF_ERR_INFO 0 0 (c.func + 1 * 2 ^ 8))
      Fld.HIF_ERR_CPL_TIMEOUT) seq stUncorrectable 1 at_)) ∧
  (∀ (f q : Nat) (x : Sq) (s : State), s.sq f q = some x →
    ∃ t, exec (.cplTimeout (.sqEntry f q)) s = .next t ∧ t.sq f q = some { x with stopped := true } ∧
      flag t Fld.HIF_ERR_CPL_TIMEOUT = true) ∧
  (∀ (f q : Nat) (x : Cq) (s : State), s.cq f q = some x →
    ∃ t, exec (.cplTimeout (.cqWrite f q)) s = .next t ∧ t.cq f q = some { x with stopped := true } ∧
      flag t Fld.CP_ERR_CQ_WRITE 0 f = true) ∧
  (∀ (seq at_ : Nat) (c : OpenCmd) (bs : List Byte) (s : State), s.cmd seq = some c → mayStart s seq c = false →
    exec (.payloadRead seq bs (some at_)) s = .next s)

/-- JRN_BASE_WRITE makes the entries durable that are not, and moves and empties the ring, or is ignored whole with JRN_ERR.MOVE_REFUSED
while a command is open or where the new ring would cover a mapped page (R283, R362). ADMIN_QUEUE_WRITE of CP_ASQ starts SQ 0 again while
FETCH is 0, and is ignored while FETCH is 1; FETCH_ENABLE gives FETCH its value (R289). The model's own choices it rests on: log entries
206, 207. -/
def Obligations.JournalAndAdminRegisters : Prop :=
  (∀ (base size : Nat) (s : State), s.cp.cmds = [] → (∀ f < 33, flag s Fld.CP_CTL_FETCH 0 f = false) → 20 ≤ size → size ≤ 30 →
    base < 2 ^ 16 → base * 2 ^ 20 % 2 ^ size = 0 →
    (∀ p ∈ upFrom (base * 2 ^ 20 / 2 ^ 21) (2 ^ (size - 21)), hasK p s.wsp.pages = false) →
    ∃ t, exec (.jrnBaseWrite base size) s = .next t ∧ t.cp.journal.ring = [] ∧ t.cp.journal.pos = 0 ∧
      t.cp.journal.head = (entriesDurable s.cp.journal.notDurable.length s).cp.journal.head ∧ raw t Reg.JRN_BASE = base * 2 ^ 20 + size * 2 ^ 40) ∧
  (∀ (base size : Nat) (s : State),
    s.cp.cmds ≠ [] ∨ base < 2 ^ 16 ∧ hasK (base * 2 ^ 20 / 2 ^ 21) s.wsp.pages = true →
    ∃ t, exec (.jrnBaseWrite base size) s = .next t ∧ t.cp = s.cp ∧ raw t Reg.JRN_BASE = raw s Reg.JRN_BASE ∧
      flag t Fld.JRN_ERR_MOVE_REFUSED = true) ∧
  (∀ (f : Nat) (v : Word) (x : Sq) (s : State), flag s Fld.CP_CTL_FETCH 0 f = false → s.sq f 0 = some x →
    exec (.adminQueueWrite f .asq v) s = .next (restartSq0 (setRaw s Reg.CP_ASQ 0 f (v.toNat - v.toNat % 4096)) f)) ∧
  (∀ (f : Nat) (w : AdminReg) (v : Word) (s : State), flag s Fld.CP_CTL_FETCH 0 f = true →
    exec (.adminQueueWrite f w v) s = .next s) ∧
  (∀ (f : Nat) (b : Bool) (s : State), f ≤ 32 →
    ∃ t, exec (.fetchEnable f b) s = .next t ∧ flag t Fld.CP_CTL_FETCH 0 f = b)

/-- NOP ends with ST_OK (R296); the queue commands pass their preconditions and end with ST_OK, or end with ST_BAD_PARAM and the number of
the precondition (R294, R298). CANCEL answers the old and the new generation of its stream (R299). JOURNAL_FLUSH starts its copy of the
entries up to its own ACCEPT entry; JOURNAL_FETCH sends the entries it names to host memory and answers the image's epoch, or ends with
its first failing precondition (R300, R301). The model's own choices it rests on: log entries 15, 158, 227. -/
def Obligations.AdministrationCommands : Prop :=
  (∀ (seq : Nat) (c : OpenCmd) (s : State), Starts s seq 0x00 c → exec (.nop seq) s = .next (completeWith s seq stOk)) ∧
  (∀ (seq : Nat) (c : OpenCmd) (s : State), Starts s seq 0x02 c →
    exec (.sqCreate seq) s = .next
      (if (s.sq c.func (pktBits c.pkt 32 0 10)).isSome then completeWith s seq stBadParam 1
       else if (s.cq c.func (pktBits c.pkt 34 0 10)).isNone then completeWith s seq stBadParam 2 else completeWith s seq stOk)) ∧
  (∀ (seq : Nat) (c : OpenCmd) (s : State), Starts s seq 0x03 c →
    exec (.sqDelete seq) s = .next
      (if (s.sq c.func (pktBits c.pkt 32 0 10)).isNone then completeWith s seq stBadParam 1 else completeWith s seq stOk)) ∧
  (∀ (seq : Nat) (c : OpenCmd) (s : State), Starts s seq 0x04 c →
    exec (.cqCreate seq) s = .next
      (if (s.cq c.func (pktBits c.pkt 32 0 10)).isSome then completeWith s seq stBadParam 1 else completeWith s seq stOk)) ∧
  (∀ (seq : Nat) (c : OpenCmd) (q : Cq) (s : State), Starts s seq 0x05 c → s.cq c.func (pktBits c.pkt 32 0 10) = some q →
    exec (.cqDelete seq) s = .next
      (if cqBound s c.func (pktBits c.pkt 32 0 10) then completeWith s seq stBadParam 2
       else if q.reserved ≠ 0 ∨ q.groupReserved ≠ 0 then completeWith s seq stBadParam 3 else completeWith s seq stOk)) ∧
  (∀ (seq : Nat) (c : OpenCmd) (x : Ctx) (s : State), Starts s seq 0x08 c → ctxFor s c.func (cancelCtx c.pkt) = some x →
     exec (.cancel seq) s = .next
       (if (s.stream (cancelCtx c.pkt) (cancelStream c.pkt)).state = .closed then completeWith s seq stBadParam 2
        else completeWith s seq stOk 0 ((s.stream (cancelCtx c.pkt) (cancelStream c.pkt)).gen +
          ((s.stream (cancelCtx c.pkt) (cancelStream c.pkt)).gen + 1) % 2 ^ 16 * 2 ^ 16))) ∧
  (∀ (seq : Nat) (c : OpenCmd) (s : State), Starts s seq 0x09 c → exec (.journalFlush seq) s = .next ((startWork s seq).modCmd seq
    fun c => { c with image := s.cp.journal.ring.filter fun e => e.seq ≤ seq })) ∧
  (∀ (seq : Nat) (c : OpenCmd) (s : State), Starts s seq 0x0A c → s.cp.nand.flushEpoch = 0 →
    exec (.journalFetch seq) s = .next (completeWith s seq stBadParam 1)) ∧
  (∀ (seq : Nat) (c : OpenCmd) (s : State), Starts s seq 0x0A c → s.cp.nand.flushEpoch ≠ 0 →
    exec (.journalFetch seq) s = .next
      (if s.cp.nand.image.length < pktBits c.pkt 32 0 32 + pktBits c.pkt 36 0 32 then completeWith s seq stBadParam 2
       else completeWith (send (count s bankNtl 0 (nandUnits (128 * pktBits c.pkt 32 0 32)
         (128 * ((s.cp.nand.image.drop (pktBits c.pkt 32 0 32)).take (pktBits c.pkt 36 0 32)).length))) (.write c.func (pktBits c.pkt 24 0 64)
         (((s.cp.nand.image.drop (pktBits c.pkt 32 0 32)).take (pktBits c.pkt 36 0 32)).flatMap JEntry.bytes))) seq stOk 0
         s.cp.nand.flushEpoch))

/-- The commands on contexts and streams end with ST_OK where their preconditions hold, STREAM_OPEN with the new generation and, where it
names a group, with its return area taken from its pool (R302). The commands on Hopper pools and chains: POOL_CREATE takes its run of
pages and their frames and starts setting its pool up, the others end with ST_OK where their preconditions hold, POOL_QUOTA with its QUOTA
in WORD0, and one that would promise more than the pool holds with ST_NO_FIT (R302, R357). The model's own choices it rests on: log
entries 168, 215. -/
def Obligations.ContextAndPoolCommands : Prop :=
  (∀ (seq : Nat) (c : OpenCmd) (s : State), Starts s seq 0x20 c → s.context (pContext c.pkt) = none →
    ctxDescFails s c.func (ctxDesc (c.payload.getD [])) = none → exec (.ctxCreate seq) s = .next (completeWith s seq stOk)) ∧
  (∀ (seq : Nat) (c : OpenCmd) (x : Ctx) (s : State), Starts s seq 0x21 c → ctxFor s c.func (pContext c.pkt) = some x →
    exec (.ctxDestroy seq) s = .next
      (if x.streams.any fun e => e.2.state != .closed then completeWith s seq stBadParam 2 else completeWith s seq stOk)) ∧
  (∀ (seq : Nat) (c : OpenCmd) (s : State), Starts s seq 0x22 c → streamOpenPre s c = none → pktBits c.pkt 24 0 16 = 0 →
    exec (.streamOpen seq) s = .next
      (completeWith s seq stOk 0 (((s.stream (pContext c.pkt) (pStream c.pkt)).gen + 1) % 2 ^ 16))) ∧
  (∀ (seq : Nat) (c : OpenCmd) (q : Pool) (bufs : List Nat) (s t : State), Starts s seq 0x22 c → streamOpenPre s c = none →
    pktBits c.pkt 24 0 16 ≠ 0 → s.pool (poolKey c.func (pktBits c.pkt 32 0 10)) = some q →
    allocBufs s (poolKey c.func (pktBits c.pkt 32 0 10)) (pContext c.pkt)
      (retAreaBufs (pktBits c.pkt 30 0 2) (pktBits c.pkt 28 0 14) q.bufBytes) = .inr (bufs, t) →
    exec (.streamOpen seq) s = .next
      (completeWith (t.modCmd seq fun c' => { c' with chains := [(poolKey c.func (pktBits c.pkt 32 0 10), bufs)] }) seq stOk 0
        (((s.stream (pContext c.pkt) (pStream c.pkt)).gen + 1) % 2 ^ 16))) ∧
  (∀ (seq : Nat) (c : OpenCmd) (x : Ctx) (s : State), Starts s seq 0x23 c → ctxFor s c.func (pContext c.pkt) = some x →
    exec (.streamClose seq) s = .next
      (if (s.stream (pContext c.pkt) (pStream c.pkt)).state = .closed then completeWith s seq stBadParam 1
       else completeWith s seq stOk)) ∧
  (∀ (seq : Nat) (c : OpenCmd) (s : State), Starts s seq 0x28 c → s.pool (poolKey c.func (pktBits c.pkt 24 0 10)) = none →
    exec (.poolCreate seq) s = .next
      (if (poolRun s c.func (pktBits c.pkt 26 0 2) (pktBits c.pkt 28 0 32) (pktBits c.pkt 32 0 32)).isNone
       then completeWith s seq stNoFit 2 else reservePool (startWork s seq) seq c)) ∧
  (∀ (seq : Nat) (c : OpenCmd) (q : Pool) (s : State), Starts s seq 0x29 c →
    s.pool (poolKey c.func (pktBits c.pkt 24 0 10)) = some q → pktBits c.pkt 28 0 32 ≤ pktBits c.pkt 32 0 32 →
    exec (.poolQuota seq) s = .next
      (if q.count < (q.quotas.map fun e => if e.1 = pContext c.pkt then 0 else e.2.min).foldl (· + ·) 0 + pktBits c.pkt 28 0 32
       then completeWith s seq stNoFit 3 else completeWith s seq stOk 0 (pktBits c.pkt 32 0 32))) ∧
  (∀ (seq : Nat) (c : OpenCmd) (s : State), Starts s seq 0x2A c →
    exec (.bufFree seq) s = .next
      (if (findChain s c.func (pContext c.pkt) (pktBits c.pkt 24 0 64)).isNone then completeWith s seq stBadParam 1
       else completeWith s seq stOk)) ∧
  (∀ (seq : Nat) (c : OpenCmd) (q : Pool) (s : State), Starts s seq 0x2B c →
    s.pool (poolKey c.func (pktBits c.pkt 24 0 10)) = some q →
    exec (.poolDestroy seq) s = .next (if q.links.isEmpty then completeWith s seq stOk else completeWith s seq stBadParam 2))

/-! ## Commands of the host -/

/-- PAGE_MAP, PAGE_UNMAP and MIGRATE: with every precondition of R304 met, PAGE_MAP and PAGE_UNMAP end with ST_OK and MIGRATE queues one
move for each of its pages; what cannot be placed ends with ST_NO_FIT. PAGE_WRITE and PAGE_READ: a page of the range that the function has
not mapped ends them with ST_BAD_PARAM, its number and its address; else their work runs, PAGE_WRITE with its region noted as its
destination (R273, R304). The model's own choices it rests on: log entries 90, 141. -/
def Obligations.PageCommands : Prop :=
  (∀ (seq : Nat) (c : OpenCmd) (s : State), Starts s seq 0x40 c →
    (∀ q ∈ rangePages c.pkt, s.page q = none ∧ heldPage s q = false ∧ inAperture (q * pageBytes) = false ∧
      fnPageOwns s c.func q = true) →
    exec (.pageMap seq) s = .next
      (if pTier c.pkt = 0 ∧ (pReplicated c.pkt = true ∨ pPin c.pkt = true) then completeWith s seq stBadParam 2
       else if mapFits s c.pkt = true then completeWith s seq stOk else completeWith s seq stNoFit 3)) ∧
  (∀ (seq : Nat) (c : OpenCmd) (s : State), Starts s seq 0x41 c →
    (∀ q ∈ rangePages c.pkt, (pageFor s c.func q).isSome ∧
      pageInUse { s with cp := { s.cp with cmds := eraseK seq s.cp.cmds } } q = false) →
    exec (.pageUnmap seq) s = .next (completeWith s seq stOk)) ∧
  (∀ (seq : Nat) (c : OpenCmd) (s : State), Starts s seq 0x44 c → (∀ q ∈ rangePages c.pkt, (pageFor s c.func q).isSome) →
    ¬ (pTier c.pkt = 0 ∧ (pReplicated c.pkt = true ∨ pPin c.pkt = true)) →
    exec (.migrate seq) s = .next
      (if migrateFits s c.pkt = true then
        (rangePages c.pkt).foldl (fun s q => queueMove (s.modPage q fun d => { d with moving := true })
          { kind := .migrate, page := q, tier := pTier c.pkt, seq }) (startWork s seq)
       else completeWith s seq stNoFit 3)) ∧
  (∀ (seq : Nat) (c : OpenCmd) (s : State), Starts s seq 0x42 c →
    (∀ q ∈ plainPages (pktBits c.pkt 32 0 48) (pktBits c.pkt 40 0 32), (pageFor s c.func q).isSome) →
    exec (.pageWrite seq) s = .next ((startWork s seq).modCmd seq fun x =>
      { x with dest := [(pktBits c.pkt 32 0 48, pktBits c.pkt 40 0 32)] })) ∧
  (∀ (seq : Nat) (c : OpenCmd) (s : State), Starts s seq 0x43 c →
    (∀ q ∈ plainPages (pktBits c.pkt 32 0 48) (pktBits c.pkt 40 0 32), (pageFor s c.func q).isSome) →
    exec (.pageRead seq) s = .next (startWork s seq)) ∧
  (∀ (seq q : Nat) (c : OpenCmd) (s : State), Starts s seq 0x43 c →
    (plainPages (pktBits c.pkt 32 0 48) (pktBits c.pkt 40 0 32)).find? (fun q => (pageFor s c.func q).isNone) = some q →
    exec (.pageRead seq) s = .next (completeWith s seq stBadParam 1 (q * pageBytes))) ∧
  (∀ (seq q : Nat) (c : OpenCmd) (s : State), Starts s seq 0x42 c →
    (plainPages (pktBits c.pkt 32 0 48) (pktBits c.pkt 40 0 32)).find? (fun q => (pageFor s c.func q).isNone) = some q →
    exec (.pageWrite seq) s = .next (completeWith s seq stBadParam 1 (q * pageBytes)))

/-- POUR_SET and POUR_CLEAR: a list with a bad entry ends with ST_BAD_PARAM and its index; a good one, and POUR_CLEAR of a model that has
a list, end with ST_OK (R304, R383). PACK24 and SHADOW_BUILD begin their work with their rows as destination, where R306 finds nothing at
fault and no source page is LOST; a LOST source page ends them with ST_UNCORRECTABLE (R305, R306, R394). -/
def Obligations.PourAndPackCommands : Prop :=
  (∀ (seq : Nat) (c : OpenCmd) (s : State), Starts s seq 0x48 c → modelLoaded s (pktBits c.pkt 24 0 16) = true →
    pktBits c.pkt 40 0 32 ≤ 1048576 →
    exec (.pourSet seq) s = .next
      (match pourFirstBad s c.func (pktBits c.pkt 24 0 16) ((pourOf c).map Prod.fst) 0 (pourOf c) with
       | some i => completeWith s seq stBadParam 2 i
       | none => completeWith s seq stOk)) ∧
  (∀ (seq : Nat) (c : OpenCmd) (s : State), Starts s seq 0x48 c → modelLoaded s (pktBits c.pkt 24 0 16) = false →
    exec (.pourSet seq) s = .next (completeWith s seq stBadParam 1)) ∧
  (∀ (seq : Nat) (c : OpenCmd) (s : State), Starts s seq 0x49 c →
    exec (.pourClear seq) s = .next
      (if hasK (pktBits c.pkt 24 0 16) (installedLists s) = true then completeWith s seq stOk else completeWith s seq stBadParam 1)) ∧
  (∀ (seq : Nat) (c : OpenCmd) (s : State), Starts s seq 0x4C c → packPre s c = none → lostSource s c.pkt = none →
    exec (.pack24 seq) s = .next ((startWork s seq).modCmd seq fun x => { x with dest := [pkDest c.pkt] })) ∧
  (∀ (seq : Nat) (c : OpenCmd) (s : State), Starts s seq 0x4D c → packPre s c = none → lostSource s c.pkt = none →
    exec (.shadowBuild seq) s = .next ((startWork s seq).modCmd seq fun x => { x with dest := [pkDest c.pkt] })) ∧
  (∀ (seq q a : Nat) (c : OpenCmd) (s : State), Starts s seq 0x4C c → packPre s c = none → lostSource s c.pkt = some (q, a) →
    exec (.pack24 seq) s = .next (completeWith (meetLost s q) seq stUncorrectable 0 a)) ∧
  (∀ (seq q a : Nat) (c : OpenCmd) (s : State), Starts s seq 0x4D c → packPre s c = none → lostSource s c.pkt = some (q, a) →
    exec (.shadowBuild seq) s = .next (completeWith (meetLost s q) seq stUncorrectable 0 a))

/-- LOAD: an image with a fault ends with that fault's status and reason; a good one holds its tiles while it is placed. UNSTAGE ends with
ST_OK for an image that is staged and active on no tile; TILE_TEST starts on a tile that is not in service (R223, R307, R308, R317). The
model's own choices it rests on: log entries 67, 158. -/
def Obligations.ProgramCommands : Prop :=
  (∀ (seq : Nat) (c : OpenCmd) (f : LoadFault) (s : State), takesEffect s seq 0x60 = some c → loadCheck s c = some f →
    exec (.load seq) s = .next (completeWith s seq f.status f.reason (f.word0.getD f.off) f.need)) ∧
  (∀ (seq : Nat) (c : OpenCmd) (s : State), takesEffect s seq 0x60 = some c → loadCheck s c = none →
    loadBusy s seq (c.payload.getD []) = false →
    exec (.load seq) s = .next (holdTiles (startWork s seq) seq (loadTiles s (c.payload.getD [])))) ∧
  (∀ (seq : Nat) (c : OpenCmd) (s : State), Starts s seq 0x61 c →
    exec (.unstage seq) s = .next
      (if s.tiles.any (fun e => e.2.holds (pktBits c.pkt 36 0 16)) = false then completeWith s seq stBadParam 1
       else if s.tiles.any (fun e => (e.2.bank e.2.active).image = pktBits c.pkt 36 0 16) then completeWith s seq stBankActive 2
       else completeWith s seq stOk)) ∧
  (∀ (seq : Nat) (c : OpenCmd) (s : State), Starts s seq 0xE0 c →
    exec (.tileTest seq) s = .next
      (if roleOf s (pktBits c.pkt 24 0 8) = .inService then completeWith s seq stBadParam 1 else startWork s seq))

/-- EP_CONFIG, EP_FENCE and EP_EPOCH (R316): each ends with ST_OK where its preconditions hold, EP_FENCE when its drain is done. JOB_ADMIT
keeps the job with its start, its time-out and this endpoint's own confirmation, and probes the endpoints of its list (R433). The
multicast commands (R4, R434, R436): a good entry and the clearing of one end with ST_OK, one whose UP is fused off with ST_ENGINE_ABSENT;
MCAST_SEND with its bytes at hand pins its command, takes the next message number and sends the message's packets to the tree. The model's
own choices it rests on: log entries 77, 204, 209, 226. -/
def Obligations.FabricCommands : Prop :=
  (∀ (seq : Nat) (c : OpenCmd) (s : State), Starts s seq 0xC0 c →
    exec (.epConfig seq) s = .next
      (if flag s Fld.XRT_EP_VALID = true ∧ endpointId s ≠ pktBits c.pkt 24 0 20 then completeWith s seq stBadParam 1
       else if flag s Fld.XRT_EP_VALID = true ∧ flag s Fld.XRT_EP_FENCED = false then completeWith s seq stBadParam 2
       else completeWith s seq stOk)) ∧
  (∀ (seq : Nat) (c : OpenCmd) (s : State), Starts s seq 0xC1 c →
    exec (.epFence seq) s = .next
      (if flag s Fld.XRT_EP_VALID = true then settleWork (fenceEndpoint (startWork s seq) seq)
       else completeWith s seq stBadParam 1)) ∧
  (∀ (seq : Nat) (c : OpenCmd) (s : State), Starts s seq 0xC2 c → flag s Fld.XRT_EP_FENCED = true →
    exec (.epEpoch seq) s = .next
      (if flag s Fld.XRT_EP_QUARANTINE = true ∨ flag s Fld.XRT_EP_DRAINING = true then completeWith s seq stBadParam 2
       else if pktBits c.pkt 28 0 16 = curEpoch s then completeWith s seq stBadParam 3 else completeWith s seq stOk)) ∧
  (∀ (seq : Nat) (c : OpenCmd) (s : State), Starts s seq 0xC3 c → listReserved (endpointList (c.payload.getD [])) = false →
     flag s Fld.XRT_EP_VALID = true → endpointId s ∈ endpointList (c.payload.getD []) →
     ∃ a : Admit, a.list = endpointList (c.payload.getD []) ∧ a.start = s.ticks ∧ a.timeoutUs = pktBits c.pkt 36 0 32 ∧
       a.confirmed = (if flag s Fld.XRT_EP_FENCED = true then [] else [endpointId s]) ∧
       exec (.jobAdmit seq) s = .next (admitCheck (sendProbes { startWork s seq with
         fab := { (startWork s seq).fab with admits := insertK seq a (startWork s seq).fab.admits } } a) seq)) ∧
  (∀ (seq : Nat) (c : OpenCmd) (s : State), Starts s seq 0xC8 c →
    exec (.mcastSet seq) s = .next
      (if mcastEntryBad s (pktBits c.pkt 24 0 12) (c.payload.getD []) = true then completeWith s seq stBadParam 1
       else if (mcastEntry (c.payload.getD [])).up < 20 ∧ portFused s (mcastEntry (c.payload.getD [])).up = true
       then completeWith s seq stEngineAbsent else completeWith s seq stOk)) ∧
  (∀ (seq : Nat) (c : OpenCmd) (s : State), Starts s seq 0xC9 c →
    exec (.mcastClear seq) s = .next
      (if (mcastFor s (pktBits c.pkt 24 0 12) (curEpoch s)).isNone = true then completeWith s seq stBadParam 1
       else completeWith s seq stOk)) ∧
  (∀ (seq : Nat) (c : OpenCmd) (e : McastEntry) (bs : List Byte) (s : State), Starts s seq 0xCA c →
    firstUnmapped s c.func (pktBits c.pkt 32 0 48) (pktBits c.pkt 48 0 32) = none →
    mcastFor s (pktBits c.pkt 24 0 12) (curEpoch s) = some e →
    localRead s (pktBits c.pkt 32 0 48) (pktBits c.pkt 48 0 32) = .ok bs →
    ∃ (m : McastOut) (u : State), m.group = pktBits c.pkt 24 0 12 ∧ m.msg = s.fab.mcastNext ∧ m.addr = pktBits c.pkt 40 0 48 ∧
      m.data = bs ∧ m.leaves = e.leaves ∧ m.at_ = s.ticks ∧ u.fab.mcastNext = (s.fab.mcastNext + 1) % 2 ^ 32 ∧
      u.fab.mcastOut = insertK seq m s.fab.mcastOut ∧
      exec (.mcastSend seq) s = .next (m.packets.foldl (fun s p => sendMcastPkt s c.func seq m e none p) u))

/-- The remote commands (R460): REMOTE_WRITE cuts its bytes into packets of at most 4,096 bytes, REMOTE_READ asks for its pieces, and
REMOTE_ATOMIC sends its operands; a command with no transaction ID waits. FLASK_JOIN sends JOIN to the other endpoints of its list, with
the rank that its place in the list gives this module; FLASK_LEAVE begins to leave, and ends with ST_BAD_PARAM outside a flask (R445,
R449). The model's own choices it rests on: log entry 166. -/
def Obligations.RemoteAndFlaskCommands : Prop :=
  (∀ (seq tid : Nat) (c : OpenCmd) (bs : List Byte) (s : State), Starts s seq 0xD4 c → remotePre s c = none →
    freeRemoteTid s (pktBits c.pkt 24 0 20) = some tid →
    localRead s (pktBits c.pkt 40 0 48) (pktBits c.pkt 48 0 32) = .ok bs →
    exec (.remoteWrite seq) s = .next ((remotePieces (pktBits c.pkt 48 0 32)).foldl
      (fun s p => sendRemote s c.func (pktBits c.pkt 24 0 20) false (.remote seq)
        { op := 1, tid, dlen := p.2, addr := pktBits c.pkt 32 0 48 + p.1, data := (bs.drop p.1).take p.2 })
      ((takeTid ((startWork (noteReads s (pktBits c.pkt 40 0 48) (pktBits c.pkt 48 0 32)) seq).modCmd seq fun c => { c with pinned := true }) (pktBits c.pkt 24 0 20) tid seq).setRemote seq
        { dest := pktBits c.pkt 24 0 20, op := 1, laddr := pktBits c.pkt 40 0 48, len := pktBits c.pkt 48 0 32
          unacked := (remotePieces (pktBits c.pkt 48 0 32)).length }))) ∧
  (∀ (seq : Nat) (c : OpenCmd) (s : State), Starts s seq 0xD4 c → remotePre s c = none →
    freeRemoteTid s (pktBits c.pkt 24 0 20) = none → exec (.remoteWrite seq) s = .next s) ∧
  (∀ (seq : Nat) (c : OpenCmd) (s : State), Starts s seq 0xD5 c → remotePre s c = none →
    exec (.remoteRead seq) s = .next (askRemote (((startWork s seq).modCmd seq
      fun x => { x with dest := [(pktBits c.pkt 40 0 48, pktBits c.pkt 48 0 32)] }).setRemote seq
      { dest := pktBits c.pkt 24 0 20, op := 2, laddr := pktBits c.pkt 40 0 48, len := pktBits c.pkt 48 0 32
        rest := (remotePieces (pktBits c.pkt 48 0 32)).map fun p => (pktBits c.pkt 32 0 48 + p.1, p.1, p.2) }) seq c.func 256)) ∧
  (∀ (seq tid : Nat) (c : OpenCmd) (s : State), Starts s seq 0xD6 c → flag s Fld.XRT_EP_VALID = true →
    freeRemoteTid s (pktBits c.pkt 24 0 20) = some tid →
    exec (.remoteAtomic seq) s = .next (sendRemote
      ((takeTid ((startWork s seq).modCmd seq fun c => { c with pinned := true }) (pktBits c.pkt 24 0 20) tid seq).setRemote seq
        { dest := pktBits c.pkt 24 0 20, op := 4, len := 8, wanted := [(tid, (0, 8))] })
      c.func (pktBits c.pkt 24 0 20) false (.remote seq)
      { op := 4, tid, type := pktBits c.pkt 28 2 2, aop := pktBits c.pkt 28 0 2, dlen := 16, addr := pktBits c.pkt 32 0 48
        data := leBytes 8 (pktBits c.pkt 40 0 64) ++ leBytes 8 (pktBits c.pkt 48 0 64) })) ∧
  (∀ (seq : Nat) (c : OpenCmd) (s : State), Starts s seq 0xD0 c → listReserved (endpointList (c.payload.getD [])) = false →
    s.flk.phase = .out → flag s Fld.XRT_EP_VALID = true → endpointId s ∈ endpointList (c.payload.getD []) →
    (endpointList (c.payload.getD [])).eraseDups.length = (endpointList (c.payload.getD [])).length →
    firstUnmapped s c.func (pktBits c.pkt 40 0 48) windowBytes = none →
    ∃ u : State, u.flk.phase = .joining ∧ u.flk.id = pktBits c.pkt 24 0 16 ∧ u.flk.members = endpointList (c.payload.getD []) ∧
      u.flk.members[u.flk.rank]? = some (endpointId s) ∧ u.flk.window = pktBits c.pkt 40 0 48 ∧ u.flk.cmd = some seq ∧
      exec (.flaskJoin seq) s = .next (joinAdvance ((peerRanks u).foldl sendJoin u))) ∧
  (∀ (seq : Nat) (c : OpenCmd) (s : State), Starts s seq 0xD1 c →
    exec (.flaskLeave seq) s = .next
      (if inFlask s = true then leaveAdvance { startWork s seq with
        flk := { (startWork s seq).flk with phase := .leaving, cmd := some seq } }
       else completeWith s seq stBadParam 1))

/-- STEP and STEP_EMPTY (R309–R311): with their descriptors in DRAM and no line of them held by a peer, they begin where their
preconditions are met, and with one that fails they end with its status, its number and its words; else they wait for the pages or ask for
the lines (R390, R454). EXPERT_MASK and BITMAP_READ of a loaded model whose masks no earlier command is changing: the first answers the
version after its changes and their number, the second the version (R312, R318). -/
def Obligations.StepAndMaskCommands : Prop :=
  (∀ (seq : Nat) (c : OpenCmd) (s : State), Starts s seq 0x80 c → absentDescs s c.pkt = [] →
    windowLines s false (descRanges s c.pkt) = [] → stepPre s seq c = none →
    exec (.step seq) s = .next (beginStep s seq c)) ∧
  (∀ (seq : Nat) (c : OpenCmd) (s : State), Starts s seq 0x81 c → absentDescs s c.pkt = [] →
    windowLines s false (descRanges s c.pkt) = [] → stepPre s seq c = none →
    exec (.stepEmpty seq) s = .next (beginStep s seq c)) ∧
  (∀ (seq : Nat) (c : OpenCmd) (f : PreFail) (s : State), Starts s seq 0x80 c → absentDescs s c.pkt = [] →
    windowLines s false (descRanges s c.pkt) = [] → stepPre s seq c = some f →
    exec (.step seq) s = .next (endCmd s seq { status := f.status, detail := f.num, word0 := f.word0, word1 := f.word1 })) ∧
  (∀ (seq : Nat) (c : OpenCmd) (f : PreFail) (s : State), Starts s seq 0x81 c → absentDescs s c.pkt = [] →
    windowLines s false (descRanges s c.pkt) = [] → stepPre s seq c = some f →
    exec (.stepEmpty seq) s = .next (endCmd s seq { status := f.status, detail := f.num, word0 := f.word0, word1 := f.word1 })) ∧
  (∀ (seq : Nat) (c : OpenCmd) (s : State), Starts s seq 0x80 c → absentDescs s c.pkt ≠ [] →
    exec (.step seq) s = .next (waitForPages s (pContext c.pkt) (pStream c.pkt) (absentDescs s c.pkt))) ∧
  (∀ (seq : Nat) (c : OpenCmd) (s : State), Starts s seq 0x81 c → absentDescs s c.pkt ≠ [] →
    exec (.stepEmpty seq) s = .next (waitForPages s (pContext c.pkt) (pStream c.pkt) (absentDescs s c.pkt))) ∧
  (∀ (seq : Nat) (c : OpenCmd) (s : State), Starts s seq 0x80 c → absentDescs s c.pkt = [] →
    windowLines s false (descRanges s c.pkt) ≠ [] →
    exec (.step seq) s = .next (askLines s (windowLines s false (descRanges s c.pkt)))) ∧
  (∀ (seq : Nat) (c : OpenCmd) (s : State), Starts s seq 0x81 c → absentDescs s c.pkt = [] →
    windowLines s false (descRanges s c.pkt) ≠ [] →
    exec (.stepEmpty seq) s = .next (askLines s (windowLines s false (descRanges s c.pkt)))) ∧
  (∀ (seq : Nat) (c : OpenCmd) (s : State), Starts s seq 0x88 c → maskBusy s seq (pktBits c.pkt 24 0 16) = false →
    modelLoaded s (pktBits c.pkt 24 0 16) = true → (∀ e ∈ maskList c, e < 2 ^ 20) →
    exec (.expertMask seq) s = .next (completeWith s seq stOk 0
      ((maskAll (pktBits c.pkt 26 0 2) (lookupD {} (pktBits c.pkt 24 0 16) s.models) (maskList c)).1.maskVer +
        (maskAll (pktBits c.pkt 26 0 2) (lookupD {} (pktBits c.pkt 24 0 16) s.models) (maskList c)).2 * 2 ^ 32))) ∧
  (∀ (seq : Nat) (c : OpenCmd) (s : State), Starts s seq 0xE1 c → maskBusy s seq (pktBits c.pkt 24 0 16) = false →
    exec (.bitmapRead seq) s = .next
      (if modelLoaded s (pktBits c.pkt 24 0 16) = true
       then completeWith s seq stOk 0 (lookupD {} (pktBits c.pkt 24 0 16) s.models).maskVer else completeWith s seq stBadParam 1))

/-- GROUP_CREATE reserves the group's reply entries on its CQ and keeps the group, with the members its list holds, for its commit;
GROUP_DESTROY of a group with nothing open ends with ST_OK (R111–R113, R116, R313). COLLECTIVE begins where its preconditions hold, its
pages are in DRAM and no line of them is held by a peer; a page without a DRAM copy is fetched first, and a peer's line asked for; while
RUN_CTL.HALT is set it waits (R133, R390, R454, R151). The model's own choices it rests on: log entries 90, 141, 221. -/
def Obligations.GroupAndCollectiveCommands : Prop :=
  (∀ (seq : Nat) (c : OpenCmd) (q : Cq) (g : Group) (s : State), Starts s seq 0xA0 c → groupCreatePre s c = none →
    g = { (groupDesc c.func (c.payload.getD [])).2.2 with
      members := memberWords s (groupDesc c.func (c.payload.getD [])).2.1 (groupSize (c.payload.getD [])) } →
    s.cq c.func g.cq = some q →
    ∃ u : State, u.cq c.func g.cq = some { q with groupReserved := q.groupReserved + g.entries } ∧
      lookup seq u.xch.newGroups = some (groupKey g.epoch (groupDesc c.func (c.payload.getD [])).1,
        { g with reserved := g.entries }) ∧
      exec (.groupCreate seq) s = .next (completeWith u seq stOk)) ∧
  (∀ (seq : Nat) (c : OpenCmd) (g : Group) (s : State), Starts s seq 0xA1 c →
    s.groupAt (groupKey (pktBits c.pkt 26 0 16) (pktBits c.pkt 24 0 16)) = some g →
    exec (.groupDestroy seq) s = .next
      (if pktBits c.pkt 26 0 16 = curEpoch s ∧ groupOpen s (pktBits c.pkt 24 0 16) = true then completeWith s seq stBadParam 2
       else completeWith s seq stOk)) ∧
  (∀ (seq : Nat) (c : OpenCmd) (g : Group) (s : State), Starts s seq 0xA8 c → flag s Fld.RUN_CTL_HALT = false →
    collectivePre s c = none → s.group (pktBits c.pkt 24 0 16) = some g →
    (∀ d ∈ collRanges s c.pkt g.members.length, absentPages s d.1 d.2 = []) →
    exec (.collective seq) s = .next
      (if windowLines s false (collRanges s c.pkt g.members.length) = [] then beginColl s seq c g
       else askLines s (windowLines s false (collRanges s c.pkt g.members.length)))) ∧
  (∀ (seq : Nat) (c : OpenCmd) (f : PreFail) (s : State), Starts s seq 0xA8 c → flag s Fld.RUN_CTL_HALT = false →
    collectivePre s c = some f →
    exec (.collective seq) s = .next (completeWith s seq f.status f.num f.word0 f.word1)) ∧
  (∀ (seq : Nat) (s : State), flag s Fld.RUN_CTL_HALT = true → exec (.collective seq) s = .next s) ∧
  (∀ (seq p : Nat) (ps : List Nat) (c : OpenCmd) (g : Group) (s : State), Starts s seq 0xA8 c → flag s Fld.RUN_CTL_HALT = false →
    collectivePre s c = none → s.group (pktBits c.pkt 24 0 16) = some g →
    (collRanges s c.pkt g.members.length).flatMap (fun d => absentPages s d.1 d.2) = p :: ps →
    exec (.collective seq) s = .next ((p :: ps).foldl (fun s p => queueMove s { kind := .demand, page := p, seq }) s))

/-! ## Scheduling, routing and the Runner -/

/-- The scheduler binds the first waiting stream that can have a slot, and its step begins, or pre-empts a held-back slot for it; a lost
record tears the context down (R327, R328, R332, R342). LINGER_EXPIRE and STREAM_BLOCK_TIMEOUT move a stream on (R332, R336), and
PIN_WATCHDOG ends a pinned step with ST_GROUP_REFORMED (R331). The model's own choices it rests on: log entries 100, 123, 152. -/
def Obligations.SchedulerRows : Prop :=
  (∀ (ctx st : Nat) (s t : State), scheduleFirst s (waitingStreams s) = some ((ctx, st), t) → recordLost s t ctx st = none →
    exec .schedule s = .next (if (t.stream ctx st).slot = none then t else startStep t (t.stream ctx st).stepSeq ctx st)) ∧
  (∀ (ctx st q : Nat) (s t : State), scheduleFirst s (waitingStreams s) = some ((ctx, st), t) → recordLost s t ctx st = some q →
    exec .schedule s = .next (stateAreaFault (t.stream ctx st).stepSeq (meetLost t q) ctx)) ∧
  (∀ s : State, scheduleFirst s (waitingStreams s) = none → exec .schedule s = .next s) ∧
  (∀ (ctx st : Nat) (s : State), (s.stream ctx st).state = .lingering →
    exec (.lingerExpire ctx st) s = .next (unbindSlot s ctx st .open)) ∧
  (∀ (ctx st : Nat) (s : State), (s.stream ctx st).state ≠ .lingering → exec (.lingerExpire ctx st) s = .next s) ∧
  (∀ (ctx st : Nat) (s : State), (s.stream ctx st).state = .blocked → flag s Fld.CTX_CTL_EVICT_EN = false →
    exec (.streamBlockTimeout ctx st) s = .next (s.setStream ctx st { s.stream ctx st with evictable := true })) ∧
  (∀ (ctx st : Nat) (s : State), (s.stream ctx st).state ≠ .blocked → exec (.streamBlockTimeout ctx st) s = .next s) ∧
  (∀ (ctx st : Nat) (s : State), (s.stream ctx st).state = .pinned → ctx < 2 ^ 18 → st < 64 →
    (s.cmd (s.stream ctx st).stepSeq).any (fun c => c.phase = .completing) = false → ∃ u : State,
    exec (.pinWatchdog ctx st) s = .next (count (endCmd u (s.stream ctx st).stepSeq
      { status := stGroupReformed, word0 := removedBroken }) bankCtx 9) ∧
    flag u Fld.CTX_ERR_WATCHDOG = true ∧ raw u Reg.CTX_ERR_INFO = ctx + st * 2 ^ 18 + 2 ^ 24)

/-- R93: with MODE 1 every step of the layer runs expert-choice, with MODE 0 none does, and with MODE 2 the layer's mode is automatic: it
is its HOLD_LEFT that decides (R94). -/
def Obligations.ExpertChoiceMode : Prop :=
  ∀ (seq : Nat) (x : LStep) (s : State), routedNow s = none → flag s Fld.RUN_CTL_HALT = false → s.xch.parked.length < 63 →
    nextQueued s = some (seq, x) → rteHalt s x = false → rtePowered s x = true → holdLost s x = none →
    (∀ d ∈ routeRanges x, badPage s x.func d.1 d.2 = none ∧ absentPages s d.1 d.2 = []) → windowLines s false (routeRanges x) = [] →
    ∃ (t : State) (y : LStep), exec .routeStart s = .next t ∧ t.step seq = some y ∧
      (x.route.mode = 1 → y.ec = true ∧ y.auto = false) ∧ (x.route.mode = 0 → y.ec = false ∧ y.auto = false) ∧
      (x.route.mode = 2 → y.auto = true ∧ (y.ec = true ↔ holdLeft s x.ctx x.layer ≠ 0))

/-- ROUTE_START (R29, R80, R93, R105, R106): the engines take the next queued step, unless one that it needs is halted or has no power;
its tokens are scored and selected with the masked and unavailable experts left out. Pages that have no DRAM copy are fetched first, lines
that peers hold are asked for, and a state area that cannot be read tears the context down (R342, R390, R454). While a step is being
routed, or RUN_CTL.HALT is set, nothing starts. SELECTION_DONE (R81, R84, R105): the step leaves the engines. In a group that is broken it
ends with ST_GROUP_REFORMED; after an ABORT that was kept for it, with what that ABORT reports; else its stream is pinned and parked, its
record is taken and goes to every member. LIST_BUILD_DONE (R102, R105, R122): while a step is being routed nothing resumes; a parked step
whose counts are all there and whose receive table cannot be read aborts on every member; one whose tables have no DRAM copy waits for it,
and asks peers for lines of them that they hold (R390, R454). With everything there its data phase begins. The model's own choices it
rests on: log entries 7, 50, 92, 96, 100, 123, 124, 125, 126, 131, 132, 140, 141, 142, 143, 166, 191, 209, 221. -/
def Obligations.RoutingRows : Prop :=
  (∀ (seq : Nat) (x : LStep) (s : State), routedNow s = none → flag s Fld.RUN_CTL_HALT = false → s.xch.parked.length < 63 →
    nextQueued s = some (seq, x) → rteHalt s x = false → rtePowered s x = true → holdLost s x = none →
    (∀ d ∈ routeRanges x, badPage s x.func d.1 d.2 = none ∧ absentPages s d.1 d.2 = []) → windowLines s false (routeRanges x) = [] →
    ∃ (u w : State) (y : LStep), (applyAnnounced s seq x.model).2 = u ∧ y.stage = .scoring ∧ y.n = x.n ∧ y.route = x.route ∧
      y.excluded = (lookupD {} x.model u.models).masked ++ (lookupD {} x.model u.models).unavailable ∧
      y.maskVer = (lookupD {} x.model u.models).maskVer ∧
      w = routeTokens (streamProgress ((routeRanges x).foldl (fun s d => noteReads s d.1 d.2) u) x.ctx x.stream) seq y ∧
      exec .routeStart s = .next { w with xch := { w.xch with routing := some seq } }) ∧
  (∀ (seq : Nat) (s : State), routedNow s = some seq → exec .routeStart s = .next s) ∧
  (∀ s : State, flag s Fld.RUN_CTL_HALT = true → exec .routeStart s = .next s) ∧
  (∀ (seq : Nat) (x : LStep) (s : State), nextQueued s = some (seq, x) → rteHalt s x = true → exec .routeStart s = .next s) ∧
  (∀ (seq q : Nat) (x : LStep) (s : State), routedNow s = none → flag s Fld.RUN_CTL_HALT = false → s.xch.parked.length < 63 →
    nextQueued s = some (seq, x) → rteHalt s x = false → rtePowered s x = true → holdLost s x = some q →
    exec .routeStart s = .next (stateAreaFault seq (meetLost s q) x.ctx)) ∧
  (∀ (seq p : Nat) (ps : List Nat) (x : LStep) (s : State), routedNow s = none → flag s Fld.RUN_CTL_HALT = false →
    s.xch.parked.length < 63 → nextQueued s = some (seq, x) → rteHalt s x = false → rtePowered s x = true → holdLost s x = none →
    (∀ d ∈ routeRanges x, badPage s x.func d.1 d.2 = none) → (routeRanges x).flatMap (fun d => absentPages s d.1 d.2) = p :: ps →
    exec .routeStart s = .next (waitForPages s x.ctx x.stream (p :: ps))) ∧
  (∀ (seq : Nat) (x : LStep) (s : State), routedNow s = none → flag s Fld.RUN_CTL_HALT = false → s.xch.parked.length < 63 →
    nextQueued s = some (seq, x) → rteHalt s x = false → rtePowered s x = true → holdLost s x = none →
    (∀ d ∈ routeRanges x, badPage s x.func d.1 d.2 = none ∧ absentPages s d.1 d.2 = []) → windowLines s false (routeRanges x) ≠ [] →
    exec .routeStart s = .next (askLines s (windowLines s false (routeRanges x)))) ∧
  (∀ (seq : Nat) (x : LStep) (s : State), s.xch.routing = some seq → s.step seq = some x → x.stage = .scoring →
    keptFor { s with xch := { s.xch with routing := none } } x = none → (groupOf s x.group).shut = true →
    exec .selectionDone s = .next (failStep { s with xch := { s.xch with routing := none } } seq
      { status := stGroupReformed, word0 := brokenWord (groupOf s x.group) })) ∧
  (∀ (seq : Nat) (x : LStep) (k : KeptAbort) (s : State), s.xch.routing = some seq → s.step seq = some x → x.stage = .scoring →
    keptFor { s with xch := { s.xch with routing := none } } x = some k →
    exec .selectionDone s = .next (endAborted
      { s with xch := { s.xch with routing := none, aborts := s.xch.aborts.erase k } } seq x k)) ∧
  (∀ (seq : Nat) (x : LStep) (s : State), s.xch.routing = some seq → s.step seq = some x → x.stage = .scoring →
    keptFor { s with xch := { s.xch with routing := none } } x = none → (groupOf s x.group).shut = false →
    lookupD [] x.model s.xch.announce = [] →
    ∃ (u w v : State) (y : LStep), u.xch.routing = none ∧ u.xch.parked = s.xch.parked ++ [seq] ∧ u.step seq = some y ∧
      y.stage = .counting ∧ y.timer = some s.ticks ∧ y.n = x.n ∧
      w = (groupOf s x.group).peers.foldl (fun s m => (fragments (ownRecord u y []).bytes).foldl
        (fun s f => sendStep s y 0 m .runner { kind := 3, frag := f.1, data := f.2 }) s) u ∧
      v = takeRecord w seq (groupOf s x.group).rank (stepHash w y) (ownRecord u y []) ∧
      exec .selectionDone s = .next (let test := fun (p : ExPkt) => p.kind = 3 && p.group = x.group &&
          p.reforms = (groupOf s x.group).reforms && p.mscSeq = x.msc && p.layer = x.layer
        (earlyFor v fun p => test p).1.foldl (fun s p => takeCount s seq p) (earlyFor v fun p => test p).2)) ∧
  (∀ (seq : Nat) (s : State), s.xch.routing = some seq → exec .listBuildDone s = .next s) ∧
  (∀ (seq p : Nat) (x : LStep) (s : State), s.xch.routing = none → resumedNow s = some seq → s.step seq = some x →
    badPlacement s x = none → badPage s x.func x.xchg.recvTable (4 * x.xchg.owned) = some p →
    exec .listBuildDone s = .next (abortUncorrectable s seq x p)) ∧
  (∀ (seq p : Nat) (x : LStep) (ps : List Nat) (s : State), s.xch.routing = none → resumedNow s = some seq → s.step seq = some x →
    badPlacement s x = none → badPage s x.func x.xchg.recvTable (4 * x.xchg.owned) = none →
    absentPages s x.route.placeAddr (8 * x.route.eCount) ++ absentPages s x.xchg.recvTable (4 * x.xchg.owned) = p :: ps →
    exec .listBuildDone s = .next (waitForPages s x.ctx x.stream (p :: ps))) ∧
  (∀ (seq : Nat) (x : LStep) (s : State), s.xch.routing = none → resumedNow s = some seq → s.step seq = some x → x.n = 0 →
    badPlacement s x = none → badPage s x.func x.xchg.recvTable (4 * x.xchg.owned) = none →
    absentPages s x.route.placeAddr (8 * x.route.eCount) ++ absentPages s x.xchg.recvTable (4 * x.xchg.owned) = [] →
    windowLines s false [(x.route.placeAddr, 8 * x.route.eCount), (x.xchg.recvTable, 4 * x.xchg.owned)] = [] →
    regionTaken (drawFree s).2 seq { x with freeDraw := (drawFree s).1 } (ownedOf (drawFree s).2 { x with freeDraw := (drawFree s).1 }) =
      false →
    ∃ (u : State) (y : LStep), u.xch.parked = s.xch.parked.filter (· ≠ seq) ∧ y.stage = .data ∧ y.lists = buildLists y ∧
      y.owned = ownedOf (drawFree s).2 { x with freeDraw := (drawFree s).1 } ∧ u.step seq = some y ∧
      exec .listBuildDone s = .next (maybeCommit (settleWork ((((groupOf s x.group).rank :: x.arms.reverse).foldl
        (fun s r => takeArm s seq r) (sendArms (y.owned.foldl (fetchTagged y) (issueStep (y.owned.foldl (writePadding seq y)
          (writeBuilt (streamProgress u x.ctx x.stream) y)) seq y)) y)))) seq)) ∧
  (∀ (seq q : Nat) (x : LStep) (s : State), s.xch.routing = none → resumedNow s = some seq → s.step seq = some x → badPlacement s x = some q →
    exec .listBuildDone s = .next (abortRouting s seq x q)) ∧
  (∀ (seq : Nat) (x : LStep) (s : State), s.xch.routing = none → resumedNow s = some seq → s.step seq = some x →
    badPlacement s x = none → badPage s x.func x.xchg.recvTable (4 * x.xchg.owned) = none →
    absentPages s x.route.placeAddr (8 * x.route.eCount) ++ absentPages s x.xchg.recvTable (4 * x.xchg.owned) = [] →
    windowLines s false [(x.route.placeAddr, 8 * x.route.eCount), (x.xchg.recvTable, 4 * x.xchg.owned)] ≠ [] →
    exec .listBuildDone s = .next (askLines s
      (windowLines s false [(x.route.placeAddr, 8 * x.route.eCount), (x.xchg.recvTable, 4 * x.xchg.owned)])))

/-- The messages of a layer step that a group takes in: COUNT, EC_CANDIDATES and EC_ASSIGNMENT reach the open step they name, and a COUNT
without one waits for it, but for one of the step that ended last, whose announcements count (R97); a COUNT that no group takes in is
counted and dropped; ARM starts the dispatches to its sender (R85, R90, R118, R122). DISPATCH, RETURN and REDO that a group takes in reach
the open step they name, a RETURN through a staging buffer of its slice (R346); a REDO makes this source send again what it had sent for
the tile it names, in list order, at once where the step has ended and else as rows are sent at ARM (R122, R127, R508). The model's own
choices it rests on: log entries 89, 124, 153, 192, 209, 229. -/
def Obligations.StepMessages : Prop :=
  (∀ (p : ExPkt) (g : Group) (seq : Nat) (x : LStep) (s : State), GroupTakes s p 3 g →
    (noteReceipt (consumeEx s p) p).xch.steps.find? (fun e => e.2.group = p.group && e.2.msc = p.mscSeq && e.2.layer = p.layer &&
      e.2.stage ≠ .queued && e.2.stage ≠ .scoring && e.2.stage ≠ .done) = some (seq, x) →
    exec (.count p) s = .next (takeCount (noteReceipt (consumeEx s p) p) seq p)) ∧
  (∀ (p : ExPkt) (g : Group) (s : State), GroupTakes s p 3 g → (consumeEx s p).xch.steps = [] → takeLate (consumeEx s p) g p = none →
    exec (.count p) s = .next { consumeEx s p with xch := { (consumeEx s p).xch with early := (consumeEx s p).xch.early ++ [p] } }) ∧
  (∀ (p : ExPkt) (g : Group) (s t : State), GroupTakes s p 3 g → (consumeEx s p).xch.steps = [] → takeLate (consumeEx s p) g p = some t →
    exec (.count p) s = .next t) ∧
  (∀ (p : ExPkt) (g : Group) (seq : Nat) (x : LStep) (bs : List Byte) (s : State), GroupTakes s p 4 g →
    stepFor (noteReceipt (consumeEx s p) p) p.group p.mscSeq p.layer = some (seq, x) → x.stage = .choosing →
    assembled (assemble (lookupD ([], []) p.srcRank x.candParts) p.frag p.data) = some bs →
    exec (.ecCandidates p) s = .next (takeCands ((noteReceipt (consumeEx s p) p).setStep seq { x with
      candParts := insertK p.srcRank (assemble (lookupD ([], []) p.srcRank x.candParts) p.frag p.data) x.candParts }) seq p.srcRank bs)) ∧
  (∀ (p : ExPkt) (g : Group) (seq : Nat) (x : LStep) (bs : List Byte) (s : State), GroupTakes s p 4 g →
    stepFor (noteReceipt (consumeEx s p) p) p.group p.mscSeq p.layer = some (seq, x) → x.stage = .choosing →
    assembled (assemble (lookupD ([], []) p.srcRank x.assignParts) p.frag p.data) = some bs →
    exec (.ecAssignment p) s = .next (takeAssign ((noteReceipt (consumeEx s p) p).setStep seq { x with
      assignParts := insertK p.srcRank (assemble (lookupD ([], []) p.srcRank x.assignParts) p.frag p.data) x.assignParts }) seq p.srcRank bs)) ∧
  (∀ (p : ExPkt) (g : Group) (seq : Nat) (x : LStep) (s : State), GroupTakes s p 10 g →
    stepFor (noteReceipt (consumeEx s p) p) p.group p.mscSeq p.layer = some (seq, x) →
    exec (.arm p) s = .next (takeArm (noteReceipt (consumeEx s p) p) seq p.srcRank)) ∧
  (∀ (p : ExPkt) (s : State), p.kind = 3 → stoked s = true → admitEx (consumeEx s p) p = none →
    exec (.count p) s = .next (count (consumeEx s p) (bankRun (sliceOf s p)) 12)) ∧
  (∀ (p : ExPkt) (g : Group) (seq : Nat) (x : LStep) (s : State), GroupTakes s p 1 g →
    stepFor (noteReceipt (consumeEx s p) p) p.group p.mscSeq p.layer = some (seq, x) → x.stage = .data →
    exec (.dispatch p) s = .next (settleWork (bringDispatch (noteReceipt (consumeEx s p) p) (ownerSlice (noteReceipt (consumeEx s p) p) p.destTile) p))) ∧
  (∀ (p : ExPkt) (g : Group) (s : State), GroupTakes s p 1 g → stepFor (consumeEx s p) p.group p.mscSeq p.layer = none →
    exec (.dispatch p) s = .next (consumeEx s p)) ∧
  (∀ (p : ExPkt) (g : Group) (b : Nat) (s u : State), GroupTakes s p 2 g → stageBuf s (sliceOf s p) = (some b, u) →
    exec (.returnRow p) s = .next (settleWork (pool0Give (takeReturn (noteReceipt (consumeEx u p) p) p (sliceOf s p)) (sliceOf s p) b))) ∧
  (∀ (p : ExPkt) (g : Group) (seq : Nat) (x : LStep) (s : State), GroupTakes s p 12 g →
    stepFor (count (noteReceipt (consumeEx s p) p) bankRas 4) p.group p.mscSeq p.layer = some (seq, x) →
    exec (.redo p) s = .next (resendRows (count (noteReceipt (consumeEx s p) p) bankRas 4) seq p.srcRank p.destTile)) ∧
  (∀ (seq rank tile : Nat) (x : LStep) (s : State), s.step seq = some x → x.stage = .done →
    resendRows s seq rank tile = (sortBy dispatchBefore (x.choices.filter fun c => c.sent && !c.spill && c.destTile = tile &&
      c.destEp = (groupOf s x.group).endpoint rank)).foldl (fun s c => dispatchOne s seq c) s) ∧
  (∀ (p : ExPkt) (g : Group) (s u : State), GroupTakes s p 2 g → stageBuf s (sliceOf s p) = (none, u) →
    exec (.returnRow p) s = .next u)

/-- The messages of collectives that a group takes in are routed to the collective they name (R133–R136, R139–R142), and an ABORT is taken
in as R137 says. Re-formation (R143–R146): a SUSPECT adds its sender and the ranks it names, and starts the second timer where none runs;
a REFORM with a new count gives the group its new members, one with the same count and other ranks breaks it; the group's timer names the
ranks whose part is missing; the coordinator's second timer removes the missing and the silent; and a member whose suspicion nobody
answers leaves the group. RUN_CLASS_MAP takes a map of five different virtual channels and refuses any other (R150, R151); RUN_HALT and
RTE_HALT write the HALT bit of the Runner and of one routing engine, and nothing else, but that the stream in stage 4 keeps the engines to
its end (R106, R151). POOL0_ALLOC gives the first waiting command of its die a buffer of the die's pool 0, and a die without a waiting
command, or without a free buffer, gives none (R348, R355). The model's own choices it rests on: log entries 90, 96, 126, 143, 151. -/
def Obligations.CollectiveMessages : Prop :=
  (∀ (p : ExPkt) (g : Group) (s : State), GroupTakes s p 4 g → exec (.collData p) s = .next (routeColl (consumeEx s p) g p)) ∧
  (∀ (p : ExPkt) (g : Group) (s : State), GroupTakes s p 7 g → exec (.credit p) s = .next (routeColl (consumeEx s p) g p)) ∧
  (∀ (p : ExPkt) (g : Group) (s : State), GroupTakes s p 9 g → exec (.desc p) s = .next (routeColl (consumeEx s p) g p)) ∧
  (∀ (p : ExPkt) (g : Group) (s : State), GroupTakes s p 8 g → exec (.barrier p) s = .next (routeColl (consumeEx s p) g p)) ∧
  (∀ (p : ExPkt) (g : Group) (s : State), GroupTakes s p 5 g → exec (.abort p) s = .next (takeAbort (consumeEx s p) g p)) ∧
  (∀ (p : ExPkt) (g : Group) (s : State), GroupTakes s p 11 g →
    exec (.suspect p) s = .next ((consumeEx s p).modGroup p.group fun g =>
      { g with suspects := if g.suspects.contains p.srcRank then g.suspects else p.srcRank :: g.suspects
               missing := (g.missing ++ maskRanks g.members.length p.data).eraseDups
               second := match g.second with | some t => some t | none => some s.ticks })) ∧
  (∀ (p : ExPkt) (g : Group) (s : State), GroupTakes s p 6 g → p.reforms ≠ g.reforms → g.removed = false →
    exec (.reform p) s = .next (adoptReform (consumeEx s p) p.group g (maskRanks g.members.length p.data))) ∧
  (∀ (p : ExPkt) (g : Group) (r : List Nat) (s : State), GroupTakes s p 6 g → p.reforms = g.reforms → g.lastRemoved = some r →
    rankMask (g.members.length + r.length) r ≠ p.data.take (ceilDiv (g.members.length + r.length) 8) →
    exec (.reform p) s = .next (setBroken (consumeEx s p) p.group (r.foldl min 2047))) ∧
  (∀ (gid : Nat) (g : Group) (s : State), s.group gid = some g → g.removed = false → g.suspected = none →
    groupTiming s gid = true → coordinatorOf g (groupMissing s gid g) = g.rank →
    exec (.groupTimeout gid) s = .next ((runErr s Fld.RUN_ERR_TIMEOUT gid ((groupMissing s gid g).foldl min 2047) 0).modGroup gid
      fun h => { h with
        suspected := some s.ticks, second := some s.ticks
        suspects := if coordinatorOf g (groupMissing s gid g) = h.rank then h.rank :: h.suspects else h.suspects
        missing := if coordinatorOf g (groupMissing s gid g) = h.rank then (h.missing ++ groupMissing s gid g).eraseDups
          else h.missing })) ∧
  (∀ (gid t : Nat) (g : Group) (s : State), s.group gid = some g → g.second = some t → g.removed = true →
    exec (.suspectTimerEnd gid) s = .next (s.modGroup gid fun g => { g with second := none })) ∧
  (∀ (gid t : Nat) (g : Group) (s : State), s.group gid = some g → g.second = some t → g.removed = false → g.suspects ≠ [] →
    ∃ removed : List Nat, removed = (upFrom 0 g.members.length).filter
        (fun r => g.missing.contains r || (r ≠ g.rank && !g.suspects.contains r)) ∧
      exec (.suspectTimerEnd gid) s = .next (adoptReform (g.peers.foldl (fun s m => sendEx s g.func 0 (g.endpoint m) .runner
        { kind := 6, group := gid, reforms := (g.reforms + 1) % 2 ^ 16, srcRank := g.rank
          data := rankMask g.members.length removed }) (s.modGroup gid fun g => { g with second := none })) gid g removed)) ∧
  (∀ (gid : Nat) (g : Group) (s : State), s.group gid = some g → g.suspected.isSome = true → g.removed = false →
    g.rank ∉ g.suspects →
    exec (.reformWaitTimeout gid) s = .next (runErr ((endGroupWork s gid true { status := stGroupReformed, word0 := removedBroken }).modGroup
      gid fun g => { g with removed := true, broken := true, suspected := none, second := none }) Fld.RUN_ERR_BROKEN gid g.rank 0)) ∧
  (∀ (v : Nat) (s : State), [bitsOf v 0 3, bitsOf v 4 3, bitsOf v 8 3, bitsOf v 12 3, bitsOf v 16 3].Nodup →
    ∃ t, exec (.runClassMapWrite v) s = .next t ∧
      raw t Reg.RUN_CLASS_MAP = bitsOf v 0 3 + bitsOf v 4 3 * 2 ^ 4 + bitsOf v 8 3 * 2 ^ 8 + bitsOf v 12 3 * 2 ^ 12 +
        bitsOf v 16 3 * 2 ^ 16) ∧
  (∀ (v : Nat) (s : State), ¬ [bitsOf v 0 3, bitsOf v 4 3, bitsOf v 8 3, bitsOf v 12 3, bitsOf v 16 3].Nodup →
    ∃ t, exec (.runClassMapWrite v) s = .next t ∧ flag t Fld.RUN_ERR_MAP_REFUSED = true ∧
      raw t Reg.RUN_CLASS_MAP = raw s Reg.RUN_CLASS_MAP) ∧
  (∀ (b : Bool) (s : State), ∃ t, exec (.runHalt b) s = .next t ∧ flag t Fld.RUN_CTL_HALT = b ∧ { t with regs := s.regs } = s) ∧
  (∀ (n : Nat) (b : Bool) (s : State), n < 4 →
    ∃ t, exec (.rteHalt n b) s = .next t ∧ flag t Fld.RTE_CTL_HALT n = b ∧
      t.xch = { s.xch with stage4 := if s.xch.routing.isSome = true then s.xch.stage4 else resumedNow s } ∧
      { t with regs := s.regs, xch := s.xch } = s) ∧
  (∀ (die seq : Nat) (bufs : List Nat) (p : Pool) (s : State), s.hop.waiting.find? (fun w => w.1 = die) = some (die, seq) →
    (pool0Of s die).request 0 1 = .inr (bufs, p) →
    ∃ t, exec (.pool0Alloc die) s = .next t ∧ t.hop.pool0 = insertK die p s.hop.pool0 ∧
      t.hop.waiting = s.hop.waiting.erase (die, seq) ∧
      t.hop.pool0Given = s.hop.pool0Given ++ [(seq, die * 4096 + bufs.headD 0)] ∧ t.regs = s.regs ∧ t.wsp = s.wsp) ∧
  (∀ (die : Nat) (s : State), s.hop.waiting.find? (fun w => w.1 = die) = none → exec (.pool0Alloc die) s = .next s) ∧
  (∀ (die : Nat) (w : Nat × Nat) (e : AllocFail) (s : State), s.hop.waiting.find? (fun w => w.1 = die) = some w →
    (pool0Of s die).request 0 1 = .inl e → exec (.pool0Alloc die) s = .next s)

/-! ## Tiles -/

/-- Register s0 reads zero and ignores writes; a write of another register changes that register alone (R224). -/
def Obligations.RegisterZeroReadsZero : Prop :=
  (∀ (k : Kernel) (v : Word), k.reg 0 = 0 ∧ k.setReg 0 v = k) ∧
  (∀ (k : Kernel) (i : Nat) (v : Word), i ≠ 0 → (k.setReg i v).reg i = v) ∧
  (∀ (k : Kernel) (i j : Nat) (v : Word), i ≠ j → (k.setReg i v).reg j = k.reg j)

/-- The scalar words of R238: DST becomes the result of the operation on SRCA and SRCB, and the Stoker moves to its next word. The
immediate words of R238: DST becomes the result of the operation on SRC and the sign-extended IMM, and the Stoker moves to its next word.
-/
def Obligations.ScalarAndImmediateWords : Prop :=
  ScalarResult .add 0x00 (fun a b => a + b) ∧ ScalarResult .sub 0x01 (fun a b => a - b) ∧
  ScalarResult .andS 0x02 (fun a b => a &&& b) ∧ ScalarResult .orS 0x03 (fun a b => a ||| b) ∧
  ScalarResult .xorS 0x04 (fun a b => a ^^^ b) ∧
  ScalarResult .shl 0x05 (fun a b => a <<< (b.toNat % 64)) ∧ ScalarResult .shr 0x06 (fun a b => a >>> (b.toNat % 64)) ∧
  ScalarResult .sra 0x07 (fun a b => a.sshiftRight (b.toNat % 64)) ∧
  ScalarResult .mul 0x08 (fun a b => a * b) ∧
  ScalarResult .mulhu 0x09 (fun a b => BitVec.ofNat 64 (a.toNat * b.toNat / 2 ^ 64)) ∧
  ScalarResult .divu 0x0A (fun a b => if b = 0 then BitVec.allOnes 64 else BitVec.ofNat 64 (a.toNat / b.toNat)) ∧
  ScalarResult .remu 0x0B (fun a b => if b = 0 then a else BitVec.ofNat 64 (a.toNat % b.toNat)) ∧
  ScalarResult .minu 0x0C (fun a b => if a.toNat < b.toNat then a else b) ∧
  ScalarResult .maxu 0x0D (fun a b => if a.toNat < b.toNat then b else a) ∧
  ScalarResult .slt 0x0E (fun a b => if a.toInt < b.toInt then 1 else 0) ∧
  ScalarResult .sltu 0x0F (fun a b => if a.toNat < b.toNat then 1 else 0) ∧
  ImmediateResult .addi 0x00 (fun a b => a + b) ∧ ImmediateResult .andi 0x02 (fun a b => a &&& b) ∧
  ImmediateResult .ori 0x03 (fun a b => a ||| b) ∧ ImmediateResult .xori 0x04 (fun a b => a ^^^ b) ∧
  ImmediateResult .shli 0x05 (fun a b => a <<< (b.toNat % 64)) ∧ ImmediateResult .shri 0x06 (fun a b => a >>> (b.toNat % 64)) ∧
  ImmediateResult .srai 0x07 (fun a b => a.sshiftRight (b.toNat % 64)) ∧
  ImmediateResult .muli 0x08 (fun a b => a * b) ∧ ImmediateResult .li 0x10 (fun _ b => b) ∧
  ImmediateResult .exti 0x11 (fun a b => BitVec.ofNat 64 (a.toNat / 2 ^ (b.toNat % 64) % 2 ^ (b.toNat / 64 % 128))) ∧
  ImmediateResult .cdivi 0x12 (fun a b => BitVec.ofNat 64 (ceilDiv a.toNat b.toNat))

/-- LD and ST (R225, R236, R238, R247): a good access reads or writes eight bytes of DMEM; one that is out of range, or a load that is not
aligned to 8 bytes, raises MEM_RANGE, a store into the constant area DMEM_RO, a DMEM word read with an uncorrectable error DMEM_UNCORR,
and a word of the bank fetched with one IBANK_UNCORR. A store leaves every byte outside its eight as it was. LDW asks for eight bytes of
weight space and stalls its Stoker, and LDW_DATA writes them into the register; a bad address raises MEM_RANGE; an uncorrectable copy is
recovered from another, and where none is good the page is LOST and the read ends as R394 says; a peer's line that cannot be read raises
BOND_UNCORR (R238, R247, R392). The model's own choices it rests on: log entries 3, 90, 136, 141, 166, 209, 219. -/
def Obligations.MemoryWords : Prop :=
  (∀ (t w : Nat) (k : Kernel) (s : State), AtWord s t 2 0x00 k w → memAddr k w % 8 = 0 → memAddr k w < 0x10000 →
    k.dmemBad (memAddr k w) 8 = false → exec (.ld t false) s = .next (setKernel s t (k.wrote (bitsOf w 12 5)
      (BitVec.ofNat 64 ((s.tile t).dmemWord (memAddr k w)))))) ∧
  (∀ (t w : Nat) (k : Kernel) (s : State), AtWord s t 2 0x00 k w → memAddr k w % 8 = 0 → memAddr k w < 0x10000 →
    exec (.ld t true) s = .next (stokerFault s t k.item 1 0)) ∧
  (∀ (t w : Nat) (b : Bool) (k : Kernel) (s : State), AtWord s t 2 0x00 k w → memAddr k w % 8 = 0 → memAddr k w < 0x10000 →
    k.dmemBad (memAddr k w) 8 = true → exec (.ld t b) s = .next (stokerFault s t k.item 1 0)) ∧
  (∀ (t w : Nat) (b : Bool) (k : Kernel) (s : State), AtWord s t 2 0x00 k w → memAddr k w % 8 ≠ 0 ∨ 0x10000 ≤ memAddr k w →
    exec (.ld t b) s = .next (stokerFault s t k.item 2 0)) ∧
  (∀ (t w : Nat) (k : Kernel) (s : State), AtWord s t 2 0x01 k w → 0xC000 ≤ memAddr k w → memAddr k w ≤ 0xFFF8 → k.badDmem = none →
    exec (.st t) s = .next ((setKernel s t k.next).modTile t fun x =>
      { x with dmem := writeBytes (memAddr k w) (leBytes 8 (k.reg (bitsOf w 12 5)).toNat) x.dmem })) ∧
  (∀ (t w : Nat) (k : Kernel) (s : State), AtWord s t 2 0x01 k w → memAddr k w < 0xC000 →
    exec (.st t) s = .next (stokerFault s t k.item 3 0)) ∧
  (∀ (t w : Nat) (k : Kernel) (s : State), AtWord s t 2 0x01 k w → 0x10000 ≤ memAddr k w → exec (.st t) s = .next (stokerFault s t k.item 2 0)) ∧
  (∀ (t w : Nat) (k : Kernel) (s : State), wordOf s t = some (k, w) → k.awaiting = false → k.fetchBad 1 = true → bitsOf w 0 4 = 2 →
    (bitsOf w 4 8 = 0 → ∀ b, exec (.ld t b) s = .next (stokerFault s t k.item 0 0)) ∧
    (bitsOf w 4 8 = 1 → exec (.st t) s = .next (stokerFault s t k.item 0 0))) ∧
  (∀ (a b : Nat) (bs : List Byte) (m : Mem), b < a ∨ a + bs.length ≤ b → readByte b (writeBytes a bs m) = readByte b m) ∧
  (∀ (t w : Nat) (k : Kernel) (bs : List Byte) (s : State), AtWord s t 2 0x02 k w → memAddr k w % 8 = 0 → memAddr k w < 2 ^ 48 →
    coherentWsp s k.item.seq (ctxFunc s k.item.ctx) (memAddr k w) 8 = .ok bs →
    exec (.ldw t) s = .next (setKernel (meshAsk s t (memAddr k w)) t { k with stall := .ldw (memAddr k w) (bitsOf w 12 5) })) ∧
  (∀ (t w : Nat) (k : Kernel) (s : State), AtWord s t 2 0x02 k w → memAddr k w % 8 ≠ 0 ∨ 2 ^ 48 ≤ memAddr k w →
    exec (.ldw t) s = .next (stokerFault s t k.item 2 0)) ∧
  (∀ (t w a dst : Nat) (k : Kernel) (bs : List Byte) (s : State), wordOf s t = some (k, w) → k.stall = .ldw a dst →
    coherentWsp s k.item.seq (ctxFunc s k.item.ctx) a 8 = .ok bs →
    exec (.ldwData t false) s = .next (setKernel (meshAnswer (noteReads s a 8) t a) t (k.wrote dst (BitVec.ofNat 64 (leNat bs))))) ∧
  (∀ (t w a dst : Nat) (k : Kernel) (bs : List Byte) (s : State), wordOf s t = some (k, w) → k.stall = .ldw a dst →
    coherentWsp s k.item.seq (ctxFunc s k.item.ctx) a 8 = .ok bs → s.page (pageOf a) = none →
    exec (.ldwData t true) s = .next (settleWork (tileFault s t k.item 5 0))) ∧
  (∀ (t w a dst : Nat) (k : Kernel) (bs : List Byte) (s : State), wordOf s t = some (k, w) → k.stall = .ldw a dst →
    coherentWsp s k.item.seq (ctxFunc s k.item.ctx) a 8 = .ok bs → (s.page (pageOf a)).isSome = true →
    exec (.ldwData t true) s = .next
      (if ((recoverRead s t (pageOf a)).page (pageOf a)).any (fun d => d.lost) = true
       then lostRead (recoverRead s t (pageOf a)) t k.item (pageOf a)
       else setKernel (meshAnswer (noteReads (recoverRead s t (pageOf a)) a 8) t a) t
         (k.wrote dst (BitVec.ofNat 64 (leNat bs)))))

/-- The branches of R238, and the loops of R246: LOOP passes over a loop of count zero, raises TRIP_CEILING above its ceiling, and else
enters the loop at index 0; ENDLOOP runs the next iteration or leaves the loop. The control words of R230 and R238: NOP moves on; END ends
the kernel and its item, and a bank may be swapped in; EWAIT takes one signal of its event or waits; ESIG gives one or raises
EVENT_OVERFLOW; FENCE waits for the kernel's commands; TRAP raises USER_TRAP with its CODE. The model's own choices it rests on: log
entries 137, 209. -/
def Obligations.BranchAndControlWords : Prop :=
  BranchResult .jmp 0x00 (fun _ _ => true) ∧ BranchResult .beq 0x01 (fun a b => a == b) ∧
  BranchResult .bne 0x02 (fun a b => a != b) ∧ BranchResult .bltu 0x03 (fun a b => decide (a.toNat < b.toNat)) ∧
  BranchResult .bgeu 0x04 (fun a b => decide (b.toNat ≤ a.toNat)) ∧
  (∀ (t w : Nat) (k : Kernel) (s : State), AtWord s t 3 0x08 k w →
    exec (.loop t) s = .next
      (if (k.reg (bitsOf w 12 5)).toNat = 0 then setKernel s t { k with pc := targetOf w + 1, stall := .none }
       else if bitsOf w 48 16 < (k.reg (bitsOf w 12 5)).toNat then stokerFault s t k.item 4 0
       else setKernel s t { (k.setReg (bitsOf w 17 5) 0).next with loops :=
         { at_ := k.pc, count := (k.reg (bitsOf w 12 5)).toNat, index := 0, dst := bitsOf w 17 5 } :: k.loops })) ∧
  (∀ (t w : Nat) (k : Kernel) (f : LoopFrame) (rest : List LoopFrame) (s : State), AtWord s t 3 0x09 k w → k.loops = f :: rest →
    exec (.endloop t) s = .next (setKernel s t
      (if f.index + 1 < f.count then
        { k.setReg f.dst (BitVec.ofNat 64 (f.index + 1)) with
          pc := f.at_ + 1, stall := .none, loops := { f with index := f.index + 1 } :: rest }
       else { k.next with loops := rest }))) ∧
  (∀ (t w : Nat) (k : Kernel) (s : State), AtWord s t 6 0x00 k w → exec (.ricNop t) s = .next (setKernel s t k.next)) ∧
  (∀ (t w : Nat) (k : Kernel) (s : State), AtWord s t 6 0x01 k w →
    exec (.endKernel t) s = .next (settleWork (swapTile (itemEnds (s.modTile t fun x => { x with kernel := none }) t k.item) t))) ∧
  (∀ (t w : Nat) (k : Kernel) (s : State), AtWord s t 6 0x02 k w →
    exec (.ewait t) s = .next
      (if (s.tile t).event (bitsOf w 12 4) = 0 then stallEvent s t k (.event (bitsOf w 12 4))
       else (setKernel s t k.next).modTile t fun x => x.setEvent (bitsOf w 12 4) ((s.tile t).event (bitsOf w 12 4) - 1))) ∧
  (∀ (t w : Nat) (k : Kernel) (s : State), AtWord s t 6 0x03 k w →
    exec (.esig t) s = .next
      (if 255 ≤ (s.tile t).event (bitsOf w 12 4) then stokerFault s t k.item 5 0
       else (setKernel s t k.next).modTile t fun x => x.setEvent (bitsOf w 12 4) ((s.tile t).event (bitsOf w 12 4) + 1))) ∧
  (∀ (t w : Nat) (k : Kernel) (s : State), AtWord s t 6 0x04 k w →
    exec (.ricFence t) s = .next (if (s.tile t).outstanding k.item = true then stallEvent s t k .fence else setKernel s t k.next)) ∧
  (∀ (t : Nat) (k : Kernel) (v : Stall) (s : State), ((stallEvent s t k v).tile t).kernel = some { k with stall := v }) ∧
  (∀ (t w : Nat) (k : Kernel) (s : State), AtWord s t 6 0x05 k w →
    exec (.trap t) s = .next (stokerFault s t k.item 9 (bitsOf w 16 16)))

/-- The commands of the array, the transfer engine and the skip predictor are issued to the ends of their queues (R229, R239). The
commands of the vector unit are issued to the end of its queue (R173, R229). A command whose queue is full stalls its Stoker before its
first word, and but for its stall counter changes nothing else (R229, R249); the operand counts of a vector command that disagree raise
OPERAND_SHAPE (R601). The model's own choices it rests on: log entries 129, 137, 150. -/
def Obligations.EngineCommandsIssue : Prop :=
  Issues .pass 0 0x00 ∧ Issues .makeup 0 0x01 ∧ Issues .copyIn 2 0x00 ∧ Issues .copyOut 2 0x01 ∧ Issues .copy 2 0x02 ∧
  Issues .fill 2 0x03 ∧ Issues .eval 3 0x00 ∧
  Issues .vecAdd 1 0x00 ∧ Issues .vecSub 1 0x01 ∧ Issues .vecMul 1 0x02 ∧ Issues .fma 1 0x03 ∧ Issues .scale 1 0x04 ∧
  Issues .vecMin 1 0x05 ∧ Issues .vecMax 1 0x06 ∧ Issues .abs 1 0x07 ∧ Issues .neg 1 0x08 ∧ Issues .select 1 0x09 ∧
  Issues .cvt 1 0x0A ∧ Issues .div 1 0x0B ∧ Issues .sqrt 1 0x0C ∧ Issues .exp 1 0x0D ∧ Issues .log 1 0x0E ∧
  Issues .rsqrt 1 0x0F ∧ Issues .sigmoid 1 0x10 ∧ Issues .tanh 1 0x11 ∧ Issues .relu 1 0x12 ∧ Issues .relu2 1 0x13 ∧
  Issues .geluTanh 1 0x14 ∧ Issues .silu 1 0x15 ∧ Issues .actMul 1 0x16 ∧ Issues .rsum 1 0x20 ∧ Issues .rsumsq 1 0x21 ∧
  Issues .rdot 1 0x22 ∧ Issues .rmax 1 0x23 ∧ Issues .rmin 1 0x24 ∧ Issues .rargmax 1 0x25 ∧ Issues .rargmin 1 0x26 ∧
  (∀ (t w : Nat) (k : Kernel) (p : Program) (s : State), wordOf s t = some (k, w) → (s.tile t).program = some p → bitsOf w 0 4 = 4 →
    (rawCmd p.code k.pc).engine = 0 → (rawCmd p.code k.pc).op = 0 → k.awaiting = false → 16 ≤ ((s.tile t).queue 0).length →
    exec (.pass t) s = .next (stallFull s t k) ∧ ((stallFull s t k).tile t).kernel = some { k with stall := .queueFull }) ∧
  (∀ (t w : Nat) (k : Kernel) (p : Program) (s : State), wordOf s t = some (k, w) → (s.tile t).program = some p → bitsOf w 0 4 = 4 →
    (rawCmd p.code k.pc).engine = 1 → (rawCmd p.code k.pc).op = 0 → k.awaiting = false → 32 ≤ ((s.tile t).queue 1).length →
    exec (.vecAdd t) s = .next (stallFull s t k) ∧ ((stallFull s t k).tile t).kernel = some { k with stall := .queueFull }) ∧
  (∀ (t w : Nat) (k : Kernel) (p : Program) (os : List Opnd) (s : State), wordOf s t = some (k, w) → (s.tile t).program = some p →
    bitsOf w 0 4 = 4 → (rawCmd p.code k.pc).engine = 1 → (rawCmd p.code k.pc).op = 0 → k.awaiting = false →
    ((s.tile t).queue 1).length < queueDepth 1 → pointHeld s 1 t 1 = false →
    allSome ((rawCmd p.code k.pc).ops.map (resolveOp p k (rawCmd p.code k.pc))) = some os →
    (∀ o ∈ (rawCmd p.code k.pc).ops, k.dmemBad (8 * o.agd) 64 = false) → k.fetchBad (1 + (rawCmd p.code k.pc).xwords) = false →
    (∀ o ∈ os, o.total ≠ 0) → countsDiffer (rawCmd p.code k.pc) os = true →
    exec (.vecAdd t) s = .next (stokerFault s t k.item 11 0))

/-- R228: the registers a kernel starts with. -/
def Obligations.KernelStartRegisters : Prop :=
  ∀ (t l : Nat) (i : Item) (rest : List Item) (p : Program) (e : KEntry) (w s : State), w = settleWork s → (w.tile t).runs = true →
    (w.tile t).draining = false → (w.tile t).kernel = none → swapBanks (w.tile t) = w.tile t →
    flag w Fld.TIL_CTL_HALT t = false → (w.tile t).items = i :: rest → (w.tile t).program = some p → p.id = i.image →
    p.entries[i.entry]? = some e → e.kind = i.kind → logicalOf w t = some l →
    ∃ (u : State) (k : Kernel), (u.tile t).kernel = some k ∧ k.item = i ∧ k.pc = e.start ∧ k.reg 0 = 0 ∧
      k.reg 1 = BitVec.ofNat 64 i.payload ∧ k.reg 2 = BitVec.ofNat 64 i.layer ∧ k.reg 3 = BitVec.ofNat 64 i.ctx ∧
      k.reg 4 = BitVec.ofNat 64 i.stream ∧ k.reg 5 = BitVec.ofNat 64 l ∧ k.reg 6 = BitVec.ofNat 64 i.msc ∧
      (∀ r, 7 ≤ r → r ≤ 31 → k.reg r = 0) ∧ exec (.workItemStart t {}) s = .next (settleWork u)

/-- WORK_ITEM_START gives an idle tile its next item; while TIL_CTL.HALT is set the tile takes none (R183, R227, R235). ENGINE_CMD_START
takes the first command of an engine's queue once its events and a slot are there, and it runs; a command that meets an uncorrectable
error in the scratchpad or the accumulator, or a bond-port transfer from no page of this module, faults its tile, and an uncorrectable
copy of a page is recovered or ends the read as R394 says (R154, R184, R230, R392); duty throttling holds the array (R539).
ENGINE_CMD_COMPLETE of a command that signals nothing lands its writes and its skip state. The model's own choices it rests on: log
entries 59, 60, 63, 90, 139, 141, 150, 209, 219. -/
def Obligations.WorkAndEnginesRun : Prop :=
  (∀ (t : Nat) (e : KernelErrors) (s : State), ((settleWork s).tile t).runs = true → ((settleWork s).tile t).draining = false →
    ((settleWork s).tile t).kernel = none → flag (settleWork s) Fld.TIL_CTL_HALT t = false →
    exec (.workItemStart t e) s = .next (settleWork (takeItem (swapTile (settleWork s) t) t e.word e.dmem))) ∧
  (∀ (t : Nat) (e : KernelErrors) (s : State), ((settleWork s).tile t).runs = true → ((settleWork s).tile t).draining = false →
    ((settleWork s).tile t).kernel = none → flag (settleWork s) Fld.TIL_CTL_HALT t = true →
    exec (.workItemStart t e) s = .next (swapTile (settleWork s) t)) ∧
  (∀ (t : Nat) (k : Kernel) (e : KernelErrors) (s : State), ((settleWork s).tile t).kernel = some k →
    exec (.workItemStart t e) s = .next (settleWork s)) ∧
  (∀ (t e : Nat) (c : EngCmd) (q : List EngCmd) (eff : Effects) (s u : State), (s.tile t).queue e = c :: q → (s.tile t).runs = true →
    e < 4 → waitsMet (s.tile t) c = true → ((s.tile t).flight.filter fun f => f.cmd.engine = e).length < engineSlots e →
    (e = 0 → mmaHeld s = false) → runCommand s t (ctxFunc s c.item.ctx) c = .done eff u →
    exec (.engineCmdStart t e .clean) s = .next (beginCmd u t e c eff)) ∧
  (∀ (t e a : Nat) (c : EngCmd) (q : List EngCmd) (s : State), (s.tile t).queue e = c :: q → (s.tile t).runs = true →
    e < 4 → waitsMet (s.tile t) c = true → ((s.tile t).flight.filter fun f => f.cmd.engine = e).length < engineSlots e →
    (e = 0 → mmaHeld s = false) →
    exec (.engineCmdStart t e (.spadUncorr a)) s = .next (settleWork (hwFault s t c.item 2 a)) ∧
    exec (.engineCmdStart t e .accUncorr) s = .next (settleWork (hwFault s t c.item 4 0)) ∧
    ((cmdFetches c).head? = none → exec (.engineCmdStart t e .bondUncorr) s = startCmd s t e c) ∧
    (∀ d, (cmdFetches c).head? = some d → s.page (pageOf d.1) = none →
      exec (.engineCmdStart t e .bondUncorr) s = .next (settleWork (tileFault s t c.item 5 0))) ∧
    (∀ d, (cmdFetches c).head? = some d → (s.page (pageOf d.1)).isSome = true →
      exec (.engineCmdStart t e .bondUncorr) s =
        (if ((recoverRead s t (pageOf d.1)).page (pageOf d.1)).any (fun p => p.lost) = true
         then .next (lostRead (recoverRead s t (pageOf d.1)) t c.item (pageOf d.1))
         else startCmd (recoverRead s t (pageOf d.1)) t e c))) ∧
  (∀ (t : Nat) (ecc : EngineEcc) (s : State), mmaHeld s = true → exec (.engineCmdStart t 0 ecc) s = .next s) ∧
  (∀ (t e : Nat) (ecc : EngineEcc) (s : State), (s.tile t).queue e = [] → exec (.engineCmdStart t e ecc) s = .next s) ∧
  (∀ (t e : Nat) (f : InFlight) (s : State), (s.tile t).flight.find? (fun f => f.cmd.engine = e) = some f → (s.tile t).runs = true →
    wantedLines s f = [] → f.dead = false → f.cmd.signal = none →
    exec (.engineCmdComplete t e) s = .next (settleWork (itemEnds (landSkip ((landWrites s t f).modTile t fun x =>
      { x with flight := x.flight.erase f, lastWork := (landWrites s t f).ticks }) t f) t f.cmd.item)))

/-- WAIT_DEADLOCK faults a tile whose Stoker waits at an EWAIT for an event with no signal while no engine is busy (R231); the end of a
fault's teardown and of a kill put the event counters to zero (R232, R248); TIL_CTL.HALT is written where the row has power, and the clock
starts and stops by R180 and R181. The model's own choices it rests on: log entry 209. -/
def Obligations.TileStateRows : Prop :=
  (∀ (t e : Nat) (k : Kernel) (s : State), (s.tile t).kernel = some k → k.stall = .event e → (s.tile t).event e = 0 →
    (s.tile t).runs = true → (s.tile t).idle = true →
    exec (.waitDeadlock t) s = .next (settleWork (stokerFault s t k.item 6 0))) ∧
  (∀ (t : Nat) (k : Kernel) (s : State), (s.tile t).kernel = some k → k.stall = .none → exec (.waitDeadlock t) s = .next s) ∧
  (∀ (t : Nat) (s : State), (s.tile t).faulted = true →
    exec (.teardownComplete t) s = .next (s.setTile t { s.tile t with faulted := false, draining := false, events := [] })) ∧
  (∀ (t : Nat) (s : State), (s.tile t).draining = true → (s.tile t).faulted = false → (s.tile t).idle = true →
    exec (.killDrainDone t) s = .next (settleWork (s.setTile t { s.tile t with draining := false, events := [] }))) ∧
  (∀ (t : Nat) (b : Bool) (s : State), t < 152 → (s.tile t).rowOn = true → roleOf s t ≠ .dark →
    ∃ u, exec (.tileHalt t b) s = .next u ∧ flag u Fld.TIL_CTL_HALT t = b ∧ { u with regs := s.regs } = s) ∧
  (∀ (t : Nat) (b : Bool) (s : State), (s.tile t).rowOn = false ∨ roleOf s t = .dark → exec (.tileHalt t b) s = .next s) ∧
  (∀ (t : Nat) (s : State), (s.tile t).rowOn = true → (s.tile t).clkOn = false → roleOf s t = .inService →
    exec (.tileClockStart t) s = .next
      (settleWork (count (s.setTile t { s.tile t with clkOn := true, lastWork := s.ticks }) (bankTil t) 1))) ∧
  (∀ (t : Nat) (s : State), (s.tile t).clkOn = true → (s.tile t).items = [] → (s.tile t).kernel = none → (s.tile t).idle = true →
    (s.tile t).q0 = [] → (s.tile t).q1 = [] → (s.tile t).q2 = [] → (s.tile t).q3 = [] → raw s Reg.TIL_FAULT t = 0 →
    (s.tile t).faulted = false → flag s Fld.TIL_CTL_CLK_HOLD t = false →
    exec (.tileClockStop t) s = .next (s.setTile t { s.tile t with clkOn := false }))

/-! ## The control complex and the memory system -/

/-- JOURNAL_ENTRY_DURABLE: once the oldest entry's copies are written, what waited for it follows: an accepted command may take effect, a
refusal is answered, a command that ended commits and is answered, and a context whose table entry could not be read is torn down (R255,
R262, R270, R275, R276, R342). Nothing happens with no entry under way. What a command that ends without error changes is made at its
commit, by opcode (R270, R271): SQ_DELETE's queue, GROUP_DESTROY's group, CTX_DESTROY's context and MCAST_CLEAR's entry are gone then, and
NOP changes nothing. One that ended in error only gives back what it had taken: its buffers, the tiles its LOAD held, its POOL_CREATE's
pages, and the group it was making. With its STEP a stream's slot is freed, and its next step goes on in it (R104, R328). The model's own
choices it rests on: log entries 67, 171, 209, 213. -/
def Obligations.CommitsAndTheirEffects : Prop :=
  (∀ (n : Nat) (b : Bool) (s : State), s.cp.journal.notDurable = [] → exec (.journalEntryDurable n b) s = .next s) ∧
  (∀ (q : Nat) (rest : List Nat) (s : State), s.cp.journal.notDurable = q :: rest → s.cp.cores.stopped = false →
    (injectMany 0xE 0 2 s).1 = 0 →
    exec (.journalEntryDurable 0 false) s = .next (settleStreams (settleWork (faultUnread (oldestDurable { (injectMany 0xE 0 2 s).2 with
      cp := { (injectMany 0xE 0 2 s).2.cp with journal := { (injectMany 0xE 0 2 s).2.cp.journal with singleCopy := false } } }))))) ∧
  (∀ (e : JEntry) (c : OpenCmd) (s : State), e.kind = 1 → s.cmd e.seq = some c → c.phase = .accepting → hasK e.seq s.det.fed = false → e.gone = false →
    entryDurable s e = advanceSqHead (loadAccepted (s.modCmd e.seq
      fun c => if c.phase = .accepting then { c with phase := .ready } else c) e.seq) e.func e.queue e.slot) ∧
  (∀ (e : JEntry) (c : OpenCmd) (s : State), e.kind = 3 → s.cmd e.ref = some c →
    entryDurable s e = postReply (commitCmd s e.ref c) e.func e.queue e.slot e.reply (pIrq c.pkt)) ∧
  (∀ (e : JEntry) (s : State), e.kind = 2 → e.gone = false → hasK e.seq s.det.fed = false →
    entryDurable s e = postReply (advanceSqHead s e.func e.queue e.slot) e.func e.cq e.rslot e.reply (pIrq e.body)) ∧
  (∀ (e : JEntry) (s : State), e.kind = 2 → e.gone = true → hasK e.seq s.det.fed = false →
    entryDurable s e = postReply s e.func e.cq e.rslot e.reply (pIrq e.body)) ∧
  (∀ (n : Nat) (b : Bool) (s : State), s.cp.cores.stopped = true → exec (.journalEntryDurable n b) s = .next s) ∧
  (∀ (seq : Nat) (c : OpenCmd) (s : State), isStepOp c.pkt = false → c.result.good = true → ∃ u : State,
    u = count (commitOp (commitWrites (recordLate s seq c) (pOpcode c.pkt = 0x42) c.writes c.written) seq c) bankCp 3 ∧
    commitCmd s seq c = endFed { u with cp := { u.cp with cmds := eraseK seq u.cp.cmds } } seq) ∧
  (∀ (seq : Nat) (c : OpenCmd) (s : State), isStepOp c.pkt = false → c.result.good = false → ∃ v u : State,
    v = dropReserved (unlockLoad (freeCmdChains (recordLate s seq c) seq) seq) seq ∧
    u = count { v with xch := { v.xch with newGroups := eraseK seq v.xch.newGroups } } bankCp 4 ∧
    commitCmd s seq c = endFed { u with cp := { u.cp with cmds := eraseK seq u.cp.cmds } } seq) ∧
  (∀ (seq : Nat) (c : OpenCmd) (s : State), pOpcode c.pkt = 0x03 →
    (commitOp s seq c).sq c.func (pktBits c.pkt 32 0 10) = none ∨ pktBits c.pkt 32 0 10 = 0) ∧
  (∀ (seq : Nat) (c : OpenCmd) (s : State), pOpcode c.pkt = 0xA1 →
    (commitOp s seq c).groupAt (groupKey (pktBits c.pkt 26 0 16) (pktBits c.pkt 24 0 16)) = none) ∧
  (∀ (seq : Nat) (c : OpenCmd) (s : State), pOpcode c.pkt = 0x21 → (commitOp s seq c).context (pContext c.pkt) = none) ∧
  (∀ (seq : Nat) (c : OpenCmd) (s : State), pOpcode c.pkt = 0xC9 →
    lookup (pktBits c.pkt 24 0 12) (commitOp s seq c).fab.mcast = none) ∧
  (∀ (seq : Nat) (c : OpenCmd) (s : State), pOpcode c.pkt = 0x00 → commitOp s seq c = s) ∧
  (∀ (seq : Nat) (c : OpenCmd) (s u v : State), isStepOp c.pkt = true → c.result.good = true →
    u = count (commitOp (commitWrites (recordLate s seq c) false c.writes c.written) seq c) bankCp 3 →
    (u.stream (pContext c.pkt) (pStream c.pkt)).stepSeq = seq → v = stepEnds u (pContext c.pkt) (pStream c.pkt) true →
    commitCmd s seq c = nextStep (endFed { v with cp := { v.cp with cmds := eraseK seq v.cp.cmds } } seq)
      (pContext c.pkt) (pStream c.pkt))

/-- COMMAND_WORK_DONE ends the work a command had running, by opcode: JOURNAL_FLUSH, POOL_CREATE, PAGE_WRITE, PAGE_READ, MIGRATE, PACK24,
SHADOW_BUILD, LOAD and TILE_TEST (R270), where MIGRATE moves a page again that was written since (R381). A command whose work does not run
stays as it is. The control cores (R285, R288): a heartbeat is noted; a core that fails with no standby stops command processing with
CP_ERR.STOPPED; one that fails with a standby hands over to it; and a core under test becomes the standby again if it passes. The model's
own choices it rests on: log entries 8, 15, 90, 141, 209. -/
def Obligations.WorkEndsAndCores : Prop :=
  (∀ (seq : Nat) (b : Bool) (c : OpenCmd) (s : State), s.cmd seq = some c → c.phase ≠ .working →
    exec (.commandWorkDone seq b) s = .next s) ∧
  (∀ (seq : Nat) (b : Bool) (c : OpenCmd) (s : State), s.cmd seq = some c → c.phase = .working → s.cp.cores.stopped = false →
    (pOpcode c.pkt = 0x09 → exec (.commandWorkDone seq b) s = .next (finishJournalFlush s seq b)) ∧
    (pOpcode c.pkt = 0x28 → exec (.commandWorkDone seq b) s = .next (completeWith s seq stOk)) ∧
    (pOpcode c.pkt = 0x42 → exec (.commandWorkDone seq b) s = .next (finishPageWrite s seq c)) ∧
    (pOpcode c.pkt = 0x43 → exec (.commandWorkDone seq b) s = .next (finishPageRead s seq c)) ∧
    (pOpcode c.pkt = 0x44 → exec (.commandWorkDone seq b) s = .next
      (if s.wsp.moves.any (fun m => m.kind = .migrate && m.seq = seq) then s
       else if staleMoves s c = [] then completeWith s seq stOk
       else (staleMoves s c).foldl (fun s q => queueMove (s.modPage q fun d => { d with moving := true })
         { kind := .migrate, page := q, tier := 2, seq }) s)) ∧
    (pOpcode c.pkt = 0x4C ∨ pOpcode c.pkt = 0x4D → exec (.commandWorkDone seq b) s = .next (finishPack s seq c)) ∧
    (pOpcode c.pkt = 0x60 → exec (.commandWorkDone seq b) s = .next (finishLoad s seq c b)) ∧
    (pOpcode c.pkt = 0xE0 → exec (.commandWorkDone seq b) s = .next (finishTileTest s seq c b))) ∧
  (∀ s : State, exec .heartbeat s = .next { s with cp := { s.cp with cores := { s.cp.cores with lastBeat := s.ticks } } }) ∧
  (∀ s : State, s.cp.cores.stopped = false → s.cp.cores.standby = false →
    exec .heartbeatTimeout s = .next (coreErr s Fld.CP_ERR_STOPPED .fatal) ∧
    exec .coreErrorReport s = .next (coreErr s Fld.CP_ERR_STOPPED .fatal)) ∧
  (∀ s : State, s.cp.cores.stopped = false → s.cp.cores.standby = true →
    ∃ u v w : State, u.cp.cores = { s.cp.cores with active := 1 - s.cp.cores.active, standby := false, testing := true, lastBeat := s.ticks } ∧
      u.cp.cmds = s.cp.cmds ∧ u.cp.journal = s.cp.journal ∧
      v = entriesDurable s.cp.journal.notDurable.length (timingOpen (count u bankCp 10)) ∧ w = v.cp.cmds.foldl rerunHeld v ∧
      exec .heartbeatTimeout s = .next (settleStreams (settleWork (rewriteReplies (coreErr (recEvent (journalEvent w 0x07 0 0 0 0) 3 0 0 0)
        Fld.CP_ERR_FAILOVER .recovered (nextSeq w))))) ∧
      exec .coreErrorReport s = exec .heartbeatTimeout s) ∧
  (∀ s : State, s.cp.cores.testing = true →
    exec (.standbySelfTestDone true) s = .next
      { s with cp := { s.cp with cores := { s.cp.cores with testing := false, standby := true } } } ∧
    exec (.standbySelfTestDone false) s = .next (coreErr
      { s with cp := { s.cp with cores := { s.cp.cores with testing := false, standby := false } } } Fld.CP_ERR_STANDBY_LOST .degraded))

/-- PAGE_FETCH_DONE (R380, R392, R394): a fetch with a frame brings the page's NAND contents into DRAM and wakes its readers; a page whose
NAND units were lost becomes LOST; a prefetch that finds no frame is dropped, and a re-pour's page is left unplaced; a page that is there
already, or LOST, is not read. PAGE_MOVE_DONE (R381): a writeback gives a dirty page's contents to its NAND copy, unless an open command
writes there; a MIGRATE's move takes its page to the tier it names, on the stack it prefers (R366, R381). A LOST page that the move must
read, also one whose NAND units prove lost, ends the MIGRATE with ST_UNCORRECTABLE and the page's address (log entry 176). STAGE_DONE
(R387) writes a staged entry's bytes into its tile's scratchpad; an entry whose source is LOST is given up. The patrol reads a frame
(R372, R373): a clean one changes nothing, an uncorrectable one is recovered, also where another reader met it (R392). A failed stack,
NAND's background work and a failed channel do what R374, R377 and R378 say. BAR2 (R362, R363): a read of a function's window outside a
flask sends the bytes the model's byte read gives, and a write stores its bytes; a byte of a page with no DRAM copy reads zero and takes
no write. The model's own choices it rests on: log entries 3, 9, 17, 19, 33, 102, 131, 132, 145, 159, 165, 167, 172, 176, 178, 209, 219,
220, 221, 222. -/
def Obligations.MemorySystemRows : Prop :=
  (∀ (q : Nat) (r : NandRead) (m : Move) (d : Page) (s t : State), fetchMove s q = some m → s.page q = some d → d.inDram = false →
    d.lost = false → (readAs s r 8).lost = false → placeFetch s q (m.kind = .prefetch) = some t →
    ∃ u : State, u.wsp.dram = copyRange (q * pageBytes) pageBytes (countNand t r d.slot).wsp.nand (countNand t r d.slot).wsp.dram ∧
      u.wsp.unplaced = (countNand t r d.slot).wsp.unplaced.filter (· ≠ q) ∧
      exec (.pageFetchDone q r) s = .next (settleWork (wakeWaiters (noteRead (mapPersist (placeReplica
        (injectMove (count (count u bankWsp 0 (b2n (m.kind = .demand))) bankWsp 1 (b2n (m.kind = .prefetch))) q) q) q) q) q))) ∧
  (∀ (q : Nat) (r : NandRead) (m : Move) (d : Page) (s : State), fetchMove s q = some m → s.page q = some d → d.inDram = false →
    d.lost = false → (readAs s r 8).lost = false → m.kind = .prefetch → placeFetch s q true = none →
    exec (.pageFetchDone q r) s = .next (settleWork (count { s with wsp := { s.wsp with moves := s.wsp.moves.erase m } } bankWsp 17))) ∧
  (∀ (q : Nat) (r : NandRead) (m : Move) (d : Page) (s : State), fetchMove s q = some m → s.page q = some d → d.inDram = false →
    d.lost = false → (readAs s r 8).lost = false → m.kind = .demand → placeFetch s q false = none →
    exec (.pageFetchDone q r) s = .next (settleWork (wspErr s Fld.WSP_ERR_FETCH_NO_ROOM q))) ∧
  (∀ (q : Nat) (r : NandRead) (m : Move) (d : Page) (s : State), fetchMove s q = some m → s.page q = some d → d.inDram = false →
    d.lost = false → (readAs s r 8).lost = true → ∃ u : State, u.wsp.pages = s.wsp.pages ∧ u.wsp.dram = s.wsp.dram ∧
      exec (.pageFetchDone q r) s = .next (settleWork (wakeWaiters (meetLost (losePage (countNand u r d.slot) q) q) q))) ∧
  (∀ (q : Nat) (r : NandRead) (s : State), s.page q = none → exec (.pageFetchDone q r) s = .next (settleWork s)) ∧
  (∀ (q : Nat) (r : NandRead) (m : Move) (d : Page) (s : State), fetchMove s q = some m → s.page q = some d →
    d.inDram = true ∨ d.lost = true → ∃ u : State, u.wsp.pages = s.wsp.pages ∧ u.wsp.dram = s.wsp.dram ∧
      exec (.pageFetchDone q r) s = .next (settleWork (wakeWaiters u q))) ∧
  (∀ (q : Nat) (r : NandRead) (m : Move) (d : Page) (s : State), fetchMove s q = some m → s.page q = some d → d.inDram = false →
    d.lost = false → (readAs s r 8).lost = false → m.kind = .repour ∨ m.kind = .restore → placeFetch s q false = none →
    exec (.pageFetchDone q r) s = .next (settleWork { s with wsp := { s.wsp with
      moves := s.wsp.moves.erase m, unplaced := insertSorted q s.wsp.unplaced } })) ∧
  (∀ (q : Nat) (d : Page) (s : State), s.page q = some d → d.dirty = true → d.inNand = true → d.inDram = true → d.lost = false →
    pageInDest s q = false →
    exec (.pageMoveDone q .writeback) s = .next (settleWork (count (writeBack (injectMove s q) q) bankWsp 3))) ∧
  (∀ (q : Nat) (d : Page) (s : State), s.page q = some d → pageInDest s q = true →
    exec (.pageMoveDone q .writeback) s = .next (settleWork s)) ∧
  (∀ (q pref : Nat) (r : NandRead) (d : Page) (m : Move) (s t : State), s.page q = some d →
    s.wsp.moves.find? (fun m => m.page = q && m.kind = .migrate) = some m → (pageInDest s q && m.tier ≠ 1) = false →
    (d.lost && moveReads d m.tier) = false → (m.tier ≠ 0 && !d.inDram && (readAs s r 8).lost) = false →
    pref = ((s.cmd m.seq).map fun c => pPref c.pkt).getD d.pref → reachTier s q m.tier pref r = some t →
    ∃ v u : State, v = movePref t q pref ∧ u = { v with wsp := { v.wsp with moves := v.wsp.moves.erase m } } ∧
      exec (.pageMoveDone q (.migrate r)) s = .next (settleWork (wakeWaiters (placeReplicas (mapPersist (timingOpen
        (count (injectMove (u.modPage q fun d => { d with moving := false }) q) bankWsp 4)) q)) q))) ∧
  (∀ (q : Nat) (r : NandRead) (d : Page) (m : Move) (s : State), s.page q = some d →
    s.wsp.moves.find? (fun m => m.page = q && m.kind = .migrate) = some m → (pageInDest s q && m.tier ≠ 1) = false →
    d.lost = true → moveReads d m.tier = true →
    ∃ u : State, (∀ x ∈ u.wsp.moves, x.kind ≠ .migrate ∨ x.seq ≠ m.seq) ∧ u.wsp.dram = s.wsp.dram ∧ u.wsp.nand = s.wsp.nand ∧
      exec (.pageMoveDone q (.migrate r)) s = .next (settleWork (completeWith (meetLost u q) m.seq stUncorrectable 0 (q * pageBytes)))) ∧
  (∀ (q : Nat) (r : NandRead) (d : Page) (m : Move) (s : State), s.page q = some d →
    s.wsp.moves.find? (fun m => m.page = q && m.kind = .migrate) = some m → (pageInDest s q && m.tier ≠ 1) = false →
    (d.lost && moveReads d m.tier) = false → (m.tier ≠ 0 && !d.inDram && (readAs s r 8).lost) = true →
    exec (.pageMoveDone q (.migrate r)) s = .next (settleWork (failMigrate (losePage (countNand s r d.slot) q) m.seq q))) ∧
  (∀ (q : Nat) (r : NandRead) (d : Page) (m : Move) (s : State), s.page q = some d →
    s.wsp.moves.find? (fun m => m.page = q && m.kind = .migrate) = some m → (pageInDest s q && m.tier ≠ 1) = true →
    exec (.pageMoveDone q (.migrate r)) s = .next (settleWork s)) ∧
  (∀ (l t : Nat) (d : Staged) (s : State), s.wsp.staged.find? (stageDue s l) = some (l, d) → physOf s l = some t →
    (s.tile t).rowOn = true → firstLost s d.entry.addr d.entry.len = none → absentPages s d.entry.addr d.entry.len = [] →
    windowLines s false [(d.entry.addr, d.entry.len)] = [] →
    ∃ u : State, u.tile t = (s.tile t).writeSpad d.entry.spad (wspBytes s d.entry.addr d.entry.len) ∧ u.wsp.dram = s.wsp.dram ∧
      (l, { d with held := true }) ∈ u.wsp.staged ∧ exec (.stageDone l) s = .next (settleWork (count u bankWsp 11))) ∧
  (∀ (l t p : Nat) (d : Staged) (s : State), s.wsp.staged.find? (stageDue s l) = some (l, d) → physOf s l = some t →
    (s.tile t).rowOn = true → firstLost s d.entry.addr d.entry.len = some p →
    exec (.stageDone l) s = .next (settleWork (meetLost { s with wsp := { s.wsp with
      staged := s.wsp.staged.filter (· ≠ (l, d)) } } p))) ∧
  (∀ (l : Nat) (s : State), s.wsp.staged = [] → exec (.stageDone l) s = .next s) ∧
  (∀ (st fr : Nat) (s : State), stoked s = true → flag s Fld.WSP_CTL_SCRUB_EN = true → stackFailed s st = false → st < 24 → fr < 45776 →
    exec (.patrolScrub st fr { corrected := [], uncorrectable := false, passEnd := false }) s = .next (settleWork s) ∧
    exec (.patrolScrub st fr { corrected := [], uncorrectable := true, passEnd := false }) s = .next (settleWork (recoverFrame s st fr)) ∧
    (∀ b, exec (.patrolScrub st fr { corrected := [b], uncorrectable := false, passEnd := false }) s =
      .next (settleWork (correctBlock st fr s b)))) ∧
  (∀ (st fr : Nat) (r : ScrubResult) (s : State), flag s Fld.WSP_CTL_SCRUB_EN = false → r.byReader = false →
    exec (.patrolScrub st fr r) s = .next (settleWork s)) ∧
  (∀ (st : Nat) (s : State), st < 24 → stackFailed s st = false →
    exec (.stackFailure st) s = .next (settleWork (failStack s st 2))) ∧
  (∀ (st : Nat) (s : State), stackFailed s st = true → exec (.stackFailure st) s = .next (settleWork s)) ∧
  (∀ (n units : Nat) (s : State), stoked s = true → flag s Fld.NTL_CTL_DISTURB_EN = true →
    exec (.nandUpkeep (.readDisturb n units)) s = .next (countMoved (count s bankNtl 6 n) n units)) ∧
  (∀ (n units : Nat) (s : State), stoked s = true → flag s Fld.NTL_CTL_WEAR_EN = true →
    exec (.nandUpkeep (.wearLevel n units)) s = .next (countMoved (count s bankNtl 7 n) n units)) ∧
  (∀ (a : Upkeep) (s : State), stoked s = false → exec (.nandUpkeep a) s = .next s) ∧
  (∀ (ch : Nat) (s : State), ch < 16 → ch ∉ s.ntl.chFailed →
    ∃ u : State, u.ntl.chFailed = insertSorted ch s.ntl.chFailed ∧ u.wsp = s.wsp ∧
      exec (.nandChannelFail ch) s = .next (raiseErr (setRaw u Reg.NTL_ERR_INFO 0 0 (ch + 2 * 2 ^ 4)) Fld.NTL_ERR_CH_FAILED 0 .degraded
        { unit := ch, arg := ch + 2 * 2 ^ 4 })) ∧
  (∀ (st fr q : Nat) (w : Nat × Bool) (s : State), stoked s = true → flag s Fld.WSP_CTL_SCRUB_EN = true → stackFailed s st = false →
    st < 24 → fr < 45776 → lookup (frameKey st fr) s.wsp.frames = some q →
    exec (.patrolScrub st fr { corrected := [], links := [w], uncorrectable := false, passEnd := false }) s =
      .next (settleWork (scrubLink q s w))) ∧
  (∀ (st fr : Nat) (r : ScrubResult) (s : State), stackFailed s st = false → st < 24 → fr < 45776 → r.byReader = true →
    exec (.patrolScrub st fr r) s = .next (settleWork (if r.uncorrectable = true then recoverFrame s st fr r.nand else s))) ∧
  (∀ (r : NandRead) (u n : Nat) (ps : List Nat) (s : State), stoked s = true → flag s Fld.NTL_CTL_PATROL_EN = true →
    exec (.nandUpkeep (.patrol r u n ps)) s = .next (settleWork (nandPatrol s r u n ps))) ∧
  (∀ (ch : Nat) (b : Bool) (s : State), stoked s = true → ch < 16 →
    exec (.nandUpkeep (.programFail ch b)) s = .next (programFail s ch b)) ∧
  (∀ (f o n : Nat) (s : State), bar2Addr (wakeTrigger s) f o = none →
    ∃ u : State, u.hostOut = (wakeTrigger s).hostOut ++ [.readData (List.replicate n 0)] ∧ u.free = (wakeTrigger s).free + n ∧
      u.wsp = (wakeTrigger s).wsp ∧ exec (.bar2Read f o n) s = .next u) ∧
  (∀ (f o a n : Nat) (s : State), bar2Addr (wakeTrigger s) f o = some a → bar2Lines (wakeTrigger s) f o n false = [] →
    (wakeTrigger s).flk.poisoned = [] →
    exec (.bar2Read f o n) s = .next (bar2Errors (send { wakeTrigger s with free := (wakeTrigger s).free + n }
      (.readData (bar2Bytes (wakeTrigger s) f o (wakeTrigger s).free n))) f o n false)) ∧
  (∀ (f o a : Nat) (bs : List Byte) (s : State), bar2Addr (wakeTrigger s) f o = some a →
    bar2Lines (wakeTrigger s) f o bs.length true = [] →
    ∃ u : State, u = bar2Errors (bar2Store (wakeTrigger s) f o bs) f o bs.length true ∧
      exec (.bar2Write f o { bytes := bs }) s = .next (clearPoison u a bs.length)) ∧
  (∀ (a k : Nat) (d : Page) (s : State), jrnPage s (pageOf a) = false → s.page (pageOf a) = some d → d.module = false →
    d.inDram = false → bar2Byte s a k = 0 ∧ ∀ b, bar2Put s a b = s) ∧
  (∀ (a k : Nat) (d : Page) (s : State), jrnPage s (pageOf a) = false → s.page (pageOf a) = some d → d.module = false →
    d.inDram = true → d.lost = false → poisonedAt s a = false → openTo s 0 a = false → bar2Byte s a k = readByte a s.wsp.dram) ∧
  (∀ (f o : Nat) (bs : List Byte) (s : State), exec (.bar2Write f o { bytes := bs, poisoned := true }) s = .next (poisonedWrite (wakeTrigger s) f))

/-! ## The fabric -/

/-- Ports (R410, R411): ENABLE, FWD_EN and RETRAIN act as their port's state machine says; training, INIT and a step's time-out move it
on; a failed lane retrains an ACTIVE port on the other pair, where that is good and allowed, and else fails it, as a two-lane link with a
partner of major version 1 does (R412). Flits (R406–R409): one with more than fifteen symbol errors, or whose CRC fails, is asked for
again, and counted; a good one is taken in; RETRY_REQ sends the flits that were not acknowledged again. The model's own choices it rests
on: log entry 225. -/
def Obligations.PortAndFlitRows : Prop :=
  (∀ (p : Nat) (b : Bool) (s : State), p < 20 → portFused s p = false →
    exec (.portEnable p b) s = .next (portFollow (setFld s Fld.FAB_PORT_CTL_ENABLE (b2n b) p) p) ∧
    exec (.portFwdEn p b) s = .next (portActivate (setFld s Fld.FAB_PORT_CTL_FWD_EN (b2n b) p) p)) ∧
  (∀ (p : Nat) (b : Bool) (s : State), portFused s p = true →
    exec (.portEnable p b) s = .next s ∧ exec (.portFwdEn p b) s = .next s) ∧
  (∀ (p : Nat) (s : State), portActive s p = true → exec (.retrain p true) s = .next (retrainPort s p)) ∧
  (∀ (p : Nat) (s : State), exec (.retrain p false) s = .next s) ∧
  (∀ (p n : Nat) (s : State), p < 20 → fld s Fld.FAB_PORT_STATUS_STATE p = 2 → (s.port p).quick = false →
    exec (.portTrainingDone p n) s = .next (sendInit (setPortState (s.setPort p { s.port p with stage := 4 }) p 3) p)) ∧
  (∀ (p n : Nat) (s : State), p < 20 → fld s Fld.FAB_PORT_STATUS_STATE p = 3 → (s.port p).stage = 5 →
    exec (.portTrainingDone p n) s = .next
      (portActivate (reportPeer (setPortState (s.setPort p { s.port p with stage := 6, timedOut := false }) p 4) p) p)) ∧
  (∀ (p : Nat) (s : State), fld s Fld.FAB_PORT_STATUS_STATE p = 3 → (s.port p).timedOut = false → (s.port p).verBad = false →
    exec (.portStepTimeout p) s = .next (retrainPort ((setErr s Fld.FAB_PORT_ERR_INIT_TIMEOUT p).setPort p
      { s.port p with timedOut := true, quick := false }) p)) ∧
  (∀ (p : Nat) (s : State), fld s Fld.FAB_PORT_STATUS_STATE p = 0 → exec (.portStepTimeout p) s = .next s) ∧
  (∀ (p : Nat) (s : State), fld s Fld.FAB_PORT_STATUS_STATE p = 3 → exec (.initRepeat p) s = .next (sendInit s p)) ∧
  (∀ (p : Nat) (s : State), fld s Fld.FAB_PORT_STATUS_STATE p ≠ 3 → exec (.initRepeat p) s = .next s) ∧
  (∀ (p : Nat) (m : InitMsg) (s : State), p < 20 → fld s Fld.FAB_PORT_STATUS_STATE p = 3 → (s.port p).stage = 4 →
    m.major = 0 ∨ 3 ≤ m.major →
    exec (.init p m) s = .next (setErr (s.setPort p { s.port p with verBad := true }) Fld.FAB_PORT_ERR_VERSION p)) ∧
  (∀ (p : Nat) (m : InitMsg) (s : State), p < 20 → fld s Fld.FAB_PORT_STATUS_STATE p = 3 → (s.port p).stage = 4 →
    1 ≤ m.major → m.major < 3 → fld s Fld.FAB_PORT_STATUS_LANES p ≠ 2 →
    ∃ u : State, (u.port p).stage = 5 ∧ (u.port p).rxSeq = 4095 ∧ (u.port p).replay = [] ∧
      (u.port p).peer = m.endpoint % 2 ^ 20 + m.peerPort % 2 ^ 5 * 2 ^ 20 + 2 ^ 25 + m.digest % 2 ^ 32 * 2 ^ 32 ∧
      exec (.init p m) s = .next (sendInit u p)) ∧
  (∀ (p l : Nat) (s : State), p < 20 → l < 4 → 2 ≤ fld s Fld.FAB_PORT_STATUS_STATE p → fld s Fld.FAB_PORT_STATUS_STATE p ≤ 5 →
    laneBit s p l 2 = false → pairGood (markLane s p l) p 0 = false → pairGood (markLane s p l) p 1 = false →
    exec (.laneFail p l) s = .next (failPort (markLane s p l) p)) ∧
  (∀ (p : Nat) (s : State), (s.port p).verBad = true → exec (.portStepTimeout p) s = .next s) ∧
  (∀ (p : Nat) (m : InitMsg) (s : State), p < 20 → fld s Fld.FAB_PORT_STATUS_STATE p = 3 → (s.port p).stage = 4 →
    m.major = 1 → fld s Fld.FAB_PORT_STATUS_LANES p = 2 →
    ∃ u : State, fld u Fld.FAB_PORT_STATUS_VER_MAJOR p = 1 ∧ (u.port p).stage = 4 ∧ exec (.init p m) s = .next (failPort u p)) ∧
  (∀ (p l : Nat) (s : State), p < 20 → l < 4 → fld s Fld.FAB_PORT_STATUS_STATE p = 5 → laneBit s p l 2 = false →
    (pairGood (markLane s p l) p 0 || pairGood (markLane s p l) p 1) = true → 5 ≤ ((markLane s p l).port p).stage →
    exec (.laneFail p l) s = .next
      (if flag (markLane s p l) Fld.FAB_PORT_CTL_ALLOW_2LANE p = true ∧ twoLanes (markLane s p l) p = true
       then retrainPort ((markLane s p l).setPort p { (markLane s p l).port p with quick := true }) p
       else failPort (markLane s p l) p)) ∧
  (∀ (p l : Nat) (s : State), laneBit s p l 2 = true → exec (.laneFail p l) s = .next s) ∧
  (∀ (p n : Nat) (bs : List Byte) (s : State), p < 20 → bs.length = 640 → fld s Fld.FAB_PORT_STATUS_STATE p = 4 ∨ fld s Fld.FAB_PORT_STATUS_STATE p = 5 → 15 < n →
    exec (.flitReceive p n bs) s = .next (askRetry (count s (bankFab p) 4) p)) ∧
  (∀ (p : Nat) (bs : List Byte) (s : State), p < 20 → bs.length = 640 → fld s Fld.FAB_PORT_STATUS_STATE p = 4 ∨ fld s Fld.FAB_PORT_STATUS_STATE p = 5 →
    crc32c (bs.take 636) ≠ leNat ((bs.drop 636).take 4) →
    exec (.flitReceive p 0 bs) s = .next (askRetry (count s (bankFab p) 5) p)) ∧
  (∀ (p : Nat) (bs : List Byte) (s : State), p < 20 → bs.length = 640 → fld s Fld.FAB_PORT_STATUS_STATE p = 4 ∨ fld s Fld.FAB_PORT_STATUS_STATE p = 5 →
    crc32c (bs.take 636) = leNat ((bs.drop 636).take 4) → bitsOf (leNat (bs.take 8)) 48 4 ≠ 0 →
    exec (.flitReceive p 0 bs) s = .next (goodFlit s p bs)) ∧
  (∀ (p : Nat) (bs : List Byte) (t s : State), p < 20 → bs.length = 640 → fld s Fld.FAB_PORT_STATUS_STATE p = 4 ∨ fld s Fld.FAB_PORT_STATUS_STATE p = 5 →
    crc32c (bs.take 636) = leNat ((bs.drop 636).take 4) → bitsOf (leNat (bs.take 8)) 48 4 = 0 → inject s 9 p = (false, t) →
    exec (.flitReceive p 0 bs) s = .next (goodFlit t p bs)) ∧
  (∀ (p n : Nat) (bs : List Byte) (s : State), bs.length ≠ 640 → exec (.flitReceive p n bs) s = .next s) ∧
  (∀ (p k : Nat) (s : State), portActive s p = true →
    exec (.retryReq p k) s = .next (replayFlits (s.setPort p (freeReplay (s.port p) k)) p)) ∧
  (∀ (p k : Nat) (s : State), portActive s p = false → exec (.retryReq p k) s = .next s)

/-- PACKET_INJECT and PACKET_FORWARD (R418–R428): a packet at its destination is ejected; one at its twelfth hop, or too old, is dropped;
one without a usable port is dropped; one in a multicast tree is copied; a forwarded one joins the least loaded port with credit; and one
with no credit waits. A packet of the Runner enters when its slice's arbiter lets its class go (R150). The model's own choices it rests
on: log entries 77, 148, 181, 226. -/
def Obligations.PacketsMoveThroughRouter : Prop :=
  (∀ (i : Nat) (s : State), s.fab.inject[i]? = none → exec (.packetInject i) s = .next s) ∧
  (∀ (i : Nat) (o : Outgoing) (s : State), s.fab.inject[i]? = some o → mayInject s = false → o.pkt.kind ≠ 3 →
    runnerClass o = none → exec (.packetInject i) s = .next (runnerInjected { s with fab := { s.fab with inject := s.fab.inject.eraseIdx i } } o)) ∧
  (∀ (i : Nat) (o : Outgoing) (s : State), s.fab.inject[i]? = some o → mayInject s = true → o.inFlow = false → runnerHeld s o = false →
    (o.pkt.kind = 0 → o.pkt.mcast = false) → runnerClass o = none →
    nextHop s (spray (runnerInjected { s with fab := { s.fab with inject := s.fab.inject.eraseIdx i } } o) o.pkt).1 = .eject →
    ∃ (q : Outgoing) (g : State),
      number (spray (runnerInjected { s with fab := { s.fab with inject := s.fab.inject.eraseIdx i } } o) o.pkt).2
        { o with pkt := (spray (runnerInjected { s with fab := { s.fab with inject := s.fab.inject.eraseIdx i } } o) o.pkt).1 } = (q, g) ∧
      exec (.packetInject i) s = .next (count (ejectHere g 31 (q.slice % 4) q.pkt) bankXrt 0)) ∧
  (∀ (i : Nat) (s : State), s.fab.input[i]? = none → exec (.packetForward i) s = .next s) ∧
  (∀ (i : Nat) (a : Arrived) (s : State), s.fab.input[i]? = some a → a.here = false →
    ((markPassed s a.pkt).kind = 0 → (markPassed s a.pkt).mcast = false) → nextHop s (markPassed s a.pkt) = .eject →
    ¬ ((markPassed s a.pkt).kind = 0 ∧ (markPassed s a.pkt).proto = 3 ∧ isLeg s (markPassed s a.pkt) = true) →
    exec (.packetForward i) s = .next (ejectHere (leaveInput s a i) a.port (sliceOfPort (min a.port 19)) (markPassed s a.pkt))) ∧
  (∀ (i : Nat) (a : Arrived) (ps : List Nat) (s : State), s.fab.input[i]? = some a → a.here = false →
    ((markPassed s a.pkt).kind = 0 → (markPassed s a.pkt).mcast = false) → nextHop s (markPassed s a.pkt) = .ports ps → (markPassed s a.pkt).hops = 12 →
    exec (.packetForward i) s = .next (count (xrtErr (leaveInput s a i) Fld.XRT_ERR_HOP_DROP a.port (markPassed s a.pkt).dest
      (markPassed s a.pkt).epoch) bankXrt 4)) ∧
  (∀ (i : Nat) (a : Arrived) (ps : List Nat) (s : State), s.fab.input[i]? = some a → a.here = false →
    ((markPassed s a.pkt).kind = 0 → (markPassed s a.pkt).mcast = false) → nextHop s (markPassed s a.pkt) = .ports ps → (markPassed s a.pkt).hops ≠ 12 → tooOld s a.at_ (markPassed s a.pkt) = false →
    usablePorts s (markPassed s a.pkt) ps = [] →
    exec (.packetForward i) s = .next (dropNoRoute (leaveInput s a i) a.port (markPassed s a.pkt))) ∧
  (∀ (i c : Nat) (a : Arrived) (ps : List Nat) (s : State), s.fab.input[i]? = some a → a.here = false →
    ((markPassed s a.pkt).kind = 0 → (markPassed s a.pkt).mcast = false) → nextHop s (markPassed s a.pkt) = .ports ps → (markPassed s a.pkt).hops ≠ 12 → tooOld s a.at_ (markPassed s a.pkt) = false →
    usablePorts s (markPassed s a.pkt) ps ≠ [] →
    leastLoaded s ((usablePorts s (markPassed s a.pkt) ps).filter fun c => hasCredit s c (markPassed s a.pkt)) = some c →
    exec (.packetForward i) s = .next (throttleUpdate (count (enqueue (leaveInput s a i) c a.port (sliceOfPort (min a.port 19)) a.at_
      (markPassed s a.pkt)) bankXrt 2 (b2n (!dropsNotice s c (markPassed s a.pkt)))) c)) ∧
  (∀ (i : Nat) (a : Arrived) (ps : List Nat) (s : State), s.fab.input[i]? = some a → a.here = false →
    ((markPassed s a.pkt).kind = 0 → (markPassed s a.pkt).mcast = false) → nextHop s (markPassed s a.pkt) = .ports ps → (markPassed s a.pkt).hops ≠ 12 → tooOld s a.at_ (markPassed s a.pkt) = false →
    usablePorts s (markPassed s a.pkt) ps ≠ [] →
    leastLoaded s ((usablePorts s (markPassed s a.pkt) ps).filter fun c => hasCredit s c (markPassed s a.pkt)) = none →
    exec (.packetForward i) s = .next s) ∧
  (∀ (i c : Nat) (o : Outgoing) (s t : State), s.fab.inject[i]? = some o → runnerClass o = some c → injectOne s i = some t →
    exec (.packetInject i) s = .next (if arbiterLets s (o.slice % 4) c then arbiterSent t (o.slice % 4) c else s)) ∧
  (∀ (i : Nat) (s : State), injectOne s i = none → exec (.packetInject i) s = .next s) ∧
  (∀ (i : Nat) (a : Arrived) (ps : List Nat) (s : State), s.fab.input[i]? = some a → a.here = false →
    ((markPassed s a.pkt).kind = 0 → (markPassed s a.pkt).mcast = false) → nextHop s (markPassed s a.pkt) = .ports ps → (markPassed s a.pkt).hops ≠ 12 →
    tooOld s a.at_ (markPassed s a.pkt) = true →
    exec (.packetForward i) s = .next (dropAged (leaveInput s a i) a.port (markPassed s a.pkt))) ∧
  (∀ (i : Nat) (a : Arrived) (s : State), s.fab.input[i]? = some a → a.here = false → (markPassed s a.pkt).kind = 0 →
    (markPassed s a.pkt).mcast = true →
    exec (.packetForward i) s = .next
      (match mcastFor s (markPassed s a.pkt).dest (markPassed s a.pkt).epoch with
       | none => leafMiss (leaveInput s a i) a.port (sliceOfPort (min a.port 19)) a.at_ (markPassed s a.pkt)
       | some e => replicate (leaveInput s a i) a.port (sliceOfPort (min a.port 19)) a.at_ (markPassed s a.pkt) e))

/-- DATA at its destination (R417, R431): a header or a payload that fails its CRC is dropped and reported; a packet of another epoch is
answered with a NOTICE; one of this epoch is taken in and ends Smouldering (R527). ACK releases the sent packets its cumulative field and
its bitmap name, a NACK puts one off, and a NOTICE ends one (R416, R417, R432); a PROBE is confirmed, and a CONFIRM counts for every
admission that lists its sender (R433). What waited for lines goes on after each. The model's own choices it rests on: log entries 77,
209, 226. -/
def Obligations.TransportMessages : Prop :=
  (∀ (port : Nat) (bs : List Byte) (p : XlPkt) (s : State), parsePkt bs = .hdrBad p →
    exec (.data port bs) s = .next (xrtErr s Fld.XRT_ERR_HDR_BAD port p.dest p.epoch)) ∧
  (∀ (port : Nat) (bs : List Byte) (p : XlPkt) (s : State), parsePkt bs = .crcBad p →
    exec (.data port bs) s = .next (count (xrtErr s Fld.XRT_ERR_CRC_BAD port p.dest p.epoch) bankXrt 15)) ∧
  (∀ (port : Nat) (bs : List Byte) (p : XlPkt) (s t : State), parsePkt bs = .ok p → p.kind = 0 → p.dest = endpointId s →
    police (count (leaveArrival s port p) bankXrt 1) p = (true, t) → epochOk t p.epoch = true → p.mcast = false →
    exec (.data port bs) s = .next (takeData (wakeTrigger t) port p)) ∧
  (∀ (port : Nat) (bs : List Byte) (p : XlPkt) (s t : State), parsePkt bs = .ok p → p.kind = 0 → p.mcast = true →
    police (count (leaveArrival s port p) bankXrt 1) p = (true, t) → epochOk t p.epoch = true →
    exec (.data port bs) s = .next (takeMcast (wakeTrigger t) p)) ∧
  (∀ (port : Nat) (bs : List Byte) (p : XlPkt) (s t : State), parsePkt bs = .ok p → p.kind = 0 → p.dest = endpointId s →
    police (count (leaveArrival s port p) bankXrt 1) p = (true, t) → epochOk t p.epoch = false →
    exec (.data port bs) s = .next (count (sendNotice t p (endpointId t) (if flag t Fld.XRT_EP_FENCED then 0 else 1)) bankXrt 7)) ∧
  (∀ (port : Nat) (bs : List Byte) (p : XlPkt) (s t : State), parsePkt bs = .ok p → p.kind = 0 → p.dest = endpointId s →
    police (count (leaveArrival s port p) bankXrt 1) p = (false, t) → exec (.data port bs) s = .next t) ∧
  (∀ (p : XlPkt) (s u : State), ControlTakes s p 1 u → controlOk s p = true → p.mcast = false →
    exec (.ack p) s = .next (settleWork (resumeLines (dropSent u (flowKey p.src p.tc) (fun x =>
      (seqAhead (p.arg % 65536) x.pkt.seq ≠ 0 && seqAhead (p.arg % 65536) x.pkt.seq < 32768) ||
      (1 ≤ seqAhead x.pkt.seq (p.arg % 65536) && seqAhead x.pkt.seq (p.arg % 65536) ≤ 32 &&
        bitOf p.arg (32 + seqAhead x.pkt.seq (p.arg % 65536) - 1))) released)))) ∧
  (∀ (p : XlPkt) (seq : Nat) (s u : State), ControlTakes s p 1 u → controlOk s p = true → p.mcast = true →
    mcastBy u (p.arg % 2 ^ 32) = some seq → exec (.ack p) s = .next (settleWork (resumeLines (mcastLeaf u seq p.src true)))) ∧
  (∀ (p : XlPkt) (s u : State), ControlTakes s p 2 u → controlOk s p = true → lookup (flowKey p.src p.tc) (timingOpen u).fab.tx = none →
    exec (.nack p) s = .next (settleWork (resumeLines (timingOpen u)))) ∧
  (∀ (p : XlPkt) (f : TxFlow) (s u : State), ControlTakes s p 2 u → controlOk s p = true → lookup (flowKey p.src p.tc) (timingOpen u).fab.tx = some f →
    ∃ later : Sent → Sent, (∀ x, x.pkt.seq ≠ p.arg % 65536 → later x = x) ∧
      (∀ x, x.pkt.seq = p.arg % 65536 → bitsOf p.arg 16 8 = 1 → later x = { x with afterEarlier := true }) ∧
      (∀ x, x.pkt.seq = p.arg % 65536 → bitsOf p.arg 16 8 ≠ 1 → later x = { x with notBefore := (timingOpen u).ticks + 50 }) ∧
      exec (.nack p) s = .next (settleWork (resumeLines { timingOpen u with fab := { (timingOpen u).fab with
        tx := insertK (flowKey p.src p.tc) { f with sent := f.sent.map later } (timingOpen u).fab.tx } }))) ∧
  (∀ (p : XlPkt) (s u : State), ControlTakes s p 3 u → controlOk s p = true → p.mcast = false →
    exec (.notice p) s = .next (settleWork (resumeLines (dropSent u (flowKey p.src p.tc) (fun x => x.pkt.seq = p.arg % 65536)
      fun s x => failSent s x (bitsOf p.arg 16 8))))) ∧
  (∀ (p : XlPkt) (s u : State), ControlTakes s p 1 u → controlOk s p = false → exec (.ack p) s = .next u) ∧
  (∀ (p : XlPkt) (s u : State), ControlTakes s p 4 u → epochOk s p.epoch = true →
    exec (.probe p) s = .next (settleWork (resumeLines (sendControl u (endpointId u) { kind := 5, tc := p.tc, epoch := p.epoch, dest := p.src })))) ∧
  (∀ (p : XlPkt) (s u : State), ControlTakes s p 5 u →
    exec (.confirm p) s = .next (settleWork (resumeLines (u.fab.admits.foldl (fun s e => admitCheck { s with fab := { s.fab with
      admits := insertK e.1 { e.2 with confirmed := if e.2.list.contains p.src then p.src :: e.2.confirmed else e.2.confirmed }
        s.fab.admits } } e.1) u))))

/-- Timers of the transport (R415, R416, R432, R433, R437): a packet is sent again until its tries are used up, after a NACK with reason 1
not before every earlier packet of its flow is acknowledged or RTO_US has passed (R419); a receiving flow with nothing pending is given
up; a job that is not confirmed ends with ST_NOT_CONFIRMED and the number of endpoints missing; the fence's drain opens the quarantine of
2,500 ticks; and the quarantine ends. The model's own choices it rests on: log entries 77, 157, 209, 226. -/
def Obligations.TransportTimers : Prop :=
  (∀ (d tc q : Nat) (f : TxFlow) (x : Sent) (s : State), lookup (flowKey d (tc % 8)) s.fab.tx = some f →
    (f.sent.find? fun x => x.pkt.seq = q) = some x → mayInject s = true → dueAgain s f x = true → fld s Fld.XRT_LIMITS_MAX_TRIES ≤ x.tries →
    exec (.packetResend d tc q) s = .next (settleWork (resumeLines (dropSent s (flowKey d (tc % 8)) (fun y => y.pkt.seq = q)
      fun s y => failSent s y 3)))) ∧
  (∀ (d tc q : Nat) (f : TxFlow) (x : Sent) (s : State), lookup (flowKey d (tc % 8)) s.fab.tx = some f →
    (f.sent.find? fun x => x.pkt.seq = q) = some x → dueAgain s f x = false → exec (.packetResend d tc q) s = .next s) ∧
  (∀ (f : TxFlow) (x y : Sent) (s : State), x.afterEarlier = true → y ∈ f.sent → 0 < seqAhead x.pkt.seq y.pkt.seq →
    seqAhead x.pkt.seq y.pkt.seq < 32768 → s.ticks < x.at_ + 25 * fld s Fld.XRT_LIMITS_RTO_US → dueAgain s f x = false) ∧
  (∀ (d tc q : Nat) (f : TxFlow) (x : Sent) (s : State), lookup (flowKey d (tc % 8)) s.fab.tx = some f →
    (f.sent.find? fun x => x.pkt.seq = q) = some x → mayInject s = true → dueAgain s f x = true → x.tries < fld s Fld.XRT_LIMITS_MAX_TRIES →
    ∃ (u : State) (o : Outgoing), u.fab.inject = s.fab.inject ++ [o] ∧ o.pkt.seq = x.pkt.seq ∧ o.pkt.hops = 0 ∧ o.again = true ∧
      u.wsp = s.wsp ∧ exec (.packetResend d tc q) s = .next (count (timingOpen u) bankXrt 12)) ∧
  (∀ (d tc q : Nat) (s : State), lookup (flowKey d (tc % 8)) s.fab.tx = none → exec (.packetResend d tc q) s = .next s) ∧
  (∀ (src tc : Nat) (f : RxFlow) (s : State), lookup (flowKey src (tc % 8)) s.fab.rx = some f → f.ackPending = false → f.held = [] → f.arrived = [] →
    exec (.flowEntryFree src tc) s = .next { s with fab := { s.fab with rx := eraseK (flowKey src (tc % 8)) s.fab.rx
                                                                        rxKept := insertK (flowKey src (tc % 8)) f.expected s.fab.rxKept } }) ∧
  (∀ (sl : Nat) (s : State), mayInject s = false → exec (.ackSend sl) s = .next s) ∧
  (∀ (sl : Nat) (s : State), mayInject s = true → (∀ e ∈ s.fab.rx, e.2.ackPending = false) → exec (.ackSend sl) s = .next s) ∧
  (∀ (key sl : Nat) (f : RxFlow) (s : State), mayInject s = true → s.fab.rx = [(key, f)] → f.ackPending = true → ackWaits s key = false →
    (key / 8 + key % 8) % 4 = sl →
    ∃ n : Nat, n % 65536 = f.expected % 65536 ∧
      exec (.ackSend sl) s = .next (sendControl (setFlow s key { f with ackPending := false }) (endpointId s)
        { kind := 1, tc := key % 8, epoch := curEpoch s, dest := key / 8, arg := n })) ∧
  (∀ (seq : Nat) (a : Admit) (s : State), lookup seq s.fab.admits = some a →
    exec (.jobAdmitProbeTimer seq) s = .next (sendProbes s a)) ∧
  (∀ (seq ep i : Nat) (a : Admit) (rest : List (Nat × Nat)) (s : State), lookup seq s.fab.admits = some a →
    ((a.list.zip (upFrom 0 a.list.length)).filter fun e => !a.confirmed.contains e.1) = (ep, i) :: rest →
    exec (.jobAdmitTimeout seq) s = .next (completeWith { s with fab := { s.fab with admits := eraseK seq s.fab.admits } } seq
      stNotConfirmed (rest.length + 1) ep i)) ∧
  (∀ s : State, flag s Fld.XRT_EP_DRAINING = true →
    ∃ u : State, flag u Fld.XRT_EP_DRAINING = false ∧ flag u Fld.XRT_EP_QUARANTINE = true ∧
      u.fab.tx = [] ∧ exec .fenceDrainDone s = .next (s.fab.fence.seqs.foldl (fun v q => completeWith v q stOk 0 (s.ticks + 2500)) u)) ∧
  (∀ s : State, ∃ u, exec .quarantineEnd s = .next u ∧ flag u Fld.XRT_EP_QUARANTINE = false ∧ { u with regs := s.regs } = s) ∧
  (∀ (seq : Nat) (m : McastOut) (c : OpenCmd) (s : State), lookup seq s.fab.mcastOut = some m → s.cmd seq = some c →
    m.tries < fld s Fld.XRT_LIMITS_MAX_TRIES → mcastFor s m.group (curEpoch s) = none → exec (.mcastResend seq) s = .next s) ∧
  (∀ (seq : Nat) (m : McastOut) (c : OpenCmd) (e : McastEntry) (s : State), lookup seq s.fab.mcastOut = some m → s.cmd seq = some c →
    m.tries < fld s Fld.XRT_LIMITS_MAX_TRIES → mcastFor s m.group (curEpoch s) = some e →
    ∃ u : State, lookup seq u.fab.mcastOut = some { m with tries := m.tries + 1, at_ := s.ticks } ∧
      exec (.mcastResend seq) s = .next (((upFrom 0 m.leaves.length).filter fun i => !m.acked.contains i && !m.undelivered.contains i).foldl
        (fun s i => m.packets.foldl (fun s p => count (sendMcastPkt s c.func seq m e (some (m.leaves.getD i 0)) p) bankXrt 12) s) u))

/-- The shaper (R464–R469): a slice whose port bucket is closed starts nothing; SHP_BUCKET_CFG_WRITE by a virtual function, or of a bucket
that does not exist, changes nothing, and one that changes a bucket's rate or size gives it new tokens. A packet of the service that is
due, in a slice whose buckets are open, joins the injection queue. -/
def Obligations.ShaperRows : Prop :=
  (∀ (sl : Nat) (s : State), bktOpen s .port (sl % 4) = false → exec (.shaperStart sl) s = .next s) ∧
  (∀ (sl : Nat) (s : State), bktOpen s .port (sl % 4) = true → s.fab.held = [] →
    exec (.shaperStart sl) s = .next s) ∧
  (∀ (sl v d i : Nat) (o : Outgoing) (front : List (Nat × Outgoing)) (s : State), sl < 4 → bktOpen s .port sl = true →
    front = (frontPackets s sl).filter (fun e => (passes s e.2).isSome) → front.filter (fun e => bktOpen s .svc e.2.svc) = front →
    front ≠ [] →
    drrPick 64 (fun v => (front.find? fun e => e.2.svc = v).map fun e => e.2.pkt.size + bktOverhead s .svc v)
      (fun v => fld s Fld.SHP_SVC_CFG_WEIGHT v) (fun v => lookupD 0 (sl * 64 + v) s.fab.svcDeficit) (lookupD 63 sl s.fab.lastSvc) =
      some (v, d) → front.find? (fun e => e.2.svc = v) = some (i, o) →
    ∃ u, exec (.shaperStart sl) s = .next u ∧ u.fab.held = s.fab.held.eraseIdx i ∧
      u.fab.inject = s.fab.inject ++ [{ o with pkt := { o.pkt with shapeTag := o.sub + v * 2 ^ 10 } }] ∧
      u.fab.lastSvc = insertK sl v s.fab.lastSvc) ∧
  (∀ (f : Nat) (l : Level) (i v : Nat) (s : State), f ≠ 0 ∨ l.cfg.n ≤ i → exec (.shpBucketCfgWrite f l i v) s = .next s) ∧
  (∀ (l : Level) (i v : Nat) (s : State), i < l.cfg.n →
    bitsOf (raw s l.cfg i) 0 41 ≠ bitsOf (raw (writeReg s l.cfg i 0 v) l.cfg i) 0 41 →
    exec (.shpBucketCfgWrite 0 l i v) s = .next (setTokens (writeReg s l.cfg i 0 v) l i
      (if bitOf v 42 then bktCap (writeReg s l.cfg i 0 v) l i else 0)))

/-- Forming and leaving (R445–R449): a JOIN that agrees adds its sender and is answered; READY counts once for a member; ABORT_JOIN undoes
a member's; LEAVE and LOST are acknowledged; JOIN is repeated to every member that has not joined, and a FLASK not formed in time ends its
command with ST_NOT_CONFIRMED. The lines of a FLASK (R450–R458): GET_S and GET_M go to the directory of the home; PUT_M writes the owner's
line back and is acknowledged; INV gives a copy up; RECALL answers a modified line with its data, and again where it is sent again (R458);
data and acknowledgements end their transaction; an unanswered request is sent again; and a clean line may be dropped, a modified one not.
The model's own choices it rests on: log entries 73, 178, 179, 209. -/
def Obligations.FlaskMessages : Prop :=
  (∀ (m : JoinMsg) (r : Nat) (s : State), epochOk s m.epoch = true → rankOfEp s m.src = some r → s.flk.phase ≠ .out → m.flask = s.flk.id →
    m.count = s.flk.members.length → m.digest = listDigest s.flk.members → m.major = 1 → r ≠ s.flk.rank → hasK r s.flk.joined = false →
    s.fab.eject = [] →
    exec (.join m) s = .next (joinAdvance (sendJoin { s with flk := { s.flk with joined := insertK r m.minor s.flk.joined } } r))) ∧
  (∀ (m : JoinMsg) (s : State), epochOk s m.epoch = false → exec (.join m) s = .next s) ∧
  (∀ (i : RmIn) (r : Nat) (t s : State), i.rm.op = 0x11 → epochOk s i.epoch = true → t = rmConsume s 2 i → rankOfEp t i.src = some r →
    t.flk.phase ≠ .out → i.rm.flask = t.flk.id → t.flk.readied.contains r = false →
    exec (.ready i) s = .next (joinAdvance { t with flk := { t.flk with readied := r :: t.flk.readied } })) ∧
  (∀ (i : RmIn) (r : Nat) (t s : State), i.rm.op = 0x12 → epochOk s i.epoch = true → t = rmConsume s 2 i → rankOfEp t i.src = some r →
    i.rm.flask = t.flk.id →
    exec (.abortJoin i) s = .next (if inFlask t then settleWork (resumeLines (declareLost t r))
      else { t with flk := { t.flk with joined := eraseK r t.flk.joined, readied := t.flk.readied.filter (· ≠ r) } })) ∧
  FlaskActs .lost 0x14 (fun i s r => learnLost (sendFlask s r 0x27 i.rm.tid 0 [] false) i.line) ∧
  (∀ (i : RmIn) (r : Nat) (s : State), FlaskFrom s i 0x13 r →
    ∃ u : State, u.flk.left = (sendFlask (rmConsume s 2 i) r 0x27 i.rm.tid 0 [] false).flk.left ++ [r] ∧
      (∀ e ∈ u.flk.cache, e.1 / 2 ^ 28 ≠ r) ∧ (∀ e ∈ u.flk.txns, e.1 / 256 ≠ r) ∧
      exec (.leave i) s = .next (settleWork (leaveAdvance (resumeLines (homePump (flkRegs u)))))) ∧
  (∀ s : State, s.flk.phase = .joining →
    exec .flaskJoinRetry s = .next ((peerRanks s).foldl (fun s r => if hasK r s.flk.joined then s else sendJoin s r) s)) ∧
  (∀ (seq : Nat) (s : State), s.flk.cmd = some seq → s.flk.phase = .joining ∨ s.flk.phase = .ready →
    ∃ (n ep first : Nat) (u : State), n = ((peerRanks s).filter fun r => !(hasK r s.flk.joined && s.flk.readied.contains r)).length ∧
      u = dropFlask ((peerRanks s).foldl (fun s r => sendFlask s r 0x12 0 0 [] false) s) ∧
      exec .flaskJoinTimeout s = .next (completeWith u seq stNotConfirmed n ep first)) ∧
  FlaskActs .getS 0x20 (fun i s r => homeRequest s i r) ∧
  FlaskActs .getM 0x21 (fun i s r => homeRequest s i r) ∧
  (∀ (i : RmIn) (r : Nat) (t s : State), FlaskFrom s i 0x22 r → t = rmConsume s 2 i →
    exec (.putM i) s = .next (settleWork (leaveAdvance (resumeLines (homePump (sendFlask
      (if (dirOf t i.line).owner = some r then
        setDir (wspStore true t (t.flk.window + i.line * lineBytes) i.rm.bytes) i.line { dirOf t i.line with owner := none }
      else t) r 0x27 i.rm.tid i.rm.addr [] false)))))) ∧
  FlaskActs .inv 0x24 (fun i s r => sendFlask (giveUp (timingOpen (count s bankFlk 3)) r i.line) r 0x27 i.rm.tid i.rm.addr [] true) ∧
  (∀ (i : RmIn) (r : Nat) (bs : List Byte) (t s : State), FlaskFrom s i 0x25 r →
    t = timingOpen (count (rmConsume s 2 i) bankFlk 3) → lookup (lineKey r i.line) t.flk.cache = some { modified := true, data := bs } →
    ∃ u : State, u.flk.given = insertK (r * 256 + i.rm.tid) (i.line, bs) t.flk.given ∧
      u.flk.cache = eraseK (lineKey r i.line) t.flk.cache ∧
      exec (.flaskRecall i) s = .next (settleWork (leaveAdvance (resumeLines (sendFlask u r 0x26 i.rm.tid i.rm.addr bs true))))) ∧
  (∀ (i : RmIn) (r : Nat) (bs : List Byte) (t s : State), FlaskFrom s i 0x25 r →
    t = timingOpen (count (rmConsume s 2 i) bankFlk 3) → lookup (lineKey r i.line) t.flk.cache = none →
    lookup (r * 256 + i.rm.tid) t.flk.given = some (i.line, bs) →
    exec (.flaskRecall i) s = .next (settleWork (leaveAdvance (resumeLines (sendFlask t r 0x26 i.rm.tid i.rm.addr bs true))))) ∧
  (∀ (i : RmIn) (r : Nat) (t s : State), FlaskFrom s i 0x25 r → t = timingOpen (count (rmConsume s 2 i) bankFlk 3) →
    (lookup (lineKey r i.line) t.flk.cache = none ∧ ((lookup (r * 256 + i.rm.tid) t.flk.given).all fun x => x.1 ≠ i.line) = true ∨
      ((lookup (lineKey r i.line) t.flk.cache).any fun x => !x.modified) = true) →
    exec (.flaskRecall i) s = .next (settleWork (leaveAdvance (resumeLines
      (sendFlask (giveUp t r i.line) r 0x27 i.rm.tid i.rm.addr [] true))))) ∧
  (∀ (i : RmIn) (r : Nat) (x : FlaskTxn) (t s : State), FlaskFrom s i 0x26 r → inject (rmConsume s 2 i) 0xF r = (false, t) →
    lookup (r * 256 + i.rm.tid) t.flk.txns = some x → x.op = 0x20 ∨ x.op = 0x21 → x.stale = false →
    exec (.flaskData i) s = .next (settleWork (leaveAdvance (resumeLines { t with flk := { t.flk with
      txns := eraseK (r * 256 + i.rm.tid) t.flk.txns
      cache := insertK (lineKey r x.line) { modified := x.op = 0x21, data := i.rm.bytes } t.flk.cache
      given := t.flk.given.filter fun e => e.1 / 256 ≠ r || e.2.1 ≠ x.line } })))) ∧
  (∀ (i : RmIn) (r : Nat) (x : FlaskTxn) (t s : State), FlaskFrom s i 0x27 r → inject (rmConsume s 2 i) 0xF r = (false, t) →
    lookup (r * 256 + i.rm.tid) t.flk.txns = some x →
    exec (.flaskAck i) s = .next (settleWork (leaveAdvance (resumeLines
      (if x.op = 0x24 ∨ x.op = 0x25 then homeEnded t r i.rm.tid [] else if x.op = 0x20 ∨ x.op = 0x21 then t
       else { t with flk := { t.flk with txns := eraseK (r * 256 + i.rm.tid) t.flk.txns } }))))) ∧
  (∀ (r tid : Nat) (s : State), exec (.flaskRetry r tid) s = .next (settleWork (resumeLines (retryTxn s (r * 256 + tid % 256))))) ∧
  (∀ (r line : Nat) (x : FlaskLine) (s : State), lookup (lineKey r line) s.flk.cache = some x →
    exec (.flaskLineDrop r line) s = .next (if x.modified then s
      else { s with flk := { s.flk with cache := eraseK (lineKey r line) s.flk.cache } }))

/-- A REMOTE message that is taken in (R460–R463): WRITE stores its bytes where its range may be written and no member holds a line of it,
and answers a refusal with its type; READ answers the bytes; ATOMIC writes the new value and answers the old; READ_DATA and ATOMIC_RESULT
reach the command that asked, an empty one ending it. The model's own choices it rests on: log entries 166, 180, 209, 227. -/
def Obligations.RemoteMessages : Prop :=
  (∀ (i : RmIn) (s : State), RemoteTakes s i 1 → remoteRefusal s i.rm.addr i.rm.dlen = none →
    (∀ ls, coherentReady s i.rm.addr i.rm.dlen ≠ .lines ls) →
    exec (.write i) s = .next (settleWork (coherentWrite (rmConsume s 1 i) (fun s a bs => wspStore true s a bs) i.rm.addr i.rm.bytes))) ∧
  (∀ (i : RmIn) (n : Nat) (s : State), RemoteTakes s i 1 → remoteRefusal s i.rm.addr i.rm.dlen = some n →
    exec (.write i) s = .next (settleWork (respond (rmConsume s 1 i) i 3 n [] false))) ∧
  (∀ (i : RmIn) (ls : List LineNeed) (s : State), RemoteTakes s i 1 → remoteRefusal s i.rm.addr i.rm.dlen = none →
    coherentReady s i.rm.addr i.rm.dlen = .lines ls → exec (.write i) s = .next (settleWork (askLines s ls))) ∧
  (∀ (i : RmIn) (bs : List Byte) (t s : State), RemoteTakes s i 2 → remoteRefusal s i.rm.addr i.rm.dlen = none →
    localRead s i.rm.addr i.rm.dlen = .ok bs → slotFor s i = some t →
    exec (.read i) s = .next (settleWork (respond (rmConsume (noteReads t i.rm.addr i.rm.dlen) 1 i) i 3 0 bs true))) ∧
  (∀ (i : RmIn) (n : Nat) (t s : State), RemoteTakes s i 2 → remoteRefusal s i.rm.addr i.rm.dlen = some n → slotFor s i = some t →
    exec (.read i) s = .next (settleWork (respond (rmConsume t 1 i) i 3 n [] true))) ∧
  (∀ (i : RmIn) (q : Nat) (t s : State), RemoteTakes s i 2 → remoteRefusal s i.rm.addr i.rm.dlen = none →
    localRead s i.rm.addr i.rm.dlen = .lost q → slotFor s i = some t →
    exec (.read i) s = .next (settleWork (respond (rmConsume (meetLost t q) 1 i) i 3 2 [] true))) ∧
  (∀ (i : RmIn) (bs : List Byte) (t s : State), RemoteTakes s i 4 → i.rm.type < 2 → remoteRefusal s i.rm.addr 8 = none →
    localRead s i.rm.addr 8 = .ok bs → (∀ ls, coherentReady s i.rm.addr 8 ≠ .lines ls) → slotFor s i = some t →
    exec (.atomic i) s = .next (settleWork (respond (count (coherentWrite (rmConsume (noteReads t i.rm.addr 8) 1 i) (fun s a bs => wspStore true s a bs) i.rm.addr
      (leBytes 8 (atomicValue i.rm.aop i.rm.type 64 (leNat bs) (leNat (i.rm.data.take 8)) (leNat ((i.rm.data.drop 8).take 8)))))
      bankFlk 9) i 5 0 (leBytes 8 (leNat bs)) true))) ∧
  (∀ (i : RmIn) (s : State), RemoteTakes s i 3 → remoteOf (rmConsume s 1 i) i = none →
    exec (.readData i) s = .next (settleWork (rmConsume s 1 i))) ∧
  (∀ (i : RmIn) (seq off n : Nat) (x : RemoteOp) (c : OpenCmd) (t s : State), RemoteTakes s i 3 → t = rmConsume s 1 i →
    remoteOf t i = some (seq, x) → i.rm.dlen ≠ 0 → lookup i.rm.tid x.wanted = some (off, n) → t.cmd seq = some c →
    exec (.readData i) s = .next (settleWork (finishRead (askRemote ({ t with fab := { t.fab with
      tids := eraseK (i.src * 256 + i.rm.tid) t.fab.tids } }.setRemote seq
        { x with wanted := eraseK i.rm.tid x.wanted, data := writeBytes off i.rm.bytes x.data }) seq c.func 1) seq))) ∧
  (∀ (i : RmIn) (seq : Nat) (x : RemoteOp) (t s : State), RemoteTakes s i 5 → t = rmConsume s 1 i → remoteOf t i = some (seq, x) →
    exec (.atomicResult i) s = .next (settleWork (if i.rm.dlen = 0 then endRemote t seq (refusedRemote i.rm.type)
      else endRemote t seq { status := stOk, word0 := leNat i.rm.bytes })))

/-! ## Power and resets -/

/-- The power manager's rows (R537–R540): a sample at or above a threshold takes the core clock one step down, one cool and low enough one
step up, and any other holds it; a critical limit drops it to 600 MHz until the hold ends; the duty interval turns; and the trip limit
switches domains 1–34 off. The model's own choices it rests on: log entries 39, 128. -/
def Obligations.PowerManagerRows : Prop :=
  (∀ (x : PowerSample) (t s : State), t = injectThrottle (takeReadings s x) → x.inlet < (fld t Fld.PWR_THERM_INLET_WARN_C : Int) →
    t.pwr.critical = false → powerState t = 1 → ((hotReading t x).isSome || decide (fld t Fld.PWR_LIMIT_SUSTAINED_W < x.input)) = true →
    exec (.powerSample x) s = .next (throttleEvent (throttled s) (stepDown t (hotReading t x)
      (decide (fld t Fld.PWR_LIMIT_SUSTAINED_W < x.input))))) ∧
  (∀ (x : PowerSample) (t s : State), t = injectThrottle (takeReadings s x) → x.inlet < (fld t Fld.PWR_THERM_INLET_WARN_C : Int) →
    t.pwr.critical = false → powerState t = 1 → hotReading t x = none → x.input ≤ fld t Fld.PWR_LIMIT_SUSTAINED_W →
    exec (.powerSample x) s = .next (throttleEvent (throttled s)
      (if coolBy t x 3 = true ∧ 100 * x.input ≤ 97 * fld t Fld.PWR_LIMIT_SUSTAINED_W then stepUp t else stepHold t x))) ∧
  (∀ (r : Reading) (s : State), powerState s = 1 →
    ∃ u : State, u.pwr.critical = true ∧ u.pwr.mhz = 600 ∧
      exec (.criticalLimit r) s = .next (throttleEvent (throttled s) (count (setErr (pwrInfo u 3 r.sensor r.unit r.temp 0)
        Fld.PWR_ERR_CRITICAL) bankPwr 8))) ∧
  (∀ s : State, exec .criticalHoldEnd s = .next { s with pwr := { s.pwr with critical := false } }) ∧
  (∀ s : State, exec .dutyIntervalEnd s = .next (if flag s Fld.PWR_STATUS_DUTY then { s with pwr := { s.pwr with
    dutyHold := !s.pwr.dutyHold } } else s)) ∧
  (∀ (r : Reading) (s : State), powerState s ≠ 0 → powerState s ≠ 6 →
    ∃ t, exec (.tripLimit r) s = .next t ∧ powerState t = 6 ∧ (∀ d, 1 ≤ d → domainOn t d = false) ∧ t.wsp.dram = [] ∧ t.wsp.nand = s.wsp.nand ∧
      flag t Fld.PWR_ERR_TRIPPED = true) ∧
  (∀ (x : PowerSample) (s : State), flag s Fld.PRT_CTL_ENABLE = false → x.inlet < (fld s Fld.PWR_THERM_INLET_WARN_C : Int) →
    s.pwr.critical = false → powerState s = 1 → (fld s Fld.PWR_THERM_DIE_THROTTLE_C : Int) ≤ x.die →
    ∃ t, exec (.powerSample x) s = .next t ∧ (600 < s.pwr.mhz → t.pwr.mhz = max 600 (s.pwr.mhz - 50)) ∧
      t.pwr.cooled = false ∧ t.wsp = s.wsp) ∧
  (∀ (x : PowerSample) (s : State), flag s Fld.PRT_CTL_ENABLE = false → x.inlet < (fld s Fld.PWR_THERM_INLET_WARN_C : Int) →
    s.pwr.critical = false → powerState s = 1 → coolBy s x 3 = true → 100 * x.input ≤ 97 * fld s Fld.PWR_LIMIT_SUSTAINED_W →
    ∃ t, exec (.powerSample x) s = .next t ∧ t.pwr.mhz = min (fld s Fld.CLK_CORE_CAP_MHZ) (s.pwr.mhz + 50) ∧
      flag t Fld.PWR_STATUS_DUTY = false ∧ t.wsp = s.wsp) ∧
  (∀ (r : Reading) (s : State), powerState s = 1 →
    ∃ t, exec (.criticalLimit r) s = .next t ∧ t.pwr.critical = true ∧ t.pwr.mhz = 600 ∧ flag t Fld.PWR_ERR_CRITICAL = true)

/-- R536: the loss of PLL 6's lock retrains the ports that run; that of the PCIe PLL takes the link down; and any other raises a class 6
error, sets CLK_ERR.LOCK_LOST and stops command processing until a warm reset. The model's own choices it rests on: log entry 46. -/
def Obligations.PllLockLost : Prop :=
  (∀ s : State, exec (.pllLockLost 6) s = .next ((upFrom 0 20).foldl (fun s p =>
    if fld s Fld.FAB_PORT_STATUS_STATE p = 0 ∨ fld s Fld.FAB_PORT_STATUS_STATE p = 6 then s else retrainPort s p) s)) ∧
  (∀ s : State, exec (.pllLockLost 7) s = exec .pcieLinkDown s) ∧
  (∀ s : State, s.pwr.reset = none → powerState s = 1 → s.hif.l23 = false → WarmReset s (exec (.pllLockLost 7) s) 3) ∧
  (∀ (p : Nat) (s : State), p < 6 →
    ∃ u t : State, t = raiseErr u Fld.CLK_ERR_LOCK_LOST 0 .fatal { unit := p } ∧ flag t Fld.CLK_ERR_LOCK_LOST = true ∧
      t.cp.cores.stopped = true ∧ exec (.pllLockLost p) s = .next t) ∧
  (∀ (p : Nat) (s t : State), p < 6 → exec (.pllLockLost p) s = .next t → s.pwr.reset = none → powerState s = 1 →
    ∃ u, exec (.rstCtlWarm 0 0xB7) t = .next u ∧ u.cp.cores.stopped = false)

/-- Power gating and the low-power states (R525–R534): an idle row or pair of routing engines is switched off where gating is on, and on
again where it wakes; entry to Smouldering and to Banked starts, ends and is refused as R526 to R529 say. -/
def Obligations.PowerStateRows : Prop :=
  (∀ (row : Nat) (s : State), row < 19 → domainOn s (16 + row) = true → flag s Fld.PWR_CTL_ROW_GATE_EN = true →
    ((tilesOfRow row).all fun t => !(s.tile t).clkOn) = true → rowFree s row = true → (minRows s).contains row = false →
    ∃ t, exec (.rowIdleTimeout row) s = .next t ∧ domainOn t (16 + row) = false ∧ t.pwr.goingDown.contains (16 + row) = true) ∧
  (∀ (row : Nat) (s : State), domainOn s (16 + row) = false ∨ flag s Fld.PWR_CTL_ROW_GATE_EN = false ∨ rowFree s row = false →
    exec (.rowIdleTimeout row) s = .next s) ∧
  (∀ (d : Nat) (t s : State), s.pwr.goingDown.contains d = true →
    t = { s with pwr := { s.pwr with goingDown := s.pwr.goingDown.filter (· ≠ d) } } →
    exec (.powerDownDone d) s = .next
      (if (16 ≤ d ∧ rowWanted t (d - 16) = true) ∨ (12 ≤ d ∧ d ≤ 13 ∧ pairWanted t (d - 12) = true) then count t bankPwr 9 else t)) ∧
  (∀ (row : Nat) (s : State), row < 19 → domainOn s (16 + row) = false → s.pwr.goingDown.contains (16 + row) = false → stoked s = true →
    exec (.rowWakeDone row) s = .next (resumeRow (count (switchOn s (16 + row)) bankPwr 0) row)) ∧
  (∀ (pair : Nat) (s : State), pair < 2 → domainOn s (12 + pair) = true → flag s Fld.PWR_CTL_RE_GATE_EN = true → pairBusy s pair = false →
    ∃ t, exec (.rePairIdleTimeout pair) s = .next t ∧ domainOn t (12 + pair) = false ∧ t.pwr.goingDown.contains (12 + pair) = true) ∧
  (∀ (pair : Nat) (s : State), pair < 2 → domainOn s (12 + pair) = false → s.pwr.goingDown.contains (12 + pair) = false → stoked s = true →
    exec (.rePairWakeDone pair) s = .next (count (switchOn s (12 + pair)) bankPwr 2)) ∧
  (∀ s : State, exec .smoulderIdleTimeout s =
    .next (if flag s Fld.PWR_CTL_AUTO_SMOULDER = true ∧ stoked s = true ∧ mayIdle s = true then startSmoulder s else s)) ∧
  (∀ s : State, exec .smoulderEntry s =
    .next (if flag s Fld.PWR_STATUS_SMOULDER_PENDING = true ∧ stoked s = true ∧ mayIdle s = true then startSmoulder s else s)) ∧
  (∀ s : State, powerState s = 4 → s.pwr.target = 1 →
    ∃ t, exec .smoulderEntryDone s = .next t ∧ powerState t = 2 ∧ ∀ d < 23, domainOn t (12 + d) = false) ∧
  (∀ s : State, exec (.pwrReqStoked 0) s = .next (wakeTrigger (setFld s Fld.PWR_STATUS_SMOULDER_PENDING 0))) ∧
  (∀ s : State, stoked s = true → mayIdle s = true → exec (.pwrReqSmoulder 0) s = .next (startSmoulder s)) ∧
  (∀ s : State, stoked s = true → mayIdle s = false →
    exec (.pwrReqSmoulder 0) s = .next (setFld s Fld.PWR_STATUS_SMOULDER_PENDING 1)) ∧
  (∀ (r : Nat) (s : State), bankedRefusal s = some r →
    exec (.pwrReqBanked 0) s = .next (setErr (pwrInfo s 0 0 0 0 r) Fld.PWR_ERR_REQ_REFUSED)) ∧
  (∀ s : State, bankedRefusal s = none → powerState s = 1 →
    ∃ t, exec (.pwrReqBanked 0) s = .next t ∧ powerState t = 4 ∧ t.pwr.target = 2) ∧
  (∀ (f : Nat) (s : State), f ≠ 0 → exec (.pwrReqStoked f) s = .next s ∧ exec (.pwrReqSmoulder f) s = .next s ∧
    exec (.pwrReqBanked f) s = .next s) ∧
  (∀ s : State, powerState s = 4 → s.pwr.target = 2 → s.wsp.moves = [] →
    ∃ t, exec .bankedEntered s = .next t ∧ powerState t = 3 ∧ (∀ d < 34, domainOn t (1 + d) = false) ∧ t.hif.l23 = true ∧
      fld t Fld.HIF_LINK_SPEED = 0) ∧
  (∀ s : State, powerState s = 3 → ∃ t, exec (.bankedExit false) s = .next t ∧ powerState t = 5 ∧ t.pwr.leaving = 3) ∧
  (∀ s : State, powerState s = 5 → s.pwr.leaving ≠ 0 → s.pwr.warmWanted = none →
    ∃ t, exec .wakeComplete s = .next t ∧ powerState t = 1 ∧ t.pwr.leaving = 0)

/-- R530: the 54 V main input fails while the module is Banked: DRAM contents are lost, and the next application of main power is a main
power-up. -/
def Obligations.MainFailsWhileBanked : Prop :=
  ∀ s : State, powerState s = 3 → s.pwr.mainOn = true → s.pwr.standbyOn = true →
    ∃ t u, exec .mainPowerLoss s = .next t ∧ t.wsp.dram = [] ∧ exec .mainPowerUp t = .next u ∧ fld u Fld.RST_CAUSE_KIND = 1 ∧
      u.pwr.reset = some .main ∧ u.wsp.dram = []

/-- What a warm reset through its request leaves (R541, R542, R545): no command, no queue of a function and no group, READY 0, its kind
and source in RST_CAUSE, and the fuses as they were. Module reset, power and bring-up (R541, R544, R545, R550): a module reset and main
power start bring-up; loss of main power leaves the ember domain alone; loss of standby clears the tick count and the chain address; a
step that times out is reported by its kind; and RESET_COMPLETE makes the module READY. The model's own choices it rests on: log entries
4, 40, 46, 48, 173. -/
def Obligations.ResetRows : Prop :=
  (∀ s : State, s.pwr.reset = none → powerState s = 1 → WarmReset s (exec (.rstCtlWarm 0 0xB7) s) 1) ∧
  (∀ (f k : Nat) (s : State), f ≠ 0 ∨ k ≠ 0xB7 → exec (.rstCtlWarm f k) s = .next s ∧ exec (.rstCtlModule f k) s = .next s) ∧
  (∀ s : State, s.pwr.reset = none → powerState s = 1 → flag s Fld.RST_CFG_AUTO_WARM = true → s.ras.fatal = true →
    WarmReset s (exec .autoWarmTimeout s) 5) ∧
  (∀ s : State, flag s Fld.RST_CFG_AUTO_WARM = false ∨ s.ras.fatal = false → exec .autoWarmTimeout s = .next s) ∧
  (∀ s : State, s.pwr.reset = none → powerState s = 1 → WarmReset s (exec .perstAssert s) 3) ∧
  (∀ s : State, powerState s = 3 → exec .perstAssert s = .next { s with pwr := { s.pwr with perst := true } }) ∧
  (∀ s : State, s.pwr.reset = none → powerState s = 1 → WarmReset s (exec .hotReset s) 3) ∧
  (∀ s : State, s.pwr.reset = none → powerState s = 1 → s.hif.l23 = false → WarmReset s (exec .pcieLinkDown s) 3) ∧
  (∀ s : State, s.pwr.reset = none → powerState s = 1 →
    ∃ t, exec (.rstCtlModule 0 0xB7) s = .next t ∧ powerState t = 5 ∧ t.pwr.reset = some .module ∧ t.cp.cmds = [] ∧ t.wsp.dram = [] ∧
      t.wsp.nand = s.wsp.nand ∧ fld t Fld.RST_CAUSE_KIND = 2 ∧ fld t Fld.RST_CAUSE_SOURCE = 1) ∧
  (∀ s : State, flag s Fld.MGT_TEST_TEST_MODE = true → s.pwr.reset = none → powerState s = 1 →
    ∃ t, exec .dbgRst s = .next t ∧ powerState t = 5 ∧ t.pwr.reset = some .module ∧ fld t Fld.RST_CAUSE_SOURCE = 6) ∧
  (∀ s : State, flag s Fld.MGT_TEST_TEST_MODE = false → exec .dbgRst s = .next s) ∧
  (∀ s : State, s.pwr.mainOn = true →
    ∃ t, exec .mainPowerLoss s = .next t ∧ powerState t = 0 ∧ t.pwr.mainOn = false ∧ t.wsp.dram = [] ∧ t.wsp.nand = s.wsp.nand ∧
      t.ticks = s.ticks ∧ (∀ d, 1 ≤ d → domainOn t d = false) ∧ domainOn t 0 = s.pwr.standbyOn) ∧
  (∀ s : State, s.pwr.mainOn = false → s.pwr.standbyOn = true →
    ∃ t, exec .mainPowerUp s = .next t ∧ powerState t = 5 ∧ t.pwr.reset = some .main ∧ fld t Fld.RST_CAUSE_KIND = 1) ∧
  (∀ s : State, s.pwr.standbyOn = true →
    ∃ t, exec .standbyLoss s = .next t ∧ t.ticks = 0 ∧ fld t Fld.MGT_CHAIN_ADDR = 0 ∧ t.pwr.standbyOn = false ∧ t.wsp.nand = s.wsp.nand) ∧
  (∀ s : State, s.pwr.standbyOn = false →
    ∃ t, exec .standbyPowerUp s = .next t ∧ t.ticks = 0 ∧ t.pwr.standbyOn = true ∧ flag t Fld.MGT_CHAIN_OUT_ON = true) ∧
  (∀ s : State, s.pwr.reset = none → exec (.resetComplete none) s = .next s) ∧
  (∀ (k : ResetKind) (x : Option SelfTest) (s : State), s.pwr.reset = some k →
    ∃ t, exec (.resetComplete x) s = .next t ∧ t.pwr.reset = none ∧ powerState t = 1 ∧ flag t Fld.RST_STATUS_READY = true) ∧
  (∀ (u : Nat) (s : State), s.pwr.reset = some .module ∨ s.pwr.reset = some .main →
    exec (.bringupStepTimeout 4 u) s = .next (failStack (readMap s) u 2)) ∧
  (∀ (u : Nat) (s : State), s.pwr.reset = none → powerState s ≠ 5 → exec (.bringupStepTimeout 4 u) s = .next s)

/-! ## The host interface and the other units -/

/-- Functions and the link (R541, R543, R561–R563, R567): until READY a configuration request is put off and counted; an FLR ends the
function's queues and its D3hot; VF Enable, D3hot and the messages of power management do as R562, R563 and R567 say; a link that trains
shows its speed and width. The model's own choices it rests on: log entry 209. -/
def Obligations.FunctionsAndLink : Prop :=
  (∀ (f : Nat) (s : State), f ≤ 32 → flag s Fld.RST_STATUS_READY = false →
    exec (.flr f) s = .next (count s bankHif 5) ∧ exec (.d3hotEnter f) s = .next (count s bankHif 5) ∧
    exec (.d3hotExit f) s = .next (count s bankHif 5) ∧ exec (.vfEnable f) s = .next (count s bankHif 5) ∧
    exec .vfDisable s = .next (count s bankHif 5)) ∧
  (∀ (f : Nat) (s : State), 1 ≤ f → f ≤ 32 → flag s Fld.RST_STATUS_READY = true →
    ∃ u : State, u = endTestMode (resetFunction s f) ∧ (∀ e ∈ u.cp.sqs, e.1 / 1024 ≠ f) ∧ (∀ e ∈ u.cp.cqs, e.1 / 1024 ≠ f) ∧
      u.hif.d3hot.contains f = false ∧ exec (.flr f) s = .next (settleWork u)) ∧
  (∀ s : State, flag s Fld.RST_STATUS_READY = true →
    ∃ u : State, u.hif.vfEnable = false ∧ u.hif.numVfs = 0 ∧ fld u Fld.HIF_LINK_EID = 0 ∧ exec (.flr 0) s = .next (settleWork u)) ∧
  (∀ (n : Nat) (s : State), n ≤ 32 → flag s Fld.RST_STATUS_READY = true → s.hif.vfEnable = false →
    exec (.vfEnable n) s = .next { s with hif := { s.hif with vfEnable := true, numVfs := n } }) ∧
  (∀ s : State, flag s Fld.RST_STATUS_READY = true → s.hif.vfEnable = true → exec .vfDisable s = .next (settleWork (dropVfs s))) ∧
  (∀ (f : Nat) (s : State), flag s Fld.RST_STATUS_READY = true → functionUp s f = true → inD3hot s f = false →
    exec (.d3hotEnter f) s = .next { s with hif := { s.hif with d3hot := insertSorted f s.hif.d3hot } }) ∧
  (∀ (f : Nat) (s : State), flag s Fld.RST_STATUS_READY = true →
    exec (.d3hotExit f) s = .next { s with hif := { s.hif with d3hot := s.hif.d3hot.filter (· ≠ f) } }) ∧
  (∀ s : State, powerState s ≠ 4 → exec .pmeTurnOff s = .next (send s .pmeToAck)) ∧
  (∀ s : State, powerState s = 4 → s.pwr.target = 2 → exec .pmeTurnOff s = .next s) ∧
  (∀ (v w : Nat) (b : Bool) (s : State), powerState s = 1 → 1 ≤ v → v ≤ 6 → w ∈ [1, 2, 4, 8, 16] →
    ∃ t, exec (.pcieLinkUp v w b) s = .next t ∧ fld t Fld.HIF_LINK_SPEED = v ∧ fld t Fld.HIF_LINK_WIDTH = w ∧
      flag t Fld.HIF_LINK_FLIT = b ∧ t.hif.l23 = false)

/-- Register accesses through BAR0 (R9–R11, R16, R565): an aligned read of 4 or 8 bytes answers the register, with RC fields cleared after
it, and any other zero; an aligned write writes the bits that it covers and any other is ignored; an unassigned offset reads zero and
ignores writes; the resources of a function are its physical function's to set; and BAR4's doorbells read zero (R253). The model's own
choices it rests on: log entries 7, 33, 34, 117. -/
def Obligations.RegisterAccesses : Prop :=
  (∀ (f o : Nat) (s : State), o % 8 = 0 → exec (.rcRead f { addr := o } 8) s =
    .next (send (busRead (wakeByAccess s o) f o 3).2 (.readData (leBytes 8 (busRead (wakeByAccess s o) f o 3).1)))) ∧
  (∀ (f o : Nat) (s : State), o % 8 = 4 → exec (.rcRead f { addr := o } 4) s =
    .next (send (busRead (wakeByAccess s o) f (o - 4) 2).2 (.readData (leBytes 4 ((busRead (wakeByAccess s o) f (o - 4) 2).1 / 2 ^ 32))))) ∧
  (∀ (f o n : Nat) (s : State), n ≠ 8 → n ≠ 4 → exec (.rcRead f { addr := o } n) s = .next (send s (.readData (List.replicate n 0)))) ∧
  (∀ (f o : Nat) (s : State), o % 8 = 0 → viewReg s f o = none → wakeByAccess s o = s →
    exec (.rcRead f { addr := o } 8) s = .next (send s (.readData (List.replicate 8 0)))) ∧
  (∀ (f o v : Nat) (s : State), o % 8 = 0 →
    exec (.registerWrite f o 8 v) s = .next (busWrite (wakeByAccess s o) f o v (2 ^ 64 - 1))) ∧
  (∀ (f o n v : Nat) (s : State), n ≠ 8 → n ≠ 4 → exec (.registerWrite f o n v) s = .next s) ∧
  (∀ (f o v : Nat) (s : State), o % 8 = 0 → viewReg s f o = none → wakeByAccess s o = s → blockOf o ≠ blockOf Reg.PRT_ID.base →
    exec (.registerWrite f o 8 v) s = .next s) ∧
  (∀ (fn v : Nat) (s : State), fn < 33 → exec (.hifFnConfig 0 fn .queues v) s = .next (fnConfig s Reg.HIF_FN_Q fn v (2 ^ 64 - 1)) ∧
    exec (.hifFnConfig 0 fn .contexts v) s = .next (fnConfig s Reg.HIF_FN_CTX fn v (2 ^ 64 - 1)) ∧
    exec (.hifFnConfig 0 fn .pages v) s = .next (fnConfig s Reg.HIF_FN_WSP fn v (2 ^ 64 - 1))) ∧
  (∀ (f fn v : Nat) (w : FnReg) (s : State), f ≠ 0 → exec (.hifFnConfig f fn w v) s = .next s) ∧
  (∀ (f o n : Nat) (s : State), o + n ≤ doorbellEnd →
    exec (.rcRead f { addr := o, bar4 := true } n) s = .next (send (drawFree s).2 (.readData (List.replicate n 0))))

/-- The reliability unit's rows (R504–R513): each failure of a tile fails it with its cause; a tile is retired and reinstated by the
physical function alone; a spare that fails its test is failed; the repair store takes the map or reports. The model's own choices it
rests on: log entries 55, 56, 86. -/
def Obligations.ReliabilityRows : Prop :=
  (∀ (t : Nat) (s : State), failing s t = true → (s.tile t).idle = false → exec (.engineHang t) s = .next (failTile s t 3)) ∧
  (∀ (t : Nat) (s : State), failing s t = true → (s.tile t).clkOn = false → exec (.wakeFail t) s = .next (failTile s t 4)) ∧
  (∀ (t : Nat) (s : State), failing s t = true → exec (.bondLinkFail t) s = .next (failTile s t 5)) ∧
  (∀ (t : Nat) (s : State), failing s t = false →
    exec (.engineHang t) s = .next s ∧ exec (.wakeFail t) s = .next s ∧ exec (.bondLinkFail t) s = .next s) ∧
  (∀ (l t : Nat) (s : State), physOf s l = some t → exec (.retire 0 l) s = .next (failTile s t 7)) ∧
  (∀ (f l : Nat) (s : State), f ≠ 0 → exec (.retire f l) s = .next s ∧ exec (.reinstate f l) s = .next s) ∧
  (∀ (t : Nat) (s : State), roleOf s t = .failed → s.ras.testPassed.contains t = true → lostLogicals (setRole s t .spare) = [] →
    exec (.reinstate 0 t) s = .next (setRole s t .spare)) ∧
  (∀ (t l : Nat) (ls : List Nat) (s : State), roleOf s t = .failed → s.ras.testPassed.contains t = true →
    lostLogicals (setRole s t .spare) = l :: ls → exec (.reinstate 0 t) s = .next (adopt (setRole s t .spare) l t)) ∧
  (∀ (t : Nat) (s : State), roleOf s t ≠ .failed ∨ s.ras.testPassed.contains t = false →
    ∃ u, exec (.reinstate 0 t) s = .next u ∧ flag u Fld.RAS_ERR_REINSTATE_REFUSED = true ∧ u.ras.roles = s.ras.roles) ∧
  (∀ (t : Nat) (s : State), flag s Fld.RAS_CTL_SPARE_TEST_EN = true → roleOf s t = .spare →
    exec (.spareSelfTest t true) s = .next (count s bankRas 7)) ∧
  (∀ (t : Nat) (s : State), flag s Fld.RAS_CTL_SPARE_TEST_EN = true → roleOf s t = .spare → logicalOf s t = none →
    ∃ u, exec (.spareSelfTest t false) s = .next u ∧ flag u Fld.RAS_ERR_SPARE_FAILED = true ∧ roleOf u t = .failed) ∧
  (∀ s : State, s.ras.storePending ≠ 0 → exec (.repairStoreWrite true) s =
    .next { s with ras := { s.ras with storePending := 0, storeBad := false, mapWritten := mapLists s } }) ∧
  (∀ s : State, s.ras.storePending ≠ 0 →
    ∃ t, exec (.repairStoreWrite false) s = .next t ∧ t.ras.storeBad = true ∧ t.ras.storePending = s.ras.storePending ∧
      flag t Fld.RAS_ERR_STORE_FAIL = true)

/-- The recorder's rows (R488–R495): MODE from OFF to RECORD empties the ring and writes its START record; MODE to REPLAY starts a replay
unless an SQ is read; OFF ends either; the ring is emptied and loaded while MODE is OFF; MARK is a record while RECORDING; and a recorded
command that passes its checks is accepted as if read from its SQ. The collector and perturbation (R578, R584–R590, R591, R595): PMC_CTL
is the physical function's; collecting starts only on a ring of pinned pages; a snapshot that falls due is written, or missed; and an
injected hold ends. The model's own choices it rests on: log entries 7, 27, 28, 29, 93, 158, 185, 189. -/
def Obligations.RecorderAndCollector : Prop :=
  (∀ s : State, fld s Fld.DET_REC_CTL_MODE = 0 →
    exec .detRecordStart s = .next (startRecord { setFld s Fld.DET_REC_CTL_MODE 1 with det := { s.det with ring := [], head := 0, state := 1 } })) ∧
  (∀ s : State, fld s Fld.DET_REC_CTL_MODE ≠ 0 → exec .detRecordStart s = .next s) ∧
  (∀ s : State, fld s Fld.DET_REC_CTL_MODE ≠ 2 → anyFetch s = true →
    exec .detReplayStart s = .next (setErr s Fld.DET_ERR_REPLAY_REFUSED)) ∧
  (∀ s : State, fld s Fld.DET_REC_CTL_MODE ≠ 2 → anyFetch s = false →
    ∃ u : State, u.det.state = 2 ∧ u.det.ring = s.det.ring ∧ u.det.fed = [] ∧ fld u Fld.DET_REC_CTL_MODE = 2 ∧
      exec .detReplayStart s = .next (replayDone u)) ∧
  (∀ s : State, fld s Fld.DET_REC_CTL_MODE ≠ 0 →
    ∃ t, exec .detRecOff s = .next t ∧ fld t Fld.DET_REC_CTL_MODE = 0 ∧ t.det = { s.det with state := 0 }) ∧
  (∀ s : State, exec .detRecClear s = .next (if fld s Fld.DET_REC_CTL_MODE = 0 then
    { s with det := { s.det with ring := [], head := 0 } } else s)) ∧
  (∀ (v : Nat) (s : State), exec (.mark v) s =
    .next (if s.det.state = 1 then recAppend s { kind := 8, body := v % 2 ^ 64 * 2 ^ 0 } else s)) ∧
  (∀ (i v : Nat) (s : State), fld s Fld.DET_REC_CTL_MODE = 0 → i < 15 → exec (.detRecAppend i v) s =
    .next { s with det := { s.det with staged := putBits s.det.staged (64 * i) 64 v } }) ∧
  (∀ (v : Nat) (s : State), fld s Fld.DET_REC_CTL_MODE = 0 → s.det.ring.length < recSlots s →
    ∃ t, exec (.detRecAppend 15 v) s = .next t ∧ t.det.head = s.det.head + 1 ∧
      t.det.ring = s.det.ring ++ [{ stagedRecord (putBits s.det.staged 960 64 v) with seq := s.det.head }]) ∧
  (∀ (i v : Nat) (s : State), fld s Fld.DET_REC_CTL_MODE ≠ 0 ∨ 16 ≤ i → exec (.detRecAppend i v) s = .next s) ∧
  (∀ s : State, nextFed s = none → exec .replayFeed s = .next s) ∧
  (∀ (e : RecEntry) (f q : Nat) (p : Packet) (x : Sq) (c : Cq) (s : State), nextFed s = some e → p = BitVec.ofNat 512 (e.body % 2 ^ 512) →
    q = bitsOf (recGet e.body 108 2) 0 10 → f = bitsOf (recGet e.body 108 2) 10 6 → feeding s = true → jrnStalled s = false →
    flushHolds s = false → s.cp.cores.stopped = false → s.sq f q = some x → s.cq f x.cq = some c → checkPacket s f q p = none →
    admitCollective s f p = .own → c.freeEntries ≠ 0 →
    ∃ slot, exec .replayFeed s = .next (openCommand ((markFed (drawFree s).2 e).setCq f x.cq { c with reserved := c.reserved + 1 })
      f q slot x.cq p false)) ∧
  (∀ (b : Nat) (all : Bool) (s : State), exec (.pmcClear 0 b all) s = .next (clearBanks s b all)) ∧
  (∀ s : State, flag s Fld.PMC_CTL_COLLECT = false → badRingPage s = none →
    exec (.pmcCollect 0 true) s = .next (setFld (setFld s Fld.PMC_CTL_COLLECT 1) Fld.PMC_STATUS_STATE 1)) ∧
  (∀ (p : Nat) (s : State), flag s Fld.PMC_CTL_COLLECT = false → badRingPage s = some p →
    exec (.pmcCollect 0 true) s = .next (ringBadErr s p)) ∧
  (∀ s : State, flag s Fld.PMC_CTL_COLLECT = true →
    exec (.pmcCollect 0 false) s = .next (setFld (setFld s Fld.PMC_CTL_COLLECT 0) Fld.PMC_STATUS_STATE 0)) ∧
  (∀ s : State, flag s Fld.PMC_CTL_COLLECT = false →
    ∃ t, exec (.pmcEmpty 0) s = .next t ∧ raw t Reg.PMC_HEAD = 0 ∧ raw t Reg.PMC_OLDEST = 0 ∧ t.pmc.missedCount = 0) ∧
  (∀ (b : Bool) (s : State), badRingPage s = none → stoked s = true → exec (.pmcSnap 0 b) s = .next (takeSnapshot s b)) ∧
  (∀ (f b : Nat) (x y z : Bool) (s : State), f ≠ 0 → exec (.pmcClear f b x) s = .next s ∧ exec (.pmcCollect f y) s = .next s ∧
    exec (.pmcEmpty f) s = .next s ∧ exec (.pmcSnap f z) s = .next s) ∧
  (∀ (b : Bool) (s : State), flag s Fld.PMC_CTL_COLLECT = true → fld s Fld.PMC_STATUS_STATE = 1 → stoked s = true →
    exec (.pmcSnapshot b) s = .next (takeSnapshot s b)) ∧
  (∀ (b : Bool) (s : State), flag s Fld.PMC_CTL_COLLECT = false → exec (.pmcSnapshot b) s = .next s) ∧
  (∀ (f o v : Nat) (s : State), exec (.prtWrite f o v) s = .next (prtWrite s f (Reg.PRT_ID.base + o) v (2 ^ 64 - 1))) ∧
  (∀ (f o v : Nat) (s : State), flag s Fld.MGT_TEST_TEST_MODE = false ∨ f ≠ 0 → (regAt (Reg.PRT_ID.base + o)).isSome = true →
    Reg.PRT_ID.base + o ≠ Reg.PRT_ERR.base → exec (.prtWrite f o v) s = .next (count (setErr s Fld.PRT_ERR_REFUSED) bankPrt 16)) ∧
  (∀ (j : Nat) (s : State), exec (.injectHoldEnd j) s =
    .next (showMhz { s with prt := { s.prt with holds := s.prt.holds.filter fun h => h.inj ≠ j } }))

/-- Frames of the chain (R554–R560, R570): a broadcast enumeration takes the module in and goes on; a request for this module is served; a
frame for another module goes on; a bad one is dropped and counted. The model's own choices it rests on: log entries 41, 42, 49, 110. -/
def Obligations.ChainFrames : Prop :=
  ChainRow .census 0x01 ∧ ChainRow .assign 0x02 ∧ ChainRow .ping 0x03 ∧ ChainRow .status 0x04 ∧ ChainRow .regRead 0x10 ∧
  ChainRow .regWrite 0x11 ∧ ChainRow .wake 0x20 ∧ ChainRow .warmReset 0x21 ∧ ChainRow .moduleReset 0x22 ∧ ChainRow .setPower 0x23 ∧
  ChainRow .testMode 0x24 ∧ ChainRow .alertAck 0x31 ∧ ChainRow .mctp 0x40 ∧
  (∀ (bs : List Byte) (s : State), s.pwr.standbyOn = true → frameGood bs = false →
    exec (.frameForward bs) s = .next (count (setErr (count s bankMgt 0) Fld.MGT_ERR_CRC_BAD) bankMgt 4)) ∧
  (∀ (bs : List Byte) (s : State), s.pwr.standbyOn = true → frameGood bs = true → (readFrame bs).resp = false →
    (readFrame bs).dest ≠ 0x7F → (readFrame bs).dest ≠ ringAddr s →
    exec (.frameForward bs) s = .next (chainForward (count s bankMgt 0) bs)) ∧
  (∀ (a : Alert) (s : State), s.mgt.alerts = [a] → a.repeats < 50 → flag s Fld.MGT_CTL_ALERT_EN = true → ringAddr s ≠ 0 →
    ∃ t, exec (.alertRepeat a.seq) s = .next t ∧ t.mgt.alerts = [{ a with repeats := a.repeats + 1 }] ∧
      t.mgt.chainOut = s.mgt.chainOut ++ [.alert { a with repeats := a.repeats + 1 }]) ∧
  (∀ (a : Alert) (s : State), s.mgt.alerts = [a] → 50 ≤ a.repeats →
    ∃ t, exec (.alertRepeat a.seq) s = .next t ∧ t.mgt.alerts = [] ∧ flag t Fld.MGT_ERR_ALERT_UNACKED = true) ∧
  (∀ s : State, s.pwr.standbyOn = true → exec .chainInputLock s = .next (setFld s Fld.MGT_CHAIN_IN_LOCK 1)) ∧
  (∀ s : State, flag s Fld.MGT_CHAIN_IN_LOCK = true →
    exec .chainInputLost s = .next (setErr (setFld s Fld.MGT_CHAIN_IN_LOCK 0) Fld.MGT_ERR_IN_LOST)) ∧
  (∀ s : State, flag s Fld.MGT_CHAIN_IN_LOCK = false → exec .chainInputLost s = .next s)

/-- MCTP (R568): each control message on the chain's or PCIe's binding is answered, SET_ENDPOINT_ID with the endpoint ID taken; packets
come over PCIe on the physical function. SPDM (R516, R517): GET_VERSION begins a connection and offers 1.2 and 1.3; GET_CAPABILITIES
settles its version; each later request of a connection whose version is settled is answered, and any other with ERROR. The model's own
choices it rests on: log entries 7, 54. -/
def Obligations.MctpAndSpdm : Prop :=
  (∀ (b src eid : Nat) (s : State), b ≤ 1 → 1 ≤ eid → eid ≤ 254 →
    exec (.setEndpointId b src eid) s = .next (control (setMctpEid s b eid) b src 1 [0, BitVec.ofNat 8 eid, 0])) ∧
  (∀ (b src : Nat) (s : State), b ≤ 1 → exec (.setEndpointId b src 0) s = .next (control s b src 1 [] 2) ∧
    exec (.setEndpointId b src 255) s = .next (control s b src 1 [] 2)) ∧
  (∀ (b src : Nat) (s : State), b ≤ 1 →
    exec (.getEndpointId b src) s = .next (control s b src 2 [BitVec.ofNat 8 (mctpEid s b), 0, 0])) ∧
  (∀ (b src : Nat) (s : State), b ≤ 1 →
    exec (.getEndpointUuid b src) s = .next (control s b src 3 (leBytes 16 Config.endpointUuid)) ∧
    exec (.getMctpVersionSupport b src) s = .next (control s b src 4 [1, 0xF1, 0xF3, 0xFF, 0]) ∧
    exec (.getMessageTypeSupport b src) s = .next (control s b src 5 [1, 5])) ∧
  (∀ (p : McPkt) (s : State), exec (.mctpOverPcieVdm 0 p) s = .next (mctpPacket s 1 p).2) ∧
  (∀ (f : Nat) (p : McPkt) (s : State), f ≠ 0 → exec (.mctpOverPcieVdm f p) s = .next s) ∧
  (∀ (b c : Nat) (p : McPkt) (s : State), p.som = true → p.eom = true → p.dest = mctpEid s b → p.body = [0, 0x80, BitVec.ofNat 8 c] →
    5 < c → c < 256 → s.mgt.parts = [] → (mctpPacket s b p).2 = control (count s bankMgt 6) b p.src c [] 5) ∧
  (∀ (b src : Nat) (s : State), s.ras.spdm = [] →
    exec (.getVersion b src) s = .next (spdmSend (setConn s { eid := src, binding := b }) b src (.version [12, 13]))) ∧
  (∀ (b src v n : Nat) (c : SpdmConn) (s : State), spdmConn s b src = some c → v = 12 ∨ v = 13 →
    exec (.getCapabilities b src v n) s = .next (spdmSend (setConn s { c with version := v, caps := true, algs := false, transfer := n })
      b src (.capabilities v true true 2 true 17))) ∧
  (∀ (b src v : Nat) (c : SpdmConn) (s : State), spdmConn s b src = some c → c.caps = true → c.version = v →
    exec (.negotiateAlgorithms b src v true) s = .next (spdmAnswer s { c with algs := true } (.algorithms v)) ∧
    exec (.negotiateAlgorithms b src v false) s = .next (spdmError s b src)) ∧
  (∀ (b src v : Nat) (c : SpdmConn) (s : State), SpdmReady s b src v c →
    exec (.getDigests b src v) s = .next (spdmAnswer s c (.digests [0] [chainDigest]))) ∧
  (∀ (b src v o n : Nat) (c : SpdmConn) (s : State), SpdmReady s b src v c →
    exec (.getCertificate b src v 0 o n) s = .next (if o < Config.certChain.length then
      spdmAnswer s c (.certificate 0 ((Config.certChain.drop o).take n) (Config.certChain.length - o - n)) else spdmError s b src)) ∧
  (∀ (b src v : Nat) (c : SpdmConn) (s : State), SpdmReady s b src v c →
    exec (.challenge b src v 0) s = .next (spdmAnswer (drawFree s).2 c
      (.challengeAuth 0 chainDigest (freshNonce (drawFree s).1) (Config.signature (drawFree s).1)))) ∧
  (∀ (b src v i : Nat) (c : SpdmConn) (s : State), SpdmReady s b src v c → 1 ≤ i → i ≤ 6 →
    exec (.getMeasurements b src v i false) s = .next (spdmAnswer (drawFree s).2 c
      (.measurements 6 [(i, measurement (drawFree s).2 i)] none))) ∧
  (∀ (b src v h q : Nat) (l : List Byte) (c : SpdmConn) (s : State), spdmConn s b src = some c → c.chunk = some (h, q, l) → c.version = v →
    c.transfer < l.length → 1 ≤ c.transfer →
    exec (.chunkGet b src v h q) s = .next (spdmSend (setConn s { c with chunk := some (h, q + 1, l.drop c.transfer) }) b src
      (.chunk h q false (l.take c.transfer)))) ∧
  (∀ (b src v h q : Nat) (s : State), spdmConn s b src = none →
    exec (.getCapabilities b src v 0) s = .next (spdmError s b src) ∧ exec (.getDigests b src v) s = .next (spdmError s b src) ∧
    exec (.getCertificate b src v 0 0 0) s = .next (spdmError s b src) ∧ exec (.challenge b src v 0) s = .next (spdmError s b src) ∧
    exec (.getMeasurements b src v 0 true) s = .next (spdmError s b src) ∧ exec (.chunkGet b src v h q) s = .next (spdmError s b src) ∧
    exec (.negotiateAlgorithms b src v true) s = .next (spdmError s b src))
end

