-- ==== Sys2Proof/Laws/Bytes.lean ====
section
/-!
SUPPORT. Little-endian byte strings and the cyclic redundancy checks: lengths, the round trip, and the range of a CRC.
-/
namespace Sys2Proof.Machine

@[simp] theorem leBytes_length (n v : Nat) : (leBytes n v).length = n := by
  induction n generalizing v with
  | zero => rfl
  | succ n ih => simp [leBytes, ih]

/-- A byte string read back is the number, as far as the bytes reach. -/
@[simp] theorem leNat_leBytes (n v : Nat) : leNat (leBytes n v) = v % 256 ^ n := by
  induction n generalizing v with
  | zero => simp [leBytes, leNat, Nat.mod_one]
  | succ n ih =>
    have h : (BitVec.ofNat 8 v).toNat = v % 256 := BitVec.toNat_ofNat v 8
    rw [leBytes, leNat, ih, h, Nat.pow_succ', Nat.mod_mul]

theorem leNat_lt (bs : List Byte) : leNat bs < 256 ^ bs.length := by
  induction bs with
  | nil => simp [leNat]
  | cons b bs ih =>
    have hb := b.isLt
    simp only [leNat, List.length_cons, Nat.pow_succ]
    omega

theorem crcShift_lt {poly w : Nat} (hp : poly < 2 ^ w) : ∀ (n c : Nat), c < 2 ^ w → crcShift poly n c < 2 ^ w
  | 0, _, hc => hc
  | n + 1, c, hc => by
    have hs : c >>> 1 < 2 ^ w := Nat.lt_of_le_of_lt (Nat.shiftRight_le c 1) hc
    unfold crcShift
    split
    · exact crcShift_lt hp n _ (Nat.xor_lt_two_pow hs hp)
    · exact crcShift_lt hp n _ hs

theorem crcFold_lt {poly w : Nat} (hp : poly < 2 ^ w) (hw : 8 ≤ w) :
    ∀ (bs : List Byte) (c : Nat), c < 2 ^ w → crcFold poly c bs < 2 ^ w
  | [], _, hc => hc
  | b :: bs, c, hc =>
    crcFold_lt hp hw bs _ (crcShift_lt hp 8 _ (Nat.xor_lt_two_pow hc (Nat.lt_of_lt_of_le b.isLt (Nat.pow_le_pow_right (by decide) hw))))

/-- A CRC-32C has 32 bits. -/
theorem crc32c_lt (bs : List Byte) : crc32c bs < 2 ^ 32 :=
  Nat.xor_lt_two_pow (crcFold_lt (by decide) (by decide) bs _ (by decide)) (by decide)

/-- A CRC-64 has 64 bits. -/
theorem crc64_lt (bs : List Byte) : crc64 bs < 2 ^ 64 :=
  Nat.xor_lt_two_pow (crcFold_lt (by decide) (by decide) bs _ (by decide)) (by decide)

end Sys2Proof.Machine
end

