-- ==== Sys2Proof/Laws/PerInstr.lean ====
section
/-!
SUPPORT. Per command: a well-formed command has numeric operands of at most 64 bits.
-/
set_option Elab.async false
namespace Sys2Proof.Laws.NumericOperands
open Sys2Proof Sys2Proof.Machine

/-- The numeric operands of a command. -/
def nats (i : Instr) : List Nat :=
  match i with
  | .nop seq | .sqCreate seq | .sqDelete seq | .cqCreate seq | .cqDelete seq | .cancel seq | .journalFlush seq
  | .journalFetch seq | .ctxCreate seq | .ctxDestroy seq | .streamOpen seq | .streamClose seq | .poolCreate seq
  | .poolQuota seq | .bufFree seq | .poolDestroy seq | .pageMap seq | .pageUnmap seq | .pageWrite seq | .pageRead seq
  | .migrate seq | .pourSet seq | .pourClear seq | .pack24 seq | .shadowBuild seq | .load seq | .unstage seq | .step seq
  | .stepEmpty seq | .expertMask seq | .groupCreate seq | .groupDestroy seq | .collective seq | .epConfig seq
  | .epFence seq | .epEpoch seq | .jobAdmit seq | .mcastSet seq | .mcastClear seq | .mcastSend seq | .flaskJoin seq
  | .flaskLeave seq | .remoteWrite seq | .remoteRead seq | .remoteAtomic seq | .tileTest seq | .bitmapRead seq
  | .payloadRead seq _ _ | .jobAdmitProbeTimer seq | .jobAdmitTimeout seq | .mcastResend seq | .alertRepeat seq
  | .commandWorkDone seq _ => [seq]
  | .sqDoorbell func queue value | .cqDoorbell func queue value => [func, queue, value]
  | .commandFetch _ | .heartbeat | .heartbeatTimeout | .coreErrorReport | .standbySelfTestDone _ | .routeStart
  | .selectionDone | .count _ | .ecCandidates _ | .ecAssignment _ | .listBuildDone | .arm _ | .dispatch _ | .returnRow _
  | .collData _ | .credit _ | .desc _ | .barrier _ | .abort _ | .suspect _ | .reform _ | .redo _ | .runHalt _ | .schedule
  | .nandUpkeep _ | .ack _ | .nack _ | .notice _ | .probe _ | .confirm _ | .fenceDrainDone | .quarantineEnd | .join _
  | .ready _ | .abortJoin _ | .leave _ | .lost _ | .getS _ | .getM _ | .putM _ | .inv _ | .flaskRecall _ | .flaskData _
  | .flaskAck _ | .flaskJoinRetry | .flaskJoinTimeout | .write _ | .read _ | .readData _ | .atomic _ | .atomicResult _
  | .powerSample _ | .criticalLimit _ | .criticalHoldEnd | .tripLimit _ | .smoulderIdleTimeout | .smoulderEntry
  | .wakeComplete | .bankedEntered | .bankedExit _ | .mainPowerUp | .mainPowerLoss | .standbyPowerUp | .standbyLoss
  | .warmReset _ | .moduleReset _ | .autoWarmTimeout | .perstAssert | .pcieLinkDown | .resetComplete _ | .vfDisable
  | .pmeTurnOff | .census _ | .assign _ | .ping _ | .status _ | .regRead _ | .regWrite _ | .wake _ | .setPower _
  | .testMode _ | .alertAck _ | .mctp _ | .frameForward _ | .chainInputLock | .chainInputLost | .repairStoreWrite _
  | .detRecordStart | .detReplayStart | .detRecOff | .detRecClear | .replayFeed | .pmcSnapshot _ | .smoulderEntryDone
  | .dutyIntervalEnd | .hotReset | .dbgRst | .cplTimeout _ => []
  | .accept func queue | .cqAggTimeout func queue => [func, queue]
  | .journalEntryDurable retries _ => [retries]
  | .killDrainDone tile | .workItemStart tile _ | .add tile | .sub tile | .andS tile | .orS tile | .xorS tile | .shl tile
  | .shr tile | .sra tile | .mul tile | .mulhu tile | .divu tile | .remu tile | .minu tile | .maxu tile | .slt tile
  | .sltu tile | .addi tile | .andi tile | .ori tile | .xori tile | .shli tile | .shri tile | .srai tile | .muli tile
  | .li tile | .exti tile | .cdivi tile | .ld tile _ | .st tile | .ldw tile | .ldwData tile _ | .jmp tile | .beq tile
  | .bne tile | .bltu tile | .bgeu tile | .loop tile | .endloop tile | .ricNop tile | .endKernel tile | .ewait tile
  | .esig tile | .ricFence tile | .trap tile | .pass tile | .makeup tile | .vecAdd tile | .vecSub tile | .vecMul tile
  | .fma tile | .scale tile | .vecMin tile | .vecMax tile | .abs tile | .neg tile | .select tile | .cvt tile | .div tile
  | .sqrt tile | .exp tile | .log tile | .rsqrt tile | .sigmoid tile | .tanh tile | .relu tile | .relu2 tile
  | .geluTanh tile | .silu tile | .actMul tile | .rsum tile | .rsumsq tile | .rdot tile | .rmax tile | .rmin tile
  | .rargmax tile | .rargmin tile | .copyIn tile | .copyOut tile | .copy tile | .fill tile | .eval tile
  | .waitDeadlock tile | .teardownComplete tile | .tileHalt tile _ | .tileClockStart tile | .tileClockStop tile
  | .stageDone tile | .engineHang tile | .wakeFail tile | .bondLinkFail tile | .spareSelfTest tile _ => [tile]
  | .jrnBaseWrite base size => [base, size]
  | .adminQueueWrite func _ _ | .fetchEnable func _ | .pwrReqStoked func | .pwrReqSmoulder func | .pwrReqBanked func
  | .flr func | .d3hotEnter func | .pmcCollect func _ | .pmcSnap func _ | .pmcEmpty func | .d3hotExit func
  | .mctpOverPcieVdm func _ => [func]
  | .groupTimeout group | .suspectTimerEnd group | .reformWaitTimeout group => [group]
  | .runClassMapWrite value | .mark value => [value]
  | .rteHalt engine _ => [engine]
  | .pool0Alloc die => [die]
  | .engineCmdStart tile engine _ | .engineCmdComplete tile engine => [tile, engine]
  | .lingerExpire ctx stream | .streamBlockTimeout ctx stream | .pinWatchdog ctx stream => [ctx, stream]
  | .pageFetchDone page _ | .pageMoveDone page _ => [page]
  | .patrolScrub stack frame _ => [stack, frame]
  | .stackFailure stack => [stack]
  | .nandChannelFail channel => [channel]
  | .bar2Read func offset len => [func, offset, len]
  | .bar2Write func offset _ => [func, offset]
  | .flitReceive port symErrs _ => [port, symErrs]
  | .retryReq port fack => [port, fack]
  | .portEnable port _ | .portFwdEn port _ | .retrain port _ | .portStepTimeout port | .init port _ | .data port _
  | .initRepeat port => [port]
  | .portTrainingDone port lanes => [port, lanes]
  | .laneFail port lane => [port, lane]
  | .packetInject index | .packetForward index => [index]
  | .ackSend slice | .shaperStart slice => [slice]
  | .packetResend dest tc seq => [dest, tc, seq]
  | .flowEntryFree src tc => [src, tc]
  | .shpBucketCfgWrite func _ index value => [func, index, value]
  | .flaskRetry rank tid => [rank, tid]
  | .pllLockLost pll => [pll]
  | .rowIdleTimeout row | .rowWakeDone row => [row]
  | .rePairIdleTimeout pair | .rePairWakeDone pair => [pair]
  | .rstCtlWarm func key | .rstCtlModule func key => [func, key]
  | .bringupStepTimeout step unit => [step, unit]
  | .vfEnable numVfs => [numVfs]
  | .hifFnConfig func fn _ value => [func, fn, value]
  | .setEndpointId binding src eid => [binding, src, eid]
  | .getEndpointId binding src | .getEndpointUuid binding src | .getMctpVersionSupport binding src
  | .getMessageTypeSupport binding src | .getVersion binding src => [binding, src]
  | .getCapabilities binding src version transfer => [binding, src, version, transfer]
  | .negotiateAlgorithms binding src version _ | .getDigests binding src version => [binding, src, version]
  | .getCertificate binding src version slot offset length => [binding, src, version, slot, offset, length]
  | .challenge binding src version slot => [binding, src, version, slot]
  | .getMeasurements binding src version index _ => [binding, src, version, index]
  | .chunkGet binding src version handle seq => [binding, src, version, handle, seq]
  | .reinstate func phys => [func, phys]
  | .retire func logical => [func, logical]
  | .detRecAppend index value => [index, value]
  | .pmcClear func bank _ => [func, bank]
  | .prtWrite func offset value => [func, offset, value]
  | .injectHoldEnd injector => [injector]
  | .rcRead func _ size => [func, size]
  | .registerWrite func offset size value => [func, offset, size, value]
  | .powerDownDone domain => [domain]
  | .pcieLinkUp speed width _ => [speed, width]
  | .flaskLineDrop rank line => [rank, line]

/-- The numeric operands of `i`, if it is well formed, have at most 64 bits. -/
def Statement (i : Instr) : Prop := WellFormed i → ∀ n ∈ nats i, n < 2 ^ 64

theorem nop (seq : Nat) : Statement (.nop seq) := by
  intro h n hn
  replace h : ((seq < 2 ^ 64 : Bool)) = true := h
  replace hn : n ∈ [seq] := hn
  simp at h hn
  omega
theorem sqCreate (seq : Nat) : Statement (.sqCreate seq) := by
  intro h n hn
  replace h : ((seq < 2 ^ 64 : Bool)) = true := h
  replace hn : n ∈ [seq] := hn
  simp at h hn
  omega
theorem sqDelete (seq : Nat) : Statement (.sqDelete seq) := by
  intro h n hn
  replace h : ((seq < 2 ^ 64 : Bool)) = true := h
  replace hn : n ∈ [seq] := hn
  simp at h hn
  omega
theorem cqCreate (seq : Nat) : Statement (.cqCreate seq) := by
  intro h n hn
  replace h : ((seq < 2 ^ 64 : Bool)) = true := h
  replace hn : n ∈ [seq] := hn
  simp at h hn
  omega
theorem cqDelete (seq : Nat) : Statement (.cqDelete seq) := by
  intro h n hn
  replace h : ((seq < 2 ^ 64 : Bool)) = true := h
  replace hn : n ∈ [seq] := hn
  simp at h hn
  omega
theorem cancel (seq : Nat) : Statement (.cancel seq) := by
  intro h n hn
  replace h : ((seq < 2 ^ 64 : Bool)) = true := h
  replace hn : n ∈ [seq] := hn
  simp at h hn
  omega
theorem journalFlush (seq : Nat) : Statement (.journalFlush seq) := by
  intro h n hn
  replace h : ((seq < 2 ^ 64 : Bool)) = true := h
  replace hn : n ∈ [seq] := hn
  simp at h hn
  omega
theorem journalFetch (seq : Nat) : Statement (.journalFetch seq) := by
  intro h n hn
  replace h : ((seq < 2 ^ 64 : Bool)) = true := h
  replace hn : n ∈ [seq] := hn
  simp at h hn
  omega
theorem ctxCreate (seq : Nat) : Statement (.ctxCreate seq) := by
  intro h n hn
  replace h : ((seq < 2 ^ 64 : Bool)) = true := h
  replace hn : n ∈ [seq] := hn
  simp at h hn
  omega
theorem ctxDestroy (seq : Nat) : Statement (.ctxDestroy seq) := by
  intro h n hn
  replace h : ((seq < 2 ^ 64 : Bool)) = true := h
  replace hn : n ∈ [seq] := hn
  simp at h hn
  omega
theorem streamOpen (seq : Nat) : Statement (.streamOpen seq) := by
  intro h n hn
  replace h : ((seq < 2 ^ 64 : Bool)) = true := h
  replace hn : n ∈ [seq] := hn
  simp at h hn
  omega
theorem streamClose (seq : Nat) : Statement (.streamClose seq) := by
  intro h n hn
  replace h : ((seq < 2 ^ 64 : Bool)) = true := h
  replace hn : n ∈ [seq] := hn
  simp at h hn
  omega
theorem poolCreate (seq : Nat) : Statement (.poolCreate seq) := by
  intro h n hn
  replace h : ((seq < 2 ^ 64 : Bool)) = true := h
  replace hn : n ∈ [seq] := hn
  simp at h hn
  omega
theorem poolQuota (seq : Nat) : Statement (.poolQuota seq) := by
  intro h n hn
  replace h : ((seq < 2 ^ 64 : Bool)) = true := h
  replace hn : n ∈ [seq] := hn
  simp at h hn
  omega
theorem bufFree (seq : Nat) : Statement (.bufFree seq) := by
  intro h n hn
  replace h : ((seq < 2 ^ 64 : Bool)) = true := h
  replace hn : n ∈ [seq] := hn
  simp at h hn
  omega
theorem poolDestroy (seq : Nat) : Statement (.poolDestroy seq) := by
  intro h n hn
  replace h : ((seq < 2 ^ 64 : Bool)) = true := h
  replace hn : n ∈ [seq] := hn
  simp at h hn
  omega
theorem pageMap (seq : Nat) : Statement (.pageMap seq) := by
  intro h n hn
  replace h : ((seq < 2 ^ 64 : Bool)) = true := h
  replace hn : n ∈ [seq] := hn
  simp at h hn
  omega
theorem pageUnmap (seq : Nat) : Statement (.pageUnmap seq) := by
  intro h n hn
  replace h : ((seq < 2 ^ 64 : Bool)) = true := h
  replace hn : n ∈ [seq] := hn
  simp at h hn
  omega
theorem pageWrite (seq : Nat) : Statement (.pageWrite seq) := by
  intro h n hn
  replace h : ((seq < 2 ^ 64 : Bool)) = true := h
  replace hn : n ∈ [seq] := hn
  simp at h hn
  omega
theorem pageRead (seq : Nat) : Statement (.pageRead seq) := by
  intro h n hn
  replace h : ((seq < 2 ^ 64 : Bool)) = true := h
  replace hn : n ∈ [seq] := hn
  simp at h hn
  omega
theorem migrate (seq : Nat) : Statement (.migrate seq) := by
  intro h n hn
  replace h : ((seq < 2 ^ 64 : Bool)) = true := h
  replace hn : n ∈ [seq] := hn
  simp at h hn
  omega
theorem pourSet (seq : Nat) : Statement (.pourSet seq) := by
  intro h n hn
  replace h : ((seq < 2 ^ 64 : Bool)) = true := h
  replace hn : n ∈ [seq] := hn
  simp at h hn
  omega
theorem pourClear (seq : Nat) : Statement (.pourClear seq) := by
  intro h n hn
  replace h : ((seq < 2 ^ 64 : Bool)) = true := h
  replace hn : n ∈ [seq] := hn
  simp at h hn
  omega
theorem pack24 (seq : Nat) : Statement (.pack24 seq) := by
  intro h n hn
  replace h : ((seq < 2 ^ 64 : Bool)) = true := h
  replace hn : n ∈ [seq] := hn
  simp at h hn
  omega
theorem shadowBuild (seq : Nat) : Statement (.shadowBuild seq) := by
  intro h n hn
  replace h : ((seq < 2 ^ 64 : Bool)) = true := h
  replace hn : n ∈ [seq] := hn
  simp at h hn
  omega
theorem load (seq : Nat) : Statement (.load seq) := by
  intro h n hn
  replace h : ((seq < 2 ^ 64 : Bool)) = true := h
  replace hn : n ∈ [seq] := hn
  simp at h hn
  omega
theorem unstage (seq : Nat) : Statement (.unstage seq) := by
  intro h n hn
  replace h : ((seq < 2 ^ 64 : Bool)) = true := h
  replace hn : n ∈ [seq] := hn
  simp at h hn
  omega
theorem step (seq : Nat) : Statement (.step seq) := by
  intro h n hn
  replace h : ((seq < 2 ^ 64 : Bool)) = true := h
  replace hn : n ∈ [seq] := hn
  simp at h hn
  omega
theorem stepEmpty (seq : Nat) : Statement (.stepEmpty seq) := by
  intro h n hn
  replace h : ((seq < 2 ^ 64 : Bool)) = true := h
  replace hn : n ∈ [seq] := hn
  simp at h hn
  omega
theorem expertMask (seq : Nat) : Statement (.expertMask seq) := by
  intro h n hn
  replace h : ((seq < 2 ^ 64 : Bool)) = true := h
  replace hn : n ∈ [seq] := hn
  simp at h hn
  omega
theorem groupCreate (seq : Nat) : Statement (.groupCreate seq) := by
  intro h n hn
  replace h : ((seq < 2 ^ 64 : Bool)) = true := h
  replace hn : n ∈ [seq] := hn
  simp at h hn
  omega
theorem groupDestroy (seq : Nat) : Statement (.groupDestroy seq) := by
  intro h n hn
  replace h : ((seq < 2 ^ 64 : Bool)) = true := h
  replace hn : n ∈ [seq] := hn
  simp at h hn
  omega
theorem collective (seq : Nat) : Statement (.collective seq) := by
  intro h n hn
  replace h : ((seq < 2 ^ 64 : Bool)) = true := h
  replace hn : n ∈ [seq] := hn
  simp at h hn
  omega
theorem epConfig (seq : Nat) : Statement (.epConfig seq) := by
  intro h n hn
  replace h : ((seq < 2 ^ 64 : Bool)) = true := h
  replace hn : n ∈ [seq] := hn
  simp at h hn
  omega
theorem epFence (seq : Nat) : Statement (.epFence seq) := by
  intro h n hn
  replace h : ((seq < 2 ^ 64 : Bool)) = true := h
  replace hn : n ∈ [seq] := hn
  simp at h hn
  omega
theorem epEpoch (seq : Nat) : Statement (.epEpoch seq) := by
  intro h n hn
  replace h : ((seq < 2 ^ 64 : Bool)) = true := h
  replace hn : n ∈ [seq] := hn
  simp at h hn
  omega
theorem jobAdmit (seq : Nat) : Statement (.jobAdmit seq) := by
  intro h n hn
  replace h : ((seq < 2 ^ 64 : Bool)) = true := h
  replace hn : n ∈ [seq] := hn
  simp at h hn
  omega
theorem mcastSet (seq : Nat) : Statement (.mcastSet seq) := by
  intro h n hn
  replace h : ((seq < 2 ^ 64 : Bool)) = true := h
  replace hn : n ∈ [seq] := hn
  simp at h hn
  omega
theorem mcastClear (seq : Nat) : Statement (.mcastClear seq) := by
  intro h n hn
  replace h : ((seq < 2 ^ 64 : Bool)) = true := h
  replace hn : n ∈ [seq] := hn
  simp at h hn
  omega
theorem mcastSend (seq : Nat) : Statement (.mcastSend seq) := by
  intro h n hn
  replace h : ((seq < 2 ^ 64 : Bool)) = true := h
  replace hn : n ∈ [seq] := hn
  simp at h hn
  omega
theorem flaskJoin (seq : Nat) : Statement (.flaskJoin seq) := by
  intro h n hn
  replace h : ((seq < 2 ^ 64 : Bool)) = true := h
  replace hn : n ∈ [seq] := hn
  simp at h hn
  omega
theorem flaskLeave (seq : Nat) : Statement (.flaskLeave seq) := by
  intro h n hn
  replace h : ((seq < 2 ^ 64 : Bool)) = true := h
  replace hn : n ∈ [seq] := hn
  simp at h hn
  omega
theorem remoteWrite (seq : Nat) : Statement (.remoteWrite seq) := by
  intro h n hn
  replace h : ((seq < 2 ^ 64 : Bool)) = true := h
  replace hn : n ∈ [seq] := hn
  simp at h hn
  omega
theorem remoteRead (seq : Nat) : Statement (.remoteRead seq) := by
  intro h n hn
  replace h : ((seq < 2 ^ 64 : Bool)) = true := h
  replace hn : n ∈ [seq] := hn
  simp at h hn
  omega
theorem remoteAtomic (seq : Nat) : Statement (.remoteAtomic seq) := by
  intro h n hn
  replace h : ((seq < 2 ^ 64 : Bool)) = true := h
  replace hn : n ∈ [seq] := hn
  simp at h hn
  omega
theorem tileTest (seq : Nat) : Statement (.tileTest seq) := by
  intro h n hn
  replace h : ((seq < 2 ^ 64 : Bool)) = true := h
  replace hn : n ∈ [seq] := hn
  simp at h hn
  omega
theorem bitmapRead (seq : Nat) : Statement (.bitmapRead seq) := by
  intro h n hn
  replace h : ((seq < 2 ^ 64 : Bool)) = true := h
  replace hn : n ∈ [seq] := hn
  simp at h hn
  omega
theorem sqDoorbell (func : Nat) (queue : Nat) (value : Nat) : Statement (.sqDoorbell func queue value) := by
  intro h n hn
  replace h : ((func ≤ 32 && queue < 1024 && value < 2 ^ 64 : Bool)) = true := h
  replace hn : n ∈ [func, queue, value] := hn
  simp at h hn
  omega
theorem cqDoorbell (func : Nat) (queue : Nat) (value : Nat) : Statement (.cqDoorbell func queue value) := by
  intro h n hn
  replace h : ((func ≤ 32 && queue < 1024 && value < 2 ^ 64 : Bool)) = true := h
  replace hn : n ∈ [func, queue, value] := hn
  simp at h hn
  omega
theorem commandFetch (reads : List FetchRead) : Statement (.commandFetch reads) := by
  exact fun _ _ h => absurd h List.not_mem_nil
theorem accept (func : Nat) (queue : Nat) : Statement (.accept func queue) := by
  intro h n hn
  replace h : ((func ≤ 32 && queue < 1024 : Bool)) = true := h
  replace hn : n ∈ [func, queue] := hn
  simp at h hn
  omega
theorem payloadRead (seq : Nat) (bytes : List Byte) (failedAt : Option Nat) : Statement (.payloadRead seq bytes failedAt) := by
  intro h n hn
  replace h : ((seq < 2 ^ 64 && bytes.length ≤ 2 ^ 31 : Bool)) = true := h
  replace hn : n ∈ [seq] := hn
  simp at h hn
  omega
theorem journalEntryDurable (retries : Nat) (oneCopy : Bool) : Statement (.journalEntryDurable retries oneCopy) := by
  intro h n hn
  replace h : ((retries < 2 ^ 32 : Bool)) = true := h
  replace hn : n ∈ [retries] := hn
  simp at h hn
  omega
theorem cqAggTimeout (func : Nat) (queue : Nat) : Statement (.cqAggTimeout func queue) := by
  intro h n hn
  replace h : ((func ≤ 32 && queue < 1024 : Bool)) = true := h
  replace hn : n ∈ [func, queue] := hn
  simp at h hn
  omega
theorem killDrainDone (tile : Nat) : Statement (.killDrainDone tile) := by
  intro h n hn
  replace h : ((tile < 152 : Bool)) = true := h
  replace hn : n ∈ [tile] := hn
  simp at h hn
  omega
theorem jrnBaseWrite (base : Nat) (size : Nat) : Statement (.jrnBaseWrite base size) := by
  intro h n hn
  replace h : ((base < 2 ^ 16 && size < 32 : Bool)) = true := h
  replace hn : n ∈ [base, size] := hn
  simp at h hn
  omega
theorem adminQueueWrite (func : Nat) (which : AdminReg) (value : Word) : Statement (.adminQueueWrite func which value) := by
  intro h n hn
  replace h : ((func ≤ 32 : Bool)) = true := h
  replace hn : n ∈ [func] := hn
  simp at h hn
  omega
theorem fetchEnable (func : Nat) (value : Bool) : Statement (.fetchEnable func value) := by
  intro h n hn
  replace h : ((func ≤ 32 : Bool)) = true := h
  replace hn : n ∈ [func] := hn
  simp at h hn
  omega
theorem heartbeat : Statement .heartbeat := by
  exact fun _ _ h => absurd h List.not_mem_nil
theorem heartbeatTimeout : Statement .heartbeatTimeout := by
  exact fun _ _ h => absurd h List.not_mem_nil
theorem coreErrorReport : Statement .coreErrorReport := by
  exact fun _ _ h => absurd h List.not_mem_nil
theorem standbySelfTestDone (passed : Bool) : Statement (.standbySelfTestDone passed) := by
  exact fun _ _ h => absurd h List.not_mem_nil
theorem routeStart : Statement .routeStart := by
  exact fun _ _ h => absurd h List.not_mem_nil
theorem selectionDone : Statement .selectionDone := by
  exact fun _ _ h => absurd h List.not_mem_nil
theorem count (p : ExPkt) : Statement (.count p) := by
  exact fun _ _ h => absurd h List.not_mem_nil
theorem ecCandidates (p : ExPkt) : Statement (.ecCandidates p) := by
  exact fun _ _ h => absurd h List.not_mem_nil
theorem ecAssignment (p : ExPkt) : Statement (.ecAssignment p) := by
  exact fun _ _ h => absurd h List.not_mem_nil
theorem listBuildDone : Statement .listBuildDone := by
  exact fun _ _ h => absurd h List.not_mem_nil
theorem arm (p : ExPkt) : Statement (.arm p) := by
  exact fun _ _ h => absurd h List.not_mem_nil
theorem dispatch (p : ExPkt) : Statement (.dispatch p) := by
  exact fun _ _ h => absurd h List.not_mem_nil
theorem returnRow (p : ExPkt) : Statement (.returnRow p) := by
  exact fun _ _ h => absurd h List.not_mem_nil
theorem collData (p : ExPkt) : Statement (.collData p) := by
  exact fun _ _ h => absurd h List.not_mem_nil
theorem credit (p : ExPkt) : Statement (.credit p) := by
  exact fun _ _ h => absurd h List.not_mem_nil
theorem desc (p : ExPkt) : Statement (.desc p) := by
  exact fun _ _ h => absurd h List.not_mem_nil
theorem barrier (p : ExPkt) : Statement (.barrier p) := by
  exact fun _ _ h => absurd h List.not_mem_nil
theorem abort (p : ExPkt) : Statement (.abort p) := by
  exact fun _ _ h => absurd h List.not_mem_nil
theorem suspect (p : ExPkt) : Statement (.suspect p) := by
  exact fun _ _ h => absurd h List.not_mem_nil
theorem reform (p : ExPkt) : Statement (.reform p) := by
  exact fun _ _ h => absurd h List.not_mem_nil
theorem redo (p : ExPkt) : Statement (.redo p) := by
  exact fun _ _ h => absurd h List.not_mem_nil
theorem groupTimeout (group : Nat) : Statement (.groupTimeout group) := by
  intro h n hn
  replace h : ((group < 65536 : Bool)) = true := h
  replace hn : n ∈ [group] := hn
  simp at h hn
  omega
theorem suspectTimerEnd (group : Nat) : Statement (.suspectTimerEnd group) := by
  intro h n hn
  replace h : ((group < 65536 : Bool)) = true := h
  replace hn : n ∈ [group] := hn
  simp at h hn
  omega
theorem reformWaitTimeout (group : Nat) : Statement (.reformWaitTimeout group) := by
  intro h n hn
  replace h : ((group < 65536 : Bool)) = true := h
  replace hn : n ∈ [group] := hn
  simp at h hn
  omega
theorem runClassMapWrite (value : Nat) : Statement (.runClassMapWrite value) := by
  intro h n hn
  replace h : ((value < 2 ^ 64 : Bool)) = true := h
  replace hn : n ∈ [value] := hn
  simp at h hn
  omega
theorem runHalt (value : Bool) : Statement (.runHalt value) := by
  exact fun _ _ h => absurd h List.not_mem_nil
theorem rteHalt (engine : Nat) (value : Bool) : Statement (.rteHalt engine value) := by
  intro h n hn
  replace h : ((engine < 4 : Bool)) = true := h
  replace hn : n ∈ [engine] := hn
  simp at h hn
  omega
theorem pool0Alloc (die : Nat) : Statement (.pool0Alloc die) := by
  intro h n hn
  replace h : ((die < 4 : Bool)) = true := h
  replace hn : n ∈ [die] := hn
  simp at h hn
  omega
theorem workItemStart (tile : Nat) (errors : KernelErrors) : Statement (.workItemStart tile errors) := by
  intro h n hn
  replace h : ((tile < 152 : Bool)) = true := h
  replace hn : n ∈ [tile] := hn
  simp at h hn
  omega
theorem add (tile : Nat) : Statement (.add tile) := by
  intro h n hn
  replace h : ((tile < 152 : Bool)) = true := h
  replace hn : n ∈ [tile] := hn
  simp at h hn
  omega
theorem sub (tile : Nat) : Statement (.sub tile) := by
  intro h n hn
  replace h : ((tile < 152 : Bool)) = true := h
  replace hn : n ∈ [tile] := hn
  simp at h hn
  omega
theorem andS (tile : Nat) : Statement (.andS tile) := by
  intro h n hn
  replace h : ((tile < 152 : Bool)) = true := h
  replace hn : n ∈ [tile] := hn
  simp at h hn
  omega
theorem orS (tile : Nat) : Statement (.orS tile) := by
  intro h n hn
  replace h : ((tile < 152 : Bool)) = true := h
  replace hn : n ∈ [tile] := hn
  simp at h hn
  omega
theorem xorS (tile : Nat) : Statement (.xorS tile) := by
  intro h n hn
  replace h : ((tile < 152 : Bool)) = true := h
  replace hn : n ∈ [tile] := hn
  simp at h hn
  omega
theorem shl (tile : Nat) : Statement (.shl tile) := by
  intro h n hn
  replace h : ((tile < 152 : Bool)) = true := h
  replace hn : n ∈ [tile] := hn
  simp at h hn
  omega
theorem shr (tile : Nat) : Statement (.shr tile) := by
  intro h n hn
  replace h : ((tile < 152 : Bool)) = true := h
  replace hn : n ∈ [tile] := hn
  simp at h hn
  omega
theorem sra (tile : Nat) : Statement (.sra tile) := by
  intro h n hn
  replace h : ((tile < 152 : Bool)) = true := h
  replace hn : n ∈ [tile] := hn
  simp at h hn
  omega
theorem mul (tile : Nat) : Statement (.mul tile) := by
  intro h n hn
  replace h : ((tile < 152 : Bool)) = true := h
  replace hn : n ∈ [tile] := hn
  simp at h hn
  omega
theorem mulhu (tile : Nat) : Statement (.mulhu tile) := by
  intro h n hn
  replace h : ((tile < 152 : Bool)) = true := h
  replace hn : n ∈ [tile] := hn
  simp at h hn
  omega
theorem divu (tile : Nat) : Statement (.divu tile) := by
  intro h n hn
  replace h : ((tile < 152 : Bool)) = true := h
  replace hn : n ∈ [tile] := hn
  simp at h hn
  omega
theorem remu (tile : Nat) : Statement (.remu tile) := by
  intro h n hn
  replace h : ((tile < 152 : Bool)) = true := h
  replace hn : n ∈ [tile] := hn
  simp at h hn
  omega
theorem minu (tile : Nat) : Statement (.minu tile) := by
  intro h n hn
  replace h : ((tile < 152 : Bool)) = true := h
  replace hn : n ∈ [tile] := hn
  simp at h hn
  omega
theorem maxu (tile : Nat) : Statement (.maxu tile) := by
  intro h n hn
  replace h : ((tile < 152 : Bool)) = true := h
  replace hn : n ∈ [tile] := hn
  simp at h hn
  omega
theorem slt (tile : Nat) : Statement (.slt tile) := by
  intro h n hn
  replace h : ((tile < 152 : Bool)) = true := h
  replace hn : n ∈ [tile] := hn
  simp at h hn
  omega
theorem sltu (tile : Nat) : Statement (.sltu tile) := by
  intro h n hn
  replace h : ((tile < 152 : Bool)) = true := h
  replace hn : n ∈ [tile] := hn
  simp at h hn
  omega
theorem addi (tile : Nat) : Statement (.addi tile) := by
  intro h n hn
  replace h : ((tile < 152 : Bool)) = true := h
  replace hn : n ∈ [tile] := hn
  simp at h hn
  omega
theorem andi (tile : Nat) : Statement (.andi tile) := by
  intro h n hn
  replace h : ((tile < 152 : Bool)) = true := h
  replace hn : n ∈ [tile] := hn
  simp at h hn
  omega
theorem ori (tile : Nat) : Statement (.ori tile) := by
  intro h n hn
  replace h : ((tile < 152 : Bool)) = true := h
  replace hn : n ∈ [tile] := hn
  simp at h hn
  omega
theorem xori (tile : Nat) : Statement (.xori tile) := by
  intro h n hn
  replace h : ((tile < 152 : Bool)) = true := h
  replace hn : n ∈ [tile] := hn
  simp at h hn
  omega
theorem shli (tile : Nat) : Statement (.shli tile) := by
  intro h n hn
  replace h : ((tile < 152 : Bool)) = true := h
  replace hn : n ∈ [tile] := hn
  simp at h hn
  omega
theorem shri (tile : Nat) : Statement (.shri tile) := by
  intro h n hn
  replace h : ((tile < 152 : Bool)) = true := h
  replace hn : n ∈ [tile] := hn
  simp at h hn
  omega
theorem srai (tile : Nat) : Statement (.srai tile) := by
  intro h n hn
  replace h : ((tile < 152 : Bool)) = true := h
  replace hn : n ∈ [tile] := hn
  simp at h hn
  omega
theorem muli (tile : Nat) : Statement (.muli tile) := by
  intro h n hn
  replace h : ((tile < 152 : Bool)) = true := h
  replace hn : n ∈ [tile] := hn
  simp at h hn
  omega
theorem li (tile : Nat) : Statement (.li tile) := by
  intro h n hn
  replace h : ((tile < 152 : Bool)) = true := h
  replace hn : n ∈ [tile] := hn
  simp at h hn
  omega
theorem exti (tile : Nat) : Statement (.exti tile) := by
  intro h n hn
  replace h : ((tile < 152 : Bool)) = true := h
  replace hn : n ∈ [tile] := hn
  simp at h hn
  omega
theorem cdivi (tile : Nat) : Statement (.cdivi tile) := by
  intro h n hn
  replace h : ((tile < 152 : Bool)) = true := h
  replace hn : n ∈ [tile] := hn
  simp at h hn
  omega
theorem ld (tile : Nat) (uncorrectable : Bool) : Statement (.ld tile uncorrectable) := by
  intro h n hn
  replace h : ((tile < 152 : Bool)) = true := h
  replace hn : n ∈ [tile] := hn
  simp at h hn
  omega
theorem st (tile : Nat) : Statement (.st tile) := by
  intro h n hn
  replace h : ((tile < 152 : Bool)) = true := h
  replace hn : n ∈ [tile] := hn
  simp at h hn
  omega
theorem ldw (tile : Nat) : Statement (.ldw tile) := by
  intro h n hn
  replace h : ((tile < 152 : Bool)) = true := h
  replace hn : n ∈ [tile] := hn
  simp at h hn
  omega
theorem ldwData (tile : Nat) (bad : Bool) : Statement (.ldwData tile bad) := by
  intro h n hn
  replace h : ((tile < 152 : Bool)) = true := h
  replace hn : n ∈ [tile] := hn
  simp at h hn
  omega
theorem jmp (tile : Nat) : Statement (.jmp tile) := by
  intro h n hn
  replace h : ((tile < 152 : Bool)) = true := h
  replace hn : n ∈ [tile] := hn
  simp at h hn
  omega
theorem beq (tile : Nat) : Statement (.beq tile) := by
  intro h n hn
  replace h : ((tile < 152 : Bool)) = true := h
  replace hn : n ∈ [tile] := hn
  simp at h hn
  omega
theorem bne (tile : Nat) : Statement (.bne tile) := by
  intro h n hn
  replace h : ((tile < 152 : Bool)) = true := h
  replace hn : n ∈ [tile] := hn
  simp at h hn
  omega
theorem bltu (tile : Nat) : Statement (.bltu tile) := by
  intro h n hn
  replace h : ((tile < 152 : Bool)) = true := h
  replace hn : n ∈ [tile] := hn
  simp at h hn
  omega
theorem bgeu (tile : Nat) : Statement (.bgeu tile) := by
  intro h n hn
  replace h : ((tile < 152 : Bool)) = true := h
  replace hn : n ∈ [tile] := hn
  simp at h hn
  omega
theorem loop (tile : Nat) : Statement (.loop tile) := by
  intro h n hn
  replace h : ((tile < 152 : Bool)) = true := h
  replace hn : n ∈ [tile] := hn
  simp at h hn
  omega
theorem endloop (tile : Nat) : Statement (.endloop tile) := by
  intro h n hn
  replace h : ((tile < 152 : Bool)) = true := h
  replace hn : n ∈ [tile] := hn
  simp at h hn
  omega
theorem ricNop (tile : Nat) : Statement (.ricNop tile) := by
  intro h n hn
  replace h : ((tile < 152 : Bool)) = true := h
  replace hn : n ∈ [tile] := hn
  simp at h hn
  omega
theorem endKernel (tile : Nat) : Statement (.endKernel tile) := by
  intro h n hn
  replace h : ((tile < 152 : Bool)) = true := h
  replace hn : n ∈ [tile] := hn
  simp at h hn
  omega
theorem ewait (tile : Nat) : Statement (.ewait tile) := by
  intro h n hn
  replace h : ((tile < 152 : Bool)) = true := h
  replace hn : n ∈ [tile] := hn
  simp at h hn
  omega
theorem esig (tile : Nat) : Statement (.esig tile) := by
  intro h n hn
  replace h : ((tile < 152 : Bool)) = true := h
  replace hn : n ∈ [tile] := hn
  simp at h hn
  omega
theorem ricFence (tile : Nat) : Statement (.ricFence tile) := by
  intro h n hn
  replace h : ((tile < 152 : Bool)) = true := h
  replace hn : n ∈ [tile] := hn
  simp at h hn
  omega
theorem trap (tile : Nat) : Statement (.trap tile) := by
  intro h n hn
  replace h : ((tile < 152 : Bool)) = true := h
  replace hn : n ∈ [tile] := hn
  simp at h hn
  omega
theorem pass (tile : Nat) : Statement (.pass tile) := by
  intro h n hn
  replace h : ((tile < 152 : Bool)) = true := h
  replace hn : n ∈ [tile] := hn
  simp at h hn
  omega
theorem makeup (tile : Nat) : Statement (.makeup tile) := by
  intro h n hn
  replace h : ((tile < 152 : Bool)) = true := h
  replace hn : n ∈ [tile] := hn
  simp at h hn
  omega
theorem vecAdd (tile : Nat) : Statement (.vecAdd tile) := by
  intro h n hn
  replace h : ((tile < 152 : Bool)) = true := h
  replace hn : n ∈ [tile] := hn
  simp at h hn
  omega
theorem vecSub (tile : Nat) : Statement (.vecSub tile) := by
  intro h n hn
  replace h : ((tile < 152 : Bool)) = true := h
  replace hn : n ∈ [tile] := hn
  simp at h hn
  omega
theorem vecMul (tile : Nat) : Statement (.vecMul tile) := by
  intro h n hn
  replace h : ((tile < 152 : Bool)) = true := h
  replace hn : n ∈ [tile] := hn
  simp at h hn
  omega
theorem fma (tile : Nat) : Statement (.fma tile) := by
  intro h n hn
  replace h : ((tile < 152 : Bool)) = true := h
  replace hn : n ∈ [tile] := hn
  simp at h hn
  omega
theorem scale (tile : Nat) : Statement (.scale tile) := by
  intro h n hn
  replace h : ((tile < 152 : Bool)) = true := h
  replace hn : n ∈ [tile] := hn
  simp at h hn
  omega
theorem vecMin (tile : Nat) : Statement (.vecMin tile) := by
  intro h n hn
  replace h : ((tile < 152 : Bool)) = true := h
  replace hn : n ∈ [tile] := hn
  simp at h hn
  omega
theorem vecMax (tile : Nat) : Statement (.vecMax tile) := by
  intro h n hn
  replace h : ((tile < 152 : Bool)) = true := h
  replace hn : n ∈ [tile] := hn
  simp at h hn
  omega
theorem abs (tile : Nat) : Statement (.abs tile) := by
  intro h n hn
  replace h : ((tile < 152 : Bool)) = true := h
  replace hn : n ∈ [tile] := hn
  simp at h hn
  omega
theorem neg (tile : Nat) : Statement (.neg tile) := by
  intro h n hn
  replace h : ((tile < 152 : Bool)) = true := h
  replace hn : n ∈ [tile] := hn
  simp at h hn
  omega
theorem select (tile : Nat) : Statement (.select tile) := by
  intro h n hn
  replace h : ((tile < 152 : Bool)) = true := h
  replace hn : n ∈ [tile] := hn
  simp at h hn
  omega
theorem cvt (tile : Nat) : Statement (.cvt tile) := by
  intro h n hn
  replace h : ((tile < 152 : Bool)) = true := h
  replace hn : n ∈ [tile] := hn
  simp at h hn
  omega
theorem div (tile : Nat) : Statement (.div tile) := by
  intro h n hn
  replace h : ((tile < 152 : Bool)) = true := h
  replace hn : n ∈ [tile] := hn
  simp at h hn
  omega
theorem sqrt (tile : Nat) : Statement (.sqrt tile) := by
  intro h n hn
  replace h : ((tile < 152 : Bool)) = true := h
  replace hn : n ∈ [tile] := hn
  simp at h hn
  omega
theorem exp (tile : Nat) : Statement (.exp tile) := by
  intro h n hn
  replace h : ((tile < 152 : Bool)) = true := h
  replace hn : n ∈ [tile] := hn
  simp at h hn
  omega
theorem log (tile : Nat) : Statement (.log tile) := by
  intro h n hn
  replace h : ((tile < 152 : Bool)) = true := h
  replace hn : n ∈ [tile] := hn
  simp at h hn
  omega
theorem rsqrt (tile : Nat) : Statement (.rsqrt tile) := by
  intro h n hn
  replace h : ((tile < 152 : Bool)) = true := h
  replace hn : n ∈ [tile] := hn
  simp at h hn
  omega
theorem sigmoid (tile : Nat) : Statement (.sigmoid tile) := by
  intro h n hn
  replace h : ((tile < 152 : Bool)) = true := h
  replace hn : n ∈ [tile] := hn
  simp at h hn
  omega
theorem tanh (tile : Nat) : Statement (.tanh tile) := by
  intro h n hn
  replace h : ((tile < 152 : Bool)) = true := h
  replace hn : n ∈ [tile] := hn
  simp at h hn
  omega
theorem relu (tile : Nat) : Statement (.relu tile) := by
  intro h n hn
  replace h : ((tile < 152 : Bool)) = true := h
  replace hn : n ∈ [tile] := hn
  simp at h hn
  omega
theorem relu2 (tile : Nat) : Statement (.relu2 tile) := by
  intro h n hn
  replace h : ((tile < 152 : Bool)) = true := h
  replace hn : n ∈ [tile] := hn
  simp at h hn
  omega
theorem geluTanh (tile : Nat) : Statement (.geluTanh tile) := by
  intro h n hn
  replace h : ((tile < 152 : Bool)) = true := h
  replace hn : n ∈ [tile] := hn
  simp at h hn
  omega
theorem silu (tile : Nat) : Statement (.silu tile) := by
  intro h n hn
  replace h : ((tile < 152 : Bool)) = true := h
  replace hn : n ∈ [tile] := hn
  simp at h hn
  omega
theorem actMul (tile : Nat) : Statement (.actMul tile) := by
  intro h n hn
  replace h : ((tile < 152 : Bool)) = true := h
  replace hn : n ∈ [tile] := hn
  simp at h hn
  omega
theorem rsum (tile : Nat) : Statement (.rsum tile) := by
  intro h n hn
  replace h : ((tile < 152 : Bool)) = true := h
  replace hn : n ∈ [tile] := hn
  simp at h hn
  omega
theorem rsumsq (tile : Nat) : Statement (.rsumsq tile) := by
  intro h n hn
  replace h : ((tile < 152 : Bool)) = true := h
  replace hn : n ∈ [tile] := hn
  simp at h hn
  omega
theorem rdot (tile : Nat) : Statement (.rdot tile) := by
  intro h n hn
  replace h : ((tile < 152 : Bool)) = true := h
  replace hn : n ∈ [tile] := hn
  simp at h hn
  omega
theorem rmax (tile : Nat) : Statement (.rmax tile) := by
  intro h n hn
  replace h : ((tile < 152 : Bool)) = true := h
  replace hn : n ∈ [tile] := hn
  simp at h hn
  omega
theorem rmin (tile : Nat) : Statement (.rmin tile) := by
  intro h n hn
  replace h : ((tile < 152 : Bool)) = true := h
  replace hn : n ∈ [tile] := hn
  simp at h hn
  omega
theorem rargmax (tile : Nat) : Statement (.rargmax tile) := by
  intro h n hn
  replace h : ((tile < 152 : Bool)) = true := h
  replace hn : n ∈ [tile] := hn
  simp at h hn
  omega
theorem rargmin (tile : Nat) : Statement (.rargmin tile) := by
  intro h n hn
  replace h : ((tile < 152 : Bool)) = true := h
  replace hn : n ∈ [tile] := hn
  simp at h hn
  omega
theorem copyIn (tile : Nat) : Statement (.copyIn tile) := by
  intro h n hn
  replace h : ((tile < 152 : Bool)) = true := h
  replace hn : n ∈ [tile] := hn
  simp at h hn
  omega
theorem copyOut (tile : Nat) : Statement (.copyOut tile) := by
  intro h n hn
  replace h : ((tile < 152 : Bool)) = true := h
  replace hn : n ∈ [tile] := hn
  simp at h hn
  omega
theorem copy (tile : Nat) : Statement (.copy tile) := by
  intro h n hn
  replace h : ((tile < 152 : Bool)) = true := h
  replace hn : n ∈ [tile] := hn
  simp at h hn
  omega
theorem fill (tile : Nat) : Statement (.fill tile) := by
  intro h n hn
  replace h : ((tile < 152 : Bool)) = true := h
  replace hn : n ∈ [tile] := hn
  simp at h hn
  omega
theorem eval (tile : Nat) : Statement (.eval tile) := by
  intro h n hn
  replace h : ((tile < 152 : Bool)) = true := h
  replace hn : n ∈ [tile] := hn
  simp at h hn
  omega
theorem engineCmdStart (tile : Nat) (engine : Nat) (ecc : EngineEcc) : Statement (.engineCmdStart tile engine ecc) := by
  intro h n hn
  replace h : ((tile < 152 && engine < 4 : Bool)) = true := h
  replace hn : n ∈ [tile, engine] := hn
  simp at h hn
  omega
theorem engineCmdComplete (tile : Nat) (engine : Nat) : Statement (.engineCmdComplete tile engine) := by
  intro h n hn
  replace h : ((tile < 152 && engine < 4 : Bool)) = true := h
  replace hn : n ∈ [tile, engine] := hn
  simp at h hn
  omega
theorem waitDeadlock (tile : Nat) : Statement (.waitDeadlock tile) := by
  intro h n hn
  replace h : ((tile < 152 : Bool)) = true := h
  replace hn : n ∈ [tile] := hn
  simp at h hn
  omega
theorem teardownComplete (tile : Nat) : Statement (.teardownComplete tile) := by
  intro h n hn
  replace h : ((tile < 152 : Bool)) = true := h
  replace hn : n ∈ [tile] := hn
  simp at h hn
  omega
theorem tileHalt (tile : Nat) (value : Bool) : Statement (.tileHalt tile value) := by
  intro h n hn
  replace h : ((tile < 152 : Bool)) = true := h
  replace hn : n ∈ [tile] := hn
  simp at h hn
  omega
theorem tileClockStart (tile : Nat) : Statement (.tileClockStart tile) := by
  intro h n hn
  replace h : ((tile < 152 : Bool)) = true := h
  replace hn : n ∈ [tile] := hn
  simp at h hn
  omega
theorem tileClockStop (tile : Nat) : Statement (.tileClockStop tile) := by
  intro h n hn
  replace h : ((tile < 152 : Bool)) = true := h
  replace hn : n ∈ [tile] := hn
  simp at h hn
  omega
theorem schedule : Statement .schedule := by
  exact fun _ _ h => absurd h List.not_mem_nil
theorem lingerExpire (ctx : Nat) (stream : Nat) : Statement (.lingerExpire ctx stream) := by
  intro h n hn
  replace h : ((ctx < 262144 && stream < 64 : Bool)) = true := h
  replace hn : n ∈ [ctx, stream] := hn
  simp at h hn
  omega
theorem streamBlockTimeout (ctx : Nat) (stream : Nat) : Statement (.streamBlockTimeout ctx stream) := by
  intro h n hn
  replace h : ((ctx < 262144 && stream < 64 : Bool)) = true := h
  replace hn : n ∈ [ctx, stream] := hn
  simp at h hn
  omega
theorem pinWatchdog (ctx : Nat) (stream : Nat) : Statement (.pinWatchdog ctx stream) := by
  intro h n hn
  replace h : ((ctx < 262144 && stream < 64 : Bool)) = true := h
  replace hn : n ∈ [ctx, stream] := hn
  simp at h hn
  omega
theorem pageFetchDone (page : Nat) (read : NandRead) : Statement (.pageFetchDone page read) := by
  intro h n hn
  replace h : ((page < 2 ^ 27 && read.inRange 128 : Bool)) = true := h
  replace hn : n ∈ [page] := hn
  simp at h hn
  omega
theorem pageMoveDone (page : Nat) (kind : MoveDone) : Statement (.pageMoveDone page kind) := by
  intro h n hn
  replace h : ((page < 2 ^ 27 && kind.inRange : Bool)) = true := h
  replace hn : n ∈ [page] := hn
  simp at h hn
  omega
theorem stageDone (tile : Nat) : Statement (.stageDone tile) := by
  intro h n hn
  replace h : ((tile < 152 : Bool)) = true := h
  replace hn : n ∈ [tile] := hn
  simp at h hn
  omega
theorem patrolScrub (stack : Nat) (frame : Nat) (result : ScrubResult) : Statement (.patrolScrub stack frame result) := by
  intro h n hn
  replace h : ((stack < 24 && frame < 45776 && result.nand.inRange 128 : Bool)) = true := h
  replace hn : n ∈ [stack, frame] := hn
  simp at h hn
  omega
theorem stackFailure (stack : Nat) : Statement (.stackFailure stack) := by
  intro h n hn
  replace h : ((stack < 24 : Bool)) = true := h
  replace hn : n ∈ [stack] := hn
  simp at h hn
  omega
theorem nandUpkeep (action : Upkeep) : Statement (.nandUpkeep action) := by
  exact fun _ _ h => absurd h List.not_mem_nil
theorem nandChannelFail (channel : Nat) : Statement (.nandChannelFail channel) := by
  intro h n hn
  replace h : ((channel < 16 : Bool)) = true := h
  replace hn : n ∈ [channel] := hn
  simp at h hn
  omega
theorem bar2Read (func : Nat) (offset : Nat) (len : Nat) : Statement (.bar2Read func offset len) := by
  intro h n hn
  replace h : ((func ≤ 32 && offset < 2 ^ 36 && 1 ≤ len && len ≤ 4096 : Bool)) = true := h
  replace hn : n ∈ [func, offset, len] := hn
  simp at h hn
  omega
theorem bar2Write (func : Nat) (offset : Nat) (data : HostData) : Statement (.bar2Write func offset data) := by
  intro h n hn
  replace h : ((func ≤ 32 && offset < 2 ^ 36 && 1 ≤ data.bytes.length && data.bytes.length ≤ 4096 : Bool)) = true := h
  replace hn : n ∈ [func, offset] := hn
  simp at h hn
  omega
theorem flitReceive (port : Nat) (symErrs : Nat) (bytes : List Byte) : Statement (.flitReceive port symErrs bytes) := by
  intro h n hn
  replace h : ((port < 20 && symErrs ≤ 640 && bytes.length = 640 : Bool)) = true := h
  replace hn : n ∈ [port, symErrs] := hn
  simp at h hn
  omega
theorem retryReq (port : Nat) (fack : Nat) : Statement (.retryReq port fack) := by
  intro h n hn
  replace h : ((port < 20 && fack < 4096 : Bool)) = true := h
  replace hn : n ∈ [port, fack] := hn
  simp at h hn
  omega
theorem portEnable (port : Nat) (value : Bool) : Statement (.portEnable port value) := by
  intro h n hn
  replace h : ((port < 20 : Bool)) = true := h
  replace hn : n ∈ [port] := hn
  simp at h hn
  omega
theorem portFwdEn (port : Nat) (value : Bool) : Statement (.portFwdEn port value) := by
  intro h n hn
  replace h : ((port < 20 : Bool)) = true := h
  replace hn : n ∈ [port] := hn
  simp at h hn
  omega
theorem retrain (port : Nat) (value : Bool) : Statement (.retrain port value) := by
  intro h n hn
  replace h : ((port < 20 : Bool)) = true := h
  replace hn : n ∈ [port] := hn
  simp at h hn
  omega
theorem portTrainingDone (port : Nat) (lanes : Nat) : Statement (.portTrainingDone port lanes) := by
  intro h n hn
  replace h : ((port < 20 && lanes < 16 : Bool)) = true := h
  replace hn : n ∈ [port, lanes] := hn
  simp at h hn
  omega
theorem portStepTimeout (port : Nat) : Statement (.portStepTimeout port) := by
  intro h n hn
  replace h : ((port < 20 : Bool)) = true := h
  replace hn : n ∈ [port] := hn
  simp at h hn
  omega
theorem init (port : Nat) (msg : InitMsg) : Statement (.init port msg) := by
  intro h n hn
  replace h : ((port < 20 : Bool)) = true := h
  replace hn : n ∈ [port] := hn
  simp at h hn
  omega
theorem laneFail (port : Nat) (lane : Nat) : Statement (.laneFail port lane) := by
  intro h n hn
  replace h : ((port < 20 && lane < 4 : Bool)) = true := h
  replace hn : n ∈ [port, lane] := hn
  simp at h hn
  omega
theorem packetInject (index : Nat) : Statement (.packetInject index) := by
  intro h n hn
  replace h : ((index < 2 ^ 32 : Bool)) = true := h
  replace hn : n ∈ [index] := hn
  simp at h hn
  omega
theorem packetForward (index : Nat) : Statement (.packetForward index) := by
  intro h n hn
  replace h : ((index < 2 ^ 32 : Bool)) = true := h
  replace hn : n ∈ [index] := hn
  simp at h hn
  omega
theorem data (port : Nat) (bytes : List Byte) : Statement (.data port bytes) := by
  intro h n hn
  replace h : ((port < 20 && bytes.length ≤ 4608 : Bool)) = true := h
  replace hn : n ∈ [port] := hn
  simp at h hn
  omega
theorem ack (p : XlPkt) : Statement (.ack p) := by
  exact fun _ _ h => absurd h List.not_mem_nil
theorem ackSend (slice : Nat) : Statement (.ackSend slice) := by
  intro h n hn
  replace h : ((slice < 4 : Bool)) = true := h
  replace hn : n ∈ [slice] := hn
  simp at h hn
  omega
theorem nack (p : XlPkt) : Statement (.nack p) := by
  exact fun _ _ h => absurd h List.not_mem_nil
theorem notice (p : XlPkt) : Statement (.notice p) := by
  exact fun _ _ h => absurd h List.not_mem_nil
theorem probe (p : XlPkt) : Statement (.probe p) := by
  exact fun _ _ h => absurd h List.not_mem_nil
theorem confirm (p : XlPkt) : Statement (.confirm p) := by
  exact fun _ _ h => absurd h List.not_mem_nil
theorem packetResend (dest : Nat) (tc : Nat) (seq : Nat) : Statement (.packetResend dest tc seq) := by
  intro h n hn
  replace h : ((dest < 2 ^ 20 && tc < 8 && seq < 65536 : Bool)) = true := h
  replace hn : n ∈ [dest, tc, seq] := hn
  simp at h hn
  omega
theorem flowEntryFree (src : Nat) (tc : Nat) : Statement (.flowEntryFree src tc) := by
  intro h n hn
  replace h : ((src < 2 ^ 20 && tc < 8 : Bool)) = true := h
  replace hn : n ∈ [src, tc] := hn
  simp at h hn
  omega
theorem fenceDrainDone : Statement .fenceDrainDone := by
  exact fun _ _ h => absurd h List.not_mem_nil
theorem quarantineEnd : Statement .quarantineEnd := by
  exact fun _ _ h => absurd h List.not_mem_nil
theorem jobAdmitProbeTimer (seq : Nat) : Statement (.jobAdmitProbeTimer seq) := by
  intro h n hn
  replace h : ((seq < 2 ^ 64 : Bool)) = true := h
  replace hn : n ∈ [seq] := hn
  simp at h hn
  omega
theorem jobAdmitTimeout (seq : Nat) : Statement (.jobAdmitTimeout seq) := by
  intro h n hn
  replace h : ((seq < 2 ^ 64 : Bool)) = true := h
  replace hn : n ∈ [seq] := hn
  simp at h hn
  omega
theorem mcastResend (seq : Nat) : Statement (.mcastResend seq) := by
  intro h n hn
  replace h : ((seq < 2 ^ 64 : Bool)) = true := h
  replace hn : n ∈ [seq] := hn
  simp at h hn
  omega
theorem shaperStart (slice : Nat) : Statement (.shaperStart slice) := by
  intro h n hn
  replace h : ((slice < 4 : Bool)) = true := h
  replace hn : n ∈ [slice] := hn
  simp at h hn
  omega
theorem shpBucketCfgWrite (func : Nat) (level : Level) (index : Nat) (value : Nat) : Statement (.shpBucketCfgWrite func level index value) := by
  intro h n hn
  replace h : ((func ≤ 32 && index < 2 ^ 32 && value < 2 ^ 64 : Bool)) = true := h
  replace hn : n ∈ [func, index, value] := hn
  simp at h hn
  omega
theorem join (msg : JoinMsg) : Statement (.join msg) := by
  exact fun _ _ h => absurd h List.not_mem_nil
theorem ready (arrived : RmIn) : Statement (.ready arrived) := by
  exact fun _ _ h => absurd h List.not_mem_nil
theorem abortJoin (arrived : RmIn) : Statement (.abortJoin arrived) := by
  exact fun _ _ h => absurd h List.not_mem_nil
theorem leave (arrived : RmIn) : Statement (.leave arrived) := by
  exact fun _ _ h => absurd h List.not_mem_nil
theorem lost (arrived : RmIn) : Statement (.lost arrived) := by
  exact fun _ _ h => absurd h List.not_mem_nil
theorem getS (arrived : RmIn) : Statement (.getS arrived) := by
  exact fun _ _ h => absurd h List.not_mem_nil
theorem getM (arrived : RmIn) : Statement (.getM arrived) := by
  exact fun _ _ h => absurd h List.not_mem_nil
theorem putM (arrived : RmIn) : Statement (.putM arrived) := by
  exact fun _ _ h => absurd h List.not_mem_nil
theorem inv (arrived : RmIn) : Statement (.inv arrived) := by
  exact fun _ _ h => absurd h List.not_mem_nil
theorem flaskRecall (arrived : RmIn) : Statement (.flaskRecall arrived) := by
  exact fun _ _ h => absurd h List.not_mem_nil
theorem flaskData (arrived : RmIn) : Statement (.flaskData arrived) := by
  exact fun _ _ h => absurd h List.not_mem_nil
theorem flaskAck (arrived : RmIn) : Statement (.flaskAck arrived) := by
  exact fun _ _ h => absurd h List.not_mem_nil
theorem flaskJoinRetry : Statement .flaskJoinRetry := by
  exact fun _ _ h => absurd h List.not_mem_nil
theorem flaskJoinTimeout : Statement .flaskJoinTimeout := by
  exact fun _ _ h => absurd h List.not_mem_nil
theorem flaskRetry (rank : Nat) (tid : Nat) : Statement (.flaskRetry rank tid) := by
  intro h n hn
  replace h : ((rank < 8 && tid < 256 : Bool)) = true := h
  replace hn : n ∈ [rank, tid] := hn
  simp at h hn
  omega
theorem write (arrived : RmIn) : Statement (.write arrived) := by
  exact fun _ _ h => absurd h List.not_mem_nil
theorem read (arrived : RmIn) : Statement (.read arrived) := by
  exact fun _ _ h => absurd h List.not_mem_nil
theorem readData (arrived : RmIn) : Statement (.readData arrived) := by
  exact fun _ _ h => absurd h List.not_mem_nil
theorem atomic (arrived : RmIn) : Statement (.atomic arrived) := by
  exact fun _ _ h => absurd h List.not_mem_nil
theorem atomicResult (arrived : RmIn) : Statement (.atomicResult arrived) := by
  exact fun _ _ h => absurd h List.not_mem_nil
theorem powerSample (sample : PowerSample) : Statement (.powerSample sample) := by
  exact fun _ _ h => absurd h List.not_mem_nil
theorem criticalLimit (reading : Reading) : Statement (.criticalLimit reading) := by
  exact fun _ _ h => absurd h List.not_mem_nil
theorem criticalHoldEnd : Statement .criticalHoldEnd := by
  exact fun _ _ h => absurd h List.not_mem_nil
theorem tripLimit (reading : Reading) : Statement (.tripLimit reading) := by
  exact fun _ _ h => absurd h List.not_mem_nil
theorem pllLockLost (pll : Nat) : Statement (.pllLockLost pll) := by
  intro h n hn
  replace h : ((pll < 8 : Bool)) = true := h
  replace hn : n ∈ [pll] := hn
  simp at h hn
  omega
theorem pwrReqStoked (func : Nat) : Statement (.pwrReqStoked func) := by
  intro h n hn
  replace h : ((func ≤ 32 : Bool)) = true := h
  replace hn : n ∈ [func] := hn
  simp at h hn
  omega
theorem pwrReqSmoulder (func : Nat) : Statement (.pwrReqSmoulder func) := by
  intro h n hn
  replace h : ((func ≤ 32 : Bool)) = true := h
  replace hn : n ∈ [func] := hn
  simp at h hn
  omega
theorem pwrReqBanked (func : Nat) : Statement (.pwrReqBanked func) := by
  intro h n hn
  replace h : ((func ≤ 32 : Bool)) = true := h
  replace hn : n ∈ [func] := hn
  simp at h hn
  omega
theorem smoulderIdleTimeout : Statement .smoulderIdleTimeout := by
  exact fun _ _ h => absurd h List.not_mem_nil
theorem smoulderEntry : Statement .smoulderEntry := by
  exact fun _ _ h => absurd h List.not_mem_nil
theorem wakeComplete : Statement .wakeComplete := by
  exact fun _ _ h => absurd h List.not_mem_nil
theorem bankedEntered : Statement .bankedEntered := by
  exact fun _ _ h => absurd h List.not_mem_nil
theorem bankedExit (byPerst : Bool) : Statement (.bankedExit byPerst) := by
  exact fun _ _ h => absurd h List.not_mem_nil
theorem rowIdleTimeout (row : Nat) : Statement (.rowIdleTimeout row) := by
  intro h n hn
  replace h : ((row < 19 : Bool)) = true := h
  replace hn : n ∈ [row] := hn
  simp at h hn
  omega
theorem rowWakeDone (row : Nat) : Statement (.rowWakeDone row) := by
  intro h n hn
  replace h : ((row < 19 : Bool)) = true := h
  replace hn : n ∈ [row] := hn
  simp at h hn
  omega
theorem rePairIdleTimeout (pair : Nat) : Statement (.rePairIdleTimeout pair) := by
  intro h n hn
  replace h : ((pair < 2 : Bool)) = true := h
  replace hn : n ∈ [pair] := hn
  simp at h hn
  omega
theorem rePairWakeDone (pair : Nat) : Statement (.rePairWakeDone pair) := by
  intro h n hn
  replace h : ((pair < 2 : Bool)) = true := h
  replace hn : n ∈ [pair] := hn
  simp at h hn
  omega
theorem mainPowerUp : Statement .mainPowerUp := by
  exact fun _ _ h => absurd h List.not_mem_nil
theorem mainPowerLoss : Statement .mainPowerLoss := by
  exact fun _ _ h => absurd h List.not_mem_nil
theorem standbyPowerUp : Statement .standbyPowerUp := by
  exact fun _ _ h => absurd h List.not_mem_nil
theorem standbyLoss : Statement .standbyLoss := by
  exact fun _ _ h => absurd h List.not_mem_nil
theorem rstCtlWarm (func : Nat) (key : Nat) : Statement (.rstCtlWarm func key) := by
  intro h n hn
  replace h : ((func ≤ 32 && key < 256 : Bool)) = true := h
  replace hn : n ∈ [func, key] := hn
  simp at h hn
  omega
theorem rstCtlModule (func : Nat) (key : Nat) : Statement (.rstCtlModule func key) := by
  intro h n hn
  replace h : ((func ≤ 32 && key < 256 : Bool)) = true := h
  replace hn : n ∈ [func, key] := hn
  simp at h hn
  omega
theorem warmReset (frame : List Byte) : Statement (.warmReset frame) := by
  exact fun _ _ h => absurd h List.not_mem_nil
theorem moduleReset (frame : List Byte) : Statement (.moduleReset frame) := by
  exact fun _ _ h => absurd h List.not_mem_nil
theorem autoWarmTimeout : Statement .autoWarmTimeout := by
  exact fun _ _ h => absurd h List.not_mem_nil
theorem perstAssert : Statement .perstAssert := by
  exact fun _ _ h => absurd h List.not_mem_nil
theorem pcieLinkDown : Statement .pcieLinkDown := by
  exact fun _ _ h => absurd h List.not_mem_nil
theorem flr (func : Nat) : Statement (.flr func) := by
  intro h n hn
  replace h : ((func ≤ 32 : Bool)) = true := h
  replace hn : n ∈ [func] := hn
  simp at h hn
  omega
theorem resetComplete (test : Option SelfTest) : Statement (.resetComplete test) := by
  exact fun _ _ h => absurd h List.not_mem_nil
theorem bringupStepTimeout (step : Nat) (unit : Nat) : Statement (.bringupStepTimeout step unit) := by
  intro h n hn
  replace h : ((1 ≤ step && step ≤ 7 && unit < 35 : Bool)) = true := h
  replace hn : n ∈ [step, unit] := hn
  simp at h hn
  omega
theorem vfEnable (numVfs : Nat) : Statement (.vfEnable numVfs) := by
  intro h n hn
  replace h : ((numVfs ≤ 32 : Bool)) = true := h
  replace hn : n ∈ [numVfs] := hn
  simp at h hn
  omega
theorem vfDisable : Statement .vfDisable := by
  exact fun _ _ h => absurd h List.not_mem_nil
theorem d3hotEnter (func : Nat) : Statement (.d3hotEnter func) := by
  intro h n hn
  replace h : ((func ≤ 32 : Bool)) = true := h
  replace hn : n ∈ [func] := hn
  simp at h hn
  omega
theorem pmeTurnOff : Statement .pmeTurnOff := by
  exact fun _ _ h => absurd h List.not_mem_nil
theorem hifFnConfig (func : Nat) (fn : Nat) (which : FnReg) (value : Nat) : Statement (.hifFnConfig func fn which value) := by
  intro h n hn
  replace h : ((func ≤ 32 && fn ≤ 32 && value < 2 ^ 64 : Bool)) = true := h
  replace hn : n ∈ [func, fn, value] := hn
  simp at h hn
  omega
theorem census (frame : List Byte) : Statement (.census frame) := by
  exact fun _ _ h => absurd h List.not_mem_nil
theorem assign (frame : List Byte) : Statement (.assign frame) := by
  exact fun _ _ h => absurd h List.not_mem_nil
theorem ping (frame : List Byte) : Statement (.ping frame) := by
  exact fun _ _ h => absurd h List.not_mem_nil
theorem status (frame : List Byte) : Statement (.status frame) := by
  exact fun _ _ h => absurd h List.not_mem_nil
theorem regRead (frame : List Byte) : Statement (.regRead frame) := by
  exact fun _ _ h => absurd h List.not_mem_nil
theorem regWrite (frame : List Byte) : Statement (.regWrite frame) := by
  exact fun _ _ h => absurd h List.not_mem_nil
theorem wake (frame : List Byte) : Statement (.wake frame) := by
  exact fun _ _ h => absurd h List.not_mem_nil
theorem setPower (frame : List Byte) : Statement (.setPower frame) := by
  exact fun _ _ h => absurd h List.not_mem_nil
theorem testMode (frame : List Byte) : Statement (.testMode frame) := by
  exact fun _ _ h => absurd h List.not_mem_nil
theorem alertAck (frame : List Byte) : Statement (.alertAck frame) := by
  exact fun _ _ h => absurd h List.not_mem_nil
theorem alertRepeat (seq : Nat) : Statement (.alertRepeat seq) := by
  intro h n hn
  replace h : ((seq < 2 ^ 64 : Bool)) = true := h
  replace hn : n ∈ [seq] := hn
  simp at h hn
  omega
theorem mctp (frame : List Byte) : Statement (.mctp frame) := by
  exact fun _ _ h => absurd h List.not_mem_nil
theorem frameForward (frame : List Byte) : Statement (.frameForward frame) := by
  exact fun _ _ h => absurd h List.not_mem_nil
theorem chainInputLock : Statement .chainInputLock := by
  exact fun _ _ h => absurd h List.not_mem_nil
theorem chainInputLost : Statement .chainInputLost := by
  exact fun _ _ h => absurd h List.not_mem_nil
theorem setEndpointId (binding : Nat) (src : Nat) (eid : Nat) : Statement (.setEndpointId binding src eid) := by
  intro h n hn
  replace h : ((binding < 2 && src < 256 && eid < 256 : Bool)) = true := h
  replace hn : n ∈ [binding, src, eid] := hn
  simp at h hn
  omega
theorem getEndpointId (binding : Nat) (src : Nat) : Statement (.getEndpointId binding src) := by
  intro h n hn
  replace h : ((binding < 2 && src < 256 : Bool)) = true := h
  replace hn : n ∈ [binding, src] := hn
  simp at h hn
  omega
theorem getEndpointUuid (binding : Nat) (src : Nat) : Statement (.getEndpointUuid binding src) := by
  intro h n hn
  replace h : ((binding < 2 && src < 256 : Bool)) = true := h
  replace hn : n ∈ [binding, src] := hn
  simp at h hn
  omega
theorem getMctpVersionSupport (binding : Nat) (src : Nat) : Statement (.getMctpVersionSupport binding src) := by
  intro h n hn
  replace h : ((binding < 2 && src < 256 : Bool)) = true := h
  replace hn : n ∈ [binding, src] := hn
  simp at h hn
  omega
theorem getMessageTypeSupport (binding : Nat) (src : Nat) : Statement (.getMessageTypeSupport binding src) := by
  intro h n hn
  replace h : ((binding < 2 && src < 256 : Bool)) = true := h
  replace hn : n ∈ [binding, src] := hn
  simp at h hn
  omega
theorem getVersion (binding : Nat) (src : Nat) : Statement (.getVersion binding src) := by
  intro h n hn
  replace h : ((binding < 2 && src < 256 : Bool)) = true := h
  replace hn : n ∈ [binding, src] := hn
  simp at h hn
  omega
theorem getCapabilities (binding : Nat) (src : Nat) (version : Nat) (transfer : Nat) : Statement (.getCapabilities binding src version transfer) := by
  intro h n hn
  replace h : ((binding < 2 && src < 256 && version < 256 && 42 ≤ transfer && transfer < 2 ^ 32 : Bool)) = true := h
  replace hn : n ∈ [binding, src, version, transfer] := hn
  simp at h hn
  omega
theorem negotiateAlgorithms (binding : Nat) (src : Nat) (version : Nat) (common : Bool) : Statement (.negotiateAlgorithms binding src version common) := by
  intro h n hn
  replace h : ((binding < 2 && src < 256 && version < 256 : Bool)) = true := h
  replace hn : n ∈ [binding, src, version] := hn
  simp at h hn
  omega
theorem getDigests (binding : Nat) (src : Nat) (version : Nat) : Statement (.getDigests binding src version) := by
  intro h n hn
  replace h : ((binding < 2 && src < 256 && version < 256 : Bool)) = true := h
  replace hn : n ∈ [binding, src, version] := hn
  simp at h hn
  omega
theorem getCertificate (binding : Nat) (src : Nat) (version : Nat) (slot : Nat) (offset : Nat) (length : Nat) : Statement (.getCertificate binding src version slot offset length) := by
  intro h n hn
  replace h : ((binding < 2 && src < 256 && version < 256 && slot < 8 && offset < 65536 && length < 65536 : Bool)) = true := h
  replace hn : n ∈ [binding, src, version, slot, offset, length] := hn
  simp at h hn
  omega
theorem challenge (binding : Nat) (src : Nat) (version : Nat) (slot : Nat) : Statement (.challenge binding src version slot) := by
  intro h n hn
  replace h : ((binding < 2 && src < 256 && version < 256 && slot < 8 : Bool)) = true := h
  replace hn : n ∈ [binding, src, version, slot] := hn
  simp at h hn
  omega
theorem getMeasurements (binding : Nat) (src : Nat) (version : Nat) (index : Nat) (signed : Bool) : Statement (.getMeasurements binding src version index signed) := by
  intro h n hn
  replace h : ((binding < 2 && src < 256 && version < 256 && index < 256 : Bool)) = true := h
  replace hn : n ∈ [binding, src, version, index] := hn
  simp at h hn
  omega
theorem chunkGet (binding : Nat) (src : Nat) (version : Nat) (handle : Nat) (seq : Nat) : Statement (.chunkGet binding src version handle seq) := by
  intro h n hn
  replace h : ((binding < 2 && src < 256 && version < 256 && handle < 256 && seq < 65536 : Bool)) = true := h
  replace hn : n ∈ [binding, src, version, handle, seq] := hn
  simp at h hn
  omega
theorem engineHang (tile : Nat) : Statement (.engineHang tile) := by
  intro h n hn
  replace h : ((tile < 152 : Bool)) = true := h
  replace hn : n ∈ [tile] := hn
  simp at h hn
  omega
theorem wakeFail (tile : Nat) : Statement (.wakeFail tile) := by
  intro h n hn
  replace h : ((tile < 152 : Bool)) = true := h
  replace hn : n ∈ [tile] := hn
  simp at h hn
  omega
theorem bondLinkFail (tile : Nat) : Statement (.bondLinkFail tile) := by
  intro h n hn
  replace h : ((tile < 152 : Bool)) = true := h
  replace hn : n ∈ [tile] := hn
  simp at h hn
  omega
theorem spareSelfTest (tile : Nat) (passed : Bool) : Statement (.spareSelfTest tile passed) := by
  intro h n hn
  replace h : ((tile < 152 : Bool)) = true := h
  replace hn : n ∈ [tile] := hn
  simp at h hn
  omega
theorem reinstate (func : Nat) (phys : Nat) : Statement (.reinstate func phys) := by
  intro h n hn
  replace h : ((func ≤ 32 && phys < 256 : Bool)) = true := h
  replace hn : n ∈ [func, phys] := hn
  simp at h hn
  omega
theorem retire (func : Nat) (logical : Nat) : Statement (.retire func logical) := by
  intro h n hn
  replace h : ((func ≤ 32 && logical < 256 : Bool)) = true := h
  replace hn : n ∈ [func, logical] := hn
  simp at h hn
  omega
theorem repairStoreWrite (ok : Bool) : Statement (.repairStoreWrite ok) := by
  exact fun _ _ h => absurd h List.not_mem_nil
theorem detRecordStart : Statement .detRecordStart := by
  exact fun _ _ h => absurd h List.not_mem_nil
theorem detReplayStart : Statement .detReplayStart := by
  exact fun _ _ h => absurd h List.not_mem_nil
theorem detRecOff : Statement .detRecOff := by
  exact fun _ _ h => absurd h List.not_mem_nil
theorem detRecClear : Statement .detRecClear := by
  exact fun _ _ h => absurd h List.not_mem_nil
theorem mark (value : Nat) : Statement (.mark value) := by
  intro h n hn
  replace h : ((value < 2 ^ 64 : Bool)) = true := h
  replace hn : n ∈ [value] := hn
  simp at h hn
  omega
theorem detRecAppend (index : Nat) (value : Nat) : Statement (.detRecAppend index value) := by
  intro h n hn
  replace h : ((index < 16 && value < 2 ^ 64 : Bool)) = true := h
  replace hn : n ∈ [index, value] := hn
  simp at h hn
  omega
theorem replayFeed : Statement .replayFeed := by
  exact fun _ _ h => absurd h List.not_mem_nil
theorem pmcCollect (func : Nat) (value : Bool) : Statement (.pmcCollect func value) := by
  intro h n hn
  replace h : ((func ≤ 32 : Bool)) = true := h
  replace hn : n ∈ [func] := hn
  simp at h hn
  omega
theorem pmcSnap (func : Nat) (busy : Bool) : Statement (.pmcSnap func busy) := by
  intro h n hn
  replace h : ((func ≤ 32 : Bool)) = true := h
  replace hn : n ∈ [func] := hn
  simp at h hn
  omega
theorem pmcEmpty (func : Nat) : Statement (.pmcEmpty func) := by
  intro h n hn
  replace h : ((func ≤ 32 : Bool)) = true := h
  replace hn : n ∈ [func] := hn
  simp at h hn
  omega
theorem pmcClear (func : Nat) (bank : Nat) (all : Bool) : Statement (.pmcClear func bank all) := by
  intro h n hn
  replace h : ((func ≤ 32 && bank < 216 : Bool)) = true := h
  replace hn : n ∈ [func, bank] := hn
  simp at h hn
  omega
theorem pmcSnapshot (busy : Bool) : Statement (.pmcSnapshot busy) := by
  exact fun _ _ h => absurd h List.not_mem_nil
theorem prtWrite (func : Nat) (offset : Nat) (value : Nat) : Statement (.prtWrite func offset value) := by
  intro h n hn
  replace h : ((func ≤ 32 && offset % 8 = 0 && offset < 2 ^ 20 && value < 2 ^ 64 : Bool)) = true := h
  replace hn : n ∈ [func, offset, value] := hn
  simp at h hn
  omega
theorem injectHoldEnd (injector : Nat) : Statement (.injectHoldEnd injector) := by
  intro h n hn
  replace h : ((injector < 16 : Bool)) = true := h
  replace hn : n ∈ [injector] := hn
  simp at h hn
  omega
theorem rcRead (func : Nat) (offset : BarOffset) (size : Nat) : Statement (.rcRead func offset size) := by
  intro h n hn
  replace h : ((func ≤ 32 && offset.addr < 2 ^ 26 && (size = 4 || size = 8) : Bool)) = true := h
  replace hn : n ∈ [func, size] := hn
  simp at h hn
  omega
theorem registerWrite (func : Nat) (offset : Nat) (size : Nat) (value : Nat) : Statement (.registerWrite func offset size value) := by
  intro h n hn
  replace h : ((func ≤ 32 && offset < 2 ^ 26 && (size = 4 || size = 8) && value < 2 ^ 64 : Bool)) = true := h
  replace hn : n ∈ [func, offset, size, value] := hn
  simp at h hn
  omega
theorem smoulderEntryDone : Statement .smoulderEntryDone := by
  exact fun _ _ h => absurd h List.not_mem_nil
theorem powerDownDone (domain : Nat) : Statement (.powerDownDone domain) := by
  intro h n hn
  replace h : ((domain < 35 : Bool)) = true := h
  replace hn : n ∈ [domain] := hn
  simp at h hn
  omega
theorem dutyIntervalEnd : Statement .dutyIntervalEnd := by
  exact fun _ _ h => absurd h List.not_mem_nil
theorem hotReset : Statement .hotReset := by
  exact fun _ _ h => absurd h List.not_mem_nil
theorem dbgRst : Statement .dbgRst := by
  exact fun _ _ h => absurd h List.not_mem_nil
theorem d3hotExit (func : Nat) : Statement (.d3hotExit func) := by
  intro h n hn
  replace h : ((func ≤ 32 : Bool)) = true := h
  replace hn : n ∈ [func] := hn
  simp at h hn
  omega
theorem pcieLinkUp (speed : Nat) (width : Nat) (flit : Bool) : Statement (.pcieLinkUp speed width flit) := by
  intro h n hn
  replace h : ((1 ≤ speed && speed ≤ 6 && [1, 2, 4, 8, 16].contains width : Bool)) = true := h
  replace hn : n ∈ [speed, width] := hn
  simp at h hn
  omega
theorem cplTimeout (source : CplSource) : Statement (.cplTimeout source) := by
  exact fun _ _ h => absurd h List.not_mem_nil
theorem mctpOverPcieVdm (func : Nat) (packet : McPkt) : Statement (.mctpOverPcieVdm func packet) := by
  intro h n hn
  replace h : ((func ≤ 32 : Bool)) = true := h
  replace hn : n ∈ [func] := hn
  simp at h hn
  omega
theorem initRepeat (port : Nat) : Statement (.initRepeat port) := by
  intro h n hn
  replace h : ((port < 20 : Bool)) = true := h
  replace hn : n ∈ [port] := hn
  simp at h hn
  omega
theorem flaskLineDrop (rank : Nat) (line : Nat) : Statement (.flaskLineDrop rank line) := by
  intro h n hn
  replace h : ((rank < 8 && line < 2 ^ 28 : Bool)) = true := h
  replace hn : n ∈ [rank, line] := hn
  simp at h hn
  omega
theorem commandWorkDone (seq : Nat) (failed : Bool) : Statement (.commandWorkDone seq failed) := by
  intro h n hn
  replace h : ((seq < 2 ^ 64 : Bool)) = true := h
  replace hn : n ∈ [seq] := hn
  simp at h hn
  omega

end Sys2Proof.Laws.NumericOperands
end

