-- ==== Sys2Proof/Laws/Store.lean ====
section
/-! SUPPORT. What the operations on tables and byte memory do, and that memory keeps its canonical form. -/
namespace Sys2Proof.Machine

/-! ## Tables -/

@[simp] theorem lookup_insertK_same {α : Type} (k : Nat) (v : α) (t : Table α) : lookup k (insertK k v t) = some v := by
  induction t with
  | nil => simp [insertK, lookup]
  | cons p t ih =>
    obtain ⟨j, u⟩ := p
    simp only [insertK]
    split
    · simp [lookup]
    · split
      · simp [lookup]
      · simp [lookup, *]

theorem lookup_insertK_ne {α : Type} {k j : Nat} (v : α) (t : Table α) (h : j ≠ k) :
    lookup j (insertK k v t) = lookup j t := by
  induction t with
  | nil => simp [insertK, lookup, h]
  | cons p t ih =>
    obtain ⟨i, u⟩ := p
    simp only [insertK]
    split
    · simp [lookup, h]
    · split
      · rename_i hk
        subst hk
        simp [lookup, h]
      · simp only [lookup, ih]

@[simp] theorem lookup_eraseK_same {α : Type} (k : Nat) (t : Table α) : lookup k (eraseK k t) = none := by
  induction t with
  | nil => rfl
  | cons p t ih =>
    obtain ⟨j, u⟩ := p
    simp only [eraseK]
    split
    · exact ih
    · simp [lookup, *]

theorem lookup_eraseK_ne {α : Type} {k j : Nat} (t : Table α) (h : j ≠ k) : lookup j (eraseK k t) = lookup j t := by
  induction t with
  | nil => rfl
  | cons p t ih =>
    obtain ⟨i, u⟩ := p
    simp only [eraseK]
    split
    · rename_i hk
      subst hk
      simp [lookup, h, ih]
    · simp only [lookup, ih]

/-! ## Memory: the canonical form -/

theorem wfFrom_mono {m : Mem} : ∀ {lo hi : Nat}, lo ≤ hi → Mem.wfFrom hi m = true → Mem.wfFrom lo m = true := by
  cases m with
  | nil => intros; rfl
  | cons p t =>
    obtain ⟨a, b⟩ := p
    intro lo hi hle h
    simp only [Mem.wfFrom, Bool.and_eq_true, decide_eq_true_eq] at h ⊢
    exact ⟨⟨hle.trans h.1.1, h.1.2⟩, h.2⟩

theorem writeByte_wfFrom (a : Nat) (b : Byte) : ∀ (m : Mem) (lo : Nat), lo ≤ a → Mem.wfFrom lo m = true →
    Mem.wfFrom lo (writeByte a b m) = true := by
  intro m
  induction m with
  | nil => intro lo hlo _; simp only [writeByte]; split <;> simp_all [Mem.wfFrom]
  | cons p t ih =>
    obtain ⟨j, v⟩ := p
    intro lo hlo h
    have h' := h
    simp only [Mem.wfFrom, Bool.and_eq_true, decide_eq_true_eq] at h'
    obtain ⟨⟨hj, hv⟩, ht⟩ := h'
    simp only [writeByte]
    split
    · split
      · exact h
      · rename_i hlt hb
        simp only [Mem.wfFrom, Bool.and_eq_true, decide_eq_true_eq]
        exact ⟨⟨hlo, by simpa using hb⟩, ⟨Nat.succ_le_of_lt hlt, hv⟩, ht⟩
    · split
      · rename_i hn he
        subst he
        split
        · exact wfFrom_mono (by omega) ht
        · rename_i hb
          simp only [Mem.wfFrom, Bool.and_eq_true, decide_eq_true_eq]
          exact ⟨⟨hlo, by simpa using hb⟩, ht⟩
      · rename_i hn he
        simp only [Mem.wfFrom, Bool.and_eq_true, decide_eq_true_eq]
        exact ⟨⟨hj, hv⟩, ih (j + 1) (by omega) ht⟩

theorem writeByte_wf {m : Mem} (a : Nat) (b : Byte) (h : m.wf = true) : (writeByte a b m).wf = true :=
  writeByte_wfFrom a b m 0 (Nat.zero_le a) h

theorem writeBytes_wf (bs : List Byte) : ∀ {m : Mem} (a : Nat), m.wf = true → (writeBytes a bs m).wf = true := by
  induction bs with
  | nil => intro m a h; exact h
  | cons b bs ih => intro m a h; exact ih (a + 1) (writeByte_wf a b h)

/-- Removing entries keeps the canonical form. -/
theorem filter_wfFrom (p : Host.Cell → Bool) : ∀ (m : Mem) (lo : Nat), Mem.wfFrom lo m = true →
    Mem.wfFrom lo (m.filter p) = true := by
  intro m
  induction m with
  | nil => intro lo _; rfl
  | cons c t ih =>
    obtain ⟨j, v⟩ := c
    intro lo h
    simp only [Mem.wfFrom, Bool.and_eq_true, decide_eq_true_eq] at h
    simp only [List.filter_cons]
    split
    · simp only [Mem.wfFrom, Bool.and_eq_true, decide_eq_true_eq]
      exact ⟨h.1, ih _ h.2⟩
    · exact wfFrom_mono (by omega) (ih _ h.2)

theorem clearRange_wf {m : Mem} (a n : Nat) (h : m.wf = true) : (clearRange a n m).wf = true := filter_wfFrom _ m 0 h

/-- Two canonical pieces make one, where the first ends before the second begins. -/
theorem append_wfFrom (hi : Nat) : ∀ (m : Mem) (lo : Nat) (n : Mem), lo ≤ hi → Mem.wfFrom lo m = true →
    (∀ c ∈ m, c.1 < hi) → Mem.wfFrom hi n = true → Mem.wfFrom lo (m ++ n) = true := by
  intro m
  induction m with
  | nil => intro lo n hle _ _ hn; exact wfFrom_mono hle hn
  | cons c t ih =>
    obtain ⟨j, v⟩ := c
    intro lo n hle h hlt hn
    simp only [Mem.wfFrom, Bool.and_eq_true, decide_eq_true_eq] at h
    simp only [List.cons_append, Mem.wfFrom, Bool.and_eq_true, decide_eq_true_eq]
    refine ⟨h.1, ih (j + 1) n ?_ h.2 (fun c hc => hlt c (List.mem_cons_of_mem _ hc)) hn⟩
    exact Nat.succ_le_of_lt (hlt (j, v) List.mem_cons_self)

/-- A canonical memory whose addresses all lie at `lo` or above is canonical from `lo` on. -/
theorem wfFrom_of_le {lo : Nat} : ∀ {m : Mem} {k : Nat}, Mem.wfFrom k m = true → (∀ c ∈ m, lo ≤ c.1) →
    Mem.wfFrom lo m = true := by
  intro m k h hle
  cases m with
  | nil => rfl
  | cons c t =>
    obtain ⟨j, v⟩ := c
    simp only [Mem.wfFrom, Bool.and_eq_true, decide_eq_true_eq] at h ⊢
    exact ⟨⟨hle (j, v) List.mem_cons_self, h.1.2⟩, h.2⟩

theorem copyRange_wf {src m : Mem} (a n : Nat) (hs : src.wf = true) (h : m.wf = true) : (copyRange a n src m).wf = true := by
  unfold copyRange cellsIn
  have h1 : Mem.wfFrom 0 (m.filter fun c => c.1 < a) = true := filter_wfFrom _ m 0 h
  have h2 : Mem.wfFrom a (src.filter fun c => a ≤ c.1 && c.1 < a + n) = true :=
    wfFrom_of_le (filter_wfFrom _ src 0 hs) (by intro c hc; simp at hc; omega)
  have h3 : Mem.wfFrom (a + n) (m.filter fun c => a + n ≤ c.1) = true :=
    wfFrom_of_le (filter_wfFrom _ m 0 h) (by intro c hc; simp at hc; omega)
  have h23 : Mem.wfFrom a ((src.filter fun c => a ≤ c.1 && c.1 < a + n) ++ (m.filter fun c => a + n ≤ c.1)) = true :=
    append_wfFrom (a + n) _ a _ (Nat.le_add_right a n) h2 (by intro c hc; simp at hc; omega) h3
  rw [List.append_assoc]
  exact append_wfFrom a _ 0 _ (Nat.zero_le a) h1 (by intro c hc; simp at hc; omega) h23

/-! ## Memory: reads after writes -/

/-- A write leaves every other address as it reads. -/
theorem readByte_writeByte_ne {a a' : Nat} (b : Byte) (m : Mem) (h : a' ≠ a) :
    readByte a' (writeByte a b m) = readByte a' m := by
  induction m with
  | nil => simp only [writeByte]; split <;> simp [readByte, h]
  | cons p t ih =>
    obtain ⟨j, v⟩ := p
    simp only [writeByte]
    split
    · split
      · rfl
      · simp [readByte, h]
    · split
      · rename_i hj
        subst hj
        split <;> simp [readByte, h]
      · simp only [readByte, ih]

/-- Below the first address of a canonical memory every byte reads as zero. -/
theorem readByte_below {m : Mem} : ∀ {lo a : Nat}, Mem.wfFrom lo m = true → a < lo → readByte a m = 0 := by
  induction m with
  | nil => intros; rfl
  | cons p t ih =>
    obtain ⟨j, v⟩ := p
    intro lo a h ha
    simp only [Mem.wfFrom, Bool.and_eq_true, decide_eq_true_eq] at h
    simp only [readByte]
    rw [if_neg (by omega)]
    exact ih h.2 (by omega)

theorem readByte_writeByte_same_from (a : Nat) (b : Byte) : ∀ (m : Mem) (lo : Nat), Mem.wfFrom lo m = true →
    readByte a (writeByte a b m) = b := by
  intro m
  induction m with
  | nil => intro lo _; simp only [writeByte]; split <;> simp_all [readByte]
  | cons p t ih =>
    obtain ⟨j, v⟩ := p
    intro lo h
    simp only [Mem.wfFrom, Bool.and_eq_true, decide_eq_true_eq] at h
    simp only [writeByte]
    split
    · split
      · rename_i hlt hb
        rw [hb]
        simp only [readByte]
        rw [if_neg (by omega)]
        exact readByte_below h.2 (by omega)
      · simp [readByte]
    · split
      · rename_i hn he
        subst he
        split
        · rename_i hb
          rw [hb]
          exact readByte_below h.2 (by omega)
        · simp [readByte]
      · rename_i hn he
        simp only [readByte]
        rw [if_neg he]
        exact ih _ h.2

/-- A byte reads as it was written. -/
theorem readByte_writeByte_same {m : Mem} (a : Nat) (b : Byte) (h : m.wf = true) : readByte a (writeByte a b m) = b :=
  readByte_writeByte_same_from a b m 0 h

/-- A store leaves every address outside it as it reads. -/
theorem readByte_writeBytes_outside (bs : List Byte) : ∀ (a a' : Nat) (m : Mem), (a' < a ∨ a + bs.length ≤ a') →
    readByte a' (writeBytes a bs m) = readByte a' m := by
  induction bs with
  | nil => intros; rfl
  | cons b bs ih =>
    intro a a' m h
    simp only [writeBytes, List.length_cons] at h ⊢
    rw [ih (a + 1) a' _ (by omega), readByte_writeByte_ne _ _ (by omega)]

end Sys2Proof.Machine
end

