-- ==== Sys2Proof/Laws/Registers.lean ====
section
/-! SUPPORT. What reading and writing bit fields and registers do. -/
namespace Sys2Proof.Machine

/-! ## Bit fields -/

theorem bitsOf_eq (v lo len : Nat) : bitsOf v lo len = v / 2 ^ lo % 2 ^ len := by simp [bitsOf, Nat.shiftRight_eq_div_pow]

theorem bitsOf_lt (v lo len : Nat) : bitsOf v lo len < 2 ^ len := Nat.mod_lt _ (Nat.two_pow_pos len)

/-- A number as the bits below a field, the field, and the bits above it. -/
theorem split_field (v lo len : Nat) : v = v / 2 ^ (lo + len) * 2 ^ (lo + len) + bitsOf v lo len * 2 ^ lo + v % 2 ^ lo := by
  rw [bitsOf_eq, Nat.pow_add, ← Nat.div_div_eq_div_mul]
  have h1 := Nat.div_add_mod v (2 ^ lo)
  have h2 := Nat.div_add_mod (v / 2 ^ lo) (2 ^ len)
  calc v = 2 ^ lo * (v / 2 ^ lo) + v % 2 ^ lo := h1.symm
    _ = 2 ^ lo * (2 ^ len * (v / 2 ^ lo / 2 ^ len) + v / 2 ^ lo % 2 ^ len) + v % 2 ^ lo := by rw [h2]
    _ = _ := by ring

/-- `putBits` as arithmetic. -/
theorem putBits_eq (v lo len x : Nat) :
    putBits v lo len x = v / 2 ^ (lo + len) * 2 ^ (lo + len) + x % 2 ^ len * 2 ^ lo + v % 2 ^ lo := by
  unfold putBits
  have h := split_field v lo len
  omega

theorem field_lt (lo len x low : Nat) (hl : low < 2 ^ lo) : x % 2 ^ len * 2 ^ lo + low < 2 ^ (lo + len) := by
  have hx : x % 2 ^ len < 2 ^ len := Nat.mod_lt _ (Nat.two_pow_pos len)
  have : x % 2 ^ len * 2 ^ lo + low < (x % 2 ^ len + 1) * 2 ^ lo := by rw [Nat.add_mul]; omega
  calc _ < (x % 2 ^ len + 1) * 2 ^ lo := this
    _ ≤ 2 ^ len * 2 ^ lo := Nat.mul_le_mul_right _ hx
    _ = 2 ^ (lo + len) := by rw [Nat.pow_add, Nat.mul_comm]

/-- A field reads as it was put. -/
theorem bitsOf_putBits_same (v lo len x : Nat) : bitsOf (putBits v lo len x) lo len = x % 2 ^ len := by
  rw [bitsOf_eq, putBits_eq, Nat.pow_add]
  have hlow : v % 2 ^ lo < 2 ^ lo := Nat.mod_lt _ (Nat.two_pow_pos lo)
  have : v / (2 ^ lo * 2 ^ len) * (2 ^ lo * 2 ^ len) + x % 2 ^ len * 2 ^ lo + v % 2 ^ lo =
      2 ^ lo * (v / (2 ^ lo * 2 ^ len) * 2 ^ len + x % 2 ^ len) + v % 2 ^ lo := by ring
  rw [this, Nat.mul_add_div (Nat.two_pow_pos lo), Nat.div_eq_of_lt hlow, Nat.add_zero, Nat.mul_comm, Nat.mul_add_mod]
  exact Nat.mod_mod _ _

/-- A field below the one that is put reads as before. -/
theorem bitsOf_putBits_below (v lo len x lo' len' : Nat) (h : lo' + len' ≤ lo) :
    bitsOf (putBits v lo len x) lo' len' = bitsOf v lo' len' := by
  obtain ⟨d, rfl⟩ : ∃ d, lo = lo' + len' + d := ⟨lo - (lo' + len'), by omega⟩
  have key : ∀ w, bitsOf w lo' len' = w % 2 ^ (lo' + len') / 2 ^ lo' := by
    intro w
    rw [bitsOf_eq, Nat.pow_add, Nat.mod_mul_right_div_self]
  rw [key, key]
  congr 1
  rw [putBits_eq]
  have e1 : 2 ^ (lo' + len' + d + len) = 2 ^ (lo' + len') * 2 ^ (d + len) := by rw [← Nat.pow_add]; congr 1; omega
  have e2 : 2 ^ (lo' + len' + d) = 2 ^ (lo' + len') * 2 ^ d := by rw [← Nat.pow_add]
  have : v / 2 ^ (lo' + len' + d + len) * 2 ^ (lo' + len' + d + len) + x % 2 ^ len * 2 ^ (lo' + len' + d) +
      v % 2 ^ (lo' + len' + d) = 2 ^ (lo' + len') * (v / 2 ^ (lo' + len' + d + len) * 2 ^ (d + len) + x % 2 ^ len * 2 ^ d) +
      v % 2 ^ (lo' + len' + d) := by
    rw [e1, e2]; ring
  rw [this, Nat.mul_add_mod, e2, Nat.mod_mul_right_mod]

/-- A field above the one that is put reads as before. -/
theorem bitsOf_putBits_above (v lo len x lo' len' : Nat) (h : lo + len ≤ lo') :
    bitsOf (putBits v lo len x) lo' len' = bitsOf v lo' len' := by
  obtain ⟨d, rfl⟩ : ∃ d, lo' = lo + len + d := ⟨lo' - (lo + len), by omega⟩
  rw [bitsOf_eq, bitsOf_eq, Nat.pow_add, ← Nat.div_div_eq_div_mul, ← Nat.div_div_eq_div_mul]
  have : putBits v lo len x / 2 ^ (lo + len) = v / 2 ^ (lo + len) := by
    rw [putBits_eq, Nat.add_assoc, Nat.mul_comm, Nat.mul_add_div (Nat.two_pow_pos _),
      Nat.div_eq_of_lt (field_lt lo len x _ (Nat.mod_lt _ (Nat.two_pow_pos lo))), Nat.add_zero]
  rw [this]

theorem putBits_lt (v lo len x n : Nat) (hv : v < 2 ^ n) (h : lo + len ≤ n) : putBits v lo len x < 2 ^ n := by
  rw [putBits_eq, Nat.add_assoc]
  obtain ⟨d, rfl⟩ : ∃ d, n = lo + len + d := ⟨n - (lo + len), by omega⟩
  have hf := field_lt lo len x (v % 2 ^ lo) (Nat.mod_lt _ (Nat.two_pow_pos lo))
  have hd : v / 2 ^ (lo + len) < 2 ^ d := Nat.div_lt_of_lt_mul (by rw [← Nat.pow_add]; exact hv)
  calc _ < v / 2 ^ (lo + len) * 2 ^ (lo + len) + 2 ^ (lo + len) := Nat.add_lt_add_left hf _
    _ = (v / 2 ^ (lo + len) + 1) * 2 ^ (lo + len) := by ring
    _ ≤ 2 ^ d * 2 ^ (lo + len) := Nat.mul_le_mul_right _ hd
    _ = 2 ^ (lo + len + d) := by rw [← Nat.pow_add]; congr 1; omega

/-! ## Registers -/

/-- A register copy reads as it was stored. -/
theorem raw_setRaw_same (s : State) (r : RegSpec) (i f v : Nat) (h : v < 2 ^ 64) : raw (setRaw s r i f v) r i f = v := by
  by_cases hv : v = r.resetOf i
  · simp [setRaw, raw, hv]
  · simp only [setRaw, raw, hv, if_false, lookup_insertK_same, BitVec.toNat_ofNat]
    exact Nat.mod_eq_of_lt h

/-- Another register copy reads as before. -/
theorem raw_setRaw_ne (s : State) (r r' : RegSpec) (i f v i' f' : Nat) (h : regKey r' i' f' ≠ regKey r i f) :
    raw (setRaw s r i f v) r' i' f' = raw s r' i' f' := by
  by_cases hv : v = r.resetOf i <;> simp [setRaw, raw, hv, lookup_eraseK_ne _ h, lookup_insertK_ne _ _ h]

/-- What a register stores fits 64 bits, where its reset value does. -/
theorem raw_lt (s : State) (r : RegSpec) (i f : Nat) (h : r.resetOf i < 2 ^ 64) : raw s r i f < 2 ^ 64 := by
  unfold raw
  split
  · exact BitVec.isLt _
  · exact h

/-- A field reads as it was set. -/
theorem fld_setFld_same (s : State) (f : FieldRef) (x i fn : Nat) (hr : f.reg.resetOf i < 2 ^ 64) (hl : f.lo + f.len ≤ 64)
    (hx : x < 2 ^ f.len) : fld (setFld s f x i fn) f i fn = x := by
  unfold fld setFld
  rw [raw_setRaw_same _ _ _ _ _ (putBits_lt _ _ _ _ _ (raw_lt s _ i fn hr) hl), bitsOf_putBits_same, Nat.mod_eq_of_lt hx]

/-- A field of another register reads as before. -/
theorem fld_setFld_reg (s : State) (f g : FieldRef) (x i fn i' fn' : Nat) (h : regKey g.reg i' fn' ≠ regKey f.reg i fn) :
    fld (setFld s f x i fn) g i' fn' = fld s g i' fn' := by
  unfold fld setFld
  rw [raw_setRaw_ne _ _ _ _ _ _ _ _ h]

/-- A field of the same register that shares no bit reads as before. -/
theorem fld_setFld_apart (s : State) (f g : FieldRef) (x i fn : Nat) (hg : g.reg = f.reg) (hr : f.reg.resetOf i < 2 ^ 64)
    (hl : f.lo + f.len ≤ 64) (h : g.lo + g.len ≤ f.lo ∨ f.lo + f.len ≤ g.lo) :
    fld (setFld s f x i fn) g i fn = fld s g i fn := by
  unfold fld setFld
  rw [hg, raw_setRaw_same _ _ _ _ _ (putBits_lt _ _ _ _ _ (raw_lt s _ i fn hr) hl)]
  cases h with
  | inl h => exact bitsOf_putBits_below _ _ _ _ _ _ h
  | inr h => exact bitsOf_putBits_above _ _ _ _ _ _ h

/-- A write to a register that gives no field a new value changes no register. -/
theorem fld_congr {s t : State} (h : t.regs = s.regs) (f : FieldRef) (i fn : Nat) : fld t f i fn = fld s f i fn := by
  unfold fld raw
  rw [h]

end Sys2Proof.Machine
end

