-- ==== Sys2Proof/Laws/State.lean ====
section
/-! SUPPORT. What the shared updates of the state change and what they leave, field by field. -/
set_option Elab.async false
namespace Sys2Proof.Machine


/-! ## State.setTile -/

@[simp] theorem State.setTile_fuses (s : State) (t : Nat) (x : Tile) : (s.setTile t x).fuses = s.fuses := rfl
@[simp] theorem State.setTile_regs (s : State) (t : Nat) (x : Tile) : (s.setTile t x).regs = s.regs := rfl
@[simp] theorem State.setTile_counters (s : State) (t : Nat) (x : Tile) : (s.setTile t x).counters = s.counters := rfl
@[simp] theorem State.setTile_cp (s : State) (t : Nat) (x : Tile) : (s.setTile t x).cp = s.cp := rfl
@[simp] theorem State.setTile_ctx (s : State) (t : Nat) (x : Tile) : (s.setTile t x).ctx = s.ctx := rfl
@[simp] theorem State.setTile_hop (s : State) (t : Nat) (x : Tile) : (s.setTile t x).hop = s.hop := rfl
@[simp] theorem State.setTile_wsp (s : State) (t : Nat) (x : Tile) : (s.setTile t x).wsp = s.wsp := rfl
@[simp] theorem State.setTile_ntl (s : State) (t : Nat) (x : Tile) : (s.setTile t x).ntl = s.ntl := rfl
@[simp] theorem State.setTile_models (s : State) (t : Nat) (x : Tile) : (s.setTile t x).models = s.models := rfl
@[simp] theorem State.setTile_tiles (s : State) (t : Nat) (x : Tile) : (s.setTile t x).tiles = insertK t x s.tiles := rfl
@[simp] theorem State.setTile_xch (s : State) (t : Nat) (x : Tile) : (s.setTile t x).xch = s.xch := rfl
@[simp] theorem State.setTile_fab (s : State) (t : Nat) (x : Tile) : (s.setTile t x).fab = s.fab := rfl
@[simp] theorem State.setTile_flk (s : State) (t : Nat) (x : Tile) : (s.setTile t x).flk = s.flk := rfl
@[simp] theorem State.setTile_ras (s : State) (t : Nat) (x : Tile) : (s.setTile t x).ras = s.ras := rfl
@[simp] theorem State.setTile_det (s : State) (t : Nat) (x : Tile) : (s.setTile t x).det = s.det := rfl
@[simp] theorem State.setTile_mgt (s : State) (t : Nat) (x : Tile) : (s.setTile t x).mgt = s.mgt := rfl
@[simp] theorem State.setTile_pwr (s : State) (t : Nat) (x : Tile) : (s.setTile t x).pwr = s.pwr := rfl
@[simp] theorem State.setTile_hif (s : State) (t : Nat) (x : Tile) : (s.setTile t x).hif = s.hif := rfl
@[simp] theorem State.setTile_pmc (s : State) (t : Nat) (x : Tile) : (s.setTile t x).pmc = s.pmc := rfl
@[simp] theorem State.setTile_prt (s : State) (t : Nat) (x : Tile) : (s.setTile t x).prt = s.prt := rfl
@[simp] theorem State.setTile_hostOut (s : State) (t : Nat) (x : Tile) : (s.setTile t x).hostOut = s.hostOut := rfl
@[simp] theorem State.setTile_ticks (s : State) (t : Nat) (x : Tile) : (s.setTile t x).ticks = s.ticks := rfl
@[simp] theorem State.setTile_free (s : State) (t : Nat) (x : Tile) : (s.setTile t x).free = s.free := rfl
@[simp] theorem State.setTile_pending (s : State) (t : Nat) (x : Tile) : (s.setTile t x).pending = s.pending := rfl

/-! ## State.modTile -/

@[simp] theorem State.modTile_fuses (s : State) (t : Nat) (f : Tile → Tile) : (s.modTile t f).fuses = s.fuses := rfl
@[simp] theorem State.modTile_regs (s : State) (t : Nat) (f : Tile → Tile) : (s.modTile t f).regs = s.regs := rfl
@[simp] theorem State.modTile_counters (s : State) (t : Nat) (f : Tile → Tile) : (s.modTile t f).counters = s.counters := rfl
@[simp] theorem State.modTile_cp (s : State) (t : Nat) (f : Tile → Tile) : (s.modTile t f).cp = s.cp := rfl
@[simp] theorem State.modTile_ctx (s : State) (t : Nat) (f : Tile → Tile) : (s.modTile t f).ctx = s.ctx := rfl
@[simp] theorem State.modTile_hop (s : State) (t : Nat) (f : Tile → Tile) : (s.modTile t f).hop = s.hop := rfl
@[simp] theorem State.modTile_wsp (s : State) (t : Nat) (f : Tile → Tile) : (s.modTile t f).wsp = s.wsp := rfl
@[simp] theorem State.modTile_ntl (s : State) (t : Nat) (f : Tile → Tile) : (s.modTile t f).ntl = s.ntl := rfl
@[simp] theorem State.modTile_models (s : State) (t : Nat) (f : Tile → Tile) : (s.modTile t f).models = s.models := rfl
@[simp] theorem State.modTile_tiles (s : State) (t : Nat) (f : Tile → Tile) : (s.modTile t f).tiles = insertK t (f (s.tile t)) s.tiles := rfl
@[simp] theorem State.modTile_xch (s : State) (t : Nat) (f : Tile → Tile) : (s.modTile t f).xch = s.xch := rfl
@[simp] theorem State.modTile_fab (s : State) (t : Nat) (f : Tile → Tile) : (s.modTile t f).fab = s.fab := rfl
@[simp] theorem State.modTile_flk (s : State) (t : Nat) (f : Tile → Tile) : (s.modTile t f).flk = s.flk := rfl
@[simp] theorem State.modTile_ras (s : State) (t : Nat) (f : Tile → Tile) : (s.modTile t f).ras = s.ras := rfl
@[simp] theorem State.modTile_det (s : State) (t : Nat) (f : Tile → Tile) : (s.modTile t f).det = s.det := rfl
@[simp] theorem State.modTile_mgt (s : State) (t : Nat) (f : Tile → Tile) : (s.modTile t f).mgt = s.mgt := rfl
@[simp] theorem State.modTile_pwr (s : State) (t : Nat) (f : Tile → Tile) : (s.modTile t f).pwr = s.pwr := rfl
@[simp] theorem State.modTile_hif (s : State) (t : Nat) (f : Tile → Tile) : (s.modTile t f).hif = s.hif := rfl
@[simp] theorem State.modTile_pmc (s : State) (t : Nat) (f : Tile → Tile) : (s.modTile t f).pmc = s.pmc := rfl
@[simp] theorem State.modTile_prt (s : State) (t : Nat) (f : Tile → Tile) : (s.modTile t f).prt = s.prt := rfl
@[simp] theorem State.modTile_hostOut (s : State) (t : Nat) (f : Tile → Tile) : (s.modTile t f).hostOut = s.hostOut := rfl
@[simp] theorem State.modTile_ticks (s : State) (t : Nat) (f : Tile → Tile) : (s.modTile t f).ticks = s.ticks := rfl
@[simp] theorem State.modTile_free (s : State) (t : Nat) (f : Tile → Tile) : (s.modTile t f).free = s.free := rfl
@[simp] theorem State.modTile_pending (s : State) (t : Nat) (f : Tile → Tile) : (s.modTile t f).pending = s.pending := rfl

/-! ## State.setCmd -/

@[simp] theorem State.setCmd_fuses (s : State) (q : Nat) (c : OpenCmd) : (s.setCmd q c).fuses = s.fuses := rfl
@[simp] theorem State.setCmd_regs (s : State) (q : Nat) (c : OpenCmd) : (s.setCmd q c).regs = s.regs := rfl
@[simp] theorem State.setCmd_counters (s : State) (q : Nat) (c : OpenCmd) : (s.setCmd q c).counters = s.counters := rfl
@[simp] theorem State.setCmd_cp (s : State) (q : Nat) (c : OpenCmd) : (s.setCmd q c).cp = { s.cp with cmds := insertK q c s.cp.cmds } := rfl
@[simp] theorem State.setCmd_ctx (s : State) (q : Nat) (c : OpenCmd) : (s.setCmd q c).ctx = s.ctx := rfl
@[simp] theorem State.setCmd_hop (s : State) (q : Nat) (c : OpenCmd) : (s.setCmd q c).hop = s.hop := rfl
@[simp] theorem State.setCmd_wsp (s : State) (q : Nat) (c : OpenCmd) : (s.setCmd q c).wsp = s.wsp := rfl
@[simp] theorem State.setCmd_ntl (s : State) (q : Nat) (c : OpenCmd) : (s.setCmd q c).ntl = s.ntl := rfl
@[simp] theorem State.setCmd_models (s : State) (q : Nat) (c : OpenCmd) : (s.setCmd q c).models = s.models := rfl
@[simp] theorem State.setCmd_tiles (s : State) (q : Nat) (c : OpenCmd) : (s.setCmd q c).tiles = s.tiles := rfl
@[simp] theorem State.setCmd_xch (s : State) (q : Nat) (c : OpenCmd) : (s.setCmd q c).xch = s.xch := rfl
@[simp] theorem State.setCmd_fab (s : State) (q : Nat) (c : OpenCmd) : (s.setCmd q c).fab = s.fab := rfl
@[simp] theorem State.setCmd_flk (s : State) (q : Nat) (c : OpenCmd) : (s.setCmd q c).flk = s.flk := rfl
@[simp] theorem State.setCmd_ras (s : State) (q : Nat) (c : OpenCmd) : (s.setCmd q c).ras = s.ras := rfl
@[simp] theorem State.setCmd_det (s : State) (q : Nat) (c : OpenCmd) : (s.setCmd q c).det = s.det := rfl
@[simp] theorem State.setCmd_mgt (s : State) (q : Nat) (c : OpenCmd) : (s.setCmd q c).mgt = s.mgt := rfl
@[simp] theorem State.setCmd_pwr (s : State) (q : Nat) (c : OpenCmd) : (s.setCmd q c).pwr = s.pwr := rfl
@[simp] theorem State.setCmd_hif (s : State) (q : Nat) (c : OpenCmd) : (s.setCmd q c).hif = s.hif := rfl
@[simp] theorem State.setCmd_pmc (s : State) (q : Nat) (c : OpenCmd) : (s.setCmd q c).pmc = s.pmc := rfl
@[simp] theorem State.setCmd_prt (s : State) (q : Nat) (c : OpenCmd) : (s.setCmd q c).prt = s.prt := rfl
@[simp] theorem State.setCmd_hostOut (s : State) (q : Nat) (c : OpenCmd) : (s.setCmd q c).hostOut = s.hostOut := rfl
@[simp] theorem State.setCmd_ticks (s : State) (q : Nat) (c : OpenCmd) : (s.setCmd q c).ticks = s.ticks := rfl
@[simp] theorem State.setCmd_free (s : State) (q : Nat) (c : OpenCmd) : (s.setCmd q c).free = s.free := rfl
@[simp] theorem State.setCmd_pending (s : State) (q : Nat) (c : OpenCmd) : (s.setCmd q c).pending = s.pending := rfl

/-! ## State.modCmd -/

@[simp] theorem State.modCmd_fuses (s : State) (q : Nat) (f : OpenCmd → OpenCmd) : (s.modCmd q f).fuses = s.fuses := rfl
@[simp] theorem State.modCmd_regs (s : State) (q : Nat) (f : OpenCmd → OpenCmd) : (s.modCmd q f).regs = s.regs := rfl
@[simp] theorem State.modCmd_counters (s : State) (q : Nat) (f : OpenCmd → OpenCmd) : (s.modCmd q f).counters = s.counters := rfl
@[simp] theorem State.modCmd_cp (s : State) (q : Nat) (f : OpenCmd → OpenCmd) : (s.modCmd q f).cp = { s.cp with cmds := modifyK q f s.cp.cmds } := rfl
@[simp] theorem State.modCmd_ctx (s : State) (q : Nat) (f : OpenCmd → OpenCmd) : (s.modCmd q f).ctx = s.ctx := rfl
@[simp] theorem State.modCmd_hop (s : State) (q : Nat) (f : OpenCmd → OpenCmd) : (s.modCmd q f).hop = s.hop := rfl
@[simp] theorem State.modCmd_wsp (s : State) (q : Nat) (f : OpenCmd → OpenCmd) : (s.modCmd q f).wsp = s.wsp := rfl
@[simp] theorem State.modCmd_ntl (s : State) (q : Nat) (f : OpenCmd → OpenCmd) : (s.modCmd q f).ntl = s.ntl := rfl
@[simp] theorem State.modCmd_models (s : State) (q : Nat) (f : OpenCmd → OpenCmd) : (s.modCmd q f).models = s.models := rfl
@[simp] theorem State.modCmd_tiles (s : State) (q : Nat) (f : OpenCmd → OpenCmd) : (s.modCmd q f).tiles = s.tiles := rfl
@[simp] theorem State.modCmd_xch (s : State) (q : Nat) (f : OpenCmd → OpenCmd) : (s.modCmd q f).xch = s.xch := rfl
@[simp] theorem State.modCmd_fab (s : State) (q : Nat) (f : OpenCmd → OpenCmd) : (s.modCmd q f).fab = s.fab := rfl
@[simp] theorem State.modCmd_flk (s : State) (q : Nat) (f : OpenCmd → OpenCmd) : (s.modCmd q f).flk = s.flk := rfl
@[simp] theorem State.modCmd_ras (s : State) (q : Nat) (f : OpenCmd → OpenCmd) : (s.modCmd q f).ras = s.ras := rfl
@[simp] theorem State.modCmd_det (s : State) (q : Nat) (f : OpenCmd → OpenCmd) : (s.modCmd q f).det = s.det := rfl
@[simp] theorem State.modCmd_mgt (s : State) (q : Nat) (f : OpenCmd → OpenCmd) : (s.modCmd q f).mgt = s.mgt := rfl
@[simp] theorem State.modCmd_pwr (s : State) (q : Nat) (f : OpenCmd → OpenCmd) : (s.modCmd q f).pwr = s.pwr := rfl
@[simp] theorem State.modCmd_hif (s : State) (q : Nat) (f : OpenCmd → OpenCmd) : (s.modCmd q f).hif = s.hif := rfl
@[simp] theorem State.modCmd_pmc (s : State) (q : Nat) (f : OpenCmd → OpenCmd) : (s.modCmd q f).pmc = s.pmc := rfl
@[simp] theorem State.modCmd_prt (s : State) (q : Nat) (f : OpenCmd → OpenCmd) : (s.modCmd q f).prt = s.prt := rfl
@[simp] theorem State.modCmd_hostOut (s : State) (q : Nat) (f : OpenCmd → OpenCmd) : (s.modCmd q f).hostOut = s.hostOut := rfl
@[simp] theorem State.modCmd_ticks (s : State) (q : Nat) (f : OpenCmd → OpenCmd) : (s.modCmd q f).ticks = s.ticks := rfl
@[simp] theorem State.modCmd_free (s : State) (q : Nat) (f : OpenCmd → OpenCmd) : (s.modCmd q f).free = s.free := rfl
@[simp] theorem State.modCmd_pending (s : State) (q : Nat) (f : OpenCmd → OpenCmd) : (s.modCmd q f).pending = s.pending := rfl

/-! ## State.setSq -/

@[simp] theorem State.setSq_fuses (s : State) (f q : Nat) (x : Sq) : (s.setSq f q x).fuses = s.fuses := rfl
@[simp] theorem State.setSq_regs (s : State) (f q : Nat) (x : Sq) : (s.setSq f q x).regs = s.regs := rfl
@[simp] theorem State.setSq_counters (s : State) (f q : Nat) (x : Sq) : (s.setSq f q x).counters = s.counters := rfl
@[simp] theorem State.setSq_cp (s : State) (f q : Nat) (x : Sq) : (s.setSq f q x).cp = { s.cp with sqs := insertK (qKey f q) x s.cp.sqs } := rfl
@[simp] theorem State.setSq_ctx (s : State) (f q : Nat) (x : Sq) : (s.setSq f q x).ctx = s.ctx := rfl
@[simp] theorem State.setSq_hop (s : State) (f q : Nat) (x : Sq) : (s.setSq f q x).hop = s.hop := rfl
@[simp] theorem State.setSq_wsp (s : State) (f q : Nat) (x : Sq) : (s.setSq f q x).wsp = s.wsp := rfl
@[simp] theorem State.setSq_ntl (s : State) (f q : Nat) (x : Sq) : (s.setSq f q x).ntl = s.ntl := rfl
@[simp] theorem State.setSq_models (s : State) (f q : Nat) (x : Sq) : (s.setSq f q x).models = s.models := rfl
@[simp] theorem State.setSq_tiles (s : State) (f q : Nat) (x : Sq) : (s.setSq f q x).tiles = s.tiles := rfl
@[simp] theorem State.setSq_xch (s : State) (f q : Nat) (x : Sq) : (s.setSq f q x).xch = s.xch := rfl
@[simp] theorem State.setSq_fab (s : State) (f q : Nat) (x : Sq) : (s.setSq f q x).fab = s.fab := rfl
@[simp] theorem State.setSq_flk (s : State) (f q : Nat) (x : Sq) : (s.setSq f q x).flk = s.flk := rfl
@[simp] theorem State.setSq_ras (s : State) (f q : Nat) (x : Sq) : (s.setSq f q x).ras = s.ras := rfl
@[simp] theorem State.setSq_det (s : State) (f q : Nat) (x : Sq) : (s.setSq f q x).det = s.det := rfl
@[simp] theorem State.setSq_mgt (s : State) (f q : Nat) (x : Sq) : (s.setSq f q x).mgt = s.mgt := rfl
@[simp] theorem State.setSq_pwr (s : State) (f q : Nat) (x : Sq) : (s.setSq f q x).pwr = s.pwr := rfl
@[simp] theorem State.setSq_hif (s : State) (f q : Nat) (x : Sq) : (s.setSq f q x).hif = s.hif := rfl
@[simp] theorem State.setSq_pmc (s : State) (f q : Nat) (x : Sq) : (s.setSq f q x).pmc = s.pmc := rfl
@[simp] theorem State.setSq_prt (s : State) (f q : Nat) (x : Sq) : (s.setSq f q x).prt = s.prt := rfl
@[simp] theorem State.setSq_hostOut (s : State) (f q : Nat) (x : Sq) : (s.setSq f q x).hostOut = s.hostOut := rfl
@[simp] theorem State.setSq_ticks (s : State) (f q : Nat) (x : Sq) : (s.setSq f q x).ticks = s.ticks := rfl
@[simp] theorem State.setSq_free (s : State) (f q : Nat) (x : Sq) : (s.setSq f q x).free = s.free := rfl
@[simp] theorem State.setSq_pending (s : State) (f q : Nat) (x : Sq) : (s.setSq f q x).pending = s.pending := rfl

/-! ## State.setCq -/

@[simp] theorem State.setCq_fuses (s : State) (f q : Nat) (x : Cq) : (s.setCq f q x).fuses = s.fuses := rfl
@[simp] theorem State.setCq_regs (s : State) (f q : Nat) (x : Cq) : (s.setCq f q x).regs = s.regs := rfl
@[simp] theorem State.setCq_counters (s : State) (f q : Nat) (x : Cq) : (s.setCq f q x).counters = s.counters := rfl
@[simp] theorem State.setCq_cp (s : State) (f q : Nat) (x : Cq) : (s.setCq f q x).cp = { s.cp with cqs := insertK (qKey f q) x s.cp.cqs } := rfl
@[simp] theorem State.setCq_ctx (s : State) (f q : Nat) (x : Cq) : (s.setCq f q x).ctx = s.ctx := rfl
@[simp] theorem State.setCq_hop (s : State) (f q : Nat) (x : Cq) : (s.setCq f q x).hop = s.hop := rfl
@[simp] theorem State.setCq_wsp (s : State) (f q : Nat) (x : Cq) : (s.setCq f q x).wsp = s.wsp := rfl
@[simp] theorem State.setCq_ntl (s : State) (f q : Nat) (x : Cq) : (s.setCq f q x).ntl = s.ntl := rfl
@[simp] theorem State.setCq_models (s : State) (f q : Nat) (x : Cq) : (s.setCq f q x).models = s.models := rfl
@[simp] theorem State.setCq_tiles (s : State) (f q : Nat) (x : Cq) : (s.setCq f q x).tiles = s.tiles := rfl
@[simp] theorem State.setCq_xch (s : State) (f q : Nat) (x : Cq) : (s.setCq f q x).xch = s.xch := rfl
@[simp] theorem State.setCq_fab (s : State) (f q : Nat) (x : Cq) : (s.setCq f q x).fab = s.fab := rfl
@[simp] theorem State.setCq_flk (s : State) (f q : Nat) (x : Cq) : (s.setCq f q x).flk = s.flk := rfl
@[simp] theorem State.setCq_ras (s : State) (f q : Nat) (x : Cq) : (s.setCq f q x).ras = s.ras := rfl
@[simp] theorem State.setCq_det (s : State) (f q : Nat) (x : Cq) : (s.setCq f q x).det = s.det := rfl
@[simp] theorem State.setCq_mgt (s : State) (f q : Nat) (x : Cq) : (s.setCq f q x).mgt = s.mgt := rfl
@[simp] theorem State.setCq_pwr (s : State) (f q : Nat) (x : Cq) : (s.setCq f q x).pwr = s.pwr := rfl
@[simp] theorem State.setCq_hif (s : State) (f q : Nat) (x : Cq) : (s.setCq f q x).hif = s.hif := rfl
@[simp] theorem State.setCq_pmc (s : State) (f q : Nat) (x : Cq) : (s.setCq f q x).pmc = s.pmc := rfl
@[simp] theorem State.setCq_prt (s : State) (f q : Nat) (x : Cq) : (s.setCq f q x).prt = s.prt := rfl
@[simp] theorem State.setCq_hostOut (s : State) (f q : Nat) (x : Cq) : (s.setCq f q x).hostOut = s.hostOut := rfl
@[simp] theorem State.setCq_ticks (s : State) (f q : Nat) (x : Cq) : (s.setCq f q x).ticks = s.ticks := rfl
@[simp] theorem State.setCq_free (s : State) (f q : Nat) (x : Cq) : (s.setCq f q x).free = s.free := rfl
@[simp] theorem State.setCq_pending (s : State) (f q : Nat) (x : Cq) : (s.setCq f q x).pending = s.pending := rfl

/-! ## State.setContext -/

@[simp] theorem State.setContext_fuses (s : State) (i : Nat) (c : Ctx) : (s.setContext i c).fuses = s.fuses := rfl
@[simp] theorem State.setContext_regs (s : State) (i : Nat) (c : Ctx) : (s.setContext i c).regs = s.regs := rfl
@[simp] theorem State.setContext_counters (s : State) (i : Nat) (c : Ctx) : (s.setContext i c).counters = s.counters := rfl
@[simp] theorem State.setContext_cp (s : State) (i : Nat) (c : Ctx) : (s.setContext i c).cp = s.cp := rfl
@[simp] theorem State.setContext_ctx (s : State) (i : Nat) (c : Ctx) : (s.setContext i c).ctx = { s.ctx with table := insertK i c s.ctx.table } := rfl
@[simp] theorem State.setContext_hop (s : State) (i : Nat) (c : Ctx) : (s.setContext i c).hop = s.hop := rfl
@[simp] theorem State.setContext_wsp (s : State) (i : Nat) (c : Ctx) : (s.setContext i c).wsp = s.wsp := rfl
@[simp] theorem State.setContext_ntl (s : State) (i : Nat) (c : Ctx) : (s.setContext i c).ntl = s.ntl := rfl
@[simp] theorem State.setContext_models (s : State) (i : Nat) (c : Ctx) : (s.setContext i c).models = s.models := rfl
@[simp] theorem State.setContext_tiles (s : State) (i : Nat) (c : Ctx) : (s.setContext i c).tiles = s.tiles := rfl
@[simp] theorem State.setContext_xch (s : State) (i : Nat) (c : Ctx) : (s.setContext i c).xch = s.xch := rfl
@[simp] theorem State.setContext_fab (s : State) (i : Nat) (c : Ctx) : (s.setContext i c).fab = s.fab := rfl
@[simp] theorem State.setContext_flk (s : State) (i : Nat) (c : Ctx) : (s.setContext i c).flk = s.flk := rfl
@[simp] theorem State.setContext_ras (s : State) (i : Nat) (c : Ctx) : (s.setContext i c).ras = s.ras := rfl
@[simp] theorem State.setContext_det (s : State) (i : Nat) (c : Ctx) : (s.setContext i c).det = s.det := rfl
@[simp] theorem State.setContext_mgt (s : State) (i : Nat) (c : Ctx) : (s.setContext i c).mgt = s.mgt := rfl
@[simp] theorem State.setContext_pwr (s : State) (i : Nat) (c : Ctx) : (s.setContext i c).pwr = s.pwr := rfl
@[simp] theorem State.setContext_hif (s : State) (i : Nat) (c : Ctx) : (s.setContext i c).hif = s.hif := rfl
@[simp] theorem State.setContext_pmc (s : State) (i : Nat) (c : Ctx) : (s.setContext i c).pmc = s.pmc := rfl
@[simp] theorem State.setContext_prt (s : State) (i : Nat) (c : Ctx) : (s.setContext i c).prt = s.prt := rfl
@[simp] theorem State.setContext_hostOut (s : State) (i : Nat) (c : Ctx) : (s.setContext i c).hostOut = s.hostOut := rfl
@[simp] theorem State.setContext_ticks (s : State) (i : Nat) (c : Ctx) : (s.setContext i c).ticks = s.ticks := rfl
@[simp] theorem State.setContext_free (s : State) (i : Nat) (c : Ctx) : (s.setContext i c).free = s.free := rfl
@[simp] theorem State.setContext_pending (s : State) (i : Nat) (c : Ctx) : (s.setContext i c).pending = s.pending := rfl

/-! ## State.setPool -/

@[simp] theorem State.setPool_fuses (s : State) (k : Nat) (p : Pool) : (s.setPool k p).fuses = s.fuses := rfl
@[simp] theorem State.setPool_regs (s : State) (k : Nat) (p : Pool) : (s.setPool k p).regs = s.regs := rfl
@[simp] theorem State.setPool_counters (s : State) (k : Nat) (p : Pool) : (s.setPool k p).counters = s.counters := rfl
@[simp] theorem State.setPool_cp (s : State) (k : Nat) (p : Pool) : (s.setPool k p).cp = s.cp := rfl
@[simp] theorem State.setPool_ctx (s : State) (k : Nat) (p : Pool) : (s.setPool k p).ctx = s.ctx := rfl
@[simp] theorem State.setPool_wsp (s : State) (k : Nat) (p : Pool) : (s.setPool k p).wsp = s.wsp := rfl
@[simp] theorem State.setPool_ntl (s : State) (k : Nat) (p : Pool) : (s.setPool k p).ntl = s.ntl := rfl
@[simp] theorem State.setPool_models (s : State) (k : Nat) (p : Pool) : (s.setPool k p).models = s.models := rfl
@[simp] theorem State.setPool_tiles (s : State) (k : Nat) (p : Pool) : (s.setPool k p).tiles = s.tiles := rfl
@[simp] theorem State.setPool_xch (s : State) (k : Nat) (p : Pool) : (s.setPool k p).xch = s.xch := rfl
@[simp] theorem State.setPool_fab (s : State) (k : Nat) (p : Pool) : (s.setPool k p).fab = s.fab := rfl
@[simp] theorem State.setPool_flk (s : State) (k : Nat) (p : Pool) : (s.setPool k p).flk = s.flk := rfl
@[simp] theorem State.setPool_ras (s : State) (k : Nat) (p : Pool) : (s.setPool k p).ras = s.ras := rfl
@[simp] theorem State.setPool_det (s : State) (k : Nat) (p : Pool) : (s.setPool k p).det = s.det := rfl
@[simp] theorem State.setPool_mgt (s : State) (k : Nat) (p : Pool) : (s.setPool k p).mgt = s.mgt := rfl
@[simp] theorem State.setPool_pwr (s : State) (k : Nat) (p : Pool) : (s.setPool k p).pwr = s.pwr := rfl
@[simp] theorem State.setPool_hif (s : State) (k : Nat) (p : Pool) : (s.setPool k p).hif = s.hif := rfl
@[simp] theorem State.setPool_pmc (s : State) (k : Nat) (p : Pool) : (s.setPool k p).pmc = s.pmc := rfl
@[simp] theorem State.setPool_prt (s : State) (k : Nat) (p : Pool) : (s.setPool k p).prt = s.prt := rfl
@[simp] theorem State.setPool_hostOut (s : State) (k : Nat) (p : Pool) : (s.setPool k p).hostOut = s.hostOut := rfl
@[simp] theorem State.setPool_ticks (s : State) (k : Nat) (p : Pool) : (s.setPool k p).ticks = s.ticks := rfl
@[simp] theorem State.setPool_free (s : State) (k : Nat) (p : Pool) : (s.setPool k p).free = s.free := rfl
@[simp] theorem State.setPool_pending (s : State) (k : Nat) (p : Pool) : (s.setPool k p).pending = s.pending := rfl

/-! ## State.setPage -/

@[simp] theorem State.setPage_fuses (s : State) (p : Nat) (d : Page) : (s.setPage p d).fuses = s.fuses := rfl
@[simp] theorem State.setPage_regs (s : State) (p : Nat) (d : Page) : (s.setPage p d).regs = s.regs := rfl
@[simp] theorem State.setPage_counters (s : State) (p : Nat) (d : Page) : (s.setPage p d).counters = s.counters := rfl
@[simp] theorem State.setPage_cp (s : State) (p : Nat) (d : Page) : (s.setPage p d).cp = s.cp := rfl
@[simp] theorem State.setPage_ctx (s : State) (p : Nat) (d : Page) : (s.setPage p d).ctx = s.ctx := rfl
@[simp] theorem State.setPage_hop (s : State) (p : Nat) (d : Page) : (s.setPage p d).hop = s.hop := rfl
@[simp] theorem State.setPage_ntl (s : State) (p : Nat) (d : Page) : (s.setPage p d).ntl = s.ntl := rfl
@[simp] theorem State.setPage_models (s : State) (p : Nat) (d : Page) : (s.setPage p d).models = s.models := rfl
@[simp] theorem State.setPage_tiles (s : State) (p : Nat) (d : Page) : (s.setPage p d).tiles = s.tiles := rfl
@[simp] theorem State.setPage_xch (s : State) (p : Nat) (d : Page) : (s.setPage p d).xch = s.xch := rfl
@[simp] theorem State.setPage_fab (s : State) (p : Nat) (d : Page) : (s.setPage p d).fab = s.fab := rfl
@[simp] theorem State.setPage_flk (s : State) (p : Nat) (d : Page) : (s.setPage p d).flk = s.flk := rfl
@[simp] theorem State.setPage_ras (s : State) (p : Nat) (d : Page) : (s.setPage p d).ras = s.ras := rfl
@[simp] theorem State.setPage_det (s : State) (p : Nat) (d : Page) : (s.setPage p d).det = s.det := rfl
@[simp] theorem State.setPage_mgt (s : State) (p : Nat) (d : Page) : (s.setPage p d).mgt = s.mgt := rfl
@[simp] theorem State.setPage_pwr (s : State) (p : Nat) (d : Page) : (s.setPage p d).pwr = s.pwr := rfl
@[simp] theorem State.setPage_hif (s : State) (p : Nat) (d : Page) : (s.setPage p d).hif = s.hif := rfl
@[simp] theorem State.setPage_pmc (s : State) (p : Nat) (d : Page) : (s.setPage p d).pmc = s.pmc := rfl
@[simp] theorem State.setPage_prt (s : State) (p : Nat) (d : Page) : (s.setPage p d).prt = s.prt := rfl
@[simp] theorem State.setPage_hostOut (s : State) (p : Nat) (d : Page) : (s.setPage p d).hostOut = s.hostOut := rfl
@[simp] theorem State.setPage_ticks (s : State) (p : Nat) (d : Page) : (s.setPage p d).ticks = s.ticks := rfl
@[simp] theorem State.setPage_free (s : State) (p : Nat) (d : Page) : (s.setPage p d).free = s.free := rfl
@[simp] theorem State.setPage_pending (s : State) (p : Nat) (d : Page) : (s.setPage p d).pending = s.pending := rfl

/-! ## State.setGroup -/

@[simp] theorem State.setGroup_fuses (s : State) (k : Nat) (g : Group) : (s.setGroup k g).fuses = s.fuses := rfl
@[simp] theorem State.setGroup_regs (s : State) (k : Nat) (g : Group) : (s.setGroup k g).regs = s.regs := rfl
@[simp] theorem State.setGroup_counters (s : State) (k : Nat) (g : Group) : (s.setGroup k g).counters = s.counters := rfl
@[simp] theorem State.setGroup_cp (s : State) (k : Nat) (g : Group) : (s.setGroup k g).cp = s.cp := rfl
@[simp] theorem State.setGroup_ctx (s : State) (k : Nat) (g : Group) : (s.setGroup k g).ctx = s.ctx := rfl
@[simp] theorem State.setGroup_hop (s : State) (k : Nat) (g : Group) : (s.setGroup k g).hop = s.hop := rfl
@[simp] theorem State.setGroup_wsp (s : State) (k : Nat) (g : Group) : (s.setGroup k g).wsp = s.wsp := rfl
@[simp] theorem State.setGroup_ntl (s : State) (k : Nat) (g : Group) : (s.setGroup k g).ntl = s.ntl := rfl
@[simp] theorem State.setGroup_models (s : State) (k : Nat) (g : Group) : (s.setGroup k g).models = s.models := rfl
@[simp] theorem State.setGroup_tiles (s : State) (k : Nat) (g : Group) : (s.setGroup k g).tiles = s.tiles := rfl
@[simp] theorem State.setGroup_fab (s : State) (k : Nat) (g : Group) : (s.setGroup k g).fab = s.fab := rfl
@[simp] theorem State.setGroup_flk (s : State) (k : Nat) (g : Group) : (s.setGroup k g).flk = s.flk := rfl
@[simp] theorem State.setGroup_ras (s : State) (k : Nat) (g : Group) : (s.setGroup k g).ras = s.ras := rfl
@[simp] theorem State.setGroup_det (s : State) (k : Nat) (g : Group) : (s.setGroup k g).det = s.det := rfl
@[simp] theorem State.setGroup_mgt (s : State) (k : Nat) (g : Group) : (s.setGroup k g).mgt = s.mgt := rfl
@[simp] theorem State.setGroup_pwr (s : State) (k : Nat) (g : Group) : (s.setGroup k g).pwr = s.pwr := rfl
@[simp] theorem State.setGroup_hif (s : State) (k : Nat) (g : Group) : (s.setGroup k g).hif = s.hif := rfl
@[simp] theorem State.setGroup_pmc (s : State) (k : Nat) (g : Group) : (s.setGroup k g).pmc = s.pmc := rfl
@[simp] theorem State.setGroup_prt (s : State) (k : Nat) (g : Group) : (s.setGroup k g).prt = s.prt := rfl
@[simp] theorem State.setGroup_hostOut (s : State) (k : Nat) (g : Group) : (s.setGroup k g).hostOut = s.hostOut := rfl
@[simp] theorem State.setGroup_ticks (s : State) (k : Nat) (g : Group) : (s.setGroup k g).ticks = s.ticks := rfl
@[simp] theorem State.setGroup_free (s : State) (k : Nat) (g : Group) : (s.setGroup k g).free = s.free := rfl
@[simp] theorem State.setGroup_pending (s : State) (k : Nat) (g : Group) : (s.setGroup k g).pending = s.pending := rfl

/-! ## State.setStep -/

@[simp] theorem State.setStep_fuses (s : State) (q : Nat) (x : LStep) : (s.setStep q x).fuses = s.fuses := rfl
@[simp] theorem State.setStep_regs (s : State) (q : Nat) (x : LStep) : (s.setStep q x).regs = s.regs := rfl
@[simp] theorem State.setStep_counters (s : State) (q : Nat) (x : LStep) : (s.setStep q x).counters = s.counters := rfl
@[simp] theorem State.setStep_cp (s : State) (q : Nat) (x : LStep) : (s.setStep q x).cp = s.cp := rfl
@[simp] theorem State.setStep_ctx (s : State) (q : Nat) (x : LStep) : (s.setStep q x).ctx = s.ctx := rfl
@[simp] theorem State.setStep_hop (s : State) (q : Nat) (x : LStep) : (s.setStep q x).hop = s.hop := rfl
@[simp] theorem State.setStep_wsp (s : State) (q : Nat) (x : LStep) : (s.setStep q x).wsp = s.wsp := rfl
@[simp] theorem State.setStep_ntl (s : State) (q : Nat) (x : LStep) : (s.setStep q x).ntl = s.ntl := rfl
@[simp] theorem State.setStep_models (s : State) (q : Nat) (x : LStep) : (s.setStep q x).models = s.models := rfl
@[simp] theorem State.setStep_tiles (s : State) (q : Nat) (x : LStep) : (s.setStep q x).tiles = s.tiles := rfl
@[simp] theorem State.setStep_fab (s : State) (q : Nat) (x : LStep) : (s.setStep q x).fab = s.fab := rfl
@[simp] theorem State.setStep_flk (s : State) (q : Nat) (x : LStep) : (s.setStep q x).flk = s.flk := rfl
@[simp] theorem State.setStep_ras (s : State) (q : Nat) (x : LStep) : (s.setStep q x).ras = s.ras := rfl
@[simp] theorem State.setStep_det (s : State) (q : Nat) (x : LStep) : (s.setStep q x).det = s.det := rfl
@[simp] theorem State.setStep_mgt (s : State) (q : Nat) (x : LStep) : (s.setStep q x).mgt = s.mgt := rfl
@[simp] theorem State.setStep_pwr (s : State) (q : Nat) (x : LStep) : (s.setStep q x).pwr = s.pwr := rfl
@[simp] theorem State.setStep_hif (s : State) (q : Nat) (x : LStep) : (s.setStep q x).hif = s.hif := rfl
@[simp] theorem State.setStep_pmc (s : State) (q : Nat) (x : LStep) : (s.setStep q x).pmc = s.pmc := rfl
@[simp] theorem State.setStep_prt (s : State) (q : Nat) (x : LStep) : (s.setStep q x).prt = s.prt := rfl
@[simp] theorem State.setStep_hostOut (s : State) (q : Nat) (x : LStep) : (s.setStep q x).hostOut = s.hostOut := rfl
@[simp] theorem State.setStep_ticks (s : State) (q : Nat) (x : LStep) : (s.setStep q x).ticks = s.ticks := rfl
@[simp] theorem State.setStep_free (s : State) (q : Nat) (x : LStep) : (s.setStep q x).free = s.free := rfl
@[simp] theorem State.setStep_pending (s : State) (q : Nat) (x : LStep) : (s.setStep q x).pending = s.pending := rfl

/-! ## State.setColl -/

@[simp] theorem State.setColl_fuses (s : State) (q : Nat) (x : Coll) : (s.setColl q x).fuses = s.fuses := rfl
@[simp] theorem State.setColl_regs (s : State) (q : Nat) (x : Coll) : (s.setColl q x).regs = s.regs := rfl
@[simp] theorem State.setColl_counters (s : State) (q : Nat) (x : Coll) : (s.setColl q x).counters = s.counters := rfl
@[simp] theorem State.setColl_cp (s : State) (q : Nat) (x : Coll) : (s.setColl q x).cp = s.cp := rfl
@[simp] theorem State.setColl_ctx (s : State) (q : Nat) (x : Coll) : (s.setColl q x).ctx = s.ctx := rfl
@[simp] theorem State.setColl_hop (s : State) (q : Nat) (x : Coll) : (s.setColl q x).hop = s.hop := rfl
@[simp] theorem State.setColl_wsp (s : State) (q : Nat) (x : Coll) : (s.setColl q x).wsp = s.wsp := rfl
@[simp] theorem State.setColl_ntl (s : State) (q : Nat) (x : Coll) : (s.setColl q x).ntl = s.ntl := rfl
@[simp] theorem State.setColl_models (s : State) (q : Nat) (x : Coll) : (s.setColl q x).models = s.models := rfl
@[simp] theorem State.setColl_tiles (s : State) (q : Nat) (x : Coll) : (s.setColl q x).tiles = s.tiles := rfl
@[simp] theorem State.setColl_fab (s : State) (q : Nat) (x : Coll) : (s.setColl q x).fab = s.fab := rfl
@[simp] theorem State.setColl_flk (s : State) (q : Nat) (x : Coll) : (s.setColl q x).flk = s.flk := rfl
@[simp] theorem State.setColl_ras (s : State) (q : Nat) (x : Coll) : (s.setColl q x).ras = s.ras := rfl
@[simp] theorem State.setColl_det (s : State) (q : Nat) (x : Coll) : (s.setColl q x).det = s.det := rfl
@[simp] theorem State.setColl_mgt (s : State) (q : Nat) (x : Coll) : (s.setColl q x).mgt = s.mgt := rfl
@[simp] theorem State.setColl_pwr (s : State) (q : Nat) (x : Coll) : (s.setColl q x).pwr = s.pwr := rfl
@[simp] theorem State.setColl_hif (s : State) (q : Nat) (x : Coll) : (s.setColl q x).hif = s.hif := rfl
@[simp] theorem State.setColl_pmc (s : State) (q : Nat) (x : Coll) : (s.setColl q x).pmc = s.pmc := rfl
@[simp] theorem State.setColl_prt (s : State) (q : Nat) (x : Coll) : (s.setColl q x).prt = s.prt := rfl
@[simp] theorem State.setColl_hostOut (s : State) (q : Nat) (x : Coll) : (s.setColl q x).hostOut = s.hostOut := rfl
@[simp] theorem State.setColl_ticks (s : State) (q : Nat) (x : Coll) : (s.setColl q x).ticks = s.ticks := rfl
@[simp] theorem State.setColl_free (s : State) (q : Nat) (x : Coll) : (s.setColl q x).free = s.free := rfl
@[simp] theorem State.setColl_pending (s : State) (q : Nat) (x : Coll) : (s.setColl q x).pending = s.pending := rfl

/-! ## State.setPort -/

@[simp] theorem State.setPort_fuses (s : State) (p : Nat) (x : Port) : (s.setPort p x).fuses = s.fuses := rfl
@[simp] theorem State.setPort_regs (s : State) (p : Nat) (x : Port) : (s.setPort p x).regs = s.regs := rfl
@[simp] theorem State.setPort_counters (s : State) (p : Nat) (x : Port) : (s.setPort p x).counters = s.counters := rfl
@[simp] theorem State.setPort_cp (s : State) (p : Nat) (x : Port) : (s.setPort p x).cp = s.cp := rfl
@[simp] theorem State.setPort_ctx (s : State) (p : Nat) (x : Port) : (s.setPort p x).ctx = s.ctx := rfl
@[simp] theorem State.setPort_hop (s : State) (p : Nat) (x : Port) : (s.setPort p x).hop = s.hop := rfl
@[simp] theorem State.setPort_wsp (s : State) (p : Nat) (x : Port) : (s.setPort p x).wsp = s.wsp := rfl
@[simp] theorem State.setPort_ntl (s : State) (p : Nat) (x : Port) : (s.setPort p x).ntl = s.ntl := rfl
@[simp] theorem State.setPort_models (s : State) (p : Nat) (x : Port) : (s.setPort p x).models = s.models := rfl
@[simp] theorem State.setPort_tiles (s : State) (p : Nat) (x : Port) : (s.setPort p x).tiles = s.tiles := rfl
@[simp] theorem State.setPort_xch (s : State) (p : Nat) (x : Port) : (s.setPort p x).xch = s.xch := rfl
@[simp] theorem State.setPort_fab (s : State) (p : Nat) (x : Port) : (s.setPort p x).fab = { s.fab with ports := insertK p x s.fab.ports } := rfl
@[simp] theorem State.setPort_flk (s : State) (p : Nat) (x : Port) : (s.setPort p x).flk = s.flk := rfl
@[simp] theorem State.setPort_ras (s : State) (p : Nat) (x : Port) : (s.setPort p x).ras = s.ras := rfl
@[simp] theorem State.setPort_det (s : State) (p : Nat) (x : Port) : (s.setPort p x).det = s.det := rfl
@[simp] theorem State.setPort_mgt (s : State) (p : Nat) (x : Port) : (s.setPort p x).mgt = s.mgt := rfl
@[simp] theorem State.setPort_pwr (s : State) (p : Nat) (x : Port) : (s.setPort p x).pwr = s.pwr := rfl
@[simp] theorem State.setPort_hif (s : State) (p : Nat) (x : Port) : (s.setPort p x).hif = s.hif := rfl
@[simp] theorem State.setPort_pmc (s : State) (p : Nat) (x : Port) : (s.setPort p x).pmc = s.pmc := rfl
@[simp] theorem State.setPort_prt (s : State) (p : Nat) (x : Port) : (s.setPort p x).prt = s.prt := rfl
@[simp] theorem State.setPort_hostOut (s : State) (p : Nat) (x : Port) : (s.setPort p x).hostOut = s.hostOut := rfl
@[simp] theorem State.setPort_ticks (s : State) (p : Nat) (x : Port) : (s.setPort p x).ticks = s.ticks := rfl
@[simp] theorem State.setPort_free (s : State) (p : Nat) (x : Port) : (s.setPort p x).free = s.free := rfl
@[simp] theorem State.setPort_pending (s : State) (p : Nat) (x : Port) : (s.setPort p x).pending = s.pending := rfl

/-! ## State.setRemote -/

@[simp] theorem State.setRemote_fuses (s : State) (q : Nat) (x : RemoteOp) : (s.setRemote q x).fuses = s.fuses := rfl
@[simp] theorem State.setRemote_regs (s : State) (q : Nat) (x : RemoteOp) : (s.setRemote q x).regs = s.regs := rfl
@[simp] theorem State.setRemote_counters (s : State) (q : Nat) (x : RemoteOp) : (s.setRemote q x).counters = s.counters := rfl
@[simp] theorem State.setRemote_cp (s : State) (q : Nat) (x : RemoteOp) : (s.setRemote q x).cp = s.cp := rfl
@[simp] theorem State.setRemote_ctx (s : State) (q : Nat) (x : RemoteOp) : (s.setRemote q x).ctx = s.ctx := rfl
@[simp] theorem State.setRemote_hop (s : State) (q : Nat) (x : RemoteOp) : (s.setRemote q x).hop = s.hop := rfl
@[simp] theorem State.setRemote_wsp (s : State) (q : Nat) (x : RemoteOp) : (s.setRemote q x).wsp = s.wsp := rfl
@[simp] theorem State.setRemote_ntl (s : State) (q : Nat) (x : RemoteOp) : (s.setRemote q x).ntl = s.ntl := rfl
@[simp] theorem State.setRemote_models (s : State) (q : Nat) (x : RemoteOp) : (s.setRemote q x).models = s.models := rfl
@[simp] theorem State.setRemote_tiles (s : State) (q : Nat) (x : RemoteOp) : (s.setRemote q x).tiles = s.tiles := rfl
@[simp] theorem State.setRemote_xch (s : State) (q : Nat) (x : RemoteOp) : (s.setRemote q x).xch = s.xch := rfl
@[simp] theorem State.setRemote_flk (s : State) (q : Nat) (x : RemoteOp) : (s.setRemote q x).flk = s.flk := rfl
@[simp] theorem State.setRemote_ras (s : State) (q : Nat) (x : RemoteOp) : (s.setRemote q x).ras = s.ras := rfl
@[simp] theorem State.setRemote_det (s : State) (q : Nat) (x : RemoteOp) : (s.setRemote q x).det = s.det := rfl
@[simp] theorem State.setRemote_mgt (s : State) (q : Nat) (x : RemoteOp) : (s.setRemote q x).mgt = s.mgt := rfl
@[simp] theorem State.setRemote_pwr (s : State) (q : Nat) (x : RemoteOp) : (s.setRemote q x).pwr = s.pwr := rfl
@[simp] theorem State.setRemote_hif (s : State) (q : Nat) (x : RemoteOp) : (s.setRemote q x).hif = s.hif := rfl
@[simp] theorem State.setRemote_pmc (s : State) (q : Nat) (x : RemoteOp) : (s.setRemote q x).pmc = s.pmc := rfl
@[simp] theorem State.setRemote_prt (s : State) (q : Nat) (x : RemoteOp) : (s.setRemote q x).prt = s.prt := rfl
@[simp] theorem State.setRemote_hostOut (s : State) (q : Nat) (x : RemoteOp) : (s.setRemote q x).hostOut = s.hostOut := rfl
@[simp] theorem State.setRemote_ticks (s : State) (q : Nat) (x : RemoteOp) : (s.setRemote q x).ticks = s.ticks := rfl
@[simp] theorem State.setRemote_free (s : State) (q : Nat) (x : RemoteOp) : (s.setRemote q x).free = s.free := rfl
@[simp] theorem State.setRemote_pending (s : State) (q : Nat) (x : RemoteOp) : (s.setRemote q x).pending = s.pending := rfl

/-! ## setFlow -/

@[simp] theorem setFlow_fuses (s : State) (k : Nat) (f : RxFlow) : (setFlow s k f).fuses = s.fuses := rfl
@[simp] theorem setFlow_regs (s : State) (k : Nat) (f : RxFlow) : (setFlow s k f).regs = s.regs := rfl
@[simp] theorem setFlow_counters (s : State) (k : Nat) (f : RxFlow) : (setFlow s k f).counters = s.counters := rfl
@[simp] theorem setFlow_cp (s : State) (k : Nat) (f : RxFlow) : (setFlow s k f).cp = s.cp := rfl
@[simp] theorem setFlow_ctx (s : State) (k : Nat) (f : RxFlow) : (setFlow s k f).ctx = s.ctx := rfl
@[simp] theorem setFlow_hop (s : State) (k : Nat) (f : RxFlow) : (setFlow s k f).hop = s.hop := rfl
@[simp] theorem setFlow_wsp (s : State) (k : Nat) (f : RxFlow) : (setFlow s k f).wsp = s.wsp := rfl
@[simp] theorem setFlow_ntl (s : State) (k : Nat) (f : RxFlow) : (setFlow s k f).ntl = s.ntl := rfl
@[simp] theorem setFlow_models (s : State) (k : Nat) (f : RxFlow) : (setFlow s k f).models = s.models := rfl
@[simp] theorem setFlow_tiles (s : State) (k : Nat) (f : RxFlow) : (setFlow s k f).tiles = s.tiles := rfl
@[simp] theorem setFlow_xch (s : State) (k : Nat) (f : RxFlow) : (setFlow s k f).xch = s.xch := rfl
@[simp] theorem setFlow_flk (s : State) (k : Nat) (f : RxFlow) : (setFlow s k f).flk = s.flk := rfl
@[simp] theorem setFlow_ras (s : State) (k : Nat) (f : RxFlow) : (setFlow s k f).ras = s.ras := rfl
@[simp] theorem setFlow_det (s : State) (k : Nat) (f : RxFlow) : (setFlow s k f).det = s.det := rfl
@[simp] theorem setFlow_mgt (s : State) (k : Nat) (f : RxFlow) : (setFlow s k f).mgt = s.mgt := rfl
@[simp] theorem setFlow_pwr (s : State) (k : Nat) (f : RxFlow) : (setFlow s k f).pwr = s.pwr := rfl
@[simp] theorem setFlow_hif (s : State) (k : Nat) (f : RxFlow) : (setFlow s k f).hif = s.hif := rfl
@[simp] theorem setFlow_pmc (s : State) (k : Nat) (f : RxFlow) : (setFlow s k f).pmc = s.pmc := rfl
@[simp] theorem setFlow_prt (s : State) (k : Nat) (f : RxFlow) : (setFlow s k f).prt = s.prt := rfl
@[simp] theorem setFlow_hostOut (s : State) (k : Nat) (f : RxFlow) : (setFlow s k f).hostOut = s.hostOut := rfl
@[simp] theorem setFlow_ticks (s : State) (k : Nat) (f : RxFlow) : (setFlow s k f).ticks = s.ticks := rfl
@[simp] theorem setFlow_free (s : State) (k : Nat) (f : RxFlow) : (setFlow s k f).free = s.free := rfl
@[simp] theorem setFlow_pending (s : State) (k : Nat) (f : RxFlow) : (setFlow s k f).pending = s.pending := rfl

/-! ## send -/

@[simp] theorem send_fuses (s : State) (x : HostOut) : (send s x).fuses = s.fuses := rfl
@[simp] theorem send_regs (s : State) (x : HostOut) : (send s x).regs = s.regs := rfl
@[simp] theorem send_counters (s : State) (x : HostOut) : (send s x).counters = s.counters := rfl
@[simp] theorem send_cp (s : State) (x : HostOut) : (send s x).cp = s.cp := rfl
@[simp] theorem send_ctx (s : State) (x : HostOut) : (send s x).ctx = s.ctx := rfl
@[simp] theorem send_hop (s : State) (x : HostOut) : (send s x).hop = s.hop := rfl
@[simp] theorem send_wsp (s : State) (x : HostOut) : (send s x).wsp = s.wsp := rfl
@[simp] theorem send_ntl (s : State) (x : HostOut) : (send s x).ntl = s.ntl := rfl
@[simp] theorem send_models (s : State) (x : HostOut) : (send s x).models = s.models := rfl
@[simp] theorem send_tiles (s : State) (x : HostOut) : (send s x).tiles = s.tiles := rfl
@[simp] theorem send_xch (s : State) (x : HostOut) : (send s x).xch = s.xch := rfl
@[simp] theorem send_fab (s : State) (x : HostOut) : (send s x).fab = s.fab := rfl
@[simp] theorem send_flk (s : State) (x : HostOut) : (send s x).flk = s.flk := rfl
@[simp] theorem send_ras (s : State) (x : HostOut) : (send s x).ras = s.ras := rfl
@[simp] theorem send_det (s : State) (x : HostOut) : (send s x).det = s.det := rfl
@[simp] theorem send_mgt (s : State) (x : HostOut) : (send s x).mgt = s.mgt := rfl
@[simp] theorem send_pwr (s : State) (x : HostOut) : (send s x).pwr = s.pwr := rfl
@[simp] theorem send_hif (s : State) (x : HostOut) : (send s x).hif = s.hif := rfl
@[simp] theorem send_pmc (s : State) (x : HostOut) : (send s x).pmc = s.pmc := rfl
@[simp] theorem send_prt (s : State) (x : HostOut) : (send s x).prt = s.prt := rfl
@[simp] theorem send_hostOut (s : State) (x : HostOut) : (send s x).hostOut = s.hostOut ++ [x] := rfl
@[simp] theorem send_ticks (s : State) (x : HostOut) : (send s x).ticks = s.ticks := rfl
@[simp] theorem send_free (s : State) (x : HostOut) : (send s x).free = s.free := rfl
@[simp] theorem send_pending (s : State) (x : HostOut) : (send s x).pending = s.pending := rfl

/-! ## drawFree -/

@[simp] theorem drawFree_fuses (s : State) : (drawFree s).2.fuses = s.fuses := rfl
@[simp] theorem drawFree_regs (s : State) : (drawFree s).2.regs = s.regs := rfl
@[simp] theorem drawFree_counters (s : State) : (drawFree s).2.counters = s.counters := rfl
@[simp] theorem drawFree_cp (s : State) : (drawFree s).2.cp = s.cp := rfl
@[simp] theorem drawFree_ctx (s : State) : (drawFree s).2.ctx = s.ctx := rfl
@[simp] theorem drawFree_hop (s : State) : (drawFree s).2.hop = s.hop := rfl
@[simp] theorem drawFree_wsp (s : State) : (drawFree s).2.wsp = s.wsp := rfl
@[simp] theorem drawFree_ntl (s : State) : (drawFree s).2.ntl = s.ntl := rfl
@[simp] theorem drawFree_models (s : State) : (drawFree s).2.models = s.models := rfl
@[simp] theorem drawFree_tiles (s : State) : (drawFree s).2.tiles = s.tiles := rfl
@[simp] theorem drawFree_xch (s : State) : (drawFree s).2.xch = s.xch := rfl
@[simp] theorem drawFree_fab (s : State) : (drawFree s).2.fab = s.fab := rfl
@[simp] theorem drawFree_flk (s : State) : (drawFree s).2.flk = s.flk := rfl
@[simp] theorem drawFree_ras (s : State) : (drawFree s).2.ras = s.ras := rfl
@[simp] theorem drawFree_det (s : State) : (drawFree s).2.det = s.det := rfl
@[simp] theorem drawFree_mgt (s : State) : (drawFree s).2.mgt = s.mgt := rfl
@[simp] theorem drawFree_pwr (s : State) : (drawFree s).2.pwr = s.pwr := rfl
@[simp] theorem drawFree_hif (s : State) : (drawFree s).2.hif = s.hif := rfl
@[simp] theorem drawFree_pmc (s : State) : (drawFree s).2.pmc = s.pmc := rfl
@[simp] theorem drawFree_prt (s : State) : (drawFree s).2.prt = s.prt := rfl
@[simp] theorem drawFree_hostOut (s : State) : (drawFree s).2.hostOut = s.hostOut := rfl
@[simp] theorem drawFree_ticks (s : State) : (drawFree s).2.ticks = s.ticks := rfl
@[simp] theorem drawFree_free (s : State) : (drawFree s).2.free = s.free + 1 := rfl
@[simp] theorem drawFree_pending (s : State) : (drawFree s).2.pending = s.pending := rfl
@[simp] theorem drawFree_fst (s : State) : (drawFree s).1 = s.free := rfl

/-! ## setRaw -/

@[simp] theorem setRaw_fuses (s : State) (r : RegSpec) (i f v : Nat) : (setRaw s r i f v).fuses = s.fuses := by unfold setRaw; dsimp only; split <;> rfl
@[simp] theorem setRaw_counters (s : State) (r : RegSpec) (i f v : Nat) : (setRaw s r i f v).counters = s.counters := by unfold setRaw; dsimp only; split <;> rfl
@[simp] theorem setRaw_cp (s : State) (r : RegSpec) (i f v : Nat) : (setRaw s r i f v).cp = s.cp := by unfold setRaw; dsimp only; split <;> rfl
@[simp] theorem setRaw_ctx (s : State) (r : RegSpec) (i f v : Nat) : (setRaw s r i f v).ctx = s.ctx := by unfold setRaw; dsimp only; split <;> rfl
@[simp] theorem setRaw_hop (s : State) (r : RegSpec) (i f v : Nat) : (setRaw s r i f v).hop = s.hop := by unfold setRaw; dsimp only; split <;> rfl
@[simp] theorem setRaw_wsp (s : State) (r : RegSpec) (i f v : Nat) : (setRaw s r i f v).wsp = s.wsp := by unfold setRaw; dsimp only; split <;> rfl
@[simp] theorem setRaw_ntl (s : State) (r : RegSpec) (i f v : Nat) : (setRaw s r i f v).ntl = s.ntl := by unfold setRaw; dsimp only; split <;> rfl
@[simp] theorem setRaw_models (s : State) (r : RegSpec) (i f v : Nat) : (setRaw s r i f v).models = s.models := by unfold setRaw; dsimp only; split <;> rfl
@[simp] theorem setRaw_tiles (s : State) (r : RegSpec) (i f v : Nat) : (setRaw s r i f v).tiles = s.tiles := by unfold setRaw; dsimp only; split <;> rfl
@[simp] theorem setRaw_xch (s : State) (r : RegSpec) (i f v : Nat) : (setRaw s r i f v).xch = s.xch := by unfold setRaw; dsimp only; split <;> rfl
@[simp] theorem setRaw_fab (s : State) (r : RegSpec) (i f v : Nat) : (setRaw s r i f v).fab = s.fab := by unfold setRaw; dsimp only; split <;> rfl
@[simp] theorem setRaw_flk (s : State) (r : RegSpec) (i f v : Nat) : (setRaw s r i f v).flk = s.flk := by unfold setRaw; dsimp only; split <;> rfl
@[simp] theorem setRaw_ras (s : State) (r : RegSpec) (i f v : Nat) : (setRaw s r i f v).ras = s.ras := by unfold setRaw; dsimp only; split <;> rfl
@[simp] theorem setRaw_det (s : State) (r : RegSpec) (i f v : Nat) : (setRaw s r i f v).det = s.det := by unfold setRaw; dsimp only; split <;> rfl
@[simp] theorem setRaw_mgt (s : State) (r : RegSpec) (i f v : Nat) : (setRaw s r i f v).mgt = s.mgt := by unfold setRaw; dsimp only; split <;> rfl
@[simp] theorem setRaw_pwr (s : State) (r : RegSpec) (i f v : Nat) : (setRaw s r i f v).pwr = s.pwr := by unfold setRaw; dsimp only; split <;> rfl
@[simp] theorem setRaw_hif (s : State) (r : RegSpec) (i f v : Nat) : (setRaw s r i f v).hif = s.hif := by unfold setRaw; dsimp only; split <;> rfl
@[simp] theorem setRaw_pmc (s : State) (r : RegSpec) (i f v : Nat) : (setRaw s r i f v).pmc = s.pmc := by unfold setRaw; dsimp only; split <;> rfl
@[simp] theorem setRaw_prt (s : State) (r : RegSpec) (i f v : Nat) : (setRaw s r i f v).prt = s.prt := by unfold setRaw; dsimp only; split <;> rfl
@[simp] theorem setRaw_hostOut (s : State) (r : RegSpec) (i f v : Nat) : (setRaw s r i f v).hostOut = s.hostOut := by unfold setRaw; dsimp only; split <;> rfl
@[simp] theorem setRaw_ticks (s : State) (r : RegSpec) (i f v : Nat) : (setRaw s r i f v).ticks = s.ticks := by unfold setRaw; dsimp only; split <;> rfl
@[simp] theorem setRaw_free (s : State) (r : RegSpec) (i f v : Nat) : (setRaw s r i f v).free = s.free := by unfold setRaw; dsimp only; split <;> rfl
@[simp] theorem setRaw_pending (s : State) (r : RegSpec) (i f v : Nat) : (setRaw s r i f v).pending = s.pending := by unfold setRaw; dsimp only; split <;> rfl

/-! ## setFld -/

@[simp] theorem setFld_fuses (s : State) (g : FieldRef) (x i f : Nat) : (setFld s g x i f).fuses = s.fuses := setRaw_fuses ..
@[simp] theorem setFld_counters (s : State) (g : FieldRef) (x i f : Nat) : (setFld s g x i f).counters = s.counters := setRaw_counters ..
@[simp] theorem setFld_cp (s : State) (g : FieldRef) (x i f : Nat) : (setFld s g x i f).cp = s.cp := setRaw_cp ..
@[simp] theorem setFld_ctx (s : State) (g : FieldRef) (x i f : Nat) : (setFld s g x i f).ctx = s.ctx := setRaw_ctx ..
@[simp] theorem setFld_hop (s : State) (g : FieldRef) (x i f : Nat) : (setFld s g x i f).hop = s.hop := setRaw_hop ..
@[simp] theorem setFld_wsp (s : State) (g : FieldRef) (x i f : Nat) : (setFld s g x i f).wsp = s.wsp := setRaw_wsp ..
@[simp] theorem setFld_ntl (s : State) (g : FieldRef) (x i f : Nat) : (setFld s g x i f).ntl = s.ntl := setRaw_ntl ..
@[simp] theorem setFld_models (s : State) (g : FieldRef) (x i f : Nat) : (setFld s g x i f).models = s.models := setRaw_models ..
@[simp] theorem setFld_tiles (s : State) (g : FieldRef) (x i f : Nat) : (setFld s g x i f).tiles = s.tiles := setRaw_tiles ..
@[simp] theorem setFld_xch (s : State) (g : FieldRef) (x i f : Nat) : (setFld s g x i f).xch = s.xch := setRaw_xch ..
@[simp] theorem setFld_fab (s : State) (g : FieldRef) (x i f : Nat) : (setFld s g x i f).fab = s.fab := setRaw_fab ..
@[simp] theorem setFld_flk (s : State) (g : FieldRef) (x i f : Nat) : (setFld s g x i f).flk = s.flk := setRaw_flk ..
@[simp] theorem setFld_ras (s : State) (g : FieldRef) (x i f : Nat) : (setFld s g x i f).ras = s.ras := setRaw_ras ..
@[simp] theorem setFld_det (s : State) (g : FieldRef) (x i f : Nat) : (setFld s g x i f).det = s.det := setRaw_det ..
@[simp] theorem setFld_mgt (s : State) (g : FieldRef) (x i f : Nat) : (setFld s g x i f).mgt = s.mgt := setRaw_mgt ..
@[simp] theorem setFld_pwr (s : State) (g : FieldRef) (x i f : Nat) : (setFld s g x i f).pwr = s.pwr := setRaw_pwr ..
@[simp] theorem setFld_hif (s : State) (g : FieldRef) (x i f : Nat) : (setFld s g x i f).hif = s.hif := setRaw_hif ..
@[simp] theorem setFld_pmc (s : State) (g : FieldRef) (x i f : Nat) : (setFld s g x i f).pmc = s.pmc := setRaw_pmc ..
@[simp] theorem setFld_prt (s : State) (g : FieldRef) (x i f : Nat) : (setFld s g x i f).prt = s.prt := setRaw_prt ..
@[simp] theorem setFld_hostOut (s : State) (g : FieldRef) (x i f : Nat) : (setFld s g x i f).hostOut = s.hostOut := setRaw_hostOut ..
@[simp] theorem setFld_ticks (s : State) (g : FieldRef) (x i f : Nat) : (setFld s g x i f).ticks = s.ticks := setRaw_ticks ..
@[simp] theorem setFld_free (s : State) (g : FieldRef) (x i f : Nat) : (setFld s g x i f).free = s.free := setRaw_free ..
@[simp] theorem setFld_pending (s : State) (g : FieldRef) (x i f : Nat) : (setFld s g x i f).pending = s.pending := setRaw_pending ..

/-! ## bumpFld -/

@[simp] theorem bumpFld_fuses (s : State) (g : FieldRef) (n i : Nat) : (bumpFld s g n i).fuses = s.fuses := setFld_fuses ..
@[simp] theorem bumpFld_counters (s : State) (g : FieldRef) (n i : Nat) : (bumpFld s g n i).counters = s.counters := setFld_counters ..
@[simp] theorem bumpFld_cp (s : State) (g : FieldRef) (n i : Nat) : (bumpFld s g n i).cp = s.cp := setFld_cp ..
@[simp] theorem bumpFld_ctx (s : State) (g : FieldRef) (n i : Nat) : (bumpFld s g n i).ctx = s.ctx := setFld_ctx ..
@[simp] theorem bumpFld_hop (s : State) (g : FieldRef) (n i : Nat) : (bumpFld s g n i).hop = s.hop := setFld_hop ..
@[simp] theorem bumpFld_wsp (s : State) (g : FieldRef) (n i : Nat) : (bumpFld s g n i).wsp = s.wsp := setFld_wsp ..
@[simp] theorem bumpFld_ntl (s : State) (g : FieldRef) (n i : Nat) : (bumpFld s g n i).ntl = s.ntl := setFld_ntl ..
@[simp] theorem bumpFld_models (s : State) (g : FieldRef) (n i : Nat) : (bumpFld s g n i).models = s.models := setFld_models ..
@[simp] theorem bumpFld_tiles (s : State) (g : FieldRef) (n i : Nat) : (bumpFld s g n i).tiles = s.tiles := setFld_tiles ..
@[simp] theorem bumpFld_xch (s : State) (g : FieldRef) (n i : Nat) : (bumpFld s g n i).xch = s.xch := setFld_xch ..
@[simp] theorem bumpFld_fab (s : State) (g : FieldRef) (n i : Nat) : (bumpFld s g n i).fab = s.fab := setFld_fab ..
@[simp] theorem bumpFld_flk (s : State) (g : FieldRef) (n i : Nat) : (bumpFld s g n i).flk = s.flk := setFld_flk ..
@[simp] theorem bumpFld_ras (s : State) (g : FieldRef) (n i : Nat) : (bumpFld s g n i).ras = s.ras := setFld_ras ..
@[simp] theorem bumpFld_det (s : State) (g : FieldRef) (n i : Nat) : (bumpFld s g n i).det = s.det := setFld_det ..
@[simp] theorem bumpFld_mgt (s : State) (g : FieldRef) (n i : Nat) : (bumpFld s g n i).mgt = s.mgt := setFld_mgt ..
@[simp] theorem bumpFld_pwr (s : State) (g : FieldRef) (n i : Nat) : (bumpFld s g n i).pwr = s.pwr := setFld_pwr ..
@[simp] theorem bumpFld_hif (s : State) (g : FieldRef) (n i : Nat) : (bumpFld s g n i).hif = s.hif := setFld_hif ..
@[simp] theorem bumpFld_pmc (s : State) (g : FieldRef) (n i : Nat) : (bumpFld s g n i).pmc = s.pmc := setFld_pmc ..
@[simp] theorem bumpFld_prt (s : State) (g : FieldRef) (n i : Nat) : (bumpFld s g n i).prt = s.prt := setFld_prt ..
@[simp] theorem bumpFld_hostOut (s : State) (g : FieldRef) (n i : Nat) : (bumpFld s g n i).hostOut = s.hostOut := setFld_hostOut ..
@[simp] theorem bumpFld_ticks (s : State) (g : FieldRef) (n i : Nat) : (bumpFld s g n i).ticks = s.ticks := setFld_ticks ..
@[simp] theorem bumpFld_free (s : State) (g : FieldRef) (n i : Nat) : (bumpFld s g n i).free = s.free := setFld_free ..
@[simp] theorem bumpFld_pending (s : State) (g : FieldRef) (n i : Nat) : (bumpFld s g n i).pending = s.pending := setFld_pending ..

/-! ## writeReg -/

@[simp] theorem writeReg_fuses (s : State) (r : RegSpec) (i f v m : Nat) : (writeReg s r i f v m).fuses = s.fuses := setRaw_fuses ..
@[simp] theorem writeReg_counters (s : State) (r : RegSpec) (i f v m : Nat) : (writeReg s r i f v m).counters = s.counters := setRaw_counters ..
@[simp] theorem writeReg_cp (s : State) (r : RegSpec) (i f v m : Nat) : (writeReg s r i f v m).cp = s.cp := setRaw_cp ..
@[simp] theorem writeReg_ctx (s : State) (r : RegSpec) (i f v m : Nat) : (writeReg s r i f v m).ctx = s.ctx := setRaw_ctx ..
@[simp] theorem writeReg_hop (s : State) (r : RegSpec) (i f v m : Nat) : (writeReg s r i f v m).hop = s.hop := setRaw_hop ..
@[simp] theorem writeReg_wsp (s : State) (r : RegSpec) (i f v m : Nat) : (writeReg s r i f v m).wsp = s.wsp := setRaw_wsp ..
@[simp] theorem writeReg_ntl (s : State) (r : RegSpec) (i f v m : Nat) : (writeReg s r i f v m).ntl = s.ntl := setRaw_ntl ..
@[simp] theorem writeReg_models (s : State) (r : RegSpec) (i f v m : Nat) : (writeReg s r i f v m).models = s.models := setRaw_models ..
@[simp] theorem writeReg_tiles (s : State) (r : RegSpec) (i f v m : Nat) : (writeReg s r i f v m).tiles = s.tiles := setRaw_tiles ..
@[simp] theorem writeReg_xch (s : State) (r : RegSpec) (i f v m : Nat) : (writeReg s r i f v m).xch = s.xch := setRaw_xch ..
@[simp] theorem writeReg_fab (s : State) (r : RegSpec) (i f v m : Nat) : (writeReg s r i f v m).fab = s.fab := setRaw_fab ..
@[simp] theorem writeReg_flk (s : State) (r : RegSpec) (i f v m : Nat) : (writeReg s r i f v m).flk = s.flk := setRaw_flk ..
@[simp] theorem writeReg_ras (s : State) (r : RegSpec) (i f v m : Nat) : (writeReg s r i f v m).ras = s.ras := setRaw_ras ..
@[simp] theorem writeReg_det (s : State) (r : RegSpec) (i f v m : Nat) : (writeReg s r i f v m).det = s.det := setRaw_det ..
@[simp] theorem writeReg_mgt (s : State) (r : RegSpec) (i f v m : Nat) : (writeReg s r i f v m).mgt = s.mgt := setRaw_mgt ..
@[simp] theorem writeReg_pwr (s : State) (r : RegSpec) (i f v m : Nat) : (writeReg s r i f v m).pwr = s.pwr := setRaw_pwr ..
@[simp] theorem writeReg_hif (s : State) (r : RegSpec) (i f v m : Nat) : (writeReg s r i f v m).hif = s.hif := setRaw_hif ..
@[simp] theorem writeReg_pmc (s : State) (r : RegSpec) (i f v m : Nat) : (writeReg s r i f v m).pmc = s.pmc := setRaw_pmc ..
@[simp] theorem writeReg_prt (s : State) (r : RegSpec) (i f v m : Nat) : (writeReg s r i f v m).prt = s.prt := setRaw_prt ..
@[simp] theorem writeReg_hostOut (s : State) (r : RegSpec) (i f v m : Nat) : (writeReg s r i f v m).hostOut = s.hostOut := setRaw_hostOut ..
@[simp] theorem writeReg_ticks (s : State) (r : RegSpec) (i f v m : Nat) : (writeReg s r i f v m).ticks = s.ticks := setRaw_ticks ..
@[simp] theorem writeReg_free (s : State) (r : RegSpec) (i f v m : Nat) : (writeReg s r i f v m).free = s.free := setRaw_free ..
@[simp] theorem writeReg_pending (s : State) (r : RegSpec) (i f v m : Nat) : (writeReg s r i f v m).pending = s.pending := setRaw_pending ..

/-! ## count -/

@[simp] theorem count_fuses (s : State) (b c n : Nat) : (count s b c n).fuses = s.fuses := by unfold count; split <;> rfl
@[simp] theorem count_regs (s : State) (b c n : Nat) : (count s b c n).regs = s.regs := by unfold count; split <;> rfl
@[simp] theorem count_cp (s : State) (b c n : Nat) : (count s b c n).cp = s.cp := by unfold count; split <;> rfl
@[simp] theorem count_ctx (s : State) (b c n : Nat) : (count s b c n).ctx = s.ctx := by unfold count; split <;> rfl
@[simp] theorem count_hop (s : State) (b c n : Nat) : (count s b c n).hop = s.hop := by unfold count; split <;> rfl
@[simp] theorem count_wsp (s : State) (b c n : Nat) : (count s b c n).wsp = s.wsp := by unfold count; split <;> rfl
@[simp] theorem count_ntl (s : State) (b c n : Nat) : (count s b c n).ntl = s.ntl := by unfold count; split <;> rfl
@[simp] theorem count_models (s : State) (b c n : Nat) : (count s b c n).models = s.models := by unfold count; split <;> rfl
@[simp] theorem count_tiles (s : State) (b c n : Nat) : (count s b c n).tiles = s.tiles := by unfold count; split <;> rfl
@[simp] theorem count_xch (s : State) (b c n : Nat) : (count s b c n).xch = s.xch := by unfold count; split <;> rfl
@[simp] theorem count_fab (s : State) (b c n : Nat) : (count s b c n).fab = s.fab := by unfold count; split <;> rfl
@[simp] theorem count_flk (s : State) (b c n : Nat) : (count s b c n).flk = s.flk := by unfold count; split <;> rfl
@[simp] theorem count_ras (s : State) (b c n : Nat) : (count s b c n).ras = s.ras := by unfold count; split <;> rfl
@[simp] theorem count_det (s : State) (b c n : Nat) : (count s b c n).det = s.det := by unfold count; split <;> rfl
@[simp] theorem count_mgt (s : State) (b c n : Nat) : (count s b c n).mgt = s.mgt := by unfold count; split <;> rfl
@[simp] theorem count_pwr (s : State) (b c n : Nat) : (count s b c n).pwr = s.pwr := by unfold count; split <;> rfl
@[simp] theorem count_hif (s : State) (b c n : Nat) : (count s b c n).hif = s.hif := by unfold count; split <;> rfl
@[simp] theorem count_pmc (s : State) (b c n : Nat) : (count s b c n).pmc = s.pmc := by unfold count; split <;> rfl
@[simp] theorem count_prt (s : State) (b c n : Nat) : (count s b c n).prt = s.prt := by unfold count; split <;> rfl
@[simp] theorem count_hostOut (s : State) (b c n : Nat) : (count s b c n).hostOut = s.hostOut := by unfold count; split <;> rfl
@[simp] theorem count_ticks (s : State) (b c n : Nat) : (count s b c n).ticks = s.ticks := by unfold count; split <;> rfl
@[simp] theorem count_free (s : State) (b c n : Nat) : (count s b c n).free = s.free := by unfold count; split <;> rfl
@[simp] theorem count_pending (s : State) (b c n : Nat) : (count s b c n).pending = s.pending := by unfold count; split <;> rfl

/-! ## irqUpdate -/

@[simp] theorem irqUpdate_fuses (s : State)  : (irqUpdate s).fuses = s.fuses := by unfold irqUpdate; simp
@[simp] theorem irqUpdate_regs (s : State)  : (irqUpdate s).regs = s.regs := by unfold irqUpdate; simp
@[simp] theorem irqUpdate_cp (s : State)  : (irqUpdate s).cp = s.cp := by unfold irqUpdate; simp
@[simp] theorem irqUpdate_ctx (s : State)  : (irqUpdate s).ctx = s.ctx := by unfold irqUpdate; simp
@[simp] theorem irqUpdate_hop (s : State)  : (irqUpdate s).hop = s.hop := by unfold irqUpdate; simp
@[simp] theorem irqUpdate_wsp (s : State)  : (irqUpdate s).wsp = s.wsp := by unfold irqUpdate; simp
@[simp] theorem irqUpdate_ntl (s : State)  : (irqUpdate s).ntl = s.ntl := by unfold irqUpdate; simp
@[simp] theorem irqUpdate_models (s : State)  : (irqUpdate s).models = s.models := by unfold irqUpdate; simp
@[simp] theorem irqUpdate_tiles (s : State)  : (irqUpdate s).tiles = s.tiles := by unfold irqUpdate; simp
@[simp] theorem irqUpdate_xch (s : State)  : (irqUpdate s).xch = s.xch := by unfold irqUpdate; simp
@[simp] theorem irqUpdate_fab (s : State)  : (irqUpdate s).fab = s.fab := by unfold irqUpdate; simp
@[simp] theorem irqUpdate_flk (s : State)  : (irqUpdate s).flk = s.flk := by unfold irqUpdate; simp
@[simp] theorem irqUpdate_det (s : State)  : (irqUpdate s).det = s.det := by unfold irqUpdate; simp
@[simp] theorem irqUpdate_mgt (s : State)  : (irqUpdate s).mgt = s.mgt := by unfold irqUpdate; simp
@[simp] theorem irqUpdate_pwr (s : State)  : (irqUpdate s).pwr = s.pwr := by unfold irqUpdate; simp
@[simp] theorem irqUpdate_hif (s : State)  : (irqUpdate s).hif = s.hif := by unfold irqUpdate; simp
@[simp] theorem irqUpdate_pmc (s : State)  : (irqUpdate s).pmc = s.pmc := by unfold irqUpdate; simp
@[simp] theorem irqUpdate_prt (s : State)  : (irqUpdate s).prt = s.prt := by unfold irqUpdate; simp
@[simp] theorem irqUpdate_ticks (s : State)  : (irqUpdate s).ticks = s.ticks := by unfold irqUpdate; simp
@[simp] theorem irqUpdate_free (s : State)  : (irqUpdate s).free = s.free := by unfold irqUpdate; simp
@[simp] theorem irqUpdate_pending (s : State)  : (irqUpdate s).pending = s.pending := by unfold irqUpdate; simp

/-! ## setErr -/

@[simp] theorem setErr_fuses (s : State) (g : FieldRef) (i f : Nat) : (setErr s g i f).fuses = s.fuses := by unfold setErr; simp
@[simp] theorem setErr_cp (s : State) (g : FieldRef) (i f : Nat) : (setErr s g i f).cp = s.cp := by unfold setErr; simp
@[simp] theorem setErr_ctx (s : State) (g : FieldRef) (i f : Nat) : (setErr s g i f).ctx = s.ctx := by unfold setErr; simp
@[simp] theorem setErr_hop (s : State) (g : FieldRef) (i f : Nat) : (setErr s g i f).hop = s.hop := by unfold setErr; simp
@[simp] theorem setErr_wsp (s : State) (g : FieldRef) (i f : Nat) : (setErr s g i f).wsp = s.wsp := by unfold setErr; simp
@[simp] theorem setErr_ntl (s : State) (g : FieldRef) (i f : Nat) : (setErr s g i f).ntl = s.ntl := by unfold setErr; simp
@[simp] theorem setErr_models (s : State) (g : FieldRef) (i f : Nat) : (setErr s g i f).models = s.models := by unfold setErr; simp
@[simp] theorem setErr_tiles (s : State) (g : FieldRef) (i f : Nat) : (setErr s g i f).tiles = s.tiles := by unfold setErr; simp
@[simp] theorem setErr_xch (s : State) (g : FieldRef) (i f : Nat) : (setErr s g i f).xch = s.xch := by unfold setErr; simp
@[simp] theorem setErr_fab (s : State) (g : FieldRef) (i f : Nat) : (setErr s g i f).fab = s.fab := by unfold setErr; simp
@[simp] theorem setErr_flk (s : State) (g : FieldRef) (i f : Nat) : (setErr s g i f).flk = s.flk := by unfold setErr; simp
@[simp] theorem setErr_det (s : State) (g : FieldRef) (i f : Nat) : (setErr s g i f).det = s.det := by unfold setErr; simp
@[simp] theorem setErr_mgt (s : State) (g : FieldRef) (i f : Nat) : (setErr s g i f).mgt = s.mgt := by unfold setErr; simp
@[simp] theorem setErr_pwr (s : State) (g : FieldRef) (i f : Nat) : (setErr s g i f).pwr = s.pwr := by unfold setErr; simp
@[simp] theorem setErr_hif (s : State) (g : FieldRef) (i f : Nat) : (setErr s g i f).hif = s.hif := by unfold setErr; simp
@[simp] theorem setErr_pmc (s : State) (g : FieldRef) (i f : Nat) : (setErr s g i f).pmc = s.pmc := by unfold setErr; simp
@[simp] theorem setErr_prt (s : State) (g : FieldRef) (i f : Nat) : (setErr s g i f).prt = s.prt := by unfold setErr; simp
@[simp] theorem setErr_ticks (s : State) (g : FieldRef) (i f : Nat) : (setErr s g i f).ticks = s.ticks := by unfold setErr; simp
@[simp] theorem setErr_free (s : State) (g : FieldRef) (i f : Nat) : (setErr s g i f).free = s.free := by unfold setErr; simp
@[simp] theorem setErr_pending (s : State) (g : FieldRef) (i f : Nat) : (setErr s g i f).pending = s.pending := by unfold setErr; simp

/-! ## logEntry -/

@[simp] theorem logEntry_fuses (s : State) (b n : Nat) (c : ErrClass) (e : ErrInfo) : (logEntry s b n c e).fuses = s.fuses := by unfold logEntry; dsimp only; split <;> simp
@[simp] theorem logEntry_cp (s : State) (b n : Nat) (c : ErrClass) (e : ErrInfo) : (logEntry s b n c e).cp = s.cp := by unfold logEntry; dsimp only; split <;> simp
@[simp] theorem logEntry_ctx (s : State) (b n : Nat) (c : ErrClass) (e : ErrInfo) : (logEntry s b n c e).ctx = s.ctx := by unfold logEntry; dsimp only; split <;> simp
@[simp] theorem logEntry_hop (s : State) (b n : Nat) (c : ErrClass) (e : ErrInfo) : (logEntry s b n c e).hop = s.hop := by unfold logEntry; dsimp only; split <;> simp
@[simp] theorem logEntry_wsp (s : State) (b n : Nat) (c : ErrClass) (e : ErrInfo) : (logEntry s b n c e).wsp = s.wsp := by unfold logEntry; dsimp only; split <;> simp
@[simp] theorem logEntry_ntl (s : State) (b n : Nat) (c : ErrClass) (e : ErrInfo) : (logEntry s b n c e).ntl = s.ntl := by unfold logEntry; dsimp only; split <;> simp
@[simp] theorem logEntry_models (s : State) (b n : Nat) (c : ErrClass) (e : ErrInfo) : (logEntry s b n c e).models = s.models := by unfold logEntry; dsimp only; split <;> simp
@[simp] theorem logEntry_tiles (s : State) (b n : Nat) (c : ErrClass) (e : ErrInfo) : (logEntry s b n c e).tiles = s.tiles := by unfold logEntry; dsimp only; split <;> simp
@[simp] theorem logEntry_xch (s : State) (b n : Nat) (c : ErrClass) (e : ErrInfo) : (logEntry s b n c e).xch = s.xch := by unfold logEntry; dsimp only; split <;> simp
@[simp] theorem logEntry_fab (s : State) (b n : Nat) (c : ErrClass) (e : ErrInfo) : (logEntry s b n c e).fab = s.fab := by unfold logEntry; dsimp only; split <;> simp
@[simp] theorem logEntry_flk (s : State) (b n : Nat) (c : ErrClass) (e : ErrInfo) : (logEntry s b n c e).flk = s.flk := by unfold logEntry; dsimp only; split <;> simp
@[simp] theorem logEntry_det (s : State) (b n : Nat) (c : ErrClass) (e : ErrInfo) : (logEntry s b n c e).det = s.det := by unfold logEntry; dsimp only; split <;> simp
@[simp] theorem logEntry_mgt (s : State) (b n : Nat) (c : ErrClass) (e : ErrInfo) : (logEntry s b n c e).mgt = s.mgt := by unfold logEntry; dsimp only; split <;> simp
@[simp] theorem logEntry_pwr (s : State) (b n : Nat) (c : ErrClass) (e : ErrInfo) : (logEntry s b n c e).pwr = s.pwr := by unfold logEntry; dsimp only; split <;> simp
@[simp] theorem logEntry_hif (s : State) (b n : Nat) (c : ErrClass) (e : ErrInfo) : (logEntry s b n c e).hif = s.hif := by unfold logEntry; dsimp only; split <;> simp
@[simp] theorem logEntry_pmc (s : State) (b n : Nat) (c : ErrClass) (e : ErrInfo) : (logEntry s b n c e).pmc = s.pmc := by unfold logEntry; dsimp only; split <;> simp
@[simp] theorem logEntry_prt (s : State) (b n : Nat) (c : ErrClass) (e : ErrInfo) : (logEntry s b n c e).prt = s.prt := by unfold logEntry; dsimp only; split <;> simp
@[simp] theorem logEntry_hostOut (s : State) (b n : Nat) (c : ErrClass) (e : ErrInfo) : (logEntry s b n c e).hostOut = s.hostOut := by unfold logEntry; dsimp only; split <;> simp
@[simp] theorem logEntry_ticks (s : State) (b n : Nat) (c : ErrClass) (e : ErrInfo) : (logEntry s b n c e).ticks = s.ticks := by unfold logEntry; dsimp only; split <;> simp
@[simp] theorem logEntry_free (s : State) (b n : Nat) (c : ErrClass) (e : ErrInfo) : (logEntry s b n c e).free = s.free := by unfold logEntry; dsimp only; split <;> simp
@[simp] theorem logEntry_pending (s : State) (b n : Nat) (c : ErrClass) (e : ErrInfo) : (logEntry s b n c e).pending = s.pending := by unfold logEntry; dsimp only; split <;> simp

/-! ## alert -/

@[simp] theorem alert_fuses (s : State) (q c b n : Nat) : (alert s q c b n).fuses = s.fuses := by unfold alert; dsimp only; split <;> (try split) <;> simp
@[simp] theorem alert_cp (s : State) (q c b n : Nat) : (alert s q c b n).cp = s.cp := by unfold alert; dsimp only; split <;> (try split) <;> simp
@[simp] theorem alert_ctx (s : State) (q c b n : Nat) : (alert s q c b n).ctx = s.ctx := by unfold alert; dsimp only; split <;> (try split) <;> simp
@[simp] theorem alert_hop (s : State) (q c b n : Nat) : (alert s q c b n).hop = s.hop := by unfold alert; dsimp only; split <;> (try split) <;> simp
@[simp] theorem alert_wsp (s : State) (q c b n : Nat) : (alert s q c b n).wsp = s.wsp := by unfold alert; dsimp only; split <;> (try split) <;> simp
@[simp] theorem alert_ntl (s : State) (q c b n : Nat) : (alert s q c b n).ntl = s.ntl := by unfold alert; dsimp only; split <;> (try split) <;> simp
@[simp] theorem alert_models (s : State) (q c b n : Nat) : (alert s q c b n).models = s.models := by unfold alert; dsimp only; split <;> (try split) <;> simp
@[simp] theorem alert_tiles (s : State) (q c b n : Nat) : (alert s q c b n).tiles = s.tiles := by unfold alert; dsimp only; split <;> (try split) <;> simp
@[simp] theorem alert_xch (s : State) (q c b n : Nat) : (alert s q c b n).xch = s.xch := by unfold alert; dsimp only; split <;> (try split) <;> simp
@[simp] theorem alert_fab (s : State) (q c b n : Nat) : (alert s q c b n).fab = s.fab := by unfold alert; dsimp only; split <;> (try split) <;> simp
@[simp] theorem alert_flk (s : State) (q c b n : Nat) : (alert s q c b n).flk = s.flk := by unfold alert; dsimp only; split <;> (try split) <;> simp
@[simp] theorem alert_det (s : State) (q c b n : Nat) : (alert s q c b n).det = s.det := by unfold alert; dsimp only; split <;> (try split) <;> simp
@[simp] theorem alert_pwr (s : State) (q c b n : Nat) : (alert s q c b n).pwr = s.pwr := by unfold alert; dsimp only; split <;> (try split) <;> simp
@[simp] theorem alert_hif (s : State) (q c b n : Nat) : (alert s q c b n).hif = s.hif := by unfold alert; dsimp only; split <;> (try split) <;> simp
@[simp] theorem alert_pmc (s : State) (q c b n : Nat) : (alert s q c b n).pmc = s.pmc := by unfold alert; dsimp only; split <;> (try split) <;> simp
@[simp] theorem alert_prt (s : State) (q c b n : Nat) : (alert s q c b n).prt = s.prt := by unfold alert; dsimp only; split <;> (try split) <;> simp
@[simp] theorem alert_ticks (s : State) (q c b n : Nat) : (alert s q c b n).ticks = s.ticks := by unfold alert; dsimp only; split <;> (try split) <;> simp
@[simp] theorem alert_free (s : State) (q c b n : Nat) : (alert s q c b n).free = s.free := by unfold alert; dsimp only; split <;> (try split) <;> simp
@[simp] theorem alert_pending (s : State) (q c b n : Nat) : (alert s q c b n).pending = s.pending := by unfold alert; dsimp only; split <;> (try split) <;> simp

/-! ## stopFatal -/

@[simp] theorem stopFatal_fuses (s : State)  : (stopFatal s).fuses = s.fuses := rfl
@[simp] theorem stopFatal_regs (s : State)  : (stopFatal s).regs = s.regs := rfl
@[simp] theorem stopFatal_counters (s : State)  : (stopFatal s).counters = s.counters := rfl
@[simp] theorem stopFatal_ctx (s : State)  : (stopFatal s).ctx = s.ctx := rfl
@[simp] theorem stopFatal_hop (s : State)  : (stopFatal s).hop = s.hop := rfl
@[simp] theorem stopFatal_wsp (s : State)  : (stopFatal s).wsp = s.wsp := rfl
@[simp] theorem stopFatal_ntl (s : State)  : (stopFatal s).ntl = s.ntl := rfl
@[simp] theorem stopFatal_models (s : State)  : (stopFatal s).models = s.models := rfl
@[simp] theorem stopFatal_tiles (s : State)  : (stopFatal s).tiles = s.tiles := rfl
@[simp] theorem stopFatal_xch (s : State)  : (stopFatal s).xch = s.xch := rfl
@[simp] theorem stopFatal_fab (s : State)  : (stopFatal s).fab = s.fab := rfl
@[simp] theorem stopFatal_flk (s : State)  : (stopFatal s).flk = s.flk := rfl
@[simp] theorem stopFatal_det (s : State)  : (stopFatal s).det = s.det := rfl
@[simp] theorem stopFatal_mgt (s : State)  : (stopFatal s).mgt = s.mgt := rfl
@[simp] theorem stopFatal_pwr (s : State)  : (stopFatal s).pwr = s.pwr := rfl
@[simp] theorem stopFatal_hif (s : State)  : (stopFatal s).hif = s.hif := rfl
@[simp] theorem stopFatal_pmc (s : State)  : (stopFatal s).pmc = s.pmc := rfl
@[simp] theorem stopFatal_prt (s : State)  : (stopFatal s).prt = s.prt := rfl
@[simp] theorem stopFatal_hostOut (s : State)  : (stopFatal s).hostOut = s.hostOut := rfl
@[simp] theorem stopFatal_ticks (s : State)  : (stopFatal s).ticks = s.ticks := rfl
@[simp] theorem stopFatal_free (s : State)  : (stopFatal s).free = s.free := rfl
@[simp] theorem stopFatal_pending (s : State)  : (stopFatal s).pending = s.pending := rfl

/-! ## raiseErr -/

@[simp] theorem raiseErr_fuses (s : State) (g : FieldRef) (i : Nat) (c : ErrClass) (e : ErrInfo) : (raiseErr s g i c e).fuses = s.fuses := by unfold raiseErr; dsimp only; split <;> split <;> (try split) <;> simp
@[simp] theorem raiseErr_ctx (s : State) (g : FieldRef) (i : Nat) (c : ErrClass) (e : ErrInfo) : (raiseErr s g i c e).ctx = s.ctx := by unfold raiseErr; dsimp only; split <;> split <;> (try split) <;> simp
@[simp] theorem raiseErr_hop (s : State) (g : FieldRef) (i : Nat) (c : ErrClass) (e : ErrInfo) : (raiseErr s g i c e).hop = s.hop := by unfold raiseErr; dsimp only; split <;> split <;> (try split) <;> simp
@[simp] theorem raiseErr_wsp (s : State) (g : FieldRef) (i : Nat) (c : ErrClass) (e : ErrInfo) : (raiseErr s g i c e).wsp = s.wsp := by unfold raiseErr; dsimp only; split <;> split <;> (try split) <;> simp
@[simp] theorem raiseErr_ntl (s : State) (g : FieldRef) (i : Nat) (c : ErrClass) (e : ErrInfo) : (raiseErr s g i c e).ntl = s.ntl := by unfold raiseErr; dsimp only; split <;> split <;> (try split) <;> simp
@[simp] theorem raiseErr_models (s : State) (g : FieldRef) (i : Nat) (c : ErrClass) (e : ErrInfo) : (raiseErr s g i c e).models = s.models := by unfold raiseErr; dsimp only; split <;> split <;> (try split) <;> simp
@[simp] theorem raiseErr_tiles (s : State) (g : FieldRef) (i : Nat) (c : ErrClass) (e : ErrInfo) : (raiseErr s g i c e).tiles = s.tiles := by unfold raiseErr; dsimp only; split <;> split <;> (try split) <;> simp
@[simp] theorem raiseErr_xch (s : State) (g : FieldRef) (i : Nat) (c : ErrClass) (e : ErrInfo) : (raiseErr s g i c e).xch = s.xch := by unfold raiseErr; dsimp only; split <;> split <;> (try split) <;> simp
@[simp] theorem raiseErr_fab (s : State) (g : FieldRef) (i : Nat) (c : ErrClass) (e : ErrInfo) : (raiseErr s g i c e).fab = s.fab := by unfold raiseErr; dsimp only; split <;> split <;> (try split) <;> simp
@[simp] theorem raiseErr_flk (s : State) (g : FieldRef) (i : Nat) (c : ErrClass) (e : ErrInfo) : (raiseErr s g i c e).flk = s.flk := by unfold raiseErr; dsimp only; split <;> split <;> (try split) <;> simp
@[simp] theorem raiseErr_det (s : State) (g : FieldRef) (i : Nat) (c : ErrClass) (e : ErrInfo) : (raiseErr s g i c e).det = s.det := by unfold raiseErr; dsimp only; split <;> split <;> (try split) <;> simp
@[simp] theorem raiseErr_pwr (s : State) (g : FieldRef) (i : Nat) (c : ErrClass) (e : ErrInfo) : (raiseErr s g i c e).pwr = s.pwr := by unfold raiseErr; dsimp only; split <;> split <;> (try split) <;> simp
@[simp] theorem raiseErr_hif (s : State) (g : FieldRef) (i : Nat) (c : ErrClass) (e : ErrInfo) : (raiseErr s g i c e).hif = s.hif := by unfold raiseErr; dsimp only; split <;> split <;> (try split) <;> simp
@[simp] theorem raiseErr_pmc (s : State) (g : FieldRef) (i : Nat) (c : ErrClass) (e : ErrInfo) : (raiseErr s g i c e).pmc = s.pmc := by unfold raiseErr; dsimp only; split <;> split <;> (try split) <;> simp
@[simp] theorem raiseErr_prt (s : State) (g : FieldRef) (i : Nat) (c : ErrClass) (e : ErrInfo) : (raiseErr s g i c e).prt = s.prt := by unfold raiseErr; dsimp only; split <;> split <;> (try split) <;> simp
@[simp] theorem raiseErr_ticks (s : State) (g : FieldRef) (i : Nat) (c : ErrClass) (e : ErrInfo) : (raiseErr s g i c e).ticks = s.ticks := by unfold raiseErr; dsimp only; split <;> split <;> (try split) <;> simp
@[simp] theorem raiseErr_free (s : State) (g : FieldRef) (i : Nat) (c : ErrClass) (e : ErrInfo) : (raiseErr s g i c e).free = s.free := by unfold raiseErr; dsimp only; split <;> split <;> (try split) <;> simp
@[simp] theorem raiseErr_pending (s : State) (g : FieldRef) (i : Nat) (c : ErrClass) (e : ErrInfo) : (raiseErr s g i c e).pending = s.pending := by unfold raiseErr; dsimp only; split <;> split <;> (try split) <;> simp

/-! ## What the shared operations do -/

/-- A counter that is counted rises by `n` and stops at 48 ones; every other counter stays (R575). -/
theorem counter_count (s : State) (b c n b' c' : Nat) (hc : c < 32) (hc' : c' < 32) (hs : counter s b c < 2 ^ 48) :
    counter (count s b c n) b' c' =
      if b' = b ∧ c' = c then min (2 ^ 48 - 1) (counter s b c + n) else counter s b' c' := by
  unfold count
  split
  · rename_i hn
    subst hn
    split
    · rename_i h; obtain ⟨rfl, rfl⟩ := h; omega
    · rfl
  · simp only [counter, lookupD]
    split
    · rename_i h; obtain ⟨rfl, rfl⟩ := h; simp
    · rename_i h
      rw [lookup_insertK_ne]
      omega

/-- A block's tile after a change of one tile. -/
theorem tile_modTile (s : State) (t t' : Nat) (f : Tile → Tile) :
    (s.modTile t f).tile t' = if t' = t then f (s.tile t) else s.tile t' := by
  simp only [State.tile, lookupD, State.modTile_tiles]
  split
  · rename_i h; subst h; simp
  · rename_i h; rw [lookup_insertK_ne _ _ h]

/-- An open command after a change of one command. -/
theorem cmd_setCmd (s : State) (q q' : Nat) (c : OpenCmd) :
    (s.setCmd q c).cmd q' = if q' = q then some c else s.cmd q' := by
  simp only [State.cmd, State.setCmd_cp]
  split
  · rename_i h; subst h; simp
  · rename_i h; rw [lookup_insertK_ne _ _ h]

/-- A context after a change of one context. -/
theorem context_setContext (s : State) (i i' : Nat) (c : Ctx) :
    (s.setContext i c).context i' = if i' = i then some c else s.context i' := by
  simp only [State.context, State.setContext_ctx]
  split
  · rename_i h; subst h; simp
  · rename_i h; rw [lookup_insertK_ne _ _ h]

/-- A port after a change of one port. -/
theorem port_setPort (s : State) (p p' : Nat) (x : Port) :
    (s.setPort p x).port p' = if p' = p then x else s.port p' := by
  simp only [State.port, lookupD, State.setPort_fab]
  split
  · rename_i h; subst h; simp
  · rename_i h; rw [lookup_insertK_ne _ _ h]

/-- The error interrupt only adds items to what has been sent to the host (R500). -/
theorem irqUpdate_hostOut (s : State) : ∃ sent, (irqUpdate s).hostOut = s.hostOut ++ sent ∧
    ∀ x ∈ sent, x = HostOut.msi 0 (fld s Fld.RAS_IRQ_CFG_VECTOR) := by
  unfold irqUpdate
  simp only [count_hostOut]
  refine ⟨_, rfl, ?_⟩
  split
  · intro x hx
    obtain ⟨_, _, rfl⟩ := List.mem_map.1 hx
    rfl
  · intro x hx; cases hx

/-- The error interrupt remembers the status it reported (R500). -/
theorem irqUpdate_ras (s : State) : (irqUpdate s).ras = { s.ras with irqSeen := irqStatus s } := by
  simp [irqUpdate]

/-- An error of a class below 6 leaves command processing as it is (R497). -/
theorem raiseErr_cp (s : State) (g : FieldRef) (i : Nat) (c : ErrClass) (e : ErrInfo) :
    (raiseErr s g i c e).cp =
      if c = .fatal then { s.cp with cores := { s.cp.cores with stopped := true } } else s.cp := by
  unfold raiseErr
  dsimp only
  by_cases h : c = .fatal
  · subst h; simp [stopFatal]
  · simp only [h, if_false]
    split <;> (try split) <;> simp

end Sys2Proof.Machine
end

