-- ==== Sys2Proof/Tests/Slice0.lean ====
section
/-!
SUPPORT. Small tests, and for every statement with hypotheses a state and operands that meet them, clause by clause.
-/
set_option Elab.async false
namespace Sys2Proof.Tests
open Sys2Proof Sys2Proof.Machine

/-! ## States -/

/-- The module once its bring-up has ended. -/
def up : State := { State.reset with pwr := { State.reset.pwr with reset := none } }

/-- A module without standby power. -/
def unpowered : State := { State.reset with pwr := { State.reset.pwr with standbyOn := false, mainOn := false } }

/-- `s` with its one open command, number 5: ready, of opcode `op`, with the other packet bits `bits`. -/
def opened (s : State) (op : Nat) (bits : Nat := 0) (payload : Option (List Byte) := none) (phase : Phase := .ready) : State :=
  { s with cp := { s.cp with cmds := [(5, { pkt := BitVec.ofNat 512 (op * 2 ^ 16 + bits), phase, payload })] } }

/-- Command 5. -/
def theCmd (s : State) : OpenCmd := (s.cmd 5).getD {}

/-- Queues 0 of function 0. -/
def theSq (s : State) : Sq := (s.sq 0 0).getD {}
def theCq (s : State) : Cq := (s.cq 0 0).getD {}

/-- `s` with context 0. -/
def withCtx (s : State) (x : Ctx := {}) : State := { s with ctx := { s.ctx with table := [(0, x)] } }

/-- `s` with page `q`. -/
def withPage (s : State) (q : Nat) (d : Page) : State := { s with wsp := { s.wsp with pages := insertK q d s.wsp.pages } }

/-- `s` with pool 1 of function 0. -/
def withPool (s : State) (p : Pool) : State := { s with hop := { s.hop with pools := [(poolKey 0 1, p)] } }

/-- Journaling is stalled: the ring holds no more than its entries in use leave. -/
def stalled : State :=
  setRaw (setFld { up with cp := { up.cp with journal := { up.cp.journal with ring := List.replicate 16384 { seq := 1 } } } }
    Fld.JRN_CTL_STALL_ON_FULL 1) Reg.JRN_BASE 0 0 (21 * 2 ^ 40)

/-- A NOP's packet, in the packet format's version 1.0. -/
def nopPacket : Packet := 0x1

/-- JOURNAL_FETCH with a flush image of one entry. -/
def flushed : State :=
  let s := opened up 0x0A
  { s with cp := { s.cp with nand := { s.cp.nand with flushEpoch := 1, image := [{}] } } }

/-- CTX_CREATE of context 0, whose state area is a page of DRAM with PIN. -/
def newContext : State :=
  withPage (opened up 0x20 0 (some (leBytes 64 (2 ^ 136 + 2 ^ 150)))) 0 { pin := true }

/-- A module with group 1, of one member. -/
def withGroup (s : State) (g : Group := {}) : State := { s with xch := { s.xch with groups := [(groupKey (curEpoch s) 1, g)] } }

/-- STREAM_OPEN of stream 0 of context 0 with group 1 and pool 1. -/
def streamWithGroup : State :=
  withGroup (withPool (withCtx (opened up 0x22 (2 ^ 192 + 2 ^ 224 + 2 ^ 240 + 2 ^ 256))) { count := 4, bufBytes := 1048576 }) { expert := true }

/-- `s` with model 0 loaded. -/
def withModel (s : State) : State := { s with models := [(0, {})] }

/-- The packet bits `v` at byte `b` of a command. -/
def at_ (b v : Nat) : Nat := v * 2 ^ (8 * b)

/-- The smallest image: one tile, one kernel of one word, which is END. -/
def image : List Byte :=
  leBytes 4 1 ++ leBytes 4 256 ++ leBytes 8 3 ++ List.replicate 48 0 ++
  leBytes 16 (1 + 112 * 2 ^ 32 + 8 * 2 ^ 64) ++ leBytes 16 (2 + 120 * 2 ^ 32 + 8 * 2 ^ 64) ++
  leBytes 16 (6 + 128 * 2 ^ 32 + 24 * 2 ^ 64) ++ leBytes 8 0x16 ++ leBytes 8 (2 ^ 16) ++ leBytes 24 1 ++ List.replicate 104 0

/-- LOAD_PROGRAM with `bs` as its image and with logical tile 0 mapped. -/
def loading (bs : List Byte) : State :=
  let s := opened up 0x60 (at_ 32 256 + at_ 36 1 + at_ 40 2) (some bs)
  { s with ras := { s.ras with l2p := [(0, 0)] } }

/-- PACK or UNPACK of one row of 32 elements from page 0 to page 1. -/
def packing (op : Nat) (d : Page := {}) : State :=
  withPage (withPage (opened up op (at_ 32 (2 ^ 21) + at_ 40 32 + at_ 44 1)) 0 d) 1 {}

/-- `s` with its endpoint valid. -/
def withEndpoint (s : State) : State := setFld s Fld.XRT_EP_VALID 1

/-- `s` with image 1 on logical tile 0: one kernel of one word, and a binding `b`. -/
def withImage (s : State) (b : Binding := {}) : State :=
  let p : Program := { id := 1, code := [0x16], entries := [{ words := 1 }], bindings := [b], tiles := [0] }
  { s with tiles := [(0, { rowOn := true, clkOn := true, bank0 := { prog := some p } })]
           ras := { s.ras with l2p := [(0, 0)] } }

/-- STEP or STEP_EMPTY (`op`) of layer 0 of image 1, from page 0 to itself, for stream 0 of context 0, which is `x`, with binding `b`. -/
def stepping (op : Nat) (x : Stream := {}) (b : Binding := {}) : State :=
  withImage (withPage (withCtx (opened up op (at_ 32 8 + at_ 42 1)) { streams := [(0, x)] }) 0 {}) b

/-- GROUP_CREATE of group 1 with this module as its one member, its member list in page 0. -/
def creating : State :=
  withPage (opened up 0xA0 0 (some (leBytes 64 (1 + at_ 4 1 + at_ 16 60000 + at_ 23 1)))) 0 {}

/-- `s` with layer step 5. -/
def withStep (s : State) (x : LStep := {}) : State := { s with xch := { s.xch with steps := [(5, x)] } }

/-- A queued layer step of a running stream, with its pages. -/
def queuedStep : State := withStep (withPage (withCtx up { streams := [(0, { state := .running })] }) 0 {})

/-- Of MULTICAST, with group 0. -/
def mcasting : State :=
  let s := opened up 0xCA
  { s with fab := { s.fab with mcast := [(0, {})] } }

/-- REMOTE_WRITE with every transaction ID in use. -/
def noTids : State :=
  let s := withEndpoint (opened up 0xD4)
  { s with fab := { s.fab with tids := (upFrom 0 256).map fun i => (i, 0) } }

/-- A context whose stream 0 waits. -/
def waitingStream : State := withCtx up { streams := [(0, { state := .waiting })] }

/-- The state that a binding of `s`'s first waiting stream gives. -/
def schedule (s : State) : State := ((scheduleFirst s (waitingStreams s)).map Prod.snd).getD s

/-- The module Stoked. -/
def stoked0 : State := setFld up Fld.PWR_STATUS_STATE 1

/-- The module in group 1, alone. -/
def stokedGroup : State := withGroup stoked0 { members := [0] }

/-- The same, with layer step 5. -/
def memberStep (x : LStep) : State := withStep stokedGroup x

/-- Layer step 5 in the routing engines, with group 1. -/
def routingStep (x : LStep) (g : Group) : State :=
  let s := withStep (withGroup up g) x
  { s with xch := { s.xch with routing := some 5 } }

/-- The same where an ABORT for it has been kept. -/
def abortKept : State :=
  let s := routingStep { stage := .scoring, group := 1 } {}
  { s with xch := { s.xch with aborts := [{ group := 1 }] } }

/-- Layer step 5 parked. -/
def parkedStep (x : LStep) : State :=
  let s := withStep up x
  { s with xch := { s.xch with parked := [5] } }

/-- Tile 0 runs a program of one word with kernel `k`. -/
def standing (w : Word) (k : Kernel := {}) (x : Tile := {}) : State :=
  { up with tiles := [(0, { x with rowOn := true, clkOn := true, bank0 := { prog := some { id := 1, code := [w] } }, kernel := some k })] }

/-- The program of that tile. -/
def oneWord (w : Word) : Program := { id := 1, code := [w] }

/-- `up` with tile 0. -/
def withTile (x : Tile) : State := { up with tiles := [(0, x)] }

/-- A tile that runs. -/
def running : Tile := { rowOn := true, clkOn := true }

/-- A kernel whose register 1 holds `v`. -/
def regOne (v : Word) : Kernel := { regs := [(1, v)] }

/-- The module with a wait of die 0's pool 0. -/
def waitingPool : State := { up with hop := { up.hop with waiting := [(0, 5)] } }

/-- A queue of `n` commands of engine `e`. -/
def full (n e : Nat) : List EngCmd := List.replicate n { engine := e }

/-- `up` with the journal's entry `e` not yet durable. -/
def notDurable (e : JEntry) : State :=
  { up with cp := { up.cp with journal := { up.cp.journal with ring := [e], notDurable := [e.seq] } } }

/-- `up` with a queued move of page 0, which is in NAND only. -/
def fetchingPage (k : MoveKind) (d : Page := { tier := 0 }) (full : Bool := false) : State :=
  let s := withPage up 0 d
  { s with wsp := { s.wsp with moves := [{ kind := k }], failed := if full then upFrom 0 24 else [] } }

/-- A model's pour list of one STAGE entry of 8 bytes, on tile 0, which has its region. -/
def stagingTile : State :=
  let s := withPage (withTile { running with bank0 := { prog := some { id := 1, regions := [{ kind := 4, len := 8 }] } } }) 0 {}
  { s with wsp := { s.wsp with pour := [(0, { entries := [{ len := 8 }] })], staged := [(0, {})] }
           ras := { s.ras with l2p := [(0, 0)] } }

/-- Port 0, which leads to position 1, in a state of FAB_PORT_STATUS, as `x`. -/
def portIn (st : Nat) (x : Port := {}) : State :=
  let s := setRaw (setRaw (setFld up Fld.FAB_PORT_STATUS_STATE st 0) Reg.XRT_PORT_ROLE 0 0 1) Reg.XRT_LTBL 1 0 0
  { s with fab := { s.fab with ports := [(0, x)] } }

/-- A grade S part. -/
def gradeS : State := { up with fuses := { up.fuses with grade := 2 } }

/-- `b` and its CRC, off by `d`. -/
def closed (b : List Byte) (d : Nat) : List Byte := b ++ leBytes 4 (crc32c b + d)

theorem closed_good (b : List Byte) (h : b.length = 636) : crc32c ((closed b 0).take 636) = leNat (((closed b 0).drop 636).take 4) := by
  have hc := crc32c_lt b
  rw [closed, ← h, List.take_left, List.drop_left, List.take_of_length_le (by simp), leNat_leBytes]
  generalize crc32c b = c at hc ⊢
  omega

theorem closed_bad (b : List Byte) (h : b.length = 636) : crc32c ((closed b 1).take 636) ≠ leNat (((closed b 1).drop 636).take 4) := by
  have hc := crc32c_lt b
  rw [closed, ← h, List.take_left, List.drop_left, List.take_of_length_le (by simp), leNat_leBytes]
  generalize crc32c b = c at hc ⊢
  omega

/-- A flit with header `h`, its CRC off by `d`. -/
def flit (h d : Nat) : List Byte := closed (leBytes 636 h) d

theorem flit_length (h d : Nat) : (flit h d).length = 640 := by simp [flit, closed]

theorem flit_good (h : Nat) : crc32c ((flit h 0).take 636) = leNat (((flit h 0).drop 636).take 4) := closed_good _ (leBytes_length _ _)

theorem flit_bad (h : Nat) : crc32c ((flit h 1).take 636) ≠ leNat (((flit h 1).drop 636).take 4) := closed_bad _ (leBytes_length _ _)

/-- The endpoint is valid, and one packet waits for injection. -/
def injecting (o : Outgoing) (valid : Bool := true) : State :=
  let s := if valid then withEndpoint up else up
  { s with fab := { s.fab with inject := [o] } }

/-- One packet is in an input buffer; port 0 is in state `st`, as `x`. -/
def routing (a : Arrived) (st : Nat := 0) (x : Port := {}) : State :=
  let s := portIn st x
  { s with fab := { s.fab with input := [a] } }

/-- One sent packet of the flow to endpoint 0. -/
def sentOne (x : Sent) : State :=
  let s := withEndpoint up
  { s with fab := { s.fab with tx := [(0, { sent := [x] })] } }

/-- One flow entry. -/
def received (f : RxFlow) : State :=
  let s := withEndpoint up
  { s with fab := { s.fab with rx := [(0, f)] } }

/-- A flask of two members, this one rank 0. -/
def inAFlask (ph : JoinPhase := .member) : State :=
  let s := withEndpoint (setFld up Fld.PWR_STATUS_STATE 1)
  { s with flk := { s.flk with phase := ph, members := [0, 1] } }

/-- Line 0 of rank 1 is held in M here. -/
def holdingLine : State := { inAFlask with flk := { inAFlask.flk with cache := [(2 ^ 28, { modified := true })] } }

/-- Line 0 of rank 1 was given up to its home's first RECALL. -/
def gaveLine : State := { inAFlask with flk := { inAFlask.flk with given := [(256, (0, []))] } }

/-- Its first message of an operation from rank 1. -/
def fromOne (op : Nat) : RmIn := { src := 1, tc := 0, slice := 0, seq := 0, epoch := 0, rm := { op, rank := 1 } }

/-- A REMOTE message of an operation from endpoint 1, on page 0. -/
def remoteIn (op : Nat) (addr : Nat := 0) (tid : Nat := 0) (dlen : Nat := 0) : RmIn :=
  { src := 1, tc := 0, slice := 0, seq := 0, epoch := 0, rm := { op, addr, tid, dlen } }

/-- The module with a valid endpoint and page 0. -/
def target : State := withPage (withEndpoint (setFld up Fld.PWR_STATUS_STATE 1)) 0 {}

/-- The same with line 0 poisoned. -/
def poisonedTarget : State := { target with flk := { target.flk with poisoned := [0] } }

/-- Remote command 5 is open toward endpoint 1, with transaction ID 0. -/
def asking : State :=
  let s := opened (withEndpoint (setFld up Fld.PWR_STATUS_STATE 1)) 0xD5 0 none .working
  { s with fab := { s.fab with tids := [(256, 5)], remotes := [(5, { dest := 1, op := 2, wanted := [(0, (0, 8))] })] } }

/-- MULTICAST 5 is under way, with group entries `t`. -/
def sending (t : List (Nat × McastEntry)) : State :=
  let s := opened up 0xCA 0 none .working
  { s with fab := { s.fab with mcastOut := [(5, {})], mcast := t } }

/-- VADD of two FP32 operands, of 4 bytes and of 8. -/
def unequal : Word := BitVec.ofNat 64 (0x14 + 2 * 2 ^ 27 + 7 * 2 ^ 38 + 7 * 2 ^ 42)
def twoOperands : Program :=
  { id := 1, code := [unequal, 0, 0x2100], const := leBytes 16 (4 * 2 ^ 64) ++ leBytes 16 (8 * 2 ^ 64) }

/-- One packet waits in the shaper. -/
def holding : State := { withEndpoint up with fab := { up.fab with held := [{}] } }

/-- A DATA packet to endpoint 0 without a payload, and its bytes. -/
def dataPkt : XlPkt := {}
def mcastPkt : XlPkt := { proto := 3, mcast := true }

/-- The endpoint is valid, and policer 0 holds every class back. -/
def policed : State :=
  setRaw (setFld (withEndpoint up) Fld.SHP_POL_OVH_TC_MASK 255 0) Reg.SHP_POL_CFG 0 0 (2 ^ 40)

/-- A JOIN of rank 1. -/
def joinMsg : JoinMsg :=
  { src := 1, epoch := 0, flask := 0, count := 2, digest := listDigest [0, 1], major := 1, minor := 0 }

/-- A flask with an open transaction toward rank 1. -/
def requesting (x : FlaskTxn) : State :=
  let s := inAFlask
  { s with flk := { s.flk with txns := [(256, x)] } }

/-- A power sample with nothing hot. -/
def coolSample : PowerSample := {}

/-- Powered by `d` and in power state `st`. -/
def poweredAs (st d : Nat) : State := setFld (setFld up Fld.PWR_STATUS_STATE st) Fld.PWR_DOMAINS_ON d

/-- What a string of no bytes reads as. -/
def badHeader : XlPkt := match parsePkt [] with | .hdrBad p => p | _ => {}

/-- A flask whose rank 1 shares line 0 of this module's window. -/
def sharedLine : State :=
  let s := withPage inAFlask 0 {}
  { s with flk := { s.flk with dir := [(0, { sharers := [1] })], minor := 2 } }

/-- Bring-up has ended and the link may be used. -/
def ready : State := setFld up Fld.RST_STATUS_READY 1

/-- A tile in service. -/
def inService (x : Tile := {}) : State := { withTile x with ras := { up.ras with roles := [(0, .inService)] } }

/-- A failed tile that passed its test, with the logical tiles of `m`. -/
def repaired (m : Table Nat) : State := { up with ras := { up.ras with roles := [(0, .failed)], testPassed := [0], l2p := m } }

/-- A tile that is a spare, tested in the background. -/
def spare : State :=
  let s := setFld up Fld.RAS_CTL_SPARE_TEST_EN 1
  { s with ras := { s.ras with roles := [(0, .spare)], l2p := [] } }

/-- Replay is to feed the record of a NOP to SQ 0. -/
def feedOne : State :=
  let e : RecEntry := { kind := 2, body := 1 }
  { up with det := { up.det with state := 2, ring := [e] } }

/-- The collector collects into page 0. -/
def collecting : State :=
  let s := setFld (setFld (withPage up 0 { pin := true }) Fld.PMC_CTL_COLLECT 1) Fld.PMC_RING_PAGES 1
  setFld s Fld.PMC_STATUS_STATE 1

/-- The collector's ring names a page that is not mapped. -/
def badRing : State := setFld up Fld.PMC_RING_PAGES 1

/-- The module with address 1 on the chain. -/
def onChain : State := setFld up Fld.MGT_CHAIN_ADDR 1

/-- A frame from address 0 to address 2, without a payload. -/
def frameToTwo : List Byte := sealFrame [2, 0, 0, 0, 0, 0, 0x10, 0]

/-- The module with one alert that has been sent `n` times. -/
def alerting (n : Nat) : State :=
  let s := setFld onChain Fld.MGT_CTL_ALERT_EN 1
  { s with mgt := { s.mgt with alerts := [{ repeats := n }] } }

/-- An SPDM connection of endpoint 8 over the chain. -/
def connected (c : SpdmConn) : State := { up with ras := { up.ras with spdm := [c] } }

/-- A connection that is settled. -/
def settled : SpdmConn := { eid := 8, version := 12, caps := true, algs := true }

/-- A program of one STEP kernel of one word. -/
def kernelProgram : Program := { id := 1, code := [0x16], entries := [{ words := 1 }] }

/-- A work item of it waits on tile 0. -/
def itemWaits : State :=
  { withTile { running with bank0 := { prog := some kernelProgram }, items := [{ image := 1 }] } with ras := { up.ras with l2p := [(0, 0)] } }

/-- The state that an outcome answers. -/
def after : Out → State
  | .next t => t
  | _ => up

theorem after_eq {o : Out} (h : Answers o) : o = .next (after o) := by
  obtain ⟨t, rfl⟩ := h
  rfl

/-- A packed 2:4 block with good metadata and scale bytes 0xFF. -/
def packedNan : List Byte := List.replicate 128 0 ++ List.replicate 32 0x44 ++ List.replicate 8 0xFF

theorem lookup_const {α : Type} (d : α) : ∀ (n a k : Nat), a ≤ k → k < a + n → lookup k ((upFrom a n).map fun i => (i, d)) = some d
  | 0, _, _, h, h' => by omega
  | n + 1, a, k, h, h' => by
    by_cases e : k = a
    · simp [upFrom, lookup, e]
    · simpa [upFrom, lookup, e] using lookup_const d n (a + 1) k (by omega) (by omega)

theorem mem_upFrom : ∀ (n a k : Nat), k ∈ upFrom a n → a ≤ k ∧ k < a + n
  | 0, _, _, h => by simp [upFrom] at h
  | n + 1, a, k, h => by
    rcases List.mem_cons.mp h with rfl | h
    · omega
    · have := mem_upFrom n (a + 1) k h
      omega

/-- FLASK_JOIN of this module alone, with a window of mapped pages. -/
def joining : State :=
  let s := withEndpoint (opened up 0xD0 (at_ 40 (2 ^ 36)) (some (leBytes 4 0)))
  { s with wsp := { s.wsp with pages := (upFrom 32768 32768).map fun q => (q, {}) } }

theorem joining_mapped : firstUnmapped joining 0 (2 ^ 36) windowBytes = none := by
  have hp : pagesOf (2 ^ 36) windowBytes = upFrom 32768 32768 := by
    rw [pagesOf, if_neg (by decide)]
    rfl
  have hb : jrnBase joining = 68652367872 := by decide +kernel
  have hs : jrnSize joining = 67108864 := by decide +kernel
  have h0 : fld joining Fld.HIF_FN_WSP_PAGE_BASE 0 = 0 := by decide +kernel
  have hc : fld joining Fld.HIF_FN_WSP_PAGE_COUNT 0 = 134217728 := by decide +kernel
  rw [firstUnmapped, hp]
  refine List.find?_eq_none.mpr fun q hq => ?_
  obtain ⟨hq0, hq⟩ := mem_upFrom _ _ _ hq
  have hl : joining.page q = some {} := lookup_const _ _ _ _ hq0 hq
  simp [pageFor, hl, jrnPage, rangesMeet, hb, hs, fnPageOwns, h0, hc, pageBytes]
  omega

/-- JOURNAL_FLUSH is at work while the ring is full. -/
def flushing : State :=
  let s := opened up 0x09 0 none .working
  setRaw { s with cp := { s.cp with journal := { s.cp.journal with ring := List.replicate 16384 { seq := 1 } } } }
    Reg.JRN_BASE 0 0 (21 * 2 ^ 40)

/-- A packet of a queue that is gone waits. -/
def orphaned : State := { up with cp := { up.cp with orphans := [{ pkt := nopPacket }] } }

/-- Command 6 of administration behind another. -/
def laterCmd : OpenCmd := { pkt := BitVec.ofNat 512 (0x03 * 2 ^ 16), phase := .ready }
def fencedOff : State := { up with cp := { up.cp with cmds := [(5, { laterCmd with phase := .working }), (6, laterCmd)] } }

/-- The member's module with `g` in pool 0's buffers given out, and `w` waiting. -/
def staging (g : Nat × Nat) (w : List (Nat × Nat)) : State :=
  { stokedGroup with hop := { stokedGroup.hop with pool0Given := [g], waiting := w } }

/-- Command processing has stopped. -/
def halted : State := { up with cp := { up.cp with cores := { up.cp.cores with stopped := true } } }

/-- A STEP of stream 0 is to commit. -/
def committing : State := withCtx up { streams := [(0, { state := .running, stepSeq := 5 })] }
def committed : State :=
  let c := theCmd (opened up 0x80)
  count (commitOp (commitWrites (recordLate committing 5 c) false c.writes c.written) 5 c) bankCp 3

/-- Frame 0 of stack 0 holds page 0. -/
def framed : State := { stoked0 with wsp := { stoked0.wsp with frames := [(frameKey 0 0, 0)] } }

/-- `s` in a flask in which rank 1 holds line 0 of this module's window in M. -/
def peerOwns (s : State) : State :=
  { s with flk := { s.flk with phase := .member, members := [0, 1], minor := 2, dir := [(0, { owner := some 1 })] } }

/-- Logical tile 0 has a region for the staged entry of 8 bytes that waits there, from page 0, which is `d`. -/
def stagingHere (d : Page) : State :=
  let s := withPage (withTile { running with bank0 := { prog := some { id := 1, regions := [{ kind := 4, len := 8 }] } } }) 0 d
  { s with wsp := { s.wsp with staged := [(0, { entry := { len := 8 } })] }, ras := { s.ras with l2p := [(0, 0)] } }

/-- The same module with group 1, where the last step's record of member 0 is missing. -/
def lateRecord : State := withGroup stoked0 { members := [0], late := some { missing := [0] } }

/-- Tile 0 waits for the first word of rank 1's window, whose line this module holds. -/
def cachedWord : State :=
  { standing 0x022 { stall := .ldw (apertureBase + windowBytes) 1 } with
    flk := { holdingLine.flk with cache := [(2 ^ 28, { data := List.replicate 256 0 })] } }

/-! ## Witnesses: states and operands that meet each statement's hypotheses, clause by clause -/

theorem witness_IdleStepIsOneTick :
    (∃ (s : State), s.pending = [] ∧ s.pwr.standbyOn = true) ∧
    (∃ (s : State), s.pending = [] ∧ s.pwr.standbyOn = false) :=
  ⟨⟨up, by decide +kernel⟩,
   ⟨unpowered, by decide +kernel⟩⟩

theorem witness_StepsKeepMemoryCanonical : ∃ (s : State) (t : State), MemoryCanonical s ∧ step s = .next t :=
  ⟨unpowered, unpowered, ⟨by unfold MemoryCanonical; decide +kernel, rfl⟩⟩

theorem witness_ResetValues :
    (∃ (f : Nat), 1 ≤ f ∧ f < 33) ∧
    (∃ (f : Nat), 1 ≤ f ∧ f < 33) ∧
    (∃ (p : Nat), p < 20) ∧
    (∃ (f : Nat), f < 33) :=
  ⟨⟨1, by decide +kernel⟩,
   ⟨1, by decide +kernel⟩,
   ⟨19, by decide +kernel⟩,
   ⟨32, by decide +kernel⟩⟩

theorem witness_StepsKeepFuses : ∃ (s : State) (t : State), step s = .next t :=
  ⟨unpowered, unpowered, rfl⟩

theorem witness_CommandsKeepTheQueue : ∃ (c : Instr) (s : State) (t : State), exec c s = .next t :=
  ⟨.nop 0, up, up, rfl⟩

theorem witness_OnlyStandbyLossClearsTicks : ∃ (c : Instr) (s : State) (t : State), c ≠ .standbyLoss ∧ c ≠ .standbyPowerUp ∧ exec c s = .next t :=
  ⟨.nop 0, up, up, ⟨by decide, by decide, rfl⟩⟩

theorem witness_NanEncodings :
    (∃ (fmt : Nat), fmt < 10) ∧
    (∃ (fmt : Nat) (real : Nat) (j : Nat) (bs : List Byte), fmt < 6 ∧ j < real ∧ real ≤ 256 ∧ bs[32 * elemBits fmt + j / 32]? = some 0xFF) ∧
    (∃ (fmt : Nat) (real : Nat) (j : Nat) (bs : List Byte) (vs : List Val), fmt < 6 ∧ j < real ∧ real ≤ 256 ∧ bs[16 * elemBits fmt + 32 + j / 32]? = some 0xFF ∧ readPacked fmt real bs = some vs) ∧
    (∃ (fmt : Nat) (b : Nat) (c : Nat), decodeElem fmt b = .nan ∧ decodeElem fmt c = .nan) :=
  ⟨⟨9, by decide +kernel⟩,
   ⟨3, 256, 255, List.replicate 264 0xFF, by decide +kernel⟩,
   ⟨3, 256, 255, packedNan, (readPacked 3 256 packedNan).getD [], by decide +kernel⟩,
   ⟨3, 0x7F, 0xFF, by decide +kernel⟩⟩

theorem witness_NonFiniteAddends :
    (∃ (m : Nat), m ≠ 0) ∧
    (∃ (a : Acc), (a.nan = true ∨ a.pinf = true ∧ a.ninf = true)) ∧
    (∃ (a : Acc), a.nan = false ∧ a.pinf = true ∧ a.ninf = false) ∧
    (∃ (a : Acc), a.nan = false ∧ a.pinf = false ∧ a.ninf = true) ∧
    (∃ (a : Acc), a.nan = false ∧ a.pinf = false ∧ a.ninf = false) :=
  ⟨⟨1, by decide +kernel⟩,
   ⟨{ pinf := true, ninf := true }, by decide +kernel⟩,
   ⟨{ pinf := true }, by decide +kernel⟩,
   ⟨{ ninf := true }, by decide +kernel⟩,
   ⟨{}, by decide +kernel⟩⟩

theorem witness_ExactRecords :
    (∃ (bs : List Byte) (cs : List Byte), bs.take 80 = cs.take 80 ∧ (bs.getD 80 0).toNat % 8 = (cs.getD 80 0).toNat % 8 ∧ bs.length = 96 ∧ cs.length = 96 ∧ (bs.drop 84).take 4 = (cs.drop 84).take 4) ∧
    (∃ (a : Acc), -(2 ^ 639 : Int) ≤ a.value ∧ a.value < 2 ^ 639 ∧ a.count < 2 ^ 32) ∧
    (∃ (m : List Val) (b : Acc), b = m.foldl Acc.addend {} ∧ -(2 ^ 639 : Int) ≤ b.value ∧ b.value < 2 ^ 639 ∧ b.count < 2 ^ 32) :=
  ⟨⟨List.replicate 96 0, List.replicate 80 0 ++ [8] ++ List.replicate 15 0, by decide +kernel⟩,
   ⟨{ value := -(2 ^ 639), count := 2 ^ 32 - 1 }, by decide +kernel⟩,
   ⟨[.nan], [Val.nan].foldl Acc.addend {}, by decide +kernel⟩⟩

theorem witness_SumsIgnoreOrder :
    (∃ (l : List Val) (m : List Val), l.Perm m) ∧
    (∃ (parts : List (List Val)) (l : List Val), parts.flatten.Perm l) :=
  ⟨⟨[.nan, .inf true], [.inf true, .nan], List.Perm.swap _ _ _⟩,
   ⟨[[.nan], [.inf true]], [.inf true, .nan], List.Perm.swap _ _ _⟩⟩

theorem witness_ZeroResults :
    (∃ (woc : Nat) (draw : Nat), draw < 2 ^ 24 ∧ wocFmt woc ∈ [fmtBf16, fmtFp32, fmtInt8, fmtInt32]) ∧
    (∃ (fmt : Nat), fmt < 6) ∧
    (∃ (woc : Nat) (draw : Nat) (m : Nat) (s : Bool) (k : Bool) (u : Int), wocFmt woc ∈ [fmtBf16, fmtFp32] ∧ m ≠ 0 ∧ roundMag (wocMode woc) s draw (lsbFor (wocFmt woc) m u) m u k = 0) ∧
    (∃ (fmt : Nat) (woc : Nat) (draw : Nat) (m : Nat) (s : Bool) (k : Bool) (u : Int) (x : Int), fmt < 5 ∧ m ≠ 0 ∧ roundMag (wocMode woc) s draw (lsbFor fmt m (u - x)) m (u - x) k = 0) ∧
    (∃ (woc : Nat) (draw : Nat) (m : Nat) (s : Bool) (k : Bool) (u : Int) (x : Int), m ≠ 0 ∧ roundMag (wocMode woc) s draw (-6) m (u - x) k = 0) ∧
    (∃ (woc : Nat) (draw : Nat) (m : Nat) (s : Bool) (k : Bool) (u : Int), wocFmt woc ∈ [fmtInt8, fmtInt32] ∧ roundMag (wocMode woc) s draw 0 m u k = 0) :=
  ⟨⟨6, 0, by decide +kernel⟩,
   ⟨3, by decide +kernel⟩,
   ⟨7, 0, 1, true, false, -1000, by decide +kernel⟩,
   ⟨3, 3, 0, 1, true, false, -1000, 0, by decide +kernel⟩,
   ⟨5, 0, 1, true, false, -1000, 0, by decide +kernel⟩,
   ⟨9, 0, 1, true, false, -1000, by decide +kernel⟩⟩

theorem witness_DoorbellsMoveQueues :
    (∃ (f : Nat) (q : Nat) (v : Nat) (x : Sq) (s : State), q < 1024 ∧ v < 2 ^ 32 ∧ s.sq f q = some x ∧ v < 2 ^ x.depthLog2) ∧
    (∃ (f : Nat) (q : Nat) (v : Nat) (x : Sq) (s : State), q < 1024 ∧ v < 2 ^ 32 ∧ s.sq f q = some x ∧ 2 ^ x.depthLog2 ≤ v) ∧
    (∃ (f : Nat) (q : Nat) (s : State), q < 1024 ∧ s.sq f q = none) ∧
    (∃ (f : Nat) (q : Nat) (v : Nat) (c : Cq) (s : State), q < 1024 ∧ v < 2 ^ 32 ∧ s.cq f q = some c ∧ v < 2 ^ c.depthLog2 ∧ (v + 2 ^ c.depthLog2 - c.head) % 2 ^ c.depthLog2 ≤ (c.tail + 2 ^ c.depthLog2 - c.head) % 2 ^ c.depthLog2) ∧
    (∃ (f : Nat) (q : Nat) (v : Nat) (c : Cq) (s : State), q < 1024 ∧ v < 2 ^ 32 ∧ s.cq f q = some c ∧ v < 2 ^ c.depthLog2 ∧ (v + 2 ^ c.depthLog2 - c.head) % 2 ^ c.depthLog2 ≤ (c.tail + 2 ^ c.depthLog2 - c.head) % 2 ^ c.depthLog2 ∧ c.groupSlots = [] ∧ c.noteSlots = [] ∧ s.cp.orphans = [] ∧ (∀ e ∈ s.cp.sqs, e.2.held = none)) ∧
    (∃ (f : Nat) (q : Nat) (s : State), q < 1024 ∧ s.cq f q = none) ∧
    (∃ (f : Nat) (q : Nat) (v : Nat) (c : Cq) (s : State), q < 1024 ∧ v < 2 ^ 32 ∧ s.cq f q = some c ∧ (c.tail + 2 ^ c.depthLog2 - c.head) % 2 ^ c.depthLog2 < (v + 2 ^ c.depthLog2 - c.head) % 2 ^ c.depthLog2) ∧
    (∃ (f : Nat) (q : Nat) (v : Nat) (c : Cq) (s : State), q < 1024 ∧ v < 2 ^ 32 ∧ s.cq f q = some c ∧ 2 ^ c.depthLog2 ≤ v) ∧
    (∃ (q : Nat), 1024 ≤ q) :=
  ⟨⟨0, 0, 1, theSq up, up, by decide +kernel⟩,
   ⟨0, 0, 2 ^ (theSq up).depthLog2, theSq up, up, by decide +kernel⟩,
   ⟨0, 1, up, by decide +kernel⟩,
   ⟨0, 0, 0, theCq up, up, by decide +kernel⟩,
   ⟨0, 0, 0, theCq up, up, by decide +kernel⟩,
   ⟨0, 1, up, by decide +kernel⟩,
   ⟨0, 0, 1, theCq up, up, by decide +kernel⟩,
   ⟨0, 0, 2 ^ (theCq up).depthLog2, theCq up, up, by decide +kernel⟩,
   ⟨1024, by decide +kernel⟩⟩

theorem witness_PacketsBecomeCommands :
    (∃ (r : FetchRead) (x : Sq) (s : State), jrnStalled s = false ∧ flushHolds s = false ∧ s.sq r.func r.queue = some x ∧ fetching s r.func = true ∧ x.stopped = false ∧ x.held = none ∧ x.next ≠ x.tail) ∧
    (∃ (r : FetchRead) (s : State), jrnStalled s = false ∧ fetching s r.func = false) ∧
    (∃ (s : State), jrnStalled s = true) ∧
    (∃ (s : State), jrnStalled s = false ∧ flushHolds s = true) ∧
    (∃ (f : Nat) (q : Nat) (slot : Nat) (x : Sq) (c : Cq) (p : Packet) (s : State), s.sq f q = some x ∧ x.held = some (p, slot) ∧ firstOrphan s f q = none ∧ checkPacket s f q p = none ∧ jrnStalled s = false ∧ flushHolds s = false ∧ s.cp.cores.stopped = false ∧ admitCollective s f p = .own ∧ s.cq f x.cq = some c ∧ c.freeEntries ≠ 0) ∧
    (∃ (o : Orphan) (c : Cq) (s : State), firstOrphan s o.func o.queue = some o ∧ checkPacket s o.func o.queue o.pkt = none ∧ jrnStalled s = false ∧ flushHolds s = false ∧ s.cp.cores.stopped = false ∧ admitCollective s o.func o.pkt = .own ∧ s.cq o.func o.cq = some c ∧ c.freeEntries ≠ 0) ∧
    (∃ (o : Orphan) (s : State), firstOrphan s o.func o.queue = some o ∧ checkPacket s o.func o.queue o.pkt = none ∧ jrnStalled s = false ∧ flushHolds s = false ∧ s.cp.cores.stopped = false ∧ admitCollective s o.func o.pkt = .own ∧ o.cq = noCq ∧ s.cq o.func o.cq = none) ∧
    (∃ (f : Nat) (q : Nat) (slot : Nat) (g : Nat) (x : Sq) (p : Packet) (s : State), s.sq f q = some x ∧ x.held = some (p, slot) ∧ firstOrphan s f q = none ∧ checkPacket s f q p = none ∧ jrnStalled s = false ∧ flushHolds s = false ∧ s.cp.cores.stopped = false ∧ admitCollective s f p = .group g) ∧
    (∃ (f : Nat) (q : Nat) (slot : Nat) (x : Sq) (p : Packet) (s : State), s.sq f q = some x ∧ x.held = some (p, slot) ∧ firstOrphan s f q = none ∧ checkPacket s f q p = none ∧ ((jrnStalled s = true ∨ flushHolds s = true ∨ s.cp.cores.stopped = true ∨ admitCollective s f p = .wait ∨ admitCollective s f p = .own ∧ (s.cq f x.cq).any (fun c => c.freeEntries = 0) = true))) ∧
    (∃ (seq : Nat) (a : Nat) (n : Nat) (bs : List Byte) (c : OpenCmd) (s : State), s.cmd seq = some c ∧ payloadSpec c.pkt = some (a, n) ∧ c.phase = .ready ∧ c.payload = none ∧ s.cp.cores.stopped = false ∧ bs.length = payloadLen c.pkt n bs) ∧
    (∃ (f : Nat) (q : Nat) (c : Cq) (s : State), s.cq f q = some c ∧ c.unsignalled ≠ 0) ∧
    (∃ (seq : Nat) (a : Nat) (n : Nat) (c : OpenCmd) (s : State), s.cmd seq = some c ∧ payloadSpec c.pkt = some (a, n) ∧ c.phase = .ready ∧ c.payload = none ∧ mayStart s seq c = true ∧ s.cp.cores.stopped = false) ∧
    (∃ (f : Nat) (q : Nat) (x : Sq) (s : State), s.sq f q = some x) ∧
    (∃ (f : Nat) (q : Nat) (x : Cq) (s : State), s.cq f q = some x) ∧
    (∃ (seq : Nat) (c : OpenCmd) (s : State), s.cmd seq = some c ∧ mayStart s seq c = false) :=
  ⟨⟨{ func := 0, queue := 0, packet := 0 }, { theSq up with tail := 1 }, (setFld up Fld.CP_CTL_FETCH 1 0 0).setSq 0 0 { theSq up with tail := 1 }, by decide +kernel⟩,
   ⟨{ func := 0, queue := 0, packet := 0 }, up, by decide +kernel⟩,
   ⟨stalled, by decide +kernel⟩,
   ⟨flushing, by decide +kernel⟩,
   ⟨0, 0, 0, { theSq up with held := some (nopPacket, 0) }, theCq up, nopPacket, up.setSq 0 0 { theSq up with held := some (nopPacket, 0) }, by decide +kernel⟩,
   ⟨{ pkt := nopPacket }, theCq up, orphaned, by decide +kernel⟩,
   ⟨{ pkt := nopPacket, cq := noCq }, { up with cp := { up.cp with orphans := [{ pkt := nopPacket, cq := noCq }] } }, by decide +kernel⟩,
   ⟨0, 0, 0, 0, { theSq up with held := some (BitVec.ofNat 512 (1 + 0xA8 * 2 ^ 16 + at_ 24 1 + at_ 26 4 + at_ 30 16), 0) }, BitVec.ofNat 512 (1 + 0xA8 * 2 ^ 16 + at_ 24 1 + at_ 26 4 + at_ 30 16), ({ up with xch := { up.xch with groups := [(collGroupKey up (BitVec.ofNat 512 (1 + 0xA8 * 2 ^ 16 + at_ 24 1 + at_ 26 4 + at_ 30 16)), { outstanding := 1, reserved := 1 })] } }).setSq 0 0 { theSq up with held := some (BitVec.ofNat 512 (1 + 0xA8 * 2 ^ 16 + at_ 24 1 + at_ 26 4 + at_ 30 16), 0) }, by decide +kernel⟩,
   ⟨0, 0, 0, { theSq up with held := some (nopPacket, 0) }, nopPacket, stalled.setSq 0 0 { theSq up with held := some (nopPacket, 0) }, by decide +kernel⟩,
   ⟨5, 0, 64, List.replicate 64 0, theCmd (opened up 0x20), opened up 0x20, by decide +kernel⟩,
   ⟨0, 0, { theCq up with unsignalled := 1 }, up.setCq 0 0 { theCq up with unsignalled := 1 }, by decide +kernel⟩,
   ⟨5, 0, 64, theCmd (opened up 0x20), opened up 0x20, by decide +kernel⟩,
   ⟨0, 0, theSq up, up, by decide +kernel⟩,
   ⟨0, 0, theCq up, up, by decide +kernel⟩,
   ⟨6, laterCmd, fencedOff, by decide +kernel⟩⟩

theorem witness_JournalAndAdminRegisters :
    (∃ (base : Nat) (size : Nat) (s : State), s.cp.cmds = [] ∧ (∀ f < 33, flag s Fld.CP_CTL_FETCH 0 f = false) ∧ 20 ≤ size ∧ size ≤ 30 ∧ base < 2 ^ 16 ∧ base * 2 ^ 20 % 2 ^ size = 0 ∧ ((∀ p ∈ upFrom (base * 2 ^ 20 / 2 ^ 21) (2 ^ (size - 21)), hasK p s.wsp.pages = false))) ∧
    (∃ (base : Nat) (s : State), (s.cp.cmds ≠ [] ∨ base < 2 ^ 16 ∧ hasK (base * 2 ^ 20 / 2 ^ 21) s.wsp.pages = true)) ∧
    (∃ (f : Nat) (x : Sq) (s : State), flag s Fld.CP_CTL_FETCH 0 f = false ∧ s.sq f 0 = some x) ∧
    (∃ (f : Nat) (s : State), flag s Fld.CP_CTL_FETCH 0 f = true) ∧
    (∃ (f : Nat), f ≤ 32) :=
  ⟨⟨2, 20, up, by decide +kernel⟩,
   ⟨2, opened up 0, by decide +kernel⟩,
   ⟨0, theSq up, up, by decide +kernel⟩,
   ⟨32, setFld up Fld.CP_CTL_FETCH 1 0 32, by decide +kernel⟩,
   ⟨32, by decide +kernel⟩⟩

theorem witness_AdministrationCommands :
    (∃ (seq : Nat) (c : OpenCmd) (s : State), Starts s seq 0x00 c) ∧
    (∃ (seq : Nat) (c : OpenCmd) (s : State), Starts s seq 0x02 c) ∧
    (∃ (seq : Nat) (c : OpenCmd) (s : State), Starts s seq 0x03 c) ∧
    (∃ (seq : Nat) (c : OpenCmd) (s : State), Starts s seq 0x04 c) ∧
    (∃ (seq : Nat) (c : OpenCmd) (q : Cq) (s : State), Starts s seq 0x05 c ∧ s.cq c.func (pktBits c.pkt 32 0 10) = some q) ∧
    (∃ (seq : Nat) (c : OpenCmd) (x : Ctx) (s : State), Starts s seq 0x08 c ∧ ctxFor s c.func (cancelCtx c.pkt) = some x) ∧
    (∃ (seq : Nat) (c : OpenCmd) (s : State), Starts s seq 0x09 c) ∧
    (∃ (seq : Nat) (c : OpenCmd) (s : State), Starts s seq 0x0A c ∧ s.cp.nand.flushEpoch = 0) ∧
    (∃ (seq : Nat) (c : OpenCmd) (s : State), Starts s seq 0x0A c ∧ s.cp.nand.flushEpoch ≠ 0) :=
  ⟨⟨5, theCmd (opened up 0x00), opened up 0x00, by unfold Starts; decide +kernel⟩,
   ⟨5, theCmd (opened up 0x02), opened up 0x02, by unfold Starts; decide +kernel⟩,
   ⟨5, theCmd (opened up 0x03), opened up 0x03, by unfold Starts; decide +kernel⟩,
   ⟨5, theCmd (opened up 0x04), opened up 0x04, by unfold Starts; decide +kernel⟩,
   ⟨5, theCmd (opened up 0x05), theCq up, opened up 0x05, by unfold Starts; decide +kernel⟩,
   ⟨5, theCmd (opened up 0x08), {}, withCtx (opened up 0x08), by unfold Starts; decide +kernel⟩,
   ⟨5, theCmd (opened up 0x09), opened up 0x09, by unfold Starts; decide +kernel⟩,
   ⟨5, theCmd (opened up 0x0A), opened up 0x0A, by unfold Starts; decide +kernel⟩,
   ⟨5, theCmd (flushed), flushed, by unfold Starts; decide +kernel⟩⟩

theorem witness_ContextAndPoolCommands :
    (∃ (seq : Nat) (c : OpenCmd) (s : State), Starts s seq 0x20 c ∧ s.context (pContext c.pkt) = none ∧ ctxDescFails s c.func (ctxDesc (c.payload.getD [])) = none) ∧
    (∃ (seq : Nat) (c : OpenCmd) (x : Ctx) (s : State), Starts s seq 0x21 c ∧ ctxFor s c.func (pContext c.pkt) = some x) ∧
    (∃ (seq : Nat) (c : OpenCmd) (s : State), Starts s seq 0x22 c ∧ streamOpenPre s c = none ∧ pktBits c.pkt 24 0 16 = 0) ∧
    (∃ (seq : Nat) (c : OpenCmd) (q : Pool) (bufs : List Nat) (s : State) (t : State), Starts s seq 0x22 c ∧ streamOpenPre s c = none ∧ pktBits c.pkt 24 0 16 ≠ 0 ∧ s.pool (poolKey c.func (pktBits c.pkt 32 0 10)) = some q ∧ allocBufs s (poolKey c.func (pktBits c.pkt 32 0 10)) (pContext c.pkt) (retAreaBufs (pktBits c.pkt 30 0 2) (pktBits c.pkt 28 0 14) q.bufBytes) = .inr (bufs, t)) ∧
    (∃ (seq : Nat) (c : OpenCmd) (x : Ctx) (s : State), Starts s seq 0x23 c ∧ ctxFor s c.func (pContext c.pkt) = some x) ∧
    (∃ (seq : Nat) (c : OpenCmd) (s : State), Starts s seq 0x28 c ∧ s.pool (poolKey c.func (pktBits c.pkt 24 0 10)) = none) ∧
    (∃ (seq : Nat) (c : OpenCmd) (q : Pool) (s : State), Starts s seq 0x29 c ∧ s.pool (poolKey c.func (pktBits c.pkt 24 0 10)) = some q ∧ pktBits c.pkt 28 0 32 ≤ pktBits c.pkt 32 0 32) ∧
    (∃ (seq : Nat) (c : OpenCmd) (s : State), Starts s seq 0x2A c) ∧
    (∃ (seq : Nat) (c : OpenCmd) (q : Pool) (s : State), Starts s seq 0x2B c ∧ s.pool (poolKey c.func (pktBits c.pkt 24 0 10)) = some q) :=
  ⟨⟨5, theCmd newContext, newContext, by unfold Starts; decide +kernel⟩,
   ⟨5, theCmd (opened up 0x21), {}, withCtx (opened up 0x21), by unfold Starts; decide +kernel⟩,
   ⟨5, theCmd (withCtx (opened up 0x22)), withCtx (opened up 0x22), by unfold Starts; decide +kernel⟩,
   ⟨5, theCmd streamWithGroup, { count := 4, bufBytes := 1048576 }, [0], streamWithGroup, ((allocBufs streamWithGroup (poolKey 0 1) 0 1).getRight?.map Prod.snd).getD up, by unfold Starts; decide +kernel⟩,
   ⟨5, theCmd (opened up 0x23), {}, withCtx (opened up 0x23), by unfold Starts; decide +kernel⟩,
   ⟨5, theCmd (opened up 0x28), opened up 0x28, by unfold Starts; decide +kernel⟩,
   ⟨5, theCmd (opened up 0x29 (2 ^ 192)), { count := 4 }, withPool (opened up 0x29 (2 ^ 192)) { count := 4 }, by unfold Starts; decide +kernel⟩,
   ⟨5, theCmd (opened up 0x2A), opened up 0x2A, by unfold Starts; decide +kernel⟩,
   ⟨5, theCmd (opened up 0x2B (2 ^ 192)), { count := 4 }, withPool (opened up 0x2B (2 ^ 192)) { count := 4 }, by unfold Starts; decide +kernel⟩⟩

theorem witness_PageCommands :
    (∃ (seq : Nat) (c : OpenCmd) (s : State), Starts s seq 0x40 c ∧ ((∀ q ∈ rangePages c.pkt, s.page q = none ∧ heldPage s q = false ∧ inAperture (q * pageBytes) = false ∧ fnPageOwns s c.func q = true))) ∧
    (∃ (seq : Nat) (c : OpenCmd) (s : State), Starts s seq 0x41 c ∧ ((∀ q ∈ rangePages c.pkt, (pageFor s c.func q).isSome ∧ pageInUse { s with cp := { s.cp with cmds := eraseK seq s.cp.cmds } } q = false))) ∧
    (∃ (seq : Nat) (c : OpenCmd) (s : State), Starts s seq 0x44 c ∧ ((∀ q ∈ rangePages c.pkt, (pageFor s c.func q).isSome)) ∧ (¬ (pTier c.pkt = 0 ∧ (pReplicated c.pkt = true ∨ pPin c.pkt = true)))) ∧
    (∃ (seq : Nat) (c : OpenCmd) (s : State), Starts s seq 0x42 c ∧ ((∀ q ∈ plainPages (pktBits c.pkt 32 0 48) (pktBits c.pkt 40 0 32), (pageFor s c.func q).isSome))) ∧
    (∃ (seq : Nat) (c : OpenCmd) (s : State), Starts s seq 0x43 c ∧ ((∀ q ∈ plainPages (pktBits c.pkt 32 0 48) (pktBits c.pkt 40 0 32), (pageFor s c.func q).isSome))) ∧
    (∃ (seq : Nat) (q : Nat) (c : OpenCmd) (s : State), Starts s seq 0x43 c ∧ (plainPages (pktBits c.pkt 32 0 48) (pktBits c.pkt 40 0 32)).find? (fun q => (pageFor s c.func q).isNone) = some q) ∧
    (∃ (seq : Nat) (q : Nat) (c : OpenCmd) (s : State), Starts s seq 0x42 c ∧ (plainPages (pktBits c.pkt 32 0 48) (pktBits c.pkt 40 0 32)).find? (fun q => (pageFor s c.func q).isNone) = some q) :=
  ⟨⟨5, theCmd (opened up 0x40), opened up 0x40, by unfold Starts; decide +kernel⟩,
   ⟨5, theCmd (withPage (opened up 0x41 (2 ^ (8 * 32))) 0 {}), withPage (opened up 0x41 (2 ^ (8 * 32))) 0 {}, by unfold Starts; decide +kernel⟩,
   ⟨5, theCmd (withPage (opened up 0x44 (2 ^ (8 * 32))) 0 {}), withPage (opened up 0x44 (2 ^ (8 * 32))) 0 {}, by unfold Starts; decide +kernel⟩,
   ⟨5, theCmd (withPage (opened up 0x42 (2 ^ 160 * 2 ^ 160) (some [])) 0 {}), withPage (opened up 0x42 (2 ^ 160 * 2 ^ 160) (some [])) 0 {}, by unfold Starts; decide +kernel⟩,
   ⟨5, theCmd (withPage (opened up 0x43 (2 ^ 160 * 2 ^ 160)) 0 {}), withPage (opened up 0x43 (2 ^ 160 * 2 ^ 160)) 0 {}, by unfold Starts; decide +kernel⟩,
   ⟨5, 0, theCmd (opened up 0x43 (2 ^ 160 * 2 ^ 160)), opened up 0x43 (2 ^ 160 * 2 ^ 160), by unfold Starts; decide +kernel⟩,
   ⟨5, 0, theCmd (opened up 0x42 (2 ^ 160 * 2 ^ 160) (some [])), opened up 0x42 (2 ^ 160 * 2 ^ 160) (some []), by unfold Starts; decide +kernel⟩⟩

theorem witness_PourAndPackCommands :
    (∃ (seq : Nat) (c : OpenCmd) (s : State), Starts s seq 0x48 c ∧ modelLoaded s (pktBits c.pkt 24 0 16) = true ∧ pktBits c.pkt 40 0 32 ≤ 1048576) ∧
    (∃ (seq : Nat) (c : OpenCmd) (s : State), Starts s seq 0x48 c ∧ modelLoaded s (pktBits c.pkt 24 0 16) = false) ∧
    (∃ (seq : Nat) (c : OpenCmd) (s : State), Starts s seq 0x49 c) ∧
    (∃ (seq : Nat) (c : OpenCmd) (s : State), Starts s seq 0x4C c ∧ packPre s c = none ∧ lostSource s c.pkt = none) ∧
    (∃ (seq : Nat) (c : OpenCmd) (s : State), Starts s seq 0x4D c ∧ packPre s c = none ∧ lostSource s c.pkt = none) ∧
    (∃ (seq : Nat) (q : Nat) (a : Nat) (c : OpenCmd) (s : State), Starts s seq 0x4C c ∧ packPre s c = none ∧ lostSource s c.pkt = some (q, a)) ∧
    (∃ (seq : Nat) (q : Nat) (a : Nat) (c : OpenCmd) (s : State), Starts s seq 0x4D c ∧ packPre s c = none ∧ lostSource s c.pkt = some (q, a)) :=
  ⟨⟨5, theCmd (withImage (withModel (opened up 0x48 0 (some [])))), withImage (withModel (opened up 0x48 0 (some []))), by unfold Starts; decide +kernel⟩,
   ⟨5, theCmd (opened up 0x48 0 (some [])), opened up 0x48 0 (some []), by unfold Starts; decide +kernel⟩,
   ⟨5, theCmd (opened up 0x49), opened up 0x49, by unfold Starts; decide +kernel⟩,
   ⟨5, theCmd (packing 0x4C), packing 0x4C, by unfold Starts; decide +kernel⟩,
   ⟨5, theCmd (packing 0x4D), packing 0x4D, by unfold Starts; decide +kernel⟩,
   ⟨5, 0, 0, theCmd (packing 0x4C { lost := true }), packing 0x4C { lost := true }, by unfold Starts; decide +kernel⟩,
   ⟨5, 0, 0, theCmd (packing 0x4D { lost := true }), packing 0x4D { lost := true }, by unfold Starts; decide +kernel⟩⟩

theorem witness_ProgramCommands :
    (∃ (seq : Nat) (c : OpenCmd) (f : LoadFault) (s : State), takesEffect s seq 0x60 = some c ∧ loadCheck s c = some f) ∧
    (∃ (seq : Nat) (c : OpenCmd) (s : State), takesEffect s seq 0x60 = some c ∧ loadCheck s c = none ∧ loadBusy s seq (c.payload.getD []) = false) ∧
    (∃ (seq : Nat) (c : OpenCmd) (s : State), Starts s seq 0x61 c) ∧
    (∃ (seq : Nat) (c : OpenCmd) (s : State), Starts s seq 0xE0 c) :=
  ⟨⟨5, theCmd (loading []), { reason := 1, status := stBadVersion }, loading [], by decide +kernel⟩,
   ⟨5, theCmd (loading image), loading image, by decide +kernel⟩,
   ⟨5, theCmd (opened up 0x61), opened up 0x61, by unfold Starts; decide +kernel⟩,
   ⟨5, theCmd (opened up 0xE0), opened up 0xE0, by unfold Starts; decide +kernel⟩⟩

theorem witness_FabricCommands :
    (∃ (seq : Nat) (c : OpenCmd) (s : State), Starts s seq 0xC0 c) ∧
    (∃ (seq : Nat) (c : OpenCmd) (s : State), Starts s seq 0xC1 c) ∧
    (∃ (seq : Nat) (c : OpenCmd) (s : State), Starts s seq 0xC2 c ∧ flag s Fld.XRT_EP_FENCED = true) ∧
    (∃ (seq : Nat) (c : OpenCmd) (s : State), Starts s seq 0xC3 c ∧ listReserved (endpointList (c.payload.getD [])) = false ∧ flag s Fld.XRT_EP_VALID = true ∧ endpointId s ∈ endpointList (c.payload.getD [])) ∧
    (∃ (seq : Nat) (c : OpenCmd) (s : State), Starts s seq 0xC8 c) ∧
    (∃ (seq : Nat) (c : OpenCmd) (s : State), Starts s seq 0xC9 c) ∧
    (∃ (seq : Nat) (c : OpenCmd) (e : McastEntry) (bs : List Byte) (s : State), Starts s seq 0xCA c ∧ firstUnmapped s c.func (pktBits c.pkt 32 0 48) (pktBits c.pkt 48 0 32) = none ∧ mcastFor s (pktBits c.pkt 24 0 12) (curEpoch s) = some e ∧ localRead s (pktBits c.pkt 32 0 48) (pktBits c.pkt 48 0 32) = .ok bs) :=
  ⟨⟨5, theCmd (opened up 0xC0), opened up 0xC0, by unfold Starts; decide +kernel⟩,
   ⟨5, theCmd (opened up 0xC1), opened up 0xC1, by unfold Starts; decide +kernel⟩,
   ⟨5, theCmd (setFld (opened up 0xC2) Fld.XRT_EP_FENCED 1), setFld (opened up 0xC2) Fld.XRT_EP_FENCED 1, by unfold Starts; decide +kernel⟩,
   ⟨5, theCmd (withEndpoint (opened up 0xC3 0 (some (leBytes 4 0)))), withEndpoint (opened up 0xC3 0 (some (leBytes 4 0))), by unfold Starts; decide +kernel⟩,
   ⟨5, theCmd (opened up 0xC8 0 (some [])), opened up 0xC8 0 (some []), by unfold Starts; decide +kernel⟩,
   ⟨5, theCmd (opened up 0xC9), opened up 0xC9, by unfold Starts; decide +kernel⟩,
   ⟨5, theCmd mcasting, {}, [], mcasting, by unfold Starts; decide +kernel⟩⟩

theorem witness_RemoteAndFlaskCommands :
    (∃ (seq : Nat) (tid : Nat) (c : OpenCmd) (bs : List Byte) (s : State), Starts s seq 0xD4 c ∧ remotePre s c = none ∧ freeRemoteTid s (pktBits c.pkt 24 0 20) = some tid ∧ localRead s (pktBits c.pkt 40 0 48) (pktBits c.pkt 48 0 32) = .ok bs) ∧
    (∃ (seq : Nat) (c : OpenCmd) (s : State), Starts s seq 0xD4 c ∧ remotePre s c = none ∧ freeRemoteTid s (pktBits c.pkt 24 0 20) = none) ∧
    (∃ (seq : Nat) (c : OpenCmd) (s : State), Starts s seq 0xD5 c ∧ remotePre s c = none) ∧
    (∃ (seq : Nat) (tid : Nat) (c : OpenCmd) (s : State), Starts s seq 0xD6 c ∧ flag s Fld.XRT_EP_VALID = true ∧ freeRemoteTid s (pktBits c.pkt 24 0 20) = some tid) ∧
    (∃ (seq : Nat) (c : OpenCmd) (s : State), Starts s seq 0xD0 c ∧ listReserved (endpointList (c.payload.getD [])) = false ∧ s.flk.phase = .out ∧ flag s Fld.XRT_EP_VALID = true ∧ endpointId s ∈ endpointList (c.payload.getD []) ∧ (endpointList (c.payload.getD [])).eraseDups.length = (endpointList (c.payload.getD [])).length ∧ firstUnmapped s c.func (pktBits c.pkt 40 0 48) windowBytes = none) ∧
    (∃ (seq : Nat) (c : OpenCmd) (s : State), Starts s seq 0xD1 c) :=
  ⟨⟨5, 0, theCmd (withEndpoint (opened up 0xD4)), [], withEndpoint (opened up 0xD4), by unfold Starts; decide +kernel⟩,
   ⟨5, theCmd (noTids), noTids, by unfold Starts; decide +kernel⟩,
   ⟨5, theCmd (withEndpoint (opened up 0xD5)), withEndpoint (opened up 0xD5), by unfold Starts; decide +kernel⟩,
   ⟨5, 0, theCmd (withEndpoint (opened up 0xD6)), withEndpoint (opened up 0xD6), by unfold Starts; decide +kernel⟩,
   ⟨5, theCmd (joining), joining, ⟨by unfold Starts; decide +kernel, by decide +kernel, rfl, by decide +kernel, by decide +kernel, by decide +kernel, joining_mapped⟩⟩,
   ⟨5, theCmd (opened up 0xD1), opened up 0xD1, by unfold Starts; decide +kernel⟩⟩

theorem witness_StepAndMaskCommands :
    (∃ (seq : Nat) (c : OpenCmd) (s : State), Starts s seq 0x80 c ∧ absentDescs s c.pkt = [] ∧ windowLines s false (descRanges s c.pkt) = [] ∧ stepPre s seq c = none) ∧
    (∃ (seq : Nat) (c : OpenCmd) (s : State), Starts s seq 0x81 c ∧ absentDescs s c.pkt = [] ∧ windowLines s false (descRanges s c.pkt) = [] ∧ stepPre s seq c = none) ∧
    (∃ (seq : Nat) (c : OpenCmd) (f : PreFail) (s : State), Starts s seq 0x80 c ∧ absentDescs s c.pkt = [] ∧ windowLines s false (descRanges s c.pkt) = [] ∧ stepPre s seq c = some f) ∧
    (∃ (seq : Nat) (c : OpenCmd) (f : PreFail) (s : State), Starts s seq 0x81 c ∧ absentDescs s c.pkt = [] ∧ windowLines s false (descRanges s c.pkt) = [] ∧ stepPre s seq c = some f) ∧
    (∃ (seq : Nat) (c : OpenCmd) (s : State), Starts s seq 0x80 c ∧ absentDescs s c.pkt ≠ []) ∧
    (∃ (seq : Nat) (c : OpenCmd) (s : State), Starts s seq 0x81 c ∧ absentDescs s c.pkt ≠ []) ∧
    (∃ (seq : Nat) (c : OpenCmd) (s : State), Starts s seq 0x80 c ∧ absentDescs s c.pkt = [] ∧ windowLines s false (descRanges s c.pkt) ≠ []) ∧
    (∃ (seq : Nat) (c : OpenCmd) (s : State), Starts s seq 0x81 c ∧ absentDescs s c.pkt = [] ∧ windowLines s false (descRanges s c.pkt) ≠ []) ∧
    (∃ (seq : Nat) (c : OpenCmd) (s : State), Starts s seq 0x88 c ∧ maskBusy s seq (pktBits c.pkt 24 0 16) = false ∧ modelLoaded s (pktBits c.pkt 24 0 16) = true ∧ (∀ e ∈ maskList c, e < 2 ^ 20)) ∧
    (∃ (seq : Nat) (c : OpenCmd) (s : State), Starts s seq 0xE1 c ∧ maskBusy s seq (pktBits c.pkt 24 0 16) = false) :=
  ⟨⟨5, theCmd (stepping 0x80 { state := .open }), stepping 0x80 { state := .open }, by unfold Starts; decide +kernel⟩,
   ⟨5, theCmd (stepping 0x81 { state := .open, group := 1 } { routeDesc := 1 }), stepping 0x81 { state := .open, group := 1 } { routeDesc := 1 }, by unfold Starts; decide +kernel⟩,
   ⟨5, theCmd (stepping 0x80), { num := 1 }, stepping 0x80, by unfold Starts; decide +kernel⟩,
   ⟨5, theCmd (stepping 0x81), { num := 1 }, stepping 0x81, by unfold Starts; decide +kernel⟩,
   ⟨5, theCmd (withPage (stepping 0x80 { state := .open, group := 1 } { routeDesc := 1 }) 0 { tier := 0 }), withPage (stepping 0x80 { state := .open, group := 1 } { routeDesc := 1 }) 0 { tier := 0 }, by unfold Starts; decide +kernel⟩,
   ⟨5, theCmd (withPage (stepping 0x81 { state := .open, group := 1 } { routeDesc := 1 }) 0 { tier := 0 }), withPage (stepping 0x81 { state := .open, group := 1 } { routeDesc := 1 }) 0 { tier := 0 }, by unfold Starts; decide +kernel⟩,
   ⟨5, theCmd (peerOwns (stepping 0x80 { state := .open, group := 1 } { routeDesc := 1 })), peerOwns (stepping 0x80 { state := .open, group := 1 } { routeDesc := 1 }), by unfold Starts; decide +kernel⟩,
   ⟨5, theCmd (peerOwns (stepping 0x81 { state := .open, group := 1 } { routeDesc := 1 })), peerOwns (stepping 0x81 { state := .open, group := 1 } { routeDesc := 1 }), by unfold Starts; decide +kernel⟩,
   ⟨5, theCmd (withImage (withModel (opened up 0x88 0 (some [])))), withImage (withModel (opened up 0x88 0 (some []))), by unfold Starts; decide +kernel⟩,
   ⟨5, theCmd (opened up 0xE1), opened up 0xE1, by unfold Starts; decide +kernel⟩⟩

theorem witness_GroupAndCollectiveCommands :
    (∃ (seq : Nat) (c : OpenCmd) (q : Cq) (g : Group) (s : State), Starts s seq 0xA0 c ∧ groupCreatePre s c = none ∧ g = { (groupDesc c.func (c.payload.getD [])).2.2 with members := memberWords s (groupDesc c.func (c.payload.getD [])).2.1 (groupSize (c.payload.getD [])) } ∧ s.cq c.func g.cq = some q) ∧
    (∃ (seq : Nat) (c : OpenCmd) (g : Group) (s : State), Starts s seq 0xA1 c ∧ s.groupAt (groupKey (pktBits c.pkt 26 0 16) (pktBits c.pkt 24 0 16)) = some g) ∧
    (∃ (seq : Nat) (c : OpenCmd) (g : Group) (s : State), Starts s seq 0xA8 c ∧ flag s Fld.RUN_CTL_HALT = false ∧ collectivePre s c = none ∧ s.group (pktBits c.pkt 24 0 16) = some g ∧ (∀ d ∈ collRanges s c.pkt g.members.length, absentPages s d.1 d.2 = [])) ∧
    (∃ (seq : Nat) (c : OpenCmd) (f : PreFail) (s : State), Starts s seq 0xA8 c ∧ flag s Fld.RUN_CTL_HALT = false ∧ collectivePre s c = some f) ∧
    (∃ (s : State), flag s Fld.RUN_CTL_HALT = true) ∧
    (∃ (seq : Nat) (p : Nat) (ps : List Nat) (c : OpenCmd) (g : Group) (s : State), Starts s seq 0xA8 c ∧ flag s Fld.RUN_CTL_HALT = false ∧ collectivePre s c = none ∧ s.group (pktBits c.pkt 24 0 16) = some g ∧ (collRanges s c.pkt g.members.length).flatMap (fun d => absentPages s d.1 d.2) = p :: ps) :=
  ⟨⟨5, theCmd creating, theCq up, { (groupDesc 0 ((theCmd creating).payload.getD [])).2.2 with members := [0] }, creating, by unfold Starts; decide +kernel⟩,
   ⟨5, theCmd (withGroup (opened up 0xA1 (at_ 24 1))), {}, withGroup (opened up 0xA1 (at_ 24 1)), by unfold Starts; decide +kernel⟩,
   ⟨5, theCmd (withGroup (opened up 0xA8 (at_ 24 1))), {}, withGroup (opened up 0xA8 (at_ 24 1)), by unfold Starts; decide +kernel⟩,
   ⟨5, theCmd (opened up 0xA8), { num := 1 }, opened up 0xA8, by unfold Starts; decide +kernel⟩,
   ⟨setFld up Fld.RUN_CTL_HALT 1, by decide +kernel⟩,
   ⟨5, 0, [], theCmd (withPage (withGroup (opened up 0xA8 (at_ 24 1 + at_ 27 7 + at_ 32 1)) { members := [0] }) 0 { tier := 0 }), { members := [0] }, withPage (withGroup (opened up 0xA8 (at_ 24 1 + at_ 27 7 + at_ 32 1)) { members := [0] }) 0 { tier := 0 }, by unfold Starts; decide +kernel⟩⟩

theorem witness_SchedulerRows :
    (∃ (ctx : Nat) (st : Nat) (s : State) (t : State), scheduleFirst s (waitingStreams s) = some ((ctx, st), t) ∧ recordLost s t ctx st = none) ∧
    (∃ (ctx : Nat) (st : Nat) (q : Nat) (s : State) (t : State), scheduleFirst s (waitingStreams s) = some ((ctx, st), t) ∧ recordLost s t ctx st = some q) ∧
    (∃ (s : State), scheduleFirst s (waitingStreams s) = none) ∧
    (∃ (ctx : Nat) (st : Nat) (s : State), (s.stream ctx st).state = .lingering) ∧
    (∃ (ctx : Nat) (st : Nat) (s : State), (s.stream ctx st).state ≠ .lingering) ∧
    (∃ (ctx : Nat) (st : Nat) (s : State), (s.stream ctx st).state = .blocked ∧ flag s Fld.CTX_CTL_EVICT_EN = false) ∧
    (∃ (ctx : Nat) (st : Nat) (s : State), (s.stream ctx st).state ≠ .blocked) ∧
    (∃ (ctx : Nat) (st : Nat) (s : State), (s.stream ctx st).state = .pinned ∧ ctx < 2 ^ 18 ∧ st < 64 ∧ (s.cmd (s.stream ctx st).stepSeq).any (fun c => c.phase = .completing) = false) :=
  ⟨⟨0, 0, waitingStream, (schedule waitingStream), by decide +kernel⟩,
   ⟨0, 0, 0, withPage waitingStream 0 { lost := true }, schedule (withPage waitingStream 0 { lost := true }), by decide +kernel⟩,
   ⟨up, by decide +kernel⟩,
   ⟨0, 0, withCtx up { streams := [(0, { state := .lingering })] }, by decide +kernel⟩,
   ⟨0, 0, up, by decide +kernel⟩,
   ⟨0, 0, withCtx (setFld up Fld.CTX_CTL_EVICT_EN 0) { streams := [(0, { state := .blocked })] }, by decide +kernel⟩,
   ⟨0, 0, up, by decide +kernel⟩,
   ⟨0, 0, withCtx up { streams := [(0, { state := .pinned })] }, by decide +kernel⟩⟩

theorem witness_ExpertChoiceMode : ∃ (seq : Nat) (x : LStep) (s : State), routedNow s = none ∧ flag s Fld.RUN_CTL_HALT = false ∧ s.xch.parked.length < 63 ∧ nextQueued s = some (seq, x) ∧ rteHalt s x = false ∧ rtePowered s x = true ∧ holdLost s x = none ∧ (∀ d ∈ routeRanges x, badPage s x.func d.1 d.2 = none ∧ absentPages s d.1 d.2 = []) ∧ windowLines s false (routeRanges x) = [] :=
  ⟨5, {}, queuedStep, by decide +kernel⟩

theorem witness_RoutingRows :
    (∃ (seq : Nat) (x : LStep) (s : State), routedNow s = none ∧ flag s Fld.RUN_CTL_HALT = false ∧ s.xch.parked.length < 63 ∧ nextQueued s = some (seq, x) ∧ rteHalt s x = false ∧ rtePowered s x = true ∧ holdLost s x = none ∧ (∀ d ∈ routeRanges x, badPage s x.func d.1 d.2 = none ∧ absentPages s d.1 d.2 = []) ∧ windowLines s false (routeRanges x) = []) ∧
    (∃ (seq : Nat) (s : State), routedNow s = some seq) ∧
    (∃ (s : State), flag s Fld.RUN_CTL_HALT = true) ∧
    (∃ (seq : Nat) (x : LStep) (s : State), nextQueued s = some (seq, x) ∧ rteHalt s x = true) ∧
    (∃ (seq : Nat) (q : Nat) (x : LStep) (s : State), routedNow s = none ∧ flag s Fld.RUN_CTL_HALT = false ∧ s.xch.parked.length < 63 ∧ nextQueued s = some (seq, x) ∧ rteHalt s x = false ∧ rtePowered s x = true ∧ holdLost s x = some q) ∧
    (∃ (seq : Nat) (p : Nat) (ps : List Nat) (x : LStep) (s : State), routedNow s = none ∧ flag s Fld.RUN_CTL_HALT = false ∧ s.xch.parked.length < 63 ∧ nextQueued s = some (seq, x) ∧ rteHalt s x = false ∧ rtePowered s x = true ∧ holdLost s x = none ∧ (∀ d ∈ routeRanges x, badPage s x.func d.1 d.2 = none) ∧ (routeRanges x).flatMap (fun d => absentPages s d.1 d.2) = p :: ps) ∧
    (∃ (seq : Nat) (x : LStep) (s : State), routedNow s = none ∧ flag s Fld.RUN_CTL_HALT = false ∧ s.xch.parked.length < 63 ∧ nextQueued s = some (seq, x) ∧ rteHalt s x = false ∧ rtePowered s x = true ∧ holdLost s x = none ∧ (∀ d ∈ routeRanges x, badPage s x.func d.1 d.2 = none ∧ absentPages s d.1 d.2 = []) ∧ windowLines s false (routeRanges x) ≠ []) ∧
    (∃ (seq : Nat) (x : LStep) (s : State), s.xch.routing = some seq ∧ s.step seq = some x ∧ x.stage = .scoring ∧ keptFor { s with xch := { s.xch with routing := none } } x = none ∧ (groupOf s x.group).shut = true) ∧
    (∃ (seq : Nat) (x : LStep) (k : KeptAbort) (s : State), s.xch.routing = some seq ∧ s.step seq = some x ∧ x.stage = .scoring ∧ keptFor { s with xch := { s.xch with routing := none } } x = some k) ∧
    (∃ (seq : Nat) (x : LStep) (s : State), s.xch.routing = some seq ∧ s.step seq = some x ∧ x.stage = .scoring ∧ keptFor { s with xch := { s.xch with routing := none } } x = none ∧ (groupOf s x.group).shut = false ∧ lookupD [] x.model s.xch.announce = []) ∧
    (∃ (seq : Nat) (s : State), s.xch.routing = some seq) ∧
    (∃ (seq : Nat) (p : Nat) (x : LStep) (s : State), s.xch.routing = none ∧ resumedNow s = some seq ∧ s.step seq = some x ∧ badPlacement s x = none ∧ badPage s x.func x.xchg.recvTable (4 * x.xchg.owned) = some p) ∧
    (∃ (seq : Nat) (p : Nat) (x : LStep) (ps : List Nat) (s : State), s.xch.routing = none ∧ resumedNow s = some seq ∧ s.step seq = some x ∧ badPlacement s x = none ∧ badPage s x.func x.xchg.recvTable (4 * x.xchg.owned) = none ∧ absentPages s x.route.placeAddr (8 * x.route.eCount) ++ absentPages s x.xchg.recvTable (4 * x.xchg.owned) = p :: ps) ∧
    (∃ (seq : Nat) (x : LStep) (s : State), s.xch.routing = none ∧ resumedNow s = some seq ∧ s.step seq = some x ∧ x.n = 0 ∧ badPlacement s x = none ∧ badPage s x.func x.xchg.recvTable (4 * x.xchg.owned) = none ∧ absentPages s x.route.placeAddr (8 * x.route.eCount) ++ absentPages s x.xchg.recvTable (4 * x.xchg.owned) = [] ∧ windowLines s false [(x.route.placeAddr, 8 * x.route.eCount), (x.xchg.recvTable, 4 * x.xchg.owned)] = [] ∧ regionTaken (drawFree s).2 seq { x with freeDraw := (drawFree s).1 } (ownedOf (drawFree s).2 { x with freeDraw := (drawFree s).1 }) = false) ∧
    (∃ (seq : Nat) (q : Nat) (x : LStep) (s : State), s.xch.routing = none ∧ resumedNow s = some seq ∧ s.step seq = some x ∧ badPlacement s x = some q) ∧
    (∃ (seq : Nat) (x : LStep) (s : State), s.xch.routing = none ∧ resumedNow s = some seq ∧ s.step seq = some x ∧ badPlacement s x = none ∧ badPage s x.func x.xchg.recvTable (4 * x.xchg.owned) = none ∧ absentPages s x.route.placeAddr (8 * x.route.eCount) ++ absentPages s x.xchg.recvTable (4 * x.xchg.owned) = [] ∧ windowLines s false [(x.route.placeAddr, 8 * x.route.eCount), (x.xchg.recvTable, 4 * x.xchg.owned)] ≠ []) :=
  ⟨⟨5, {}, queuedStep, by decide +kernel⟩,
   ⟨5, { up with xch := { up.xch with routing := some 5 } }, by decide +kernel⟩,
   ⟨setFld up Fld.RUN_CTL_HALT 1, by decide +kernel⟩,
   ⟨5, { n := 1 }, setFld (withStep queuedStep { n := 1 }) Fld.RTE_CTL_HALT 1 0, by decide +kernel⟩,
   ⟨5, 0, { route := { mode := 2 } }, withStep (withPage (withCtx up { streams := [(0, { state := .running })] }) 0 { lost := true }) { route := { mode := 2 } }, by decide +kernel⟩,
   ⟨5, 0, [0, 0], { n := 1 }, setFld (withPage (withStep (withCtx up { streams := [(0, { state := .running })] }) { n := 1 }) 0 { tier := 0 }) Fld.PWR_DOMAINS_ON (2 ^ 35 - 1), by decide +kernel⟩,
   ⟨5, { n := 1 }, peerOwns (setFld (withStep queuedStep { n := 1 }) Fld.PWR_DOMAINS_ON (2 ^ 35 - 1)), by decide +kernel⟩,
   ⟨5, { stage := .scoring, group := 1 }, routingStep { stage := .scoring, group := 1 } { broken := true }, by decide +kernel⟩,
   ⟨5, { stage := .scoring, group := 1 }, { group := 1 }, abortKept, by decide +kernel⟩,
   ⟨5, { stage := .scoring, group := 1 }, routingStep { stage := .scoring, group := 1 } {}, by decide +kernel⟩,
   ⟨5, { up with xch := { up.xch with routing := some 5 } }, by decide +kernel⟩,
   ⟨5, 1, { stage := .building, xchg := { owned := 1, recvTable := 2097152 } }, withPage (parkedStep { stage := .building, xchg := { owned := 1, recvTable := 2097152 } }) 0 {}, by decide +kernel⟩,
   ⟨5, 0, { stage := .building, xchg := { owned := 1 } }, [0], withPage (parkedStep { stage := .building, xchg := { owned := 1 } }) 0 { tier := 0 }, by decide +kernel⟩,
   ⟨5, { stage := .building }, withPage (parkedStep { stage := .building }) 0 {}, by decide +kernel⟩,
   ⟨5, 0, { stage := .building, route := { eCount := 1 } }, withPage (parkedStep { stage := .building, route := { eCount := 1 } }) 0 { lost := true }, by decide +kernel⟩,
   ⟨5, { stage := .building, xchg := { owned := 1 } }, peerOwns (withPage (parkedStep { stage := .building, xchg := { owned := 1 } }) 0 {}), by decide +kernel⟩⟩

theorem witness_StepMessages :
    (∃ (p : ExPkt) (g : Group) (seq : Nat) (x : LStep) (s : State), GroupTakes s p 3 g ∧ (noteReceipt (consumeEx s p) p).xch.steps.find? (fun e => e.2.group = p.group && e.2.msc = p.mscSeq && e.2.layer = p.layer && e.2.stage ≠ .queued && e.2.stage ≠ .scoring && e.2.stage ≠ .done) = some (seq, x)) ∧
    (∃ (p : ExPkt) (g : Group) (s : State), GroupTakes s p 3 g ∧ (consumeEx s p).xch.steps = [] ∧ takeLate (consumeEx s p) g p = none) ∧
    (∃ (p : ExPkt) (g : Group) (s : State) (t : State), GroupTakes s p 3 g ∧ (consumeEx s p).xch.steps = [] ∧ takeLate (consumeEx s p) g p = some t) ∧
    (∃ (p : ExPkt) (g : Group) (seq : Nat) (x : LStep) (bs : List Byte) (s : State), GroupTakes s p 4 g ∧ stepFor (noteReceipt (consumeEx s p) p) p.group p.mscSeq p.layer = some (seq, x) ∧ x.stage = .choosing ∧ assembled (assemble (lookupD ([], []) p.srcRank x.candParts) p.frag p.data) = some bs) ∧
    (∃ (p : ExPkt) (g : Group) (seq : Nat) (x : LStep) (bs : List Byte) (s : State), GroupTakes s p 4 g ∧ stepFor (noteReceipt (consumeEx s p) p) p.group p.mscSeq p.layer = some (seq, x) ∧ x.stage = .choosing ∧ assembled (assemble (lookupD ([], []) p.srcRank x.assignParts) p.frag p.data) = some bs) ∧
    (∃ (p : ExPkt) (g : Group) (seq : Nat) (x : LStep) (s : State), GroupTakes s p 10 g ∧ stepFor (noteReceipt (consumeEx s p) p) p.group p.mscSeq p.layer = some (seq, x)) ∧
    (∃ (p : ExPkt) (s : State), p.kind = 3 ∧ stoked s = true ∧ admitEx (consumeEx s p) p = none) ∧
    (∃ (p : ExPkt) (g : Group) (seq : Nat) (x : LStep) (s : State), GroupTakes s p 1 g ∧ stepFor (noteReceipt (consumeEx s p) p) p.group p.mscSeq p.layer = some (seq, x) ∧ x.stage = .data) ∧
    (∃ (p : ExPkt) (g : Group) (s : State), GroupTakes s p 1 g ∧ stepFor (consumeEx s p) p.group p.mscSeq p.layer = none) ∧
    (∃ (p : ExPkt) (g : Group) (b : Nat) (s : State) (u : State), GroupTakes s p 2 g ∧ stageBuf s (sliceOf s p) = (some b, u)) ∧
    (∃ (p : ExPkt) (g : Group) (seq : Nat) (x : LStep) (s : State), GroupTakes s p 12 g ∧ stepFor (count (noteReceipt (consumeEx s p) p) bankRas 4) p.group p.mscSeq p.layer = some (seq, x)) ∧
    (∃ (seq : Nat) (x : LStep) (s : State), s.step seq = some x ∧ x.stage = .done) ∧
    (∃ (p : ExPkt) (g : Group) (s : State) (u : State), GroupTakes s p 2 g ∧ stageBuf s (sliceOf s p) = (none, u)) :=
  ⟨⟨{ kind := 3, group := 1 }, { members := [0] }, 5, { group := 1, stage := .counting }, memberStep { group := 1, stage := .counting }, by unfold GroupTakes; decide +kernel⟩,
   ⟨{ kind := 3, group := 1 }, { members := [0] }, stokedGroup, by unfold GroupTakes; decide +kernel⟩,
   ⟨{ kind := 3, group := 1 }, { members := [0], late := some { missing := [0] } }, lateRecord, (takeLate (consumeEx lateRecord { kind := 3, group := 1 }) { members := [0], late := some { missing := [0] } } { kind := 3, group := 1 }).getD up, by unfold GroupTakes; decide +kernel⟩,
   ⟨{ kind := 4, group := 1, data := leBytes 8 0 }, { members := [0] }, 5, { group := 1, stage := .choosing }, [], memberStep { group := 1, stage := .choosing }, by unfold GroupTakes; decide +kernel⟩,
   ⟨{ kind := 4, group := 1, data := leBytes 8 0 }, { members := [0] }, 5, { group := 1, stage := .choosing }, [], memberStep { group := 1, stage := .choosing }, by unfold GroupTakes; decide +kernel⟩,
   ⟨{ kind := 10, group := 1 }, { members := [0] }, 5, { group := 1, stage := .counting }, memberStep { group := 1, stage := .counting }, by unfold GroupTakes; decide +kernel⟩,
   ⟨{ kind := 3, group := 2 }, stokedGroup, by decide +kernel⟩,
   ⟨{ kind := 1, group := 1 }, { members := [0] }, 5, { group := 1, stage := .data }, memberStep { group := 1, stage := .data }, by unfold GroupTakes; decide +kernel⟩,
   ⟨{ kind := 1, group := 1 }, { members := [0] }, stokedGroup, by unfold GroupTakes; decide +kernel⟩,
   ⟨{ kind := 2, group := 1 }, { members := [0] }, 0, staging (1, 0) [], staging (1, 0) [], by unfold GroupTakes; decide +kernel⟩,
   ⟨{ kind := 12, group := 1 }, { members := [0] }, 5, { group := 1, stage := .data }, memberStep { group := 1, stage := .data }, by unfold GroupTakes; decide +kernel⟩,
   ⟨5, { group := 1, stage := .done }, memberStep { group := 1, stage := .done }, by decide +kernel⟩,
   ⟨{ kind := 2, group := 1 }, { members := [0] }, staging (0, 0) [(0, 1)], staging (0, 0) [(0, 1)], by unfold GroupTakes; decide +kernel⟩⟩

theorem witness_CollectiveMessages :
    (∃ (p : ExPkt) (g : Group) (s : State), GroupTakes s p 4 g) ∧
    (∃ (p : ExPkt) (g : Group) (s : State), GroupTakes s p 7 g) ∧
    (∃ (p : ExPkt) (g : Group) (s : State), GroupTakes s p 9 g) ∧
    (∃ (p : ExPkt) (g : Group) (s : State), GroupTakes s p 8 g) ∧
    (∃ (p : ExPkt) (g : Group) (s : State), GroupTakes s p 5 g) ∧
    (∃ (p : ExPkt) (g : Group) (s : State), GroupTakes s p 11 g) ∧
    (∃ (p : ExPkt) (g : Group) (s : State), GroupTakes s p 6 g ∧ p.reforms ≠ g.reforms ∧ g.removed = false) ∧
    (∃ (p : ExPkt) (g : Group) (r : List Nat) (s : State), GroupTakes s p 6 g ∧ p.reforms = g.reforms ∧ g.lastRemoved = some r ∧ rankMask (g.members.length + r.length) r ≠ p.data.take (ceilDiv (g.members.length + r.length) 8)) ∧
    (∃ (gid : Nat) (g : Group) (s : State), s.group gid = some g ∧ g.removed = false ∧ g.suspected = none ∧ groupTiming s gid = true ∧ coordinatorOf g (groupMissing s gid g) = g.rank) ∧
    (∃ (gid : Nat) (t : Nat) (g : Group) (s : State), s.group gid = some g ∧ g.second = some t ∧ g.removed = true) ∧
    (∃ (gid : Nat) (t : Nat) (g : Group) (s : State), s.group gid = some g ∧ g.second = some t ∧ g.removed = false ∧ g.suspects ≠ []) ∧
    (∃ (gid : Nat) (g : Group) (s : State), s.group gid = some g ∧ g.suspected.isSome = true ∧ g.removed = false ∧ g.rank ∉ g.suspects) ∧
    (∃ (v : Nat), [bitsOf v 0 3, bitsOf v 4 3, bitsOf v 8 3, bitsOf v 12 3, bitsOf v 16 3].Nodup) ∧
    (∃ (v : Nat), (¬ [bitsOf v 0 3, bitsOf v 4 3, bitsOf v 8 3, bitsOf v 12 3, bitsOf v 16 3].Nodup)) ∧
    (∃ (n : Nat), n < 4) ∧
    (∃ (die : Nat) (seq : Nat) (bufs : List Nat) (p : Pool) (s : State), s.hop.waiting.find? (fun w => w.1 = die) = some (die, seq) ∧ (pool0Of s die).request 0 1 = .inr (bufs, p)) ∧
    (∃ (die : Nat) (s : State), s.hop.waiting.find? (fun w => w.1 = die) = none) ∧
    (∃ (die : Nat) (w : Nat × Nat) (e : AllocFail) (s : State), s.hop.waiting.find? (fun w => w.1 = die) = some w ∧ (pool0Of s die).request 0 1 = .inl e) :=
  ⟨⟨{ kind := 4, group := 1 }, { members := [0] }, stokedGroup, by unfold GroupTakes; decide +kernel⟩,
   ⟨{ kind := 7, group := 1 }, { members := [0] }, stokedGroup, by unfold GroupTakes; decide +kernel⟩,
   ⟨{ kind := 9, group := 1 }, { members := [0] }, stokedGroup, by unfold GroupTakes; decide +kernel⟩,
   ⟨{ kind := 8, group := 1 }, { members := [0] }, stokedGroup, by unfold GroupTakes; decide +kernel⟩,
   ⟨{ kind := 5, group := 1 }, { members := [0] }, stokedGroup, by unfold GroupTakes; decide +kernel⟩,
   ⟨{ kind := 11, group := 1 }, { members := [0] }, stokedGroup, by unfold GroupTakes; decide +kernel⟩,
   ⟨{ kind := 6, group := 1, reforms := 1 }, { members := [0] }, stokedGroup, by unfold GroupTakes; decide +kernel⟩,
   ⟨{ kind := 6, group := 1 }, { members := [0], lastRemoved := some [1] }, [1], withGroup stoked0 { members := [0], lastRemoved := some [1] }, by unfold GroupTakes; decide +kernel⟩,
   ⟨1, { members := [0] }, withStep stokedGroup { group := 1, timer := some 0, stage := .counting }, by decide +kernel⟩,
   ⟨1, 0, { second := some 0, removed := true }, withGroup up { second := some 0, removed := true }, by decide +kernel⟩,
   ⟨1, 0, { second := some 0, suspects := [0] }, withGroup up { second := some 0, suspects := [0] }, by decide +kernel⟩,
   ⟨1, { suspected := some 0 }, withGroup up { suspected := some 0 }, by decide +kernel⟩,
   ⟨0x43210, by decide +kernel⟩,
   ⟨0, by decide +kernel⟩,
   ⟨0, by decide +kernel⟩,
   ⟨0, 5, ((pool0Of waitingPool 0).request 0 1).getRight?.elim [] Prod.fst, ((pool0Of waitingPool 0).request 0 1).getRight?.elim {} Prod.snd, waitingPool, by decide +kernel⟩,
   ⟨0, up, by decide +kernel⟩,
   ⟨0, (0, 5), .poolEmpty, { waitingPool with hop := { waitingPool.hop with pool0 := [(0, {})] } }, by decide +kernel⟩⟩

theorem witness_RegisterZeroReadsZero :
    (∃ (i : Nat), i ≠ 0) ∧
    (∃ (i : Nat) (j : Nat), i ≠ j) :=
  ⟨⟨1, by decide +kernel⟩,
   ⟨0, 1, by decide +kernel⟩⟩

theorem witness_MemoryWords :
    (∃ (t : Nat) (w : Nat) (k : Kernel) (s : State), AtWord s t 2 0x00 k w ∧ memAddr k w % 8 = 0 ∧ memAddr k w < 0x10000 ∧ k.dmemBad (memAddr k w) 8 = false) ∧
    (∃ (t : Nat) (w : Nat) (k : Kernel) (s : State), AtWord s t 2 0x00 k w ∧ memAddr k w % 8 = 0 ∧ memAddr k w < 0x10000) ∧
    (∃ (t : Nat) (w : Nat) (k : Kernel) (s : State), AtWord s t 2 0x00 k w ∧ memAddr k w % 8 = 0 ∧ memAddr k w < 0x10000 ∧ k.dmemBad (memAddr k w) 8 = true) ∧
    (∃ (t : Nat) (w : Nat) (k : Kernel) (s : State), AtWord s t 2 0x00 k w ∧ (memAddr k w % 8 ≠ 0 ∨ 0x10000 ≤ memAddr k w)) ∧
    (∃ (t : Nat) (w : Nat) (k : Kernel) (s : State), AtWord s t 2 0x01 k w ∧ 0xC000 ≤ memAddr k w ∧ memAddr k w ≤ 0xFFF8 ∧ k.badDmem = none) ∧
    (∃ (t : Nat) (w : Nat) (k : Kernel) (s : State), AtWord s t 2 0x01 k w ∧ memAddr k w < 0xC000) ∧
    (∃ (t : Nat) (w : Nat) (k : Kernel) (s : State), AtWord s t 2 0x01 k w ∧ 0x10000 ≤ memAddr k w) ∧
    (∃ (t : Nat) (w : Nat) (k : Kernel) (s : State), wordOf s t = some (k, w) ∧ k.awaiting = false ∧ k.fetchBad 1 = true ∧ bitsOf w 0 4 = 2) ∧
    (∃ (a : Nat) (b : Nat) (bs : List Byte), (b < a ∨ a + bs.length ≤ b)) ∧
    (∃ (t : Nat) (w : Nat) (k : Kernel) (bs : List Byte) (s : State), AtWord s t 2 0x02 k w ∧ memAddr k w % 8 = 0 ∧ memAddr k w < 2 ^ 48 ∧ coherentWsp s k.item.seq (ctxFunc s k.item.ctx) (memAddr k w) 8 = .ok bs) ∧
    (∃ (t : Nat) (w : Nat) (k : Kernel) (s : State), AtWord s t 2 0x02 k w ∧ (memAddr k w % 8 ≠ 0 ∨ 2 ^ 48 ≤ memAddr k w)) ∧
    (∃ (t : Nat) (w : Nat) (a : Nat) (dst : Nat) (k : Kernel) (bs : List Byte) (s : State), wordOf s t = some (k, w) ∧ k.stall = .ldw a dst ∧ coherentWsp s k.item.seq (ctxFunc s k.item.ctx) a 8 = .ok bs) ∧
    (∃ (t : Nat) (w : Nat) (a : Nat) (dst : Nat) (k : Kernel) (bs : List Byte) (s : State), wordOf s t = some (k, w) ∧ k.stall = .ldw a dst ∧ coherentWsp s k.item.seq (ctxFunc s k.item.ctx) a 8 = .ok bs ∧ s.page (pageOf a) = none) ∧
    (∃ (t : Nat) (w : Nat) (a : Nat) (dst : Nat) (k : Kernel) (bs : List Byte) (s : State), wordOf s t = some (k, w) ∧ k.stall = .ldw a dst ∧ coherentWsp s k.item.seq (ctxFunc s k.item.ctx) a 8 = .ok bs ∧ (s.page (pageOf a)).isSome = true) :=
  ⟨⟨0, 0x002, {}, standing 0x002, by unfold AtWord; decide +kernel⟩,
   ⟨0, 0x002, {}, standing 0x002, by unfold AtWord; decide +kernel⟩,
   ⟨0, 0x002, { badDmem := some 0 }, standing 0x002 { badDmem := some 0 }, by unfold AtWord; decide +kernel⟩,
   ⟨0, 0x400002, {}, standing 0x400002, by unfold AtWord; decide +kernel⟩,
   ⟨0, 0x20012, regOne 0xC000, standing 0x20012 (regOne 0xC000), by unfold AtWord; decide +kernel⟩,
   ⟨0, 0x012, {}, standing 0x012, by unfold AtWord; decide +kernel⟩,
   ⟨0, 0x20012, regOne 0x10000, standing 0x20012 (regOne 0x10000), by unfold AtWord; decide +kernel⟩,
   ⟨0, 0x002, { badWord := some 0 }, standing 0x002 { badWord := some 0 }, by decide +kernel⟩,
   ⟨0, 1, [0], by decide +kernel⟩,
   ⟨0, 0x022, {}, leBytes 8 0, withPage (standing 0x022) 0 {}, by unfold AtWord; decide +kernel⟩,
   ⟨0, 0x400022, {}, standing 0x400022, by unfold AtWord; decide +kernel⟩,
   ⟨0, 0x022, 0, 1, { stall := .ldw 0 1 }, leBytes 8 0, withPage (standing 0x022 { stall := .ldw 0 1 }) 0 {}, by decide +kernel⟩,
   ⟨0, 0x022, apertureBase + windowBytes, 1, { stall := .ldw (apertureBase + windowBytes) 1 }, leBytes 8 0, cachedWord, by decide +kernel⟩,
   ⟨0, 0x022, 0, 1, { stall := .ldw 0 1 }, leBytes 8 0, withPage (standing 0x022 { stall := .ldw 0 1 }) 0 {}, by decide +kernel⟩⟩

theorem witness_BranchAndControlWords :
    (∃ (t : Nat) (w : Nat) (k : Kernel) (s : State), AtWord s t 3 0x08 k w) ∧
    (∃ (t : Nat) (w : Nat) (k : Kernel) (f : LoopFrame) (rest : List LoopFrame) (s : State), AtWord s t 3 0x09 k w ∧ k.loops = f :: rest) ∧
    (∃ (t : Nat) (w : Nat) (k : Kernel) (s : State), AtWord s t 6 0x00 k w) ∧
    (∃ (t : Nat) (w : Nat) (k : Kernel) (s : State), AtWord s t 6 0x01 k w) ∧
    (∃ (t : Nat) (w : Nat) (k : Kernel) (s : State), AtWord s t 6 0x02 k w) ∧
    (∃ (t : Nat) (w : Nat) (k : Kernel) (s : State), AtWord s t 6 0x03 k w) ∧
    (∃ (t : Nat) (w : Nat) (k : Kernel) (s : State), AtWord s t 6 0x04 k w) ∧
    (∃ (t : Nat) (w : Nat) (k : Kernel) (s : State), AtWord s t 6 0x05 k w) :=
  ⟨⟨0, 0x083, {}, standing 0x083, by unfold AtWord; decide +kernel⟩,
   ⟨0, 0x093, { loops := [{}] }, {}, [], standing 0x093 { loops := [{}] }, by unfold AtWord; decide +kernel⟩,
   ⟨0, 0x006, {}, standing 0x006, by unfold AtWord; decide +kernel⟩,
   ⟨0, 0x016, {}, standing 0x016, by unfold AtWord; decide +kernel⟩,
   ⟨0, 0x026, {}, standing 0x026, by unfold AtWord; decide +kernel⟩,
   ⟨0, 0x036, {}, standing 0x036, by unfold AtWord; decide +kernel⟩,
   ⟨0, 0x046, {}, standing 0x046, by unfold AtWord; decide +kernel⟩,
   ⟨0, 0x056, {}, standing 0x056, by unfold AtWord; decide +kernel⟩⟩

theorem witness_EngineCommandsIssue :
    (∃ (t : Nat) (w : Nat) (k : Kernel) (p : Program) (s : State), wordOf s t = some (k, w) ∧ (s.tile t).program = some p ∧ bitsOf w 0 4 = 4 ∧ (rawCmd p.code k.pc).engine = 0 ∧ (rawCmd p.code k.pc).op = 0 ∧ k.awaiting = false ∧ 16 ≤ ((s.tile t).queue 0).length) ∧
    (∃ (t : Nat) (w : Nat) (k : Kernel) (p : Program) (s : State), wordOf s t = some (k, w) ∧ (s.tile t).program = some p ∧ bitsOf w 0 4 = 4 ∧ (rawCmd p.code k.pc).engine = 1 ∧ (rawCmd p.code k.pc).op = 0 ∧ k.awaiting = false ∧ 32 ≤ ((s.tile t).queue 1).length) ∧
    (∃ (t : Nat) (w : Nat) (k : Kernel) (p : Program) (os : List Opnd) (s : State), wordOf s t = some (k, w) ∧ (s.tile t).program = some p ∧ bitsOf w 0 4 = 4 ∧ (rawCmd p.code k.pc).engine = 1 ∧ (rawCmd p.code k.pc).op = 0 ∧ k.awaiting = false ∧ ((s.tile t).queue 1).length < queueDepth 1 ∧ pointHeld s 1 t 1 = false ∧ allSome ((rawCmd p.code k.pc).ops.map (resolveOp p k (rawCmd p.code k.pc))) = some os ∧ ((∀ o ∈ (rawCmd p.code k.pc).ops, k.dmemBad (8 * o.agd) 64 = false)) ∧ k.fetchBad (1 + (rawCmd p.code k.pc).xwords) = false ∧ (∀ o ∈ os, o.total ≠ 0) ∧ countsDiffer (rawCmd p.code k.pc) os = true) :=
  ⟨⟨0, 0x004, {}, oneWord 0x004, standing 0x004 {} { q0 := full 16 0 }, by decide +kernel⟩,
   ⟨0, 0x014, {}, oneWord 0x014, standing 0x014 {} { q1 := full 32 1 }, by decide +kernel⟩,
   ⟨0, unequal.toNat, {}, twoOperands, [{ role := 0, unit := 4, fmt := 7, agd := 0 }, { role := 1, unit := 8, fmt := 7, agd := 2 }], { up with tiles := [(0, { running with bank0 := { prog := some twoOperands }, kernel := some {} })] }, by decide +kernel⟩⟩

theorem witness_KernelStartRegisters : ∃ (t : Nat) (l : Nat) (i : Item) (rest : List Item) (p : Program) (e : KEntry) (w : State) (s : State), w = settleWork s ∧ (w.tile t).runs = true ∧ (w.tile t).draining = false ∧ (w.tile t).kernel = none ∧ swapBanks (w.tile t) = w.tile t ∧ flag w Fld.TIL_CTL_HALT t = false ∧ (w.tile t).items = i :: rest ∧ (w.tile t).program = some p ∧ p.id = i.image ∧ p.entries[i.entry]? = some e ∧ e.kind = i.kind ∧ logicalOf w t = some l :=
  ⟨0, 0, { image := 1 }, [], kernelProgram, { words := 1 }, settleWork itemWaits, itemWaits, by decide +kernel⟩

theorem witness_WorkAndEnginesRun :
    (∃ (t : Nat) (s : State), ((settleWork s).tile t).runs = true ∧ ((settleWork s).tile t).draining = false ∧ ((settleWork s).tile t).kernel = none ∧ flag (settleWork s) Fld.TIL_CTL_HALT t = false) ∧
    (∃ (t : Nat) (s : State), ((settleWork s).tile t).runs = true ∧ ((settleWork s).tile t).draining = false ∧ ((settleWork s).tile t).kernel = none ∧ flag (settleWork s) Fld.TIL_CTL_HALT t = true) ∧
    (∃ (t : Nat) (k : Kernel) (s : State), ((settleWork s).tile t).kernel = some k) ∧
    (∃ (t : Nat) (e : Nat) (c : EngCmd) (q : List EngCmd) (eff : Effects) (s : State) (u : State), (s.tile t).queue e = c :: q ∧ (s.tile t).runs = true ∧ e < 4 ∧ waitsMet (s.tile t) c = true ∧ ((s.tile t).flight.filter fun f => f.cmd.engine = e).length < engineSlots e ∧ (e = 0 → mmaHeld s = false) ∧ runCommand s t (ctxFunc s c.item.ctx) c = .done eff u) ∧
    (∃ (t : Nat) (e : Nat) (c : EngCmd) (q : List EngCmd) (s : State), (s.tile t).queue e = c :: q ∧ (s.tile t).runs = true ∧ e < 4 ∧ waitsMet (s.tile t) c = true ∧ ((s.tile t).flight.filter fun f => f.cmd.engine = e).length < engineSlots e ∧ (e = 0 → mmaHeld s = false)) ∧
    (∃ (s : State), mmaHeld s = true) ∧
    (∃ (t : Nat) (e : Nat) (s : State), (s.tile t).queue e = []) ∧
    (∃ (t : Nat) (e : Nat) (f : InFlight) (s : State), (s.tile t).flight.find? (fun f => f.cmd.engine = e) = some f ∧ (s.tile t).runs = true ∧ wantedLines s f = [] ∧ f.dead = false ∧ f.cmd.signal = none) :=
  ⟨⟨0, withTile running, by decide +kernel⟩,
   ⟨0, setFld (withTile running) Fld.TIL_CTL_HALT 1 0, by decide +kernel⟩,
   ⟨0, {}, standing 0, by decide +kernel⟩,
   ⟨0, 0, { idle := true }, [], {}, withTile { running with q0 := [{ idle := true }] }, withTile { running with q0 := [{ idle := true }] }, by decide +kernel⟩,
   ⟨0, 0, {}, [], withTile { running with q0 := [{}] }, by decide +kernel⟩,
   ⟨{ setFld up Fld.PWR_STATUS_DUTY 1 with pwr := { up.pwr with dutyHold := true } }, by decide +kernel⟩,
   ⟨0, 0, up, by decide +kernel⟩,
   ⟨0, 0, {}, withTile { running with flight := [{}] }, by decide +kernel⟩⟩

theorem witness_TileStateRows :
    (∃ (t : Nat) (e : Nat) (k : Kernel) (s : State), (s.tile t).kernel = some k ∧ k.stall = .event e ∧ (s.tile t).event e = 0 ∧ (s.tile t).runs = true ∧ (s.tile t).idle = true) ∧
    (∃ (t : Nat) (k : Kernel) (s : State), (s.tile t).kernel = some k ∧ k.stall = .none) ∧
    (∃ (t : Nat) (s : State), (s.tile t).faulted = true) ∧
    (∃ (t : Nat) (s : State), (s.tile t).draining = true ∧ (s.tile t).faulted = false ∧ (s.tile t).idle = true) ∧
    (∃ (t : Nat) (s : State), t < 152 ∧ (s.tile t).rowOn = true ∧ roleOf s t ≠ .dark) ∧
    (∃ (t : Nat) (s : State), ((s.tile t).rowOn = false ∨ roleOf s t = .dark)) ∧
    (∃ (t : Nat) (s : State), (s.tile t).rowOn = true ∧ (s.tile t).clkOn = false ∧ roleOf s t = .inService) ∧
    (∃ (t : Nat) (s : State), (s.tile t).clkOn = true ∧ (s.tile t).items = [] ∧ (s.tile t).kernel = none ∧ (s.tile t).idle = true ∧ (s.tile t).q0 = [] ∧ (s.tile t).q1 = [] ∧ (s.tile t).q2 = [] ∧ (s.tile t).q3 = [] ∧ raw s Reg.TIL_FAULT t = 0 ∧ (s.tile t).faulted = false ∧ flag s Fld.TIL_CTL_CLK_HOLD t = false) :=
  ⟨⟨0, 3, { stall := .event 3 }, standing 0 { stall := .event 3 }, by decide +kernel⟩,
   ⟨0, {}, standing 0, by decide +kernel⟩,
   ⟨0, withTile { faulted := true }, by decide +kernel⟩,
   ⟨0, withTile { draining := true }, by decide +kernel⟩,
   ⟨0, inService { rowOn := true }, by decide +kernel⟩,
   ⟨0, up, by decide +kernel⟩,
   ⟨0, { withTile { rowOn := true } with ras := { up.ras with roles := [(0, .inService)] } }, by decide +kernel⟩,
   ⟨0, withTile running, by decide +kernel⟩⟩

theorem witness_CommitsAndTheirEffects :
    (∃ (s : State), s.cp.journal.notDurable = []) ∧
    (∃ (q : Nat) (rest : List Nat) (s : State), s.cp.journal.notDurable = q :: rest ∧ s.cp.cores.stopped = false ∧ (injectMany 0xE 0 2 s).1 = 0) ∧
    (∃ (e : JEntry) (c : OpenCmd) (s : State), e.kind = 1 ∧ s.cmd e.seq = some c ∧ c.phase = .accepting ∧ hasK e.seq s.det.fed = false ∧ e.gone = false) ∧
    (∃ (e : JEntry) (c : OpenCmd) (s : State), e.kind = 3 ∧ s.cmd e.ref = some c) ∧
    (∃ (e : JEntry) (s : State), e.kind = 2 ∧ e.gone = false ∧ hasK e.seq s.det.fed = false) ∧
    (∃ (e : JEntry) (s : State), e.kind = 2 ∧ e.gone = true ∧ hasK e.seq s.det.fed = false) ∧
    (∃ (s : State), s.cp.cores.stopped = true) ∧
    (∃ (c : OpenCmd), isStepOp c.pkt = false ∧ c.result.good = true) ∧
    (∃ (c : OpenCmd), isStepOp c.pkt = false ∧ c.result.good = false) ∧
    (∃ (c : OpenCmd), pOpcode c.pkt = 0x03) ∧
    (∃ (c : OpenCmd), pOpcode c.pkt = 0xA1) ∧
    (∃ (c : OpenCmd), pOpcode c.pkt = 0x21) ∧
    (∃ (c : OpenCmd), pOpcode c.pkt = 0xC9) ∧
    (∃ (c : OpenCmd), pOpcode c.pkt = 0x00) ∧
    (∃ (seq : Nat) (c : OpenCmd) (s : State) (u : State) (v : State), isStepOp c.pkt = true ∧ c.result.good = true ∧ u = count (commitOp (commitWrites (recordLate s seq c) false c.writes c.written) seq c) bankCp 3 ∧ (u.stream (pContext c.pkt) (pStream c.pkt)).stepSeq = seq ∧ v = stepEnds u (pContext c.pkt) (pStream c.pkt) true) :=
  ⟨⟨up, by decide +kernel⟩,
   ⟨1, [], notDurable { seq := 1 }, by decide +kernel⟩,
   ⟨{ kind := 1, seq := 5 }, theCmd (opened up 0 0 none .accepting), opened up 0 0 none .accepting, by decide +kernel⟩,
   ⟨{ kind := 3, seq := 6, ref := 5 }, theCmd (opened up 0 0 none .completing), opened up 0 0 none .completing, by decide +kernel⟩,
   ⟨{ kind := 2, seq := 5 }, up, by decide +kernel⟩,
   ⟨{ kind := 2, seq := 5, gone := true }, up, by decide +kernel⟩,
   ⟨halted, by decide +kernel⟩,
   ⟨{}, by decide +kernel⟩,
   ⟨{ result := { status := 2 } }, by decide +kernel⟩,
   ⟨theCmd (opened up 0x03), by decide +kernel⟩,
   ⟨theCmd (opened up 0xA1), by decide +kernel⟩,
   ⟨theCmd (opened up 0x21), by decide +kernel⟩,
   ⟨theCmd (opened up 0xC9), by decide +kernel⟩,
   ⟨theCmd (opened up 0x00), by decide +kernel⟩,
   ⟨5, theCmd (opened up 0x80), committing, committed, stepEnds committed 0 0 true, by decide +kernel⟩⟩

theorem witness_WorkEndsAndCores :
    (∃ (seq : Nat) (c : OpenCmd) (s : State), s.cmd seq = some c ∧ c.phase ≠ .working) ∧
    (∃ (seq : Nat) (c : OpenCmd) (s : State), s.cmd seq = some c ∧ c.phase = .working ∧ s.cp.cores.stopped = false) ∧
    (∃ (s : State), s.cp.cores.stopped = false ∧ s.cp.cores.standby = false) ∧
    (∃ (s : State), s.cp.cores.stopped = false ∧ s.cp.cores.standby = true) ∧
    (∃ (s : State), s.cp.cores.testing = true) :=
  ⟨⟨5, theCmd (opened up 0x40), opened up 0x40, by decide +kernel⟩,
   ⟨5, theCmd (opened up 0x40 0 none .working), opened up 0x40 0 none .working, by decide +kernel⟩,
   ⟨up, by decide +kernel⟩,
   ⟨{ up with cp := { up.cp with cores := { standby := true } } }, by decide +kernel⟩,
   ⟨{ up with cp := { up.cp with cores := { testing := true } } }, by decide +kernel⟩⟩

theorem witness_MemorySystemRows :
    (∃ (q : Nat) (r : NandRead) (m : Move) (d : Page) (s : State) (t : State), fetchMove s q = some m ∧ s.page q = some d ∧ d.inDram = false ∧ d.lost = false ∧ (readAs s r 8).lost = false ∧ placeFetch s q (m.kind = .prefetch) = some t) ∧
    (∃ (q : Nat) (r : NandRead) (m : Move) (d : Page) (s : State), fetchMove s q = some m ∧ s.page q = some d ∧ d.inDram = false ∧ d.lost = false ∧ (readAs s r 8).lost = false ∧ m.kind = .prefetch ∧ placeFetch s q true = none) ∧
    (∃ (q : Nat) (r : NandRead) (m : Move) (d : Page) (s : State), fetchMove s q = some m ∧ s.page q = some d ∧ d.inDram = false ∧ d.lost = false ∧ (readAs s r 8).lost = false ∧ m.kind = .demand ∧ placeFetch s q false = none) ∧
    (∃ (q : Nat) (r : NandRead) (m : Move) (d : Page) (s : State), fetchMove s q = some m ∧ s.page q = some d ∧ d.inDram = false ∧ d.lost = false ∧ (readAs s r 8).lost = true) ∧
    (∃ (q : Nat) (s : State), s.page q = none) ∧
    (∃ (q : Nat) (m : Move) (d : Page) (s : State), fetchMove s q = some m ∧ s.page q = some d ∧ (d.inDram = true ∨ d.lost = true)) ∧
    (∃ (q : Nat) (r : NandRead) (m : Move) (d : Page) (s : State), fetchMove s q = some m ∧ s.page q = some d ∧ d.inDram = false ∧ d.lost = false ∧ (readAs s r 8).lost = false ∧ (m.kind = .repour ∨ m.kind = .restore) ∧ placeFetch s q false = none) ∧
    (∃ (q : Nat) (d : Page) (s : State), s.page q = some d ∧ d.dirty = true ∧ d.inNand = true ∧ d.inDram = true ∧ d.lost = false ∧ pageInDest s q = false) ∧
    (∃ (q : Nat) (d : Page) (s : State), s.page q = some d ∧ pageInDest s q = true) ∧
    (∃ (q : Nat) (pref : Nat) (r : NandRead) (d : Page) (m : Move) (s : State) (t : State), s.page q = some d ∧ s.wsp.moves.find? (fun m => m.page = q && m.kind = .migrate) = some m ∧ (pageInDest s q && m.tier ≠ 1) = false ∧ (d.lost && moveReads d m.tier) = false ∧ (m.tier ≠ 0 && !d.inDram && (readAs s r 8).lost) = false ∧ pref = ((s.cmd m.seq).map fun c => pPref c.pkt).getD d.pref ∧ reachTier s q m.tier pref r = some t) ∧
    (∃ (q : Nat) (d : Page) (m : Move) (s : State), s.page q = some d ∧ s.wsp.moves.find? (fun m => m.page = q && m.kind = .migrate) = some m ∧ (pageInDest s q && m.tier ≠ 1) = false ∧ d.lost = true ∧ moveReads d m.tier = true) ∧
    (∃ (q : Nat) (r : NandRead) (d : Page) (m : Move) (s : State), s.page q = some d ∧ s.wsp.moves.find? (fun m => m.page = q && m.kind = .migrate) = some m ∧ (pageInDest s q && m.tier ≠ 1) = false ∧ (d.lost && moveReads d m.tier) = false ∧ (m.tier ≠ 0 && !d.inDram && (readAs s r 8).lost) = true) ∧
    (∃ (q : Nat) (d : Page) (m : Move) (s : State), s.page q = some d ∧ s.wsp.moves.find? (fun m => m.page = q && m.kind = .migrate) = some m ∧ (pageInDest s q && m.tier ≠ 1) = true) ∧
    (∃ (l : Nat) (t : Nat) (d : Staged) (s : State), s.wsp.staged.find? (stageDue s l) = some (l, d) ∧ physOf s l = some t ∧ (s.tile t).rowOn = true ∧ firstLost s d.entry.addr d.entry.len = none ∧ absentPages s d.entry.addr d.entry.len = [] ∧ windowLines s false [(d.entry.addr, d.entry.len)] = []) ∧
    (∃ (l : Nat) (t : Nat) (p : Nat) (d : Staged) (s : State), s.wsp.staged.find? (stageDue s l) = some (l, d) ∧ physOf s l = some t ∧ (s.tile t).rowOn = true ∧ firstLost s d.entry.addr d.entry.len = some p) ∧
    (∃ (s : State), s.wsp.staged = []) ∧
    (∃ (st : Nat) (fr : Nat) (s : State), stoked s = true ∧ flag s Fld.WSP_CTL_SCRUB_EN = true ∧ stackFailed s st = false ∧ st < 24 ∧ fr < 45776) ∧
    (∃ (r : ScrubResult) (s : State), flag s Fld.WSP_CTL_SCRUB_EN = false ∧ r.byReader = false) ∧
    (∃ (st : Nat) (s : State), st < 24 ∧ stackFailed s st = false) ∧
    (∃ (st : Nat) (s : State), stackFailed s st = true) ∧
    (∃ (s : State), stoked s = true ∧ flag s Fld.NTL_CTL_DISTURB_EN = true) ∧
    (∃ (s : State), stoked s = true ∧ flag s Fld.NTL_CTL_WEAR_EN = true) ∧
    (∃ (s : State), stoked s = false) ∧
    (∃ (ch : Nat) (s : State), ch < 16 ∧ ch ∉ s.ntl.chFailed) ∧
    (∃ (st : Nat) (fr : Nat) (q : Nat) (s : State), stoked s = true ∧ flag s Fld.WSP_CTL_SCRUB_EN = true ∧ stackFailed s st = false ∧ st < 24 ∧ fr < 45776 ∧ lookup (frameKey st fr) s.wsp.frames = some q) ∧
    (∃ (st : Nat) (fr : Nat) (r : ScrubResult) (s : State), stackFailed s st = false ∧ st < 24 ∧ fr < 45776 ∧ r.byReader = true) ∧
    (∃ (s : State), stoked s = true ∧ flag s Fld.NTL_CTL_PATROL_EN = true) ∧
    (∃ (ch : Nat) (s : State), stoked s = true ∧ ch < 16) ∧
    (∃ (f : Nat) (o : Nat) (s : State), bar2Addr (wakeTrigger s) f o = none) ∧
    (∃ (f : Nat) (o : Nat) (a : Nat) (n : Nat) (s : State), bar2Addr (wakeTrigger s) f o = some a ∧ bar2Lines (wakeTrigger s) f o n false = [] ∧ (wakeTrigger s).flk.poisoned = []) ∧
    (∃ (f : Nat) (o : Nat) (a : Nat) (bs : List Byte) (s : State), bar2Addr (wakeTrigger s) f o = some a ∧ bar2Lines (wakeTrigger s) f o bs.length true = []) ∧
    (∃ (a : Nat) (d : Page) (s : State), jrnPage s (pageOf a) = false ∧ s.page (pageOf a) = some d ∧ d.module = false ∧ d.inDram = false) ∧
    (∃ (a : Nat) (d : Page) (s : State), jrnPage s (pageOf a) = false ∧ s.page (pageOf a) = some d ∧ d.module = false ∧ d.inDram = true ∧ d.lost = false ∧ poisonedAt s a = false ∧ openTo s 0 a = false) :=
  ⟨⟨0, { retries := 0, rebuilt := 0, lost := false }, { kind := .demand }, { tier := 0 }, fetchingPage .demand, (placeFetch (fetchingPage .demand) 0 false).getD up, by decide +kernel⟩,
   ⟨0, { retries := 0, rebuilt := 0, lost := false }, { kind := .prefetch }, { tier := 0 }, fetchingPage .prefetch { tier := 0 } true, by decide +kernel⟩,
   ⟨0, { retries := 0, rebuilt := 0, lost := false }, { kind := .demand }, { tier := 0 }, fetchingPage .demand { tier := 0 } true, by decide +kernel⟩,
   ⟨0, { retries := 0, rebuilt := 0, lost := true }, { kind := .demand }, { tier := 0 }, fetchingPage .demand, by decide +kernel⟩,
   ⟨0, up, by decide +kernel⟩,
   ⟨0, { kind := .demand }, {}, fetchingPage .demand {}, by decide +kernel⟩,
   ⟨0, {}, { kind := .repour }, { tier := 0 }, fetchingPage .repour { tier := 0 } true, by decide +kernel⟩,
   ⟨0, { tier := 2, dirty := true }, withPage up 0 { tier := 2, dirty := true }, by decide +kernel⟩,
   ⟨0, {}, { withPage up 0 {} with cp := { up.cp with cmds := [(5, { written := [(0, 8)] })] } }, by decide +kernel⟩,
   ⟨0, 31, {}, { pref := 31 }, { kind := .migrate }, fetchingPage .migrate { pref := 31 }, (reachTier (fetchingPage .migrate { pref := 31 }) 0 0 31 {}).getD up, by decide +kernel⟩,
   ⟨0, { lost := true }, { kind := .migrate, tier := 2 }, { fetchingPage .migrate { lost := true } with wsp := { (fetchingPage .migrate { lost := true }).wsp with moves := [{ kind := .migrate, tier := 2 }] } }, by decide +kernel⟩,
   ⟨0, { lost := true }, { tier := 0 }, { kind := .migrate, tier := 1 }, { fetchingPage .migrate { tier := 0 } with wsp := { (fetchingPage .migrate { tier := 0 }).wsp with moves := [{ kind := .migrate, tier := 1 }] } }, by decide +kernel⟩,
   ⟨0, {}, { kind := .migrate }, { fetchingPage .migrate {} with cp := { up.cp with cmds := [(5, { written := [(0, 8)] })] } }, by decide +kernel⟩,
   ⟨0, 0, { entry := { len := 8 } }, stagingHere {}, by decide +kernel⟩,
   ⟨0, 0, 0, { entry := { len := 8 } }, stagingHere { lost := true }, by decide +kernel⟩,
   ⟨up, by decide +kernel⟩,
   ⟨0, 0, stoked0, by decide +kernel⟩,
   ⟨{ corrected := [], uncorrectable := false, passEnd := false }, setFld up Fld.WSP_CTL_SCRUB_EN 0, by decide +kernel⟩,
   ⟨0, up, by decide +kernel⟩,
   ⟨0, { up with wsp := { up.wsp with failed := [0] } }, by decide +kernel⟩,
   ⟨stoked0, by decide +kernel⟩,
   ⟨stoked0, by decide +kernel⟩,
   ⟨setFld up Fld.PWR_STATUS_STATE 2, by decide +kernel⟩,
   ⟨0, up, by decide +kernel⟩,
   ⟨0, 0, 0, framed, by decide +kernel⟩,
   ⟨0, 0, { corrected := [], uncorrectable := true, passEnd := false, byReader := true }, framed, by decide +kernel⟩,
   ⟨setFld stoked0 Fld.NTL_CTL_PATROL_EN 1, by decide +kernel⟩,
   ⟨0, stoked0, by decide +kernel⟩,
   ⟨0, 2 ^ 36, up, by decide +kernel⟩,
   ⟨0, 0, 0, 8, up, by decide +kernel⟩,
   ⟨0, 0, 0, leBytes 8 0, up, by decide +kernel⟩,
   ⟨0, { tier := 0 }, withPage up 0 { tier := 0 }, by decide +kernel⟩,
   ⟨0, {}, withPage up 0 {}, by decide +kernel⟩⟩

theorem witness_PortAndFlitRows :
    (∃ (p : Nat) (s : State), p < 20 ∧ portFused s p = false) ∧
    (∃ (p : Nat) (s : State), portFused s p = true) ∧
    (∃ (p : Nat) (s : State), portActive s p = true) ∧
    (∃ (p : Nat) (s : State), p < 20 ∧ fld s Fld.FAB_PORT_STATUS_STATE p = 2 ∧ (s.port p).quick = false) ∧
    (∃ (p : Nat) (s : State), p < 20 ∧ fld s Fld.FAB_PORT_STATUS_STATE p = 3 ∧ (s.port p).stage = 5) ∧
    (∃ (p : Nat) (s : State), fld s Fld.FAB_PORT_STATUS_STATE p = 3 ∧ (s.port p).timedOut = false ∧ (s.port p).verBad = false) ∧
    (∃ (p : Nat) (s : State), fld s Fld.FAB_PORT_STATUS_STATE p = 0) ∧
    (∃ (p : Nat) (s : State), fld s Fld.FAB_PORT_STATUS_STATE p = 3) ∧
    (∃ (p : Nat) (s : State), fld s Fld.FAB_PORT_STATUS_STATE p ≠ 3) ∧
    (∃ (p : Nat) (m : InitMsg) (s : State), p < 20 ∧ fld s Fld.FAB_PORT_STATUS_STATE p = 3 ∧ (s.port p).stage = 4 ∧ (m.major = 0 ∨ 3 ≤ m.major)) ∧
    (∃ (p : Nat) (m : InitMsg) (s : State), p < 20 ∧ fld s Fld.FAB_PORT_STATUS_STATE p = 3 ∧ (s.port p).stage = 4 ∧ 1 ≤ m.major ∧ m.major < 3 ∧ fld s Fld.FAB_PORT_STATUS_LANES p ≠ 2) ∧
    (∃ (p : Nat) (l : Nat) (s : State), p < 20 ∧ l < 4 ∧ 2 ≤ fld s Fld.FAB_PORT_STATUS_STATE p ∧ fld s Fld.FAB_PORT_STATUS_STATE p ≤ 5 ∧ laneBit s p l 2 = false ∧ pairGood (markLane s p l) p 0 = false ∧ pairGood (markLane s p l) p 1 = false) ∧
    (∃ (p : Nat) (s : State), (s.port p).verBad = true) ∧
    (∃ (p : Nat) (m : InitMsg) (s : State), p < 20 ∧ fld s Fld.FAB_PORT_STATUS_STATE p = 3 ∧ (s.port p).stage = 4 ∧ m.major = 1 ∧ fld s Fld.FAB_PORT_STATUS_LANES p = 2) ∧
    (∃ (p : Nat) (l : Nat) (s : State), p < 20 ∧ l < 4 ∧ fld s Fld.FAB_PORT_STATUS_STATE p = 5 ∧ laneBit s p l 2 = false ∧ (pairGood (markLane s p l) p 0 || pairGood (markLane s p l) p 1) = true ∧ 5 ≤ ((markLane s p l).port p).stage) ∧
    (∃ (p : Nat) (l : Nat) (s : State), laneBit s p l 2 = true) ∧
    (∃ (p : Nat) (n : Nat) (bs : List Byte) (s : State), p < 20 ∧ bs.length = 640 ∧ (fld s Fld.FAB_PORT_STATUS_STATE p = 4 ∨ fld s Fld.FAB_PORT_STATUS_STATE p = 5) ∧ 15 < n) ∧
    (∃ (p : Nat) (bs : List Byte) (s : State), p < 20 ∧ bs.length = 640 ∧ (fld s Fld.FAB_PORT_STATUS_STATE p = 4 ∨ fld s Fld.FAB_PORT_STATUS_STATE p = 5) ∧ crc32c (bs.take 636) ≠ leNat ((bs.drop 636).take 4)) ∧
    (∃ (p : Nat) (bs : List Byte) (s : State), p < 20 ∧ bs.length = 640 ∧ (fld s Fld.FAB_PORT_STATUS_STATE p = 4 ∨ fld s Fld.FAB_PORT_STATUS_STATE p = 5) ∧ crc32c (bs.take 636) = leNat ((bs.drop 636).take 4) ∧ bitsOf (leNat (bs.take 8)) 48 4 ≠ 0) ∧
    (∃ (p : Nat) (bs : List Byte) (t : State) (s : State), p < 20 ∧ bs.length = 640 ∧ (fld s Fld.FAB_PORT_STATUS_STATE p = 4 ∨ fld s Fld.FAB_PORT_STATUS_STATE p = 5) ∧ crc32c (bs.take 636) = leNat ((bs.drop 636).take 4) ∧ bitsOf (leNat (bs.take 8)) 48 4 = 0 ∧ inject s 9 p = (false, t)) ∧
    (∃ (bs : List Byte), bs.length ≠ 640) ∧
    (∃ (p : Nat) (s : State), portActive s p = true) ∧
    (∃ (p : Nat) (s : State), portActive s p = false) :=
  ⟨⟨0, up, by decide +kernel⟩,
   ⟨4, gradeS, by decide +kernel⟩,
   ⟨0, portIn 5, by decide +kernel⟩,
   ⟨0, portIn 2, by decide +kernel⟩,
   ⟨0, portIn 3 { stage := 5 }, by decide +kernel⟩,
   ⟨0, portIn 3, by decide +kernel⟩,
   ⟨0, portIn 0, by decide +kernel⟩,
   ⟨0, portIn 3, by decide +kernel⟩,
   ⟨0, portIn 5, by decide +kernel⟩,
   ⟨0, { major := 0, minor := 0, peerPort := 0, endpoint := 0, digest := 0, rungs := 0, credits := 0 }, portIn 3 { stage := 4 }, by decide +kernel⟩,
   ⟨0, { major := 1, minor := 0, peerPort := 0, endpoint := 0, digest := 0, rungs := 0, credits := 0 }, portIn 3 { stage := 4 }, by decide +kernel⟩,
   ⟨0, 0, setLaneBit (portIn 5) 0 2 2 true, by decide +kernel⟩,
   ⟨0, portIn 3 { verBad := true }, by decide +kernel⟩,
   ⟨0, { major := 1, minor := 0, peerPort := 0, endpoint := 0, digest := 0, rungs := 0, credits := 0 }, setFld (portIn 3 { stage := 4 }) Fld.FAB_PORT_STATUS_LANES 2 0, by decide +kernel⟩,
   ⟨0, 0, portIn 5 { stage := 5 }, by decide +kernel⟩,
   ⟨0, 0, setLaneBit (portIn 5) 0 0 2 true, by decide +kernel⟩,
   ⟨0, 16, flit 0 0, portIn 5, ⟨by decide, flit_length 0 0, by decide +kernel, by decide⟩⟩,
   ⟨0, flit 0 1, portIn 5, ⟨by decide, flit_length 0 1, by decide +kernel, flit_bad 0⟩⟩,
   ⟨0, flit (2 ^ 48) 0, portIn 5, ⟨by decide, flit_length _ 0, by decide +kernel, flit_good _, by decide +kernel⟩⟩,
   ⟨0, flit 0 0, (inject (portIn 5) 9 0).2, portIn 5, ⟨by decide, flit_length 0 0, by decide +kernel, flit_good 0, by decide +kernel, by decide +kernel⟩⟩,
   ⟨[], by decide +kernel⟩,
   ⟨0, portIn 5, by decide +kernel⟩,
   ⟨0, up, by decide +kernel⟩⟩

theorem witness_PacketsMoveThroughRouter :
    (∃ (i : Nat) (s : State), s.fab.inject[i]? = none) ∧
    (∃ (i : Nat) (o : Outgoing) (s : State), s.fab.inject[i]? = some o ∧ mayInject s = false ∧ o.pkt.kind ≠ 3 ∧ runnerClass o = none) ∧
    (∃ (i : Nat) (o : Outgoing) (s : State), s.fab.inject[i]? = some o ∧ mayInject s = true ∧ o.inFlow = false ∧ runnerHeld s o = false ∧ (o.pkt.kind = 0 → o.pkt.mcast = false) ∧ runnerClass o = none ∧ nextHop s (spray (runnerInjected { s with fab := { s.fab with inject := s.fab.inject.eraseIdx i } } o) o.pkt).1 = .eject) ∧
    (∃ (i : Nat) (s : State), s.fab.input[i]? = none) ∧
    (∃ (i : Nat) (a : Arrived) (s : State), s.fab.input[i]? = some a ∧ a.here = false ∧ (((markPassed s a.pkt).kind = 0 → (markPassed s a.pkt).mcast = false)) ∧ nextHop s (markPassed s a.pkt) = .eject ∧ (¬ ((markPassed s a.pkt).kind = 0 ∧ (markPassed s a.pkt).proto = 3 ∧ isLeg s (markPassed s a.pkt) = true))) ∧
    (∃ (i : Nat) (a : Arrived) (ps : List Nat) (s : State), s.fab.input[i]? = some a ∧ a.here = false ∧ (((markPassed s a.pkt).kind = 0 → (markPassed s a.pkt).mcast = false)) ∧ nextHop s (markPassed s a.pkt) = .ports ps ∧ (markPassed s a.pkt).hops = 12) ∧
    (∃ (i : Nat) (a : Arrived) (ps : List Nat) (s : State), s.fab.input[i]? = some a ∧ a.here = false ∧ (((markPassed s a.pkt).kind = 0 → (markPassed s a.pkt).mcast = false)) ∧ nextHop s (markPassed s a.pkt) = .ports ps ∧ (markPassed s a.pkt).hops ≠ 12 ∧ tooOld s a.at_ (markPassed s a.pkt) = false ∧ usablePorts s (markPassed s a.pkt) ps = []) ∧
    (∃ (i : Nat) (c : Nat) (a : Arrived) (ps : List Nat) (s : State), s.fab.input[i]? = some a ∧ a.here = false ∧ (((markPassed s a.pkt).kind = 0 → (markPassed s a.pkt).mcast = false)) ∧ nextHop s (markPassed s a.pkt) = .ports ps ∧ (markPassed s a.pkt).hops ≠ 12 ∧ tooOld s a.at_ (markPassed s a.pkt) = false ∧ usablePorts s (markPassed s a.pkt) ps ≠ [] ∧ leastLoaded s ((usablePorts s (markPassed s a.pkt) ps).filter fun c => hasCredit s c (markPassed s a.pkt)) = some c) ∧
    (∃ (i : Nat) (a : Arrived) (ps : List Nat) (s : State), s.fab.input[i]? = some a ∧ a.here = false ∧ (((markPassed s a.pkt).kind = 0 → (markPassed s a.pkt).mcast = false)) ∧ nextHop s (markPassed s a.pkt) = .ports ps ∧ (markPassed s a.pkt).hops ≠ 12 ∧ tooOld s a.at_ (markPassed s a.pkt) = false ∧ usablePorts s (markPassed s a.pkt) ps ≠ [] ∧ leastLoaded s ((usablePorts s (markPassed s a.pkt) ps).filter fun c => hasCredit s c (markPassed s a.pkt)) = none) ∧
    (∃ (i : Nat) (c : Nat) (o : Outgoing) (s : State) (t : State), s.fab.inject[i]? = some o ∧ runnerClass o = some c ∧ injectOne s i = some t) ∧
    (∃ (i : Nat) (s : State), injectOne s i = none) ∧
    (∃ (i : Nat) (a : Arrived) (ps : List Nat) (s : State), s.fab.input[i]? = some a ∧ a.here = false ∧ (((markPassed s a.pkt).kind = 0 → (markPassed s a.pkt).mcast = false)) ∧ nextHop s (markPassed s a.pkt) = .ports ps ∧ (markPassed s a.pkt).hops ≠ 12 ∧ tooOld s a.at_ (markPassed s a.pkt) = true) ∧
    (∃ (i : Nat) (a : Arrived) (s : State), s.fab.input[i]? = some a ∧ a.here = false ∧ (markPassed s a.pkt).kind = 0 ∧ (markPassed s a.pkt).mcast = true) :=
  ⟨⟨0, up, by decide +kernel⟩,
   ⟨0, { pkt := { kind := 1 } }, injecting { pkt := { kind := 1 } } false, by decide +kernel⟩,
   ⟨0, { pkt := { kind := 1 } }, injecting { pkt := { kind := 1 } }, by decide +kernel⟩,
   ⟨0, up, by decide +kernel⟩,
   ⟨0, { pkt := { kind := 1 } }, routing { pkt := { kind := 1 } }, by decide +kernel⟩,
   ⟨0, { pkt := { kind := 1, dest := 1, hops := 12 } }, [0], routing { pkt := { kind := 1, dest := 1, hops := 12 } }, by decide +kernel⟩,
   ⟨0, { pkt := { kind := 1, dest := 1 } }, [0], routing { pkt := { kind := 1, dest := 1 } }, by decide +kernel⟩,
   ⟨0, 0, { pkt := { kind := 1, dest := 1 } }, [0], routing { pkt := { kind := 1, dest := 1 } } 5 { credits := [(creditKey { kind := 1, dest := 1 } 1, 16)] }, by decide +kernel⟩,
   ⟨0, { pkt := { kind := 1, dest := 1 } }, [0], routing { pkt := { kind := 1, dest := 1 } } 5, by decide +kernel⟩,
   ⟨0, 0, { pkt := { tc := 7 } }, injecting { pkt := { tc := 7 } }, (injectOne (injecting { pkt := { tc := 7 } }) 0).getD up, by decide +kernel⟩,
   ⟨0, up, by decide +kernel⟩,
   ⟨0, { pkt := { kind := 1, dest := 1, age := 501 } }, [0], routing { pkt := { kind := 1, dest := 1, age := 501 } }, by decide +kernel⟩,
   ⟨0, { pkt := { kind := 0, mcast := true } }, routing { pkt := { kind := 0, mcast := true } }, by decide +kernel⟩⟩

theorem witness_TransportMessages :
    (∃ (bs : List Byte) (p : XlPkt), parsePkt bs = .hdrBad p) ∧
    (∃ (bs : List Byte) (p : XlPkt), parsePkt bs = .crcBad p) ∧
    (∃ (port : Nat) (bs : List Byte) (p : XlPkt) (s : State) (t : State), parsePkt bs = .ok p ∧ p.kind = 0 ∧ p.dest = endpointId s ∧ police (count (leaveArrival s port p) bankXrt 1) p = (true, t) ∧ epochOk t p.epoch = true ∧ p.mcast = false) ∧
    (∃ (port : Nat) (bs : List Byte) (p : XlPkt) (s : State) (t : State), parsePkt bs = .ok p ∧ p.kind = 0 ∧ p.mcast = true ∧ police (count (leaveArrival s port p) bankXrt 1) p = (true, t) ∧ epochOk t p.epoch = true) ∧
    (∃ (port : Nat) (bs : List Byte) (p : XlPkt) (s : State) (t : State), parsePkt bs = .ok p ∧ p.kind = 0 ∧ p.dest = endpointId s ∧ police (count (leaveArrival s port p) bankXrt 1) p = (true, t) ∧ epochOk t p.epoch = false) ∧
    (∃ (port : Nat) (bs : List Byte) (p : XlPkt) (s : State) (t : State), parsePkt bs = .ok p ∧ p.kind = 0 ∧ p.dest = endpointId s ∧ police (count (leaveArrival s port p) bankXrt 1) p = (false, t)) ∧
    (∃ (p : XlPkt) (s : State) (u : State), ControlTakes s p 1 u ∧ controlOk s p = true ∧ p.mcast = false) ∧
    (∃ (p : XlPkt) (seq : Nat) (s : State) (u : State), ControlTakes s p 1 u ∧ controlOk s p = true ∧ p.mcast = true ∧ mcastBy u (p.arg % 2 ^ 32) = some seq) ∧
    (∃ (p : XlPkt) (s : State) (u : State), ControlTakes s p 2 u ∧ controlOk s p = true ∧ lookup (flowKey p.src p.tc) (timingOpen u).fab.tx = none) ∧
    (∃ (p : XlPkt) (f : TxFlow) (s : State) (u : State), ControlTakes s p 2 u ∧ controlOk s p = true ∧ lookup (flowKey p.src p.tc) (timingOpen u).fab.tx = some f) ∧
    (∃ (p : XlPkt) (s : State) (u : State), ControlTakes s p 3 u ∧ controlOk s p = true ∧ p.mcast = false) ∧
    (∃ (p : XlPkt) (s : State) (u : State), ControlTakes s p 1 u ∧ controlOk s p = false) ∧
    (∃ (p : XlPkt) (s : State) (u : State), ControlTakes s p 4 u ∧ epochOk s p.epoch = true) ∧
    (∃ (p : XlPkt) (s : State) (u : State), ControlTakes s p 5 u) :=
  ⟨⟨[], badHeader, by decide +kernel⟩,
   ⟨headerBytes dataPkt ++ [0, 0, 0, 0], dataPkt, by decide +kernel⟩,
   ⟨31, encodePkt dataPkt, dataPkt, withEndpoint up, (police (count (leaveArrival (withEndpoint up) 31 dataPkt) bankXrt 1) dataPkt).2, by decide +kernel⟩,
   ⟨31, encodePkt mcastPkt, mcastPkt, withEndpoint up, (police (count (leaveArrival (withEndpoint up) 31 mcastPkt) bankXrt 1) mcastPkt).2, by decide +kernel⟩,
   ⟨31, encodePkt dataPkt, dataPkt, up, (police (count (leaveArrival (up) 31 dataPkt) bankXrt 1) dataPkt).2, by decide +kernel⟩,
   ⟨31, encodePkt dataPkt, dataPkt, policed, (police (count (leaveArrival (policed) 31 dataPkt) bankXrt 1) dataPkt).2, by decide +kernel⟩,
   ⟨{ kind := 1 }, withEndpoint up, count (withEndpoint up) bankXrt 1, by unfold ControlTakes; decide +kernel⟩,
   ⟨{ kind := 1, mcast := true }, 5, withEndpoint (sending []), count (withEndpoint (sending [])) bankXrt 1, by unfold ControlTakes; decide +kernel⟩,
   ⟨{ kind := 2 }, withEndpoint up, count (withEndpoint up) bankXrt 1, by unfold ControlTakes; decide +kernel⟩,
   ⟨{ kind := 2 }, { sent := [{}] }, sentOne {}, count (sentOne {}) bankXrt 1, by unfold ControlTakes; decide +kernel⟩,
   ⟨{ kind := 3 }, withEndpoint up, count (withEndpoint up) bankXrt 1, by unfold ControlTakes; decide +kernel⟩,
   ⟨{ kind := 1 }, up, count (up) bankXrt 1, by unfold ControlTakes; decide +kernel⟩,
   ⟨{ kind := 4 }, withEndpoint up, count (withEndpoint up) bankXrt 1, by unfold ControlTakes; decide +kernel⟩,
   ⟨{ kind := 5 }, up, count (up) bankXrt 1, by unfold ControlTakes; decide +kernel⟩⟩

theorem witness_TransportTimers :
    (∃ (d : Nat) (tc : Nat) (q : Nat) (f : TxFlow) (x : Sent) (s : State), lookup (flowKey d (tc % 8)) s.fab.tx = some f ∧ (f.sent.find? fun x => x.pkt.seq = q) = some x ∧ mayInject s = true ∧ dueAgain s f x = true ∧ fld s Fld.XRT_LIMITS_MAX_TRIES ≤ x.tries) ∧
    (∃ (d : Nat) (tc : Nat) (q : Nat) (f : TxFlow) (x : Sent) (s : State), lookup (flowKey d (tc % 8)) s.fab.tx = some f ∧ (f.sent.find? fun x => x.pkt.seq = q) = some x ∧ dueAgain s f x = false) ∧
    (∃ (f : TxFlow) (x : Sent) (y : Sent) (s : State), x.afterEarlier = true ∧ y ∈ f.sent ∧ 0 < seqAhead x.pkt.seq y.pkt.seq ∧ seqAhead x.pkt.seq y.pkt.seq < 32768 ∧ s.ticks < x.at_ + 25 * fld s Fld.XRT_LIMITS_RTO_US) ∧
    (∃ (d : Nat) (tc : Nat) (q : Nat) (f : TxFlow) (x : Sent) (s : State), lookup (flowKey d (tc % 8)) s.fab.tx = some f ∧ (f.sent.find? fun x => x.pkt.seq = q) = some x ∧ mayInject s = true ∧ dueAgain s f x = true ∧ x.tries < fld s Fld.XRT_LIMITS_MAX_TRIES) ∧
    (∃ (d : Nat) (tc : Nat) (s : State), lookup (flowKey d (tc % 8)) s.fab.tx = none) ∧
    (∃ (src : Nat) (tc : Nat) (f : RxFlow) (s : State), lookup (flowKey src (tc % 8)) s.fab.rx = some f ∧ f.ackPending = false ∧ f.held = [] ∧ f.arrived = []) ∧
    (∃ (s : State), mayInject s = false) ∧
    (∃ (s : State), mayInject s = true ∧ (∀ e ∈ s.fab.rx, e.2.ackPending = false)) ∧
    (∃ (key : Nat) (sl : Nat) (f : RxFlow) (s : State), mayInject s = true ∧ s.fab.rx = [(key, f)] ∧ f.ackPending = true ∧ ackWaits s key = false ∧ (key / 8 + key % 8) % 4 = sl) ∧
    (∃ (seq : Nat) (a : Admit) (s : State), lookup seq s.fab.admits = some a) ∧
    (∃ (seq : Nat) (ep : Nat) (i : Nat) (a : Admit) (rest : List (Nat × Nat)) (s : State), lookup seq s.fab.admits = some a ∧ ((a.list.zip (upFrom 0 a.list.length)).filter fun e => !a.confirmed.contains e.1) = (ep, i) :: rest) ∧
    (∃ (s : State), flag s Fld.XRT_EP_DRAINING = true) ∧
    (∃ (seq : Nat) (m : McastOut) (c : OpenCmd) (s : State), lookup seq s.fab.mcastOut = some m ∧ s.cmd seq = some c ∧ m.tries < fld s Fld.XRT_LIMITS_MAX_TRIES ∧ mcastFor s m.group (curEpoch s) = none) ∧
    (∃ (seq : Nat) (m : McastOut) (c : OpenCmd) (e : McastEntry) (s : State), lookup seq s.fab.mcastOut = some m ∧ s.cmd seq = some c ∧ m.tries < fld s Fld.XRT_LIMITS_MAX_TRIES ∧ mcastFor s m.group (curEpoch s) = some e) :=
  ⟨⟨0, 0, 0, { sent := [{ tries := 8 }] }, { tries := 8 }, sentOne { tries := 8 }, by decide +kernel⟩,
   ⟨0, 0, 0, { sent := [{ notBefore := 5 }] }, { notBefore := 5 }, sentOne { notBefore := 5 }, by decide +kernel⟩,
   ⟨{ sent := [{}, { pkt := { seq := 1 }, afterEarlier := true }] }, { pkt := { seq := 1 }, afterEarlier := true }, {}, sentOne {}, by decide +kernel⟩,
   ⟨0, 0, 0, { sent := [{}] }, {}, sentOne {}, by decide +kernel⟩,
   ⟨0, 0, up, by decide +kernel⟩,
   ⟨0, 0, {}, received {}, by decide +kernel⟩,
   ⟨up, by decide +kernel⟩,
   ⟨received {}, by decide +kernel⟩,
   ⟨0, 0, { ackPending := true }, received { ackPending := true }, by decide +kernel⟩,
   ⟨5, {}, { up with fab := { up.fab with admits := [(5, {})] } }, by decide +kernel⟩,
   ⟨5, 1, 0, { list := [1] }, [], { up with fab := { up.fab with admits := [(5, { list := [1] })] } }, by decide +kernel⟩,
   ⟨setFld { up with fab := { up.fab with fence := { seqs := [5] } } } Fld.XRT_EP_DRAINING 1, by decide +kernel⟩,
   ⟨5, {}, theCmd (opened up 0xCA 0 none .working), sending [], by decide +kernel⟩,
   ⟨5, {}, theCmd (opened up 0xCA 0 none .working), {}, sending [(0, {})], by decide +kernel⟩⟩

theorem witness_ShaperRows :
    (∃ (sl : Nat) (s : State), bktOpen s .port (sl % 4) = false) ∧
    (∃ (sl : Nat) (s : State), bktOpen s .port (sl % 4) = true ∧ s.fab.held = []) ∧
    (∃ (sl : Nat) (v : Nat) (d : Nat) (i : Nat) (o : Outgoing) (front : List (Nat × Outgoing)) (s : State), sl < 4 ∧ bktOpen s .port sl = true ∧ front = (frontPackets s sl).filter (fun e => (passes s e.2).isSome) ∧ front.filter (fun e => bktOpen s .svc e.2.svc) = front ∧ front ≠ [] ∧ drrPick 64 (fun v => (front.find? fun e => e.2.svc = v).map fun e => e.2.pkt.size + bktOverhead s .svc v) (fun v => fld s Fld.SHP_SVC_CFG_WEIGHT v) (fun v => lookupD 0 (sl * 64 + v) s.fab.svcDeficit) (lookupD 63 sl s.fab.lastSvc) = some (v, d) ∧ front.find? (fun e => e.2.svc = v) = some (i, o)) ∧
    (∃ (f : Nat) (l : Level) (i : Nat), (f ≠ 0 ∨ l.cfg.n ≤ i)) ∧
    (∃ (l : Level) (i : Nat) (v : Nat) (s : State), i < l.cfg.n ∧ bitsOf (raw s l.cfg i) 0 41 ≠ bitsOf (raw (writeReg s l.cfg i 0 v) l.cfg i) 0 41) :=
  ⟨⟨0, setRaw up Reg.SHP_PORT_CFG 0 0 (2 ^ 40), by decide +kernel⟩,
   ⟨0, up, by decide +kernel⟩,
   ⟨0, 0, 4572, 0, {}, [(0, {})], holding, by decide +kernel⟩,
   ⟨1, .port, 0, by decide +kernel⟩,
   ⟨.port, 0, 1, up, by decide +kernel⟩⟩

theorem witness_FlaskMessages :
    (∃ (m : JoinMsg) (r : Nat) (s : State), epochOk s m.epoch = true ∧ rankOfEp s m.src = some r ∧ s.flk.phase ≠ .out ∧ m.flask = s.flk.id ∧ m.count = s.flk.members.length ∧ m.digest = listDigest s.flk.members ∧ m.major = 1 ∧ r ≠ s.flk.rank ∧ hasK r s.flk.joined = false ∧ s.fab.eject = []) ∧
    (∃ (m : JoinMsg) (s : State), epochOk s m.epoch = false) ∧
    (∃ (i : RmIn) (r : Nat) (t : State) (s : State), i.rm.op = 0x11 ∧ epochOk s i.epoch = true ∧ t = rmConsume s 2 i ∧ rankOfEp t i.src = some r ∧ t.flk.phase ≠ .out ∧ i.rm.flask = t.flk.id ∧ t.flk.readied.contains r = false) ∧
    (∃ (i : RmIn) (r : Nat) (t : State) (s : State), i.rm.op = 0x12 ∧ epochOk s i.epoch = true ∧ t = rmConsume s 2 i ∧ rankOfEp t i.src = some r ∧ i.rm.flask = t.flk.id) ∧
    (∃ (i : RmIn) (r : Nat) (s : State), FlaskFrom s i 0x13 r) ∧
    (∃ (s : State), s.flk.phase = .joining) ∧
    (∃ (seq : Nat) (s : State), s.flk.cmd = some seq ∧ (s.flk.phase = .joining ∨ s.flk.phase = .ready)) ∧
    (∃ (i : RmIn) (r : Nat) (t : State) (s : State), FlaskFrom s i 0x22 r ∧ t = rmConsume s 2 i) ∧
    (∃ (i : RmIn) (r : Nat) (bs : List Byte) (t : State) (s : State), FlaskFrom s i 0x25 r ∧ t = timingOpen (count (rmConsume s 2 i) bankFlk 3) ∧ lookup (lineKey r i.line) t.flk.cache = some { modified := true, data := bs }) ∧
    (∃ (i : RmIn) (r : Nat) (bs : List Byte) (t : State) (s : State), FlaskFrom s i 0x25 r ∧ t = timingOpen (count (rmConsume s 2 i) bankFlk 3) ∧ lookup (lineKey r i.line) t.flk.cache = none ∧ lookup (r * 256 + i.rm.tid) t.flk.given = some (i.line, bs)) ∧
    (∃ (i : RmIn) (r : Nat) (t : State) (s : State), FlaskFrom s i 0x25 r ∧ t = timingOpen (count (rmConsume s 2 i) bankFlk 3) ∧ ((lookup (lineKey r i.line) t.flk.cache = none ∧ ((lookup (r * 256 + i.rm.tid) t.flk.given).all fun x => x.1 ≠ i.line) = true ∨ ((lookup (lineKey r i.line) t.flk.cache).any fun x => !x.modified) = true))) ∧
    (∃ (i : RmIn) (r : Nat) (x : FlaskTxn) (t : State) (s : State), FlaskFrom s i 0x26 r ∧ inject (rmConsume s 2 i) 0xF r = (false, t) ∧ lookup (r * 256 + i.rm.tid) t.flk.txns = some x ∧ (x.op = 0x20 ∨ x.op = 0x21) ∧ x.stale = false) ∧
    (∃ (i : RmIn) (r : Nat) (x : FlaskTxn) (t : State) (s : State), FlaskFrom s i 0x27 r ∧ inject (rmConsume s 2 i) 0xF r = (false, t) ∧ lookup (r * 256 + i.rm.tid) t.flk.txns = some x) ∧
    (∃ (r : Nat) (line : Nat) (x : FlaskLine) (s : State), lookup (lineKey r line) s.flk.cache = some x) :=
  ⟨⟨joinMsg, 1, inAFlask .joining, by refine ⟨?_, ?_, ?_, ?_, ?_, rfl, ?_, ?_, ?_, ?_⟩ <;> decide +kernel⟩,
   ⟨joinMsg, up, by decide +kernel⟩,
   ⟨fromOne 0x11, 1, inAFlask .joining, inAFlask .joining, by decide +kernel⟩,
   ⟨fromOne 0x12, 1, inAFlask .joining, inAFlask .joining, by decide +kernel⟩,
   ⟨fromOne 0x13, 1, inAFlask, by unfold FlaskFrom; decide +kernel⟩,
   ⟨inAFlask .joining, by decide +kernel⟩,
   ⟨5, { inAFlask .joining with flk := { (inAFlask .joining).flk with cmd := some 5 } }, by decide +kernel⟩,
   ⟨fromOne 0x22, 1, inAFlask, inAFlask, by unfold FlaskFrom; decide +kernel⟩,
   ⟨fromOne 0x25, 1, [], timingOpen (count holdingLine bankFlk 3), holdingLine, by unfold FlaskFrom; decide +kernel⟩,
   ⟨fromOne 0x25, 1, [], timingOpen (count gaveLine bankFlk 3), gaveLine, by unfold FlaskFrom; decide +kernel⟩,
   ⟨fromOne 0x25, 1, timingOpen (count inAFlask bankFlk 3), inAFlask, by unfold FlaskFrom; decide +kernel⟩,
   ⟨fromOne 0x26, 1, {}, (inject (requesting {}) 0xF 1).2, requesting {}, by unfold FlaskFrom; decide +kernel⟩,
   ⟨fromOne 0x27, 1, {}, (inject (requesting {}) 0xF 1).2, requesting {}, by unfold FlaskFrom; decide +kernel⟩,
   ⟨1, 0, {}, { inAFlask with flk := { inAFlask.flk with cache := [(2 ^ 28, {})] } }, by decide +kernel⟩⟩

theorem witness_RemoteMessages :
    (∃ (i : RmIn) (s : State), RemoteTakes s i 1 ∧ remoteRefusal s i.rm.addr i.rm.dlen = none ∧ (∀ ls, coherentReady s i.rm.addr i.rm.dlen ≠ .lines ls)) ∧
    (∃ (i : RmIn) (n : Nat) (s : State), RemoteTakes s i 1 ∧ remoteRefusal s i.rm.addr i.rm.dlen = some n) ∧
    (∃ (i : RmIn) (ls : List LineNeed) (s : State), RemoteTakes s i 1 ∧ remoteRefusal s i.rm.addr i.rm.dlen = none ∧ coherentReady s i.rm.addr i.rm.dlen = .lines ls) ∧
    (∃ (i : RmIn) (bs : List Byte) (t : State) (s : State), RemoteTakes s i 2 ∧ remoteRefusal s i.rm.addr i.rm.dlen = none ∧ localRead s i.rm.addr i.rm.dlen = .ok bs ∧ slotFor s i = some t) ∧
    (∃ (i : RmIn) (n : Nat) (t : State) (s : State), RemoteTakes s i 2 ∧ remoteRefusal s i.rm.addr i.rm.dlen = some n ∧ slotFor s i = some t) ∧
    (∃ (i : RmIn) (q : Nat) (t : State) (s : State), RemoteTakes s i 2 ∧ remoteRefusal s i.rm.addr i.rm.dlen = none ∧ localRead s i.rm.addr i.rm.dlen = .lost q ∧ slotFor s i = some t) ∧
    (∃ (i : RmIn) (bs : List Byte) (t : State) (s : State), RemoteTakes s i 4 ∧ i.rm.type < 2 ∧ remoteRefusal s i.rm.addr 8 = none ∧ localRead s i.rm.addr 8 = .ok bs ∧ (∀ ls, coherentReady s i.rm.addr 8 ≠ .lines ls) ∧ slotFor s i = some t) ∧
    (∃ (i : RmIn) (s : State), RemoteTakes s i 3 ∧ remoteOf (rmConsume s 1 i) i = none) ∧
    (∃ (i : RmIn) (seq : Nat) (off : Nat) (n : Nat) (x : RemoteOp) (c : OpenCmd) (t : State) (s : State), RemoteTakes s i 3 ∧ t = rmConsume s 1 i ∧ remoteOf t i = some (seq, x) ∧ i.rm.dlen ≠ 0 ∧ lookup i.rm.tid x.wanted = some (off, n) ∧ t.cmd seq = some c) ∧
    (∃ (i : RmIn) (seq : Nat) (x : RemoteOp) (t : State) (s : State), RemoteTakes s i 5 ∧ t = rmConsume s 1 i ∧ remoteOf t i = some (seq, x)) :=
  ⟨⟨remoteIn 1, target, ⟨by unfold RemoteTakes; decide +kernel, by decide +kernel, fun ls h => absurd (h.symm.trans (by decide +kernel : _ = Rd.ok [])) Rd.noConfusion⟩⟩,
   ⟨remoteIn 1 (2 ^ 48) 0 8, 0, target, by unfold RemoteTakes; decide +kernel⟩,
   ⟨remoteIn 1 0 0 256, [⟨8, 0, true⟩], sharedLine, by unfold RemoteTakes; decide +kernel⟩,
   ⟨remoteIn 2, [], (slotFor target (remoteIn 2)).getD up, target, by unfold RemoteTakes; decide +kernel⟩,
   ⟨remoteIn 2 (2 ^ 48) 0 8, 0, (slotFor target (remoteIn 2)).getD up, target, by unfold RemoteTakes; decide +kernel⟩,
   ⟨remoteIn 2 0 0 8, 0, (slotFor poisonedTarget (remoteIn 2 0 0 8)).getD up, poisonedTarget, by unfold RemoteTakes; decide +kernel⟩,
   ⟨remoteIn 4, leBytes 8 0, (slotFor target (remoteIn 4)).getD up, target, ⟨by unfold RemoteTakes; decide +kernel, by decide +kernel, by decide +kernel, by decide +kernel, fun ls h => absurd (h.symm.trans (by decide +kernel : _ = Rd.ok [])) Rd.noConfusion, by decide +kernel⟩⟩,
   ⟨remoteIn 3, target, by unfold RemoteTakes; decide +kernel⟩,
   ⟨remoteIn 3 0 0 8, 5, 0, 8, ((asking.remote 5).getD {}), theCmd asking, asking, asking, by unfold RemoteTakes; decide +kernel⟩,
   ⟨remoteIn 5, 5, ((asking.remote 5).getD {}), asking, asking, by unfold RemoteTakes; decide +kernel⟩⟩

theorem witness_PowerManagerRows :
    (∃ (x : PowerSample) (t : State) (s : State), t = injectThrottle (takeReadings s x) ∧ x.inlet < (fld t Fld.PWR_THERM_INLET_WARN_C : Int) ∧ t.pwr.critical = false ∧ powerState t = 1 ∧ ((hotReading t x).isSome || decide (fld t Fld.PWR_LIMIT_SUSTAINED_W < x.input)) = true) ∧
    (∃ (x : PowerSample) (t : State) (s : State), t = injectThrottle (takeReadings s x) ∧ x.inlet < (fld t Fld.PWR_THERM_INLET_WARN_C : Int) ∧ t.pwr.critical = false ∧ powerState t = 1 ∧ hotReading t x = none ∧ x.input ≤ fld t Fld.PWR_LIMIT_SUSTAINED_W) ∧
    (∃ (s : State), powerState s = 1) ∧
    (∃ (s : State), powerState s ≠ 0 ∧ powerState s ≠ 6) ∧
    (∃ (x : PowerSample) (s : State), flag s Fld.PRT_CTL_ENABLE = false ∧ x.inlet < (fld s Fld.PWR_THERM_INLET_WARN_C : Int) ∧ s.pwr.critical = false ∧ powerState s = 1 ∧ (fld s Fld.PWR_THERM_DIE_THROTTLE_C : Int) ≤ x.die) ∧
    (∃ (x : PowerSample) (s : State), flag s Fld.PRT_CTL_ENABLE = false ∧ x.inlet < (fld s Fld.PWR_THERM_INLET_WARN_C : Int) ∧ s.pwr.critical = false ∧ powerState s = 1 ∧ coolBy s x 3 = true ∧ 100 * x.input ≤ 97 * fld s Fld.PWR_LIMIT_SUSTAINED_W) ∧
    (∃ (s : State), powerState s = 1) :=
  ⟨⟨{ die := 100 }, injectThrottle (takeReadings up { die := 100 }), up, by decide +kernel⟩,
   ⟨{}, injectThrottle (takeReadings up {}), up, by decide +kernel⟩,
   ⟨up, by decide +kernel⟩,
   ⟨up, by decide +kernel⟩,
   ⟨{ die := 100 }, up, by decide +kernel⟩,
   ⟨{}, up, by decide +kernel⟩,
   ⟨up, by decide +kernel⟩⟩

theorem witness_PllLockLost :
    (∃ (s : State), s.pwr.reset = none ∧ powerState s = 1 ∧ s.hif.l23 = false) ∧
    (∃ (p : Nat), p < 6) ∧
    (∃ (p : Nat) (s : State) (t : State), p < 6 ∧ exec (.pllLockLost p) s = .next t ∧ s.pwr.reset = none ∧ powerState s = 1) :=
  ⟨⟨up, by decide +kernel⟩,
   ⟨5, by decide +kernel⟩,
   ⟨5, up, after (exec (.pllLockLost 5) up), ⟨by decide, after_eq ⟨_, rfl⟩, by decide +kernel, by decide +kernel⟩⟩⟩

theorem witness_PowerStateRows :
    (∃ (row : Nat) (s : State), row < 19 ∧ domainOn s (16 + row) = true ∧ flag s Fld.PWR_CTL_ROW_GATE_EN = true ∧ ((tilesOfRow row).all fun t => !(s.tile t).clkOn) = true ∧ rowFree s row = true ∧ (minRows s).contains row = false) ∧
    (∃ (row : Nat) (s : State), (domainOn s (16 + row) = false ∨ flag s Fld.PWR_CTL_ROW_GATE_EN = false ∨ rowFree s row = false)) ∧
    (∃ (d : Nat) (t : State) (s : State), s.pwr.goingDown.contains d = true ∧ t = { s with pwr := { s.pwr with goingDown := s.pwr.goingDown.filter (· ≠ d) } }) ∧
    (∃ (row : Nat) (s : State), row < 19 ∧ domainOn s (16 + row) = false ∧ s.pwr.goingDown.contains (16 + row) = false ∧ stoked s = true) ∧
    (∃ (pair : Nat) (s : State), pair < 2 ∧ domainOn s (12 + pair) = true ∧ flag s Fld.PWR_CTL_RE_GATE_EN = true ∧ pairBusy s pair = false) ∧
    (∃ (pair : Nat) (s : State), pair < 2 ∧ domainOn s (12 + pair) = false ∧ s.pwr.goingDown.contains (12 + pair) = false ∧ stoked s = true) ∧
    (∃ (s : State), powerState s = 4 ∧ s.pwr.target = 1) ∧
    (∃ (s : State), stoked s = true ∧ mayIdle s = true) ∧
    (∃ (s : State), stoked s = true ∧ mayIdle s = false) ∧
    (∃ (r : Nat) (s : State), bankedRefusal s = some r) ∧
    (∃ (s : State), bankedRefusal s = none ∧ powerState s = 1) ∧
    (∃ (f : Nat), f ≠ 0) ∧
    (∃ (s : State), powerState s = 4 ∧ s.pwr.target = 2 ∧ s.wsp.moves = []) ∧
    (∃ (s : State), powerState s = 3) ∧
    (∃ (s : State), powerState s = 5 ∧ s.pwr.leaving ≠ 0 ∧ s.pwr.warmWanted = none) :=
  ⟨⟨3, setFld (poweredAs 1 (2 ^ 19)) Fld.PWR_CTL_ROW_GATE_EN 1, by decide +kernel⟩,
   ⟨0, up, by decide +kernel⟩,
   ⟨12, { up with pwr := { up.pwr with goingDown := [] } }, { up with pwr := { up.pwr with goingDown := [12] } }, by decide +kernel⟩,
   ⟨0, up, by decide +kernel⟩,
   ⟨0, setFld (poweredAs 1 (2 ^ 12)) Fld.PWR_CTL_RE_GATE_EN 1, by decide +kernel⟩,
   ⟨0, up, by decide +kernel⟩,
   ⟨{ setFld up Fld.PWR_STATUS_STATE 4 with pwr := { up.pwr with target := 1 } }, by decide +kernel⟩,
   ⟨up, by decide +kernel⟩,
   ⟨opened up 0, by decide +kernel⟩,
   ⟨1, opened up 0, by decide +kernel⟩,
   ⟨up, by decide +kernel⟩,
   ⟨1, by decide +kernel⟩,
   ⟨{ setFld up Fld.PWR_STATUS_STATE 4 with pwr := { up.pwr with target := 2 } }, by decide +kernel⟩,
   ⟨setFld up Fld.PWR_STATUS_STATE 3, by decide +kernel⟩,
   ⟨{ setFld up Fld.PWR_STATUS_STATE 5 with pwr := { up.pwr with leaving := 2 } }, by decide +kernel⟩⟩

theorem witness_MainFailsWhileBanked : ∃ (s : State), powerState s = 3 ∧ s.pwr.mainOn = true ∧ s.pwr.standbyOn = true :=
  ⟨setFld up Fld.PWR_STATUS_STATE 3, by decide +kernel⟩

theorem witness_ResetRows :
    (∃ (s : State), s.pwr.reset = none ∧ powerState s = 1) ∧
    (∃ (f : Nat) (k : Nat), (f ≠ 0 ∨ k ≠ 0xB7)) ∧
    (∃ (s : State), s.pwr.reset = none ∧ powerState s = 1 ∧ flag s Fld.RST_CFG_AUTO_WARM = true ∧ s.ras.fatal = true) ∧
    (∃ (s : State), (flag s Fld.RST_CFG_AUTO_WARM = false ∨ s.ras.fatal = false)) ∧
    (∃ (s : State), s.pwr.reset = none ∧ powerState s = 1) ∧
    (∃ (s : State), powerState s = 3) ∧
    (∃ (s : State), s.pwr.reset = none ∧ powerState s = 1) ∧
    (∃ (s : State), s.pwr.reset = none ∧ powerState s = 1 ∧ s.hif.l23 = false) ∧
    (∃ (s : State), s.pwr.reset = none ∧ powerState s = 1) ∧
    (∃ (s : State), flag s Fld.MGT_TEST_TEST_MODE = true ∧ s.pwr.reset = none ∧ powerState s = 1) ∧
    (∃ (s : State), flag s Fld.MGT_TEST_TEST_MODE = false) ∧
    (∃ (s : State), s.pwr.mainOn = true) ∧
    (∃ (s : State), s.pwr.mainOn = false ∧ s.pwr.standbyOn = true) ∧
    (∃ (s : State), s.pwr.standbyOn = true) ∧
    (∃ (s : State), s.pwr.standbyOn = false) ∧
    (∃ (s : State), s.pwr.reset = none) ∧
    (∃ (k : ResetKind) (s : State), s.pwr.reset = some k) ∧
    (∃ (s : State), (s.pwr.reset = some .module ∨ s.pwr.reset = some .main)) ∧
    (∃ (s : State), s.pwr.reset = none ∧ powerState s ≠ 5) :=
  ⟨⟨up, by decide +kernel⟩,
   ⟨1, 0xB7, by decide +kernel⟩,
   ⟨{ setFld up Fld.RST_CFG_AUTO_WARM 1 with ras := { up.ras with fatal := true } }, by decide +kernel⟩,
   ⟨up, by decide +kernel⟩,
   ⟨up, by decide +kernel⟩,
   ⟨setFld up Fld.PWR_STATUS_STATE 3, by decide +kernel⟩,
   ⟨up, by decide +kernel⟩,
   ⟨up, by decide +kernel⟩,
   ⟨up, by decide +kernel⟩,
   ⟨setFld up Fld.MGT_TEST_TEST_MODE 1, by decide +kernel⟩,
   ⟨up, by decide +kernel⟩,
   ⟨up, by decide +kernel⟩,
   ⟨{ up with pwr := { up.pwr with mainOn := false } }, by decide +kernel⟩,
   ⟨up, by decide +kernel⟩,
   ⟨unpowered, by decide +kernel⟩,
   ⟨up, by decide +kernel⟩,
   ⟨.main, State.reset, by decide +kernel⟩,
   ⟨{ up with pwr := { up.pwr with reset := some .module } }, by decide +kernel⟩,
   ⟨up, by decide +kernel⟩⟩

theorem witness_FunctionsAndLink :
    (∃ (f : Nat) (s : State), f ≤ 32 ∧ flag s Fld.RST_STATUS_READY = false) ∧
    (∃ (f : Nat) (s : State), 1 ≤ f ∧ f ≤ 32 ∧ flag s Fld.RST_STATUS_READY = true) ∧
    (∃ (s : State), flag s Fld.RST_STATUS_READY = true) ∧
    (∃ (n : Nat) (s : State), n ≤ 32 ∧ flag s Fld.RST_STATUS_READY = true ∧ s.hif.vfEnable = false) ∧
    (∃ (s : State), flag s Fld.RST_STATUS_READY = true ∧ s.hif.vfEnable = true) ∧
    (∃ (f : Nat) (s : State), flag s Fld.RST_STATUS_READY = true ∧ functionUp s f = true ∧ inD3hot s f = false) ∧
    (∃ (s : State), flag s Fld.RST_STATUS_READY = true) ∧
    (∃ (s : State), powerState s ≠ 4) ∧
    (∃ (s : State), powerState s = 4 ∧ s.pwr.target = 2) ∧
    (∃ (v : Nat) (w : Nat) (s : State), powerState s = 1 ∧ 1 ≤ v ∧ v ≤ 6 ∧ w ∈ [1, 2, 4, 8, 16]) :=
  ⟨⟨0, up, by decide +kernel⟩,
   ⟨1, ready, by decide +kernel⟩,
   ⟨ready, by decide +kernel⟩,
   ⟨4, ready, by decide +kernel⟩,
   ⟨{ ready with hif := { ready.hif with vfEnable := true } }, by decide +kernel⟩,
   ⟨0, ready, by decide +kernel⟩,
   ⟨ready, by decide +kernel⟩,
   ⟨up, by decide +kernel⟩,
   ⟨{ setFld up Fld.PWR_STATUS_STATE 4 with pwr := { up.pwr with target := 2 } }, by decide +kernel⟩,
   ⟨4, 16, up, by decide +kernel⟩⟩

theorem witness_RegisterAccesses :
    (∃ (o : Nat), o % 8 = 0) ∧
    (∃ (o : Nat), o % 8 = 4) ∧
    (∃ (n : Nat), n ≠ 8 ∧ n ≠ 4) ∧
    (∃ (f : Nat) (o : Nat) (s : State), o % 8 = 0 ∧ viewReg s f o = none ∧ wakeByAccess s o = s) ∧
    (∃ (o : Nat), o % 8 = 0) ∧
    (∃ (n : Nat), n ≠ 8 ∧ n ≠ 4) ∧
    (∃ (f : Nat) (o : Nat) (s : State), o % 8 = 0 ∧ viewReg s f o = none ∧ wakeByAccess s o = s ∧ blockOf o ≠ blockOf Reg.PRT_ID.base) ∧
    (∃ (fn : Nat), fn < 33) ∧
    (∃ (f : Nat), f ≠ 0) ∧
    (∃ (o : Nat) (n : Nat), o + n ≤ doorbellEnd) :=
  ⟨⟨8, by decide +kernel⟩,
   ⟨4, by decide +kernel⟩,
   ⟨2, by decide +kernel⟩,
   ⟨0, 0x3FFFFF8, up, by decide +kernel⟩,
   ⟨8, by decide +kernel⟩,
   ⟨2, by decide +kernel⟩,
   ⟨0, 0x3FFFFF8, up, by decide +kernel⟩,
   ⟨32, by decide +kernel⟩,
   ⟨1, by decide +kernel⟩,
   ⟨0x3FF8, 8, by decide +kernel⟩⟩

theorem witness_ReliabilityRows :
    (∃ (t : Nat) (s : State), failing s t = true ∧ (s.tile t).idle = false) ∧
    (∃ (t : Nat) (s : State), failing s t = true ∧ (s.tile t).clkOn = false) ∧
    (∃ (t : Nat) (s : State), failing s t = true) ∧
    (∃ (t : Nat) (s : State), failing s t = false) ∧
    (∃ (l : Nat) (t : Nat) (s : State), physOf s l = some t) ∧
    (∃ (f : Nat), f ≠ 0) ∧
    (∃ (t : Nat) (s : State), roleOf s t = .failed ∧ s.ras.testPassed.contains t = true ∧ lostLogicals (setRole s t .spare) = []) ∧
    (∃ (t : Nat) (l : Nat) (ls : List Nat) (s : State), roleOf s t = .failed ∧ s.ras.testPassed.contains t = true ∧ lostLogicals (setRole s t .spare) = l :: ls) ∧
    (∃ (t : Nat) (s : State), (roleOf s t ≠ .failed ∨ s.ras.testPassed.contains t = false)) ∧
    (∃ (t : Nat) (s : State), flag s Fld.RAS_CTL_SPARE_TEST_EN = true ∧ roleOf s t = .spare) ∧
    (∃ (t : Nat) (s : State), flag s Fld.RAS_CTL_SPARE_TEST_EN = true ∧ roleOf s t = .spare ∧ logicalOf s t = none) ∧
    (∃ (s : State), s.ras.storePending ≠ 0) ∧
    (∃ (s : State), s.ras.storePending ≠ 0) :=
  ⟨⟨0, inService { flight := [{}] }, by decide +kernel⟩,
   ⟨0, inService, by decide +kernel⟩,
   ⟨0, inService, by decide +kernel⟩,
   ⟨0, repaired [], by decide +kernel⟩,
   ⟨0, 0, { up with ras := { up.ras with l2p := [(0, 0)] } }, by decide +kernel⟩,
   ⟨1, by decide +kernel⟩,
   ⟨0, repaired ((upFrom 0 144).map fun l => (l, l)), by decide +kernel⟩,
   ⟨0, 0, (upFrom 1 143), repaired [], by decide +kernel⟩,
   ⟨0, up, by decide +kernel⟩,
   ⟨0, spare, by decide +kernel⟩,
   ⟨0, spare, by decide +kernel⟩,
   ⟨{ up with ras := { up.ras with storePending := 1 } }, by decide +kernel⟩,
   ⟨{ up with ras := { up.ras with storePending := 1 } }, by decide +kernel⟩⟩

theorem witness_RecorderAndCollector :
    (∃ (s : State), fld s Fld.DET_REC_CTL_MODE = 0) ∧
    (∃ (s : State), fld s Fld.DET_REC_CTL_MODE ≠ 0) ∧
    (∃ (s : State), fld s Fld.DET_REC_CTL_MODE ≠ 2 ∧ anyFetch s = true) ∧
    (∃ (s : State), fld s Fld.DET_REC_CTL_MODE ≠ 2 ∧ anyFetch s = false) ∧
    (∃ (s : State), fld s Fld.DET_REC_CTL_MODE ≠ 0) ∧
    (∃ (i : Nat) (s : State), fld s Fld.DET_REC_CTL_MODE = 0 ∧ i < 15) ∧
    (∃ (s : State), fld s Fld.DET_REC_CTL_MODE = 0 ∧ s.det.ring.length < recSlots s) ∧
    (∃ (i : Nat) (s : State), (fld s Fld.DET_REC_CTL_MODE ≠ 0 ∨ 16 ≤ i)) ∧
    (∃ (s : State), nextFed s = none) ∧
    (∃ (e : RecEntry) (f : Nat) (q : Nat) (p : Packet) (x : Sq) (c : Cq) (s : State), nextFed s = some e ∧ p = BitVec.ofNat 512 (e.body % 2 ^ 512) ∧ q = bitsOf (recGet e.body 108 2) 0 10 ∧ f = bitsOf (recGet e.body 108 2) 10 6 ∧ feeding s = true ∧ jrnStalled s = false ∧ flushHolds s = false ∧ s.cp.cores.stopped = false ∧ s.sq f q = some x ∧ s.cq f x.cq = some c ∧ checkPacket s f q p = none ∧ admitCollective s f p = .own ∧ c.freeEntries ≠ 0) ∧
    (∃ (s : State), flag s Fld.PMC_CTL_COLLECT = false ∧ badRingPage s = none) ∧
    (∃ (p : Nat) (s : State), flag s Fld.PMC_CTL_COLLECT = false ∧ badRingPage s = some p) ∧
    (∃ (s : State), flag s Fld.PMC_CTL_COLLECT = true) ∧
    (∃ (s : State), flag s Fld.PMC_CTL_COLLECT = false) ∧
    (∃ (s : State), badRingPage s = none ∧ stoked s = true) ∧
    (∃ (f : Nat), f ≠ 0) ∧
    (∃ (s : State), flag s Fld.PMC_CTL_COLLECT = true ∧ fld s Fld.PMC_STATUS_STATE = 1 ∧ stoked s = true) ∧
    (∃ (s : State), flag s Fld.PMC_CTL_COLLECT = false) ∧
    (∃ (f : Nat) (o : Nat) (s : State), (flag s Fld.MGT_TEST_TEST_MODE = false ∨ f ≠ 0) ∧ (regAt (Reg.PRT_ID.base + o)).isSome = true ∧ Reg.PRT_ID.base + o ≠ Reg.PRT_ERR.base) :=
  ⟨⟨up, by decide +kernel⟩,
   ⟨setFld up Fld.DET_REC_CTL_MODE 1, by decide +kernel⟩,
   ⟨setFld up Fld.CP_CTL_FETCH 1 0 0, by decide +kernel⟩,
   ⟨up, by decide +kernel⟩,
   ⟨setFld up Fld.DET_REC_CTL_MODE 1, by decide +kernel⟩,
   ⟨14, up, by decide +kernel⟩,
   ⟨up, by decide +kernel⟩,
   ⟨16, up, by decide +kernel⟩,
   ⟨up, by decide +kernel⟩,
   ⟨{ kind := 2, body := 1 }, 0, 0, nopPacket, theSq up, theCq up, feedOne, by decide +kernel⟩,
   ⟨setFld collecting Fld.PMC_CTL_COLLECT 0, by decide +kernel⟩,
   ⟨0, badRing, by decide +kernel⟩,
   ⟨collecting, by decide +kernel⟩,
   ⟨up, by decide +kernel⟩,
   ⟨collecting, by decide +kernel⟩,
   ⟨1, by decide +kernel⟩,
   ⟨collecting, by decide +kernel⟩,
   ⟨up, by decide +kernel⟩,
   ⟨0, 0, up, by decide +kernel⟩⟩

theorem witness_ChainFrames :
    (∃ (bs : List Byte) (s : State), s.pwr.standbyOn = true ∧ frameGood bs = false) ∧
    (∃ (bs : List Byte) (s : State), s.pwr.standbyOn = true ∧ frameGood bs = true ∧ (readFrame bs).resp = false ∧ (readFrame bs).dest ≠ 0x7F ∧ (readFrame bs).dest ≠ ringAddr s) ∧
    (∃ (a : Alert) (s : State), s.mgt.alerts = [a] ∧ a.repeats < 50 ∧ flag s Fld.MGT_CTL_ALERT_EN = true ∧ ringAddr s ≠ 0) ∧
    (∃ (a : Alert) (s : State), s.mgt.alerts = [a] ∧ 50 ≤ a.repeats) ∧
    (∃ (s : State), s.pwr.standbyOn = true) ∧
    (∃ (s : State), flag s Fld.MGT_CHAIN_IN_LOCK = true) ∧
    (∃ (s : State), flag s Fld.MGT_CHAIN_IN_LOCK = false) :=
  ⟨⟨[], up, by decide +kernel⟩,
   ⟨frameToTwo, onChain, by decide +kernel⟩,
   ⟨{ repeats := 49 }, alerting 49, by decide +kernel⟩,
   ⟨{ repeats := 50 }, alerting 50, by decide +kernel⟩,
   ⟨up, by decide +kernel⟩,
   ⟨setFld up Fld.MGT_CHAIN_IN_LOCK 1, by decide +kernel⟩,
   ⟨up, by decide +kernel⟩⟩

theorem witness_MctpAndSpdm :
    (∃ (b : Nat) (eid : Nat), b ≤ 1 ∧ 1 ≤ eid ∧ eid ≤ 254) ∧
    (∃ (b : Nat), b ≤ 1) ∧
    (∃ (b : Nat), b ≤ 1) ∧
    (∃ (b : Nat), b ≤ 1) ∧
    (∃ (f : Nat), f ≠ 0) ∧
    (∃ (b : Nat) (c : Nat) (p : McPkt) (s : State), p.som = true ∧ p.eom = true ∧ p.dest = mctpEid s b ∧ p.body = [0, 0x80, BitVec.ofNat 8 c] ∧ 5 < c ∧ c < 256 ∧ s.mgt.parts = []) ∧
    (∃ (s : State), s.ras.spdm = []) ∧
    (∃ (b : Nat) (src : Nat) (v : Nat) (c : SpdmConn) (s : State), spdmConn s b src = some c ∧ (v = 12 ∨ v = 13)) ∧
    (∃ (b : Nat) (src : Nat) (v : Nat) (c : SpdmConn) (s : State), spdmConn s b src = some c ∧ c.caps = true ∧ c.version = v) ∧
    (∃ (b : Nat) (src : Nat) (v : Nat) (c : SpdmConn) (s : State), SpdmReady s b src v c) ∧
    (∃ (b : Nat) (src : Nat) (v : Nat) (c : SpdmConn) (s : State), SpdmReady s b src v c) ∧
    (∃ (b : Nat) (src : Nat) (v : Nat) (c : SpdmConn) (s : State), SpdmReady s b src v c) ∧
    (∃ (b : Nat) (src : Nat) (v : Nat) (i : Nat) (c : SpdmConn) (s : State), SpdmReady s b src v c ∧ 1 ≤ i ∧ i ≤ 6) ∧
    (∃ (b : Nat) (src : Nat) (v : Nat) (h : Nat) (q : Nat) (l : List Byte) (c : SpdmConn) (s : State), spdmConn s b src = some c ∧ c.chunk = some (h, q, l) ∧ c.version = v ∧ c.transfer < l.length ∧ 1 ≤ c.transfer) ∧
    (∃ (b : Nat) (src : Nat) (s : State), spdmConn s b src = none) :=
  ⟨⟨1, 254, by decide +kernel⟩,
   ⟨1, by decide +kernel⟩,
   ⟨1, by decide +kernel⟩,
   ⟨1, by decide +kernel⟩,
   ⟨1, by decide +kernel⟩,
   ⟨1, 6, { dest := 0, src := 8, som := true, eom := true, seq := 0, owner := true, tag := 0, body := [0, 0x80, 6] }, up, by decide +kernel⟩,
   ⟨up, by decide +kernel⟩,
   ⟨0, 8, 12, { eid := 8 }, connected { eid := 8 }, by decide +kernel⟩,
   ⟨0, 8, 12, { eid := 8, version := 12, caps := true }, connected { eid := 8, version := 12, caps := true }, by decide +kernel⟩,
   ⟨0, 8, 12, settled, connected settled, by unfold SpdmReady; decide +kernel⟩,
   ⟨0, 8, 12, settled, connected settled, by unfold SpdmReady; decide +kernel⟩,
   ⟨0, 8, 12, settled, connected settled, by unfold SpdmReady; decide +kernel⟩,
   ⟨0, 8, 12, 6, settled, connected settled, by unfold SpdmReady; decide +kernel⟩,
   ⟨0, 8, 12, 1, 0, [1, 2], { settled with chunk := some (1, 0, [1, 2]), transfer := 1 }, connected { settled with chunk := some (1, 0, [1, 2]), transfer := 1 }, by decide +kernel⟩,
   ⟨0, 8, up, by decide +kernel⟩⟩

/-! ## Witnesses for the statements that speak through a definition -/

/-- A Stoker at a word of a form and operation. -/
theorem witness_ScalarWords : ∀ op ∈ upFrom 0 16, AtWord (standing (BitVec.ofNat 64 (16 * op))) 0 0 op {} (16 * op) := by
  unfold AtWord; decide +kernel

theorem witness_ImmediateWords : ∀ op ∈ [0, 2, 3, 4, 5, 6, 7, 8, 0x10, 0x11, 0x12],
    AtWord (standing (BitVec.ofNat 64 (1 + 16 * op))) 0 1 op {} (1 + 16 * op) := by
  unfold AtWord; decide +kernel

theorem witness_BranchWords : ∀ op ∈ upFrom 0 5, AtWord (standing (BitVec.ofNat 64 (3 + 16 * op))) 0 3 op {} (3 + 16 * op) := by
  unfold AtWord; decide +kernel

/-- A Stoker at a command of each engine and operation. -/
theorem witness_EngineWords : ∀ c ∈ [(0, 0), (0, 1), (2, 0), (2, 1), (2, 2), (2, 3), (3, 0)] ++
    (upFrom 0 0x17 ++ upFrom 0x20 7).map (fun op => (1, op)),
    AtCommand (standing (BitVec.ofNat 64 (4 + 16 * c.1 + 64 * c.2))) 0 c.1 c.2 {}
      (oneWord (BitVec.ofNat 64 (4 + 16 * c.1 + 64 * c.2))) (4 + 16 * c.1 + 64 * c.2) [] := by
  unfold AtCommand; decide +kernel

theorem witness_FlaskActs : ∀ op ∈ [0x14, 0x20, 0x21, 0x24], FlaskFrom (inAFlask) (fromOne op) op 1 := by
  unfold FlaskFrom; decide +kernel

/-- Frames of each type: for this module, for another and a broadcast one. -/
theorem witness_ChainRows : ∀ d ∈ [1, 2, 0x7F], ∀ t ∈ [1, 2, 3, 4, 0x10, 0x11, 0x20, 0x21, 0x22, 0x23, 0x24, 0x31, 0x40],
    let bs := sealFrame [BitVec.ofNat 8 d, 0, BitVec.ofNat 8 t, 0, 0, 0, 0x10, 0]
    onChain.pwr.standbyOn = true ∧ frameGood bs = true ∧ (readFrame bs).type = t ∧ (readFrame bs).resp = false ∧
      (readFrame bs).dest = d ∧ (readFrame bs).major = 1 ∧ ringAddr onChain = 1 := by
  decide +kernel

/-! ## Ill-formed commands: one for each check -/

theorem test_wellFormed_refuses : ∀ i ∈ [
    Instr.nop (2 ^ 64), .sqDoorbell 33 0 0, .sqDoorbell 0 1024 0, .cqDoorbell 0 0 (2 ^ 64), .accept 33 0, .cqAggTimeout 0 1024,
    .journalEntryDurable (2 ^ 32) false, .add 152, .jrnBaseWrite 65536 0, .jrnBaseWrite 0 32, .flr 33, .groupTimeout 65536,
    .mark (2 ^ 64), .pool0Alloc 4, .engineCmdComplete 152 0, .engineCmdComplete 0 4, .lingerExpire 262144 0,
    .lingerExpire 0 64, .stackFailure 24, .nandChannelFail 16, .bar2Read 33 0 1, .bar2Read 0 (2 ^ 36) 1, .bar2Read 0 0 0,
    .bar2Read 0 0 4097, .bar2Write 0 0 { bytes := [] }, .flitReceive 0 0 [], .retryReq 20 0, .retryReq 0 4096, .initRepeat 20,
    .portTrainingDone 0 16, .data 0 (List.replicate 4609 0), .laneFail 0 4, .packetInject (2 ^ 32), .data 20 [], .ackSend 4, .packetResend (2 ^ 20) 0 0,
    .packetResend 0 8 0, .packetResend 0 0 65536, .flowEntryFree (2 ^ 20) 0, .flaskRetry 8 0, .flaskRetry 0 256, .pllLockLost 8,
    .rowWakeDone 19, .rePairWakeDone 2, .rstCtlWarm 0 256, .ping [], .bringupStepTimeout 0 0, .bringupStepTimeout 8 0,
    .bringupStepTimeout 1 35, .vfEnable 33, .setEndpointId 2 0 0, .getVersion 0 256, .getCapabilities 0 0 0x12 41,
    .getCertificate 0 0 0x12 8 0 0, .challenge 0 0 256 0, .chunkGet 0 0 0x12 256 0, .reinstate 0 256, .retire 0 256,
    .detRecAppend 16 0, .pmcClear 0 216 false, .prtWrite 0 4 0, .prtWrite 0 (2 ^ 20) 0, .injectHoldEnd 16, .rcRead 0 { addr := 0 } 3,
    .rcRead 0 { addr := 2 ^ 26 } 8, .powerDownDone 35, .pcieLinkUp 7 16 false, .pcieLinkUp 1 3 false, .flaskLineDrop 0 (2 ^ 28),
    .pageFetchDone 0 { retries := 1025 }, .pageMoveDone 0 (.migrate { rebuilt := 129 }),
    .patrolScrub 0 0 { corrected := [], uncorrectable := true, nand := { lost := true, lostUnits := 1 }, passEnd := false },
    .nandUpkeep (.patrol { lost := true, lostUnits := 0 } 1 0 [])],
    ¬ WellFormed i := by
  decide +kernel

/-! ## The spec's worked examples -/

/-- "A mismatched all-to-all": the two descriptor hashes. -/
theorem test_descHash : descHash 1 6 7 4096 0x123 = 0x48470601 ∧ descHash 1 6 7 4608 0x123 = 0x48570601 := by decide +kernel

/-- The example's dot product: tile 0's part, and the sum with tile 1's. -/
def exampleTile0 : Acc := (({} : Acc).addend (.ofInt 2752511 (-4))).addend (.ofInt 1024 (-26))
def exampleSum : Acc := exampleTile0.merge (({} : Acc).addend (.ofInt (-2752511) (-4)))

/-- "One dot product split over two tiles": the write-outs of the merged sum. -/
theorem test_exactSum : exampleSum.value = 2 ^ 284 ∧ exampleSum.count = 3 ∧ encodeFloat fmtBf16 0x06 0 exampleSum.val = 0x3780 ∧
    encodeFloat fmtFp32 0x07 0 exampleSum.val = 0x37800000 := by
  decide +kernel

/-- The same: the write-outs of tile 0's part, to nearest and upward. -/
theorem test_exactPart : encodeFloat fmtBf16 0x06 0 exampleTile0.val = 0x4828 ∧
    encodeFloat fmtFp32 0x07 0 exampleTile0.val = 0x4827FFFC ∧ encodeFloat fmtFp32 0x27 0 exampleTile0.val = 0x4827FFFD := by
  decide +kernel

/-- The same: E2M1 6.0 and E4M3 448 are 12 and 229,376 of their LSBs. -/
theorem test_decode : (decodeElem fmtE2M1 7).inUnits (-1) = 12 ∧ (decodeElem fmtE4M3 0x7E).inUnits (-9) = 229376 := by decide +kernel

/-- "PACK24 on one row, with and without PRUNE": row 1's packed block. -/
theorem test_packUnit :
    packUnit 0 12 0 ([0xB3, 0x41, 0x00, 0x09, 0x91, 0x02] ++ List.replicate 122 0 ++ [0x80] ++ List.replicate 7 0x7F) =
      [0x43, 0x90, 0x21] ++ List.replicate 61 0 ++ [0x8C, 0x48] ++ List.replicate 30 0x44 ++ [0x80] ++ List.replicate 7 0x7F := by
  decide +kernel

/-- "Counts, offsets and spills for one expert": the layer's capacity. -/
theorem test_capacity : capacityOf { eCount := 4096, k := 2, cf := 0x140 } 131072 = 80 := by decide +kernel

/-- "Bounds on a 32-element row": the shadow's scale, its elements and E. -/
theorem test_shadowRow :
    let row := [Val.ofInt 26 (-5), .ofInt (-44) (-5), .ofInt 13 (-5), .ofInt (-5) (-5)] ++ List.replicate 28 .zero
    let b := shadowRow (BitVec.ofNat 512 (3 * 2 ^ 240 + 32 * 2 ^ 160 * 2 ^ 160)) row true
    leNat (b.take 4) = 0x3E800000 ∧ (b.drop 8).take 2 = [0xF5, 0x93] ∧ b.getD 136 0 = 0x7D := by
  decide +kernel

/-- The example of a pool of 1,000 buffers: 60 are refused, 50 are given, and U stays 150. -/
def examplePool : Pool :=
  { count := 1000, links := (upFrom 0 800).map fun i => (i, (0, false)), tailFrom := 800,
    quotas := [(0, { held := 700 }), (1, { min := 250, held := 100 })] }
theorem test_poolRequest : ((examplePool.request 0 60).getLeft?.map AllocFail.status) = some 0x0031 ∧
    (examplePool.request 0 50).isRight = true ∧ examplePool.unmetBut 0 = 150 := by
  decide +kernel

/-- "One tile over one period": the stride of a snapshot of all banks. -/
theorem test_stride : stride64 up = 835 := by decide +kernel

/-- "Enumerating a chain after a replacement": ASSIGN with MASK 0x37 gives address 4. -/
theorem test_assign : (assign up 0x37 1 0 0 0).1 = passBytes 0x3F 0 0 0 0 ∧ ringAddr (assign up 0x37 1 0 0 0).2 = 4 := by decide +kernel

/-! ## Rows -/

/-- No word spells a command. -/
theorem test_decodeTableWord : decodeTableWord 64 0 = none ∧ (up.withFetchWord 64 0) = up := by decide +kernel

/-- An idle step is one ember tick (R523). -/
theorem test_idle : (after (step up)).ticks = 1 := by decide +kernel

/-- A module with every logical tile and its standby core. -/
def sound : State :=
  { up with ras := { up.ras with l2p := (upFrom 0 144).map fun i => (i, i) }
            cp := { up.cp with cores := { up.cp.cores with standby := true } } }

/-- NOP ends with ST_OK (R14, R290). -/
theorem test_nop : ((after (exec (.nop 5) (opened sound 0))).cmd 5).map (fun c => (c.phase, c.result.status)) =
    some (.completing, 0) := by
  decide +kernel

/-- A Stoker at a word of a form and operation: DST 3, SRCA 1, SRCB 2, which hold `a` and `b`. -/
def scalar (op : Nat) (a b : Word) : State :=
  standing (BitVec.ofNat 64 (16 * op + 3 * 2 ^ 12 + 2 ^ 17 + 2 * 2 ^ 22)) { regs := [(1, a), (2, b)] }

/-- What register 3 of tile 0 holds after a row. -/
def result (o : Out) : Option Word := (((after o).tile 0).kernel).map fun k => k.reg 3

/-- Products and sums wrap (R238). -/
theorem test_mul : result (exec (.mul 0) (scalar 8 0x8000000000000000 3)) = some 0x8000000000000000 := by decide +kernel
theorem test_add : result (exec (.add 0) (scalar 0 (BitVec.allOnes 64) 2)) = some 1 := by decide +kernel
/-- Shifts take the amount modulo 64, and SRA keeps the sign (R238). -/
theorem test_sra : result (exec (.sra 0) (scalar 7 0x8000000000000000 65)) = some 0xC000000000000000 := by decide +kernel
/-- SLT compares signed values (R238). -/
theorem test_slt : result (exec (.slt 0) (scalar 0xE (BitVec.allOnes 64) 0)) = some 1 := by decide +kernel
/-- Division by zero gives all ones, and the remainder the dividend (R238). -/
theorem test_divu : result (exec (.divu 0) (scalar 0xA 7 0)) = some (BitVec.allOnes 64) := by decide +kernel
theorem test_remu : result (exec (.remu 0) (scalar 0xB 7 0)) = some 7 := by decide +kernel

/-- A tick is nothing without standby power (R523, R548). -/
theorem test_unpowered : after (step unpowered) = unpowered := by decide +kernel

end Sys2Proof.Tests
end

section
/-!
# What a command leaves unchanged: the fuses, the waiting commands, the tick count

The fuses are burnt at manufacture (R3): no operation of the model writes them. The same holds of
the queue of waiting commands, which only `step` shortens, and of the count of ember ticks, which
only a tick and the loss and return of standby power change. The three are read together as
`State.fixed`, and every operation that makes a state has one frame lemma here, in the order of the
model's files: the operation's state has the `fixed` of the state it was given. A caller's lemma
follows from its callees' by `simp`, so no proof looks into a callee.

A long operation is taken apart in the order it is written. Each intermediate state is named, its
frame fact is noted, and its value is then forgotten (`clear_value`): what remains of a state is
that fact, and the kernel never has to evaluate a state to check a proof.
-/
open Sys2Proof
namespace Sys2Proof.Machine

/-! ## The fixed part of a state and of an outcome -/

/-- The fuses, the waiting commands and the count of ember ticks. -/
abbrev Fixed := Fuses × List Instr × Nat

/-- The part of the state that no command changes, the loss and return of standby power apart. -/
def State.fixed (s : State) : Fixed := (s.fuses, s.pending, s.ticks)

/-- The fixed part of the state an outcome leaves, where it leaves one. -/
def fixedAfter : Out → Option Fixed
  | .next s => some s.fixed
  | _ => none

/-- The fixed part of the state an engine command leaves when it ends; `d` for a command that does
not end, which leaves no state of its own. -/
def Run.fixedOr (d : Fixed) : Run → Fixed
  | .done _ s => s.fixed
  | _ => d

/-- The fixed part of an optional state; `d` where there is none. -/
def optFixed (d : Fixed) : Option State → Fixed
  | some s => s.fixed
  | none => d

-- The proofs `(rfl)` stand in parentheses so that `simp` records its use of these equations: left
-- as definitional unfoldings, they would be checked again by evaluating whole states.
@[simp] theorem fixed_fold (s : State) : (s.fuses, s.pending, s.ticks) = s.fixed := (rfl)

@[simp] theorem fixed_mk (fuses regs counters cp ctx hop wsp ntl models tiles xch fab flk ras det
    mgt pwr hif pmc prt hostOut ticks free pending) :
    (State.mk fuses regs counters cp ctx hop wsp ntl models tiles xch fab flk ras det mgt pwr hif
      pmc prt hostOut ticks free pending).fixed = (fuses, pending, ticks) := (rfl)

@[simp] theorem fixed_fst (s : State) : s.fixed.1 = s.fuses := (rfl)

@[simp] theorem fixedAfter_next (s : State) : fixedAfter (.next s) = some s.fixed := (rfl)

@[simp] theorem done_fixedOr (d : Fixed) (e : Effects) (s : State) :
    Run.fixedOr d (.done e s) = s.fixed := (rfl)

@[simp] theorem fault_fixedOr (d : Fixed) (k a : Nat) : Run.fixedOr d (.fault k a) = d := (rfl)

@[simp] theorem skip_fixedOr (d : Fixed) (k n r : Nat) : Run.fixedOr d (.skip k n r) = d := (rfl)

@[simp] theorem wait_fixedOr (d : Fixed) (r : Rd) : Run.fixedOr d (.wait r) = d := (rfl)

@[simp] theorem hold_fixedOr (d : Fixed) : Run.fixedOr d .hold = d := (rfl)

@[simp] theorem some_optFixed (d : Fixed) (s : State) : optFixed d (some s) = s.fixed := (rfl)

@[simp] theorem none_optFixed (d : Fixed) : optFixed d none = d := (rfl)

/-! ## Branches -/

@[simp] theorem fixed_ite (c : Prop) [Decidable c] (a b : State) :
    (if c then a else b).fixed = if c then a.fixed else b.fixed := apply_ite ..

@[simp] theorem fixedAfter_ite (c : Prop) [Decidable c] (a b : Out) :
    fixedAfter (if c then a else b) = if c then fixedAfter a else fixedAfter b := apply_ite ..

@[simp] theorem fst_fixed_ite {α : Type} (c : Prop) [Decidable c] (a b : State × α) :
    (if c then a else b).1.fixed = if c then a.1.fixed else b.1.fixed :=
  apply_ite (fun p : State × α => p.1.fixed) ..

@[simp] theorem snd_fixed_ite {α : Type} (c : Prop) [Decidable c] (a b : α × State) :
    (if c then a else b).2.fixed = if c then a.2.fixed else b.2.fixed :=
  apply_ite (fun p : α × State => p.2.fixed) ..

@[simp] theorem snd_snd_fixed_ite {α β : Type} (c : Prop) [Decidable c] (a b : α × β × State) :
    (if c then a else b).2.2.fixed = if c then a.2.2.fixed else b.2.2.fixed :=
  apply_ite (fun p : α × β × State => p.2.2.fixed) ..

@[simp] theorem ite_fixedOr (d : Fixed) (c : Prop) [Decidable c] (a b : Run) :
    Run.fixedOr d (if c then a else b) = if c then Run.fixedOr d a else Run.fixedOr d b :=
  apply_ite ..

@[simp] theorem ite_optFixed (d : Fixed) (c : Prop) [Decidable c] (a b : Option State) :
    optFixed d (if c then a else b) = if c then optFixed d a else optFixed d b := apply_ite ..

/-! ## Folds -/

@[simp] theorem foldl_fixed {α : Type} (f : State → α → State)
    (h : ∀ s x, (f s x).fixed = s.fixed) (xs : List α) (s : State) :
    (xs.foldl f s).fixed = s.fixed := by
  induction xs generalizing s with
  | nil => rfl
  | cons x xs ih => exact (ih _).trans (h s x)

@[simp] theorem foldl_fst_fixed {α β : Type} (f : State × β → α → State × β)
    (h : ∀ p x, (f p x).1.fixed = p.1.fixed) (xs : List α) (p : State × β) :
    (xs.foldl f p).1.fixed = p.1.fixed := by
  induction xs generalizing p with
  | nil => rfl
  | cons x xs ih => exact (ih _).trans (h p x)

@[simp] theorem foldl_snd_fixed {α β : Type} (f : β × State → α → β × State)
    (h : ∀ p x, (f p x).2.fixed = p.2.fixed) (xs : List α) (p : β × State) :
    (xs.foldl f p).2.fixed = p.2.fixed := by
  induction xs generalizing p with
  | nil => rfl
  | cons x xs ih => exact (ih _).trans (h p x)

/-! ## States taken out of pairs, options and reads -/

theorem fixed_of_fst {α : Type} {p : State × α} {s : State} {a : α} {d : Fixed} (e : p = (s, a))
    (h : p.1.fixed = d) : s.fixed = d := by
  subst e
  exact h

theorem fixed_of_snd {α : Type} {p : α × State} {s : State} {a : α} {d : Fixed} (e : p = (a, s))
    (h : p.2.fixed = d) : s.fixed = d := by
  subst e
  exact h

theorem fixed_of_snd_snd {α β : Type} {p : α × β × State} {s : State} {a : α} {b : β} {d : Fixed}
    (e : p = (a, b, s)) (h : p.2.2.fixed = d) : s.fixed = d := by
  subst e
  exact h

theorem fixed_of_some {o : Option State} {t : State} {d : Fixed} (e : o = some t)
    (h : optFixed d o = d) : t.fixed = d := by
  subst e
  exact h

theorem getD_fixed (o : Option State) (s : State) (h : ∀ t, o = some t → t.fixed = s.fixed) :
    (o.getD s).fixed = s.fixed := by
  cases o with
  | none => rfl
  | some t => exact h t rfl

theorem fixedAfter_next_eq {s : State} {d : Fixed} (h : s.fixed = d) :
    fixedAfter (.next s) = some d := congrArg some h

theorem Rd.use_fixed (d : Fixed) (r : Rd) (f : List Byte → Run)
    (h : ∀ bs, Run.fixedOr d (f bs) = d) : Run.fixedOr d (r.use f) = d := by
  cases r <;> simp [Rd.use, h]

theorem EngCmd.get_fixed (d : Fixed) (c : EngCmd) (r : Nat) (f : Opnd → Run)
    (h : ∀ o, Run.fixedOr d (f o) = d) : Run.fixedOr d (c.get r f) = d := by
  unfold EngCmd.get
  split <;> simp [h]

/-! ## `Machine/Ops` -/

@[simp] theorem setRaw_fixed (s : State) (r : RegSpec) (idx func v : Nat) :
    (setRaw s r idx func v).fixed = s.fixed := by simp [setRaw]

@[simp] theorem setFld_fixed (s : State) (f : FieldRef) (x idx func : Nat) :
    (setFld s f x idx func).fixed = s.fixed := by simp [setFld]

@[simp] theorem bumpFld_fixed (s : State) (f : FieldRef) (n idx : Nat) :
    (bumpFld s f n idx).fixed = s.fixed := by simp [bumpFld]

@[simp] theorem count_fixed (s : State) (b c n : Nat) :
    (count s b c n).fixed = s.fixed := by simp [count]

@[simp] theorem send_fixed (s : State) (o : HostOut) : (send s o).fixed = s.fixed := by simp [send]

@[simp] theorem irqUpdate_fixed (s : State) : (irqUpdate s).fixed = s.fixed := by simp [irqUpdate]

@[simp] theorem logEntry_fixed (s : State) (block bit : Nat) (cls : ErrClass) (i : ErrInfo) :
    (logEntry s block bit cls i).fixed = s.fixed := by simp [logEntry]

@[simp] theorem alert_fixed (s : State) (seq cls block bit : Nat) :
    (alert s seq cls block bit).fixed = s.fixed := by simp [alert]

@[simp] theorem stopFatal_fixed (s : State) : (stopFatal s).fixed = s.fixed := by simp [stopFatal]

@[simp] theorem raiseErr_fixed (s : State) (f : FieldRef) (idx : Nat) (cls : ErrClass)
    (i : ErrInfo) :
    (raiseErr s f idx cls i).fixed = s.fixed := by simp [raiseErr]

@[simp] theorem noteErr_fixed (s : State) (block : Nat) (cls : ErrClass) (i : ErrInfo) :
    (noteErr s block cls i).fixed = s.fixed := by simp [noteErr]

@[simp] theorem setErr_fixed (s : State) (f : FieldRef) (idx func : Nat) :
    (setErr s f idx func).fixed = s.fixed := by simp [setErr]

@[simp] theorem drawFree_fixed (s : State) : (drawFree s).2.fixed = s.fixed := by simp [drawFree]

/-! ## `Machine/Trigger` -/

@[simp] theorem settleTrig_fixed (s : State) (slice : Nat) (x : TrigSlice) :
    (settleTrig s slice x).fixed = s.fixed := by
  unfold settleTrig
  split
  simp

@[simp] theorem issueTrig_fixed (s : State) (slice : Nat) (ops : List TrigOp) :
    (issueTrig s slice ops).fixed = s.fixed := by simp [issueTrig]

@[simp] theorem bumpTrig_fixed (s : State) (slice seq key n : Nat) :
    (bumpTrig s slice seq key n).fixed = s.fixed := by simp [bumpTrig]

@[simp] theorem dropTrig_fixed (s : State) (seq : Nat) :
    (dropTrig s seq).fixed = s.fixed := by simp [dropTrig]

@[simp] theorem renewTrig_fixed (s : State) (slice seq key : Nat) (ops : List TrigOp) :
    (renewTrig s slice seq key ops).fixed = s.fixed := by simp [renewTrig]

@[simp] theorem fireTrig_fixed (s : State) (slice seq action operand : Nat) :
    (fireTrig s slice seq action operand).fixed = s.fixed := by simp [fireTrig]

/-! ## `Machine/Perturb` -/

@[simp] theorem injectorEvent_fixed (s : State) (i : Nat) :
    (injectorEvent s i).2.fixed = s.fixed := by simp [injectorEvent]

@[simp] theorem inject_fixed (s : State) (target unit sub : Nat) :
    (inject s target unit sub).2.fixed = s.fixed := by
  unfold inject
  simp

@[simp] theorem injectAt_fixed (s : State) (target unit sub : Nat) :
    (injectAt s target unit sub).fixed = s.fixed := by simp [injectAt]

@[simp] theorem injectEach_fixed (target unit n : Nat) (s : State) :
    (injectEach target unit n s).2.fixed = s.fixed := by
  induction n generalizing s with
  | zero => rfl
  | succ n ih => simp [injectEach, ih]

@[simp] theorem injectMany_fixed (target unit n : Nat) (s : State) :
    (injectMany target unit n s).2.fixed = s.fixed := by simp [injectMany]

@[simp] theorem showMhz_fixed (s : State) : (showMhz s).fixed = s.fixed := by simp [showMhz]

@[simp] theorem setMhz_fixed (s : State) (m : Nat) :
    (setMhz s m).fixed = s.fixed := by simp [setMhz]

@[simp] theorem dropHolds_fixed (s : State) : (dropHolds s).fixed = s.fixed := by simp [dropHolds]

@[simp] theorem execInjectHoldEnd_fixed (injector : Nat) (s : State) :
    fixedAfter (execInjectHoldEnd injector s) = some s.fixed := by simp [execInjectHoldEnd]

/-! ## `Machine/Protocol` -/

@[simp] theorem State.setCmd_fixed (s : State) (seq : Nat) (c : OpenCmd) :
    (s.setCmd seq c).fixed = s.fixed := by simp [State.setCmd]

@[simp] theorem State.modCmd_fixed (s : State) (seq : Nat) (f : OpenCmd → OpenCmd) :
    (s.modCmd seq f).fixed = s.fixed := by simp [State.modCmd]

@[simp] theorem State.setSq_fixed (s : State) (f q : Nat) (x : Sq) :
    (s.setSq f q x).fixed = s.fixed := by simp [State.setSq]

@[simp] theorem State.setCq_fixed (s : State) (f q : Nat) (x : Cq) :
    (s.setCq f q x).fixed = s.fixed := by simp [State.setCq]

@[simp] theorem journal_fixed (s : State) (e : JEntry) : (journal s e).fixed = s.fixed := by
  unfold journal
  extract_lets +onlyGivenNames _ _ _ _ _ _ _ s1 s2
  have h2 : s2.fixed = s.fixed := by simp [s2, s1]
  clear_value s1 s2
  simp [h2]

@[simp] theorem detachEntries_fixed (s : State) (p : JEntry → Bool) :
    (detachEntries s p).fixed = s.fixed := by simp [detachEntries]

@[simp] theorem detachSq_fixed (s : State) (f q : Nat) : (detachSq s f q).fixed = s.fixed := by
  unfold detachSq
  extract_lets +onlyGivenNames s1
  have h1 : s1.fixed = s.fixed := by simp [s1]
  clear_value s1
  split
  · exact h1
  · split <;> simp [h1]

@[simp] theorem journalEvent_fixed (s : State) (code ref w0 w1 body msc : Nat) :
    (journalEvent s code ref w0 w1 body msc).fixed = s.fixed := by
  unfold journalEvent
  extract_lets +onlyGivenNames _
  simp

@[simp] theorem openEvent_fixed (s : State) (code ref ctx stream layer msc : Nat)
    (vals : List Nat) :
    (openEvent s code ref ctx stream layer msc vals).fixed = s.fixed := by
  unfold openEvent
  split
  rename_i s1 e2
  have h1 : s1.fixed = s.fixed := fixed_of_snd e2 (by simp)
  simp [h1]

@[simp] theorem coreErr_fixed (s : State) (ref : FieldRef) (cls : ErrClass) (jrnSeq : Nat) :
    (coreErr s ref cls jrnSeq).fixed = s.fixed := by simp [coreErr]

@[simp] theorem fireVector_fixed (s : State) (f q : Nat) : (fireVector s f q).fixed = s.fixed := by
  unfold fireVector
  split
  · rfl
  · split <;> simp

@[simp] theorem postOne_fixed (s : State) (f q slot : Nat) (bytes : List Byte) (irq : Bool) :
    (postOne s f q slot bytes irq).fixed = s.fixed := by
  unfold postOne
  split <;> simp

@[simp] theorem flushNotes_fixed (s : State) (f q n : Nat) :
    (flushNotes s f q n).fixed = s.fixed := by
  induction n generalizing s with
  | zero => rfl
  | succ n ih =>
    unfold flushNotes
    (repeat' split) <;> simp [ih]

@[simp] theorem postReply_fixed (s : State) (f q slot : Nat) (bytes : List Byte) (irq : Bool) :
    (postReply s f q slot bytes irq).fixed = s.fixed := by
  unfold postReply
  extract_lets +onlyGivenNames s1
  have h1 : s1.fixed = s.fixed := by simp [s1]
  clear_value s1
  split <;> simp [h1]

@[simp] theorem advanceSqHead_fixed (s : State) (f q slot : Nat) :
    (advanceSqHead s f q slot).fixed = s.fixed := by
  unfold advanceSqHead
  split <;> simp

@[simp] theorem takeGroupEntry_fixed (s : State) (f q slot key : Nat) :
    (takeGroupEntry s f q slot key).fixed = s.fixed := by
  unfold takeGroupEntry
  extract_lets +onlyGivenNames s1
  have h1 : s1.fixed = s.fixed := by
    unfold s1
    split <;> simp
  clear_value s1
  simp [h1]

@[simp] theorem completeCmd_fixed (s : State) (seq : Nat) (r : Result) :
    (completeCmd s seq r).fixed = s.fixed := by
  unfold completeCmd
  split
  · rfl
  · split
    · rfl
    · extract_lets +onlyGivenNames _ _ s1 _ _ s2
      have h1 : s1.fixed = s.fixed := by
        unfold s1
        split <;> simp
      have h2 : s2.fixed = s.fixed := by simp [s2, h1]
      clear_value s1 s2
      simp [h2]

@[simp] theorem completeWith_fixed (s : State) (seq status detail w0 w1 : Nat) :
    (completeWith s seq status detail w0 w1).fixed = s.fixed := by simp [completeWith]

/-- The command's own effect is the caller's; its frame fact is the hypothesis. -/
@[simp] theorem runCmd_fixed (s : State) (seq op : Nat) (pre : OpenCmd → Option PreFail)
    (run : OpenCmd → State) (hrun : ∀ a, (run a).fixed = s.fixed) :
    fixedAfter (runCmd s seq op pre run) = some s.fixed := by
  unfold runCmd
  (repeat' split) <;> simp [hrun]

@[simp] theorem startWork_fixed (s : State) (seq : Nat) :
    (startWork s seq).fixed = s.fixed := by simp [startWork]

@[simp] theorem timingEvent_fixed (s : State) (seq : Nat) :
    (timingEvent s seq).fixed = s.fixed := by simp [timingEvent]

@[simp] theorem timingOpen_fixed (s : State) :
    (timingOpen s).fixed = s.fixed := by simp [timingOpen]

/-! ## `Machine/Recorder` -/

@[simp] theorem recAppend_fixed (s : State) (e : RecEntry) :
    (recAppend s e).fixed = s.fixed := by simp [recAppend]

@[simp] theorem diverge_fixed (s : State) (seq cause : Nat) (k : RecKey) (exp got : Nat) :
    (diverge s seq cause k exp got).fixed = s.fixed := by simp [diverge]

@[simp] theorem recCompare_fixed (s : State) (k : RecKey) (old : RecEntry) (body : Nat) :
    (recCompare s k old body).fixed = s.fixed := by
  unfold recCompare
  split <;> simp

@[simp] theorem recProduce_fixed (s : State) (k : RecKey) (body : Nat) :
    (recProduce s k body).fixed = s.fixed := by
  unfold recProduce
  (repeat' split) <;> simp

@[simp] theorem recEvent_fixed (s : State) (code unit seq arg : Nat) (k : RecKey) :
    (recEvent s code unit seq arg k).fixed = s.fixed := by simp [recEvent]

@[simp] theorem recordCmd_fixed (s : State) (seq : Nat) : (recordCmd s seq).fixed = s.fixed := by
  unfold recordCmd
  split
  · rfl
  · extract_lets +onlyGivenNames _ _ _
    split
    · simp
    · (repeat' split) <;> simp

@[simp] theorem recordLate_fixed (s : State) (seq : Nat) (c : OpenCmd) :
    (recordLate s seq c).fixed = s.fixed := by simp [recordLate]

@[simp] theorem leftover_fixed (s : State) (e : RecEntry) :
    (leftover s e).fixed = s.fixed := by simp [leftover]

@[simp] theorem replayDone_fixed (s : State) :
    (replayDone s).fixed = s.fixed := by simp [replayDone]

@[simp] theorem endFed_fixed (s : State) (seq : Nat) :
    (endFed s seq).fixed = s.fixed := by simp [endFed]

@[simp] theorem countDraws_fixed (s : State) (n : Nat) :
    (countDraws s n).fixed = s.fixed := by simp [countDraws]

@[simp] theorem countJitter_fixed (s : State) (n : Nat) :
    (countJitter s n).fixed = s.fixed := by simp [countJitter]

/-! ## `Machine/Hooks` -/

@[simp] theorem takeCollNumber_fixed (s : State) (p : Packet) :
    (takeCollNumber s p).2.fixed = s.fixed := by
  unfold takeCollNumber
  split
  · simp
  · extract_lets +onlyGivenNames _
    split <;> simp

@[simp] theorem wakeTrigger_fixed (s : State) :
    (wakeTrigger s).fixed = s.fixed := by simp [wakeTrigger]

@[simp] theorem cacheContext_fixed (s : State) (id : Nat) :
    (cacheContext s id).fixed = s.fixed := by
  unfold cacheContext
  extract_lets +onlyGivenNames _ _ f1
  have h1 : ∀ t x2 x3, (f1 t x2 x3).fixed = t.fixed := by
    intro t x2 x3
    unfold f1
    simp
  clear_value f1
  split
  · simp [h1]
  · split
    rename_i s4 e5
    have h4 : s4.fixed = s.fixed := fixed_of_snd e5 (by simp)
    split <;> simp [h4, h1]

@[simp] theorem readEntry_fixed (s : State) (seq id : Nat) :
    (readEntry s seq id).fixed = s.fixed := by
  unfold readEntry
  split
  rename_i s1 e2
  have h1 : s1.fixed = s.fixed := fixed_of_snd e2 (by simp)
  simp [h1]

@[simp] theorem touchContext_fixed (s : State) (f seq : Nat) (p : Packet) :
    (touchContext s f seq p).fixed = s.fixed := by
  unfold touchContext
  split
  · rfl
  · split <;> simp

@[simp] theorem openCommand_fixed (s : State) (f q slot cq : Nat) (p : Packet) (groupReply : Bool) :
    (openCommand s f q slot cq p groupReply).fixed = s.fixed := by
  unfold openCommand
  extract_lets +onlyGivenNames _ _ s1
  have h1 : s1.fixed = s.fixed := by simp [s1]
  clear_value s1
  split
  rename_i s2 e3
  have h2 : s2.fixed = s.fixed := fixed_of_snd e3 (by simp [h1])
  simp [h2]

/-! ## `Machine/Hopper` -/

@[simp] theorem State.setPool_fixed (s : State) (key : Nat) (p : Pool) :
    (s.setPool key p).fixed = s.fixed := by simp [State.setPool]

@[simp] theorem linkErr_fixed (s : State) (f : FieldRef) (key : Nat) (p : Pool) (b : Nat) :
    (linkErr s f key p b).fixed = s.fixed := by simp [linkErr]

@[simp] theorem readLinks_fixed (s : State) (key ctx n : Nat) :
    (readLinks s key ctx n).fixed = s.fixed := by
  unfold readLinks
  split
  · rfl
  · split <;> simp

/-- The state is in both outcomes, beside the failure or beside the buffers. -/
theorem allocBufs_fixed (s : State) (key ctx n : Nat) :
    ((allocBufs s key ctx n).elim Prod.snd Prod.snd).fixed = s.fixed := by
  unfold allocBufs
  extract_lets +onlyGivenNames s1
  have h1 : s1.fixed = s.fixed := by simp [s1]
  clear_value s1
  split
  · exact h1
  · split <;> simp [h1]

theorem allocBufs_inl_fixed {s : State} {key ctx n : Nat} {e : AllocFail} {t : State}
    (h : allocBufs s key ctx n = .inl (e, t)) :
    t.fixed = s.fixed := by
  have hs := allocBufs_fixed s key ctx n
  rwa [h] at hs

theorem allocBufs_inr_fixed {s : State} {key ctx n : Nat} {bufs : List Nat} {t : State}
    (h : allocBufs s key ctx n = .inr (bufs, t)) :
    t.fixed = s.fixed := by
  have hs := allocBufs_fixed s key ctx n
  rwa [h] at hs

@[simp] theorem freeBufs_fixed (s : State) (key ctx : Nat) (bufs : List Nat) :
    (freeBufs s key ctx bufs).fixed = s.fixed := by
  unfold freeBufs
  split
  · rfl
  · extract_lets +onlyGivenNames _ s1
    have h1 : s1.fixed = s.fixed := by simp [s1]
    clear_value s1
    split <;> simp [h1]

@[simp] theorem freeChain_fixed (s : State) (key ctx : Nat) (bufs : List Nat) :
    (freeChain s key ctx bufs).fixed = s.fixed := by
  unfold freeChain
  split <;> simp

@[simp] theorem freeCmdChains_fixed (s : State) (seq : Nat) (torn : Bool) :
    (freeCmdChains s seq torn).fixed = s.fixed := by
  unfold freeCmdChains
  split
  · rfl
  · extract_lets +onlyGivenNames f1
    have h1 : ∀ t x2, (f1 t x2).fixed = t.fixed := by
      intro t x2
      unfold f1
      split <;> simp
    clear_value f1
    simp [h1]

@[simp] theorem handOver_fixed (s : State) (key ctx : Nat) (bufs : List Nat) :
    (handOver s key ctx bufs).2.fixed = s.fixed := by
  unfold handOver
  split <;> simp

@[simp] theorem forgetChain_fixed (s : State) (key : Nat) (c : Chain) :
    (forgetChain s key c).fixed = s.fixed := by
  unfold forgetChain
  split <;> simp

@[simp] theorem dropChain_fixed (s : State) (key : Nat) (c : Chain) :
    (dropChain s key c).fixed = s.fixed := by simp [dropChain]

@[simp] theorem dropContextHoldings_fixed (s : State) (ctx : Nat) :
    (dropContextHoldings s ctx).fixed = s.fixed := by
  unfold dropContextHoldings
  refine foldl_fixed _ (fun t x1 => ?_) _ _
  extract_lets +onlyGivenNames s2
  have h2 : s2.fixed = t.fixed := by simp [s2]
  clear_value s2
  split <;> simp [h2]

@[simp] theorem pool0Ask_fixed (s : State) (die tag : Nat) :
    (pool0Ask s die tag).2.fixed = s.fixed := by
  unfold pool0Ask
  extract_lets +onlyGivenNames s1
  have h1 : s1.fixed = s.fixed := by simp [s1]
  clear_value s1
  split <;> simp [h1]

@[simp] theorem pool0Give_fixed (s : State) (die b : Nat) :
    (pool0Give s die b).fixed = s.fixed := by simp [pool0Give]

@[simp] theorem execPool0Alloc_fixed (die : Nat) (s : State) :
    fixedAfter (execPool0Alloc die s) = some s.fixed := by
  unfold execPool0Alloc
  split
  · simp
  · split <;> simp

/-! ## `Machine/Weight` -/

@[simp] theorem loseLinks_fixed (s : State) (q w n : Nat) :
    (loseLinks s q w n).fixed = s.fixed := (rfl)

@[simp] theorem State.setPage_fixed (s : State) (p : Nat) (d : Page) :
    (s.setPage p d).fixed = s.fixed := by simp [State.setPage]

@[simp] theorem State.modPage_fixed (s : State) (p : Nat) (f : Page → Page) :
    (s.modPage p f).fixed = s.fixed := by simp [State.modPage]

@[simp] theorem takeFrame_fixed (s : State) (st fr p : Nat) :
    (takeFrame s st fr p).fixed = s.fixed := by simp [takeFrame]

@[simp] theorem dropFrame_fixed (s : State) (st fr : Nat) :
    (dropFrame s st fr).fixed = s.fixed := by simp [dropFrame]

theorem placePrimary_fixed {s : State} {p : Nat} {u : State} (h : placePrimary s p = some u) :
    u.fixed = s.fixed := by
  refine fixed_of_some h ?_
  unfold placePrimary
  split
  · simp
  · (repeat' split) <;> simp

@[simp] theorem placeReplica_fixed (s : State) (p : Nat) : (placeReplica s p).fixed = s.fixed := by
  unfold placeReplica
  split
  · rfl
  · (repeat' split) <;> simp

@[simp] theorem followPrimary_fixed (s : State) (p : Nat) :
    (followPrimary s p).fixed = s.fixed := by
  unfold followPrimary
  (repeat' split) <;> simp

@[simp] theorem leaveFrame_fixed (s : State) (p st fr : Nat) :
    (leaveFrame s p st fr).fixed = s.fixed := by
  unfold leaveFrame
  (repeat' split) <;> simp

@[simp] theorem placeReplicas_fixed (s : State) :
    (placeReplicas s).fixed = s.fixed := by simp [placeReplicas]

@[simp] theorem placeRingPage_fixed (s : State) (q : Nat) :
    (placeRingPage s q).fixed = s.fixed := by
  unfold placeRingPage
  split <;> simp

@[simp] theorem placeRing_fixed (s : State) : (placeRing s).fixed = s.fixed := by simp [placeRing]

@[simp] theorem dropCopies_fixed (s : State) (p : Nat) : (dropCopies s p).fixed = s.fixed := by
  unfold dropCopies
  split <;> simp

theorem takeSlot_fixed {s : State} {p : Nat} {u : State} (h : takeSlot s p = some u) :
    u.fixed = s.fixed := by
  refine fixed_of_some h ?_
  unfold takeSlot
  split <;> simp

@[simp] theorem dropSlot_fixed (s : State) (p : Nat) : (dropSlot s p).fixed = s.fixed := by
  unfold dropSlot
  split <;> simp

@[simp] theorem mapPersist_fixed (s : State) (p : Nat) : (mapPersist s p).fixed = s.fixed := by
  unfold mapPersist
  split <;> simp

@[simp] theorem queueMove_fixed (s : State) (m : Move) :
    (queueMove s m).fixed = s.fixed := by simp [queueMove]

@[simp] theorem noteRead_fixed (s : State) (p : Nat) :
    (noteRead s p).fixed = s.fixed := by simp [noteRead]

@[simp] theorem noteReads_fixed (s : State) (a n : Nat) :
    (noteReads s a n).fixed = s.fixed := by simp [noteReads]

@[simp] theorem evict_fixed (s : State) (p : Nat) : (evict s p).fixed = s.fixed := by simp [evict]

@[simp] theorem revivePage_fixed (s : State) (p : Nat) : (revivePage s p).fixed = s.fixed := by
  unfold revivePage
  split
  · rfl
  · split
    · rfl
    · extract_lets +onlyGivenNames s1
      have h1 : s1.fixed = s.fixed := by simp [s1]
      clear_value s1
      split
      · exact h1
      · split
        · next e => simp [placePrimary_fixed e, h1]
        · have h2 : ((takeSlot s1 p).getD s1).fixed = s1.fixed :=
            getD_fixed _ _ fun t e => takeSlot_fixed e
          simp [h1, h2]

@[simp] theorem ringBadErr_fixed (s : State) (p : Nat) :
    (ringBadErr s p).fixed = s.fixed := by simp [ringBadErr]

@[simp] theorem stopCollector_fixed (s : State) (p : Nat) :
    (stopCollector s p).fixed = s.fixed := by
  unfold stopCollector
  split <;> simp

@[simp] theorem wspErr_fixed (s : State) (f : FieldRef) (page : Nat) :
    (wspErr s f page).fixed = s.fixed := by simp [wspErr]

@[simp] theorem losePage_fixed (s : State) (p : Nat) : (losePage s p).fixed = s.fixed := by
  unfold losePage
  extract_lets +onlyGivenNames s1
  have h1 : s1.fixed = s.fixed := by simp [s1]
  clear_value s1
  split <;> simp [h1]

@[simp] theorem releaseStaged_fixed (s : State) (a n : Nat) :
    (releaseStaged s a n).fixed = s.fixed := by simp [releaseStaged]

@[simp] theorem storeNand_fixed (s : State) (a : Nat) (bs : List Byte) :
    (storeNand s a bs).fixed = s.fixed := by simp [storeNand]

@[simp] theorem storePage_fixed (byCmd all : Bool) (s : State) (p a : Nat) (bs : List Byte) :
    (storePage byCmd all s p a bs).fixed = s.fixed := by
  unfold storePage
  split <;> simp

@[simp] theorem clearPoison_fixed (s : State) (a n : Nat) :
    (clearPoison s a n).fixed = s.fixed := by simp [clearPoison]

@[simp] theorem wspStore_fixed (byCmd : Bool) (s : State) (a : Nat) (bs : List Byte) (all : Bool) :
    (wspStore byCmd s a bs all).fixed = s.fixed := by
  unfold wspStore
  simp

@[simp] theorem commitWrites_fixed (s : State) (all : Bool) (w : Mem) (written : List (Nat × Nat)) :
    (commitWrites s all w written).fixed = s.fixed := by simp [commitWrites]

@[simp] theorem ownWrite_fixed (s : State) (seq a : Nat) (bs : List Byte) :
    (ownWrite s seq a bs).fixed = s.fixed := by simp [ownWrite]

@[simp] theorem releasePages_fixed (s : State) (p n : Nat) :
    (releasePages s p n).fixed = s.fixed := by
  induction n generalizing s p with
  | zero => rfl
  | succ n ih => simp [releasePages, ih]

@[simp] theorem dropReserved_fixed (s : State) (seq : Nat) :
    (dropReserved s seq).fixed = s.fixed := by
  unfold dropReserved
  split <;> simp

/-! ## `Machine/TileStop` -/

@[simp] theorem State.setGroup_fixed (s : State) (key : Nat) (g : Group) :
    (s.setGroup key g).fixed = s.fixed := by simp [State.setGroup]

@[simp] theorem State.modGroup_fixed (s : State) (g : Nat) (f : Group → Group) :
    (s.modGroup g f).fixed = s.fixed := by simp [State.modGroup]

@[simp] theorem State.setStep_fixed (s : State) (seq : Nat) (x : LStep) :
    (s.setStep seq x).fixed = s.fixed := by simp [State.setStep]

@[simp] theorem State.modStep_fixed (s : State) (seq : Nat) (f : LStep → LStep) :
    (s.modStep seq f).fixed = s.fixed := by simp [State.modStep]

@[simp] theorem bindGroup_fixed (s : State) (g ctx st : Nat) :
    (bindGroup s g ctx st).fixed = s.fixed := by simp [bindGroup]

@[simp] theorem unbindGroup_fixed (s : State) (ctx st : Nat) :
    (unbindGroup s ctx st).fixed = s.fixed := by simp [unbindGroup]

@[simp] theorem breakGroup_fixed (s : State) (g : Nat) :
    (breakGroup s g).fixed = s.fixed := by simp [breakGroup]

@[simp] theorem announceLost_fixed (s : State) (model expert : Nat) :
    (announceLost s model expert).fixed = s.fixed := by simp [announceLost]

@[simp] theorem State.setTile_fixed (s : State) (t : Nat) (x : Tile) :
    (s.setTile t x).fixed = s.fixed := by simp [State.setTile]

@[simp] theorem State.modTile_fixed (s : State) (t : Nat) (f : Tile → Tile) :
    (s.modTile t f).fixed = s.fixed := by simp [State.modTile]

@[simp] theorem handBack_fixed (s : State) (w : Nat × Item) :
    (handBack s w).fixed = s.fixed := by simp [handBack]

@[simp] theorem resolveTally_fixed (s : State) (slot : Nat) (committed : Bool) :
    (resolveTally s slot committed).fixed = s.fixed := by simp [resolveTally]

@[simp] theorem killTileWork_fixed (s : State) (ctx seq : Nat) :
    (killTileWork s ctx seq).fixed = s.fixed := by
  unfold killTileWork
  split
  rename_i s1 e2
  have h1 : s1.fixed = s.fixed := fixed_of_snd e2 (by simp)
  simp [h1]

@[simp] theorem stopTileWork_fixed (s : State) (seq : Nat) :
    (stopTileWork s seq).fixed = s.fixed := by
  unfold stopTileWork
  split
  rename_i s1 e2
  have h1 : s1.fixed = s.fixed := fixed_of_snd e2 (by simp)
  simp [h1]

@[simp] theorem keepTileWork_fixed (s : State) (seq : Nat) :
    (keepTileWork s seq).fixed = s.fixed := by simp [keepTileWork]

@[simp] theorem noteLost_fixed (s : State) (model : Nat) (experts : List Nat) :
    (noteLost s model experts).fixed = s.fixed := by simp [noteLost]

@[simp] theorem noteAnnounced_fixed (s : State) (x : LStep) :
    (noteAnnounced s x).fixed = s.fixed := by simp [noteAnnounced]

@[simp] theorem countsStop_fixed (s : State) (x : LStep) :
    (countsStop s x).fixed = s.fixed := by simp [countsStop]

@[simp] theorem stopStepWork_fixed (s : State) (seq : Nat) :
    (stopStepWork s seq).fixed = s.fixed := by
  unfold stopStepWork
  extract_lets +onlyGivenNames s1 s2
  have h1 : s1.fixed = s.fixed := by simp [s1]
  have h2 : s2.fixed = s.fixed := by
    unfold s2
    split <;> simp [h1]
  clear_value s1 s2
  simp [h2]

@[simp] theorem dropFabWork_fixed (s : State) (seq : Nat) :
    (dropFabWork s seq).fixed = s.fixed := by simp [dropFabWork]

/-! ## `Machine/Contexts` -/

@[simp] theorem State.setContext_fixed (s : State) (id : Nat) (c : Ctx) :
    (s.setContext id c).fixed = s.fixed := by simp [State.setContext]

@[simp] theorem State.setStream_fixed (s : State) (ctx st : Nat) (x : Stream) :
    (s.setStream ctx st x).fixed = s.fixed := by
  unfold State.setStream
  split <;> simp

@[simp] theorem State.modStream_fixed (s : State) (ctx st : Nat) (f : Stream → Stream) :
    (s.modStream ctx st f).fixed = s.fixed := by simp [State.modStream]

@[simp] theorem releaseStale_fixed (s : State) :
    (releaseStale s).fixed = s.fixed := by simp [releaseStale]

@[simp] theorem preemptNote_fixed (s : State) (seq : Nat) (c : OpenCmd) :
    (preemptNote s seq c).fixed = s.fixed := by
  unfold preemptNote
  split
  · split <;> simp
  · rfl

@[simp] theorem killCmd_fixed (s : State) (seq cause why recArg : Nat) :
    (killCmd s seq cause why recArg).fixed = s.fixed := by
  unfold killCmd
  split
  · rfl
  · extract_lets +onlyGivenNames _ _ s1 s2 _ s3 s4 s5 s6 s7 _
    have h2 : s2.fixed = s.fixed := by simp [s2, s1]
    have h3 : s3.fixed = s.fixed := by
      unfold s3
      split <;> simp [h2]
    have h7 : s7.fixed = s.fixed := by simp [s7, s6, s5, s4, h3]
    clear_value s1 s2 s3 s4 s5 s6 s7
    simp [h7]

@[simp] theorem endCmd_fixed (s : State) (seq : Nat) (r : Result) :
    (endCmd s seq r).fixed = s.fixed := by
  unfold endCmd
  split
  · rfl
  · extract_lets +onlyGivenNames _
    split
    · split
      simp
    · simp

@[simp] theorem bindSlot_fixed (s : State) (slot ctx st : Nat) :
    (bindSlot s slot ctx st).fixed = s.fixed := by simp [bindSlot]

@[simp] theorem unbindSlot_fixed (s : State) (ctx st : Nat) (after : StreamState) :
    (unbindSlot s ctx st after).fixed = s.fixed := by
  unfold unbindSlot
  extract_lets +onlyGivenNames _ _ s1
  have h1 : s1.fixed = s.fixed := by
    unfold s1
    split <;> simp
  clear_value s1
  simp [h1]

@[simp] theorem streamProgress_fixed (s : State) (ctx st : Nat) :
    (streamProgress s ctx st).fixed = s.fixed := by simp [streamProgress]

@[simp] theorem stepEnds_fixed (s : State) (ctx st : Nat) (committed : Bool) :
    (stepEnds s ctx st committed).fixed = s.fixed := by
  unfold stepEnds
  extract_lets +onlyGivenNames _
  split <;> simp

@[simp] theorem displace_fixed (s : State) (ctx st why : Nat) :
    (displace s ctx st why).fixed = s.fixed := by simp [displace]

theorem tryBind_fixed {s : State} {x : Nat × Nat × Stream} {u : State} (h : tryBind s x = some u) :
    u.fixed = s.fixed := by
  refine fixed_of_some h ?_
  unfold tryBind
  (repeat' split) <;> simp

theorem scheduleFirst_fixed {s : State} {xs : List (Nat × Nat × Stream)} {r : (Nat × Nat) × State}
    (h : scheduleFirst s xs = some r) :
    r.2.fixed = s.fixed := by
  induction xs with
  | nil => cases h
  | cons x xs ih =>
    unfold scheduleFirst at h
    split at h
    · next e => cases h; exact tryBind_fixed e
    · exact ih h

@[simp] theorem execLingerExpire_fixed (ctx stream : Nat) (s : State) :
    fixedAfter (execLingerExpire ctx stream s) = some s.fixed := by simp [execLingerExpire]

@[simp] theorem execStreamBlockTimeout_fixed (ctx stream : Nat) (s : State) :
    fixedAfter (execStreamBlockTimeout ctx stream s) = some s.fixed := by
  unfold execStreamBlockTimeout
  extract_lets +onlyGivenNames _
  split
  · simp
  · extract_lets +onlyGivenNames s1
    have h1 : s1.fixed = s.fixed := by simp [s1]
    clear_value s1
    split
    · simp [h1]
    · split <;> simp [h1]

@[simp] theorem closeStream_fixed (s : State) (ctx st : Nat) (torn : Bool) :
    (closeStream s ctx st torn).fixed = s.fixed := by
  unfold closeStream
  extract_lets +onlyGivenNames _ _ s1 _ s2 s3 s4 _ s5
  have h1 : s1.fixed = s.fixed := by
    unfold s1
    split <;> simp
  have h2 : s2.fixed = s.fixed := by simp [s2, h1]
  have h3 : s3.fixed = s.fixed := by
    unfold s3
    split
    · split <;> simp [h2]
    · exact h2
  have h5 : s5.fixed = s.fixed := by simp [s5, s4, h3]
  clear_value s1 s2 s3 s4 s5
  simp [h5]

@[simp] theorem teardown_fixed (s : State) (ctx : Nat) (i : FaultInfo) :
    (teardown s ctx i).fixed = s.fixed := by
  unfold teardown
  split <;> simp

@[simp] theorem stateAreaFault_fixed (seq : Nat) (s : State) (ctx : Nat) :
    (stateAreaFault seq s ctx).fixed = s.fixed := by simp [stateAreaFault]

@[simp] theorem execPinWatchdog_fixed (ctx stream : Nat) (s : State) :
    fixedAfter (execPinWatchdog ctx stream s) = some s.fixed := by simp [execPinWatchdog]

/-! ## `Machine/Models` -/

@[simp] theorem makeUnavailable_fixed (s : State) (model expert page : Nat) :
    (makeUnavailable s model expert page).fixed = s.fixed := by
  unfold makeUnavailable
  split <;> simp

@[simp] theorem meetPoison_fixed (s : State) (p : Nat) : (meetPoison s p).fixed = s.fixed := by
  unfold meetPoison
  split <;> simp

/-- `conv` unfolds the application in place: the equation lemma that `unfold` would build
compares its two sides as evaluated states. -/
@[simp] theorem meetLost_fixed (s : State) (p : Nat) : (meetLost s p).fixed = s.fixed := by
  conv in @meetLost => unfold meetLost
  extract_lets +onlyGivenNames s1
  have h1 : s1.fixed = s.fixed := by simp [s1]
  clear_value s1
  split <;> simp [h1]

@[simp] theorem repairChange_fixed (s : State) :
    (repairChange s).fixed = s.fixed := by simp [repairChange]

/-! ## `Machine/CommandsAdmin` -/

@[simp] theorem endsOk_fixed (s : State) (seq w0 w1 : Nat) :
    (endsOk s seq w0 w1).fixed = s.fixed := by simp [endsOk]

@[simp] theorem execNop_fixed (seq : Nat) (s : State) :
    fixedAfter (execNop seq s) = some s.fixed := by simp [execNop]

@[simp] theorem execSqCreate_fixed (seq : Nat) (s : State) :
    fixedAfter (execSqCreate seq s) = some s.fixed := by simp [execSqCreate]

@[simp] theorem execSqDelete_fixed (seq : Nat) (s : State) :
    fixedAfter (execSqDelete seq s) = some s.fixed := by simp [execSqDelete]

@[simp] theorem execCqCreate_fixed (seq : Nat) (s : State) :
    fixedAfter (execCqCreate seq s) = some s.fixed := by simp [execCqCreate]

@[simp] theorem execCqDelete_fixed (seq : Nat) (s : State) :
    fixedAfter (execCqDelete seq s) = some s.fixed := by
  unfold execCqDelete
  simp

@[simp] theorem commitSqCreate_fixed (s : State) (c : OpenCmd) :
    (commitSqCreate s c).fixed = s.fixed := by simp [commitSqCreate]

@[simp] theorem commitSqDelete_fixed (s : State) (c : OpenCmd) :
    (commitSqDelete s c).fixed = s.fixed := by simp [commitSqDelete]

@[simp] theorem commitCqCreate_fixed (s : State) (c : OpenCmd) :
    (commitCqCreate s c).fixed = s.fixed := by simp [commitCqCreate]

@[simp] theorem commitCqDelete_fixed (s : State) (c : OpenCmd) :
    (commitCqDelete s c).fixed = s.fixed := by simp [commitCqDelete]

@[simp] theorem execCancel_fixed (seq : Nat) (s : State) :
    fixedAfter (execCancel seq s) = some s.fixed := by simp [execCancel]

@[simp] theorem execJournalFlush_fixed (seq : Nat) (s : State) :
    fixedAfter (execJournalFlush seq s) = some s.fixed := by simp [execJournalFlush]

@[simp] theorem finishJournalFlush_fixed (s : State) (seq : Nat) (failed : Bool) :
    (finishJournalFlush s seq failed).fixed = s.fixed := by
  unfold finishJournalFlush
  split
  · simp
  · extract_lets +onlyGivenNames _ _ _ s1
    have h1 : s1.fixed = s.fixed := by simp [s1]
    clear_value s1
    simp [h1]

@[simp] theorem execJournalFetch_fixed (seq : Nat) (s : State) :
    fixedAfter (execJournalFetch seq s) = some s.fixed := by simp [execJournalFetch]

@[simp] theorem execCtxCreate_fixed (seq : Nat) (s : State) :
    fixedAfter (execCtxCreate seq s) = some s.fixed := by simp [execCtxCreate]

@[simp] theorem commitCtxCreate_fixed (s : State) (c : OpenCmd) :
    (commitCtxCreate s c).fixed = s.fixed := by simp [commitCtxCreate]

@[simp] theorem execCtxDestroy_fixed (seq : Nat) (s : State) :
    fixedAfter (execCtxDestroy seq s) = some s.fixed := by
  unfold execCtxDestroy
  simp

@[simp] theorem destroyContext_fixed (s : State) (id : Nat) :
    (destroyContext s id).fixed = s.fixed := by
  unfold destroyContext
  extract_lets +onlyGivenNames s1 s2
  have h1 : s1.fixed = s.fixed := by simp [s1]
  have h2 : s2.fixed = s.fixed := by
    unfold s2
    split <;> simp [h1]
  clear_value s1 s2
  simp [h2]

@[simp] theorem execStreamOpen_fixed (seq : Nat) (s : State) :
    fixedAfter (execStreamOpen seq s) = some s.fixed := by
  unfold execStreamOpen
  refine runCmd_fixed _ _ _ _ _ fun c => ?_
  extract_lets +onlyGivenNames _ _ _
  split
  · simp
  · extract_lets +onlyGivenNames _ bb
    clear_value bb
    split
    · next e => simp [allocBufs_inl_fixed e]
    · next e => simp [allocBufs_inr_fixed e]

@[simp] theorem commitStreamOpen_fixed (s : State) (seq : Nat) (c : OpenCmd) :
    (commitStreamOpen s seq c).fixed = s.fixed := by simp [commitStreamOpen]

@[simp] theorem execStreamClose_fixed (seq : Nat) (s : State) :
    fixedAfter (execStreamClose seq s) = some s.fixed := by simp [execStreamClose]

@[simp] theorem holdPages_fixed (s : State) (die p n : Nat) :
    (holdPages s die p n).fixed = s.fixed := by
  induction n generalizing s p with
  | zero => rfl
  | succ n ih =>
    unfold holdPages
    (repeat' split) <;> simp [ih]

/-- Unfolded in place, as in `meetLost_fixed`. -/
@[simp] theorem reservePool_fixed (s : State) (seq : Nat) (c : OpenCmd) :
    (reservePool s seq c).fixed = s.fixed := by
  conv in @reservePool => unfold reservePool
  extract_lets +onlyGivenNames _
  split <;> simp

@[simp] theorem execPoolCreate_fixed (seq : Nat) (s : State) :
    fixedAfter (execPoolCreate seq s) = some s.fixed := by simp [execPoolCreate]

@[simp] theorem commitPoolCreate_fixed (s : State) (c : OpenCmd) :
    (commitPoolCreate s c).fixed = s.fixed := by
  unfold commitPoolCreate
  extract_lets +onlyGivenNames _
  split <;> simp

@[simp] theorem execPoolQuota_fixed (seq : Nat) (s : State) :
    fixedAfter (execPoolQuota seq s) = some s.fixed := by
  unfold execPoolQuota
  simp

@[simp] theorem commitPoolQuota_fixed (s : State) (c : OpenCmd) :
    (commitPoolQuota s c).fixed = s.fixed := by
  unfold commitPoolQuota
  extract_lets +onlyGivenNames _ _
  split <;> simp

@[simp] theorem execBufFree_fixed (seq : Nat) (s : State) :
    fixedAfter (execBufFree seq s) = some s.fixed := by simp [execBufFree]

@[simp] theorem commitBufFree_fixed (s : State) (c : OpenCmd) :
    (commitBufFree s c).fixed = s.fixed := by
  unfold commitBufFree
  split <;> simp

@[simp] theorem execPoolDestroy_fixed (seq : Nat) (s : State) :
    fixedAfter (execPoolDestroy seq s) = some s.fixed := by
  unfold execPoolDestroy
  simp

@[simp] theorem destroyPool_fixed (s : State) (key : Nat) :
    (destroyPool s key).fixed = s.fixed := by
  unfold destroyPool
  split <;> simp

/-! ## `Machine/FabSend` -/

@[simp] theorem sendPkt_fixed (s : State) (func slice : Nat) (owner : Owner) (p : XlPkt) :
    (sendPkt s func slice owner p).fixed = s.fixed := by simp [sendPkt]

@[simp] theorem sendEx_fixed (s : State) (func slice dest : Nat) (owner : Owner) (p : ExPkt) :
    (sendEx s func slice dest owner p).fixed = s.fixed := by simp [sendEx]

/-! ## `Machine/FlaskAccess` -/

@[simp] theorem coherentWrite_fixed (s : State) (plain : State → Nat → List Byte → State)
    (a : Nat) (bs : List Byte) (all : Bool) (hplain : ∀ t a bs, (plain t a bs).fixed = t.fixed) :
    (coherentWrite s plain a bs all).fixed = s.fixed := by
  unfold coherentWrite
  split
  · exact hplain ..
  · refine foldl_fixed _ (fun t p => ?_) _ _
    extract_lets +onlyGivenNames _
    split <;> simp [hplain]

@[simp] theorem sendFlask_fixed (s : State) (rank op tid addr : Nat) (data : List Byte)
    (order : Bool) :
    (sendFlask s rank op tid addr data order).fixed = s.fixed := by simp [sendFlask]

theorem openTxn_fixed {s : State} {rank op line : Nat} {data : List Byte} {r : Nat × State}
    (h : openTxn s rank op line data = some r) :
    r.2.fixed = s.fixed := by
  unfold openTxn at h
  split at h
  · cases h
  · cases h
    simp

theorem makeLineRoom_fixed {s u : State} (h : makeLineRoom s = some u) : u.fixed = s.fixed := by
  unfold makeLineRoom at h
  split at h
  · cases h; rfl
  · split at h
    rename_i s1 e
    have h1 : s1.fixed = s.fixed := fixed_of_snd e (by simp)
    split at h
    · cases h
    · dsimp only at h
      split at h
      · cases h; simp [h1]
      · obtain ⟨r, hr, rfl⟩ := Option.map_eq_some_iff.mp h
        exact (openTxn_fixed hr).trans (by simp [h1])

@[simp] theorem setDir_fixed (s : State) (l : Nat) (e : DirEntry) :
    (setDir s l e).fixed = s.fixed := by simp [setDir]

@[simp] theorem homeGrant_fixed (s : State) (hh : HomeTxn) :
    (homeGrant s hh).fixed = s.fixed := by simp [homeGrant]

@[simp] theorem homeStep_fixed (s : State) (i : Nat) : (homeStep s i).fixed = s.fixed := by
  unfold homeStep
  split
  · rfl
  · extract_lets +onlyGivenNames put
    have hput : ∀ t h, (put t h).fixed = t.fixed := by simp [put]
    clear_value put
    split
    · rfl
    · split
      · extract_lets +onlyGivenNames _
        split
        rename_i s1 ws e
        have h1 : s1.fixed = s.fixed := by
          refine fixed_of_fst e ((foldl_fst_fixed _ (fun a c => ?_) _ _))
          split
          · next e => exact openTxn_fixed e
          · rfl
        simp [hput, h1]
      · (repeat' split) <;> simp [hput]

@[simp] theorem homePump_fixed (s : State) : (homePump s).fixed = s.fixed := by
  unfold homePump
  extract_lets +onlyGivenNames f1
  have h1 : ∀ t, (f1 t).fixed = t.fixed := by
    intro t
    unfold f1
    refine foldl_fixed _ (fun t x2 => ?_) _ _
    simp
  clear_value f1
  simp [h1]

@[simp] theorem homeEnded_fixed (s : State) (rank tid : Nat) (data : List Byte) :
    (homeEnded s rank tid data).fixed = s.fixed := by
  unfold homeEnded
  split <;> simp

@[simp] theorem askLine_fixed (s : State) (n : LineNeed) : (askLine s n).fixed = s.fixed := by
  unfold askLine
  split
  · simp
  · split
    · rfl
    · split
      · rfl
      · rename_i s1 e2
        have h1 : s1.fixed = s.fixed := makeLineRoom_fixed e2
        split
        · rename_i s3 e4
          have h3 : s3.fixed = s.fixed := (openTxn_fixed e4).trans h1
          simp [h3]
        · rfl

@[simp] theorem askLines_fixed (s : State) (ls : List LineNeed) :
    (askLines s ls).fixed = s.fixed := by simp [askLines]

/-! ## `Machine/Mesh` -/

@[simp] theorem meshCarry_fixed (s : State) (c : MeshClass) (a b : MeshStop) (p : ExPkt) :
    (meshCarry s c a b p).fixed = s.fixed := by simp [meshCarry]

@[simp] theorem meshAsk_fixed (s : State) (t a : Nat) :
    (meshAsk s t a).fixed = s.fixed := by simp [meshAsk]

@[simp] theorem meshAnswer_fixed (s : State) (t a : Nat) :
    (meshAnswer s t a).fixed = s.fixed := by simp [meshAnswer]

/-! ## `Machine/Tiles` -/

@[simp] theorem tileFault_fixed (s : State) (t : Nat) (i : Item) (cause addr : Nat) :
    (tileFault s t i cause addr).fixed = s.fixed := by simp [tileFault]

@[simp] theorem skipFault_fixed (s : State) (t : Nat) (i : Item) (cause neuron row : Nat) :
    (skipFault s t i cause neuron row).fixed = s.fixed := by simp [skipFault]

@[simp] theorem waitForPages_fixed (s : State) (ctx st : Nat) (pages : List Nat) :
    (waitForPages s ctx st pages).fixed = s.fixed := by simp [waitForPages]

/-! ## `Machine/Routing` -/

@[simp] theorem meetBad_fixed (s : State) (func p : Nat) :
    (meetBad s func p).fixed = s.fixed := by simp [meetBad]

@[simp] theorem areaStore_fixed (s : State) (x : LStep) (off : Nat) (bs : List Byte) :
    (areaStore s x off bs).fixed = s.fixed := by
  unfold areaStore
  extract_lets +onlyGivenNames _ _
  simp

@[simp] theorem writeParked_fixed (s : State) (x : LStep) :
    (writeParked s x).fixed = s.fixed := by simp [writeParked]

@[simp] theorem writeBuilt_fixed (s : State) (x : LStep) :
    (writeBuilt s x).fixed = s.fixed := by simp [writeBuilt]

/-! ## `Machine/Runner` -/

@[simp] theorem sendRank_fixed (s : State) (func slice gid rank : Nat) (owner : Owner) (p : ExPkt) :
    (sendRank s func slice gid rank owner p).fixed = s.fixed := by simp [sendRank]

@[simp] theorem sendStep_fixed (s : State) (x : LStep) (slice rank : Nat) (owner : Owner)
    (p : ExPkt) :
    (sendStep s x slice rank owner p).fixed = s.fixed := by simp [sendStep]

@[simp] theorem runErr_fixed (s : State) (f : FieldRef) (gid rank hash : Nat) :
    (runErr s f gid rank hash).fixed = s.fixed := by simp [runErr]

@[simp] theorem rteErrAt_fixed (s : State) (f : FieldRef) (engines : List Nat) (x : LStep)
    (page : Nat) :
    (rteErrAt s f engines x page).fixed = s.fixed := by simp [rteErrAt]

@[simp] theorem rteErr_fixed (s : State) (f : FieldRef) (x : LStep) (page : Nat) :
    (rteErr s f x page).fixed = s.fixed := by simp [rteErr]

@[simp] theorem failStep_fixed (s : State) (seq : Nat) (r : Result) :
    (failStep s seq r).fixed = s.fixed := by
  unfold failStep
  split <;> simp

@[simp] theorem endMismatch_fixed (s : State) (seq : Nat) (x : LStep)
    (offender offHash detector detHash : Nat) :
    (endMismatch s seq x offender offHash detector detHash).fixed = s.fixed := by simp [endMismatch]

@[simp] theorem sendAbort_fixed (s : State) (x : LStep) (offender offHash detHash : Nat)
    (data : List Byte) :
    (sendAbort s x offender offHash detHash data).fixed = s.fixed := by simp [sendAbort]

@[simp] theorem detectMismatch_fixed (s : State) (seq : Nat) (x : LStep) (offender : Nat)
    (hash : Option Nat) :
    (detectMismatch s seq x offender hash).fixed = s.fixed := by simp [detectMismatch]

@[simp] theorem abortUncorrectable_fixed (s : State) (seq : Nat) (x : LStep) (page : Nat) :
    (abortUncorrectable s seq x page).fixed = s.fixed := by simp [abortUncorrectable]

@[simp] theorem logUncorr_fixed (s : State) (x : LStep) (engines : List Nat) (page : Nat) :
    (logUncorr s x engines page).fixed = s.fixed := by simp [logUncorr]

@[simp] theorem abortRouting_fixed (s : State) (seq : Nat) (x : LStep) (page : Nat) :
    (abortRouting s seq x page).fixed = s.fixed := by simp [abortRouting]

@[simp] theorem endAborted_fixed (s : State) (seq : Nat) (x : LStep) (k : KeptAbort) :
    (endAborted s seq x k).fixed = s.fixed := by simp [endAborted]

@[simp] theorem issueStep_fixed (s : State) (seq : Nat) (x : LStep) :
    (issueStep s seq x).fixed = s.fixed := by simp [issueStep]

@[simp] theorem wantStaged_fixed (s : State) (x : LStep) (tile : Nat) :
    (wantStaged s x tile).fixed = s.fixed := by simp [wantStaged]

theorem queueItem_fixed {s : State} {t : Nat} {i : Item} {u : State}
    (h : queueItem s t i = some u) :
    u.fixed = s.fixed := by
  refine fixed_of_some h ?_
  unfold queueItem
  simp

@[simp] theorem handOne_fixed (s : State) (seq : Nat) (o : OwnedExp) :
    (handOne s seq o).fixed = s.fixed := by
  unfold handOne
  split
  · rfl
  · extract_lets +onlyGivenNames _ _
    split
    · rfl
    · split
      · simp
      · split
        · rfl
        · extract_lets +onlyGivenNames _
          split
          · rfl
          · rename_i s1 e2
            have h1 : s1.fixed = s.fixed := queueItem_fixed e2
            simp [h1]

@[simp] theorem handPart_fixed (s : State) (seq : Nat) (w : Nat × Item) :
    (handPart s seq w).fixed = s.fixed := by
  unfold handPart
  split
  · rfl
  · extract_lets +onlyGivenNames _ _
    split
    · extract_lets +onlyGivenNames s1
      have h1 : s1.fixed = s.fixed := by
        unfold s1
        split <;> simp
      clear_value s1
      simp [h1]
    · split
      · rfl
      · rename_i s2 e3
        have h2 : s2.fixed = s.fixed := queueItem_fixed e3
        simp [h2]

@[simp] theorem handReady_fixed (s : State) : (handReady s).fixed = s.fixed := by simp [handReady]

@[simp] theorem chainWrite_fixed (s : State) (key : Nat) (bufs : List Nat) (off : Nat)
    (bs : List Byte) :
    (chainWrite s key bufs off bs).fixed = s.fixed := by
  unfold chainWrite
  split <;> simp

@[simp] theorem writeToken_fixed (s : State) (seq : Nat) (x : LStep) (t : Nat) :
    (writeToken s seq x t).fixed = s.fixed := by
  unfold writeToken
  split
  simp

@[simp] theorem combineToken_fixed (s : State) (seq t : Nat) :
    (combineToken s seq t).fixed = s.fixed := by
  unfold combineToken
  (repeat' split) <;> simp

@[simp] theorem maybeCommit_fixed (s : State) (seq : Nat) :
    (maybeCommit s seq).fixed = s.fixed := by
  unfold maybeCommit
  split <;> simp

@[simp] theorem noteArrival_fixed (s : State) (seq : Nat) (ret : Bool) (key row : List Byte) :
    (noteArrival s seq ret key row).fixed = s.fixed := by
  unfold noteArrival
  split
  simp

@[simp] theorem dropStale_fixed (s : State) (slice : Nat) :
    (dropStale s slice).fixed = s.fixed := by simp [dropStale]

@[simp] theorem lateReturn_fixed (s : State) (p : ExPkt) (slice : Nat) :
    (lateReturn s p slice).fixed = s.fixed := by
  unfold lateReturn
  split <;> simp

@[simp] theorem takeReturn_fixed (s : State) (p : ExPkt) (at_ : Nat) :
    (takeReturn s p at_).fixed = s.fixed := by
  unfold takeReturn
  split
  · simp
  · extract_lets +onlyGivenNames _ s1
    have h1 : s1.fixed = s.fixed := by simp [s1]
    clear_value s1
    split
    · simp [h1]
    · extract_lets +onlyGivenNames _
      split
      · exact h1
      · split
        · simp [h1]
        · split
          · simp [h1]
          · split
            · simp [h1]
            · extract_lets +onlyGivenNames _ _ s2 s3
              have h2 : s2.fixed = s.fixed := by simp [s2, h1]
              have h3 : s3.fixed = s.fixed := by
                unfold s3
                split <;> simp [h2]
              clear_value s2 s3
              simp [h3]

@[simp] theorem sendReturn_fixed (s : State) (seq : Nat) (x : LStep) (slice : Nat) (r : SlotRec)
    (o : OwnedExp) (slot frag : Nat) (bs : List Byte) :
    (sendReturn s seq x slice r o slot frag bs).fixed = s.fixed := by
  unfold sendReturn
  extract_lets +onlyGivenNames _ _ s1
  have h1 : s1.fixed = s.fixed := by
    unfold s1
    split <;> simp
  clear_value s1
  simp [h1]

@[simp] theorem returnRow_fixed (s : State) (seq : Nat) (o : OwnedExp) (slot : Nat) (r : SlotRec) :
    (returnRow s seq o slot r).fixed = s.fixed := by
  unfold returnRow
  split <;> simp

@[simp] theorem modOwned_fixed (s : State) (seq e : Nat) (f : OwnedExp → OwnedExp) :
    (modOwned s seq e f).fixed = s.fixed := by simp [modOwned]

@[simp] theorem writeReturn_fixed (s : State) (seq e slot off : Nat) (bs : List Byte) :
    (writeReturn s seq e slot off bs).fixed = s.fixed := by
  unfold writeReturn
  (repeat' split) <;> simp

@[simp] theorem returnLost_fixed (s : State) (seq : Nat) (o : OwnedExp) (slot : Nat) (r : SlotRec) :
    (returnLost s seq o slot r).fixed = s.fixed := by
  unfold returnLost
  split <;> simp

@[simp] theorem loseExpert_fixed (s : State) (seq e : Nat) :
    (loseExpert s seq e).fixed = s.fixed := by
  unfold loseExpert
  split
  · rfl
  · split <;> simp

@[simp] theorem spadStore_fixed (s : State) (seq tile a : Nat) (bs : List Byte) :
    (spadStore s seq tile a bs).fixed = s.fixed := by
  unfold spadStore
  split <;> simp

@[simp] theorem takeDispatch_fixed (s : State) (p : ExPkt) :
    (takeDispatch s p).fixed = s.fixed := by
  unfold takeDispatch
  split
  · rfl
  · extract_lets +onlyGivenNames s1
    have h1 : s1.fixed = s.fixed := by simp [s1]
    clear_value s1
    split
    · simp [h1]
    · split
      · simp [h1]
      · split
        · simp [h1]
        · extract_lets +onlyGivenNames _
          split
          · simp [h1]
          · extract_lets +onlyGivenNames _ _ _ s2 _ _ _ s3
            have h3 : s3.fixed = s.fixed := by simp [s3, s2, h1]
            clear_value s2 s3
            split
            · exact h3
            · extract_lets +onlyGivenNames _ _ s4
              have h4 : s4.fixed = s.fixed := by simp [s4, h3]
              clear_value s4
              split
              · simp [h4]
              · split <;> simp [h4]

@[simp] theorem bringDispatch_fixed (s : State) (slice : Nat) (p : ExPkt) :
    (bringDispatch s slice p).fixed = s.fixed := by
  unfold bringDispatch
  refine (takeDispatch_fixed ..).trans ?_
  split <;> simp

@[simp] theorem dispatchOne_fixed (s : State) (seq : Nat) (c : ChoiceRec) :
    (dispatchOne s seq c).fixed = s.fixed := by
  unfold dispatchOne
  split
  · rfl
  · extract_lets +onlyGivenNames _ _ _
    split
    extract_lets +onlyGivenNames s1 _ s2 _ s3 s4
    have h4 : s4.fixed = s.fixed := by simp [s4, s3, s2, s1]
    clear_value s1 s2 s3 s4
    split
    · simp [h4]
    · split <;> simp [h4]

@[simp] theorem sendRows_fixed (s : State) (seq rank : Nat) :
    (sendRows s seq rank).fixed = s.fixed := by
  unfold sendRows
  split
  · rfl
  · extract_lets +onlyGivenNames _ f1
    have h1 : ∀ t, (f1 t).fixed = t.fixed := by
      intro t
      unfold f1
      simp
    clear_value f1
    split <;> simp [h1]

@[simp] theorem resendRows_fixed (s : State) (seq rank tile : Nat) :
    (resendRows s seq rank tile).fixed = s.fixed := by
  unfold resendRows
  split <;> simp

@[simp] theorem takeArm_fixed (s : State) (seq rank : Nat) :
    (takeArm s seq rank).fixed = s.fixed := by
  unfold takeArm
  split <;> simp

@[simp] theorem resumeRunner_fixed (s : State) (seq : Nat) :
    (resumeRunner s seq).fixed = s.fixed := by
  unfold resumeRunner
  split <;> simp

@[simp] theorem sweepLost_fixed (s : State) : (sweepLost s).fixed = s.fixed := by simp [sweepLost]

@[simp] theorem reportRows_fixed (s : State) :
    (reportRows s).fixed = s.fixed := by simp [reportRows]

@[simp] theorem settleWork_fixed (s : State) :
    (settleWork s).fixed = s.fixed := by simp [settleWork]

@[simp] theorem settledOut_fixed (o : Out) : fixedAfter (settledOut o) = fixedAfter o := by
  cases o with
  | next t => exact congrArg some (settleWork_fixed t)
  | fault r => rfl
  | refused r => rfl

/-! ## `Machine/StepCommands` -/

@[simp] theorem adoptList_fixed (s : State) (ctx model msc : Nat) :
    (adoptList s ctx model msc).fixed = s.fixed := by
  unfold adoptList
  split <;> simp

@[simp] theorem prefetchEntry_fixed (model : Nat) (s : State) (e : PourEntry) :
    (prefetchEntry model s e).fixed = s.fixed := by
  unfold prefetchEntry
  split
  · simp
  · split
    · rfl
    · refine foldl_fixed _ (fun t x1 => ?_) _ _
      split <;> simp

@[simp] theorem enterWindow_fixed (s : State) (ctx st model layer : Nat) :
    (enterWindow s ctx st model layer).fixed = s.fixed := by
  unfold enterWindow
  extract_lets +onlyGivenNames _
  split <;> simp

@[simp] theorem placeKernel_fixed (s : State) (seq : Nat) (x : LStep) (p : Program) (k : Nat) :
    (placeKernel s seq x p k).fixed = s.fixed := by
  unfold placeKernel
  split
  · rfl
  · extract_lets +onlyGivenNames _ go
    refine foldl_fst_fixed go (fun a i => ?_) _ _
    unfold go
    extract_lets +onlyGivenNames _
    split <;> simp

@[simp] theorem keepParts_fixed (s : State) (seq : Nat) : (keepParts s seq).fixed = s.fixed := by
  unfold keepParts
  split <;> simp

@[simp] theorem startStep_fixed (s : State) (seq ctx st : Nat) :
    (startStep s seq ctx st).fixed = s.fixed := by
  unfold startStep
  split
  · rfl
  · extract_lets +onlyGivenNames _
    split <;> simp

@[simp] theorem beginStep_fixed (s : State) (seq : Nat) (c : OpenCmd) :
    (beginStep s seq c).fixed = s.fixed := by
  unfold beginStep
  extract_lets +onlyGivenNames _
  split
  · simp
  · extract_lets +onlyGivenNames _ _ _ _ _
    split
    simp

@[simp] theorem runStep_fixed (s : State) (seq op : Nat) :
    fixedAfter (runStep s seq op) = some s.fixed := by
  unfold runStep
  (repeat' split) <;> simp

@[simp] theorem execStep_fixed (seq : Nat) (s : State) :
    fixedAfter (execStep seq s) = some s.fixed := by simp [execStep]

@[simp] theorem execStepEmpty_fixed (seq : Nat) (s : State) :
    fixedAfter (execStepEmpty seq s) = some s.fixed := by simp [execStepEmpty]

@[simp] theorem execSchedule_fixed (s : State) : fixedAfter (execSchedule s) = some s.fixed := by
  unfold execSchedule
  split
  · simp
  · rename_i s1 e2
    have h1 : s1.fixed = s.fixed := scheduleFirst_fixed e2
    extract_lets +onlyGivenNames _
    split <;> simp [h1]

/-! ## `Machine/RoutingRows` -/

@[simp] theorem consumeEx_fixed (s : State) (p : ExPkt) :
    (consumeEx s p).fixed = s.fixed := by simp [consumeEx]

/-- What is done with the received record is the caller's; its frame fact is the hypothesis. -/
@[simp] theorem recvEx_fixed (s : State) (p : ExPkt) (kind : Nat) (f : State → Group → State)
    (hf : ∀ s' b, (f s' b).fixed = s'.fixed) :
    fixedAfter (recvEx s p kind f) = some s.fixed := by
  unfold recvEx
  split
  · simp
  · extract_lets +onlyGivenNames _ s1
    have h1 : s1.fixed = s.fixed := by simp [s1]
    clear_value s1
    split <;> simp [h1, hf]

@[simp] theorem noteReceipt_fixed (s : State) (p : ExPkt) : (noteReceipt s p).fixed = s.fixed := by
  unfold noteReceipt
  split <;> simp

@[simp] theorem applyAnnounced_fixed (s : State) (seq model : Nat) :
    (applyAnnounced s seq model).2.fixed = s.fixed := by
  unfold applyAnnounced
  split <;> simp

@[simp] theorem countToken_fixed (x : LStep) (hidden : Nat) (acc : State × Nat)
    (t : Nat × Nat × Nat) :
    (countToken x hidden acc t).1.fixed = acc.1.fixed := by simp [countToken]

@[simp] theorem routeTokens_fixed (s : State) (seq : Nat) (x : LStep) :
    (routeTokens s seq x).fixed = s.fixed := by
  unfold routeTokens
  extract_lets +onlyGivenNames s1 _ _ _
  have h1 : s1.fixed = s.fixed := by simp [s1]
  clear_value s1
  split
  rename_i s2 _ e3
  have h2 : s2.fixed = s.fixed := fixed_of_fst e3 (by simp [h1])
  simp [h2]

@[simp] theorem execRouteStart_fixed (s : State) :
    fixedAfter (execRouteStart s) = some s.fixed := by
  unfold execRouteStart
  split
  · simp
  · split
    · simp
    · extract_lets +onlyGivenNames _
      split
      · simp
      · split
        · split
          rename_i s1 e2
          have h1 : s1.fixed = s.fixed := fixed_of_snd e2 (by simp)
          simp [h1]
        · split
          · simp
          · split
            · simp
            · split
              rename_i s3 e4
              have h3 : s3.fixed = s.fixed := fixed_of_snd e4 (by simp)
              simp [h3]

@[simp] theorem sendPart_fixed (s : State) (x : LStep) (rank : Nat) (bs : List Byte) :
    (sendPart s x rank bs).fixed = s.fixed := by simp [sendPart]

@[simp] theorem ecChosen_fixed (s : State) (seq : Nat) : (ecChosen s seq).fixed = s.fixed := by
  unfold ecChosen
  split <;> simp

theorem placementWait_fixed {s : State} {seq : Nat} {x : LStep} {e : Nat × Nat × List Byte}
    {u : State} (h : placementWait s seq x e = some u) :
    u.fixed = s.fixed := by
  refine fixed_of_some h ?_
  unfold placementWait
  extract_lets +onlyGivenNames _ f1
  have h1 : ∀ t, (f1 t).fixed = t.fixed := by
    intro t
    unfold f1
    simp
  clear_value f1
  split <;> simp [h1]

@[simp] theorem takeAssign_fixed (s : State) (seq rank : Nat) (bs : List Byte) :
    (takeAssign s seq rank bs).fixed = s.fixed := by
  unfold takeAssign
  split
  · rfl
  · split
    · rfl
    · split
      · rename_i s1 e2
        have h1 : s1.fixed = s.fixed := placementWait_fixed e2
        exact h1
      · extract_lets +onlyGivenNames _ _ _ s3
        have h3 : s3.fixed = s.fixed := by simp [s3]
        clear_value s3
        simp [h3]

@[simp] theorem ecAssign_fixed (s : State) (seq : Nat) : (ecAssign s seq).fixed = s.fixed := by
  unfold ecAssign
  split
  · rfl
  · split
    · rename_i s1 e2
      have h1 : s1.fixed = s.fixed := placementWait_fixed e2
      exact h1
    · extract_lets +onlyGivenNames _ _ _ _ s3 _ s4
      have h4 : s4.fixed = s.fixed := by simp [s4, s3]
      clear_value s3 s4
      simp [h4]

@[simp] theorem takeCands_fixed (s : State) (seq rank : Nat) (bs : List Byte) :
    (takeCands s seq rank bs).fixed = s.fixed := by
  unfold takeCands
  split
  · rfl
  · split
    · rfl
    · split
      · rename_i s1 e2
        have h1 : s1.fixed = s.fixed := placementWait_fixed e2
        exact h1
      · simp

@[simp] theorem sendCands_fixed (s : State) (seq : Nat) : (sendCands s seq).fixed = s.fixed := by
  unfold sendCands
  split
  · rfl
  · split
    · rename_i s1 e2
      have h1 : s1.fixed = s.fixed := placementWait_fixed e2
      exact h1
    · extract_lets +onlyGivenNames _ _ s3 s4
      have h4 : s4.fixed = s.fixed := by simp [s4, s3]
      clear_value s3 s4
      refine (foldl_fixed _ (fun t x5 => ?_) _ _).trans h4
      split <;> simp

@[simp] theorem countRecord_fixed (s : State) (seq : Nat) (x : LStep) (size : Nat) :
    (countRecord s seq x size).fixed = s.fixed := by
  unfold countRecord
  split <;> simp

@[simp] theorem fixOffsets_fixed (s : State) (seq : Nat) : (fixOffsets s seq).fixed = s.fixed := by
  unfold fixOffsets
  split
  · rfl
  · extract_lets +onlyGivenNames _
    split
    · simp
    · split
      · rename_i s1 e2
        have h1 : s1.fixed = s.fixed := placementWait_fixed e2
        exact h1
      · extract_lets +onlyGivenNames _ _
        split
        · simp
        · split
          · simp
          · extract_lets +onlyGivenNames _
            split
            · simp
            · extract_lets +onlyGivenNames _ _
              split
              simp

@[simp] theorem takeRecord_fixed (s : State) (seq rank hash : Nat) (r : CountRec) :
    (takeRecord s seq rank hash r).fixed = s.fixed := by
  unfold takeRecord
  split <;> simp

@[simp] theorem takeCount_fixed (s : State) (seq : Nat) (p : ExPkt) :
    (takeCount s seq p).fixed = s.fixed := by
  unfold takeCount
  split <;> simp

@[simp] theorem earlyFor_fixed (s : State) (test : ExPkt → Bool) :
    (earlyFor s test).2.fixed = s.fixed := by simp [earlyFor]

@[simp] theorem latchClasses_fixed (s : State) :
    (latchClasses s).fixed = s.fixed := by simp [latchClasses]

@[simp] theorem execSelectionDone_fixed (s : State) :
    fixedAfter (execSelectionDone s) = some s.fixed := by
  unfold execSelectionDone
  split
  · simp
  · split
    · simp
    · split
      · simp
      · extract_lets +onlyGivenNames _ s1 _
        have h1 : s1.fixed = s.fixed := by simp [s1]
        clear_value s1
        split
        · simp [h1]
        · split
          · simp [h1]
          · extract_lets +onlyGivenNames _ _ _ s2 _ s3 s4 s5 s6 _ s7 _ s8 s9
            have h9 : s9.fixed = s.fixed := by simp [s9, s8, s7, s6, s5, s4, s3, s2, h1]
            clear_value s2 s3 s4 s5 s6 s7 s8 s9
            split
            rename_i s10 e11
            have h10 : s10.fixed = s.fixed := fixed_of_snd e11 (by simp [h9])
            simp [h10]

theorem takeLate_fixed {s : State} {g : Group} {p : ExPkt} {u : State}
    (h : takeLate s g p = some u) :
    u.fixed = s.fixed := by
  refine fixed_of_some h ?_
  unfold takeLate
  split <;> simp

@[simp] theorem execCount_fixed (p : ExPkt) (s : State) :
    fixedAfter (execCount p s) = some s.fixed := by
  unfold execCount
  refine recvEx_fixed _ _ _ _ (fun t x1 => ?_)
  extract_lets +onlyGivenNames s2
  have h2 : s2.fixed = t.fixed := by simp [s2]
  clear_value s2
  split
  · simp [h2]
  · split
    · rename_i s3 e4
      have h3 : s3.fixed = t.fixed := (takeLate_fixed e4).trans h2
      exact h3
    · simp [h2]

@[simp] theorem execEcCandidates_fixed (p : ExPkt) (s : State) :
    fixedAfter (execEcCandidates p s) = some s.fixed := by
  unfold execEcCandidates
  refine recvEx_fixed _ _ _ _ (fun t x1 => ?_)
  extract_lets +onlyGivenNames s2
  have h2 : s2.fixed = t.fixed := by simp [s2]
  clear_value s2
  split
  · exact h2
  · extract_lets +onlyGivenNames _ s3
    have h3 : s3.fixed = t.fixed := by simp [s3, h2]
    clear_value s3
    split <;> simp [h3]

@[simp] theorem execEcAssignment_fixed (p : ExPkt) (s : State) :
    fixedAfter (execEcAssignment p s) = some s.fixed := by
  unfold execEcAssignment
  refine recvEx_fixed _ _ _ _ (fun t x1 => ?_)
  extract_lets +onlyGivenNames s2
  have h2 : s2.fixed = t.fixed := by simp [s2]
  clear_value s2
  split
  · exact h2
  · extract_lets +onlyGivenNames _ s3
    have h3 : s3.fixed = t.fixed := by simp [s3, h2]
    clear_value s3
    split <;> simp [h3]

@[simp] theorem writePadding_fixed (seq : Nat) (x : LStep) (s : State) (o : OwnedExp) :
    (writePadding seq x s o).fixed = s.fixed := by
  unfold writePadding
  extract_lets +onlyGivenNames _ _ _
  simp

@[simp] theorem fetchTagged_fixed (x : LStep) (s : State) (o : OwnedExp) :
    (fetchTagged x s o).fixed = s.fixed := by
  unfold fetchTagged
  split
  · rfl
  · refine foldl_fixed _ (fun t x1 => ?_) _ _
    split <;> simp

@[simp] theorem sendArms_fixed (s : State) (x : LStep) :
    (sendArms s x).fixed = s.fixed := by simp [sendArms]

@[simp] theorem execListBuildDone_fixed (s : State) :
    fixedAfter (execListBuildDone s) = some s.fixed := by
  unfold execListBuildDone
  split
  · simp
  · split
    · simp
    · split
      · simp
      · extract_lets +onlyGivenNames _
        split
        · simp
        · split
          · simp
          · split
            · simp
            · split
              rename_i s1 e2
              have h1 : s1.fixed = s.fixed := fixed_of_snd e2 (by simp)
              extract_lets +onlyGivenNames _ _
              split
              · simp [h1]
              · extract_lets +onlyGivenNames _ _ _ _ _ s2 s3 s4 s5 s6 s7 s8 s9 s10
                have h9 : s9.fixed = s.fixed := by simp [s9, s8, s7, s6, s5, s4, s3, s2, h1]
                have h10 : s10.fixed = s.fixed := by simp [s10, h9, -List.foldl_reverse]
                clear_value s2 s3 s4 s5 s6 s7 s8 s9 s10
                simp [h10]

@[simp] theorem resumePlacement_fixed (s : State) (seq : Nat) :
    (resumePlacement s seq).fixed = s.fixed := by
  unfold resumePlacement
  split <;> simp

@[simp] theorem resumeReads_fixed (s : State) :
    (resumeReads s).fixed = s.fixed := by simp [resumeReads]

/-! ## `Machine/Collectives` -/

@[simp] theorem State.setColl_fixed (s : State) (seq : Nat) (x : Coll) :
    (s.setColl seq x).fixed = s.fixed := by simp [State.setColl]

@[simp] theorem endColl_fixed (s : State) (seq : Nat) (x : Coll) (r : Result) (digest : Nat) :
    (endColl s seq x r digest).fixed = s.fixed := by
  unfold endColl
  extract_lets +onlyGivenNames _ s1 s2 _ s3
  have h1 : s1.fixed = s.fixed := by
    unfold s1
    split <;> simp
  have h3 : s3.fixed = s.fixed := by simp [s3, s2, h1]
  clear_value s1 s2 s3
  simp [h3]

@[simp] theorem endCollMismatch_fixed (s : State) (seq : Nat) (x : Coll)
    (offender offHash detector detHash : Nat) :
    (endCollMismatch s seq x offender offHash detector detHash).fixed = s.fixed := by
  simp [endCollMismatch]

@[simp] theorem sendColl_fixed (s : State) (x : Coll) (rank : Nat) (p : ExPkt) (slice : Nat) :
    (sendColl s x rank p slice).fixed = s.fixed := by simp [sendColl]

@[simp] theorem detectColl_fixed (s : State) (seq : Nat) (x : Coll) (offender offHash : Nat) :
    (detectColl s seq x offender offHash).fixed = s.fixed := by simp [detectColl]

@[simp] theorem memberCqes_fixed (s : State) (seq : Nat) (x : Coll) (g : Group) (ranks : List Nat) :
    (memberCqes s seq x g ranks).fixed = s.fixed := by
  unfold memberCqes
  split
  · rfl
  · refine foldl_fixed _ (fun t x1 => ?_) _ _
    split
    · rfl
    · split
      · rfl
      · split
        · rfl
        · split
          rename_i s2 e3
          have h2 : s2.fixed = t.fixed := fixed_of_snd e3 (by simp)
          simp [h2]

@[simp] theorem trimBufs_fixed (s : State) (seq : Nat) (x : Coll) (n : Nat) :
    (trimBufs s seq x n).2.fixed = s.fixed := by
  unfold trimBufs
  split
  · simp
  · extract_lets +onlyGivenNames _ _
    split
    · simp
    · extract_lets +onlyGivenNames s1
      have h1 : s1.fixed = s.fixed := by simp [s1]
      clear_value s1
      split <;> simp [h1]

@[simp] theorem finishColl_fixed (s : State) (seq : Nat) (x : Coll) :
    (finishColl s seq x).fixed = s.fixed := by
  unfold finishColl
  extract_lets +onlyGivenNames _ s1
  have h1 : s1.fixed = s.fixed := by simp [s1]
  clear_value s1
  split
  · simp [h1]
  · split
    · simp [h1]
    · split
      extract_lets +onlyGivenNames s2
      have h2 : s2.fixed = s.fixed := by simp [s2, h1]
      clear_value s2
      split
      rename_i s3 e4
      have h3 : s3.fixed = s.fixed := fixed_of_snd e4 (by simp [h2])
      extract_lets +onlyGivenNames s5
      have h5 : s5.fixed = s.fixed := by simp [s5, h3]
      clear_value s5
      split
      rename_i s6 e7
      have h6 : s6.fixed = s.fixed := fixed_of_snd e7 (by simp [h5])
      simp [h6]

@[simp] theorem pumpColl_fixed (s : State) (seq n : Nat) : (pumpColl s seq n).fixed = s.fixed := by
  induction n generalizing s with
  | zero => rfl
  | succ n ih =>
    unfold pumpColl
    (repeat' split) <;> simp [ih]

@[simp] theorem advanceColl_fixed (s : State) (seq : Nat) :
    (advanceColl s seq).fixed = s.fixed := by
  unfold advanceColl
  split
  · rfl
  · extract_lets +onlyGivenNames _ _ _ _ s1 s2
    have h2 : s2.fixed = s.fixed := by simp [s2, s1]
    clear_value s1 s2
    split <;> simp [h2]

@[simp] theorem takeColl_fixed (s : State) (seq : Nat) (p : ExPkt) :
    (takeColl s seq p).fixed = s.fixed := by
  unfold takeColl
  split
  · rfl
  · extract_lets +onlyGivenNames _
    split
    · simp
    · extract_lets +onlyGivenNames _
      split
      · simp
      · split
        · simp
        · split
          · simp
          · extract_lets +onlyGivenNames _ _ _ _ _ s1 s2 s3
            have h3 : s3.fixed = s.fixed := by simp [s3, s2, s1]
            clear_value s1 s2 s3
            simp [h3]

@[simp] theorem routeColl_fixed (s : State) (g : Group) (p : ExPkt) :
    (routeColl s g p).fixed = s.fixed := by
  unfold routeColl
  split <;> simp

@[simp] theorem execCollData_fixed (p : ExPkt) (s : State) :
    fixedAfter (execCollData p s) = some s.fixed := by simp [execCollData]

@[simp] theorem execCredit_fixed (p : ExPkt) (s : State) :
    fixedAfter (execCredit p s) = some s.fixed := by simp [execCredit]

@[simp] theorem execDesc_fixed (p : ExPkt) (s : State) :
    fixedAfter (execDesc p s) = some s.fixed := by simp [execDesc]

@[simp] theorem execBarrier_fixed (p : ExPkt) (s : State) :
    fixedAfter (execBarrier p s) = some s.fixed := by simp [execBarrier]

@[simp] theorem openColl_fixed (s : State) (seq : Nat) (x : Coll) (g : Group) :
    (openColl s seq x g).fixed = s.fixed := by
  unfold openColl
  extract_lets +onlyGivenNames s1 s2 _ s3 _ s4 _ _ s5 s6 s7
  have h7 : s7.fixed = s.fixed := by simp [s7, s6, s5, s4, s3, s2, s1]
  clear_value s1 s2 s3 s4 s5 s6 s7
  split
  rename_i s8 e9
  have h8 : s8.fixed = s.fixed := fixed_of_snd e9 (by simp [h7])
  simp [h8]

@[simp] theorem beginColl_fixed (s : State) (seq : Nat) (c : OpenCmd) (g : Machine.Group) :
    (beginColl s seq c g).fixed = s.fixed := by
  unfold beginColl
  extract_lets +onlyGivenNames _ _ _ _ _ _ x s1
  have h1 : s1.fixed = s.fixed := by simp [s1]
  clear_value x s1
  split
  · simp [h1]
  · split
    · simp [h1]
    · split
      · simp [h1]
      · extract_lets +onlyGivenNames bb _
        clear_value bb
        split
        · simp [h1]
        · split
          · next e => simp [allocBufs_inl_fixed e, h1]
          · next e => simp [allocBufs_inr_fixed e, h1]

@[simp] theorem execCollective_fixed (seq : Nat) (s : State) :
    fixedAfter (execCollective seq s) = some s.fixed := by
  unfold execCollective
  split
  · simp
  · (repeat' split) <;> simp

/-! ## `Machine/Groups` -/

@[simp] theorem execGroupCreate_fixed (seq : Nat) (s : State) :
    fixedAfter (execGroupCreate seq s) = some s.fixed := by
  unfold execGroupCreate
  refine runCmd_fixed _ _ _ _ _ (fun x1 => ?_)
  extract_lets +onlyGivenNames _
  split
  extract_lets +onlyGivenNames _ _ s2 _ s3
  have h2 : s2.fixed = s.fixed := by
    unfold s2
    split <;> simp
  have h3 : s3.fixed = s.fixed := by simp [s3, h2]
  clear_value s2 s3
  simp [h3]

@[simp] theorem commitGroupCreate_fixed (s : State) (seq : Nat) :
    (commitGroupCreate s seq).fixed = s.fixed := by
  unfold commitGroupCreate
  split <;> simp

@[simp] theorem dropGroup_fixed (s : State) (key : Nat) : (dropGroup s key).fixed = s.fixed := by
  unfold dropGroup
  split
  · rfl
  · extract_lets +onlyGivenNames s1
    have h1 : s1.fixed = s.fixed := by
      unfold s1
      split <;> simp
    clear_value s1
    simp [h1]

@[simp] theorem execGroupDestroy_fixed (seq : Nat) (s : State) :
    fixedAfter (execGroupDestroy seq s) = some s.fixed := by simp [execGroupDestroy]

@[simp] theorem commitGroupDestroy_fixed (s : State) (c : OpenCmd) :
    (commitGroupDestroy s c).fixed = s.fixed := by simp [commitGroupDestroy]

@[simp] theorem endOpen_fixed (event : Bool) (r : Result) (s : State) (e : Nat × OpenCmd) :
    (endOpen event r s e).fixed = s.fixed := by
  unfold endOpen
  extract_lets +onlyGivenNames _ f1
  have h1 : ∀ x2 x3 x4, (f1 x2 x3 x4).fixed = s.fixed := by
    intro x2 x3 x4
    unfold f1
    simp
  clear_value f1
  split
  · simp [h1]
  · extract_lets +onlyGivenNames s5
    have h5 : s5.fixed = s.fixed := by simp [s5, h1]
    clear_value s5
    split <;> simp [h5]

@[simp] theorem endGroupWork_fixed (s : State) (gid : Nat) (event : Bool) (r : Result) :
    (endGroupWork s gid event r).fixed = s.fixed := by simp [endGroupWork]

@[simp] theorem fenceGroups_fixed (s : State) :
    (fenceGroups s).fixed = s.fixed := by simp [fenceGroups]

@[simp] theorem takeAbort_fixed (s : State) (g : Group) (p : ExPkt) :
    (takeAbort s g p).fixed = s.fixed := by
  unfold takeAbort
  extract_lets +onlyGivenNames s1 _ _ s2
  have h1 : s1.fixed = s.fixed := by simp [s1]
  have h2 : s2.fixed = s.fixed := by simp [s2, h1]
  clear_value s1 s2
  split
  · simp [h2, h1]
  · split <;> simp [h2, h1]

@[simp] theorem execAbort_fixed (p : ExPkt) (s : State) :
    fixedAfter (execAbort p s) = some s.fixed := by simp [execAbort]

@[simp] theorem execGroupTimeout_fixed (group : Nat) (s : State) :
    fixedAfter (execGroupTimeout group s) = some s.fixed := by
  unfold execGroupTimeout
  split <;> simp

@[simp] theorem execSuspect_fixed (p : ExPkt) (s : State) :
    fixedAfter (execSuspect p s) = some s.fixed := by
  unfold execSuspect
  simp

@[simp] theorem writeMembers_fixed (s : State) (g : Group) (ms : List Nat) :
    (writeMembers s g ms).2.fixed = s.fixed := by simp [writeMembers]

@[simp] theorem adoptReform_fixed (s : State) (gid : Nat) (g : Group) (removed : List Nat) :
    (adoptReform s gid g removed).fixed = s.fixed := by
  unfold adoptReform
  extract_lets +onlyGivenNames _ _ _ _ _ _ _ _
  split
  rename_i s1 e2
  have h1 : s1.fixed = s.fixed := fixed_of_snd e2 (by simp)
  simp [h1]

@[simp] theorem setBroken_fixed (s : State) (gid rank : Nat) :
    (setBroken s gid rank).fixed = s.fixed := by simp [setBroken]

@[simp] theorem execReform_fixed (p : ExPkt) (s : State) :
    fixedAfter (execReform p s) = some s.fixed := by
  unfold execReform
  refine recvEx_fixed _ _ _ _ (fun t x1 => ?_)
  split
  · split <;> simp
  · simp

@[simp] theorem execSuspectTimerEnd_fixed (group : Nat) (s : State) :
    fixedAfter (execSuspectTimerEnd group s) = some s.fixed := by
  unfold execSuspectTimerEnd
  split
  · simp
  · split <;> simp

@[simp] theorem execReformWaitTimeout_fixed (group : Nat) (s : State) :
    fixedAfter (execReformWaitTimeout group s) = some s.fixed := by
  unfold execReformWaitTimeout
  split <;> simp

@[simp] theorem execRunClassMapWrite_fixed (value : Nat) (s : State) :
    fixedAfter (execRunClassMapWrite value s) = some s.fixed := by
  unfold execRunClassMapWrite
  extract_lets +onlyGivenNames vs
  clear_value vs
  split <;> simp

@[simp] theorem execRunHalt_fixed (value : Bool) (s : State) :
    fixedAfter (execRunHalt value s) = some s.fixed := by simp [execRunHalt]

@[simp] theorem keepStage4_fixed (s : State) :
    (keepStage4 s).fixed = s.fixed := by simp [keepStage4]

@[simp] theorem execRteHalt_fixed (engine : Nat) (value : Bool) (s : State) :
    fixedAfter (execRteHalt engine value s) = some s.fixed := by simp [execRteHalt]

@[simp] theorem execArm_fixed (p : ExPkt) (s : State) :
    fixedAfter (execArm p s) = some s.fixed := by
  unfold execArm
  refine recvEx_fixed _ _ _ _ (fun t x1 => ?_)
  extract_lets +onlyGivenNames s2
  have h2 : s2.fixed = t.fixed := by simp [s2]
  clear_value s2
  split <;> simp [h2]

@[simp] theorem execDispatch_fixed (p : ExPkt) (s : State) :
    fixedAfter (execDispatch p s) = some s.fixed := by
  unfold execDispatch
  refine recvEx_fixed _ _ _ _ (fun t x1 => ?_)
  extract_lets +onlyGivenNames s2
  have h2 : s2.fixed = t.fixed := by simp [s2]
  clear_value s2
  split <;> simp [h2]

@[simp] theorem stageBuf_fixed (s : State) (die : Nat) : (stageBuf s die).2.fixed = s.fixed := by
  unfold stageBuf
  split <;> simp

@[simp] theorem execReturn_fixed (p : ExPkt) (s : State) :
    fixedAfter (execReturn p s) = some s.fixed := by
  unfold execReturn
  extract_lets +onlyGivenNames _
  split
  · simp
  · split
    · rename_i s1 e2
      have h1 : s1.fixed = s.fixed := fixed_of_snd e2 (by simp)
      simp [h1]
    · rename_i s3 e4
      have h3 : s3.fixed = s.fixed := fixed_of_snd e4 (by simp)
      simp [h3]

@[simp] theorem execRedo_fixed (p : ExPkt) (s : State) :
    fixedAfter (execRedo p s) = some s.fixed := by
  unfold execRedo
  refine recvEx_fixed _ _ _ _ (fun t x1 => ?_)
  extract_lets +onlyGivenNames s2
  have h2 : s2.fixed = t.fixed := by simp [s2]
  clear_value s2
  split <;> simp [h2]

@[simp] theorem execExpertMask_fixed (seq : Nat) (s : State) :
    fixedAfter (execExpertMask seq s) = some s.fixed := by
  unfold execExpertMask
  split
  · simp
  · extract_lets +onlyGivenNames _
    simp

@[simp] theorem commitExpertMask_fixed (s : State) (c : OpenCmd) :
    (commitExpertMask s c).fixed = s.fixed := by
  unfold commitExpertMask
  extract_lets +onlyGivenNames _
  split <;> simp

@[simp] theorem execBitmapRead_fixed (seq : Nat) (s : State) :
    fixedAfter (execBitmapRead seq s) = some s.fixed := by
  unfold execBitmapRead
  split <;> simp

@[simp] theorem commitBitmapRead_fixed (s : State) (c : OpenCmd) :
    (commitBitmapRead s c).fixed = s.fixed := by simp [commitBitmapRead]

/-! ## `Machine/FabWire` -/

@[simp] theorem xrtErr_fixed (s : State) (f : FieldRef) (port endpoint epoch : Nat) :
    (xrtErr s f port endpoint epoch).fixed = s.fixed := by simp [xrtErr]

@[simp] theorem State.setPort_fixed (s : State) (p : Nat) (x : Port) :
    (s.setPort p x).fixed = s.fixed := by simp [State.setPort]

@[simp] theorem enqueue_fixed (s : State) (port fromPort fromSlice since : Nat) (p : XlPkt) :
    (enqueue s port fromPort fromSlice since p).fixed = s.fixed := by simp [enqueue]

@[simp] theorem sendControl_fixed (s : State) (src : Nat) (p : XlPkt) :
    (sendControl s src p).fixed = s.fixed := by simp [sendControl]

@[simp] theorem sendNotice_fixed (s : State) (p : XlPkt) (from_ reason : Nat) :
    (sendNotice s p from_ reason).fixed = s.fixed := by simp [sendNotice]

@[simp] theorem dropNoRoute_fixed (s : State) (port : Nat) (p : XlPkt) :
    (dropNoRoute s port p).fixed = s.fixed := by simp [dropNoRoute]

@[simp] theorem ejectHere_fixed (s : State) (port slice : Nat) (p : XlPkt) :
    (ejectHere s port slice p).fixed = s.fixed := by simp [ejectHere]

@[simp] theorem dropAged_fixed (s : State) (port : Nat) (p : XlPkt) :
    (dropAged s port p).fixed = s.fixed := by simp [dropAged]

@[simp] theorem copyOn_fixed (s : State) (port slice since : Nat) (p : XlPkt) (e : McastEntry) :
    (copyOn s port slice since p e).fixed = s.fixed := by simp [copyOn]

@[simp] theorem replicate_fixed (s : State) (port slice since : Nat) (p : XlPkt) (e : McastEntry) :
    (replicate s port slice since p e).fixed = s.fixed := by simp [replicate]

@[simp] theorem mcastMiss_fixed (s : State) (port : Nat) (p : XlPkt) :
    (mcastMiss s port p).fixed = s.fixed := by simp [mcastMiss]

@[simp] theorem leafMiss_fixed (s : State) (port slice since : Nat) (p : XlPkt) :
    (leafMiss s port slice since p).fixed = s.fixed := by
  unfold leafMiss
  extract_lets +onlyGivenNames _ f1
  have h1 : ∀ t, (f1 t).fixed = t.fixed := by
    intro t
    unfold f1
    simp
  clear_value f1
  split
  · simp [h1]
  · split <;> simp [h1]

/-! ## `Machine/RegAccess` -/

@[simp] theorem writeReg_fixed (s : State) (r : RegSpec) (idx func v mask : Nat) :
    (writeReg s r idx func v mask).fixed = s.fixed := by simp [writeReg]

/-! ## `Machine/Shaper` -/

@[simp] theorem setTokens_fixed (s : State) (l : Level) (i : Nat) (t : ℤ) :
    (setTokens s l i t).fixed = s.fixed := by simp [setTokens]

@[simp] theorem charge_fixed (s : State) (l : Level) (i : Nat) (p : XlPkt) :
    (charge s l i p).fixed = s.fixed := by simp [charge]

@[simp] theorem refill_fixed (s : State) : (refill s).fixed = s.fixed := by
  unfold refill
  extract_lets +onlyGivenNames _
  simp

@[simp] theorem execShaperStart_fixed (slice : Nat) (s : State) :
    fixedAfter (execShaperStart slice s) = some s.fixed := by
  unfold execShaperStart
  extract_lets +onlyGivenNames _
  split
  · simp
  · extract_lets +onlyGivenNames _ _ _ _ _
    split
    · simp
    · split <;> simp

@[simp] theorem execShpBucketCfgWrite_fixed (func : Nat) (level : Level) (index value : Nat)
    (s : State) :
    fixedAfter (execShpBucketCfgWrite func level index value s) = some s.fixed := by
  simp [execShpBucketCfgWrite]

@[simp] theorem police_fixed (s : State) (p : XlPkt) :
    (police s p).2.fixed = s.fixed := by simp [police]

/-! ## `Machine/Router` -/

@[simp] theorem throttleUpdate_fixed (s : State) (port : Nat) :
    (throttleUpdate s port).fixed = s.fixed := by simp [throttleUpdate]

@[simp] theorem admitted_fixed (s : State) (port : Nat) :
    (admitted s port).fixed = s.fixed := by simp [admitted]

@[simp] theorem spray_fixed (s : State) (p : XlPkt) : (spray s p).2.fixed = s.fixed := by
  unfold spray
  extract_lets +onlyGivenNames _ _
  split
  · simp
  · split
    rename_i s1 e2
    have h1 : s1.fixed = s.fixed := fixed_of_snd e2 (by simp)
    extract_lets +onlyGivenNames _ _
    split
    · simp [h1]
    · split <;> simp [h1]

@[simp] theorem number_fixed (s : State) (o : Outgoing) :
    (number s o).2.fixed = s.fixed := by simp [number]

@[simp] theorem runnerInjected_fixed (s : State) (o : Outgoing) :
    (runnerInjected s o).fixed = s.fixed := by
  unfold runnerInjected
  split <;> simp

theorem injectOne_fixed {s : State} {index : Nat} {u : State} (h : injectOne s index = some u) :
    u.fixed = s.fixed := by
  refine fixed_of_some h ?_
  unfold injectOne
  split
  · simp
  · extract_lets +onlyGivenNames _ s1
    have h1 : s1.fixed = s.fixed := by simp [s1]
    clear_value s1
    split
    · simp [h1]
    · extract_lets +onlyGivenNames _ _
      split
      · simp
      · split
        · split <;> simp [h1]
        · split
          rename_i s2 e3
          have h2 : s2.fixed = s.fixed := fixed_of_snd e3 (by simp [h1])
          split
          · split
            rename_i s4 e5
            have h4 : s4.fixed = s.fixed := fixed_of_snd e5 (by simp [h2])
            simp [h4]
          · extract_lets +onlyGivenNames _
            split
            · split
              rename_i s6 e7
              have h6 : s6.fixed = s.fixed := fixed_of_snd e7 (by simp [h2])
              simp [h6]
            · split
              · simp
              · split
                rename_i s8 e9
                have h8 : s8.fixed = s.fixed := fixed_of_snd e9 (by simp [h2])
                simp [h8]

@[simp] theorem arbiterSent_fixed (s : State) (slice c : Nat) :
    (arbiterSent s slice c).fixed = s.fixed := by simp [arbiterSent]

@[simp] theorem execPacketInject_fixed (index : Nat) (s : State) :
    fixedAfter (execPacketInject index s) = some s.fixed := by
  unfold execPacketInject
  split
  · rename_i s1 _ e2 _
    have h1 : s1.fixed = s.fixed := injectOne_fixed e2
    split <;> simp [h1]
  · simp

@[simp] theorem leaveInput_fixed (s : State) (a : Arrived) (index : Nat) :
    (leaveInput s a index).fixed = s.fixed := by simp [leaveInput]

@[simp] theorem execPacketForward_fixed (index : Nat) (s : State) :
    fixedAfter (execPacketForward index s) = some s.fixed := by
  unfold execPacketForward
  split
  · simp
  · split
    · simp
    · extract_lets +onlyGivenNames s1 _ _
      have h1 : s1.fixed = s.fixed := by simp [s1]
      clear_value s1
      split
      · split <;> simp [h1]
      · split
        · split
          · split <;> simp [h1]
          · simp [h1]
        · split
          · simp [h1]
          · split
            · simp [h1]
            · extract_lets +onlyGivenNames _
              split
              · simp [h1]
              · split <;> simp [h1]

@[simp] theorem rerouteQueue_fixed (s : State) (port : Nat) :
    (rerouteQueue s port).fixed = s.fixed := by
  unfold rerouteQueue
  extract_lets +onlyGivenNames _
  refine (foldl_fixed _ (fun t x1 => ?_) _ _).trans (by simp)
  extract_lets +onlyGivenNames _ _ _ _
  split <;> simp

@[simp] theorem emitFlit_fixed (s : State) (port fseq ftype : Nat) (retry : Bool)
    (credit : Nat × Nat × Nat) (data : List Byte) :
    (emitFlit s port fseq ftype retry credit data).fixed = s.fixed := by simp [emitFlit]

@[simp] theorem sendIdle_fixed (s : State) (port : Nat) (retry : Bool) :
    (sendIdle s port retry).fixed = s.fixed := by simp [sendIdle]

@[simp] theorem sendDataFlit_fixed (s : State) (port : Nat) (data : List Byte) :
    (sendDataFlit s port data).fixed = s.fixed := by simp [sendDataFlit]

@[simp] theorem dropOld_fixed (s : State) (port : Nat) :
    (dropOld s port).fixed = s.fixed := by simp [dropOld]

@[simp] theorem packFlits_fixed (s : State) (port : Nat) (bs : List Byte) :
    (packFlits s port bs).fixed = s.fixed := by simp [packFlits]

@[simp] theorem flushTick_fixed (s : State) (port : Nat) :
    (flushTick s port).fixed = s.fixed := by simp [flushTick]

@[simp] theorem linkTick_fixed (s : State) (port : Nat) : (linkTick s port).fixed = s.fixed := by
  unfold linkTick
  split
  · rfl
  · extract_lets +onlyGivenNames s1 _
    have h1 : s1.fixed = s.fixed := by simp [s1]
    clear_value s1
    split
    · simp [h1]
    · split <;> simp [h1]

@[simp] theorem fabricTick_fixed (s : State) :
    (fabricTick s).fixed = s.fixed := by simp [fabricTick]

/-! ## `Machine/Links` -/

@[simp] theorem setPortState_fixed (s : State) (port st : Nat) :
    (setPortState s port st).fixed = s.fixed := by simp [setPortState]

@[simp] theorem beginTraining_fixed (s : State) (port : Nat) :
    (beginTraining s port).fixed = s.fixed := by simp [beginTraining]

@[simp] theorem retrainPort_fixed (s : State) (port : Nat) :
    (retrainPort s port).fixed = s.fixed := by simp [retrainPort]

@[simp] theorem portFollow_fixed (s : State) (port : Nat) :
    (portFollow s port).fixed = s.fixed := by simp [portFollow]

@[simp] theorem failPort_fixed (s : State) (port : Nat) :
    (failPort s port).fixed = s.fixed := by simp [failPort]

@[simp] theorem setLaneBit_fixed (s : State) (port lane b : Nat) (v : Bool) :
    (setLaneBit s port lane b v).fixed = s.fixed := by simp [setLaneBit]

@[simp] theorem markLane_fixed (s : State) (port lane : Nat) :
    (markLane s port lane).fixed = s.fixed := by simp [markLane]

@[simp] theorem replayFlits_fixed (s : State) (port : Nat) :
    (replayFlits s port).fixed = s.fixed := by simp [replayFlits]

@[simp] theorem askRetry_fixed (s : State) (port : Nat) :
    (askRetry s port).fixed = s.fixed := by simp [askRetry]

@[simp] theorem execRetryReq_fixed (port fack : Nat) (s : State) :
    fixedAfter (execRetryReq port fack s) = some s.fixed := by simp [execRetryReq]

@[simp] theorem lendShared_fixed (s : State) (port : Nat) (p : XlPkt) :
    (lendShared s port p).fixed = s.fixed := by simp [lendShared]

@[simp] theorem refuseArrival_fixed (s : State) (port : Nat) (p : XlPkt) :
    (refuseArrival s port p).fixed = s.fixed := by simp [refuseArrival]

@[simp] theorem takePackets_fixed (port n : Nat) (bs : List Byte) (s : State) :
    (takePackets port n bs s).1.fixed = s.fixed := by
  induction n generalizing bs s with
  | zero => rfl
  | succ n ih =>
    unfold takePackets
    split
    · rfl
    · split
      · rfl
      · dsimp only
        split
        · rfl
        · refine (ih _ _).trans ?_
          split <;> simp

@[simp] theorem takeHead_fixed (s : State) (port head : Nat) :
    (takeHead s port head).fixed = s.fixed := by simp [takeHead]

@[simp] theorem goodFlit_fixed (s : State) (port : Nat) (bytes : List Byte) :
    (goodFlit s port bytes).fixed = s.fixed := by
  unfold goodFlit
  extract_lets +onlyGivenNames _ _ _
  split
  · simp
  · split
    · simp
    · extract_lets +onlyGivenNames s1 _
      have h1 : s1.fixed = s.fixed := by simp [s1]
      clear_value s1
      split
      rename_i s2 _ e3
      have h2 : s2.fixed = s.fixed := fixed_of_fst e3 (by simp [h1])
      simp [h2]

@[simp] theorem execFlitReceive_fixed (port symErrs : Nat) (bytes : List Byte) (s : State) :
    fixedAfter (execFlitReceive port symErrs bytes s) = some s.fixed := by
  unfold execFlitReceive
  extract_lets +onlyGivenNames _
  split
  · simp
  · split
    · simp
    · extract_lets +onlyGivenNames s1
      have h1 : s1.fixed = s.fixed := by simp [s1]
      clear_value s1
      split
      · simp [h1]
      · extract_lets +onlyGivenNames _
        split
        rename_i s2 e3
        have h2 : s2.fixed = s.fixed := fixed_of_snd e3 (by simp [h1])
        simp [h2]

@[simp] theorem sendInit_fixed (s : State) (port : Nat) :
    (sendInit s port).fixed = s.fixed := by simp [sendInit]

@[simp] theorem execInitRepeat_fixed (port : Nat) (s : State) :
    fixedAfter (execInitRepeat port s) = some s.fixed := by simp [execInitRepeat]

@[simp] theorem execPortEnable_fixed (port : Nat) (value : Bool) (s : State) :
    fixedAfter (execPortEnable port value s) = some s.fixed := by simp [execPortEnable]

@[simp] theorem portActivate_fixed (s : State) (port : Nat) :
    (portActivate s port).fixed = s.fixed := by simp [portActivate]

@[simp] theorem execPortFwdEn_fixed (port : Nat) (value : Bool) (s : State) :
    fixedAfter (execPortFwdEn port value s) = some s.fixed := by simp [execPortFwdEn]

@[simp] theorem execRetrain_fixed (port : Nat) (value : Bool) (s : State) :
    fixedAfter (execRetrain port value s) = some s.fixed := by simp [execRetrain]

@[simp] theorem lanesFailed_fixed (s : State) (port : Nat) :
    (lanesFailed s port).fixed = s.fixed := by simp [lanesFailed]

@[simp] theorem lanesTrained_fixed (s : State) (port mask rate : Nat) :
    (lanesTrained s port mask rate).fixed = s.fixed := by
  unfold lanesTrained
  extract_lets +onlyGivenNames s1 _ _ d2 _ f3
  have h1 : s1.fixed = s.fixed := by simp [s1]
  have h3 : ∀ t x4 x5, (f3 t x4 x5).fixed = t.fixed := by
    intro t x4 x5
    unfold f3
    simp
  clear_value s1 d2 f3
  (repeat' split) <;> simp [h3, h1]

@[simp] theorem reportPeer_fixed (s : State) (port : Nat) :
    (reportPeer s port).fixed = s.fixed := by simp [reportPeer]

@[simp] theorem execPortTrainingDone_fixed (port lanes : Nat) (s : State) :
    fixedAfter (execPortTrainingDone port lanes s) = some s.fixed := by simp [execPortTrainingDone]

@[simp] theorem execPortStepTimeout_fixed (port : Nat) (s : State) :
    fixedAfter (execPortStepTimeout port s) = some s.fixed := by simp [execPortStepTimeout]

@[simp] theorem execInit_fixed (port : Nat) (msg : InitMsg) (s : State) :
    fixedAfter (execInit port msg s) = some s.fixed := by simp [execInit]

@[simp] theorem execLaneFail_fixed (port lane : Nat) (s : State) :
    fixedAfter (execLaneFail port lane s) = some s.fixed := by simp [execLaneFail]

/-! ## `Machine/Recovery` -/

@[simp] theorem injectMove_fixed (s : State) (q : Nat) : (injectMove s q).fixed = s.fixed := by
  unfold injectMove
  split <;> simp

@[simp] theorem nandOutcome_fixed (s : State) (r : NandRead) (slot : Nat) :
    (nandOutcome s r slot).fixed = s.fixed := by simp [nandOutcome]

@[simp] theorem countNand_fixed (s : State) (r : NandRead) (slot : Nat) :
    (countNand s r slot).fixed = s.fixed := by
  unfold countNand
  split
  rename_i s1 e2
  have h1 : s1.fixed = s.fixed := fixed_of_snd e2 (by simp)
  simp [h1]

@[simp] theorem wakeWaiters_fixed (s : State) (q : Nat) :
    (wakeWaiters s q).fixed = s.fixed := by simp [wakeWaiters]

theorem placeFetch_fixed {s : State} {q : Nat} {forPrefetch : Bool} {u : State}
    (h : placeFetch s q forPrefetch = some u) :
    u.fixed = s.fixed := by
  unfold placeFetch at h
  split at h
  · next e => cases h; exact placePrimary_fixed e
  · split at h
    · obtain ⟨r, hr, rfl⟩ := Option.map_eq_some_iff.mp h
      simp [placePrimary_fixed hr]
    · cases h

@[simp] theorem failPage_fixed (st : Nat) (s : State) (e : Nat × Page) :
    (failPage st s e).fixed = s.fixed := by
  unfold failPage
  extract_lets +onlyGivenNames _
  split <;> simp

@[simp] theorem loseBuffers_fixed (s : State) : (loseBuffers s).fixed = s.fixed := by
  unfold loseBuffers
  simp

@[simp] theorem refillWindows_fixed (s : State) :
    (refillWindows s).fixed = s.fixed := by simp [refillWindows]

@[simp] theorem failStack_fixed (s : State) (st cause : Nat) :
    (failStack s st cause).fixed = s.fixed := by simp [failStack]

@[simp] theorem dropService_fixed (s : State) (st fr q : Nat) :
    (dropService s st fr q).fixed = s.fixed := by simp [dropService]

@[simp] theorem retireFrame_fixed (s : State) (st fr : Nat) :
    (retireFrame s st fr).fixed = s.fixed := by
  unfold retireFrame
  extract_lets +onlyGivenNames _
  split
  · rfl
  · extract_lets +onlyGivenNames d _ s1 s2 s3
    have h2 : s2.fixed = s.fixed := by simp [s2, s1]
    clear_value d s1 s2
    have h3 : s3.fixed = s.fixed := by
      unfold s3
      split <;> simp [h2]
    simp [h3]

@[simp] theorem correctBlock_fixed (st fr : Nat) (s : State) (b : Nat × Option Nat) :
    (correctBlock st fr s b).fixed = s.fixed := by
  unfold correctBlock
  extract_lets +onlyGivenNames s1 _ _ _ _ s2 _ s3
  have h2 : s2.fixed = s.fixed := by simp [s2, s1]
  have h3 : s3.fixed = s.fixed := by
    unfold s3
    split <;> simp [h2]
  clear_value s1 s2 s3
  simp [h3]

@[simp] theorem recoverFrame_fixed (s : State) (st fr : Nat) (r : NandRead) :
    (recoverFrame s st fr r).fixed = s.fixed := by
  unfold recoverFrame
  split
  · simp
  · split
    · simp
    · extract_lets +onlyGivenNames _ s1 s2 _
      have h2 : s2.fixed = s.fixed := by simp [s2, s1]
      clear_value s1 s2
      split
      · simp [h2]
      · extract_lets +onlyGivenNames s3
        have h3 : s3.fixed = s.fixed := by simp [s3, h2]
        clear_value s3
        split
        · extract_lets +onlyGivenNames s4
          have h4 : s4.fixed = s.fixed := by simp [s4, h3]
          clear_value s4
          split <;> simp [h4]
        · simp [h3]

@[simp] theorem recoverRead_fixed (s : State) (t q : Nat) :
    (recoverRead s t q).fixed = s.fixed := by
  unfold recoverRead
  split <;> simp

@[simp] theorem scrubLink_fixed (q : Nat) (s : State) (w : Nat × Bool) :
    (scrubLink q s w).fixed = s.fixed := by
  unfold scrubLink
  split <;> simp

/-! ## `Machine/Engines` -/

@[simp] theorem countWrites_fixed (s : State) (c : EngCmd) (n : Nat) :
    (countWrites s c n).fixed = s.fixed := by simp [countWrites]

@[simp] theorem setSkip_fixed (s : State) (t : Nat) (k : SkipState) :
    (setSkip s t k).fixed = s.fixed := by simp [setSkip]

@[simp] theorem classify_fixed (d : SkipDesc) (g r : Nat) (a : SkipState × State) (n : Nat) :
    (classify d g r a n).2.fixed = a.2.fixed := by
  obtain ⟨k, s⟩ := a
  simp [classify]

/-- Stated for any fixed part `k`, since `runPass` calls it on a state it has already counted in. -/
@[simp] theorem skipPass_fixed (s : State) (t : Nat) (c : EngCmd) (d : SkipDesc) (o : Opnd)
    (p : PassOut) {k : Fixed} (h : s.fixed = k) :
    Run.fixedOr k (skipPass s t c d o p) = k := by
  unfold skipPass
  extract_lets +onlyGivenNames _ _ _
  split
  rename_i s1 e2
  have h1 : s1.fixed = k := fixed_of_snd e2 (by simp [h])
  extract_lets +onlyGivenNames _ _ _
  split <;> simp [h1]

/-- Stated for any fixed part `k`, as `skipPass_fixed` is. -/
@[simp] theorem plainPass_fixed (s : State) (c : EngCmd) (o : Opnd) (p : PassOut)
    (col shared : Bool) {k : Fixed} (h : s.fixed = k) :
    Run.fixedOr k (plainPass s c o p col shared) = k := by
  simp [plainPass, h]

@[simp] theorem latchSteal_fixed (s : State) (t : Nat) : (latchSteal s t).fixed = s.fixed := by
  unfold latchSteal
  extract_lets +onlyGivenNames _ s1
  have h1 : s1.fixed = s.fixed := by simp [s1]
  clear_value s1
  split
  · exact h1
  · split
    rename_i s2 e3
    have h2 : s2.fixed = s.fixed := fixed_of_snd e3 (by simp [h1])
    simp [h2]

@[simp] theorem runPass_fixed (s : State) (t func : Nat) (c : EngCmd) :
    Run.fixedOr s.fixed (runPass s t func c) = s.fixed := by
  unfold runPass
  extract_lets +onlyGivenNames _
  refine EngCmd.get_fixed _ _ _ _ (fun x1 => ?_)
  refine EngCmd.get_fixed _ _ _ _ (fun x2 => ?_)
  refine EngCmd.get_fixed _ _ _ _ (fun x3 => ?_)
  refine Rd.use_fixed _ _ _ (fun x4 => ?_)
  refine Rd.use_fixed _ _ _ (fun x5 => ?_)
  refine Rd.use_fixed _ _ _ (fun x6 => ?_)
  extract_lets +onlyGivenNames _ _ _ _ d7
  clear_value d7
  split
  · simp
  · extract_lets +onlyGivenNames _ _ _ _ s8 s9 s10 s11
    have h11 : s11.fixed = s.fixed := by simp [s11, s10, s9, s8]
    clear_value s8 s9 s10 s11
    split <;> simp [h11]

@[simp] theorem runMakeup_fixed (s : State) (t func : Nat) (c : EngCmd) :
    Run.fixedOr s.fixed (runMakeup s t func c) = s.fixed := by
  unfold runMakeup
  extract_lets +onlyGivenNames _ _ _
  split
  · simp
  · split
    · simp
    · refine EngCmd.get_fixed _ _ _ _ (fun x1 => ?_)
      refine EngCmd.get_fixed _ _ _ _ (fun x2 => ?_)
      refine EngCmd.get_fixed _ _ _ _ (fun x3 => ?_)
      extract_lets +onlyGivenNames _ _ _
      refine Rd.use_fixed _ _ _ (fun x4 => ?_)
      extract_lets +onlyGivenNames _ _
      refine Rd.use_fixed _ _ _ (fun x5 => ?_)
      refine Rd.use_fixed _ _ _ (fun x6 => ?_)
      extract_lets +onlyGivenNames _
      split <;> simp

@[simp] theorem runVec_fixed (s : State) (t func : Nat) (c : EngCmd) :
    Run.fixedOr s.fixed (runVec s t func c) = s.fixed := by
  unfold runVec
  refine EngCmd.get_fixed _ _ _ _ fun a => EngCmd.get_fixed _ _ _ _ fun o => ?_
  extract_lets +onlyGivenNames _ _
  refine Rd.use_fixed _ _ _ fun abs => Rd.use_fixed _ _ _ fun bbs => Rd.use_fixed _ _ _ fun cbs =>
    Rd.use_fixed _ _ _ fun dbs => Rd.use_fixed _ _ _ fun _ => ?_
  extract_lets +onlyGivenNames s1
  have h1 : s1.fixed = s.fixed := by simp [s1]
  clear_value s1
  split
  · extract_lets +onlyGivenNames _ _ s2
    have h2 : s2.fixed = s.fixed := by simp [s2, h1]
    clear_value s2
    split
    · simp
    · simp [h2]
  · extract_lets +onlyGivenNames _ _ _ _
    split
    · extract_lets +onlyGivenNames _ _ _ vs
      clear_value vs
      split <;> simp [h1]
    · extract_lets +onlyGivenNames _ _ _ _ vs bs
      clear_value bs
      simp [h1]

@[simp] theorem runXfer_fixed (s : State) (t func : Nat) (c : EngCmd) :
    Run.fixedOr s.fixed (runXfer s t func c) = s.fixed := by
  unfold runXfer
  refine EngCmd.get_fixed _ _ _ _ (fun x1 => ?_)
  split
  · refine EngCmd.get_fixed _ _ _ _ (fun x2 => ?_)
    refine Rd.use_fixed _ _ _ (fun x3 => ?_)
    refine Rd.use_fixed _ _ _ (fun x4 => ?_)
    simp
  · refine EngCmd.get_fixed _ _ _ _ (fun x5 => ?_)
    refine Rd.use_fixed _ _ _ (fun x6 => ?_)
    refine Rd.use_fixed _ _ _ (fun x7 => ?_)
    simp

@[simp] theorem runEval_fixed (s : State) (t func : Nat) (c : EngCmd) :
    Run.fixedOr s.fixed (runEval s t func c) = s.fixed := by
  unfold runEval
  extract_lets +onlyGivenNames _
  refine EngCmd.get_fixed _ _ _ _ (fun x1 => ?_)
  extract_lets +onlyGivenNames _ _ _ _ _
  split
  · refine Rd.use_fixed _ _ _ (fun x2 => ?_)
    simp
  · refine EngCmd.get_fixed _ _ _ _ (fun x3 => ?_)
    refine EngCmd.get_fixed _ _ _ _ (fun x4 => ?_)
    refine Rd.use_fixed _ _ _ (fun x5 => ?_)
    refine Rd.use_fixed _ _ _ (fun x6 => ?_)
    refine Rd.use_fixed _ _ _ (fun x7 => ?_)
    extract_lets +onlyGivenNames _ _ _ _ _ _ _
    split <;> simp

@[simp] theorem runCommand_fixed (s : State) (t func : Nat) (c : EngCmd) :
    Run.fixedOr s.fixed (runCommand s t func c) = s.fixed := by simp [runCommand]

/-! ## `Machine/TileFail` -/

@[simp] theorem setRole_fixed (s : State) (t : Nat) (r : TileRole) :
    (setRole s t r).fixed = s.fixed := by simp [setRole]

@[simp] theorem moveStep_fixed (t l sp : Nat) (items : List Item) (a : State × Nat)
    (e : Nat × LStep) :
    (moveStep t l sp items a e).1.fixed = a.1.fixed := by
  obtain ⟨s, n⟩ := a
  simp [moveStep]

@[simp] theorem rearmTile_fixed (s : State) (l : Nat) : (rearmTile s l).fixed = s.fixed := by
  unfold rearmTile
  refine foldl_fixed _ (fun t x1 => ?_) _ _
  split <;> simp

@[simp] theorem restage_fixed (s : State) (l : Nat) :
    (restage s l).fixed = s.fixed := by simp [restage]

@[simp] theorem replacePart_fixed (s : State) (it : Item) : (replacePart s it).fixed = s.fixed := by
  unfold replacePart
  split
  · extract_lets +onlyGivenNames _
    split <;> simp
  · rfl

@[simp] theorem loseTile_fixed (s : State) (t l : Nat) (items : List Item) :
    (loseTile s t l items).1.fixed = s.fixed := by simp [loseTile]

@[simp] theorem takeoverEvent_fixed (s : State) (t sp l cause again lost : Nat) :
    (takeoverEvent s t sp l cause again lost).fixed = s.fixed := by simp [takeoverEvent]

@[simp] theorem failTile_fixed (s : State) (t cause : Nat) :
    (failTile s t cause).fixed = s.fixed := by
  unfold failTile
  extract_lets +onlyGivenNames _
  split
  · rfl
  · extract_lets +onlyGivenNames _ d1 d2 s3 s4 _ s5
    have h5 : s5.fixed = s.fixed := by simp [s5, s4, s3]
    clear_value d1 d2 s3 s4 s5
    split
    · extract_lets +onlyGivenNames _ s6 _ s7
      have h7 : s7.fixed = s.fixed := by simp [s7, s6, h5]
      clear_value s6 s7
      split
      rename_i s8 _ e9
      have h8 : s8.fixed = s.fixed := fixed_of_fst e9 (by simp [h7])
      simp [h8]
    · extract_lets +onlyGivenNames _ _ s10
      have h10 : s10.fixed = s.fixed := by simp [s10, h5]
      clear_value s10
      split
      rename_i s11 _ _ e12
      have h11 : s11.fixed = s.fixed := fixed_of_fst e12 (by simp [h10])
      simp [h11]
    · simp [h5]

@[simp] theorem hwFault_fixed (s : State) (t : Nat) (i : Item) (cause addr : Nat) :
    (hwFault s t i cause addr).fixed = s.fixed := by simp [hwFault]

@[simp] theorem timingTile_fixed (s : State) (t : Nat) :
    (timingTile s t).fixed = s.fixed := by simp [timingTile]

@[simp] theorem corrected_fixed (s : State) (t n addr : Nat) :
    (corrected s t n addr).fixed = s.fixed := by simp [corrected]

/-! ## `Machine/Stoker` -/

@[simp] theorem swapTile_fixed (s : State) (t : Nat) :
    (swapTile s t).fixed = s.fixed := by simp [swapTile]

@[simp] theorem stokerFault_fixed (s : State) (t : Nat) (i : Item) (n addr : Nat) :
    (stokerFault s t i n addr).fixed = s.fixed := by simp [stokerFault]

@[simp] theorem takeItem_fixed (s : State) (t : Nat) (badWord badDmem : Option Nat) :
    (takeItem s t badWord badDmem).fixed = s.fixed := by
  unfold takeItem
  extract_lets +onlyGivenNames _
  split
  · rfl
  · split
    · simp
    · split
      · simp
      · split
        · simp
        · split
          · simp
          · split
            rename_i s1 e2
            have h1 : s1.fixed = s.fixed := fixed_of_snd e2 (by simp)
            simp [h1]

@[simp] theorem execWorkItemStart_fixed (tile : Nat) (errors : KernelErrors) (s : State) :
    fixedAfter (execWorkItemStart tile errors s) = some s.fixed := by simp [execWorkItemStart]

@[simp] theorem itemEnds_fixed (s : State) (t : Nat) (i : Item) :
    (itemEnds s t i).fixed = s.fixed := by simp [itemEnds]

@[simp] theorem atWord_fixed (s : State) (t form op : Nat) (f : Kernel → Nat → State)
    (hf : ∀ a b, (f a b).fixed = s.fixed) :
    fixedAfter (atWord s t form op f) = some s.fixed := by
  unfold atWord
  split <;> simp [hf]

@[simp] theorem setKernel_fixed (s : State) (t : Nat) (k : Kernel) :
    (setKernel s t k).fixed = s.fixed := by simp [setKernel]

@[simp] theorem scalarWord_fixed (s : State) (t op : Nat) (f : Word → Word → Word) :
    fixedAfter (scalarWord s t op f) = some s.fixed := by simp [scalarWord]

@[simp] theorem immWord_fixed (s : State) (t op : Nat) (f : Word → Word → Word) :
    fixedAfter (immWord s t op f) = some s.fixed := by simp [immWord]

@[simp] theorem execAdd_fixed (tile : Nat) (s : State) :
    fixedAfter (execAdd tile s) = some s.fixed := by simp [execAdd]

@[simp] theorem execSub_fixed (tile : Nat) (s : State) :
    fixedAfter (execSub tile s) = some s.fixed := by simp [execSub]

@[simp] theorem execAnd_fixed (tile : Nat) (s : State) :
    fixedAfter (execAnd tile s) = some s.fixed := by simp [execAnd]

@[simp] theorem execOr_fixed (tile : Nat) (s : State) :
    fixedAfter (execOr tile s) = some s.fixed := by simp [execOr]

@[simp] theorem execXor_fixed (tile : Nat) (s : State) :
    fixedAfter (execXor tile s) = some s.fixed := by simp [execXor]

@[simp] theorem execShl_fixed (tile : Nat) (s : State) :
    fixedAfter (execShl tile s) = some s.fixed := by simp [execShl]

@[simp] theorem execShr_fixed (tile : Nat) (s : State) :
    fixedAfter (execShr tile s) = some s.fixed := by simp [execShr]

@[simp] theorem execSra_fixed (tile : Nat) (s : State) :
    fixedAfter (execSra tile s) = some s.fixed := by simp [execSra]

@[simp] theorem execMul_fixed (tile : Nat) (s : State) :
    fixedAfter (execMul tile s) = some s.fixed := by simp [execMul]

@[simp] theorem execMulhu_fixed (tile : Nat) (s : State) :
    fixedAfter (execMulhu tile s) = some s.fixed := by simp [execMulhu]

@[simp] theorem execDivu_fixed (tile : Nat) (s : State) :
    fixedAfter (execDivu tile s) = some s.fixed := by simp [execDivu]

@[simp] theorem execRemu_fixed (tile : Nat) (s : State) :
    fixedAfter (execRemu tile s) = some s.fixed := by simp [execRemu]

@[simp] theorem execMinu_fixed (tile : Nat) (s : State) :
    fixedAfter (execMinu tile s) = some s.fixed := by simp [execMinu]

@[simp] theorem execMaxu_fixed (tile : Nat) (s : State) :
    fixedAfter (execMaxu tile s) = some s.fixed := by simp [execMaxu]

@[simp] theorem execSlt_fixed (tile : Nat) (s : State) :
    fixedAfter (execSlt tile s) = some s.fixed := by simp [execSlt]

@[simp] theorem execSltu_fixed (tile : Nat) (s : State) :
    fixedAfter (execSltu tile s) = some s.fixed := by simp [execSltu]

@[simp] theorem execAddi_fixed (tile : Nat) (s : State) :
    fixedAfter (execAddi tile s) = some s.fixed := by simp [execAddi]

@[simp] theorem execAndi_fixed (tile : Nat) (s : State) :
    fixedAfter (execAndi tile s) = some s.fixed := by simp [execAndi]

@[simp] theorem execOri_fixed (tile : Nat) (s : State) :
    fixedAfter (execOri tile s) = some s.fixed := by simp [execOri]

@[simp] theorem execXori_fixed (tile : Nat) (s : State) :
    fixedAfter (execXori tile s) = some s.fixed := by simp [execXori]

@[simp] theorem execShli_fixed (tile : Nat) (s : State) :
    fixedAfter (execShli tile s) = some s.fixed := by simp [execShli]

@[simp] theorem execShri_fixed (tile : Nat) (s : State) :
    fixedAfter (execShri tile s) = some s.fixed := by simp [execShri]

@[simp] theorem execSrai_fixed (tile : Nat) (s : State) :
    fixedAfter (execSrai tile s) = some s.fixed := by simp [execSrai]

@[simp] theorem execMuli_fixed (tile : Nat) (s : State) :
    fixedAfter (execMuli tile s) = some s.fixed := by simp [execMuli]

@[simp] theorem execLi_fixed (tile : Nat) (s : State) :
    fixedAfter (execLi tile s) = some s.fixed := by simp [execLi]

@[simp] theorem execExti_fixed (tile : Nat) (s : State) :
    fixedAfter (execExti tile s) = some s.fixed := by simp [execExti]

@[simp] theorem execCdivi_fixed (tile : Nat) (s : State) :
    fixedAfter (execCdivi tile s) = some s.fixed := by simp [execCdivi]

@[simp] theorem execLd_fixed (tile : Nat) (uncorrectable : Bool) (s : State) :
    fixedAfter (execLd tile uncorrectable s) = some s.fixed := by simp [execLd]

@[simp] theorem execSt_fixed (tile : Nat) (s : State) :
    fixedAfter (execSt tile s) = some s.fixed := by simp [execSt]

@[simp] theorem lostRead_fixed (s : State) (t : Nat) (i : Item) (page : Nat) :
    (lostRead s t i page).fixed = s.fixed := by simp [lostRead]

@[simp] theorem execLdw_fixed (tile : Nat) (s : State) :
    fixedAfter (execLdw tile s) = some s.fixed := by
  unfold execLdw
  refine atWord_fixed _ _ _ _ _ (fun x1 x2 => ?_)
  extract_lets +onlyGivenNames _
  split
  · simp
  · split <;> simp

@[simp] theorem badRead_fixed (s : State) (t : Nat) (i : Item) (q : Nat) (go : State → Out)
    (hgo : ∀ s', fixedAfter (go s') = some s'.fixed) :
    fixedAfter (badRead s t i q go) = some s.fixed := by
  unfold badRead
  simp [hgo]

@[simp] theorem execLdwData_fixed (tile : Nat) (bad : Bool) (s : State) :
    fixedAfter (execLdwData tile bad s) = some s.fixed := by
  unfold execLdwData
  (repeat' split) <;> simp

@[simp] theorem branchWord_fixed (s : State) (t op : Nat) (p : Word → Word → Bool) :
    fixedAfter (branchWord s t op p) = some s.fixed := by simp [branchWord]

@[simp] theorem execJmp_fixed (tile : Nat) (s : State) :
    fixedAfter (execJmp tile s) = some s.fixed := by simp [execJmp]

@[simp] theorem execBeq_fixed (tile : Nat) (s : State) :
    fixedAfter (execBeq tile s) = some s.fixed := by simp [execBeq]

@[simp] theorem execBne_fixed (tile : Nat) (s : State) :
    fixedAfter (execBne tile s) = some s.fixed := by simp [execBne]

@[simp] theorem execBltu_fixed (tile : Nat) (s : State) :
    fixedAfter (execBltu tile s) = some s.fixed := by simp [execBltu]

@[simp] theorem execBgeu_fixed (tile : Nat) (s : State) :
    fixedAfter (execBgeu tile s) = some s.fixed := by simp [execBgeu]

@[simp] theorem execLoop_fixed (tile : Nat) (s : State) :
    fixedAfter (execLoop tile s) = some s.fixed := by simp [execLoop]

@[simp] theorem execEndloop_fixed (tile : Nat) (s : State) :
    fixedAfter (execEndloop tile s) = some s.fixed := by
  unfold execEndloop
  refine atWord_fixed _ _ _ _ _ (fun x1 x2 => ?_)
  split <;> simp

@[simp] theorem execRicNop_fixed (tile : Nat) (s : State) :
    fixedAfter (execRicNop tile s) = some s.fixed := by simp [execRicNop]

@[simp] theorem execEnd_fixed (tile : Nat) (s : State) :
    fixedAfter (execEnd tile s) = some s.fixed := by simp [execEnd]

@[simp] theorem stallEvent_fixed (s : State) (t : Nat) (k : Kernel) (w : Stall) :
    (stallEvent s t k w).fixed = s.fixed := by
  unfold stallEvent
  split
  rename_i s1 e2
  have h1 : s1.fixed = s.fixed := fixed_of_snd e2 (by simp)
  simp [h1]

@[simp] theorem execEwait_fixed (tile : Nat) (s : State) :
    fixedAfter (execEwait tile s) = some s.fixed := by simp [execEwait]

@[simp] theorem execEsig_fixed (tile : Nat) (s : State) :
    fixedAfter (execEsig tile s) = some s.fixed := by simp [execEsig]

@[simp] theorem execRicFence_fixed (tile : Nat) (s : State) :
    fixedAfter (execRicFence tile s) = some s.fixed := by simp [execRicFence]

@[simp] theorem execTrap_fixed (tile : Nat) (s : State) :
    fixedAfter (execTrap tile s) = some s.fixed := by simp [execTrap]

@[simp] theorem stallFull_fixed (s : State) (t : Nat) (k : Kernel) :
    (stallFull s t k).fixed = s.fixed := by
  unfold stallFull
  split
  rename_i s1 e2
  have h1 : s1.fixed = s.fixed := fixed_of_snd e2 (by simp)
  simp [h1]

@[simp] theorem issueWord_fixed (s : State) (t engine op : Nat) :
    fixedAfter (issueWord s t engine op) = some s.fixed := by
  unfold issueWord
  split
  · extract_lets +onlyGivenNames _
    split
    · simp
    · extract_lets +onlyGivenNames _
      split
      · simp
      · split
        · simp
        · split
          · simp
          · split
            · simp
            · extract_lets +onlyGivenNames _
              split
              · simp
              · split
                · simp
                · extract_lets +onlyGivenNames _ _ _ _ _ _ _ _ s1 s2
                  have h1 : s1.fixed = s.fixed := by
                    unfold s1
                    split <;> simp
                  have h2 : s2.fixed = s.fixed := by simp [s2, h1]
                  clear_value s1 s2
                  simp [h2]
  · simp

@[simp] theorem execPass_fixed (tile : Nat) (s : State) :
    fixedAfter (execPass tile s) = some s.fixed := by simp [execPass]

@[simp] theorem execMakeup_fixed (tile : Nat) (s : State) :
    fixedAfter (execMakeup tile s) = some s.fixed := by simp [execMakeup]

@[simp] theorem execVecAdd_fixed (tile : Nat) (s : State) :
    fixedAfter (execVecAdd tile s) = some s.fixed := by simp [execVecAdd]

@[simp] theorem execVecSub_fixed (tile : Nat) (s : State) :
    fixedAfter (execVecSub tile s) = some s.fixed := by simp [execVecSub]

@[simp] theorem execVecMul_fixed (tile : Nat) (s : State) :
    fixedAfter (execVecMul tile s) = some s.fixed := by simp [execVecMul]

@[simp] theorem execFma_fixed (tile : Nat) (s : State) :
    fixedAfter (execFma tile s) = some s.fixed := by simp [execFma]

@[simp] theorem execScale_fixed (tile : Nat) (s : State) :
    fixedAfter (execScale tile s) = some s.fixed := by simp [execScale]

@[simp] theorem execVecMin_fixed (tile : Nat) (s : State) :
    fixedAfter (execVecMin tile s) = some s.fixed := by simp [execVecMin]

@[simp] theorem execVecMax_fixed (tile : Nat) (s : State) :
    fixedAfter (execVecMax tile s) = some s.fixed := by simp [execVecMax]

@[simp] theorem execAbs_fixed (tile : Nat) (s : State) :
    fixedAfter (execAbs tile s) = some s.fixed := by simp [execAbs]

@[simp] theorem execNeg_fixed (tile : Nat) (s : State) :
    fixedAfter (execNeg tile s) = some s.fixed := by simp [execNeg]

@[simp] theorem execSelect_fixed (tile : Nat) (s : State) :
    fixedAfter (execSelect tile s) = some s.fixed := by simp [execSelect]

@[simp] theorem execCvt_fixed (tile : Nat) (s : State) :
    fixedAfter (execCvt tile s) = some s.fixed := by simp [execCvt]

@[simp] theorem execDiv_fixed (tile : Nat) (s : State) :
    fixedAfter (execDiv tile s) = some s.fixed := by simp [execDiv]

@[simp] theorem execSqrt_fixed (tile : Nat) (s : State) :
    fixedAfter (execSqrt tile s) = some s.fixed := by simp [execSqrt]

@[simp] theorem execExp_fixed (tile : Nat) (s : State) :
    fixedAfter (execExp tile s) = some s.fixed := by simp [execExp]

@[simp] theorem execLog_fixed (tile : Nat) (s : State) :
    fixedAfter (execLog tile s) = some s.fixed := by simp [execLog]

@[simp] theorem execRsqrt_fixed (tile : Nat) (s : State) :
    fixedAfter (execRsqrt tile s) = some s.fixed := by simp [execRsqrt]

@[simp] theorem execSigmoid_fixed (tile : Nat) (s : State) :
    fixedAfter (execSigmoid tile s) = some s.fixed := by simp [execSigmoid]

@[simp] theorem execTanh_fixed (tile : Nat) (s : State) :
    fixedAfter (execTanh tile s) = some s.fixed := by simp [execTanh]

@[simp] theorem execRelu_fixed (tile : Nat) (s : State) :
    fixedAfter (execRelu tile s) = some s.fixed := by simp [execRelu]

@[simp] theorem execRelu2_fixed (tile : Nat) (s : State) :
    fixedAfter (execRelu2 tile s) = some s.fixed := by simp [execRelu2]

@[simp] theorem execGeluTanh_fixed (tile : Nat) (s : State) :
    fixedAfter (execGeluTanh tile s) = some s.fixed := by simp [execGeluTanh]

@[simp] theorem execSilu_fixed (tile : Nat) (s : State) :
    fixedAfter (execSilu tile s) = some s.fixed := by simp [execSilu]

@[simp] theorem execActMul_fixed (tile : Nat) (s : State) :
    fixedAfter (execActMul tile s) = some s.fixed := by simp [execActMul]

@[simp] theorem execRsum_fixed (tile : Nat) (s : State) :
    fixedAfter (execRsum tile s) = some s.fixed := by simp [execRsum]

@[simp] theorem execRsumsq_fixed (tile : Nat) (s : State) :
    fixedAfter (execRsumsq tile s) = some s.fixed := by simp [execRsumsq]

@[simp] theorem execRdot_fixed (tile : Nat) (s : State) :
    fixedAfter (execRdot tile s) = some s.fixed := by simp [execRdot]

@[simp] theorem execRmax_fixed (tile : Nat) (s : State) :
    fixedAfter (execRmax tile s) = some s.fixed := by simp [execRmax]

@[simp] theorem execRmin_fixed (tile : Nat) (s : State) :
    fixedAfter (execRmin tile s) = some s.fixed := by simp [execRmin]

@[simp] theorem execRargmax_fixed (tile : Nat) (s : State) :
    fixedAfter (execRargmax tile s) = some s.fixed := by simp [execRargmax]

@[simp] theorem execRargmin_fixed (tile : Nat) (s : State) :
    fixedAfter (execRargmin tile s) = some s.fixed := by simp [execRargmin]

@[simp] theorem execCopyIn_fixed (tile : Nat) (s : State) :
    fixedAfter (execCopyIn tile s) = some s.fixed := by simp [execCopyIn]

@[simp] theorem execCopyOut_fixed (tile : Nat) (s : State) :
    fixedAfter (execCopyOut tile s) = some s.fixed := by simp [execCopyOut]

@[simp] theorem execCopy_fixed (tile : Nat) (s : State) :
    fixedAfter (execCopy tile s) = some s.fixed := by simp [execCopy]

@[simp] theorem execFill_fixed (tile : Nat) (s : State) :
    fixedAfter (execFill tile s) = some s.fixed := by simp [execFill]

@[simp] theorem execEval_fixed (tile : Nat) (s : State) :
    fixedAfter (execEval tile s) = some s.fixed := by simp [execEval]

@[simp] theorem addActive_fixed (s : State) (t n : Nat) (i : Item) (makeup : Bool) :
    (addActive s t n i makeup).fixed = s.fixed := by
  unfold addActive
  split
  · rfl
  · split <;> simp

@[simp] theorem activeSlots_fixed (s : State) (beats g : Nat) :
    (activeSlots s beats g).2.fixed = s.fixed := by
  unfold activeSlots
  split
  · simp
  · split
    rename_i s1 e2
    have h1 : s1.fixed = s.fixed := fixed_of_snd e2 (by simp)
    simp [h1]

@[simp] theorem countArray_fixed (s : State) (t beats macs : Nat) (packed : Bool) (g : Nat)
    (i : Item) (makeup : Bool) :
    (countArray s t beats macs packed g i makeup).fixed = s.fixed := by
  unfold countArray
  extract_lets +onlyGivenNames s1
  have h1 : s1.fixed = s.fixed := by simp [s1]
  clear_value s1
  split
  rename_i s2 e3
  have h2 : s2.fixed = s.fixed := fixed_of_snd e3 (by simp [h1])
  simp [h2]

@[simp] theorem countPass_fixed (s : State) (t : Nat) (c : EngCmd) :
    (countPass s t c).fixed = s.fixed := by
  unfold countPass
  split
  · split
    · rfl
    · split
      · rfl
      · extract_lets +onlyGivenNames _ _ _ _ _ _ s1
        have h1 : s1.fixed = s.fixed := by simp [s1]
        clear_value s1
        split
        · simp [h1]
        · split
          · extract_lets +onlyGivenNames _
            simp [h1]
          · simp [h1]
  · rfl

@[simp] theorem countMakeup_fixed (s : State) (t : Nat) (c : EngCmd) :
    (countMakeup s t c).fixed = s.fixed := by
  unfold countMakeup
  split
  · rfl
  · split <;> simp

@[simp] theorem beginCmd_fixed (s : State) (t engine : Nat) (c : EngCmd) (e : Effects) :
    (beginCmd s t engine c e).fixed = s.fixed := by simp [beginCmd]

@[simp] theorem startCmd_fixed (s : State) (tile engine : Nat) (c : EngCmd) :
    fixedAfter (startCmd s tile engine c) = some s.fixed := by
  unfold startCmd
  have hr := runCommand_fixed s tile (ctxFunc s c.item.ctx) c
  split
  · next e => rw [e] at hr; simpa using hr
  all_goals simp

@[simp] theorem execEngineCmdStart_fixed (tile engine : Nat) (ecc : EngineEcc) (s : State) :
    fixedAfter (execEngineCmdStart tile engine ecc s) = some s.fixed := by
  unfold execEngineCmdStart
  extract_lets +onlyGivenNames _
  (repeat' split) <;> simp

@[simp] theorem landWrites_fixed (s : State) (t : Nat) (f : InFlight) :
    (landWrites s t f).fixed = s.fixed := by
  unfold landWrites
  extract_lets +onlyGivenNames _
  split
  rename_i s1 e2
  have h1 : s1.fixed = s.fixed := fixed_of_snd e2 (by simp)
  simp [h1]

@[simp] theorem landSkip_fixed (s : State) (t : Nat) (f : InFlight) :
    (landSkip s t f).fixed = s.fixed := by simp [landSkip]

@[simp] theorem execEngineCmdComplete_fixed (tile engine : Nat) (s : State) :
    fixedAfter (execEngineCmdComplete tile engine s) = some s.fixed := by
  unfold execEngineCmdComplete
  extract_lets +onlyGivenNames _
  split
  · simp
  · split
    · simp
    · split
      · simp
      · extract_lets +onlyGivenNames _ s1 s2
        have h2 : s2.fixed = s.fixed := by simp [s2, s1]
        clear_value s1 s2
        split
        · simp [h2]
        · extract_lets +onlyGivenNames s3 _
          have h3 : s3.fixed = s.fixed := by simp [s3, h2]
          clear_value s3
          split
          · simp [h3]
          · extract_lets +onlyGivenNames s4
            have h4 : s4.fixed = s.fixed := by
              unfold s4
              split <;> simp [h3]
            clear_value s4
            simp [h4]

@[simp] theorem execWaitDeadlock_fixed (tile : Nat) (s : State) :
    fixedAfter (execWaitDeadlock tile s) = some s.fixed := by
  unfold execWaitDeadlock
  extract_lets +onlyGivenNames _
  split
  · simp
  · extract_lets +onlyGivenNames _
    simp

@[simp] theorem execTeardownComplete_fixed (tile : Nat) (s : State) :
    fixedAfter (execTeardownComplete tile s) = some s.fixed := by simp [execTeardownComplete]

@[simp] theorem execKillDrainDone_fixed (tile : Nat) (s : State) :
    fixedAfter (execKillDrainDone tile s) = some s.fixed := by simp [execKillDrainDone]

@[simp] theorem execTileHalt_fixed (tile : Nat) (value : Bool) (s : State) :
    fixedAfter (execTileHalt tile value s) = some s.fixed := by simp [execTileHalt]

@[simp] theorem execTileClockStart_fixed (tile : Nat) (s : State) :
    fixedAfter (execTileClockStart tile s) = some s.fixed := by simp [execTileClockStart]

@[simp] theorem execTileClockStop_fixed (tile : Nat) (s : State) :
    fixedAfter (execTileClockStop tile s) = some s.fixed := by simp [execTileClockStop]

/-! ## `Machine/Power` -/

@[simp] theorem setDomainBit_fixed (s : State) (d : Nat) (on : Bool) :
    (setDomainBit s d on).fixed = s.fixed := by simp [setDomainBit]

@[simp] theorem gateTiles_fixed (s : State) (row : Nat) : (gateTiles s row).fixed = s.fixed := by
  unfold gateTiles
  simp

@[simp] theorem powerTiles_fixed (s : State) (row : Nat) :
    (powerTiles s row).fixed = s.fixed := by simp [powerTiles]

@[simp] theorem switchOff_fixed (s : State) (d : Nat) :
    (switchOff s d).fixed = s.fixed := by simp [switchOff]

@[simp] theorem switchOn_fixed (s : State) (d : Nat) :
    (switchOn s d).fixed = s.fixed := by simp [switchOn]

@[simp] theorem execRowIdleTimeout_fixed (row : Nat) (s : State) :
    fixedAfter (execRowIdleTimeout row s) = some s.fixed := by simp [execRowIdleTimeout]

@[simp] theorem execPowerDownDone_fixed (domain : Nat) (s : State) :
    fixedAfter (execPowerDownDone domain s) = some s.fixed := by simp [execPowerDownDone]

@[simp] theorem resumeRow_fixed (s : State) (row : Nat) : (resumeRow s row).fixed = s.fixed := by
  unfold resumeRow
  refine (foldl_fixed _ (by simp) _ _).trans ?_
  refine (settleWork_fixed _).trans ?_
  refine foldl_fixed _ (fun t x => ?_) _ _
  split <;> simp

@[simp] theorem execRowWakeDone_fixed (row : Nat) (s : State) :
    fixedAfter (execRowWakeDone row s) = some s.fixed := by simp [execRowWakeDone]

@[simp] theorem execRePairIdleTimeout_fixed (pair : Nat) (s : State) :
    fixedAfter (execRePairIdleTimeout pair s) = some s.fixed := by simp [execRePairIdleTimeout]

@[simp] theorem execRePairWakeDone_fixed (pair : Nat) (s : State) :
    fixedAfter (execRePairWakeDone pair s) = some s.fixed := by simp [execRePairWakeDone]

@[simp] theorem startSmoulder_fixed (s : State) :
    (startSmoulder s).fixed = s.fixed := by simp [startSmoulder]

@[simp] theorem execSmoulderIdleTimeout_fixed (s : State) :
    fixedAfter (execSmoulderIdleTimeout s) = some s.fixed := by simp [execSmoulderIdleTimeout]

@[simp] theorem execSmoulderEntry_fixed (s : State) :
    fixedAfter (execSmoulderEntry s) = some s.fixed := by simp [execSmoulderEntry]

@[simp] theorem execSmoulderEntryDone_fixed (s : State) :
    fixedAfter (execSmoulderEntryDone s) = some s.fixed := by simp [execSmoulderEntryDone]

@[simp] theorem requestStoked_fixed (s : State) :
    (requestStoked s).fixed = s.fixed := by simp [requestStoked]

@[simp] theorem requestSmoulder_fixed (s : State) :
    (requestSmoulder s).fixed = s.fixed := by simp [requestSmoulder]

@[simp] theorem pwrInfo_fixed (s : State) (cause sensor unit : Nat) (temp : ℤ) (reason : Nat) :
    (pwrInfo s cause sensor unit temp reason).fixed = s.fixed := by simp [pwrInfo]

@[simp] theorem requestBanked_fixed (s : State) : (requestBanked s).2.fixed = s.fixed := by
  unfold requestBanked
  split <;> simp

@[simp] theorem execPwrReqStoked_fixed (func : Nat) (s : State) :
    fixedAfter (execPwrReqStoked func s) = some s.fixed := by simp [execPwrReqStoked]

@[simp] theorem execPwrReqSmoulder_fixed (func : Nat) (s : State) :
    fixedAfter (execPwrReqSmoulder func s) = some s.fixed := by simp [execPwrReqSmoulder]

@[simp] theorem execPwrReqBanked_fixed (func : Nat) (s : State) :
    fixedAfter (execPwrReqBanked func s) = some s.fixed := by simp [execPwrReqBanked]

@[simp] theorem execBankedEntered_fixed (s : State) :
    fixedAfter (execBankedEntered s) = some s.fixed := by simp [execBankedEntered]

@[simp] theorem leaveBanked_fixed (s : State) :
    (leaveBanked s).fixed = s.fixed := by simp [leaveBanked]

@[simp] theorem execBankedExit_fixed (byPerst : Bool) (s : State) :
    fixedAfter (execBankedExit byPerst s) = some s.fixed := by simp [execBankedExit]

@[simp] theorem wakeDomains_fixed (s : State) :
    (wakeDomains s).fixed = s.fixed := by simp [wakeDomains]

@[simp] theorem takeReadings_fixed (s : State) (x : PowerSample) :
    (takeReadings s x).fixed = s.fixed := by simp [takeReadings]

@[simp] theorem stepDown_fixed (s : State) (hot : Option Reading) (above : Bool) :
    (stepDown s hot above).fixed = s.fixed := by
  unfold stepDown
  extract_lets +onlyGivenNames _ _ s1 _ s2
  have h1 : s1.fixed = s.fixed := by simp [s1]
  have h2 : s2.fixed = s.fixed := by simp [s2, h1]
  clear_value s1 s2
  split
  · extract_lets +onlyGivenNames s3 s4
    have h3 : s3.fixed = s.fixed := by simp [s3, h2]
    have h4 : s4.fixed = s.fixed := by simp [s4, h3]
    clear_value s3 s4
    split <;> simp [h4]
  · simp [h2]

@[simp] theorem stepUp_fixed (s : State) : (stepUp s).fixed = s.fixed := by simp [stepUp]

@[simp] theorem stepHold_fixed (s : State) (x : PowerSample) :
    (stepHold s x).fixed = s.fixed := by simp [stepHold]

@[simp] theorem throttleEvent_fixed (before : Bool) (s : State) :
    (throttleEvent before s).fixed = s.fixed := by simp [throttleEvent]

@[simp] theorem injectThrottle_fixed (s : State) :
    (injectThrottle s).fixed = s.fixed := by simp [injectThrottle]

@[simp] theorem execPowerSample_fixed (sample : PowerSample) (s : State) :
    fixedAfter (execPowerSample sample s) = some s.fixed := by simp [execPowerSample]

@[simp] theorem execCriticalLimit_fixed (reading : Reading) (s : State) :
    fixedAfter (execCriticalLimit reading s) = some s.fixed := by simp [execCriticalLimit]

@[simp] theorem execCriticalHoldEnd_fixed (s : State) :
    fixedAfter (execCriticalHoldEnd s) = some s.fixed := by simp [execCriticalHoldEnd]

@[simp] theorem execDutyIntervalEnd_fixed (s : State) :
    fixedAfter (execDutyIntervalEnd s) = some s.fixed := by simp [execDutyIntervalEnd]

@[simp] theorem throttleTick_fixed (s : State) :
    (throttleTick s).fixed = s.fixed := by simp [throttleTick]

/-! ## `Machine/Collector` -/

@[simp] theorem clearBanks_fixed (s : State) (bank : Nat) (all : Bool) :
    (clearBanks s bank all).fixed = s.fixed := by simp [clearBanks]

@[simp] theorem execPmcClear_fixed (func bank : Nat) (all : Bool) (s : State) :
    fixedAfter (execPmcClear func bank all s) = some s.fixed := by simp [execPmcClear]

@[simp] theorem setCollect_fixed (s : State) (value : Bool) :
    (setCollect s value).fixed = s.fixed := by
  unfold setCollect
  (repeat' split) <;> simp

@[simp] theorem execPmcCollect_fixed (func : Nat) (value : Bool) (s : State) :
    fixedAfter (execPmcCollect func value s) = some s.fixed := by simp [execPmcCollect]

@[simp] theorem emptySnapshots_fixed (s : State) :
    (emptySnapshots s).fixed = s.fixed := by simp [emptySnapshots]

@[simp] theorem execPmcEmpty_fixed (func : Nat) (s : State) :
    fixedAfter (execPmcEmpty func s) = some s.fixed := by simp [execPmcEmpty]

@[simp] theorem missSnapshot_fixed (s : State) :
    (missSnapshot s).fixed = s.fixed := by simp [missSnapshot]

@[simp] theorem writeSnapshot_fixed (s : State) : (writeSnapshot s).fixed = s.fixed := by
  unfold writeSnapshot
  extract_lets +onlyGivenNames _ _
  split
  rename_i s1 e2
  have h1 : s1.fixed = s.fixed := fixed_of_snd e2 (by simp)
  simp [h1]

@[simp] theorem takeSnapshot_fixed (s : State) (busy : Bool) :
    (takeSnapshot s busy).fixed = s.fixed := by simp [takeSnapshot]

@[simp] theorem execPmcSnapshot_fixed (busy : Bool) (s : State) :
    fixedAfter (execPmcSnapshot busy s) = some s.fixed := by simp [execPmcSnapshot]

@[simp] theorem extraSnapshot_fixed (s : State) (busy : Bool) :
    (extraSnapshot s busy).fixed = s.fixed := by
  unfold extraSnapshot
  split <;> simp

@[simp] theorem execPmcSnap_fixed (func : Nat) (busy : Bool) (s : State) :
    fixedAfter (execPmcSnap func busy s) = some s.fixed := by simp [execPmcSnap]

@[simp] theorem pmcConfigWrite_fixed (s : State) (r : RegSpec) (idx v mask : Nat) :
    (pmcConfigWrite s r idx v mask).fixed = s.fixed := by simp [pmcConfigWrite]

/-! ## `Machine/FlaskOps` -/

@[simp] theorem flkRegs_fixed (s : State) : (flkRegs s).fixed = s.fixed := by simp [flkRegs]

@[simp] theorem dropFlask_fixed (s : State) : (dropFlask s).fixed = s.fixed := by simp [dropFlask]

@[simp] theorem sendJoin_fixed (s : State) (r : Nat) :
    (sendJoin s r).fixed = s.fixed := by simp [sendJoin]

@[simp] theorem joinAdvance_fixed (s : State) : (joinAdvance s).fixed = s.fixed := by
  unfold joinAdvance
  extract_lets +onlyGivenNames _ _ _ s1 s2
  have h2 : s2.fixed = s.fixed := by simp [s2, s1]
  clear_value s1 s2
  split
  · split <;> simp [h2]
  · exact h2

@[simp] theorem leaveAdvance_fixed (s : State) : (leaveAdvance s).fixed = s.fixed := by
  unfold leaveAdvance
  split
  · rfl
  · split
    · rfl
    · extract_lets +onlyGivenNames _ s1 s2
      have h1 : s1.fixed = s.fixed := by simp [s1]
      clear_value s1
      have h2 : s2.fixed = s1.fixed := by
        refine foldl_fixed _ (fun t e => ?_) _ _
        extract_lets +onlyGivenNames _ gone
        have hg : gone.fixed = t.fixed := by simp [gone]
        clear_value gone
        split
        · exact hg
        · split
          · next e => exact (openTxn_fixed e).trans hg
          · rfl
      clear_value s2
      split
      · exact h2.trans h1
      · extract_lets +onlyGivenNames s3 s4
        have h3 : s3.fixed = s.fixed := by simp [s3, h2, h1]
        have h4 : s4.fixed = s.fixed := by simp [s4, h3]
        clear_value s3 s4
        split
        · exact h4
        · extract_lets +onlyGivenNames _
          split
          · exact h4
          · extract_lets +onlyGivenNames _ _
            split
            · refine (foldl_fixed _ (fun t r => ?_) _ _).trans h4
              split
              · next e => simp [show _ = t.fixed from openTxn_fixed e]
              · rfl
            · split <;> simp [h4]

@[simp] theorem endFlask_fixed (s : State) : (endFlask s).fixed = s.fixed := by
  unfold endFlask
  split <;> simp

@[simp] theorem learnLost_fixed (s : State) (r : Nat) :
    (learnLost s r).fixed = s.fixed := by simp [learnLost]

@[simp] theorem declareLost_fixed (s : State) (r : Nat) : (declareLost s r).fixed = s.fixed := by
  unfold declareLost
  split
  · rfl
  · split
    · simp
    · extract_lets +onlyGivenNames s1
      have h1 : s1.fixed = s.fixed := by simp [s1]
      clear_value s1
      refine (foldl_fixed _ (fun t x2 => ?_) _ _).trans h1
      split
      · rename_i s3 e4
        have h3 : s3.fixed = t.fixed := openTxn_fixed e4
        exact h3
      · rfl

@[simp] theorem retryTxn_fixed (s : State) (key : Nat) : (retryTxn s key).fixed = s.fixed := by
  unfold retryTxn
  split <;> simp

/-! ## `Machine/RemoteOps` -/

@[simp] theorem sendRemote_fixed (s : State) (func dest : Nat) (rsp : Bool) (owner : Owner)
    (p : RmPkt) :
    (sendRemote s func dest rsp owner p).fixed = s.fixed := by simp [sendRemote]

@[simp] theorem takeTid_fixed (s : State) (dest tid seq : Nat) :
    (takeTid s dest tid seq).fixed = s.fixed := by simp [takeTid]

@[simp] theorem State.setRemote_fixed (s : State) (seq : Nat) (x : RemoteOp) :
    (s.setRemote seq x).fixed = s.fixed := by simp [State.setRemote]

@[simp] theorem endRemote_fixed (s : State) (seq : Nat) (r : Result) :
    (endRemote s seq r).fixed = s.fixed := by
  unfold endRemote
  split <;> simp

@[simp] theorem failRemote_fixed (s : State) (seq reason : Nat) :
    (failRemote s seq reason).fixed = s.fixed := by simp [failRemote]

@[simp] theorem remoteAcked_fixed (s : State) (seq : Nat) :
    (remoteAcked s seq).fixed = s.fixed := by
  unfold remoteAcked
  split <;> simp

@[simp] theorem askRemote_fixed (s : State) (seq func n : Nat) :
    (askRemote s seq func n).fixed = s.fixed := by
  induction n generalizing s with
  | zero => rfl
  | succ n ih =>
    unfold askRemote
    (repeat' split) <;> simp [ih]

@[simp] theorem finishRead_fixed (s : State) (seq : Nat) : (finishRead s seq).fixed = s.fixed := by
  unfold finishRead
  (repeat' split) <;> simp

@[simp] theorem finishReads_fixed (s : State) :
    (finishReads s).fixed = s.fixed := by simp [finishReads]

@[simp] theorem resumeLines_fixed (s : State) :
    (resumeLines s).fixed = s.fixed := by simp [resumeLines]

@[simp] theorem sendMcastPkt_fixed (s : State) (func seq : Nat) (m : McastOut) (e : McastEntry)
    (leaf : Option Nat) (p : Nat × List Byte) :
    (sendMcastPkt s func seq m e leaf p).fixed = s.fixed := by
  unfold sendMcastPkt
  extract_lets +onlyGivenNames _ _
  split <;> simp

@[simp] theorem mcastCheck_fixed (s : State) (seq : Nat) : (mcastCheck s seq).fixed = s.fixed := by
  unfold mcastCheck
  split <;> simp

@[simp] theorem mcastLeaf_fixed (s : State) (seq ep : Nat) (acked : Bool) :
    (mcastLeaf s seq ep acked).fixed = s.fixed := by
  unfold mcastLeaf
  split
  · rfl
  · split <;> simp

@[simp] theorem takeMcast_fixed (s : State) (p : XlPkt) :
    (takeMcast s p).fixed = s.fixed := by simp [takeMcast]

/-! ## `Machine/Transport` -/

@[simp] theorem sendNack_fixed (s : State) (p : XlPkt) (reason : Nat) :
    (sendNack s p reason).fixed = s.fixed := by simp [sendNack]

theorem deliver_fixed {s : State} {p : XlPkt} {u : State} (h : deliver s p = some u) :
    u.fixed = s.fixed := by
  refine fixed_of_some h ?_
  unfold deliver
  simp

@[simp] theorem releaseHeld_fixed (s : State) (f : RxFlow) (n : Nat) :
    (releaseHeld s f n).1.fixed = s.fixed := by
  induction n generalizing s f with
  | zero => rfl
  | succ n ih =>
    unfold releaseHeld
    split
    · rfl
    · dsimp only
      split
      · exact ih ..
      · split
        · rename_i e
          exact (ih ..).trans (deliver_fixed e)
        · simp

@[simp] theorem setFlow_fixed (s : State) (key : Nat) (f : RxFlow) :
    (setFlow s key f).fixed = s.fixed := by simp [setFlow]

@[simp] theorem takeData_fixed (s : State) (port : Nat) (p : XlPkt) :
    (takeData s port p).fixed = s.fixed := by
  unfold takeData
  extract_lets +onlyGivenNames _
  split
  · simp
  · extract_lets +onlyGivenNames _
    split
    · simp
    · extract_lets +onlyGivenNames _
      split
      · split
        · split
          rename_i s1 _ e2
          have h1 : s1.fixed = s.fixed := fixed_of_fst e2 (by simp)
          simp [h1]
        · simp
      · split
        · simp
        · rename_i s3 e4
          have h3 : s3.fixed = s.fixed := deliver_fixed e4
          split
          rename_i s5 _ e6
          have h5 : s5.fixed = s.fixed := fixed_of_fst e6 (by simp [h3])
          simp [h5]

@[simp] theorem leaveArrival_fixed (s : State) (port : Nat) (p : XlPkt) :
    (leaveArrival s port p).fixed = s.fixed := by
  unfold leaveArrival
  split <;> simp

@[simp] theorem execData_fixed (port : Nat) (bytes : List Byte) (s : State) :
    fixedAfter (execData port bytes s) = some s.fixed := by
  unfold execData
  split
  · simp
  · simp
  · split
    · simp
    · extract_lets +onlyGivenNames s1
      have h1 : s1.fixed = s.fixed := by simp [s1]
      clear_value s1
      split
      rename_i s2 e3
      have h2 : s2.fixed = s.fixed := fixed_of_snd e3 (by simp [h1])
      simp [h2]

@[simp] theorem execAckSend_fixed (slice : Nat) (s : State) :
    fixedAfter (execAckSend slice s) = some s.fixed := by simp [execAckSend]

@[simp] theorem execFlowEntryFree_fixed (src tc : Nat) (s : State) :
    fixedAfter (execFlowEntryFree src tc s) = some s.fixed := by
  unfold execFlowEntryFree
  extract_lets +onlyGivenNames _
  split <;> simp

@[simp] theorem released_fixed (s : State) (x : Sent) : (released s x).fixed = s.fixed := by
  unfold released
  split <;> simp

@[simp] theorem failSent_fixed (s : State) (x : Sent) (reason : Nat) :
    (failSent s x reason).fixed = s.fixed := by
  unfold failSent
  extract_lets +onlyGivenNames s1 s2
  have h2 : s2.fixed = s.fixed := by simp [s2, s1]
  clear_value s1 s2
  split <;> simp [h2]

@[simp] theorem dropSent_fixed (s : State) (key : Nat) (gone : Sent → Bool)
    (tell : State → Sent → State) (htell : ∀ s' b, (tell s' b).fixed = s'.fixed) :
    (dropSent s key gone tell).fixed = s.fixed := by
  unfold dropSent
  split <;> simp [htell]

@[simp] theorem recvControl_fixed (s : State) (p : XlPkt) (kind : Nat) (ok : Bool)
    (f : State → State) (hf : ∀ s', (f s').fixed = s'.fixed) :
    fixedAfter (recvControl s p kind ok f) = some s.fixed := by
  unfold recvControl
  split
  · simp
  · extract_lets +onlyGivenNames s1 s2
    have h1 : s1.fixed = s.fixed := by
      unfold s1
      split <;> simp
    have h2 : s2.fixed = s.fixed := by simp [s2, h1]
    clear_value s1 s2
    simp [h2, hf]

@[simp] theorem execAck_fixed (p : XlPkt) (s : State) :
    fixedAfter (execAck p s) = some s.fixed := by
  unfold execAck
  refine recvControl_fixed _ _ _ _ _ (fun t => ?_)
  split
  · split <;> simp
  · simp

@[simp] theorem execNack_fixed (p : XlPkt) (s : State) :
    fixedAfter (execNack p s) = some s.fixed := by
  unfold execNack
  refine recvControl_fixed _ _ _ _ _ (fun t => ?_)
  extract_lets +onlyGivenNames s1 _ _ _
  have h1 : s1.fixed = t.fixed := by simp [s1]
  clear_value s1
  split <;> simp [h1]

@[simp] theorem execNotice_fixed (p : XlPkt) (s : State) :
    fixedAfter (execNotice p s) = some s.fixed := by
  unfold execNotice
  refine recvControl_fixed _ _ _ _ _ (fun t => ?_)
  extract_lets +onlyGivenNames _
  split
  · split <;> simp
  · simp

@[simp] theorem execPacketResend_fixed (dest tc seq : Nat) (s : State) :
    fixedAfter (execPacketResend dest tc seq s) = some s.fixed := by
  unfold execPacketResend
  extract_lets +onlyGivenNames _
  split <;> simp

@[simp] theorem execMcastResend_fixed (seq : Nat) (s : State) :
    fixedAfter (execMcastResend seq s) = some s.fixed := by
  unfold execMcastResend
  split
  · extract_lets +onlyGivenNames _
    split
    · simp
    · split <;> simp
  · simp

@[simp] theorem execProbe_fixed (p : XlPkt) (s : State) :
    fixedAfter (execProbe p s) = some s.fixed := by simp [execProbe]

@[simp] theorem admitCheck_fixed (s : State) (seq : Nat) : (admitCheck s seq).fixed = s.fixed := by
  unfold admitCheck
  split <;> simp

@[simp] theorem execConfirm_fixed (p : XlPkt) (s : State) :
    fixedAfter (execConfirm p s) = some s.fixed := by simp [execConfirm]

@[simp] theorem sendProbes_fixed (s : State) (a : Admit) :
    (sendProbes s a).fixed = s.fixed := by simp [sendProbes]

@[simp] theorem execJobAdmitProbeTimer_fixed (seq : Nat) (s : State) :
    fixedAfter (execJobAdmitProbeTimer seq s) = some s.fixed := by
  unfold execJobAdmitProbeTimer
  split <;> simp

@[simp] theorem execJobAdmitTimeout_fixed (seq : Nat) (s : State) :
    fixedAfter (execJobAdmitTimeout seq s) = some s.fixed := by
  unfold execJobAdmitTimeout
  split <;> simp

@[simp] theorem fenceFlask_fixed (s : State) : (fenceFlask s).fixed = s.fixed := by
  unfold fenceFlask
  split <;> simp

@[simp] theorem fenceEndpoint_fixed (s : State) (seq : Nat) :
    (fenceEndpoint s seq).fixed = s.fixed := by simp [fenceEndpoint]

@[simp] theorem execFenceDrainDone_fixed (s : State) :
    fixedAfter (execFenceDrainDone s) = some s.fixed := by simp [execFenceDrainDone]

@[simp] theorem execQuarantineEnd_fixed (s : State) :
    fixedAfter (execQuarantineEnd s) = some s.fixed := by simp [execQuarantineEnd]

/-! ## `Machine/CommandsFabric` -/

@[simp] theorem execEpConfig_fixed (seq : Nat) (s : State) :
    fixedAfter (execEpConfig seq s) = some s.fixed := by simp [execEpConfig]

@[simp] theorem commitEpConfig_fixed (s : State) (c : OpenCmd) :
    (commitEpConfig s c).fixed = s.fixed := by simp [commitEpConfig]

@[simp] theorem execEpFence_fixed (seq : Nat) (s : State) :
    fixedAfter (execEpFence seq s) = some s.fixed := by simp [execEpFence]

@[simp] theorem execEpEpoch_fixed (seq : Nat) (s : State) :
    fixedAfter (execEpEpoch seq s) = some s.fixed := by simp [execEpEpoch]

@[simp] theorem commitEpEpoch_fixed (s : State) (c : OpenCmd) :
    (commitEpEpoch s c).fixed = s.fixed := by simp [commitEpEpoch]

@[simp] theorem execJobAdmit_fixed (seq : Nat) (s : State) :
    fixedAfter (execJobAdmit seq s) = some s.fixed := by simp [execJobAdmit]

@[simp] theorem execMcastSet_fixed (seq : Nat) (s : State) :
    fixedAfter (execMcastSet seq s) = some s.fixed := by simp [execMcastSet]

@[simp] theorem commitMcastSet_fixed (s : State) (c : OpenCmd) :
    (commitMcastSet s c).fixed = s.fixed := by simp [commitMcastSet]

@[simp] theorem execMcastClear_fixed (seq : Nat) (s : State) :
    fixedAfter (execMcastClear seq s) = some s.fixed := by simp [execMcastClear]

@[simp] theorem commitMcastClear_fixed (s : State) (c : OpenCmd) :
    (commitMcastClear s c).fixed = s.fixed := by simp [commitMcastClear]

@[simp] theorem withLocal_fixed (s : State) (seq a n : Nat) (go : State → List Byte → State)
    (hgo : ∀ s' b, (go s' b).fixed = s'.fixed) :
    (withLocal s seq a n go).fixed = s.fixed := by
  unfold withLocal
  split <;> simp [hgo]

@[simp] theorem execMcastSend_fixed (seq : Nat) (s : State) :
    fixedAfter (execMcastSend seq s) = some s.fixed := by
  unfold execMcastSend
  refine runCmd_fixed _ _ _ _ _ (fun x1 => ?_)
  extract_lets +onlyGivenNames _ _
  split <;> simp

@[simp] theorem execRemoteWrite_fixed (seq : Nat) (s : State) :
    fixedAfter (execRemoteWrite seq s) = some s.fixed := by
  unfold execRemoteWrite
  refine runCmd_fixed _ _ _ _ _ (fun x1 => ?_)
  extract_lets +onlyGivenNames _ _ _ _
  split <;> simp

@[simp] theorem execRemoteRead_fixed (seq : Nat) (s : State) :
    fixedAfter (execRemoteRead seq s) = some s.fixed := by simp [execRemoteRead]

@[simp] theorem execRemoteAtomic_fixed (seq : Nat) (s : State) :
    fixedAfter (execRemoteAtomic seq s) = some s.fixed := by
  unfold execRemoteAtomic
  refine runCmd_fixed _ _ _ _ _ (fun x1 => ?_)
  extract_lets +onlyGivenNames _
  split <;> simp

@[simp] theorem execFlaskJoin_fixed (seq : Nat) (s : State) :
    fixedAfter (execFlaskJoin seq s) = some s.fixed := by simp [execFlaskJoin]

@[simp] theorem execFlaskLeave_fixed (seq : Nat) (s : State) :
    fixedAfter (execFlaskLeave seq s) = some s.fixed := by simp [execFlaskLeave]

/-! ## `Machine/FabricRows` -/

@[simp] theorem rmConsume_fixed (s : State) (proto : Nat) (i : RmIn) :
    (rmConsume s proto i).fixed = s.fixed := by simp [rmConsume]

@[simp] theorem recvFlask_fixed (s : State) (i : RmIn) (op : Nat) (f : State → Nat → State)
    (hf : ∀ s' b, (f s' b).fixed = s'.fixed) :
    fixedAfter (recvFlask s i op f) = some s.fixed := by
  unfold recvFlask
  split
  · simp
  · extract_lets +onlyGivenNames s1
    have h1 : s1.fixed = s.fixed := by simp [s1]
    clear_value s1
    split
    · simp [h1]
    · split
      rename_i s2 e3
      have h2 : s2.fixed = s.fixed := fixed_of_snd e3 (by simp [h1])
      simp [h2, hf]

@[simp] theorem execJoin_fixed (msg : JoinMsg) (s : State) :
    fixedAfter (execJoin msg s) = some s.fixed := by
  unfold execJoin
  split
  · simp
  · extract_lets +onlyGivenNames _ _ s1
    have h1 : s1.fixed = s.fixed := by simp [s1]
    clear_value s1
    split <;> simp [h1]

@[simp] theorem execReady_fixed (i : RmIn) (s : State) :
    fixedAfter (execReady i s) = some s.fixed := by
  unfold execReady
  split
  · simp
  · extract_lets +onlyGivenNames s1
    have h1 : s1.fixed = s.fixed := by simp [s1]
    clear_value s1
    split <;> simp [h1]

@[simp] theorem execAbortJoin_fixed (i : RmIn) (s : State) :
    fixedAfter (execAbortJoin i s) = some s.fixed := by
  unfold execAbortJoin
  split
  · simp
  · extract_lets +onlyGivenNames s1
    have h1 : s1.fixed = s.fixed := by simp [s1]
    clear_value s1
    split <;> simp [h1]

@[simp] theorem execLeave_fixed (i : RmIn) (s : State) :
    fixedAfter (execLeave i s) = some s.fixed := by simp [execLeave]

@[simp] theorem execLost_fixed (i : RmIn) (s : State) :
    fixedAfter (execLost i s) = some s.fixed := by simp [execLost]

@[simp] theorem execFlaskJoinRetry_fixed (s : State) :
    fixedAfter (execFlaskJoinRetry s) = some s.fixed := by simp [execFlaskJoinRetry]

@[simp] theorem execFlaskJoinTimeout_fixed (s : State) :
    fixedAfter (execFlaskJoinTimeout s) = some s.fixed := by
  unfold execFlaskJoinTimeout
  split <;> simp

@[simp] theorem homeRequest_fixed (s : State) (i : RmIn) (r : Nat) :
    (homeRequest s i r).fixed = s.fixed := by simp [homeRequest]

@[simp] theorem execGetS_fixed (i : RmIn) (s : State) :
    fixedAfter (execGetS i s) = some s.fixed := by simp [execGetS]

@[simp] theorem execGetM_fixed (i : RmIn) (s : State) :
    fixedAfter (execGetM i s) = some s.fixed := by simp [execGetM]

@[simp] theorem execPutM_fixed (i : RmIn) (s : State) :
    fixedAfter (execPutM i s) = some s.fixed := by simp [execPutM]

@[simp] theorem giveUp_fixed (s : State) (r line : Nat) :
    (giveUp s r line).fixed = s.fixed := by simp [giveUp]

@[simp] theorem execInv_fixed (i : RmIn) (s : State) :
    fixedAfter (execInv i s) = some s.fixed := by simp [execInv]

@[simp] theorem execRecall_fixed (i : RmIn) (s : State) :
    fixedAfter (execRecall i s) = some s.fixed := by
  unfold execRecall
  refine recvFlask_fixed _ _ _ _ (fun t x1 => ?_)
  extract_lets +onlyGivenNames s2
  have h2 : s2.fixed = t.fixed := by simp [s2]
  clear_value s2
  split
  · simp [h2]
  · split <;> simp [h2]

@[simp] theorem execFlaskData_fixed (i : RmIn) (s : State) :
    fixedAfter (execFlaskData i s) = some s.fixed := by
  unfold execFlaskData
  refine recvFlask_fixed _ _ _ _ (fun t x1 => ?_)
  extract_lets +onlyGivenNames _
  split <;> simp

@[simp] theorem execFlaskAck_fixed (i : RmIn) (s : State) :
    fixedAfter (execFlaskAck i s) = some s.fixed := by
  unfold execFlaskAck
  refine recvFlask_fixed _ _ _ _ (fun t x1 => ?_)
  extract_lets +onlyGivenNames _
  split <;> simp

@[simp] theorem execFlaskRetry_fixed (rank tid : Nat) (s : State) :
    fixedAfter (execFlaskRetry rank tid s) = some s.fixed := by simp [execFlaskRetry]

@[simp] theorem execFlaskLineDrop_fixed (rank line : Nat) (s : State) :
    fixedAfter (execFlaskLineDrop rank line s) = some s.fixed := by
  unfold execFlaskLineDrop
  split <;> simp

@[simp] theorem respond_fixed (s : State) (i : RmIn) (op type : Nat) (data : List Byte)
    (slot : Bool) :
    (respond s i op type data slot).fixed = s.fixed := by simp [respond]

@[simp] theorem recvRemote_fixed (s : State) (i : RmIn) (op : Nat) (f : State → State)
    (hf : ∀ s', (f s').fixed = s'.fixed) :
    fixedAfter (recvRemote s i op f) = some s.fixed := by
  unfold recvRemote
  simp [hf]

@[simp] theorem execWrite_fixed (i : RmIn) (s : State) :
    fixedAfter (execWrite i s) = some s.fixed := by
  unfold execWrite
  refine recvRemote_fixed _ _ _ _ (fun t => ?_)
  extract_lets +onlyGivenNames _
  split
  · simp
  · split <;> simp

theorem slotFor_fixed {s : State} {i : RmIn} {u : State} (h : slotFor s i = some u) :
    u.fixed = s.fixed := by
  refine fixed_of_some h ?_
  unfold slotFor
  simp

@[simp] theorem refuseSlot_fixed (s : State) (i : RmIn) :
    (refuseSlot s i).fixed = s.fixed := by simp [refuseSlot]

@[simp] theorem execRead_fixed (i : RmIn) (s : State) :
    fixedAfter (execRead i s) = some s.fixed := by
  unfold execRead
  refine recvRemote_fixed _ _ _ _ (fun t => ?_)
  extract_lets +onlyGivenNames _
  split
  · split
    · simp
    · rename_i s1 e2
      have h1 : s1.fixed = t.fixed := slotFor_fixed e2
      simp [h1]
  · split
    · split
      · simp
      · rename_i s3 e4
        have h3 : s3.fixed = t.fixed := slotFor_fixed e4
        simp [h3]
    · simp
    · simp
    · split
      · simp
      · rename_i s5 e6
        have h5 : s5.fixed = t.fixed := slotFor_fixed e6
        simp [h5]
    · rfl

@[simp] theorem execAtomic_fixed (i : RmIn) (s : State) :
    fixedAfter (execAtomic i s) = some s.fixed := by
  unfold execAtomic
  refine recvRemote_fixed _ _ _ _ (fun t => ?_)
  extract_lets +onlyGivenNames _ _
  split
  · split
    · simp
    · rename_i s1 e2
      have h1 : s1.fixed = t.fixed := slotFor_fixed e2
      simp [h1]
  · split
    · simp
    · simp
    · simp
    · split
      · simp
      · rename_i s3 e4
        have h3 : s3.fixed = t.fixed := slotFor_fixed e4
        simp [h3]
    · split
      · simp
      · rename_i s5 e6
        have h5 : s5.fixed = t.fixed := slotFor_fixed e6
        simp [h5]
    · rfl

@[simp] theorem execReadData_fixed (i : RmIn) (s : State) :
    fixedAfter (execReadData i s) = some s.fixed := by
  unfold execReadData
  refine recvRemote_fixed _ _ _ _ (fun t => ?_)
  extract_lets +onlyGivenNames s1
  have h1 : s1.fixed = t.fixed := by simp [s1]
  clear_value s1
  split
  · exact h1
  · split
    · simp [h1]
    · split
      · exact h1
      · extract_lets +onlyGivenNames _ _ s2 _
        have h2 : s2.fixed = t.fixed := by simp [s2, h1]
        clear_value s2
        simp [h2]

@[simp] theorem execAtomicResult_fixed (i : RmIn) (s : State) :
    fixedAfter (execAtomicResult i s) = some s.fixed := by
  unfold execAtomicResult
  refine recvRemote_fixed _ _ _ _ (fun t => ?_)
  extract_lets +onlyGivenNames s1
  have h1 : s1.fixed = t.fixed := by simp [s1]
  clear_value s1
  split <;> simp [h1]

/-! ## `Machine/CommandsWsp` -/

@[simp] theorem execPageMap_fixed (seq : Nat) (s : State) :
    fixedAfter (execPageMap seq s) = some s.fixed := by
  unfold execPageMap
  simp

@[simp] theorem mapPage_fixed (p : Packet) (s : State) (q : Nat) :
    (mapPage p s q).fixed = s.fixed := by
  unfold mapPage
  extract_lets +onlyGivenNames _ s0 _ s1 s2 s3
  have h1 : s1.fixed = s.fixed := by simp [s1, s0]
  clear_value s1
  have h2 : s2.fixed = s1.fixed := by
    unfold s2
    split
    · rfl
    · exact getD_fixed _ _ fun t e => placePrimary_fixed e
  clear_value s2
  have h3 : s3.fixed = s2.fixed := by
    unfold s3
    split
    · rfl
    · exact getD_fixed _ _ fun t e => takeSlot_fixed e
  simp [h3, h2, h1]

@[simp] theorem commitPageMap_fixed (s : State) (c : OpenCmd) :
    (commitPageMap s c).fixed = s.fixed := by simp [commitPageMap]

@[simp] theorem execPageUnmap_fixed (seq : Nat) (s : State) :
    fixedAfter (execPageUnmap seq s) = some s.fixed := by
  unfold execPageUnmap
  simp

@[simp] theorem unmapPage_fixed (s : State) (q : Nat) :
    (unmapPage s q).fixed = s.fixed := by simp [unmapPage]

@[simp] theorem commitPageUnmap_fixed (s : State) (c : OpenCmd) :
    (commitPageUnmap s c).fixed = s.fixed := by simp [commitPageUnmap]

@[simp] theorem execMigrate_fixed (seq : Nat) (s : State) :
    fixedAfter (execMigrate seq s) = some s.fixed := by
  unfold execMigrate
  simp

@[simp] theorem dropReplica_fixed (s : State) (q : Nat) : (dropReplica s q).fixed = s.fixed := by
  unfold dropReplica
  split <;> simp

@[simp] theorem commitMigrate_fixed (s : State) (c : OpenCmd) :
    (commitMigrate s c).fixed = s.fixed := by simp [commitMigrate]

@[simp] theorem execPageWrite_fixed (seq : Nat) (s : State) :
    fixedAfter (execPageWrite seq s) = some s.fixed := by simp [execPageWrite]

@[simp] theorem finishPageWrite_fixed (s : State) (seq : Nat) (c : OpenCmd) :
    (finishPageWrite s seq c).fixed = s.fixed := by
  unfold finishPageWrite
  extract_lets +onlyGivenNames _ _
  split <;> simp

@[simp] theorem execPageRead_fixed (seq : Nat) (s : State) :
    fixedAfter (execPageRead seq s) = some s.fixed := by simp [execPageRead]

@[simp] theorem finishPageRead_fixed (s : State) (seq : Nat) (c : OpenCmd) :
    (finishPageRead s seq c).fixed = s.fixed := by
  unfold finishPageRead
  extract_lets +onlyGivenNames _ _ _
  split <;> simp

@[simp] theorem execPourSet_fixed (seq : Nat) (s : State) :
    fixedAfter (execPourSet seq s) = some s.fixed := by simp [execPourSet]

@[simp] theorem clearTags_fixed (s : State) (m : Nat) :
    (clearTags s m).fixed = s.fixed := by simp [clearTags]

@[simp] theorem applyEntry_fixed (m : Nat) (s : State) (e : PourEntry) :
    (applyEntry m s e).fixed = s.fixed := by
  unfold applyEntry
  split <;> simp

@[simp] theorem queuePins_fixed (s : State) (ps : List Nat) : (queuePins s ps).fixed = s.fixed := by
  unfold queuePins
  refine foldl_fixed _ (fun t x1 => ?_) _ _
  split <;> simp

@[simp] theorem commitPourSet_fixed (s : State) (c : OpenCmd) :
    (commitPourSet s c).fixed = s.fixed := by simp [commitPourSet]

@[simp] theorem execPourClear_fixed (seq : Nat) (s : State) :
    fixedAfter (execPourClear seq s) = some s.fixed := by simp [execPourClear]

@[simp] theorem commitPourClear_fixed (s : State) (c : OpenCmd) :
    (commitPourClear s c).fixed = s.fixed := by simp [commitPourClear]

@[simp] theorem execPageFetchDone_fixed (page : Nat) (read : NandRead) (s : State) :
    fixedAfter (execPageFetchDone page read s) = some s.fixed := by
  unfold execPageFetchDone
  refine (settledOut_fixed ..).trans ?_
  split
  · extract_lets +onlyGivenNames f1
    have h1 : ∀ t, (f1 t).fixed = t.fixed := by
      intro t
      unfold f1
      simp
    clear_value f1
    split
    · simp [h1]
    · split
      · simp [h1]
      · split
        · simp
        · rename_i s2 e3
          have h2 : s2.fixed = s.fixed := placeFetch_fixed e3
          simp [h2, h1]
  · simp

@[simp] theorem writeBack_fixed (s : State) (q : Nat) :
    (writeBack s q).fixed = s.fixed := by simp [writeBack]

theorem reachTier_fixed {s : State} {q t pref : Nat} {read : NandRead} {u : State}
    (h : reachTier s q t pref read = some u) :
    u.fixed = s.fixed := by
  unfold reachTier at h
  split at h
  · cases h; rfl
  · extract_lets +onlyGivenNames s1 up at h
    have h1 : s1.fixed = s.fixed := by simp [s1]
    clear_value s1
    have hup : ∀ v, up = some v → v.fixed = s1.fixed := by
      intro v e
      unfold up at e
      split at e
      · obtain ⟨r, hr, rfl⟩ := Option.map_eq_some_iff.mp e
        simp [takeSlot_fixed hr]
      · split at e
        · obtain ⟨r, hr, rfl⟩ := Option.map_eq_some_iff.mp e
          simp [placeFetch_fixed hr]
        · split at e <;> cases e <;> simp
    clear_value up
    obtain ⟨v, hv, rfl⟩ := Option.map_eq_some_iff.mp h
    simp [hup v hv, h1]

@[simp] theorem movePref_fixed (s : State) (q pref : Nat) :
    (movePref s q pref).fixed = s.fixed := by
  unfold movePref
  (repeat' split) <;> simp

@[simp] theorem failMigrate_fixed (s : State) (seq q : Nat) :
    (failMigrate s seq q).fixed = s.fixed := by simp [failMigrate]

@[simp] theorem execPageMoveDone_fixed (page : Nat) (kind : MoveDone) (s : State) :
    fixedAfter (execPageMoveDone page kind s) = some s.fixed := by
  unfold execPageMoveDone
  refine (settledOut_fixed ..).trans ?_
  split
  · simp
  · split
    · simp
    · split
      · simp
      · split
        · simp
        · split
          · simp
          · extract_lets +onlyGivenNames _
            split
            · simp
            · rename_i s1 e2
              have h1 : s1.fixed = s.fixed := reachTier_fixed e2
              simp [h1]
  · simp

@[simp] theorem finishMigrate_fixed (s : State) (seq : Nat) :
    (finishMigrate s seq).fixed = s.fixed := by
  unfold finishMigrate
  (repeat' split) <;> simp

@[simp] theorem execStackFailure_fixed (stack : Nat) (s : State) :
    fixedAfter (execStackFailure stack s) = some s.fixed := by simp [execStackFailure]

@[simp] theorem execPatrolScrub_fixed (stack frame : Nat) (result : ScrubResult) (s : State) :
    fixedAfter (execPatrolScrub stack frame result s) = some s.fixed := by
  unfold execPatrolScrub
  refine (settledOut_fixed ..).trans ?_
  split
  · simp
  · split
    · simp
    · split
      · simp
      · extract_lets +onlyGivenNames s1 s2 s3
        have h1 : s1.fixed = s.fixed := by simp [s1]
        have h2 : s2.fixed = s.fixed := by
          unfold s2
          split <;> simp [h1]
        have h3 : s3.fixed = s.fixed := by simp [s3, h2]
        clear_value s1 s2 s3
        simp [h3]

@[simp] theorem countMoved_fixed (s : State) (blocks units : Nat) :
    (countMoved s blocks units).fixed = s.fixed := by simp [countMoved]

@[simp] theorem failChannel_fixed (s : State) (channel : Nat) :
    (failChannel s channel).fixed = s.fixed := by simp [failChannel]

@[simp] theorem losePatrolled_fixed (s : State) (q : Nat) :
    (losePatrolled s q).fixed = s.fixed := by
  unfold losePatrolled
  split <;> simp

@[simp] theorem nandPatrol_fixed (s : State) (r : NandRead) (u n : Nat) (pages : List Nat) :
    (nandPatrol s r u n pages).fixed = s.fixed := by simp [nandPatrol]

@[simp] theorem programFail_fixed (s : State) (ch : Nat) (low : Bool) :
    (programFail s ch low).fixed = s.fixed := by simp [programFail]

@[simp] theorem execNandUpkeep_fixed (action : Upkeep) (s : State) :
    fixedAfter (execNandUpkeep action s) = some s.fixed := by
  unfold execNandUpkeep
  split
  · simp
  · split <;> simp

@[simp] theorem execNandChannelFail_fixed (channel : Nat) (s : State) :
    fixedAfter (execNandChannelFail channel s) = some s.fixed := by simp [execNandChannelFail]

@[simp] theorem bar2Errors_fixed (s : State) (f o n : Nat) (write : Bool) :
    (bar2Errors s f o n write).fixed = s.fixed := by
  unfold bar2Errors
  refine foldl_fixed _ (fun t x1 => ?_) _ _
  split <;> simp

@[simp] theorem execBar2Read_fixed (func offset len : Nat) (s : State) :
    fixedAfter (execBar2Read func offset len s) = some s.fixed := by
  unfold execBar2Read
  extract_lets +onlyGivenNames s1
  have h1 : s1.fixed = s.fixed := by simp [s1]
  clear_value s1
  split
  · simp [h1]
  · extract_lets +onlyGivenNames _ s2 s3
    have h3 : s3.fixed = s.fixed := by simp [s3, s2, h1]
    clear_value s2 s3
    split
    · simp [h3]
    · split <;> simp [h3]

@[simp] theorem bar2Put_fixed (s : State) (a : Nat) (b : Byte) :
    (bar2Put s a b).fixed = s.fixed := by
  unfold bar2Put
  extract_lets +onlyGivenNames _
  (repeat' split) <;> simp

@[simp] theorem bar2Store_fixed (s : State) (f o : Nat) (bs : List Byte) :
    (bar2Store s f o bs).fixed = s.fixed := by
  induction bs generalizing s o with
  | nil => rfl
  | cons b bs ih =>
    refine (ih _ _).trans ?_
    split <;> simp

@[simp] theorem poisonedWrite_fixed (s : State) (func : Nat) :
    (poisonedWrite s func).fixed = s.fixed := by simp [poisonedWrite]

@[simp] theorem execBar2Write_fixed (func offset : Nat) (data : HostData) (s : State) :
    fixedAfter (execBar2Write func offset data s) = some s.fixed := by
  unfold execBar2Write
  extract_lets +onlyGivenNames s1 _
  have h1 : s1.fixed = s.fixed := by simp [s1]
  clear_value s1
  split
  · simp [h1]
  · split
    · simp [h1]
    · extract_lets +onlyGivenNames s2
      have h2 : s2.fixed = s.fixed := by simp [s2, h1]
      clear_value s2
      split <;> simp [h2]

/-! ## `Machine/CommandsProg` -/

@[simp] theorem beginPack_fixed (s : State) (seq : Nat) (c : OpenCmd) :
    (beginPack s seq c).fixed = s.fixed := by
  unfold beginPack
  split <;> simp

@[simp] theorem execPack24_fixed (seq : Nat) (s : State) :
    fixedAfter (execPack24 seq s) = some s.fixed := by simp [execPack24]

@[simp] theorem execShadowBuild_fixed (seq : Nat) (s : State) :
    fixedAfter (execShadowBuild seq s) = some s.fixed := by simp [execShadowBuild]

@[simp] theorem finishPack_fixed (s : State) (seq : Nat) (c : OpenCmd) :
    (finishPack s seq c).fixed = s.fixed := by
  unfold finishPack
  extract_lets +onlyGivenNames _ d1
  clear_value d1
  split <;> simp

@[simp] theorem holdTiles_fixed (s : State) (seq : Nat) (ts : List Nat) :
    (holdTiles s seq ts).fixed = s.fixed := by simp [holdTiles]

@[simp] theorem loadAccepted_fixed (s : State) (seq : Nat) :
    (loadAccepted s seq).fixed = s.fixed := by
  unfold loadAccepted
  split <;> simp

@[simp] theorem freeTiles_fixed (s : State) (seq : Nat) (ts : List Nat) :
    (freeTiles s seq ts).fixed = s.fixed := by simp [freeTiles]

@[simp] theorem loadRead_fixed (s : State) (seq : Nat) : (loadRead s seq).fixed = s.fixed := by
  unfold loadRead
  split <;> simp

@[simp] theorem execLoad_fixed (seq : Nat) (s : State) :
    fixedAfter (execLoad seq s) = some s.fixed := by
  unfold execLoad
  split
  · simp
  · extract_lets +onlyGivenNames _
    split <;> simp

@[simp] theorem unlockLoad_fixed (s : State) (seq : Nat) :
    (unlockLoad s seq).fixed = s.fixed := by simp [unlockLoad]

@[simp] theorem finishLoad_fixed (s : State) (seq : Nat) (c : OpenCmd) (failed : Bool) :
    (finishLoad s seq c failed).fixed = s.fixed := by simp [finishLoad]

@[simp] theorem commitLoad_fixed (s : State) (seq : Nat) (c : OpenCmd) :
    (commitLoad s seq c).fixed = s.fixed := by simp [commitLoad]

@[simp] theorem execUnstage_fixed (seq : Nat) (s : State) :
    fixedAfter (execUnstage seq s) = some s.fixed := by simp [execUnstage]

@[simp] theorem commitUnstage_fixed (s : State) (c : OpenCmd) :
    (commitUnstage s c).fixed = s.fixed := by simp [commitUnstage]

@[simp] theorem execTileTest_fixed (seq : Nat) (s : State) :
    fixedAfter (execTileTest seq s) = some s.fixed := by simp [execTileTest]

@[simp] theorem finishTileTest_fixed (s : State) (seq : Nat) (c : OpenCmd) (failed : Bool) :
    (finishTileTest s seq c failed).fixed = s.fixed := by
  unfold finishTileTest
  extract_lets +onlyGivenNames _
  split
  · split
    rename_i s1 e2
    have h1 : s1.fixed = s.fixed := fixed_of_snd e2 (by simp)
    simp [h1]
  · simp

@[simp] theorem execStageDone_fixed (tile : Nat) (s : State) :
    fixedAfter (execStageDone tile s) = some s.fixed := by
  unfold execStageDone
  split
  · extract_lets +onlyGivenNames _
    split
    · simp
    · split <;> simp
  · simp

/-! ## `Machine/Durable` -/

@[simp] theorem modeSwitch_fixed (s : State) (seq : Nat) (x : LStep) (toEc : Bool) :
    (modeSwitch s seq x toEc).fixed = s.fixed := by simp [modeSwitch]

@[simp] theorem commitStep_fixed (s : State) (seq : Nat) : (commitStep s seq).fixed = s.fixed := by
  unfold commitStep
  split
  · rfl
  · extract_lets +onlyGivenNames _ s1 _ _ s2 s3
    have h1 : s1.fixed = s.fixed := by simp [s1]
    have h2 : s2.fixed = s.fixed := by
      unfold s2
      split
      · exact h1
      · split <;> simp [h1]
    have h3 : s3.fixed = s.fixed := by simp [s3, h2]
    clear_value s1 s2 s3
    simp [h3]

@[simp] theorem commitCancel_fixed (s : State) (seq : Nat) (c : OpenCmd) :
    (commitCancel s seq c).fixed = s.fixed := by simp [commitCancel]

@[simp] theorem commitOp_fixed (s : State) (seq : Nat) (c : OpenCmd) :
    (commitOp s seq c).fixed = s.fixed := by simp [commitOp]

@[simp] theorem nextStep_fixed (s : State) (ctx st : Nat) :
    (nextStep s ctx st).fixed = s.fixed := by
  unfold nextStep
  split <;> simp

@[simp] theorem settleStream_fixed (s : State) (x : Nat × Nat × Stream) :
    (settleStream s x).fixed = s.fixed := by
  unfold settleStream
  extract_lets +onlyGivenNames _ d1
  clear_value d1
  split <;> simp

@[simp] theorem settleStreams_fixed (s : State) :
    (settleStreams s).fixed = s.fixed := by simp [settleStreams]

@[simp] theorem commitCmd_fixed (s : State) (seq : Nat) (c : OpenCmd) :
    (commitCmd s seq c).fixed = s.fixed := by simp [commitCmd]

@[simp] theorem entryDurable_fixed (s : State) (e : JEntry) :
    (entryDurable s e).fixed = s.fixed := by
  unfold entryDurable
  split
  · simp
  · (repeat' split) <;> simp

@[simp] theorem oldestDurable_fixed (s : State) : (oldestDurable s).fixed = s.fixed := by
  unfold oldestDurable
  split
  · rfl
  · extract_lets +onlyGivenNames _ _ s1
    have h1 : s1.fixed = s.fixed := by simp [s1]
    clear_value s1
    split <;> simp [h1]

@[simp] theorem entriesDurable_fixed (n : Nat) (s : State) :
    (entriesDurable n s).fixed = s.fixed := by
  induction n generalizing s with
  | zero => rfl
  | succ n ih => simp [entriesDurable, ih]

@[simp] theorem faultUnread_fixed (s : State) :
    (faultUnread s).fixed = s.fixed := by simp [faultUnread]

@[simp] theorem execJournalEntryDurable_fixed (retries : Nat) (oneCopy : Bool) (s : State) :
    fixedAfter (execJournalEntryDurable retries oneCopy s) = some s.fixed := by
  unfold execJournalEntryDurable
  split
  · simp
  · split
    rename_i s1 e2
    have h1 : s1.fixed = s.fixed := fixed_of_snd e2 (by simp)
    simp [h1]

@[simp] theorem execCommandWorkDone_fixed (seq : Nat) (failed : Bool) (s : State) :
    fixedAfter (execCommandWorkDone seq failed s) = some s.fixed := by
  unfold execCommandWorkDone
  split <;> simp

@[simp] theorem rewriteReplies_fixed (s : State) : (rewriteReplies s).fixed = s.fixed := by
  unfold rewriteReplies
  refine foldl_fixed _ (fun t x1 => ?_) _ _
  extract_lets +onlyGivenNames _ _ _ _ _
  split
  · rfl
  · extract_lets +onlyGivenNames _ _ s2
    have h2 : s2.fixed = t.fixed := by simp [s2]
    clear_value s2
    simp [h2]

@[simp] theorem rerunHeld_fixed (s : State) (e : Nat × OpenCmd) :
    (rerunHeld s e).fixed = s.fixed := by
  unfold rerunHeld
  extract_lets +onlyGivenNames _ _ _
  (repeat' split) <;> simp

@[simp] theorem failover_fixed (s : State) : (failover s).fixed = s.fixed := by simp [failover]

@[simp] theorem execHeartbeat_fixed (s : State) :
    fixedAfter (execHeartbeat s) = some s.fixed := by simp [execHeartbeat]

@[simp] theorem execHeartbeatTimeout_fixed (s : State) :
    fixedAfter (execHeartbeatTimeout s) = some s.fixed := by simp [execHeartbeatTimeout]

@[simp] theorem execCoreErrorReport_fixed (s : State) :
    fixedAfter (execCoreErrorReport s) = some s.fixed := by simp [execCoreErrorReport]

@[simp] theorem execStandbySelfTestDone_fixed (passed : Bool) (s : State) :
    fixedAfter (execStandbySelfTestDone passed s) = some s.fixed := by
  simp [execStandbySelfTestDone]

/-! ## `Machine/CommandProc` -/

@[simp] theorem cpErr_fixed (s : State) (ref : FieldRef) (f q value : Nat) :
    (cpErr s ref f q value).fixed = s.fixed := by simp [cpErr]

@[simp] theorem sqTail_fixed (s : State) (func queue value : Nat) :
    (sqTail s func queue value).fixed = s.fixed := by
  unfold sqTail
  split <;> simp

theorem refusePacket_fixed {s : State} {f q slot cq : Nat} {p : Packet} {why : Nat × Nat}
    {gone : Bool} {u : State} (h : refusePacket s f q slot cq p why gone = some u) :
    u.fixed = s.fixed := by
  refine fixed_of_some h ?_
  unfold refusePacket
  (repeat' split) <;> simp

@[simp] theorem refuseHeld_fixed (s : State) (f q : Nat) : (refuseHeld s f q).fixed = s.fixed := by
  unfold refuseHeld
  split
  · rfl
  · split
    · rfl
    · split
      · rfl
      · exact getD_fixed _ _ fun t e => (refusePacket_fixed e).trans (by simp)

@[simp] theorem dropOrphan_fixed (s : State) (o : Orphan) :
    (dropOrphan s o).fixed = s.fixed := by simp [dropOrphan]

@[simp] theorem refuseOrphan_fixed (s : State) (o : Orphan) :
    (refuseOrphan s o).fixed = s.fixed := by
  unfold refuseOrphan
  split
  · rfl
  · exact getD_fixed _ _ fun t e => (refusePacket_fixed e).trans (by simp)

@[simp] theorem serveRefusals_fixed (s : State) (f q : Nat) :
    (serveRefusals s f q).fixed = s.fixed := by simp [serveRefusals]

@[simp] theorem returnGroupEntries_fixed (s : State) (f q value : Nat) (c : Cq) :
    (returnGroupEntries s f q value c).fixed = s.fixed := by simp [returnGroupEntries]

@[simp] theorem cqHead_fixed (s : State) (func queue value : Nat) :
    (cqHead s func queue value).fixed = s.fixed := by
  unfold cqHead
  split <;> simp

@[simp] theorem bar4Write_fixed (s : State) (func off value : Nat) :
    (bar4Write s func off value).fixed = s.fixed := by simp [bar4Write]

@[simp] theorem execSqDoorbell_fixed (func queue value : Nat) (s : State) :
    fixedAfter (execSqDoorbell func queue value s) = some s.fixed := by simp [execSqDoorbell]

@[simp] theorem execCqDoorbell_fixed (func queue value : Nat) (s : State) :
    fixedAfter (execCqDoorbell func queue value s) = some s.fixed := by simp [execCqDoorbell]

@[simp] theorem fetchOne_fixed (s : State) (r : FetchRead) : (fetchOne s r).fixed = s.fixed := by
  unfold fetchOne
  split <;> simp

@[simp] theorem noteStall_fixed (s : State) : (noteStall s).fixed = s.fixed := by simp [noteStall]

@[simp] theorem execCommandFetch_fixed (reads : List FetchRead) (s : State) :
    fixedAfter (execCommandFetch reads s) = some s.fixed := by simp [execCommandFetch]

theorem admitPacket_fixed {s : State} {func queue slot cq : Nat} {p : Packet} {u : State}
    (h : admitPacket s func queue slot cq p = some u) :
    u.fixed = s.fixed := by
  refine fixed_of_some h ?_
  unfold admitPacket
  split
  · simp
  · (repeat' split) <;> simp

@[simp] theorem takeOrphan_fixed (s : State) (o : Orphan) : (takeOrphan s o).fixed = s.fixed := by
  unfold takeOrphan
  split
  · simp
  · split
    · rfl
    · rename_i s1 e2
      have h1 : s1.fixed = s.fixed := (admitPacket_fixed e2).trans (by simp)
      simp [h1]

@[simp] theorem execAccept_fixed (func queue : Nat) (s : State) :
    fixedAfter (execAccept func queue s) = some s.fixed := by
  unfold execAccept
  split
  · simp
  · simp
  · split
    · simp
    · split
      · simp
      · exact fixedAfter_next_eq (getD_fixed _ _ fun t e => (admitPacket_fixed e).trans (by simp))

@[simp] theorem execPayloadRead_fixed (seq : Nat) (bytes : List Byte) (failedAt : Option Nat)
    (s : State) :
    fixedAfter (execPayloadRead seq bytes failedAt s) = some s.fixed := by
  unfold execPayloadRead
  split
  · simp
  · (repeat' split) <;> simp

@[simp] theorem execCqAggTimeout_fixed (func queue : Nat) (s : State) :
    fixedAfter (execCqAggTimeout func queue s) = some s.fixed := by
  unfold execCqAggTimeout
  split <;> simp

@[simp] theorem execJrnBaseWrite_fixed (base size : Nat) (s : State) :
    fixedAfter (execJrnBaseWrite base size s) = some s.fixed := by simp [execJrnBaseWrite]

@[simp] theorem restartSq0_fixed (s : State) (f : Nat) :
    (restartSq0 s f).fixed = s.fixed := by simp [restartSq0]

@[simp] theorem restartCq0_fixed (s : State) (f : Nat) :
    (restartCq0 s f).fixed = s.fixed := by simp [restartCq0]

@[simp] theorem execAdminQueueWrite_fixed (func : Nat) (which : AdminReg) (value : Word)
    (s : State) :
    fixedAfter (execAdminQueueWrite func which value s) = some s.fixed := by
  unfold execAdminQueueWrite
  split
  · simp
  · extract_lets +onlyGivenNames _
    split
    · simp
    · simp
    · extract_lets +onlyGivenNames _ _ _ _
      split
      · simp
      · extract_lets +onlyGivenNames s1 s2
        have h2 : s2.fixed = s.fixed := by simp [s2, s1]
        clear_value s1 s2
        split
        · simp [h2]
        · split <;> simp [h2]

@[simp] theorem execFetchEnable_fixed (func : Nat) (value : Bool) (s : State) :
    fixedAfter (execFetchEnable func value s) = some s.fixed := by
  unfold execFetchEnable
  extract_lets +onlyGivenNames s1
  have h1 : s1.fixed = s.fixed := by simp [s1]
  clear_value s1
  split
  · simp [h1]
  · extract_lets +onlyGivenNames s2
    have h2 : s2.fixed = s.fixed := by
      unfold s2
      split <;> simp [h1]
    clear_value s2
    split <;> simp [h2]

@[simp] theorem execCplTimeout_fixed (source : CplSource) (s : State) :
    fixedAfter (execCplTimeout source s) = some s.fixed := by
  unfold execCplTimeout
  extract_lets +onlyGivenNames f1
  have h1 : ∀ t x2, (f1 t x2).fixed = t.fixed := by
    intro t x2
    unfold f1
    simp
  clear_value f1
  (repeat' split) <;> simp [h1]

/-! ## `Machine/Reset` -/

@[simp] theorem spoilDest_fixed (s : State) (c : OpenCmd) : (spoilDest s c).fixed = s.fixed := by
  unfold spoilDest
  simp

@[simp] theorem dropWork_fixed (s : State) (seq : Nat) :
    (dropWork s seq).fixed = s.fixed := by simp [dropWork]

@[simp] theorem abandonCmd_fixed (s : State) (e : Nat × OpenCmd) :
    (abandonCmd s e).fixed = s.fixed := by simp [abandonCmd]

@[simp] theorem enterHeld_fixed (s : State) (f q slot : Nat) (p : Packet) :
    (enterHeld s f q slot p).fixed = s.fixed := by
  unfold enterHeld
  split <;> simp

@[simp] theorem enterAllHeld_fixed (s : State) (p : Nat → Bool) :
    (enterAllHeld s p).fixed = s.fixed := by
  unfold enterAllHeld
  extract_lets +onlyGivenNames s1
  have h1 : s1.fixed = s.fixed := by simp [s1]
  clear_value s1
  refine (foldl_fixed _ (fun t x2 => ?_) _ _).trans h1
  split <;> simp

@[simp] theorem abandonAll_fixed (s : State) (p : Nat → Bool) :
    (abandonAll s p).fixed = s.fixed := by simp [abandonAll]

@[simp] theorem endTestMode_fixed (s : State) :
    (endTestMode s).fixed = s.fixed := by simp [endTestMode]

@[simp] theorem linkDown_fixed (s : State) : (linkDown s).fixed = s.fixed := by simp [linkDown]

@[simp] theorem wipeMain_fixed (s : State) : (wipeMain s).fixed = s.fixed := by simp [wipeMain]

@[simp] theorem closeAllStreams_fixed (s : State) :
    (closeAllStreams s).fixed = s.fixed := by simp [closeAllStreams]

@[simp] theorem warmEffects_fixed (s : State) : (warmEffects s).fixed = s.fixed := by
  unfold warmEffects
  extract_lets +onlyGivenNames s1 s2 s3 s4 _ _ _ _ _ _ _ s5 s6
  have h6 : s6.fixed = s.fixed := by simp [s6, s5, s4, s3, s2, s1]
  clear_value s1 s2 s3 s4 s5 s6
  simp [h6]

@[simp] theorem noteReset_fixed (s : State) (kind source : Nat) (counter : FieldRef) :
    (noteReset s kind source counter).fixed = s.fixed := by simp [noteReset]

@[simp] theorem warmReset_fixed (s : State) (source : Nat) :
    (warmReset s source).fixed = s.fixed := by simp [warmReset]

@[simp] theorem execRstCtlWarm_fixed (func key : Nat) (s : State) :
    fixedAfter (execRstCtlWarm func key s) = some s.fixed := by simp [execRstCtlWarm]

@[simp] theorem chainWarmReset_fixed (s : State) :
    (chainWarmReset s).fixed = s.fixed := by simp [chainWarmReset]

@[simp] theorem execAutoWarmTimeout_fixed (s : State) :
    fixedAfter (execAutoWarmTimeout s) = some s.fixed := by simp [execAutoWarmTimeout]

@[simp] theorem conventionalReset_fixed (s : State) :
    (conventionalReset s).fixed = s.fixed := by simp [conventionalReset]

@[simp] theorem execPerstAssert_fixed (s : State) :
    fixedAfter (execPerstAssert s) = some s.fixed := by simp [execPerstAssert]

@[simp] theorem execHotReset_fixed (s : State) :
    fixedAfter (execHotReset s) = some s.fixed := by simp [execHotReset]

@[simp] theorem pcieDown_fixed (s : State) : (pcieDown s).fixed = s.fixed := by simp [pcieDown]

@[simp] theorem execPcieLinkDown_fixed (s : State) :
    fixedAfter (execPcieLinkDown s) = some s.fixed := by simp [execPcieLinkDown]

@[simp] theorem execPllLockLost_fixed (pll : Nat) (s : State) :
    fixedAfter (execPllLockLost pll s) = some s.fixed := by simp [execPllLockLost]

@[simp] theorem execWakeComplete_fixed (s : State) :
    fixedAfter (execWakeComplete s) = some s.fixed := by
  unfold execWakeComplete
  split
  · simp
  · extract_lets +onlyGivenNames s1 _ _ s2
    have h2 : s2.fixed = s.fixed := by simp [s2, s1]
    clear_value s1 s2
    split <;> simp [h2]

@[simp] theorem startBringUp_fixed (s : State) (kind : ResetKind) :
    (startBringUp s kind).fixed = s.fixed := by simp [startBringUp]

@[simp] theorem moduleReset_fixed (s : State) (source : Nat) :
    (moduleReset s source).fixed = s.fixed := by simp [moduleReset]

@[simp] theorem execRstCtlModule_fixed (func key : Nat) (s : State) :
    fixedAfter (execRstCtlModule func key s) = some s.fixed := by simp [execRstCtlModule]

@[simp] theorem execDbgRst_fixed (s : State) :
    fixedAfter (execDbgRst s) = some s.fixed := by simp [execDbgRst]

@[simp] theorem execTripLimit_fixed (reading : Reading) (s : State) :
    fixedAfter (execTripLimit reading s) = some s.fixed := by simp [execTripLimit]

@[simp] theorem execMainPowerLoss_fixed (s : State) :
    fixedAfter (execMainPowerLoss s) = some s.fixed := by simp [execMainPowerLoss]

@[simp] theorem execMainPowerUp_fixed (s : State) :
    fixedAfter (execMainPowerUp s) = some s.fixed := by simp [execMainPowerUp]

@[simp] theorem readMap_fixed (s : State) : (readMap s).fixed = s.fixed := by simp [readMap]

@[simp] theorem rebuildMap_fixed (s : State) (x : SelfTest) : (rebuildMap s x).fixed = s.fixed := by
  unfold rebuildMap
  extract_lets +onlyGivenNames _ _ _ _ s1 s2
  have h1 : s1.fixed = s.fixed := by simp [s1]
  clear_value s1
  have h2 : s2.fixed = s1.fixed := by
    refine foldl_fixed _ (fun t i => ?_) _ _
    split <;> simp
  clear_value s2
  simp [h2, h1]

@[simp] theorem rebuildWsp_fixed (s : State) :
    (rebuildWsp s).fixed = s.fixed := by simp [rebuildWsp]

@[simp] theorem startJournal_fixed (s : State) (kind : ResetKind) :
    (startJournal s kind).fixed = s.fixed := by simp [startJournal]

@[simp] theorem bootCores_fixed (s : State) : (bootCores s).fixed = s.fixed := by simp [bootCores]

@[simp] theorem execResetComplete_fixed (test : Option SelfTest) (s : State) :
    fixedAfter (execResetComplete test s) = some s.fixed := by
  unfold execResetComplete
  split
  · simp
  · extract_lets +onlyGivenNames s1 s2
    have h1 : s1.fixed = s.fixed := by simp [s1]
    clear_value s1
    have h2 : s2.fixed = s.fixed := by
      unfold s2
      split <;> simp [h1]
    clear_value s2
    extract_lets +onlyGivenNames _ s3 s4
    have h3 : s3.fixed = s.fixed := by simp [s3, h2]
    clear_value s3
    have h4 : s4.fixed = s.fixed := by
      unfold s4
      split <;> simp [h2, h3]
    clear_value s4
    simp [h4]

@[simp] theorem bringUpFails_fixed (s : State) (unit : Nat) :
    (bringUpFails s unit).fixed = s.fixed := by simp [bringUpFails]

@[simp] theorem execBringupStepTimeout_fixed (step unit : Nat) (s : State) :
    fixedAfter (execBringupStepTimeout step unit s) = some s.fixed := by
  simp [execBringupStepTimeout]

@[simp] theorem clearFunction_fixed (s : State) (f : Nat) :
    (clearFunction s f).fixed = s.fixed := by simp [clearFunction]

@[simp] theorem resetFunction_fixed (s : State) (f : Nat) :
    (resetFunction s f).fixed = s.fixed := by
  unfold resetFunction
  extract_lets +onlyGivenNames s1 _ s2 s3 s4 _ _
  have h4 : s4.fixed = s.fixed := by simp [s4, s3, s2, s1]
  clear_value s1 s2 s3 s4
  simp [h4]

@[simp] theorem dropVfs_fixed (s : State) : (dropVfs s).fixed = s.fixed := by simp [dropVfs]

@[simp] theorem configServed_fixed (s : State) (f : State → State)
    (hf : ∀ s', (f s').fixed = s'.fixed) :
    (configServed s f).fixed = s.fixed := by
  unfold configServed
  simp [hf]

@[simp] theorem execFlr_fixed (func : Nat) (s : State) :
    fixedAfter (execFlr func s) = some s.fixed := by simp [execFlr]

/-! ## `Machine/Reliability` -/

@[simp] theorem execEngineHang_fixed (tile : Nat) (s : State) :
    fixedAfter (execEngineHang tile s) = some s.fixed := by simp [execEngineHang]

@[simp] theorem execWakeFail_fixed (tile : Nat) (s : State) :
    fixedAfter (execWakeFail tile s) = some s.fixed := by simp [execWakeFail]

@[simp] theorem execBondLinkFail_fixed (tile : Nat) (s : State) :
    fixedAfter (execBondLinkFail tile s) = some s.fixed := by simp [execBondLinkFail]

@[simp] theorem retire_fixed (s : State) (func logical : Nat) :
    (retire s func logical).fixed = s.fixed := by
  unfold retire
  split
  · rfl
  · split <;> simp

@[simp] theorem execRetire_fixed (func logical : Nat) (s : State) :
    fixedAfter (execRetire func logical s) = some s.fixed := by simp [execRetire]

@[simp] theorem execSpareSelfTest_fixed (tile : Nat) (passed : Bool) (s : State) :
    fixedAfter (execSpareSelfTest tile passed s) = some s.fixed := by simp [execSpareSelfTest]

@[simp] theorem adopt_fixed (s : State) (l t : Nat) : (adopt s l t).fixed = s.fixed := by
  unfold adopt
  extract_lets +onlyGivenNames _ s1 s2
  have h1 : s1.fixed = s.fixed := by simp [s1]
  have h2 : s2.fixed = s.fixed := by
    unfold s2
    split <;> simp [h1]
  clear_value s1 s2
  simp [h2]

@[simp] theorem reinstate_fixed (s : State) (func phys : Nat) :
    (reinstate s func phys).fixed = s.fixed := by
  unfold reinstate
  split
  · rfl
  · split
    · extract_lets +onlyGivenNames s1
      have h1 : s1.fixed = s.fixed := by simp [s1]
      clear_value s1
      split <;> simp [h1]
    · simp

@[simp] theorem execReinstate_fixed (func phys : Nat) (s : State) :
    fixedAfter (execReinstate func phys s) = some s.fixed := by simp [execReinstate]

@[simp] theorem execRepairStoreWrite_fixed (ok : Bool) (s : State) :
    fixedAfter (execRepairStoreWrite ok s) = some s.fixed := by simp [execRepairStoreWrite]

/-! ## `Machine/Mctp` -/

@[simp] theorem setMctpEid_fixed (s : State) (binding eid : Nat) :
    (setMctpEid s binding eid).fixed = s.fixed := by simp [setMctpEid]

@[simp] theorem mctpSend_fixed (s : State) (m : MctpOut) :
    (mctpSend s m).fixed = s.fixed := by simp [mctpSend]

@[simp] theorem mctpDiscard_fixed (s : State) :
    (mctpDiscard s).fixed = s.fixed := by simp [mctpDiscard]

@[simp] theorem control_fixed (s : State) (binding eid command : Nat) (data : List Byte)
    (code : Nat) :
    (control s binding eid command data code).fixed = s.fixed := by simp [control]

@[simp] theorem spdmSend_fixed (s : State) (binding eid : Nat) (m : SpdmMsg) :
    (spdmSend s binding eid m).fixed = s.fixed := by simp [spdmSend]

@[simp] theorem spdmError_fixed (s : State) (binding eid : Nat) :
    (spdmError s binding eid).fixed = s.fixed := by simp [spdmError]

@[simp] theorem mctpWhole_fixed (s : State) (binding src : Nat) (bytes : List Byte) :
    (mctpWhole s binding src bytes).2.fixed = s.fixed := by simp [mctpWhole]

@[simp] theorem mctpPacket_fixed (s : State) (binding : Nat) (p : McPkt) :
    (mctpPacket s binding p).2.fixed = s.fixed := by
  unfold mctpPacket
  extract_lets +onlyGivenNames s1 _ _ d2 _ _ f3
  have h1 : s1.fixed = s.fixed := by simp [s1]
  have h3 : ∀ x4, (f3 x4).fixed = s.fixed := by
    intro x4
    unfold f3
    simp [h1]
  clear_value s1 d2 f3
  (repeat' split) <;> simp [h1, h3]

@[simp] theorem execMctpOverPcieVdm_fixed (func : Nat) (packet : McPkt) (s : State) :
    fixedAfter (execMctpOverPcieVdm func packet s) = some s.fixed := by simp [execMctpOverPcieVdm]

@[simp] theorem execSetEndpointId_fixed (binding src eid : Nat) (s : State) :
    fixedAfter (execSetEndpointId binding src eid s) = some s.fixed := by simp [execSetEndpointId]

@[simp] theorem execGetEndpointId_fixed (binding src : Nat) (s : State) :
    fixedAfter (execGetEndpointId binding src s) = some s.fixed := by simp [execGetEndpointId]

@[simp] theorem execGetEndpointUuid_fixed (binding src : Nat) (s : State) :
    fixedAfter (execGetEndpointUuid binding src s) = some s.fixed := by simp [execGetEndpointUuid]

@[simp] theorem execGetMctpVersionSupport_fixed (binding src : Nat) (s : State) :
    fixedAfter (execGetMctpVersionSupport binding src s) = some s.fixed := by
  simp [execGetMctpVersionSupport]

@[simp] theorem execGetMessageTypeSupport_fixed (binding src : Nat) (s : State) :
    fixedAfter (execGetMessageTypeSupport binding src s) = some s.fixed := by
  simp [execGetMessageTypeSupport]

@[simp] theorem setConn_fixed (s : State) (c : SpdmConn) :
    (setConn s c).fixed = s.fixed := by simp [setConn]

@[simp] theorem spdmAnswer_fixed (s : State) (c : SpdmConn) (m : SpdmMsg) :
    (spdmAnswer s c m).fixed = s.fixed := by simp [spdmAnswer]

@[simp] theorem spdmRequest_fixed (s : State) (binding eid version : Nat) (algs ok : Bool)
    (f : SpdmConn → State) (hf : ∀ a, (f a).fixed = s.fixed) :
    fixedAfter (spdmRequest s binding eid version algs ok f) = some s.fixed := by
  unfold spdmRequest
  split <;> simp [hf]

@[simp] theorem execGetVersion_fixed (binding src : Nat) (s : State) :
    fixedAfter (execGetVersion binding src s) = some s.fixed := by
  unfold execGetVersion
  extract_lets +onlyGivenNames _ _ _ _ s1
  have h1 : s1.fixed = s.fixed := by simp [s1]
  clear_value s1
  simp [h1]

@[simp] theorem execGetCapabilities_fixed (binding src version transfer : Nat) (s : State) :
    fixedAfter (execGetCapabilities binding src version transfer s) = some s.fixed := by
  unfold execGetCapabilities
  split <;> simp

@[simp] theorem execNegotiateAlgorithms_fixed (binding src version : Nat) (common : Bool)
    (s : State) :
    fixedAfter (execNegotiateAlgorithms binding src version common s) = some s.fixed := by
  simp [execNegotiateAlgorithms]

@[simp] theorem execGetDigests_fixed (binding src version : Nat) (s : State) :
    fixedAfter (execGetDigests binding src version s) = some s.fixed := by simp [execGetDigests]

@[simp] theorem execGetCertificate_fixed (binding src version slot offset length : Nat)
    (s : State) :
    fixedAfter (execGetCertificate binding src version slot offset length s) = some s.fixed := by
  simp [execGetCertificate]

@[simp] theorem execChallenge_fixed (binding src version slot : Nat) (s : State) :
    fixedAfter (execChallenge binding src version slot s) = some s.fixed := by
  unfold execChallenge
  simp

@[simp] theorem execGetMeasurements_fixed (binding src version index : Nat) (signed : Bool)
    (s : State) :
    fixedAfter (execGetMeasurements binding src version index signed s) = some s.fixed := by
  unfold execGetMeasurements
  simp

@[simp] theorem execChunkGet_fixed (binding src version handle seq : Nat) (s : State) :
    fixedAfter (execChunkGet binding src version handle seq s) = some s.fixed := by
  unfold execChunkGet
  split
  · split <;> simp
  · simp

/-! ## `Machine/RecorderRows` -/

@[simp] theorem emptyRing_fixed (s : State) : (emptyRing s).fixed = s.fixed := by simp [emptyRing]

@[simp] theorem startRecord_fixed (s : State) :
    (startRecord s).fixed = s.fixed := by simp [startRecord]

@[simp] theorem setRecMode_fixed (s : State) (m : Nat) :
    (setRecMode s m).fixed = s.fixed := by simp [setRecMode]

@[simp] theorem execDetRecordStart_fixed (s : State) :
    fixedAfter (execDetRecordStart s) = some s.fixed := by simp [execDetRecordStart]

@[simp] theorem execDetReplayStart_fixed (s : State) :
    fixedAfter (execDetReplayStart s) = some s.fixed := by simp [execDetReplayStart]

@[simp] theorem execDetRecOff_fixed (s : State) :
    fixedAfter (execDetRecOff s) = some s.fixed := by simp [execDetRecOff]

@[simp] theorem clearRing_fixed (s : State) : (clearRing s).fixed = s.fixed := by simp [clearRing]

@[simp] theorem execDetRecClear_fixed (s : State) :
    fixedAfter (execDetRecClear s) = some s.fixed := by simp [execDetRecClear]

@[simp] theorem markRecord_fixed (s : State) (value : Nat) :
    (markRecord s value).fixed = s.fixed := by simp [markRecord]

@[simp] theorem execMark_fixed (value : Nat) (s : State) :
    fixedAfter (execMark value s) = some s.fixed := by simp [execMark]

@[simp] theorem stageRecord_fixed (s : State) (index value : Nat) :
    (stageRecord s index value).fixed = s.fixed := by simp [stageRecord]

@[simp] theorem execDetRecAppend_fixed (index value : Nat) (s : State) :
    fixedAfter (execDetRecAppend index value s) = some s.fixed := by simp [execDetRecAppend]

@[simp] theorem markFed_fixed (s : State) (e : RecEntry) :
    (markFed s e).fixed = s.fixed := by simp [markFed]

@[simp] theorem execReplayFeed_fixed (s : State) :
    fixedAfter (execReplayFeed s) = some s.fixed := by
  unfold execReplayFeed
  split
  · simp
  · extract_lets +onlyGivenNames _ _ _
    split
    · simp
    · split
      · simp
      · split
        rename_i s1 e1
        have h1 : s1.fixed = s.fixed := fixed_of_snd e1 (by simp)
        extract_lets +onlyGivenNames _
        split
        · exact fixedAfter_next_eq
            (getD_fixed _ _ fun t e => (refusePacket_fixed e).trans (by simp [h1]))
        · exact fixedAfter_next_eq
            (getD_fixed _ _ fun t e => (admitPacket_fixed e).trans (by simp [h1]))

/-! ## `Machine/PerturbRows` -/

@[simp] theorem badCfg_fixed (s : State) : (badCfg s).fixed = s.fixed := by simp [badCfg]

@[simp] theorem injectorCfgWrite_fixed (s : State) (i v mask : Nat) :
    (injectorCfgWrite s i v mask).fixed = s.fixed := by simp [injectorCfgWrite]

@[simp] theorem prtPlainWrite_fixed (s : State) (r : RegSpec) (i v mask : Nat) :
    (prtPlainWrite s r i v mask).fixed = s.fixed := by simp [prtPlainWrite]

@[simp] theorem prtWrite_fixed (s : State) (func off v mask : Nat) :
    (prtWrite s func off v mask).fixed = s.fixed := by simp [prtWrite]

@[simp] theorem execPrtWrite_fixed (func offset value : Nat) (s : State) :
    fixedAfter (execPrtWrite func offset value s) = some s.fixed := by simp [execPrtWrite]

/-! ## `Machine/Bus` -/

@[simp] theorem clearStall_fixed (s : State) (t halves : Nat) :
    (clearStall s t halves).fixed = s.fixed := by
  unfold clearStall
  extract_lets +onlyGivenNames _
  split
  rename_i s1 e2
  have h1 : s1.fixed = s.fixed := fixed_of_snd e2 (by simp)
  extract_lets +onlyGivenNames _ _ _
  simp [h1]

@[simp] theorem clearRc_fixed (s : State) (r : RegSpec) (i halves : Nat) :
    (clearRc s r i halves).fixed = s.fixed := by simp [clearRc]

@[simp] theorem busRead_fixed (s : State) (f off halves : Nat) :
    (busRead s f off halves).2.fixed = s.fixed := by
  unfold busRead
  split
  · simp
  · split
    rename_i s1 e2
    have h1 : s1.fixed = s.fixed := fixed_of_snd e2 (by simp)
    split <;> simp [h1]

@[simp] theorem wakeByAccess_fixed (s : State) (off : Nat) :
    (wakeByAccess s off).fixed = s.fixed := by simp [wakeByAccess]

@[simp] theorem execRcRead_fixed (func : Nat) (offset : BarOffset) (size : Nat) (s : State) :
    fixedAfter (execRcRead func offset size s) = some s.fixed := by
  unfold execRcRead
  extract_lets +onlyGivenNames _
  split
  · split
    rename_i s1 e2
    have h1 : s1.fixed = s.fixed := fixed_of_snd e2 (by simp)
    simp [h1]
  · split
    · extract_lets +onlyGivenNames s3 _
      have h3 : s3.fixed = s.fixed := by simp [s3]
      clear_value s3
      split
      rename_i s4 e5
      have h4 : s4.fixed = s.fixed := fixed_of_snd e5 (by simp [h3])
      simp [h4]
    · simp

@[simp] theorem stateOf_fixed (s : State) (o : Out) (h : fixedAfter o = some s.fixed) :
    (stateOf s o).fixed = s.fixed := by
  cases o with
  | next t => exact Option.some.inj h
  | fault r => rfl
  | refused r => rfl

@[simp] theorem fnConfig_fixed (s : State) (r : RegSpec) (fn v mask : Nat) :
    (fnConfig s r fn v mask).fixed = s.fixed := by simp [fnConfig]

@[simp] theorem execHifFnConfig_fixed (func fn : Nat) (which : FnReg) (value : Nat) (s : State) :
    fixedAfter (execHifFnConfig func fn which value s) = some s.fixed := by
  unfold execHifFnConfig
  split
  · simp
  · split <;> simp

@[simp] theorem flkCfgWrite_fixed (s : State) (v mask : Nat) :
    (flkCfgWrite s v mask).fixed = s.fixed := by simp [flkCfgWrite]

@[simp] theorem recCtlWrite_fixed (s : State) (v mask : Nat) :
    (recCtlWrite s v mask).fixed = s.fixed := by simp [recCtlWrite]

@[simp] theorem pmcCtlWrite_fixed (s : State) (v mask : Nat) :
    (pmcCtlWrite s v mask).fixed = s.fixed := by simp [pmcCtlWrite]

@[simp] theorem pwrReqWrite_fixed (s : State) (v : Nat) :
    (pwrReqWrite s v).fixed = s.fixed := by simp [pwrReqWrite]

@[simp] theorem rstCtlWrite_fixed (s : State) (v : Nat) :
    (rstCtlWrite s v).fixed = s.fixed := by simp [rstCtlWrite]

@[simp] theorem pwrLimitWrite_fixed (s : State) (v mask : Nat) :
    (pwrLimitWrite s v mask).fixed = s.fixed := by simp [pwrLimitWrite]

@[simp] theorem throttleWrite_fixed (s : State) (v mask : Nat) :
    (throttleWrite s v mask).fixed = s.fixed := by simp [throttleWrite]

@[simp] theorem clkCoreWrite_fixed (s : State) (v mask : Nat) :
    (clkCoreWrite s v mask).fixed = s.fixed := by simp [clkCoreWrite]

@[simp] theorem portCtlWrite_fixed (s : State) (p v mask : Nat) :
    (portCtlWrite s p v mask).fixed = s.fixed := by simp [portCtlWrite]

theorem specialWrite_fixed {s : State} {f : Nat} {r : RegSpec} {i v mask : Nat} {u : State}
    (h : specialWrite s f r i v mask = some u) :
    u.fixed = s.fixed := by
  refine fixed_of_some h ?_
  unfold specialWrite
  extract_lets +onlyGivenNames b w
  clear_value b w
  cases hl : levelOf r <;> simp

@[simp] theorem busWrite_fixed (s : State) (f off v mask : Nat) :
    (busWrite s f off v mask).fixed = s.fixed := by
  unfold busWrite
  split
  · simp
  · split
    · rfl
    · split
      · rename_i s1 e2
        have h1 : s1.fixed = s.fixed := specialWrite_fixed e2
        exact h1
      · simp

@[simp] theorem execRegisterWrite_fixed (func offset size value : Nat) (s : State) :
    fixedAfter (execRegisterWrite func offset size value s) = some s.fixed := by
  simp [execRegisterWrite]

/-! ## `Machine/Chain` -/

@[simp] theorem chainSend_fixed (s : State) (bs : List Byte) :
    (chainSend s bs).fixed = s.fixed := by simp [chainSend]

@[simp] theorem chainForward_fixed (s : State) (bs : List Byte) :
    (chainForward s bs).fixed = s.fixed := by simp [chainForward]

@[simp] theorem chainRespond_fixed (s : State) (f : ChFrame) (status : Nat) (payload : List Byte) :
    (chainRespond s f status payload).fixed = s.fixed := by simp [chainRespond]

@[simp] theorem setChainAddr_fixed (s : State) (a : Nat) :
    (setChainAddr s a).fixed = s.fixed := by simp [setChainAddr]

@[simp] theorem noteExecuted_fixed (s : State) (f : ChFrame) :
    (noteExecuted s f).fixed = s.fixed := by simp [noteExecuted]

@[simp] theorem census_fixed (s : State) (f : ChFrame) (mask un co sk le : Nat) :
    (census s f mask un co sk le).2.fixed = s.fixed := by simp [census]

@[simp] theorem assign_fixed (s : State) (mask un co sk le : Nat) :
    (assign s mask un co sk le).2.fixed = s.fixed := by
  unfold assign
  split
  · simp
  · split <;> simp

@[simp] theorem enumerate_fixed (s : State) (bs : List Byte) (f : ChFrame) :
    (enumerate s bs f).fixed = s.fixed := by
  unfold enumerate
  split
  · simp
  · extract_lets +onlyGivenNames _ _ _
    split
    · simp
    · split
      rename_i s1 e2
      have h1 : s1.fixed = s.fixed := fixed_of_snd e2 (by simp)
      simp [h1]

@[simp] theorem chainReg_fixed (s : State) (off : Nat) : (chainReg s off).2.fixed = s.fixed := by
  unfold chainReg
  split
  rename_i s1 e2
  have h1 : s1.fixed = s.fixed := fixed_of_snd e2 (by simp)
  simp [h1]

@[simp] theorem chainRegs_fixed (s : State) (offs : List Nat) :
    (chainRegs s offs).2.fixed = s.fixed := by
  unfold chainRegs
  simp

@[simp] theorem pingAnswer_fixed (s : State) : (pingAnswer s).2.2.fixed = s.fixed := by
  unfold pingAnswer
  split
  rename_i s1 e2
  have h1 : s1.fixed = s.fixed := fixed_of_snd e2 (by simp)
  simp [h1]

@[simp] theorem statusAnswer_fixed (s : State) : (statusAnswer s).2.2.fixed = s.fixed := by
  unfold statusAnswer
  split
  rename_i s1 e2
  have h1 : s1.fixed = s.fixed := fixed_of_snd e2 (by simp)
  simp [h1]

@[simp] theorem regReadAnswer_fixed (s : State) (f : ChFrame) :
    (regReadAnswer s f).2.2.fixed = s.fixed := by
  unfold regReadAnswer
  split
  · simp
  · split
    · simp
    · split
      · simp
      · split
        · simp
        · split
          rename_i s1 e2
          have h1 : s1.fixed = s.fixed := fixed_of_snd e2 (by simp)
          simp [h1]

@[simp] theorem regWriteAnswer_fixed (s : State) (f : ChFrame) :
    (regWriteAnswer s f).2.2.fixed = s.fixed := by
  unfold regWriteAnswer
  split
  · simp
  · (repeat' split) <;> simp

@[simp] theorem wakeAnswer_fixed (s : State) :
    (wakeAnswer s).2.2.fixed = s.fixed := by simp [wakeAnswer]

@[simp] theorem resetAnswer_fixed (s : State) (f : ChFrame) (may : Bool) :
    (resetAnswer s f may).2.2.fixed = s.fixed := by
  unfold resetAnswer
  split
  · simp
  · split <;> simp

@[simp] theorem setPowerAnswer_fixed (s : State) (f : ChFrame) :
    (setPowerAnswer s f).2.2.fixed = s.fixed := by
  unfold setPowerAnswer
  extract_lets +onlyGivenNames _
  split
  · simp
  · split
    · simp
    · split
      · simp
      · split
        · rename_i s1 e2
          have h1 : s1.fixed = s.fixed := fixed_of_snd e2 (by simp)
          simp [h1]
        · rename_i s3 e4
          have h3 : s3.fixed = s.fixed := fixed_of_snd e4 (by simp)
          simp [h3]

@[simp] theorem testModeAnswer_fixed (s : State) (f : ChFrame) :
    (testModeAnswer s f).2.2.fixed = s.fixed := by
  unfold testModeAnswer
  extract_lets +onlyGivenNames _
  split
  · simp
  · split <;> simp

@[simp] theorem alertAckAnswer_fixed (s : State) (f : ChFrame) :
    (alertAckAnswer s f).2.2.fixed = s.fixed := by simp [alertAckAnswer]

@[simp] theorem chainAnswer_fixed (s : State) (f : ChFrame) :
    (chainAnswer s f).2.2.fixed = s.fixed := by
  simp [chainAnswer]

@[simp] theorem keepAnswer_fixed (s : State) (f : ChFrame) (bs : List Byte) :
    (keepAnswer s f bs).fixed = s.fixed := by simp [keepAnswer]

@[simp] theorem serveMctp_fixed (s : State) (f : ChFrame) : (serveMctp s f).fixed = s.fixed := by
  unfold serveMctp
  split
  · simp
  · split
    · simp
    · split
      rename_i s1 e2
      have h1 : s1.fixed = s.fixed := fixed_of_snd e2 (by simp)
      simp [h1]

@[simp] theorem chainServe_fixed (s : State) (f : ChFrame) : (chainServe s f).fixed = s.fixed := by
  unfold chainServe
  split
  · simp
  · split
    · refine (count_fixed ..).trans ?_
      split <;> simp
    · split
      · simp
      · split
        · simp
        · split
          rename_i s1 e2
          have h1 : s1.fixed = s.fixed := fixed_of_snd_snd e2 (by simp)
          simp [h1]

@[simp] theorem chainReceive_fixed (s : State) (bs : List Byte) :
    (chainReceive s bs).fixed = s.fixed := by simp [chainReceive]

@[simp] theorem receiveType_fixed (s : State) (type : Nat) (bs : List Byte) :
    fixedAfter (receiveType s type bs) = some s.fixed := by simp [receiveType]

@[simp] theorem execCensus_fixed (frame : List Byte) (s : State) :
    fixedAfter (execCensus frame s) = some s.fixed := by simp [execCensus]

@[simp] theorem execAssign_fixed (frame : List Byte) (s : State) :
    fixedAfter (execAssign frame s) = some s.fixed := by simp [execAssign]

@[simp] theorem execPing_fixed (frame : List Byte) (s : State) :
    fixedAfter (execPing frame s) = some s.fixed := by simp [execPing]

@[simp] theorem execStatus_fixed (frame : List Byte) (s : State) :
    fixedAfter (execStatus frame s) = some s.fixed := by simp [execStatus]

@[simp] theorem execRegRead_fixed (frame : List Byte) (s : State) :
    fixedAfter (execRegRead frame s) = some s.fixed := by simp [execRegRead]

@[simp] theorem execRegWrite_fixed (frame : List Byte) (s : State) :
    fixedAfter (execRegWrite frame s) = some s.fixed := by simp [execRegWrite]

@[simp] theorem execWake_fixed (frame : List Byte) (s : State) :
    fixedAfter (execWake frame s) = some s.fixed := by simp [execWake]

@[simp] theorem execWarmReset_fixed (frame : List Byte) (s : State) :
    fixedAfter (execWarmReset frame s) = some s.fixed := by simp [execWarmReset]

@[simp] theorem execModuleReset_fixed (frame : List Byte) (s : State) :
    fixedAfter (execModuleReset frame s) = some s.fixed := by simp [execModuleReset]

@[simp] theorem execSetPower_fixed (frame : List Byte) (s : State) :
    fixedAfter (execSetPower frame s) = some s.fixed := by simp [execSetPower]

@[simp] theorem execTestMode_fixed (frame : List Byte) (s : State) :
    fixedAfter (execTestMode frame s) = some s.fixed := by simp [execTestMode]

@[simp] theorem execAlertAck_fixed (frame : List Byte) (s : State) :
    fixedAfter (execAlertAck frame s) = some s.fixed := by simp [execAlertAck]

@[simp] theorem execMctp_fixed (frame : List Byte) (s : State) :
    fixedAfter (execMctp frame s) = some s.fixed := by simp [execMctp]

@[simp] theorem execFrameForward_fixed (frame : List Byte) (s : State) :
    fixedAfter (execFrameForward frame s) = some s.fixed := by simp [execFrameForward]

@[simp] theorem execAlertRepeat_fixed (seq : Nat) (s : State) :
    fixedAfter (execAlertRepeat seq s) = some s.fixed := by
  unfold execAlertRepeat
  split <;> simp

@[simp] theorem execChainInputLock_fixed (s : State) :
    fixedAfter (execChainInputLock s) = some s.fixed := by simp [execChainInputLock]

@[simp] theorem execChainInputLost_fixed (s : State) :
    fixedAfter (execChainInputLost s) = some s.fixed := by simp [execChainInputLost]

/-! ## `Machine/HostLink` -/

@[simp] theorem execVfEnable_fixed (numVfs : Nat) (s : State) :
    fixedAfter (execVfEnable numVfs s) = some s.fixed := by simp [execVfEnable]

@[simp] theorem execVfDisable_fixed (s : State) :
    fixedAfter (execVfDisable s) = some s.fixed := by simp [execVfDisable]

@[simp] theorem execD3hotEnter_fixed (func : Nat) (s : State) :
    fixedAfter (execD3hotEnter func s) = some s.fixed := by simp [execD3hotEnter]

@[simp] theorem execD3hotExit_fixed (func : Nat) (s : State) :
    fixedAfter (execD3hotExit func s) = some s.fixed := by simp [execD3hotExit]

@[simp] theorem execPmeTurnOff_fixed (s : State) :
    fixedAfter (execPmeTurnOff s) = some s.fixed := by simp [execPmeTurnOff]

@[simp] theorem execPcieLinkUp_fixed (speed width : Nat) (flit : Bool) (s : State) :
    fixedAfter (execPcieLinkUp speed width flit s) = some s.fixed := by simp [execPcieLinkUp]

/-! ## `Machine/Tick` -/

@[simp] theorem contextTick_fixed (s : State) : (contextTick s).fixed = s.fixed := by
  unfold contextTick
  simp

@[simp] theorem readTick_fixed (s : State) : (readTick s).fixed = s.fixed := by
  unfold readTick
  simp

/-! ## The commands and the tick -/

/-- Both arms of `execStandbyLoss` in one equation: where standby power was on, its loss clears the
tick count and nothing else of the fixed part. -/
@[simp] theorem execStandbyLoss_fixed (s : State) :
    fixedAfter (execStandbyLoss s) =
      some (s.fuses, s.pending, if s.pwr.standbyOn then 0 else s.ticks) := by
  have h := wipeMain_fixed s
  simp only [State.fixed, Prod.mk.injEq] at h
  obtain ⟨hfuses, hpending, -⟩ := h
  cases hs : s.pwr.standbyOn <;> simp [execStandbyLoss, hs, hfuses, hpending]

/-- Standby power's return starts the tick count at zero. -/
@[simp] theorem execStandbyPowerUp_fixed (s : State) :
    fixedAfter (execStandbyPowerUp s) =
      some (s.fuses, s.pending, if s.pwr.standbyOn then s.ticks else 0) := by
  cases hs : s.pwr.standbyOn <;> simp [execStandbyPowerUp, hs]

/-- Each row of the table is closed by the frame lemma of its own operation. -/
theorem exec_fixed (i : Instr) (s : State) (hloss : i ≠ .standbyLoss) (hup : i ≠ .standbyPowerUp) :
    fixedAfter (exec i s) = some s.fixed := by
  cases i <;> simp [exec] at hloss hup ⊢

theorem emberTick_fuses (s : State) : (emberTick s).fuses = s.fuses := by
  by_cases h : s.pwr.standbyOn
  · have h : (emberTick s).fixed = (s.fuses, s.pending, (s.ticks + 1) % 2 ^ 64) := by
      simp [emberTick, h]
    simpa using congrArg Prod.fst h
  · simp [emberTick, h]

/-- The two rows that change the tick count keep the fuses as every other row does. -/
theorem exec_fuses (i : Instr) (s : State) :
    (fixedAfter (exec i s)).map Prod.fst = some s.fuses := by
  by_cases hloss : i = .standbyLoss
  · subst hloss
    simp [exec]
  by_cases hup : i = .standbyPowerUp
  · subst hup
    simp [exec]
  simp [exec_fixed i s hloss hup]

theorem step_fuses (s : State) : (fixedAfter (step s)).map Prod.fst = some s.fuses := by
  cases h : s.pending with
  | nil => simpa [step, h] using emberTick_fuses s
  | cons c rest => simpa [step, h] using exec_fuses c { s with pending := rest }

/-- Settles O7: the command at the front of the queue, or the tick when there is none, keeps the
fuses. -/
theorem stepsKeepFuses : Obligations.StepsKeepFuses := by
  unfold Obligations.StepsKeepFuses
  intro s t h
  simpa [h] using step_fuses s

end Sys2Proof.Machine
end

section
/-!
# Exact accumulators: sums without order, and the record of a sum (R53–R57)

Merging makes the accumulators a commutative monoid whose neutral element is the cleared
accumulator, and an addend acts on an accumulator as the merge of that addend's own accumulator
(`Acc.addend_eq_merge`). A sum is then a product in a commutative monoid, and neither the order of
its addends nor their grouping can show.
-/
namespace Sys2Proof.Machine

/-! ## Merging -/

theorem Acc.merge_comm (a b : Acc) : a.merge b = b.merge a := by
  simp [Acc.merge, Int.add_comm, Nat.add_comm, Bool.or_comm]

theorem Acc.merge_assoc (a b c : Acc) : (a.merge b).merge c = a.merge (b.merge c) := by
  simp [Acc.merge, Int.add_assoc, Nat.add_assoc, Bool.or_assoc]

@[simp] theorem Acc.merge_cleared (a : Acc) : a.merge {} = a := by simp [Acc.merge]

@[simp] theorem Acc.cleared_merge (a : Acc) : Acc.merge {} a = a := by simp [Acc.merge]

/-- An addend is the merge of the accumulator that holds it alone. -/
theorem Acc.addend_eq_merge (a : Acc) (v : Val) : a.addend v = a.merge (Acc.addend {} v) := by
  cases h : exactVal v with
  | nan => simp [Acc.addend, Acc.addVal, Acc.merge, h]
  | inf s => cases s <;> simp [Acc.addend, Acc.addVal, Acc.merge, h]
  | num s m u k => simp [Acc.addend, Acc.addVal, Acc.merge, h]

theorem Acc.addend_right_comm (a : Acc) (v w : Val) :
    (a.addend v).addend w = (a.addend w).addend v := by
  rw [(a.addend v).addend_eq_merge w, (a.addend w).addend_eq_merge v, a.addend_eq_merge v,
    a.addend_eq_merge w, Acc.merge_assoc, Acc.merge_assoc, Acc.merge_comm (Acc.addend {} v)]

/-! ## Sums -/

/-- A sum on top of an accumulator is the merge of that sum's own accumulator. -/
theorem foldl_addend_eq_merge (l : List Val) (a : Acc) :
    l.foldl Acc.addend a = a.merge (l.foldl Acc.addend {}) := by
  induction l generalizing a with
  | nil => simp
  | cons v l ih =>
    rw [List.foldl_cons, List.foldl_cons, ih (a.addend v), ih (Acc.addend {} v),
      a.addend_eq_merge v, Acc.merge_assoc]

theorem foldl_addend_append (l m : List Val) (a : Acc) :
    (l ++ m).foldl Acc.addend a = (l.foldl Acc.addend a).merge (m.foldl Acc.addend {}) := by
  rw [List.foldl_append, foldl_addend_eq_merge]

theorem foldl_addend_perm {l m : List Val} (h : l.Perm m) (a : Acc) :
    l.foldl Acc.addend a = m.foldl Acc.addend a :=
  h.foldl_eq (rcomm := ⟨Acc.addend_right_comm⟩) a

/-- Merging the accumulators of the parts is summing all addends. -/
theorem foldl_merge_parts (parts : List (List Val)) (a : Acc) :
    (parts.map fun p => p.foldl Acc.addend {}).foldl Acc.merge a =
      parts.flatten.foldl Acc.addend a := by
  induction parts generalizing a with
  | nil => rfl
  | cons p parts ih =>
    rw [List.map_cons, List.foldl_cons, ih, List.flatten_cons, List.foldl_append,
      foldl_addend_eq_merge p a]

/-- Settles O13: the order by the commutation of two addends, the grouping by induction on the
parts. -/
theorem sumsIgnoreOrder : Obligations.SumsIgnoreOrder := by
  unfold Obligations.SumsIgnoreOrder
  refine ⟨fun l m a h => foldl_addend_perm h a, fun parts l h => ?_⟩
  rw [foldl_merge_parts, foldl_addend_perm h]

/-! ## Flags -/

theorem Val.mul_nan (v : Val) : v.mul .nan = .nan := by cases v <;> rfl

/-- NAN, or both infinities, decide the result before the integer does. -/
theorem Acc.val_of_nan {a : Acc} (h : a.nan = true ∨ a.pinf = true ∧ a.ninf = true) :
    a.val = .nan := by
  rcases h with h | ⟨hp, hn⟩
  · simp [Acc.val, h]
  · simp [Acc.val, hp, hn]

/-- One infinity alone decides the result before the integer does. -/
theorem Acc.val_of_inf {a : Acc} (hnan : a.nan = false) (h : a.pinf = !a.ninf) :
    a.val = .inf a.ninf := by
  cases hn : a.ninf <;> simp [Acc.val, hnan, h, hn]

theorem Acc.val_of_finite {a : Acc} (hnan : a.nan = false) (hp : a.pinf = false)
    (hn : a.ninf = false) : a.val = .ofInt a.value (-300) := by
  simp [Acc.val, hnan, hp, hn]

/-- Settles O11: an addend that is not finite sets its flag by the arm of `Acc.addVal` for it, and
the result is the first arm of `Acc.val` that the flags meet. -/
theorem nonFiniteAddends : Obligations.NonFiniteAddends := by
  unfold Obligations.NonFiniteAddends
  refine ⟨fun _ => rfl, fun _ => rfl, fun _ => rfl, fun v => ⟨rfl, v.mul_nan, rfl⟩,
    fun _ _ _ _ => ⟨rfl, rfl⟩, fun _ _ _ _ _ hm => ⟨if_neg hm, if_neg hm⟩, fun _ _ => rfl,
    fun _ => Acc.val_of_nan, fun _ hnan hp hn => ?pinf, fun _ hnan hp hn => ?ninf,
    fun _ => Acc.val_of_finite, fun _ _ => ⟨rfl, rfl, rfl⟩⟩
  case pinf => rw [Acc.val_of_inf hnan (by simp [hp, hn]), hn]
  case ninf => rw [Acc.val_of_inf hnan (by simp [hp, hn]), hn]

/-! ## EXACT records -/

theorem leNat_leBytes_of_lt {n v : Nat} (h : v < 2 ^ (8 * n)) : leNat (leBytes n v) = v := by
  rw [leNat_leBytes, show (256 : Nat) = 2 ^ 8 from rfl, ← Nat.pow_mul, Nat.mod_eq_of_lt h]

/-- A word of whole bytes reads back from its bytes. -/
theorem leNat_leBytes_toNat {n : Nat} (x : BitVec (8 * n)) : leNat (leBytes n x.toNat) = x.toNat :=
  leNat_leBytes_of_lt x.isLt

/-- Two's complement read back, over the whole range of its width. -/
theorem signedOf_ofInt {n : Nat} {x : Int} (hl : -(2 ^ n : Int) ≤ x) (hu : x < 2 ^ n) :
    signedOf (n + 1) (BitVec.ofInt (n + 1) x).toNat = x := by
  have hx : (BitVec.ofInt (n + 1) x).toInt = x :=
    BitVec.toInt_ofInt_eq_self (Nat.succ_pos n) hl hu
  have hcond : 2 * (BitVec.ofInt (n + 1) x).toNat < 2 ^ (n + 1) ↔
      (BitVec.ofInt (n + 1) x).toNat < 2 ^ n := by
    rw [Nat.pow_succ']
    omega
  rw [BitVec.toInt_eq_toNat_cond] at hx
  simpa only [signedOf, hcond, Nat.mod_eq_of_lt (BitVec.isLt _), Nat.add_sub_cancel, Nat.cast_pow,
    Nat.cast_ofNat] using hx

theorem fieldOf_low3 (bs : List Byte) (k : Nat) : fieldOf bs k 0 3 = (bs.getD k 0).toNat % 8 := by
  have htake : (bs.drop k).take 1 = bs[k]?.toList := by rw [List.take_one, List.head?_drop]
  cases h : bs[k]? <;> simp [fieldOf, bitsOf, htake, h, leNat]

/-- What of a record's bytes an accumulator is read from. -/
theorem Acc.ofBytes_eq (bs : List Byte) :
    Acc.ofBytes bs =
      { value := signedOf 640 (leNat (bs.take 80))
        nan := bitOf ((bs.getD 80 0).toNat % 8) 0
        pinf := bitOf ((bs.getD 80 0).toNat % 8) 1
        ninf := bitOf ((bs.getD 80 0).toNat % 8) 2
        count := leNat ((bs.drop 84).take 4) % 2 ^ 32 } := by
  simp only [Acc.ofBytes, fieldOf_low3]
  simp only [fieldOf, bitsOf, Nat.shiftRight_zero]

/-- The flags of a record, as the number in its byte 80. -/
def Acc.flags (a : Acc) : Nat := b2n a.nan + 2 * b2n a.pinf + 4 * b2n a.ninf

theorem Acc.flags_lt (a : Acc) : a.flags < 8 := by
  have h : ∀ x y z : Bool, b2n x + 2 * b2n y + 4 * b2n z < 8 := by decide
  exact h a.nan a.pinf a.ninf

/-- Each flag is a bit of the number. -/
theorem Acc.bitOf_flags (a : Acc) :
    bitOf a.flags 0 = a.nan ∧ bitOf a.flags 1 = a.pinf ∧ bitOf a.flags 2 = a.ninf := by
  have h : ∀ x y z : Bool, bitOf (b2n x + 2 * b2n y + 4 * b2n z) 0 = x ∧
    bitOf (b2n x + 2 * b2n y + 4 * b2n z) 1 = y ∧ bitOf (b2n x + 2 * b2n y + 4 * b2n z) 2 = z := by
    decide
  exact h a.nan a.pinf a.ninf

/-- A record field by field, its three reserved bytes after the flags written out. -/
theorem Acc.bytes_eq (a : Acc) :
    a.bytes = leBytes 80 (BitVec.ofInt 640 a.value).toNat ++
      (BitVec.ofNat 8 a.flags :: 0 :: 0 :: 0 :: (leBytes 4 a.count ++ List.replicate 8 0)) := by
  have hflags : leBytes 4 a.flags = [BitVec.ofNat 8 a.flags, 0, 0, 0] := by
    have h := a.flags_lt
    have h0 : a.flags / 256 = 0 := by omega
    simp [leBytes, h0]
  have hzero : leBytes 8 0 = List.replicate 8 0 := rfl
  rw [Acc.bytes, ← Acc.flags, hflags, hzero, List.append_assoc, List.append_assoc]
  rfl

theorem Acc.take_bytes (a : Acc) :
    a.bytes.take 80 = leBytes 80 (BitVec.ofInt 640 a.value).toNat := by
  rw [Acc.bytes_eq]
  exact List.take_left' (leBytes_length _ _)

theorem Acc.drop_bytes (a : Acc) (k : Nat) :
    a.bytes.drop (80 + k) =
      (BitVec.ofNat 8 a.flags :: 0 :: 0 :: 0 :: (leBytes 4 a.count ++ List.replicate 8 0)).drop k := by
  rw [← List.drop_drop, Acc.bytes_eq, List.drop_left' (leBytes_length _ _)]

theorem Acc.getElem?_bytes_flags (a : Acc) :
    a.bytes[80]? = some (BitVec.ofNat 8 a.flags) := by
  rw [← List.head?_drop, a.drop_bytes 0]
  rfl

theorem Acc.count_bytes (a : Acc) : (a.bytes.drop 84).take 4 = leBytes 4 a.count := by
  rw [a.drop_bytes 4]
  exact List.take_left' (leBytes_length _ _)

theorem Acc.value_bytes (a : Acc) :
    leNat (a.bytes.take 80) = (BitVec.ofInt 640 a.value).toNat := by
  rw [Acc.take_bytes]
  exact leNat_leBytes_toNat (n := 80) _

/-- An accumulator within the width of its record reads back. -/
theorem Acc.ofBytes_bytes {a : Acc} (hl : -(2 ^ 639 : Int) ≤ a.value) (hu : a.value < 2 ^ 639)
    (hc : a.count < 2 ^ 32) : Acc.ofBytes a.bytes = a := by
  have hvalue : signedOf 640 (leNat (a.bytes.take 80)) = a.value := by
    rw [a.value_bytes]
    exact signedOf_ofInt (n := 639) hl hu
  have hflags : (a.bytes.getD 80 0).toNat % 8 = a.flags := by
    have h := a.flags_lt
    rw [List.getD_eq_getElem?_getD, a.getElem?_bytes_flags, Option.getD_some, BitVec.toNat_ofNat]
    omega
  have hcount : leNat ((a.bytes.drop 84).take 4) % 2 ^ 32 = a.count := by
    rw [a.count_bytes, leNat_leBytes_of_lt hc, Nat.mod_eq_of_lt hc]
  obtain ⟨hnan, hp, hn⟩ := a.bitOf_flags
  rw [Acc.ofBytes_eq, hvalue, hflags, hcount, hnan, hp, hn]

/-- Settles O12: the record field by field (`Acc.bytes_eq`), what is read of it (`Acc.ofBytes_eq`),
the round trip of the two, and the sum of the parts as the merge of their sums. -/
theorem exactRecords : Obligations.ExactRecords := by
  unfold Obligations.ExactRecords
  refine ⟨fun a => ⟨?length, a.value_bytes, a.getElem?_bytes_flags, ?reserved, ?count, ?tail⟩,
    ?unread, fun a => Acc.ofBytes_bytes, ?merged⟩
  case length =>
    rw [Acc.bytes_eq, List.length_append, leBytes_length]
    rfl
  case reserved =>
    rw [a.drop_bytes 1]
    rfl
  case count => exact (congrArg leNat a.count_bytes).trans (leNat_leBytes 4 a.count)
  case tail =>
    rw [a.drop_bytes 8]
    exact List.drop_left' (leBytes_length _ _)
  case unread =>
    intro bs cs hvalue hflags _ _ hcount
    rw [Acc.ofBytes_eq, Acc.ofBytes_eq, hvalue, hflags, hcount]
  case merged =>
    intro l m a b hb hl hu hc
    rw [Acc.ofBytes_bytes hl hu hc, hb, foldl_addend_append]

end Sys2Proof.Machine
end

section
/-!
# Element formats: which bits are NaN, and what a zero is written as (R39, R64)
-/
namespace Sys2Proof.Machine

/-! ## NaN encodings -/

theorem Val.ofInt_ne_nan (n u : Int) : Val.ofInt n u ≠ .nan := Val.noConfusion

/-- An element is NaN by its exponent, all ones, and its fraction: all ones in E4M3, not zero in the
formats that have infinities. -/
theorem decodeFloat_eq_nan_iff (fmt b : Nat) :
    decodeFloat fmt b = .nan ↔
      b / 2 ^ (floatParams fmt).2.1 % 2 ^ (floatParams fmt).1 = 2 ^ (floatParams fmt).1 - 1 ∧
        (fmt = 3 ∧ b % 2 ^ (floatParams fmt).2.1 = 7 ∨
          4 ≤ fmt ∧ b % 2 ^ (floatParams fmt).2.1 ≠ 0) := by
  rcases hp : floatParams fmt with ⟨eb, fb, bias⟩
  simp only [decodeFloat, hp]
  split
  next hguard =>
    simp only [Bool.or_eq_true, Bool.and_eq_true, decide_eq_true_eq] at hguard
    exact iff_of_true rfl (by tauto)
  next hguard =>
    simp only [Bool.or_eq_true, Bool.and_eq_true, decide_eq_true_eq] at hguard
    refine iff_of_false (by split_ifs <;> simp) ?_
    rintro ⟨he, ⟨h3, hf⟩ | ⟨h4, hf⟩⟩
    · exact hguard (.inl ⟨⟨h3, he⟩, hf⟩)
    · exact hguard (.inr ⟨⟨⟨by omega, h4⟩, he⟩, hf⟩)

/-- R39's table, format by format. -/
theorem decodeElem_eq_nan_iff {fmt : Nat} (hfmt : fmt < 10) (b : Nat) :
    decodeElem fmt b = .nan ↔ fmt = fmtE4M3 ∧ b % 2 ^ 7 = 0x7F ∨ fmt = fmtE5M2 ∧ 0x7C < b % 2 ^ 7 ∨
      fmt = fmtBf16 ∧ 0x7F80 < b % 2 ^ 15 ∨ fmt = fmtFp32 ∧ 0x7F800000 < b % 2 ^ 31 := by
  interval_cases fmt <;>
    simp [decodeElem, decodeFloat_eq_nan_iff, floatParams, Val.ofInt_ne_nan, fmtE4M3, fmtE5M2,
      fmtMxInt8, fmtBf16, fmtFp32, fmtInt8, fmtInt32] <;>
    omega

/-! ## Blocks of scale byte 0xFF -/

@[simp] theorem scaled_ff (v : Val) : scaled 0xFF v = .nan := rfl

theorem toNat_getD_ff {bs : List Byte} {k : Nat} (hs : bs[k]? = some 0xFF) :
    (bs.getD k 0).toNat = 0xFF := by
  rw [List.getD_eq_getElem?_getD, hs]
  rfl

theorem getElem?_upFrom : ∀ (n a k : Nat), k < n → (upFrom a n)[k]? = some (a + k)
  | 0, _, _, h => absurd h (Nat.not_lt_zero _)
  | _ + 1, _, 0, _ => rfl
  | n + 1, a, k + 1, h => by
    rw [upFrom, List.getElem?_cons_succ, getElem?_upFrom n (a + 1) k (by omega)]
    congr 1
    omega

/-- A real element of a dense segment whose block has scale byte 0xFF. -/
theorem readSegment_nan {fmt real j : Nat} {bs : List Byte} (hj : j < real) (hreal : real ≤ 256)
    (hs : bs[32 * elemBits fmt + j / 32]? = some 0xFF) :
    (readSegment fmt real bs)[j]? = some .nan := by
  simp only [readSegment, List.getElem?_map, getElem?_upFrom 256 0 j (by omega), Nat.zero_add,
    Option.map_some, if_pos hj, toNat_getD_ff hs, scaled_ff]

/-- A real element of a packed block whose MX block has scale byte 0xFF: a kept value is scaled by
it, and an element that is not kept is NaN for it. -/
theorem readPacked_nan {fmt real j : Nat} {bs : List Byte} {vs : List Val} (hj : j < real)
    (hreal : real ≤ 256) (hs : bs[16 * elemBits fmt + 32 + j / 32]? = some 0xFF)
    (hvs : readPacked fmt real bs = some vs) : vs[j]? = some .nan := by
  simp only [readPacked] at hvs
  split at hvs
  · cases hvs
  · cases hvs
    simp only [List.getElem?_map, getElem?_upFrom 256 0 j (by omega), Nat.zero_add,
      Option.map_some, if_neg (Nat.not_le.mpr hj), toNat_getD_ff hs, scaled_ff, if_true, ite_self]

/-- Settles O10: R39's table by cases on the format, and the two layouts by the scale byte of the
element's block. -/
theorem nanEncodings : Obligations.NanEncodings := by
  unfold Obligations.NanEncodings
  exact ⟨fun _ b hfmt => decodeElem_eq_nan_iff hfmt b, scaled_ff,
    fun _ _ _ _ _ hj hreal hs => readSegment_nan hj hreal hs,
    fun _ _ _ _ _ _ hj hreal hs hvs => readPacked_nan hj hreal hs hvs,
    fun _ _ _ hb hc => hb.trans hc.symm⟩

/-! ## Zero results -/

/-- Nothing of magnitude zero overflows. -/
@[simp] theorem magGt_zero (lsb : Int) (m : Nat) (u : Int) : magGt 0 lsb m u = false := by
  simp [magGt, shl]

/-- The sign is the top bit of an element of a floating-point format. -/
theorem packFloat_zero {fmt : Nat} (hfmt : fmt < 5 ∨ fmt ∈ [fmtBf16, fmtFp32]) (s : Bool)
    (lsb : Int) : packFloat fmt s 0 lsb = if s then 2 ^ (elemBits fmt - 1) else 0 := by
  have hbits : (floatParams fmt).1 + (floatParams fmt).2.1 = elemBits fmt - 1 := by
    rcases hfmt with h | h
    · interval_cases fmt <;> rfl
    · rcases List.mem_pair.mp h with rfl | rfl <;> rfl
  simp only [packFloat, if_true, hbits]

theorem encodeElem_of_float {woc : Nat} (h : wocFmt woc ∈ [fmtBf16, fmtFp32]) (draw : Nat)
    (v : Val) : encodeElem woc draw v = encodeFloat (wocFmt woc) woc draw v := by
  have h := List.mem_pair.mp h
  simp [encodeElem, h]

theorem encodeElem_of_int {woc : Nat} (h : wocFmt woc ∈ [fmtInt8, fmtInt32]) (draw : Nat)
    (v : Val) : encodeElem woc draw v = encodeInt (wocFmt woc) woc draw v := by
  rcases List.mem_pair.mp h with h | h <;> simp [encodeElem, h, fmtInt8, fmtInt32, fmtBf16, fmtFp32]

/-- A value that rounds to zero in BF16 or FP32 keeps its sign. -/
theorem encodeFloat_of_round_zero {fmt woc draw m : Nat} {s k : Bool} {u : Int}
    (hfmt : fmt ∈ [fmtBf16, fmtFp32]) (hm : m ≠ 0)
    (hq : roundMag (wocMode woc) s draw (lsbFor fmt m u) m u k = 0) :
    encodeFloat fmt woc draw (.num s m u k) = if s then 2 ^ (elemBits fmt - 1) else 0 := by
  simp [encodeFloat, hm, hq, packFloat_zero (.inr hfmt)]

/-- An integer that is zero, or rounds to zero, has no sign. -/
theorem encodeInt_of_round_zero {fmt woc draw m : Nat} {s k : Bool} {u : Int}
    (hq : m = 0 ∨ roundMag (wocMode woc) s draw 0 m u k = 0) :
    encodeInt fmt woc draw (.num s m u k) = 0 := by
  have hq : (if m = 0 then 0 else roundMag (wocMode woc) s draw 0 m u k) = 0 := by
    rcases hq with h | h <;> simp [h]
  simp [encodeInt, hq]

/-- A value that rounds to zero in a floating-point element format keeps its sign. -/
theorem mxElem_of_round_zero {fmt woc draw m : Nat} {s above k : Bool} {u x : Int} (hfmt : fmt < 5)
    (hm : m ≠ 0) (hq : roundMag (wocMode woc) s draw (lsbFor fmt m (u - x)) m (u - x) k = 0) :
    mxElem fmt woc draw x above (.num s m u k) =
      some (if s then 2 ^ (elemBits fmt - 1) else 0) := by
  have h5 : fmt ≠ 5 := by omega
  simp [mxElem, hm, h5, hq, packFloat_zero (.inl hfmt)]

/-- MXINT8 has no negative zero. -/
theorem mxElem_int_of_round_zero {woc draw m : Nat} {s above k : Bool} {u x : Int} (hm : m ≠ 0)
    (hq : roundMag (wocMode woc) s draw (-6) m (u - x) k = 0) :
    mxElem fmtMxInt8 woc draw x above (.num s m u k) = some 0 := by
  simp [mxElem, fmtMxInt8, hm, hq]

/-- Settles O14: an exact zero is told apart before any rounding, and a magnitude rounded to zero
leaves the sign alone to be written. -/
theorem zeroResults : Obligations.ZeroResults := by
  unfold Obligations.ZeroResults
  refine ⟨?exact, ?exactMx, ?float, fun _ _ _ _ _ _ _ _ _ => mxElem_of_round_zero,
    fun _ _ _ _ _ _ _ _ => mxElem_int_of_round_zero, ?int⟩
  case exact =>
    intro woc draw s u _ hfmt
    have hfmt : wocFmt woc ∈ [fmtBf16, fmtFp32] ∨ wocFmt woc ∈ [fmtInt8, fmtInt32] :=
      List.mem_append.mp hfmt
    rcases hfmt with h | h
    · simp [encodeElem_of_float h, encodeFloat]
    · rw [encodeElem_of_int h, encodeInt_of_round_zero (.inl rfl)]
  case exactMx =>
    intro fmt woc draw s above u x _
    simp [mxElem]
  case float =>
    intro woc draw m s k u hfmt hm hq
    rw [encodeElem_of_float hfmt, encodeFloat_of_round_zero hfmt hm hq]
  case int =>
    intro woc draw m s k u hfmt hq
    rw [encodeElem_of_int hfmt, encodeInt_of_round_zero (.inr hq)]

end Sys2Proof.Machine
end

section
/-!
# ROUTE_START: how a step's MODE decides who selects (R80, R93, R94)
-/
namespace Sys2Proof.Machine

/-- A step that is set reads back. -/
@[simp] theorem State.step_setStep_same (s : State) (seq : Nat) (x : LStep) :
    (s.setStep seq x).step seq = some x :=
  lookup_insertK_same seq x s.xch.steps

/-! ## What stage 2 makes of a step -/

@[simp] theorem applyAnnounced_ctx (s : State) (seq model : Nat) :
    (applyAnnounced s seq model).2.ctx = s.ctx := by
  unfold applyAnnounced
  split
  · dsimp only
    split <;> rfl
  · rfl

/-- HOLD_LEFT is read from the table of contexts alone. -/
theorem holdLeft_congr {s t : State} (h : t.ctx = s.ctx) (ctx layer : Nat) :
    holdLeft t ctx layer = holdLeft s ctx layer := by
  simp [holdLeft, State.context, h]

/-- Scoring and selecting the tokens fills in the step's choices and candidates; its mode stays. -/
theorem routeTokens_step (s : State) (seq : Nat) (x : LStep) :
    ∃ y, (routeTokens s seq x).step seq = some y ∧ y.ec = x.ec ∧ y.auto = x.auto :=
  ⟨_, State.step_setStep_same .., rfl, rfl⟩

/-- The queued step `x` as stage 2 scores it: with its mode, and with the experts it leaves out as
the announced losses leave them. -/
def scoringStep (s : State) (seq : Nat) (x : LStep) : LStep :=
  let (lost, u) := applyAnnounced s seq x.model
  let m := lookupD {} x.model u.models
  { x with
    stage := .scoring, expertLost := lost, maskVer := m.maskVer
    ec := x.route.mode = 1 || (x.route.mode = 2 && holdLeft u x.ctx x.layer ≠ 0)
    auto := x.route.mode = 2, excluded := m.masked ++ m.unavailable }

/-- The state in which the tokens of the queued step `x` have been scored and selected. -/
def afterScoring (s : State) (seq : Nat) (x : LStep) : State :=
  let u := (routeRanges x).foldl (fun s d => noteReads s d.1 d.2) (applyAnnounced s seq x.model).2
  routeTokens (streamProgress u x.ctx x.stream) seq (scoringStep s seq x)

theorem scoringStep_auto (s : State) (seq : Nat) (x : LStep) :
    (scoringStep s seq x).auto = decide (x.route.mode = 2) := rfl

theorem scoringStep_ec (s : State) (seq : Nat) (x : LStep) :
    (scoringStep s seq x).ec = (decide (x.route.mode = 1) ||
      (decide (x.route.mode = 2) && decide (holdLeft s x.ctx x.layer ≠ 0))) := by
  rw [← holdLeft_congr (applyAnnounced_ctx s seq x.model)]
  rfl

/-! ## ROUTE_START of a step that nothing holds up -/

/-- The engines can take the queued step `x` now, and everything that its stage 2 reads is here. -/
structure RouteReady (s : State) (seq : Nat) (x : LStep) : Prop where
  idle : routedNow s = none
  running : flag s Fld.RUN_CTL_HALT = false
  room : s.xch.parked.length < 63
  next : nextQueued s = some (seq, x)
  unhalted : rteHalt s x = false
  powered : rtePowered s x = true
  holdHeld : holdLost s x = none
  pages : ∀ d ∈ routeRanges x, badPage s x.func d.1 d.2 = none ∧ absentPages s d.1 d.2 = []
  lines : windowLines s false (routeRanges x) = []

theorem execRouteStart_of_ready {s : State} {seq : Nat} {x : LStep} (h : RouteReady s seq x) :
    execRouteStart s = .next { afterScoring s seq x with
      xch := { (afterScoring s seq x).xch with routing := some seq } } := by
  obtain ⟨hidle, hrunning, hroom, hnext, hunhalted, hpowered, hheld, hpages, hlines⟩ := h
  have hmayTake : ((routedNow s).isSome || flag s Fld.RUN_CTL_HALT ||
      decide (63 ≤ s.xch.parked.length)) = false := by
    simp [hidle, hrunning, hroom]
  have htaken : ((nextQueued s).filter fun q => !rteHalt s q.2 && rtePowered s q.2) =
      some (seq, x) := by
    simp [hnext, hunhalted, hpowered]
  have hreadable : ((routeRanges x).findSome? fun d => badPage s x.func d.1 d.2) = none :=
    List.findSome?_eq_none_iff.mpr fun d hd => (hpages d hd).1
  have hpresent : ((routeRanges x).flatMap fun d => absentPages s d.1 d.2) = [] :=
    List.flatMap_eq_nil_iff.mpr fun d hd => (hpages d hd).2
  simp only [execRouteStart, hmayTake, htaken, hheld, hreadable, hpresent, hlines]
  rfl

/-- Settles O28: R93's three modes for the two flags of the step that ROUTE_START scores; scoring
and selecting its tokens keep both. -/
theorem expertChoiceMode : Obligations.ExpertChoiceMode := by
  unfold Obligations.ExpertChoiceMode
  intro seq x s hidle hrunning hroom hnext hunhalted hpowered hheld hpages hlines
  have hstart := execRouteStart_of_ready
    ⟨hidle, hrunning, hroom, hnext, hunhalted, hpowered, hheld, hpages, hlines⟩
  obtain ⟨y, hy, hec, hauto⟩ := routeTokens_step _ seq (scoringStep s seq x)
  rw [scoringStep_ec] at hec
  rw [scoringStep_auto] at hauto
  refine ⟨_, y, hstart, hy, fun hmode => ?expert, fun hmode => ?token, fun hmode => ?automatic⟩
  case expert => simp [hec, hauto, hmode]
  case token => simp [hec, hauto, hmode]
  case automatic => simp [hec, hauto, hmode]

end Sys2Proof.Machine
end

section
/-!
# The messages of a layer step (R85, R90, R97, R118, R122, R127, R346, R508)

Every message of the Runner passes the same frame, `recvEx`: `recvEx_of_takes` and
`recvEx_of_not_admitted` say once what it does with a message of its kind. Each row then has one
lemma for each thing that it can do with a message a group takes in. RETURN passes the frame in the
state that asking for a staging buffer leaves; asking is an event at a point of the perturbation
unit (R591), whose injectors write their own registers alone, so that the group still takes it in.
-/
namespace Sys2Proof.Machine

/-! ## Taking a message in (R117) -/

@[simp] theorem consumeEx_xch (s : State) (p : ExPkt) : (consumeEx s p).xch = s.xch := rfl

/-- Whether a group admits a packet depends on the groups alone. -/
theorem admitEx_congr {s t : State} (h : t.xch = s.xch) (p : ExPkt) :
    admitEx t p = admitEx s p := by
  simp only [admitEx, State.groupAt, h]

theorem recvEx_of_takes {s : State} {p : ExPkt} {kind : Nat} {g : Group} (h : GroupTakes s p kind g)
    (f : State → Group → State) : recvEx s p kind f = .next (f (consumeEx s p) g) := by
  obtain ⟨hkind, hstoked, hadmit⟩ := h
  simp [recvEx, hkind, hstoked, hadmit]

theorem recvEx_of_not_admitted {s : State} {p : ExPkt} {kind : Nat} (hkind : p.kind = kind)
    (hstoked : stoked s = true) (hadmit : admitEx (consumeEx s p) p = none)
    (f : State → Group → State) :
    recvEx s p kind f = .next (count (consumeEx s p) (bankRun (sliceOf s p)) 12) := by
  simp [recvEx, hkind, hstoked, hadmit]

/-- A packet that names no open step is no step's progress. -/
theorem noteReceipt_of_no_step {s : State} {p : ExPkt}
    (h : stepFor s p.group p.mscSeq p.layer = none) : noteReceipt s p = s := by
  simp [noteReceipt, h]

theorem stepFor_of_no_steps {s : State} (h : s.xch.steps = []) (gid msc layer : Nat) :
    stepFor s gid msc layer = none := by
  simp [stepFor, h]

section
variable {s : State} {p : ExPkt} {g : Group} {seq : Nat} {x : LStep}

/-! ## COUNT, EC_CANDIDATES, EC_ASSIGNMENT and ARM -/

theorem execCount_of_counting (h : GroupTakes s p 3 g)
    (hx : (noteReceipt (consumeEx s p) p).xch.steps.find? (fun e => e.2.group = p.group &&
      e.2.msc = p.mscSeq && e.2.layer = p.layer && e.2.stage ≠ .queued && e.2.stage ≠ .scoring &&
      e.2.stage ≠ .done) = some (seq, x)) :
    execCount p s = .next (takeCount (noteReceipt (consumeEx s p) p) seq p) := by
  simp only [execCount, recvEx_of_takes h, hx]

theorem execCount_of_not_admitted (hkind : p.kind = 3) (hstoked : stoked s = true)
    (hadmit : admitEx (consumeEx s p) p = none) :
    execCount p s = .next (count (consumeEx s p) (bankRun (sliceOf s p)) 12) :=
  recvEx_of_not_admitted hkind hstoked hadmit _

/-- A COUNT while no step is open waits for its step. -/
theorem execCount_of_early (h : GroupTakes s p 3 g) (hnone : (consumeEx s p).xch.steps = [])
    (hlate : takeLate (consumeEx s p) g p = none) :
    execCount p s = .next { consumeEx s p with
      xch := { (consumeEx s p).xch with early := (consumeEx s p).xch.early ++ [p] } } := by
  simp only [execCount, recvEx_of_takes h, noteReceipt_of_no_step (stepFor_of_no_steps hnone ..),
    hnone, List.find?_nil, hlate]

/-- A COUNT of the step that ended last does not wait: its announcements count (R97). -/
theorem execCount_of_late {t : State} (h : GroupTakes s p 3 g)
    (hnone : (consumeEx s p).xch.steps = []) (hlate : takeLate (consumeEx s p) g p = some t) :
    execCount p s = .next t := by
  simp only [execCount, recvEx_of_takes h, noteReceipt_of_no_step (stepFor_of_no_steps hnone ..),
    hnone, List.find?_nil, hlate]

theorem execEcCandidates_of_whole {bs : List Byte} (h : GroupTakes s p 4 g)
    (hx : stepFor (noteReceipt (consumeEx s p) p) p.group p.mscSeq p.layer = some (seq, x))
    (hstage : x.stage = .choosing)
    (hwhole : assembled (assemble (lookupD ([], []) p.srcRank x.candParts) p.frag p.data) =
      some bs) :
    execEcCandidates p s = .next (takeCands ((noteReceipt (consumeEx s p) p).setStep seq { x with
      candParts := insertK p.srcRank
        (assemble (lookupD ([], []) p.srcRank x.candParts) p.frag p.data) x.candParts })
      seq p.srcRank bs) := by
  simp only [execEcCandidates, recvEx_of_takes h, hx, hwhole, if_pos hstage]

theorem execEcAssignment_of_whole {bs : List Byte} (h : GroupTakes s p 4 g)
    (hx : stepFor (noteReceipt (consumeEx s p) p) p.group p.mscSeq p.layer = some (seq, x))
    (hstage : x.stage = .choosing)
    (hwhole : assembled (assemble (lookupD ([], []) p.srcRank x.assignParts) p.frag p.data) =
      some bs) :
    execEcAssignment p s = .next (takeAssign ((noteReceipt (consumeEx s p) p).setStep seq { x with
      assignParts := insertK p.srcRank
        (assemble (lookupD ([], []) p.srcRank x.assignParts) p.frag p.data) x.assignParts })
      seq p.srcRank bs) := by
  simp only [execEcAssignment, recvEx_of_takes h, hx, hwhole, if_pos hstage]

theorem execArm_of_open (h : GroupTakes s p 10 g)
    (hx : stepFor (noteReceipt (consumeEx s p) p) p.group p.mscSeq p.layer = some (seq, x)) :
    execArm p s = .next (takeArm (noteReceipt (consumeEx s p) p) seq p.srcRank) := by
  simp only [execArm, recvEx_of_takes h, hx]

/-! ## DISPATCH and REDO -/

theorem execDispatch_of_data (h : GroupTakes s p 1 g)
    (hx : stepFor (noteReceipt (consumeEx s p) p) p.group p.mscSeq p.layer = some (seq, x))
    (hstage : x.stage = .data) :
    execDispatch p s = .next (settleWork (bringDispatch (noteReceipt (consumeEx s p) p)
      (ownerSlice (noteReceipt (consumeEx s p) p) p.destTile) p)) := by
  simp only [execDispatch, recvEx_of_takes h, hx, if_pos hstage]

theorem execDispatch_of_no_step (h : GroupTakes s p 1 g)
    (hnone : stepFor (consumeEx s p) p.group p.mscSeq p.layer = none) :
    execDispatch p s = .next (consumeEx s p) := by
  simp only [execDispatch, recvEx_of_takes h, noteReceipt_of_no_step hnone, hnone]

theorem execRedo_of_open (h : GroupTakes s p 12 g)
    (hx : stepFor (count (noteReceipt (consumeEx s p) p) bankRas 4) p.group p.mscSeq p.layer =
      some (seq, x)) :
    execRedo p s = .next (resendRows (count (noteReceipt (consumeEx s p) p) bankRas 4) seq p.srcRank
      p.destTile) := by
  simp only [execRedo, recvEx_of_takes h, hx]

/-- A step that has ended sends again at once; where it had sent nothing for the tile, there is
nothing to send. -/
theorem resendRows_of_done (hx : s.step seq = some x) (hdone : x.stage = .done) (rank tile : Nat) :
    resendRows s seq rank tile = (sortBy dispatchBefore (x.choices.filter fun c =>
      c.sent && !c.spill && c.destTile = tile &&
        c.destEp = (groupOf s x.group).endpoint rank)).foldl
          (fun s c => dispatchOne s seq c) s := by
  simp only [resendRows, hx, if_pos hdone]
  split
  next hnone =>
    rw [List.filter_eq_nil_iff.mpr (by simpa using hnone)]
    rfl
  next => rfl

end

/-! ## What asking for a staging buffer leaves as it is -/

/-- The power state is read from the registers alone. -/
theorem stoked_congr {s t : State} (h : t.regs = s.regs) : stoked t = stoked s := by
  simp only [stoked, fld_congr h]

/-- Counting in a field of another register leaves the power state. -/
theorem stoked_bumpFld {f : FieldRef} {i : Nat}
    (h : regKey Reg.PWR_STATUS 0 0 ≠ regKey f.reg i 0) (s : State) (n : Nat) :
    stoked (bumpFld s f n i) = stoked s := by
  unfold stoked bumpFld
  rw [fld_setFld_reg _ _ _ _ _ _ _ _ h]

@[simp] theorem injectorEvent_xch (s : State) (i : Nat) : (injectorEvent s i).2.xch = s.xch := by
  unfold injectorEvent
  dsimp only
  split <;> simp

/-- An injector counts its events and its firings in registers of the perturbation unit. -/
@[simp] theorem injectorEvent_stoked (s : State) (i : Nat) :
    stoked (injectorEvent s i).2 = stoked s := by
  have hevents : regKey Reg.PWR_STATUS 0 0 ≠ regKey Fld.PRT_INJ_EVENTS_EVENTS.reg i 0 := by
    simp only [regKey, Reg.PWR_STATUS, Fld.PRT_INJ_EVENTS_EVENTS, Reg.PRT_INJ_EVENTS,
      Bool.false_eq_true, if_false]
    omega
  have hfired : regKey Reg.PWR_STATUS 0 0 ≠ regKey Fld.PRT_INJ_FIRED_FIRED.reg i 0 := by
    simp only [regKey, Reg.PWR_STATUS, Fld.PRT_INJ_FIRED_FIRED, Reg.PRT_INJ_FIRED,
      Bool.false_eq_true, if_false]
    omega
  have hcounted : stoked (bumpFld (bumpFld s Fld.PRT_INJ_EVENTS_EVENTS 1 i)
      Fld.PRT_INJ_FIRED_FIRED 1 i) = stoked s := by
    rw [stoked_bumpFld hfired, stoked_bumpFld hevents]
  unfold injectorEvent
  dsimp only
  split
  · rw [stoked_bumpFld hevents]
  · rw [← hcounted]
    exact stoked_congr (by simp)

/-- An event at a point changes neither the exchange nor the power state. -/
theorem injectAt_keeps (s : State) (target unit sub : Nat) :
    (injectAt s target unit sub).xch = s.xch ∧ stoked (injectAt s target unit sub) = stoked s := by
  unfold injectAt inject
  split
  · exact ⟨rfl, rfl⟩
  · refine List.foldlRecOn
      (motive := fun a : Bool × State => a.2.xch = s.xch ∧ stoked a.2 = stoked s) _ _ ⟨rfl, rfl⟩
      fun a ⟨hxch, hstoked⟩ i _ => ?_
    exact ⟨(injectorEvent_xch a.2 i).trans hxch, (injectorEvent_stoked a.2 i).trans hstoked⟩

theorem pool0Ask_keeps (s : State) (die tag : Nat) :
    (pool0Ask s die tag).2.xch = s.xch ∧ stoked (pool0Ask s die tag).2 = stoked s := by
  obtain ⟨hxch, hstoked⟩ := injectAt_keeps s 7 die 0
  unfold pool0Ask
  dsimp only
  split
  · exact ⟨(count_xch ..).trans hxch, (stoked_congr (count_regs ..)).trans hstoked⟩
  · exact ⟨hxch, hstoked⟩

theorem stageBuf_keeps (s : State) (die : Nat) :
    (stageBuf s die).2.xch = s.xch ∧ stoked (stageBuf s die).2 = stoked s := by
  unfold stageBuf
  split
  · exact ⟨rfl, rfl⟩
  · split
    · exact ⟨rfl, rfl⟩
    · exact pool0Ask_keeps s die 1

/-- Whether a group takes a message in depends on the exchange and on the power state. -/
theorem GroupTakes.congr {s t : State} {p : ExPkt} {kind : Nat} {g : Group}
    (h : GroupTakes s p kind g) (hxch : t.xch = s.xch) (hstoked : stoked t = stoked s) :
    GroupTakes t p kind g := by
  obtain ⟨hkind, hs, hadmit⟩ := h
  refine ⟨hkind, hstoked.trans hs, ?_⟩
  rwa [admitEx_congr (s := consumeEx s p) (by simpa using hxch)]

/-! ## RETURN -/

/-- A RETURN that a group takes in goes on to ask for a staging buffer. -/
theorem return_not_turned_away {s : State} {p : ExPkt} {g : Group} (h : GroupTakes s p 2 g) :
    (decide (p.kind ≠ 2) || !stoked s || (admitEx s p).isNone) = false := by
  obtain ⟨hkind, hstoked, hadmit⟩ := h
  rw [admitEx_congr (consumeEx_xch s p)] at hadmit
  simp [hkind, hstoked, hadmit]

/-- Without a staging buffer it waits, and remains delivered. -/
theorem execReturn_of_no_buffer {s u : State} {p : ExPkt} {g : Group} (h : GroupTakes s p 2 g)
    (hbuf : stageBuf s (sliceOf s p) = (none, u)) : execReturn p s = .next u := by
  simp only [execReturn, return_not_turned_away h, hbuf, Bool.false_eq_true, if_false]

/-- With a staging buffer it passes the frame in the state that asking left. -/
theorem execReturn_of_buffer {s u : State} {p : ExPkt} {g : Group} {b : Nat}
    (h : GroupTakes s p 2 g) (hbuf : stageBuf s (sliceOf s p) = (some b, u)) :
    execReturn p s = .next (settleWork (pool0Give
      (takeReturn (noteReceipt (consumeEx u p) p) p (sliceOf s p)) (sliceOf s p) b)) := by
  obtain ⟨hxch, hstoked⟩ := stageBuf_keeps s (sliceOf s p)
  rw [hbuf] at hxch hstoked
  simp only [execReturn, return_not_turned_away h, hbuf, Bool.false_eq_true, if_false,
    recvEx_of_takes (h.congr hxch hstoked)]

/-- Settles O30: each clause is the lemma of its row for what it does with that message. -/
theorem stepMessages : Obligations.StepMessages := by
  unfold Obligations.StepMessages
  exact ⟨fun _ _ _ _ _ h hx => execCount_of_counting h hx,
    fun _ _ _ h hnone hlate => execCount_of_early h hnone hlate,
    fun _ _ _ _ h hnone hlate => execCount_of_late h hnone hlate,
    fun _ _ _ _ _ _ h hx hstage hwhole => execEcCandidates_of_whole h hx hstage hwhole,
    fun _ _ _ _ _ _ h hx hstage hwhole => execEcAssignment_of_whole h hx hstage hwhole,
    fun _ _ _ _ _ h hx => execArm_of_open h hx,
    fun _ _ hkind hstoked hadmit => execCount_of_not_admitted hkind hstoked hadmit,
    fun _ _ _ _ _ h hx hstage => execDispatch_of_data h hx hstage,
    fun _ _ _ h hnone => execDispatch_of_no_step h hnone,
    fun _ _ _ _ _ h hbuf => execReturn_of_buffer h hbuf,
    fun _ _ _ _ _ h hx => execRedo_of_open h hx,
    fun _ rank tile _ _ hx hdone => resendRows_of_done hx hdone rank tile,
    fun _ _ _ _ h hbuf => execReturn_of_no_buffer h hbuf⟩

end Sys2Proof.Machine
end

section
/-!
# The commands of groups and of collectives (R111–R116, R133, R151, R313, R390, R454)

The frame of a host command, `runCmd`, has one lemma for each thing that it does with a command
about to take effect: it ends the command with the precondition that fails, or it gives the command
its effect. COLLECTIVE is written without the frame, for RUN_CTL.HALT comes before its
preconditions; its lemmas follow the order of its own checks.
-/
namespace Sys2Proof.Machine

/-! ## The frame of a host command (R269, R294, R345) -/

section
variable {s : State} {seq op : Nat} {c : OpenCmd}

theorem runCmd_of_pass (h : Starts s seq op c) {pre : OpenCmd → Option PreFail}
    (hpre : pre c = none) (run : OpenCmd → State) : runCmd s seq op pre run = .next (run c) := by
  obtain ⟨htakes, hfaulted⟩ := h
  simp [runCmd, htakes, hfaulted, hpre]

theorem runCmd_of_fail (h : Starts s seq op c) {pre : OpenCmd → Option PreFail} {f : PreFail}
    (hpre : pre c = some f) (run : OpenCmd → State) :
    runCmd s seq op pre run = .next (completeWith s seq f.status f.num f.word0 f.word1) := by
  obtain ⟨htakes, hfaulted⟩ := h
  simp [runCmd, htakes, hfaulted, hpre]

end

/-! ## GROUP_CREATE -/

theorem cq_setCq_same (s : State) (func queue : Nat) (x : Cq) :
    (s.setCq func queue x).cq func queue = some x := by
  simp [State.cq]

/-- GROUP_CREATE's effect: the group's entries are reserved on its queue `q`, and it is kept for
its commit under `key`. -/
def reserveGroup (s : State) (seq func key : Nat) (q : Cq) (g : Group) : State :=
  let s := s.setCq func g.cq { q with groupReserved := q.groupReserved + g.entries }
  { s with xch := { s.xch with
    newGroups := insertK seq (key, { g with reserved := g.entries }) s.xch.newGroups } }

theorem reserveGroup_cq (s : State) (seq func key : Nat) (q : Cq) (g : Group) :
    (reserveGroup s seq func key q g).cq func g.cq =
      some { q with groupReserved := q.groupReserved + g.entries } :=
  cq_setCq_same s func g.cq _

theorem reserveGroup_newGroups (s : State) (seq func key : Nat) (q : Cq) (g : Group) :
    lookup seq (reserveGroup s seq func key q g).xch.newGroups =
      some (key, { g with reserved := g.entries }) :=
  lookup_insertK_same ..

/-- The group that GROUP_CREATE makes: its descriptor's, with the members its list holds. -/
def createdGroup (s : State) (c : OpenCmd) : Group :=
  { (groupDesc c.func (c.payload.getD [])).2.2 with
    members := memberWords s (groupDesc c.func (c.payload.getD [])).2.1
      (groupSize (c.payload.getD [])) }

theorem execGroupCreate_of_pass {s : State} {seq : Nat} {c : OpenCmd} {q : Cq}
    (h : Starts s seq 0xA0 c) (hpre : groupCreatePre s c = none)
    (hq : s.cq c.func (createdGroup s c).cq = some q) :
    execGroupCreate seq s = .next (completeWith (reserveGroup s seq c.func
      (groupKey (createdGroup s c).epoch (groupDesc c.func (c.payload.getD [])).1) q
      (createdGroup s c)) seq stOk) := by
  have hqueue : s.cq c.func (groupDesc c.func (c.payload.getD [])).2.2.cq = some q := hq
  unfold execGroupCreate
  rw [runCmd_of_pass h hpre]
  simp only [hqueue]
  rfl

/-! ## GROUP_DESTROY -/

theorem execGroupDestroy_of_starts {s : State} {seq : Nat} {c : OpenCmd} {g : Group}
    (h : Starts s seq 0xA1 c)
    (hg : s.groupAt (groupKey (pktBits c.pkt 26 0 16) (pktBits c.pkt 24 0 16)) = some g) :
    execGroupDestroy seq s = .next
      (if pktBits c.pkt 26 0 16 = curEpoch s ∧ groupOpen s (pktBits c.pkt 24 0 16) = true
       then completeWith s seq stBadParam 2 else completeWith s seq stOk) := by
  unfold execGroupDestroy
  split
  next hopen =>
    exact runCmd_of_fail h (f := { num := 2 }) (by simp only [firstFail, hg]; simp [hopen]) _
  next hopen => exact runCmd_of_pass h (by simp [firstFail, hg, hopen]) _

/-! ## COLLECTIVE -/

/-- While RUN_CTL.HALT is 1 the Runner starts no collective (R151). -/
theorem execCollective_of_halt {s : State} (hhalt : flag s Fld.RUN_CTL_HALT = true) (seq : Nat) :
    execCollective seq s = .next s := by
  unfold execCollective
  split
  next => rfl
  next => rw [if_pos hhalt]

section
variable {s : State} {seq : Nat} {c : OpenCmd}

theorem execCollective_of_fail {f : PreFail} (h : Starts s seq 0xA8 c)
    (hrunning : flag s Fld.RUN_CTL_HALT = false) (hpre : collectivePre s c = some f) :
    execCollective seq s = .next (completeWith s seq f.status f.num f.word0 f.word1) := by
  obtain ⟨htakes, hfaulted⟩ := h
  simp [execCollective, htakes, hfaulted, hrunning, hpre]

/-- With every page it reads in DRAM a collective begins, or first asks for the lines that a peer
holds (R454). -/
theorem execCollective_of_present {g : Group} (h : Starts s seq 0xA8 c)
    (hrunning : flag s Fld.RUN_CTL_HALT = false) (hpre : collectivePre s c = none)
    (hg : s.group (pktBits c.pkt 24 0 16) = some g)
    (hpages : ∀ d ∈ collRanges s c.pkt g.members.length, absentPages s d.1 d.2 = []) :
    execCollective seq s = .next
      (if windowLines s false (collRanges s c.pkt g.members.length) = [] then beginColl s seq c g
       else askLines s (windowLines s false (collRanges s c.pkt g.members.length))) := by
  obtain ⟨htakes, hfaulted⟩ := h
  have hpresent : ((collRanges s c.pkt g.members.length).flatMap fun d =>
      absentPages s d.1 d.2) = [] := List.flatMap_eq_nil_iff.mpr hpages
  simp only [execCollective, htakes, hfaulted, hrunning, hpre, hg, hpresent, List.isEmpty_iff,
    Bool.false_eq_true, if_false]
  split <;> rfl

/-- The pages without a DRAM copy are fetched first (R390). -/
theorem execCollective_of_absent {g : Group} {p : Nat} {ps : List Nat} (h : Starts s seq 0xA8 c)
    (hrunning : flag s Fld.RUN_CTL_HALT = false) (hpre : collectivePre s c = none)
    (hg : s.group (pktBits c.pkt 24 0 16) = some g)
    (habsent : ((collRanges s c.pkt g.members.length).flatMap fun d => absentPages s d.1 d.2) =
      p :: ps) :
    execCollective seq s = .next
      ((p :: ps).foldl (fun s p => queueMove s { kind := .demand, page := p, seq }) s) := by
  obtain ⟨htakes, hfaulted⟩ := h
  simp only [execCollective, htakes, hfaulted, hrunning, hpre, hg, habsent, Bool.false_eq_true,
    if_false]

end

/-- Settles O26: each clause is the lemma of its command for what that command meets. -/
theorem groupAndCollectiveCommands : Obligations.GroupAndCollectiveCommands := by
  unfold Obligations.GroupAndCollectiveCommands
  refine ⟨?create, fun _ _ _ _ h hg => execGroupDestroy_of_starts h hg,
    fun _ _ _ _ h hrunning hpre hg hpages => execCollective_of_present h hrunning hpre hg hpages,
    fun _ _ _ _ h hrunning hpre => execCollective_of_fail h hrunning hpre,
    fun seq _ hhalt => execCollective_of_halt hhalt seq,
    fun _ _ _ _ _ _ h hrunning hpre hg habsent =>
      execCollective_of_absent h hrunning hpre hg habsent⟩
  case create =>
    rintro seq c q g s h hpre rfl hq
    exact ⟨_, reserveGroup_cq .., reserveGroup_newGroups .., execGroupCreate_of_pass h hpre hq⟩

end Sys2Proof.Machine
end

section
/-!
# The messages of collectives, re-formation, and the Runner's controls (R106, R133–R151, R346)

A message that a group takes in passes the frame `recvEx`, so that its row's lemma is
`recvEx_of_takes`, with the branch of the row that the message takes. The register rows rest on
what writing a field does: the field reads as written, and only the registers change. A map of
virtual channels is taken where removing duplicates leaves all five, which is that they differ.
-/
namespace Sys2Proof.Machine

/-! ## Messages (R135–R141, R144, R145) -/

section
variable {s : State} {p : ExPkt} {g : Group}

theorem execCollData_of_takes (h : GroupTakes s p 4 g) :
    execCollData p s = .next (routeColl (consumeEx s p) g p) :=
  recvEx_of_takes h _

theorem execCredit_of_takes (h : GroupTakes s p 7 g) :
    execCredit p s = .next (routeColl (consumeEx s p) g p) :=
  recvEx_of_takes h _

theorem execDesc_of_takes (h : GroupTakes s p 9 g) :
    execDesc p s = .next (routeColl (consumeEx s p) g p) :=
  recvEx_of_takes h _

theorem execBarrier_of_takes (h : GroupTakes s p 8 g) :
    execBarrier p s = .next (routeColl (consumeEx s p) g p) :=
  recvEx_of_takes h _

theorem execAbort_of_takes (h : GroupTakes s p 5 g) :
    execAbort p s = .next (takeAbort (consumeEx s p) g p) :=
  recvEx_of_takes h _

theorem execSuspect_of_takes (h : GroupTakes s p 11 g) :
    execSuspect p s = .next ((consumeEx s p).modGroup p.group fun g =>
      { g with
        suspects := if g.suspects.contains p.srcRank then g.suspects else p.srcRank :: g.suspects
        missing := (g.missing ++ maskRanks g.members.length p.data).eraseDups
        second := match g.second with | some t => some t | none => some s.ticks }) :=
  recvEx_of_takes h _

theorem execReform_of_new (h : GroupTakes s p 6 g) (hnew : p.reforms ≠ g.reforms)
    (hin : g.removed = false) :
    execReform p s = .next
      (adoptReform (consumeEx s p) p.group g (maskRanks g.members.length p.data)) := by
  simp [execReform, recvEx_of_takes h, hnew, hin]

theorem execReform_of_conflict {r : List Nat} (h : GroupTakes s p 6 g)
    (hsame : p.reforms = g.reforms) (hlast : g.lastRemoved = some r)
    (hother : rankMask (g.members.length + r.length) r ≠
      p.data.take (ceilDiv (g.members.length + r.length) 8)) :
    execReform p s = .next (setBroken (consumeEx s p) p.group (r.foldl min 2047)) := by
  simp only [execReform, recvEx_of_takes h, if_pos hsame, hlast, if_neg hother]

end

/-! ## Timers of a group (R143, R144, R146) -/

@[simp] theorem runErr_ticks (s : State) (f : FieldRef) (gid rank hash : Nat) :
    (runErr s f gid rank hash).ticks = s.ticks := by
  simp [runErr]

section
variable {s : State} {gid : Nat} {g : Group}

/-- A member that is itself the coordinator suspects on its own behalf. -/
theorem execGroupTimeout_of_coordinator (hg : s.group gid = some g) (hin : g.removed = false)
    (hfirst : g.suspected = none) (htiming : groupTiming s gid = true)
    (hcoord : coordinatorOf g (groupMissing s gid g) = g.rank) :
    execGroupTimeout gid s = .next
      ((runErr s Fld.RUN_ERR_TIMEOUT gid ((groupMissing s gid g).foldl min 2047) 0).modGroup gid
        fun h => { h with
          suspected := some s.ticks, second := some s.ticks
          suspects := if coordinatorOf g (groupMissing s gid g) = h.rank then h.rank :: h.suspects
            else h.suspects
          missing := if coordinatorOf g (groupMissing s gid g) = h.rank
            then (h.missing ++ groupMissing s gid g).eraseDups else h.missing }) := by
  have hstarts : (g.removed || g.suspected.isSome || !groupTiming s gid) = false := by
    simp [hin, hfirst, htiming]
  simp only [execGroupTimeout, hg, hstarts, if_pos hcoord, runErr_ticks, Bool.false_eq_true,
    if_false]

theorem execSuspectTimerEnd_of_removed {t : Nat} (hg : s.group gid = some g)
    (hsecond : g.second = some t) (hout : g.removed = true) :
    execSuspectTimerEnd gid s = .next (s.modGroup gid fun g => { g with second := none }) := by
  simp [execSuspectTimerEnd, hg, hsecond, hout]

/-- The ranks that a coordinator removes: those held missing, and those that stayed silent
(R144). -/
def removedSet (g : Group) : List Nat :=
  (upFrom 0 g.members.length).filter fun r =>
    g.missing.contains r || (r ≠ g.rank && !g.suspects.contains r)

theorem execSuspectTimerEnd_of_suspects {t : Nat} (hg : s.group gid = some g)
    (hsecond : g.second = some t) (hin : g.removed = false) (hsuspects : g.suspects ≠ []) :
    execSuspectTimerEnd gid s = .next (adoptReform (g.peers.foldl (fun s m =>
      sendEx s g.func 0 (g.endpoint m) .runner
        { kind := 6, group := gid, reforms := (g.reforms + 1) % 2 ^ 16, srcRank := g.rank
          data := rankMask g.members.length (removedSet g) })
      (s.modGroup gid fun g => { g with second := none })) gid g (removedSet g)) := by
  have hdecides : (g.removed || g.suspects.isEmpty) = false := by simp [hin, hsuspects]
  simp only [execSuspectTimerEnd, hg, hsecond, hdecides, Bool.false_eq_true, if_false]
  rfl

/-- A member whose suspicion nobody answers counts itself removed (R146). -/
theorem execReformWaitTimeout_of_suspected (hg : s.group gid = some g)
    (hsuspected : g.suspected.isSome = true) (hin : g.removed = false)
    (hother : g.rank ∉ g.suspects) :
    execReformWaitTimeout gid s = .next (runErr
      ((endGroupWork s gid true { status := stGroupReformed, word0 := removedBroken }).modGroup gid
        fun g => { g with removed := true, broken := true, suspected := none, second := none })
      Fld.RUN_ERR_BROKEN gid g.rank 0) := by
  have hwaits : (g.suspected.isNone || g.removed || g.suspects.contains g.rank) = false := by
    simp [hsuspected, hin, hother]
  simp only [execReformWaitTimeout, hg, hwaits, Bool.false_eq_true, if_false]

end

/-! ## Writing a field -/

theorem raw_congr {s t : State} (h : t.regs = s.regs) (r : RegSpec) (i fn : Nat) :
    raw t r i fn = raw s r i fn := by
  simp only [raw, h]

theorem setErr_regs (s : State) (f : FieldRef) (i fn : Nat) :
    (setErr s f i fn).regs = (setFld s f 1 i fn).regs :=
  irqUpdate_regs _

/-- But for four registers, every copy resets to the value of the register's table. -/
theorem resetOf_eq_commonReset {r : RegSpec}
    (h : r.base ∉ [Reg.HIF_FN_Q, Reg.HIF_FN_CTX, Reg.HIF_FN_WSP, Reg.PMC_MASK].map RegSpec.base)
    (i : Nat) : r.resetOf i = r.commonReset := by
  simp only [List.map_cons, List.map_nil, List.mem_cons, List.not_mem_nil, or_false, not_or] at h
  obtain ⟨hq, hctx, hwsp, hmask⟩ := h
  simp only [RegSpec.resetOf, if_neg hq, if_neg hctx, if_neg hwsp, if_neg hmask]

/-- A flag reads as it was set. -/
theorem flag_setFld_same (s : State) {f : FieldRef} (b : Bool) {i : Nat}
    (hreset : f.reg.resetOf i < 2 ^ 64) (hend : f.lo + f.len ≤ 64) (hone : f.len = 1) :
    flag (setFld s f (b2n b) i) f i = b := by
  have hb : b2n b < 2 ^ f.len := by
    rw [hone]
    cases b <;> decide
  rw [flag, fld_setFld_same _ _ _ _ _ hreset hend hb]
  cases b <;> rfl

/-- A write of a register changes nothing else. -/
theorem setRaw_restored (s : State) (r : RegSpec) (i fn v : Nat) :
    { setRaw s r i fn v with regs := s.regs } = s := by
  unfold setRaw
  dsimp only
  split <;> rfl

/-! ## The map of virtual channels (R149, R151) -/

theorem length_eraseDups_le : ∀ l : List Nat, l.eraseDups.length ≤ l.length
  | [] => Nat.le_refl 0
  | a :: l => by
    rw [List.eraseDups_cons]
    exact Nat.succ_le_succ ((length_eraseDups_le _).trans (List.length_filter_le ..))
termination_by l => l.length
decreasing_by exact Nat.lt_succ_of_le (List.length_filter_le ..)

/-- Removing duplicates keeps every entry just where there is none to remove. -/
theorem length_eraseDups_eq_iff (l : List Nat) : l.eraseDups.length = l.length ↔ l.Nodup := by
  induction l with
  | nil => simp
  | cons a l ih =>
    rw [List.eraseDups_cons, List.nodup_cons, List.length_cons, List.length_cons, Nat.succ_inj]
    by_cases ha : a ∈ l
    · have hfilter : (l.filter fun b => !b == a).length < l.length :=
        List.length_filter_lt_length_iff_exists.mpr ⟨a, ha, by simp⟩
      have hle := length_eraseDups_le (l.filter fun b => !b == a)
      exact ⟨fun h => by omega, fun h => absurd ha h.1⟩
    · have hself : (l.filter fun b => !b == a) = l :=
        List.filter_eq_self.mpr fun b hb => by simpa using ne_of_mem_of_not_mem hb ha
      rw [hself, ih]
      exact ⟨fun h => ⟨ha, h⟩, And.right⟩

/-- The virtual channels that a value gives the five classes. -/
def classVcs (v : Nat) : List Nat :=
  [bitsOf v 0 3, bitsOf v 4 3, bitsOf v 8 3, bitsOf v 12 3, bitsOf v 16 3]

/-- What RUN_CLASS_MAP stores of a value that is taken. -/
def classMapOf (v : Nat) : Nat :=
  bitsOf v 0 3 + bitsOf v 4 3 * 2 ^ 4 + bitsOf v 8 3 * 2 ^ 8 + bitsOf v 12 3 * 2 ^ 12 +
    bitsOf v 16 3 * 2 ^ 16

theorem classMapOf_lt (v : Nat) : classMapOf v < 2 ^ 64 := by
  have h0 := bitsOf_lt v 0 3
  have h4 := bitsOf_lt v 4 3
  have h8 := bitsOf_lt v 8 3
  have h12 := bitsOf_lt v 12 3
  have h16 := bitsOf_lt v 16 3
  unfold classMapOf
  omega

theorem classVcs_eraseDups (v : Nat) : (classVcs v).eraseDups.length = 5 ↔ (classVcs v).Nodup :=
  length_eraseDups_eq_iff (classVcs v)

theorem execRunClassMapWrite_of_nodup {v : Nat} (h : (classVcs v).Nodup) (s : State) :
    execRunClassMapWrite v s = .next (setRaw s Reg.RUN_CLASS_MAP 0 0 (classMapOf v)) := by
  have hfive : ¬ (classVcs v).eraseDups.length ≠ 5 := not_not.mpr ((classVcs_eraseDups v).mpr h)
  refine (if_neg hfive).trans ?_
  simp [classMapOf]

theorem execRunClassMapWrite_of_not_nodup {v : Nat} (h : ¬ (classVcs v).Nodup) (s : State) :
    execRunClassMapWrite v s = .next (runErr s Fld.RUN_ERR_MAP_REFUSED 0 0 0) :=
  if_pos fun hfive => h ((classVcs_eraseDups v).mp hfive)

theorem flag_runErr_same (s : State) {f : FieldRef} (gid rank hash : Nat)
    (hreset : f.reg.resetOf 0 < 2 ^ 64) (hend : f.lo + f.len ≤ 64) (hone : f.len = 1) :
    flag (runErr s f gid rank hash) f = true := by
  unfold runErr flag
  rw [fld_congr (setErr_regs ..)]
  exact flag_setFld_same _ true hreset hend hone

/-- An error of the Runner leaves every register but RUN_ERR_INFO and the one that reports it. -/
theorem raw_runErr_of_ne (s : State) {f : FieldRef} {r : RegSpec} (gid rank hash : Nat)
    (hinfo : regKey r 0 0 ≠ regKey Reg.RUN_ERR_INFO 0 0) (herr : regKey r 0 0 ≠ regKey f.reg 0 0) :
    raw (runErr s f gid rank hash) r = raw s r := by
  unfold runErr
  rw [raw_congr (setErr_regs ..), setFld, raw_setRaw_ne _ _ _ _ _ _ _ _ herr,
    raw_setRaw_ne _ _ _ _ _ _ _ _ hinfo]

/-! ## HALT (R106, R151) -/

theorem setFld_restored (s : State) (f : FieldRef) (x i fn : Nat) :
    { setFld s f x i fn with regs := s.regs } = s :=
  setRaw_restored ..

/-- RTE_HALT writes the bit in the state that keeps stage 4, and so changes beside the registers
only the exchange. -/
theorem setFld_keepStage4_restored (s : State) (f : FieldRef) (x i fn : Nat) :
    { setFld (keepStage4 s) f x i fn with regs := s.regs, xch := s.xch } = s :=
  congrArg (fun u : State => { u with xch := s.xch }) (setFld_restored (keepStage4 s) f x i fn)

/-! ## POOL0_ALLOC (R346, R348) -/

section
variable {s : State} {die : Nat}

/-- The allocation `w` of a base die gets the buffer that its pool 0 answers. -/
def grantPool0 (s : State) (die : Nat) (w : Nat × Nat) (bufs : List Nat) (p : Pool) : State :=
  count { s with hop := { s.hop with
    pool0 := insertK die p s.hop.pool0, waiting := s.hop.waiting.erase w
    pool0Given := s.hop.pool0Given ++ [(w.2, die * 4096 + bufs.headD 0)] } } (bankHop die) 0

theorem execPool0Alloc_of_free {w : Nat × Nat} {bufs : List Nat} {p : Pool}
    (hw : s.hop.waiting.find? (fun w => w.1 = die) = some w)
    (hreq : (pool0Of s die).request 0 1 = .inr (bufs, p)) :
    execPool0Alloc die s = .next (grantPool0 s die w bufs p) := by
  simp only [execPool0Alloc, hw, hreq]
  rfl

theorem execPool0Alloc_of_none_waiting (hw : s.hop.waiting.find? (fun w => w.1 = die) = none) :
    execPool0Alloc die s = .next s := by
  simp only [execPool0Alloc, hw]

theorem execPool0Alloc_of_none_free {w : Nat × Nat} {e : AllocFail}
    (hw : s.hop.waiting.find? (fun w => w.1 = die) = some w)
    (hreq : (pool0Of s die).request 0 1 = .inl e) : execPool0Alloc die s = .next s := by
  simp only [execPool0Alloc, hw, hreq]

end

/-- Settles O31: a message's clause is the frame's lemma with the branch that the message takes, a
timer's the lemma of its row; the register clauses follow from what writing a field does. -/
theorem collectiveMessages : Obligations.CollectiveMessages := by
  unfold Obligations.CollectiveMessages
  refine ⟨fun _ _ _ h => execCollData_of_takes h, fun _ _ _ h => execCredit_of_takes h,
    fun _ _ _ h => execDesc_of_takes h, fun _ _ _ h => execBarrier_of_takes h,
    fun _ _ _ h => execAbort_of_takes h, fun _ _ _ h => execSuspect_of_takes h,
    fun _ _ _ h hnew hin => execReform_of_new h hnew hin,
    fun _ _ _ _ h hsame hlast hother => execReform_of_conflict h hsame hlast hother,
    fun _ _ _ hg hin hfirst htiming hcoord =>
      execGroupTimeout_of_coordinator hg hin hfirst htiming hcoord,
    fun _ _ _ _ hg hsecond hout => execSuspectTimerEnd_of_removed hg hsecond hout,
    fun _ _ g _ hg hsecond hin hsuspects =>
      ⟨removedSet g, rfl, execSuspectTimerEnd_of_suspects hg hsecond hin hsuspects⟩,
    fun _ _ _ hg hsuspected hin hother =>
      execReformWaitTimeout_of_suspected hg hsuspected hin hother,
    ?mapTaken, ?mapRefused, ?runHalt, ?rteHalt, ?alloc,
    fun _ _ hw => execPool0Alloc_of_none_waiting hw,
    fun _ _ _ _ hw hreq => execPool0Alloc_of_none_free hw hreq⟩
  case mapTaken =>
    intro v s h
    exact ⟨_, execRunClassMapWrite_of_nodup h s, raw_setRaw_same _ _ _ _ _ (classMapOf_lt v)⟩
  case mapRefused =>
    intro v s h
    exact ⟨_, execRunClassMapWrite_of_not_nodup h s,
      flag_runErr_same s 0 0 0 (by decide) (by decide) rfl,
      raw_runErr_of_ne s 0 0 0 (by decide) (by decide)⟩
  case runHalt =>
    intro b s
    exact ⟨_, rfl, flag_setFld_same s b (by decide) (by decide) rfl, setFld_restored ..⟩
  case rteHalt =>
    intro n b s _
    have hreset : Reg.RTE_CTL.resetOf n < 2 ^ 64 := by
      rw [resetOf_eq_commonReset (by decide)]
      decide
    exact ⟨_, rfl, flag_setFld_same _ b hreset (by decide) rfl, setFld_xch ..,
      setFld_keepStage4_restored ..⟩
  case alloc =>
    intro die seq bufs p s hw hreq
    exact ⟨_, execPool0Alloc_of_free hw hreq, by simp [grantPool0], by simp [grantPool0],
      by simp [grantPool0], by simp [grantPool0], by simp [grantPool0]⟩

end Sys2Proof.Machine
end

section
/-!
# Work items start, and engine commands run (R154, R183, R184, R227, R230, R235, R392, R394, R539)

ENGINE_CMD_START looks first at whether the command at the front of an engine's queue can start at
all. `Startable` collects what that takes, once: what the row does with such a command is then one
lemma for each thing that the engine's error checks can meet, and each lemma for a command that
cannot start negates one part of it.
-/
open Sys2Proof
namespace Sys2Proof.Machine

/-! ## The rows -/

theorem exec_workItemStart (t : Nat) (e : KernelErrors) (s : State) :
    exec (.workItemStart t e) s = execWorkItemStart t e s := (rfl)

theorem exec_engineCmdStart (t e : Nat) (ecc : EngineEcc) (s : State) :
    exec (.engineCmdStart t e ecc) s = execEngineCmdStart t e ecc s := (rfl)

theorem exec_engineCmdComplete (t e : Nat) (s : State) :
    exec (.engineCmdComplete t e) s = execEngineCmdComplete t e s := (rfl)

/-! ## WORK_ITEM_START (R183, R227, R235) -/

@[simp] theorem timingTile_regs (s : State) (t : Nat) : (timingTile s t).regs = s.regs :=
  List.foldlRecOn (motive := fun u : State => u.regs = s.regs) _ _ rfl
    fun u hu seq _ => (State.modCmd_regs u seq _).trans hu

@[simp] theorem swapTile_regs (s : State) (t : Nat) : (swapTile s t).regs = s.regs := by
  unfold swapTile
  dsimp only
  split
  · rfl
  · simp

/-- A swap of banks writes no register, and so leaves the controls of every tile. -/
theorem flag_swapTile (s : State) (t : Nat) (f : FieldRef) (i : Nat) :
    flag (swapTile s t) f i = flag s f i := by
  simp only [flag, fld_congr (swapTile_regs s t)]

section
variable {s : State} {t : Nat} (e : KernelErrors)

/-- An idle tile comes to a command-list boundary, and goes on as TIL_CTL.HALT says. -/
theorem execWorkItemStart_of_idle (hruns : ((settleWork s).tile t).runs = true)
    (hdraining : ((settleWork s).tile t).draining = false)
    (hkernel : ((settleWork s).tile t).kernel = none) :
    execWorkItemStart t e s =
      if flag (settleWork s) Fld.TIL_CTL_HALT t then .next (swapTile (settleWork s) t)
      else .next (settleWork (takeItem (swapTile (settleWork s) t) t e.word e.dmem)) := by
  simp [execWorkItemStart, hruns, hdraining, hkernel, flag_swapTile]

theorem execWorkItemStart_of_kernel {k : Kernel}
    (hkernel : ((settleWork s).tile t).kernel = some k) :
    execWorkItemStart t e s = .next (settleWork s) := by
  simp [execWorkItemStart, hkernel]

end

/-! ## ENGINE_CMD_START (R154, R184, R230, R392, R394, R539) -/

/-- The command `c` at the front of an engine's queue, before the commands `q`, can start: the tile
runs, the command's events are there, a slot is free, and duty throttling does not hold the array's
passes. -/
structure Startable (s : State) (t e : Nat) (c : EngCmd) (q : List EngCmd) : Prop where
  front : (s.tile t).queue e = c :: q
  runs : (s.tile t).runs = true
  engine : e < 4
  waits : waitsMet (s.tile t) c = true
  slot : ((s.tile t).flight.filter fun f => f.cmd.engine = e).length < engineSlots e
  array : e = 0 → mmaHeld s = false

section
variable {s : State} {t e : Nat} {c : EngCmd} {q : List EngCmd}

/-- None of what holds a command back holds back one that can start. -/
theorem Startable.not_held (h : Startable s t e c q) :
    (!(s.tile t).runs || 4 ≤ e || !waitsMet (s.tile t) c ||
      engineSlots e ≤ ((s.tile t).flight.filter fun f => f.cmd.engine = e).length ||
      (e = 0 && mmaHeld s)) = false := by
  have hengine : ¬ 4 ≤ e := Nat.not_le.mpr h.engine
  have hslot := Nat.not_le.mpr h.slot
  have harray : (decide (e = 0) && mmaHeld s) = false := by simpa using h.array
  simp only [h.runs, h.waits, hengine, hslot, harray]
  decide

theorem execEngineCmdStart_of_clean (h : Startable s t e c q) :
    execEngineCmdStart t e .clean s = startCmd s t e c := by
  simp only [execEngineCmdStart, h.front, h.not_held, Bool.false_eq_true, if_false]

theorem execEngineCmdStart_of_spadUncorr (h : Startable s t e c q) (a : Nat) :
    execEngineCmdStart t e (.spadUncorr a) s = .next (settleWork (hwFault s t c.item 2 a)) := by
  simp only [execEngineCmdStart, h.front, h.not_held, Bool.false_eq_true, if_false]

theorem execEngineCmdStart_of_accUncorr (h : Startable s t e c q) :
    execEngineCmdStart t e .accUncorr s = .next (settleWork (hwFault s t c.item 4 0)) := by
  simp only [execEngineCmdStart, h.front, h.not_held, Bool.false_eq_true, if_false]

/-- A command that fetches nothing meets no bad copy of a page. -/
theorem execEngineCmdStart_of_bondUncorr_of_no_fetch (h : Startable s t e c q)
    (hfetch : (cmdFetches c).head? = none) :
    execEngineCmdStart t e .bondUncorr s = startCmd s t e c := by
  simp only [execEngineCmdStart, h.front, h.not_held, hfetch, Bool.false_eq_true, if_false]

theorem execEngineCmdStart_of_bondUncorr_of_fetch (h : Startable s t e c q) {d : Nat × Nat}
    (hfetch : (cmdFetches c).head? = some d) :
    execEngineCmdStart t e .bondUncorr s =
      badRead s t c.item (pageOf d.1) fun s => startCmd s t e c := by
  simp only [execEngineCmdStart, h.front, h.not_held, hfetch, Bool.false_eq_true, if_false]

/-- R539: duty throttling holds the passes of the matrix array, whatever the error checks meet. -/
theorem execEngineCmdStart_of_mmaHeld (t : Nat) (ecc : EngineEcc) (h : mmaHeld s = true) :
    execEngineCmdStart t 0 ecc s = .next s := by
  unfold execEngineCmdStart
  dsimp only
  cases (s.tile t).queue 0 with
  | nil => rfl
  | cons c q => simp [h]

theorem execEngineCmdStart_of_queue_nil (ecc : EngineEcc) (h : (s.tile t).queue e = []) :
    execEngineCmdStart t e ecc s = .next s := by
  simp only [execEngineCmdStart, h]

theorem startCmd_of_done {eff : Effects} {u : State}
    (h : runCommand s t (ctxFunc s c.item.ctx) c = .done eff u) :
    startCmd s t e c = .next (beginCmd u t e c eff) := by
  simp only [startCmd, h]

end

/-! ## An uncorrectable copy of a page (R392, R394) -/

section
variable {s : State} (t : Nat) (i : Item) {q : Nat} (go : State → Out)

theorem badRead_of_no_page (h : s.page q = none) :
    badRead s t i q go = .next (settleWork (tileFault s t i 5 0)) := by
  simp [badRead, h]

theorem badRead_of_page (h : (s.page q).isSome = true) :
    badRead s t i q go =
      if ((recoverRead s t q).page q).any (fun d => d.lost) = true
      then .next (lostRead (recoverRead s t q) t i q) else go (recoverRead s t q) :=
  if_neg (by simpa [Option.isSome_iff_ne_none] using h)

end

/-! ## ENGINE_CMD_COMPLETE (R230, R231) -/

theorem execEngineCmdComplete_of_unsignalled {s : State} {t e : Nat} {f : InFlight}
    (hfind : (s.tile t).flight.find? (fun f => f.cmd.engine = e) = some f)
    (hruns : (s.tile t).runs = true) (hlines : wantedLines s f = []) (hdead : f.dead = false)
    (hsignal : f.cmd.signal = none) :
    execEngineCmdComplete t e s =
      .next (settleWork (itemEnds (landSkip ((landWrites s t f).modTile t fun x =>
        { x with flight := x.flight.erase f, lastWork := (landWrites s t f).ticks }) t f)
        t f.cmd.item)) := by
  simp only [execEngineCmdComplete, hfind, hruns, hlines, hdead, hsignal, Bool.not_true,
    Bool.false_eq_true, if_false]

/-- Settles O38: an item's start by TIL_CTL.HALT, which the swap at a command-list boundary leaves
as it is; a command's start by what the engine's error checks meet; its completion by its row. -/
theorem workAndEnginesRun : Obligations.WorkAndEnginesRun := by
  unfold Obligations.WorkAndEnginesRun
  simp only [exec_workItemStart, exec_engineCmdStart, exec_engineCmdComplete]
  refine ⟨?itemStarts, ?tileHalted, fun _ _ e _ hkernel => execWorkItemStart_of_kernel e hkernel,
    ?commandRuns, ?errorsMet, fun t ecc _ hheld => execEngineCmdStart_of_mmaHeld t ecc hheld,
    fun _ _ ecc _ hempty => execEngineCmdStart_of_queue_nil ecc hempty,
    fun _ _ _ _ hfind hruns hlines hdead hsignal =>
      execEngineCmdComplete_of_unsignalled hfind hruns hlines hdead hsignal⟩
  case itemStarts =>
    intro t e s hruns hdraining hkernel hhalt
    exact (execWorkItemStart_of_idle e hruns hdraining hkernel).trans (if_neg (by simp [hhalt]))
  case tileHalted =>
    intro t e s hruns hdraining hkernel hhalt
    exact (execWorkItemStart_of_idle e hruns hdraining hkernel).trans (if_pos (by simp [hhalt]))
  case commandRuns =>
    intro t e c q eff s u hfront hruns hengine hwaits hslot harray hdone
    have hready : Startable s t e c q := ⟨hfront, hruns, hengine, hwaits, hslot, harray⟩
    exact (execEngineCmdStart_of_clean hready).trans (startCmd_of_done hdone)
  case errorsMet =>
    intro t e a c q s hfront hruns hengine hwaits hslot harray
    have hready : Startable s t e c q := ⟨hfront, hruns, hengine, hwaits, hslot, harray⟩
    refine ⟨execEngineCmdStart_of_spadUncorr hready a, execEngineCmdStart_of_accUncorr hready,
      fun hfetch => execEngineCmdStart_of_bondUncorr_of_no_fetch hready hfetch,
      fun d hfetch hpage => ?noPage, fun d hfetch hpage => ?page⟩
    case noPage =>
      exact (execEngineCmdStart_of_bondUncorr_of_fetch hready hfetch).trans
        (badRead_of_no_page t c.item _ hpage)
    case page =>
      exact (execEngineCmdStart_of_bondUncorr_of_fetch hready hfetch).trans
        (badRead_of_page t c.item _ hpage)

end Sys2Proof.Machine
end

section
/-!
# Scalar registers, and the words of a kernel (R224, R225, R230, R236–R238, R245–R247)

A Stoker executes the word it stands at. `atWord_of_atWord` says so once for every form and
operation, and each word's clause is then what its row does with the kernel there. The scalar, the
immediate and the branch words have one lemma for each form: what is left of a word is that its row
runs the form's frame with its operation, and that the operation computes what R238 says.
-/
open Sys2Proof
namespace Sys2Proof.Machine

/-! ## Scalar registers (R224) -/

@[simp] theorem Kernel.reg_zero (k : Kernel) : k.reg 0 = 0 := if_pos rfl

@[simp] theorem Kernel.setReg_zero (k : Kernel) (v : Word) : k.setReg 0 v = k := if_pos rfl

/-- A register other than s0 is the table's entry, and an entry that is missing is zero. -/
theorem Kernel.reg_of_ne {i : Nat} (h : i ≠ 0) (k : Kernel) : k.reg i = lookupD 0 i k.regs :=
  if_neg h

theorem Kernel.setReg_of_ne {i : Nat} (h : i ≠ 0) (k : Kernel) (v : Word) :
    (k.setReg i v).regs = if v = 0 then eraseK i k.regs else insertK i v k.regs := by
  simp [Kernel.setReg, h]

theorem Kernel.reg_setReg_same {i : Nat} (h : i ≠ 0) (k : Kernel) (v : Word) :
    (k.setReg i v).reg i = v := by
  rw [Kernel.reg_of_ne h, Kernel.setReg_of_ne h]
  split
  · next hv => simp [lookupD, hv]
  · simp [lookupD]

theorem Kernel.reg_setReg_ne {i j : Nat} (h : i ≠ j) (k : Kernel) (v : Word) :
    (k.setReg i v).reg j = k.reg j := by
  by_cases hi : i = 0
  · subst hi
    simp
  by_cases hj : j = 0
  · subst hj
    simp
  rw [Kernel.reg_of_ne hj, Kernel.reg_of_ne hj, Kernel.setReg_of_ne hi]
  split
  · simp [lookupD, lookup_eraseK_ne _ (Ne.symm h)]
  · simp [lookupD, lookup_insertK_ne _ _ (Ne.symm h)]

/-- Settles O32: s0 by its two equations, another register by what its table's update does. -/
theorem registerZeroReadsZero : Obligations.RegisterZeroReadsZero := by
  unfold Obligations.RegisterZeroReadsZero
  exact ⟨fun k v => ⟨k.reg_zero, k.setReg_zero v⟩, fun k _ v hi => k.reg_setReg_same hi v,
    fun k _ _ v hij => k.reg_setReg_ne hij v⟩

/-! ## The word a Stoker stands at (R229, R236) -/

section
variable {s : State} {t form op w : Nat} {k : Kernel}

theorem atWord_of_atWord (h : AtWord s t form op k w) (f : Kernel → Nat → State) :
    atWord s t form op f = .next (f k w) := by
  obtain ⟨hword, hform, hop, hawaiting, hfetch⟩ := h
  simp [atWord, hword, hform, hop, hawaiting, hfetch]

/-- A word of the bank that is fetched with an uncorrectable error faults, whatever it is (R236). -/
theorem atWord_of_fetchBad (hword : wordOf s t = some (k, w)) (hform : bitsOf w 0 4 = form)
    (hop : bitsOf w 4 8 = op) (hawaiting : k.awaiting = false) (hfetch : k.fetchBad 1 = true)
    (f : Kernel → Nat → State) : atWord s t form op f = .next (stokerFault s t k.item 0 0) := by
  simp [atWord, hword, hform, hop, hawaiting, hfetch]

end

/-! ## The forms: scalar, immediate and branch words (R237, R238, R245) -/

section
variable {c : Nat → Instr} {op : Nat} {f g : Word → Word → Word}

theorem scalarResult_of_exec (hexec : ∀ t s, exec (c t) s = scalarWord s t op f) :
    ScalarResult c op f := by
  intro t w k s h
  simp only [hexec, scalarWord, atWord_of_atWord h, Kernel.wrote]

theorem immediateResult_of_exec (hexec : ∀ t s, exec (c t) s = immWord s t op f) :
    ImmediateResult c op f := by
  intro t w k s h
  simp only [hexec, immWord, atWord_of_atWord h, Kernel.wrote]

theorem scalarResult_congr (h : ScalarResult c op f) (hfg : ∀ a b, f a b = g a b) :
    ScalarResult c op g := by
  obtain rfl : f = g := funext₂ hfg
  exact h

theorem immediateResult_congr (h : ImmediateResult c op f) (hfg : ∀ a b, f a b = g a b) :
    ImmediateResult c op g := by
  obtain rfl : f = g := funext₂ hfg
  exact h

theorem branchResult_of_branchWord {p q : Word → Word → Bool}
    (hexec : ∀ t s, exec (c t) s = branchWord s t op p) (hpq : ∀ a b, p a b = q a b) :
    BranchResult c op q := by
  intro t w k s h
  simp only [hexec, branchWord, atWord_of_atWord h, hpq, apply_ite (setKernel s t)]

end

/-! ## What the operations compute (R238) -/

theorem ult_eq_toNat_lt (a b : Word) : a.ult b = decide (a.toNat < b.toNat) := rfl

theorem not_ult_eq_toNat_le (a b : Word) : (!a.ult b) = decide (b.toNat ≤ a.toNat) := by
  rw [ult_eq_toNat_lt, Bool.eq_iff_iff]
  simp

theorem boolWord_ult (a b : Word) :
    boolWord (a.ult b) = if a.toNat < b.toNat then 1 else 0 := by
  simp [boolWord, ult_eq_toNat_lt]

theorem boolWord_slt (a b : Word) :
    boolWord (a.slt b) = if a.toInt < b.toInt then 1 else 0 := by
  simp [boolWord, BitVec.slt]

/-- Settles O33: every word runs its form's frame with its operation; the operations that the model
writes otherwise than R238 does compute the same. -/
theorem scalarAndImmediateWords : Obligations.ScalarAndImmediateWords := by
  unfold Obligations.ScalarAndImmediateWords
  refine ⟨?add, ?sub, ?and, ?or, ?xor, ?shl, ?shr, ?sra, ?mul, ?mulhu, ?divu, ?remu, ?minu, ?maxu,
    ?slt, ?sltu, ?addi, ?andi, ?ori, ?xori, ?shli, ?shri, ?srai, ?muli, ?li, ?exti, ?cdivi⟩
  case divu =>
    refine scalarResult_congr (scalarResult_of_exec fun t s =>
      show exec (.divu t) s = execDivu t s from (rfl)) ?_
    exact fun a b => by simp only [BitVec.udiv_def]
  case remu =>
    refine scalarResult_congr (scalarResult_of_exec fun t s =>
      show exec (.remu t) s = execRemu t s from (rfl)) ?_
    exact fun a b => by simp only [BitVec.umod_def]
  case minu =>
    refine scalarResult_congr (scalarResult_of_exec fun t s =>
      show exec (.minu t) s = execMinu t s from (rfl)) ?_
    exact fun a b => by simp [ult_eq_toNat_lt]
  case maxu =>
    refine scalarResult_congr (scalarResult_of_exec fun t s =>
      show exec (.maxu t) s = execMaxu t s from (rfl)) ?_
    exact fun a b => by simp [ult_eq_toNat_lt]
  case slt =>
    refine scalarResult_congr (scalarResult_of_exec fun t s =>
      show exec (.slt t) s = execSlt t s from (rfl)) ?_
    exact boolWord_slt
  case sltu =>
    refine scalarResult_congr (scalarResult_of_exec fun t s =>
      show exec (.sltu t) s = execSltu t s from (rfl)) ?_
    exact boolWord_ult
  case exti =>
    refine immediateResult_congr (immediateResult_of_exec fun t s =>
      show exec (.exti t) s = execExti t s from (rfl)) ?_
    exact fun a b => by rw [bitsOf_eq]
  case addi | andi | ori | xori | shli | shri | srai | muli | li | cdivi =>
    exact immediateResult_of_exec fun _ _ => (rfl)
  case add | sub | and | or | xor | shl | shr | sra | mul | mulhu =>
    exact scalarResult_of_exec fun _ _ => (rfl)

/-! ## Loads and stores (R225, R238, R247) -/

section
variable {s : State} {t w : Nat} {k : Kernel}

theorem execLd_of_bad_address (h : AtWord s t 2 0x00 k w)
    (haddr : memAddr k w % 8 ≠ 0 ∨ 0x10000 ≤ memAddr k w) (b : Bool) :
    execLd t b s = .next (stokerFault s t k.item 2 0) := by
  rw [execLd, atWord_of_atWord h]
  simp [haddr]

theorem execLd_of_uncorrectable (h : AtWord s t 2 0x00 k w) (halign : memAddr k w % 8 = 0)
    (hin : memAddr k w < 0x10000) {b : Bool} (hbad : b = true ∨ k.dmemBad (memAddr k w) 8 = true) :
    execLd t b s = .next (stokerFault s t k.item 1 0) := by
  rw [execLd, atWord_of_atWord h]
  simp [halign, Nat.not_le.mpr hin, hbad]

theorem execLd_of_good (h : AtWord s t 2 0x00 k w) (halign : memAddr k w % 8 = 0)
    (hin : memAddr k w < 0x10000) (hgood : k.dmemBad (memAddr k w) 8 = false) :
    execLd t false s = .next (setKernel s t (k.wrote (bitsOf w 12 5)
      (BitVec.ofNat 64 ((s.tile t).dmemWord (memAddr k w))))) := by
  rw [execLd, atWord_of_atWord h]
  simp [halign, Nat.not_le.mpr hin, hgood, Kernel.wrote]

theorem execSt_of_constant_area (h : AtWord s t 2 0x01 k w) (hlow : memAddr k w < 0xC000) :
    execSt t s = .next (stokerFault s t k.item 3 0) := by
  rw [execSt, atWord_of_atWord h]
  simp [hlow]

theorem execSt_of_out_of_range (h : AtWord s t 2 0x01 k w) (hhigh : 0x10000 ≤ memAddr k w) :
    execSt t s = .next (stokerFault s t k.item 2 0) := by
  rw [execSt, atWord_of_atWord h]
  simp [hhigh, show ¬ memAddr k w < 0xC000 by omega]

/-- Eight bytes from an address of at most 0xFFF8 all lie in DMEM. -/
theorem execSt_of_work_area (h : AtWord s t 2 0x01 k w) (hlow : 0xC000 ≤ memAddr k w)
    (hhigh : memAddr k w ≤ 0xFFF8) (hgood : k.badDmem = none) :
    execSt t s = .next ((setKernel s t k.next).modTile t fun x =>
      { x with
        dmem := writeBytes (memAddr k w) (leBytes 8 (k.reg (bitsOf w 12 5)).toNat) x.dmem }) := by
  have hnext : ({ k.next with badDmem := none } : Kernel) = k.next := by
    rw [← hgood]
    rfl
  have htake (v : Nat) : (leBytes 8 v).take (0x10000 - memAddr k w) = leBytes 8 v :=
    List.take_of_length_le (by rw [leBytes_length]; omega)
  rw [execSt, atWord_of_atWord h]
  simp [Nat.not_lt.mpr hlow, show ¬ 0x10000 ≤ memAddr k w by omega, hgood, hnext, htake]

/-! ## Reads of the weight space (R238, R392, R394) -/

theorem execLdw_of_bad_address (h : AtWord s t 2 0x02 k w)
    (haddr : memAddr k w % 8 ≠ 0 ∨ 2 ^ 48 ≤ memAddr k w) :
    execLdw t s = .next (stokerFault s t k.item 2 0) := by
  have hbad : (decide (memAddr k w % 8 ≠ 0) || decide (2 ^ 48 ≤ memAddr k w)) = true := by
    simpa only [Bool.or_eq_true, decide_eq_true_eq] using haddr
  rw [execLdw, atWord_of_atWord h]
  exact congrArg Host.Outcome.next (if_pos hbad)

theorem execLdw_of_ok {bs : List Byte} (h : AtWord s t 2 0x02 k w) (halign : memAddr k w % 8 = 0)
    (hin : memAddr k w < 2 ^ 48)
    (hread : coherentWsp s k.item.seq (ctxFunc s k.item.ctx) (memAddr k w) 8 = .ok bs) :
    execLdw t s = .next (setKernel (meshAsk s t (memAddr k w)) t
      { k with stall := .ldw (memAddr k w) (bitsOf w 12 5) }) := by
  have hgood : (decide (memAddr k w % 8 ≠ 0) || decide (2 ^ 48 ≤ memAddr k w)) = false := by
    simp only [halign, Nat.not_le.mpr hin]
    decide
  rw [execLdw, atWord_of_atWord h]
  simp only [hgood, hread, Bool.false_eq_true, if_false]

variable {a dst : Nat} {bs : List Byte}

/-- LDW_DATA's answer to the Stoker: the bytes become the register, and the kernel goes on. -/
def ldwArrives (s : State) (t a dst : Nat) (k : Kernel) (bs : List Byte) : State :=
  setKernel (meshAnswer (noteReads s a 8) t a) t (k.wrote dst (BitVec.ofNat 64 (leNat bs)))

theorem execLdwData_of_good (hword : wordOf s t = some (k, w)) (hstall : k.stall = .ldw a dst)
    (hread : coherentWsp s k.item.seq (ctxFunc s k.item.ctx) a 8 = .ok bs) :
    execLdwData t false s = .next (ldwArrives s t a dst k bs) := by
  simp [execLdwData, hword, hstall, hread, ldwArrives, Kernel.wrote]

theorem execLdwData_of_bad (hword : wordOf s t = some (k, w)) (hstall : k.stall = .ldw a dst)
    (hread : coherentWsp s k.item.seq (ctxFunc s k.item.ctx) a 8 = .ok bs) :
    execLdwData t true s =
      badRead s t k.item (pageOf a) fun s => .next (ldwArrives s t a dst k bs) := by
  simp [execLdwData, hword, hstall, hread, ldwArrives, Kernel.wrote]

end

/-- Settles O34: each clause is the lemma of its word for what its address meets. -/
theorem memoryWords : Obligations.MemoryWords := by
  unfold Obligations.MemoryWords
  refine ⟨fun _ _ _ _ h halign hin hgood => execLd_of_good h halign hin hgood,
    fun _ _ _ _ h halign hin => execLd_of_uncorrectable h halign hin (.inl rfl),
    fun _ _ _ _ _ h halign hin hbad => execLd_of_uncorrectable h halign hin (.inr hbad),
    fun _ _ b _ _ h haddr => execLd_of_bad_address h haddr b,
    fun _ _ _ _ h hlow hhigh hgood => execSt_of_work_area h hlow hhigh hgood,
    fun _ _ _ _ h hlow => execSt_of_constant_area h hlow,
    fun _ _ _ _ h hhigh => execSt_of_out_of_range h hhigh, ?fetch,
    fun a b bs m h => readByte_writeBytes_outside bs a b m h,
    fun _ _ _ _ _ h halign hin hread => execLdw_of_ok h halign hin hread,
    fun _ _ _ _ h haddr => execLdw_of_bad_address h haddr,
    fun _ _ _ _ _ _ _ hword hstall hread => execLdwData_of_good hword hstall hread, ?peer, ?page⟩
  case fetch =>
    intro t w k s hword hawaiting hfetch hform
    exact ⟨fun hop _ => atWord_of_fetchBad hword hform hop hawaiting hfetch _,
      fun hop => atWord_of_fetchBad hword hform hop hawaiting hfetch _⟩
  case peer =>
    intro t w a dst k bs s hword hstall hread hpage
    exact (execLdwData_of_bad hword hstall hread).trans (badRead_of_no_page t k.item _ hpage)
  case page =>
    intro t w a dst k bs s hword hstall hread hpage
    refine (execLdwData_of_bad hword hstall hread).trans
      ((badRead_of_page t k.item _ hpage).trans ?_)
    exact (apply_ite Host.Outcome.next _ _ _).symm

/-! ## Loops (R246) -/

section
variable {s : State} {t w : Nat} {k : Kernel}

theorem execLoop_of_atWord (h : AtWord s t 3 0x08 k w) :
    execLoop t s = .next
      (if (k.reg (bitsOf w 12 5)).toNat = 0 then
        setKernel s t { k with pc := targetOf w + 1, stall := .none }
       else if bitsOf w 48 16 < (k.reg (bitsOf w 12 5)).toNat then stokerFault s t k.item 4 0
       else setKernel s t { (k.setReg (bitsOf w 17 5) 0).next with loops :=
         { at_ := k.pc, count := (k.reg (bitsOf w 12 5)).toNat, index := 0,
           dst := bitsOf w 17 5 } :: k.loops }) :=
  atWord_of_atWord h _

theorem execEndloop_of_loop {f : LoopFrame} {rest : List LoopFrame} (h : AtWord s t 3 0x09 k w)
    (hloops : k.loops = f :: rest) :
    execEndloop t s = .next (setKernel s t
      (if f.index + 1 < f.count then
        { k.setReg f.dst (BitVec.ofNat 64 (f.index + 1)) with
          pc := f.at_ + 1, stall := .none, loops := { f with index := f.index + 1 } :: rest }
       else { k.next with loops := rest })) := by
  rw [execEndloop, atWord_of_atWord h]
  simp only [hloops, apply_ite (setKernel s t)]

end

/-! ## Stalls (R229, R230) -/

theorem kernel_setKernel (s : State) (t : Nat) (k : Kernel) :
    ((setKernel s t k).tile t).kernel = some k := by
  simp [setKernel, tile_modTile]

theorem kernel_stallEvent (s : State) (t : Nat) (k : Kernel) (v : Stall) :
    ((stallEvent s t k v).tile t).kernel = some { k with stall := v } := by
  simp [stallEvent, tile_modTile, kernel_setKernel]

/-- Settles O35: the branches run their form's frame with their comparison, and every other word is
what its row does at the word the Stoker stands at. -/
theorem branchAndControlWords : Obligations.BranchAndControlWords := by
  unfold Obligations.BranchAndControlWords
  refine ⟨?jmp, ?beq, ?bne, ?bltu, ?bgeu, fun _ _ _ _ h => execLoop_of_atWord h,
    fun _ _ _ _ _ _ h hloops => execEndloop_of_loop h hloops,
    fun _ _ _ _ h => atWord_of_atWord h _, fun _ _ _ _ h => atWord_of_atWord h _,
    fun _ _ _ _ h => atWord_of_atWord h _, fun _ _ _ _ h => atWord_of_atWord h _,
    fun _ _ _ _ h => atWord_of_atWord h _, fun t k v s => kernel_stallEvent s t k v,
    fun _ _ _ _ h => atWord_of_atWord h _⟩
  case bltu => exact branchResult_of_branchWord (fun _ _ => (rfl)) ult_eq_toNat_lt
  case bgeu => exact branchResult_of_branchWord (fun _ _ => (rfl)) not_ult_eq_toNat_le
  all_goals exact branchResult_of_branchWord (fun _ _ => (rfl)) fun _ _ => rfl

end Sys2Proof.Machine
end

section
/-!
# Engine commands are issued (R173, R191, R229, R239, R249, R601)

`issueWord` is the row of every engine command. `AtCommand` says that nothing holds its word back,
so one lemma gives what is then issued, and each of the 37 commands is that lemma for its engine and
operation; a queue that is full and operands whose counts disagree have a lemma each.
-/
open Sys2Proof
namespace Sys2Proof.Machine

section
variable {s : State} {t engine op w : Nat} {k : Kernel} {p : Program} {os : List Opnd}

/-- The writer of a make-up pass is a pass of the binding that its kernel runs (R191, R217). -/
theorem makeup_writer (b : Option Binding) (pc part : Nat) :
    (if engine = 0 && op = 1 then (match b with
      | some b => if part = 1 then b.predInsn else b.compInsn
      | none => pc) else pc) = pc ∨
    engine = 0 ∧ op = 1 ∧ ∃ a, b = some a ∧
      ((if engine = 0 && op = 1 then (match b with
        | some b => if part = 1 then b.predInsn else b.compInsn
        | none => pc) else pc) = a.predInsn ∨
       (if engine = 0 && op = 1 then (match b with
        | some b => if part = 1 then b.predInsn else b.compInsn
        | none => pc) else pc) = a.compInsn) := by
  by_cases hmakeup : engine = 0 ∧ op = 1
  · obtain ⟨rfl, rfl⟩ := hmakeup
    cases b with
    | none => exact .inl rfl
    | some a =>
      by_cases hpart : part = 1
      · exact .inr ⟨rfl, rfl, a, rfl, .inl (by simp [hpart])⟩
      · exact .inr ⟨rfl, rfl, a, rfl, .inr (by simp [hpart])⟩
  · exact .inl (if_neg (by simpa using hmakeup))

@[simp] theorem noteIssued_item (q : SkipState) (part n : Nat) :
    (noteIssued q part n).item = q.item := by
  unfold noteIssued
  split
  · rfl
  · split <;> rfl

@[simp] theorem Tile.skipOf_item (x : Tile) (i : Item) : (x.skipOf i).item = i := by
  unfold Tile.skipOf
  cases hfind : x.skips.find? fun q => q.item = i with
  | none => rfl
  | some q => simpa using List.find?_some hfind

theorem issueWord_of_atCommand (h : AtCommand s t engine op k p w os) :
    ∃ (e : EngCmd) (u : State), e.engine = engine ∧ e.op = op ∧ e.item = k.item ∧ e.opnds = os ∧
      (e.at_ = k.pc ∨ engine = 0 ∧ op = 1 ∧
        ∃ b, skipBinding p k.item = some b ∧ (e.at_ = b.predInsn ∨ e.at_ = b.compInsn)) ∧
      (u = s ∨ ∃ q : SkipState, q.item = k.item ∧ e.skip.isSome ∧ u = setSkip s t q) ∧
      issueWord s t engine op =
        .next (setKernel ((injectAt u 1 t engine).modTile t fun x =>
            x.setQueue engine (x.queue engine ++ [e])) t
          { k with pc := k.pc + 1 + (rawCmd p.code k.pc).xwords, stall := .none }) := by
  obtain ⟨hword, hprog, hform, hengine, hop, hawaiting, hroom, hheld, hos, hcounts, hslot, hfetch,
    hdmem⟩ := h
  have hopen : (decide (queueDepth engine ≤ ((s.tile t).queue engine).length) ||
      pointHeld s 1 t engine) = false := by simp [hheld, hroom]
  have hclean : ((rawCmd p.code k.pc).ops.any fun o => k.dmemBad (8 * o.agd) 64) = false := by
    simpa using hdmem
  have hagree (idle : Bool) :
      (!idle && decide (engine = 1) && countsDiffer (rawCmd p.code k.pc) os) = false := by
    by_cases hvec : engine = 1
    · simp [hcounts hvec]
    · simp [hvec]
  unfold issueWord
  simp only [hword, hprog, hform, hengine, hop, hawaiting, hopen, hfetch, hclean, hos, hagree,
    hslot, ne_eq, not_true_eq_false, decide_false, Bool.or_false, Bool.and_false, Bool.false_eq_true,
    if_false]
  refine ⟨_, _, ?engine, ?op, ?item, ?opnds, ?writer, ?skip, rfl⟩
  case engine | op | item | opnds => rfl
  case writer => exact makeup_writer ..
  case skip =>
    dsimp only
    split
    · next hskip => exact .inr ⟨_, by simp, hskip, rfl⟩
    · exact .inl rfl

theorem issueWord_of_full (hword : wordOf s t = some (k, w)) (hprog : (s.tile t).program = some p)
    (hform : bitsOf w 0 4 = 4) (hengine : (rawCmd p.code k.pc).engine = engine)
    (hop : (rawCmd p.code k.pc).op = op) (hawaiting : k.awaiting = false)
    (hfull : queueDepth engine ≤ ((s.tile t).queue engine).length) :
    issueWord s t engine op = .next (stallFull s t k) := by
  simp [issueWord, hword, hprog, hform, hengine, hop, hawaiting, hfull]

/-- Operands of a vector command that visit units, and whose counts of elements disagree (R601). -/
theorem issueWord_of_countsDiffer (hword : wordOf s t = some (k, w))
    (hprog : (s.tile t).program = some p) (hform : bitsOf w 0 4 = 4)
    (hengine : (rawCmd p.code k.pc).engine = 1) (hop : (rawCmd p.code k.pc).op = op)
    (hawaiting : k.awaiting = false) (hroom : ((s.tile t).queue 1).length < queueDepth 1)
    (hheld : pointHeld s 1 t 1 = false)
    (hos : allSome ((rawCmd p.code k.pc).ops.map (resolveOp p k (rawCmd p.code k.pc))) = some os)
    (hdmem : ∀ o ∈ (rawCmd p.code k.pc).ops, k.dmemBad (8 * o.agd) 64 = false)
    (hfetch : k.fetchBad (1 + (rawCmd p.code k.pc).xwords) = false) (htotal : ∀ o ∈ os, o.total ≠ 0)
    (hdiffer : countsDiffer (rawCmd p.code k.pc) os = true) :
    issueWord s t 1 op = .next (stokerFault s t k.item 11 0) := by
  have hidle : (os.any fun o => o.total = 0) = false := by simpa using htotal
  have hclean : ((rawCmd p.code k.pc).ops.any fun o => k.dmemBad (8 * o.agd) 64) = false := by
    simpa using hdmem
  simp [issueWord, hword, hprog, hform, hengine, hop, hawaiting, Nat.not_le.mpr hroom, hheld,
    hfetch, hclean, hos, hidle, hdiffer]

theorem kernel_stallFull (s : State) (t : Nat) (k : Kernel) :
    ((stallFull s t k).tile t).kernel = some { k with stall := .queueFull } := by
  simp [stallFull, tile_modTile, kernel_setKernel]

theorem issues_of_issueWord {c : Nat → Instr}
    (hexec : ∀ t s, exec (c t) s = issueWord s t engine op) :
    Issues c engine op := by
  intro t w k p os s h
  rw [hexec]
  exact issueWord_of_atCommand h

end

/-- Settles O36: every command's row issues the word of its engine and operation; a full queue and
operands that disagree by the lemma of each. -/
theorem engineCommandsIssue : Obligations.EngineCommandsIssue := by
  unfold Obligations.EngineCommandsIssue
  iterate 37 refine And.intro (issues_of_issueWord fun _ _ => (rfl)) ?_
  refine ⟨?pass, ?vecAdd, ?shape⟩
  case pass =>
    intro t w k p s hword hprog hform hengine hop hawaiting hfull
    exact ⟨issueWord_of_full hword hprog hform hengine hop hawaiting hfull, kernel_stallFull s t k⟩
  case vecAdd =>
    intro t w k p s hword hprog hform hengine hop hawaiting hfull
    exact ⟨issueWord_of_full hword hprog hform hengine hop hawaiting hfull, kernel_stallFull s t k⟩
  case shape =>
    intro t w k p os s hword hprog hform hengine hop hawaiting hroom hheld hos hdmem hfetch htotal
      hdiffer
    exact issueWord_of_countsDiffer hword hprog hform hengine hop hawaiting hroom hheld hos hdmem
      hfetch htotal hdiffer

end Sys2Proof.Machine
end

section
/-!
# The registers a kernel starts with (R228)

The registers of a kernel are a table that lists no zero. `startReg` is the entry of one register;
reading it back gives the value, whether the entry had to be made or not.
-/
open Sys2Proof
namespace Sys2Proof.Machine

/-- The table of registers with `v` put into register `r`, which had no entry. -/
def startReg (r v : Nat) (regs : Table Word) : Table Word :=
  if v % 2 ^ 64 = 0 then regs else insertK r (BitVec.ofNat 64 v) regs

theorem lookupD_startReg_same {r : Nat} {regs : Table Word} (h : lookupD 0#64 r regs = 0#64)
    (v : Nat) :
    lookupD 0#64 r (startReg r v regs) = BitVec.ofNat 64 v := by
  unfold startReg
  split
  · next hv =>
    exact h.trans (BitVec.eq_of_toNat_eq (by rw [BitVec.toNat_ofNat, BitVec.toNat_ofNat, hv]))
  · simp [lookupD]

theorem lookupD_startReg_ne {r j : Nat} (h : j ≠ r) (v : Nat) (regs : Table Word) :
    lookupD 0#64 j (startReg r v regs) = lookupD 0#64 j regs := by
  unfold startReg
  split
  · rfl
  · simp [lookupD, lookup_insertK_ne _ _ h]

@[simp] theorem lookupD_nil {α : Type} (d : α) (k : Nat) : lookupD d k [] = d := rfl

theorem startRegs_eq (i : Item) (l : Nat) :
    startRegs i l = startReg 6 i.msc (startReg 5 l (startReg 4 i.stream (startReg 3 i.ctx
      (startReg 2 i.layer (startReg 1 i.payload []))))) := rfl

section
variable {s : State} {t : Nat}

/-- A bank that stays is no swap. -/
theorem swapTile_of_swapBanks_eq (h : swapBanks (s.tile t) = s.tile t) : swapTile s t = s := by
  simp [swapTile, h]

/-- The kernel that an item's entry starts on logical tile `l`. -/
def startKernel (i : Item) (e : KEntry) (l : Nat) (badWord badDmem : Option Nat) : Kernel :=
  { item := i, pc := e.start, stop := e.start + e.words, regs := startRegs i l, badWord, badDmem }

@[simp] theorem State.tile_setTile_same (s : State) (t : Nat) (x : Tile) :
    (s.setTile t x).tile t = x := by
  simp [State.tile, lookupD]

theorem kernel_takeItem {i : Item} {rest : List Item} {p : Program} {e : KEntry} {l : Nat}
    (hitems : (s.tile t).items = i :: rest) (hprog : (s.tile t).program = some p)
    (hid : p.id = i.image) (hentry : p.entries[i.entry]? = some e) (hkind : e.kind = i.kind)
    (hl : logicalOf s t = some l) (badWord badDmem : Option Nat) :
    ((takeItem s t badWord badDmem).tile t).kernel = some (startKernel i e l badWord badDmem) := by
  have hlogical : logicalOf (drawFree s).2 t = some l := hl
  simp [takeItem, hitems, hprog, hid, hentry, hkind, hlogical, startKernel]

end

/-- Settles O37: the tile is idle and no bank is swapped, so the item's own kernel starts, whose
registers are read back one by one. -/
theorem kernelStartRegisters : Obligations.KernelStartRegisters := by
  unfold Obligations.KernelStartRegisters
  intro t l i rest p e w s hw hruns hdraining hkernel hswap hhalt hitems hprog hid hentry hkind hl
  have hstart := kernel_takeItem hitems hprog hid hentry hkind hl (({} : KernelErrors).word)
    (({} : KernelErrors).dmem)
  refine ⟨_, _, hstart, rfl, rfl, Kernel.reg_zero _,
    ?payload, ?layer, ?ctx, ?stream, ?logical, ?msc, ?others, ?row⟩
  case payload =>
    simp [Kernel.reg_of_ne, startKernel, startRegs_eq, lookupD_startReg_same (lookupD_nil 0#64 1),
      lookupD_startReg_ne]
  case layer | ctx | stream | logical | msc =>
    simp [Kernel.reg_of_ne, startKernel, startRegs_eq, lookupD_startReg_same, lookupD_startReg_ne]
  case others =>
    intro r hlow _
    simp (disch := omega) [Kernel.reg_of_ne, startKernel, startRegs_eq, lookupD_startReg_ne]
  case row =>
    have hitem : execWorkItemStart t {} s = _ :=
      execWorkItemStart_of_idle {} (hw ▸ hruns) (hw ▸ hdraining) (hw ▸ hkernel)
    rw [exec_workItemStart, hitem, ← hw, hhalt, swapTile_of_swapBanks_eq hswap]
    exact if_neg Bool.false_ne_true

end Sys2Proof.Machine
end

section
/-!
# Deadlock, teardown, halt and clock of a tile (R180, R181, R231, R232, R248), and the commands that
load, unstage and test (R223, R307, R308, R317)

One lemma for each thing that a row does.
-/
open Sys2Proof
namespace Sys2Proof.Machine

section
variable {s : State} {t : Nat}

theorem execWaitDeadlock_of_event {e : Nat} {k : Kernel} (hkernel : (s.tile t).kernel = some k)
    (hstall : k.stall = .event e) (hnone : (s.tile t).event e = 0) (hruns : (s.tile t).runs = true)
    (hidle : (s.tile t).idle = true) :
    execWaitDeadlock t s = .next (settleWork (stokerFault s t k.item 6 0)) := by
  simp [execWaitDeadlock, hkernel, hstall, hnone, hruns, hidle]

theorem execWaitDeadlock_of_no_stall {k : Kernel} (hkernel : (s.tile t).kernel = some k)
    (hstall : k.stall = .none) : execWaitDeadlock t s = .next s := by
  simp [execWaitDeadlock, hkernel, hstall]

theorem execTeardownComplete_of_faulted (h : (s.tile t).faulted = true) :
    execTeardownComplete t s =
      .next (s.setTile t { s.tile t with faulted := false, draining := false, events := [] }) := by
  simp [execTeardownComplete, h]

theorem execKillDrainDone_of_idle (hdraining : (s.tile t).draining = true)
    (hfaulted : (s.tile t).faulted = false) (hidle : (s.tile t).idle = true) :
    execKillDrainDone t s =
      .next (settleWork (s.setTile t { s.tile t with draining := false, events := [] })) := by
  simp [execKillDrainDone, hdraining, hfaulted, hidle]

theorem execTileHalt_of_powered (b : Bool) (hrow : (s.tile t).rowOn = true)
    (hrole : roleOf s t ≠ .dark) :
    execTileHalt t b s = .next (setFld s Fld.TIL_CTL_HALT (b2n b) t) := by
  simp [execTileHalt, hrow, hrole]

theorem execTileHalt_of_gated_or_dark (b : Bool)
    (h : (s.tile t).rowOn = false ∨ roleOf s t = .dark) :
    execTileHalt t b s = .next s := by
  refine if_neg ?_
  rcases h with h | h <;> simp [h]

theorem flag_setFld_halt (s : State) (b : Bool) (t : Nat) :
    flag (setFld s Fld.TIL_CTL_HALT (b2n b) t) Fld.TIL_CTL_HALT t = b := by
  refine flag_setFld_same s b ?_ (by decide) rfl
  rw [resetOf_eq_commonReset (by decide)]
  decide

theorem execTileClockStart_of_inService (hrow : (s.tile t).rowOn = true)
    (hclk : (s.tile t).clkOn = false) (hrole : roleOf s t = .inService) :
    execTileClockStart t s = .next (settleWork (count
      (s.setTile t { s.tile t with clkOn := true, lastWork := s.ticks }) (bankTil t) 1)) := by
  simp [execTileClockStart, hrow, hclk, hrole]

/-- Nothing holds the clock of a tile that has no work and no fault (R181). -/
theorem execTileClockStop_of_no_work (hclk : (s.tile t).clkOn = true)
    (hitems : (s.tile t).items = []) (hkernel : (s.tile t).kernel = none)
    (hidle : (s.tile t).idle = true) (h0 : (s.tile t).q0 = []) (h1 : (s.tile t).q1 = [])
    (h2 : (s.tile t).q2 = []) (h3 : (s.tile t).q3 = []) (hfault : raw s Reg.TIL_FAULT t = 0)
    (hfaulted : (s.tile t).faulted = false) (hhold : flag s Fld.TIL_CTL_CLK_HOLD t = false) :
    execTileClockStop t s = .next (s.setTile t { s.tile t with clkOn := false }) := by
  simp [execTileClockStop, hclk, hitems, hkernel, hidle, h0, h1, h2, h3, hfault, hfaulted, hhold]

end

/-- Settles O39: each clause is its row's lemma; the write of HALT changes that register alone. -/
theorem tileStateRows : Obligations.TileStateRows := by
  unfold Obligations.TileStateRows
  refine ⟨fun _ _ _ _ hkernel hstall hnone hruns hidle =>
      execWaitDeadlock_of_event hkernel hstall hnone hruns hidle,
    fun _ _ _ hkernel hstall => execWaitDeadlock_of_no_stall hkernel hstall,
    fun _ _ h => execTeardownComplete_of_faulted h,
    fun _ _ hdraining hfaulted hidle => execKillDrainDone_of_idle hdraining hfaulted hidle, ?halt,
    fun _ b _ h => execTileHalt_of_gated_or_dark b h,
    fun _ _ hrow hclk hrole => execTileClockStart_of_inService hrow hclk hrole,
    fun _ _ hclk hitems hkernel hidle h0 h1 h2 h3 hfault hfaulted hhold =>
      execTileClockStop_of_no_work hclk hitems hkernel hidle h0 h1 h2 h3 hfault hfaulted hhold⟩
  intro t b s _ hrow hrole
  exact ⟨_, execTileHalt_of_powered b hrow hrole, flag_setFld_halt s b t, setFld_restored ..⟩

/-! ## LOAD, UNSTAGE and TILE_TEST -/

section
variable {s : State} {seq : Nat} {c : OpenCmd}

theorem execLoad_of_fault {f : LoadFault} (htakes : takesEffect s seq 0x60 = some c)
    (hfault : loadCheck s c = some f) :
    execLoad seq s = .next (completeWith s seq f.status f.reason (f.word0.getD f.off) f.need) := by
  simp [execLoad, htakes, hfault]

theorem execLoad_of_good (htakes : takesEffect s seq 0x60 = some c) (hgood : loadCheck s c = none)
    (hfree : loadBusy s seq (c.payload.getD []) = false) :
    execLoad seq s = .next (holdTiles (startWork s seq) seq (loadTiles s (c.payload.getD []))) := by
  simp [execLoad, htakes, hgood, hfree]

theorem execUnstage_of_starts (h : Starts s seq 0x61 c) :
    execUnstage seq s = .next
      (if s.tiles.any (fun e => e.2.holds (ldImage c.pkt)) = false then
        completeWith s seq stBadParam 1
       else if s.tiles.any (fun e => (e.2.bank e.2.active).image = ldImage c.pkt) then
        completeWith s seq stBankActive 2
       else completeWith s seq stOk) := by
  unfold execUnstage
  by_cases hheld : s.tiles.any (fun e => e.2.holds (ldImage c.pkt)) = false
  · rw [runCmd_of_fail h (f := { num := 1 }) (by simp [firstFail, hheld]), if_pos hheld]
  · rw [if_neg hheld]
    have hheld : s.tiles.any (fun e => e.2.holds (ldImage c.pkt)) = true := by simpa using hheld
    by_cases hactive : s.tiles.any (fun e => (e.2.bank e.2.active).image = ldImage c.pkt) = true
    · rw [runCmd_of_fail h (f := { num := 2, status := stBankActive })
        (by simp only [firstFail, hheld, hactive]; rfl), if_pos hactive]
    · rw [runCmd_of_pass h (by simp only [firstFail, hheld, hactive]; rfl), if_neg hactive, endsOk]

theorem execTileTest_of_starts (h : Starts s seq 0xE0 c) :
    execTileTest seq s = .next
      (if roleOf s (pktBits c.pkt 24 0 8) = .inService then completeWith s seq stBadParam 1
       else startWork s seq) := by
  unfold execTileTest
  by_cases hrole : roleOf s (pktBits c.pkt 24 0 8) = .inService
  · rw [runCmd_of_fail h (f := { num := 1 }) (by simp [firstFail, hrole]), if_pos hrole]
  · rw [runCmd_of_pass h (by simp [firstFail, hrole]), if_neg hrole]

end

/-- Settles O22: each clause is the lemma of its command for what that command meets. -/
theorem programCommands : Obligations.ProgramCommands := by
  unfold Obligations.ProgramCommands
  exact ⟨fun _ _ _ _ htakes hfault => execLoad_of_fault htakes hfault,
    fun _ _ _ htakes hgood hfree => execLoad_of_good htakes hgood hfree,
    fun _ _ _ h => execUnstage_of_starts h, fun _ _ _ h => execTileTest_of_starts h⟩

end Sys2Proof.Machine
end

section
/-!
# Every step keeps memory in its canonical form (R225, R359, R360)

The byte memories of a state are the weight space's DRAM and NAND and the scratchpad and DMEM of
each tile; `State.canonical` says of all of them at once that they are in canonical form. The model
writes them by few operations (`writeBytes`, `clearRange`, `copyRange`, the loss of DMEM words), and
each of these keeps the form. What is left is a frame argument over the model's call graph, in the
order of its files. An operation that leaves the memories alone has an equation,
`(f s).canonical = s.canonical`, which `simp` rewrites by; one that reaches a write has an
implication, `s.canonical = true → (f s).canonical = true`. A handler's lemma then follows from the
lemmas of what it calls, and a step's from its handler's.
-/
open Sys2Proof
namespace Sys2Proof.Machine

/-! ## The canonical form of the tiles' memories -/

/-- A tile's scratchpad and DMEM are in canonical form. -/
def Tile.canonical (x : Tile) : Bool := x.spad.wf && x.dmem.wf

@[simp] theorem Tile.canonical_fold (x : Tile) : (x.spad.wf && x.dmem.wf) = x.canonical := (rfl)

@[simp] theorem Tile.canonical_mk (rowOn clkOn bank0 bank1 active loadLocks items kernel events
    q0 q1 q2 q3 flight spad spadFree wrote dmem dmemCtx faulted draining skips skipCtl stallFull
    stallEvent accFile macs tally noSteal lastWork) :
    (Tile.mk rowOn clkOn bank0 bank1 active loadLocks items kernel events q0 q1 q2 q3 flight spad
      spadFree wrote dmem dmemCtx faulted draining skips skipCtl stallFull stallEvent accFile macs
      tally noSteal lastWork).canonical = (spad.wf && dmem.wf) := (rfl)

/-- Every tile of a table has its memories in canonical form. -/
def tilesCanonical (tiles : Table Tile) : Bool := tiles.all fun e => e.2.canonical

@[simp] theorem tilesCanonical_nil : tilesCanonical [] = true := (rfl)

@[simp] theorem tilesCanonical_cons (j : Nat) (x : Tile) (tiles : Table Tile) :
    tilesCanonical ((j, x) :: tiles) = (x.canonical && tilesCanonical tiles) := (rfl)

theorem canonical_lookupD {tiles : Table Tile} (h : tilesCanonical tiles = true) (t : Nat) :
    (lookupD {} t tiles).canonical = true := by
  induction tiles with
  | nil => rfl
  | cons e tiles ih =>
    obtain ⟨j, x⟩ := e
    rw [tilesCanonical_cons, Bool.and_eq_true] at h
    unfold lookupD lookup
    split
    · exact h.1
    · exact ih h.2

theorem tilesCanonical_insertK (t : Nat) {x : Tile} (hx : x.canonical = true) {tiles : Table Tile}
    (h : tilesCanonical tiles = true) : tilesCanonical (insertK t x tiles) = true := by
  induction tiles with
  | nil => simp [insertK, hx]
  | cons e tiles ih =>
    obtain ⟨j, y⟩ := e
    rw [tilesCanonical_cons, Bool.and_eq_true] at h
    obtain ⟨hy, htiles⟩ := h
    unfold insertK
    (repeat' split) <;> simp [hx, hy, htiles, ih]

theorem tilesCanonical_of_insertK {t : Nat} {x : Tile} {tiles : Table Tile}
    (hx : x.canonical = (lookupD {} t tiles).canonical)
    (h : tilesCanonical (insertK t x tiles) = true) : tilesCanonical tiles = true := by
  induction tiles with
  | nil => rfl
  | cons e tiles ih =>
    obtain ⟨j, y⟩ := e
    unfold insertK at h
    unfold lookupD lookup at hx
    split at h
    · exact (Bool.and_eq_true_iff.mp h).2
    · split at h
      · next hj =>
        rw [if_pos hj] at hx
        rwa [tilesCanonical_cons, hx] at h
      · next hj =>
        rw [if_neg hj] at hx
        rw [tilesCanonical_cons, Bool.and_eq_true] at h ⊢
        exact ⟨h.1, ih hx h.2⟩

/-- A tile put back with its memories as they were leaves the form of the table. -/
theorem tilesCanonical_insertK_same {t : Nat} {x : Tile} {tiles : Table Tile}
    (hx : x.canonical = (lookupD {} t tiles).canonical) :
    tilesCanonical (insertK t x tiles) = tilesCanonical tiles :=
  Bool.eq_iff_iff.mpr ⟨tilesCanonical_of_insertK hx, fun h =>
    tilesCanonical_insertK t (hx.trans (canonical_lookupD h t)) h⟩

theorem tilesCanonical_map_same {tiles : Table Tile} {g : Nat × Tile → Nat × Tile}
    (hg : ∀ e, (g e).2.canonical = e.2.canonical) :
    tilesCanonical (tiles.map g) = tilesCanonical tiles := by
  simp [tilesCanonical, List.all_map, Function.comp_def, hg]

theorem tilesCanonical_map {tiles : Table Tile} {g : Nat × Tile → Nat × Tile}
    (hg : ∀ e, e.2.canonical = true → (g e).2.canonical = true)
    (h : tilesCanonical tiles = true) : tilesCanonical (tiles.map g) = true := by
  simp only [tilesCanonical, List.all_map, List.all_eq_true, Function.comp_apply] at h ⊢
  exact fun e he => hg e (h e he)

theorem tilesCanonical_modifyK (t : Nat) {f : Tile → Tile} (hf : ∀ x, (f x).canonical = x.canonical)
    (tiles : Table Tile) : tilesCanonical (modifyK t f tiles) = tilesCanonical tiles := by
  induction tiles with
  | nil => rfl
  | cons e tiles ih =>
    obtain ⟨j, x⟩ := e
    unfold modifyK
    split <;> simp [hf, ih]

/-! ## The canonical form of a state and of an outcome -/

/-- The memories of the weight space and of the tiles are in canonical form. -/
def memCanonical (dram nand : Mem) (tiles : Table Tile) : Bool :=
  dram.wf && nand.wf && tilesCanonical tiles

def State.canonical (s : State) : Bool := memCanonical s.wsp.dram s.wsp.nand s.tiles

theorem canonical_iff (s : State) : s.canonical = true ↔ MemoryCanonical s := by
  rw [State.canonical, memCanonical, MemoryCanonical, Bool.and_eq_true, Bool.and_eq_true, and_assoc,
    tilesCanonical, List.all_eq_true]
  simp only [Tile.canonical, Bool.and_eq_true]

@[simp] theorem memCanonical_insertK {dram nand : Mem} {t : Nat} {x : Tile} {tiles : Table Tile}
    (h : x.canonical = (lookupD {} t tiles).canonical) :
    memCanonical dram nand (insertK t x tiles) = memCanonical dram nand tiles := by
  simp only [memCanonical, tilesCanonical_insertK_same h]

@[simp] theorem memCanonical_map {dram nand : Mem} {tiles : Table Tile}
    {g : Nat × Tile → Nat × Tile} (hg : ∀ e, (g e).2.canonical = e.2.canonical) :
    memCanonical dram nand (tiles.map g) = memCanonical dram nand tiles := by
  simp only [memCanonical, tilesCanonical_map_same hg]

@[simp] theorem memCanonical_modifyK {dram nand : Mem} {t : Nat} {f : Tile → Tile}
    {tiles : Table Tile} (hf : ∀ x, (f x).canonical = x.canonical) :
    memCanonical dram nand (modifyK t f tiles) = memCanonical dram nand tiles := by
  simp only [memCanonical, tilesCanonical_modifyK t hf]

theorem memCanonical_of {dram nand : Mem} {tiles : Table Tile} (hdram : dram.wf = true)
    (hnand : nand.wf = true) (htiles : tilesCanonical tiles = true) :
    memCanonical dram nand tiles = true := by
  simp [memCanonical, hdram, hnand, htiles]

section
variable {s : State} (hs : s.canonical = true)
include hs

theorem canonical_parts :
    s.wsp.dram.wf = true ∧ s.wsp.nand.wf = true ∧ tilesCanonical s.tiles = true := by
  simpa only [State.canonical, memCanonical, Bool.and_eq_true, and_assoc] using hs

theorem dram_wf : s.wsp.dram.wf = true := (canonical_parts hs).1

theorem nand_wf : s.wsp.nand.wf = true := (canonical_parts hs).2.1

theorem tiles_canonical : tilesCanonical s.tiles = true := (canonical_parts hs).2.2

theorem memCanonical_dram {m : Mem} (hm : m.wf = true) :
    memCanonical m s.wsp.nand s.tiles = true :=
  memCanonical_of hm (nand_wf hs) (tiles_canonical hs)

theorem memCanonical_nand {m : Mem} (hm : m.wf = true) :
    memCanonical s.wsp.dram m s.tiles = true :=
  memCanonical_of (dram_wf hs) hm (tiles_canonical hs)

theorem tile_canonical (t : Nat) : (s.tile t).canonical = true :=
  canonical_lookupD (tiles_canonical hs) t

theorem setTile_canonical_of (t : Nat) {x : Tile} (hx : x.canonical = true) :
    (s.setTile t x).canonical = true :=
  memCanonical_of (dram := s.wsp.dram) (nand := s.wsp.nand) (tiles := insertK t x s.tiles)
    (dram_wf hs) (nand_wf hs) (tilesCanonical_insertK t hx (tiles_canonical hs))

theorem modTile_canonical_of (t : Nat) {f : Tile → Tile}
    (hf : ∀ x, x.canonical = true → (f x).canonical = true) : (s.modTile t f).canonical = true :=
  setTile_canonical_of hs t (hf _ (tile_canonical hs t))

theorem mapTiles_canonical_of {g : Nat × Tile → Nat × Tile}
    (hg : ∀ e, e.2.canonical = true → (g e).2.canonical = true) :
    memCanonical s.wsp.dram s.wsp.nand (s.tiles.map g) = true :=
  memCanonical_of (dram_wf hs) (nand_wf hs) (tilesCanonical_map hg (tiles_canonical hs))

end

/-- The form of the state an outcome leaves, where it leaves one. -/
def canonicalAfter : Out → Option Bool
  | .next s => some s.canonical
  | _ => none

/-- The form of the state an engine command leaves when it ends; `d` for a command that does
not end, which leaves no state of its own. -/
def Run.canonicalOr (d : Bool) : Run → Bool
  | .done _ s => s.canonical
  | _ => d

/-- The form of an optional state; `d` where there is none. -/
def optCanonical (d : Bool) : Option State → Bool
  | some s => s.canonical
  | none => d

-- The proofs `(rfl)` stand in parentheses so that `simp` records its use of these equations.
@[simp] theorem canonical_fold (s : State) :
    memCanonical s.wsp.dram s.wsp.nand s.tiles = s.canonical := (rfl)

@[simp] theorem canonical_mk (fuses regs counters cp ctx hop wsp ntl models tiles xch fab flk ras
    det mgt pwr hif pmc prt hostOut ticks free pending) :
    (State.mk fuses regs counters cp ctx hop wsp ntl models tiles xch fab flk ras det mgt pwr hif
      pmc prt hostOut ticks free pending).canonical = memCanonical wsp.dram wsp.nand tiles := (rfl)

@[simp] theorem canonicalAfter_next (s : State) :
    canonicalAfter (.next s) = some s.canonical := (rfl)

@[simp] theorem done_canonicalOr (d : Bool) (e : Effects) (s : State) :
    Run.canonicalOr d (.done e s) = s.canonical := (rfl)

@[simp] theorem fault_canonicalOr (d : Bool) (k a : Nat) :
    Run.canonicalOr d (.fault k a) = d := (rfl)

@[simp] theorem skip_canonicalOr (d : Bool) (k n r : Nat) :
    Run.canonicalOr d (.skip k n r) = d := (rfl)

@[simp] theorem wait_canonicalOr (d : Bool) (r : Rd) : Run.canonicalOr d (.wait r) = d := (rfl)

@[simp] theorem hold_canonicalOr (d : Bool) : Run.canonicalOr d .hold = d := (rfl)

@[simp] theorem some_optCanonical (d : Bool) (s : State) :
    optCanonical d (some s) = s.canonical := (rfl)

@[simp] theorem none_optCanonical (d : Bool) : optCanonical d none = d := (rfl)

/-! ## Tiles that keep their memories -/

@[simp] theorem State.setTile_canonical {s : State} {t : Nat} {x : Tile}
    (h : x.canonical = (s.tile t).canonical) : (s.setTile t x).canonical = s.canonical := by
  simp [State.setTile, memCanonical_insertK (tiles := s.tiles) h]

@[simp] theorem State.modTile_canonical {s : State} {t : Nat} {f : Tile → Tile}
    (h : ∀ x, (f x).canonical = x.canonical) : (s.modTile t f).canonical = s.canonical := by
  simp [State.modTile, h]

/-! ## Branches -/

@[simp] theorem canonical_ite (c : Prop) [Decidable c] (a b : State) :
    (if c then a else b).canonical = if c then a.canonical else b.canonical := apply_ite ..

@[simp] theorem Tile.canonical_ite (c : Prop) [Decidable c] (a b : Tile) :
    (if c then a else b).canonical = if c then a.canonical else b.canonical := apply_ite ..

@[simp] theorem canonicalAfter_ite (c : Prop) [Decidable c] (a b : Out) :
    canonicalAfter (if c then a else b) = if c then canonicalAfter a else canonicalAfter b :=
      apply_ite ..

@[simp] theorem fst_canonical_ite {α : Type} (c : Prop) [Decidable c] (a b : State × α) :
    (if c then a else b).1.canonical = if c then a.1.canonical else b.1.canonical :=
  apply_ite (fun p : State × α => p.1.canonical) ..

@[simp] theorem snd_canonical_ite {α : Type} (c : Prop) [Decidable c] (a b : α × State) :
    (if c then a else b).2.canonical = if c then a.2.canonical else b.2.canonical :=
  apply_ite (fun p : α × State => p.2.canonical) ..

@[simp] theorem snd_snd_canonical_ite {α β : Type} (c : Prop) [Decidable c] (a b : α × β × State) :
    (if c then a else b).2.2.canonical = if c then a.2.2.canonical else b.2.2.canonical :=
  apply_ite (fun p : α × β × State => p.2.2.canonical) ..

@[simp] theorem ite_canonicalOr (d : Bool) (c : Prop) [Decidable c] (a b : Run) :
    Run.canonicalOr d (if c then a else b) = if c then Run.canonicalOr d a else Run.canonicalOr d
      b :=
  apply_ite ..

@[simp] theorem ite_optCanonical (d : Bool) (c : Prop) [Decidable c] (a b : Option State) :
    optCanonical d (if c then a else b) = if c then optCanonical d a else optCanonical d b :=
      apply_ite ..

/-! ## Folds -/

@[simp] theorem foldl_canonical {α : Type} (f : State → α → State)
    (h : ∀ s x, (f s x).canonical = s.canonical) (xs : List α) (s : State) :
    (xs.foldl f s).canonical = s.canonical := by
  induction xs generalizing s with
  | nil => rfl
  | cons x xs ih => exact (ih _).trans (h s x)

@[simp] theorem foldl_fst_canonical {α β : Type} (f : State × β → α → State × β)
    (h : ∀ p x, (f p x).1.canonical = p.1.canonical) (xs : List α) (p : State × β) :
    (xs.foldl f p).1.canonical = p.1.canonical := by
  induction xs generalizing p with
  | nil => rfl
  | cons x xs ih => exact (ih _).trans (h p x)

@[simp] theorem foldl_snd_canonical {α β : Type} (f : β × State → α → β × State)
    (h : ∀ p x, (f p x).2.canonical = p.2.canonical) (xs : List α) (p : β × State) :
    (xs.foldl f p).2.canonical = p.2.canonical := by
  induction xs generalizing p with
  | nil => rfl
  | cons x xs ih => exact (ih _).trans (h p x)

@[simp] theorem foldl_canonical_of {α : Type} {f : State → α → State}
    (hf : ∀ s x, s.canonical = true → (f s x).canonical = true) (xs : List α) {s : State}
    (hs : s.canonical = true) : (xs.foldl f s).canonical = true := by
  induction xs generalizing s with
  | nil => exact hs
  | cons x xs ih => exact ih (hf s x hs)

/-! ## States taken out of pairs, options and reads -/

theorem canonical_of_fst {α : Type} {p : State × α} {s : State} {a : α} {d : Bool} (e : p = (s, a))
    (h : p.1.canonical = d) : s.canonical = d := by
  subst e
  exact h

theorem canonical_of_snd {α : Type} {p : α × State} {s : State} {a : α} {d : Bool} (e : p = (a, s))
    (h : p.2.canonical = d) : s.canonical = d := by
  subst e
  exact h

theorem canonical_of_snd_snd {α β : Type} {p : α × β × State} {s : State} {a : α} {b : β} {d : Bool}
    (e : p = (a, b, s)) (h : p.2.2.canonical = d) : s.canonical = d := by
  subst e
  exact h

theorem canonical_of_some {o : Option State} {t : State} {d : Bool} (e : o = some t)
    (h : optCanonical d o = d) : t.canonical = d := by
  subst e
  exact h

theorem getD_canonical (o : Option State) (s : State)
    (h : ∀ t, o = some t → t.canonical = s.canonical) :
    (o.getD s).canonical = s.canonical := by
  cases o with
  | none => rfl
  | some t => exact h t rfl

theorem canonicalAfter_next_eq {s : State} {d : Bool} (h : s.canonical = d) :
    canonicalAfter (.next s) = some d := congrArg some h

theorem Rd.use_canonical (d : Bool) (r : Rd) (f : List Byte → Run)
    (h : ∀ bs, Run.canonicalOr d (f bs) = d) : Run.canonicalOr d (r.use f) = d := by
  cases r <;> simp [Rd.use, h]

theorem EngCmd.get_canonical (d : Bool) (c : EngCmd) (r : Nat) (f : Opnd → Run)
    (h : ∀ o, Run.canonicalOr d (f o) = d) : Run.canonicalOr d (c.get r f) = d := by
  unfold EngCmd.get
  split <;> simp [h]

/-! ## Operations of one tile -/

/-- A tile stopped for the work of some items keeps its memories. -/
@[simp] theorem Tile.stopWhere_canonical (x : Tile) (p : Item → Bool) :
    (x.stopWhere p).canonical = x.canonical := (rfl)

@[simp] theorem Tile.stopFor_canonical (ctx : Nat) (x : Tile) :
    (Tile.stopFor ctx x).canonical = x.canonical := (rfl)

@[simp] theorem Tile.setEvent_canonical (x : Tile) (e n : Nat) :
    (x.setEvent e n).canonical = x.canonical := (rfl)

@[simp] theorem Tile.setQueue_canonical (x : Tile) (e : Nat) (q : List EngCmd) :
    (x.setQueue e q).canonical = x.canonical := by
  unfold Tile.setQueue
  (repeat' split) <;> rfl

@[simp] theorem Tile.setBank_canonical (x : Tile) (n : Nat) (b : Bank) :
    (x.setBank n b).canonical = x.canonical := by
  unfold Tile.setBank
  split <;> rfl

@[simp] theorem Tile.setSkip_canonical (x : Tile) (k : SkipState) :
    (x.setSkip k).canonical = x.canonical := by
  unfold Tile.setSkip
  split <;> rfl

@[simp] theorem swapBanks_canonical (x : Tile) : (swapBanks x).canonical = x.canonical := by
  unfold swapBanks
  (repeat' split) <;> simp

@[simp] theorem latchSkip_canonical (s : State) (x : Tile) (seq : Nat) :
    (latchSkip s x seq).canonical = x.canonical := by
  unfold latchSkip
  split <;> rfl

@[simp] theorem takeWaits_canonical (x : Tile) (c : EngCmd) :
    (takeWaits x c).canonical = x.canonical := by
  unfold takeWaits
  dsimp only
  (repeat' split) <;> simp

@[simp] theorem takeMade_canonical (x : Tile) (c : EngCmd) :
    (takeMade x c).canonical = x.canonical := by simp [takeMade]

@[simp] theorem signalMade_canonical (x : Tile) (c : EngCmd) :
    (signalMade x c).canonical = x.canonical := by
  unfold signalMade
  dsimp only
  split <;> simp

/-- A gated row loses its tiles' memories. -/
@[simp] theorem Tile.gated_canonical (x : Tile) (d : Nat) : (x.gated d).canonical = true := (rfl)

theorem Tile.spad_wf {x : Tile} (hx : x.canonical = true) : x.spad.wf = true :=
  (Bool.and_eq_true_iff.mp hx).1

theorem Tile.dmem_wf {x : Tile} (hx : x.canonical = true) : x.dmem.wf = true :=
  (Bool.and_eq_true_iff.mp hx).2

theorem Tile.canonical_of {x : Tile} (hspad : x.spad.wf = true) (hdmem : x.dmem.wf = true) :
    x.canonical = true := Bool.and_eq_true_iff.mpr ⟨hspad, hdmem⟩

@[simp] theorem Tile.writeSpad_canonical {x : Tile} (hx : x.canonical = true) (a : Nat)
    (bs : List Byte) : (x.writeSpad a bs).canonical = true := by
  induction bs generalizing x a with
  | nil => exact hx
  | cons b bs ih =>
    exact ih (x := { x with spad := writeByte a (b ^^^ x.spadBase a) x.spad })
      (Tile.canonical_of (writeByte_wf a _ (Tile.spad_wf hx)) (Tile.dmem_wf hx :)) _

@[simp] theorem Tile.stepWrite_canonical {x : Tile} (hx : x.canonical = true) (seq a : Nat)
    (bs : List Byte) : (x.stepWrite seq a bs).canonical = true := Tile.writeSpad_canonical hx a bs

theorem foldl_tile_canonical {α : Type} {f : Tile → α → Tile}
    (hf : ∀ x y, x.canonical = true → (f x y).canonical = true) (ys : List α) {x : Tile}
    (hx : x.canonical = true) : (ys.foldl f x).canonical = true := by
  induction ys generalizing x with
  | nil => exact hx
  | cons y ys ih => exact ih (hf x y hx)

@[simp] theorem Tile.discardStep_canonical {x : Tile} (hx : x.canonical = true) (seq d : Nat) :
    (x.discardStep seq d).canonical = true :=
  foldl_tile_canonical (fun _ _ hy => Tile.writeSpad_canonical hy _ _) (lookupD [] seq x.wrote) hx

@[simp] theorem Tile.stopStep_canonical {x : Tile} (hx : x.canonical = true) (seq d : Nat) :
    (x.stopStep seq d).canonical = true :=
  Tile.discardStep_canonical (x := x.stopWhere fun i => i.seq = seq) hx seq d

@[simp] theorem Tile.killFor_canonical {x : Tile} (hx : x.canonical = true) (ctx seq d : Nat) :
    (x.killFor ctx seq d).canonical = true := by
  refine Tile.discardStep_canonical ?_ seq d
  split <;> simp [hx]

/-! ## `Machine/Ops` -/

@[simp] theorem setRaw_canonical (s : State) (r : RegSpec) (idx func v : Nat) :
    (setRaw s r idx func v).canonical = s.canonical := by simp [setRaw]

@[simp] theorem setFld_canonical (s : State) (f : FieldRef) (x idx func : Nat) :
    (setFld s f x idx func).canonical = s.canonical := by simp [setFld]

@[simp] theorem bumpFld_canonical (s : State) (f : FieldRef) (n idx : Nat) :
    (bumpFld s f n idx).canonical = s.canonical := by simp [bumpFld]

@[simp] theorem count_canonical (s : State) (b c n : Nat) :
    (count s b c n).canonical = s.canonical := by simp [count]

@[simp] theorem send_canonical (s : State) (o : HostOut) :
    (send s o).canonical = s.canonical := by simp [send]

@[simp] theorem irqUpdate_canonical (s : State) :
    (irqUpdate s).canonical = s.canonical := by simp [irqUpdate]

@[simp] theorem logEntry_canonical (s : State) (block bit : Nat) (cls : ErrClass) (i : ErrInfo) :
    (logEntry s block bit cls i).canonical = s.canonical := by simp [logEntry]

@[simp] theorem alert_canonical (s : State) (seq cls block bit : Nat) :
    (alert s seq cls block bit).canonical = s.canonical := by simp [alert]

@[simp] theorem stopFatal_canonical (s : State) :
    (stopFatal s).canonical = s.canonical := by simp [stopFatal]

@[simp] theorem raiseErr_canonical (s : State) (f : FieldRef) (idx : Nat) (cls : ErrClass)
    (i : ErrInfo) :
    (raiseErr s f idx cls i).canonical = s.canonical := by simp [raiseErr]

@[simp] theorem noteErr_canonical (s : State) (block : Nat) (cls : ErrClass) (i : ErrInfo) :
    (noteErr s block cls i).canonical = s.canonical := by simp [noteErr]

@[simp] theorem setErr_canonical (s : State) (f : FieldRef) (idx func : Nat) :
    (setErr s f idx func).canonical = s.canonical := by simp [setErr]

@[simp] theorem drawFree_canonical (s : State) :
    (drawFree s).2.canonical = s.canonical := by simp [drawFree]

/-! ## `Machine/Trigger` -/

@[simp] theorem settleTrig_canonical (s : State) (slice : Nat) (x : TrigSlice) :
    (settleTrig s slice x).canonical = s.canonical := by
  unfold settleTrig
  split
  simp

@[simp] theorem issueTrig_canonical (s : State) (slice : Nat) (ops : List TrigOp) :
    (issueTrig s slice ops).canonical = s.canonical := by simp [issueTrig]

@[simp] theorem bumpTrig_canonical (s : State) (slice seq key n : Nat) :
    (bumpTrig s slice seq key n).canonical = s.canonical := by simp [bumpTrig]

@[simp] theorem dropTrig_canonical (s : State) (seq : Nat) :
    (dropTrig s seq).canonical = s.canonical := by simp [dropTrig]

@[simp] theorem renewTrig_canonical (s : State) (slice seq key : Nat) (ops : List TrigOp) :
    (renewTrig s slice seq key ops).canonical = s.canonical := by simp [renewTrig]

@[simp] theorem fireTrig_canonical (s : State) (slice seq action operand : Nat) :
    (fireTrig s slice seq action operand).canonical = s.canonical := by simp [fireTrig]

/-! ## `Machine/Perturb` -/

@[simp] theorem injectorEvent_canonical (s : State) (i : Nat) :
    (injectorEvent s i).2.canonical = s.canonical := by simp [injectorEvent]

@[simp] theorem inject_canonical (s : State) (target unit sub : Nat) :
    (inject s target unit sub).2.canonical = s.canonical := by
  unfold inject
  simp

@[simp] theorem injectAt_canonical (s : State) (target unit sub : Nat) :
    (injectAt s target unit sub).canonical = s.canonical := by simp [injectAt]

@[simp] theorem injectEach_canonical (target unit n : Nat) (s : State) :
    (injectEach target unit n s).2.canonical = s.canonical := by
  induction n generalizing s with
  | zero => rfl
  | succ n ih => simp [injectEach, ih]

@[simp] theorem injectMany_canonical (target unit n : Nat) (s : State) :
    (injectMany target unit n s).2.canonical = s.canonical := by simp [injectMany]

@[simp] theorem showMhz_canonical (s : State) :
    (showMhz s).canonical = s.canonical := by simp [showMhz]

@[simp] theorem setMhz_canonical (s : State) (m : Nat) :
    (setMhz s m).canonical = s.canonical := by simp [setMhz]

@[simp] theorem dropHolds_canonical (s : State) :
    (dropHolds s).canonical = s.canonical := by simp [dropHolds]

@[simp] theorem execInjectHoldEnd_canonical (injector : Nat) (s : State) :
    canonicalAfter (execInjectHoldEnd injector s) = some s.canonical := by simp [execInjectHoldEnd]

/-! ## `Machine/Protocol` -/

@[simp] theorem State.setCmd_canonical (s : State) (seq : Nat) (c : OpenCmd) :
    (s.setCmd seq c).canonical = s.canonical := by simp [State.setCmd]

@[simp] theorem State.modCmd_canonical (s : State) (seq : Nat) (f : OpenCmd → OpenCmd) :
    (s.modCmd seq f).canonical = s.canonical := by simp [State.modCmd]

@[simp] theorem State.setSq_canonical (s : State) (f q : Nat) (x : Sq) :
    (s.setSq f q x).canonical = s.canonical := by simp [State.setSq]

@[simp] theorem State.setCq_canonical (s : State) (f q : Nat) (x : Cq) :
    (s.setCq f q x).canonical = s.canonical := by simp [State.setCq]

@[simp] theorem journal_canonical (s : State) (e : JEntry) :
    (journal s e).canonical = s.canonical := by
  unfold journal
  extract_lets +onlyGivenNames _ _ _ _ _ _ _ s1 s2
  have h2 : s2.canonical = s.canonical := by simp [s2, s1]
  clear_value s1 s2
  simp [h2]

@[simp] theorem detachEntries_canonical (s : State) (p : JEntry → Bool) :
    (detachEntries s p).canonical = s.canonical := by simp [detachEntries]

@[simp] theorem detachSq_canonical (s : State) (f q : Nat) :
    (detachSq s f q).canonical = s.canonical := by
  unfold detachSq
  extract_lets +onlyGivenNames s1
  have h1 : s1.canonical = s.canonical := by simp [s1]
  clear_value s1
  split
  · exact h1
  · split <;> simp [h1]

@[simp] theorem journalEvent_canonical (s : State) (code ref w0 w1 body msc : Nat) :
    (journalEvent s code ref w0 w1 body msc).canonical = s.canonical := by
  unfold journalEvent
  extract_lets +onlyGivenNames _
  simp

@[simp] theorem openEvent_canonical (s : State) (code ref ctx stream layer msc : Nat)
    (vals : List Nat) :
    (openEvent s code ref ctx stream layer msc vals).canonical = s.canonical := by
  unfold openEvent
  split
  rename_i s1 e2
  have h1 : s1.canonical = s.canonical := canonical_of_snd e2 (by simp)
  simp [h1]

@[simp] theorem coreErr_canonical (s : State) (ref : FieldRef) (cls : ErrClass) (jrnSeq : Nat) :
    (coreErr s ref cls jrnSeq).canonical = s.canonical := by simp [coreErr]

@[simp] theorem fireVector_canonical (s : State) (f q : Nat) :
    (fireVector s f q).canonical = s.canonical := by
  unfold fireVector
  split
  · rfl
  · split <;> simp

@[simp] theorem postOne_canonical (s : State) (f q slot : Nat) (bytes : List Byte) (irq : Bool) :
    (postOne s f q slot bytes irq).canonical = s.canonical := by
  unfold postOne
  split <;> simp

@[simp] theorem flushNotes_canonical (s : State) (f q n : Nat) :
    (flushNotes s f q n).canonical = s.canonical := by
  induction n generalizing s with
  | zero => rfl
  | succ n ih =>
    unfold flushNotes
    (repeat' split) <;> simp [ih]

@[simp] theorem postReply_canonical (s : State) (f q slot : Nat) (bytes : List Byte) (irq : Bool) :
    (postReply s f q slot bytes irq).canonical = s.canonical := by
  unfold postReply
  extract_lets +onlyGivenNames s1
  have h1 : s1.canonical = s.canonical := by simp [s1]
  clear_value s1
  split <;> simp [h1]

@[simp] theorem advanceSqHead_canonical (s : State) (f q slot : Nat) :
    (advanceSqHead s f q slot).canonical = s.canonical := by
  unfold advanceSqHead
  split <;> simp

@[simp] theorem takeGroupEntry_canonical (s : State) (f q slot key : Nat) :
    (takeGroupEntry s f q slot key).canonical = s.canonical := by
  unfold takeGroupEntry
  extract_lets +onlyGivenNames s1
  have h1 : s1.canonical = s.canonical := by
    unfold s1
    split <;> simp
  clear_value s1
  simp [h1]

@[simp] theorem completeCmd_canonical (s : State) (seq : Nat) (r : Result) :
    (completeCmd s seq r).canonical = s.canonical := by
  unfold completeCmd
  split
  · rfl
  · split
    · rfl
    · extract_lets +onlyGivenNames _ _ s1 _ _ s2
      have h1 : s1.canonical = s.canonical := by
        unfold s1
        split <;> simp
      have h2 : s2.canonical = s.canonical := by simp [s2, h1]
      clear_value s1 s2
      simp [h2]

@[simp] theorem completeWith_canonical (s : State) (seq status detail w0 w1 : Nat) :
    (completeWith s seq status detail w0 w1).canonical = s.canonical := by simp [completeWith]

/-- The command's own effect is the caller's; its frame fact is the hypothesis. -/
@[simp] theorem runCmd_canonical (s : State) (seq op : Nat) (pre : OpenCmd → Option PreFail)
    (run : OpenCmd → State) (hrun : ∀ a, (run a).canonical = s.canonical) :
    canonicalAfter (runCmd s seq op pre run) = some s.canonical := by
  unfold runCmd
  (repeat' split) <;> simp [hrun]

theorem runCmd_canonical_of (s : State) (seq op : Nat) (pre : OpenCmd → Option PreFail)
    (run : OpenCmd → State) (hrun : ∀ a, (run a).canonical = true) (hs : s.canonical = true) :
    canonicalAfter (runCmd s seq op pre run) = some true := by
  unfold runCmd
  (repeat' split) <;> simp [hrun, hs]

@[simp] theorem startWork_canonical (s : State) (seq : Nat) :
    (startWork s seq).canonical = s.canonical := by simp [startWork]

@[simp] theorem timingEvent_canonical (s : State) (seq : Nat) :
    (timingEvent s seq).canonical = s.canonical := by simp [timingEvent]

@[simp] theorem timingOpen_canonical (s : State) :
    (timingOpen s).canonical = s.canonical := by simp [timingOpen]

/-! ## `Machine/Recorder` -/

@[simp] theorem recAppend_canonical (s : State) (e : RecEntry) :
    (recAppend s e).canonical = s.canonical := by simp [recAppend]

@[simp] theorem diverge_canonical (s : State) (seq cause : Nat) (k : RecKey) (exp got : Nat) :
    (diverge s seq cause k exp got).canonical = s.canonical := by simp [diverge]

@[simp] theorem recCompare_canonical (s : State) (k : RecKey) (old : RecEntry) (body : Nat) :
    (recCompare s k old body).canonical = s.canonical := by
  unfold recCompare
  split <;> simp

@[simp] theorem recProduce_canonical (s : State) (k : RecKey) (body : Nat) :
    (recProduce s k body).canonical = s.canonical := by
  unfold recProduce
  (repeat' split) <;> simp

@[simp] theorem recEvent_canonical (s : State) (code unit seq arg : Nat) (k : RecKey) :
    (recEvent s code unit seq arg k).canonical = s.canonical := by simp [recEvent]

@[simp] theorem recordCmd_canonical (s : State) (seq : Nat) :
    (recordCmd s seq).canonical = s.canonical := by
  unfold recordCmd
  split
  · rfl
  · extract_lets +onlyGivenNames _ _ _
    split
    · simp
    · (repeat' split) <;> simp

@[simp] theorem recordLate_canonical (s : State) (seq : Nat) (c : OpenCmd) :
    (recordLate s seq c).canonical = s.canonical := by simp [recordLate]

@[simp] theorem leftover_canonical (s : State) (e : RecEntry) :
    (leftover s e).canonical = s.canonical := by simp [leftover]

@[simp] theorem replayDone_canonical (s : State) :
    (replayDone s).canonical = s.canonical := by simp [replayDone]

@[simp] theorem endFed_canonical (s : State) (seq : Nat) :
    (endFed s seq).canonical = s.canonical := by simp [endFed]

@[simp] theorem countDraws_canonical (s : State) (n : Nat) :
    (countDraws s n).canonical = s.canonical := by simp [countDraws]

@[simp] theorem countJitter_canonical (s : State) (n : Nat) :
    (countJitter s n).canonical = s.canonical := by simp [countJitter]

/-! ## `Machine/Hooks` -/

@[simp] theorem takeCollNumber_canonical (s : State) (p : Packet) :
    (takeCollNumber s p).2.canonical = s.canonical := by
  unfold takeCollNumber
  split
  · simp
  · extract_lets +onlyGivenNames _
    split <;> simp

@[simp] theorem wakeTrigger_canonical (s : State) :
    (wakeTrigger s).canonical = s.canonical := by simp [wakeTrigger]

@[simp] theorem cacheContext_canonical (s : State) (id : Nat) :
    (cacheContext s id).canonical = s.canonical := by
  unfold cacheContext
  extract_lets +onlyGivenNames _ _ f1
  have h1 : ∀ t x2 x3, (f1 t x2 x3).canonical = t.canonical := by
    intro t x2 x3
    unfold f1
    simp
  clear_value f1
  split
  · simp [h1]
  · split
    rename_i s4 e5
    have h4 : s4.canonical = s.canonical := canonical_of_snd e5 (by simp)
    split <;> simp [h4, h1]

@[simp] theorem readEntry_canonical (s : State) (seq id : Nat) :
    (readEntry s seq id).canonical = s.canonical := by
  unfold readEntry
  split
  rename_i s1 e2
  have h1 : s1.canonical = s.canonical := canonical_of_snd e2 (by simp)
  simp [h1]

@[simp] theorem touchContext_canonical (s : State) (f seq : Nat) (p : Packet) :
    (touchContext s f seq p).canonical = s.canonical := by
  unfold touchContext
  split
  · rfl
  · split <;> simp

@[simp] theorem openCommand_canonical (s : State) (f q slot cq : Nat) (p : Packet)
    (groupReply : Bool) :
    (openCommand s f q slot cq p groupReply).canonical = s.canonical := by
  unfold openCommand
  extract_lets +onlyGivenNames _ _ s1
  have h1 : s1.canonical = s.canonical := by simp [s1]
  clear_value s1
  split
  rename_i s2 e3
  have h2 : s2.canonical = s.canonical := canonical_of_snd e3 (by simp [h1])
  simp [h2]

/-! ## `Machine/Hopper` -/

@[simp] theorem State.setPool_canonical (s : State) (key : Nat) (p : Pool) :
    (s.setPool key p).canonical = s.canonical := by simp [State.setPool]

@[simp] theorem linkErr_canonical (s : State) (f : FieldRef) (key : Nat) (p : Pool) (b : Nat) :
    (linkErr s f key p b).canonical = s.canonical := by simp [linkErr]

@[simp] theorem readLinks_canonical (s : State) (key ctx n : Nat) :
    (readLinks s key ctx n).canonical = s.canonical := by
  unfold readLinks
  split
  · rfl
  · split <;> simp

/-- The state is in both outcomes, beside the failure or beside the buffers. -/
theorem allocBufs_canonical (s : State) (key ctx n : Nat) :
    ((allocBufs s key ctx n).elim Prod.snd Prod.snd).canonical = s.canonical := by
  unfold allocBufs
  extract_lets +onlyGivenNames s1
  have h1 : s1.canonical = s.canonical := by simp [s1]
  clear_value s1
  split
  · exact h1
  · split <;> simp [h1]

theorem allocBufs_inl_canonical {s : State} {key ctx n : Nat} {e : AllocFail} {t : State}
    (h : allocBufs s key ctx n = .inl (e, t)) :
    t.canonical = s.canonical := by
  have hs := allocBufs_canonical s key ctx n
  rwa [h] at hs

theorem allocBufs_inr_canonical {s : State} {key ctx n : Nat} {bufs : List Nat} {t : State}
    (h : allocBufs s key ctx n = .inr (bufs, t)) :
    t.canonical = s.canonical := by
  have hs := allocBufs_canonical s key ctx n
  rwa [h] at hs

@[simp] theorem freeBufs_canonical (s : State) (key ctx : Nat) (bufs : List Nat) :
    (freeBufs s key ctx bufs).canonical = s.canonical := by
  unfold freeBufs
  split
  · rfl
  · extract_lets +onlyGivenNames _ s1
    have h1 : s1.canonical = s.canonical := by simp [s1]
    clear_value s1
    split <;> simp [h1]

@[simp] theorem freeChain_canonical (s : State) (key ctx : Nat) (bufs : List Nat) :
    (freeChain s key ctx bufs).canonical = s.canonical := by
  unfold freeChain
  split <;> simp

@[simp] theorem freeCmdChains_canonical (s : State) (seq : Nat) (torn : Bool) :
    (freeCmdChains s seq torn).canonical = s.canonical := by
  unfold freeCmdChains
  split
  · rfl
  · extract_lets +onlyGivenNames f1
    have h1 : ∀ t x2, (f1 t x2).canonical = t.canonical := by
      intro t x2
      unfold f1
      split <;> simp
    clear_value f1
    simp [h1]

@[simp] theorem handOver_canonical (s : State) (key ctx : Nat) (bufs : List Nat) :
    (handOver s key ctx bufs).2.canonical = s.canonical := by
  unfold handOver
  split <;> simp

@[simp] theorem forgetChain_canonical (s : State) (key : Nat) (c : Chain) :
    (forgetChain s key c).canonical = s.canonical := by
  unfold forgetChain
  split <;> simp

@[simp] theorem dropChain_canonical (s : State) (key : Nat) (c : Chain) :
    (dropChain s key c).canonical = s.canonical := by simp [dropChain]

@[simp] theorem dropContextHoldings_canonical (s : State) (ctx : Nat) :
    (dropContextHoldings s ctx).canonical = s.canonical := by
  unfold dropContextHoldings
  refine foldl_canonical _ (fun t x1 => ?_) _ _
  extract_lets +onlyGivenNames s2
  have h2 : s2.canonical = t.canonical := by simp [s2]
  clear_value s2
  split <;> simp [h2]

@[simp] theorem pool0Ask_canonical (s : State) (die tag : Nat) :
    (pool0Ask s die tag).2.canonical = s.canonical := by
  unfold pool0Ask
  extract_lets +onlyGivenNames s1
  have h1 : s1.canonical = s.canonical := by simp [s1]
  clear_value s1
  split <;> simp [h1]

@[simp] theorem pool0Give_canonical (s : State) (die b : Nat) :
    (pool0Give s die b).canonical = s.canonical := by simp [pool0Give]

@[simp] theorem execPool0Alloc_canonical (die : Nat) (s : State) :
    canonicalAfter (execPool0Alloc die s) = some s.canonical := by
  unfold execPool0Alloc
  split
  · simp
  · split <;> simp

/-! ## `Machine/Weight` -/

@[simp] theorem loseLinks_canonical (s : State) (q w n : Nat) :
    (loseLinks s q w n).canonical = s.canonical := (rfl)

@[simp] theorem State.setPage_canonical (s : State) (p : Nat) (d : Page) :
    (s.setPage p d).canonical = s.canonical := by simp [State.setPage]

@[simp] theorem State.modPage_canonical (s : State) (p : Nat) (f : Page → Page) :
    (s.modPage p f).canonical = s.canonical := by simp [State.modPage]

@[simp] theorem takeFrame_canonical (s : State) (st fr p : Nat) :
    (takeFrame s st fr p).canonical = s.canonical := by simp [takeFrame]

@[simp] theorem dropFrame_canonical (s : State) (st fr : Nat) :
    (dropFrame s st fr).canonical = s.canonical := by simp [dropFrame]

theorem placePrimary_canonical {s : State} {p : Nat} {u : State} (h : placePrimary s p = some u) :
    u.canonical = s.canonical := by
  refine canonical_of_some h ?_
  unfold placePrimary
  split
  · simp
  · (repeat' split) <;> simp

@[simp] theorem placeReplica_canonical (s : State) (p : Nat) :
    (placeReplica s p).canonical = s.canonical := by
  unfold placeReplica
  split
  · rfl
  · (repeat' split) <;> simp

@[simp] theorem followPrimary_canonical (s : State) (p : Nat) :
    (followPrimary s p).canonical = s.canonical := by
  unfold followPrimary
  (repeat' split) <;> simp

@[simp] theorem leaveFrame_canonical (s : State) (p st fr : Nat) :
    (leaveFrame s p st fr).canonical = s.canonical := by
  unfold leaveFrame
  (repeat' split) <;> simp

@[simp] theorem placeReplicas_canonical (s : State) :
    (placeReplicas s).canonical = s.canonical := by simp [placeReplicas]

@[simp] theorem placeRingPage_canonical (s : State) (q : Nat) :
    (placeRingPage s q).canonical = s.canonical := by
  unfold placeRingPage
  split <;> simp

@[simp] theorem placeRing_canonical (s : State) :
    (placeRing s).canonical = s.canonical := by simp [placeRing]

@[simp] theorem dropCopies_canonical (s : State) (p : Nat) :
    (dropCopies s p).canonical = s.canonical := by
  unfold dropCopies
  split <;> simp

@[simp] theorem setPage_dram (s : State) (p : Nat) (d : Page) :
    (s.setPage p d).wsp.dram = s.wsp.dram := (rfl)

@[simp] theorem setPage_nand (s : State) (p : Nat) (d : Page) :
    (s.setPage p d).wsp.nand = s.wsp.nand := (rfl)

theorem takeSlot_canonical {s : State} {p : Nat} {u : State} (h : takeSlot s p = some u) :
    u.canonical = s.canonical := by
  refine canonical_of_some h ?_
  unfold takeSlot
  split <;> simp

@[simp] theorem dropSlot_canonical (s : State) (p : Nat) :
    (dropSlot s p).canonical = s.canonical := by
  unfold dropSlot
  split <;> simp

@[simp] theorem mapPersist_canonical (s : State) (p : Nat) :
    (mapPersist s p).canonical = s.canonical := by
  unfold mapPersist
  split <;> simp

@[simp] theorem queueMove_canonical (s : State) (m : Move) :
    (queueMove s m).canonical = s.canonical := by simp [queueMove]

@[simp] theorem noteRead_canonical (s : State) (p : Nat) :
    (noteRead s p).canonical = s.canonical := by simp [noteRead]

@[simp] theorem noteReads_canonical (s : State) (a n : Nat) :
    (noteReads s a n).canonical = s.canonical := by simp [noteReads]

@[simp] theorem evict_canonical (s : State) (p : Nat) :
    (evict s p).canonical = s.canonical := by simp [evict]

@[simp] theorem revivePage_canonical (s : State) (p : Nat) :
    (revivePage s p).canonical = s.canonical := by
  unfold revivePage
  split
  · rfl
  · split
    · rfl
    · extract_lets +onlyGivenNames s1
      have h1 : s1.canonical = s.canonical := by simp [s1]
      clear_value s1
      split
      · exact h1
      · split
        · next e => simp [placePrimary_canonical e, h1]
        · have h2 : ((takeSlot s1 p).getD s1).canonical = s1.canonical :=
            getD_canonical _ _ fun t e => takeSlot_canonical e
          simp [h1, h2]

@[simp] theorem ringBadErr_canonical (s : State) (p : Nat) :
    (ringBadErr s p).canonical = s.canonical := by simp [ringBadErr]

@[simp] theorem stopCollector_canonical (s : State) (p : Nat) :
    (stopCollector s p).canonical = s.canonical := by
  unfold stopCollector
  split <;> simp

@[simp] theorem wspErr_canonical (s : State) (f : FieldRef) (page : Nat) :
    (wspErr s f page).canonical = s.canonical := by simp [wspErr]

@[simp] theorem losePage_canonical (s : State) (p : Nat) :
    (losePage s p).canonical = s.canonical := by
  unfold losePage
  extract_lets +onlyGivenNames s1
  have h1 : s1.canonical = s.canonical := by simp [s1]
  clear_value s1
  split <;> simp [h1]

@[simp] theorem releaseStaged_canonical (s : State) (a n : Nat) :
    (releaseStaged s a n).canonical = s.canonical := by simp [releaseStaged]

@[simp] theorem storeNand_canonical (s : State) (a : Nat) (bs : List Byte)
    (hs : s.canonical = true) : (storeNand s a bs).canonical = true := by
  simp [storeNand, memCanonical_nand hs (writeBytes_wf bs a (nand_wf hs))]

@[simp] theorem storePage_canonical (byCmd all : Bool) (s : State) (p a : Nat) (bs : List Byte)
    (hs : s.canonical = true) : (storePage byCmd all s p a bs).canonical = true := by
  unfold storePage
  split
  · exact hs
  · have hdram := memCanonical_dram hs (writeBytes_wf bs a (dram_wf hs))
    (repeat' split) <;> simp [hs, hdram]

@[simp] theorem clearPoison_canonical (s : State) (a n : Nat) :
    (clearPoison s a n).canonical = s.canonical := by simp [clearPoison]

@[simp] theorem wspStore_canonical (byCmd : Bool) (s : State) (a : Nat) (bs : List Byte)
    (all : Bool) (hs : s.canonical = true) :
    (wspStore byCmd s a bs all).canonical = true := by
  unfold wspStore
  simp +contextual [hs]

@[simp] theorem commitWrites_canonical (s : State) (all : Bool) (w : Mem)
    (written : List (Nat × Nat)) (hs : s.canonical = true) :
    (commitWrites s all w written).canonical = true := by simp +contextual [hs, commitWrites]

@[simp] theorem ownWrite_canonical (s : State) (seq a : Nat) (bs : List Byte) :
    (ownWrite s seq a bs).canonical = s.canonical := by simp [ownWrite]

@[simp] theorem releasePages_canonical (s : State) (p n : Nat) (hs : s.canonical = true) :
    (releasePages s p n).canonical = true := by
  induction n generalizing s p with
  | zero => exact hs
  | succ n ih =>
    have h : (dropCopies s p).canonical = true := by simp [hs]
    exact ih _ _ (memCanonical_dram h (clearRange_wf _ _ (dram_wf h)))

@[simp] theorem dropReserved_canonical (s : State) (seq : Nat) (hs : s.canonical = true) :
    (dropReserved s seq).canonical = true := by
  unfold dropReserved
  split <;> simp [hs]

/-! ## `Machine/TileStop` -/

@[simp] theorem State.setGroup_canonical (s : State) (key : Nat) (g : Group) :
    (s.setGroup key g).canonical = s.canonical := by simp [State.setGroup]

@[simp] theorem State.modGroup_canonical (s : State) (g : Nat) (f : Group → Group) :
    (s.modGroup g f).canonical = s.canonical := by simp [State.modGroup]

@[simp] theorem State.setStep_canonical (s : State) (seq : Nat) (x : LStep) :
    (s.setStep seq x).canonical = s.canonical := by simp [State.setStep]

@[simp] theorem State.modStep_canonical (s : State) (seq : Nat) (f : LStep → LStep) :
    (s.modStep seq f).canonical = s.canonical := by simp [State.modStep]

@[simp] theorem bindGroup_canonical (s : State) (g ctx st : Nat) :
    (bindGroup s g ctx st).canonical = s.canonical := by simp [bindGroup]

@[simp] theorem unbindGroup_canonical (s : State) (ctx st : Nat) :
    (unbindGroup s ctx st).canonical = s.canonical := by simp [unbindGroup]

@[simp] theorem breakGroup_canonical (s : State) (g : Nat) :
    (breakGroup s g).canonical = s.canonical := by simp [breakGroup]

@[simp] theorem announceLost_canonical (s : State) (model expert : Nat) :
    (announceLost s model expert).canonical = s.canonical := by simp [announceLost]

@[simp] theorem handBack_canonical (s : State) (w : Nat × Item) :
    (handBack s w).canonical = s.canonical := by simp [handBack]

@[simp] theorem resolveTally_canonical (s : State) (slot : Nat) (committed : Bool) :
    (resolveTally s slot committed).canonical = s.canonical := by simp [resolveTally]

@[simp] theorem killTileWork_canonical (s : State) (ctx seq : Nat) (hs : s.canonical = true) :
    (killTileWork s ctx seq).canonical = true := by
  have h : ({ (drawFree s).2 with tiles := s.tiles.map fun e =>
      (e.1, e.2.killFor ctx seq (drawFree s).1) } : State).canonical = true :=
    mapTiles_canonical_of hs fun e he => Tile.killFor_canonical he ..
  exact (foldl_canonical _ (fun t w => handBack_canonical t w) _ _).trans h

@[simp] theorem stopTileWork_canonical (s : State) (seq : Nat) (hs : s.canonical = true) :
    (stopTileWork s seq).canonical = true :=
  mapTiles_canonical_of hs fun _ he => Tile.stopStep_canonical he ..

@[simp] theorem keepTileWork_canonical (s : State) (seq : Nat) :
    (keepTileWork s seq).canonical = s.canonical := by simp [keepTileWork]

@[simp] theorem noteLost_canonical (s : State) (model : Nat) (experts : List Nat) :
    (noteLost s model experts).canonical = s.canonical := by simp [noteLost]

@[simp] theorem noteAnnounced_canonical (s : State) (x : LStep) :
    (noteAnnounced s x).canonical = s.canonical := by simp [noteAnnounced]

@[simp] theorem countsStop_canonical (s : State) (x : LStep) :
    (countsStop s x).canonical = s.canonical := by simp [countsStop]

@[simp] theorem stopStepWork_canonical (s : State) (seq : Nat) :
    (stopStepWork s seq).canonical = s.canonical := by
  unfold stopStepWork
  extract_lets +onlyGivenNames s1 s2
  have h1 : s1.canonical = s.canonical := by simp [s1]
  have h2 : s2.canonical = s.canonical := by
    unfold s2
    split <;> simp [h1]
  clear_value s1 s2
  simp [h2]

@[simp] theorem dropFabWork_canonical (s : State) (seq : Nat) :
    (dropFabWork s seq).canonical = s.canonical := by simp [dropFabWork]

/-! ## `Machine/Contexts` -/

@[simp] theorem State.setContext_canonical (s : State) (id : Nat) (c : Ctx) :
    (s.setContext id c).canonical = s.canonical := by simp [State.setContext]

@[simp] theorem State.setStream_canonical (s : State) (ctx st : Nat) (x : Stream) :
    (s.setStream ctx st x).canonical = s.canonical := by
  unfold State.setStream
  split <;> simp

@[simp] theorem State.modStream_canonical (s : State) (ctx st : Nat) (f : Stream → Stream) :
    (s.modStream ctx st f).canonical = s.canonical := by simp [State.modStream]

@[simp] theorem releaseStale_canonical (s : State) :
    (releaseStale s).canonical = s.canonical := by simp [releaseStale]

@[simp] theorem preemptNote_canonical (s : State) (seq : Nat) (c : OpenCmd) :
    (preemptNote s seq c).canonical = s.canonical := by
  unfold preemptNote
  split
  · split <;> simp
  · rfl

@[simp] theorem killCmd_canonical (s : State) (seq cause why recArg : Nat)
    (hs : s.canonical = true) :
    (killCmd s seq cause why recArg).canonical = true := by
  unfold killCmd
  split
  · exact hs
  · extract_lets +onlyGivenNames _ _ s1 s2 _ s3 s4 s5 s6 s7 _
    have h2 : s2.canonical = true := by simp [hs, s2, s1]
    have h3 : s3.canonical = true := by
      unfold s3
      split <;> simp [h2]
    have h7 : s7.canonical = true := by simp [s7, s6, s5, s4, h3]
    clear_value s1 s2 s3 s4 s5 s6 s7
    simp [h7]

@[simp] theorem endCmd_canonical (s : State) (seq : Nat) (r : Result) :
    (endCmd s seq r).canonical = s.canonical := by
  unfold endCmd
  split
  · rfl
  · extract_lets +onlyGivenNames _
    split
    · split
      simp
    · simp

@[simp] theorem bindSlot_canonical (s : State) (slot ctx st : Nat) :
    (bindSlot s slot ctx st).canonical = s.canonical := by simp [bindSlot]

@[simp] theorem unbindSlot_canonical (s : State) (ctx st : Nat) (after : StreamState) :
    (unbindSlot s ctx st after).canonical = s.canonical := by
  unfold unbindSlot
  extract_lets +onlyGivenNames _ _ s1
  have h1 : s1.canonical = s.canonical := by
    unfold s1
    split <;> simp
  clear_value s1
  simp [h1]

@[simp] theorem streamProgress_canonical (s : State) (ctx st : Nat) :
    (streamProgress s ctx st).canonical = s.canonical := by simp [streamProgress]

@[simp] theorem stepEnds_canonical (s : State) (ctx st : Nat) (committed : Bool) :
    (stepEnds s ctx st committed).canonical = s.canonical := by
  unfold stepEnds
  extract_lets +onlyGivenNames _
  split <;> simp

@[simp] theorem displace_canonical (s : State) (ctx st why : Nat) (hs : s.canonical = true) :
    (displace s ctx st why).canonical = true := by simp [hs, displace]

theorem tryBind_canonical {s : State} {x : Nat × Nat × Stream} {u : State}
    (h : tryBind s x = some u) (hs : s.canonical = true) :
    u.canonical = true := by
  refine canonical_of_some h ?_
  unfold tryBind
  (repeat' split) <;> simp [hs]

theorem scheduleFirst_canonical {s : State} {xs : List (Nat × Nat × Stream)}
    {r : (Nat × Nat) × State}
    (h : scheduleFirst s xs = some r) (hs : s.canonical = true) :
    r.2.canonical = true := by
  induction xs with
  | nil => cases h
  | cons x xs ih =>
    unfold scheduleFirst at h
    split at h
    · next e => cases h; exact tryBind_canonical e hs
    · exact ih h

@[simp] theorem execLingerExpire_canonical (ctx stream : Nat) (s : State) :
    canonicalAfter (execLingerExpire ctx stream s) = some s.canonical := by simp [execLingerExpire]

@[simp] theorem execStreamBlockTimeout_canonical (ctx stream : Nat) (s : State)
    (hs : s.canonical = true) :
    canonicalAfter (execStreamBlockTimeout ctx stream s) = some true := by
  unfold execStreamBlockTimeout
  extract_lets +onlyGivenNames _
  split
  · simp [hs]
  · extract_lets +onlyGivenNames s1
    have h1 : s1.canonical = true := by simp [hs, s1]
    clear_value s1
    split
    · simp [h1]
    · split <;> simp [h1]

@[simp] theorem closeStream_canonical (s : State) (ctx st : Nat) (torn : Bool) :
    (closeStream s ctx st torn).canonical = s.canonical := by
  unfold closeStream
  extract_lets +onlyGivenNames _ _ s1 _ s2 s3 s4 _ s5
  have h1 : s1.canonical = s.canonical := by
    unfold s1
    split <;> simp
  have h2 : s2.canonical = s.canonical := by simp [s2, h1]
  have h3 : s3.canonical = s.canonical := by
    unfold s3
    split
    · split <;> simp [h2]
    · exact h2
  have h4 : s4.canonical = s.canonical := by simp [s4, h3]
  have h5 : s5.canonical = s.canonical := h4
  clear_value s1 s2 s3 s4 s5
  simp [h5]

@[simp] theorem teardown_canonical (s : State) (ctx : Nat) (i : FaultInfo)
    (hs : s.canonical = true) :
    (teardown s ctx i).canonical = true := by
  unfold teardown
  split <;> simp +contextual [hs]

@[simp] theorem stateAreaFault_canonical (seq : Nat) (s : State) (ctx : Nat)
    (hs : s.canonical = true) :
    (stateAreaFault seq s ctx).canonical = true := by simp [hs, stateAreaFault]

@[simp] theorem execPinWatchdog_canonical (ctx stream : Nat) (s : State) (hs : s.canonical = true) :
    canonicalAfter (execPinWatchdog ctx stream s) = some true := by simp [hs, execPinWatchdog]

/-! ## `Machine/Models` -/

@[simp] theorem makeUnavailable_canonical (s : State) (model expert page : Nat) :
    (makeUnavailable s model expert page).canonical = s.canonical := by
  unfold makeUnavailable
  split <;> simp

@[simp] theorem meetPoison_canonical (s : State) (p : Nat) :
    (meetPoison s p).canonical = s.canonical := by
  unfold meetPoison
  split <;> simp

/-- `conv` unfolds the application in place: the equation lemma that `unfold` would build
compares its two sides as evaluated states. -/
@[simp] theorem meetLost_canonical (s : State) (p : Nat) :
    (meetLost s p).canonical = s.canonical := by
  conv in @meetLost => unfold meetLost
  extract_lets +onlyGivenNames s1
  have h1 : s1.canonical = s.canonical := by simp [s1]
  clear_value s1
  split <;> simp [h1]

@[simp] theorem repairChange_canonical (s : State) :
    (repairChange s).canonical = s.canonical := by simp [repairChange]

/-! ## `Machine/CommandsAdmin` -/

@[simp] theorem endsOk_canonical (s : State) (seq w0 w1 : Nat) :
    (endsOk s seq w0 w1).canonical = s.canonical := by simp [endsOk]

@[simp] theorem execNop_canonical (seq : Nat) (s : State) :
    canonicalAfter (execNop seq s) = some s.canonical := by simp [execNop]

@[simp] theorem execSqCreate_canonical (seq : Nat) (s : State) :
    canonicalAfter (execSqCreate seq s) = some s.canonical := by simp [execSqCreate]

@[simp] theorem execSqDelete_canonical (seq : Nat) (s : State) :
    canonicalAfter (execSqDelete seq s) = some s.canonical := by simp [execSqDelete]

@[simp] theorem execCqCreate_canonical (seq : Nat) (s : State) :
    canonicalAfter (execCqCreate seq s) = some s.canonical := by simp [execCqCreate]

@[simp] theorem execCqDelete_canonical (seq : Nat) (s : State) :
    canonicalAfter (execCqDelete seq s) = some s.canonical := by
  unfold execCqDelete
  simp

@[simp] theorem commitSqCreate_canonical (s : State) (c : OpenCmd) :
    (commitSqCreate s c).canonical = s.canonical := by simp [commitSqCreate]

@[simp] theorem commitSqDelete_canonical (s : State) (c : OpenCmd) :
    (commitSqDelete s c).canonical = s.canonical := by simp [commitSqDelete]

@[simp] theorem commitCqCreate_canonical (s : State) (c : OpenCmd) :
    (commitCqCreate s c).canonical = s.canonical := by simp [commitCqCreate]

@[simp] theorem commitCqDelete_canonical (s : State) (c : OpenCmd) :
    (commitCqDelete s c).canonical = s.canonical := by simp [commitCqDelete]

@[simp] theorem execCancel_canonical (seq : Nat) (s : State) :
    canonicalAfter (execCancel seq s) = some s.canonical := by simp [execCancel]

@[simp] theorem execJournalFlush_canonical (seq : Nat) (s : State) :
    canonicalAfter (execJournalFlush seq s) = some s.canonical := by simp [execJournalFlush]

@[simp] theorem finishJournalFlush_canonical (s : State) (seq : Nat) (failed : Bool) :
    (finishJournalFlush s seq failed).canonical = s.canonical := by
  unfold finishJournalFlush
  split
  · simp
  · extract_lets +onlyGivenNames _ _ _ s1
    have h1 : s1.canonical = s.canonical := by simp [s1]
    clear_value s1
    simp [h1]

@[simp] theorem execJournalFetch_canonical (seq : Nat) (s : State) :
    canonicalAfter (execJournalFetch seq s) = some s.canonical := by simp [execJournalFetch]

@[simp] theorem execCtxCreate_canonical (seq : Nat) (s : State) :
    canonicalAfter (execCtxCreate seq s) = some s.canonical := by simp [execCtxCreate]

@[simp] theorem commitCtxCreate_canonical (s : State) (c : OpenCmd) :
    (commitCtxCreate s c).canonical = s.canonical := by simp [commitCtxCreate]

@[simp] theorem execCtxDestroy_canonical (seq : Nat) (s : State) :
    canonicalAfter (execCtxDestroy seq s) = some s.canonical := by
  unfold execCtxDestroy
  simp

@[simp] theorem destroyContext_canonical (s : State) (id : Nat) :
    (destroyContext s id).canonical = s.canonical := by
  unfold destroyContext
  extract_lets +onlyGivenNames s1 s2
  have h1 : s1.canonical = s.canonical := by simp [s1]
  have h2 : s2.canonical = s.canonical := by
    unfold s2
    split <;> simp [h1]
  clear_value s1 s2
  simp [h2]

@[simp] theorem execStreamOpen_canonical (seq : Nat) (s : State) :
    canonicalAfter (execStreamOpen seq s) = some s.canonical := by
  unfold execStreamOpen
  refine runCmd_canonical _ _ _ _ _ fun c => ?_
  extract_lets +onlyGivenNames _ _ _
  split
  · simp
  · extract_lets +onlyGivenNames _ bb
    clear_value bb
    split
    · next e => simp [allocBufs_inl_canonical e]
    · next e => simp [allocBufs_inr_canonical e]

@[simp] theorem commitStreamOpen_canonical (s : State) (seq : Nat) (c : OpenCmd) :
    (commitStreamOpen s seq c).canonical = s.canonical := by simp [commitStreamOpen]

@[simp] theorem execStreamClose_canonical (seq : Nat) (s : State) :
    canonicalAfter (execStreamClose seq s) = some s.canonical := by simp [execStreamClose]

@[simp] theorem holdPages_canonical (s : State) (die p n : Nat) :
    (holdPages s die p n).canonical = s.canonical := by
  induction n generalizing s p with
  | zero => rfl
  | succ n ih =>
    unfold holdPages
    (repeat' split) <;> simp [ih]

/-- Unfolded in place, as in `meetLost_canonical`. -/
@[simp] theorem reservePool_canonical (s : State) (seq : Nat) (c : OpenCmd) :
    (reservePool s seq c).canonical = s.canonical := by
  conv in @reservePool => unfold reservePool
  extract_lets +onlyGivenNames _
  split <;> simp

@[simp] theorem execPoolCreate_canonical (seq : Nat) (s : State) :
    canonicalAfter (execPoolCreate seq s) = some s.canonical := by simp [execPoolCreate]

@[simp] theorem commitPoolCreate_canonical (s : State) (c : OpenCmd) (hs : s.canonical = true) :
    (commitPoolCreate s c).canonical = true := by
  unfold commitPoolCreate
  dsimp only
  split
  · exact hs
  · rw [State.setPool_canonical]
    exact memCanonical_dram hs (clearRange_wf _ _ (dram_wf hs))

@[simp] theorem execPoolQuota_canonical (seq : Nat) (s : State) :
    canonicalAfter (execPoolQuota seq s) = some s.canonical := by
  unfold execPoolQuota
  simp

@[simp] theorem commitPoolQuota_canonical (s : State) (c : OpenCmd) :
    (commitPoolQuota s c).canonical = s.canonical := by
  unfold commitPoolQuota
  extract_lets +onlyGivenNames _ _
  split <;> simp

@[simp] theorem execBufFree_canonical (seq : Nat) (s : State) :
    canonicalAfter (execBufFree seq s) = some s.canonical := by simp [execBufFree]

@[simp] theorem commitBufFree_canonical (s : State) (c : OpenCmd) :
    (commitBufFree s c).canonical = s.canonical := by
  unfold commitBufFree
  split <;> simp

@[simp] theorem execPoolDestroy_canonical (seq : Nat) (s : State) :
    canonicalAfter (execPoolDestroy seq s) = some s.canonical := by
  unfold execPoolDestroy
  simp

@[simp] theorem destroyPool_canonical (s : State) (key : Nat) (hs : s.canonical = true) :
    (destroyPool s key).canonical = true := by
  unfold destroyPool
  split <;> simp [hs]

/-! ## `Machine/FabSend` -/

@[simp] theorem sendPkt_canonical (s : State) (func slice : Nat) (owner : Owner) (p : XlPkt) :
    (sendPkt s func slice owner p).canonical = s.canonical := by simp [sendPkt]

@[simp] theorem sendEx_canonical (s : State) (func slice dest : Nat) (owner : Owner) (p : ExPkt) :
    (sendEx s func slice dest owner p).canonical = s.canonical := by simp [sendEx]

/-! ## `Machine/FlaskAccess` -/

@[simp] theorem coherentWrite_canonical (s : State) (plain : State → Nat → List Byte → State)
    (a : Nat) (bs : List Byte) (all : Bool)
    (hplain : ∀ t a bs, t.canonical = true → (plain t a bs).canonical = true)
    (hs : s.canonical = true) : (coherentWrite s plain a bs all).canonical = true := by
  unfold coherentWrite
  split
  · exact hplain _ _ _ hs
  · refine foldl_canonical_of (fun t p ht => ?_) _ hs
    extract_lets +onlyGivenNames _
    split <;> simp [ht, hplain]

@[simp] theorem sendFlask_canonical (s : State) (rank op tid addr : Nat) (data : List Byte)
    (order : Bool) :
    (sendFlask s rank op tid addr data order).canonical = s.canonical := by simp [sendFlask]

theorem openTxn_canonical {s : State} {rank op line : Nat} {data : List Byte} {r : Nat × State}
    (h : openTxn s rank op line data = some r) :
    r.2.canonical = s.canonical := by
  unfold openTxn at h
  split at h
  · cases h
  · cases h
    simp

theorem makeLineRoom_canonical {s u : State} (h : makeLineRoom s = some u) :
    u.canonical = s.canonical := by
  unfold makeLineRoom at h
  split at h
  · cases h; rfl
  · split at h
    rename_i s1 e
    have h1 : s1.canonical = s.canonical := canonical_of_snd e (by simp)
    split at h
    · cases h
    · dsimp only at h
      split at h
      · cases h; simp [h1]
      · obtain ⟨r, hr, rfl⟩ := Option.map_eq_some_iff.mp h
        exact (openTxn_canonical hr).trans (by simp [h1])

@[simp] theorem setDir_canonical (s : State) (l : Nat) (e : DirEntry) :
    (setDir s l e).canonical = s.canonical := by simp [setDir]

@[simp] theorem homeGrant_canonical (s : State) (hh : HomeTxn) :
    (homeGrant s hh).canonical = s.canonical := by simp [homeGrant]

@[simp] theorem homeStep_canonical (s : State) (i : Nat) :
    (homeStep s i).canonical = s.canonical := by
  unfold homeStep
  split
  · rfl
  · extract_lets +onlyGivenNames put
    have hput : ∀ t h, (put t h).canonical = t.canonical := by simp [put]
    clear_value put
    split
    · rfl
    · split
      · extract_lets +onlyGivenNames _
        split
        rename_i s1 ws e
        have h1 : s1.canonical = s.canonical := by
          refine canonical_of_fst e ((foldl_fst_canonical _ (fun a c => ?_) _ _))
          split
          · next e => exact openTxn_canonical e
          · rfl
        simp [hput, h1]
      · (repeat' split) <;> simp [hput]

@[simp] theorem homePump_canonical (s : State) : (homePump s).canonical = s.canonical := by
  unfold homePump
  extract_lets +onlyGivenNames f1
  have h1 : ∀ t, (f1 t).canonical = t.canonical := by
    intro t
    unfold f1
    refine foldl_canonical _ (fun t x2 => ?_) _ _
    simp
  clear_value f1
  simp [h1]

@[simp] theorem homeEnded_canonical (s : State) (rank tid : Nat) (data : List Byte)
    (hs : s.canonical = true) :
    (homeEnded s rank tid data).canonical = true := by
  unfold homeEnded
  split <;> simp [hs]

@[simp] theorem askLine_canonical (s : State) (n : LineNeed) :
    (askLine s n).canonical = s.canonical := by
  unfold askLine
  split
  · simp
  · split
    · rfl
    · split
      · rfl
      · rename_i s1 e2
        have h1 : s1.canonical = s.canonical := makeLineRoom_canonical e2
        split
        · rename_i s3 e4
          have h3 : s3.canonical = s.canonical := (openTxn_canonical e4).trans h1
          simp [h3]
        · rfl

@[simp] theorem askLines_canonical (s : State) (ls : List LineNeed) :
    (askLines s ls).canonical = s.canonical := by simp [askLines]

/-! ## `Machine/Mesh` -/

@[simp] theorem meshCarry_canonical (s : State) (c : MeshClass) (a b : MeshStop) (p : ExPkt) :
    (meshCarry s c a b p).canonical = s.canonical := by simp [meshCarry]

@[simp] theorem meshAsk_canonical (s : State) (t a : Nat) :
    (meshAsk s t a).canonical = s.canonical := by simp [meshAsk]

@[simp] theorem meshAnswer_canonical (s : State) (t a : Nat) :
    (meshAnswer s t a).canonical = s.canonical := by simp [meshAnswer]

/-! ## `Machine/Tiles` -/

@[simp] theorem tileFault_canonical (s : State) (t : Nat) (i : Item) (cause addr : Nat)
    (hs : s.canonical = true) :
    (tileFault s t i cause addr).canonical = true := by simp [hs, tileFault]

@[simp] theorem skipFault_canonical (s : State) (t : Nat) (i : Item) (cause neuron row : Nat)
    (hs : s.canonical = true) :
    (skipFault s t i cause neuron row).canonical = true := by simp [hs, skipFault]

@[simp] theorem waitForPages_canonical (s : State) (ctx st : Nat) (pages : List Nat) :
    (waitForPages s ctx st pages).canonical = s.canonical := by simp [waitForPages]

/-! ## `Machine/Routing` -/

@[simp] theorem meetBad_canonical (s : State) (func p : Nat) :
    (meetBad s func p).canonical = s.canonical := by simp [meetBad]

@[simp] theorem areaStore_canonical (s : State) (x : LStep) (off : Nat) (bs : List Byte)
    (hs : s.canonical = true) :
    (areaStore s x off bs).canonical = true := by
  unfold areaStore
  extract_lets +onlyGivenNames _ _
  simp [hs]

@[simp] theorem writeParked_canonical (s : State) (x : LStep) (hs : s.canonical = true) :
    (writeParked s x).canonical = true := by simp [hs, writeParked]

@[simp] theorem writeBuilt_canonical (s : State) (x : LStep) (hs : s.canonical = true) :
    (writeBuilt s x).canonical = true := by simp [hs, writeBuilt]

/-! ## `Machine/Runner` -/

@[simp] theorem sendRank_canonical (s : State) (func slice gid rank : Nat) (owner : Owner)
    (p : ExPkt) :
    (sendRank s func slice gid rank owner p).canonical = s.canonical := by simp [sendRank]

@[simp] theorem sendStep_canonical (s : State) (x : LStep) (slice rank : Nat) (owner : Owner)
    (p : ExPkt) :
    (sendStep s x slice rank owner p).canonical = s.canonical := by simp [sendStep]

@[simp] theorem runErr_canonical (s : State) (f : FieldRef) (gid rank hash : Nat) :
    (runErr s f gid rank hash).canonical = s.canonical := by simp [runErr]

@[simp] theorem rteErrAt_canonical (s : State) (f : FieldRef) (engines : List Nat) (x : LStep)
    (page : Nat) :
    (rteErrAt s f engines x page).canonical = s.canonical := by simp [rteErrAt]

@[simp] theorem rteErr_canonical (s : State) (f : FieldRef) (x : LStep) (page : Nat) :
    (rteErr s f x page).canonical = s.canonical := by simp [rteErr]

@[simp] theorem failStep_canonical (s : State) (seq : Nat) (r : Result) (hs : s.canonical = true) :
    (failStep s seq r).canonical = true := by
  unfold failStep
  split <;> simp [hs]

@[simp] theorem endMismatch_canonical (s : State) (seq : Nat) (x : LStep)
    (offender offHash detector detHash : Nat) (hs : s.canonical = true) :
    (endMismatch s seq x offender offHash detector detHash).canonical = true := by
  simp [hs, endMismatch]

@[simp] theorem sendAbort_canonical (s : State) (x : LStep) (offender offHash detHash : Nat)
    (data : List Byte) :
    (sendAbort s x offender offHash detHash data).canonical = s.canonical := by simp [sendAbort]

@[simp] theorem detectMismatch_canonical (s : State) (seq : Nat) (x : LStep) (offender : Nat)
    (hash : Option Nat) (hs : s.canonical = true) :
    (detectMismatch s seq x offender hash).canonical = true := by simp [hs, detectMismatch]

@[simp] theorem abortUncorrectable_canonical (s : State) (seq : Nat) (x : LStep) (page : Nat)
    (hs : s.canonical = true) :
    (abortUncorrectable s seq x page).canonical = true := by simp [hs, abortUncorrectable]

@[simp] theorem logUncorr_canonical (s : State) (x : LStep) (engines : List Nat) (page : Nat) :
    (logUncorr s x engines page).canonical = s.canonical := by simp [logUncorr]

@[simp] theorem abortRouting_canonical (s : State) (seq : Nat) (x : LStep) (page : Nat)
    (hs : s.canonical = true) :
    (abortRouting s seq x page).canonical = true := by simp [hs, abortRouting]

@[simp] theorem endAborted_canonical (s : State) (seq : Nat) (x : LStep) (k : KeptAbort)
    (hs : s.canonical = true) :
    (endAborted s seq x k).canonical = true := by simp [hs, endAborted]

@[simp] theorem issueStep_canonical (s : State) (seq : Nat) (x : LStep) :
    (issueStep s seq x).canonical = s.canonical := by simp [issueStep]

@[simp] theorem wantStaged_canonical (s : State) (x : LStep) (tile : Nat) :
    (wantStaged s x tile).canonical = s.canonical := by simp [wantStaged]

theorem queueItem_canonical {s : State} {t : Nat} {i : Item} {u : State}
    (h : queueItem s t i = some u) :
    u.canonical = s.canonical := by
  refine canonical_of_some h ?_
  unfold queueItem
  simp

@[simp] theorem handOne_canonical (s : State) (seq : Nat) (o : OwnedExp) :
    (handOne s seq o).canonical = s.canonical := by
  unfold handOne
  split
  · rfl
  · extract_lets +onlyGivenNames _ _
    split
    · rfl
    · split
      · simp
      · split
        · rfl
        · extract_lets +onlyGivenNames _
          split
          · rfl
          · rename_i s1 e2
            have h1 : s1.canonical = s.canonical := queueItem_canonical e2
            simp [h1]

@[simp] theorem handPart_canonical (s : State) (seq : Nat) (w : Nat × Item) :
    (handPart s seq w).canonical = s.canonical := by
  unfold handPart
  split
  · rfl
  · extract_lets +onlyGivenNames _ _
    split
    · extract_lets +onlyGivenNames s1
      have h1 : s1.canonical = s.canonical := by
        unfold s1
        split <;> simp
      clear_value s1
      simp [h1]
    · split
      · rfl
      · rename_i s2 e3
        have h2 : s2.canonical = s.canonical := queueItem_canonical e3
        simp [h2]

@[simp] theorem handReady_canonical (s : State) :
    (handReady s).canonical = s.canonical := by simp [handReady]

@[simp] theorem chainWrite_canonical (s : State) (key : Nat) (bufs : List Nat) (off : Nat)
    (bs : List Byte) (hs : s.canonical = true) :
    (chainWrite s key bufs off bs).canonical = true := by
  unfold chainWrite
  split
  · exact hs
  · exact memCanonical_dram hs (List.foldlRecOn (motive := fun m : Mem => m.wf = true) _ _
      (dram_wf hs) fun m hm b _ => writeByte_wf _ _ hm)

@[simp] theorem writeToken_canonical (s : State) (seq : Nat) (x : LStep) (t : Nat) :
    (writeToken s seq x t).canonical = s.canonical := by
  unfold writeToken
  split
  simp

@[simp] theorem combineToken_canonical (s : State) (seq t : Nat) (hs : s.canonical = true) :
    (combineToken s seq t).canonical = true := by
  unfold combineToken
  (repeat' split) <;> simp [hs]

@[simp] theorem maybeCommit_canonical (s : State) (seq : Nat) (hs : s.canonical = true) :
    (maybeCommit s seq).canonical = true := by
  unfold maybeCommit
  split <;> simp [hs]

@[simp] theorem noteArrival_canonical (s : State) (seq : Nat) (ret : Bool) (key row : List Byte) :
    (noteArrival s seq ret key row).canonical = s.canonical := by
  unfold noteArrival
  split
  simp

@[simp] theorem dropStale_canonical (s : State) (slice : Nat) :
    (dropStale s slice).canonical = s.canonical := by simp [dropStale]

@[simp] theorem lateReturn_canonical (s : State) (p : ExPkt) (slice : Nat) :
    (lateReturn s p slice).canonical = s.canonical := by
  unfold lateReturn
  split <;> simp

@[simp] theorem takeReturn_canonical (s : State) (p : ExPkt) (at_ : Nat) (hs : s.canonical = true) :
    (takeReturn s p at_).canonical = true := by
  unfold takeReturn
  split
  · simp [hs]
  · extract_lets +onlyGivenNames _ s1
    have h1 : s1.canonical = true := by simp [hs, s1]
    clear_value s1
    split
    · simp [h1]
    · extract_lets +onlyGivenNames _
      split
      · exact h1
      · split
        · simp [h1]
        · split
          · simp [h1]
          · split
            · simp [h1]
            · extract_lets +onlyGivenNames _ _ s2 s3
              have h2 : s2.canonical = true := by simp [s2, h1]
              have h3 : s3.canonical = true := by
                unfold s3
                split <;> simp [h2]
              clear_value s2 s3
              simp [h3]

@[simp] theorem sendReturn_canonical (s : State) (seq : Nat) (x : LStep) (slice : Nat) (r : SlotRec)
    (o : OwnedExp) (slot frag : Nat) (bs : List Byte) (hs : s.canonical = true) :
    (sendReturn s seq x slice r o slot frag bs).canonical = true := by
  unfold sendReturn
  extract_lets +onlyGivenNames _ _ s1
  have h1 : s1.canonical = true := by
    unfold s1
    split <;> simp [hs]
  clear_value s1
  simp [h1]

@[simp] theorem returnRow_canonical (s : State) (seq : Nat) (o : OwnedExp) (slot : Nat)
    (r : SlotRec) (hs : s.canonical = true) :
    (returnRow s seq o slot r).canonical = true := by
  unfold returnRow
  split <;> simp +contextual [hs]

@[simp] theorem modOwned_canonical (s : State) (seq e : Nat) (f : OwnedExp → OwnedExp) :
    (modOwned s seq e f).canonical = s.canonical := by simp [modOwned]

@[simp] theorem writeReturn_canonical (s : State) (seq e slot off : Nat) (bs : List Byte)
    (hs : s.canonical = true) :
    (writeReturn s seq e slot off bs).canonical = true := by
  unfold writeReturn
  (repeat' split) <;> simp [hs]

@[simp] theorem returnLost_canonical (s : State) (seq : Nat) (o : OwnedExp) (slot : Nat)
    (r : SlotRec) (hs : s.canonical = true) :
    (returnLost s seq o slot r).canonical = true := by
  unfold returnLost
  split <;> simp [hs]

@[simp] theorem loseExpert_canonical (s : State) (seq e : Nat) (hs : s.canonical = true) :
    (loseExpert s seq e).canonical = true := by
  unfold loseExpert
  split
  · exact hs
  · split
    · exact hs
    · split
      · exact hs
      · refine maybeCommit_canonical _ _ (foldl_canonical_of (fun t x ht => ?_) _ ?_)
        · simp [ht]
        · simp [hs]

@[simp] theorem spadStore_canonical (s : State) (seq tile a : Nat) (bs : List Byte)
    (hs : s.canonical = true) : (spadStore s seq tile a bs).canonical = true := by
  unfold spadStore
  split
  · exact modTile_canonical_of (by simp [hs]) _ fun x hx => Tile.stepWrite_canonical hx ..
  · exact hs

@[simp] theorem takeDispatch_canonical (s : State) (p : ExPkt) (hs : s.canonical = true) :
    (takeDispatch s p).canonical = true := by
  unfold takeDispatch
  split
  · exact hs
  · extract_lets +onlyGivenNames s1
    have h1 : s1.canonical = true := by simp [hs, s1]
    clear_value s1
    split
    · simp [h1]
    · split
      · simp [h1]
      · split
        · simp [h1]
        · extract_lets +onlyGivenNames _
          split
          · simp [h1]
          · extract_lets +onlyGivenNames _ _ _ s2 _ _ _ s3
            have h3 : s3.canonical = true := by simp [s3, s2, h1]
            clear_value s2 s3
            split
            · exact h3
            · extract_lets +onlyGivenNames _ _ s4
              have h4 : s4.canonical = true := by simp [s4, h3]
              clear_value s4
              split
              · simp [h4]
              · split <;> simp [h4]

@[simp] theorem bringDispatch_canonical (s : State) (slice : Nat) (p : ExPkt)
    (hs : s.canonical = true) :
    (bringDispatch s slice p).canonical = true := by
  refine takeDispatch_canonical _ _ ?_
  split <;> simp [hs]

@[simp] theorem dispatchOne_canonical (s : State) (seq : Nat) (c : ChoiceRec)
    (hs : s.canonical = true) :
    (dispatchOne s seq c).canonical = true := by
  unfold dispatchOne
  split
  · exact hs
  · extract_lets +onlyGivenNames _ _ _
    split
    extract_lets +onlyGivenNames s1 _ s2 _ s3 s4
    have h4 : s4.canonical = true := by simp [hs, s4, s3, s2, s1]
    clear_value s1 s2 s3 s4
    split
    · simp +contextual [h4]
    · split <;> simp [h4]

@[simp] theorem sendRows_canonical (s : State) (seq rank : Nat) (hs : s.canonical = true) :
    (sendRows s seq rank).canonical = true := by
  unfold sendRows
  split
  · exact hs
  · extract_lets +onlyGivenNames _ f1
    have h1 : ∀ t, (f1 t).canonical = t.canonical := fun t => by simp [f1]
    clear_value f1
    split
    · simp [hs]
    · exact maybeCommit_canonical _ _ (foldl_canonical_of (fun t x ht => by simp [ht]) _ hs)
    · simp [hs, h1]
    · simp [hs, h1]

@[simp] theorem resendRows_canonical (s : State) (seq rank tile : Nat) (hs : s.canonical = true) :
    (resendRows s seq rank tile).canonical = true := by
  unfold resendRows
  split <;> simp +contextual [hs]

@[simp] theorem takeArm_canonical (s : State) (seq rank : Nat) (hs : s.canonical = true) :
    (takeArm s seq rank).canonical = true := by
  unfold takeArm
  split <;> simp [hs]

@[simp] theorem resumeRunner_canonical (s : State) (seq : Nat) (hs : s.canonical = true) :
    (resumeRunner s seq).canonical = true := by
  unfold resumeRunner
  split
  · exact hs
  · refine foldl_canonical_of (fun t x ht => by simp [ht]) _ ?_
    exact foldl_canonical_of (fun t x ht => by simp [ht]) _ (by simp [hs])

@[simp] theorem sweepLost_canonical (s : State) (hs : s.canonical = true) :
    (sweepLost s).canonical = true := by
  refine foldl_canonical_of (fun t e ht => ?_) _ hs
  exact foldl_canonical_of (fun t o ht => by simp [ht]) _ ht

@[simp] theorem reportRows_canonical (s : State) :
    (reportRows s).canonical = s.canonical := by simp [reportRows]

@[simp] theorem settleWork_canonical (s : State) (hs : s.canonical = true) :
    (settleWork s).canonical = true := by simp [hs, settleWork]

@[simp] theorem settledOut_canonical {o : Out} (ho : canonicalAfter o = some true) :
    canonicalAfter (settledOut o) = some true := by
  cases o with
  | next t => exact congrArg some (settleWork_canonical t (Option.some.inj ho))
  | fault r => exact ho
  | refused r => exact ho

/-! ## `Machine/StepCommands` -/

@[simp] theorem adoptList_canonical (s : State) (ctx model msc : Nat) :
    (adoptList s ctx model msc).canonical = s.canonical := by
  unfold adoptList
  split <;> simp

@[simp] theorem prefetchEntry_canonical (model : Nat) (s : State) (e : PourEntry) :
    (prefetchEntry model s e).canonical = s.canonical := by
  unfold prefetchEntry
  split
  · simp
  · split
    · rfl
    · refine foldl_canonical _ (fun t x1 => ?_) _ _
      split <;> simp

@[simp] theorem enterWindow_canonical (s : State) (ctx st model layer : Nat) :
    (enterWindow s ctx st model layer).canonical = s.canonical := by
  unfold enterWindow
  extract_lets +onlyGivenNames _
  split <;> simp

@[simp] theorem placeKernel_canonical (s : State) (seq : Nat) (x : LStep) (p : Program) (k : Nat) :
    (placeKernel s seq x p k).canonical = s.canonical := by
  unfold placeKernel
  split
  · rfl
  · extract_lets +onlyGivenNames _ go
    refine foldl_fst_canonical go (fun a i => ?_) _ _
    unfold go
    extract_lets +onlyGivenNames _
    split <;> simp

@[simp] theorem keepParts_canonical (s : State) (seq : Nat) :
    (keepParts s seq).canonical = s.canonical := by
  unfold keepParts
  split <;> simp

@[simp] theorem startStep_canonical (s : State) (seq ctx st : Nat) (hs : s.canonical = true) :
    (startStep s seq ctx st).canonical = true := by
  unfold startStep
  split
  · exact hs
  · extract_lets +onlyGivenNames _
    split <;> simp [hs]

@[simp] theorem beginStep_canonical (s : State) (seq : Nat) (c : OpenCmd)
    (hs : s.canonical = true) :
    (beginStep s seq c).canonical = true := by
  unfold beginStep
  extract_lets +onlyGivenNames _
  split
  · simp [hs]
  · extract_lets +onlyGivenNames _ _ _ _ _
    split
    simp [hs]

@[simp] theorem runStep_canonical (s : State) (seq op : Nat) (hs : s.canonical = true) :
    canonicalAfter (runStep s seq op) = some true := by
  unfold runStep
  (repeat' split) <;> simp [hs]

@[simp] theorem execStep_canonical (seq : Nat) (s : State) (hs : s.canonical = true) :
    canonicalAfter (execStep seq s) = some true := by simp [hs, execStep]

@[simp] theorem execStepEmpty_canonical (seq : Nat) (s : State) (hs : s.canonical = true) :
    canonicalAfter (execStepEmpty seq s) = some true := by simp [hs, execStepEmpty]

@[simp] theorem execSchedule_canonical (s : State) (hs : s.canonical = true) :
    canonicalAfter (execSchedule s) = some true := by
  unfold execSchedule
  split
  · simp [hs]
  · rename_i s1 e2
    have h1 : s1.canonical = true := scheduleFirst_canonical e2 hs
    extract_lets +onlyGivenNames _
    split <;> simp [h1]

/-! ## `Machine/RoutingRows` -/

@[simp] theorem consumeEx_canonical (s : State) (p : ExPkt) :
    (consumeEx s p).canonical = s.canonical := by simp [consumeEx]

/-- What is done with the received record is the caller's; its frame fact is the hypothesis. -/
@[simp] theorem recvEx_canonical (s : State) (p : ExPkt) (kind : Nat) (f : State → Group → State)
    (hf : ∀ t b, t.canonical = true → (f t b).canonical = true) (hs : s.canonical = true) :
    canonicalAfter (recvEx s p kind f) = some true := by
  unfold recvEx
  split
  · simp [hs]
  · extract_lets +onlyGivenNames _ s1
    have h1 : s1.canonical = true := by simp [s1, hs]
    clear_value s1
    split <;> simp [h1, hf]

@[simp] theorem noteReceipt_canonical (s : State) (p : ExPkt) :
    (noteReceipt s p).canonical = s.canonical := by
  unfold noteReceipt
  split <;> simp

@[simp] theorem applyAnnounced_canonical (s : State) (seq model : Nat) :
    (applyAnnounced s seq model).2.canonical = s.canonical := by
  unfold applyAnnounced
  split <;> simp

@[simp] theorem countToken_canonical (x : LStep) (hidden : Nat) (acc : State × Nat)
    (t : Nat × Nat × Nat) :
    (countToken x hidden acc t).1.canonical = acc.1.canonical := by simp [countToken]

@[simp] theorem routeTokens_canonical (s : State) (seq : Nat) (x : LStep) :
    (routeTokens s seq x).canonical = s.canonical := by
  unfold routeTokens
  extract_lets +onlyGivenNames s1 _ _ _
  have h1 : s1.canonical = s.canonical := by simp [s1]
  clear_value s1
  split
  rename_i s2 _ e3
  have h2 : s2.canonical = s.canonical := canonical_of_fst e3 (by simp [h1])
  simp [h2]

@[simp] theorem execRouteStart_canonical (s : State) (hs : s.canonical = true) :
    canonicalAfter (execRouteStart s) = some true := by
  unfold execRouteStart
  split
  · simp [hs]
  · split
    · simp [hs]
    · extract_lets +onlyGivenNames _
      split
      · simp [hs]
      · split
        · split
          rename_i s1 e2
          have h1 : s1.canonical = true := canonical_of_snd e2 (by simp [hs])
          simp [h1]
        · split
          · simp [hs]
          · split
            · simp [hs]
            · split
              rename_i s3 e4
              have h3 : s3.canonical = true := canonical_of_snd e4 (by simp [hs])
              simp [h3]

@[simp] theorem sendPart_canonical (s : State) (x : LStep) (rank : Nat) (bs : List Byte) :
    (sendPart s x rank bs).canonical = s.canonical := by simp [sendPart]

@[simp] theorem ecChosen_canonical (s : State) (seq : Nat) :
    (ecChosen s seq).canonical = s.canonical := by
  unfold ecChosen
  split <;> simp

theorem placementWait_canonical {s : State} {seq : Nat} {x : LStep} {e : Nat × Nat × List Byte}
    {u : State} (h : placementWait s seq x e = some u) (hs : s.canonical = true) :
    u.canonical = true := by
  refine canonical_of_some h ?_
  unfold placementWait
  extract_lets +onlyGivenNames _ f1
  have h1 : ∀ t, t.canonical = true → (f1 t).canonical = true := by
    intro t
    unfold f1
    simp
  clear_value f1
  split <;> simp [hs, h1]

@[simp] theorem takeAssign_canonical (s : State) (seq rank : Nat) (bs : List Byte)
    (hs : s.canonical = true) :
    (takeAssign s seq rank bs).canonical = true := by
  unfold takeAssign
  split
  · exact hs
  · split
    · exact hs
    · split
      · rename_i s1 e2
        have h1 : s1.canonical = true := placementWait_canonical e2 hs
        exact h1
      · extract_lets +onlyGivenNames _ _ _ s3
        have h3 : s3.canonical = true := by simp [hs, s3]
        clear_value s3
        simp [h3]

@[simp] theorem ecAssign_canonical (s : State) (seq : Nat) (hs : s.canonical = true) :
    (ecAssign s seq).canonical = true := by
  unfold ecAssign
  split
  · exact hs
  · split
    · rename_i s1 e2
      have h1 : s1.canonical = true := placementWait_canonical e2 hs
      exact h1
    · extract_lets +onlyGivenNames _ _ _ _ s3 _ s4
      have h3 : s3.canonical = true := by simp [s3, hs]
      have h4 : s4.canonical = true := by simp [s4, h3]
      clear_value s3 s4
      simp [h4]

@[simp] theorem takeCands_canonical (s : State) (seq rank : Nat) (bs : List Byte)
    (hs : s.canonical = true) :
    (takeCands s seq rank bs).canonical = true := by
  unfold takeCands
  split
  · exact hs
  · split
    · exact hs
    · split
      · rename_i s1 e2
        have h1 : s1.canonical = true := placementWait_canonical e2 hs
        exact h1
      · simp [hs]

@[simp] theorem sendCands_canonical (s : State) (seq : Nat) (hs : s.canonical = true) :
    (sendCands s seq).canonical = true := by
  unfold sendCands
  split
  · exact hs
  · split
    · rename_i s1 e2
      exact placementWait_canonical e2 hs
    · refine foldl_canonical_of (fun t x ht => ?_) _ (by simp [hs])
      split <;> simp [ht]

@[simp] theorem countRecord_canonical (s : State) (seq : Nat) (x : LStep) (size : Nat) :
    (countRecord s seq x size).canonical = s.canonical := by
  unfold countRecord
  split <;> simp

@[simp] theorem fixOffsets_canonical (s : State) (seq : Nat) (hs : s.canonical = true) :
    (fixOffsets s seq).canonical = true := by
  unfold fixOffsets
  split
  · exact hs
  · extract_lets +onlyGivenNames _
    split
    · simp [hs]
    · split
      · rename_i s1 e2
        have h1 : s1.canonical = true := placementWait_canonical e2 hs
        exact h1
      · extract_lets +onlyGivenNames _ _
        split
        · simp [hs]
        · split
          · simp [hs]
          · extract_lets +onlyGivenNames _
            split
            · simp [hs]
            · extract_lets +onlyGivenNames _ _
              split
              simp [hs]

@[simp] theorem takeRecord_canonical (s : State) (seq rank hash : Nat) (r : CountRec)
    (hs : s.canonical = true) :
    (takeRecord s seq rank hash r).canonical = true := by
  unfold takeRecord
  split <;> simp [hs]

@[simp] theorem takeCount_canonical (s : State) (seq : Nat) (p : ExPkt) (hs : s.canonical = true) :
    (takeCount s seq p).canonical = true := by
  unfold takeCount
  split <;> simp [hs]

@[simp] theorem earlyFor_canonical (s : State) (test : ExPkt → Bool) :
    (earlyFor s test).2.canonical = s.canonical := by simp [earlyFor]

@[simp] theorem latchClasses_canonical (s : State) :
    (latchClasses s).canonical = s.canonical := by simp [latchClasses]

@[simp] theorem execSelectionDone_canonical (s : State) (hs : s.canonical = true) :
    canonicalAfter (execSelectionDone s) = some true := by
  unfold execSelectionDone
  split
  · simp [hs]
  · split
    · simp [hs]
    · split
      · simp [hs]
      · extract_lets +onlyGivenNames _ s1 _
        have h1 : s1.canonical = true := by simp [hs, s1]
        clear_value s1
        split
        · simp [h1]
        · split
          · simp [h1]
          · extract_lets +onlyGivenNames _ _ _ s2 _ s3 s4 s5 s6 _ s7 _ s8 s9
            have h2 : s2.canonical = true := by simp [s2, h1]
            have h3 : s3.canonical = true := by simp [s3, h2]
            have h4 : s4.canonical = true := by simp [s4, h3]
            have h5 : s5.canonical = true := by simp [s5, h4]
            have h6 : s6.canonical = true := by simp [s6, h5]
            have h7 : s7.canonical = true := by simp [s7, h6]
            have h8 : s8.canonical = true := by simp +contextual [s8, h7]
            have h9 : s9.canonical = true := by simp +contextual [s9, h8]
            clear_value s2 s3 s4 s5 s6 s7 s8 s9
            split
            rename_i s10 e11
            have h10 : s10.canonical = true := canonical_of_snd e11 (by simp +contextual [h9])
            simp +contextual [h10]

theorem takeLate_canonical {s : State} {g : Group} {p : ExPkt} {u : State}
    (h : takeLate s g p = some u) :
    u.canonical = s.canonical := by
  refine canonical_of_some h ?_
  unfold takeLate
  split <;> simp

@[simp] theorem execCount_canonical (p : ExPkt) (s : State) (hs : s.canonical = true) :
    canonicalAfter (execCount p s) = some true := by
  unfold execCount
  refine recvEx_canonical _ _ _ _ (fun t x1 ht => ?_) hs
  extract_lets +onlyGivenNames s2
  have h2 : s2.canonical = true := by simp [ht, s2]
  clear_value s2
  split
  · simp [h2]
  · split
    · rename_i s3 e4
      have h3 : s3.canonical = true := (takeLate_canonical e4).trans h2
      exact h3
    · simp [h2]

@[simp] theorem execEcCandidates_canonical (p : ExPkt) (s : State) (hs : s.canonical = true) :
    canonicalAfter (execEcCandidates p s) = some true := by
  unfold execEcCandidates
  refine recvEx_canonical _ _ _ _ (fun t x1 ht => ?_) hs
  extract_lets +onlyGivenNames s2
  have h2 : s2.canonical = true := by simp [ht, s2]
  clear_value s2
  split
  · exact h2
  · extract_lets +onlyGivenNames _ s3
    have h3 : s3.canonical = true := by simp [s3, h2]
    clear_value s3
    split <;> simp [h3]

@[simp] theorem execEcAssignment_canonical (p : ExPkt) (s : State) (hs : s.canonical = true) :
    canonicalAfter (execEcAssignment p s) = some true := by
  unfold execEcAssignment
  refine recvEx_canonical _ _ _ _ (fun t x1 ht => ?_) hs
  extract_lets +onlyGivenNames s2
  have h2 : s2.canonical = true := by simp [ht, s2]
  clear_value s2
  split
  · exact h2
  · extract_lets +onlyGivenNames _ s3
    have h3 : s3.canonical = true := by simp [s3, h2]
    clear_value s3
    split <;> simp [h3]

@[simp] theorem writePadding_canonical (seq : Nat) (x : LStep) (s : State) (o : OwnedExp)
    (hs : s.canonical = true) :
    (writePadding seq x s o).canonical = true := by
  unfold writePadding
  extract_lets +onlyGivenNames _ _ _
  simp [hs]

@[simp] theorem fetchTagged_canonical (x : LStep) (s : State) (o : OwnedExp) :
    (fetchTagged x s o).canonical = s.canonical := by
  unfold fetchTagged
  split
  · rfl
  · refine foldl_canonical _ (fun t x1 => ?_) _ _
    split <;> simp

@[simp] theorem sendArms_canonical (s : State) (x : LStep) :
    (sendArms s x).canonical = s.canonical := by simp [sendArms]

@[simp] theorem execListBuildDone_canonical (s : State) (hs : s.canonical = true) :
    canonicalAfter (execListBuildDone s) = some true := by
  unfold execListBuildDone
  split
  · simp [hs]
  · split
    · simp [hs]
    · split
      · simp [hs]
      · extract_lets +onlyGivenNames _
        split
        · simp [hs]
        · split
          · simp [hs]
          · split
            · simp [hs]
            · split
              rename_i s1 e2
              have h1 : s1.canonical = true := canonical_of_snd e2 (by simp [hs])
              extract_lets +onlyGivenNames _ _
              split
              · simp [h1]
              · extract_lets +onlyGivenNames _ _ _ _ _ s2 s3 s4 s5 s6 s7 s8 s9 s10
                have h2 : s2.canonical = true := by simp [s2, h1]
                have h3 : s3.canonical = true := by simp [s3, h2]
                have h4 : s4.canonical = true := by simp [s4, h3]
                have h5 : s5.canonical = true := by simp +contextual [s5, h4]
                have h6 : s6.canonical = true := by simp +contextual [s6, h5]
                have h7 : s7.canonical = true := by simp +contextual [s7, h6]
                have h8 : s8.canonical = true := by simp +contextual [s8, h7]
                have h9 : s9.canonical = true := by simp +contextual [s9, h8]
                have h10 : s10.canonical = true := by
                  simp +contextual [s10, h9, -List.foldl_reverse]
                clear_value s2 s3 s4 s5 s6 s7 s8 s9 s10
                simp +contextual [h10]

@[simp] theorem resumePlacement_canonical (s : State) (seq : Nat) (hs : s.canonical = true) :
    (resumePlacement s seq).canonical = true := by
  unfold resumePlacement
  split <;> simp +contextual [hs]

@[simp] theorem resumeReads_canonical (s : State) (hs : s.canonical = true) :
    (resumeReads s).canonical = true :=
  foldl_canonical_of (fun t e ht => by simp [ht]) _ hs

/-! ## `Machine/Collectives` -/

@[simp] theorem State.setColl_canonical (s : State) (seq : Nat) (x : Coll) :
    (s.setColl seq x).canonical = s.canonical := by simp [State.setColl]

@[simp] theorem endColl_canonical (s : State) (seq : Nat) (x : Coll) (r : Result) (digest : Nat) :
    (endColl s seq x r digest).canonical = s.canonical := by
  unfold endColl
  extract_lets +onlyGivenNames _ s1 s2 _ s3
  have h1 : s1.canonical = s.canonical := by
    unfold s1
    split <;> simp
  have h3 : s3.canonical = s.canonical := by simp [s3, s2, h1]
  clear_value s1 s2 s3
  simp [h3]

@[simp] theorem endCollMismatch_canonical (s : State) (seq : Nat) (x : Coll)
    (offender offHash detector detHash : Nat) :
    (endCollMismatch s seq x offender offHash detector detHash).canonical = s.canonical := by
  simp [endCollMismatch]

@[simp] theorem sendColl_canonical (s : State) (x : Coll) (rank : Nat) (p : ExPkt) (slice : Nat) :
    (sendColl s x rank p slice).canonical = s.canonical := by simp [sendColl]

@[simp] theorem detectColl_canonical (s : State) (seq : Nat) (x : Coll) (offender offHash : Nat) :
    (detectColl s seq x offender offHash).canonical = s.canonical := by simp [detectColl]

@[simp] theorem memberCqes_canonical (s : State) (seq : Nat) (x : Coll) (g : Group)
    (ranks : List Nat) :
    (memberCqes s seq x g ranks).canonical = s.canonical := by
  unfold memberCqes
  split
  · rfl
  · refine foldl_canonical _ (fun t x1 => ?_) _ _
    split
    · rfl
    · split
      · rfl
      · split
        · rfl
        · split
          rename_i s2 e3
          have h2 : s2.canonical = t.canonical := canonical_of_snd e3 (by simp)
          simp [h2]

@[simp] theorem trimBufs_canonical (s : State) (seq : Nat) (x : Coll) (n : Nat) :
    (trimBufs s seq x n).2.canonical = s.canonical := by
  unfold trimBufs
  split
  · simp
  · extract_lets +onlyGivenNames _ _
    split
    · simp
    · extract_lets +onlyGivenNames s1
      have h1 : s1.canonical = s.canonical := by simp [s1]
      clear_value s1
      split <;> simp [h1]

@[simp] theorem finishColl_canonical (s : State) (seq : Nat) (x : Coll) (hs : s.canonical = true) :
    (finishColl s seq x).canonical = true := by
  unfold finishColl
  extract_lets +onlyGivenNames _ s1
  have h1 : s1.canonical = true := by simp [hs, s1]
  clear_value s1
  split
  · simp [h1]
  · split
    · simp [h1]
    · split
      extract_lets +onlyGivenNames s2
      have h2 : s2.canonical = true := by simp [s2, h1]
      clear_value s2
      split
      rename_i s3 e4
      have h3 : s3.canonical = true := canonical_of_snd e4 (by simp [h2])
      extract_lets +onlyGivenNames s5
      have h5 : s5.canonical = true := by simp [s5, h3]
      clear_value s5
      split
      rename_i s6 e7
      have h6 : s6.canonical = true := canonical_of_snd e7 (by simp [h5])
      simp [h6]

@[simp] theorem pumpColl_canonical (s : State) (seq n : Nat) :
    (pumpColl s seq n).canonical = s.canonical := by
  induction n generalizing s with
  | zero => rfl
  | succ n ih =>
    unfold pumpColl
    (repeat' split) <;> simp [ih]

@[simp] theorem advanceColl_canonical (s : State) (seq : Nat) (hs : s.canonical = true) :
    (advanceColl s seq).canonical = true := by
  unfold advanceColl
  split
  · exact hs
  · extract_lets +onlyGivenNames _ _ _ _ s1 s2
    have h2 : s2.canonical = true := by simp [hs, s2, s1]
    clear_value s1 s2
    split <;> simp [h2]

@[simp] theorem takeColl_canonical (s : State) (seq : Nat) (p : ExPkt) (hs : s.canonical = true) :
    (takeColl s seq p).canonical = true := by
  unfold takeColl
  split
  · exact hs
  · extract_lets +onlyGivenNames _
    split
    · simp [hs]
    · extract_lets +onlyGivenNames _
      split
      · simp [hs]
      · split
        · simp [hs]
        · split
          · simp [hs]
          · extract_lets +onlyGivenNames _ _ _ _ _ s1 s2 s3
            have h3 : s3.canonical = true := by simp [hs, s3, s2, s1]
            clear_value s1 s2 s3
            simp [h3]

@[simp] theorem routeColl_canonical (s : State) (g : Group) (p : ExPkt) (hs : s.canonical = true) :
    (routeColl s g p).canonical = true := by
  unfold routeColl
  split <;> simp [hs]

@[simp] theorem execCollData_canonical (p : ExPkt) (s : State) (hs : s.canonical = true) :
    canonicalAfter (execCollData p s) = some true := by simp +contextual [hs, execCollData]

@[simp] theorem execCredit_canonical (p : ExPkt) (s : State) (hs : s.canonical = true) :
    canonicalAfter (execCredit p s) = some true := by simp +contextual [hs, execCredit]

@[simp] theorem execDesc_canonical (p : ExPkt) (s : State) (hs : s.canonical = true) :
    canonicalAfter (execDesc p s) = some true := by simp +contextual [hs, execDesc]

@[simp] theorem execBarrier_canonical (p : ExPkt) (s : State) (hs : s.canonical = true) :
    canonicalAfter (execBarrier p s) = some true := by simp +contextual [hs, execBarrier]

@[simp] theorem openColl_canonical (s : State) (seq : Nat) (x : Coll) (g : Group)
    (hs : s.canonical = true) :
    (openColl s seq x g).canonical = true := by
  unfold openColl
  extract_lets +onlyGivenNames s1 s2 _ s3 _ s4 _ _ s5 s6 s7
  have h7 : s7.canonical = true := by simp [hs, s7, s6, s5, s4, s3, s2, s1]
  clear_value s1 s2 s3 s4 s5 s6 s7
  split
  rename_i s8 e9
  have h8 : s8.canonical = true := canonical_of_snd e9 (by simp [h7])
  simp +contextual [h8]

@[simp] theorem beginColl_canonical (s : State) (seq : Nat) (c : OpenCmd) (g : Machine.Group)
    (hs : s.canonical = true) :
    (beginColl s seq c g).canonical = true := by
  unfold beginColl
  extract_lets +onlyGivenNames _ _ _ _ _ _ x s1
  have h1 : s1.canonical = true := by simp [hs, s1]
  clear_value x s1
  split
  · simp [h1]
  · split
    · simp [h1]
    · split
      · simp [h1]
      · extract_lets +onlyGivenNames bb _
        clear_value bb
        split
        · simp [h1]
        · split
          · next e => simp [allocBufs_inl_canonical e, h1]
          · next e => simp [allocBufs_inr_canonical e, h1]

@[simp] theorem execCollective_canonical (seq : Nat) (s : State) (hs : s.canonical = true) :
    canonicalAfter (execCollective seq s) = some true := by
  unfold execCollective
  split
  · simp [hs]
  · (repeat' split) <;> simp [hs]

/-! ## `Machine/Groups` -/

@[simp] theorem execGroupCreate_canonical (seq : Nat) (s : State) :
    canonicalAfter (execGroupCreate seq s) = some s.canonical := by
  unfold execGroupCreate
  refine runCmd_canonical _ _ _ _ _ (fun x1 => ?_)
  extract_lets +onlyGivenNames _
  split
  extract_lets +onlyGivenNames _ _ s2 _ s3
  have h2 : s2.canonical = s.canonical := by
    unfold s2
    split <;> simp
  have h3 : s3.canonical = s.canonical := by simp [s3, h2]
  clear_value s2 s3
  simp [h3]

@[simp] theorem commitGroupCreate_canonical (s : State) (seq : Nat) :
    (commitGroupCreate s seq).canonical = s.canonical := by
  unfold commitGroupCreate
  split <;> simp

@[simp] theorem dropGroup_canonical (s : State) (key : Nat) :
    (dropGroup s key).canonical = s.canonical := by
  unfold dropGroup
  split
  · rfl
  · extract_lets +onlyGivenNames s1
    have h1 : s1.canonical = s.canonical := by
      unfold s1
      split <;> simp
    clear_value s1
    simp [h1]

@[simp] theorem execGroupDestroy_canonical (seq : Nat) (s : State) :
    canonicalAfter (execGroupDestroy seq s) = some s.canonical := by simp [execGroupDestroy]

@[simp] theorem commitGroupDestroy_canonical (s : State) (c : OpenCmd) :
    (commitGroupDestroy s c).canonical = s.canonical := by simp [commitGroupDestroy]

@[simp] theorem endOpen_canonical (event : Bool) (r : Result) (s : State) (e : Nat × OpenCmd)
    (hs : s.canonical = true) :
    (endOpen event r s e).canonical = true := by
  unfold endOpen
  extract_lets +onlyGivenNames _ f1
  have h1 : ∀ x2 x3 x4, (f1 x2 x3 x4).canonical = true := by
    intro x2 x3 x4
    unfold f1
    simp [hs]
  clear_value f1
  split
  · simp [h1]
  · extract_lets +onlyGivenNames s5
    have h5 : s5.canonical = true := by simp [s5, h1]
    clear_value s5
    split <;> simp [h5]

@[simp] theorem endGroupWork_canonical (s : State) (gid : Nat) (event : Bool) (r : Result)
    (hs : s.canonical = true) :
    (endGroupWork s gid event r).canonical = true := by simp +contextual [hs, endGroupWork]

@[simp] theorem fenceGroups_canonical (s : State) (hs : s.canonical = true) :
    (fenceGroups s).canonical = true := by simp +contextual [hs, fenceGroups]

@[simp] theorem takeAbort_canonical (s : State) (g : Group) (p : ExPkt) (hs : s.canonical = true) :
    (takeAbort s g p).canonical = true := by
  unfold takeAbort
  extract_lets +onlyGivenNames s1 _ _ s2
  have h1 : s1.canonical = true := by simp [hs, s1]
  have h2 : s2.canonical = true := by simp [s2, h1]
  clear_value s1 s2
  split
  · simp [h2, h1]
  · split <;> simp [h2, h1]

@[simp] theorem execAbort_canonical (p : ExPkt) (s : State) (hs : s.canonical = true) :
    canonicalAfter (execAbort p s) = some true := by simp +contextual [hs, execAbort]

@[simp] theorem execGroupTimeout_canonical (group : Nat) (s : State) :
    canonicalAfter (execGroupTimeout group s) = some s.canonical := by
  unfold execGroupTimeout
  split <;> simp

@[simp] theorem execSuspect_canonical (p : ExPkt) (s : State) (hs : s.canonical = true) :
    canonicalAfter (execSuspect p s) = some true :=
  recvEx_canonical _ _ _ _ (fun t x ht => by simp [ht]) hs

@[simp] theorem writeMembers_canonical (s : State) (g : Group) (ms : List Nat)
    (hs : s.canonical = true) :
    (writeMembers s g ms).2.canonical = true := by simp [hs, writeMembers]

@[simp] theorem adoptReform_canonical (s : State) (gid : Nat) (g : Group) (removed : List Nat)
    (hs : s.canonical = true) :
    (adoptReform s gid g removed).canonical = true := by
  unfold adoptReform
  extract_lets +onlyGivenNames _ _ _ _ _ _ _ _
  split
  rename_i s1 e2
  have h1 : s1.canonical = true := canonical_of_snd e2 (by simp [hs])
  simp [h1]

@[simp] theorem setBroken_canonical (s : State) (gid rank : Nat) :
    (setBroken s gid rank).canonical = s.canonical := by simp [setBroken]

@[simp] theorem execReform_canonical (p : ExPkt) (s : State) (hs : s.canonical = true) :
    canonicalAfter (execReform p s) = some true := by
  unfold execReform
  refine recvEx_canonical _ _ _ _ (fun t x1 ht => ?_) hs
  split
  · split <;> simp [ht]
  · simp [ht]

@[simp] theorem execSuspectTimerEnd_canonical (group : Nat) (s : State) (hs : s.canonical = true) :
    canonicalAfter (execSuspectTimerEnd group s) = some true := by
  unfold execSuspectTimerEnd
  split
  · simp [hs]
  · split <;> simp [hs]

@[simp] theorem execReformWaitTimeout_canonical (group : Nat) (s : State)
    (hs : s.canonical = true) :
    canonicalAfter (execReformWaitTimeout group s) = some true := by
  unfold execReformWaitTimeout
  split <;> simp [hs]

@[simp] theorem execRunClassMapWrite_canonical (value : Nat) (s : State) :
    canonicalAfter (execRunClassMapWrite value s) = some s.canonical := by
  unfold execRunClassMapWrite
  extract_lets +onlyGivenNames vs
  clear_value vs
  split <;> simp

@[simp] theorem execRunHalt_canonical (value : Bool) (s : State) :
    canonicalAfter (execRunHalt value s) = some s.canonical := by simp [execRunHalt]

@[simp] theorem keepStage4_canonical (s : State) :
    (keepStage4 s).canonical = s.canonical := by simp [keepStage4]

@[simp] theorem execRteHalt_canonical (engine : Nat) (value : Bool) (s : State) :
    canonicalAfter (execRteHalt engine value s) = some s.canonical := by simp [execRteHalt]

@[simp] theorem execArm_canonical (p : ExPkt) (s : State) (hs : s.canonical = true) :
    canonicalAfter (execArm p s) = some true := by
  unfold execArm
  refine recvEx_canonical _ _ _ _ (fun t x1 ht => ?_) hs
  extract_lets +onlyGivenNames s2
  have h2 : s2.canonical = true := by simp [ht, s2]
  clear_value s2
  split <;> simp [h2]

@[simp] theorem execDispatch_canonical (p : ExPkt) (s : State) (hs : s.canonical = true) :
    canonicalAfter (execDispatch p s) = some true := by
  unfold execDispatch
  refine recvEx_canonical _ _ _ _ (fun t x1 ht => ?_) hs
  extract_lets +onlyGivenNames s2
  have h2 : s2.canonical = true := by simp [ht, s2]
  clear_value s2
  split <;> simp [h2]

@[simp] theorem stageBuf_canonical (s : State) (die : Nat) :
    (stageBuf s die).2.canonical = s.canonical := by
  unfold stageBuf
  split <;> simp

@[simp] theorem execReturn_canonical (p : ExPkt) (s : State) (hs : s.canonical = true) :
    canonicalAfter (execReturn p s) = some true := by
  unfold execReturn
  extract_lets +onlyGivenNames _
  split
  · exact recvEx_canonical _ _ _ _ (fun t x ht => ht) hs
  · split
    · rename_i s1 e2
      have h1 : s1.canonical = true := canonical_of_snd e2 (by simp [hs])
      simp [h1]
    · rename_i s3 e4
      have h3 : s3.canonical = true := canonical_of_snd e4 (by simp [hs])
      exact recvEx_canonical _ _ _ _ (fun t x ht => settleWork_canonical _ (by simp [ht])) h3

@[simp] theorem execRedo_canonical (p : ExPkt) (s : State) (hs : s.canonical = true) :
    canonicalAfter (execRedo p s) = some true := by
  unfold execRedo
  refine recvEx_canonical _ _ _ _ (fun t x1 ht => ?_) hs
  extract_lets +onlyGivenNames s2
  have h2 : s2.canonical = true := by simp [ht, s2]
  clear_value s2
  split <;> simp [h2]

@[simp] theorem execExpertMask_canonical (seq : Nat) (s : State) :
    canonicalAfter (execExpertMask seq s) = some s.canonical := by
  unfold execExpertMask
  split
  · simp
  · extract_lets +onlyGivenNames _
    simp

@[simp] theorem commitExpertMask_canonical (s : State) (c : OpenCmd) :
    (commitExpertMask s c).canonical = s.canonical := by
  unfold commitExpertMask
  extract_lets +onlyGivenNames _
  split <;> simp

@[simp] theorem execBitmapRead_canonical (seq : Nat) (s : State) :
    canonicalAfter (execBitmapRead seq s) = some s.canonical := by
  unfold execBitmapRead
  split <;> simp

@[simp] theorem commitBitmapRead_canonical (s : State) (c : OpenCmd) :
    (commitBitmapRead s c).canonical = s.canonical := by simp [commitBitmapRead]

/-! ## `Machine/FabWire` -/

@[simp] theorem xrtErr_canonical (s : State) (f : FieldRef) (port endpoint epoch : Nat) :
    (xrtErr s f port endpoint epoch).canonical = s.canonical := by simp [xrtErr]

@[simp] theorem State.setPort_canonical (s : State) (p : Nat) (x : Port) :
    (s.setPort p x).canonical = s.canonical := by simp [State.setPort]

@[simp] theorem enqueue_canonical (s : State) (port fromPort fromSlice since : Nat) (p : XlPkt) :
    (enqueue s port fromPort fromSlice since p).canonical = s.canonical := by simp [enqueue]

@[simp] theorem sendControl_canonical (s : State) (src : Nat) (p : XlPkt) :
    (sendControl s src p).canonical = s.canonical := by simp [sendControl]

@[simp] theorem sendNotice_canonical (s : State) (p : XlPkt) (from_ reason : Nat) :
    (sendNotice s p from_ reason).canonical = s.canonical := by simp [sendNotice]

@[simp] theorem dropNoRoute_canonical (s : State) (port : Nat) (p : XlPkt) :
    (dropNoRoute s port p).canonical = s.canonical := by simp [dropNoRoute]

@[simp] theorem ejectHere_canonical (s : State) (port slice : Nat) (p : XlPkt) :
    (ejectHere s port slice p).canonical = s.canonical := by simp [ejectHere]

@[simp] theorem dropAged_canonical (s : State) (port : Nat) (p : XlPkt) :
    (dropAged s port p).canonical = s.canonical := by simp [dropAged]

@[simp] theorem copyOn_canonical (s : State) (port slice since : Nat) (p : XlPkt) (e : McastEntry) :
    (copyOn s port slice since p e).canonical = s.canonical := by simp [copyOn]

@[simp] theorem replicate_canonical (s : State) (port slice since : Nat) (p : XlPkt)
    (e : McastEntry) :
    (replicate s port slice since p e).canonical = s.canonical := by simp [replicate]

@[simp] theorem mcastMiss_canonical (s : State) (port : Nat) (p : XlPkt) :
    (mcastMiss s port p).canonical = s.canonical := by simp [mcastMiss]

@[simp] theorem leafMiss_canonical (s : State) (port slice since : Nat) (p : XlPkt) :
    (leafMiss s port slice since p).canonical = s.canonical := by
  unfold leafMiss
  extract_lets +onlyGivenNames _ f1
  have h1 : ∀ t, (f1 t).canonical = t.canonical := by
    intro t
    unfold f1
    simp
  clear_value f1
  split
  · simp [h1]
  · split <;> simp [h1]

/-! ## `Machine/RegAccess` -/

@[simp] theorem writeReg_canonical (s : State) (r : RegSpec) (idx func v mask : Nat) :
    (writeReg s r idx func v mask).canonical = s.canonical := by simp [writeReg]

/-! ## `Machine/Shaper` -/

@[simp] theorem setTokens_canonical (s : State) (l : Level) (i : Nat) (t : ℤ) :
    (setTokens s l i t).canonical = s.canonical := by simp [setTokens]

@[simp] theorem charge_canonical (s : State) (l : Level) (i : Nat) (p : XlPkt) :
    (charge s l i p).canonical = s.canonical := by simp [charge]

@[simp] theorem refill_canonical (s : State) : (refill s).canonical = s.canonical := by
  unfold refill
  extract_lets +onlyGivenNames _
  simp

@[simp] theorem execShaperStart_canonical (slice : Nat) (s : State) :
    canonicalAfter (execShaperStart slice s) = some s.canonical := by
  unfold execShaperStart
  extract_lets +onlyGivenNames _
  split
  · simp
  · extract_lets +onlyGivenNames _ _ _ _ _
    split
    · simp
    · split <;> simp

@[simp] theorem execShpBucketCfgWrite_canonical (func : Nat) (level : Level) (index value : Nat)
    (s : State) :
    canonicalAfter (execShpBucketCfgWrite func level index value s) = some s.canonical := by
  simp [execShpBucketCfgWrite]

@[simp] theorem police_canonical (s : State) (p : XlPkt) :
    (police s p).2.canonical = s.canonical := by simp [police]

/-! ## `Machine/Router` -/

@[simp] theorem throttleUpdate_canonical (s : State) (port : Nat) :
    (throttleUpdate s port).canonical = s.canonical := by simp [throttleUpdate]

@[simp] theorem admitted_canonical (s : State) (port : Nat) :
    (admitted s port).canonical = s.canonical := by simp [admitted]

@[simp] theorem spray_canonical (s : State) (p : XlPkt) :
    (spray s p).2.canonical = s.canonical := by
  unfold spray
  extract_lets +onlyGivenNames _ _
  split
  · simp
  · split
    rename_i s1 e2
    have h1 : s1.canonical = s.canonical := canonical_of_snd e2 (by simp)
    extract_lets +onlyGivenNames _ _
    split
    · simp [h1]
    · split <;> simp [h1]

@[simp] theorem number_canonical (s : State) (o : Outgoing) :
    (number s o).2.canonical = s.canonical := by simp [number]

@[simp] theorem runnerInjected_canonical (s : State) (o : Outgoing) :
    (runnerInjected s o).canonical = s.canonical := by
  unfold runnerInjected
  split <;> simp

theorem injectOne_canonical {s : State} {index : Nat} {u : State} (h : injectOne s index = some u) :
    u.canonical = s.canonical := by
  refine canonical_of_some h ?_
  unfold injectOne
  split
  · simp
  · extract_lets +onlyGivenNames _ s1
    have h1 : s1.canonical = s.canonical := by simp [s1]
    clear_value s1
    split
    · simp [h1]
    · extract_lets +onlyGivenNames _ _
      split
      · simp
      · split
        · split <;> simp [h1]
        · split
          rename_i s2 e3
          have h2 : s2.canonical = s.canonical := canonical_of_snd e3 (by simp [h1])
          split
          · split
            rename_i s4 e5
            have h4 : s4.canonical = s.canonical := canonical_of_snd e5 (by simp [h2])
            simp [h4]
          · extract_lets +onlyGivenNames _
            split
            · split
              rename_i s6 e7
              have h6 : s6.canonical = s.canonical := canonical_of_snd e7 (by simp [h2])
              simp [h6]
            · split
              · simp
              · split
                rename_i s8 e9
                have h8 : s8.canonical = s.canonical := canonical_of_snd e9 (by simp [h2])
                simp [h8]

@[simp] theorem arbiterSent_canonical (s : State) (slice c : Nat) :
    (arbiterSent s slice c).canonical = s.canonical := by simp [arbiterSent]

@[simp] theorem execPacketInject_canonical (index : Nat) (s : State) :
    canonicalAfter (execPacketInject index s) = some s.canonical := by
  unfold execPacketInject
  split
  · rename_i s1 _ e2 _
    have h1 : s1.canonical = s.canonical := injectOne_canonical e2
    split <;> simp [h1]
  · simp

@[simp] theorem leaveInput_canonical (s : State) (a : Arrived) (index : Nat) :
    (leaveInput s a index).canonical = s.canonical := by simp [leaveInput]

@[simp] theorem execPacketForward_canonical (index : Nat) (s : State) :
    canonicalAfter (execPacketForward index s) = some s.canonical := by
  unfold execPacketForward
  split
  · simp
  · split
    · simp
    · extract_lets +onlyGivenNames s1 _ _
      have h1 : s1.canonical = s.canonical := by simp [s1]
      clear_value s1
      split
      · split <;> simp [h1]
      · split
        · split
          · split <;> simp [h1]
          · simp [h1]
        · split
          · simp [h1]
          · split
            · simp [h1]
            · extract_lets +onlyGivenNames _
              split
              · simp [h1]
              · split <;> simp [h1]

@[simp] theorem rerouteQueue_canonical (s : State) (port : Nat) :
    (rerouteQueue s port).canonical = s.canonical := by
  unfold rerouteQueue
  extract_lets +onlyGivenNames _
  refine (foldl_canonical _ (fun t x1 => ?_) _ _).trans (by simp)
  extract_lets +onlyGivenNames _ _ _ _
  split <;> simp

@[simp] theorem emitFlit_canonical (s : State) (port fseq ftype : Nat) (retry : Bool)
    (credit : Nat × Nat × Nat) (data : List Byte) :
    (emitFlit s port fseq ftype retry credit data).canonical = s.canonical := by simp [emitFlit]

@[simp] theorem sendIdle_canonical (s : State) (port : Nat) (retry : Bool) :
    (sendIdle s port retry).canonical = s.canonical := by simp [sendIdle]

@[simp] theorem sendDataFlit_canonical (s : State) (port : Nat) (data : List Byte) :
    (sendDataFlit s port data).canonical = s.canonical := by simp [sendDataFlit]

@[simp] theorem dropOld_canonical (s : State) (port : Nat) :
    (dropOld s port).canonical = s.canonical := by simp [dropOld]

@[simp] theorem packFlits_canonical (s : State) (port : Nat) (bs : List Byte) :
    (packFlits s port bs).canonical = s.canonical := by simp [packFlits]

@[simp] theorem flushTick_canonical (s : State) (port : Nat) :
    (flushTick s port).canonical = s.canonical := by simp [flushTick]

@[simp] theorem linkTick_canonical (s : State) (port : Nat) :
    (linkTick s port).canonical = s.canonical := by
  unfold linkTick
  split
  · rfl
  · extract_lets +onlyGivenNames s1 _
    have h1 : s1.canonical = s.canonical := by simp [s1]
    clear_value s1
    split
    · simp [h1]
    · split <;> simp [h1]

@[simp] theorem fabricTick_canonical (s : State) :
    (fabricTick s).canonical = s.canonical := by simp [fabricTick]

/-! ## `Machine/Links` -/

@[simp] theorem setPortState_canonical (s : State) (port st : Nat) :
    (setPortState s port st).canonical = s.canonical := by simp [setPortState]

@[simp] theorem beginTraining_canonical (s : State) (port : Nat) :
    (beginTraining s port).canonical = s.canonical := by simp [beginTraining]

@[simp] theorem retrainPort_canonical (s : State) (port : Nat) :
    (retrainPort s port).canonical = s.canonical := by simp [retrainPort]

@[simp] theorem portFollow_canonical (s : State) (port : Nat) :
    (portFollow s port).canonical = s.canonical := by simp [portFollow]

@[simp] theorem failPort_canonical (s : State) (port : Nat) :
    (failPort s port).canonical = s.canonical := by simp [failPort]

@[simp] theorem setLaneBit_canonical (s : State) (port lane b : Nat) (v : Bool) :
    (setLaneBit s port lane b v).canonical = s.canonical := by simp [setLaneBit]

@[simp] theorem markLane_canonical (s : State) (port lane : Nat) :
    (markLane s port lane).canonical = s.canonical := by simp [markLane]

@[simp] theorem replayFlits_canonical (s : State) (port : Nat) :
    (replayFlits s port).canonical = s.canonical := by simp [replayFlits]

@[simp] theorem askRetry_canonical (s : State) (port : Nat) :
    (askRetry s port).canonical = s.canonical := by simp [askRetry]

@[simp] theorem execRetryReq_canonical (port fack : Nat) (s : State) :
    canonicalAfter (execRetryReq port fack s) = some s.canonical := by simp [execRetryReq]

@[simp] theorem lendShared_canonical (s : State) (port : Nat) (p : XlPkt) :
    (lendShared s port p).canonical = s.canonical := by simp [lendShared]

@[simp] theorem refuseArrival_canonical (s : State) (port : Nat) (p : XlPkt) :
    (refuseArrival s port p).canonical = s.canonical := by simp [refuseArrival]

@[simp] theorem takePackets_canonical (port n : Nat) (bs : List Byte) (s : State) :
    (takePackets port n bs s).1.canonical = s.canonical := by
  induction n generalizing bs s with
  | zero => rfl
  | succ n ih =>
    unfold takePackets
    split
    · rfl
    · split
      · rfl
      · dsimp only
        split
        · rfl
        · refine (ih _ _).trans ?_
          split <;> simp

@[simp] theorem takeHead_canonical (s : State) (port head : Nat) :
    (takeHead s port head).canonical = s.canonical := by simp [takeHead]

@[simp] theorem goodFlit_canonical (s : State) (port : Nat) (bytes : List Byte) :
    (goodFlit s port bytes).canonical = s.canonical := by
  unfold goodFlit
  extract_lets +onlyGivenNames _ _ _
  split
  · simp
  · split
    · simp
    · extract_lets +onlyGivenNames s1 _
      have h1 : s1.canonical = s.canonical := by simp [s1]
      clear_value s1
      split
      rename_i s2 _ e3
      have h2 : s2.canonical = s.canonical := canonical_of_fst e3 (by simp [h1])
      simp [h2]

@[simp] theorem execFlitReceive_canonical (port symErrs : Nat) (bytes : List Byte) (s : State) :
    canonicalAfter (execFlitReceive port symErrs bytes s) = some s.canonical := by
  unfold execFlitReceive
  extract_lets +onlyGivenNames _
  split
  · simp
  · split
    · simp
    · extract_lets +onlyGivenNames s1
      have h1 : s1.canonical = s.canonical := by simp [s1]
      clear_value s1
      split
      · simp [h1]
      · extract_lets +onlyGivenNames _
        split
        rename_i s2 e3
        have h2 : s2.canonical = s.canonical := canonical_of_snd e3 (by simp [h1])
        simp [h2]

@[simp] theorem sendInit_canonical (s : State) (port : Nat) :
    (sendInit s port).canonical = s.canonical := by simp [sendInit]

@[simp] theorem execInitRepeat_canonical (port : Nat) (s : State) :
    canonicalAfter (execInitRepeat port s) = some s.canonical := by simp [execInitRepeat]

@[simp] theorem execPortEnable_canonical (port : Nat) (value : Bool) (s : State) :
    canonicalAfter (execPortEnable port value s) = some s.canonical := by simp [execPortEnable]

@[simp] theorem portActivate_canonical (s : State) (port : Nat) :
    (portActivate s port).canonical = s.canonical := by simp [portActivate]

@[simp] theorem execPortFwdEn_canonical (port : Nat) (value : Bool) (s : State) :
    canonicalAfter (execPortFwdEn port value s) = some s.canonical := by simp [execPortFwdEn]

@[simp] theorem execRetrain_canonical (port : Nat) (value : Bool) (s : State) :
    canonicalAfter (execRetrain port value s) = some s.canonical := by simp [execRetrain]

@[simp] theorem lanesFailed_canonical (s : State) (port : Nat) :
    (lanesFailed s port).canonical = s.canonical := by simp [lanesFailed]

@[simp] theorem lanesTrained_canonical (s : State) (port mask rate : Nat) :
    (lanesTrained s port mask rate).canonical = s.canonical := by
  unfold lanesTrained
  extract_lets +onlyGivenNames s1 _ _ d2 _ f3
  have h1 : s1.canonical = s.canonical := by simp [s1]
  have h3 : ∀ t x4 x5, (f3 t x4 x5).canonical = t.canonical := by
    intro t x4 x5
    unfold f3
    simp
  clear_value s1 d2 f3
  (repeat' split) <;> simp [h3, h1]

@[simp] theorem reportPeer_canonical (s : State) (port : Nat) :
    (reportPeer s port).canonical = s.canonical := by simp [reportPeer]

@[simp] theorem execPortTrainingDone_canonical (port lanes : Nat) (s : State) :
    canonicalAfter (execPortTrainingDone port lanes s) = some s.canonical := by
  simp [execPortTrainingDone]

@[simp] theorem execPortStepTimeout_canonical (port : Nat) (s : State) :
    canonicalAfter (execPortStepTimeout port s) = some s.canonical := by simp [execPortStepTimeout]

@[simp] theorem execInit_canonical (port : Nat) (msg : InitMsg) (s : State) :
    canonicalAfter (execInit port msg s) = some s.canonical := by simp [execInit]

@[simp] theorem execLaneFail_canonical (port lane : Nat) (s : State) :
    canonicalAfter (execLaneFail port lane s) = some s.canonical := by simp [execLaneFail]

/-! ## `Machine/Recovery` -/

@[simp] theorem injectMove_canonical (s : State) (q : Nat) :
    (injectMove s q).canonical = s.canonical := by
  unfold injectMove
  split <;> simp

@[simp] theorem nandOutcome_canonical (s : State) (r : NandRead) (slot : Nat) :
    (nandOutcome s r slot).canonical = s.canonical := by simp [nandOutcome]

@[simp] theorem countNand_canonical (s : State) (r : NandRead) (slot : Nat) :
    (countNand s r slot).canonical = s.canonical := by
  unfold countNand
  split
  rename_i s1 e2
  have h1 : s1.canonical = s.canonical := canonical_of_snd e2 (by simp)
  simp [h1]

@[simp] theorem wakeWaiters_canonical (s : State) (q : Nat) (hs : s.canonical = true) :
    (wakeWaiters s q).canonical = true := by simp [hs, wakeWaiters]

theorem placeFetch_canonical {s : State} {q : Nat} {forPrefetch : Bool} {u : State}
    (h : placeFetch s q forPrefetch = some u) :
    u.canonical = s.canonical := by
  unfold placeFetch at h
  split at h
  · next e => cases h; exact placePrimary_canonical e
  · split at h
    · obtain ⟨r, hr, rfl⟩ := Option.map_eq_some_iff.mp h
      simp [placePrimary_canonical hr]
    · cases h

@[simp] theorem failPage_canonical (st : Nat) (s : State) (e : Nat × Page) :
    (failPage st s e).canonical = s.canonical := by
  unfold failPage
  extract_lets +onlyGivenNames _
  split <;> simp

@[simp] theorem loseBuffers_canonical (s : State) : (loseBuffers s).canonical = s.canonical := by
  unfold loseBuffers
  simp

@[simp] theorem refillWindows_canonical (s : State) :
    (refillWindows s).canonical = s.canonical := by simp [refillWindows]

@[simp] theorem failStack_canonical (s : State) (st cause : Nat) (hs : s.canonical = true) :
    (failStack s st cause).canonical = true := by simp +contextual [hs, failStack]

@[simp] theorem dropService_canonical (s : State) (st fr q : Nat) (hs : s.canonical = true) :
    (dropService s st fr q).canonical = true := by simp [hs, dropService]

@[simp] theorem retireFrame_canonical (s : State) (st fr : Nat) (hs : s.canonical = true) :
    (retireFrame s st fr).canonical = true := by
  unfold retireFrame
  extract_lets +onlyGivenNames _
  split
  · exact hs
  · extract_lets +onlyGivenNames d _ s1 s2 s3
    have h1 : s1.canonical = true := hs
    have h2 : s2.canonical = true := by simp [s2, h1]
    clear_value d s1 s2
    have h3 : s3.canonical = true := by
      unfold s3
      split <;> simp [h2]
    simp [h3]

@[simp] theorem correctBlock_canonical (st fr : Nat) (s : State) (b : Nat × Option Nat)
    (hs : s.canonical = true) : (correctBlock st fr s b).canonical = true := by
  unfold correctBlock
  extract_lets +onlyGivenNames s1 _ _ _ _ s2 _ s3
  have h1 : s1.canonical = true := by simp [hs, s1]
  have h2 : s2.canonical = true := h1
  have h3 : s3.canonical = true := by
    unfold s3
    clear_value s1 s2
    split
    · exact h2
    · dsimp only
      split
      · exact h2
      · have h4 : ∀ m, (repairChange { s2 with wsp := m }).canonical =
            memCanonical m.dram m.nand s2.tiles := fun m => by simp
        split
        · exact failStack_canonical _ _ _ ((h4 _).trans h2)
        · exact (h4 _).trans h2
  clear_value s1 s2 s3
  simp [h3]

@[simp] theorem recoverFrame_canonical (s : State) (st fr : Nat) (r : NandRead)
    (hs : s.canonical = true) :
    (recoverFrame s st fr r).canonical = true := by
  unfold recoverFrame
  split
  · simp [hs]
  · split
    · simp [hs]
    · extract_lets +onlyGivenNames _ s1 s2 _
      have h2 : s2.canonical = true := by simp [hs, s2, s1]
      clear_value s1 s2
      split
      · simp [h2]
      · extract_lets +onlyGivenNames s3
        have h3 : s3.canonical = true := by simp [s3, h2]
        clear_value s3
        split
        · extract_lets +onlyGivenNames s4
          have h4 : s4.canonical = true := by simp [s4, h3]
          clear_value s4
          split <;> simp [h4]
        · simp [h3]

@[simp] theorem recoverRead_canonical (s : State) (t q : Nat) (hs : s.canonical = true) :
    (recoverRead s t q).canonical = true := by
  unfold recoverRead
  split <;> simp [hs]

@[simp] theorem scrubLink_canonical (q : Nat) (s : State) (w : Nat × Bool) :
    (scrubLink q s w).canonical = s.canonical := by
  unfold scrubLink
  split <;> simp

/-! ## `Machine/Engines` -/

@[simp] theorem countWrites_canonical (s : State) (c : EngCmd) (n : Nat) :
    (countWrites s c n).canonical = s.canonical := by simp [countWrites]

@[simp] theorem setSkip_canonical (s : State) (t : Nat) (k : SkipState) :
    (setSkip s t k).canonical = s.canonical := by simp [setSkip]

@[simp] theorem classify_canonical (d : SkipDesc) (g r : Nat) (a : SkipState × State) (n : Nat) :
    (classify d g r a n).2.canonical = a.2.canonical := by
  obtain ⟨k, s⟩ := a
  simp [classify]

/-- Stated for any fixed part `k`, since `runPass` calls it on a state it has already counted in. -/
@[simp] theorem skipPass_canonical (s : State) (t : Nat) (c : EngCmd) (d : SkipDesc) (o : Opnd)
    (p : PassOut) {k : Bool} (h : s.canonical = k) :
    Run.canonicalOr k (skipPass s t c d o p) = k := by
  unfold skipPass
  extract_lets +onlyGivenNames _ _ _
  split
  rename_i s1 e2
  have h1 : s1.canonical = k := canonical_of_snd e2 (by simp [h])
  extract_lets +onlyGivenNames _ _ _
  split <;> simp [h1]

/-- Stated for any fixed part `k`, as `skipPass_canonical` is. -/
@[simp] theorem plainPass_canonical (s : State) (c : EngCmd) (o : Opnd) (p : PassOut)
    (col shared : Bool) {k : Bool} (h : s.canonical = k) :
    Run.canonicalOr k (plainPass s c o p col shared) = k := by
  simp [plainPass, h]

@[simp] theorem latchSteal_canonical (s : State) (t : Nat) :
    (latchSteal s t).canonical = s.canonical := by
  unfold latchSteal
  extract_lets +onlyGivenNames _ s1
  have h1 : s1.canonical = s.canonical := by simp [s1]
  clear_value s1
  split
  · exact h1
  · split
    rename_i s2 e3
    have h2 : s2.canonical = s.canonical := canonical_of_snd e3 (by simp [h1])
    simp [h2]

@[simp] theorem runPass_canonical (s : State) (t func : Nat) (c : EngCmd) :
    Run.canonicalOr s.canonical (runPass s t func c) = s.canonical := by
  unfold runPass
  extract_lets +onlyGivenNames _
  refine EngCmd.get_canonical _ _ _ _ (fun x1 => ?_)
  refine EngCmd.get_canonical _ _ _ _ (fun x2 => ?_)
  refine EngCmd.get_canonical _ _ _ _ (fun x3 => ?_)
  refine Rd.use_canonical _ _ _ (fun x4 => ?_)
  refine Rd.use_canonical _ _ _ (fun x5 => ?_)
  refine Rd.use_canonical _ _ _ (fun x6 => ?_)
  extract_lets +onlyGivenNames _ _ _ _ d7
  clear_value d7
  split
  · simp
  · extract_lets +onlyGivenNames _ _ _ _ s8 s9 s10 s11
    have h11 : s11.canonical = s.canonical := by simp [s11, s10, s9, s8]
    clear_value s8 s9 s10 s11
    split <;> simp [h11]

@[simp] theorem runMakeup_canonical (s : State) (t func : Nat) (c : EngCmd) :
    Run.canonicalOr s.canonical (runMakeup s t func c) = s.canonical := by
  unfold runMakeup
  extract_lets +onlyGivenNames _ _ _
  split
  · simp
  · split
    · simp
    · refine EngCmd.get_canonical _ _ _ _ (fun x1 => ?_)
      refine EngCmd.get_canonical _ _ _ _ (fun x2 => ?_)
      refine EngCmd.get_canonical _ _ _ _ (fun x3 => ?_)
      extract_lets +onlyGivenNames _ _ _
      refine Rd.use_canonical _ _ _ (fun x4 => ?_)
      extract_lets +onlyGivenNames _ _
      refine Rd.use_canonical _ _ _ (fun x5 => ?_)
      refine Rd.use_canonical _ _ _ (fun x6 => ?_)
      extract_lets +onlyGivenNames _
      split <;> simp

@[simp] theorem runVec_canonical (s : State) (t func : Nat) (c : EngCmd) :
    Run.canonicalOr s.canonical (runVec s t func c) = s.canonical := by
  unfold runVec
  refine EngCmd.get_canonical _ _ _ _ fun a => EngCmd.get_canonical _ _ _ _ fun o => ?_
  extract_lets +onlyGivenNames _ _
  refine Rd.use_canonical _ _ _ fun abs => Rd.use_canonical _ _ _ fun bbs => Rd.use_canonical
    _ _ _ fun cbs =>
    Rd.use_canonical _ _ _ fun dbs => Rd.use_canonical _ _ _ fun _ => ?_
  extract_lets +onlyGivenNames s1
  have h1 : s1.canonical = s.canonical := by simp [s1]
  clear_value s1
  split
  · extract_lets +onlyGivenNames _ _ s2
    have h2 : s2.canonical = s.canonical := by simp [s2, h1]
    clear_value s2
    split
    · simp
    · simp [h2]
  · extract_lets +onlyGivenNames _ _ _ _
    split
    · extract_lets +onlyGivenNames _ _ _ vs
      clear_value vs
      split <;> simp [h1]
    · extract_lets +onlyGivenNames _ _ _ _ vs bs
      clear_value bs
      simp [h1]

@[simp] theorem runXfer_canonical (s : State) (t func : Nat) (c : EngCmd) :
    Run.canonicalOr s.canonical (runXfer s t func c) = s.canonical := by
  unfold runXfer
  refine EngCmd.get_canonical _ _ _ _ (fun x1 => ?_)
  split
  · refine EngCmd.get_canonical _ _ _ _ (fun x2 => ?_)
    refine Rd.use_canonical _ _ _ (fun x3 => ?_)
    refine Rd.use_canonical _ _ _ (fun x4 => ?_)
    simp
  · refine EngCmd.get_canonical _ _ _ _ (fun x5 => ?_)
    refine Rd.use_canonical _ _ _ (fun x6 => ?_)
    refine Rd.use_canonical _ _ _ (fun x7 => ?_)
    simp

@[simp] theorem runEval_canonical (s : State) (t func : Nat) (c : EngCmd) :
    Run.canonicalOr s.canonical (runEval s t func c) = s.canonical := by
  unfold runEval
  extract_lets +onlyGivenNames _
  refine EngCmd.get_canonical _ _ _ _ (fun x1 => ?_)
  extract_lets +onlyGivenNames _ _ _ _ _
  split
  · refine Rd.use_canonical _ _ _ (fun x2 => ?_)
    simp
  · refine EngCmd.get_canonical _ _ _ _ (fun x3 => ?_)
    refine EngCmd.get_canonical _ _ _ _ (fun x4 => ?_)
    refine Rd.use_canonical _ _ _ (fun x5 => ?_)
    refine Rd.use_canonical _ _ _ (fun x6 => ?_)
    refine Rd.use_canonical _ _ _ (fun x7 => ?_)
    extract_lets +onlyGivenNames _ _ _ _ _ _ _
    split <;> simp

@[simp] theorem runCommand_canonical (s : State) (t func : Nat) (c : EngCmd) :
    Run.canonicalOr s.canonical (runCommand s t func c) = s.canonical := by simp [runCommand]

/-! ## `Machine/TileFail` -/

@[simp] theorem setRole_canonical (s : State) (t : Nat) (r : TileRole) :
    (setRole s t r).canonical = s.canonical := by simp [setRole]

@[simp] theorem moveStep_canonical (t l sp : Nat) (items : List Item) (a : State × Nat)
    (e : Nat × LStep) :
    (moveStep t l sp items a e).1.canonical = a.1.canonical := by
  obtain ⟨s, n⟩ := a
  simp [moveStep]

@[simp] theorem rearmTile_canonical (s : State) (l : Nat) (hs : s.canonical = true) :
    (rearmTile s l).canonical = true := by
  unfold rearmTile
  refine foldl_canonical_of (fun t x1 ht => ?_) _ hs
  split
  · exact ht
  · split
    · exact ht
    · extract_lets +onlyGivenNames s1 s2 _ s3 s4 s5
      have h1 : s1.canonical = true := by simp [s1, ht]
      have h2 : s2.canonical = true := foldl_canonical_of (fun u o hu => by simp [hu]) _ h1
      have h5 : s5.canonical = true := by simp [s5, s4, s3, h2]
      clear_value s1 s2 s3 s4 s5
      simp [h5]

@[simp] theorem restage_canonical (s : State) (l : Nat) :
    (restage s l).canonical = s.canonical := by simp [restage]

@[simp] theorem replacePart_canonical (s : State) (it : Item) :
    (replacePart s it).canonical = s.canonical := by
  unfold replacePart
  split
  · extract_lets +onlyGivenNames _
    split <;> simp
  · rfl

@[simp] theorem loseTile_canonical (s : State) (t l : Nat) (items : List Item)
    (hs : s.canonical = true) :
    (loseTile s t l items).1.canonical = true := by
  unfold loseTile
  extract_lets +onlyGivenNames _ s1 s2
  have h1 : s1.canonical = true := by simp [s1, hs]
  have h2 : s2.canonical = true := foldl_canonical_of
    (fun u e hu => foldl_canonical_of (fun v o hv => by simp [hv]) _ hu) _ h1
  clear_value s1 s2
  simp [h2]

@[simp] theorem takeoverEvent_canonical (s : State) (t sp l cause again lost : Nat) :
    (takeoverEvent s t sp l cause again lost).canonical = s.canonical := by simp [takeoverEvent]

@[simp] theorem failTile_canonical (s : State) (t cause : Nat) (hs : s.canonical = true) :
    (failTile s t cause).canonical = true := by
  unfold failTile
  extract_lets +onlyGivenNames _
  split
  · exact hs
  · extract_lets +onlyGivenNames d1 d2 d3 s3 s4 _ s5
    have h3 : s3.canonical = true := by simp [hs, s3]
    have h5 : s5.canonical = true := setTile_canonical_of h3 t (rfl)
    clear_value d1 d2 d3 s3 s4 s5
    split
    · extract_lets +onlyGivenNames _ s6 f s7
      have h6 : s6.canonical = true := by simp [s6, h5]
      have h7 : s7.canonical = true := by simp [s7, h6, f]
      clear_value s6 f s7
      split
      rename_i s8 _ e9
      have h8 : s8.canonical = true := canonical_of_fst e9 (by simp [h7])
      simp [h8]
    · extract_lets +onlyGivenNames _ _ s10
      have h10 : s10.canonical = true := by simp [s10, h5]
      clear_value s10
      split
      rename_i s11 _ _ e12
      have h11 : s11.canonical = true := canonical_of_fst e12 (by simp [h10])
      simp [h11]
    · simp [h5]

@[simp] theorem hwFault_canonical (s : State) (t : Nat) (i : Item) (cause addr : Nat)
    (hs : s.canonical = true) :
    (hwFault s t i cause addr).canonical = true := by simp [hs, hwFault]

@[simp] theorem timingTile_canonical (s : State) (t : Nat) :
    (timingTile s t).canonical = s.canonical := by simp [timingTile]

@[simp] theorem corrected_canonical (s : State) (t n addr : Nat) (hs : s.canonical = true) :
    (corrected s t n addr).canonical = true := by simp [hs, corrected]

/-! ## `Machine/Stoker` -/

@[simp] theorem timingTile_tiles (s : State) (t : Nat) : (timingTile s t).tiles = s.tiles :=
  List.foldlRecOn (motive := fun u : State => u.tiles = s.tiles) _ _ rfl
    fun u hu seq _ => (State.modCmd_tiles u seq _).trans hu

@[simp] theorem swapTile_canonical (s : State) (t : Nat) :
    (swapTile s t).canonical = s.canonical := by
  have h : (swapBanks (s.tile t)).canonical = ((timingTile s t).tile t).canonical := by
    simp [State.tile]
  simp [swapTile, h]

@[simp] theorem stokerFault_canonical (s : State) (t : Nat) (i : Item) (n addr : Nat)
    (hs : s.canonical = true) :
    (stokerFault s t i n addr).canonical = true := by simp [hs, stokerFault]

/-- A kernel starts with the DMEM its context left there, but for the words the draw loses. -/
theorem freshDmem_wf {x : Tile} (hx : x.canonical = true) (ctx d : Nat) :
    (freshDmem x ctx d).wf = true := by
  unfold freshDmem
  split
  · exact filter_wfFrom _ _ 0 (Tile.dmem_wf hx)
  · rfl

@[simp] theorem takeItem_canonical (s : State) (t : Nat) (badWord badDmem : Option Nat)
    (hs : s.canonical = true) :
    (takeItem s t badWord badDmem).canonical = true := by
  unfold takeItem
  extract_lets +onlyGivenNames x
  have hx : x.canonical = true := tile_canonical hs t
  clear_value x
  split
  · exact hs
  · rename_i i _ _
    split
    · simp [hs]
    · split
      · simp [hs]
      · split
        · simp [hs]
        · split
          · simp [hs]
          · split
            rename_i s1 e2
            have h1 : s1.canonical = true := canonical_of_snd e2 (by simp [hs])
            have hy : (latchSkip s1 x i.seq).canonical = true := (latchSkip_canonical ..).trans hx
            exact setTile_canonical_of h1 t
              (Tile.canonical_of (Tile.spad_wf hy :) (freshDmem_wf hy ..))

@[simp] theorem execWorkItemStart_canonical (tile : Nat) (errors : KernelErrors) (s : State)
    (hs : s.canonical = true) :
    canonicalAfter (execWorkItemStart tile errors s) = some true := by simp [hs, execWorkItemStart]

@[simp] theorem itemEnds_canonical (s : State) (t : Nat) (i : Item) (hs : s.canonical = true) :
    (itemEnds s t i).canonical = true := by simp [hs, itemEnds]

@[simp] theorem atWord_canonical (s : State) (t form op : Nat) (f : Kernel → Nat → State)
    (hf : ∀ a b, (f a b).canonical = true) (hs : s.canonical = true) :
    canonicalAfter (atWord s t form op f) = some true := by
  unfold atWord
  split <;> simp [hs, hf]

@[simp] theorem setKernel_canonical (s : State) (t : Nat) (k : Kernel) :
    (setKernel s t k).canonical = s.canonical := by simp [setKernel]

@[simp] theorem scalarWord_canonical (s : State) (t op : Nat) (f : Word → Word → Word)
    (hs : s.canonical = true) :
    canonicalAfter (scalarWord s t op f) = some true := by simp [hs, scalarWord]

@[simp] theorem immWord_canonical (s : State) (t op : Nat) (f : Word → Word → Word)
    (hs : s.canonical = true) :
    canonicalAfter (immWord s t op f) = some true := by simp [hs, immWord]

@[simp] theorem execAdd_canonical (tile : Nat) (s : State) (hs : s.canonical = true) :
    canonicalAfter (execAdd tile s) = some true := by simp [hs, execAdd]

@[simp] theorem execSub_canonical (tile : Nat) (s : State) (hs : s.canonical = true) :
    canonicalAfter (execSub tile s) = some true := by simp [hs, execSub]

@[simp] theorem execAnd_canonical (tile : Nat) (s : State) (hs : s.canonical = true) :
    canonicalAfter (execAnd tile s) = some true := by simp [hs, execAnd]

@[simp] theorem execOr_canonical (tile : Nat) (s : State) (hs : s.canonical = true) :
    canonicalAfter (execOr tile s) = some true := by simp [hs, execOr]

@[simp] theorem execXor_canonical (tile : Nat) (s : State) (hs : s.canonical = true) :
    canonicalAfter (execXor tile s) = some true := by simp [hs, execXor]

@[simp] theorem execShl_canonical (tile : Nat) (s : State) (hs : s.canonical = true) :
    canonicalAfter (execShl tile s) = some true := by simp [hs, execShl]

@[simp] theorem execShr_canonical (tile : Nat) (s : State) (hs : s.canonical = true) :
    canonicalAfter (execShr tile s) = some true := by simp [hs, execShr]

@[simp] theorem execSra_canonical (tile : Nat) (s : State) (hs : s.canonical = true) :
    canonicalAfter (execSra tile s) = some true := by simp [hs, execSra]

@[simp] theorem execMul_canonical (tile : Nat) (s : State) (hs : s.canonical = true) :
    canonicalAfter (execMul tile s) = some true := by simp [hs, execMul]

@[simp] theorem execMulhu_canonical (tile : Nat) (s : State) (hs : s.canonical = true) :
    canonicalAfter (execMulhu tile s) = some true := by simp [hs, execMulhu]

@[simp] theorem execDivu_canonical (tile : Nat) (s : State) (hs : s.canonical = true) :
    canonicalAfter (execDivu tile s) = some true := by simp [hs, execDivu]

@[simp] theorem execRemu_canonical (tile : Nat) (s : State) (hs : s.canonical = true) :
    canonicalAfter (execRemu tile s) = some true := by simp [hs, execRemu]

@[simp] theorem execMinu_canonical (tile : Nat) (s : State) (hs : s.canonical = true) :
    canonicalAfter (execMinu tile s) = some true := by simp [hs, execMinu]

@[simp] theorem execMaxu_canonical (tile : Nat) (s : State) (hs : s.canonical = true) :
    canonicalAfter (execMaxu tile s) = some true := by simp [hs, execMaxu]

@[simp] theorem execSlt_canonical (tile : Nat) (s : State) (hs : s.canonical = true) :
    canonicalAfter (execSlt tile s) = some true := by simp [hs, execSlt]

@[simp] theorem execSltu_canonical (tile : Nat) (s : State) (hs : s.canonical = true) :
    canonicalAfter (execSltu tile s) = some true := by simp [hs, execSltu]

@[simp] theorem execAddi_canonical (tile : Nat) (s : State) (hs : s.canonical = true) :
    canonicalAfter (execAddi tile s) = some true := by simp [hs, execAddi]

@[simp] theorem execAndi_canonical (tile : Nat) (s : State) (hs : s.canonical = true) :
    canonicalAfter (execAndi tile s) = some true := by simp [hs, execAndi]

@[simp] theorem execOri_canonical (tile : Nat) (s : State) (hs : s.canonical = true) :
    canonicalAfter (execOri tile s) = some true := by simp [hs, execOri]

@[simp] theorem execXori_canonical (tile : Nat) (s : State) (hs : s.canonical = true) :
    canonicalAfter (execXori tile s) = some true := by simp [hs, execXori]

@[simp] theorem execShli_canonical (tile : Nat) (s : State) (hs : s.canonical = true) :
    canonicalAfter (execShli tile s) = some true := by simp [hs, execShli]

@[simp] theorem execShri_canonical (tile : Nat) (s : State) (hs : s.canonical = true) :
    canonicalAfter (execShri tile s) = some true := by simp [hs, execShri]

@[simp] theorem execSrai_canonical (tile : Nat) (s : State) (hs : s.canonical = true) :
    canonicalAfter (execSrai tile s) = some true := by simp [hs, execSrai]

@[simp] theorem execMuli_canonical (tile : Nat) (s : State) (hs : s.canonical = true) :
    canonicalAfter (execMuli tile s) = some true := by simp [hs, execMuli]

@[simp] theorem execLi_canonical (tile : Nat) (s : State) (hs : s.canonical = true) :
    canonicalAfter (execLi tile s) = some true := by simp [hs, execLi]

@[simp] theorem execExti_canonical (tile : Nat) (s : State) (hs : s.canonical = true) :
    canonicalAfter (execExti tile s) = some true := by simp [hs, execExti]

@[simp] theorem execCdivi_canonical (tile : Nat) (s : State) (hs : s.canonical = true) :
    canonicalAfter (execCdivi tile s) = some true := by simp [hs, execCdivi]

@[simp] theorem execLd_canonical (tile : Nat) (uncorrectable : Bool) (s : State)
    (hs : s.canonical = true) :
    canonicalAfter (execLd tile uncorrectable s) = some true := by simp [hs, execLd]

@[simp] theorem execSt_canonical (tile : Nat) (s : State) (hs : s.canonical = true) :
    canonicalAfter (execSt tile s) = some true := by
  refine atWord_canonical _ _ _ _ _ (fun k w => ?_) hs
  dsimp only
  split
  · simp [hs]
  · split
    · simp [hs]
    · exact modTile_canonical_of (by simp [hs]) _ fun x hx =>
        Tile.canonical_of (Tile.spad_wf hx :) (writeBytes_wf _ _ (Tile.dmem_wf hx))

@[simp] theorem lostRead_canonical (s : State) (t : Nat) (i : Item) (page : Nat)
    (hs : s.canonical = true) :
    (lostRead s t i page).canonical = true := by simp [hs, lostRead]

@[simp] theorem execLdw_canonical (tile : Nat) (s : State) (hs : s.canonical = true) :
    canonicalAfter (execLdw tile s) = some true := by
  refine atWord_canonical _ _ _ _ _ (fun k w => ?_) hs
  extract_lets +onlyGivenNames _
  split
  · simp [hs]
  · split <;> simp [hs]

@[simp] theorem badRead_canonical (s : State) (t : Nat) (i : Item) (q : Nat) (go : State → Out)
    (hgo : ∀ u, u.canonical = true → canonicalAfter (go u) = some true) (hs : s.canonical = true) :
    canonicalAfter (badRead s t i q go) = some true := by
  unfold badRead
  simp [hs, hgo]

@[simp] theorem execLdwData_canonical (tile : Nat) (bad : Bool) (s : State)
    (hs : s.canonical = true) :
    canonicalAfter (execLdwData tile bad s) = some true := by
  unfold execLdwData
  (repeat' split) <;> simp [hs]

@[simp] theorem branchWord_canonical (s : State) (t op : Nat) (p : Word → Word → Bool)
    (hs : s.canonical = true) :
    canonicalAfter (branchWord s t op p) = some true := by simp [hs, branchWord]

@[simp] theorem execJmp_canonical (tile : Nat) (s : State) (hs : s.canonical = true) :
    canonicalAfter (execJmp tile s) = some true := by simp [hs, execJmp]

@[simp] theorem execBeq_canonical (tile : Nat) (s : State) (hs : s.canonical = true) :
    canonicalAfter (execBeq tile s) = some true := by simp [hs, execBeq]

@[simp] theorem execBne_canonical (tile : Nat) (s : State) (hs : s.canonical = true) :
    canonicalAfter (execBne tile s) = some true := by simp [hs, execBne]

@[simp] theorem execBltu_canonical (tile : Nat) (s : State) (hs : s.canonical = true) :
    canonicalAfter (execBltu tile s) = some true := by simp [hs, execBltu]

@[simp] theorem execBgeu_canonical (tile : Nat) (s : State) (hs : s.canonical = true) :
    canonicalAfter (execBgeu tile s) = some true := by simp [hs, execBgeu]

@[simp] theorem execLoop_canonical (tile : Nat) (s : State) (hs : s.canonical = true) :
    canonicalAfter (execLoop tile s) = some true := by simp [hs, execLoop]

@[simp] theorem execEndloop_canonical (tile : Nat) (s : State) (hs : s.canonical = true) :
    canonicalAfter (execEndloop tile s) = some true := by
  refine atWord_canonical _ _ _ _ _ (fun k w => ?_) hs
  split <;> simp [hs]

@[simp] theorem execRicNop_canonical (tile : Nat) (s : State) (hs : s.canonical = true) :
    canonicalAfter (execRicNop tile s) = some true := by simp [hs, execRicNop]

@[simp] theorem execEnd_canonical (tile : Nat) (s : State) (hs : s.canonical = true) :
    canonicalAfter (execEnd tile s) = some true :=
  atWord_canonical _ _ _ _ _ (fun k w => settleWork_canonical _ (by simp [hs])) hs

@[simp] theorem stallEvent_canonical (s : State) (t : Nat) (k : Kernel) (w : Stall) :
    (stallEvent s t k w).canonical = s.canonical := by
  unfold stallEvent
  split
  rename_i s1 e2
  have h1 : s1.canonical = s.canonical := canonical_of_snd e2 (by simp)
  simp [h1]

@[simp] theorem execEwait_canonical (tile : Nat) (s : State) (hs : s.canonical = true) :
    canonicalAfter (execEwait tile s) = some true := by simp [hs, execEwait]

@[simp] theorem execEsig_canonical (tile : Nat) (s : State) (hs : s.canonical = true) :
    canonicalAfter (execEsig tile s) = some true := by simp [hs, execEsig]

@[simp] theorem execRicFence_canonical (tile : Nat) (s : State) (hs : s.canonical = true) :
    canonicalAfter (execRicFence tile s) = some true := by simp [hs, execRicFence]

@[simp] theorem execTrap_canonical (tile : Nat) (s : State) (hs : s.canonical = true) :
    canonicalAfter (execTrap tile s) = some true := by simp [hs, execTrap]

@[simp] theorem stallFull_canonical (s : State) (t : Nat) (k : Kernel) :
    (stallFull s t k).canonical = s.canonical := by
  unfold stallFull
  split
  rename_i s1 e2
  have h1 : s1.canonical = s.canonical := canonical_of_snd e2 (by simp)
  simp [h1]

@[simp] theorem issueWord_canonical (s : State) (t engine op : Nat) (hs : s.canonical = true) :
    canonicalAfter (issueWord s t engine op) = some true := by
  unfold issueWord
  split
  · extract_lets +onlyGivenNames _
    split
    · simp [hs]
    · extract_lets +onlyGivenNames _
      split
      · simp [hs]
      · split
        · simp [hs]
        · split
          · simp [hs]
          · split
            · simp [hs]
            · extract_lets +onlyGivenNames _
              split
              · simp [hs]
              · split
                · simp [hs]
                · extract_lets +onlyGivenNames _ _ _ _ _ _ _ _ s1 s2
                  have h1 : s1.canonical = true := by
                    unfold s1
                    split <;> simp [hs]
                  have h2 : s2.canonical = true := by simp [s2, h1]
                  clear_value s1 s2
                  simp [h2]
  · simp [hs]

@[simp] theorem execPass_canonical (tile : Nat) (s : State) (hs : s.canonical = true) :
    canonicalAfter (execPass tile s) = some true := by simp [hs, execPass]

@[simp] theorem execMakeup_canonical (tile : Nat) (s : State) (hs : s.canonical = true) :
    canonicalAfter (execMakeup tile s) = some true := by simp [hs, execMakeup]

@[simp] theorem execVecAdd_canonical (tile : Nat) (s : State) (hs : s.canonical = true) :
    canonicalAfter (execVecAdd tile s) = some true := by simp [hs, execVecAdd]

@[simp] theorem execVecSub_canonical (tile : Nat) (s : State) (hs : s.canonical = true) :
    canonicalAfter (execVecSub tile s) = some true := by simp [hs, execVecSub]

@[simp] theorem execVecMul_canonical (tile : Nat) (s : State) (hs : s.canonical = true) :
    canonicalAfter (execVecMul tile s) = some true := by simp [hs, execVecMul]

@[simp] theorem execFma_canonical (tile : Nat) (s : State) (hs : s.canonical = true) :
    canonicalAfter (execFma tile s) = some true := by simp [hs, execFma]

@[simp] theorem execScale_canonical (tile : Nat) (s : State) (hs : s.canonical = true) :
    canonicalAfter (execScale tile s) = some true := by simp [hs, execScale]

@[simp] theorem execVecMin_canonical (tile : Nat) (s : State) (hs : s.canonical = true) :
    canonicalAfter (execVecMin tile s) = some true := by simp [hs, execVecMin]

@[simp] theorem execVecMax_canonical (tile : Nat) (s : State) (hs : s.canonical = true) :
    canonicalAfter (execVecMax tile s) = some true := by simp [hs, execVecMax]

@[simp] theorem execAbs_canonical (tile : Nat) (s : State) (hs : s.canonical = true) :
    canonicalAfter (execAbs tile s) = some true := by simp [hs, execAbs]

@[simp] theorem execNeg_canonical (tile : Nat) (s : State) (hs : s.canonical = true) :
    canonicalAfter (execNeg tile s) = some true := by simp [hs, execNeg]

@[simp] theorem execSelect_canonical (tile : Nat) (s : State) (hs : s.canonical = true) :
    canonicalAfter (execSelect tile s) = some true := by simp [hs, execSelect]

@[simp] theorem execCvt_canonical (tile : Nat) (s : State) (hs : s.canonical = true) :
    canonicalAfter (execCvt tile s) = some true := by simp [hs, execCvt]

@[simp] theorem execDiv_canonical (tile : Nat) (s : State) (hs : s.canonical = true) :
    canonicalAfter (execDiv tile s) = some true := by simp [hs, execDiv]

@[simp] theorem execSqrt_canonical (tile : Nat) (s : State) (hs : s.canonical = true) :
    canonicalAfter (execSqrt tile s) = some true := by simp [hs, execSqrt]

@[simp] theorem execExp_canonical (tile : Nat) (s : State) (hs : s.canonical = true) :
    canonicalAfter (execExp tile s) = some true := by simp [hs, execExp]

@[simp] theorem execLog_canonical (tile : Nat) (s : State) (hs : s.canonical = true) :
    canonicalAfter (execLog tile s) = some true := by simp [hs, execLog]

@[simp] theorem execRsqrt_canonical (tile : Nat) (s : State) (hs : s.canonical = true) :
    canonicalAfter (execRsqrt tile s) = some true := by simp [hs, execRsqrt]

@[simp] theorem execSigmoid_canonical (tile : Nat) (s : State) (hs : s.canonical = true) :
    canonicalAfter (execSigmoid tile s) = some true := by simp [hs, execSigmoid]

@[simp] theorem execTanh_canonical (tile : Nat) (s : State) (hs : s.canonical = true) :
    canonicalAfter (execTanh tile s) = some true := by simp [hs, execTanh]

@[simp] theorem execRelu_canonical (tile : Nat) (s : State) (hs : s.canonical = true) :
    canonicalAfter (execRelu tile s) = some true := by simp [hs, execRelu]

@[simp] theorem execRelu2_canonical (tile : Nat) (s : State) (hs : s.canonical = true) :
    canonicalAfter (execRelu2 tile s) = some true := by simp [hs, execRelu2]

@[simp] theorem execGeluTanh_canonical (tile : Nat) (s : State) (hs : s.canonical = true) :
    canonicalAfter (execGeluTanh tile s) = some true := by simp [hs, execGeluTanh]

@[simp] theorem execSilu_canonical (tile : Nat) (s : State) (hs : s.canonical = true) :
    canonicalAfter (execSilu tile s) = some true := by simp [hs, execSilu]

@[simp] theorem execActMul_canonical (tile : Nat) (s : State) (hs : s.canonical = true) :
    canonicalAfter (execActMul tile s) = some true := by simp [hs, execActMul]

@[simp] theorem execRsum_canonical (tile : Nat) (s : State) (hs : s.canonical = true) :
    canonicalAfter (execRsum tile s) = some true := by simp [hs, execRsum]

@[simp] theorem execRsumsq_canonical (tile : Nat) (s : State) (hs : s.canonical = true) :
    canonicalAfter (execRsumsq tile s) = some true := by simp [hs, execRsumsq]

@[simp] theorem execRdot_canonical (tile : Nat) (s : State) (hs : s.canonical = true) :
    canonicalAfter (execRdot tile s) = some true := by simp [hs, execRdot]

@[simp] theorem execRmax_canonical (tile : Nat) (s : State) (hs : s.canonical = true) :
    canonicalAfter (execRmax tile s) = some true := by simp [hs, execRmax]

@[simp] theorem execRmin_canonical (tile : Nat) (s : State) (hs : s.canonical = true) :
    canonicalAfter (execRmin tile s) = some true := by simp [hs, execRmin]

@[simp] theorem execRargmax_canonical (tile : Nat) (s : State) (hs : s.canonical = true) :
    canonicalAfter (execRargmax tile s) = some true := by simp [hs, execRargmax]

@[simp] theorem execRargmin_canonical (tile : Nat) (s : State) (hs : s.canonical = true) :
    canonicalAfter (execRargmin tile s) = some true := by simp [hs, execRargmin]

@[simp] theorem execCopyIn_canonical (tile : Nat) (s : State) (hs : s.canonical = true) :
    canonicalAfter (execCopyIn tile s) = some true := by simp [hs, execCopyIn]

@[simp] theorem execCopyOut_canonical (tile : Nat) (s : State) (hs : s.canonical = true) :
    canonicalAfter (execCopyOut tile s) = some true := by simp [hs, execCopyOut]

@[simp] theorem execCopy_canonical (tile : Nat) (s : State) (hs : s.canonical = true) :
    canonicalAfter (execCopy tile s) = some true := by simp [hs, execCopy]

@[simp] theorem execFill_canonical (tile : Nat) (s : State) (hs : s.canonical = true) :
    canonicalAfter (execFill tile s) = some true := by simp [hs, execFill]

@[simp] theorem execEval_canonical (tile : Nat) (s : State) (hs : s.canonical = true) :
    canonicalAfter (execEval tile s) = some true := by simp [hs, execEval]

@[simp] theorem addActive_canonical (s : State) (t n : Nat) (i : Item) (makeup : Bool) :
    (addActive s t n i makeup).canonical = s.canonical := by
  unfold addActive
  split
  · rfl
  · split <;> simp

@[simp] theorem activeSlots_canonical (s : State) (beats g : Nat) :
    (activeSlots s beats g).2.canonical = s.canonical := by
  unfold activeSlots
  split
  · simp
  · split
    rename_i s1 e2
    have h1 : s1.canonical = s.canonical := canonical_of_snd e2 (by simp)
    simp [h1]

@[simp] theorem countArray_canonical (s : State) (t beats macs : Nat) (packed : Bool) (g : Nat)
    (i : Item) (makeup : Bool) :
    (countArray s t beats macs packed g i makeup).canonical = s.canonical := by
  unfold countArray
  extract_lets +onlyGivenNames s1
  have h1 : s1.canonical = s.canonical := by simp [s1]
  clear_value s1
  split
  rename_i s2 e3
  have h2 : s2.canonical = s.canonical := canonical_of_snd e3 (by simp [h1])
  simp [h2]

@[simp] theorem countPass_canonical (s : State) (t : Nat) (c : EngCmd) :
    (countPass s t c).canonical = s.canonical := by
  unfold countPass
  split
  · split
    · rfl
    · split
      · rfl
      · extract_lets +onlyGivenNames _ _ _ _ _ _ s1
        have h1 : s1.canonical = s.canonical := by simp [s1]
        clear_value s1
        split
        · simp [h1]
        · split
          · extract_lets +onlyGivenNames _
            simp [h1]
          · simp [h1]
  · rfl

@[simp] theorem countMakeup_canonical (s : State) (t : Nat) (c : EngCmd) :
    (countMakeup s t c).canonical = s.canonical := by
  unfold countMakeup
  split
  · rfl
  · split <;> simp

@[simp] theorem beginCmd_canonical (s : State) (t engine : Nat) (c : EngCmd) (e : Effects) :
    (beginCmd s t engine c e).canonical = s.canonical := by simp [beginCmd]

@[simp] theorem startCmd_canonical (s : State) (tile engine : Nat) (c : EngCmd)
    (hs : s.canonical = true) :
    canonicalAfter (startCmd s tile engine c) = some true := by
  unfold startCmd
  have hr := runCommand_canonical s tile (ctxFunc s c.item.ctx) c
  split
  · next e => rw [e, hs] at hr; simpa using hr
  all_goals simp [hs]

@[simp] theorem execEngineCmdStart_canonical (tile engine : Nat) (ecc : EngineEcc) (s : State)
    (hs : s.canonical = true) :
    canonicalAfter (execEngineCmdStart tile engine ecc s) = some true := by
  unfold execEngineCmdStart
  extract_lets +onlyGivenNames _
  (repeat' split) <;> simp +contextual [hs]

@[simp] theorem landWrites_canonical (s : State) (t : Nat) (f : InFlight)
    (hs : s.canonical = true) : (landWrites s t f).canonical = true := by
  unfold landWrites
  extract_lets +onlyGivenNames _
  split
  rename_i s1 e2
  have h1 : s1.canonical = true := canonical_of_snd e2 (by simp [hs])
  extract_lets +onlyGivenNames _ s2
  have h2 : s2.canonical = true := by
    refine modTile_canonical_of h1 t fun x hx => foldl_tile_canonical (fun y w hy => ?_) _ hx
    split <;> simp [hy]
  clear_value s2
  split
  · exact h2
  · refine foldl_canonical_of (fun u w hu => by simp [hu]) _
      (foldl_canonical_of (fun u w hu => ?_) _ h2)
    exact coherentWrite_canonical _ _ _ _ _ (fun u a bs hu => by simp [hu]) hu

@[simp] theorem landSkip_canonical (s : State) (t : Nat) (f : InFlight) :
    (landSkip s t f).canonical = s.canonical := by simp [landSkip]

@[simp] theorem execEngineCmdComplete_canonical (tile engine : Nat) (s : State)
    (hs : s.canonical = true) :
    canonicalAfter (execEngineCmdComplete tile engine s) = some true := by
  unfold execEngineCmdComplete
  extract_lets +onlyGivenNames _
  split
  · simp [hs]
  · split
    · simp [hs]
    · split
      · simp [hs]
      · extract_lets +onlyGivenNames _ s1 s2
        have h2 : s2.canonical = true := by simp [hs, s2, s1]
        clear_value s1 s2
        split
        · simp [h2]
        · extract_lets +onlyGivenNames s3 _
          have h3 : s3.canonical = true := by simp [s3, h2]
          clear_value s3
          split
          · simp [h3]
          · extract_lets +onlyGivenNames s4
            have h4 : s4.canonical = true := by
              unfold s4
              split <;> simp [h3]
            clear_value s4
            simp [h4]

@[simp] theorem execWaitDeadlock_canonical (tile : Nat) (s : State) (hs : s.canonical = true) :
    canonicalAfter (execWaitDeadlock tile s) = some true := by
  unfold execWaitDeadlock
  extract_lets +onlyGivenNames _
  split
  · simp [hs]
  · extract_lets +onlyGivenNames _
    simp [hs]

@[simp] theorem execTeardownComplete_canonical (tile : Nat) (s : State) :
    canonicalAfter (execTeardownComplete tile s) = some s.canonical := by
  simp [execTeardownComplete]

@[simp] theorem execKillDrainDone_canonical (tile : Nat) (s : State) (hs : s.canonical = true) :
    canonicalAfter (execKillDrainDone tile s) = some true := by simp [hs, execKillDrainDone]

@[simp] theorem execTileHalt_canonical (tile : Nat) (value : Bool) (s : State) :
    canonicalAfter (execTileHalt tile value s) = some s.canonical := by simp [execTileHalt]

@[simp] theorem execTileClockStart_canonical (tile : Nat) (s : State) (hs : s.canonical = true) :
    canonicalAfter (execTileClockStart tile s) = some true := by simp [hs, execTileClockStart]

@[simp] theorem execTileClockStop_canonical (tile : Nat) (s : State) :
    canonicalAfter (execTileClockStop tile s) = some s.canonical := by simp [execTileClockStop]

/-! ## `Machine/Power` -/

@[simp] theorem setDomainBit_canonical (s : State) (d : Nat) (on : Bool) :
    (setDomainBit s d on).canonical = s.canonical := by simp [setDomainBit]

@[simp] theorem gateTiles_canonical (s : State) (row : Nat) (hs : s.canonical = true) :
    (gateTiles s row).canonical = true :=
  foldl_canonical_of (fun t i ht =>
    modTile_canonical_of (s := (drawFree t).2) ht i fun x _ => Tile.gated_canonical x _) _ hs

@[simp] theorem powerTiles_canonical (s : State) (row : Nat) :
    (powerTiles s row).canonical = s.canonical := by simp [powerTiles]

@[simp] theorem switchOff_canonical (s : State) (d : Nat) (hs : s.canonical = true) :
    (switchOff s d).canonical = true := by simp [hs, switchOff]

@[simp] theorem switchOn_canonical (s : State) (d : Nat) :
    (switchOn s d).canonical = s.canonical := by simp [switchOn]

@[simp] theorem execRowIdleTimeout_canonical (row : Nat) (s : State) (hs : s.canonical = true) :
    canonicalAfter (execRowIdleTimeout row s) = some true := by simp [hs, execRowIdleTimeout]

@[simp] theorem execPowerDownDone_canonical (domain : Nat) (s : State) :
    canonicalAfter (execPowerDownDone domain s) = some s.canonical := by simp [execPowerDownDone]

@[simp] theorem resumeRow_canonical (s : State) (row : Nat) (hs : s.canonical = true) :
    (resumeRow s row).canonical = true := by
  unfold resumeRow
  refine foldl_canonical_of (fun t x ht => by simp [ht]) _ (settleWork_canonical _ ?_)
  refine foldl_canonical_of (fun t x ht => ?_) _ hs
  split <;> simp [ht]

@[simp] theorem execRowWakeDone_canonical (row : Nat) (s : State) (hs : s.canonical = true) :
    canonicalAfter (execRowWakeDone row s) = some true := by simp [hs, execRowWakeDone]

@[simp] theorem execRePairIdleTimeout_canonical (pair : Nat) (s : State) (hs : s.canonical = true) :
    canonicalAfter (execRePairIdleTimeout pair s) = some true := by simp [hs, execRePairIdleTimeout]

@[simp] theorem execRePairWakeDone_canonical (pair : Nat) (s : State) :
    canonicalAfter (execRePairWakeDone pair s) = some s.canonical := by simp [execRePairWakeDone]

@[simp] theorem startSmoulder_canonical (s : State) :
    (startSmoulder s).canonical = s.canonical := by simp [startSmoulder]

@[simp] theorem execSmoulderIdleTimeout_canonical (s : State) :
    canonicalAfter (execSmoulderIdleTimeout s) = some s.canonical := by
  simp [execSmoulderIdleTimeout]

@[simp] theorem execSmoulderEntry_canonical (s : State) :
    canonicalAfter (execSmoulderEntry s) = some s.canonical := by simp [execSmoulderEntry]

@[simp] theorem execSmoulderEntryDone_canonical (s : State) (hs : s.canonical = true) :
    canonicalAfter (execSmoulderEntryDone s) = some true := by simp +contextual
      [hs, execSmoulderEntryDone]

@[simp] theorem requestStoked_canonical (s : State) :
    (requestStoked s).canonical = s.canonical := by simp [requestStoked]

@[simp] theorem requestSmoulder_canonical (s : State) :
    (requestSmoulder s).canonical = s.canonical := by simp [requestSmoulder]

@[simp] theorem pwrInfo_canonical (s : State) (cause sensor unit : Nat) (temp : ℤ) (reason : Nat) :
    (pwrInfo s cause sensor unit temp reason).canonical = s.canonical := by simp [pwrInfo]

@[simp] theorem requestBanked_canonical (s : State) :
    (requestBanked s).2.canonical = s.canonical := by
  unfold requestBanked
  split <;> simp

@[simp] theorem execPwrReqStoked_canonical (func : Nat) (s : State) :
    canonicalAfter (execPwrReqStoked func s) = some s.canonical := by simp [execPwrReqStoked]

@[simp] theorem execPwrReqSmoulder_canonical (func : Nat) (s : State) :
    canonicalAfter (execPwrReqSmoulder func s) = some s.canonical := by simp [execPwrReqSmoulder]

@[simp] theorem execPwrReqBanked_canonical (func : Nat) (s : State) :
    canonicalAfter (execPwrReqBanked func s) = some s.canonical := by simp [execPwrReqBanked]

@[simp] theorem execBankedEntered_canonical (s : State) (hs : s.canonical = true) :
    canonicalAfter (execBankedEntered s) = some true := by simp +contextual [hs, execBankedEntered]

@[simp] theorem leaveBanked_canonical (s : State) :
    (leaveBanked s).canonical = s.canonical := by simp [leaveBanked]

@[simp] theorem execBankedExit_canonical (byPerst : Bool) (s : State) :
    canonicalAfter (execBankedExit byPerst s) = some s.canonical := by simp [execBankedExit]

@[simp] theorem wakeDomains_canonical (s : State) :
    (wakeDomains s).canonical = s.canonical := by simp [wakeDomains]

@[simp] theorem takeReadings_canonical (s : State) (x : PowerSample) :
    (takeReadings s x).canonical = s.canonical := by simp [takeReadings]

@[simp] theorem stepDown_canonical (s : State) (hot : Option Reading) (above : Bool) :
    (stepDown s hot above).canonical = s.canonical := by
  unfold stepDown
  extract_lets +onlyGivenNames _ _ s1 _ s2
  have h1 : s1.canonical = s.canonical := by simp [s1]
  have h2 : s2.canonical = s.canonical := by simp [s2, h1]
  clear_value s1 s2
  split
  · extract_lets +onlyGivenNames s3 s4
    have h3 : s3.canonical = s.canonical := by simp [s3, h2]
    have h4 : s4.canonical = s.canonical := by simp [s4, h3]
    clear_value s3 s4
    split <;> simp [h4]
  · simp [h2]

@[simp] theorem stepUp_canonical (s : State) :
    (stepUp s).canonical = s.canonical := by simp [stepUp]

@[simp] theorem stepHold_canonical (s : State) (x : PowerSample) :
    (stepHold s x).canonical = s.canonical := by simp [stepHold]

@[simp] theorem throttleEvent_canonical (before : Bool) (s : State) :
    (throttleEvent before s).canonical = s.canonical := by simp [throttleEvent]

@[simp] theorem injectThrottle_canonical (s : State) :
    (injectThrottle s).canonical = s.canonical := by simp [injectThrottle]

@[simp] theorem execPowerSample_canonical (sample : PowerSample) (s : State) :
    canonicalAfter (execPowerSample sample s) = some s.canonical := by simp [execPowerSample]

@[simp] theorem execCriticalLimit_canonical (reading : Reading) (s : State) :
    canonicalAfter (execCriticalLimit reading s) = some s.canonical := by simp [execCriticalLimit]

@[simp] theorem execCriticalHoldEnd_canonical (s : State) :
    canonicalAfter (execCriticalHoldEnd s) = some s.canonical := by simp [execCriticalHoldEnd]

@[simp] theorem execDutyIntervalEnd_canonical (s : State) :
    canonicalAfter (execDutyIntervalEnd s) = some s.canonical := by simp [execDutyIntervalEnd]

@[simp] theorem throttleTick_canonical (s : State) :
    (throttleTick s).canonical = s.canonical := by simp [throttleTick]

/-! ## `Machine/Collector` -/

@[simp] theorem clearBanks_canonical (s : State) (bank : Nat) (all : Bool) :
    (clearBanks s bank all).canonical = s.canonical := by
  unfold clearBanks
  dsimp only
  split
  · rfl
  · rw [count_canonical, canonical_mk, memCanonical_map, canonical_fold]
    intro e
    split <;> rfl

@[simp] theorem execPmcClear_canonical (func bank : Nat) (all : Bool) (s : State) :
    canonicalAfter (execPmcClear func bank all s) = some s.canonical := by simp [execPmcClear]

@[simp] theorem setCollect_canonical (s : State) (value : Bool) :
    (setCollect s value).canonical = s.canonical := by
  unfold setCollect
  (repeat' split) <;> simp

@[simp] theorem execPmcCollect_canonical (func : Nat) (value : Bool) (s : State) :
    canonicalAfter (execPmcCollect func value s) = some s.canonical := by simp [execPmcCollect]

@[simp] theorem emptySnapshots_canonical (s : State) :
    (emptySnapshots s).canonical = s.canonical := by simp [emptySnapshots]

@[simp] theorem execPmcEmpty_canonical (func : Nat) (s : State) :
    canonicalAfter (execPmcEmpty func s) = some s.canonical := by simp [execPmcEmpty]

@[simp] theorem missSnapshot_canonical (s : State) :
    (missSnapshot s).canonical = s.canonical := by simp [missSnapshot]

@[simp] theorem writeSnapshot_canonical (s : State) (hs : s.canonical = true) :
    (writeSnapshot s).canonical = true := by
  unfold writeSnapshot
  extract_lets +onlyGivenNames _ _
  split
  rename_i s1 e2
  have h1 : s1.canonical = true := canonical_of_snd e2 (by simp [hs])
  simp [h1]

@[simp] theorem takeSnapshot_canonical (s : State) (busy : Bool) (hs : s.canonical = true) :
    (takeSnapshot s busy).canonical = true := by simp [hs, takeSnapshot]

@[simp] theorem execPmcSnapshot_canonical (busy : Bool) (s : State) (hs : s.canonical = true) :
    canonicalAfter (execPmcSnapshot busy s) = some true := by simp [hs, execPmcSnapshot]

@[simp] theorem extraSnapshot_canonical (s : State) (busy : Bool) (hs : s.canonical = true) :
    (extraSnapshot s busy).canonical = true := by
  unfold extraSnapshot
  split <;> simp [hs]

@[simp] theorem execPmcSnap_canonical (func : Nat) (busy : Bool) (s : State)
    (hs : s.canonical = true) :
    canonicalAfter (execPmcSnap func busy s) = some true := by simp [hs, execPmcSnap]

@[simp] theorem pmcConfigWrite_canonical (s : State) (r : RegSpec) (idx v mask : Nat) :
    (pmcConfigWrite s r idx v mask).canonical = s.canonical := by simp [pmcConfigWrite]

/-! ## `Machine/FlaskOps` -/

@[simp] theorem flkRegs_canonical (s : State) :
    (flkRegs s).canonical = s.canonical := by simp [flkRegs]

@[simp] theorem dropFlask_canonical (s : State) :
    (dropFlask s).canonical = s.canonical := by simp [dropFlask]

@[simp] theorem sendJoin_canonical (s : State) (r : Nat) :
    (sendJoin s r).canonical = s.canonical := by simp [sendJoin]

@[simp] theorem joinAdvance_canonical (s : State) : (joinAdvance s).canonical = s.canonical := by
  unfold joinAdvance
  extract_lets +onlyGivenNames _ _ _ s1 s2
  have h2 : s2.canonical = s.canonical := by simp [s2, s1]
  clear_value s1 s2
  split
  · split <;> simp [h2]
  · exact h2

@[simp] theorem leaveAdvance_canonical (s : State) : (leaveAdvance s).canonical = s.canonical := by
  unfold leaveAdvance
  split
  · rfl
  · split
    · rfl
    · extract_lets +onlyGivenNames _ s1 s2
      have h1 : s1.canonical = s.canonical := by simp [s1]
      clear_value s1
      have h2 : s2.canonical = s1.canonical := by
        refine foldl_canonical _ (fun t e => ?_) _ _
        extract_lets +onlyGivenNames _ gone
        have hg : gone.canonical = t.canonical := by simp [gone]
        clear_value gone
        split
        · exact hg
        · split
          · next e => exact (openTxn_canonical e).trans hg
          · rfl
      clear_value s2
      split
      · exact h2.trans h1
      · extract_lets +onlyGivenNames s3 s4
        have h3 : s3.canonical = s.canonical := by simp [s3, h2, h1]
        have h4 : s4.canonical = s.canonical := by simp [s4, h3]
        clear_value s3 s4
        split
        · exact h4
        · extract_lets +onlyGivenNames _
          split
          · exact h4
          · extract_lets +onlyGivenNames _ _
            split
            · refine (foldl_canonical _ (fun t r => ?_) _ _).trans h4
              split
              · next e => simp [show _ = t.canonical from openTxn_canonical e]
              · rfl
            · split <;> simp [h4]

@[simp] theorem endFlask_canonical (s : State) : (endFlask s).canonical = s.canonical := by
  unfold endFlask
  split <;> simp

@[simp] theorem learnLost_canonical (s : State) (r : Nat) :
    (learnLost s r).canonical = s.canonical := by simp [learnLost]

@[simp] theorem declareLost_canonical (s : State) (r : Nat) :
    (declareLost s r).canonical = s.canonical := by
  unfold declareLost
  split
  · rfl
  · split
    · simp
    · extract_lets +onlyGivenNames s1
      have h1 : s1.canonical = s.canonical := by simp [s1]
      clear_value s1
      refine (foldl_canonical _ (fun t x2 => ?_) _ _).trans h1
      split
      · rename_i s3 e4
        have h3 : s3.canonical = t.canonical := openTxn_canonical e4
        exact h3
      · rfl

@[simp] theorem retryTxn_canonical (s : State) (key : Nat) :
    (retryTxn s key).canonical = s.canonical := by
  unfold retryTxn
  split <;> simp

/-! ## `Machine/RemoteOps` -/

@[simp] theorem sendRemote_canonical (s : State) (func dest : Nat) (rsp : Bool) (owner : Owner)
    (p : RmPkt) :
    (sendRemote s func dest rsp owner p).canonical = s.canonical := by simp [sendRemote]

@[simp] theorem takeTid_canonical (s : State) (dest tid seq : Nat) :
    (takeTid s dest tid seq).canonical = s.canonical := by simp [takeTid]

@[simp] theorem State.setRemote_canonical (s : State) (seq : Nat) (x : RemoteOp) :
    (s.setRemote seq x).canonical = s.canonical := by simp [State.setRemote]

@[simp] theorem endRemote_canonical (s : State) (seq : Nat) (r : Result) :
    (endRemote s seq r).canonical = s.canonical := by
  unfold endRemote
  split <;> simp

@[simp] theorem failRemote_canonical (s : State) (seq reason : Nat) :
    (failRemote s seq reason).canonical = s.canonical := by simp [failRemote]

@[simp] theorem remoteAcked_canonical (s : State) (seq : Nat) :
    (remoteAcked s seq).canonical = s.canonical := by
  unfold remoteAcked
  split <;> simp

@[simp] theorem askRemote_canonical (s : State) (seq func n : Nat) :
    (askRemote s seq func n).canonical = s.canonical := by
  induction n generalizing s with
  | zero => rfl
  | succ n ih =>
    unfold askRemote
    (repeat' split) <;> simp [ih]

@[simp] theorem finishRead_canonical (s : State) (seq : Nat) (hs : s.canonical = true) :
    (finishRead s seq).canonical = true := by
  unfold finishRead
  (repeat' split) <;> simp [hs]

@[simp] theorem finishReads_canonical (s : State) (hs : s.canonical = true) :
    (finishReads s).canonical = true := by simp +contextual [hs, finishReads]

@[simp] theorem resumeLines_canonical (s : State) (hs : s.canonical = true) :
    (resumeLines s).canonical = true := by simp [hs, resumeLines]

@[simp] theorem sendMcastPkt_canonical (s : State) (func seq : Nat) (m : McastOut) (e : McastEntry)
    (leaf : Option Nat) (p : Nat × List Byte) :
    (sendMcastPkt s func seq m e leaf p).canonical = s.canonical := by
  unfold sendMcastPkt
  extract_lets +onlyGivenNames _ _
  split <;> simp

@[simp] theorem mcastCheck_canonical (s : State) (seq : Nat) :
    (mcastCheck s seq).canonical = s.canonical := by
  unfold mcastCheck
  split <;> simp

@[simp] theorem mcastLeaf_canonical (s : State) (seq ep : Nat) (acked : Bool) :
    (mcastLeaf s seq ep acked).canonical = s.canonical := by
  unfold mcastLeaf
  split
  · rfl
  · split <;> simp

@[simp] theorem takeMcast_canonical (s : State) (p : XlPkt) (hs : s.canonical = true) :
    (takeMcast s p).canonical = true := by simp [hs, takeMcast]

/-! ## `Machine/Transport` -/

@[simp] theorem sendNack_canonical (s : State) (p : XlPkt) (reason : Nat) :
    (sendNack s p reason).canonical = s.canonical := by simp [sendNack]

theorem deliver_canonical {s : State} {p : XlPkt} {u : State} (h : deliver s p = some u)
    (hs : s.canonical = true) :
    u.canonical = true := by
  refine canonical_of_some h ?_
  unfold deliver
  simp [hs]

@[simp] theorem releaseHeld_canonical (s : State) (f : RxFlow) (n : Nat) (hs : s.canonical = true) :
    (releaseHeld s f n).1.canonical = true := by
  induction n generalizing s f with
  | zero => exact hs
  | succ n ih =>
    unfold releaseHeld
    split
    · exact hs
    · dsimp only
      split
      · exact ih _ _ hs
      · split
        · rename_i e
          exact ih _ _ (deliver_canonical e hs)
        · simp [hs]

@[simp] theorem setFlow_canonical (s : State) (key : Nat) (f : RxFlow) :
    (setFlow s key f).canonical = s.canonical := by simp [setFlow]

@[simp] theorem takeData_canonical (s : State) (port : Nat) (p : XlPkt) (hs : s.canonical = true) :
    (takeData s port p).canonical = true := by
  unfold takeData
  extract_lets +onlyGivenNames _
  split
  · simp [hs]
  · extract_lets +onlyGivenNames _
    split
    · simp [hs]
    · extract_lets +onlyGivenNames _
      split
      · split
        · split
          rename_i s1 _ e2
          have h1 : s1.canonical = true := canonical_of_fst e2 (by simp [hs])
          simp [h1]
        · simp [hs]
      · split
        · simp [hs]
        · rename_i s3 e4
          have h3 : s3.canonical = true := deliver_canonical e4 hs
          split
          rename_i s5 _ e6
          have h5 : s5.canonical = true := canonical_of_fst e6 (by simp [h3])
          simp [h5]

@[simp] theorem leaveArrival_canonical (s : State) (port : Nat) (p : XlPkt) :
    (leaveArrival s port p).canonical = s.canonical := by
  unfold leaveArrival
  split <;> simp

@[simp] theorem execData_canonical (port : Nat) (bytes : List Byte) (s : State)
    (hs : s.canonical = true) :
    canonicalAfter (execData port bytes s) = some true := by
  unfold execData
  split
  · simp [hs]
  · simp [hs]
  · split
    · simp [hs]
    · extract_lets +onlyGivenNames s1
      have h1 : s1.canonical = true := by simp [hs, s1]
      clear_value s1
      split
      rename_i s2 e3
      have h2 : s2.canonical = true := canonical_of_snd e3 (by simp [h1])
      simp [h2]

@[simp] theorem execAckSend_canonical (slice : Nat) (s : State) :
    canonicalAfter (execAckSend slice s) = some s.canonical := by simp [execAckSend]

@[simp] theorem execFlowEntryFree_canonical (src tc : Nat) (s : State) :
    canonicalAfter (execFlowEntryFree src tc s) = some s.canonical := by
  unfold execFlowEntryFree
  extract_lets +onlyGivenNames _
  split <;> simp

@[simp] theorem released_canonical (s : State) (x : Sent) (hs : s.canonical = true) :
    (released s x).canonical = true := by
  unfold released
  split <;> simp [hs]

@[simp] theorem failSent_canonical (s : State) (x : Sent) (reason : Nat) (hs : s.canonical = true) :
    (failSent s x reason).canonical = true := by
  unfold failSent
  extract_lets +onlyGivenNames s1 s2
  have h2 : s2.canonical = true := by simp [hs, s2, s1]
  clear_value s1 s2
  split <;> simp [h2]

@[simp] theorem dropSent_canonical (s : State) (key : Nat) (gone : Sent → Bool)
    (tell : State → Sent → State) (htell : ∀ t b, t.canonical = true → (tell t b).canonical = true)
    (hs : s.canonical = true) : (dropSent s key gone tell).canonical = true := by
  unfold dropSent
  split
  · exact hs
  · dsimp only
    split
    · exact hs
    · exact foldl_canonical_of htell _ hs

@[simp] theorem recvControl_canonical (s : State) (p : XlPkt) (kind : Nat) (ok : Bool)
    (f : State → State) (hf : ∀ t, t.canonical = true → (f t).canonical = true)
    (hs : s.canonical = true) : canonicalAfter (recvControl s p kind ok f) = some true := by
  unfold recvControl
  split
  · simp [hs]
  · extract_lets +onlyGivenNames s1 s2
    have h1 : s1.canonical = true := by
      unfold s1
      split <;> simp [hs]
    have h2 : s2.canonical = true := by simp [s2, h1]
    have h3 : (resumeLines (f s2)).canonical = true := by simp [hf, h2]
    clear_value s1 s2
    simp [h2, h3]

@[simp] theorem execAck_canonical (p : XlPkt) (s : State) (hs : s.canonical = true) :
    canonicalAfter (execAck p s) = some true := by
  unfold execAck
  refine recvControl_canonical _ _ _ _ _ (fun t ht => ?_) hs
  split
  · split <;> simp [ht]
  · simp +contextual [ht]

@[simp] theorem execNack_canonical (p : XlPkt) (s : State) (hs : s.canonical = true) :
    canonicalAfter (execNack p s) = some true := by
  unfold execNack
  refine recvControl_canonical _ _ _ _ _ (fun t ht => ?_) hs
  extract_lets +onlyGivenNames s1 _ _ _
  have h1 : s1.canonical = true := by simp [ht, s1]
  clear_value s1
  split <;> simp [h1]

@[simp] theorem execNotice_canonical (p : XlPkt) (s : State) (hs : s.canonical = true) :
    canonicalAfter (execNotice p s) = some true := by
  unfold execNotice
  refine recvControl_canonical _ _ _ _ _ (fun t ht => ?_) hs
  extract_lets +onlyGivenNames _
  split
  · split <;> simp [ht]
  · simp +contextual [ht]

@[simp] theorem execPacketResend_canonical (dest tc seq : Nat) (s : State)
    (hs : s.canonical = true) :
    canonicalAfter (execPacketResend dest tc seq s) = some true := by
  unfold execPacketResend
  extract_lets +onlyGivenNames key
  split
  · simp [hs]
  · have hdrop : ∀ p, (dropSent s key p fun s y => failSent s y 3).canonical = true :=
      fun p => dropSent_canonical _ _ _ _ (fun t b ht => by simp [ht]) hs
    simp [hs, hdrop]

@[simp] theorem execMcastResend_canonical (seq : Nat) (s : State) :
    canonicalAfter (execMcastResend seq s) = some s.canonical := by
  unfold execMcastResend
  split
  · extract_lets +onlyGivenNames _
    split
    · simp
    · split <;> simp
  · simp

@[simp] theorem execProbe_canonical (p : XlPkt) (s : State) (hs : s.canonical = true) :
    canonicalAfter (execProbe p s) = some true := by simp [hs, execProbe]

@[simp] theorem admitCheck_canonical (s : State) (seq : Nat) :
    (admitCheck s seq).canonical = s.canonical := by
  unfold admitCheck
  split <;> simp

@[simp] theorem execConfirm_canonical (p : XlPkt) (s : State) (hs : s.canonical = true) :
    canonicalAfter (execConfirm p s) = some true := by simp [hs, execConfirm]

@[simp] theorem sendProbes_canonical (s : State) (a : Admit) :
    (sendProbes s a).canonical = s.canonical := by simp [sendProbes]

@[simp] theorem execJobAdmitProbeTimer_canonical (seq : Nat) (s : State) :
    canonicalAfter (execJobAdmitProbeTimer seq s) = some s.canonical := by
  unfold execJobAdmitProbeTimer
  split <;> simp

@[simp] theorem execJobAdmitTimeout_canonical (seq : Nat) (s : State) :
    canonicalAfter (execJobAdmitTimeout seq s) = some s.canonical := by
  unfold execJobAdmitTimeout
  split <;> simp

@[simp] theorem fenceFlask_canonical (s : State) : (fenceFlask s).canonical = s.canonical := by
  unfold fenceFlask
  split <;> simp

@[simp] theorem fenceEndpoint_canonical (s : State) (seq : Nat) (hs : s.canonical = true) :
    (fenceEndpoint s seq).canonical = true := by simp [hs, fenceEndpoint]

@[simp] theorem execFenceDrainDone_canonical (s : State) :
    canonicalAfter (execFenceDrainDone s) = some s.canonical := by simp [execFenceDrainDone]

@[simp] theorem execQuarantineEnd_canonical (s : State) :
    canonicalAfter (execQuarantineEnd s) = some s.canonical := by simp [execQuarantineEnd]

/-! ## `Machine/CommandsFabric` -/

@[simp] theorem execEpConfig_canonical (seq : Nat) (s : State) :
    canonicalAfter (execEpConfig seq s) = some s.canonical := by simp [execEpConfig]

@[simp] theorem commitEpConfig_canonical (s : State) (c : OpenCmd) :
    (commitEpConfig s c).canonical = s.canonical := by simp [commitEpConfig]

@[simp] theorem execEpFence_canonical (seq : Nat) (s : State) (hs : s.canonical = true) :
    canonicalAfter (execEpFence seq s) = some true :=
  runCmd_canonical_of _ _ _ _ _ (fun c => settleWork_canonical _ (by simp [hs])) hs

@[simp] theorem execEpEpoch_canonical (seq : Nat) (s : State) :
    canonicalAfter (execEpEpoch seq s) = some s.canonical := by simp [execEpEpoch]

@[simp] theorem commitEpEpoch_canonical (s : State) (c : OpenCmd) :
    (commitEpEpoch s c).canonical = s.canonical := by simp [commitEpEpoch]

@[simp] theorem execJobAdmit_canonical (seq : Nat) (s : State) :
    canonicalAfter (execJobAdmit seq s) = some s.canonical := by simp [execJobAdmit]

@[simp] theorem execMcastSet_canonical (seq : Nat) (s : State) :
    canonicalAfter (execMcastSet seq s) = some s.canonical := by simp [execMcastSet]

@[simp] theorem commitMcastSet_canonical (s : State) (c : OpenCmd) :
    (commitMcastSet s c).canonical = s.canonical := by simp [commitMcastSet]

@[simp] theorem execMcastClear_canonical (seq : Nat) (s : State) :
    canonicalAfter (execMcastClear seq s) = some s.canonical := by simp [execMcastClear]

@[simp] theorem commitMcastClear_canonical (s : State) (c : OpenCmd) :
    (commitMcastClear s c).canonical = s.canonical := by simp [commitMcastClear]

@[simp] theorem withLocal_canonical (s : State) (seq a n : Nat) (go : State → List Byte → State)
    (hgo : ∀ t b, t.canonical = true → (go t b).canonical = true) (hs : s.canonical = true) :
    (withLocal s seq a n go).canonical = true := by
  unfold withLocal
  split <;> simp [hs, hgo]

@[simp] theorem execMcastSend_canonical (seq : Nat) (s : State) (hs : s.canonical = true) :
    canonicalAfter (execMcastSend seq s) = some true := by
  refine runCmd_canonical_of _ _ _ _ _ (fun c => ?_) hs
  extract_lets +onlyGivenNames _ _
  split
  · simp [hs]
  · exact hs
  · exact withLocal_canonical _ _ _ _ _ (fun t b ht => by simp [ht]) hs

@[simp] theorem execRemoteWrite_canonical (seq : Nat) (s : State) (hs : s.canonical = true) :
    canonicalAfter (execRemoteWrite seq s) = some true := by
  refine runCmd_canonical_of _ _ _ _ _ (fun c => ?_) hs
  extract_lets +onlyGivenNames _ _ _ _
  split
  · exact hs
  · exact withLocal_canonical _ _ _ _ _ (fun t b ht => by simp [ht]) hs

@[simp] theorem execRemoteRead_canonical (seq : Nat) (s : State) :
    canonicalAfter (execRemoteRead seq s) = some s.canonical := by simp [execRemoteRead]

@[simp] theorem execRemoteAtomic_canonical (seq : Nat) (s : State) :
    canonicalAfter (execRemoteAtomic seq s) = some s.canonical := by
  unfold execRemoteAtomic
  refine runCmd_canonical _ _ _ _ _ (fun x1 => ?_)
  extract_lets +onlyGivenNames _
  split <;> simp

@[simp] theorem execFlaskJoin_canonical (seq : Nat) (s : State) :
    canonicalAfter (execFlaskJoin seq s) = some s.canonical := by simp [execFlaskJoin]

@[simp] theorem execFlaskLeave_canonical (seq : Nat) (s : State) :
    canonicalAfter (execFlaskLeave seq s) = some s.canonical := by simp [execFlaskLeave]

/-! ## `Machine/FabricRows` -/

@[simp] theorem rmConsume_canonical (s : State) (proto : Nat) (i : RmIn) :
    (rmConsume s proto i).canonical = s.canonical := by simp [rmConsume]

@[simp] theorem recvFlask_canonical (s : State) (i : RmIn) (op : Nat) (f : State → Nat → State)
    (hf : ∀ t b, t.canonical = true → (f t b).canonical = true) (hs : s.canonical = true) :
    canonicalAfter (recvFlask s i op f) = some true := by
  unfold recvFlask
  split
  · simp [hs]
  · extract_lets +onlyGivenNames s1
    have h1 : s1.canonical = true := by simp [hs, s1]
    clear_value s1
    split
    · simp [h1]
    · split
      rename_i s2 e3
      have h2 : s2.canonical = true := canonical_of_snd e3 (by simp [h1])
      have h4 : ∀ r, (resumeLines (f s2 r)).canonical = true := fun r => by simp [hf, h2]
      simp [h2, h4]

@[simp] theorem execJoin_canonical (msg : JoinMsg) (s : State) :
    canonicalAfter (execJoin msg s) = some s.canonical := by
  unfold execJoin
  split
  · simp
  · extract_lets +onlyGivenNames _ _ s1
    have h1 : s1.canonical = s.canonical := by simp [s1]
    clear_value s1
    split <;> simp [h1]

@[simp] theorem execReady_canonical (i : RmIn) (s : State) :
    canonicalAfter (execReady i s) = some s.canonical := by
  unfold execReady
  split
  · simp
  · extract_lets +onlyGivenNames s1
    have h1 : s1.canonical = s.canonical := by simp [s1]
    clear_value s1
    split <;> simp [h1]

@[simp] theorem execAbortJoin_canonical (i : RmIn) (s : State) (hs : s.canonical = true) :
    canonicalAfter (execAbortJoin i s) = some true := by
  unfold execAbortJoin
  split
  · simp [hs]
  · extract_lets +onlyGivenNames s1
    have h1 : s1.canonical = true := by simp [hs, s1]
    clear_value s1
    split <;> simp [h1]

@[simp] theorem execLeave_canonical (i : RmIn) (s : State) (hs : s.canonical = true) :
    canonicalAfter (execLeave i s) = some true := by simp [hs, execLeave]

@[simp] theorem execLost_canonical (i : RmIn) (s : State) (hs : s.canonical = true) :
    canonicalAfter (execLost i s) = some true := by simp [hs, execLost]

@[simp] theorem execFlaskJoinRetry_canonical (s : State) :
    canonicalAfter (execFlaskJoinRetry s) = some s.canonical := by simp [execFlaskJoinRetry]

@[simp] theorem execFlaskJoinTimeout_canonical (s : State) :
    canonicalAfter (execFlaskJoinTimeout s) = some s.canonical := by
  unfold execFlaskJoinTimeout
  split <;> simp

@[simp] theorem homeRequest_canonical (s : State) (i : RmIn) (r : Nat) :
    (homeRequest s i r).canonical = s.canonical := by simp [homeRequest]

@[simp] theorem execGetS_canonical (i : RmIn) (s : State) (hs : s.canonical = true) :
    canonicalAfter (execGetS i s) = some true := by simp [hs, execGetS]

@[simp] theorem execGetM_canonical (i : RmIn) (s : State) (hs : s.canonical = true) :
    canonicalAfter (execGetM i s) = some true := by simp [hs, execGetM]

@[simp] theorem execPutM_canonical (i : RmIn) (s : State) (hs : s.canonical = true) :
    canonicalAfter (execPutM i s) = some true := by simp +contextual [hs, execPutM]

@[simp] theorem giveUp_canonical (s : State) (r line : Nat) :
    (giveUp s r line).canonical = s.canonical := by simp [giveUp]

@[simp] theorem execInv_canonical (i : RmIn) (s : State) (hs : s.canonical = true) :
    canonicalAfter (execInv i s) = some true := by simp [hs, execInv]

@[simp] theorem execRecall_canonical (i : RmIn) (s : State) (hs : s.canonical = true) :
    canonicalAfter (execRecall i s) = some true := by
  unfold execRecall
  refine recvFlask_canonical _ _ _ _ (fun t x1 ht => ?_) hs
  extract_lets +onlyGivenNames s2
  have h2 : s2.canonical = true := by simp [ht, s2]
  clear_value s2
  split
  · simp [h2]
  · split <;> simp [h2]

@[simp] theorem execFlaskData_canonical (i : RmIn) (s : State) (hs : s.canonical = true) :
    canonicalAfter (execFlaskData i s) = some true := by
  unfold execFlaskData
  refine recvFlask_canonical _ _ _ _ (fun t x1 ht => ?_) hs
  extract_lets +onlyGivenNames _
  split <;> simp [ht]

@[simp] theorem execFlaskAck_canonical (i : RmIn) (s : State) (hs : s.canonical = true) :
    canonicalAfter (execFlaskAck i s) = some true := by
  unfold execFlaskAck
  refine recvFlask_canonical _ _ _ _ (fun t x1 ht => ?_) hs
  extract_lets +onlyGivenNames _
  split <;> simp [ht]

@[simp] theorem execFlaskRetry_canonical (rank tid : Nat) (s : State) (hs : s.canonical = true) :
    canonicalAfter (execFlaskRetry rank tid s) = some true := by simp [hs, execFlaskRetry]

@[simp] theorem execFlaskLineDrop_canonical (rank line : Nat) (s : State) :
    canonicalAfter (execFlaskLineDrop rank line s) = some s.canonical := by
  unfold execFlaskLineDrop
  split <;> simp

@[simp] theorem respond_canonical (s : State) (i : RmIn) (op type : Nat) (data : List Byte)
    (slot : Bool) :
    (respond s i op type data slot).canonical = s.canonical := by simp [respond]

@[simp] theorem recvRemote_canonical (s : State) (i : RmIn) (op : Nat) (f : State → State)
    (hf : ∀ t, t.canonical = true → (f t).canonical = true) (hs : s.canonical = true) :
    canonicalAfter (recvRemote s i op f) = some true := by
  unfold recvRemote
  simp [hs, hf]

@[simp] theorem execWrite_canonical (i : RmIn) (s : State) (hs : s.canonical = true) :
    canonicalAfter (execWrite i s) = some true := by
  unfold execWrite
  refine recvRemote_canonical _ _ _ _ (fun t ht => ?_) hs
  extract_lets +onlyGivenNames _
  split
  · simp [ht]
  · split <;> simp +contextual [ht]

theorem slotFor_canonical {s : State} {i : RmIn} {u : State} (h : slotFor s i = some u) :
    u.canonical = s.canonical := by
  refine canonical_of_some h ?_
  unfold slotFor
  simp

@[simp] theorem refuseSlot_canonical (s : State) (i : RmIn) :
    (refuseSlot s i).canonical = s.canonical := by simp [refuseSlot]

@[simp] theorem execRead_canonical (i : RmIn) (s : State) (hs : s.canonical = true) :
    canonicalAfter (execRead i s) = some true := by
  unfold execRead
  refine recvRemote_canonical _ _ _ _ (fun t ht => ?_) hs
  extract_lets +onlyGivenNames _
  split
  · split
    · simp [ht]
    · rename_i s1 e2
      have h1 : s1.canonical = true := (slotFor_canonical e2).trans ht
      simp [h1]
  · split
    · split
      · simp [ht]
      · rename_i s3 e4
        have h3 : s3.canonical = true := (slotFor_canonical e4).trans ht
        simp [h3]
    · simp [ht]
    · simp [ht]
    · split
      · simp [ht]
      · rename_i s5 e6
        have h5 : s5.canonical = true := (slotFor_canonical e6).trans ht
        simp [h5]
    · exact ht

@[simp] theorem execAtomic_canonical (i : RmIn) (s : State) (hs : s.canonical = true) :
    canonicalAfter (execAtomic i s) = some true := by
  unfold execAtomic
  refine recvRemote_canonical _ _ _ _ (fun t ht => ?_) hs
  extract_lets +onlyGivenNames _ _
  split
  · split
    · simp [ht]
    · rename_i s1 e2
      have h1 : s1.canonical = true := (slotFor_canonical e2).trans ht
      simp [h1]
  · split
    · simp [ht]
    · simp [ht]
    · simp [ht]
    · split
      · simp [ht]
      · rename_i s3 e4
        have h3 : s3.canonical = true := (slotFor_canonical e4).trans ht
        simp [h3]
    · split
      · simp [ht]
      · rename_i s5 e6
        have h5 : s5.canonical = true := (slotFor_canonical e6).trans ht
        simp +contextual [h5]
    · exact ht

@[simp] theorem execReadData_canonical (i : RmIn) (s : State) (hs : s.canonical = true) :
    canonicalAfter (execReadData i s) = some true := by
  unfold execReadData
  refine recvRemote_canonical _ _ _ _ (fun t ht => ?_) hs
  extract_lets +onlyGivenNames s1
  have h1 : s1.canonical = true := by simp [ht, s1]
  clear_value s1
  split
  · exact h1
  · split
    · simp [h1]
    · split
      · exact h1
      · extract_lets +onlyGivenNames _ _ s2 _
        have h2 : s2.canonical = true := by simp [s2, h1]
        clear_value s2
        simp [h2]

@[simp] theorem execAtomicResult_canonical (i : RmIn) (s : State) (hs : s.canonical = true) :
    canonicalAfter (execAtomicResult i s) = some true := by
  unfold execAtomicResult
  refine recvRemote_canonical _ _ _ _ (fun t ht => ?_) hs
  extract_lets +onlyGivenNames s1
  have h1 : s1.canonical = true := by simp [ht, s1]
  clear_value s1
  split <;> simp [h1]

/-! ## `Machine/CommandsWsp` -/

@[simp] theorem execPageMap_canonical (seq : Nat) (s : State) :
    canonicalAfter (execPageMap seq s) = some s.canonical := by
  unfold execPageMap
  simp

@[simp] theorem mapPage_canonical (p : Packet) (s : State) (q : Nat) (hs : s.canonical = true) :
    (mapPage p s q).canonical = true := by
  unfold mapPage
  extract_lets +onlyGivenNames _ _ _ s1 s2 s3
  have h1 : s1.canonical = true :=
    memCanonical_of (clearRange_wf _ _ (dram_wf hs)) (clearRange_wf _ _ (nand_wf hs))
      (tiles_canonical hs :)
  clear_value s1
  have h2 : s2.canonical = s1.canonical := by
    unfold s2
    split
    · rfl
    · exact getD_canonical _ _ fun t e => placePrimary_canonical e
  clear_value s2
  have h3 : s3.canonical = s2.canonical := by
    unfold s3
    split
    · rfl
    · exact getD_canonical _ _ fun t e => takeSlot_canonical e
  simp [h3, h2, h1]

@[simp] theorem commitPageMap_canonical (s : State) (c : OpenCmd) (hs : s.canonical = true) :
    (commitPageMap s c).canonical = true := by simp +contextual [hs, commitPageMap]

@[simp] theorem execPageUnmap_canonical (seq : Nat) (s : State) :
    canonicalAfter (execPageUnmap seq s) = some s.canonical := by
  unfold execPageUnmap
  simp

@[simp] theorem unmapPage_canonical (s : State) (q : Nat) (hs : s.canonical = true) :
    (unmapPage s q).canonical = true := by
  have h : (dropSlot (dropCopies s q) q).canonical = true := by simp [hs]
  refine (mapPersist_canonical _ q).trans ?_
  exact memCanonical_of (tiles := State.tiles (dropSlot (dropCopies s q) q))
    (clearRange_wf _ _ (dram_wf h)) (clearRange_wf _ _ (nand_wf h)) (tiles_canonical h)

@[simp] theorem commitPageUnmap_canonical (s : State) (c : OpenCmd) (hs : s.canonical = true) :
    (commitPageUnmap s c).canonical = true := by simp +contextual [hs, commitPageUnmap]

@[simp] theorem execMigrate_canonical (seq : Nat) (s : State) :
    canonicalAfter (execMigrate seq s) = some s.canonical := by
  unfold execMigrate
  simp

@[simp] theorem dropReplica_canonical (s : State) (q : Nat) :
    (dropReplica s q).canonical = s.canonical := by
  unfold dropReplica
  split <;> simp

@[simp] theorem commitMigrate_canonical (s : State) (c : OpenCmd) :
    (commitMigrate s c).canonical = s.canonical := by simp [commitMigrate]

@[simp] theorem execPageWrite_canonical (seq : Nat) (s : State) :
    canonicalAfter (execPageWrite seq s) = some s.canonical := by simp [execPageWrite]

@[simp] theorem finishPageWrite_canonical (s : State) (seq : Nat) (c : OpenCmd)
    (hs : s.canonical = true) :
    (finishPageWrite s seq c).canonical = true := by
  unfold finishPageWrite
  extract_lets +onlyGivenNames _ _
  split <;> simp [hs]

@[simp] theorem execPageRead_canonical (seq : Nat) (s : State) :
    canonicalAfter (execPageRead seq s) = some s.canonical := by simp [execPageRead]

@[simp] theorem finishPageRead_canonical (s : State) (seq : Nat) (c : OpenCmd) :
    (finishPageRead s seq c).canonical = s.canonical := by
  unfold finishPageRead
  extract_lets +onlyGivenNames _ _ _
  split <;> simp

@[simp] theorem execPourSet_canonical (seq : Nat) (s : State) :
    canonicalAfter (execPourSet seq s) = some s.canonical := by simp [execPourSet]

@[simp] theorem clearTags_canonical (s : State) (m : Nat) :
    (clearTags s m).canonical = s.canonical := by simp [clearTags]

@[simp] theorem applyEntry_canonical (m : Nat) (s : State) (e : PourEntry) :
    (applyEntry m s e).canonical = s.canonical := by
  unfold applyEntry
  split <;> simp

@[simp] theorem queuePins_canonical (s : State) (ps : List Nat) :
    (queuePins s ps).canonical = s.canonical := by
  unfold queuePins
  refine foldl_canonical _ (fun t x1 => ?_) _ _
  split <;> simp

@[simp] theorem commitPourSet_canonical (s : State) (c : OpenCmd) :
    (commitPourSet s c).canonical = s.canonical := by simp [commitPourSet]

@[simp] theorem execPourClear_canonical (seq : Nat) (s : State) :
    canonicalAfter (execPourClear seq s) = some s.canonical := by simp [execPourClear]

@[simp] theorem commitPourClear_canonical (s : State) (c : OpenCmd) :
    (commitPourClear s c).canonical = s.canonical := by simp [commitPourClear]

@[simp] theorem execPageFetchDone_canonical (page : Nat) (read : NandRead) (s : State)
    (hs : s.canonical = true) :
    canonicalAfter (execPageFetchDone page read s) = some true := by
  unfold execPageFetchDone
  refine settledOut_canonical ?_
  split
  · extract_lets +onlyGivenNames f1
    have h1 : ∀ t, (f1 t).canonical = t.canonical := fun t => (rfl)
    clear_value f1
    split
    · simp [hs, h1]
    · split
      · simp [hs, h1]
      · split
        · simp [hs]
        · rename_i s2 e3
          have h2 : s2.canonical = true := (placeFetch_canonical e3).trans hs
          extract_lets +onlyGivenNames s3 _ s4 s5
          have h3 : s3.canonical = true := by simp [s3, h1, h2]
          have h4 : s4.canonical = true :=
            memCanonical_dram h3 (copyRange_wf _ _ (nand_wf h3) (dram_wf h3))
          clear_value s3 s4
          simp [s5, h4]
  · simp [hs]

@[simp] theorem writeBack_canonical (s : State) (q : Nat) (hs : s.canonical = true) :
    (writeBack s q).canonical = true := by
  unfold writeBack
  rw [count_canonical, State.modPage_canonical]
  exact memCanonical_nand hs (copyRange_wf _ _ (dram_wf hs) (nand_wf hs))

theorem reachTier_canonical {s : State} {q t pref : Nat} {read : NandRead} {u : State}
    (h : reachTier s q t pref read = some u) (hs : s.canonical = true) :
    u.canonical = true := by
  unfold reachTier at h
  split at h
  · cases h; exact hs
  · extract_lets +onlyGivenNames s1 up at h
    have h1 : s1.canonical = true := by simp [hs, s1]
    clear_value s1
    have hup : ∀ v, up = some v → v.canonical = true := by
      intro v e
      unfold up at e
      split at e
      · obtain ⟨r, hr, rfl⟩ := Option.map_eq_some_iff.mp e
        simp [h1, takeSlot_canonical hr]
      · split at e
        · obtain ⟨r, hr, rfl⟩ := Option.map_eq_some_iff.mp e
          have h2 : r.canonical = true := (placeFetch_canonical hr).trans h1
          have h3 := memCanonical_dram h2
            (copyRange_wf (q * pageBytes) pageBytes (nand_wf h2) (dram_wf h2))
          simp [h3]
        · split at e <;> cases e <;> simp [h1]
    clear_value up
    obtain ⟨v, hv, rfl⟩ := Option.map_eq_some_iff.mp h
    extract_lets +onlyGivenNames s2
    have h2 : s2.canonical = true := by simp [s2, hup v hv]
    clear_value s2
    split
    · simp [h2]
    · split
      · extract_lets +onlyGivenNames _ s3
        have h3 : s3.canonical = true := by
          unfold s3
          split <;> exact h2
        clear_value s3
        exact memCanonical_nand h3 (clearRange_wf _ _ (nand_wf h3))
      · exact h2

@[simp] theorem movePref_canonical (s : State) (q pref : Nat) :
    (movePref s q pref).canonical = s.canonical := by
  unfold movePref
  (repeat' split) <;> simp

@[simp] theorem failMigrate_canonical (s : State) (seq q : Nat) :
    (failMigrate s seq q).canonical = s.canonical := by simp [failMigrate]

@[simp] theorem execPageMoveDone_canonical (page : Nat) (kind : MoveDone) (s : State)
    (hs : s.canonical = true) :
    canonicalAfter (execPageMoveDone page kind s) = some true := by
  unfold execPageMoveDone
  refine settledOut_canonical ?_
  split
  · simp [hs]
  · split
    · simp [hs]
    · split
      · simp [hs]
      · split
        · simp [hs]
        · split
          · simp [hs]
          · extract_lets +onlyGivenNames _
            split
            · simp [hs]
            · rename_i s1 e2
              have h1 : s1.canonical = true := reachTier_canonical e2 hs
              simp [h1]
  · simp [hs]

@[simp] theorem finishMigrate_canonical (s : State) (seq : Nat) :
    (finishMigrate s seq).canonical = s.canonical := by
  unfold finishMigrate
  (repeat' split) <;> simp

@[simp] theorem execStackFailure_canonical (stack : Nat) (s : State) (hs : s.canonical = true) :
    canonicalAfter (execStackFailure stack s) = some true := by simp [hs, execStackFailure]

@[simp] theorem execPatrolScrub_canonical (stack frame : Nat) (result : ScrubResult) (s : State)
    (hs : s.canonical = true) :
    canonicalAfter (execPatrolScrub stack frame result s) = some true := by
  unfold execPatrolScrub
  refine settledOut_canonical ?_
  split
  · simp [hs]
  · split
    · simp [hs]
    · split
      · simp [hs]
      · extract_lets +onlyGivenNames s1 s2 s3
        have h1 : s1.canonical = true := foldl_canonical_of (fun t x ht => by simp [ht]) _ hs
        have h2 : s2.canonical = true := by
          unfold s2
          split <;> simp [h1]
        have h3 : s3.canonical = true := by simp [s3, h2]
        clear_value s1 s2 s3
        simp [h3]

@[simp] theorem countMoved_canonical (s : State) (blocks units : Nat) :
    (countMoved s blocks units).canonical = s.canonical := by simp [countMoved]

@[simp] theorem failChannel_canonical (s : State) (channel : Nat) :
    (failChannel s channel).canonical = s.canonical := by simp [failChannel]

@[simp] theorem losePatrolled_canonical (s : State) (q : Nat) (hs : s.canonical = true) :
    (losePatrolled s q).canonical = true := by
  unfold losePatrolled
  split
  · exact hs
  · split
    · exact hs
    · split
      · rw [count_canonical]
        exact memCanonical_nand hs (copyRange_wf _ _ (dram_wf hs) (nand_wf hs))
      · simp [hs]

@[simp] theorem nandPatrol_canonical (s : State) (r : NandRead) (u n : Nat) (pages : List Nat)
    (hs : s.canonical = true) :
    (nandPatrol s r u n pages).canonical = true := by
  unfold nandPatrol
  extract_lets +onlyGivenNames _ s1
  have h1 : s1.canonical = true := by simp [s1, hs]
  clear_value s1
  split
  · exact foldl_canonical_of (fun t x ht => by simp [ht]) _ h1
  · exact h1

@[simp] theorem programFail_canonical (s : State) (ch : Nat) (low : Bool) :
    (programFail s ch low).canonical = s.canonical := by simp [programFail]

@[simp] theorem execNandUpkeep_canonical (action : Upkeep) (s : State) (hs : s.canonical = true) :
    canonicalAfter (execNandUpkeep action s) = some true := by
  unfold execNandUpkeep
  split
  · simp [hs]
  · split <;> simp [hs]

@[simp] theorem execNandChannelFail_canonical (channel : Nat) (s : State) :
    canonicalAfter (execNandChannelFail channel s) = some s.canonical := by
  simp [execNandChannelFail]

@[simp] theorem bar2Errors_canonical (s : State) (f o n : Nat) (write : Bool) :
    (bar2Errors s f o n write).canonical = s.canonical := by
  unfold bar2Errors
  refine foldl_canonical _ (fun t x1 => ?_) _ _
  split <;> simp

@[simp] theorem execBar2Read_canonical (func offset len : Nat) (s : State) :
    canonicalAfter (execBar2Read func offset len s) = some s.canonical := by
  unfold execBar2Read
  extract_lets +onlyGivenNames s1
  have h1 : s1.canonical = s.canonical := by simp [s1]
  clear_value s1
  split
  · simp [h1]
  · extract_lets +onlyGivenNames _ s2 s3
    have h3 : s3.canonical = s.canonical := by simp [s3, s2, h1]
    clear_value s2 s3
    split
    · simp [h3]
    · split <;> simp [h3]

@[simp] theorem bar2Put_canonical (s : State) (a : Nat) (b : Byte) (hs : s.canonical = true) :
    (bar2Put s a b).canonical = true := by
  unfold bar2Put
  extract_lets +onlyGivenNames _
  have hput :
    ({ s with wsp := { s.wsp with dram := writeByte a b s.wsp.dram } } : State).canonical =
      true := memCanonical_dram hs (writeByte_wf a b (dram_wf hs))
  (repeat' split) <;> simp only [hs, hput, wspStore_canonical]

@[simp] theorem bar2Store_canonical (s : State) (f o : Nat) (bs : List Byte)
    (hs : s.canonical = true) :
    (bar2Store s f o bs).canonical = true := by
  induction bs generalizing s o with
  | nil => exact hs
  | cons b bs ih =>
    refine ih _ _ ?_
    split <;> simp [hs]

@[simp] theorem poisonedWrite_canonical (s : State) (func : Nat) :
    (poisonedWrite s func).canonical = s.canonical := by simp [poisonedWrite]

@[simp] theorem execBar2Write_canonical (func offset : Nat) (data : HostData) (s : State)
    (hs : s.canonical = true) :
    canonicalAfter (execBar2Write func offset data s) = some true := by
  unfold execBar2Write
  extract_lets +onlyGivenNames s1 _
  have h1 : s1.canonical = true := by simp [hs, s1]
  clear_value s1
  split
  · simp [h1]
  · split
    · simp [h1]
    · extract_lets +onlyGivenNames s2
      have h2 : s2.canonical = true := by simp [s2, h1]
      clear_value s2
      split <;> simp [h2]

/-! ## `Machine/CommandsProg` -/

@[simp] theorem beginPack_canonical (s : State) (seq : Nat) (c : OpenCmd) :
    (beginPack s seq c).canonical = s.canonical := by
  unfold beginPack
  split <;> simp

@[simp] theorem execPack24_canonical (seq : Nat) (s : State) :
    canonicalAfter (execPack24 seq s) = some s.canonical := by simp [execPack24]

@[simp] theorem execShadowBuild_canonical (seq : Nat) (s : State) :
    canonicalAfter (execShadowBuild seq s) = some s.canonical := by simp [execShadowBuild]

@[simp] theorem finishPack_canonical (s : State) (seq : Nat) (c : OpenCmd) :
    (finishPack s seq c).canonical = s.canonical := by
  unfold finishPack
  extract_lets +onlyGivenNames _ d1
  clear_value d1
  split <;> simp

@[simp] theorem holdTiles_canonical (s : State) (seq : Nat) (ts : List Nat) :
    (holdTiles s seq ts).canonical = s.canonical := by simp [holdTiles]

@[simp] theorem loadAccepted_canonical (s : State) (seq : Nat) :
    (loadAccepted s seq).canonical = s.canonical := by
  unfold loadAccepted
  split <;> simp

@[simp] theorem freeTiles_canonical (s : State) (seq : Nat) (ts : List Nat) :
    (freeTiles s seq ts).canonical = s.canonical := by simp [freeTiles]

@[simp] theorem loadRead_canonical (s : State) (seq : Nat) :
    (loadRead s seq).canonical = s.canonical := by
  unfold loadRead
  split <;> simp

@[simp] theorem execLoad_canonical (seq : Nat) (s : State) :
    canonicalAfter (execLoad seq s) = some s.canonical := by
  unfold execLoad
  split
  · simp
  · extract_lets +onlyGivenNames _
    split <;> simp

@[simp] theorem unlockLoad_canonical (s : State) (seq : Nat) :
    (unlockLoad s seq).canonical = s.canonical := by simp [unlockLoad]

@[simp] theorem finishLoad_canonical (s : State) (seq : Nat) (c : OpenCmd) (failed : Bool) :
    (finishLoad s seq c failed).canonical = s.canonical := by simp [finishLoad]

@[simp] theorem commitLoad_canonical (s : State) (seq : Nat) (c : OpenCmd)
    (hs : s.canonical = true) :
    (commitLoad s seq c).canonical = true := by
  unfold commitLoad
  extract_lets +onlyGivenNames _ _ s1 s2 s3
  have h2 : s2.canonical = true := by simp [s2, s1, hs]
  have h3 : s3.canonical = true := by simp [s3, h2]
  clear_value s1 s2 s3
  exact settleWork_canonical _ (by simp [h3])

@[simp] theorem execUnstage_canonical (seq : Nat) (s : State) :
    canonicalAfter (execUnstage seq s) = some s.canonical := by simp [execUnstage]

@[simp] theorem commitUnstage_canonical (s : State) (c : OpenCmd) :
    (commitUnstage s c).canonical = s.canonical := by simp [commitUnstage]

@[simp] theorem execTileTest_canonical (seq : Nat) (s : State) :
    canonicalAfter (execTileTest seq s) = some s.canonical := by simp [execTileTest]

@[simp] theorem finishTileTest_canonical (s : State) (seq : Nat) (c : OpenCmd) (failed : Bool) :
    (finishTileTest s seq c failed).canonical = s.canonical := by
  unfold finishTileTest
  extract_lets +onlyGivenNames _
  split
  · split
    rename_i s1 e2
    have h1 : s1.canonical = s.canonical := canonical_of_snd e2 (by simp)
    simp [h1]
  · simp

@[simp] theorem execStageDone_canonical (tile : Nat) (s : State) (hs : s.canonical = true) :
    canonicalAfter (execStageDone tile s) = some true := by
  unfold execStageDone
  split
  · extract_lets +onlyGivenNames _
    split
    · simp [hs]
    · split
      · simp [hs]
      · simp [hs]
      · split
        · simp [hs]
        · extract_lets +onlyGivenNames s1 _
          have h1 : s1.canonical = true :=
            modTile_canonical_of (by simp [hs]) _ fun x hx => Tile.writeSpad_canonical hx _ _
          clear_value s1
          simp [h1]
  · simp [hs]

/-! ## `Machine/Durable` -/

@[simp] theorem modeSwitch_canonical (s : State) (seq : Nat) (x : LStep) (toEc : Bool) :
    (modeSwitch s seq x toEc).canonical = s.canonical := by simp [modeSwitch]

@[simp] theorem commitStep_canonical (s : State) (seq : Nat) :
    (commitStep s seq).canonical = s.canonical := by
  unfold commitStep
  split
  · rfl
  · extract_lets +onlyGivenNames _ s1 _ _ s2 s3
    have h1 : s1.canonical = s.canonical := by simp [s1]
    have h2 : s2.canonical = s.canonical := by
      unfold s2
      split
      · exact h1
      · split <;> simp [h1]
    have h3 : s3.canonical = s.canonical := by simp [s3, h2]
    clear_value s1 s2 s3
    simp [h3]

@[simp] theorem commitCancel_canonical (s : State) (seq : Nat) (c : OpenCmd)
    (hs : s.canonical = true) :
    (commitCancel s seq c).canonical = true := by
  unfold commitCancel
  exact foldl_canonical_of (fun t x ht => by simp [ht]) _ (by simp [hs])

@[simp] theorem commitOp_canonical (s : State) (seq : Nat) (c : OpenCmd) (hs : s.canonical = true) :
    (commitOp s seq c).canonical = true := by simp [hs, commitOp]

@[simp] theorem nextStep_canonical (s : State) (ctx st : Nat) (hs : s.canonical = true) :
    (nextStep s ctx st).canonical = true := by
  unfold nextStep
  split <;> simp [hs]

@[simp] theorem settleStream_canonical (s : State) (x : Nat × Nat × Stream)
    (hs : s.canonical = true) :
    (settleStream s x).canonical = true := by
  unfold settleStream
  extract_lets +onlyGivenNames _ d1
  clear_value d1
  split <;> simp [hs]

@[simp] theorem settleStreams_canonical (s : State) (hs : s.canonical = true) :
    (settleStreams s).canonical = true := by simp +contextual [hs, settleStreams]

@[simp] theorem commitCmd_canonical (s : State) (seq : Nat) (c : OpenCmd)
    (hs : s.canonical = true) :
    (commitCmd s seq c).canonical = true := by
  unfold commitCmd
  extract_lets +onlyGivenNames s1 s2 _ s3 s4 _ _ _ s5
  have h1 : s1.canonical = true := by simp [s1, hs]
  have h2 : s2.canonical = true := by simp [s2, h1]
  have h3 : s3.canonical = true := by
    unfold s3
    split
    · simp [h1]
    · exact h2
  have h5 : s5.canonical = true := by simp [s5, s4, h3]
  clear_value s1 s2 s3 s4 s5
  simp [h5]

@[simp] theorem entryDurable_canonical (s : State) (e : JEntry) (hs : s.canonical = true) :
    (entryDurable s e).canonical = true := by
  unfold entryDurable
  split
  · simp [hs]
  · (repeat' split) <;> simp [hs]

@[simp] theorem oldestDurable_canonical (s : State) (hs : s.canonical = true) :
    (oldestDurable s).canonical = true := by
  unfold oldestDurable
  split
  · exact hs
  · extract_lets +onlyGivenNames _ _ s1
    have h1 : s1.canonical = true := by simp [hs, s1]
    clear_value s1
    split <;> simp [h1]

@[simp] theorem entriesDurable_canonical (n : Nat) (s : State) (hs : s.canonical = true) :
    (entriesDurable n s).canonical = true := by
  induction n generalizing s with
  | zero => exact hs
  | succ n ih => exact ih _ (by simp [hs])

@[simp] theorem faultUnread_canonical (s : State) (hs : s.canonical = true) :
    (faultUnread s).canonical = true := by simp +contextual [hs, faultUnread]

@[simp] theorem execJournalEntryDurable_canonical (retries : Nat) (oneCopy : Bool) (s : State)
    (hs : s.canonical = true) :
    canonicalAfter (execJournalEntryDurable retries oneCopy s) = some true := by
  unfold execJournalEntryDurable
  split
  · simp [hs]
  · split
    rename_i s1 e2
    have h1 : s1.canonical = true := canonical_of_snd e2 (by simp [hs])
    extract_lets +onlyGivenNames _ s2 _ _ _ s3 s4
    have h2 : s2.canonical = true := by simp [s2, h1]
    have h4 : s4.canonical = true := by simp [s4, s3, h2]
    clear_value s2 s3 s4
    have h5 : (faultUnread (oldestDurable s4)).canonical = true := by simp [h4]
    simp [h5]

@[simp] theorem execCommandWorkDone_canonical (seq : Nat) (failed : Bool) (s : State)
    (hs : s.canonical = true) :
    canonicalAfter (execCommandWorkDone seq failed s) = some true := by
  unfold execCommandWorkDone
  split <;> simp [hs]

@[simp] theorem rewriteReplies_canonical (s : State) :
    (rewriteReplies s).canonical = s.canonical := by
  unfold rewriteReplies
  refine foldl_canonical _ (fun t x1 => ?_) _ _
  extract_lets +onlyGivenNames _ _ _ _ _
  split
  · rfl
  · extract_lets +onlyGivenNames _ _ s2
    have h2 : s2.canonical = t.canonical := by simp [s2]
    clear_value s2
    simp [h2]

@[simp] theorem rerunHeld_canonical (s : State) (e : Nat × OpenCmd) (hs : s.canonical = true) :
    (rerunHeld s e).canonical = true := by
  unfold rerunHeld
  extract_lets +onlyGivenNames _ _ _
  (repeat' split) <;> simp [hs]

@[simp] theorem failover_canonical (s : State) (hs : s.canonical = true) :
    (failover s).canonical = true := by
  unfold failover
  extract_lets +onlyGivenNames _
  split
  · exact hs
  · split
    · simp [hs]
    · extract_lets +onlyGivenNames _ s1 s2 s3 s4 _ s5 s6
      have h2 : s2.canonical = true := by simp [s2, s1, hs]
      have h3 : s3.canonical = true := by simp [s3, h2]
      have h4 : s4.canonical = true := foldl_canonical_of (fun t x ht => by simp [ht]) _ h3
      have h6 : s6.canonical = true := by simp [s6, s5, h4]
      clear_value s1 s2 s3 s4 s5 s6
      simp [h6]

@[simp] theorem execHeartbeat_canonical (s : State) :
    canonicalAfter (execHeartbeat s) = some s.canonical := by simp [execHeartbeat]

@[simp] theorem execHeartbeatTimeout_canonical (s : State) (hs : s.canonical = true) :
    canonicalAfter (execHeartbeatTimeout s) = some true := by simp [hs, execHeartbeatTimeout]

@[simp] theorem execCoreErrorReport_canonical (s : State) (hs : s.canonical = true) :
    canonicalAfter (execCoreErrorReport s) = some true := by simp [hs, execCoreErrorReport]

@[simp] theorem execStandbySelfTestDone_canonical (passed : Bool) (s : State) :
    canonicalAfter (execStandbySelfTestDone passed s) = some s.canonical := by
  simp [execStandbySelfTestDone]

/-! ## `Machine/CommandProc` -/

@[simp] theorem cpErr_canonical (s : State) (ref : FieldRef) (f q value : Nat) :
    (cpErr s ref f q value).canonical = s.canonical := by simp [cpErr]

@[simp] theorem sqTail_canonical (s : State) (func queue value : Nat) :
    (sqTail s func queue value).canonical = s.canonical := by
  unfold sqTail
  split <;> simp

theorem refusePacket_canonical {s : State} {f q slot cq : Nat} {p : Packet} {why : Nat × Nat}
    {gone : Bool} {u : State} (h : refusePacket s f q slot cq p why gone = some u) :
    u.canonical = s.canonical := by
  refine canonical_of_some h ?_
  unfold refusePacket
  (repeat' split) <;> simp

@[simp] theorem refuseHeld_canonical (s : State) (f q : Nat) :
    (refuseHeld s f q).canonical = s.canonical := by
  unfold refuseHeld
  split
  · rfl
  · split
    · rfl
    · split
      · rfl
      · exact getD_canonical _ _ fun t e => (refusePacket_canonical e).trans (by simp)

@[simp] theorem dropOrphan_canonical (s : State) (o : Orphan) :
    (dropOrphan s o).canonical = s.canonical := by simp [dropOrphan]

@[simp] theorem refuseOrphan_canonical (s : State) (o : Orphan) :
    (refuseOrphan s o).canonical = s.canonical := by
  unfold refuseOrphan
  split
  · rfl
  · exact getD_canonical _ _ fun t e => (refusePacket_canonical e).trans (by simp)

@[simp] theorem serveRefusals_canonical (s : State) (f q : Nat) :
    (serveRefusals s f q).canonical = s.canonical := by simp [serveRefusals]

@[simp] theorem returnGroupEntries_canonical (s : State) (f q value : Nat) (c : Cq) :
    (returnGroupEntries s f q value c).canonical = s.canonical := by simp [returnGroupEntries]

@[simp] theorem cqHead_canonical (s : State) (func queue value : Nat) :
    (cqHead s func queue value).canonical = s.canonical := by
  unfold cqHead
  split <;> simp

@[simp] theorem bar4Write_canonical (s : State) (func off value : Nat) :
    (bar4Write s func off value).canonical = s.canonical := by simp [bar4Write]

@[simp] theorem execSqDoorbell_canonical (func queue value : Nat) (s : State) :
    canonicalAfter (execSqDoorbell func queue value s) = some s.canonical := by
  simp [execSqDoorbell]

@[simp] theorem execCqDoorbell_canonical (func queue value : Nat) (s : State) :
    canonicalAfter (execCqDoorbell func queue value s) = some s.canonical := by
  simp [execCqDoorbell]

@[simp] theorem fetchOne_canonical (s : State) (r : FetchRead) :
    (fetchOne s r).canonical = s.canonical := by
  unfold fetchOne
  split <;> simp

@[simp] theorem noteStall_canonical (s : State) :
    (noteStall s).canonical = s.canonical := by simp [noteStall]

@[simp] theorem execCommandFetch_canonical (reads : List FetchRead) (s : State) :
    canonicalAfter (execCommandFetch reads s) = some s.canonical := by simp [execCommandFetch]

theorem admitPacket_canonical {s : State} {func queue slot cq : Nat} {p : Packet} {u : State}
    (h : admitPacket s func queue slot cq p = some u) :
    u.canonical = s.canonical := by
  refine canonical_of_some h ?_
  unfold admitPacket
  split
  · simp
  · (repeat' split) <;> simp

@[simp] theorem takeOrphan_canonical (s : State) (o : Orphan) :
    (takeOrphan s o).canonical = s.canonical := by
  unfold takeOrphan
  split
  · simp
  · split
    · rfl
    · rename_i s1 e2
      have h1 : s1.canonical = s.canonical := (admitPacket_canonical e2).trans (by simp)
      simp [h1]

@[simp] theorem execAccept_canonical (func queue : Nat) (s : State) :
    canonicalAfter (execAccept func queue s) = some s.canonical := by
  unfold execAccept
  split
  · simp
  · simp
  · split
    · simp
    · split
      · simp
      · exact canonicalAfter_next_eq
          (getD_canonical _ _ fun t e => (admitPacket_canonical e).trans (by simp))

@[simp] theorem execPayloadRead_canonical (seq : Nat) (bytes : List Byte) (failedAt : Option Nat)
    (s : State) :
    canonicalAfter (execPayloadRead seq bytes failedAt s) = some s.canonical := by
  unfold execPayloadRead
  split
  · simp
  · (repeat' split) <;> simp

@[simp] theorem execCqAggTimeout_canonical (func queue : Nat) (s : State) :
    canonicalAfter (execCqAggTimeout func queue s) = some s.canonical := by
  unfold execCqAggTimeout
  split <;> simp

@[simp] theorem execJrnBaseWrite_canonical (base size : Nat) (s : State) (hs : s.canonical = true) :
    canonicalAfter (execJrnBaseWrite base size s) = some true := by simp [hs, execJrnBaseWrite]

@[simp] theorem restartSq0_canonical (s : State) (f : Nat) :
    (restartSq0 s f).canonical = s.canonical := by simp [restartSq0]

@[simp] theorem restartCq0_canonical (s : State) (f : Nat) :
    (restartCq0 s f).canonical = s.canonical := by simp [restartCq0]

@[simp] theorem execAdminQueueWrite_canonical (func : Nat) (which : AdminReg) (value : Word)
    (s : State) :
    canonicalAfter (execAdminQueueWrite func which value s) = some s.canonical := by
  unfold execAdminQueueWrite
  split
  · simp
  · extract_lets +onlyGivenNames _
    split
    · simp
    · simp
    · extract_lets +onlyGivenNames _ _ _ _
      split
      · simp
      · extract_lets +onlyGivenNames s1 s2
        have h2 : s2.canonical = s.canonical := by simp [s2, s1]
        clear_value s1 s2
        split
        · simp [h2]
        · split <;> simp [h2]

@[simp] theorem execFetchEnable_canonical (func : Nat) (value : Bool) (s : State) :
    canonicalAfter (execFetchEnable func value s) = some s.canonical := by
  unfold execFetchEnable
  extract_lets +onlyGivenNames s1
  have h1 : s1.canonical = s.canonical := by simp [s1]
  clear_value s1
  split
  · simp [h1]
  · extract_lets +onlyGivenNames s2
    have h2 : s2.canonical = s.canonical := by
      unfold s2
      split <;> simp [h1]
    clear_value s2
    split <;> simp [h2]

@[simp] theorem execCplTimeout_canonical (source : CplSource) (s : State) :
    canonicalAfter (execCplTimeout source s) = some s.canonical := by
  unfold execCplTimeout
  extract_lets +onlyGivenNames f1
  have h1 : ∀ t x2, (f1 t x2).canonical = t.canonical := by
    intro t x2
    unfold f1
    simp
  clear_value f1
  (repeat' split) <;> simp [h1]

/-! ## `Machine/Reset` -/

@[simp] theorem spoilDest_canonical (s : State) (c : OpenCmd) (hs : s.canonical = true) :
    (spoilDest s c).canonical = true := by
  unfold spoilDest
  simp +contextual [hs]

@[simp] theorem dropWork_canonical (s : State) (seq : Nat) (hs : s.canonical = true) :
    (dropWork s seq).canonical = true := by simp [hs, dropWork]

@[simp] theorem abandonCmd_canonical (s : State) (e : Nat × OpenCmd) (hs : s.canonical = true) :
    (abandonCmd s e).canonical = true := by simp [hs, abandonCmd]

@[simp] theorem enterHeld_canonical (s : State) (f q slot : Nat) (p : Packet) :
    (enterHeld s f q slot p).canonical = s.canonical := by
  unfold enterHeld
  split <;> simp

@[simp] theorem enterAllHeld_canonical (s : State) (p : Nat → Bool) :
    (enterAllHeld s p).canonical = s.canonical := by
  unfold enterAllHeld
  extract_lets +onlyGivenNames s1
  have h1 : s1.canonical = s.canonical := by simp [s1]
  clear_value s1
  refine (foldl_canonical _ (fun t x2 => ?_) _ _).trans h1
  split <;> simp

@[simp] theorem abandonAll_canonical (s : State) (p : Nat → Bool) (hs : s.canonical = true) :
    (abandonAll s p).canonical = true := by simp +contextual [hs, abandonAll]

@[simp] theorem endTestMode_canonical (s : State) :
    (endTestMode s).canonical = s.canonical := by simp [endTestMode]

@[simp] theorem linkDown_canonical (s : State) :
    (linkDown s).canonical = s.canonical := by simp [linkDown]

@[simp] theorem wipeMain_canonical (s : State) (hs : s.canonical = true) :
    (wipeMain s).canonical = true := by
  have h : (endTestMode s).canonical = true := by simp [hs]
  have hmem : memCanonical [] (endTestMode s).wsp.nand [] = true :=
    memCanonical_of (rfl) (nand_wf h) (rfl)
  simp [wipeMain, hmem]

@[simp] theorem closeAllStreams_canonical (s : State) :
    (closeAllStreams s).canonical = s.canonical := by simp [closeAllStreams]

@[simp] theorem warmEffects_canonical (s : State) (hs : s.canonical = true) :
    (warmEffects s).canonical = true := by
  unfold warmEffects
  extract_lets +onlyGivenNames s1 s2 s3 s4 _ _ _ _ _ _ _ s5 s6
  have h1 : s1.canonical = true := by simp [hs, s1]
  have h3 : s3.canonical = true := by simp [s3, s2, h1]
  have h4 : s4.canonical = true := foldl_canonical_of (fun t x ht =>
    modTile_canonical_of (by simp [ht]) _ fun _ _ => (rfl)) _ h3
  clear_value s1 s2 s3 s4
  have h5 : s5.canonical = true := by
    have h := canonical_parts h4
    obtain ⟨hd, hn, ht⟩ := h
    exact memCanonical_of hd hn ht
  clear_value s5
  simp [s6, h5]

@[simp] theorem noteReset_canonical (s : State) (kind source : Nat) (counter : FieldRef) :
    (noteReset s kind source counter).canonical = s.canonical := by simp [noteReset]

@[simp] theorem warmReset_canonical (s : State) (source : Nat) (hs : s.canonical = true) :
    (warmReset s source).canonical = true := by simp [hs, warmReset]

@[simp] theorem execRstCtlWarm_canonical (func key : Nat) (s : State) (hs : s.canonical = true) :
    canonicalAfter (execRstCtlWarm func key s) = some true := by simp [hs, execRstCtlWarm]

@[simp] theorem chainWarmReset_canonical (s : State) (hs : s.canonical = true) :
    (chainWarmReset s).canonical = true := by simp [hs, chainWarmReset]

@[simp] theorem execAutoWarmTimeout_canonical (s : State) (hs : s.canonical = true) :
    canonicalAfter (execAutoWarmTimeout s) = some true := by simp [hs, execAutoWarmTimeout]

@[simp] theorem conventionalReset_canonical (s : State) (hs : s.canonical = true) :
    (conventionalReset s).canonical = true := by simp [hs, conventionalReset]

@[simp] theorem execPerstAssert_canonical (s : State) (hs : s.canonical = true) :
    canonicalAfter (execPerstAssert s) = some true := by simp [hs, execPerstAssert]

@[simp] theorem execHotReset_canonical (s : State) (hs : s.canonical = true) :
    canonicalAfter (execHotReset s) = some true := by simp [hs, execHotReset]

@[simp] theorem pcieDown_canonical (s : State) (hs : s.canonical = true) :
    (pcieDown s).canonical = true := by simp [hs, pcieDown]

@[simp] theorem execPcieLinkDown_canonical (s : State) (hs : s.canonical = true) :
    canonicalAfter (execPcieLinkDown s) = some true := by simp [hs, execPcieLinkDown]

@[simp] theorem execPllLockLost_canonical (pll : Nat) (s : State) (hs : s.canonical = true) :
    canonicalAfter (execPllLockLost pll s) = some true := by simp [hs, execPllLockLost]

@[simp] theorem execWakeComplete_canonical (s : State) (hs : s.canonical = true) :
    canonicalAfter (execWakeComplete s) = some true := by
  unfold execWakeComplete
  split
  · simp [hs]
  · extract_lets +onlyGivenNames s1 _ _ s2
    have h2 : s2.canonical = true := by simp [hs, s2, s1]
    clear_value s1 s2
    split <;> simp [h2]

@[simp] theorem startBringUp_canonical (s : State) (kind : ResetKind) :
    (startBringUp s kind).canonical = s.canonical := by simp [startBringUp]

@[simp] theorem moduleReset_canonical (s : State) (source : Nat) (hs : s.canonical = true) :
    (moduleReset s source).canonical = true := by simp [hs, moduleReset]

@[simp] theorem execRstCtlModule_canonical (func key : Nat) (s : State) (hs : s.canonical = true) :
    canonicalAfter (execRstCtlModule func key s) = some true := by simp [hs, execRstCtlModule]

@[simp] theorem execDbgRst_canonical (s : State) (hs : s.canonical = true) :
    canonicalAfter (execDbgRst s) = some true := by simp [hs, execDbgRst]

@[simp] theorem execTripLimit_canonical (reading : Reading) (s : State) (hs : s.canonical = true) :
    canonicalAfter (execTripLimit reading s) = some true := by simp [hs, execTripLimit]

@[simp] theorem execMainPowerLoss_canonical (s : State) (hs : s.canonical = true) :
    canonicalAfter (execMainPowerLoss s) = some true := by simp [hs, execMainPowerLoss]

@[simp] theorem execMainPowerUp_canonical (s : State) :
    canonicalAfter (execMainPowerUp s) = some s.canonical := by simp [execMainPowerUp]

@[simp] theorem readMap_canonical (s : State) :
    (readMap s).canonical = s.canonical := by simp [readMap]

@[simp] theorem rebuildMap_canonical (s : State) (x : SelfTest) :
    (rebuildMap s x).canonical = s.canonical := by
  unfold rebuildMap
  extract_lets +onlyGivenNames _ _ _ _ s1 s2
  have h1 : s1.canonical = s.canonical := (rfl)
  clear_value s1
  have h2 : s2.canonical = s1.canonical := by
    refine foldl_canonical _ (fun t i => ?_) _ _
    split <;> simp
  clear_value s2
  simp [h2, h1]

@[simp] theorem rebuildWsp_canonical (s : State) :
    (rebuildWsp s).canonical = s.canonical := by simp [rebuildWsp]

@[simp] theorem startJournal_canonical (s : State) (kind : ResetKind) :
    (startJournal s kind).canonical = s.canonical := by simp [startJournal]

@[simp] theorem bootCores_canonical (s : State) :
    (bootCores s).canonical = s.canonical := by simp [bootCores]

@[simp] theorem execResetComplete_canonical (test : Option SelfTest) (s : State) :
    canonicalAfter (execResetComplete test s) = some s.canonical := by
  unfold execResetComplete
  split
  · simp
  · extract_lets +onlyGivenNames s1 s2
    have h1 : s1.canonical = s.canonical := by simp [s1]
    clear_value s1
    have h2 : s2.canonical = s.canonical := by
      unfold s2
      split <;> simp [h1]
    clear_value s2
    extract_lets +onlyGivenNames _ s3 s4
    have h3 : s3.canonical = s.canonical := by simp [s3, h2]
    clear_value s3
    have h4 : s4.canonical = s.canonical := by
      unfold s4
      split <;> simp [h2, h3]
    clear_value s4
    simp [h4]

@[simp] theorem bringUpFails_canonical (s : State) (unit : Nat) :
    (bringUpFails s unit).canonical = s.canonical := by simp [bringUpFails]

@[simp] theorem execBringupStepTimeout_canonical (step unit : Nat) (s : State)
    (hs : s.canonical = true) :
    canonicalAfter (execBringupStepTimeout step unit s) = some true := by
  simp +contextual [hs, execBringupStepTimeout]

@[simp] theorem clearFunction_canonical (s : State) (f : Nat) :
    (clearFunction s f).canonical = s.canonical := by simp [clearFunction]

@[simp] theorem resetFunction_canonical (s : State) (f : Nat) (hs : s.canonical = true) :
    (resetFunction s f).canonical = true := by
  unfold resetFunction
  extract_lets +onlyGivenNames s1 _ s2 s3 s4 _ _
  have h1 : s1.canonical = true := by simp [hs, s1]
  have h2 : s2.canonical = true := foldl_canonical_of (fun t x ht => by simp [ht]) _ h1
  have h3 : s3.canonical = true := foldl_canonical_of (fun t x ht => by simp [ht]) _ h2
  have h4 : s4.canonical = true := by simp [s4, h3]
  clear_value s1 s2 s3 s4
  exact h4

@[simp] theorem dropVfs_canonical (s : State) (hs : s.canonical = true) :
    (dropVfs s).canonical = true := by simp +contextual [hs, dropVfs]

@[simp] theorem configServed_canonical (s : State) (f : State → State)
    (hf : ∀ t, t.canonical = true → (f t).canonical = true) (hs : s.canonical = true) :
    (configServed s f).canonical = true := by
  unfold configServed
  simp [hf, hs]

@[simp] theorem execFlr_canonical (func : Nat) (s : State) (hs : s.canonical = true) :
    canonicalAfter (execFlr func s) = some true := by
  unfold execFlr
  split
  · simp [hs]
  · refine canonicalAfter_next_eq (configServed_canonical _ _ (fun t ht => ?_) hs)
    extract_lets +onlyGivenNames s1 s2 _
    have h1 : s1.canonical = true := by simp [s1, ht]
    have h2 : s2.canonical = true := by simp [s2, h1]
    clear_value s1 s2
    simp [h1, h2]

/-! ## `Machine/Reliability` -/

@[simp] theorem execEngineHang_canonical (tile : Nat) (s : State) (hs : s.canonical = true) :
    canonicalAfter (execEngineHang tile s) = some true := by simp [hs, execEngineHang]

@[simp] theorem execWakeFail_canonical (tile : Nat) (s : State) (hs : s.canonical = true) :
    canonicalAfter (execWakeFail tile s) = some true := by simp [hs, execWakeFail]

@[simp] theorem execBondLinkFail_canonical (tile : Nat) (s : State) (hs : s.canonical = true) :
    canonicalAfter (execBondLinkFail tile s) = some true := by simp [hs, execBondLinkFail]

@[simp] theorem retire_canonical (s : State) (func logical : Nat) (hs : s.canonical = true) :
    (retire s func logical).canonical = true := by
  unfold retire
  split
  · exact hs
  · split <;> simp [hs]

@[simp] theorem execRetire_canonical (func logical : Nat) (s : State) (hs : s.canonical = true) :
    canonicalAfter (execRetire func logical s) = some true := by simp [hs, execRetire]

@[simp] theorem execSpareSelfTest_canonical (tile : Nat) (passed : Bool) (s : State)
    (hs : s.canonical = true) :
    canonicalAfter (execSpareSelfTest tile passed s) = some true := by simp [hs, execSpareSelfTest]

@[simp] theorem adopt_canonical (s : State) (l t : Nat) (hs : s.canonical = true) :
    (adopt s l t).canonical = true := by
  unfold adopt
  extract_lets +onlyGivenNames _ s1 s2
  have h1 : s1.canonical = true := by simp [hs, s1]
  have h2 : s2.canonical = true := by
    unfold s2
    split <;> simp [h1]
  clear_value s1 s2
  simp [h2]

@[simp] theorem reinstate_canonical (s : State) (func phys : Nat) (hs : s.canonical = true) :
    (reinstate s func phys).canonical = true := by
  unfold reinstate
  split
  · exact hs
  · split
    · extract_lets +onlyGivenNames s1
      have h1 : s1.canonical = true := by simp [hs, s1]
      clear_value s1
      split <;> simp [h1]
    · simp [hs]

@[simp] theorem execReinstate_canonical (func phys : Nat) (s : State) (hs : s.canonical = true) :
    canonicalAfter (execReinstate func phys s) = some true := by simp [hs, execReinstate]

@[simp] theorem execRepairStoreWrite_canonical (ok : Bool) (s : State) :
    canonicalAfter (execRepairStoreWrite ok s) = some s.canonical := by simp [execRepairStoreWrite]

/-! ## `Machine/Mctp` -/

@[simp] theorem setMctpEid_canonical (s : State) (binding eid : Nat) :
    (setMctpEid s binding eid).canonical = s.canonical := by simp [setMctpEid]

@[simp] theorem mctpSend_canonical (s : State) (m : MctpOut) :
    (mctpSend s m).canonical = s.canonical := by simp [mctpSend]

@[simp] theorem mctpDiscard_canonical (s : State) :
    (mctpDiscard s).canonical = s.canonical := by simp [mctpDiscard]

@[simp] theorem control_canonical (s : State) (binding eid command : Nat) (data : List Byte)
    (code : Nat) :
    (control s binding eid command data code).canonical = s.canonical := by simp [control]

@[simp] theorem spdmSend_canonical (s : State) (binding eid : Nat) (m : SpdmMsg) :
    (spdmSend s binding eid m).canonical = s.canonical := by simp [spdmSend]

@[simp] theorem spdmError_canonical (s : State) (binding eid : Nat) :
    (spdmError s binding eid).canonical = s.canonical := by simp [spdmError]

@[simp] theorem mctpWhole_canonical (s : State) (binding src : Nat) (bytes : List Byte) :
    (mctpWhole s binding src bytes).2.canonical = s.canonical := by simp [mctpWhole]

@[simp] theorem mctpPacket_canonical (s : State) (binding : Nat) (p : McPkt) :
    (mctpPacket s binding p).2.canonical = s.canonical := by
  unfold mctpPacket
  extract_lets +onlyGivenNames s1 _ _ d2 _ _ f3
  have h1 : s1.canonical = s.canonical := by simp [s1]
  have h3 : ∀ x4, (f3 x4).canonical = s.canonical := by
    intro x4
    unfold f3
    simp [h1]
  clear_value s1 d2 f3
  (repeat' split) <;> simp [h1, h3]

@[simp] theorem execMctpOverPcieVdm_canonical (func : Nat) (packet : McPkt) (s : State) :
    canonicalAfter (execMctpOverPcieVdm func packet s) = some s.canonical := by
  simp [execMctpOverPcieVdm]

@[simp] theorem execSetEndpointId_canonical (binding src eid : Nat) (s : State) :
    canonicalAfter (execSetEndpointId binding src eid s) = some s.canonical := by
  simp [execSetEndpointId]

@[simp] theorem execGetEndpointId_canonical (binding src : Nat) (s : State) :
    canonicalAfter (execGetEndpointId binding src s) = some s.canonical := by
  simp [execGetEndpointId]

@[simp] theorem execGetEndpointUuid_canonical (binding src : Nat) (s : State) :
    canonicalAfter (execGetEndpointUuid binding src s) = some s.canonical := by
  simp [execGetEndpointUuid]

@[simp] theorem execGetMctpVersionSupport_canonical (binding src : Nat) (s : State) :
    canonicalAfter (execGetMctpVersionSupport binding src s) = some s.canonical := by
  simp [execGetMctpVersionSupport]

@[simp] theorem execGetMessageTypeSupport_canonical (binding src : Nat) (s : State) :
    canonicalAfter (execGetMessageTypeSupport binding src s) = some s.canonical := by
  simp [execGetMessageTypeSupport]

@[simp] theorem setConn_canonical (s : State) (c : SpdmConn) :
    (setConn s c).canonical = s.canonical := by simp [setConn]

@[simp] theorem spdmAnswer_canonical (s : State) (c : SpdmConn) (m : SpdmMsg) :
    (spdmAnswer s c m).canonical = s.canonical := by simp [spdmAnswer]

@[simp] theorem spdmRequest_canonical (s : State) (binding eid version : Nat) (algs ok : Bool)
    (f : SpdmConn → State) (hf : ∀ a, (f a).canonical = s.canonical) :
    canonicalAfter (spdmRequest s binding eid version algs ok f) = some s.canonical := by
  unfold spdmRequest
  split <;> simp [hf]

@[simp] theorem execGetVersion_canonical (binding src : Nat) (s : State) :
    canonicalAfter (execGetVersion binding src s) = some s.canonical := by
  unfold execGetVersion
  extract_lets +onlyGivenNames _ _ _ _ s1
  have h1 : s1.canonical = s.canonical := by simp [s1]
  clear_value s1
  simp [h1]

@[simp] theorem execGetCapabilities_canonical (binding src version transfer : Nat) (s : State) :
    canonicalAfter (execGetCapabilities binding src version transfer s) = some s.canonical := by
  unfold execGetCapabilities
  split <;> simp

@[simp] theorem execNegotiateAlgorithms_canonical (binding src version : Nat) (common : Bool)
    (s : State) :
    canonicalAfter (execNegotiateAlgorithms binding src version common s) = some s.canonical := by
  simp [execNegotiateAlgorithms]

@[simp] theorem execGetDigests_canonical (binding src version : Nat) (s : State) :
    canonicalAfter (execGetDigests binding src version s) = some s.canonical := by
  simp [execGetDigests]

@[simp] theorem execGetCertificate_canonical (binding src version slot offset length : Nat)
    (s : State) :
    canonicalAfter (execGetCertificate binding src version slot offset length s) = some
      s.canonical := by
  simp [execGetCertificate]

@[simp] theorem execChallenge_canonical (binding src version slot : Nat) (s : State) :
    canonicalAfter (execChallenge binding src version slot s) = some s.canonical := by
  unfold execChallenge
  simp

@[simp] theorem execGetMeasurements_canonical (binding src version index : Nat) (signed : Bool)
    (s : State) :
    canonicalAfter (execGetMeasurements binding src version index signed s) = some s.canonical := by
  unfold execGetMeasurements
  simp

@[simp] theorem execChunkGet_canonical (binding src version handle seq : Nat) (s : State) :
    canonicalAfter (execChunkGet binding src version handle seq s) = some s.canonical := by
  unfold execChunkGet
  split
  · split <;> simp
  · simp

/-! ## `Machine/RecorderRows` -/

@[simp] theorem emptyRing_canonical (s : State) :
    (emptyRing s).canonical = s.canonical := by simp [emptyRing]

@[simp] theorem startRecord_canonical (s : State) :
    (startRecord s).canonical = s.canonical := by simp [startRecord]

@[simp] theorem setRecMode_canonical (s : State) (m : Nat) :
    (setRecMode s m).canonical = s.canonical := by simp [setRecMode]

@[simp] theorem execDetRecordStart_canonical (s : State) :
    canonicalAfter (execDetRecordStart s) = some s.canonical := by simp [execDetRecordStart]

@[simp] theorem execDetReplayStart_canonical (s : State) :
    canonicalAfter (execDetReplayStart s) = some s.canonical := by simp [execDetReplayStart]

@[simp] theorem execDetRecOff_canonical (s : State) :
    canonicalAfter (execDetRecOff s) = some s.canonical := by simp [execDetRecOff]

@[simp] theorem clearRing_canonical (s : State) :
    (clearRing s).canonical = s.canonical := by simp [clearRing]

@[simp] theorem execDetRecClear_canonical (s : State) :
    canonicalAfter (execDetRecClear s) = some s.canonical := by simp [execDetRecClear]

@[simp] theorem markRecord_canonical (s : State) (value : Nat) :
    (markRecord s value).canonical = s.canonical := by simp [markRecord]

@[simp] theorem execMark_canonical (value : Nat) (s : State) :
    canonicalAfter (execMark value s) = some s.canonical := by simp [execMark]

@[simp] theorem stageRecord_canonical (s : State) (index value : Nat) :
    (stageRecord s index value).canonical = s.canonical := by simp [stageRecord]

@[simp] theorem execDetRecAppend_canonical (index value : Nat) (s : State) :
    canonicalAfter (execDetRecAppend index value s) = some s.canonical := by simp [execDetRecAppend]

@[simp] theorem markFed_canonical (s : State) (e : RecEntry) :
    (markFed s e).canonical = s.canonical := by simp [markFed]

@[simp] theorem execReplayFeed_canonical (s : State) :
    canonicalAfter (execReplayFeed s) = some s.canonical := by
  unfold execReplayFeed
  split
  · simp
  · extract_lets +onlyGivenNames _ _ _
    split
    · simp
    · split
      · simp
      · split
        rename_i s1 e1
        have h1 : s1.canonical = s.canonical := canonical_of_snd e1 (by simp)
        extract_lets +onlyGivenNames _
        split
        · exact canonicalAfter_next_eq
            (getD_canonical _ _ fun t e => (refusePacket_canonical e).trans (by simp [h1]))
        · exact canonicalAfter_next_eq
            (getD_canonical _ _ fun t e => (admitPacket_canonical e).trans (by simp [h1]))

/-! ## `Machine/PerturbRows` -/

@[simp] theorem badCfg_canonical (s : State) :
    (badCfg s).canonical = s.canonical := by simp [badCfg]

@[simp] theorem injectorCfgWrite_canonical (s : State) (i v mask : Nat) :
    (injectorCfgWrite s i v mask).canonical = s.canonical := by simp [injectorCfgWrite]

@[simp] theorem prtPlainWrite_canonical (s : State) (r : RegSpec) (i v mask : Nat) :
    (prtPlainWrite s r i v mask).canonical = s.canonical := by simp [prtPlainWrite]

@[simp] theorem prtWrite_canonical (s : State) (func off v mask : Nat) :
    (prtWrite s func off v mask).canonical = s.canonical := by simp [prtWrite]

@[simp] theorem execPrtWrite_canonical (func offset value : Nat) (s : State) :
    canonicalAfter (execPrtWrite func offset value s) = some s.canonical := by simp [execPrtWrite]

/-! ## `Machine/Bus` -/

@[simp] theorem clearStall_canonical (s : State) (t halves : Nat) :
    (clearStall s t halves).canonical = s.canonical :=
  State.setTile_canonical (s := (drawFree s).2) (rfl)

@[simp] theorem clearRc_canonical (s : State) (r : RegSpec) (i halves : Nat) :
    (clearRc s r i halves).canonical = s.canonical := by simp [clearRc]

@[simp] theorem busRead_canonical (s : State) (f off halves : Nat) :
    (busRead s f off halves).2.canonical = s.canonical := by
  unfold busRead
  split
  · simp
  · split
    rename_i s1 e2
    have h1 : s1.canonical = s.canonical := canonical_of_snd e2 (by simp)
    split <;> simp [h1]

@[simp] theorem wakeByAccess_canonical (s : State) (off : Nat) :
    (wakeByAccess s off).canonical = s.canonical := by simp [wakeByAccess]

@[simp] theorem execRcRead_canonical (func : Nat) (offset : BarOffset) (size : Nat) (s : State) :
    canonicalAfter (execRcRead func offset size s) = some s.canonical := by
  unfold execRcRead
  extract_lets +onlyGivenNames _
  split
  · split
    rename_i s1 e2
    have h1 : s1.canonical = s.canonical := canonical_of_snd e2 (by simp)
    simp [h1]
  · split
    · extract_lets +onlyGivenNames s3 _
      have h3 : s3.canonical = s.canonical := by simp [s3]
      clear_value s3
      split
      rename_i s4 e5
      have h4 : s4.canonical = s.canonical := canonical_of_snd e5 (by simp [h3])
      simp [h4]
    · simp

@[simp] theorem stateOf_canonical (s : State) (o : Out) (h : canonicalAfter o = some s.canonical) :
    (stateOf s o).canonical = s.canonical := by
  cases o with
  | next t => exact Option.some.inj h
  | fault r => rfl
  | refused r => rfl

@[simp] theorem fnConfig_canonical (s : State) (r : RegSpec) (fn v mask : Nat) :
    (fnConfig s r fn v mask).canonical = s.canonical := by simp [fnConfig]

@[simp] theorem execHifFnConfig_canonical (func fn : Nat) (which : FnReg) (value : Nat)
    (s : State) :
    canonicalAfter (execHifFnConfig func fn which value s) = some s.canonical := by
  unfold execHifFnConfig
  split
  · simp
  · split <;> simp

@[simp] theorem flkCfgWrite_canonical (s : State) (v mask : Nat) :
    (flkCfgWrite s v mask).canonical = s.canonical := by simp [flkCfgWrite]

@[simp] theorem recCtlWrite_canonical (s : State) (v mask : Nat) :
    (recCtlWrite s v mask).canonical = s.canonical := by simp [recCtlWrite]

@[simp] theorem pmcCtlWrite_canonical (s : State) (v mask : Nat) (hs : s.canonical = true) :
    (pmcCtlWrite s v mask).canonical = true := by simp [hs, pmcCtlWrite]

@[simp] theorem pwrReqWrite_canonical (s : State) (v : Nat) :
    (pwrReqWrite s v).canonical = s.canonical := by simp [pwrReqWrite]

@[simp] theorem rstCtlWrite_canonical (s : State) (v : Nat) (hs : s.canonical = true) :
    (rstCtlWrite s v).canonical = true := by simp [hs, rstCtlWrite]

@[simp] theorem pwrLimitWrite_canonical (s : State) (v mask : Nat) :
    (pwrLimitWrite s v mask).canonical = s.canonical := by simp [pwrLimitWrite]

@[simp] theorem throttleWrite_canonical (s : State) (v mask : Nat) :
    (throttleWrite s v mask).canonical = s.canonical := by simp [throttleWrite]

@[simp] theorem clkCoreWrite_canonical (s : State) (v mask : Nat) :
    (clkCoreWrite s v mask).canonical = s.canonical := by simp [clkCoreWrite]

@[simp] theorem portCtlWrite_canonical (s : State) (p v mask : Nat) :
    (portCtlWrite s p v mask).canonical = s.canonical := by simp [portCtlWrite]

theorem specialWrite_canonical {s : State} {f : Nat} {r : RegSpec} {i v mask : Nat} {u : State}
    (h : specialWrite s f r i v mask = some u) (hs : s.canonical = true) :
    u.canonical = true := by
  refine canonical_of_some h ?_
  unfold specialWrite
  extract_lets +onlyGivenNames b w
  clear_value b w
  cases hl : levelOf r <;> simp [hs]

@[simp] theorem busWrite_canonical (s : State) (f off v mask : Nat) (hs : s.canonical = true) :
    (busWrite s f off v mask).canonical = true := by
  unfold busWrite
  split
  · simp [hs]
  · split
    · exact hs
    · split
      · rename_i s1 e2
        have h1 : s1.canonical = true := specialWrite_canonical e2 hs
        exact h1
      · simp [hs]

@[simp] theorem execRegisterWrite_canonical (func offset size value : Nat) (s : State)
    (hs : s.canonical = true) :
    canonicalAfter (execRegisterWrite func offset size value s) = some true := by
  simp [hs, execRegisterWrite]

/-! ## `Machine/Chain` -/

@[simp] theorem chainSend_canonical (s : State) (bs : List Byte) :
    (chainSend s bs).canonical = s.canonical := by simp [chainSend]

@[simp] theorem chainForward_canonical (s : State) (bs : List Byte) :
    (chainForward s bs).canonical = s.canonical := by simp [chainForward]

@[simp] theorem chainRespond_canonical (s : State) (f : ChFrame) (status : Nat)
    (payload : List Byte) :
    (chainRespond s f status payload).canonical = s.canonical := by simp [chainRespond]

@[simp] theorem setChainAddr_canonical (s : State) (a : Nat) :
    (setChainAddr s a).canonical = s.canonical := by simp [setChainAddr]

@[simp] theorem noteExecuted_canonical (s : State) (f : ChFrame) :
    (noteExecuted s f).canonical = s.canonical := by simp [noteExecuted]

@[simp] theorem census_canonical (s : State) (f : ChFrame) (mask un co sk le : Nat) :
    (census s f mask un co sk le).2.canonical = s.canonical := by simp [census]

@[simp] theorem assign_canonical (s : State) (mask un co sk le : Nat) :
    (assign s mask un co sk le).2.canonical = s.canonical := by
  unfold assign
  split
  · simp
  · split <;> simp

@[simp] theorem enumerate_canonical (s : State) (bs : List Byte) (f : ChFrame) :
    (enumerate s bs f).canonical = s.canonical := by
  unfold enumerate
  split
  · simp
  · extract_lets +onlyGivenNames _ _ _
    split
    · simp
    · split
      rename_i s1 e2
      have h1 : s1.canonical = s.canonical := canonical_of_snd e2 (by simp)
      simp [h1]

@[simp] theorem chainReg_canonical (s : State) (off : Nat) :
    (chainReg s off).2.canonical = s.canonical := by
  unfold chainReg
  split
  rename_i s1 e2
  have h1 : s1.canonical = s.canonical := canonical_of_snd e2 (by simp)
  simp [h1]

@[simp] theorem chainRegs_canonical (s : State) (offs : List Nat) :
    (chainRegs s offs).2.canonical = s.canonical := by
  unfold chainRegs
  simp

@[simp] theorem pingAnswer_canonical (s : State) : (pingAnswer s).2.2.canonical = s.canonical := by
  unfold pingAnswer
  split
  rename_i s1 e2
  have h1 : s1.canonical = s.canonical := canonical_of_snd e2 (by simp)
  simp [h1]

@[simp] theorem statusAnswer_canonical (s : State) :
    (statusAnswer s).2.2.canonical = s.canonical := by
  unfold statusAnswer
  split
  rename_i s1 e2
  have h1 : s1.canonical = s.canonical := canonical_of_snd e2 (by simp)
  simp [h1]

@[simp] theorem regReadAnswer_canonical (s : State) (f : ChFrame) :
    (regReadAnswer s f).2.2.canonical = s.canonical := by
  unfold regReadAnswer
  split
  · simp
  · split
    · simp
    · split
      · simp
      · split
        · simp
        · split
          rename_i s1 e2
          have h1 : s1.canonical = s.canonical := canonical_of_snd e2 (by simp)
          simp [h1]

@[simp] theorem regWriteAnswer_canonical (s : State) (f : ChFrame) (hs : s.canonical = true) :
    (regWriteAnswer s f).2.2.canonical = true := by
  unfold regWriteAnswer
  split
  · simp [hs]
  · (repeat' split) <;> simp +contextual [hs]

@[simp] theorem wakeAnswer_canonical (s : State) :
    (wakeAnswer s).2.2.canonical = s.canonical := by simp [wakeAnswer]

@[simp] theorem resetAnswer_canonical (s : State) (f : ChFrame) (may : Bool) :
    (resetAnswer s f may).2.2.canonical = s.canonical := by
  unfold resetAnswer
  split
  · simp
  · split <;> simp

@[simp] theorem setPowerAnswer_canonical (s : State) (f : ChFrame) :
    (setPowerAnswer s f).2.2.canonical = s.canonical := by
  unfold setPowerAnswer
  extract_lets +onlyGivenNames _
  split
  · simp
  · split
    · simp
    · split
      · simp
      · split
        · rename_i s1 e2
          have h1 : s1.canonical = s.canonical := canonical_of_snd e2 (by simp)
          simp [h1]
        · rename_i s3 e4
          have h3 : s3.canonical = s.canonical := canonical_of_snd e4 (by simp)
          simp [h3]

@[simp] theorem testModeAnswer_canonical (s : State) (f : ChFrame) :
    (testModeAnswer s f).2.2.canonical = s.canonical := by
  unfold testModeAnswer
  extract_lets +onlyGivenNames _
  split
  · simp
  · split <;> simp

@[simp] theorem alertAckAnswer_canonical (s : State) (f : ChFrame) :
    (alertAckAnswer s f).2.2.canonical = s.canonical := by simp [alertAckAnswer]

@[simp] theorem chainAnswer_canonical (s : State) (f : ChFrame) (hs : s.canonical = true) :
    (chainAnswer s f).2.2.canonical = true := by
  simp [hs, chainAnswer]

@[simp] theorem keepAnswer_canonical (s : State) (f : ChFrame) (bs : List Byte) :
    (keepAnswer s f bs).canonical = s.canonical := by simp [keepAnswer]

@[simp] theorem serveMctp_canonical (s : State) (f : ChFrame) :
    (serveMctp s f).canonical = s.canonical := by
  unfold serveMctp
  split
  · simp
  · split
    · simp
    · split
      rename_i s1 e2
      have h1 : s1.canonical = s.canonical := canonical_of_snd e2 (by simp)
      simp [h1]

@[simp] theorem chainServe_canonical (s : State) (f : ChFrame) (hs : s.canonical = true) :
    (chainServe s f).canonical = true := by
  unfold chainServe
  split
  · simp [hs]
  · split
    · refine (count_canonical ..).trans ?_
      split <;> simp [hs]
    · split
      · simp [hs]
      · split
        · simp [hs]
        · split
          rename_i s1 e2
          have h1 : s1.canonical = true := canonical_of_snd_snd e2 (by simp [hs])
          simp [hs, h1]

@[simp] theorem chainReceive_canonical (s : State) (bs : List Byte) (hs : s.canonical = true) :
    (chainReceive s bs).canonical = true := by simp [hs, chainReceive]

@[simp] theorem receiveType_canonical (s : State) (type : Nat) (bs : List Byte)
    (hs : s.canonical = true) :
    canonicalAfter (receiveType s type bs) = some true := by simp [hs, receiveType]

@[simp] theorem execCensus_canonical (frame : List Byte) (s : State) (hs : s.canonical = true) :
    canonicalAfter (execCensus frame s) = some true := by simp [hs, execCensus]

@[simp] theorem execAssign_canonical (frame : List Byte) (s : State) (hs : s.canonical = true) :
    canonicalAfter (execAssign frame s) = some true := by simp [hs, execAssign]

@[simp] theorem execPing_canonical (frame : List Byte) (s : State) (hs : s.canonical = true) :
    canonicalAfter (execPing frame s) = some true := by simp [hs, execPing]

@[simp] theorem execStatus_canonical (frame : List Byte) (s : State) (hs : s.canonical = true) :
    canonicalAfter (execStatus frame s) = some true := by simp [hs, execStatus]

@[simp] theorem execRegRead_canonical (frame : List Byte) (s : State) (hs : s.canonical = true) :
    canonicalAfter (execRegRead frame s) = some true := by simp [hs, execRegRead]

@[simp] theorem execRegWrite_canonical (frame : List Byte) (s : State) (hs : s.canonical = true) :
    canonicalAfter (execRegWrite frame s) = some true := by simp [hs, execRegWrite]

@[simp] theorem execWake_canonical (frame : List Byte) (s : State) (hs : s.canonical = true) :
    canonicalAfter (execWake frame s) = some true := by simp [hs, execWake]

@[simp] theorem execWarmReset_canonical (frame : List Byte) (s : State) (hs : s.canonical = true) :
    canonicalAfter (execWarmReset frame s) = some true := by simp [hs, execWarmReset]

@[simp] theorem execModuleReset_canonical (frame : List Byte) (s : State)
    (hs : s.canonical = true) :
    canonicalAfter (execModuleReset frame s) = some true := by simp [hs, execModuleReset]

@[simp] theorem execSetPower_canonical (frame : List Byte) (s : State) (hs : s.canonical = true) :
    canonicalAfter (execSetPower frame s) = some true := by simp [hs, execSetPower]

@[simp] theorem execTestMode_canonical (frame : List Byte) (s : State) (hs : s.canonical = true) :
    canonicalAfter (execTestMode frame s) = some true := by simp [hs, execTestMode]

@[simp] theorem execAlertAck_canonical (frame : List Byte) (s : State) (hs : s.canonical = true) :
    canonicalAfter (execAlertAck frame s) = some true := by simp [hs, execAlertAck]

@[simp] theorem execMctp_canonical (frame : List Byte) (s : State) (hs : s.canonical = true) :
    canonicalAfter (execMctp frame s) = some true := by simp [hs, execMctp]

@[simp] theorem execFrameForward_canonical (frame : List Byte) (s : State)
    (hs : s.canonical = true) :
    canonicalAfter (execFrameForward frame s) = some true := by simp [hs, execFrameForward]

@[simp] theorem execAlertRepeat_canonical (seq : Nat) (s : State) :
    canonicalAfter (execAlertRepeat seq s) = some s.canonical := by
  unfold execAlertRepeat
  split <;> simp

@[simp] theorem execChainInputLock_canonical (s : State) :
    canonicalAfter (execChainInputLock s) = some s.canonical := by simp [execChainInputLock]

@[simp] theorem execChainInputLost_canonical (s : State) :
    canonicalAfter (execChainInputLost s) = some s.canonical := by simp [execChainInputLost]

/-! ## `Machine/HostLink` -/

@[simp] theorem execVfEnable_canonical (numVfs : Nat) (s : State) (hs : s.canonical = true) :
    canonicalAfter (execVfEnable numVfs s) = some true := by simp [hs, execVfEnable]

@[simp] theorem execVfDisable_canonical (s : State) (hs : s.canonical = true) :
    canonicalAfter (execVfDisable s) = some true :=
  canonicalAfter_next_eq (configServed_canonical _ _ (fun t ht => by simp [ht]) hs)

@[simp] theorem execD3hotEnter_canonical (func : Nat) (s : State) (hs : s.canonical = true) :
    canonicalAfter (execD3hotEnter func s) = some true := by simp [hs, execD3hotEnter]

@[simp] theorem execD3hotExit_canonical (func : Nat) (s : State) (hs : s.canonical = true) :
    canonicalAfter (execD3hotExit func s) = some true := by simp [hs, execD3hotExit]

@[simp] theorem execPmeTurnOff_canonical (s : State) :
    canonicalAfter (execPmeTurnOff s) = some s.canonical := by simp [execPmeTurnOff]

@[simp] theorem execPcieLinkUp_canonical (speed width : Nat) (flit : Bool) (s : State) :
    canonicalAfter (execPcieLinkUp speed width flit s) = some s.canonical := by
  simp [execPcieLinkUp]

/-! ## `Machine/Tick` -/

@[simp] theorem contextTick_canonical (s : State) : (contextTick s).canonical = s.canonical := by
  unfold contextTick
  simp

@[simp] theorem readTick_canonical (s : State) : (readTick s).canonical = s.canonical := by
  unfold readTick
  simp

/-! ## The commands and the tick -/

@[simp] theorem execStandbyLoss_canonical (s : State) (hs : s.canonical = true) :
    canonicalAfter (execStandbyLoss s) = some true := by simp [hs, execStandbyLoss]

@[simp] theorem execStandbyPowerUp_canonical (s : State) (hs : s.canonical = true) :
    canonicalAfter (execStandbyPowerUp s) = some true := by simp [hs, execStandbyPowerUp]

/-- Each row of the table is closed by the lemma of its own operation. -/
theorem exec_canonical (i : Instr) (s : State) (hs : s.canonical = true) :
    canonicalAfter (exec i s) = some true := by
  cases i <;> simp [exec, hs]

theorem emberTick_canonical (s : State) (hs : s.canonical = true) :
    (emberTick s).canonical = true := by simp [hs, emberTick]

theorem step_canonical (s : State) (hs : s.canonical = true) :
    canonicalAfter (step s) = some true := by
  cases h : s.pending with
  | nil => simpa [step, h] using emberTick_canonical s hs
  | cons c rest => simpa [step, h] using exec_canonical c { s with pending := rest } hs

/-- Settles O4: the command at the front of the queue, or the tick when there is none, writes its
memories by the operations that keep the canonical form. -/
theorem stepsKeepMemoryCanonical : Obligations.StepsKeepMemoryCanonical := by
  unfold Obligations.StepsKeepMemoryCanonical
  intro s t hs h
  have hstep := step_canonical s ((canonical_iff s).mpr hs)
  rw [h] at hstep
  exact (canonical_iff t).mp (Option.some.inj hstep)

end Sys2Proof.Machine
end

section
/-!
# The doorbells of the queues (R113, R253, R254, R262)

A write at an offset of BAR4 is a doorbell of the queue whose offset it is. An error of a queue is
reported in the registers alone, in its function's view and in the physical function's: the bit it
sets reads 1 in the function's view, and the command processor is as it was.
-/
open Sys2Proof
namespace Sys2Proof.Machine

/-! ## Reading a reported error -/

/-- A flag of a function's view reads as it was set. -/
theorem flag_setFld_func_same (s : State) {f : FieldRef} (b : Bool) {i fn : Nat}
    (hreset : f.reg.resetOf i < 2 ^ 64) (hend : f.lo + f.len ≤ 64) (hone : f.len = 1) :
    flag (setFld s f (b2n b) i fn) f i fn = b := by
  have hb : b2n b < 2 ^ f.len := by
    rw [hone]
    cases b <;> decide
  rw [flag, fld_setFld_same _ _ _ _ _ hreset hend hb]
  cases b <;> rfl

theorem flag_congr {s t : State} (h : t.regs = s.regs) (f : FieldRef) (i fn : Nat) :
    flag t f i fn = flag s f i fn := by
  simp only [flag, fld_congr h]

/-- A write of another register leaves a flag. -/
theorem flag_setRaw_ne (s : State) (f : FieldRef) (r : RegSpec) (i fn v i' fn' : Nat)
    (h : regKey f.reg i' fn' ≠ regKey r i fn) :
    flag (setRaw s r i fn v) f i' fn' = flag s f i' fn' := by
  simp only [flag, fld, raw_setRaw_ne _ _ _ _ _ _ _ _ h]

theorem flag_setErr_same (s : State) {f : FieldRef} {i fn : Nat}
    (hreset : f.reg.resetOf i < 2 ^ 64) (hend : f.lo + f.len ≤ 64) (hone : f.len = 1) :
    flag (setErr s f i fn) f i fn = true := by
  rw [flag_congr (setErr_regs ..)]
  exact flag_setFld_func_same _ true hreset hend hone

/-- Two registers that each function has of its own are apart in every pair of views. -/
theorem regKey_perFn_ne {r r' : RegSpec} (hr : r.perFn = true) (hr' : r'.perFn = true)
    (hb : r.base < 2 ^ 26) (hb' : r'.base < 2 ^ 26) (h : r.base ≠ r'.base) (fn fn' : Nat) :
    regKey r 0 fn ≠ regKey r' 0 fn' := by
  simp only [regKey, hr, hr', if_true, Nat.zero_mul, Nat.add_zero]
  omega

@[simp] theorem cpErr_cp (s : State) (ref : FieldRef) (f q value : Nat) :
    (cpErr s ref f q value).cp = s.cp := by simp [cpErr]

/-- Setting a one-bit field in one view of its register leaves it set in another. -/
theorem flag_setFld_stays (s : State) {f : FieldRef} {i fn fn' : Nat}
    (hreset : f.reg.resetOf i < 2 ^ 64) (hend : f.lo + f.len ≤ 64) (hone : f.len = 1)
    (h : flag s f i fn = true) : flag (setFld s f 1 i fn') f i fn = true := by
  by_cases hkey : regKey f.reg i fn = regKey f.reg i fn'
  · have hsame : flag (setFld s f 1 i fn') f i fn = flag (setFld s f 1 i fn') f i fn' := by
      simp only [flag, fld, raw, hkey]
    rw [hsame]
    exact flag_setFld_func_same s true hreset hend hone
  · rw [flag, fld_setFld_reg _ _ _ _ _ _ _ _ hkey]
    exact h

/-- An error of a queue is set in its function's view of CP_ERR. -/
theorem flag_cpErr_same (s : State) {ref : FieldRef} (f q value : Nat)
    (hreg : ref.reg = Reg.CP_ERR) (hend : ref.lo + ref.len ≤ 64) (hone : ref.len = 1) :
    flag (cpErr s ref f q value) ref 0 f = true := by
  have hapart (fn : Nat) : regKey ref.reg 0 f ≠ regKey Reg.CP_ERR_INFO 0 fn :=
    hreg ▸ regKey_perFn_ne rfl rfl (by decide) (by decide) (by decide) f fn
  have hreset : ref.reg.resetOf 0 < 2 ^ 64 := by
    rw [hreg]
    decide
  rw [cpErr, flag_congr (irqUpdate_regs _), flag_setRaw_ne _ _ _ _ _ _ _ _ (hapart 0)]
  refine flag_setFld_stays _ hreset hend hone ?_
  rw [flag_setRaw_ne _ _ _ _ _ _ _ _ (hapart f)]
  exact flag_setFld_func_same _ true hreset hend hone

/-! ## Queues after a write of one -/

theorem sq_setSq_same (s : State) (f q : Nat) (x : Sq) : (s.setSq f q x).sq f q = some x := by
  simp [State.sq]

/-! ## The doorbells' offsets (R253) -/

section
variable {s : State} {f q : Nat} (v : Nat)

theorem execSqDoorbell_of_named (hq : q < 1024) :
    execSqDoorbell f q v s = .next (sqTail s f q (v % 2 ^ 32)) := by
  have hend : ¬ doorbellEnd ≤ sqDoorbellAt q := by
    simp only [doorbellEnd, sqDoorbellAt]
    omega
  have hat : sqDoorbellAt q % 16 = 0 := Nat.mul_mod_right 16 q
  have hqueue : sqDoorbellAt q / 16 = q := Nat.mul_div_cancel_left q (by decide)
  rw [execSqDoorbell, bar4Write, if_neg hend, if_pos hat, hqueue]

theorem execCqDoorbell_of_named (hq : q < 1024) :
    execCqDoorbell f q v s = .next (cqHead s f q (v % 2 ^ 32)) := by
  have hend : ¬ doorbellEnd ≤ cqDoorbellAt q := by
    simp only [doorbellEnd, cqDoorbellAt]
    omega
  have hat : cqDoorbellAt q % 16 = 8 := Nat.add_mul_mod_self_left 8 16 q
  have hqueue : cqDoorbellAt q / 16 = q := by
    simp only [cqDoorbellAt]
    omega
  have hnot : ¬ cqDoorbellAt q % 16 = 0 := by simp [hat]
  rw [execCqDoorbell, bar4Write, if_neg hend, if_neg hnot, if_pos hat, hqueue]

theorem doorbells_of_unnamed (hq : 1024 ≤ q) :
    execSqDoorbell f q v s = .next s ∧ execCqDoorbell f q v s = .next s := by
  have hsq : doorbellEnd ≤ sqDoorbellAt q := by
    simp only [doorbellEnd, sqDoorbellAt]
    omega
  have hcq : doorbellEnd ≤ cqDoorbellAt q := by
    simp only [doorbellEnd, cqDoorbellAt]
    omega
  exact ⟨congrArg Host.Outcome.next (if_pos hsq), congrArg Host.Outcome.next (if_pos hcq)⟩

end

/-! ## What a doorbell does (R254) -/

section
variable {s : State} {f q : Nat}

theorem sqTail_of_no_queue (h : s.sq f q = none) (v : Nat) :
    sqTail s f q v = cpErr s Fld.CP_ERR_DOORBELL f q v := by
  simp only [sqTail, h]

theorem sqTail_of_queue {x : Sq} (h : s.sq f q = some x) (v : Nat) :
    sqTail s f q v = if 2 ^ x.depthLog2 ≤ v then cpErr s Fld.CP_ERR_DOORBELL f q v
      else s.setSq f q { x with tail := v } := by
  simp only [sqTail, h, ge_iff_le]

theorem cqHead_of_no_queue (h : s.cq f q = none) (v : Nat) :
    cqHead s f q v = cpErr s Fld.CP_ERR_DOORBELL f q v := by
  simp only [cqHead, h]

/-- How far `v` lies past the head of a CQ, around its ring. -/
def Cq.past (c : Cq) (v : Nat) : Nat := (v + 2 ^ c.depthLog2 - c.head) % 2 ^ c.depthLog2

theorem cqHead_of_ruled_out {c : Cq} {v : Nat} (h : s.cq f q = some c)
    (hout : 2 ^ c.depthLog2 ≤ v ∨ c.past c.tail < c.past v) :
    cqHead s f q v = cpErr s Fld.CP_ERR_DOORBELL f q v := by
  simp only [cqHead, h]
  exact if_pos (by simpa [Cq.past] using hout)

theorem cqHead_of_allowed {c : Cq} {v : Nat} (h : s.cq f q = some c) (hring : v < 2 ^ c.depthLog2)
    (hposted : c.past v ≤ c.past c.tail) :
    cqHead s f q v = serveRefusals (returnGroupEntries s f q v c) f q := by
  simp only [cqHead, h]
  exact if_neg (by simpa [Cq.past] using And.intro hring hposted)

/-- Where no packet waits, releasing entries answers none. -/
theorem serveRefusals_of_none_waits (horphans : s.cp.orphans = [])
    (hheld : ∀ e ∈ s.cp.sqs, e.2.held = none) : serveRefusals s f q = s := by
  have hnone : (s.cp.sqs.filter fun e => e.1 / 1024 = f && e.2.cq = q && e.2.held.isSome) = [] :=
    List.filter_eq_nil_iff.mpr fun e he => by simp [hheld e he]
  simp only [serveRefusals, horphans, List.filter_nil, List.foldl_nil, hnone]

/-- With no entry of a group or a note in the ring, only the head moves. -/
theorem returnGroupEntries_of_none {c : Cq} (hgroups : c.groupSlots = [])
    (hnotes : c.noteSlots = []) (v : Nat) : returnGroupEntries s f q v c = s.setCq f q { c with head := v } := by
  obtain ⟨⟩ := c
  subst hgroups hnotes
  rfl

end

/-- Settles O15: a doorbell's row is its queue's update, and a write that R254 rules out is the
error of that queue. -/
theorem doorbellsMoveQueues : Obligations.DoorbellsMoveQueues := by
  unfold Obligations.DoorbellsMoveQueues
  have hreported (f q v : Nat) (s : State) :
      (cpErr s Fld.CP_ERR_DOORBELL f q v).cp = s.cp ∧
        flag (cpErr s Fld.CP_ERR_DOORBELL f q v) Fld.CP_ERR_DOORBELL 0 f = true :=
    ⟨cpErr_cp .., flag_cpErr_same s f q v rfl (by decide) rfl⟩
  have hsq (f q v : Nat) (s : State) (hq : q < 1024) :
      exec (.sqDoorbell f q v) s = .next (sqTail s f q (v % 2 ^ 32)) := execSqDoorbell_of_named v hq
  have hcq (f q v : Nat) (s : State) (hq : q < 1024) :
      exec (.cqDoorbell f q v) s = .next (cqHead s f q (v % 2 ^ 32)) := execCqDoorbell_of_named v hq
  refine ⟨?tail, ?tailBeyond, ?noSq, ?head, ?headQuiet, ?noCq, ?headUnposted, ?headBeyond,
    fun f q v s hq => doorbells_of_unnamed v hq⟩
  case tail =>
    intro f q v x s hq hv hx hring
    rw [hsq f q v s hq, Nat.mod_eq_of_lt hv, sqTail_of_queue hx, if_neg (Nat.not_le.mpr hring)]
  case tailBeyond =>
    intro f q v x s hq hv hx hbeyond
    refine ⟨_, ?_, hreported f q v s⟩
    rw [hsq f q v s hq, Nat.mod_eq_of_lt hv, sqTail_of_queue hx, if_pos hbeyond]
  case noSq =>
    intro f q v s hq hnone
    exact ⟨_, (hsq f q v s hq).trans (congrArg _ (sqTail_of_no_queue hnone _)), hreported f q _ s⟩
  case head =>
    intro f q v c s hq hv hc hring hposted
    rw [hcq f q v s hq, Nat.mod_eq_of_lt hv, cqHead_of_allowed hc hring hposted]
  case headQuiet =>
    intro f q v c s hq hv hc hring hposted hgroups hnotes horphans hheld
    refine ⟨s.setCq f q { c with head := v }, ?_, cq_setCq_same .., rfl⟩
    rw [hcq f q v s hq, Nat.mod_eq_of_lt hv, cqHead_of_allowed hc hring hposted,
      returnGroupEntries_of_none hgroups hnotes]
    exact congrArg _ (serveRefusals_of_none_waits horphans hheld)
  case noCq =>
    intro f q v s hq hnone
    exact ⟨_, (hcq f q v s hq).trans (congrArg _ (cqHead_of_no_queue hnone _)), hreported f q _ s⟩
  case headUnposted =>
    intro f q v c s hq hv hc hunposted
    refine ⟨_, ?_, hreported f q v s⟩
    rw [hcq f q v s hq, Nat.mod_eq_of_lt hv, cqHead_of_ruled_out hc (.inr hunposted)]
  case headBeyond =>
    intro f q v c s hq hv hc hbeyond
    refine ⟨_, ?_, hreported f q v s⟩
    rw [hcq f q v s hq, Nat.mod_eq_of_lt hv, cqHead_of_ruled_out hc (.inl hbeyond)]

end Sys2Proof.Machine
end

section
/-!
# Fetch, acceptance, payloads and failed accesses (R255–R257, R264, R265, R279, R281)

A packet waits on its queue or, where the queue has gone, on its own; `admitPacket` says what its
acceptance does and when it must wait. Taking the packet off its queue, or off the list of those
that wait on their own, changes nothing that the decision looks at.
-/
open Sys2Proof
namespace Sys2Proof.Machine

/-! ## A round of fetches (R255, R281, R300) -/

section
variable {s : State}

/-- No SQ is read: the journal is full, or a flush holds it, or the function's SQs are not read. -/
theorem fetchOne_of_held {r : FetchRead}
    (h : jrnStalled s = true ∨ flushHolds s = true ∨ fetching s r.func = false) :
    fetchOne s r = s := by
  have hnot (x : Sq) : (fetching s r.func && !jrnStalled s && !flushHolds s && !x.stopped &&
      x.held.isNone && x.next ≠ x.tail) = false := by
    rcases h with h | h | h <;> simp [h]
  unfold fetchOne
  split
  next => rfl
  next x _ => rw [hnot x, if_neg Bool.false_ne_true]

theorem fetchOne_of_read {r : FetchRead} {x : Sq} (hstall : jrnStalled s = false)
    (hflush : flushHolds s = false) (hx : s.sq r.func r.queue = some x)
    (hfetching : fetching s r.func = true) (hrun : x.stopped = false) (hheld : x.held = none)
    (hnext : x.next ≠ x.tail) :
    fetchOne s r = refuseHeld (injectAt (count (s.setSq r.func r.queue
      { x with held := some (r.packet, x.next), next := (x.next + 1) % 2 ^ x.depthLog2 }) bankCp 0)
      0xD r.func) r.func r.queue := by
  simp [fetchOne, hx, hstall, hflush, hfetching, hrun, hheld, hnext]

theorem fetchOnes_of_held {rs : List FetchRead}
    (h : ∀ r : FetchRead, jrnStalled s = true ∨ flushHolds s = true ∨ fetching s r.func = false) :
    rs.foldl fetchOne s = s := by
  induction rs with
  | nil => rfl
  | cons r rs ih => rwa [List.foldl_cons, fetchOne_of_held (h r)]

theorem exec_commandFetch (rs : List FetchRead) (s : State) :
    exec (.commandFetch rs) s = .next (noteStall ((roundOrder rs).foldl fetchOne s)) := rfl

theorem noteStall_of_room (h : jrnStalled s = false) : noteStall s = s :=
  if_neg (by simp [h])

theorem noteStall_of_stalled (h : jrnStalled s = true) :
    noteStall s = setErr s Fld.JRN_ERR_STALLED := if_pos h

end

/-! ## Acceptance (R264, R279) -/

section
variable {s : State} {f q slot cq : Nat} {p : Packet}

/-- No packet becomes a command: the journal is full, or a flush holds it, or command processing
has stopped, or the packet's group or its CQ has no room (R113, R114, R255, R281, R300). -/
theorem admitPacket_of_held
    (h : jrnStalled s = true ∨ flushHolds s = true ∨ s.cp.cores.stopped = true ∨
      admitCollective s f p = .wait ∨ admitCollective s f p = .own ∧
        (s.cq f cq).any (fun c => c.freeEntries = 0) = true) :
    admitPacket s f q slot cq p = none := by
  rcases h with h | h | h | h | ⟨hown, hfull⟩
  · simp [admitPacket, h]
  · simp [admitPacket, h]
  · simp [admitPacket, h]
  · simp [admitPacket, h]
  · obtain ⟨c, hc, hnone⟩ : ∃ c, s.cq f cq = some c ∧ c.freeEntries = 0 := by
      simpa [Option.any_eq_true] using hfull
    simp [admitPacket, hown, hc, hnone]

section
variable (hstall : jrnStalled s = false) (hflush : flushHolds s = false)
  (hrun : s.cp.cores.stopped = false)
include hstall hflush hrun

theorem admitPacket_of_room {c : Cq} (hown : admitCollective s f p = .own)
    (hc : s.cq f cq = some c) (hroom : c.freeEntries ≠ 0) :
    admitPacket s f q slot cq p = some (openCommand
      (s.setCq f cq { c with reserved := c.reserved + 1 }) f q slot cq p false) := by
  simp [admitPacket, hstall, hflush, hrun, hown, hc, hroom]

/-- Where its CQ has gone, the packet becomes a command without an entry (R279). -/
theorem admitPacket_of_no_queue (hown : admitCollective s f p = .own) (hno : cq = noCq)
    (hc : s.cq f cq = none) :
    admitPacket s f q slot cq p = some (openCommand s f q slot cq p false) := by
  subst hno
  simp [admitPacket, hstall, hflush, hrun, hown, hc]

theorem admitPacket_of_group {g : Nat} (hgroup : admitCollective s f p = .group g) :
    admitPacket s f q slot cq p = some (openCommand s f q slot g p true) := by
  simp [admitPacket, hstall, hflush, hrun, hgroup]

end

theorem execAccept_of_orphan {o : Orphan} (h : firstOrphan s f q = some o) :
    execAccept f q s = .next (takeOrphan s o) := by
  simp only [execAccept, h]

theorem execAccept_of_waiting {x : Sq} (horphan : firstOrphan s f q = none)
    (hx : s.sq f q = some x) (hheld : x.held = some (p, slot))
    (hgood : checkPacket s f q p = none) :
    execAccept f q s = .next
      ((admitPacket (s.setSq f q { x with held := none }) f q slot x.cq p).getD s) := by
  simp only [execAccept, horphan, hx, hheld, hgood]

theorem takeOrphan_of_admitted {o : Orphan} {t : State}
    (hgood : checkPacket s o.func o.queue o.pkt = none)
    (ht : admitPacket (dropOrphan s o) o.func o.queue o.slot o.cq o.pkt = some t) :
    takeOrphan s o = detachEntries t fun e => e.seq = nextSeq s := by
  simp only [takeOrphan, hgood, ht]

end

/-! ## Payloads (R265) -/

section
variable {s : State} {seq a n : Nat} {c : OpenCmd}

theorem execPayloadRead_of_read {bs : List Byte} (hc : s.cmd seq = some c)
    (hspec : payloadSpec c.pkt = some (a, n)) (hready : c.phase = .ready) (hnone : c.payload = none)
    (hrun : s.cp.cores.stopped = false) (hlen : bs.length = payloadLen c.pkt n bs) :
    execPayloadRead seq bs none s =
      .next (loadRead (recordCmd (s.setCmd seq { c with payload := some bs }) seq) seq) := by
  simp only [execPayloadRead, hc, hspec, hready, hnone, hrun]
  exact if_neg (not_not.mpr hlen)

/-- A read that fails ends a command that may start. -/
theorem execPayloadRead_of_failed (bs : List Byte) (at_ : Nat) (hc : s.cmd seq = some c)
    (hspec : payloadSpec c.pkt = some (a, n)) (hready : c.phase = .ready) (hnone : c.payload = none)
    (hstart : mayStart s seq c = true) (hrun : s.cp.cores.stopped = false) :
    execPayloadRead seq bs (some at_) s = .next (completeWith s seq stUncorrectable 1 at_) := by
  simp [execPayloadRead, hc, hspec, hready, hnone, hrun, hstart]

/-- A read that fails leaves a command that R269 holds back. -/
theorem execPayloadRead_of_held_back (bs : List Byte) (at_ : Nat) (hc : s.cmd seq = some c)
    (hheld : mayStart s seq c = false) : execPayloadRead seq bs (some at_) s = .next s := by
  simp only [execPayloadRead, hc, hheld, Bool.false_eq_true, if_false, ite_self]
  split <;> rfl

theorem execCqAggTimeout_of_unsignalled {f q : Nat} {x : Cq} (hx : s.cq f q = some x)
    (hwaits : x.unsignalled ≠ 0) :
    execCqAggTimeout f q s = .next (if x.stopped = true then s else fireVector s f q) := by
  cases hstop : x.stopped <;> simp [execCqAggTimeout, hx, hwaits, hstop]

end

/-! ## Failed accesses to host memory (R257, R265, R573) -/

/-- The report of an access to host memory for function `f` that timed out. -/
def noteCplTimeout (s : State) (f : Nat) : State :=
  setErr (setRaw s Reg.HIF_ERR_INFO 0 0 (f + 1 * 2 ^ 8)) Fld.HIF_ERR_CPL_TIMEOUT

@[simp] theorem noteCplTimeout_cp (s : State) (f : Nat) : (noteCplTimeout s f).cp = s.cp := by
  simp [noteCplTimeout]

theorem flag_noteCplTimeout (s : State) (f : Nat) :
    flag (noteCplTimeout s f) Fld.HIF_ERR_CPL_TIMEOUT = true :=
  flag_setErr_same _ (by decide) (by decide) rfl

theorem execCplTimeout_sqEntry {s : State} {f q : Nat} {x : Sq} (hx : s.sq f q = some x) :
    execCplTimeout (.sqEntry f q) s = .next (noteCplTimeout
      (cpErr (s.setSq f q { x with stopped := true }) Fld.CP_ERR_SQ_READ f q 0) f) := by
  simp only [execCplTimeout, hx, noteCplTimeout]

theorem execCplTimeout_payload {s : State} {seq a n : Nat} {c : OpenCmd} (at_ : Nat)
    (hc : s.cmd seq = some c) (hspec : payloadSpec c.pkt = some (a, n)) (hready : c.phase = .ready)
    (hnone : c.payload = none) (hstart : mayStart s seq c = true)
    (hrun : s.cp.cores.stopped = false) :
    execCplTimeout (.payload seq at_) s =
      .next (completeWith (noteCplTimeout s c.func) seq stUncorrectable 1 at_) := by
  simp [execCplTimeout, hc, hspec, hready, hnone, hstart, hrun, noteCplTimeout]

theorem execCplTimeout_cqWrite {s : State} {f q : Nat} {x : Cq} (hx : s.cq f q = some x) :
    execCplTimeout (.cqWrite f q) s =
      .next (cpErr (s.setCq f q { x with stopped := true }) Fld.CP_ERR_CQ_WRITE f q 0) := by
  simp only [execCplTimeout, hx]

/-- A queue that stands in the table is the same in every state with that table. -/
theorem sq_of_lookup {s : State} {f q : Nat} {x : Sq} (h : lookup (qKey f q) s.cp.sqs = some x) :
    s.sq f q = some x := by
  simp only [State.sq, h]

theorem cq_of_lookup {s : State} {f q : Nat} {x : Cq} (h : lookup (qKey f q) s.cp.cqs = some x) :
    s.cq f q = some x := by
  simp only [State.cq, h]

/-- Settles O16: each clause is its row's lemma. What a row decides does not depend on the queue or
the list that the packet is taken off. -/
theorem packetsBecomeCommands : Obligations.PacketsBecomeCommands := by
  unfold Obligations.PacketsBecomeCommands
  refine ⟨?fetch, ?fetchOff, ?fetchStalled, ?fetchFlush, ?accept, ?acceptOrphan, ?acceptOrphanNoCq,
    ?acceptGroup, ?acceptWaits,
    fun _ _ _ _ _ _ hc hspec hready hnone hrun hlen =>
      execPayloadRead_of_read hc hspec hready hnone hrun hlen,
    fun _ _ _ _ hx hwaits => execCqAggTimeout_of_unsignalled hx hwaits,
    fun _ _ _ at_ bs _ _ hc hspec hready hnone hstart hrun =>
      ⟨execPayloadRead_of_failed bs at_ hc hspec hready hnone hstart hrun,
        execCplTimeout_payload at_ hc hspec hready hnone hstart hrun⟩,
    ?sqStops, ?cqStops,
    fun _ at_ _ bs _ hc hheld => execPayloadRead_of_held_back bs at_ hc hheld⟩
  case fetch =>
    intro r x s hstall hflush hx hfetching hrun hheld hnext
    exact congrArg (fun t => Host.Outcome.next (noteStall t))
      (fetchOne_of_read hstall hflush hx hfetching hrun hheld hnext)
  case fetchOff =>
    intro r s hstall hoff
    have hround : fetchOne s r = s := fetchOne_of_held (.inr (.inr hoff))
    exact congrArg Host.Outcome.next
      ((congrArg noteStall hround).trans (noteStall_of_room hstall))
  case fetchStalled =>
    intro rs s hstall
    refine ⟨setErr s Fld.JRN_ERR_STALLED, ?_, setErr_cp ..,
      flag_setErr_same s (by decide) (by decide) rfl⟩
    rw [exec_commandFetch, fetchOnes_of_held fun _ => .inl hstall, noteStall_of_stalled hstall]
  case fetchFlush =>
    intro rs s hstall hflush
    rw [exec_commandFetch, fetchOnes_of_held fun _ => .inr (.inl hflush), noteStall_of_room hstall]
  case accept =>
    intro f q slot x c p s hx hheld horphan hgood hstall hflush hrun hown hc hroom
    have hadmit := admitPacket_of_room (s := s.setSq f q { x with held := none }) (q := q)
      (slot := slot) hstall hflush hrun hown hc hroom
    exact (execAccept_of_waiting horphan hx hheld hgood).trans
      (by rw [hadmit, Option.getD_some])
  case acceptOrphan =>
    intro o c s horphan hgood hstall hflush hrun hown hc hroom
    have hadmit := admitPacket_of_room (s := dropOrphan s o) (q := o.queue) (slot := o.slot)
      hstall hflush hrun hown hc hroom
    exact (execAccept_of_orphan horphan).trans
      (congrArg Host.Outcome.next (takeOrphan_of_admitted hgood hadmit))
  case acceptOrphanNoCq =>
    intro o s horphan hgood hstall hflush hrun hown hno hc
    have hadmit := admitPacket_of_no_queue (s := dropOrphan s o) (q := o.queue) (slot := o.slot)
      hstall hflush hrun hown hno hc
    exact (execAccept_of_orphan horphan).trans
      (congrArg Host.Outcome.next (takeOrphan_of_admitted hgood hadmit))
  case acceptGroup =>
    intro f q slot g x p s hx hheld horphan hgood hstall hflush hrun hgroup
    have hadmit := admitPacket_of_group (s := s.setSq f q { x with held := none }) (q := q)
      (slot := slot) (cq := x.cq) hstall hflush hrun hgroup
    exact (execAccept_of_waiting horphan hx hheld hgood).trans
      (by rw [hadmit, Option.getD_some])
  case acceptWaits =>
    intro f q slot x p s hx hheld horphan hgood hwaits
    have hadmit := admitPacket_of_held (s := s.setSq f q { x with held := none }) (q := q)
      (slot := slot) (cq := x.cq) hwaits
    exact (execAccept_of_waiting horphan hx hheld hgood).trans
      (by rw [hadmit, Option.getD_none])
  case sqStops =>
    intro f q x s hx
    refine ⟨_, execCplTimeout_sqEntry hx, sq_of_lookup ?_, flag_noteCplTimeout ..⟩
    simp
  case cqStops =>
    intro f q x s hx
    refine ⟨_, execCplTimeout_cqWrite hx, cq_of_lookup ?_,
      flag_cpErr_same _ f q 0 rfl (by decide) rfl⟩
    simp

end Sys2Proof.Machine
end

section
/-!
# The journal ring's move, the administration queues and FETCH (R283, R289, R362)

JRN_BASE_WRITE either moves the ring or changes one error bit. Taking frames for the new ring's
pages and posting the replies that waited for FETCH change neither the command processor's journal
nor a register.
-/
open Sys2Proof
namespace Sys2Proof.Machine

/-! ## Placing the ring (R362, R366) -/

@[simp] theorem placeRingPage_cp (s : State) (q : Nat) : (placeRingPage s q).cp = s.cp := by
  unfold placeRingPage
  split <;> rfl

@[simp] theorem placeRingPage_regs (s : State) (q : Nat) : (placeRingPage s q).regs = s.regs := by
  unfold placeRingPage
  split <;> rfl

@[simp] theorem placeRing_cp (s : State) : (placeRing s).cp = s.cp :=
  List.foldlRecOn (motive := fun t : State => t.cp = s.cp) _ _ rfl
    fun t ht q _ => (placeRingPage_cp t q).trans ht

@[simp] theorem placeRing_regs (s : State) : (placeRing s).regs = s.regs :=
  List.foldlRecOn (motive := fun t : State => t.regs = s.regs) _ _ rfl
    fun t ht q _ => (placeRingPage_regs t q).trans ht

/-! ## JRN_BASE_WRITE (R283) -/

/-- The conditions under which R283 and R362 let the ring move. -/
def jrnMoveAllowed (s : State) (base size : Nat) : Bool :=
  s.cp.cmds.isEmpty && (upFrom 0 33).all (fun f => !flag s Fld.CP_CTL_FETCH 0 f) &&
    20 ≤ size && size ≤ 30 && base % 2 ^ 16 * 2 ^ 20 % 2 ^ size = 0 &&
    (upFrom (base % 2 ^ 16 * 2 ^ 20 / 2 ^ 21) (2 ^ (size - 21))).all
      fun p => !hasK p s.wsp.pages

/-- The ring is empty, and its pages have their frames. -/
def emptyJournalRing (s : State) : State :=
  placeRing { s with cp := { s.cp with journal := { s.cp.journal with
    ring := [], oldest := s.cp.journal.head, pos := 0 } } }

@[simp] theorem emptyJournalRing_regs (s : State) : (emptyJournalRing s).regs = s.regs :=
  placeRing_regs _

theorem emptyJournalRing_journal (s : State) : (emptyJournalRing s).cp.journal =
    { s.cp.journal with ring := [], oldest := s.cp.journal.head, pos := 0 } :=
  congrArg CpState.journal (placeRing_cp _)

/-- The state once the ring has moved: what was not durable is, and the ring is empty. -/
def movedRing (s : State) (base size : Nat) : State :=
  emptyJournalRing (setRaw (entriesDurable s.cp.journal.notDurable.length s) Reg.JRN_BASE 0 0
    (base % 2 ^ 16 * 2 ^ 20 + size * 2 ^ 40))

theorem execJrnBaseWrite_eq (base size : Nat) (s : State) :
    execJrnBaseWrite base size s = if jrnMoveAllowed s base size then .next (movedRing s base size)
      else .next (setErr s Fld.JRN_ERR_MOVE_REFUSED) := rfl

theorem mem_upFrom_iff {a n k : Nat} : k ∈ upFrom a n ↔ a ≤ k ∧ k < a + n := by
  induction n generalizing a with
  | zero => simp [upFrom]
  | succ n ih =>
    simp only [upFrom, List.mem_cons, ih]
    omega

theorem movedRing_journal (s : State) (base size : Nat) :
    (movedRing s base size).cp.journal =
      { (entriesDurable s.cp.journal.notDurable.length s).cp.journal with
        ring := [], pos := 0
        oldest := (entriesDurable s.cp.journal.notDurable.length s).cp.journal.head } := by
  rw [movedRing, emptyJournalRing_journal, setRaw_cp]

theorem raw_movedRing_base (s : State) {base size : Nat} (hbase : base < 2 ^ 16)
    (hsize : size ≤ 30) :
    raw (movedRing s base size) Reg.JRN_BASE = base * 2 ^ 20 + size * 2 ^ 40 := by
  rw [movedRing, raw_congr (emptyJournalRing_regs _), Nat.mod_eq_of_lt hbase]
  exact raw_setRaw_same _ _ _ _ _ (by omega)

theorem jrnMoveAllowed_of_free {s : State} {base size : Nat} (hnone : s.cp.cmds = [])
    (hoff : ∀ f < 33, flag s Fld.CP_CTL_FETCH 0 f = false) (hmin : 20 ≤ size) (hmax : size ≤ 30)
    (hbase : base < 2 ^ 16) (halign : base * 2 ^ 20 % 2 ^ size = 0)
    (hpages : ∀ p ∈ upFrom (base * 2 ^ 20 / 2 ^ 21) (2 ^ (size - 21)),
      hasK p s.wsp.pages = false) : jrnMoveAllowed s base size = true := by
  have hfetch : ((upFrom 0 33).all fun f => !flag s Fld.CP_CTL_FETCH 0 f) = true :=
    List.all_eq_true.mpr fun f hf => by
      rw [hoff f (by simpa using (mem_upFrom_iff.mp hf).2)]
      rfl
  have hunmapped : ((upFrom (base * 2 ^ 20 / 2 ^ 21) (2 ^ (size - 21))).all
      fun p => !hasK p s.wsp.pages) = true :=
    List.all_eq_true.mpr fun p hp => by rw [hpages p hp]; rfl
  simp only [jrnMoveAllowed, Nat.mod_eq_of_lt hbase, hnone, hfetch, hmin, hmax, halign, hunmapped]
  rfl

theorem jrnMoveAllowed_of_open_or_mapped {s : State} {base size : Nat}
    (h : s.cp.cmds ≠ [] ∨ base < 2 ^ 16 ∧ hasK (base * 2 ^ 20 / 2 ^ 21) s.wsp.pages = true) :
    jrnMoveAllowed s base size = false := by
  rcases h with hopen | ⟨hbase, hmapped⟩
  · simp [jrnMoveAllowed, hopen]
  · have hfirst : base * 2 ^ 20 / 2 ^ 21 ∈ upFrom (base * 2 ^ 20 / 2 ^ 21) (2 ^ (size - 21)) :=
      mem_upFrom_iff.mpr ⟨le_refl _, Nat.lt_add_of_pos_right (Nat.two_pow_pos _)⟩
    have hcovered : ((upFrom (base * 2 ^ 20 / 2 ^ 21) (2 ^ (size - 21))).all
        fun p => !hasK p s.wsp.pages) = false :=
      List.all_eq_false.mpr ⟨_, hfirst, by rw [hmapped]; exact Bool.false_ne_true⟩
    simp only [jrnMoveAllowed, Nat.mod_eq_of_lt hbase, hcovered, Bool.and_false]

/-! ## Posting replies leaves the registers (R256, R268) -/

@[simp] theorem fireVector_regs (s : State) (f q : Nat) : (fireVector s f q).regs = s.regs := by
  unfold fireVector
  split
  next => rfl
  next => split <;> simp

@[simp] theorem postOne_regs (s : State) (f q slot : Nat) (bytes : List Byte) (irq : Bool) :
    (postOne s f q slot bytes irq).regs = s.regs := by
  unfold postOne
  split
  next => rfl
  next =>
    dsimp only
    (repeat' split) <;> simp

@[simp] theorem flushNotes_regs (s : State) (f q n : Nat) :
    (flushNotes s f q n).regs = s.regs := by
  induction n generalizing s with
  | zero => rfl
  | succ n ih =>
    unfold flushNotes
    split
    next => rfl
    next =>
      split
      next => rfl
      next =>
        split
        next => rfl
        next => simp [ih]

/-! ## ADMIN_QUEUE_WRITE and FETCH_ENABLE (R289) -/

section
variable {s : State} {f : Nat}

theorem execAdminQueueWrite_of_fetching (h : flag s Fld.CP_CTL_FETCH 0 f = true) (w : AdminReg)
    (v : Word) : execAdminQueueWrite f w v s = .next s := by
  simp [execAdminQueueWrite, h]

theorem execAdminQueueWrite_asq {x : Sq} (h : flag s Fld.CP_CTL_FETCH 0 f = false)
    (hx : s.sq f 0 = some x) (v : Word) :
    execAdminQueueWrite f .asq v s =
      .next (restartSq0 (setRaw s Reg.CP_ASQ 0 f (v.toNat - v.toNat % 4096)) f) := by
  simp [execAdminQueueWrite, h, hx]

end

/-- FETCH_ENABLE changes no register but the one it writes. -/
theorem execFetchEnable_regs (f : Nat) (b : Bool) (s : State) :
    ∃ t, execFetchEnable f b s = .next t ∧
      t.regs = (setFld s Fld.CP_CTL_FETCH (b2n b) 0 f).regs := by
  unfold execFetchEnable
  dsimp only
  cases b with
  | false => exact ⟨_, rfl, rfl⟩
  | true =>
    simp only [Bool.not_true, Bool.false_eq_true, if_false]
    (repeat' split) <;> exact ⟨_, rfl, by simp⟩

/-- Settles O17: the ring moves just where it is allowed to, and the register rows write their own
register. -/
theorem journalAndAdminRegisters : Obligations.JournalAndAdminRegisters := by
  unfold Obligations.JournalAndAdminRegisters
  refine ⟨?moves, ?refused,
    fun f v _ _ hoff hx => execAdminQueueWrite_asq hoff hx v,
    fun f w v _ hon => execAdminQueueWrite_of_fetching hon w v, ?fetch⟩
  case moves =>
    intro base size s hnone hoff hmin hmax hbase halign hpages
    have hallowed := jrnMoveAllowed_of_free hnone hoff hmin hmax hbase halign hpages
    refine ⟨movedRing s base size, (execJrnBaseWrite_eq ..).trans (if_pos hallowed), ?_, ?_, ?_,
      raw_movedRing_base s hbase hmax⟩ <;> rw [movedRing_journal]
  case refused =>
    intro base size s hopen
    have hrefused := jrnMoveAllowed_of_open_or_mapped (size := size) hopen
    refine ⟨setErr s Fld.JRN_ERR_MOVE_REFUSED,
      (execJrnBaseWrite_eq ..).trans (if_neg (by simp [hrefused])), setErr_cp .., ?_,
      flag_setErr_same s (by decide) (by decide) rfl⟩
    rw [raw_congr (setErr_regs ..)]
    exact raw_setRaw_ne _ _ _ _ _ _ _ _ (by decide)
  case fetch =>
    intro f b s _
    obtain ⟨t, ht, hregs⟩ := execFetchEnable_regs f b s
    refine ⟨t, ht, (flag_congr hregs ..).trans ?_⟩
    exact flag_setFld_func_same s b (by decide) (by decide) rfl

end Sys2Proof.Machine
end

section
/-!
# Durable entries and commits (R104, R255, R262, R270, R271, R275, R276, R328, R342)

What waits for an entry follows by the entry's kind. A commit is the same for every command but for
what its opcode removes or makes (`commitOp`) and, for a step, its stream's slot.
-/
open Sys2Proof
namespace Sys2Proof.Machine

/-! ## What follows an entry (R255, R262, R264, R275, R276) -/

@[simp] theorem holdTiles_det (s : State) (seq : Nat) (ts : List Nat) :
    (holdTiles s seq ts).det = s.det :=
  List.foldlRecOn (motive := fun t : State => t.det = s.det) _ _ rfl
    fun t ht i _ => (State.modTile_det t i _).trans ht

@[simp] theorem loadAccepted_det (s : State) (seq : Nat) : (loadAccepted s seq).det = s.det := by
  unfold loadAccepted
  split
  next => rfl
  next => split <;> simp

/-- An ACCEPT entry readies its command; the head of its SQ moves past it. -/
theorem entryDurable_of_accept {s : State} {e : JEntry} (hkind : e.kind = 1)
    (hfed : hasK e.seq s.det.fed = false) (hgone : e.gone = false) :
    entryDurable s e = advanceSqHead (loadAccepted (s.modCmd e.seq
      fun c => if c.phase = .accepting then { c with phase := .ready } else c) e.seq)
      e.func e.queue e.slot := by
  rw [entryDurable, if_pos hkind]
  dsimp only
  rw [loadAccepted_det, State.modCmd_det, hfed, hgone]
  rfl

/-- A REFUSE entry is answered, after the head of its SQ where the SQ still stands. -/
theorem entryDurable_of_refuse {s : State} {e : JEntry} (hkind : e.kind = 2)
    (hfed : hasK e.seq s.det.fed = false) :
    entryDurable s e = postReply (if e.gone then s else advanceSqHead s e.func e.queue e.slot)
      e.func e.cq e.rslot e.reply (pIrq e.body) := by
  simp [entryDurable, hkind, hfed]

/-- A COMPLETE entry commits its command and answers it. -/
theorem entryDurable_of_complete {s : State} {e : JEntry} {c : OpenCmd} (hkind : e.kind = 3)
    (hc : s.cmd e.ref = some c) :
    entryDurable s e =
      postReply (commitCmd s e.ref c) e.func e.queue e.slot e.reply (pIrq c.pkt) := by
  simp [entryDurable, hkind, hc]

/-! ## JOURNAL_ENTRY_DURABLE (R275) -/

theorem execJournalEntryDurable_of_none {s : State} (n : Nat) (b : Bool)
    (h : s.cp.journal.notDurable = [] ∨ s.cp.cores.stopped = true) :
    execJournalEntryDurable n b s = .next s := by
  refine if_pos ?_
  rcases h with h | h <;> simp [h]

/-- Both copies of the oldest entry were written without a retry. -/
theorem execJournalEntryDurable_of_clean {s : State} {q : Nat} {rest : List Nat}
    (holdest : s.cp.journal.notDurable = q :: rest) (hrun : s.cp.cores.stopped = false)
    (hclean : (injectMany 0xE 0 2 s).1 = 0) :
    execJournalEntryDurable 0 false s = .next (settleStreams (settleWork (faultUnread (oldestDurable
      { (injectMany 0xE 0 2 s).2 with
        cp := { (injectMany 0xE 0 2 s).2.cp with
          journal := { (injectMany 0xE 0 2 s).2.cp.journal with singleCopy := false } } })))) := by
  have hwaits : (s.cp.journal.notDurable.isEmpty || s.cp.cores.stopped) = false := by
    simp [holdest, hrun]
  rw [execJournalEntryDurable, hwaits]
  simp [hclean]

/-! ## Commits (R104, R270, R271, R328) -/

section
variable (s : State) (seq : Nat) {c : OpenCmd}

/-- The command is open no more. -/
def closeCmd (s : State) (seq : Nat) : State :=
  endFed { s with cp := { s.cp with cmds := eraseK seq s.cp.cmds } } seq

/-- What a command that ends without error makes, counted. -/
def committedEffects (s : State) (seq : Nat) (c : OpenCmd) : State :=
  count (commitOp (commitWrites (recordLate s seq c) (pOpcode c.pkt = 0x42) c.writes c.written)
    seq c) bankCp 3

/-- What a command that ends in error gives back. -/
def givenBack (s : State) (seq : Nat) (c : OpenCmd) : State :=
  dropReserved (unlockLoad (freeCmdChains (recordLate s seq c) seq) seq) seq

theorem commitCmd_of_good (hstep : isStepOp c.pkt = false) (hgood : c.result.good = true) :
    commitCmd s seq c = closeCmd (committedEffects s seq c) seq := by
  simp [commitCmd, closeCmd, committedEffects, hstep, hgood]

theorem commitCmd_of_error (hstep : isStepOp c.pkt = false) (hbad : c.result.good = false) :
    commitCmd s seq c = closeCmd (count { givenBack s seq c with
      xch := { (givenBack s seq c).xch with
        newGroups := eraseK seq (givenBack s seq c).xch.newGroups } } bankCp 4) seq := by
  simp [commitCmd, closeCmd, givenBack, hstep, hbad]

/-- A step that commits frees its stream, whose next step goes on. -/
theorem commitCmd_of_step (hstep : isStepOp c.pkt = true) (hgood : c.result.good = true)
    (hends : ((committedEffects s seq c).stream (pContext c.pkt) (pStream c.pkt)).stepSeq = seq) :
    commitCmd s seq c = nextStep (closeCmd (stepEnds (committedEffects s seq c) (pContext c.pkt)
      (pStream c.pkt) true) seq) (pContext c.pkt) (pStream c.pkt) := by
  unfold committedEffects at hends ⊢
  simp [commitCmd, closeCmd, hstep, hgood, hends]

end

theorem isStepOp_not_pageWrite {p : Packet} (h : isStepOp p = true) : pOpcode p ≠ 0x42 := by
  intro hop
  simp [isStepOp, hop] at h

/-! ## What opcodes remove at their commit -/

/-- A queue that was removed is no more, but for queue 0, which stands as its registers define it
(R250). -/
theorem sq_commitSqDelete (s : State) (c : OpenCmd) (h : qNum c.pkt ≠ 0) :
    (commitSqDelete s c).sq c.func (qNum c.pkt) = none := by
  simp [State.sq, commitSqDelete, h]

theorem groupAt_dropGroup (s : State) (key : Nat) : (dropGroup s key).groupAt key = none := by
  unfold dropGroup
  split
  next hnone => exact hnone
  next => exact lookup_eraseK_same ..

theorem context_destroyContext (s : State) (id : Nat) : (destroyContext s id).context id = none :=
  lookup_eraseK_same ..

theorem mcast_commitMcastClear (s : State) (c : OpenCmd) :
    lookup (pktBits c.pkt 24 0 12) (commitMcastClear s c).fab.mcast = none :=
  lookup_eraseK_same ..

section
variable (s : State) (seq : Nat) {c : OpenCmd}

theorem commitOp_nop (h : pOpcode c.pkt = 0x00) : commitOp s seq c = s := by
  simp [commitOp, h]

theorem commitOp_sqDelete (h : pOpcode c.pkt = 0x03) : commitOp s seq c = commitSqDelete s c := by
  simp [commitOp, h]

theorem commitOp_ctxDestroy (h : pOpcode c.pkt = 0x21) :
    commitOp s seq c = destroyContext s (pContext c.pkt) := by
  simp [commitOp, h]

theorem commitOp_groupDestroy (h : pOpcode c.pkt = 0xA1) :
    commitOp s seq c =
      dropGroup s (groupKey (pktBits c.pkt 26 0 16) (pktBits c.pkt 24 0 16)) := by
  simp [commitOp, h, commitGroupDestroy]

theorem commitOp_mcastClear (h : pOpcode c.pkt = 0xC9) :
    commitOp s seq c = commitMcastClear s c := by
  simp [commitOp, h]

end

/-- Settles O40: an entry's clauses by its kind, a commit's by whether its command ends well and is
a step, and an opcode's by what its commit removes. -/
theorem commitsAndTheirEffects : Obligations.CommitsAndTheirEffects := by
  unfold Obligations.CommitsAndTheirEffects
  refine ⟨fun n b _ hnone => execJournalEntryDurable_of_none n b (.inl hnone),
    fun _ _ _ holdest hrun hclean => execJournalEntryDurable_of_clean holdest hrun hclean,
    fun _ _ _ hkind _ _ hfed hgone => entryDurable_of_accept hkind hfed hgone,
    fun _ _ _ hkind hc => entryDurable_of_complete hkind hc, ?refuse, ?refuseGone,
    fun n b _ hstop => execJournalEntryDurable_of_none n b (.inr hstop),
    fun seq _ s hstep hgood => ⟨_, rfl, commitCmd_of_good s seq hstep hgood⟩,
    fun seq _ s hstep hbad => ⟨_, _, rfl, rfl, commitCmd_of_error s seq hstep hbad⟩,
    ?sqDelete, ?groupDestroy, ?ctxDestroy, ?mcastClear, fun seq _ s hop => commitOp_nop s seq hop,
    ?step⟩
  case refuse =>
    intro e s hkind hgone hfed
    rw [entryDurable_of_refuse hkind hfed, hgone]
    rfl
  case refuseGone =>
    intro e s hkind hgone hfed
    rw [entryDurable_of_refuse hkind hfed, hgone]
    rfl
  case sqDelete =>
    intro seq c s hop
    rw [commitOp_sqDelete s seq hop]
    exact (ne_or_eq (qNum c.pkt) 0).imp_left (sq_commitSqDelete s c)
  case groupDestroy =>
    intro seq c s hop
    rw [commitOp_groupDestroy s seq hop]
    exact groupAt_dropGroup ..
  case ctxDestroy =>
    intro seq c s hop
    rw [commitOp_ctxDestroy s seq hop]
    exact context_destroyContext ..
  case mcastClear =>
    intro seq c s hop
    rw [commitOp_mcastClear s seq hop]
    exact mcast_commitMcastClear ..
  case step =>
    intro seq c s u v hstep hgood hu hends hv
    have heffects : committedEffects s seq c = u := by
      rw [hu, committedEffects, decide_eq_false (isStepOp_not_pageWrite hstep)]
    rw [hv, ← heffects]
    exact commitCmd_of_step s seq hstep hgood (heffects ▸ hends)

end Sys2Proof.Machine
end

section
/-!
# The end of commands' work, and the control cores (R270, R285–R288, R381)

COMMAND_WORK_DONE has one equation for a command whose work runs: the opcode chooses what ends it.
The failover's equation gives it as the sequence of its steps.
-/
open Sys2Proof
namespace Sys2Proof.Machine

/-! ## COMMAND_WORK_DONE (R270) -/

section
variable {s : State} {seq : Nat} {c : OpenCmd}

theorem execCommandWorkDone_of_idle (b : Bool) (hc : s.cmd seq = some c)
    (hidle : c.phase ≠ .working) : execCommandWorkDone seq b s = .next s := by
  simp [execCommandWorkDone, hc, hidle]

theorem execCommandWorkDone_of_working (b : Bool) (hc : s.cmd seq = some c)
    (hwork : c.phase = .working) (hrun : s.cp.cores.stopped = false) :
    execCommandWorkDone seq b s =
      if pOpcode c.pkt = 0x09 then .next (finishJournalFlush s seq b)
      else if pOpcode c.pkt = 0x28 then .next (completeWith s seq stOk)
      else if pOpcode c.pkt = 0x42 then .next (finishPageWrite s seq c)
      else if pOpcode c.pkt = 0x43 then .next (finishPageRead s seq c)
      else if pOpcode c.pkt = 0x44 then .next (finishMigrate s seq)
      else if pOpcode c.pkt = 0x4C ∨ pOpcode c.pkt = 0x4D then .next (finishPack s seq c)
      else if pOpcode c.pkt = 0x60 then .next (finishLoad s seq c b)
      else if pOpcode c.pkt = 0xE0 then .next (finishTileTest s seq c b)
      else .next s := by
  simp [execCommandWorkDone, hc, hwork, hrun, endsOk]

/-- MIGRATE ends once no move of its runs and no page was written since; such a page is moved again
(R381). -/
theorem finishMigrate_eq (hc : s.cmd seq = some c) :
    finishMigrate s seq =
      if s.wsp.moves.any (fun m => m.kind = .migrate && m.seq = seq) then s
      else if staleMoves s c = [] then completeWith s seq stOk
      else (staleMoves s c).foldl (fun s q =>
        queueMove (s.modPage q fun d => { d with moving := true }) { kind := .migrate, page := q, tier := 2, seq }) s := by
  simp only [finishMigrate, hc]
  split
  next => rfl
  next =>
    cases staleMoves s c with
    | nil => rfl
    | cons => rfl

end

/-! ## The control cores (R285–R288) -/

section
variable {s : State}

/-- A core that fails with no standby stops command processing (R285). -/
theorem failover_of_no_standby (hrun : s.cp.cores.stopped = false)
    (hnone : s.cp.cores.standby = false) : failover s = coreErr s Fld.CP_ERR_STOPPED .fatal := by
  simp [failover, hrun, hnone]

/-- The standby core is the active one, and the failed core is under test. -/
def swapCores (s : State) : State :=
  { s with cp := { s.cp with cores := { s.cp.cores with
    active := 1 - s.cp.cores.active, standby := false, testing := true, lastBeat := s.ticks } } }

/-- What the failed core held has ended or runs again: the entries under way are durable, and every
open command is taken up (R286). -/
def takenOver (s : State) : State :=
  let v := entriesDurable s.cp.journal.notDurable.length
    (timingOpen (count (swapCores s) bankCp 10))
  v.cp.cmds.foldl rerunHeld v

/-- A core that fails with a standby hands over to it (R286, R287). -/
theorem failover_of_standby (hrun : s.cp.cores.stopped = false)
    (hstandby : s.cp.cores.standby = true) :
    failover s = settleStreams (settleWork (rewriteReplies (coreErr
      (recEvent (journalEvent (takenOver s) 0x07 0 0 0 0) 3 0 0 0) Fld.CP_ERR_FAILOVER .recovered
      (nextSeq (takenOver s))))) := by
  have hwaiting : (timingOpen (count (swapCores s) bankCp 10)).cp.journal.notDurable =
      s.cp.journal.notDurable := by simp [timingOpen, swapCores]
  have hon : ¬ (!s.cp.cores.standby) = true := by simp [hstandby]
  rw [takenOver, ← hwaiting, failover]
  dsimp only
  rw [if_neg (by simp [hrun]), if_neg hon]
  rfl

theorem execStandbySelfTestDone_of_testing (b : Bool) (h : s.cp.cores.testing = true) :
    execStandbySelfTestDone b s = .next
      (if b then { s with cp := { s.cp with cores := { s.cp.cores with
          testing := false, standby := b } } }
       else coreErr { s with cp := { s.cp with cores := { s.cp.cores with
          testing := false, standby := b } } } Fld.CP_ERR_STANDBY_LOST .degraded) := by
  simp [execStandbySelfTestDone, h]

end

/-- Settles O41: a command's work ends by the branch of its opcode, and a core's failure by whether
a standby is there. -/
theorem workEndsAndCores : Obligations.WorkEndsAndCores := by
  unfold Obligations.WorkEndsAndCores
  refine ⟨fun _ b _ _ hc hidle => execCommandWorkDone_of_idle b hc hidle, ?work, fun _ => rfl,
    ?stops, ?handsOver, ?tested⟩
  case work =>
    intro seq b c s hc hwork hrun
    have hdone : exec (.commandWorkDone seq b) s = _ :=
      execCommandWorkDone_of_working b hc hwork hrun
    rw [hdone]
    refine ⟨fun h => ?_, fun h => ?_, fun h => ?_, fun h => ?_, fun h => ?migrate, ?pack,
      fun h => ?_, fun h => ?_⟩
    case migrate =>
      rw [← finishMigrate_eq hc]
      simp [h]
    case pack => rintro (h | h) <;> simp [h]
    all_goals simp [h]
  case stops =>
    intro s hrun hnone
    have hstops : execHeartbeatTimeout s = .next (coreErr s Fld.CP_ERR_STOPPED .fatal) :=
      congrArg _ (failover_of_no_standby hrun hnone)
    exact ⟨hstops, hstops⟩
  case handsOver =>
    intro s hrun hstandby
    have hover : execHeartbeatTimeout s = .next _ :=
      congrArg Host.Outcome.next (failover_of_standby hrun hstandby)
    exact ⟨swapCores s, _, takenOver s, rfl, rfl, rfl, rfl, rfl, hover, rfl⟩
  case tested =>
    intro s htesting
    exact ⟨execStandbySelfTestDone_of_testing true htesting,
      execStandbySelfTestDone_of_testing false htesting⟩

end Sys2Proof.Machine
end

section
/-!
# The administration, journal, context and pool commands (R294, R296, R298–R302, R357)

A command about to take effect ends with the first precondition that fails, or has its effect: the
frame says so once, and a command's lemma reads its own list of preconditions off it.
-/
open Sys2Proof
namespace Sys2Proof.Machine

/-! ## The frame's answer (R294) -/

/-- The answer to a command about to take effect: its failing precondition's, or its effect. -/
theorem runCmd_of_starts {s : State} {seq op : Nat} {c : OpenCmd} (h : Starts s seq op c)
    (pre : OpenCmd → Option PreFail) (run : OpenCmd → State) :
    runCmd s seq op pre run = .next ((pre c).elim (run c)
      fun f => completeWith s seq f.status f.num f.word0 f.word1) := by
  cases hpre : pre c with
  | none => exact runCmd_of_pass h hpre run
  | some f => exact runCmd_of_fail h hpre run

theorem elim_firstFail_nil (x : State) (g : PreFail → State) : (firstFail []).elim x g = x := rfl

theorem elim_firstFail_cons (b : Bool) (f : PreFail) (fs : List (Bool × PreFail)) (x : State)
    (g : PreFail → State) :
    (firstFail ((b, f) :: fs)).elim x g = if b then g f else (firstFail fs).elim x g := by
  cases b <;> rfl

/-! ## NOP, queues and CANCEL (R296, R298, R299) -/

section
variable {s : State} {seq : Nat} {c : OpenCmd}

theorem execNop_of_starts (h : Starts s seq 0x00 c) :
    execNop seq s = .next (completeWith s seq stOk) :=
  runCmd_of_pass h rfl _

theorem execSqCreate_of_starts (h : Starts s seq 0x02 c) :
    execSqCreate seq s = .next
      (if (s.sq c.func (qNum c.pkt)).isSome then completeWith s seq stBadParam 1
       else if (s.cq c.func (pktBits c.pkt 34 0 10)).isNone then completeWith s seq stBadParam 2
       else completeWith s seq stOk) := by
  simp only [execSqCreate, runCmd_of_starts h, elim_firstFail_cons, elim_firstFail_nil, endsOk]

theorem execSqDelete_of_starts (h : Starts s seq 0x03 c) :
    execSqDelete seq s = .next
      (if (s.sq c.func (qNum c.pkt)).isNone then completeWith s seq stBadParam 1
       else completeWith s seq stOk) := by
  simp only [execSqDelete, runCmd_of_starts h, elim_firstFail_cons, elim_firstFail_nil, endsOk]

theorem execCqCreate_of_starts (h : Starts s seq 0x04 c) :
    execCqCreate seq s = .next
      (if (s.cq c.func (qNum c.pkt)).isSome then completeWith s seq stBadParam 1
       else completeWith s seq stOk) := by
  simp only [execCqCreate, runCmd_of_starts h, elim_firstFail_cons, elim_firstFail_nil, endsOk]

theorem execCqDelete_of_queue {q : Cq} (h : Starts s seq 0x05 c)
    (hq : s.cq c.func (qNum c.pkt) = some q) :
    execCqDelete seq s = .next
      (if cqBound s c.func (qNum c.pkt) then completeWith s seq stBadParam 2
       else if q.reserved ≠ 0 ∨ q.groupReserved ≠ 0 then completeWith s seq stBadParam 3
       else completeWith s seq stOk) := by
  simp only [execCqDelete, runCmd_of_starts h, hq, elim_firstFail_cons, elim_firstFail_nil, endsOk,
    Bool.or_eq_true, decide_eq_true_eq]

theorem execCancel_of_context {x : Ctx} (h : Starts s seq 0x08 c)
    (hx : ctxFor s c.func (cancelCtx c.pkt) = some x) :
    execCancel seq s = .next
      (if (s.stream (cancelCtx c.pkt) (cancelStream c.pkt)).state = .closed then
        completeWith s seq stBadParam 2
       else completeWith s seq stOk 0 ((s.stream (cancelCtx c.pkt) (cancelStream c.pkt)).gen +
        ((s.stream (cancelCtx c.pkt) (cancelStream c.pkt)).gen + 1) % 2 ^ 16 * 2 ^ 16)) := by
  simp only [execCancel, runCmd_of_starts h, hx, elim_firstFail_cons, elim_firstFail_nil, endsOk,
    Option.isNone_some, Bool.false_eq_true, if_false, decide_eq_true_eq]

/-! ## The journal's image (R300, R301) -/

theorem execJournalFlush_of_starts (h : Starts s seq 0x09 c) :
    execJournalFlush seq s = .next ((startWork s seq).modCmd seq
      fun c => { c with image := s.cp.journal.ring.filter fun e => e.seq ≤ seq }) :=
  runCmd_of_pass h rfl _

theorem execJournalFetch_of_no_image (h : Starts s seq 0x0A c) (hnone : s.cp.nand.flushEpoch = 0) :
    execJournalFetch seq s = .next (completeWith s seq stBadParam 1) :=
  runCmd_of_fail h (f := { num := 1 }) (by simp [firstFail, hnone]) _

/-- The journal entries that a JOURNAL_FETCH names in the flush image. -/
def fetchedEntries (s : State) (p : Packet) : List JEntry :=
  (s.cp.nand.image.drop (pktBits p 32 0 32)).take (pktBits p 36 0 32)

theorem execJournalFetch_of_image (h : Starts s seq 0x0A c) (himage : s.cp.nand.flushEpoch ≠ 0) :
    execJournalFetch seq s = .next
      (if s.cp.nand.image.length < pktBits c.pkt 32 0 32 + pktBits c.pkt 36 0 32 then
        completeWith s seq stBadParam 2
       else completeWith (send (count s bankNtl 0 (nandUnits (128 * pktBits c.pkt 32 0 32)
          (128 * (fetchedEntries s c.pkt).length)))
        (.write c.func (pktBits c.pkt 24 0 64) ((fetchedEntries s c.pkt).flatMap JEntry.bytes)))
        seq stOk 0 s.cp.nand.flushEpoch) := by
  simp only [execJournalFetch, runCmd_of_starts h, himage, elim_firstFail_cons, elim_firstFail_nil,
    endsOk, fetchedEntries, count_cp, decide_false, Bool.false_eq_true, if_false, decide_eq_true_eq,
    gt_iff_lt]

end

/-- Settles O18: each clause is the lemma of its command. -/
theorem administrationCommands : Obligations.AdministrationCommands := by
  unfold Obligations.AdministrationCommands
  exact ⟨fun _ _ _ h => execNop_of_starts h, fun _ _ _ h => execSqCreate_of_starts h,
    fun _ _ _ h => execSqDelete_of_starts h, fun _ _ _ h => execCqCreate_of_starts h,
    fun _ _ _ _ h hq => execCqDelete_of_queue h hq, fun _ _ _ _ h hx => execCancel_of_context h hx,
    fun _ _ _ h => execJournalFlush_of_starts h,
    fun _ _ _ h hnone => execJournalFetch_of_no_image h hnone,
    fun _ _ _ h himage => execJournalFetch_of_image h himage⟩

/-! ## Contexts and streams (R302) -/

section
variable {s : State} {seq : Nat} {c : OpenCmd}

theorem execCtxCreate_of_good (h : Starts s seq 0x20 c)
    (hfree : s.context (pContext c.pkt) = none)
    (hdesc : ctxDescFails s c.func (ctxDesc (c.payload.getD [])) = none) :
    execCtxCreate seq s = .next (completeWith s seq stOk) :=
  runCmd_of_pass h (by simp [hfree, hdesc]) _

theorem execCtxDestroy_of_context {x : Ctx} (h : Starts s seq 0x21 c)
    (hx : ctxFor s c.func (pContext c.pkt) = some x) :
    execCtxDestroy seq s = .next
      (if x.streams.any fun e => e.2.state != .closed then completeWith s seq stBadParam 2
       else completeWith s seq stOk) := by
  simp only [execCtxDestroy, runCmd_of_starts h, hx, elim_firstFail_cons, elim_firstFail_nil,
    endsOk]

theorem execStreamOpen_of_no_group (h : Starts s seq 0x22 c) (hpre : streamOpenPre s c = none)
    (hgroup : pktBits c.pkt 24 0 16 = 0) :
    execStreamOpen seq s = .next (completeWith s seq stOk 0
      (((s.stream (pContext c.pkt) (pStream c.pkt)).gen + 1) % 2 ^ 16)) := by
  simp only [execStreamOpen, runCmd_of_pass h hpre, hgroup, if_true, endsOk]

/-- A stream that names a group takes its return area from its pool when it takes effect. -/
theorem execStreamOpen_of_group {q : Pool} {bufs : List Nat} {t : State} (h : Starts s seq 0x22 c)
    (hpre : streamOpenPre s c = none) (hgroup : pktBits c.pkt 24 0 16 ≠ 0)
    (hq : s.pool (poolKey c.func (pktBits c.pkt 32 0 10)) = some q)
    (hbufs : allocBufs s (poolKey c.func (pktBits c.pkt 32 0 10)) (pContext c.pkt)
      (retAreaBufs (pktBits c.pkt 30 0 2) (pktBits c.pkt 28 0 14) q.bufBytes) = .inr (bufs, t)) :
    execStreamOpen seq s = .next (completeWith (t.modCmd seq fun c' =>
      { c' with chains := [(poolKey c.func (pktBits c.pkt 32 0 10), bufs)] }) seq stOk 0
      (((s.stream (pContext c.pkt) (pStream c.pkt)).gen + 1) % 2 ^ 16)) := by
  simp only [execStreamOpen, runCmd_of_pass h hpre, hgroup, if_false, hq, hbufs, endsOk]

theorem execStreamClose_of_context {x : Ctx} (h : Starts s seq 0x23 c)
    (hx : ctxFor s c.func (pContext c.pkt) = some x) :
    execStreamClose seq s = .next
      (if (s.stream (pContext c.pkt) (pStream c.pkt)).state = .closed then
        completeWith s seq stBadParam 1
       else completeWith s seq stOk) := by
  simp only [execStreamClose, runCmd_of_starts h, hx, elim_firstFail_cons, elim_firstFail_nil,
    endsOk, Option.isNone_some, Bool.false_or, decide_eq_true_eq]

/-! ## Pools and chains (R302, R357) -/

theorem execPoolCreate_of_free (h : Starts s seq 0x28 c)
    (hfree : s.pool (poolKey c.func (pktBits c.pkt 24 0 10)) = none) :
    execPoolCreate seq s = .next
      (if (poolRun s c.func (pktBits c.pkt 26 0 2) (pktBits c.pkt 28 0 32)
          (pktBits c.pkt 32 0 32)).isNone then completeWith s seq stNoFit 2
       else reservePool (startWork s seq) seq c) := by
  rw [execPoolCreate, runCmd_of_starts h, elim_firstFail_cons, elim_firstFail_cons,
    elim_firstFail_nil, hfree, Option.isSome_none, if_neg Bool.false_ne_true]

/-- A quota is promised where the pool holds it beside the minimums of the other contexts. -/
theorem execPoolQuota_of_pool {q : Pool} (h : Starts s seq 0x29 c)
    (hq : s.pool (poolKey c.func (pktBits c.pkt 24 0 10)) = some q)
    (hle : pktBits c.pkt 28 0 32 ≤ pktBits c.pkt 32 0 32) :
    execPoolQuota seq s = .next
      (if q.count < (q.quotas.map fun e => if e.1 = pContext c.pkt then 0 else e.2.min).foldl
          (· + ·) 0 + pktBits c.pkt 28 0 32 then completeWith s seq stNoFit 3
       else completeWith s seq stOk 0 (pktBits c.pkt 32 0 32)) := by
  simp only [execPoolQuota, runCmd_of_starts h, hq, elim_firstFail_cons, elim_firstFail_nil, endsOk,
    hle.not_gt, decide_false, Bool.false_eq_true, if_false, decide_eq_true_eq]

theorem execBufFree_of_starts (h : Starts s seq 0x2A c) :
    execBufFree seq s = .next
      (if (findChain s c.func (pContext c.pkt) (pktBits c.pkt 24 0 64)).isNone then
        completeWith s seq stBadParam 1
       else completeWith s seq stOk) := by
  simp only [execBufFree, runCmd_of_starts h, elim_firstFail_cons, elim_firstFail_nil, endsOk]

theorem execPoolDestroy_of_pool {q : Pool} (h : Starts s seq 0x2B c)
    (hq : s.pool (poolKey c.func (pktBits c.pkt 24 0 10)) = some q) :
    execPoolDestroy seq s = .next
      (if q.links.isEmpty then completeWith s seq stOk else completeWith s seq stBadParam 2) := by
  simp only [execPoolDestroy, runCmd_of_starts h, hq, elim_firstFail_cons, elim_firstFail_nil,
    endsOk]
  cases q.links.isEmpty <;> rfl

end

/-- Settles O19: each clause is the lemma of its command for what that command meets. -/
theorem contextAndPoolCommands : Obligations.ContextAndPoolCommands := by
  unfold Obligations.ContextAndPoolCommands
  exact ⟨fun _ _ _ h hfree hdesc => execCtxCreate_of_good h hfree hdesc,
    fun _ _ _ _ h hx => execCtxDestroy_of_context h hx,
    fun _ _ _ h hpre hgroup => execStreamOpen_of_no_group h hpre hgroup,
    fun _ _ _ _ _ _ h hpre hgroup hq hbufs => execStreamOpen_of_group h hpre hgroup hq hbufs,
    fun _ _ _ _ h hx => execStreamClose_of_context h hx,
    fun _ _ _ h hfree => execPoolCreate_of_free h hfree,
    fun _ _ _ _ h hq hle => execPoolQuota_of_pool h hq hle,
    fun _ _ _ h => execBufFree_of_starts h, fun _ _ _ _ h hq => execPoolDestroy_of_pool h hq⟩

end Sys2Proof.Machine
end

section
/-!
# The page, pour-list and pack commands (R304–R306, R383, R394)

The page commands look for the first page of their range that the function may not name;
`unmappedPre_eq_none_iff` says when there is none.
-/
open Sys2Proof
namespace Sys2Proof.Machine

/-! ## The pages of a range (R294, R304) -/

theorem unmappedPre_eq_none_iff (s : State) (f : Nat) (ps : List Nat) (num : Nat) :
    unmappedPre s f ps num = none ↔ ∀ q ∈ ps, (pageFor s f q).isSome := by
  simp [unmappedPre, Option.isSome_iff_ne_none]

/-- The first page of a range that the function has not mapped is what fails. -/
theorem unmappedPre_of_find {s : State} {f q num : Nat} {ps : List Nat}
    (hq : ps.find? (fun q => (pageFor s f q).isNone) = some q) :
    unmappedPre s f ps num = some { num, word0 := q * pageBytes } := by
  simp [unmappedPre, hq]

section
variable {s : State} {seq : Nat} {c : OpenCmd}

/-! ## PAGE_MAP, PAGE_UNMAP and MIGRATE (R304) -/

/-- A range of pages that are free and the function's own is mapped where it fits. -/
theorem execPageMap_of_free (h : Starts s seq 0x40 c)
    (hfree : ∀ q ∈ rangePages c.pkt, s.page q = none ∧ heldPage s q = false ∧
      inAperture (q * pageBytes) = false ∧ fnPageOwns s c.func q = true) :
    execPageMap seq s = .next
      (if pTier c.pkt = 0 ∧ (pReplicated c.pkt = true ∨ pPin c.pkt = true) then
        completeWith s seq stBadParam 2
       else if mapFits s c.pkt = true then completeWith s seq stOk
       else completeWith s seq stNoFit 3) := by
  have htaken : (rangePages c.pkt).find? (fun q => (s.page q).isSome || heldPage s q ||
      inAperture (q * pageBytes)) = none := by
    rw [List.find?_eq_none]
    intro q hq
    obtain ⟨hpage, hheld, haperture, -⟩ := hfree q hq
    simp [hpage, hheld, haperture]
  have hforeign : (rangePages c.pkt).find? (fun q => !fnPageOwns s c.func q) = none := by
    rw [List.find?_eq_none]
    intro q hq
    obtain ⟨-, -, -, howns⟩ := hfree q hq
    simp [howns]
  simp only [execPageMap, runCmd_of_starts h, htaken, hforeign, elim_firstFail_cons,
    elim_firstFail_nil, endsOk, Bool.and_eq_true, Bool.or_eq_true, decide_eq_true_eq]
  cases mapFits s c.pkt <;> rfl

theorem execPageUnmap_of_unused (h : Starts s seq 0x41 c)
    (hunused : ∀ q ∈ rangePages c.pkt, (pageFor s c.func q).isSome ∧
      pageInUse { s with cp := { s.cp with cmds := eraseK seq s.cp.cmds } } q = false) :
    execPageUnmap seq s = .next (completeWith s seq stOk) := by
  have hmapped : unmappedPre s c.func (rangePages c.pkt) 1 = none :=
    (unmappedPre_eq_none_iff ..).mpr fun q hq => (hunused q hq).1
  have hnoUse : (rangePages c.pkt).find?
      (pageInUse { s with cp := { s.cp with cmds := eraseK seq s.cp.cmds } }) = none :=
    List.find?_eq_none.mpr fun q hq => by simp [(hunused q hq).2]
  exact runCmd_of_pass h (by simp only [hmapped, hnoUse, Option.map_none]) _

/-- A MIGRATE of mapped pages that fit queues a move for each of them (R379). -/
theorem execMigrate_of_mapped (h : Starts s seq 0x44 c)
    (hmapped : ∀ q ∈ rangePages c.pkt, (pageFor s c.func q).isSome)
    (hplace : ¬ (pTier c.pkt = 0 ∧ (pReplicated c.pkt = true ∨ pPin c.pkt = true))) :
    execMigrate seq s = .next
      (if migrateFits s c.pkt = true then
        (rangePages c.pkt).foldl (fun s q =>
          queueMove (s.modPage q fun d => { d with moving := true })
            { kind := .migrate, page := q, tier := pTier c.pkt, seq }) (startWork s seq)
       else completeWith s seq stNoFit 3) := by
  simp only [execMigrate, runCmd_of_starts h, (unmappedPre_eq_none_iff s c.func _ 1).mpr hmapped,
    elim_firstFail_cons, elim_firstFail_nil, Bool.and_eq_true, Bool.or_eq_true, decide_eq_true_eq,
    hplace, if_false]
  cases migrateFits s c.pkt <;> rfl

/-! ## PAGE_WRITE and PAGE_READ (R273, R304) -/

theorem execPageWrite_of_mapped (h : Starts s seq 0x42 c)
    (hmapped : ∀ q ∈ plainPages (pktBits c.pkt 32 0 48) (pktBits c.pkt 40 0 32),
      (pageFor s c.func q).isSome) :
    execPageWrite seq s = .next ((startWork s seq).modCmd seq fun x =>
      { x with dest := [(pktBits c.pkt 32 0 48, pktBits c.pkt 40 0 32)] }) :=
  runCmd_of_pass h ((unmappedPre_eq_none_iff ..).mpr hmapped) _

theorem execPageRead_of_mapped (h : Starts s seq 0x43 c)
    (hmapped : ∀ q ∈ plainPages (pktBits c.pkt 32 0 48) (pktBits c.pkt 40 0 32),
      (pageFor s c.func q).isSome) :
    execPageRead seq s = .next (startWork s seq) :=
  runCmd_of_pass h ((unmappedPre_eq_none_iff ..).mpr hmapped) _

theorem execPageRead_of_unmapped {q : Nat} (h : Starts s seq 0x43 c)
    (hq : (plainPages (pktBits c.pkt 32 0 48) (pktBits c.pkt 40 0 32)).find?
      (fun q => (pageFor s c.func q).isNone) = some q) :
    execPageRead seq s = .next (completeWith s seq stBadParam 1 (q * pageBytes)) :=
  runCmd_of_fail h (f := { num := 1, word0 := q * pageBytes }) (unmappedPre_of_find hq) _

theorem execPageWrite_of_unmapped {q : Nat} (h : Starts s seq 0x42 c)
    (hq : (plainPages (pktBits c.pkt 32 0 48) (pktBits c.pkt 40 0 32)).find?
      (fun q => (pageFor s c.func q).isNone) = some q) :
    execPageWrite seq s = .next (completeWith s seq stBadParam 1 (q * pageBytes)) :=
  runCmd_of_fail h (f := { num := 1, word0 := q * pageBytes }) (unmappedPre_of_find hq) _

end

/-- Settles O20: each clause is the lemma of its command for what that command meets. -/
theorem pageCommands : Obligations.PageCommands := by
  unfold Obligations.PageCommands
  exact ⟨fun _ _ _ h hfree => execPageMap_of_free h hfree,
    fun _ _ _ h hunused => execPageUnmap_of_unused h hunused,
    fun _ _ _ h hmapped hplace => execMigrate_of_mapped h hmapped hplace,
    fun _ _ _ h hmapped => execPageWrite_of_mapped h hmapped,
    fun _ _ _ h hmapped => execPageRead_of_mapped h hmapped,
    fun _ _ _ _ h hq => execPageRead_of_unmapped h hq,
    fun _ _ _ _ h hq => execPageWrite_of_unmapped h hq⟩

/-! ## Pour lists (R304, R383) -/

section
variable {s : State} {seq : Nat} {c : OpenCmd}

/-- The index of the first bad entry of a POUR_SET's list. -/
def pourFault (s : State) (c : OpenCmd) : Option Nat :=
  pourFirstBad s c.func (pktBits c.pkt 24 0 16) ((pourOf c).map Prod.fst) 0 (pourOf c)

/-- A list of a loaded model that is not too long ends as its first bad entry, if any, has it. -/
theorem execPourSet_of_loaded (h : Starts s seq 0x48 c)
    (hloaded : modelLoaded s (pktBits c.pkt 24 0 16) = true)
    (hlen : pktBits c.pkt 40 0 32 ≤ 1048576) :
    execPourSet seq s = .next ((pourFault s c).elim (completeWith s seq stOk)
      fun i => completeWith s seq stBadParam 2 i) := by
  simp only [execPourSet, runCmd_of_starts h, hloaded, Bool.not_true, Bool.false_eq_true, if_false,
    hlen.not_gt, Option.elim_map, endsOk, pourFault]
  rfl

theorem execPourSet_of_not_loaded (h : Starts s seq 0x48 c)
    (hloaded : modelLoaded s (pktBits c.pkt 24 0 16) = false) :
    execPourSet seq s = .next (completeWith s seq stBadParam 1) :=
  runCmd_of_fail h (f := { num := 1 }) (by simp [hloaded]) _

theorem execPourClear_of_starts (h : Starts s seq 0x49 c) :
    execPourClear seq s = .next
      (if hasK (pktBits c.pkt 24 0 16) (installedLists s) = true then completeWith s seq stOk
       else completeWith s seq stBadParam 1) := by
  simp only [execPourClear, runCmd_of_starts h, elim_firstFail_cons, elim_firstFail_nil, endsOk]
  cases hasK (pktBits c.pkt 24 0 16) (installedLists s) <;> rfl

/-! ## PACK24 and SHADOW_BUILD (R305, R306, R394) -/

theorem beginPack_of_sound (seq : Nat) (hsound : lostSource s c.pkt = none) :
    beginPack s seq c =
      (startWork s seq).modCmd seq fun x => { x with dest := [pkDest c.pkt] } := by
  simp only [beginPack, hsound]

theorem beginPack_of_lost (seq : Nat) {q a : Nat} (hlost : lostSource s c.pkt = some (q, a)) :
    beginPack s seq c = completeWith (meetLost s q) seq stUncorrectable 0 a := by
  simp only [beginPack, hlost]

theorem execPack24_of_pass (h : Starts s seq 0x4C c) (hpre : packPre s c = none) :
    execPack24 seq s = .next (beginPack s seq c) :=
  runCmd_of_pass h hpre _

theorem execShadowBuild_of_pass (h : Starts s seq 0x4D c) (hpre : packPre s c = none) :
    execShadowBuild seq s = .next (beginPack s seq c) :=
  runCmd_of_pass h hpre _

end

/-- Settles O21: a pour list's clauses are the lemmas of its commands; PACK24 and SHADOW_BUILD begin
alike, by whether a source page is LOST. -/
theorem pourAndPackCommands : Obligations.PourAndPackCommands := by
  unfold Obligations.PourAndPackCommands
  refine ⟨?pourSet, fun _ _ _ h hloaded => execPourSet_of_not_loaded h hloaded,
    fun _ _ _ h => execPourClear_of_starts h,
    fun seq _ _ h hpre hsound => beginPack_of_sound seq hsound ▸ execPack24_of_pass h hpre,
    fun seq _ _ h hpre hsound => beginPack_of_sound seq hsound ▸ execShadowBuild_of_pass h hpre,
    fun seq _ _ _ _ h hpre hlost => beginPack_of_lost seq hlost ▸ execPack24_of_pass h hpre,
    fun seq _ _ _ _ h hpre hlost =>
      beginPack_of_lost seq hlost ▸ execShadowBuild_of_pass h hpre⟩
  case pourSet =>
    intro seq c s h hloaded hlen
    refine (execPourSet_of_loaded h hloaded hlen).trans ?_
    unfold pourFault
    split
    next hbad => rw [hbad]; rfl
    next hgood => rw [hgood]; rfl

end Sys2Proof.Machine
end

section
/-!
# STEP, STEP_EMPTY, EXPERT_MASK and BITMAP_READ (R309–R312, R318, R390, R454)

STEP and STEP_EMPTY share `runStep`, which has one lemma for each thing that it does with a command
about to take effect. EXPERT_MASK and BITMAP_READ wait for an earlier command on the same masks
before the frame of a host command sees them.
-/
open Sys2Proof
namespace Sys2Proof.Machine

/-! ## STEP and STEP_EMPTY (R309–R311, R390, R454) -/

section
variable {s : State} {seq op : Nat} {c : OpenCmd}

theorem runStep_of_pass (h : Starts s seq op c) (hpages : absentDescs s c.pkt = [])
    (hlines : windowLines s false (descRanges s c.pkt) = []) (hpre : stepPre s seq c = none) :
    runStep s seq op = .next (beginStep s seq c) := by
  obtain ⟨htakes, hfaulted⟩ := h
  simp [runStep, htakes, hfaulted, hpages, hlines, hpre]

theorem runStep_of_fail {f : PreFail} (h : Starts s seq op c) (hpages : absentDescs s c.pkt = [])
    (hlines : windowLines s false (descRanges s c.pkt) = []) (hpre : stepPre s seq c = some f) :
    runStep s seq op = .next (endCmd s seq
      { status := f.status, detail := f.num, word0 := f.word0, word1 := f.word1 }) := by
  obtain ⟨htakes, hfaulted⟩ := h
  simp [runStep, htakes, hfaulted, hpages, hlines, hpre]

/-- The pages of the descriptors without a DRAM copy are fetched first (R390). -/
theorem runStep_of_absent (h : Starts s seq op c) (hpages : absentDescs s c.pkt ≠ []) :
    runStep s seq op = .next
      (waitForPages s (pContext c.pkt) (pStream c.pkt) (absentDescs s c.pkt)) := by
  obtain ⟨htakes, hfaulted⟩ := h
  obtain ⟨p, ps, habsent⟩ := List.exists_cons_of_ne_nil hpages
  simp [runStep, htakes, hfaulted, habsent]

/-- Lines of the descriptors that a peer holds are called in first (R454). -/
theorem runStep_of_lines (h : Starts s seq op c) (hpages : absentDescs s c.pkt = [])
    (hlines : windowLines s false (descRanges s c.pkt) ≠ []) :
    runStep s seq op = .next (askLines s (windowLines s false (descRanges s c.pkt))) := by
  obtain ⟨htakes, hfaulted⟩ := h
  simp [runStep, htakes, hfaulted, hpages, hlines]

end

/-! ## EXPERT_MASK and BITMAP_READ (R312, R318) -/

section
variable {s : State} {seq : Nat} {c : OpenCmd}

theorem cmd_of_starts {op : Nat} (h : Starts s seq op c) : s.cmd seq = some c := by
  obtain ⟨htakes, -⟩ := h
  unfold takesEffect at htakes
  split at htakes
  next => cases htakes
  next c' hc =>
    split at htakes
    next => rw [hc, htakes]
    next => cases htakes

theorem execExpertMask_of_loaded (h : Starts s seq 0x88 c)
    (hfree : maskBusy s seq (pktBits c.pkt 24 0 16) = false)
    (hloaded : modelLoaded s (pktBits c.pkt 24 0 16) = true)
    (hexperts : ∀ e ∈ maskList c, e < 2 ^ 20) :
    execExpertMask seq s = .next (completeWith s seq stOk 0
      ((maskAll (pktBits c.pkt 26 0 2) (lookupD {} (pktBits c.pkt 24 0 16) s.models)
          (maskList c)).1.maskVer +
        (maskAll (pktBits c.pkt 26 0 2) (lookupD {} (pktBits c.pkt 24 0 16) s.models)
          (maskList c)).2 * 2 ^ 32)) := by
  have hsmall : ((maskList c).any fun e => 2 ^ 20 ≤ e) = false :=
    List.any_eq_false.mpr fun e he => by simpa using hexperts e he
  simp only [execExpertMask, cmd_of_starts h, hfree, Bool.false_eq_true, if_false]
  exact runCmd_of_pass h (by simp only [firstFail, hloaded, hsmall]; rfl) _

theorem execBitmapRead_of_starts (h : Starts s seq 0xE1 c)
    (hfree : maskBusy s seq (pktBits c.pkt 24 0 16) = false) :
    execBitmapRead seq s = .next
      (if modelLoaded s (pktBits c.pkt 24 0 16) = true then
        completeWith s seq stOk 0 (lookupD {} (pktBits c.pkt 24 0 16) s.models).maskVer
       else completeWith s seq stBadParam 1) := by
  simp only [execBitmapRead, cmd_of_starts h, hfree, Bool.false_eq_true, if_false,
    runCmd_of_starts h, elim_firstFail_cons, elim_firstFail_nil, endsOk]
  cases modelLoaded s (pktBits c.pkt 24 0 16) <;> rfl

end

/-- Settles O25: STEP and STEP_EMPTY do what `runStep` does with their opcode. -/
theorem stepAndMaskCommands : Obligations.StepAndMaskCommands := by
  unfold Obligations.StepAndMaskCommands
  exact ⟨fun _ _ _ h hpages hlines hpre => runStep_of_pass h hpages hlines hpre,
    fun _ _ _ h hpages hlines hpre => runStep_of_pass h hpages hlines hpre,
    fun _ _ _ _ h hpages hlines hpre => runStep_of_fail h hpages hlines hpre,
    fun _ _ _ _ h hpages hlines hpre => runStep_of_fail h hpages hlines hpre,
    fun _ _ _ h hpages => runStep_of_absent h hpages,
    fun _ _ _ h hpages => runStep_of_absent h hpages,
    fun _ _ _ h hpages hlines => runStep_of_lines h hpages hlines,
    fun _ _ _ h hpages hlines => runStep_of_lines h hpages hlines,
    fun _ _ _ h hfree hloaded hexperts => execExpertMask_of_loaded h hfree hloaded hexperts,
    fun _ _ _ h hfree => execBitmapRead_of_starts h hfree⟩

end Sys2Proof.Machine
end

section
/-!
# The scheduler's rows (R327, R328, R331–R333, R336, R342)

SCHEDULE begins with the scheduler's choice, so each of its lemmas says what one choice leads to.
PIN_WATCHDOG reports its error before the step ends: between the two, CTX_ERR and CTX_ERR_INFO read
as written, because the journal and the error log write other registers only.
-/
open Sys2Proof
namespace Sys2Proof.Machine

/-! ## The registers that an error's report writes (R276, R498, R500) -/

section
variable {s : State} {r : RegSpec} {i fn : Nat}

/-- Of the registers, a log entry writes only the one that tells of the log's wrap. -/
theorem raw_logEntry_of_ne (block bit : Nat) (cls : ErrClass) (e : ErrInfo)
    (hlog : regKey r i fn ≠ regKey Reg.RAS_ERR 0 0) :
    raw (logEntry s block bit cls e) r i fn = raw s r i fn := by
  unfold logEntry
  dsimp only
  split
  · exact (raw_setRaw_ne _ _ _ _ _ _ _ _ hlog).trans (raw_congr (count_regs ..) ..)
  · exact raw_congr (count_regs ..) ..

/-- Of the registers, an alert writes only the one that tells of alerts left unacknowledged. -/
theorem raw_alert_of_ne (seq cls block bit : Nat)
    (halert : regKey r i fn ≠ regKey Reg.MGT_ERR 0 0) :
    raw (alert s seq cls block bit) r i fn = raw s r i fn := by
  unfold alert
  split
  · dsimp only
    split
    · exact (raw_congr (irqUpdate_regs _) ..).trans
        ((raw_setRaw_ne _ _ _ _ _ _ _ _ halert).trans (raw_congr (count_regs ..) ..))
    · exact raw_congr (count_regs ..) ..
  · rfl

/-- Beside the log's and the chain's own registers, an error writes its bit. -/
theorem raw_raiseErr_of_apart (f : FieldRef) (idx : Nat) (cls : ErrClass) (e : ErrInfo)
    (hlog : regKey r i fn ≠ regKey Reg.RAS_ERR 0 0)
    (halert : regKey r i fn ≠ regKey Reg.MGT_ERR 0 0) :
    raw (raiseErr s f idx cls e) r i fn = raw (setFld s f 1 idx) r i fn := by
  have hstop (u : State) :
      raw (irqUpdate (if cls = .fatal then stopFatal u else u)) r i fn = raw u r i fn := by
    refine raw_congr ((irqUpdate_regs _).trans ?_) ..
    split <;> rfl
  unfold raiseErr
  dsimp only
  rw [hstop]
  split
  · rfl
  · split
    · rw [raw_alert_of_ne _ _ _ _ halert, raw_logEntry_of_ne _ _ _ _ hlog]
    · exact raw_logEntry_of_ne _ _ _ _ hlog

theorem flag_raiseErr_same {f : FieldRef} {idx : Nat} (cls : ErrClass) (e : ErrInfo)
    (hlog : regKey f.reg idx 0 ≠ regKey Reg.RAS_ERR 0 0)
    (halert : regKey f.reg idx 0 ≠ regKey Reg.MGT_ERR 0 0)
    (hreset : f.reg.resetOf idx < 2 ^ 64) (hend : f.lo + f.len ≤ 64) (hone : f.len = 1) :
    flag (raiseErr s f idx cls e) f idx = true := by
  rw [flag, fld, raw_raiseErr_of_apart _ _ _ _ hlog halert]
  exact flag_setFld_same s true hreset hend hone

/-- Beside the registers of an error's report, a journal entry may write JRN_ERR (R281). -/
theorem raw_journal_of_ne (e : JEntry) (hjrn : regKey r i fn ≠ regKey Reg.JRN_ERR 0 0)
    (hlog : regKey r i fn ≠ regKey Reg.RAS_ERR 0 0)
    (halert : regKey r i fn ≠ regKey Reg.MGT_ERR 0 0) :
    raw (journal s e) r i fn = raw s r i fn := by
  have hlost (u : State) (b : Bool) (hu : u.regs = s.regs) :
      raw (if b then raiseErr u Fld.JRN_ERR_LOST 0 .recovered else u) r i fn = raw s r i fn := by
    split
    · rw [raw_raiseErr_of_apart _ _ _ _ hlog halert]
      exact (raw_setRaw_ne _ _ _ _ _ _ _ _ hjrn).trans (raw_congr hu ..)
    · exact raw_congr hu ..
  exact hlost _ _ (count_regs ..)

end

/-! ## SCHEDULE (R327, R328, R332, R342) -/

section
variable {s t : State} {ctx st : Nat}

/-- The stream that is bound begins its step; one that a held-back slot was pre-empted for has no
slot yet and waits on (log entry 16). -/
theorem execSchedule_of_bound (hfirst : scheduleFirst s (waitingStreams s) = some ((ctx, st), t))
    (hrecord : recordLost s t ctx st = none) :
    execSchedule s = .next (if (t.stream ctx st).slot = none then t
      else startStep t (t.stream ctx st).stepSeq ctx st) := by
  simp only [execSchedule, hfirst, hrecord, Option.isNone_iff_eq_none]
  split <;> rfl

theorem execSchedule_of_lost {q : Nat}
    (hfirst : scheduleFirst s (waitingStreams s) = some ((ctx, st), t))
    (hrecord : recordLost s t ctx st = some q) :
    execSchedule s = .next (stateAreaFault (t.stream ctx st).stepSeq (meetLost t q) ctx) := by
  simp only [execSchedule, hfirst, hrecord]

theorem execSchedule_of_none (hfirst : scheduleFirst s (waitingStreams s) = none) :
    execSchedule s = .next s := by
  simp only [execSchedule, hfirst]

end

/-! ## STREAM_BLOCK_TIMEOUT (R333, R334) -/

section
variable {s : State} {ctx st : Nat}

@[simp] theorem State.setStream_regs (s : State) (ctx st : Nat) (x : Stream) :
    (s.setStream ctx st x).regs = s.regs := by
  unfold State.setStream
  split <;> rfl

/-- With EVICT_EN clear, no eviction is ever due. -/
theorem evictionDue_of_disabled (h : flag s Fld.CTX_CTL_EVICT_EN = false) :
    evictionDue s = false := by
  simp [evictionDue, h]

theorem execStreamBlockTimeout_of_disabled (hblocked : (s.stream ctx st).state = .blocked)
    (hevict : flag s Fld.CTX_CTL_EVICT_EN = false) :
    execStreamBlockTimeout ctx st s =
      .next (s.setStream ctx st { s.stream ctx st with evictable := true }) := by
  have hdue : evictionDue (s.setStream ctx st { s.stream ctx st with evictable := true }) = false :=
    evictionDue_of_disabled ((flag_congr (State.setStream_regs ..) ..).trans hevict)
  exact (if_neg (not_not.mpr hblocked)).trans (if_pos (by rw [hdue]; rfl))

end

/-! ## PIN_WATCHDOG (R331) -/

/-- What PIN_WATCHDOG puts in CTX_ERR_INFO: the stream, and cause 1 (R355). -/
def watchdogInfo (ctx st : Nat) : Nat := ctx + st * 2 ^ 18 + 2 ^ 24

/-- The pinned step does no more work, its group is broken on this member, and CTX_ERR_INFO names
the stream. -/
def watchdogStopped (s : State) (ctx st : Nat) : State :=
  let x := s.stream ctx st
  setRaw (breakGroup (freeCmdChains (stopStepWork (stopTileWork s x.stepSeq) x.stepSeq) x.stepSeq)
    x.group) Reg.CTX_ERR_INFO 0 0 (watchdogInfo ctx st)

/-- The removal is journaled and the error is raised; the step has still to end. -/
def watchdogReported (s : State) (ctx st : Nat) : State :=
  let x := s.stream ctx st
  let u := watchdogStopped s ctx st
  raiseErr
    (journalEvent u 0x06 x.stepSeq removedBroken 0 (eventHead ctx st (x.layer.getD 0)) x.msc)
    Fld.CTX_ERR_WATCHDOG 0 .contained
    { ctx, jrnSeq := nextSeq u, arg := watchdogInfo ctx st }

section
variable {s : State} {ctx st : Nat}

theorem execPinWatchdog_of_pinned (hpinned : (s.stream ctx st).state = .pinned)
    (hopen : (s.cmd (s.stream ctx st).stepSeq).any (fun c => c.phase = .completing) = false) :
    execPinWatchdog ctx st s = .next (count (endCmd (watchdogReported s ctx st)
      (s.stream ctx st).stepSeq { status := stGroupReformed, word0 := removedBroken })
      bankCtx 9) := by
  have hends : ((s.stream ctx st).state ≠ .pinned ||
      (s.cmd (s.stream ctx st).stepSeq).any fun c => c.phase = .completing) = false := by
    simp [hpinned, hopen]
  simp only [execPinWatchdog, hends, Bool.false_eq_true, if_false]
  rfl

theorem flag_watchdogReported : flag (watchdogReported s ctx st) Fld.CTX_ERR_WATCHDOG = true :=
  flag_raiseErr_same _ _ (by decide) (by decide) (by decide) (by decide) rfl

theorem raw_watchdogReported_info (hctx : ctx < 2 ^ 18) (hst : st < 64) :
    raw (watchdogReported s ctx st) Reg.CTX_ERR_INFO = watchdogInfo ctx st := by
  have hfits : watchdogInfo ctx st < 2 ^ 64 := by
    unfold watchdogInfo
    omega
  have herr : raw (watchdogReported s ctx st) Reg.CTX_ERR_INFO =
      raw (watchdogStopped s ctx st) Reg.CTX_ERR_INFO :=
    (raw_raiseErr_of_apart _ _ _ _ (by decide) (by decide)).trans
      ((raw_setRaw_ne _ _ _ _ _ _ _ _ (by decide)).trans
        (raw_journal_of_ne _ (by decide) (by decide) (by decide)))
  exact herr.trans (raw_setRaw_same _ _ _ _ _ hfits)

end

/-- Settles O27: each clause is its row's lemma; the watchdog's state is the one that has reported
the error. -/
theorem schedulerRows : Obligations.SchedulerRows := by
  unfold Obligations.SchedulerRows
  exact ⟨fun _ _ _ _ hfirst hrecord => execSchedule_of_bound hfirst hrecord,
    fun _ _ _ _ _ hfirst hrecord => execSchedule_of_lost hfirst hrecord,
    fun _ hfirst => execSchedule_of_none hfirst,
    fun _ _ _ hlingers => if_pos hlingers,
    fun _ _ _ hother => if_neg hother,
    fun _ _ _ hblocked hevict => execStreamBlockTimeout_of_disabled hblocked hevict,
    fun _ _ _ hother => if_pos hother,
    fun ctx st s hpinned hctx hst hopen => ⟨watchdogReported s ctx st,
      execPinWatchdog_of_pinned hpinned hopen, flag_watchdogReported,
      raw_watchdogReported_info hctx hst⟩⟩

end Sys2Proof.Machine
end

section
/-!
# Memory at reset (R360)

Reset leaves no page and no tile, so the canonical form of its memories is read off the state.
-/
open Sys2Proof
namespace Sys2Proof.Machine

/-- Settles O5: by the memories of the reset state, which are empty. -/
theorem resetMemoryCanonical : Obligations.ResetMemoryCanonical := by
  unfold Obligations.ResetMemoryCanonical
  exact (canonical_iff State.reset).mp rfl

end Sys2Proof.Machine
end

section
/-!
# Pages are fetched and moved, and staged data arrives (R366, R379–R381, R387, R392, R394)

PAGE_FETCH_DONE decides first whether the page is still to be read, then how its read went, then
whether a frame is found; `fetched` and `fetchUnplaced` are what a good read leaves with a frame and
without one. A MIGRATE's move is told apart in the same way, by the first thing that holds it up.
-/
open Sys2Proof
namespace Sys2Proof.Machine

/-! ## What an update of the state leaves -/

/-- What each step of a fold leaves as it is, the fold leaves. -/
theorem foldl_keeps {α β : Type} (g : State → β) {f : State → α → State}
    (h : ∀ s x, g (f s x) = g s) (xs : List α) (s : State) : g (xs.foldl f s) = g s :=
  List.foldlRecOn (motive := fun t => g t = g s) xs f rfl fun t ht x _ => (h t x).trans ht

/-- Reads are noted in the order of reads alone (R380). -/
theorem noteReads_keeps {β : Type} (g : State → β) (h : ∀ s p, g (noteRead s p) = g s) (s : State)
    (a n : Nat) : g (noteReads s a n) = g s :=
  foldl_keeps g h (pagesOf a n) s

@[simp] theorem noteReads_tiles (s : State) (a n : Nat) : (noteReads s a n).tiles = s.tiles :=
  noteReads_keeps State.tiles (fun _ _ => rfl) s a n

@[simp] theorem noteReads_dram (s : State) (a n : Nat) :
    (noteReads s a n).wsp.dram = s.wsp.dram :=
  noteReads_keeps (fun t => t.wsp.dram) (fun _ _ => rfl) s a n

@[simp] theorem noteReads_staged (s : State) (a n : Nat) :
    (noteReads s a n).wsp.staged = s.wsp.staged :=
  noteReads_keeps (fun t => t.wsp.staged) (fun _ _ => rfl) s a n

/-- What an injector's event leaves as it is, an event at a point leaves (R591). -/
theorem injectAt_keeps_of_event {β : Type} (g : State → β)
    (h : ∀ s i, g (injectorEvent s i).2 = g s) (s : State) (target unit sub : Nat) :
    g (injectAt s target unit sub) = g s := by
  unfold injectAt inject
  split
  · rfl
  · exact List.foldlRecOn (motive := fun a : Bool × State => g a.2 = g s) _ _ rfl
      fun a ha i _ => (h a.2 i).trans ha

@[simp] theorem injectorEvent_tiles (s : State) (i : Nat) :
    (injectorEvent s i).2.tiles = s.tiles := by
  unfold injectorEvent
  dsimp only
  split <;> simp

@[simp] theorem injectorEvent_wsp (s : State) (i : Nat) :
    (injectorEvent s i).2.wsp = s.wsp := by
  unfold injectorEvent
  dsimp only
  split <;> simp

@[simp] theorem injectAt_tiles (s : State) (target unit sub : Nat) :
    (injectAt s target unit sub).tiles = s.tiles :=
  injectAt_keeps_of_event State.tiles injectorEvent_tiles s target unit sub

@[simp] theorem injectAt_wsp (s : State) (target unit sub : Nat) :
    (injectAt s target unit sub).wsp = s.wsp :=
  injectAt_keeps_of_event State.wsp injectorEvent_wsp s target unit sub

/-! ## PAGE_FETCH_DONE (R379, R380, R392, R394) -/

/-- The page is fetched for nobody any more. -/
def dropFetches (s : State) (q : Nat) : State :=
  { s with wsp := { s.wsp with moves := s.wsp.moves.filter fun x =>
    !(x.page = q && (x.kind = .demand || x.kind = .repour || x.kind = .prefetch ||
      x.kind = .restore)) } }

/-- The page's NAND contents, read from `slot`, are in the frame that `s` has given it. -/
def fetched (s : State) (q slot : Nat) (r : NandRead) : State :=
  let u := dropFetches (countNand s r slot) q
  { u with wsp := { u.wsp with
      dram := copyRange (q * pageBytes) pageBytes u.wsp.nand u.wsp.dram
      unplaced := u.wsp.unplaced.filter (· ≠ q) } }

@[simp] theorem fetched_dram (s : State) (q slot : Nat) (r : NandRead) :
    (fetched s q slot r).wsp.dram = copyRange (q * pageBytes) pageBytes
      (countNand s r slot).wsp.nand (countNand s r slot).wsp.dram := by
  simp only [fetched, dropFetches]

@[simp] theorem fetched_unplaced (s : State) (q slot : Nat) (r : NandRead) :
    (fetched s q slot r).wsp.unplaced =
      (countNand s r slot).wsp.unplaced.filter (· ≠ q) := by
  simp only [fetched, dropFetches]

/-- A fetched page is counted by the kind of its move, and its readers go on. -/
def fetchEnds (s : State) (q : Nat) (k : MoveKind) : State :=
  wakeWaiters (noteRead (mapPersist (placeReplica (injectMove
    (count (count s bankWsp 0 (b2n (k = .demand))) bankWsp 1 (b2n (k = .prefetch))) q) q) q) q) q

/-- What becomes of a fetch that finds no frame (R380). -/
def fetchUnplaced (s : State) (q : Nat) (m : Move) : State :=
  if m.kind = .prefetch then
    count { s with wsp := { s.wsp with moves := s.wsp.moves.erase m } } bankWsp 17
  else if m.kind = .repour || m.kind = .restore then
    { s with wsp := { s.wsp with
        moves := s.wsp.moves.erase m, unplaced := insertSorted q s.wsp.unplaced } }
  else wspErr s Fld.WSP_ERR_FETCH_NO_ROOM q

theorem exec_pageFetchDone (q : Nat) (r : NandRead) (s : State) :
    exec (.pageFetchDone q r) s = execPageFetchDone q r s := (rfl)

section
variable {s : State} {q : Nat} {r : NandRead} {m : Move} {d : Page}

theorem execPageFetchDone_of_unmapped (hd : s.page q = none) :
    execPageFetchDone q r s = .next (settleWork s) := by
  unfold execPageFetchDone
  rw [hd]
  cases fetchMove s q <;> rfl

variable (hm : fetchMove s q = some m) (hd : s.page q = some d)
include hm hd

theorem execPageFetchDone_of_here_or_lost (h : d.inDram = true ∨ d.lost = true) :
    execPageFetchDone q r s = .next (settleWork (wakeWaiters (dropFetches s q) q)) := by
  have hskip : (d.inDram || d.lost) = true := Bool.or_eq_true_iff.mpr h
  simp only [execPageFetchDone, hm, hd, hskip, if_true]
  rfl

variable (hdram : d.inDram = false) (hlost : d.lost = false)
include hdram hlost

theorem execPageFetchDone_of_read_lost (hread : (readAs s r 8).lost = true) :
    execPageFetchDone q r s = .next (settleWork (wakeWaiters
      (meetLost (losePage (countNand (dropFetches s q) r d.slot) q) q) q)) := by
  simp only [execPageFetchDone, hm, hd, hdram, hlost, hread, Bool.or_self, Bool.false_eq_true,
    if_false, if_true]
  rfl

variable (hread : (readAs s r 8).lost = false)
include hread

theorem execPageFetchDone_of_placed {t : State}
    (hplace : placeFetch s q (m.kind = .prefetch) = some t) :
    execPageFetchDone q r s =
      .next (settleWork (fetchEnds (fetched t q d.slot r) q m.kind)) := by
  simp only [execPageFetchDone, hm, hd, hdram, hlost, hread, hplace, Bool.or_self,
    Bool.false_eq_true, if_false, fetchEnds, fetched, dropFetches]
  rfl

theorem execPageFetchDone_of_unplaced (hplace : placeFetch s q (m.kind = .prefetch) = none) :
    execPageFetchDone q r s = .next (settleWork (fetchUnplaced s q m)) := by
  simp only [execPageFetchDone, hm, hd, hdram, hlost, hread, hplace, Bool.or_self,
    Bool.false_eq_true, if_false, fetchUnplaced]
  rw [← apply_ite, ← apply_ite]
  rfl

end

section
variable (s : State) (q : Nat) {m : Move}

theorem fetchUnplaced_of_prefetch (h : m.kind = .prefetch) : fetchUnplaced s q m =
    count { s with wsp := { s.wsp with moves := s.wsp.moves.erase m } } bankWsp 17 := if_pos h

theorem fetchUnplaced_of_demand (h : m.kind = .demand) :
    fetchUnplaced s q m = wspErr s Fld.WSP_ERR_FETCH_NO_ROOM q := by
  simp [fetchUnplaced, h]

theorem fetchUnplaced_of_repour_or_restore (h : m.kind = .repour ∨ m.kind = .restore) :
    fetchUnplaced s q m = { s with wsp := { s.wsp with
      moves := s.wsp.moves.erase m, unplaced := insertSorted q s.wsp.unplaced } } := by
  obtain h | h := h <;> simp [fetchUnplaced, h]

end

/-! ## PAGE_MOVE_DONE (R366, R379, R381, R394) -/

/-- Command `seq` moves no page any more. -/
def dropMigrate (s : State) (seq : Nat) : State :=
  let u := (s.wsp.moves.filter fun m => m.kind = .migrate && m.seq = seq).foldl
    (fun s m => s.modPage m.page fun d => { d with moving := false }) s
  { u with wsp := { u.wsp with
      moves := u.wsp.moves.filter fun m => m.kind ≠ .migrate || m.seq ≠ seq } }

theorem failMigrate_eq (s : State) (seq q : Nat) : failMigrate s seq q =
    completeWith (meetLost (dropMigrate s seq) q) seq stUncorrectable 0 (q * pageBytes) := (rfl)

theorem dropMigrate_moves (s : State) (seq : Nat) :
    ∀ x ∈ (dropMigrate s seq).wsp.moves, x.kind ≠ .migrate ∨ x.seq ≠ seq := by
  intro x hx
  simpa using (List.mem_filter.mp hx).2

@[simp] theorem dropMigrate_dram (s : State) (seq : Nat) :
    (dropMigrate s seq).wsp.dram = s.wsp.dram := by
  refine foldl_keeps (fun t => t.wsp.dram) (fun u m => ?_) _ s
  rfl

@[simp] theorem dropMigrate_nand (s : State) (seq : Nat) :
    (dropMigrate s seq).wsp.nand = s.wsp.nand := by
  refine foldl_keeps (fun t => t.wsp.nand) (fun u m => ?_) _ s
  rfl

/-- The move of a MIGRATE has ended in `t`, with its page on a stack near `pref`. -/
def migrated (t : State) (q pref : Nat) (m : Move) : State :=
  let v := movePref t q pref
  { v with wsp := { v.wsp with moves := v.wsp.moves.erase m } }

theorem exec_pageMoveDone (q : Nat) (k : MoveDone) (s : State) :
    exec (.pageMoveDone q k) s = execPageMoveDone q k s := (rfl)

section
variable {s : State} {q : Nat} {r : NandRead} {m : Move} {d : Page} (hd : s.page q = some d)
include hd

theorem execPageMoveDone_writeback_of_dirty (hdirty : d.dirty = true) (hnand : d.inNand = true)
    (hdram : d.inDram = true) (hlost : d.lost = false) (hdest : pageInDest s q = false) :
    execPageMoveDone q .writeback s =
      .next (settleWork (count (writeBack (injectMove s q) q) bankWsp 3)) := by
  simp only [execPageMoveDone, hd, hdirty, hnand, hdram, hlost, hdest, Bool.not_false,
    Bool.and_self, if_true]
  rfl

theorem execPageMoveDone_writeback_of_dest (hdest : pageInDest s q = true) :
    execPageMoveDone q .writeback s = .next (settleWork s) := by
  simp only [execPageMoveDone, hd, hdest, Bool.not_true, Bool.and_false, Bool.false_eq_true,
    if_false]
  rfl

variable (hfind : s.wsp.moves.find? (fun m => m.page = q && m.kind = .migrate) = some m)
include hfind

theorem execPageMoveDone_migrate_of_dest (hdest : (pageInDest s q && m.tier ≠ 1) = true) :
    execPageMoveDone q (.migrate r) s = .next (settleWork s) := by
  simp only [execPageMoveDone, hd, hfind, hdest, if_true]
  rfl

variable (hdest : (pageInDest s q && m.tier ≠ 1) = false)
include hdest

theorem execPageMoveDone_migrate_of_lost (hlost : (d.lost && moveReads d m.tier) = true) :
    execPageMoveDone q (.migrate r) s = .next (settleWork (failMigrate s m.seq q)) := by
  simp only [execPageMoveDone, hd, hfind, hdest, hlost, Bool.false_eq_true, if_false, if_true]
  rfl

variable (hlost : (d.lost && moveReads d m.tier) = false)
include hlost

theorem execPageMoveDone_migrate_of_read_lost
    (hread : (m.tier ≠ 0 && !d.inDram && (readAs s r 8).lost) = true) :
    execPageMoveDone q (.migrate r) s =
      .next (settleWork (failMigrate (losePage (countNand s r d.slot) q) m.seq q)) := by
  simp only [execPageMoveDone, hd, hfind, hdest, hlost, hread, Bool.false_eq_true, if_false,
    if_true]
  rfl

theorem execPageMoveDone_migrate_of_reached {t : State}
    (hread : (m.tier ≠ 0 && !d.inDram && (readAs s r 8).lost) = false)
    (hreach : reachTier s q m.tier (((s.cmd m.seq).map fun c => pPref c.pkt).getD d.pref) r =
      some t) :
    execPageMoveDone q (.migrate r) s = .next (settleWork (wakeWaiters (placeReplicas (mapPersist
      (timingOpen (count (injectMove
        ((migrated t q (((s.cmd m.seq).map fun c => pPref c.pkt).getD d.pref) m).modPage q
          fun d => { d with moving := false }) q) bankWsp 4)) q)) q)) := by
  simp only [execPageMoveDone, hd, hfind, hdest, hlost, hread, hreach, Bool.false_eq_true,
    if_false]
  rfl

end

/-! ## STAGE_DONE (R387, R394) -/

theorem exec_stageDone (l : Nat) (s : State) : exec (.stageDone l) s = execStageDone l s := (rfl)

theorem execStageDone_of_no_entry {s : State} (l : Nat) (h : s.wsp.staged = []) :
    execStageDone l s = .next s := by
  simp [execStageDone, h]

/-- The bytes of entry `d` of logical tile `l` are in the scratchpad of tile `t`, which holds it. -/
def stageHeld (s : State) (l t : Nat) (d : Staged) : State :=
  let u := (injectAt (noteReads s d.entry.addr d.entry.len) 3 t).modTile t fun x =>
    x.writeSpad d.entry.spad (wspBytes s d.entry.addr d.entry.len)
  { u with wsp := { u.wsp with staged := u.wsp.staged.map fun x =>
    if x = (l, d) then (x.1, { x.2 with held := true }) else x } }

section
variable {s : State} {l t : Nat} {d : Staged}

theorem stageHeld_tile : (stageHeld s l t d).tile t =
    (s.tile t).writeSpad d.entry.spad (wspBytes s d.entry.addr d.entry.len) := by
  have htile : (injectAt (noteReads s d.entry.addr d.entry.len) 3 t).tile t = s.tile t := by
    simp only [State.tile, injectAt_tiles, noteReads_tiles]
  rw [← htile]
  simp [stageHeld, State.tile, lookupD]

theorem stageHeld_dram : (stageHeld s l t d).wsp.dram = s.wsp.dram := by
  simp [stageHeld]

theorem mem_stageHeld_staged (h : (l, d) ∈ s.wsp.staged) :
    (l, { d with held := true }) ∈ (stageHeld s l t d).wsp.staged := by
  simp only [stageHeld, State.modTile_wsp, injectAt_wsp, noteReads_staged]
  exact List.mem_map.mpr ⟨(l, d), h, if_pos rfl⟩

variable (hdue : s.wsp.staged.find? (stageDue s l) = some (l, d)) (hphys : physOf s l = some t)
  (hrow : (s.tile t).rowOn = true)
include hdue hphys hrow

theorem execStageDone_of_lost {p : Nat}
    (hlost : firstLost s d.entry.addr d.entry.len = some p) :
    execStageDone l s = .next (settleWork (meetLost { s with wsp := { s.wsp with
      staged := s.wsp.staged.filter (· ≠ (l, d)) } } p)) := by
  simp only [execStageDone, hdue, hphys, hrow, hlost, Bool.not_true, Bool.false_eq_true, if_false]

theorem execStageDone_of_there (hlost : firstLost s d.entry.addr d.entry.len = none)
    (hpages : absentPages s d.entry.addr d.entry.len = [])
    (hlines : windowLines s false [(d.entry.addr, d.entry.len)] = []) :
    execStageDone l s = .next (settleWork (count (stageHeld s l t d) bankWsp 11)) := by
  simp only [execStageDone, hdue, hphys, hrow, hlost, hpages, hlines, List.isEmpty_nil,
    Bool.not_true, Bool.false_eq_true, if_false]
  rfl

end

end Sys2Proof.Machine
end

section
/-!
# DRAM and NAND are kept in order (R372–R374, R376–R378, R392)
-/
open Sys2Proof
namespace Sys2Proof.Machine

/-! ## PATROL_SCRUB (R372, R373, R392) -/

/-- The errors in Hopper link words that a frame's read meets, where a page holds the frame. -/
def scrubLinks (st fr : Nat) (ws : List (Nat × Bool)) (s : State) : State :=
  match lookup (frameKey st fr) s.wsp.frames with
  | some q => ws.foldl (scrubLink q) s
  | none => s

@[simp] theorem scrubLinks_nil (st fr : Nat) (s : State) : scrubLinks st fr [] s = s := by
  unfold scrubLinks
  split <;> rfl

theorem scrubLinks_of_held {st fr q : Nat} {s : State} (ws : List (Nat × Bool))
    (h : lookup (frameKey st fr) s.wsp.frames = some q) :
    scrubLinks st fr ws s = ws.foldl (scrubLink q) s := by
  rw [scrubLinks, h]

theorem exec_patrolScrub (st fr : Nat) (r : ScrubResult) (s : State) :
    exec (.patrolScrub st fr r) s = execPatrolScrub st fr r s := (rfl)

/-- The patrol reads nothing while SCRUB_EN is 0, whatever frame the row names. -/
theorem execPatrolScrub_of_disabled {s : State} (st fr : Nat) {r : ScrubResult}
    (hscrub : flag s Fld.WSP_CTL_SCRUB_EN = false) (hreader : r.byReader = false) :
    execPatrolScrub st fr r s = .next (settleWork s) := by
  simp only [execPatrolScrub, hscrub, hreader, Bool.not_false, Bool.or_true, if_true,
    Bool.false_eq_true, if_false, ite_self]
  rfl

section
variable {s : State} {st fr : Nat} {r : ScrubResult} (hstack : stackFailed s st = false)
  (hst : st < 24) (hfr : fr < 45776)
include hstack hst hfr

theorem frame_in_service : (stackFailed s st || 24 ≤ st || 45776 ≤ fr) = false := by
  simp [hstack, hst, hfr]

theorem execPatrolScrub_of_reader (hreader : r.byReader = true) :
    execPatrolScrub st fr r s = .next
      (settleWork (if r.uncorrectable = true then recoverFrame s st fr r.nand else s)) := by
  simp only [execPatrolScrub, frame_in_service hstack hst hfr, hreader, Bool.false_eq_true,
    if_false, if_true]
  rfl

/-- What the patrol does with a frame that does not end its pass: corrected blocks first, then link
words, then an uncorrectable block. -/
theorem execPatrolScrub_of_patrol (hstoked : stoked s = true)
    (hscrub : flag s Fld.WSP_CTL_SCRUB_EN = true) (hreader : r.byReader = false)
    (hpass : r.passEnd = false) {u : State}
    (hu : u = scrubLinks st fr r.links (r.corrected.foldl (correctBlock st fr) s)) :
    execPatrolScrub st fr r s = .next
      (settleWork (if r.uncorrectable = true then recoverFrame u st fr r.nand else u)) := by
  simp only [execPatrolScrub, frame_in_service hstack hst hfr, hreader, hstoked, hscrub, hpass,
    Bool.not_true, Bool.or_self, Bool.false_eq_true, if_false, hu]
  rfl

end

/-! ## STACK_FAILURE (R374) -/

theorem exec_stackFailure (st : Nat) (s : State) :
    exec (.stackFailure st) s = .next (settleWork (failStack s st 2)) := (rfl)

theorem failStack_of_failed {s : State} {st : Nat} (cause : Nat) (h : stackFailed s st = true) :
    failStack s st cause = s := by
  simp [failStack, h]

/-! ## NAND_UPKEEP and NAND_CHANNEL_FAIL (R376–R378) -/

theorem exec_nandUpkeep (a : Upkeep) (s : State) :
    exec (.nandUpkeep a) s = execNandUpkeep a s := (rfl)

theorem exec_nandChannelFail (ch : Nat) (s : State) :
    exec (.nandChannelFail ch) s = execNandChannelFail ch s := (rfl)

theorem execNandUpkeep_of_not_stoked {s : State} (a : Upkeep) (h : stoked s = false) :
    execNandUpkeep a s = .next s := by
  simp [execNandUpkeep, h]

section
variable {s : State} (hstoked : stoked s = true)
include hstoked

theorem execNandUpkeep_readDisturb (n u : Nat) (h : flag s Fld.NTL_CTL_DISTURB_EN = true) :
    execNandUpkeep (.readDisturb n u) s = .next (countMoved (count s bankNtl 6 n) n u) := by
  simp [execNandUpkeep, hstoked, h]

theorem execNandUpkeep_wearLevel (n u : Nat) (h : flag s Fld.NTL_CTL_WEAR_EN = true) :
    execNandUpkeep (.wearLevel n u) s = .next (countMoved (count s bankNtl 7 n) n u) := by
  simp [execNandUpkeep, hstoked, h]

theorem execNandUpkeep_patrol (r : NandRead) (u n : Nat) (ps : List Nat)
    (h : flag s Fld.NTL_CTL_PATROL_EN = true) :
    execNandUpkeep (.patrol r u n ps) s = .next (settleWork (nandPatrol s r u n ps)) := by
  simp [execNandUpkeep, hstoked, h]

theorem execNandUpkeep_programFail {ch : Nat} (low : Bool) (h : ch < 16) :
    execNandUpkeep (.programFail ch low) s = .next (programFail s ch low) := by
  simp [execNandUpkeep, hstoked, Nat.not_le.mpr h]

end

/-- The channel is among the failed ones, and the repair store has to take that (R378, R504). -/
def channelFailed (s : State) (ch : Nat) : State :=
  repairChange { s with ntl := { s.ntl with chFailed := insertSorted ch s.ntl.chFailed } }

theorem execNandChannelFail_of_good {s : State} {ch : Nat} (hch : ch < 16)
    (hgood : ch ∉ s.ntl.chFailed) :
    execNandChannelFail ch s = .next (raiseErr
      (setRaw (channelFailed s ch) Reg.NTL_ERR_INFO 0 0 (ch + 2 * 2 ^ 4))
      Fld.NTL_ERR_CH_FAILED 0 .degraded { unit := ch, arg := ch + 2 * 2 ^ 4 }) := by
  have hfails : (16 ≤ ch || s.ntl.chFailed.contains ch) = false := by simp [hch, hgood]
  simp only [execNandChannelFail, hfails, Bool.false_eq_true, if_false]
  rfl

end Sys2Proof.Machine
end

section
/-!
# BAR2 (R362, R363, R454, R459, R562, R565)

An access finds its address through the registers of its function's window, and ends by looking the
address up again. What it does on the way writes no register but the two that report errors of the
weight space, so it finds the address it began with (`bar2Addr_bar2Store`, `bar2Addr_bar2Errors`).
-/
open Sys2Proof
namespace Sys2Proof.Machine

/-! ## The window of a function -/

theorem bar2Addr_congr {s t : State} (h : t.regs = s.regs) (f o : Nat) :
    bar2Addr t f o = bar2Addr s f o := by
  simp only [bar2Addr, fld_congr h]

/-- A register below those of the host interface has no part in a window. -/
theorem bar2Addr_setRaw (s : State) {r : RegSpec} (hr : r.perFn = false)
    (hbase : r.base < Reg.HIF_CTL.base) (v f o : Nat) :
    bar2Addr (setRaw s r 0 0 v) f o = bar2Addr s f o := by
  have hkey : regKey r 0 0 = r.base := by simp [regKey, hr]
  have hctl : regKey Reg.HIF_CTL 0 0 ≠ regKey r 0 0 := by
    rw [hkey]
    exact Nat.ne_of_gt hbase
  have hwsp : regKey Reg.HIF_FN_WSP f 0 ≠ regKey r 0 0 := by
    rw [hkey]
    simp only [Reg.HIF_CTL] at hbase
    simp only [regKey, Reg.HIF_FN_WSP, Bool.false_eq_true, if_false]
    omega
  simp only [bar2Addr, fld, Fld.HIF_CTL_VF_BAR2_LOG2, Fld.HIF_FN_WSP_PAGE_COUNT,
    Fld.HIF_FN_WSP_PAGE_BASE, raw_setRaw_ne _ _ _ _ _ _ _ _ hctl,
    raw_setRaw_ne _ _ _ _ _ _ _ _ hwsp]
  rfl

theorem bar2Addr_wspErr (s : State) {e : FieldRef} (he : e.reg = Reg.WSP_ERR) (q f o : Nat) :
    bar2Addr (wspErr s e q) f o = bar2Addr s f o := by
  unfold wspErr
  rw [bar2Addr_congr (setErr_regs ..), setFld, he]
  exact (bar2Addr_setRaw _ rfl (by decide) ..).trans (bar2Addr_setRaw _ rfl (by decide) ..)

theorem bar2Addr_zero_eq_none_iff (s : State) (o : Nat) : bar2Addr s 0 o = none ↔ 2 ^ 36 ≤ o := by
  simp [bar2Addr]

theorem bar2Addr_eq_none_iff (s : State) {f : Nat} (hf : f ≠ 0) (o : Nat) :
    bar2Addr s f o = none ↔ 2 ^ fld s Fld.HIF_CTL_VF_BAR2_LOG2 ≤ o ∨
      fld s Fld.HIF_FN_WSP_PAGE_COUNT f * pageBytes ≤ o := by
  simp only [bar2Addr, if_neg hf, ite_eq_right_iff, reduceCtorEq, imp_false, Bool.and_eq_true,
    decide_eq_true_eq, not_and_or, Nat.not_lt]

/-- Past the end of a window there is only more of what lies outside it. -/
theorem bar2Addr_succ_of_none {s : State} {f o : Nat} (h : bar2Addr s f o = none) :
    bar2Addr s f (o + 1) = none := by
  by_cases hf : f = 0
  · subst hf
    rw [bar2Addr_zero_eq_none_iff] at h ⊢
    omega
  · rw [bar2Addr_eq_none_iff s hf] at h ⊢
    exact h.imp Nat.le_succ_of_le Nat.le_succ_of_le

theorem bar2Bytes_of_none {s : State} {f : Nat} (n : Nat) :
    ∀ {o : Nat} (k : Nat), bar2Addr s f o = none → bar2Bytes s f o k n = List.replicate n 0 := by
  induction n with
  | zero => exact fun _ _ => rfl
  | succ n ih =>
    intro o k h
    rw [bar2Bytes, h, ih _ (bar2Addr_succ_of_none h)]
    rfl

/-! ## What an access leaves as it is -/

/-- The errors of an access are noted reads, counts and errors of the weight space. -/
theorem bar2Errors_keeps {β : Type} (g : State → β) (hread : ∀ s q, g (noteRead s q) = g s)
    (hcount : ∀ s c, g (count s bankWsp c) = g s)
    (herr : ∀ s e q, e.reg = Reg.WSP_ERR → g (wspErr s e q) = g s) (s : State) (f o n : Nat)
    (write : Bool) : g (bar2Errors s f o n write) = g s := by
  have hmiss (u : State) (q : Nat) :
      g (count (wspErr u Fld.WSP_ERR_BAR2_MISS q) bankWsp 16) = g u :=
    (hcount ..).trans (herr _ _ _ rfl)
  refine foldl_keeps g (fun u q => ?_) _ s
  split
  · rfl
  · split
    · rfl
    · split
      · have hlost : g (wspErr u Fld.WSP_ERR_PAGE_LOST q) = g u := herr _ _ _ rfl
        dsimp only
        split
        · exact hlost
        · exact (hmiss ..).trans hlost
      · split
        · exact hmiss u q
        · split
          · rfl
          · exact hread u q

theorem bar2Errors_of_none {s : State} {f o : Nat} (h : bar2Addr s f o = none) (n : Nat)
    (write : Bool) : bar2Errors s f o n write = s := by
  simp [bar2Errors, bar2Pages, h]

@[simp] theorem bar2Errors_flk (s : State) (f o n : Nat) (write : Bool) :
    (bar2Errors s f o n write).flk = s.flk :=
  bar2Errors_keeps State.flk (fun _ _ => rfl) (fun _ _ => count_flk ..)
    (fun _ _ _ _ => by simp [wspErr]) ..

theorem bar2Addr_bar2Errors (s : State) (f o n : Nat) (write : Bool) (g a : Nat) :
    bar2Addr (bar2Errors s f o n write) g a = bar2Addr s g a :=
  bar2Errors_keeps (fun t => bar2Addr t g a) (fun _ _ => bar2Addr_congr rfl ..)
    (fun _ _ => bar2Addr_congr (count_regs ..) ..) (fun s _ q he => bar2Addr_wspErr s he q ..) ..

@[simp] theorem storeNand_regs (s : State) (a : Nat) (bs : List Byte) :
    (storeNand s a bs).regs = s.regs := count_regs ..

@[simp] theorem storePage_regs (byCmd all : Bool) (s : State) (p a : Nat) (bs : List Byte) :
    (storePage byCmd all s p a bs).regs = s.regs := by
  unfold storePage
  split
  · rfl
  · split
    · dsimp only
      split
      · exact storeNand_regs ..
      · split <;> rfl
    · exact storeNand_regs ..

@[simp] theorem releaseStaged_regs (s : State) (a n : Nat) :
    (releaseStaged s a n).regs = s.regs := by
  unfold releaseStaged
  dsimp only
  split
  · rfl
  · exact count_regs ..

@[simp] theorem wspStore_regs (byCmd all : Bool) (s : State) (a : Nat) (bs : List Byte) :
    (wspStore byCmd s a bs all).regs = s.regs :=
  (releaseStaged_regs ..).trans
    (foldl_keeps State.regs (fun _ _ => storePage_regs ..) ..)

@[simp] theorem bar2Put_regs (s : State) (a : Nat) (b : Byte) : (bar2Put s a b).regs = s.regs := by
  unfold bar2Put
  dsimp only
  split
  · rfl
  · split
    · rfl
    · split
      · rfl
      · split
        · split
          · split <;> rfl
          · rfl
        · exact wspStore_regs ..

@[simp] theorem bar2Store_regs (f : Nat) (bs : List Byte) :
    ∀ (s : State) (o : Nat), (bar2Store s f o bs).regs = s.regs := by
  induction bs with
  | nil => exact fun _ _ => rfl
  | cons b bs ih =>
    intro s o
    rw [bar2Store, ih]
    split
    · exact bar2Put_regs ..
    · rfl

theorem bar2Addr_bar2Store (s : State) (f o : Nat) (bs : List Byte) (g a : Nat) :
    bar2Addr (bar2Store s f o bs) g a = bar2Addr s g a :=
  bar2Addr_congr (bar2Store_regs ..) ..

/-! ## BAR2_READ (R363) -/

theorem exec_bar2Read (f o n : Nat) (s : State) :
    exec (.bar2Read f o n) s = execBar2Read f o n s := (rfl)

/-- The data of a read is on its way to the host. -/
def bar2Sent (s : State) (f o n : Nat) : State :=
  send { s with free := s.free + n } (.readData (bar2Bytes s f o s.free n))

section
variable {s : State} {f o : Nat} (n : Nat)

theorem bar2Lines_of_none (write : Bool) (h : bar2Addr s f o = none) :
    bar2Lines s f o n write = [] := by
  simp [bar2Lines, h]

theorem bar2Addr_bar2Sent (g a : Nat) : bar2Addr (bar2Sent s f o n) g a = bar2Addr s g a :=
  bar2Addr_congr rfl ..

theorem execBar2Read_of_outside (h : bar2Addr (wakeTrigger s) f o = none) :
    execBar2Read f o n s = .next (bar2Sent (wakeTrigger s) f o n) := by
  have hend : bar2Addr (bar2Sent (wakeTrigger s) f o n) f o = none :=
    (bar2Addr_bar2Sent ..).trans h
  have herr : bar2Errors (bar2Sent (wakeTrigger s) f o n) f o n false =
      bar2Sent (wakeTrigger s) f o n := bar2Errors_of_none hend ..
  rw [bar2Sent] at hend herr ⊢
  simp only [execBar2Read, bar2Lines_of_none n false h, herr, hend]

theorem execBar2Read_of_sound (hlines : bar2Lines (wakeTrigger s) f o n false = [])
    (hpoison : (wakeTrigger s).flk.poisoned = []) :
    execBar2Read f o n s =
      .next (bar2Errors (bar2Sent (wakeTrigger s) f o n) f o n false) := by
  have hsound : (bar2Errors (bar2Sent (wakeTrigger s) f o n) f o n false).flk.poisoned = [] := by
    rw [bar2Errors_flk]
    exact hpoison
  rw [bar2Sent] at hsound ⊢
  simp only [execBar2Read, hlines, hsound, List.find?_nil]
  split <;> rfl

end

/-! ## BAR2_WRITE (R363, R562) -/

theorem exec_bar2Write (f o : Nat) (d : HostData) (s : State) :
    exec (.bar2Write f o d) s = execBar2Write f o d s := (rfl)

theorem execBar2Write_of_poisoned (f o : Nat) (bs : List Byte) (s : State) :
    execBar2Write f o { bytes := bs, poisoned := true } s =
      .next (poisonedWrite (wakeTrigger s) f) := by
  simp only [execBar2Write, if_true]

theorem execBar2Write_of_inside {s : State} {f o a : Nat} (bs : List Byte)
    (h : bar2Addr (wakeTrigger s) f o = some a)
    (hlines : bar2Lines (wakeTrigger s) f o bs.length true = []) :
    execBar2Write f o { bytes := bs } s = .next (clearPoison
      (bar2Errors (bar2Store (wakeTrigger s) f o bs) f o bs.length true) a bs.length) := by
  have hend : bar2Addr (bar2Errors (bar2Store (wakeTrigger s) f o bs) f o bs.length true) f o =
      some a := by
    rw [bar2Addr_bar2Errors, bar2Addr_bar2Store, h]
  simp only [execBar2Write, hlines, hend, Bool.false_eq_true, if_false]

/-! ## Bytes (R362, R363) -/

section
variable {s : State} {a : Nat} {d : Page} (hring : jrnPage s (pageOf a) = false)
  (hd : s.page (pageOf a) = some d)
include hring hd

theorem bar2Byte_of_absent (k : Nat) (hmodule : d.module = false) (hdram : d.inDram = false) :
    bar2Byte s a k = 0 := by
  simp [bar2Byte, hring, hd, hmodule, hdram]

theorem bar2Put_of_absent (b : Byte) (hdram : d.inDram = false) : bar2Put s a b = s := by
  simp [bar2Put, hring, hd, hdram]

theorem bar2Byte_of_present (k : Nat) (hmodule : d.module = false) (hdram : d.inDram = true)
    (hlost : d.lost = false) (hpoison : poisonedAt s a = false) (hopen : openTo s 0 a = false) :
    bar2Byte s a k = readByte a s.wsp.dram := by
  simp [bar2Byte, hring, hd, hmodule, hdram, hlost, hpoison, hopen]

end

/-! ## The statement -/

/-- Settles O42: each clause is the lemma of its row for what that row meets. -/
theorem memorySystemRows : Obligations.MemorySystemRows := by
  unfold Obligations.MemorySystemRows
  simp only [exec_pageFetchDone, exec_pageMoveDone, exec_stageDone, exec_patrolScrub,
    exec_nandUpkeep, exec_nandChannelFail, exec_bar2Read, exec_bar2Write]
  refine ⟨?fetchPlaced, ?prefetchUnplaced, ?demandUnplaced, ?fetchLost,
    fun _ _ _ hd => execPageFetchDone_of_unmapped hd, ?fetchHere, ?repourUnplaced,
    fun _ _ _ hd hdirty hnand hdram hlost hdest =>
      execPageMoveDone_writeback_of_dirty hd hdirty hnand hdram hlost hdest,
    fun _ _ _ hd hdest => execPageMoveDone_writeback_of_dest hd hdest,
    ?migrateReached, ?migrateLost,
    fun _ _ _ _ _ hd hfind hdest hlost hread =>
      execPageMoveDone_migrate_of_read_lost hd hfind hdest hlost hread,
    fun _ _ _ _ _ hd hfind hdest => execPageMoveDone_migrate_of_dest hd hfind hdest,
    ?stageHeld,
    fun _ _ _ _ _ hdue hphys hrow hlost => execStageDone_of_lost hdue hphys hrow hlost,
    fun l _ hstaged => execStageDone_of_no_entry l hstaged,
    ?patrol,
    fun st fr _ _ hscrub hreader => execPatrolScrub_of_disabled st fr hscrub hreader,
    fun st s _ _ => exec_stackFailure st s, ?stackGone,
    fun n units _ hstoked h => execNandUpkeep_readDisturb hstoked n units h,
    fun n units _ hstoked h => execNandUpkeep_wearLevel hstoked n units h,
    fun a _ hstoked => execNandUpkeep_of_not_stoked a hstoked,
    ?channelFail, ?patrolLink,
    fun _ _ _ _ hstack hst hfr hreader => execPatrolScrub_of_reader hstack hst hfr hreader,
    fun r u n ps _ hstoked h => execNandUpkeep_patrol hstoked r u n ps h,
    fun _ b _ hstoked hch => execNandUpkeep_programFail hstoked b hch,
    ?readOutside,
    fun _ _ _ n _ _ hlines hpoison => execBar2Read_of_sound n hlines hpoison,
    fun _ _ _ bs _ h hlines => ⟨_, rfl, execBar2Write_of_inside bs h hlines⟩,
    fun _ k _ _ hring hd hmodule hdram => ⟨bar2Byte_of_absent hring hd k hmodule hdram,
      fun b => bar2Put_of_absent hring hd b hdram⟩,
    fun _ k _ _ hring hd hmodule hdram hlost hpoison hopen =>
      bar2Byte_of_present hring hd k hmodule hdram hlost hpoison hopen,
    execBar2Write_of_poisoned⟩
  case fetchPlaced =>
    exact fun q r m d _ t hm hd hdram hlost hread hplace => ⟨fetched t q d.slot r,
      fetched_dram t q d.slot r, fetched_unplaced t q d.slot r,
      execPageFetchDone_of_placed hm hd hdram hlost hread hplace⟩
  case prefetchUnplaced =>
    intro q r m d s hm hd hdram hlost hread hkind hplace
    rw [execPageFetchDone_of_unplaced hm hd hdram hlost hread (by simpa [hkind] using hplace),
      fetchUnplaced_of_prefetch s q hkind]
  case demandUnplaced =>
    intro q r m d s hm hd hdram hlost hread hkind hplace
    rw [execPageFetchDone_of_unplaced hm hd hdram hlost hread (by simpa [hkind] using hplace),
      fetchUnplaced_of_demand s q hkind]
  case fetchLost =>
    exact fun q _ _ _ s hm hd hdram hlost hread => ⟨dropFetches s q, rfl, rfl,
      execPageFetchDone_of_read_lost hm hd hdram hlost hread⟩
  case fetchHere =>
    exact fun q _ _ _ s hm hd h => ⟨dropFetches s q, rfl, rfl,
      execPageFetchDone_of_here_or_lost hm hd h⟩
  case repourUnplaced =>
    intro q r m d s hm hd hdram hlost hread hkind hplace
    have hnot : m.kind ≠ .prefetch := by obtain h | h := hkind <;> simp [h]
    rw [execPageFetchDone_of_unplaced hm hd hdram hlost hread (by simpa [hnot] using hplace),
      fetchUnplaced_of_repour_or_restore s q hkind]
  case migrateReached =>
    rintro q _ r d m s t hd hfind hdest hlost hread rfl hreach
    exact ⟨_, _, rfl, rfl,
      execPageMoveDone_migrate_of_reached hd hfind hdest hlost hread hreach⟩
  case migrateLost =>
    intro q r d m s hd hfind hdest hlost hreads
    refine ⟨dropMigrate s m.seq, dropMigrate_moves s m.seq, dropMigrate_dram s m.seq,
      dropMigrate_nand s m.seq, ?_⟩
    rw [← failMigrate_eq]
    exact execPageMoveDone_migrate_of_lost hd hfind hdest (by rw [hlost, hreads]; rfl)
  case stageHeld =>
    exact fun l t d s hdue hphys hrow hlost hpages hlines => ⟨stageHeld s l t d, stageHeld_tile,
      stageHeld_dram, mem_stageHeld_staged (List.mem_of_find?_eq_some hdue),
      execStageDone_of_there hdue hphys hrow hlost hpages hlines⟩
  case patrol =>
    intro st fr s hstoked hscrub hstack hst hfr
    exact ⟨execPatrolScrub_of_patrol hstack hst hfr hstoked hscrub rfl rfl
        (scrubLinks_nil st fr s).symm,
      execPatrolScrub_of_patrol hstack hst hfr hstoked hscrub rfl rfl
        (scrubLinks_nil st fr s).symm,
      fun b => execPatrolScrub_of_patrol hstack hst hfr hstoked hscrub rfl rfl
        (scrubLinks_nil st fr (correctBlock st fr s b)).symm⟩
  case stackGone =>
    intro st s hfailed
    rw [exec_stackFailure, failStack_of_failed 2 hfailed]
  case channelFail =>
    exact fun ch s hch hgood => ⟨channelFailed s ch, rfl, rfl,
      execNandChannelFail_of_good hch hgood⟩
  case patrolLink =>
    intro st fr q w s hstoked hscrub hstack hst hfr hheld
    exact execPatrolScrub_of_patrol hstack hst hfr hstoked hscrub rfl rfl
      (scrubLinks_of_held [w] hheld).symm
  case readOutside =>
    intro f o n s h
    refine ⟨bar2Sent (wakeTrigger s) f o n, ?_, rfl, rfl, execBar2Read_of_outside n h⟩
    rw [bar2Sent, bar2Bytes_of_none n _ h]
    rfl

end Sys2Proof.Machine
end

section
/-!
# Ports and flits (R406–R412, R439)

A row of a port first asks whether its port and that port's state take it at all; a `…_taken` lemma
says once that they do, and the lemmas of the row then follow its branches.
-/
open Sys2Proof
namespace Sys2Proof.Machine

/-! ## The port's status register (R440) -/

theorem portStatus_resetOf_lt (p : Nat) : Reg.FAB_PORT_STATUS.resetOf p < 2 ^ 64 := by
  rw [resetOf_eq_commonReset (by decide)]
  decide

/-- The link settles on the version that the partner's INIT names (R17, R439). -/
def settleVersion (s : State) (p : Nat) (m : InitMsg) : State :=
  setFld (setFld s Fld.FAB_PORT_STATUS_VER_MAJOR m.major p) Fld.FAB_PORT_STATUS_VER_MINOR
    (settledMinor m) p

theorem settleVersion_lanes (s : State) (p : Nat) (m : InitMsg) :
    fld (settleVersion s p m) Fld.FAB_PORT_STATUS_LANES p = fld s Fld.FAB_PORT_STATUS_LANES p := by
  have hreset := portStatus_resetOf_lt p
  rw [settleVersion,
    fld_setFld_apart _ Fld.FAB_PORT_STATUS_VER_MINOR Fld.FAB_PORT_STATUS_LANES _ _ _ rfl hreset
      (by decide) (by decide),
    fld_setFld_apart _ Fld.FAB_PORT_STATUS_VER_MAJOR Fld.FAB_PORT_STATUS_LANES _ _ _ rfl hreset
      (by decide) (by decide)]

theorem settleVersion_major (s : State) (p : Nat) {m : InitMsg} (h : m.major < 3) :
    fld (settleVersion s p m) Fld.FAB_PORT_STATUS_VER_MAJOR p = m.major := by
  have hfits : m.major < 2 ^ Fld.FAB_PORT_STATUS_VER_MAJOR.len := h.trans (by decide)
  have hreset := portStatus_resetOf_lt p
  rw [settleVersion,
    fld_setFld_apart _ Fld.FAB_PORT_STATUS_VER_MINOR Fld.FAB_PORT_STATUS_VER_MAJOR _ _ _ rfl hreset
      (by decide) (by decide),
    fld_setFld_same _ Fld.FAB_PORT_STATUS_VER_MAJOR _ _ _ hreset (by decide) hfits]

@[simp] theorem settleVersion_port (s : State) (p q : Nat) (m : InitMsg) :
    (settleVersion s p m).port q = s.port q := by
  simp [settleVersion, State.port]

/-- Only a partner of major version 2 has the two-lane mode (R439). -/
theorem twoLanes_settleVersion_of_one (s : State) (p : Nat) {m : InitMsg} (h : m.major = 1) :
    twoLanes (settleVersion s p m) p = false := by
  simp [twoLanes, settleVersion_major s p (m := m) (by omega), h]

/-! ## ENABLE, FWD_EN and RETRAIN (R410, R411) -/

section
variable {s : State} {p : Nat} (b : Bool)

theorem execPortEnable_of_present (hp : p < 20) (hfused : portFused s p = false) :
    execPortEnable p b s = .next (portFollow (setFld s Fld.FAB_PORT_CTL_ENABLE (b2n b) p) p) := by
  simp [execPortEnable, hfused, Nat.not_le.mpr hp]

theorem execPortFwdEn_of_present (hp : p < 20) (hfused : portFused s p = false) :
    execPortFwdEn p b s =
      .next (portActivate (setFld s Fld.FAB_PORT_CTL_FWD_EN (b2n b) p) p) := by
  simp [execPortFwdEn, hfused, Nat.not_le.mpr hp]

theorem execPortEnable_of_fused (hfused : portFused s p = true) :
    execPortEnable p b s = .next s := by
  simp [execPortEnable, hfused]

theorem execPortFwdEn_of_fused (hfused : portFused s p = true) :
    execPortFwdEn p b s = .next s := by
  simp [execPortFwdEn, hfused]

theorem execRetrain_of_active (h : portActive s p = true) :
    execRetrain p true s = .next (retrainPort s p) := by
  simp [execRetrain, h]

end

theorem execRetrain_false (p : Nat) (s : State) : execRetrain p false s = .next s := by
  simp [execRetrain]

/-! ## Training and its time-outs (R411) -/

section
variable {s : State} {p : Nat}

theorem execPortTrainingDone_of_trained (n : Nat) (hp : p < 20)
    (hst : fld s Fld.FAB_PORT_STATUS_STATE p = 2) (hquick : (s.port p).quick = false) :
    execPortTrainingDone p n s = .next
      (sendInit (setPortState (s.setPort p { s.port p with stage := 4 }) p 3) p) := by
  simp [execPortTrainingDone, Nat.not_le.mpr hp, hst, hquick]

theorem execPortTrainingDone_of_init (n : Nat) (hp : p < 20)
    (hst : fld s Fld.FAB_PORT_STATUS_STATE p = 3) (hstage : (s.port p).stage = 5) :
    execPortTrainingDone p n s = .next (portActivate (reportPeer (setPortState
      (s.setPort p { s.port p with stage := 6, timedOut := false }) p 4) p) p) := by
  simp [execPortTrainingDone, Nat.not_le.mpr hp, hst, hstage]

theorem execPortStepTimeout_of_init (hst : fld s Fld.FAB_PORT_STATUS_STATE p = 3)
    (htimed : (s.port p).timedOut = false) (hver : (s.port p).verBad = false) :
    execPortStepTimeout p s = .next (retrainPort
      ((setErr s Fld.FAB_PORT_ERR_INIT_TIMEOUT p).setPort p
        { s.port p with timedOut := true, quick := false }) p) := by
  simp [execPortStepTimeout, hst, htimed, hver]

theorem execPortStepTimeout_of_down (hst : fld s Fld.FAB_PORT_STATUS_STATE p = 0) :
    execPortStepTimeout p s = .next s := by
  simp [execPortStepTimeout, hst]

theorem execPortStepTimeout_of_verBad (hver : (s.port p).verBad = true) :
    execPortStepTimeout p s = .next s := by
  simp [execPortStepTimeout, hver]

end

/-! ## INIT (R411, R439) -/

section
variable {s : State} {p : Nat} {m : InitMsg} (hp : p < 20)
  (hst : fld s Fld.FAB_PORT_STATUS_STATE p = 3) (hstage : (s.port p).stage = 4)
include hp hst hstage

theorem init_taken :
    (20 ≤ p || fld s Fld.FAB_PORT_STATUS_STATE p ≠ 3 || (s.port p).stage ≠ 4) = false := by
  simp [hst, hstage, hp]

theorem execInit_of_unknown_version (hver : m.major = 0 ∨ 3 ≤ m.major) :
    execInit p m s = .next
      (setErr (s.setPort p { s.port p with verBad := true }) Fld.FAB_PORT_ERR_VERSION p) := by
  have hbad : (m.major = 0 || 3 ≤ m.major) = true := by simpa using hver
  simp only [execInit, init_taken hp hst hstage, hbad, Bool.false_eq_true, if_false, if_true]

/-- A link that has trained two lanes fails with a partner of major version 1 (R412). -/
theorem execInit_of_two_lanes (hver : m.major = 1)
    (hlanes : fld s Fld.FAB_PORT_STATUS_LANES p = 2) :
    execInit p m s = .next (failPort (settleVersion s p m) p) := by
  have hgood : (m.major = 0 || 3 ≤ m.major) = false := by simp [hver]
  have hfails : (fld (settleVersion s p m) Fld.FAB_PORT_STATUS_LANES p = 2 &&
      !twoLanes (settleVersion s p m) p) = true := by
    simp [settleVersion_lanes, hlanes, twoLanes_settleVersion_of_one s p hver]
  rw [settleVersion] at hfails ⊢
  simp only [execInit, init_taken hp hst hstage, hgood, hfails, Bool.false_eq_true, if_false,
    if_true]

/-- The link begins anew: nothing is in flight, and the partner is what its INIT says. -/
theorem execInit_of_not_two_lanes (hmin : 1 ≤ m.major) (hmax : m.major < 3)
    (hlanes : fld s Fld.FAB_PORT_STATUS_LANES p ≠ 2) :
    ∃ u : State, (u.port p).stage = 5 ∧ (u.port p).rxSeq = 4095 ∧ (u.port p).replay = [] ∧
      (u.port p).peer = m.endpoint % 2 ^ 20 + m.peerPort % 2 ^ 5 * 2 ^ 20 + 2 ^ 25 +
        m.digest % 2 ^ 32 * 2 ^ 32 ∧
      execInit p m s = .next (sendInit u p) := by
  have hgood : (m.major = 0 || 3 ≤ m.major) = false := by
    simp only [Bool.or_eq_false_iff, decide_eq_false_iff_not]
    omega
  have hstays : (fld (settleVersion s p m) Fld.FAB_PORT_STATUS_LANES p = 2 &&
      !twoLanes (settleVersion s p m) p) = false := by
    simp [settleVersion_lanes, hlanes]
  rw [settleVersion] at hstays
  simp only [execInit, init_taken hp hst hstage, hgood, hstays, Bool.false_eq_true, if_false]
  refine ⟨_, ?stage, ?rxSeq, ?replay, ?peer, rfl⟩ <;> rw [port_setPort, if_pos rfl]

end

/-! ## LANE_FAIL (R412) -/

section
variable {s : State} {p l : Nat}

theorem execLaneFail_of_failed (hfailed : laneBit s p l 2 = true) :
    execLaneFail p l s = .next s := by
  simp [execLaneFail, hfailed]

variable (hp : p < 20) (hl : l < 4) (hfailed : laneBit s p l 2 = false)
include hp hl hfailed

theorem laneFail_taken (hmin : 2 ≤ fld s Fld.FAB_PORT_STATUS_STATE p)
    (hmax : fld s Fld.FAB_PORT_STATUS_STATE p ≤ 5) :
    (20 ≤ p || 4 ≤ l || fld s Fld.FAB_PORT_STATUS_STATE p < 2 ||
      5 < fld s Fld.FAB_PORT_STATUS_STATE p || laneBit s p l 2) = false := by
  simp [hp, hl, Nat.not_lt.mpr hmin, hmax, hfailed]

theorem execLaneFail_of_no_pair (hmin : 2 ≤ fld s Fld.FAB_PORT_STATUS_STATE p)
    (hmax : fld s Fld.FAB_PORT_STATUS_STATE p ≤ 5)
    (hfirst : pairGood (markLane s p l) p 0 = false)
    (hsecond : pairGood (markLane s p l) p 1 = false) :
    execLaneFail p l s = .next (failPort (markLane s p l) p) := by
  simp only [execLaneFail, laneFail_taken hp hl hfailed hmin hmax, hfirst, hsecond, Bool.or_self,
    Bool.false_and, Bool.false_eq_true, if_false]

/-- An ACTIVE port goes on with the pair that is left, where both ends run on two lanes. -/
theorem execLaneFail_of_active (hst : fld s Fld.FAB_PORT_STATUS_STATE p = 5)
    (hpair : (pairGood (markLane s p l) p 0 || pairGood (markLane s p l) p 1) = true)
    (hstage : 5 ≤ ((markLane s p l).port p).stage) :
    execLaneFail p l s = .next
      (if flag (markLane s p l) Fld.FAB_PORT_CTL_ALLOW_2LANE p = true ∧
          twoLanes (markLane s p l) p = true
        then retrainPort ((markLane s p l).setPort p
          { (markLane s p l).port p with quick := true }) p
        else failPort (markLane s p l) p) := by
  have hsettled :
      (((markLane s p l).port p).quick || 5 ≤ ((markLane s p l).port p).stage) = true := by
    simp [hstage]
  have htaken := laneFail_taken hp hl hfailed (by omega) (by omega)
  have hquick :
      (((markLane s p l).port p).quick || fld s Fld.FAB_PORT_STATUS_STATE p = 5) = true := by
    simp [hst]
  simp only [execLaneFail, htaken, hpair, hsettled, hquick, Bool.false_eq_true, if_false,
    Bool.true_and, Bool.not_true, Bool.false_or, Bool.and_eq_true]
  split <;> rfl

end

/-! ## Flits (R406–R409) -/

section
variable {s : State} {p : Nat} {bs : List Byte}

theorem execFlitReceive_of_length (n : Nat) (h : bs.length ≠ 640) :
    execFlitReceive p n bs s = .next s := by
  simp [execFlitReceive, h]

variable (hp : p < 20) (hlen : bs.length = 640)
  (hst : fld s Fld.FAB_PORT_STATUS_STATE p = 4 ∨ fld s Fld.FAB_PORT_STATUS_STATE p = 5)
include hp hlen hst

theorem flit_taken : (20 ≤ p || bs.length ≠ 640 ||
    (fld s Fld.FAB_PORT_STATUS_STATE p ≠ 4 && fld s Fld.FAB_PORT_STATUS_STATE p ≠ 5)) = false := by
  obtain hst | hst := hst <;> simp [hp, hlen, hst]

theorem execFlitReceive_of_many_errors {n : Nat} (h : 15 < n) :
    execFlitReceive p n bs s = .next (askRetry (count s (bankFab p) 4) p) := by
  simp only [execFlitReceive, flit_taken hp hlen hst, h, Bool.false_eq_true, if_false, if_true]

theorem execFlitReceive_of_bad_crc (hcrc : crc32c (bs.take 636) ≠ leNat ((bs.drop 636).take 4)) :
    execFlitReceive p 0 bs s = .next (askRetry (count s (bankFab p) 5) p) := by
  have hbad : crc32c (bs.take 636) ≠ byteField bs 636 4 := hcrc
  simp only [execFlitReceive, flit_taken hp hlen hst, Bool.false_eq_true, if_false, if_true,
    Nat.not_lt_zero, if_pos hbad]

variable (hcrc : crc32c (bs.take 636) = leNat ((bs.drop 636).take 4))
include hcrc

theorem execFlitReceive_of_management (htype : bitsOf (leNat (bs.take 8)) 48 4 ≠ 0) :
    execFlitReceive p 0 bs s = .next (goodFlit s p bs) := by
  have hgood : crc32c (bs.take 636) = byteField bs 636 4 := hcrc
  have hother : bitsOf (byteField bs 0 8) 48 4 ≠ 0 := htype
  simp only [execFlitReceive, flit_taken hp hlen hst, hgood, hother, Bool.false_eq_true, if_false,
    if_true, Nat.not_lt_zero, ne_eq, not_true_eq_false]

theorem execFlitReceive_of_data {t : State} (htype : bitsOf (leNat (bs.take 8)) 48 4 = 0)
    (hinject : inject s 9 p = (false, t)) :
    execFlitReceive p 0 bs s = .next (goodFlit t p bs) := by
  have hgood : crc32c (bs.take 636) = byteField bs 636 4 := hcrc
  have hdata : bitsOf (byteField bs 0 8) 48 4 = 0 := htype
  simp only [execFlitReceive, flit_taken hp hlen hst, hgood, hdata, hinject, Bool.false_eq_true,
    if_false, if_true, Nat.not_lt_zero, ne_eq, not_true_eq_false]

end

section
variable {s : State} {p : Nat} (k : Nat)

theorem execRetryReq_of_active (h : portActive s p = true) :
    execRetryReq p k s = .next (replayFlits (s.setPort p (freeReplay (s.port p) k)) p) := by
  simp [execRetryReq, h]

theorem execRetryReq_of_not_active (h : portActive s p = false) :
    execRetryReq p k s = .next s := by
  simp [execRetryReq, h]

end

/-! ## The statement -/

/-- Settles O43: each clause is the lemma of its row for the branch that its port takes. -/
theorem portAndFlitRows : Obligations.PortAndFlitRows := by
  unfold Obligations.PortAndFlitRows
  exact ⟨fun _ b _ hp hfused =>
      ⟨execPortEnable_of_present b hp hfused, execPortFwdEn_of_present b hp hfused⟩,
    fun _ b _ hfused => ⟨execPortEnable_of_fused b hfused, execPortFwdEn_of_fused b hfused⟩,
    fun _ _ hactive => execRetrain_of_active hactive,
    execRetrain_false,
    fun _ n _ hp hst hquick => execPortTrainingDone_of_trained n hp hst hquick,
    fun _ n _ hp hst hstage => execPortTrainingDone_of_init n hp hst hstage,
    fun _ _ hst htimed hver => execPortStepTimeout_of_init hst htimed hver,
    fun _ _ hst => execPortStepTimeout_of_down hst,
    fun _ _ hst => if_pos hst,
    fun _ _ hst => if_neg hst,
    fun _ _ _ hp hst hstage hver => execInit_of_unknown_version hp hst hstage hver,
    fun _ _ _ hp hst hstage hmin hmax hlanes =>
      execInit_of_not_two_lanes hp hst hstage hmin hmax hlanes,
    fun _ _ _ hp hl hmin hmax hfailed hfirst hsecond =>
      execLaneFail_of_no_pair hp hl hfailed hmin hmax hfirst hsecond,
    fun _ _ hver => execPortStepTimeout_of_verBad hver,
    fun p m s hp hst hstage hver hlanes => ⟨settleVersion s p m,
      (settleVersion_major s p (by omega)).trans hver, by rw [settleVersion_port, hstage],
      execInit_of_two_lanes hp hst hstage hver hlanes⟩,
    fun _ _ _ hp hl hst hfailed hpair hstage =>
      execLaneFail_of_active hp hl hfailed hst hpair hstage,
    fun _ _ _ hfailed => execLaneFail_of_failed hfailed,
    fun _ _ _ _ hp hlen hst herrs => execFlitReceive_of_many_errors hp hlen hst herrs,
    fun _ _ _ hp hlen hst hcrc => execFlitReceive_of_bad_crc hp hlen hst hcrc,
    fun _ _ _ hp hlen hst hcrc htype => execFlitReceive_of_management hp hlen hst hcrc htype,
    fun _ _ _ _ hp hlen hst hcrc htype hinject =>
      execFlitReceive_of_data hp hlen hst hcrc htype hinject,
    fun _ n _ _ hlen => execFlitReceive_of_length n hlen,
    fun _ k _ hactive => execRetryReq_of_active k hactive,
    fun _ k _ hactive => execRetryReq_of_not_active k hactive⟩

end Sys2Proof.Machine
end

section
/-!
# Packets move through the router (R150, R418–R428, R435, R436)

PACKET_INJECT is settled by what `injectOne` answers; PACKET_FORWARD by the next hop of the packet,
and then by the first reason to drop it or to keep it.
-/
open Sys2Proof
namespace Sys2Proof.Machine

/-! ## PACKET_INJECT (R150, R428) -/

/-- The packet is gone from those that wait to enter the network (R591). -/
def leftInjection (s : State) (i : Nat) (o : Outgoing) : State :=
  runnerInjected { s with fab := { s.fab with inject := s.fab.inject.eraseIdx i } } o

/-- A packet that is not a DATA packet with MCAST set takes no multicast tree. -/
theorem not_tree {p : XlPkt} (hmcast : p.kind = 0 → p.mcast = false) :
    (p.kind = 0 && p.mcast) = false := by
  simpa using hmcast

section
variable {s : State} {i : Nat}

theorem injectOne_of_empty (ho : s.fab.inject[i]? = none) : injectOne s i = none := by
  simp only [injectOne, ho]

theorem execPacketInject_of_waits (h : injectOne s i = none) : execPacketInject i s = .next s := by
  simp only [execPacketInject, h]

variable {o : Outgoing} (ho : s.fab.inject[i]? = some o)
include ho

/-- Only the Runner's packets meet the arbiter of R150. -/
theorem execPacketInject_of_enters {t : State} (hclass : runnerClass o = none)
    (h : injectOne s i = some t) : execPacketInject i s = .next t := by
  simp only [execPacketInject, h, ho, hclass]

theorem execPacketInject_of_runner {t : State} {c : Nat} (hclass : runnerClass o = some c)
    (h : injectOne s i = some t) :
    execPacketInject i s = .next
      (if arbiterLets s (o.slice % 4) c then arbiterSent t (o.slice % 4) c else s) := by
  simp only [execPacketInject, h, ho, hclass]
  split <;> rfl

/-- An endpoint that may not inject discards what waits, but for a NOTICE (R432). -/
theorem injectOne_of_not_mayInject (hmay : mayInject s = false) (hkind : o.pkt.kind ≠ 3) :
    injectOne s i = some (leftInjection s i o) := by
  simp only [injectOne, ho, hmay, Bool.not_false, Bool.true_and, decide_eq_true_eq,
    if_pos hkind]
  rfl

/-- A unicast packet outside a numbered flow that is already where it is bound for. -/
theorem injectOne_of_eject {p : XlPkt} {u g : State} {q : Outgoing} (hmay : mayInject s = true)
    (hflow : o.inFlow = false) (hrunner : runnerHeld s o = false)
    (hmcast : o.pkt.kind = 0 → o.pkt.mcast = false)
    (hspray : spray (leftInjection s i o) o.pkt = (p, u)) (hhop : nextHop s p = .eject)
    (hnumber : number u { o with pkt := p } = (q, g)) :
    injectOne s i = some (count (ejectHere g 31 (q.slice % 4) q.pkt) bankXrt 0) := by
  rw [leftInjection] at hspray
  simp only [injectOne, ho, hmay, hflow, hrunner, not_tree hmcast, hspray, hhop, hnumber,
    Bool.not_true, Bool.false_and, Bool.or_self, Bool.false_eq_true, if_false]

end

/-! ## PACKET_FORWARD (R423, R427, R436) -/

theorem execPacketForward_of_empty {s : State} {i : Nat} (ha : s.fab.input[i]? = none) :
    execPacketForward i s = .next s := by
  simp only [execPacketForward, ha]

section
variable {s : State} {i : Nat} {a : Arrived} {p : XlPkt} (ha : s.fab.input[i]? = some a)
  (hhere : a.here = false) (hp : markPassed s a.pkt = p)
include ha hhere hp

/-- A tree packet for which the router has no entry (R435). -/
theorem execPacketForward_of_leaf_miss (hkind : p.kind = 0) (hmcast : p.mcast = true)
    (he : mcastFor s p.dest p.epoch = none) :
    execPacketForward i s = .next
      (leafMiss (leaveInput s a i) a.port (sliceOfPort (min a.port 19)) a.at_ p) := by
  have htree : (p.kind = 0 && p.mcast) = true := by simp [hkind, hmcast]
  simp only [execPacketForward, ha, hhere, hp, htree, he, Bool.false_eq_true, if_false, if_true]

/-- A tree packet is copied along the ports of the router's entry (R436). -/
theorem execPacketForward_of_tree {e : McastEntry} (hkind : p.kind = 0) (hmcast : p.mcast = true)
    (he : mcastFor s p.dest p.epoch = some e) :
    execPacketForward i s = .next
      (replicate (leaveInput s a i) a.port (sliceOfPort (min a.port 19)) a.at_ p e) := by
  have htree : (p.kind = 0 && p.mcast) = true := by simp [hkind, hmcast]
  simp only [execPacketForward, ha, hhere, hp, htree, he, Bool.false_eq_true, if_false, if_true]

variable (hmcast : p.kind = 0 → p.mcast = false)
include hmcast

theorem execPacketForward_of_eject (hhop : nextHop s p = .eject)
    (hleg : ¬ (p.kind = 0 ∧ p.proto = 3 ∧ isLeg s p = true)) :
    execPacketForward i s = .next
      (ejectHere (leaveInput s a i) a.port (sliceOfPort (min a.port 19)) p) := by
  have hplain : (p.kind = 0 && p.proto = 3 && isLeg s p) = false := by simpa using hleg
  simp only [execPacketForward, ha, hhere, hp, not_tree hmcast, hhop, hplain, Bool.false_eq_true,
    if_false]

variable {ps : List Nat} (hhop : nextHop s p = .ports ps)
include hhop

theorem execPacketForward_of_last_hop (hhops : p.hops = 12) :
    execPacketForward i s = .next (count
      (xrtErr (leaveInput s a i) Fld.XRT_ERR_HOP_DROP a.port p.dest p.epoch) bankXrt 4) := by
  simp only [execPacketForward, ha, hhere, hp, not_tree hmcast, hhop, hhops, Bool.false_eq_true,
    if_false, if_true]

variable (hhops : p.hops ≠ 12)
include hhops

theorem execPacketForward_of_aged (hold : tooOld s a.at_ p = true) :
    execPacketForward i s = .next (dropAged (leaveInput s a i) a.port p) := by
  simp only [execPacketForward, ha, hhere, hp, not_tree hmcast, hhop, hhops, hold,
    Bool.false_eq_true, if_false, if_true]

variable (hyoung : tooOld s a.at_ p = false)
include hyoung

theorem execPacketForward_of_no_port (hports : usablePorts s p ps = []) :
    execPacketForward i s = .next (dropNoRoute (leaveInput s a i) a.port p) := by
  simp only [execPacketForward, ha, hhere, hp, not_tree hmcast, hhop, hhops, hyoung, hports,
    List.isEmpty_nil, Bool.false_eq_true, if_false, if_true]

variable (hports : usablePorts s p ps ≠ [])
include hports

theorem execPacketForward_of_port {c : Nat} (hleast :
      leastLoaded s ((usablePorts s p ps).filter fun c => hasCredit s c p) = some c) :
    execPacketForward i s = .next (throttleUpdate (count
      (enqueue (leaveInput s a i) c a.port (sliceOfPort (min a.port 19)) a.at_ p) bankXrt 2
      (b2n (!dropsNotice s c p))) c) := by
  simp only [execPacketForward, ha, hhere, hp, not_tree hmcast, hhop, hhops, hyoung,
    List.isEmpty_iff, hports, hleast, Bool.false_eq_true, if_false]

theorem execPacketForward_of_no_credit (hleast :
      leastLoaded s ((usablePorts s p ps).filter fun c => hasCredit s c p) = none) :
    execPacketForward i s = .next s := by
  simp only [execPacketForward, ha, hhere, hp, not_tree hmcast, hhop, hhops, hyoung,
    List.isEmpty_iff, hports, hleast, Bool.false_eq_true, if_false]

end

/-! ## The statement -/

/-- Settles O44: an injection's clause gives what `injectOne` answers, a forwarded packet's is the
lemma of where it goes. -/
theorem packetsMoveThroughRouter : Obligations.PacketsMoveThroughRouter := by
  unfold Obligations.PacketsMoveThroughRouter
  refine ⟨fun _ _ ho => execPacketInject_of_waits (injectOne_of_empty ho),
    fun _ _ _ ho hmay hkind hclass =>
      execPacketInject_of_enters ho hclass (injectOne_of_not_mayInject ho hmay hkind),
    fun _ _ _ ho hmay hflow hrunner hmcast hclass hhop => ⟨_, _, rfl,
      execPacketInject_of_enters ho hclass
        (injectOne_of_eject ho hmay hflow hrunner hmcast rfl hhop rfl)⟩,
    fun _ _ ha => execPacketForward_of_empty ha,
    fun _ _ _ ha hhere hmcast hhop hleg =>
      execPacketForward_of_eject ha hhere rfl hmcast hhop hleg,
    fun _ _ _ _ ha hhere hmcast hhop hhops =>
      execPacketForward_of_last_hop ha hhere rfl hmcast hhop hhops,
    fun _ _ _ _ ha hhere hmcast hhop hhops hyoung hports =>
      execPacketForward_of_no_port ha hhere rfl hmcast hhop hhops hyoung hports,
    fun _ _ _ _ _ ha hhere hmcast hhop hhops hyoung hports hleast =>
      execPacketForward_of_port ha hhere rfl hmcast hhop hhops hyoung hports hleast,
    fun _ _ _ _ ha hhere hmcast hhop hhops hyoung hports hleast =>
      execPacketForward_of_no_credit ha hhere rfl hmcast hhop hhops hyoung hports hleast,
    fun _ _ _ _ _ ho hclass h => execPacketInject_of_runner ho hclass h,
    fun _ _ h => execPacketInject_of_waits h,
    fun _ _ _ _ ha hhere hmcast hhop hhops hold =>
      execPacketForward_of_aged ha hhere rfl hmcast hhop hhops hold,
    ?mcast⟩
  case mcast =>
    intro i a s ha hhere hkind hmcast
    split
    next he => exact execPacketForward_of_leaf_miss ha hhere rfl hkind hmcast he
    next he => exact execPacketForward_of_tree ha hhere rfl hkind hmcast he

end Sys2Proof.Machine
end

section
/-!
# DATA, ACK, NACK, NOTICE, PROBE and CONFIRM (R416, R417, R431–R433, R437, R438, R470)

A DATA packet's row follows what parsing, the policer and the epoch say of it. The rows of the
control packets share one frame, so each is that frame's lemma with the row's own effect.
-/
open Sys2Proof
namespace Sys2Proof.Machine

/-! ## DATA at its destination (R417, R431) -/

section
variable {port : Nat} {bs : List Byte} {p : XlPkt} {s t : State}

theorem execData_of_bad_header (hparse : parsePkt bs = .hdrBad p) :
    execData port bs s = .next (xrtErr s Fld.XRT_ERR_HDR_BAD port p.dest p.epoch) := by
  unfold execData
  rw [hparse]

theorem execData_of_bad_crc (hparse : parsePkt bs = .crcBad p) :
    execData port bs s = .next
      (count (xrtErr s Fld.XRT_ERR_CRC_BAD port p.dest p.epoch) bankXrt 15) := by
  unfold execData
  rw [hparse]

variable (hparse : parsePkt bs = .ok p) (hkind : p.kind = 0)
  (hhere : p.mcast = true ∨ p.dest = endpointId s)
include hkind hhere

theorem data_taken : (p.kind ≠ 0 || (!p.mcast && p.dest ≠ endpointId s)) = false := by
  obtain hmcast | hdest := hhere
  · simp [hkind, hmcast]
  · simp [hkind, hdest]

include hparse

theorem execData_of_policed
    (hpolice : police (count (leaveArrival s port p) bankXrt 1) p = (false, t)) :
    execData port bs s = .next t := by
  unfold execData
  rw [hparse]
  simp only [data_taken hkind hhere, hpolice, Bool.not_false,
    Bool.false_eq_true, if_false, if_true]

variable (hpolice : police (count (leaveArrival s port p) bankXrt 1) p = (true, t))
include hpolice

theorem execData_of_other_epoch (hepoch : epochOk t p.epoch = false) :
    execData port bs s = .next (count
      (sendNotice t p (endpointId t) (if flag t Fld.XRT_EP_FENCED then 0 else 1)) bankXrt 7) := by
  unfold execData
  rw [hparse]
  simp only [data_taken hkind hhere, hpolice, hepoch, Bool.not_false,
    Bool.not_true, Bool.false_eq_true, if_false, if_true]

/-- A packet of the endpoint's epoch ends Smouldering (R527). -/
theorem execData_of_epoch (hepoch : epochOk t p.epoch = true) :
    execData port bs s = .next
      (if p.mcast then takeMcast (wakeTrigger t) p else takeData (wakeTrigger t) port p) := by
  unfold execData
  rw [hparse]
  simp only [data_taken hkind hhere, hpolice, hepoch, Bool.not_true,
    Bool.false_eq_true, if_false]
  split <;> rfl

end

/-! ## The frame of a control packet (R431–R433) -/

section
variable {s u : State} {p : XlPkt} {kind : Nat}

/-- A control packet that is taken leaves what its row does to the state `u` without it. -/
theorem recvControl_of_ok (h : ControlTakes s p kind u) {ok : Bool} (hok : ok = true)
    (f : State → State) :
    recvControl s p kind ok f = .next (settleWork (resumeLines (f u))) := by
  obtain ⟨hkind, rfl⟩ := h
  subst hok
  exact if_neg (not_not.mpr hkind)

theorem recvControl_of_not_ok (h : ControlTakes s p kind u) {ok : Bool} (hok : ok = false)
    (f : State → State) : recvControl s p kind ok f = .next u := by
  obtain ⟨hkind, rfl⟩ := h
  subst hok
  exact if_neg (not_not.mpr hkind)

/-! ## ACK (R416, R437) -/

/-- An ACK names a sent packet: by the cumulative field, or in the bitmap (R416). -/
def ackNames (arg : Nat) (x : Sent) : Bool :=
  (seqAhead (arg % 65536) x.pkt.seq ≠ 0 && seqAhead (arg % 65536) x.pkt.seq < 32768) ||
  (1 ≤ seqAhead x.pkt.seq (arg % 65536) && seqAhead x.pkt.seq (arg % 65536) ≤ 32 &&
    bitOf arg (32 + seqAhead x.pkt.seq (arg % 65536) - 1))

theorem execAck_of_unicast (h : ControlTakes s p 1 u) (hok : controlOk s p = true)
    (hmcast : p.mcast = false) :
    execAck p s = .next (settleWork (resumeLines
      (dropSent u (flowKey p.src p.tc) (ackNames p.arg) released))) := by
  rw [execAck, recvControl_of_ok h hok, if_neg (by simp [hmcast])]
  rfl

theorem execAck_of_leaf {seq : Nat} (h : ControlTakes s p 1 u) (hok : controlOk s p = true)
    (hmcast : p.mcast = true) (hby : mcastBy u (p.arg % 2 ^ 32) = some seq) :
    execAck p s = .next (settleWork (resumeLines (mcastLeaf u seq p.src true))) := by
  rw [execAck, recvControl_of_ok h hok, if_pos hmcast]
  simp only [hby]

theorem execAck_of_refused (h : ControlTakes s p 1 u) (hok : controlOk s p = false) :
    execAck p s = .next u :=
  recvControl_of_not_ok h hok _

/-! ## NACK (R419) -/

/-- A NACK puts off the sent packet that it names: until the earlier ones are acknowledged, or for
50 ticks (R419). -/
def putOff (arg now : Nat) (x : Sent) : Sent :=
  if x.pkt.seq ≠ arg % 65536 then x
  else if bitsOf arg 16 8 = 1 then { x with afterEarlier := true }
  else { x with notBefore := now + 50 }

theorem putOff_of_ne {arg : Nat} (now : Nat) {x : Sent} (h : x.pkt.seq ≠ arg % 65536) :
    putOff arg now x = x :=
  if_pos h

theorem putOff_of_order {arg : Nat} (now : Nat) {x : Sent} (h : x.pkt.seq = arg % 65536)
    (hreason : bitsOf arg 16 8 = 1) : putOff arg now x = { x with afterEarlier := true } := by
  simp [putOff, h, hreason]

theorem putOff_of_delay {arg : Nat} (now : Nat) {x : Sent} (h : x.pkt.seq = arg % 65536)
    (hreason : bitsOf arg 16 8 ≠ 1) : putOff arg now x = { x with notBefore := now + 50 } := by
  simp [putOff, h, hreason]

theorem execNack_of_no_flow (h : ControlTakes s p 2 u) (hok : controlOk s p = true)
    (hflow : lookup (flowKey p.src p.tc) (timingOpen u).fab.tx = none) :
    execNack p s = .next (settleWork (resumeLines (timingOpen u))) := by
  rw [execNack, recvControl_of_ok h hok]
  simp only [hflow]

theorem execNack_of_flow {f : TxFlow} (h : ControlTakes s p 2 u) (hok : controlOk s p = true)
    (hflow : lookup (flowKey p.src p.tc) (timingOpen u).fab.tx = some f) :
    execNack p s = .next (settleWork (resumeLines { timingOpen u with
      fab := { (timingOpen u).fab with
        tx := insertK (flowKey p.src p.tc)
          { f with sent := f.sent.map (putOff p.arg (timingOpen u).ticks) }
          (timingOpen u).fab.tx } })) := by
  rw [execNack, recvControl_of_ok h hok]
  simp only [hflow]
  rfl

/-! ## NOTICE, PROBE and CONFIRM (R420, R433) -/

theorem execNotice_of_unicast (h : ControlTakes s p 3 u) (hok : controlOk s p = true)
    (hmcast : p.mcast = false) :
    execNotice p s = .next (settleWork (resumeLines (dropSent u (flowKey p.src p.tc)
      (fun x => x.pkt.seq = p.arg % 65536) fun s x => failSent s x (bitsOf p.arg 16 8)))) := by
  rw [execNotice, recvControl_of_ok h hok, if_neg (by simp [hmcast])]

theorem execProbe_of_ok (h : ControlTakes s p 4 u) (hok : epochOk s p.epoch = true) :
    execProbe p s = .next (settleWork (resumeLines (sendControl u (endpointId u)
      { kind := 5, tc := p.tc, epoch := p.epoch, dest := p.src }))) :=
  recvControl_of_ok h hok _

/-- An admission's confirmed endpoints once `src` has answered: those that it lists count (R433). -/
def confirmedBy (src : Nat) (a : Admit) : Admit :=
  { a with confirmed := if a.list.contains src then src :: a.confirmed else a.confirmed }

/-- A CONFIRM counts whatever its epoch. -/
theorem execConfirm_of_takes (h : ControlTakes s p 5 u) :
    execConfirm p s = .next (settleWork (resumeLines (u.fab.admits.foldl (fun s e =>
      admitCheck { s with fab := { s.fab with
        admits := insertK e.1 (confirmedBy p.src e.2) s.fab.admits } } e.1) u))) := by
  unfold execConfirm
  rw [recvControl_of_ok h rfl]
  rfl

end

/-! ## The statement -/

/-- Settles O45: each clause is the lemma of its message for what the endpoint makes of it. -/
theorem transportMessages : Obligations.TransportMessages := by
  unfold Obligations.TransportMessages
  refine ⟨fun _ _ _ _ hparse => execData_of_bad_header hparse,
    fun _ _ _ _ hparse => execData_of_bad_crc hparse, ?unicast, ?mcast,
    fun _ _ _ _ _ hparse hkind hdest hpolice hepoch =>
      execData_of_other_epoch hparse hkind (.inr hdest) hpolice hepoch,
    fun _ _ _ _ _ hparse hkind hdest hpolice =>
      execData_of_policed hparse hkind (.inr hdest) hpolice,
    fun _ _ _ h hok hmcast => execAck_of_unicast h hok hmcast,
    fun _ _ _ _ h hok hmcast hby => execAck_of_leaf h hok hmcast hby,
    fun _ _ _ h hok hflow => execNack_of_no_flow h hok hflow, ?nack,
    fun _ _ _ h hok hmcast => execNotice_of_unicast h hok hmcast,
    fun _ _ _ h hok => execAck_of_refused h hok,
    fun _ _ _ h hok => execProbe_of_ok h hok, fun _ _ _ h => execConfirm_of_takes h⟩
  case unicast =>
    intro port bs p s t hparse hkind hdest hpolice hepoch hmcast
    refine (execData_of_epoch hparse hkind (.inr hdest) hpolice hepoch).trans ?_
    rw [if_neg (by simp [hmcast])]
  case mcast =>
    intro port bs p s t hparse hkind hmcast hpolice hepoch
    refine (execData_of_epoch hparse hkind (.inl hmcast) hpolice hepoch).trans ?_
    rw [if_pos hmcast]
  case nack =>
    exact fun p f s u h hok hflow => ⟨putOff p.arg (timingOpen u).ticks,
      fun _ hne => putOff_of_ne _ hne, fun _ hseq hreason => putOff_of_order _ hseq hreason,
      fun _ hseq hreason => putOff_of_delay _ hseq hreason, execNack_of_flow h hok hflow⟩

end Sys2Proof.Machine
end

section
/-!
# The transport's timers (R415, R416, R419, R432, R433, R437)

A timer that finds nothing to do leaves the state. What one of them makes of the state, where that
is more than a call of a shared operation, has a name here: `sentAgain`, `fenceDrained`,
`mcastTried`.
-/
open Sys2Proof
namespace Sys2Proof.Machine

/-! ## PACKET_RESEND (R419, R420) -/

/-- A packet held back for its order is not due while an earlier one of its flow is unacknowledged
and RTO_US has not passed. -/
theorem dueAgain_of_earlier {s : State} {f : TxFlow} {x y : Sent} (hafter : x.afterEarlier = true)
    (hy : y ∈ f.sent) (hpos : 0 < seqAhead x.pkt.seq y.pkt.seq)
    (hnear : seqAhead x.pkt.seq y.pkt.seq < 32768)
    (hrto : s.ticks < x.at_ + 25 * fld s Fld.XRT_LIMITS_RTO_US) : dueAgain s f x = false := by
  have hearlier : (f.sent.any fun y =>
      seqAhead x.pkt.seq y.pkt.seq ≠ 0 && seqAhead x.pkt.seq y.pkt.seq < 32768) = true :=
    List.any_eq_true.mpr ⟨y, hy, by simp [hnear, Nat.ne_of_gt hpos]⟩
  simp only [dueAgain, hearlier, hafter, Nat.not_le.mpr hrto, decide_false, Bool.not_true,
    Bool.or_self, Bool.false_and]

theorem execPacketResend_of_no_flow {d tc : Nat} (q : Nat) {s : State}
    (hf : lookup (flowKey d (tc % 8)) s.fab.tx = none) : execPacketResend d tc q s = .next s := by
  simp only [execPacketResend, hf, Option.bind_none]

/-- A sent packet as it enters the network once more. -/
def resendOf (x : Sent) : Outgoing :=
  { pkt := { x.pkt with nonmin := false, passed := false, via := 0, hops := 0, age := 0 }
    owner := x.owner, slice := x.slice, exempt := true, again := true }

/-- What the source notes of a packet that it sends again. -/
def noteResend (s : State) (q : Nat) (x : Sent) : Sent :=
  if x.pkt.seq = q then
    { x with tries := x.tries + 1, at_ := s.ticks, notBefore := 0, afterEarlier := false }
  else x

/-- The packet `x` of a flow joins the injection queue again. -/
def sentAgain (s : State) (key q : Nat) (x : Sent) : State :=
  { s with fab := { s.fab with
    tx := modifyK key (fun (f : TxFlow) => { f with sent := f.sent.map (noteResend s q) }) s.fab.tx
    inject := s.fab.inject ++ [resendOf x] } }

section
variable {d tc q : Nat} {f : TxFlow} {x : Sent} {s : State}
  (hf : lookup (flowKey d (tc % 8)) s.fab.tx = some f)
  (hx : (f.sent.find? fun x => x.pkt.seq = q) = some x)
include hf hx

theorem resend_found :
    ((lookup (flowKey d (tc % 8)) s.fab.tx).bind fun f =>
      (f.sent.find? fun x => x.pkt.seq = q).map fun x => (f, x)) = some (f, x) := by
  rw [hf, Option.bind_some, hx, Option.map_some]

theorem execPacketResend_of_not_due (hdue : dueAgain s f x = false) :
    execPacketResend d tc q s = .next s := by
  simp only [execPacketResend, resend_found hf hx, hdue, Bool.not_false, Bool.or_true, if_true]

variable (hmay : mayInject s = true) (hdue : dueAgain s f x = true)
include hmay hdue

theorem execPacketResend_of_last_try (htries : fld s Fld.XRT_LIMITS_MAX_TRIES ≤ x.tries) :
    execPacketResend d tc q s = .next (settleWork (resumeLines
      (dropSent s (flowKey d (tc % 8)) (fun y => y.pkt.seq = q) fun s y => failSent s y 3))) := by
  simp only [execPacketResend, resend_found hf hx, hmay, hdue, htries, Bool.not_true, Bool.or_self,
    Bool.false_eq_true, if_false, if_true]

theorem execPacketResend_of_try (htries : x.tries < fld s Fld.XRT_LIMITS_MAX_TRIES) :
    execPacketResend d tc q s = .next
      (count (timingOpen (sentAgain s (flowKey d (tc % 8)) q x)) bankXrt 12) := by
  simp only [execPacketResend, resend_found hf hx, hmay, hdue, Nat.not_le.mpr htries, Bool.not_true,
    Bool.or_self, Bool.false_eq_true, if_false]
  rfl

end

/-! ## FLOW_ENTRY_FREE (R415) -/

theorem execFlowEntryFree_of_idle {src tc : Nat} {f : RxFlow} {s : State}
    (hf : lookup (flowKey src (tc % 8)) s.fab.rx = some f) (hack : f.ackPending = false)
    (hheld : f.held = []) (harrived : f.arrived = []) :
    execFlowEntryFree src tc s = .next { s with fab := { s.fab with
      rx := eraseK (flowKey src (tc % 8)) s.fab.rx
      rxKept := insertK (flowKey src (tc % 8)) f.expected s.fab.rxKept } } := by
  simp only [execFlowEntryFree, hf, hack, hheld, harrived, List.isEmpty_nil, Bool.not_true,
    Bool.or_self, Bool.false_eq_true, if_false]

/-! ## ACK_SEND (R416) -/

section
variable {s : State} (sl : Nat)

theorem execAckSend_of_not_mayInject (hmay : mayInject s = false) : execAckSend sl s = .next s := by
  simp only [execAckSend, hmay, Bool.not_false, if_true]

theorem execAckSend_of_none_pending (hmay : mayInject s = true)
    (hnone : ∀ e ∈ s.fab.rx, e.2.ackPending = false) : execAckSend sl s = .next s := by
  have hflows : (s.fab.rx.filter fun e =>
      e.2.ackPending && (e.1 / 8 + e.1 % 8) % 4 = sl && !ackWaits s e.1) = [] :=
    List.filter_eq_nil_iff.mpr fun e he => by simp [hnone e he]
  simp only [execAckSend, hmay, hflows, Bool.not_true, Bool.false_eq_true, if_false,
    List.foldl_nil]

end

/-- The bitmap of the numbers that have arrived beyond the one that a flow expects. -/
def ackMap (f : RxFlow) : Nat :=
  ((upFrom 0 32).map fun i =>
    if f.arrived.contains ((f.expected + 1 + i) % 65536) then 2 ^ i else 0).foldl (· + ·) 0

theorem execAckSend_of_one_flow {s : State} {key sl : Nat} {f : RxFlow}
    (hmay : mayInject s = true) (hrx : s.fab.rx = [(key, f)]) (hack : f.ackPending = true)
    (hnow : ackWaits s key = false) (hsl : (key / 8 + key % 8) % 4 = sl) :
    execAckSend sl s = .next (sendControl (setFlow s key { f with ackPending := false })
      (endpointId s) { kind := 1, tc := key % 8, epoch := curEpoch s, dest := key / 8
                       arg := f.expected + ackMap f * 2 ^ 32 }) := by
  have hflows : (s.fab.rx.filter fun e =>
      e.2.ackPending && (e.1 / 8 + e.1 % 8) % 4 = sl && !ackWaits s e.1) = [(key, f)] := by
    simp [hrx, hack, hnow, hsl]
  simp only [execAckSend, hmay, hflows, Bool.not_true, Bool.false_eq_true, if_false,
    List.foldl_cons, List.foldl_nil]
  rfl

/-! ## JOB_ADMIT's timers (R316, R433) -/

section
variable {seq : Nat} {a : Admit} {s : State} (ha : lookup seq s.fab.admits = some a)
include ha

theorem execJobAdmitProbeTimer_of_open :
    execJobAdmitProbeTimer seq s = .next (sendProbes s a) := by
  simp only [execJobAdmitProbeTimer, ha]

theorem execJobAdmitTimeout_of_missing {ep i : Nat} {rest : List (Nat × Nat)}
    (hmissing : ((a.list.zip (upFrom 0 a.list.length)).filter fun e =>
      !a.confirmed.contains e.1) = (ep, i) :: rest) :
    execJobAdmitTimeout seq s = .next (completeWith
      { s with fab := { s.fab with admits := eraseK seq s.fab.admits } } seq stNotConfirmed
      (rest.length + 1) ep i) := by
  simp only [execJobAdmitTimeout, ha, hmissing, List.length_cons, List.headD_cons]

end

/-! ## The fence and its quarantine (R432) -/

/-- The fence's drain is over, and the quarantine of 2,500 ticks runs. -/
def quarantineBegun (s : State) : State :=
  setRaw (setFld (setFld s Fld.XRT_EP_DRAINING 0) Fld.XRT_EP_QUARANTINE 1) Reg.XRT_QUAR_END 0 0
    (s.ticks + 2500)

@[simp] theorem quarantineBegun_fab (s : State) : (quarantineBegun s).fab = s.fab := by
  simp [quarantineBegun]

theorem flag_quarantineBegun_draining (s : State) :
    flag (quarantineBegun s) Fld.XRT_EP_DRAINING = false := by
  rw [quarantineBegun, flag_setRaw_ne _ _ _ _ _ _ _ _ (by decide), flag,
    fld_setFld_apart _ Fld.XRT_EP_QUARANTINE Fld.XRT_EP_DRAINING _ _ _ rfl (by decide) (by decide)
      (by decide)]
  exact flag_setFld_same s false (by decide) (by decide) rfl

theorem flag_quarantineBegun_quarantine (s : State) :
    flag (quarantineBegun s) Fld.XRT_EP_QUARANTINE = true := by
  rw [quarantineBegun, flag_setRaw_ne _ _ _ _ _ _ _ _ (by decide)]
  exact flag_setFld_same _ true (by decide) (by decide) rfl

/-- Nothing that was sent before the fence remains, and no EP_FENCE waits any more. -/
def fenceDrained (s : State) : State :=
  { quarantineBegun s with fab := { s.fab with tx := [], fence := {} } }

@[simp] theorem fenceDrained_regs (s : State) :
    (fenceDrained s).regs = (quarantineBegun s).regs := by
  rw [fenceDrained]

theorem execFenceDrainDone_of_draining {s : State} (h : flag s Fld.XRT_EP_DRAINING = true) :
    execFenceDrainDone s = .next (s.fab.fence.seqs.foldl
      (fun v q => completeWith v q stOk 0 (s.ticks + 2500)) (fenceDrained s)) := by
  simp only [execFenceDrainDone, h, Bool.not_true, Bool.false_eq_true, if_false, fenceDrained,
    quarantineBegun, setRaw_fab, setFld_fab]

/-! ## MCAST_RESEND (R437) -/

/-- One more try of a multicast message is noted. -/
def mcastTried (s : State) (seq : Nat) (m : McastOut) : State :=
  { timingOpen s with fab := { s.fab with
    mcastOut := insertK seq { m with tries := m.tries + 1, at_ := s.ticks } s.fab.mcastOut } }

section
variable {seq : Nat} {m : McastOut} {c : OpenCmd} {s : State}
  (hm : lookup seq s.fab.mcastOut = some m) (hc : s.cmd seq = some c)
  (htries : m.tries < fld s Fld.XRT_LIMITS_MAX_TRIES)
include hm hc htries

theorem execMcastResend_of_no_entry (he : mcastFor s m.group (curEpoch s) = none) :
    execMcastResend seq s = .next s := by
  simp only [execMcastResend, hm, hc, Nat.not_le.mpr htries, he, if_false]

theorem execMcastResend_of_entry {e : McastEntry} (he : mcastFor s m.group (curEpoch s) = some e) :
    execMcastResend seq s = .next (((upFrom 0 m.leaves.length).filter fun i =>
      !m.acked.contains i && !m.undelivered.contains i).foldl (fun s i =>
        m.packets.foldl (fun s p => count
          (sendMcastPkt s c.func seq m e (some (m.leaves.getD i 0)) p) bankXrt 12) s)
      (mcastTried s seq m)) := by
  simp only [execMcastResend, hm, hc, Nat.not_le.mpr htries, he, if_false]
  rfl

end

/-! ## The statement -/

/-- Settles O46: each clause is the lemma of its timer for what the timer finds. -/
theorem transportTimers : Obligations.TransportTimers := by
  unfold Obligations.TransportTimers
  refine ⟨fun _ _ _ _ _ _ hf hx hmay hdue htries =>
      execPacketResend_of_last_try hf hx hmay hdue htries,
    fun _ _ _ _ _ _ hf hx hdue => execPacketResend_of_not_due hf hx hdue,
    fun _ _ _ _ hafter hy hpos hnear hrto => dueAgain_of_earlier hafter hy hpos hnear hrto,
    ?resend, fun _ _ q _ hf => execPacketResend_of_no_flow q hf,
    fun _ _ _ _ hf hack hheld harrived => execFlowEntryFree_of_idle hf hack hheld harrived,
    fun sl _ hmay => execAckSend_of_not_mayInject sl hmay,
    fun sl _ hmay hnone => execAckSend_of_none_pending sl hmay hnone, ?ack,
    fun _ _ _ ha => execJobAdmitProbeTimer_of_open ha,
    fun _ _ _ _ _ _ ha hmissing => execJobAdmitTimeout_of_missing ha hmissing,
    ?drain, ?quarantine,
    fun _ _ _ _ hm hc htries he => execMcastResend_of_no_entry hm hc htries he, ?mcast⟩
  case resend =>
    exact fun d tc q f x s hf hx hmay hdue htries => ⟨sentAgain s (flowKey d (tc % 8)) q x,
      resendOf x, rfl, rfl, rfl, rfl, rfl, execPacketResend_of_try hf hx hmay hdue htries⟩
  case ack =>
    exact fun key sl f s hmay hrx hack hnow hsl => ⟨f.expected + ackMap f * 2 ^ 32, by omega,
      execAckSend_of_one_flow hmay hrx hack hnow hsl⟩
  case drain =>
    exact fun s h => ⟨fenceDrained s,
      (flag_congr (fenceDrained_regs s) ..).trans (flag_quarantineBegun_draining s),
      (flag_congr (fenceDrained_regs s) ..).trans (flag_quarantineBegun_quarantine s), rfl,
      execFenceDrainDone_of_draining h⟩
  case quarantine =>
    exact fun s => ⟨_, rfl, flag_setFld_same s false (by decide) (by decide) rfl,
      setFld_restored ..⟩
  case mcast =>
    exact fun seq m c e s hm hc htries he => ⟨mcastTried s seq m, lookup_insertK_same ..,
      execMcastResend_of_entry hm hc htries he⟩

end Sys2Proof.Machine
end

section
/-!
# Steps, the commands that end them, and what reset leaves (R440, R498, R523, R548, R573)

A step runs the command at the front of the queue, or passes one ember tick where there is none.
What a command keeps is `exec_fixed`: the waiting commands and, but for the loss and return of
standby power, the tick count.
-/
open Sys2Proof
namespace Sys2Proof.Machine

/-! ## Outcomes -/

/-- An outcome whose fixed part is known is a next state. -/
theorem answers_of_fixedAfter {o : Out} {d : Fixed} (h : fixedAfter o = some d) : Answers o := by
  cases o with
  | next s => exact ⟨s, rfl⟩
  | fault r => cases h
  | refused r => cases h

theorem fixed_eq_of_exec {c : Instr} {s t : State} (hloss : c ≠ .standbyLoss)
    (hup : c ≠ .standbyPowerUp) (h : exec c s = .next t) : t.fixed = s.fixed := by
  simpa [h] using exec_fixed c s hloss hup

/-- The two rows that change the tick count answer a next state as every other row does. -/
theorem exec_answers (c : Instr) (s : State) : Answers (exec c s) := by
  by_cases hloss : c = .standbyLoss
  · subst hloss
    exact answers_of_fixedAfter (execStandbyLoss_fixed s)
  by_cases hup : c = .standbyPowerUp
  · subst hup
    exact answers_of_fixedAfter (execStandbyPowerUp_fixed s)
  exact answers_of_fixedAfter (exec_fixed c s hloss hup)

/-- The two rows that change the tick count keep the waiting commands as every other row does. -/
theorem exec_pending (c : Instr) (s : State) :
    (fixedAfter (exec c s)).map (fun d => d.2.1) = some s.pending := by
  by_cases hloss : c = .standbyLoss
  · subst hloss
    simp [exec]
  by_cases hup : c = .standbyPowerUp
  · subst hup
    simp [exec]
  rw [exec_fixed c s hloss hup]
  rfl

/-! ## Steps -/

theorem step_of_front (c : Instr) (rest : List Instr) (s : State) :
    step { s with pending := c :: rest } = exec c { s with pending := rest } := (rfl)

theorem step_of_idle {s : State} (h : s.pending = []) : step s = .next (emberTick s) := by
  simp only [step, h]

theorem step_answers (s : State) : Answers (step s) := by
  cases h : s.pending with
  | nil => exact ⟨emberTick s, step_of_idle h⟩
  | cons c rest => simpa only [step, h] using exec_answers c { s with pending := rest }

theorem emberTick_of_no_standby {s : State} (h : s.pwr.standbyOn = false) : emberTick s = s := by
  simp [emberTick, h]

theorem emberTick_ticks {s : State} (h : s.pwr.standbyOn = true) :
    (emberTick s).ticks = (s.ticks + 1) % 2 ^ 64 := by
  have hfixed : (emberTick s).fixed = (s.fuses, s.pending, (s.ticks + 1) % 2 ^ 64) := by
    simp [emberTick, h]
  exact congrArg (fun d : Fixed => d.2.2) hfixed

/-- Settles O1: by the step's own equation for a queue with a front. -/
theorem stepRunsFrontCommand : Obligations.StepRunsFrontCommand := by
  unfold Obligations.StepRunsFrontCommand
  exact step_of_front

/-- Settles O2: an idle step is the tick, which counts once where standby power is on. -/
theorem idleStepIsOneTick : Obligations.IdleStepIsOneTick := by
  unfold Obligations.IdleStepIsOneTick
  refine ⟨fun s hidle hon => ⟨emberTick s, step_of_idle hidle, emberTick_ticks hon⟩,
    fun s hidle hoff => ?_⟩
  rw [step_of_idle hidle, emberTick_of_no_standby hoff]

/-- Settles O3: a row's frame names the state it answers, and the tick is a state. -/
theorem noStepStops : Obligations.NoStepStops := by
  unfold Obligations.NoStepStops
  exact ⟨exec_answers, step_answers⟩

/-- Settles O8: the waiting commands are a part of what every row keeps. -/
theorem commandsKeepTheQueue : Obligations.CommandsKeepTheQueue := by
  unfold Obligations.CommandsKeepTheQueue
  intro c s t h
  have hpending := exec_pending c s
  rw [h] at hpending
  exact Option.some.inj hpending

/-- Settles O9: the tick count is a part of what every other row keeps. -/
theorem onlyStandbyLossClearsTicks : Obligations.OnlyStandbyLossClearsTicks := by
  unfold Obligations.OnlyStandbyLossClearsTicks
  exact fun c s t hloss hup h => congrArg (fun d : Fixed => d.2.2) (fixed_eq_of_exec hloss hup h)

/-! ## What reset leaves (R440, R498, R548, R573) -/

/-- After reset no register differs from its reset value. -/
theorem raw_reset (r : RegSpec) (i fn : Nat) : raw State.reset r i fn = r.resetOf i := (rfl)

/-- No error register's reset value has a bit set, and none of them is one of the four registers
whose copies reset to different values. -/
theorem errRegs_commonReset : ∀ e ∈ errRegs,
    e.1.base ∉ [Reg.HIF_FN_Q, Reg.HIF_FN_CTX, Reg.HIF_FN_WSP, Reg.PMC_MASK].map RegSpec.base ∧
    e.1.commonReset = 0 := by decide

theorem raw_reset_errRegs (i fn : Nat) :
    errRegs.all (fun e => raw State.reset e.1 i fn = 0) = true := by
  refine List.all_eq_true.mpr fun e he => decide_eq_true ?_
  obtain ⟨hbase, hzero⟩ := errRegs_commonReset e he
  rw [raw_reset, resetOf_eq_commonReset hbase, hzero]

/-- Only the physical function has queues after reset (R573). -/
theorem queues_reset {f : Nat} (h : 1 ≤ f) : fld State.reset Fld.HIF_FN_Q_QUEUES f = 0 := by
  have hreset : Reg.HIF_FN_Q.resetOf f = 0 :=
    (if_pos rfl).trans (if_neg (Nat.ne_of_gt h))
  rw [fld, raw_reset]
  exact congrArg (bitsOf · _ _) hreset

/-- Only the physical function has contexts after reset (R573). -/
theorem contexts_reset {f : Nat} (h : 1 ≤ f) : fld State.reset Fld.HIF_FN_CTX_CTX_COUNT f = 0 := by
  have hreset : Reg.HIF_FN_CTX.resetOf f = 0 :=
    (if_neg (by decide)).trans ((if_pos rfl).trans (if_neg (Nat.ne_of_gt h)))
  rw [fld, raw_reset]
  exact congrArg (bitsOf · _ _) hreset

theorem flag_reset_port (f : FieldRef) (hreg : f.reg = Reg.FAB_PORT_CTL) (p : Nat) :
    flag State.reset f p = (bitsOf Reg.FAB_PORT_CTL.commonReset f.lo f.len != 0) := by
  rw [flag, fld, raw_reset, hreg, resetOf_eq_commonReset (by decide)]

/-- Settles O6: each register reads its reset value, which no other copy's place decides but for
the two that R573 gives by function. -/
theorem resetValues : Obligations.ResetValues := by
  unfold Obligations.ResetValues
  refine ⟨by decide, fun f h _ => queues_reset h, by decide, fun f h _ => contexts_reset h,
    fun i f => raw_reset_errRegs i f, by decide,
    fun p _ => ⟨(flag_reset_port _ rfl p).trans (by decide),
      (flag_reset_port _ rfl p).trans (by decide)⟩,
    by decide, by decide, by decide, by decide, by decide, by decide, rfl, rfl, rfl,
    fun f _ => ?_⟩
  rw [fld, raw_reset]
  decide

end Sys2Proof.Machine
end

section
/-!
# The remote commands, and joining and leaving a FLASK (R445, R449, R460)

Each command's lemma reads its preconditions off the frame (`runCmd_of_pass`, `runCmd_of_starts`).
What FLASK_JOIN makes of its list is `joiningFlask`: this module's rank is its place in the list.
-/
open Sys2Proof
namespace Sys2Proof.Machine

/-! ## REMOTE_WRITE, REMOTE_READ and REMOTE_ATOMIC (R460) -/

section
variable {s : State} {seq tid : Nat} {c : OpenCmd}

theorem execRemoteWrite_of_no_tid (h : Starts s seq 0xD4 c) (hpre : remotePre s c = none)
    (htid : freeRemoteTid s (pktBits c.pkt 24 0 20) = none) :
    execRemoteWrite seq s = .next s := by
  simp only [execRemoteWrite, runCmd_of_pass h hpre, htid]

theorem execRemoteWrite_of_tid {bs : List Byte} (h : Starts s seq 0xD4 c)
    (hpre : remotePre s c = none)
    (htid : freeRemoteTid s (pktBits c.pkt 24 0 20) = some tid)
    (hread : localRead s (pktBits c.pkt 40 0 48) (pktBits c.pkt 48 0 32) = .ok bs) :
    execRemoteWrite seq s = .next ((remotePieces (pktBits c.pkt 48 0 32)).foldl
      (fun s p => sendRemote s c.func (pktBits c.pkt 24 0 20) false (.remote seq)
        { op := 1, tid, dlen := p.2, addr := pktBits c.pkt 32 0 48 + p.1
          data := (bs.drop p.1).take p.2 })
      ((takeTid ((startWork (noteReads s (pktBits c.pkt 40 0 48) (pktBits c.pkt 48 0 32)) seq).modCmd
        seq fun c => { c with pinned := true }) (pktBits c.pkt 24 0 20) tid seq).setRemote seq
        { dest := pktBits c.pkt 24 0 20, op := 1, laddr := pktBits c.pkt 40 0 48
          len := pktBits c.pkt 48 0 32
          unacked := (remotePieces (pktBits c.pkt 48 0 32)).length })) := by
  simp only [execRemoteWrite, runCmd_of_pass h hpre, htid, withLocal, hread]

theorem execRemoteRead_of_pass (h : Starts s seq 0xD5 c) (hpre : remotePre s c = none) :
    execRemoteRead seq s = .next (askRemote (((startWork s seq).modCmd seq
      fun x => { x with dest := [(pktBits c.pkt 40 0 48, pktBits c.pkt 48 0 32)] }).setRemote seq
      { dest := pktBits c.pkt 24 0 20, op := 2, laddr := pktBits c.pkt 40 0 48
        len := pktBits c.pkt 48 0 32
        rest := (remotePieces (pktBits c.pkt 48 0 32)).map fun p =>
          (pktBits c.pkt 32 0 48 + p.1, p.1, p.2) }) seq c.func 256) :=
  runCmd_of_pass h hpre _

theorem noEndpoint_of_valid (h : flag s Fld.XRT_EP_VALID = true) : noEndpoint s = false :=
  congrArg not h

theorem execRemoteAtomic_of_tid (h : Starts s seq 0xD6 c) (hep : flag s Fld.XRT_EP_VALID = true)
    (htid : freeRemoteTid s (pktBits c.pkt 24 0 20) = some tid) :
    execRemoteAtomic seq s = .next (sendRemote
      ((takeTid ((startWork s seq).modCmd seq fun c => { c with pinned := true })
        (pktBits c.pkt 24 0 20) tid seq).setRemote seq
        { dest := pktBits c.pkt 24 0 20, op := 4, len := 8, wanted := [(tid, (0, 8))] })
      c.func (pktBits c.pkt 24 0 20) false (.remote seq)
      { op := 4, tid, type := pktBits c.pkt 28 2 2, aop := pktBits c.pkt 28 0 2, dlen := 16
        addr := pktBits c.pkt 32 0 48
        data := leBytes 8 (pktBits c.pkt 40 0 64) ++ leBytes 8 (pktBits c.pkt 48 0 64) }) := by
  simp only [execRemoteAtomic, runCmd_of_starts h, elim_firstFail_cons, elim_firstFail_nil,
    noEndpoint_of_valid hep, htid, Bool.false_eq_true, if_false]

end

/-! ## FLASK_JOIN (R445) -/

/-- A member's place in the list is found by its endpoint. -/
theorem lookup_zip_upFrom {x : Nat} {l : List Nat} (hx : x ∈ l) (a : Nat) :
    (l.zip (upFrom a l.length)).lookup x = some (a + l.idxOf x) := by
  induction l generalizing a with
  | nil => cases hx
  | cons y l ih =>
    rw [List.length_cons, upFrom, List.zip_cons_cons, List.lookup_cons, List.idxOf_cons]
    by_cases hxy : x = y
    · simp [hxy]
    · have hmem : x ∈ l := (List.mem_cons.mp hx).resolve_left hxy
      rw [beq_false_of_ne hxy, beq_false_of_ne (Ne.symm hxy)]
      simp only [ih hmem, cond_false]
      congr 1
      omega

/-- The FLASK that command `seq`, which is `c`, begins to form: its members are the command's list,
and this module's rank is its place there. -/
def joiningFlask (s : State) (seq : Nat) (c : OpenCmd) : FlaskState :=
  let l := endpointList (c.payload.getD [])
  { phase := .joining, id := pktBits c.pkt 24 0 16, members := l
    rank := ((l.zip (upFrom 0 l.length)).lookup (endpointId s)).getD 0
    window := pktBits c.pkt 40 0 48, cmd := some seq, start := s.ticks
    timeoutUs := pktBits c.pkt 48 0 32, poisoned := s.flk.poisoned }

theorem joiningFlask_rank {s : State} {seq : Nat} {c : OpenCmd}
    (h : endpointId s ∈ endpointList (c.payload.getD [])) :
    (joiningFlask s seq c).members[(joiningFlask s seq c).rank]? = some (endpointId s) := by
  simp only [joiningFlask, lookup_zip_upFrom h, Option.getD_some, Nat.zero_add]
  exact List.getElem?_idxOf h

section
variable {s : State} {seq : Nat} {c : OpenCmd}

theorem execFlaskJoin_of_good (h : Starts s seq 0xD0 c)
    (hres : listReserved (endpointList (c.payload.getD [])) = false) (hout : s.flk.phase = .out)
    (hep : flag s Fld.XRT_EP_VALID = true) (hin : endpointId s ∈ endpointList (c.payload.getD []))
    (hdups : (endpointList (c.payload.getD [])).eraseDups.length =
      (endpointList (c.payload.getD [])).length)
    (hmapped : firstUnmapped s c.func (pktBits c.pkt 40 0 48) windowBytes = none) :
    execFlaskJoin seq s = .next (joinAdvance
      ((peerRanks { startWork s seq with flk := joiningFlask s seq c }).foldl sendJoin
        { startWork s seq with flk := joiningFlask s seq c })) := by
  refine runCmd_of_pass h ?_ _
  simp [firstFail, hres, hout, noEndpoint_of_valid hep, hin, hdups, hmapped]

/-! ## FLASK_LEAVE (R449) -/

theorem execFlaskLeave_of_starts (h : Starts s seq 0xD1 c) :
    execFlaskLeave seq s = .next
      (if inFlask s = true then leaveAdvance { startWork s seq with
        flk := { (startWork s seq).flk with phase := .leaving, cmd := some seq } }
       else completeWith s seq stBadParam 1) := by
  simp only [execFlaskLeave, runCmd_of_starts h, elim_firstFail_cons, elim_firstFail_nil]
  cases inFlask s <;> rfl

end

/-! ## The statement -/

/-- Settles O24: each clause is the lemma of its command for what that command meets. -/
theorem remoteAndFlaskCommands : Obligations.RemoteAndFlaskCommands := by
  unfold Obligations.RemoteAndFlaskCommands
  refine ⟨fun _ _ _ _ _ h hpre htid hread => execRemoteWrite_of_tid h hpre htid hread,
    fun _ _ _ h hpre htid => execRemoteWrite_of_no_tid h hpre htid,
    fun _ _ _ h hpre => execRemoteRead_of_pass h hpre,
    fun _ _ _ _ h hep htid => execRemoteAtomic_of_tid h hep htid, ?join,
    fun _ _ _ h => execFlaskLeave_of_starts h⟩
  case join =>
    exact fun seq c s h hres hout hep hin hdups hmapped =>
      ⟨{ startWork s seq with flk := joiningFlask s seq c }, rfl, rfl, rfl, joiningFlask_rank hin,
        rfl, rfl, execFlaskJoin_of_good h hres hout hep hin hdups hmapped⟩

end Sys2Proof.Machine
end

section
/-!
# The shaper (R464–R469)

A start of a slice counts and charges before it moves the packet; of the network's state a charge
writes the tokens alone, so what the start moves is read off `shaperStarted`.
-/
open Sys2Proof
namespace Sys2Proof.Machine

/-! ## What a charge leaves (R465, R466) -/

section
variable (s : State) (l : Level) (i : Nat) (p : XlPkt)

@[simp] theorem charge_held : (charge s l i p).fab.held = s.fab.held := by
  unfold charge
  split <;> rfl

@[simp] theorem charge_inject : (charge s l i p).fab.inject = s.fab.inject := by
  unfold charge
  split <;> rfl

@[simp] theorem charge_lastSvc : (charge s l i p).fab.lastSvc = s.fab.lastSvc := by
  unfold charge
  split <;> rfl

end

/-! ## SHAPER_START (R464–R468) -/

theorem execShaperStart_of_closed {sl : Nat} {s : State} (h : bktOpen s .port (sl % 4) = false) :
    execShaperStart sl s = .next s := by
  simp [execShaperStart, h]

theorem frontPackets_of_none_held {s : State} (sl : Nat) (h : s.fab.held = []) :
    frontPackets s sl = [] := by
  simp [frontPackets, h]

theorem execShaperStart_of_none_held {s : State} (sl : Nat) (h : s.fab.held = []) :
    execShaperStart sl s = .next s := by
  simp only [execShaperStart, frontPackets_of_none_held _ h, List.filter_nil, List.isEmpty_nil,
    if_true, List.find?_nil]
  (repeat' split) <;> rfl

/-- The packet `o` is counted, and its buckets are charged for it: its slice's, its service's, and,
where it borrows nothing, its subscription's. -/
def startCharged (s : State) (sl v : Nat) (o : Outgoing) : State :=
  let u := count s bankShp 0
  let u := if passes s o = some true then count u bankShp 1 else u
  let u := charge (charge u .port sl o.pkt) .svc v o.pkt
  if passes s o = some true then u else charge u .sub o.sub o.pkt

@[simp] theorem startCharged_held (s : State) (sl v : Nat) (o : Outgoing) :
    (startCharged s sl v o).fab.held = s.fab.held := by
  unfold startCharged
  dsimp only
  split <;> simp

@[simp] theorem startCharged_inject (s : State) (sl v : Nat) (o : Outgoing) :
    (startCharged s sl v o).fab.inject = s.fab.inject := by
  unfold startCharged
  dsimp only
  split <;> simp

@[simp] theorem startCharged_lastSvc (s : State) (sl v : Nat) (o : Outgoing) :
    (startCharged s sl v o).fab.lastSvc = s.fab.lastSvc := by
  unfold startCharged
  dsimp only
  split <;> simp

/-- Packet `o`, number `i` of the held ones, of service `v`, starts in slice `sl`, and the service
keeps the deficit `d`. -/
def shaperStarted (s : State) (sl v d i : Nat) (o : Outgoing) : State :=
  let u := startCharged s sl v o
  let held := u.fab.held.eraseIdx i
  { u with fab := { u.fab with
    held
    inject := u.fab.inject ++ [{ o with pkt := { o.pkt with shapeTag := o.sub + v * 2 ^ 10 } }]
    svcDeficit := keepDeficits sl ((held.map (withService u)).filter fun o => o.slice % 4 = sl)
      (insertK (sl * 64 + v) d u.fab.svcDeficit)
    lastSvc := insertK sl v u.fab.lastSvc } }

theorem execShaperStart_of_due {sl v d i : Nat} {o : Outgoing} {front : List (Nat × Outgoing)}
    {s : State} (hsl : sl < 4) (hopen : bktOpen s .port sl = true)
    (hfront : front = (frontPackets s sl).filter (fun e => (passes s e.2).isSome))
    (hrich : front.filter (fun e => bktOpen s .svc e.2.svc) = front) (hne : front ≠ [])
    (hpick : drrPick 64
      (fun v => (front.find? fun e => e.2.svc = v).map fun e => e.2.pkt.size + bktOverhead s .svc v)
      (fun v => fld s Fld.SHP_SVC_CFG_WEIGHT v) (fun v => lookupD 0 (sl * 64 + v) s.fab.svcDeficit)
      (lookupD 63 sl s.fab.lastSvc) = some (v, d))
    (hfind : front.find? (fun e => e.2.svc = v) = some (i, o)) :
    execShaperStart sl s = .next (shaperStarted s sl v d i o) := by
  have hempty : front.isEmpty = false := by simpa using hne
  simp only [execShaperStart, Nat.mod_eq_of_lt hsl, hopen, ← hfront, hrich, hempty, hpick, hfind,
    Bool.not_true, Bool.false_eq_true, if_false]
  rfl

/-! ## SHP_BUCKET_CFG_WRITE (R469, R473) -/

theorem execShpBucketCfgWrite_of_refused {f i : Nat} {l : Level} (v : Nat) (s : State)
    (h : f ≠ 0 ∨ l.cfg.n ≤ i) : execShpBucketCfgWrite f l i v s = .next s := by
  refine if_pos ?_
  simpa using h

theorem execShpBucketCfgWrite_of_changed {l : Level} {i v : Nat} {s : State} (hi : i < l.cfg.n)
    (hchanged : bitsOf (raw s l.cfg i) 0 41 ≠ bitsOf (raw (writeReg s l.cfg i 0 v) l.cfg i) 0 41) :
    execShpBucketCfgWrite 0 l i v s = .next (setTokens (writeReg s l.cfg i 0 v) l i
      (if bitOf v 42 then bktCap (writeReg s l.cfg i 0 v) l i else 0)) := by
  simp only [execShpBucketCfgWrite, Nat.not_le.mpr hi, hchanged, ne_eq, not_true, decide_false,
    Bool.or_self, Bool.false_eq_true, if_false]

/-! ## The statement -/

/-- Settles O47: each clause is its row's lemma. -/
theorem shaperRows : Obligations.ShaperRows := by
  unfold Obligations.ShaperRows
  refine ⟨fun _ _ h => execShaperStart_of_closed h,
    fun sl _ _ hheld => execShaperStart_of_none_held sl hheld, ?due,
    fun _ _ _ v s h => execShpBucketCfgWrite_of_refused v s h,
    fun _ _ _ _ hi hchanged => execShpBucketCfgWrite_of_changed hi hchanged⟩
  case due =>
    exact fun sl v d i o front s hsl hopen hfront hrich hne hpick hfind =>
      ⟨shaperStarted s sl v d i o,
        execShaperStart_of_due hsl hopen hfront hrich hne hpick hfind,
        by simp [shaperStarted], by simp [shaperStarted], by simp [shaperStarted]⟩

end Sys2Proof.Machine
end

section
/-!
# FLASK formation and line messages (R445–R459)

A line message, a LEAVE or a LOST that comes from a member is handled by its row's function alone
(`recvFlask_of_from`); data and acknowledgements pass an injection point before
(`recvFlask_of_inject`). JOIN, READY and ABORT_JOIN find their sender in the list of members.
-/
open Sys2Proof
namespace Sys2Proof.Machine

@[simp] theorem rmConsume_flk (s : State) (proto : Nat) (i : RmIn) :
    (rmConsume s proto i).flk = s.flk := (rfl)

/-! ## JOIN, READY and ABORT_JOIN (R445, R446, R448) -/

section
variable {s : State}

theorem execJoin_of_other_epoch {m : JoinMsg} (h : epochOk s m.epoch = false) :
    execJoin m s = .next s := by
  simp [execJoin, h]

theorem execJoin_of_agreeing {m : JoinMsg} {r : Nat} (hepoch : epochOk s m.epoch = true)
    (hrank : rankOfEp s m.src = some r) (hphase : s.flk.phase ≠ .out) (hflask : m.flask = s.flk.id)
    (hcount : m.count = s.flk.members.length) (hdigest : m.digest = listDigest s.flk.members)
    (hmajor : m.major = 1) (hother : r ≠ s.flk.rank) (hfirst : hasK r s.flk.joined = false)
    (heject : s.fab.eject = []) :
    execJoin m s = .next (joinAdvance (sendJoin
      { s with flk := { s.flk with joined := insertK r m.minor s.flk.joined } } r)) := by
  have herase (p : XlPkt → Bool) : s.fab.eject.eraseP p = s.fab.eject := by simp [heject]
  simp only [execJoin, hepoch, herase, hrank, hphase, hflask, hcount, hdigest, hmajor, hother,
    hfirst, ne_eq, not_false_eq_true, decide_true, Bool.and_self, Bool.not_true, Bool.or_self,
    Bool.false_eq_true, if_false]

variable {i : RmIn} {r : Nat}

theorem execReady_of_new (hop : i.rm.op = 0x11) (hepoch : epochOk s i.epoch = true)
    (hrank : rankOfEp (rmConsume s 2 i) i.src = some r) (hphase : (rmConsume s 2 i).flk.phase ≠ .out)
    (hflask : i.rm.flask = (rmConsume s 2 i).flk.id)
    (hnew : (rmConsume s 2 i).flk.readied.contains r = false) :
    execReady i s = .next (joinAdvance { rmConsume s 2 i with
      flk := { (rmConsume s 2 i).flk with readied := r :: (rmConsume s 2 i).flk.readied } }) := by
  simp only [execReady, hop, hepoch, hrank, hphase, hflask, hnew, ne_eq, not_true, decide_false,
    Bool.not_true, Bool.or_self, Bool.false_eq_true, if_false]

theorem execAbortJoin_of_rank (hop : i.rm.op = 0x12) (hepoch : epochOk s i.epoch = true)
    (hrank : rankOfEp (rmConsume s 2 i) i.src = some r)
    (hflask : i.rm.flask = (rmConsume s 2 i).flk.id) :
    execAbortJoin i s = .next (if inFlask (rmConsume s 2 i) then
        settleWork (resumeLines (declareLost (rmConsume s 2 i) r))
      else { rmConsume s 2 i with flk := { (rmConsume s 2 i).flk with
        joined := eraseK r (rmConsume s 2 i).flk.joined
        readied := (rmConsume s 2 i).flk.readied.filter (· ≠ r) } }) := by
  simp only [execAbortJoin, hop, hepoch, hrank, hflask, ne_eq, not_true, decide_false,
    Bool.not_true, Bool.or_self, Bool.false_eq_true, if_false]
  split <;> rfl

/-! ## JOIN's repetition and its time-out (R447) -/

theorem execFlaskJoinRetry_of_joining (h : s.flk.phase = .joining) :
    execFlaskJoinRetry s = .next
      ((peerRanks s).foldl (fun s r => if hasK r s.flk.joined then s else sendJoin s r) s) :=
  if_neg (not_not.mpr h)

/-- The ranks of the peers whose JOIN or READY is missing. -/
def missingPeers (s : State) : List Nat :=
  (peerRanks s).filter fun r => !(hasK r s.flk.joined && s.flk.readied.contains r)

/-- ABORT_JOIN has gone to every peer. -/
def abortSent (s : State) : State :=
  (peerRanks s).foldl (fun s r => sendFlask s r 0x12 0 0 [] false) s

theorem execFlaskJoinTimeout_of_forming {seq : Nat} (hcmd : s.flk.cmd = some seq)
    (hphase : s.flk.phase = .joining ∨ s.flk.phase = .ready) :
    execFlaskJoinTimeout s = .next (completeWith (dropFlask (abortSent s)) seq stNotConfirmed
      (missingPeers s).length
      ((abortSent s).flk.members.getD ((missingPeers s).headD 0) 0) ((missingPeers s).headD 0)) := by
  have hforming : ((s.flk.phase ≠ .joining : Bool) && (s.flk.phase ≠ .ready : Bool)) = false := by
    rcases hphase with h | h <;> simp [h]
  simp only [execFlaskJoinTimeout, hcmd, hforming, Bool.false_eq_true, if_false]
  rfl

end

/-! ## The frame of a member's packet (R450, R456) -/

section
variable {s t : State} {i : RmIn} {op r : Nat}

theorem recvFlask_of_from (h : FlaskFrom s i op r) (hplain : (op = 0x26 ∨ op = 0x27) = False)
    (f : State → Nat → State) :
    recvFlask s i op f =
      .next (settleWork (leaveAdvance (resumeLines (f (rmConsume s 2 i) r)))) := by
  obtain ⟨hop, hepoch, hstoked, hsender⟩ := h
  simp [recvFlask, hop, hepoch, hstoked, hsender, hplain]

theorem recvFlask_of_inject (h : FlaskFrom s i op r) (hanswer : op = 0x26 ∨ op = 0x27)
    (hinject : inject (rmConsume s 2 i) 0xF r = (false, t)) (f : State → Nat → State) :
    recvFlask s i op f = .next (settleWork (leaveAdvance (resumeLines (f t r)))) := by
  obtain ⟨hop, hepoch, hstoked, hsender⟩ := h
  simp [recvFlask, hop, hepoch, hstoked, hsender, hanswer, hinject]

/-- A row that is the frame with a function of its own acts by that function. -/
theorem flaskActs_of_recvFlask {c : RmIn → Instr} {f : RmIn → State → Nat → State}
    (hexec : ∀ i s, exec (c i) s = recvFlask s i op (f i))
    (hplain : (op = 0x26 ∨ op = 0x27) = False) : FlaskActs c op f := fun i _ s h =>
  (hexec i s).trans (recvFlask_of_from h hplain (f i))

/-- The member that a packet comes from is up, and so has not left. -/
theorem left_of_flaskSender (h : flaskSender s i = some r) :
    s.flk.left.contains i.rm.rank = false := by
  unfold flaskSender at h
  split at h
  · next hup =>
    simp only [rankUp, Bool.and_eq_true, Bool.not_eq_true'] at hup
    exact hup.1.2.1.2
  · cases h

theorem leftAgain_of_from (h : FlaskFrom s i op r) : leftAgain s i = false := by
  obtain ⟨-, -, -, hsender⟩ := h
  have hleft : s.flk.left.contains i.rm.rank = false := left_of_flaskSender hsender
  simp only [leftAgain, hleft, Bool.and_false, Bool.false_and]

/-! ## LEAVE (R449) -/

/-- Member `r` has left: no line, transaction or waiting request of it remains. -/
def memberLeft (s : State) (r : Nat) : State :=
  let f := s.flk
  { s with flk := { f with
    left := f.left ++ [r]
    cache := f.cache.filter fun e => e.1 / 2 ^ 28 ≠ r
    txns := f.txns.filter fun e => e.1 / 256 ≠ r
    dir := (f.dir.map fun e => (e.1, e.2.without r)).filter fun e =>
      e.2.owner.isSome || !e.2.sharers.isEmpty
    home := (f.home.filter fun h => h.rank ≠ r).map fun h =>
      { h with waits := h.waits.filter fun w => w.1 ≠ r } } }

theorem memberLeft_cache (s : State) (r : Nat) :
    ∀ e ∈ (memberLeft s r).flk.cache, e.1 / 2 ^ 28 ≠ r := fun e he => by
  simpa using (List.mem_filter.mp he).2

theorem memberLeft_txns (s : State) (r : Nat) :
    ∀ e ∈ (memberLeft s r).flk.txns, e.1 / 256 ≠ r := fun e he => by
  simpa using (List.mem_filter.mp he).2

theorem execLeave_of_from (h : FlaskFrom s i 0x13 r) :
    execLeave i s = .next (settleWork (leaveAdvance (resumeLines (homePump (flkRegs
      (memberLeft (sendFlask (rmConsume s 2 i) r 0x27 i.rm.tid 0 [] false) r)))))) := by
  rw [execLeave, leftAgain_of_from h, if_neg Bool.false_ne_true, recvFlask_of_from h (by decide)]
  rfl

/-! ## PUT_M, and RECALL of a line (R453, R458) -/

theorem execPutM_of_from (h : FlaskFrom s i 0x22 r) :
    execPutM i s = .next (settleWork (leaveAdvance (resumeLines (homePump (sendFlask
      (if (dirOf (rmConsume s 2 i) i.line).owner = some r then
        setDir (wspStore true (rmConsume s 2 i)
          ((rmConsume s 2 i).flk.window + i.line * lineBytes) i.rm.bytes) i.line
          { dirOf (rmConsume s 2 i) i.line with owner := none }
      else rmConsume s 2 i) r 0x27 i.rm.tid i.rm.addr [] false))))) :=
  recvFlask_of_from h (by decide) _

/-- A RECALL has been counted, and the timing of the open steps noted. -/
def recallMet (s : State) (i : RmIn) : State := timingOpen (count (rmConsume s 2 i) bankFlk 3)

/-- The modified line that a RECALL asks for has been given up, and its data kept for a repeat. -/
def recallGiven (s : State) (i : RmIn) (r : Nat) (bs : List Byte) : State :=
  let u := giveUp s r i.line
  { u with flk := { u.flk with given := insertK (r * 256 + i.rm.tid) (i.line, bs) u.flk.given } }

variable (h : FlaskFrom s i 0x25 r)
include h

theorem execRecall_of_modified {bs : List Byte}
    (hline : lookup (lineKey r i.line) (recallMet s i).flk.cache =
      some { modified := true, data := bs }) :
    execRecall i s = .next (settleWork (leaveAdvance (resumeLines
      (sendFlask (recallGiven (recallMet s i) i r bs) r 0x26 i.rm.tid i.rm.addr bs true)))) := by
  unfold recallMet at hline
  rw [execRecall, recvFlask_of_from h (by decide)]
  simp only [hline, if_true]
  rfl

variable {bs : List Byte}

theorem execRecall_of_given
    (hline : lookup (lineKey r i.line) (recallMet s i).flk.cache = none)
    (hgiven : lookup (r * 256 + i.rm.tid) (recallMet s i).flk.given = some (i.line, bs)) :
    execRecall i s = .next (settleWork (leaveAdvance (resumeLines
      (sendFlask (recallMet s i) r 0x26 i.rm.tid i.rm.addr bs true)))) := by
  unfold recallMet at hline hgiven
  rw [execRecall, recvFlask_of_from h (by decide)]
  simp only [hline, hgiven, if_true]
  rfl

theorem execRecall_of_clean {x : FlaskLine} (hclean : x.modified = false)
    (hline : lookup (lineKey r i.line) (recallMet s i).flk.cache = some x) :
    execRecall i s = .next (settleWork (leaveAdvance (resumeLines
      (sendFlask (giveUp (recallMet s i) r i.line) r 0x27 i.rm.tid i.rm.addr [] true)))) := by
  unfold recallMet at hline
  rw [execRecall, recvFlask_of_from h (by decide)]
  simp only [hline, hclean, Bool.false_eq_true, if_false]
  rfl

theorem execRecall_of_absent
    (hline : lookup (lineKey r i.line) (recallMet s i).flk.cache = none)
    (hgiven : ∀ x, lookup (r * 256 + i.rm.tid) (recallMet s i).flk.given = some x → x.1 ≠ i.line) :
    execRecall i s = .next (settleWork (leaveAdvance (resumeLines
      (sendFlask (giveUp (recallMet s i) r i.line) r 0x27 i.rm.tid i.rm.addr [] true)))) := by
  unfold recallMet at hline hgiven
  rw [execRecall, recvFlask_of_from h (by decide)]
  simp only [hline]
  split
  · next hkept =>
    rw [if_neg (hgiven _ hkept)]
    rfl
  · rfl

end

/-! ## Data and acknowledgements (R450, R457) -/

section
variable {s t : State} {i : RmIn} {r : Nat} {x : FlaskTxn}

theorem execFlaskData_of_request (h : FlaskFrom s i 0x26 r)
    (hinject : inject (rmConsume s 2 i) 0xF r = (false, t))
    (hx : lookup (r * 256 + i.rm.tid) t.flk.txns = some x) (hop : x.op = 0x20 ∨ x.op = 0x21)
    (hstale : x.stale = false) :
    execFlaskData i s = .next (settleWork (leaveAdvance (resumeLines { t with flk := { t.flk with
      txns := eraseK (r * 256 + i.rm.tid) t.flk.txns
      cache := insertK (lineKey r x.line) { modified := x.op = 0x21, data := i.rm.bytes } t.flk.cache
      given := t.flk.given.filter fun e => e.1 / 256 ≠ r || e.2.1 ≠ x.line } }))) := by
  have hrecall : x.op ≠ 0x25 := by omega
  have hrequest : ((x.op ≠ 0x20 : Bool) && (x.op ≠ 0x21 : Bool)) = false := by
    rcases hop with hop | hop <;> simp [hop]
  rw [execFlaskData, recvFlask_of_inject h (.inl rfl) hinject]
  simp only [hx, hrecall, hrequest, hstale, Bool.false_eq_true, if_false]

theorem execFlaskAck_of_open (h : FlaskFrom s i 0x27 r)
    (hinject : inject (rmConsume s 2 i) 0xF r = (false, t))
    (hx : lookup (r * 256 + i.rm.tid) t.flk.txns = some x) :
    execFlaskAck i s = .next (settleWork (leaveAdvance (resumeLines
      (if x.op = 0x24 ∨ x.op = 0x25 then homeEnded t r i.rm.tid []
       else if x.op = 0x20 ∨ x.op = 0x21 then t
       else { t with flk := { t.flk with txns := eraseK (r * 256 + i.rm.tid) t.flk.txns } })))) := by
  rw [execFlaskAck, recvFlask_of_inject h (.inr rfl) hinject]
  simp only [hx, Bool.or_eq_true, decide_eq_true_eq]

theorem execFlaskLineDrop_of_line {r line : Nat} {x : FlaskLine}
    (hx : lookup (lineKey r line) s.flk.cache = some x) :
    execFlaskLineDrop r line s = .next (if x.modified then s
      else { s with flk := { s.flk with cache := eraseK (lineKey r line) s.flk.cache } }) := by
  simp only [execFlaskLineDrop, hx]
  split <;> rfl

end

/-! ## The statement -/

/-- Settles O48: each clause is the lemma of its message; one that a row's function handles alone is
the frame's. -/
theorem flaskMessages : Obligations.FlaskMessages := by
  unfold Obligations.FlaskMessages
  refine ⟨fun _ _ _ hepoch hrank hphase hflask hcount hdigest hmajor hother hfirst heject =>
      execJoin_of_agreeing hepoch hrank hphase hflask hcount hdigest hmajor hother hfirst heject,
    fun _ _ h => execJoin_of_other_epoch h, ?ready, ?abortJoin,
    flaskActs_of_recvFlask (fun _ _ => rfl) (by decide), ?leave,
    fun _ h => execFlaskJoinRetry_of_joining h, ?timeout,
    flaskActs_of_recvFlask (fun _ _ => rfl) (by decide),
    flaskActs_of_recvFlask (fun _ _ => rfl) (by decide), ?putM,
    flaskActs_of_recvFlask (fun _ _ => rfl) (by decide), ?modified, ?given, ?clean,
    fun _ _ _ _ _ h hinject hx hop hstale => execFlaskData_of_request h hinject hx hop hstale,
    fun _ _ _ _ _ h hinject hx => execFlaskAck_of_open h hinject hx, fun _ _ _ => rfl,
    fun _ _ _ _ hx => execFlaskLineDrop_of_line hx⟩
  case ready =>
    rintro i r _ s hop hepoch rfl hrank hphase hflask hnew
    exact execReady_of_new hop hepoch hrank hphase hflask hnew
  case abortJoin =>
    rintro i r _ s hop hepoch rfl hrank hflask
    exact execAbortJoin_of_rank hop hepoch hrank hflask
  case leave =>
    exact fun i r s h => ⟨memberLeft (sendFlask (rmConsume s 2 i) r 0x27 i.rm.tid 0 [] false) r, rfl,
      memberLeft_cache _ r, memberLeft_txns _ r, execLeave_of_from h⟩
  case timeout =>
    exact fun seq s hcmd hphase => ⟨_, _, _, _, rfl, rfl, execFlaskJoinTimeout_of_forming hcmd hphase⟩
  case putM =>
    rintro i r _ s h rfl
    exact execPutM_of_from h
  case modified =>
    rintro i r bs _ s h rfl hline
    exact ⟨recallGiven (recallMet s i) i r bs, rfl, rfl, execRecall_of_modified h hline⟩
  case given =>
    rintro i r bs _ s h rfl hline hgiven
    exact execRecall_of_given h hline hgiven
  case clean =>
    rintro i r _ s h rfl (⟨hline, hgiven⟩ | hclean)
    · exact execRecall_of_absent h hline fun x hx => of_decide_eq_true
        ((Option.all_eq_true _ _).mp hgiven x hx)
    · obtain ⟨x, hx, hclean⟩ := (Option.any_eq_true _ _).mp hclean
      exact execRecall_of_clean h (by simpa using hclean) hx

end Sys2Proof.Machine
end

section
/-!
# REMOTE messages (R460–R463)

A message that is taken in does what its row's function makes of the state (`recvRemote_of_takes`).
A request is refused, waits for lines, or is answered; a response reaches the command that asked.
-/
open Sys2Proof
namespace Sys2Proof.Machine

section
variable {s : State} {i : RmIn}

/-! ## The frame of a REMOTE packet (R460) -/

theorem recvRemote_of_takes {op : Nat} (h : RemoteTakes s i op) (f : State → State) :
    recvRemote s i op f = .next (settleWork (f s)) := by
  obtain ⟨hop, hepoch, hstoked⟩ := h
  simp [recvRemote, hop, hepoch, hstoked]

/-! ## WRITE (R460, R463) -/

section
variable (h : RemoteTakes s i 1)
include h

theorem execWrite_of_refused {n : Nat} (href : remoteRefusal s i.rm.addr i.rm.dlen = some n) :
    execWrite i s = .next (settleWork (respond (rmConsume s 1 i) i 3 n [] false)) := by
  rw [execWrite, recvRemote_of_takes h]
  simp only [href]

variable (href : remoteRefusal s i.rm.addr i.rm.dlen = none)
include href

theorem execWrite_of_lines {ls : List LineNeed}
    (hlines : coherentReady s i.rm.addr i.rm.dlen = .lines ls) :
    execWrite i s = .next (settleWork (askLines s ls)) := by
  rw [execWrite, recvRemote_of_takes h]
  simp only [href, hlines]

theorem execWrite_of_ready (hready : ∀ ls, coherentReady s i.rm.addr i.rm.dlen ≠ .lines ls) :
    execWrite i s = .next (settleWork (coherentWrite (rmConsume s 1 i)
      (fun s a bs => wspStore true s a bs) i.rm.addr i.rm.bytes)) := by
  rw [execWrite, recvRemote_of_takes h]
  simp only [href]

end

/-! ## READ (R461, R463) -/

section
variable {t : State} (h : RemoteTakes s i 2) (hslot : slotFor s i = some t)
include h hslot

theorem execRead_of_refused {n : Nat} (href : remoteRefusal s i.rm.addr i.rm.dlen = some n) :
    execRead i s = .next (settleWork (respond (rmConsume t 1 i) i 3 n [] true)) := by
  rw [execRead, recvRemote_of_takes h]
  simp only [href, hslot]

variable (href : remoteRefusal s i.rm.addr i.rm.dlen = none)
include href

theorem execRead_of_bytes {bs : List Byte} (hread : localRead s i.rm.addr i.rm.dlen = .ok bs) :
    execRead i s = .next (settleWork
      (respond (rmConsume (noteReads t i.rm.addr i.rm.dlen) 1 i) i 3 0 bs true)) := by
  rw [execRead, recvRemote_of_takes h]
  simp only [href, hread, hslot]

theorem execRead_of_lost {q : Nat} (hread : localRead s i.rm.addr i.rm.dlen = .lost q) :
    execRead i s = .next (settleWork (respond (rmConsume (meetLost t q) 1 i) i 3 2 [] true)) := by
  rw [execRead, recvRemote_of_takes h]
  simp only [href, hread, hslot]

end

/-! ## ATOMIC (R462, R463) -/

theorem execAtomic_of_bytes {t : State} {bs : List Byte} (h : RemoteTakes s i 4)
    (hwide : i.rm.type < 2) (href : remoteRefusal s i.rm.addr 8 = none)
    (hread : localRead s i.rm.addr 8 = .ok bs)
    (hready : ∀ ls, coherentReady s i.rm.addr 8 ≠ .lines ls) (hslot : slotFor s i = some t) :
    execAtomic i s = .next (settleWork (respond (count (coherentWrite
      (rmConsume (noteReads t i.rm.addr 8) 1 i) (fun s a bs => wspStore true s a bs) i.rm.addr
      (leBytes 8 (atomicValue i.rm.aop i.rm.type 64 (leNat bs) (leNat (i.rm.data.take 8))
        (leNat ((i.rm.data.drop 8).take 8))))) bankFlk 9) i 5 0 (leBytes 8 (leNat bs)) true)) := by
  rw [execAtomic, recvRemote_of_takes h]
  simp only [if_pos hwide, href, hread, hslot]

/-! ## READ_DATA and ATOMIC_RESULT (R460, R462) -/

theorem execReadData_of_nobody (h : RemoteTakes s i 3)
    (hnone : remoteOf (rmConsume s 1 i) i = none) :
    execReadData i s = .next (settleWork (rmConsume s 1 i)) := by
  rw [execReadData, recvRemote_of_takes h]
  simp only [hnone]

theorem execReadData_of_wanted {seq off n : Nat} {x : RemoteOp} {c : OpenCmd}
    (h : RemoteTakes s i 3) (hx : remoteOf (rmConsume s 1 i) i = some (seq, x))
    (hlen : i.rm.dlen ≠ 0) (hwanted : lookup i.rm.tid x.wanted = some (off, n))
    (hc : s.cmd seq = some c) :
    execReadData i s = .next (settleWork (finishRead (askRemote
      ({ rmConsume s 1 i with fab := { (rmConsume s 1 i).fab with
        tids := eraseK (i.src * 256 + i.rm.tid) (rmConsume s 1 i).fab.tids } }.setRemote seq
        { x with wanted := eraseK i.rm.tid x.wanted, data := writeBytes off i.rm.bytes x.data })
      seq c.func 1) seq)) := by
  rw [execReadData, recvRemote_of_takes h]
  simp only [hx, hlen, hwanted, if_false]
  have hcmd : State.cmd { rmConsume s 1 i with fab := { (rmConsume s 1 i).fab with
      tids := eraseK (i.src * 256 + i.rm.tid) (rmConsume s 1 i).fab.tids } } seq = some c := hc
  rw [hcmd]

theorem execAtomicResult_of_command {seq : Nat} {x : RemoteOp} (h : RemoteTakes s i 5)
    (hx : remoteOf (rmConsume s 1 i) i = some (seq, x)) :
    execAtomicResult i s = .next (settleWork
      (if i.rm.dlen = 0 then endRemote (rmConsume s 1 i) seq (refusedRemote i.rm.type)
       else endRemote (rmConsume s 1 i) seq { status := stOk, word0 := leNat i.rm.bytes })) := by
  rw [execAtomicResult, recvRemote_of_takes h]
  simp only [hx]

end

/-! ## The statement -/

/-- Settles O49: each clause is the lemma of its message for what the message meets. -/
theorem remoteMessages : Obligations.RemoteMessages := by
  unfold Obligations.RemoteMessages
  refine ⟨fun _ _ h href hready => execWrite_of_ready h href hready,
    fun _ _ _ h href => execWrite_of_refused h href,
    fun _ _ _ h href hlines => execWrite_of_lines h href hlines,
    fun _ _ _ _ h href hread hslot => execRead_of_bytes h hslot href hread,
    fun _ _ _ _ h href hslot => execRead_of_refused h hslot href,
    fun _ _ _ _ h href hread hslot => execRead_of_lost h hslot href hread,
    fun _ _ _ _ h hwide href hread hready hslot =>
      execAtomic_of_bytes h hwide href hread hready hslot,
    fun _ _ h hnone => execReadData_of_nobody h hnone, ?readData, ?atomicResult⟩
  case readData =>
    rintro i seq off n x c _ s h rfl hx hlen hwanted hc
    exact execReadData_of_wanted h hx hlen hwanted hc
  case atomicResult =>
    rintro i seq x _ s h rfl hx
    exact execAtomicResult_of_command h hx

end Sys2Proof.Machine
end

section
/-!
# The recorder, the collector and perturbation (R488–R495, R578, R584–R591, R595)

The recorder's rows write its MODE and its ring; what a start or an end makes of the state has a name
(`replayBegun`, `recOff`, `recordStaged`). The collector's rows are the physical function's.
-/
open Sys2Proof
namespace Sys2Proof.Machine

/-! ## The recorder's modes (R489, R490, R493) -/

theorem fld_setFld_recMode (s : State) {m : Nat} (h : m < 4) :
    fld (setFld s Fld.DET_REC_CTL_MODE m) Fld.DET_REC_CTL_MODE = m :=
  fld_setFld_same s _ m 0 0 (by decide) (by decide) h

section
variable {s : State}

theorem execDetRecordStart_of_off (h : fld s Fld.DET_REC_CTL_MODE = 0) :
    execDetRecordStart s = .next (startRecord { setFld s Fld.DET_REC_CTL_MODE 1 with
      det := { s.det with ring := [], head := 0, state := 1 } }) := by
  simp [execDetRecordStart, setRecMode, emptyRing, h]

theorem execDetRecordStart_of_on (h : fld s Fld.DET_REC_CTL_MODE ≠ 0) :
    execDetRecordStart s = .next s := by
  rw [execDetRecordStart, if_neg h]

theorem execDetReplayStart_of_fetching (hmode : fld s Fld.DET_REC_CTL_MODE ≠ 2)
    (hfetch : anyFetch s = true) :
    execDetReplayStart s = .next (setErr s Fld.DET_ERR_REPLAY_REFUSED) := by
  simp [execDetReplayStart, setRecMode, hmode.symm, hfetch]

/-- A replay of the ring has begun. -/
def replayBegun (s : State) : State :=
  { setFld s Fld.DET_REC_CTL_MODE 2 with det := { s.det with
    state := 2, matched := [], fed := [], latched := false, divergences := 0, leftoverDone := false
    feedAt := (s.det.ring.head?.map RecEntry.seq).getD s.det.head } }

theorem execDetReplayStart_of_quiet (hmode : fld s Fld.DET_REC_CTL_MODE ≠ 2)
    (hfetch : anyFetch s = false) :
    execDetReplayStart s = .next (replayDone (replayBegun s)) := by
  simp [execDetReplayStart, setRecMode, hmode.symm, hfetch, replayBegun]

/-- The recorder is off. -/
def recOff (s : State) : State :=
  { setFld s Fld.DET_REC_CTL_MODE 0 with det := { s.det with state := 0 } }

theorem execDetRecOff_of_on (h : fld s Fld.DET_REC_CTL_MODE ≠ 0) :
    execDetRecOff s = .next (recOff s) := by
  simp [execDetRecOff, setRecMode, h.symm, recOff]

end

/-! ## The ring's own rows (R491, R494, R495) -/

theorem execMark_eq (v : Nat) (s : State) : execMark v s =
    .next (if s.det.state = 1 then recAppend s { kind := 8, body := v % 2 ^ 64 * 2 ^ 0 } else s) := by
  simp [execMark, markRecord, recording, recAt]

section
variable {s : State} {i v : Nat}

theorem execDetRecAppend_of_refused (h : fld s Fld.DET_REC_CTL_MODE ≠ 0 ∨ 16 ≤ i) :
    execDetRecAppend i v s = .next s := by
  refine congrArg _ (if_pos ?_)
  simpa using h

theorem execDetRecAppend_of_part (hmode : fld s Fld.DET_REC_CTL_MODE = 0) (hi : i < 15) :
    execDetRecAppend i v s = .next { s with
      det := { s.det with staged := putBits s.det.staged (64 * i) 64 v } } := by
  have hin : ¬ 16 ≤ i := by omega
  have hpart : i ≠ 15 := by omega
  simp [execDetRecAppend, stageRecord, hmode, hin, hpart]

/-- The staged words `n` are a record at the end of the ring. -/
def recordStaged (s : State) (n : Nat) : State :=
  count (count { s with det := { s.det with
    staged := n
    ring := s.det.ring ++ [{ stagedRecord n with seq := s.det.head }]
    head := s.det.head + 1 } } bankDet 0) bankDet 1 0

/-- The last word of a staged record puts the record into a ring that has room. -/
theorem stageRecord_of_last (hi : i = 15) (hmode : fld s Fld.DET_REC_CTL_MODE = 0)
    (hroom : s.det.ring.length < recSlots s) :
    stageRecord s i v = recordStaged s (putBits s.det.staged (64 * i) 64 v) := by
  have hfull (x : DetState) : ¬ s.det.ring.length ≥ recSlots { s with det := x } :=
    Nat.not_le.mpr hroom
  simp only [stageRecord, hi, hmode, hfull, recordStaged, ne_eq, not_true, Nat.reduceLeDiff,
    decide_false, Bool.or_self, Bool.false_and, Bool.false_eq_true, if_false, b2n]

end

/-! ## A recorded command is fed again (R492) -/

theorem execReplayFeed_of_none {s : State} (h : nextFed s = none) :
    execReplayFeed s = .next s := by
  simp only [execReplayFeed, h]

/-- Noting that a record is fed changes nothing that its acceptance looks at. -/
theorem admitPacket_markFed {s : State} {e : RecEntry} {f q slot cq : Nat} {p : Packet} {c : Cq}
    (hstall : jrnStalled s = false) (hflush : flushHolds s = false)
    (hrun : s.cp.cores.stopped = false) (hown : admitCollective s f p = .own)
    (hc : s.cq f cq = some c) (hroom : c.freeEntries ≠ 0) :
    admitPacket (markFed (drawFree s).2 e) f q slot cq p = some (openCommand
      ((markFed (drawFree s).2 e).setCq f cq { c with reserved := c.reserved + 1 })
      f q slot cq p false) :=
  admitPacket_of_room (s := markFed (drawFree s).2 e) hstall hflush hrun hown hc hroom

/-- The slot that a fed record's command gets, which no SQ's entry gives it. -/
def fedSlot (s : State) : Nat := (Config.freeWord (drawFree s).1 0).toNat % 2 ^ 16

theorem execReplayFeed_of_good {s : State} {e : RecEntry} {f q : Nat} {p : Packet} {x : Sq} {c : Cq}
    (he : nextFed s = some e) (hp : p = BitVec.ofNat 512 (e.body % 2 ^ 512))
    (hq : q = bitsOf (recGet e.body 108 2) 0 10) (hf : f = bitsOf (recGet e.body 108 2) 10 6)
    (hfeeding : feeding s = true) (hstall : jrnStalled s = false) (hflush : flushHolds s = false)
    (hrun : s.cp.cores.stopped = false) (hx : s.sq f q = some x) (hc : s.cq f x.cq = some c)
    (hgood : checkPacket s f q p = none) (hown : admitCollective s f p = .own)
    (hroom : c.freeEntries ≠ 0) :
    execReplayFeed s = .next (openCommand
      ((markFed (drawFree s).2 e).setCq f x.cq { c with reserved := c.reserved + 1 })
      f q (fedSlot s) x.cq p false) := by
  subst hp hq hf
  simp only [execReplayFeed, he, hfeeding, hstall, hrun, hx, hgood, Bool.not_true, Bool.or_self,
    Bool.false_eq_true, if_false, admitPacket_markFed hstall hflush hrun hown hc hroom,
    Option.getD_some, fedSlot]

/-! ## The collector (R584–R590) -/

section
variable {s : State}

theorem execPmcCollect_of_good_ring (hoff : flag s Fld.PMC_CTL_COLLECT = false)
    (hring : badRingPage s = none) : execPmcCollect 0 true s =
      .next (setFld (setFld s Fld.PMC_CTL_COLLECT 1) Fld.PMC_STATUS_STATE 1) := by
  simp [execPmcCollect, setCollect, hoff, hring]

theorem execPmcCollect_of_bad_ring {p : Nat} (hoff : flag s Fld.PMC_CTL_COLLECT = false)
    (hring : badRingPage s = some p) : execPmcCollect 0 true s = .next (ringBadErr s p) := by
  simp [execPmcCollect, setCollect, hoff, hring]

theorem execPmcCollect_of_on (hon : flag s Fld.PMC_CTL_COLLECT = true) :
    execPmcCollect 0 false s =
      .next (setFld (setFld s Fld.PMC_CTL_COLLECT 0) Fld.PMC_STATUS_STATE 0) := by
  simp [execPmcCollect, setCollect, hon]

/-- No snapshot is held, and none has been missed. -/
def snapshotsEmptied (s : State) : State :=
  { setRaw (setRaw s Reg.PMC_HEAD 0 0 0) Reg.PMC_OLDEST 0 0 0 with
    pmc := { s.pmc with missedCount := 0 } }

theorem raw_snapshotsEmptied_head (s : State) : raw (snapshotsEmptied s) Reg.PMC_HEAD = 0 :=
  (raw_congr (s := setRaw (setRaw s Reg.PMC_HEAD 0 0 0) Reg.PMC_OLDEST 0 0 0) rfl ..).trans
    ((raw_setRaw_ne _ _ _ _ _ _ _ _ (by decide)).trans
      (raw_setRaw_same _ _ _ _ _ (by decide)))

theorem raw_snapshotsEmptied_oldest (s : State) : raw (snapshotsEmptied s) Reg.PMC_OLDEST = 0 :=
  (raw_congr (s := setRaw (setRaw s Reg.PMC_HEAD 0 0 0) Reg.PMC_OLDEST 0 0 0) rfl ..).trans
    (raw_setRaw_same _ _ _ _ _ (by decide))

theorem execPmcEmpty_of_off (hoff : flag s Fld.PMC_CTL_COLLECT = false) :
    execPmcEmpty 0 s = .next (snapshotsEmptied s) := by
  simp [execPmcEmpty, emptySnapshots, hoff, snapshotsEmptied]

theorem execPmcSnap_of_good_ring (b : Bool) (hring : badRingPage s = none)
    (hstoked : stoked s = true) : execPmcSnap 0 b s = .next (takeSnapshot s b) := by
  simp [execPmcSnap, extraSnapshot, hring, hstoked]

theorem execPmcSnapshot_of_due (b : Bool) (hon : flag s Fld.PMC_CTL_COLLECT = true)
    (hstate : fld s Fld.PMC_STATUS_STATE = 1) (hstoked : stoked s = true) :
    execPmcSnapshot b s = .next (takeSnapshot s b) := by
  simp [execPmcSnapshot, hon, hstate, hstoked]

theorem execPmcSnapshot_of_off (b : Bool) (hoff : flag s Fld.PMC_CTL_COLLECT = false) :
    execPmcSnapshot b s = .next s := by
  simp [execPmcSnapshot, hoff]

/-! ## Perturbation's registers (R591, R595) -/

/-- The perturbation block is the physical function's, in test mode. -/
theorem prtWrite_of_refused {f off v mask : Nat}
    (h : flag s Fld.MGT_TEST_TEST_MODE = false ∨ f ≠ 0) (hreg : (regAt off).isSome = true)
    (herr : off ≠ Reg.PRT_ERR.base) :
    prtWrite s f off v mask = count (setErr s Fld.PRT_ERR_REFUSED) bankPrt 16 := by
  have hnone : (regAt off).isNone = false := by simpa using hreg
  have hrefused : (!flag s Fld.MGT_TEST_TEST_MODE || (f ≠ 0 : Bool)) = true := by simpa using h
  simp only [prtWrite, if_neg herr, hnone, hrefused, Bool.false_eq_true, if_false, if_true]

end

/-! ## The statement -/

/-- Settles O58: each clause is its row's lemma. -/
theorem recorderAndCollector : Obligations.RecorderAndCollector := by
  unfold Obligations.RecorderAndCollector
  refine ⟨fun _ h => execDetRecordStart_of_off h, fun _ h => execDetRecordStart_of_on h,
    fun _ hmode hfetch => execDetReplayStart_of_fetching hmode hfetch, ?replay, ?off, fun _ => rfl,
    execMark_eq, fun _ _ _ hmode hi => execDetRecAppend_of_part hmode hi, ?append,
    fun _ _ _ h => execDetRecAppend_of_refused h, fun _ h => execReplayFeed_of_none h, ?feed,
    fun _ _ _ => rfl, fun _ hoff hring => execPmcCollect_of_good_ring hoff hring,
    fun _ _ hoff hring => execPmcCollect_of_bad_ring hoff hring,
    fun _ hon => execPmcCollect_of_on hon, ?empty,
    fun b _ hring hstoked => execPmcSnap_of_good_ring b hring hstoked,
    fun _ _ _ _ _ _ hf => ⟨if_neg hf, if_neg hf, if_neg hf, if_neg hf⟩,
    fun b _ hon hstate hstoked => execPmcSnapshot_of_due b hon hstate hstoked,
    fun b _ hoff => execPmcSnapshot_of_off b hoff, fun _ _ _ _ => rfl,
    fun _ _ _ _ h hreg herr => congrArg _ (prtWrite_of_refused h hreg herr), fun _ _ => rfl⟩
  case replay =>
    exact fun s hmode hfetch => ⟨replayBegun s, rfl, rfl, rfl,
      (fld_congr (s := setFld s Fld.DET_REC_CTL_MODE 2) rfl ..).trans
        (fld_setFld_recMode s (by decide)),
      execDetReplayStart_of_quiet hmode hfetch⟩
  case off =>
    exact fun s hmode => ⟨recOff s, execDetRecOff_of_on hmode,
      (fld_congr (s := setFld s Fld.DET_REC_CTL_MODE 0) rfl ..).trans
        (fld_setFld_recMode s (by decide)), rfl⟩
  case append =>
    exact fun v s hmode hroom => ⟨recordStaged s (putBits s.det.staged 960 64 v),
      congrArg _ (stageRecord_of_last rfl hmode hroom),
      by simp [recordStaged], by simp [recordStaged]⟩
  case feed =>
    exact fun e f q p x c s he hp hq hf hfeeding hstall hflush hrun hx hc hgood hown hroom =>
      ⟨fedSlot s, execReplayFeed_of_good he hp hq hf hfeeding hstall hflush hrun hx hc hgood hown
        hroom⟩
  case empty =>
    exact fun s hoff => ⟨snapshotsEmptied s, execPmcEmpty_of_off hoff,
      raw_snapshotsEmptied_head s, raw_snapshotsEmptied_oldest s, rfl⟩

end Sys2Proof.Machine
end

section
/-!
# Tile failures, repair and reinstatement (R503–R513)

The repair map's own part of the state, `State.repairs`, is left alone by every report of an error
and by every journal or recorder entry, so a row's lemma reads it off the change the row makes. The
errors of this unit stand in RAS_ERR, the register that the error log's wrap is told in too.
-/
open Sys2Proof
namespace Sys2Proof.Machine

/-! ## What a report leaves of the repair map (R498, R500) -/

/-- The roles of the tiles, and the repair store's state. -/
def State.repairs (s : State) : Table TileRole × Bool × Nat :=
  (s.ras.roles, s.ras.storeBad, s.ras.storePending)

theorem repairs_of_ras {s t : State} (h : t.ras = s.ras) : t.repairs = s.repairs := by
  rw [State.repairs, h, State.repairs]

section
variable (s : State)

@[simp] theorem count_repairs (b c n : Nat) : (count s b c n).repairs = s.repairs :=
  repairs_of_ras (count_ras ..)

@[simp] theorem setRaw_repairs (r : RegSpec) (i f v : Nat) :
    (setRaw s r i f v).repairs = s.repairs :=
  repairs_of_ras (setRaw_ras ..)

@[simp] theorem setFld_repairs (f : FieldRef) (x i fn : Nat) :
    (setFld s f x i fn).repairs = s.repairs :=
  repairs_of_ras (setFld_ras ..)

@[simp] theorem irqUpdate_repairs : (irqUpdate s).repairs = s.repairs := by
  simp [State.repairs, irqUpdate_ras]

@[simp] theorem setErr_repairs (f : FieldRef) (i fn : Nat) :
    (setErr s f i fn).repairs = s.repairs := by simp [setErr]

@[simp] theorem logEntry_repairs (block bit : Nat) (cls : ErrClass) (e : ErrInfo) :
    (logEntry s block bit cls e).repairs = s.repairs := by
  unfold logEntry
  dsimp only
  split <;> simp [State.repairs]

@[simp] theorem alert_repairs (seq cls block bit : Nat) :
    (alert s seq cls block bit).repairs = s.repairs := by
  unfold alert
  dsimp only
  split
  · split
    · rw [irqUpdate_repairs, setFld_repairs, count_repairs]
      rfl
    · exact count_repairs ..
  · rfl

@[simp] theorem stopFatal_repairs : (stopFatal s).repairs = s.repairs := (rfl)

@[simp] theorem raiseErr_repairs (f : FieldRef) (idx : Nat) (cls : ErrClass) (e : ErrInfo) :
    (raiseErr s f idx cls e).repairs = s.repairs := by
  unfold raiseErr
  dsimp only
  rw [irqUpdate_repairs]
  split <;> split <;> (try split) <;> simp

@[simp] theorem journal_repairs (e : JEntry) : (journal s e).repairs = s.repairs := by
  have hlost (u : State) (b : Bool) (hu : u.ras = s.ras) :
      (if b then raiseErr u Fld.JRN_ERR_LOST 0 .recovered else u).repairs = s.repairs := by
    split
    · rw [raiseErr_repairs, repairs_of_ras hu]
    · exact repairs_of_ras hu
  exact hlost _ _ (count_ras ..)

@[simp] theorem recAppend_repairs (e : RecEntry) : (recAppend s e).repairs = s.repairs := by
  unfold recAppend
  dsimp only
  split
  · rw [setErr_repairs]
    rfl
  · rw [count_repairs, count_repairs]
    rfl

@[simp] theorem recEvent_repairs (code unit seq arg : Nat) (k : RecKey) :
    (recEvent s code unit seq arg k).repairs = s.repairs := by
  unfold recEvent
  split <;> simp

@[simp] theorem takeoverEvent_repairs (t sp l cause again lost : Nat) :
    (takeoverEvent s t sp l cause again lost).repairs = s.repairs := by
  simp [takeoverEvent, journalEvent]

end

theorem roles_of_repairs {t : State} {d : Table TileRole × Bool × Nat} (h : t.repairs = d) :
    t.ras.roles = d.1 :=
  congrArg Prod.fst h

theorem roleOf_congr {s t : State} (h : t.repairs = s.repairs) (x : Nat) :
    roleOf t x = roleOf s x := by
  rw [roleOf, roles_of_repairs h, roleOf, State.repairs]

theorem roleOf_setRole_same (s : State) (t : Nat) (r : TileRole) :
    roleOf (setRole s t r) t = r := by
  simp [roleOf, setRole, repairChange, lookupD]

/-! ## Errors in RAS_ERR (R498, R520) -/

/-- A log entry leaves every bit of RAS_ERR but that of the log's wrap. -/
theorem fld_logEntry_ras (s : State) (block bit : Nat) (cls : ErrClass) (e : ErrInfo) {f : FieldRef}
    (hreg : f.reg = Reg.RAS_ERR) (hapart : f.lo + f.len ≤ 5 ∨ 6 ≤ f.lo) :
    fld (logEntry s block bit cls e) f = fld s f := by
  unfold logEntry
  dsimp only
  split
  · exact (fld_setFld_apart _ Fld.RAS_ERR_LOG_WRAP f _ _ _ hreg (by decide) (by decide)
      hapart).trans (fld_congr (count_regs ..) ..)
  · exact fld_congr (count_regs ..) ..

theorem flag_raiseErr_ras (s : State) (cls : ErrClass) (e : ErrInfo) {f : FieldRef}
    (hreg : f.reg = Reg.RAS_ERR) (hend : f.lo + f.len ≤ 64) (hone : f.len = 1)
    (hapart : f.lo + f.len ≤ 5 ∨ 6 ≤ f.lo) : flag (raiseErr s f 0 cls e) f = true := by
  have hset : fld (setFld s f 1) f = 1 :=
    fld_setFld_same s f 1 0 0 (by rw [hreg]; decide) hend (by rw [hone]; decide)
  have halert (u : State) (seq c block bit : Nat) : fld (alert u seq c block bit) f = fld u f := by
    simp only [fld, raw_alert_of_ne seq c block bit
      (show regKey f.reg 0 0 ≠ regKey Reg.MGT_ERR 0 0 by rw [hreg]; decide)]
  have hstop (u : State) :
      fld (irqUpdate (if cls = .fatal then stopFatal u else u)) f = fld u f := by
    refine fld_congr ((irqUpdate_regs _).trans ?_) ..
    split <;> rfl
  have hfld : fld (raiseErr s f 0 cls e) f = 1 := by
    unfold raiseErr
    dsimp only
    rw [hstop]
    split
    · exact hset
    · split
      · rw [halert, fld_logEntry_ras _ _ _ _ _ hreg hapart, hset]
      · rw [fld_logEntry_ras _ _ _ _ _ hreg hapart, hset]
  rw [flag, hfld]
  rfl

/-! ## A tile fails (R504–R509) -/

section
variable {s : State} {t : Nat}

theorem execEngineHang_of_working (hfailing : failing s t = true)
    (hbusy : (s.tile t).idle = false) : execEngineHang t s = .next (failTile s t 3) := by
  simp [execEngineHang, hfailing, hbusy]

theorem execWakeFail_of_stopped (hfailing : failing s t = true)
    (hclk : (s.tile t).clkOn = false) : execWakeFail t s = .next (failTile s t 4) := by
  simp [execWakeFail, hfailing, hclk]

theorem execBondLinkFail_of_failing (h : failing s t = true) :
    execBondLinkFail t s = .next (failTile s t 5) :=
  if_pos h

theorem tile_failures_of_not_failing (h : failing s t = false) :
    execEngineHang t s = .next s ∧ execWakeFail t s = .next s ∧ execBondLinkFail t s = .next s := by
  simp [execEngineHang, execWakeFail, execBondLinkFail, h]

/-- A tile that holds no logical tile fails, and nothing is taken over from it. -/
def idleTileFailed (s : State) (t cause : Nat) : State :=
  let u := (setRole (count s bankRas 0) t .failed).setTile t { rowOn := (s.tile t).rowOn }
  takeoverEvent { u with pmc := { u.pmc with savedAt := insertK (64 + t) u.ticks u.pmc.savedAt } }
    t 0xFF 0xFF cause 0 0

theorem failTile_of_no_logical (cause : Nat) (hrole : roleOf s t ≠ .failed ∧ roleOf s t ≠ .dark)
    (hnone : logicalOf s t = none) : failTile s t cause = idleTileFailed s t cause := by
  obtain ⟨hfailed, hdark⟩ := hrole
  simp [failTile, hfailed, hdark, hnone, idleTileFailed]

theorem roleOf_idleTileFailed (s : State) (t cause : Nat) :
    roleOf (idleTileFailed s t cause) t = .failed :=
  (roleOf_congr (takeoverEvent_repairs ..) t).trans
    (roleOf_setRole_same (count s bankRas 0) t .failed)

/-! ## RETIRE and REINSTATE (R510–R512) -/

theorem execRetire_of_tile {l : Nat} (h : physOf s l = some t) :
    execRetire 0 l s = .next (failTile s t 7) := by
  simp [execRetire, retire, h]

theorem execReinstate_of_spare (hrole : roleOf s t = .failed)
    (hpassed : s.ras.testPassed.contains t = true)
    (hnone : lostLogicals (setRole s t .spare) = []) :
    execReinstate 0 t s = .next (setRole s t .spare) := by
  simp only [execReinstate, reinstate, hrole, hpassed, hnone, ne_eq, not_true, decide_true,
    Bool.and_self, if_false, if_true]

theorem execReinstate_of_lost {l : Nat} {ls : List Nat} (hrole : roleOf s t = .failed)
    (hpassed : s.ras.testPassed.contains t = true)
    (hlost : lostLogicals (setRole s t .spare) = l :: ls) :
    execReinstate 0 t s = .next (adopt (setRole s t .spare) l t) := by
  simp only [execReinstate, reinstate, hrole, hpassed, hlost, ne_eq, not_true, decide_true,
    Bool.and_self, if_false, if_true]

/-- The refusal of REINSTATE is reported. -/
def reinstateRefused (s : State) (t : Nat) : State :=
  setErr (setRaw s Reg.RAS_ERR_INFO 0 0 (rasInfo t 0xFF 0xFF 0 6)) Fld.RAS_ERR_REINSTATE_REFUSED

theorem execReinstate_of_refused (h : roleOf s t ≠ .failed ∨ s.ras.testPassed.contains t = false) :
    execReinstate 0 t s = .next (reinstateRefused s t) := by
  have hrefused : (roleOf s t = .failed && s.ras.testPassed.contains t) = false := by
    rcases h with h | h <;> simp only [h, decide_false, Bool.false_and, Bool.and_false]
  simp only [execReinstate, reinstate, hrefused, ne_eq, not_true, if_false, Bool.false_eq_true,
    reinstateRefused]

theorem reinstateRefused_roles (s : State) (t : Nat) :
    (reinstateRefused s t).ras.roles = s.ras.roles :=
  roles_of_repairs (d := s.repairs) (by simp [reinstateRefused])

/-! ## A spare's test, and the repair store (R504, R513) -/

section
variable (hen : flag s Fld.RAS_CTL_SPARE_TEST_EN = true) (hspare : roleOf s t = .spare)
include hen hspare

theorem execSpareSelfTest_of_passed :
    execSpareSelfTest t true s = .next (count s bankRas 7) := by
  simp [execSpareSelfTest, hen, hspare]

/-- A spare's failure of its test is reported in `u`, where the tile has failed. -/
def spareFailReported (s u : State) (t : Nat) : State :=
  raiseErr (setRaw u Reg.RAS_ERR_INFO 0 0 (rasInfo t 0xFF 0xFF 6 2)) Fld.RAS_ERR_SPARE_FAILED 0
    .recovered { unit := t, jrnSeq := nextSeq s, arg := rasInfo t 0xFF 0xFF 6 2 }

theorem execSpareSelfTest_of_failed (hnone : logicalOf s t = none) :
    execSpareSelfTest t false s = .next (spareFailReported (count s bankRas 7)
      (idleTileFailed (count (count s bankRas 7) bankRas 8) t 6) t) := by
  have hroles (u : State) (hu : u.ras = s.ras) :
      failTile u t 6 = idleTileFailed u t 6 := by
    refine failTile_of_no_logical 6 ?_ (by rwa [logicalOf, hu])
    rw [roleOf, hu, ← roleOf, hspare]
    decide
  simp [execSpareSelfTest, hen, hspare, hroles, spareFailReported]

end

theorem roleOf_spareFailReported (s u : State) (t x : Nat) :
    roleOf (spareFailReported s u t) x = roleOf u x :=
  roleOf_congr ((raiseErr_repairs ..).trans (setRaw_repairs ..)) x

theorem execRepairStoreWrite_of_taken (h : s.ras.storePending ≠ 0) :
    execRepairStoreWrite true s = .next { s with ras := { s.ras with
      storePending := 0, storeBad := false, mapWritten := mapLists s } } := by
  simp [execRepairStoreWrite, h]

/-- The repair store's failure is reported. -/
def storeFailed (s : State) : State :=
  raiseErr { s with ras := { s.ras with storeBad := true } } Fld.RAS_ERR_STORE_FAIL 0 .degraded

theorem execRepairStoreWrite_of_failed (h : s.ras.storePending ≠ 0) :
    execRepairStoreWrite false s = .next (storeFailed s) := by
  simp [execRepairStoreWrite, h, storeFailed]

theorem storeFailed_repairs (s : State) :
    (storeFailed s).repairs = (s.ras.roles, true, s.ras.storePending) := by
  rw [storeFailed, raiseErr_repairs]
  rfl

end

/-! ## The statement -/

/-- Settles O57: each clause is its row's lemma. -/
theorem reliabilityRows : Obligations.ReliabilityRows := by
  unfold Obligations.ReliabilityRows
  refine ⟨fun _ _ hfailing hbusy => execEngineHang_of_working hfailing hbusy,
    fun _ _ hfailing hclk => execWakeFail_of_stopped hfailing hclk,
    fun _ _ h => execBondLinkFail_of_failing h, fun _ _ h => tile_failures_of_not_failing h,
    fun _ _ _ h => execRetire_of_tile h,
    fun _ _ _ hf => ⟨congrArg _ (if_pos hf), congrArg _ (if_pos hf)⟩,
    fun _ _ hrole hpassed hnone => execReinstate_of_spare hrole hpassed hnone,
    fun _ _ _ _ hrole hpassed hlost => execReinstate_of_lost hrole hpassed hlost, ?refused,
    fun _ _ hen hspare => execSpareSelfTest_of_passed hen hspare, ?spareFailed,
    fun _ h => execRepairStoreWrite_of_taken h, ?storeFailed⟩
  case refused =>
    exact fun t s h => ⟨reinstateRefused s t, execReinstate_of_refused h,
      flag_setErr_same _ (by decide) (by decide) rfl, reinstateRefused_roles s t⟩
  case spareFailed =>
    exact fun t s hen hspare hnone => ⟨_, execSpareSelfTest_of_failed hen hspare hnone,
      flag_raiseErr_ras _ _ _ rfl (by decide) rfl (by decide),
      (roleOf_spareFailReported ..).trans (roleOf_idleTileFailed ..)⟩
  case storeFailed =>
    exact fun s h => ⟨storeFailed s, execRepairStoreWrite_of_failed h,
      congrArg (fun r => r.2.1) (storeFailed_repairs s),
      congrArg (fun r => r.2.2) (storeFailed_repairs s),
      flag_raiseErr_ras _ _ _ rfl (by decide) rfl (by decide)⟩

end Sys2Proof.Machine
end

section
/-!
# Registers apart, and what resets leave of them (R541–R546, R550)

Two fields that share no bit are `Apart`: a write of one leaves the other. `raw`'s lemmas say which
registers the shared operations write; a row's own state is then read off its last writes.
-/
open Sys2Proof
namespace Sys2Proof.Machine

/-! ## Fields that share no bit -/

/-- Two fields of registers that are no function's own share no bit: their registers differ, or
their places in it do. -/
abbrev FieldRef.Apart (f g : FieldRef) : Prop :=
  regKey g.reg 0 0 ≠ regKey f.reg 0 0 ∨
    g.reg = f.reg ∧ f.reg.resetOf 0 < 2 ^ 64 ∧ f.lo + f.len ≤ 64 ∧
      (g.lo + g.len ≤ f.lo ∨ f.lo + f.len ≤ g.lo)

section
variable (s : State)

theorem fld_setFld_of_apart {f g : FieldRef} (x : Nat) (h : f.Apart g) :
    fld (setFld s f x) g = fld s g := by
  rcases h with hkey | ⟨hreg, hreset, hend, hplace⟩
  · exact fld_setFld_reg s f g x 0 0 0 0 hkey
  · exact fld_setFld_apart s f g x 0 0 hreg hreset hend hplace

theorem flag_setFld_of_apart {f g : FieldRef} (x : Nat) (h : f.Apart g) :
    flag (setFld s f x) g = flag s g := by
  rw [flag, fld_setFld_of_apart s x h, flag]

theorem fld_setRaw_ne {r : RegSpec} {f : FieldRef} (v : Nat)
    (h : regKey f.reg 0 0 ≠ regKey r 0 0) : fld (setRaw s r 0 0 v) f = fld s f := by
  rw [fld, raw_setRaw_ne _ _ _ _ _ _ _ _ h, fld]

theorem fld_alert_of_ne {f : FieldRef} (seq cls block bit : Nat)
    (h : regKey f.reg 0 0 ≠ regKey Reg.MGT_ERR 0 0) :
    fld (alert s seq cls block bit) f = fld s f := by
  rw [fld, raw_alert_of_ne _ _ _ _ h, fld]

/-- An error's report leaves every field that shares no bit with it, the error log's and the chain's
own registers apart. -/
theorem fld_raiseErr_of_apart {f g : FieldRef} (cls : ErrClass) (e : ErrInfo)
    (hlog : regKey g.reg 0 0 ≠ regKey Reg.RAS_ERR 0 0)
    (halert : regKey g.reg 0 0 ≠ regKey Reg.MGT_ERR 0 0) (h : f.Apart g) :
    fld (raiseErr s f 0 cls e) g = fld s g := by
  rw [fld, raw_raiseErr_of_apart _ _ _ _ hlog halert]
  exact fld_setFld_of_apart s 1 h

end

/-! ## The state of power -/

theorem powerState_setFld (s : State) {n : Nat} (h : n < 8) :
    powerState (setFld s Fld.PWR_STATUS_STATE n) = n :=
  fld_setFld_same s _ n 0 0 (by decide) (by decide) h

theorem powerState_congr {s t : State} (h : t.regs = s.regs) : powerState t = powerState s :=
  fld_congr h ..

/-- Where no bit of the domains is set, no domain but the ember domain is powered. -/
theorem domainOn_of_none {s : State} (h : fld s Fld.PWR_DOMAINS_ON = 0) {d : Nat} (hd : 1 ≤ d) :
    domainOn s d = false := by
  rw [domainOn, if_neg (Nat.ne_of_gt hd), h]
  simp [bitOf]

/-! ## RST_CAUSE (R541) -/

section
variable (s : State) {kind source : Nat} {counter : FieldRef}

theorem fld_noteReset_kind (hkind : kind < 8) (hcounter : counter.Apart Fld.RST_CAUSE_KIND) :
    fld (noteReset s kind source counter) Fld.RST_CAUSE_KIND = kind := by
  rw [noteReset, bumpFld, fld_setFld_of_apart _ _ hcounter, fld_setFld_of_apart _ _ (by decide)]
  exact fld_setFld_same s _ kind 0 0 (by decide) (by decide) hkind

theorem fld_noteReset_source (hsource : source < 16)
    (hcounter : counter.Apart Fld.RST_CAUSE_SOURCE) :
    fld (noteReset s kind source counter) Fld.RST_CAUSE_SOURCE = source := by
  rw [noteReset, bumpFld, fld_setFld_of_apart _ _ hcounter]
  exact fld_setFld_same _ _ source 0 0 (by decide) (by decide) hsource

@[simp] theorem noteReset_cp : (noteReset s kind source counter).cp = s.cp := by
  simp [noteReset]

@[simp] theorem noteReset_xch : (noteReset s kind source counter).xch = s.xch := by
  simp [noteReset]

@[simp] theorem noteReset_wsp : (noteReset s kind source counter).wsp = s.wsp := by
  simp [noteReset]

end

/-! ## Warm resets (R541, R542, R545) -/

theorem warmEffects_cp (s : State) : (warmEffects s).cp.cmds = [] ∧ (warmEffects s).cp.sqs = [] ∧
    (warmEffects s).cp.cqs = [] ∧ (warmEffects s).cp.cores.stopped = false := by
  simp only [warmEffects, setFld_cp, and_self]

theorem warmEffects_xch (s : State) : (warmEffects s).xch = {} := by
  simp only [warmEffects, setFld_xch]

/-- The state that a warm reset's effects are applied to: Stoked, with no other state aimed at. -/
def warmBase (s : State) : State :=
  setFld { s with pwr := { s.pwr with target := 0 } } Fld.PWR_STATUS_STATE 1

/-- The registers' last writes of a warm reset of source `source`, and its mark. -/
def warmMarked (s : State) (source : Nat) : State :=
  let v := setFld (noteReset s 3 source Fld.RST_COUNT_WARM) Fld.RST_STATUS_READY 0
  { v with pwr := { v.pwr with reset := some .warm } }

theorem warmReset_of_stoked {s : State} (source : Nat) (hreset : s.pwr.reset = none)
    (hstate : powerState s = 1) :
    warmReset s source = warmMarked (warmEffects (warmBase s)) source := by
  simp only [warmReset, hreset, hstate, Option.isSome_none, Nat.reduceEqDiff, decide_false,
    Bool.or_self, Bool.false_and, Bool.false_eq_true, if_false, warmMarked, warmBase]

section
variable (s : State) (source : Nat)

@[simp] theorem warmBase_fixed : (warmBase s).fixed = s.fixed := by
  simp [warmBase]

@[simp] theorem warmMarked_cp : (warmMarked s source).cp = s.cp := by
  simp only [warmMarked, setFld_cp, noteReset_cp]

@[simp] theorem warmMarked_xch : (warmMarked s source).xch = s.xch := by
  simp only [warmMarked, setFld_xch, noteReset_xch]

theorem warmMarked_fixed : (warmMarked s source).fixed = s.fixed := by
  simp [warmMarked]

theorem warmMarked_regs : (warmMarked s source).regs =
    (setFld (noteReset s 3 source Fld.RST_COUNT_WARM) Fld.RST_STATUS_READY 0).regs := by
  simp only [warmMarked]

theorem warmMarked_reset : (warmMarked s source).pwr.reset = some .warm := by
  simp only [warmMarked]

end

/-- A warm reset's marks are in the state `t`, which a reset of `s` of source `source` leaves. -/
structure WarmMarks (s t : State) (source : Nat) : Prop where
  reset : t.pwr.reset = some .warm
  ready : fld t Fld.RST_STATUS_READY = 0
  cmds : t.cp.cmds = []
  sqs : t.cp.sqs = []
  cqs : t.cp.cqs = []
  xch : t.xch = {}
  kind : fld t Fld.RST_CAUSE_KIND = 3
  source : fld t Fld.RST_CAUSE_SOURCE = source
  fuses : t.fuses = s.fuses

theorem WarmMarks.warmReset {s t : State} {source : Nat} (h : WarmMarks s t source) :
    WarmReset s (.next t) source :=
  ⟨t, rfl, h.reset, by rw [flag, h.ready]; rfl, h.cmds, h.sqs, h.cqs, h.xch, h.kind, h.source,
    h.fuses⟩

/-- What writes neither RST_STATUS nor RST_CAUSE, nor the parts that a reset marks, keeps its
marks. -/
theorem WarmMarks.of_frame {s t u : State} {source : Nat} (h : WarmMarks s t source)
    (hpwr : u.pwr = t.pwr) (hcp : u.cp = t.cp) (hxch : u.xch = t.xch) (hfuses : u.fuses = t.fuses)
    (hstatus : raw u Reg.RST_STATUS = raw t Reg.RST_STATUS)
    (hcause : raw u Reg.RST_CAUSE = raw t Reg.RST_CAUSE) : WarmMarks s u source where
  reset := hpwr ▸ h.reset
  ready := (congrArg (bitsOf · 0 1) hstatus).trans h.ready
  cmds := hcp ▸ h.cmds
  sqs := hcp ▸ h.sqs
  cqs := hcp ▸ h.cqs
  xch := hxch ▸ h.xch
  kind := (congrArg (bitsOf · 0 3) hcause).trans h.kind
  source := (congrArg (bitsOf · 4 4) hcause).trans h.source
  fuses := hfuses ▸ h.fuses

theorem fuses_of_fixed {s t : State} (h : t.fixed = s.fixed) : t.fuses = s.fuses :=
  congrArg Prod.fst h

/-- A state without commands, queues and groups carries a warm reset's marks once they are made. -/
theorem warmMarks_warmMarked {s t : State} {source : Nat} (h : source < 16)
    (hcmds : t.cp.cmds = []) (hsqs : t.cp.sqs = []) (hcqs : t.cp.cqs = []) (hxch : t.xch = {})
    (hfixed : t.fixed = s.fixed) : WarmMarks s (warmMarked t source) source where
  reset := warmMarked_reset t source
  ready := by
    rw [fld_congr (warmMarked_regs t source)]
    exact fld_setFld_same _ _ 0 0 0 (by decide) (by decide) (by decide)
  cmds := by rw [warmMarked_cp, hcmds]
  sqs := by rw [warmMarked_cp, hsqs]
  cqs := by rw [warmMarked_cp, hcqs]
  xch := (warmMarked_xch ..).trans hxch
  kind := by
    rw [fld_congr (warmMarked_regs t source), fld_setFld_of_apart _ _ (by decide)]
    exact fld_noteReset_kind _ (by decide) (by decide)
  source := by
    rw [fld_congr (warmMarked_regs t source), fld_setFld_of_apart _ _ (by decide)]
    exact fld_noteReset_source _ h (by decide)
  fuses := fuses_of_fixed ((warmMarked_fixed ..).trans hfixed)

theorem warmReset_marks {s : State} {source : Nat} (hreset : s.pwr.reset = none)
    (hstate : powerState s = 1) (h : source < 16) : WarmMarks s (warmReset s source) source := by
  rw [warmReset_of_stoked source hreset hstate]
  obtain ⟨hcmds, hsqs, hcqs, -⟩ := warmEffects_cp (warmBase s)
  exact warmMarks_warmMarked h hcmds hsqs hcqs (warmEffects_xch _) (by simp)

theorem conventionalReset_marks {s : State} (hreset : s.pwr.reset = none)
    (hstate : powerState s = 1) : WarmMarks s (conventionalReset s) 3 := by
  refine (warmReset_marks hreset hstate (by decide)).of_frame (u := conventionalReset s)
    ?_ ?_ ?_ ?_ ?_ ?_
  · simp [conventionalReset, linkDown]
  · simp [conventionalReset, linkDown]
  · simp [conventionalReset, linkDown]
  · simp [conventionalReset, linkDown]
  · simp (disch := decide) only [conventionalReset, linkDown, setFld, raw_setRaw_ne]
  · simp (disch := decide) only [conventionalReset, linkDown, setFld, raw_setRaw_ne]

end Sys2Proof.Machine
end

section
/-!
# Module resets, power and bring-up (R530, R536, R541, R544, R545, R550)

What `wipeMain` leaves: NAND, the ember domain's tick count and the power inputs; no DRAM, no
command and no domain but the ember domain.
-/
open Sys2Proof
namespace Sys2Proof.Machine

/-! ## The end of test mode (R559) -/

section
variable (s : State)

@[simp] theorem showMhz_wsp : (showMhz s).wsp = s.wsp := by simp [showMhz]

@[simp] theorem showMhz_pwr : (showMhz s).pwr = s.pwr := by simp [showMhz]

@[simp] theorem dropHolds_wsp : (dropHolds s).wsp = s.wsp := by
  unfold dropHolds
  dsimp only
  split <;> simp

@[simp] theorem dropHolds_pwr : (dropHolds s).pwr = s.pwr := by
  unfold dropHolds
  dsimp only
  split <;> simp

@[simp] theorem endTestMode_wsp : (endTestMode s).wsp = s.wsp := by simp [endTestMode]

@[simp] theorem endTestMode_pwr : (endTestMode s).pwr = s.pwr := by simp [endTestMode]

/-! ## The loss of the main domains (R545) -/

theorem wipeMain_dram : (wipeMain s).wsp.dram = [] := by
  simp only [wipeMain, setFld_wsp, setRaw_wsp]

@[simp] theorem wipeMain_nand : (wipeMain s).wsp.nand = s.wsp.nand := by
  simp only [wipeMain, setFld_wsp, setRaw_wsp, endTestMode_wsp]

theorem wipeMain_cmds : (wipeMain s).cp.cmds = [] := by
  simp only [wipeMain, setFld_cp, setRaw_cp]

@[simp] theorem wipeMain_mainOn : (wipeMain s).pwr.mainOn = s.pwr.mainOn := by
  simp only [wipeMain, setFld_pwr, setRaw_pwr, endTestMode_pwr]

@[simp] theorem wipeMain_standbyOn : (wipeMain s).pwr.standbyOn = s.pwr.standbyOn := by
  simp only [wipeMain, setFld_pwr, setRaw_pwr, endTestMode_pwr]

/-- What the loss of the main domains writes last: their power, their states, and READY. -/
theorem wipeMain_regs : ∃ w : State, (wipeMain s).regs =
    (setRaw (setFld (setFld (setFld (setFld (setFld (setFld w Fld.PWR_DOMAINS_ON 0)
      Fld.PWR_STATUS_ROWS_ON 0) Fld.PWR_STATUS_RE_PAIRS_ON 0) Fld.PWR_STATUS_SMOULDER_PENDING 0)
      Fld.PWR_STATUS_DUTY 0) Fld.CLK_STATUS_LOCKED 0) Reg.RST_STATUS 0 0 0).regs := by
  simp only [wipeMain]
  exact ⟨_, rfl⟩

theorem fld_wipeMain_domains : fld (wipeMain s) Fld.PWR_DOMAINS_ON = 0 := by
  obtain ⟨w, hw⟩ := wipeMain_regs s
  rw [fld_congr hw, fld_setRaw_ne _ _ (by decide)]
  iterate 5 rw [fld_setFld_of_apart _ _ (by decide)]
  exact fld_setFld_same w _ 0 0 0 (by decide) (by decide) (by decide)

end

/-! ## The start and the end of bring-up (R541, R544) -/

section
variable (s : State) (kind : ResetKind)

@[simp] theorem startBringUp_cp : (startBringUp s kind).cp = s.cp := by simp [startBringUp]

@[simp] theorem startBringUp_wsp : (startBringUp s kind).wsp = s.wsp := by simp [startBringUp]

theorem startBringUp_reset : (startBringUp s kind).pwr.reset = some kind := by
  simp [startBringUp]

theorem powerState_startBringUp : powerState (startBringUp s kind) = 5 :=
  powerState_setFld _ (by decide)

theorem fld_startBringUp {f : FieldRef} (h : Fld.PWR_STATUS_STATE.Apart f) :
    fld (startBringUp s kind) f = fld s f := by
  rw [startBringUp, fld_setFld_of_apart _ _ h, fld_congr]
  rfl

@[simp] theorem readMap_pwr : (readMap s).pwr = s.pwr := by
  unfold readMap
  split <;> rfl

end

theorem moduleReset_of_stoked {s : State} (source : Nat) (hreset : s.pwr.reset = none)
    (hstate : powerState s = 1) : moduleReset s source =
      startBringUp (noteReset (wipeMain s) 2 source Fld.RST_COUNT_MODULE) .module := by
  simp [moduleReset, hreset, hstate]

theorem fld_moduleReset_source {s : State} {source : Nat} (h : source < 16)
    (hreset : s.pwr.reset = none) (hstate : powerState s = 1) :
    fld (moduleReset s source) Fld.RST_CAUSE_SOURCE = source := by
  rw [moduleReset_of_stoked source hreset hstate, fld_startBringUp _ _ (by decide)]
  exact fld_noteReset_source _ h (by decide)

/-! ## The settlement of O54 -/

theorem exec_rstCtlWarm (s : State) : exec (.rstCtlWarm 0 0xB7) s = .next (warmReset s 1) := (rfl)

theorem exec_rstCtlModule (s : State) :
    exec (.rstCtlModule 0 0xB7) s = .next (moduleReset s 1) := (rfl)

theorem rstCtl_refused {f k : Nat} (s : State) (h : f ≠ 0 ∨ k ≠ 0xB7) :
    exec (.rstCtlWarm f k) s = .next s ∧ exec (.rstCtlModule f k) s = .next s := by
  have hkey : ¬ (f = 0 ∧ k = resetKey) := by
    rw [resetKey]
    omega
  have hcond : (decide (f = 0) && decide (k = resetKey)) = false := by simpa using hkey
  constructor
  · change execRstCtlWarm f k s = _
    rw [execRstCtlWarm, hcond]
    rfl
  · change execRstCtlModule f k s = _
    rw [execRstCtlModule, hcond]
    rfl

theorem autoWarm_started {s : State} (hstate : powerState s = 1)
    (hauto : flag s Fld.RST_CFG_AUTO_WARM = true) (hfatal : s.ras.fatal = true) :
    exec .autoWarmTimeout s = .next (warmReset s 5) := by
  change execAutoWarmTimeout s = _
  simp [execAutoWarmTimeout, hstate, hauto, hfatal]

theorem autoWarm_refused {s : State}
    (h : flag s Fld.RST_CFG_AUTO_WARM = false ∨ s.ras.fatal = false) :
    exec .autoWarmTimeout s = .next s := by
  change execAutoWarmTimeout s = _
  rcases h with h | h <;> simp [execAutoWarmTimeout, h]

/-- PERST# is asserted. -/
def perstAsserted (s : State) : State := { s with pwr := { s.pwr with perst := true } }

theorem powerState_perstAsserted (s : State) : powerState (perstAsserted s) = powerState s :=
  powerState_congr rfl

theorem exec_perstAssert (s : State) : exec .perstAssert s =
    if powerState (perstAsserted s) = 3 then .next (perstAsserted s)
    else .next (conventionalReset (perstAsserted s)) := (rfl)

theorem perst_banked {s : State} (h : powerState s = 3) :
    exec .perstAssert s = .next (perstAsserted s) := by
  rw [exec_perstAssert, if_pos ((powerState_perstAsserted s).trans h)]

theorem perst_reset {s : State} (hreset : s.pwr.reset = none) (hstate : powerState s = 1) :
    WarmReset s (exec .perstAssert s) 3 := by
  have hstate' := (powerState_perstAsserted s).trans hstate
  have hbanked : powerState (perstAsserted s) ≠ 3 := by omega
  have hmarks := conventionalReset_marks (s := perstAsserted s) hreset hstate'
  rw [exec_perstAssert, if_neg hbanked]
  exact WarmMarks.warmReset { hmarks with fuses := hmarks.fuses }

theorem pcieDown_marks {s : State} (hreset : s.pwr.reset = none) (hstate : powerState s = 1)
    (hl23 : s.hif.l23 = false) : WarmMarks s (pcieDown s) 3 := by
  have heq : pcieDown s = setErr (setRaw (conventionalReset s) Reg.HIF_ERR_INFO 0 0 0)
      Fld.HIF_ERR_LINK_DOWN := by
    simp [pcieDown, hl23, hstate]
  rw [heq]
  refine (conventionalReset_marks hreset hstate).of_frame ?_ ?_ ?_ ?_ ?_ ?_
  · simp
  · simp
  · simp
  · simp
  · rw [raw_congr (setErr_regs ..), setFld, raw_setRaw_ne _ _ _ _ _ _ _ _ (by decide),
      raw_setRaw_ne _ _ _ _ _ _ _ _ (by decide)]
  · rw [raw_congr (setErr_regs ..), setFld, raw_setRaw_ne _ _ _ _ _ _ _ _ (by decide),
      raw_setRaw_ne _ _ _ _ _ _ _ _ (by decide)]

theorem rstCtlModule_started {s : State} (hreset : s.pwr.reset = none) (hstate : powerState s = 1) :
    ∃ t, exec (.rstCtlModule 0 0xB7) s = .next t ∧ powerState t = 5 ∧
      t.pwr.reset = some .module ∧ t.cp.cmds = [] ∧ t.wsp.dram = [] ∧
      t.wsp.nand = s.wsp.nand ∧ fld t Fld.RST_CAUSE_KIND = 2 ∧ fld t Fld.RST_CAUSE_SOURCE = 1 := by
  refine ⟨_, exec_rstCtlModule s, ?_⟩
  rw [moduleReset_of_stoked 1 hreset hstate, startBringUp_cp, startBringUp_wsp, noteReset_cp,
    noteReset_wsp, fld_startBringUp _ _ (by decide), fld_startBringUp _ _ (by decide)]
  exact ⟨powerState_startBringUp .., startBringUp_reset .., wipeMain_cmds s, wipeMain_dram s,
    wipeMain_nand s, fld_noteReset_kind _ (by decide) (by decide),
    fld_noteReset_source _ (by decide) (by decide)⟩

theorem dbgRst_started {s : State} (htest : flag s Fld.MGT_TEST_TEST_MODE = true)
    (hreset : s.pwr.reset = none) (hstate : powerState s = 1) :
    ∃ t, exec .dbgRst s = .next t ∧ powerState t = 5 ∧ t.pwr.reset = some .module ∧
      fld t Fld.RST_CAUSE_SOURCE = 6 := by
  have hexec : exec .dbgRst s = .next (moduleReset s 6) := by
    change execDbgRst s = _
    rw [execDbgRst, if_pos htest]
  refine ⟨_, hexec, ?_, ?_, fld_moduleReset_source (by decide) hreset hstate⟩
  · rw [moduleReset_of_stoked 6 hreset hstate]
    exact powerState_startBringUp ..
  · rw [moduleReset_of_stoked 6 hreset hstate]
    exact startBringUp_reset ..

theorem dbgRst_refused {s : State} (htest : flag s Fld.MGT_TEST_TEST_MODE = false) :
    exec .dbgRst s = .next s := by
  change execDbgRst s = _
  simp [execDbgRst, htest]

/-- Main power is lost, and no reset is open. -/
def mainLost (s : State) : State := { s with pwr := { s.pwr with reset := none, mainOn := false } }

theorem exec_mainPowerLoss {s : State} (h : s.pwr.mainOn = true) : exec .mainPowerLoss s =
    .next (setFld (wipeMain (mainLost s)) Fld.PWR_STATUS_STATE 0) := by
  change execMainPowerLoss s = _
  simp only [execMainPowerLoss, h, mainLost, Bool.not_true, Bool.false_eq_true, if_false]

theorem ticks_of_fixed {s t : State} (h : t.fixed = s.fixed) : t.ticks = s.ticks :=
  congrArg (fun x : Fixed => x.2.2) h

theorem fld_mainLost_domains (s : State) :
    fld (setFld (wipeMain (mainLost s)) Fld.PWR_STATUS_STATE 0) Fld.PWR_DOMAINS_ON = 0 := by
  rw [fld_setFld_of_apart _ _ (by decide), fld_wipeMain_domains]

theorem mainPowerLoss_row {s : State} (h : s.pwr.mainOn = true) :
    ∃ t, exec .mainPowerLoss s = .next t ∧ powerState t = 0 ∧ t.pwr.mainOn = false ∧
      t.wsp.dram = [] ∧ t.wsp.nand = s.wsp.nand ∧ t.ticks = s.ticks ∧
      (∀ d, 1 ≤ d → domainOn t d = false) ∧ domainOn t 0 = s.pwr.standbyOn := by
  refine ⟨_, exec_mainPowerLoss h, powerState_setFld _ (by decide), ?_, ?_, ?_, ?_, ?_, ?_⟩
  · rw [setFld_pwr, wipeMain_mainOn, mainLost]
  · rw [setFld_wsp, wipeMain_dram]
  · rw [setFld_wsp, wipeMain_nand, mainLost]
  · exact ticks_of_fixed (s := s) (by simp [mainLost])
  · exact fun d hd => domainOn_of_none (fld_mainLost_domains s) hd
  · rw [domainOn, if_pos rfl, setFld_pwr, wipeMain_standbyOn, mainLost]

/-- Main power comes back. -/
def mainBack (s : State) : State := { s with pwr := { s.pwr with mainOn := true } }

theorem exec_mainPowerUp {s : State} (hmain : s.pwr.mainOn = false)
    (hstandby : s.pwr.standbyOn = true) : exec .mainPowerUp s =
      .next (startBringUp (noteReset (mainBack s) 1 0 Fld.RST_COUNT_MAIN) .main) := by
  change execMainPowerUp s = _
  simp only [execMainPowerUp, hmain, hstandby, mainBack, Bool.not_true, Bool.or_self,
    Bool.false_eq_true, if_false]

theorem mainPowerUp_row {s : State} (hmain : s.pwr.mainOn = false)
    (hstandby : s.pwr.standbyOn = true) :
    ∃ t, exec .mainPowerUp s = .next t ∧ powerState t = 5 ∧ t.pwr.reset = some .main ∧
      fld t Fld.RST_CAUSE_KIND = 1 := by
  refine ⟨_, exec_mainPowerUp hmain hstandby, powerState_startBringUp .., startBringUp_reset .., ?_⟩
  rw [fld_startBringUp _ _ (by decide)]
  exact fld_noteReset_kind _ (by decide) (by decide)

/-- The ember domain loses its power too. -/
def emberLost (s : State) : State :=
  { s with regs := [], ticks := 0, mgt := {}, ras := { s.ras with irqSeen := 0, spdm := [] }
           pwr := { mainOn := false, standbyOn := false, reset := none } }

section
variable (s : State)

theorem emberLost_ticks : (emberLost s).ticks = 0 := (rfl)

theorem emberLost_regs : (emberLost s).regs = [] := (rfl)

theorem emberLost_standbyOn : (emberLost s).pwr.standbyOn = false := (rfl)

theorem emberLost_wsp : (emberLost s).wsp = s.wsp := (rfl)

end

theorem exec_standbyLoss {s : State} (h : s.pwr.standbyOn = true) : exec .standbyLoss s =
    .next (setFld (emberLost (wipeMain s)) Fld.PWR_STATUS_STATE 0) := by
  change execStandbyLoss s = _
  unfold execStandbyLoss
  split
  · next hoff => simp [h] at hoff
  · generalize wipeMain s = w
    rfl

theorem standbyLoss_row {s : State} (h : s.pwr.standbyOn = true) :
    ∃ t, exec .standbyLoss s = .next t ∧ t.ticks = 0 ∧ fld t Fld.MGT_CHAIN_ADDR = 0 ∧
      t.pwr.standbyOn = false ∧ t.wsp.nand = s.wsp.nand := by
  refine ⟨_, exec_standbyLoss h, ?_, ?_, ?_, ?_⟩
  · rw [setFld_ticks, emberLost_ticks]
  · rw [fld_setFld_of_apart _ _ (by decide), fld, raw, emberLost_regs]
    rfl
  · rw [setFld_pwr, emberLost_standbyOn]
  · rw [setFld_wsp, emberLost_wsp, wipeMain_nand]

theorem standbyPowerUp_row {s : State} (h : s.pwr.standbyOn = false) :
    ∃ t, exec .standbyPowerUp s = .next t ∧ t.ticks = 0 ∧ t.pwr.standbyOn = true ∧
      flag t Fld.MGT_CHAIN_OUT_ON = true := by
  have hexec : ∃ v : State, exec .standbyPowerUp s =
      .next (setFld (setFld (setFld v Fld.MGT_CHAIN_OUT_ON 1) Fld.RST_CAUSE_KIND 0)
        Fld.RST_CAUSE_SOURCE 0) ∧ v.ticks = 0 ∧ v.pwr.standbyOn = true := by
    change ∃ v, execStandbyPowerUp s = _ ∧ _
    simp only [execStandbyPowerUp, h, Bool.false_eq_true, if_false]
    exact ⟨_, rfl, rfl, rfl⟩
  obtain ⟨v, hv, hticks, hstandby⟩ := hexec
  refine ⟨_, hv, ?_, ?_, ?_⟩
  · simp only [setFld_ticks, hticks]
  · simp only [setFld_pwr, hstandby]
  · rw [flag_setFld_of_apart _ _ (by decide), flag_setFld_of_apart _ _ (by decide)]
    exact flag_setFld_same _ true (by decide) (by decide) (by decide)

theorem resetComplete_idle {s : State} (h : s.pwr.reset = none) :
    exec (.resetComplete none) s = .next s := by
  change execResetComplete none s = _
  rw [execResetComplete, h]

theorem resetComplete_ready {s : State} {kind : ResetKind} (test : Option SelfTest)
    (h : s.pwr.reset = some kind) :
    ∃ t, exec (.resetComplete test) s = .next t ∧ t.pwr.reset = none ∧ powerState t = 1 ∧
      flag t Fld.RST_STATUS_READY = true := by
  have hexec : ∃ t v : State, exec (.resetComplete test) s = .next t ∧ t.pwr.reset = none ∧
      t.regs = (setFld (setFld (setRaw v Reg.RST_STATUS 0 0 7) Fld.PWR_STATUS_STATE 1)
        Fld.CLK_STATUS_LOCKED 0x7F).regs := by
    change ∃ t v, execResetComplete test s = _ ∧ _
    rw [execResetComplete, h]
    exact ⟨_, _, rfl, rfl, rfl⟩
  obtain ⟨t, v, ht, hreset, hregs⟩ := hexec
  refine ⟨t, ht, hreset, ?_, ?_⟩
  · rw [powerState_congr hregs, powerState, fld_setFld_of_apart _ _ (by decide)]
    exact powerState_setFld _ (by decide)
  · rw [flag_congr hregs, flag_setFld_of_apart _ _ (by decide),
      flag_setFld_of_apart _ _ (by decide), flag, fld]
    exact congrArg (bitsOf · 0 1 != 0) (raw_setRaw_same v Reg.RST_STATUS 0 0 7 (by decide))

theorem bringupStep_stack {s : State} (unit : Nat)
    (h : s.pwr.reset = some .module ∨ s.pwr.reset = some .main) :
    exec (.bringupStepTimeout 4 unit) s = .next (failStack (readMap s) unit 2) := by
  change execBringupStepTimeout 4 unit s = _
  rcases h with h | h <;> simp [execBringupStepTimeout, h]

theorem bringupStep_idle {s : State} (unit : Nat) (hreset : s.pwr.reset = none)
    (hstate : powerState s ≠ 5) : exec (.bringupStepTimeout 4 unit) s = .next s := by
  change execBringupStepTimeout 4 unit s = _
  simp [execBringupStepTimeout, hreset, hstate]

/-- Settles O54: the clauses are the rows' lemmas above, in their order. -/
theorem resetRows : Obligations.ResetRows := by
  unfold Obligations.ResetRows
  refine ⟨fun s hreset hstate => ?_, fun f k s => rstCtl_refused s,
    fun s hreset hstate hauto hfatal => ?_, fun s => autoWarm_refused,
    fun s => perst_reset, fun s => perst_banked, fun s hreset hstate => ?_,
    fun s hreset hstate hl23 => ?_, fun s => rstCtlModule_started, fun s => dbgRst_started,
    fun s => dbgRst_refused, fun s => mainPowerLoss_row, fun s => mainPowerUp_row,
    fun s => standbyLoss_row, fun s => standbyPowerUp_row, fun s => resetComplete_idle,
    fun k x s => resetComplete_ready x, fun u s => bringupStep_stack u,
    fun u s => bringupStep_idle u⟩
  · rw [exec_rstCtlWarm]
    exact (warmReset_marks hreset hstate (by decide)).warmReset
  · rw [autoWarm_started hstate hauto hfatal]
    exact (warmReset_marks hreset hstate (by decide)).warmReset
  · exact (conventionalReset_marks hreset hstate).warmReset
  · exact (pcieDown_marks hreset hstate hl23).warmReset

end Sys2Proof.Machine
end

section
/-!
# Main power while Banked, and the loss of a PLL's lock (R530, R536)
-/
open Sys2Proof
namespace Sys2Proof.Machine

/-! ## Main power fails while the module is Banked (R530) -/

/-- Settles O53: the main domains' loss empties DRAM, and the next application of main power starts
a main power-up, which leaves DRAM empty. -/
theorem mainFailsWhileBanked : Obligations.MainFailsWhileBanked := by
  unfold Obligations.MainFailsWhileBanked
  intro s _ hmain hstandby
  obtain ⟨t, ht, -, htmain, hdram, -, -, -, htstandby⟩ := mainPowerLoss_row hmain
  have htstandby' : t.pwr.standbyOn = true := htstandby.trans hstandby
  obtain ⟨u, hu, -, hreset, hkind⟩ := mainPowerUp_row htmain htstandby'
  refine ⟨t, u, ht, hdram, hu, hkind, hreset, ?_⟩
  obtain rfl : _ = u := Host.Outcome.next.inj ((exec_mainPowerUp htmain htstandby').symm.trans hu)
  rw [startBringUp_wsp, noteReset_wsp, mainBack, hdram]

/-! ## A PLL loses its lock (R536) -/

/-- The clocks' own registers after the loss of PLL `pll`'s lock. -/
def pllMarked (s : State) (pll : Nat) : State :=
  setFld (setFld s Fld.CLK_STATUS_LOCKED (putBits (fld s Fld.CLK_STATUS_LOCKED) pll 1 0))
    Fld.CLK_ERR_PLL pll

/-- The loss of a core PLL's lock, reported. -/
def pllLost (s : State) (pll : Nat) : State :=
  raiseErr (pllMarked s pll) Fld.CLK_ERR_LOCK_LOST 0 .fatal { unit := pll }

theorem exec_pllLockLost_core {pll : Nat} (s : State) (h : pll < 6) :
    exec (.pllLockLost pll) s = .next (pllLost s pll) := by
  change execPllLockLost pll s = _
  rw [execPllLockLost, if_neg (by omega), if_neg (by omega), if_neg (by omega)]
  rfl

theorem pllLost_flag (s : State) (pll : Nat) :
    flag (pllLost s pll) Fld.CLK_ERR_LOCK_LOST = true :=
  flag_raiseErr_same _ _ (by decide) (by decide) (by decide) (by decide) (by decide)

theorem pllLost_stopped (s : State) (pll : Nat) : (pllLost s pll).cp.cores.stopped = true := by
  rw [pllLost, raiseErr_cp, if_pos rfl]

theorem pllLost_pwr (s : State) (pll : Nat) : (pllLost s pll).pwr = s.pwr := by
  simp [pllLost, pllMarked]

theorem powerState_pllLost (s : State) (pll : Nat) :
    powerState (pllLost s pll) = powerState s := by
  rw [powerState, pllLost, fld_raiseErr_of_apart _ _ _ (by decide) (by decide) (by decide),
    pllMarked, fld_setFld_of_apart _ _ (by decide), fld_setFld_of_apart _ _ (by decide), powerState]

theorem warmReset_cores {s : State} (source : Nat) (hreset : s.pwr.reset = none)
    (hstate : powerState s = 1) : (warmReset s source).cp.cores.stopped = false := by
  obtain ⟨-, -, -, hstopped⟩ := warmEffects_cp (warmBase s)
  rw [warmReset_of_stoked source hreset hstate, warmMarked_cp, hstopped]

theorem exec_pllLockLost_ports (s : State) : exec (.pllLockLost 6) s =
    .next ((upFrom 0 20).foldl (fun s p =>
      if fld s Fld.FAB_PORT_STATUS_STATE p = 0 ∨ fld s Fld.FAB_PORT_STATUS_STATE p = 6 then s
      else retrainPort s p) s) := by
  change execPllLockLost 6 s = _
  simp only [execPllLockLost, Bool.or_eq_true, decide_eq_true_eq, if_true]

/-- Settles O51: a core PLL's loss is the report `pllLost`, which leaves the state of power, so the
warm reset that follows starts the cores again. -/
theorem pllLockLost : Obligations.PllLockLost := by
  unfold Obligations.PllLockLost
  refine ⟨exec_pllLockLost_ports, fun s => rfl, fun s hreset hstate hl23 => ?_, fun p s hp => ?_,
    fun p s t hp ht hreset hstate => ?_⟩
  · exact (pcieDown_marks hreset hstate hl23).warmReset
  · exact ⟨pllMarked s p, pllLost s p, rfl, pllLost_flag s p, pllLost_stopped s p,
      exec_pllLockLost_core s hp⟩
  · obtain rfl := Host.Outcome.next.inj ((exec_pllLockLost_core s hp).symm.trans ht)
    refine ⟨_, exec_rstCtlWarm _, warmReset_cores 1 ?_ ?_⟩
    · rw [pllLost_pwr, hreset]
    · rw [powerState_pllLost, hstate]

end Sys2Proof.Machine
end

section
/-!
# Samples, limits and the duty interval (R537–R540)

A sample's start writes the sensors' own registers, and counts an event at each injector that
watches the point: an injector that does not fire holds nothing (R596). What is left is one step of
the core clock, and the recorder's event.
-/
open Sys2Proof
namespace Sys2Proof.Machine

/-! ## Events at a point, while no injector may fire (R591, R596) -/

/-- A register that is none of the injectors' own counts. -/
def RegSpec.Uninjected (r : RegSpec) : Prop :=
  ∀ i, regKey r 0 0 ≠ regKey Reg.PRT_INJ_EVENTS i 0 ∧ regKey r 0 0 ≠ regKey Reg.PRT_INJ_FIRED i 0

theorem uninjected_of_base_lt {r : RegSpec} (hr : r.perFn = false)
    (h : r.base < Reg.PRT_INJ_EVENTS.base) : RegSpec.Uninjected r := by
  have hfired : Reg.PRT_INJ_EVENTS.base < Reg.PRT_INJ_FIRED.base := by decide
  have hkey : ∀ q : RegSpec, q.perFn = false → r.base < q.base → ∀ i,
      regKey r 0 0 ≠ regKey q i 0 := by
    intro q hq hlt i
    simp only [regKey, hr, hq, Bool.false_eq_true, if_false]
    omega
  exact fun i => ⟨hkey _ rfl h i, hkey _ rfl (h.trans hfired) i⟩

section
variable (s : State)

@[simp] theorem injectorEvent_pwr (i : Nat) : (injectorEvent s i).2.pwr = s.pwr := by
  unfold injectorEvent
  dsimp only
  split <;> simp

@[simp] theorem injectAt_pwr (target unit sub : Nat) :
    (injectAt s target unit sub).pwr = s.pwr :=
  injectAt_keeps_of_event State.pwr injectorEvent_pwr s target unit sub

theorem raw_setFld_ne {r : RegSpec} (f : FieldRef) (x i : Nat)
    (h : regKey r 0 0 ≠ regKey f.reg i 0) : raw (setFld s f x i) r = raw s r :=
  raw_setRaw_ne _ _ _ _ _ _ _ _ h

theorem raw_injectorEvent {r : RegSpec} (h : r.Uninjected) (i : Nat) :
    raw (injectorEvent s i).2 r = raw s r := by
  obtain ⟨hevents, hfired⟩ := h i
  unfold injectorEvent
  dsimp only
  split
  · exact raw_setFld_ne _ _ _ i hevents
  · have hbumps : raw (bumpFld (bumpFld s Fld.PRT_INJ_EVENTS_EVENTS 1 i)
        Fld.PRT_INJ_FIRED_FIRED 1 i) r = raw s r := by
      rw [bumpFld, raw_setFld_ne _ _ _ i hfired, bumpFld, raw_setFld_ne _ _ _ i hevents]
    refine (raw_congr ?_ r 0 0).trans hbumps
    exact count_regs ..

theorem raw_injectAt {r : RegSpec} (h : r.Uninjected) (target unit sub : Nat) :
    raw (injectAt s target unit sub) r = raw s r :=
  injectAt_keeps_of_event (raw · r) (fun t i => raw_injectorEvent t h i) s target unit sub

end

theorem injectorEvent_prt_of_off {s : State} (h : flag s Fld.PRT_CTL_ENABLE = false) (i : Nat) :
    (injectorEvent s i).2.prt = s.prt := by
  simp [injectorEvent, firesOn, h]

/-- While PRT_CTL.ENABLE is 0 no event starts a hold. -/
theorem injectAt_prt_of_off {s : State} (h : flag s Fld.PRT_CTL_ENABLE = false)
    (target unit sub : Nat) : (injectAt s target unit sub).prt = s.prt := by
  unfold injectAt inject
  split
  · rfl
  · refine (List.foldlRecOn (motive := fun a : Bool × State =>
      flag a.2 Fld.PRT_CTL_ENABLE = false ∧ a.2.prt = s.prt) _ _ ⟨h, rfl⟩ ?_).2
    intro a ⟨hoff, hprt⟩ i _
    refine ⟨?_, (injectorEvent_prt_of_off hoff i).trans hprt⟩
    rw [flag, fld, raw_injectorEvent a.2 (uninjected_of_base_lt rfl (by decide))]
    exact hoff

theorem injectThrottle_of_off {s : State} (h : flag s Fld.PRT_CTL_ENABLE = false) :
    injectThrottle s = injectAt s 0x10 0 := by
  rw [injectThrottle]
  exact if_pos (congrArg _ (injectAt_prt_of_off h ..))

/-! ## The start of a sample (R537) -/

/-- The sensors' registers hold a sample's readings. -/
def sensed (s : State) (temps input peak : Nat) : State :=
  setFld (setFld (setRaw s Reg.PWR_TEMP 0 0 temps) Fld.PWR_POWER_INPUT_W input)
    Fld.PWR_POWER_PEAK_W peak

/-- Whether the last sample was cool enough for a module reset of a tripped module (R540). -/
def coolNoted (s : State) (x : PowerSample) : State :=
  { s with pwr := { s.pwr with cooled := coolBy s x 10 } }

theorem takeReadings_eq (s : State) (x : PowerSample) :
    ∃ temps input peak, takeReadings s x = coolNoted (sensed s temps input peak) x :=
  ⟨_, _, _, rfl⟩

section
variable (s : State) (x : PowerSample)

theorem coolNoted_pwr : (coolNoted s x).pwr = { s.pwr with cooled := coolBy s x 10 } := (rfl)

theorem coolNoted_wsp : (coolNoted s x).wsp = s.wsp := (rfl)

theorem coolNoted_regs : (coolNoted s x).regs = s.regs := (rfl)

theorem raw_sensed (temps input peak : Nat) {r : RegSpec}
    (htemp : regKey r 0 0 ≠ regKey Reg.PWR_TEMP 0 0)
    (hpower : regKey r 0 0 ≠ regKey Reg.PWR_POWER 0 0) :
    raw (sensed s temps input peak) r = raw s r := by
  rw [sensed, raw_setFld_ne _ _ _ 0 hpower, raw_setFld_ne _ _ _ 0 hpower,
    raw_setRaw_ne _ _ _ _ _ _ _ _ htemp]

theorem raw_takeReadings {r : RegSpec} (htemp : regKey r 0 0 ≠ regKey Reg.PWR_TEMP 0 0)
    (hpower : regKey r 0 0 ≠ regKey Reg.PWR_POWER 0 0) : raw (takeReadings s x) r = raw s r := by
  obtain ⟨temps, input, peak, h⟩ := takeReadings_eq s x
  rw [h, raw_congr (coolNoted_regs ..), raw_sensed _ _ _ _ htemp hpower]

theorem takeReadings_wsp : (takeReadings s x).wsp = s.wsp := by
  obtain ⟨temps, input, peak, h⟩ := takeReadings_eq s x
  rw [h, coolNoted_wsp]
  simp [sensed]

end

theorem coolBy_congr {s t : State} (h : raw t Reg.PWR_THERM = raw s Reg.PWR_THERM)
    (x : PowerSample) (k : Int) : coolBy t x k = coolBy s x k := by
  have hdie : fld t Fld.PWR_THERM_DIE_THROTTLE_C = fld s Fld.PWR_THERM_DIE_THROTTLE_C :=
    congrArg (bitsOf · 0 8) h
  have hstack : fld t Fld.PWR_THERM_STACK_THROTTLE_C = fld s Fld.PWR_THERM_STACK_THROTTLE_C :=
    congrArg (bitsOf · 8 8) h
  simp only [coolBy, hdie, hstack]

theorem takeReadings_pwr (s : State) (x : PowerSample) :
    (takeReadings s x).pwr = { s.pwr with cooled := coolBy s x 10 } := by
  obtain ⟨temps, input, peak, h⟩ := takeReadings_eq s x
  rw [h, coolNoted_pwr, coolBy_congr (raw_sensed s _ _ _ (by decide) (by decide))]
  simp [sensed]

/-- The state in which a sample's limits are compared. -/
def sampled (s : State) (x : PowerSample) : State := injectThrottle (takeReadings s x)

section
variable {s : State} (hoff : flag s Fld.PRT_CTL_ENABLE = false) (x : PowerSample)
include hoff

theorem sampled_of_off : sampled s x = injectAt (takeReadings s x) 0x10 0 := by
  refine injectThrottle_of_off ?_
  rw [flag, fld, raw_takeReadings s x (by decide) (by decide)]
  exact hoff

theorem sampled_pwr : (sampled s x).pwr = { s.pwr with cooled := coolBy s x 10 } := by
  rw [sampled_of_off hoff, injectAt_pwr, takeReadings_pwr]

theorem sampled_wsp : (sampled s x).wsp = s.wsp := by
  rw [sampled_of_off hoff, injectAt_wsp, takeReadings_wsp]

/-- A sample leaves the registers that are neither the sensors' nor the injectors' own. -/
theorem raw_sampled {r : RegSpec} (hfn : r.perFn = false) (h : r.base < Reg.PRT_INJ_EVENTS.base)
    (htemp : regKey r 0 0 ≠ regKey Reg.PWR_TEMP 0 0)
    (hpower : regKey r 0 0 ≠ regKey Reg.PWR_POWER 0 0) : raw (sampled s x) r = raw s r := by
  rw [sampled_of_off hoff, raw_injectAt _ (uninjected_of_base_lt hfn h),
    raw_takeReadings s x htemp hpower]

theorem fld_sampled {f : FieldRef} (hfn : f.reg.perFn = false)
    (h : f.reg.base < Reg.PRT_INJ_EVENTS.base)
    (htemp : regKey f.reg 0 0 ≠ regKey Reg.PWR_TEMP 0 0)
    (hpower : regKey f.reg 0 0 ≠ regKey Reg.PWR_POWER 0 0) : fld (sampled s x) f = fld s f := by
  rw [fld, raw_sampled hoff x hfn h htemp hpower, fld]

end

/-! ## One step of the core clock (R537, R539) -/

section
variable (s : State)

theorem recAppend_pwr (e : RecEntry) : (recAppend s e).pwr = s.pwr := by
  unfold recAppend
  dsimp only
  split <;> simp

theorem recAppend_wsp (e : RecEntry) : (recAppend s e).wsp = s.wsp := by
  unfold recAppend
  dsimp only
  split <;> simp

theorem raw_recAppend (e : RecEntry) {r : RegSpec} (h : regKey r 0 0 ≠ regKey Reg.DET_ERR 0 0) :
    raw (recAppend s e) r = raw s r := by
  unfold recAppend
  dsimp only
  split
  · rw [raw_congr (setErr_regs ..), raw_setFld_ne _ _ _ 0 h]
    rfl
  · rw [raw_congr (count_regs ..), raw_congr (count_regs ..)]
    rfl

@[simp] theorem recEvent_pwr (code unit seq arg : Nat) (k : RecKey) :
    (recEvent s code unit seq arg k).pwr = s.pwr := by
  unfold recEvent
  split
  · rw [count_pwr, recAppend_pwr]
  · rfl

@[simp] theorem recEvent_wsp (code unit seq arg : Nat) (k : RecKey) :
    (recEvent s code unit seq arg k).wsp = s.wsp := by
  unfold recEvent
  split
  · rw [count_wsp, recAppend_wsp]
  · rfl

theorem raw_recEvent (code unit seq arg : Nat) (k : RecKey) {r : RegSpec}
    (h : regKey r 0 0 ≠ regKey Reg.DET_ERR 0 0) :
    raw (recEvent s code unit seq arg k) r = raw s r := by
  unfold recEvent
  split
  · rw [raw_congr (count_regs ..), raw_recAppend _ _ h]
  · rfl

variable (before : Bool)

@[simp] theorem throttleEvent_pwr : (throttleEvent before s).pwr = s.pwr := by
  unfold throttleEvent
  split
  · simp
  · split <;> simp

@[simp] theorem throttleEvent_wsp : (throttleEvent before s).wsp = s.wsp := by
  unfold throttleEvent
  split
  · simp
  · split <;> simp

theorem flag_throttleEvent {f : FieldRef} (h : regKey f.reg 0 0 ≠ regKey Reg.DET_ERR 0 0) :
    flag (throttleEvent before s) f = flag s f := by
  unfold throttleEvent
  split
  · rw [flag, fld, raw_recEvent _ _ _ _ _ _ h, flag, fld]
  · split
    · rw [flag, fld, raw_recEvent _ _ _ _ _ _ h, flag, fld]
    · rfl

@[simp] theorem timingOpen_pwr : (timingOpen s).pwr = s.pwr := (rfl)

@[simp] theorem timingOpen_wsp : (timingOpen s).wsp = s.wsp := (rfl)

@[simp] theorem setMhz_pwr (mhz : Nat) : (setMhz s mhz).pwr = { s.pwr with mhz } := by
  rw [setMhz, showMhz_pwr]

@[simp] theorem setMhz_wsp (mhz : Nat) : (setMhz s mhz).wsp = s.wsp := by
  rw [setMhz, showMhz_wsp]

@[simp] theorem pwrInfo_pwr (cause sensor unit : Nat) (temp : Int) (reason : Nat) :
    (pwrInfo s cause sensor unit temp reason).pwr = s.pwr := by simp [pwrInfo]

@[simp] theorem pwrInfo_wsp (cause sensor unit : Nat) (temp : Int) (reason : Nat) :
    (pwrInfo s cause sensor unit temp reason).wsp = s.wsp := by simp [pwrInfo]

variable (hot : Option Reading) (above : Bool)

/-- A step down's causes, and the count of samples that called for one. -/
def stepMarked : State :=
  let u := setFld (setFld s Fld.PWR_STATUS_THROTTLE_THERM (b2n hot.isSome))
    Fld.PWR_STATUS_THROTTLE_POWER (b2n above)
  { u with pwr := { u.pwr with downs := min 10 (s.pwr.downs + 1) } }

/-- What reports a step down. -/
def stepReported : State :=
  let s := if above then setErr (pwrInfo s 2 5 0 0 0) Fld.PWR_ERR_POWER_THROTTLE else s
  match hot with
    | some r => setErr (pwrInfo s 1 r.sensor r.unit r.temp 0) Fld.PWR_ERR_THERM_THROTTLE
    | none => s

theorem stepDown_eq : stepDown s hot above =
    if 600 < s.pwr.mhz then
      stepReported (timingOpen (setMhz (stepMarked s hot above) (max 600 (s.pwr.mhz - 50))))
        hot above
    else if min 10 (s.pwr.downs + 1) = 10 then
      timingOpen (setFld (stepMarked s hot above) Fld.PWR_STATUS_DUTY 1)
    else stepMarked s hot above := by
  rfl

theorem stepMarked_wsp : (stepMarked s hot above).wsp = s.wsp := by simp [stepMarked]

theorem stepMarked_pwr : (stepMarked s hot above).pwr =
    { s.pwr with downs := min 10 (s.pwr.downs + 1) } := by simp [stepMarked]

theorem stepReported_wsp : (stepReported s hot above).wsp = s.wsp := by
  unfold stepReported
  cases hot <;> cases above <;> simp

theorem stepReported_pwr : (stepReported s hot above).pwr = s.pwr := by
  unfold stepReported
  cases hot <;> cases above <;> simp

theorem stepDown_wsp : (stepDown s hot above).wsp = s.wsp := by
  rw [stepDown_eq]
  split
  · rw [stepReported_wsp, timingOpen_wsp, setMhz_wsp, stepMarked_wsp]
  · split <;> simp [stepMarked_wsp]

theorem stepDown_cooled : (stepDown s hot above).pwr.cooled = s.pwr.cooled := by
  rw [stepDown_eq]
  split
  · rw [stepReported_pwr, timingOpen_pwr, setMhz_pwr, stepMarked_pwr]
  · split <;> simp [stepMarked_pwr]

theorem stepDown_mhz (h : 600 < s.pwr.mhz) :
    (stepDown s hot above).pwr.mhz = max 600 (s.pwr.mhz - 50) := by
  rw [stepDown_eq, if_pos h, stepReported_pwr, timingOpen_pwr, setMhz_pwr]

theorem stepUp_wsp : (stepUp s).wsp = s.wsp := by simp [stepUp]

theorem stepUp_mhz : (stepUp s).pwr.mhz = min (fld s Fld.CLK_CORE_CAP_MHZ) (s.pwr.mhz + 50) := by
  simp only [stepUp, setMhz_pwr, setFld_pwr]
  rw [fld_setFld_of_apart _ _ (by decide), fld_setFld_of_apart _ _ (by decide),
    fld_setFld_of_apart _ _ (by decide)]

theorem flag_setMhz {f : FieldRef} (mhz : Nat) (hstatus : Fld.PWR_STATUS_CORE_MHZ.Apart f)
    (hclock : Fld.CLK_CORE_MHZ.Apart f) : flag (setMhz s mhz) f = flag s f := by
  rw [setMhz, showMhz, flag_setFld_of_apart _ _ hclock, flag_setFld_of_apart _ _ hstatus]
  exact flag_congr rfl ..

theorem stepUp_duty : flag (stepUp s) Fld.PWR_STATUS_DUTY = false := by
  have hpwr : ∀ (u : State) (p : PwrState),
      flag { u with pwr := p } Fld.PWR_STATUS_DUTY = flag u Fld.PWR_STATUS_DUTY :=
    fun u p => flag_congr rfl ..
  rw [stepUp, hpwr, flag_setMhz _ _ (by decide) (by decide)]
  exact flag_setFld_same _ false (by decide) (by decide) (by decide)

end

/-! ## The rows (R537–R540) -/

section
variable {x : PowerSample} {s t : State} (ht : t = sampled s x)
  (hinlet : x.inlet < (fld t Fld.PWR_THERM_INLET_WARN_C : Int)) (hcritical : t.pwr.critical = false)
  (hstate : powerState t = 1)
include ht hinlet hcritical hstate

/-- With the inlet below its warning, a sample of a running module moves the clock by one step. -/
theorem exec_powerSample : exec (.powerSample x) s = .next (throttleEvent (throttled s)
    (if (hotReading t x).isSome || decide (fld t Fld.PWR_LIMIT_SUSTAINED_W < x.input) then
      stepDown t (hotReading t x) (decide (fld t Fld.PWR_LIMIT_SUSTAINED_W < x.input))
    else if coolBy t x 3 && decide (100 * x.input ≤ 97 * fld t Fld.PWR_LIMIT_SUSTAINED_W) then
      stepUp t
    else stepHold t x)) := by
  change execPowerSample x s = _
  have hwarm : ¬ (fld t Fld.PWR_THERM_INLET_WARN_C : Int) ≤ x.inlet := by omega
  rw [sampled] at ht
  unfold execPowerSample
  dsimp only
  rw [← ht, if_neg hwarm, hcritical, hstate]
  simp only [Nat.reduceEqDiff, decide_false, Bool.or_self, Bool.false_eq_true, if_false]
  split
  · rfl
  · split <;> rfl

theorem powerSample_hot
    (h : ((hotReading t x).isSome || decide (fld t Fld.PWR_LIMIT_SUSTAINED_W < x.input)) = true) :
    exec (.powerSample x) s = .next (throttleEvent (throttled s) (stepDown t (hotReading t x)
      (decide (fld t Fld.PWR_LIMIT_SUSTAINED_W < x.input)))) := by
  rw [exec_powerSample ht hinlet hcritical hstate, if_pos h]

theorem powerSample_cool (hhot : hotReading t x = none)
    (hinput : x.input ≤ fld t Fld.PWR_LIMIT_SUSTAINED_W) :
    exec (.powerSample x) s = .next (throttleEvent (throttled s)
      (if coolBy t x 3 = true ∧ 100 * x.input ≤ 97 * fld t Fld.PWR_LIMIT_SUSTAINED_W then stepUp t
      else stepHold t x)) := by
  rw [exec_powerSample ht hinlet hcritical hstate, hhot]
  simp [Nat.not_lt.mpr hinput]

end

/-- A critical limit's drop of the core clock. -/
def criticalDropped (s : State) (sensor : Nat) : State :=
  let u := setFld (timingOpen (setMhz s 600))
    (if sensor = 5 then Fld.PWR_STATUS_THROTTLE_POWER else Fld.PWR_STATUS_THROTTLE_THERM) 1
  { u with pwr := { u.pwr with critical := true } }

theorem criticalDropped_pwr (s : State) (sensor : Nat) :
    (criticalDropped s sensor).pwr = { s.pwr with mhz := 600, critical := true } := by
  simp [criticalDropped]

/-- What the drop reports. -/
def criticalReported (s : State) (r : Reading) : State :=
  count (setErr (pwrInfo s 3 r.sensor r.unit r.temp 0) Fld.PWR_ERR_CRITICAL) bankPwr 8

theorem criticalReported_pwr (s : State) (r : Reading) : (criticalReported s r).pwr = s.pwr := by
  simp [criticalReported]

theorem criticalReported_flag (s : State) (r : Reading) :
    flag (criticalReported s r) Fld.PWR_ERR_CRITICAL = true := by
  rw [criticalReported, flag_congr (count_regs ..)]
  exact flag_setErr_same _ (by decide) (by decide) (by decide)

theorem exec_criticalLimit (r : Reading) {s : State} (hstate : powerState s = 1) :
    exec (.criticalLimit r) s = .next (throttleEvent (throttled s)
      (criticalReported (criticalDropped s r.sensor) r)) := by
  change execCriticalLimit r s = _
  simp only [execCriticalLimit, hstate, Nat.reduceEqDiff, decide_false, Bool.or_self,
    Bool.false_eq_true, if_false, criticalReported, criticalDropped]

theorem criticalLimit_row (r : Reading) {s : State} (hstate : powerState s = 1) :
    ∃ t, exec (.criticalLimit r) s = .next t ∧ t.pwr.critical = true ∧ t.pwr.mhz = 600 ∧
      flag t Fld.PWR_ERR_CRITICAL = true := by
  refine ⟨_, exec_criticalLimit r hstate, ?_, ?_, ?_⟩
  · rw [throttleEvent_pwr, criticalReported_pwr, criticalDropped_pwr]
  · rw [throttleEvent_pwr, criticalReported_pwr, criticalDropped_pwr]
  · rw [flag_throttleEvent _ _ (by decide), criticalReported_flag]

/-- The reset that runs is dropped, and a module reset waits for the module to cool. -/
def tripped (s : State) : State := { s with pwr := { s.pwr with reset := none, cooled := false } }

/-- The trip's own state and error, once domains 1–34 are off. -/
def tripMarked (s : State) : State :=
  stopFatal (setFld (setFld s Fld.PWR_STATUS_STATE 6) Fld.PWR_ERR_TRIPPED 1)

/-- The trip, reported on the chain. -/
def tripReported (s : State) (r : Reading) (seq : Nat) : State :=
  alert (pwrInfo s 4 r.sensor r.unit r.temp 0) seq ErrClass.fatal.code
    (blockOf Reg.PWR_ERR.base) Fld.PWR_ERR_TRIPPED.lo

theorem exec_tripLimit (r : Reading) {s : State} (h0 : powerState s ≠ 0) (h6 : powerState s ≠ 6) :
    exec (.tripLimit r) s =
      .next (tripReported (tripMarked (wipeMain (tripped s))) r s.ras.logHead) := by
  change execTripLimit r s = _
  unfold execTripLimit
  dsimp only
  rw [if_neg (by simp [h0, h6])]
  rfl

section
variable (s : State) (r : Reading) (seq : Nat)

theorem tripReported_wsp : (tripReported s r seq).wsp = s.wsp := by simp [tripReported]

theorem tripMarked_wsp : (tripMarked s).wsp = s.wsp := by simp [tripMarked]

theorem fld_tripReported {f : FieldRef} (herr : regKey f.reg 0 0 ≠ regKey Reg.MGT_ERR 0 0)
    (hinfo : regKey f.reg 0 0 ≠ regKey Reg.PWR_ERR_INFO 0 0) :
    fld (tripReported s r seq) f = fld s f := by
  rw [tripReported, fld_alert_of_ne _ _ _ _ _ herr, pwrInfo, fld_setRaw_ne _ _ hinfo]

theorem powerState_tripMarked : powerState (tripMarked s) = 6 := by
  rw [tripMarked, powerState_congr (stopFatal_regs _), powerState,
    fld_setFld_of_apart _ _ (by decide)]
  exact powerState_setFld _ (by decide)

theorem flag_tripMarked : flag (tripMarked s) Fld.PWR_ERR_TRIPPED = true := by
  rw [tripMarked, flag_congr (stopFatal_regs _)]
  exact flag_setFld_same _ true (by decide) (by decide) (by decide)

theorem fld_tripMarked_domains :
    fld (tripMarked s) Fld.PWR_DOMAINS_ON = fld s Fld.PWR_DOMAINS_ON := by
  rw [tripMarked, fld_congr (stopFatal_regs _), fld_setFld_of_apart _ _ (by decide),
    fld_setFld_of_apart _ _ (by decide)]

end

theorem tripLimit_row (r : Reading) {s : State} (h0 : powerState s ≠ 0) (h6 : powerState s ≠ 6) :
    ∃ t, exec (.tripLimit r) s = .next t ∧ powerState t = 6 ∧ (∀ d, 1 ≤ d → domainOn t d = false) ∧
      t.wsp.dram = [] ∧ t.wsp.nand = s.wsp.nand ∧ flag t Fld.PWR_ERR_TRIPPED = true := by
  refine ⟨_, exec_tripLimit r h0 h6, ?_, fun d hd => domainOn_of_none ?_ hd, ?_, ?_, ?_⟩
  · rw [powerState, fld_tripReported _ _ _ (by decide) (by decide)]
    exact powerState_tripMarked _
  · rw [fld_tripReported _ _ _ (by decide) (by decide), fld_tripMarked_domains,
      fld_wipeMain_domains]
  · rw [tripReported_wsp, tripMarked_wsp, wipeMain_dram]
  · rw [tripReported_wsp, tripMarked_wsp, wipeMain_nand, tripped]
  · rw [flag, fld_tripReported _ _ _ (by decide) (by decide)]
    exact flag_tripMarked _

theorem hotReading_of_die {s : State} {x : PowerSample}
    (h : (fld s Fld.PWR_THERM_DIE_THROTTLE_C : Int) ≤ x.die) : (hotReading s x).isSome = true := by
  rw [hotReading]
  rw [if_pos h]
  rfl

theorem not_cool_of_die {s : State} {x : PowerSample}
    (h : (fld s Fld.PWR_THERM_DIE_THROTTLE_C : Int) ≤ x.die) : coolBy s x 10 = false := by
  have hdie : ¬ x.die + 10 ≤ (fld s Fld.PWR_THERM_DIE_THROTTLE_C : Int) := by omega
  simp only [coolBy, hdie, decide_false, Bool.false_and]

theorem hotReading_of_cool {s : State} {x : PowerSample} (h : coolBy s x 3 = true) :
    hotReading s x = none := by
  simp only [coolBy, Bool.and_eq_true, decide_eq_true_eq] at h
  obtain ⟨⟨hdie, hbase⟩, hstack⟩ := h
  rw [hotReading]
  rw [if_neg (by omega), if_neg (by omega), if_neg (by omega)]

section
variable {x : PowerSample} {s : State} (hoff : flag s Fld.PRT_CTL_ENABLE = false)
  (hinlet : x.inlet < (fld s Fld.PWR_THERM_INLET_WARN_C : Int)) (hcritical : s.pwr.critical = false)
  (hstate : powerState s = 1)
include hoff

theorem therm_sampled : raw (sampled s x) Reg.PWR_THERM = raw s Reg.PWR_THERM :=
  raw_sampled hoff x rfl (by decide) (by decide) (by decide)

theorem inlet_sampled (hinlet : x.inlet < (fld s Fld.PWR_THERM_INLET_WARN_C : Int)) :
    x.inlet < (fld (sampled s x) Fld.PWR_THERM_INLET_WARN_C : Int) := by
  rwa [fld_sampled hoff x rfl (by decide) (by decide) (by decide)]

theorem powerState_sampled : powerState (sampled s x) = powerState s :=
  fld_sampled hoff x rfl (by decide) (by decide) (by decide)

theorem critical_sampled : (sampled s x).pwr.critical = s.pwr.critical := by
  rw [sampled_pwr hoff]

include hinlet hcritical hstate

/-- A die at its threshold takes the clock one step down. -/
theorem powerSample_die (hdie : (fld s Fld.PWR_THERM_DIE_THROTTLE_C : Int) ≤ x.die) :
    ∃ t, exec (.powerSample x) s = .next t ∧
      (600 < s.pwr.mhz → t.pwr.mhz = max 600 (s.pwr.mhz - 50)) ∧ t.pwr.cooled = false ∧
      t.wsp = s.wsp := by
  have hdie' : (fld (sampled s x) Fld.PWR_THERM_DIE_THROTTLE_C : Int) ≤ x.die := by
    rwa [fld_sampled hoff x rfl (by decide) (by decide) (by decide)]
  refine ⟨_, powerSample_hot rfl (inlet_sampled hoff hinlet)
    ((critical_sampled hoff).trans hcritical) ((powerState_sampled hoff).trans hstate)
    (by rw [hotReading_of_die hdie', Bool.true_or]), fun hmhz => ?_, ?_, ?_⟩
  · rw [throttleEvent_pwr, stepDown_mhz, sampled_pwr hoff]
    rwa [sampled_pwr hoff]
  · rw [throttleEvent_pwr, stepDown_cooled, sampled_pwr hoff, not_cool_of_die hdie]
  · rw [throttleEvent_wsp, stepDown_wsp, sampled_wsp hoff]

/-- A cool sample of low power takes the clock one step up, and ends duty throttling. -/
theorem powerSample_step_up (hcool : coolBy s x 3 = true)
    (hinput : 100 * x.input ≤ 97 * fld s Fld.PWR_LIMIT_SUSTAINED_W) :
    ∃ t, exec (.powerSample x) s = .next t ∧
      t.pwr.mhz = min (fld s Fld.CLK_CORE_CAP_MHZ) (s.pwr.mhz + 50) ∧
      flag t Fld.PWR_STATUS_DUTY = false ∧ t.wsp = s.wsp := by
  have hcool' : coolBy (sampled s x) x 3 = true := by rwa [coolBy_congr (therm_sampled hoff)]
  have hlimit : fld (sampled s x) Fld.PWR_LIMIT_SUSTAINED_W = fld s Fld.PWR_LIMIT_SUSTAINED_W :=
    fld_sampled hoff x rfl (by decide) (by decide) (by decide)
  have hexec := powerSample_cool rfl (inlet_sampled hoff hinlet)
    ((critical_sampled hoff).trans hcritical) ((powerState_sampled hoff).trans hstate)
    (hotReading_of_cool hcool') (by omega)
  rw [if_pos ⟨hcool', hlimit ▸ hinput⟩] at hexec
  refine ⟨_, hexec, ?_, ?_, ?_⟩
  · rw [throttleEvent_pwr, stepUp_mhz, sampled_pwr hoff,
      fld_sampled hoff x rfl (by decide) (by decide) (by decide)]
  · rw [flag_throttleEvent _ _ (by decide), stepUp_duty]
  · rw [throttleEvent_wsp, stepUp_wsp, sampled_wsp hoff]

end

theorem exec_dutyIntervalEnd (s : State) : exec .dutyIntervalEnd s =
    .next (if flag s Fld.PWR_STATUS_DUTY then
      { s with pwr := { s.pwr with dutyHold := !s.pwr.dutyHold } } else s) := by
  change execDutyIntervalEnd s = _
  rw [execDutyIntervalEnd]
  split <;> rfl

/-- Settles O50: a sample is `exec_powerSample`'s one step, whose clock, duty and readings the
lemmas above give; the limits and the trip are read off their reports. -/
theorem powerManagerRows : Obligations.PowerManagerRows := by
  unfold Obligations.PowerManagerRows
  refine ⟨fun x t s ht => powerSample_hot ht, fun x t s ht => powerSample_cool ht,
    fun r s hstate => ⟨criticalDropped s r.sensor, ?_, ?_, exec_criticalLimit r hstate⟩,
    fun s => rfl, exec_dutyIntervalEnd, fun r s => tripLimit_row r, fun x s => powerSample_die,
    fun x s => powerSample_step_up, fun r s => criticalLimit_row r⟩
  · rw [criticalDropped_pwr]
  · rw [criticalDropped_pwr]

end Sys2Proof.Machine
end

section
/-!
# Gating, Smouldering and Banked (R525–R534)

A domain's switch writes its bit of PWR_DOMAINS, and the copies of its bits in PWR_STATUS; the ports
of a fabric domain and the tiles of a row follow it, but no other register and no part of the power
manager's own state does. `State.view r` is what a switch is followed by: the power manager's state
and register `r`.
-/
open Sys2Proof
namespace Sys2Proof.Machine

/-! ## The bits of a word -/

theorem bitOf_eq_bitsOf (v i : Nat) : bitOf v i = (bitsOf v i 1 == 1) := (rfl)

theorem bitOf_putBits_same (v i : Nat) (b : Bool) : bitOf (putBits v i 1 (b2n b)) i = b := by
  rw [bitOf_eq_bitsOf, bitsOf_putBits_same]
  cases b <;> rfl

theorem bitOf_putBits_ne (v x : Nat) {i j : Nat} (h : i ≠ j) :
    bitOf (putBits v i 1 x) j = bitOf v j := by
  rw [bitOf_eq_bitsOf, bitOf_eq_bitsOf]
  rcases Nat.lt_or_gt_of_ne h with hij | hji
  · rw [bitsOf_putBits_above _ _ _ _ _ _ (by omega)]
  · rw [bitsOf_putBits_below _ _ _ _ _ _ (by omega)]

/-! ## What follows a domain's switch (R407, R411, R525) -/

/-- The power manager's state and a register. -/
def State.view (r : RegSpec) (s : State) : PwrState × Nat := (s.pwr, raw s r)

/-- A register that is none of the ports' own states and lanes, nor the injectors' counts. -/
structure RegSpec.Unported (r : RegSpec) : Prop where
  injected : RegSpec.Uninjected r
  status : ∀ p < 20, regKey r 0 0 ≠ regKey Reg.FAB_PORT_STATUS p 0
  lanes : ∀ p < 20, regKey r 0 0 ≠ regKey Reg.FAB_PORT_LANES p 0

/-- The fabric's registers end below 0xB00000. -/
theorem unported_of_base {r : RegSpec} (h : RegSpec.Uninjected r) (hfn : r.perFn = false)
    (hbase : 0xB00000 ≤ r.base) : RegSpec.Unported r where
  injected := h
  status p hp := by
    simp only [regKey, hfn, Reg.FAB_PORT_STATUS, Bool.false_eq_true, if_false]
    omega
  lanes p hp := by
    simp only [regKey, hfn, Reg.FAB_PORT_LANES, Bool.false_eq_true, if_false]
    omega

theorem unported_domains : RegSpec.Unported Reg.PWR_DOMAINS :=
  unported_of_base (uninjected_of_base_lt rfl (by decide)) rfl (by decide)

theorem unported_hifLink : RegSpec.Unported Reg.HIF_LINK := by
  refine unported_of_base (fun i => ?_) rfl (by decide)
  simp only [regKey, Reg.HIF_LINK, Reg.PRT_INJ_EVENTS, Reg.PRT_INJ_FIRED, Bool.false_eq_true,
    if_false]
  omega

theorem view_of {r : RegSpec} {s t : State} (hpwr : t.pwr = s.pwr) (hregs : t.regs = s.regs) :
    t.view r = s.view r := by
  rw [State.view, hpwr, raw_congr hregs, State.view]

theorem pwr_of_view {r : RegSpec} {s t : State} (h : t.view r = s.view r) : t.pwr = s.pwr :=
  congrArg Prod.fst h

theorem raw_of_view {r : RegSpec} {s t : State} (h : t.view r = s.view r) : raw t r = raw s r :=
  congrArg Prod.snd h

section
variable {r : RegSpec} (hr : RegSpec.Unported r) (s : State)

theorem count_view (b c n : Nat) : (count s b c n).view r = s.view r :=
  view_of (count_pwr ..) (count_regs ..)

theorem setPort_view (p : Nat) (x : Port) : (s.setPort p x).view r = s.view r :=
  view_of (State.setPort_pwr ..) (State.setPort_regs ..)

theorem setFld_view {f : FieldRef} {i : Nat} (x : Nat) (h : regKey r 0 0 ≠ regKey f.reg i 0) :
    (setFld s f x i).view r = s.view r := by
  rw [State.view, setFld_pwr, raw_setFld_ne _ _ _ _ h, State.view]

theorem setRaw_view {q : RegSpec} {i : Nat} (v : Nat) (h : regKey r 0 0 ≠ regKey q i 0) :
    (setRaw s q i 0 v).view r = s.view r := by
  rw [State.view, setRaw_pwr, raw_setRaw_ne _ _ _ _ _ _ _ _ h, State.view]

include hr

theorem injectAt_view (target unit sub : Nat) :
    (injectAt s target unit sub).view r = s.view r := by
  rw [State.view, injectAt_pwr, raw_injectAt _ hr.injected, State.view]

theorem enqueue_view (port fromPort fromSlice since : Nat) (p : XlPkt) :
    (enqueue s port fromPort fromSlice since p).view r = s.view r := by
  unfold enqueue
  split
  · rfl
  · dsimp only
    split
    · rw [setPort_view, injectAt_view hr]
    · rw [count_view, setPort_view, injectAt_view hr]

theorem rerouteQueue_view (port : Nat) : (rerouteQueue s port).view r = s.view r := by
  unfold rerouteQueue
  extract_lets +onlyGivenNames _
  refine (foldl_keeps (State.view r) (fun t e => ?_) _ _).trans (setPort_view ..)
  dsimp only
  split
  · rw [count_view]
  · rw [count_view, enqueue_view hr]

theorem setPortState_view {port : Nat} (hp : port < 20) (st : Nat) :
    (setPortState s port st).view r = s.view r := by
  unfold setPortState
  dsimp only
  split
  · rw [rerouteQueue_view hr, setFld_view _ _ (hr.status port hp)]
  · rw [setFld_view _ _ (hr.status port hp)]

theorem beginTraining_view {port : Nat} (hp : port < 20) :
    (beginTraining s port).view r = s.view r := by
  rw [beginTraining, setPort_view, setFld_view _ _ (hr.status port hp), setPortState_view hr _ hp]

theorem portFollow_view (port : Nat) : (portFollow s port).view r = s.view r := by
  unfold portFollow
  split
  · rfl
  · next hport =>
    have hp : port < 20 := by
      simp only [Bool.or_eq_true, decide_eq_true_eq, not_or] at hport
      omega
    split
    · split
      · rw [beginTraining_view hr _ hp]
      · rfl
    · dsimp only
      rw [setPort_view, setRaw_view _ _ (hr.lanes port hp), setFld_view _ _ (hr.status port hp),
        setPortState_view hr _ hp]

omit hr

theorem gateTile_view (t : Nat) :
    (let (d, u) := drawFree s; u.modTile t fun x => x.gated d).view r = s.view r :=
  view_of (State.modTile_pwr ..) (State.modTile_regs ..)

theorem gateTiles_view (row : Nat) : (gateTiles s row).view r = s.view r :=
  foldl_keeps (State.view r) (gateTile_view · ·) _ _

theorem powerTiles_view (row : Nat) : (powerTiles s row).view r = s.view r := by
  unfold powerTiles
  exact foldl_keeps (State.view r)
    (fun _ _ => view_of (State.modTile_pwr ..) (State.modTile_regs ..)) _ _

end

/-! ## A domain's switch (R525) -/

section
variable (s : State) (d : Nat) (on : Bool)

theorem setDomainBit_pwr : (setDomainBit s d on).pwr = s.pwr := by
  simp [setDomainBit]

theorem raw_setDomainBit {r : RegSpec} (hdomains : regKey r 0 0 ≠ regKey Reg.PWR_DOMAINS 0 0)
    (hstatus : regKey r 0 0 ≠ regKey Reg.PWR_STATUS 0 0) :
    raw (setDomainBit s d on) r = raw s r := by
  unfold setDomainBit
  dsimp only
  rw [raw_setFld_ne _ _ _ 0 hstatus, raw_setFld_ne _ _ _ 0 hstatus, raw_setFld_ne _ _ _ 0 hdomains]
  rfl

theorem fld_setDomainBit (hd : d < 35) : fld (setDomainBit s d on) Fld.PWR_DOMAINS_ON =
    putBits (fld s Fld.PWR_DOMAINS_ON) d 1 (b2n on) := by
  have hlt : putBits (fld s Fld.PWR_DOMAINS_ON) d 1 (b2n on) < 2 ^ 35 :=
    putBits_lt _ _ _ _ _ (bitsOf_lt ..) (by omega)
  have hpmc : ∀ p : PmcState,
      fld { s with pmc := p } Fld.PWR_DOMAINS_ON = fld s Fld.PWR_DOMAINS_ON :=
    fun p => fld_congr rfl ..
  unfold setDomainBit
  dsimp only
  rw [hpmc, fld_setFld_of_apart _ _ (by decide), fld_setFld_of_apart _ _ (by decide)]
  exact fld_setFld_same _ _ _ 0 0 (by decide) (by decide) hlt

theorem domainOn_setDomainBit_same (h1 : 1 ≤ d) (hd : d < 35) :
    domainOn (setDomainBit s d on) d = on := by
  rw [domainOn, if_neg (by omega), fld_setDomainBit s d on hd, bitOf_putBits_same]

theorem domainOn_setDomainBit_ne {e : Nat} (h : d ≠ e) (hd : d < 35) :
    domainOn (setDomainBit s d on) e = domainOn s e := by
  rw [domainOn, setDomainBit_pwr, fld_setDomainBit s d on hd, bitOf_putBits_ne _ _ h, domainOn]

end

theorem domainOn_of_view {s t : State} (h : t.view Reg.PWR_DOMAINS = s.view Reg.PWR_DOMAINS)
    (d : Nat) : domainOn t d = domainOn s d := by
  have hfld : fld t Fld.PWR_DOMAINS_ON = fld s Fld.PWR_DOMAINS_ON :=
    congrArg (bitsOf · 0 35) (raw_of_view h)
  rw [domainOn, domainOn, pwr_of_view h, hfld]

section
variable {r : RegSpec} (hr : RegSpec.Unported r) {s : State} {d : Nat}
include hr

theorem switchOff_view (h : domainOn s d = true) :
    (switchOff s d).view r = (setDomainBit s d false).view r := by
  unfold switchOff
  rw [h, Bool.not_true, if_neg Bool.false_ne_true]
  dsimp only
  split
  · exact gateTiles_view ..
  · split
    · exact foldl_keeps (State.view r) (portFollow_view hr) _ _
    · rfl

theorem switchOn_view (h : domainOn s d = false) :
    (switchOn s d).view r = (setDomainBit s d true).view r := by
  unfold switchOn
  rw [h, if_neg Bool.false_ne_true]
  dsimp only
  split
  · exact powerTiles_view ..
  · split
    · exact foldl_keeps (State.view r) (portFollow_view hr) _ _
    · rfl

end

theorem switchOff_of_off {s : State} {d : Nat} (h : domainOn s d = false) : switchOff s d = s := by
  rw [switchOff, h]
  rfl

theorem switchOn_of_on {s : State} {d : Nat} (h : domainOn s d = true) : switchOn s d = s := by
  rw [switchOn, h]
  rfl

@[simp] theorem switchOff_pwr (s : State) (d : Nat) : (switchOff s d).pwr = s.pwr := by
  cases h : domainOn s d with
  | false => rw [switchOff_of_off h]
  | true => exact (pwr_of_view (switchOff_view unported_domains h)).trans (setDomainBit_pwr ..)

@[simp] theorem switchOn_pwr (s : State) (d : Nat) : (switchOn s d).pwr = s.pwr := by
  cases h : domainOn s d with
  | false => exact (pwr_of_view (switchOn_view unported_domains h)).trans (setDomainBit_pwr ..)
  | true => rw [switchOn_of_on h]

theorem raw_switchOff_hifLink (s : State) (d : Nat) :
    raw (switchOff s d) Reg.HIF_LINK = raw s Reg.HIF_LINK := by
  cases h : domainOn s d with
  | false => rw [switchOff_of_off h]
  | true =>
    exact (raw_of_view (switchOff_view unported_hifLink h)).trans
      (raw_setDomainBit _ _ _ (by decide) (by decide))

theorem domainOn_switchOff_same (s : State) {d : Nat} (h1 : 1 ≤ d) (hd : d < 35) :
    domainOn (switchOff s d) d = false := by
  cases h : domainOn s d with
  | false => rw [switchOff_of_off h, h]
  | true =>
    rw [domainOn_of_view (switchOff_view unported_domains h),
      domainOn_setDomainBit_same _ _ _ h1 hd]

theorem domainOn_switchOff_of_off {s : State} {d e : Nat} (h1 : 1 ≤ d) (hd : d < 35)
    (h : domainOn s e = false) : domainOn (switchOff s d) e = false := by
  by_cases hde : d = e
  · rw [hde]
    exact domainOn_switchOff_same s (hde ▸ h1) (hde ▸ hd)
  · cases hon : domainOn s d with
    | false => rw [switchOff_of_off hon, h]
    | true =>
      rw [domainOn_of_view (switchOff_view unported_domains hon),
        domainOn_setDomainBit_ne _ _ _ hde hd, h]

/-- The domains of a list are off once each is switched off. -/
theorem domainOn_foldl_switchOff {ds : List Nat} (hds : ∀ d ∈ ds, 1 ≤ d ∧ d < 35) (s : State)
    {e : Nat} (he : e ∈ ds ∨ domainOn s e = false) : domainOn (ds.foldl switchOff s) e = false := by
  induction ds generalizing s with
  | nil => simpa using he
  | cons d ds ih =>
    obtain ⟨h1, hd⟩ := hds d List.mem_cons_self
    refine ih (fun x hx => hds x (List.mem_cons_of_mem d hx)) _ ?_
    rcases he with he | hoff
    · rcases List.mem_cons.mp he with rfl | hmem
      · exact .inr (domainOn_switchOff_same s h1 hd)
      · exact .inl hmem
    · exact .inr (domainOn_switchOff_of_off h1 hd hoff)

theorem domainOn_congr {s t : State} (h : fld t Fld.PWR_DOMAINS_ON = fld s Fld.PWR_DOMAINS_ON)
    {d : Nat} (hd : 1 ≤ d) : domainOn t d = domainOn s d := by
  rw [domainOn, domainOn, if_neg (by omega), if_neg (by omega), h]

theorem domainOn_of_regs {s t : State} (h : t.regs = s.regs) {d : Nat} (hd : 1 ≤ d) :
    domainOn t d = domainOn s d :=
  domainOn_congr (fld_congr h ..) hd

theorem contains_insertSorted (x : Nat) (xs : List Nat) :
    (insertSorted x xs).contains x = true := by
  induction xs with
  | nil => simp [insertSorted]
  | cons y ys ih =>
    unfold insertSorted
    split
    · simp
    · split
      · next h => simp [h]
      · rw [List.contains_cons, ih, Bool.or_true]

/-! ## Gating on demand (R531–R534) -/

/-- Domain `d` goes down after its switch-off. -/
def goesDown (s : State) (d : Nat) : State :=
  { s with pwr := { s.pwr with goingDown := insertSorted d s.pwr.goingDown } }

theorem goesDown_contains (s : State) (d : Nat) :
    (goesDown s d).pwr.goingDown.contains d = true :=
  contains_insertSorted ..

theorem domainOn_goesDown (s : State) {d e : Nat} (h : 1 ≤ e) :
    domainOn (goesDown s d) e = domainOn s e :=
  domainOn_of_regs rfl h

theorem rowIdleTimeout_row {row : Nat} {s : State} (hrow : row < 19)
    (hon : domainOn s (16 + row) = true) (hgate : flag s Fld.PWR_CTL_ROW_GATE_EN = true)
    (hidle : ((tilesOfRow row).all fun t => !(s.tile t).clkOn) = true)
    (hfree : rowFree s row = true) (hmin : (minRows s).contains row = false) :
    ∃ t, exec (.rowIdleTimeout row) s = .next t ∧ domainOn t (16 + row) = false ∧
      t.pwr.goingDown.contains (16 + row) = true := by
  have hexec : exec (.rowIdleTimeout row) s =
      .next (count (goesDown (switchOff s (16 + row)) (16 + row)) bankPwr 1) := by
    change execRowIdleTimeout row s = _
    unfold execRowIdleTimeout
    dsimp only
    rw [if_neg]
    · rfl
    · simp only [hon, hgate, hidle, hfree, hmin, Bool.not_true, Bool.or_false, decide_eq_true_eq]
      omega
  refine ⟨_, hexec, ?_, ?_⟩
  · rw [domainOn_of_regs (count_regs ..) (by omega), domainOn_goesDown _ (by omega),
      domainOn_switchOff_same _ (by omega) (by omega)]
  · rw [count_pwr, goesDown_contains]

theorem rowIdleTimeout_refused {row : Nat} {s : State}
    (h : domainOn s (16 + row) = false ∨ flag s Fld.PWR_CTL_ROW_GATE_EN = false ∨
      rowFree s row = false) : exec (.rowIdleTimeout row) s = .next s := by
  change execRowIdleTimeout row s = _
  rcases h with h | h | h <;> simp [execRowIdleTimeout, h]

theorem powerDownDone_row {d : Nat} {s t : State} (hgoing : s.pwr.goingDown.contains d = true)
    (ht : t = { s with pwr := { s.pwr with goingDown := s.pwr.goingDown.filter (· ≠ d) } }) :
    exec (.powerDownDone d) s = .next
      (if (16 ≤ d ∧ rowWanted t (d - 16) = true) ∨
          (12 ≤ d ∧ d ≤ 13 ∧ pairWanted t (d - 12) = true) then count t bankPwr 9 else t) := by
  change execPowerDownDone d s = _
  unfold execPowerDownDone
  dsimp only
  rw [hgoing, ← ht]
  simp only [Bool.not_true, Bool.false_eq_true, if_false]
  congr 1
  refine if_congr ?_ rfl rfl
  by_cases hd : 16 ≤ d
  · have hpair : ¬ d ≤ 13 := by omega
    simp [hd, hpair]
  · simp [hd, and_assoc]

theorem rowWakeDone_row {row : Nat} {s : State} (hrow : row < 19)
    (hoff : domainOn s (16 + row) = false)
    (hgoing : s.pwr.goingDown.contains (16 + row) = false) (hstoked : stoked s = true) :
    exec (.rowWakeDone row) s =
      .next (resumeRow (count (switchOn s (16 + row)) bankPwr 0) row) := by
  change execRowWakeDone row s = _
  rw [execRowWakeDone, if_neg]
  simp only [hoff, hgoing, hstoked, Bool.not_true, Bool.or_false, decide_eq_true_eq]
  omega

theorem rePairIdleTimeout_row {pair : Nat} {s : State} (hpair : pair < 2)
    (hon : domainOn s (12 + pair) = true) (hgate : flag s Fld.PWR_CTL_RE_GATE_EN = true)
    (hbusy : pairBusy s pair = false) :
    ∃ t, exec (.rePairIdleTimeout pair) s = .next t ∧ domainOn t (12 + pair) = false ∧
      t.pwr.goingDown.contains (12 + pair) = true := by
  have hexec : exec (.rePairIdleTimeout pair) s =
      .next (goesDown (switchOff s (12 + pair)) (12 + pair)) := by
    change execRePairIdleTimeout pair s = _
    unfold execRePairIdleTimeout
    dsimp only
    rw [if_neg]
    · rfl
    · simp only [hon, hgate, hbusy, Bool.not_true, Bool.or_false, decide_eq_true_eq]
      omega
  refine ⟨_, hexec, ?_, goesDown_contains ..⟩
  rw [domainOn_goesDown _ (by omega), domainOn_switchOff_same _ (by omega) (by omega)]

theorem rePairWakeDone_row {pair : Nat} {s : State} (hpair : pair < 2)
    (hoff : domainOn s (12 + pair) = false)
    (hgoing : s.pwr.goingDown.contains (12 + pair) = false) (hstoked : stoked s = true) :
    exec (.rePairWakeDone pair) s = .next (count (switchOn s (12 + pair)) bankPwr 2) := by
  change execRePairWakeDone pair s = _
  rw [execRePairWakeDone, if_neg]
  simp only [hoff, hgoing, hstoked, Bool.not_true, Bool.or_false, decide_eq_true_eq]
  omega

/-! ## Smouldering (R526, R527) -/

theorem exec_smoulderIdleTimeout (s : State) : exec .smoulderIdleTimeout s =
    .next (if flag s Fld.PWR_CTL_AUTO_SMOULDER = true ∧ stoked s = true ∧ mayIdle s = true then
      startSmoulder s else s) := by
  change execSmoulderIdleTimeout s = _
  rw [execSmoulderIdleTimeout, ← apply_ite Host.Outcome.next]
  simp only [Bool.and_eq_true, and_assoc]

theorem exec_smoulderEntry (s : State) : exec .smoulderEntry s =
    .next (if flag s Fld.PWR_STATUS_SMOULDER_PENDING = true ∧ stoked s = true ∧
      mayIdle s = true then startSmoulder s else s) := by
  change execSmoulderEntry s = _
  rw [execSmoulderEntry, ← apply_ite Host.Outcome.next]
  simp only [Bool.and_eq_true, and_assoc]

/-- An entry to a low-power state is done: its state is shown, and no entry is open. -/
def lowPowerEntered (s : State) (state : Nat) : State :=
  let u := setFld s Fld.PWR_STATUS_STATE state
  { u with pwr := { u.pwr with target := 0, goingDown := [] } }

theorem lowPowerEntered_regs (s : State) (state : Nat) :
    (lowPowerEntered s state).regs = (setFld s Fld.PWR_STATUS_STATE state).regs := (rfl)

theorem domainOn_lowPowerEntered (s : State) (state : Nat) {d : Nat} (hd : 1 ≤ d) :
    domainOn (lowPowerEntered s state) d = domainOn s d := by
  rw [domainOn_of_regs (lowPowerEntered_regs ..) hd]
  exact domainOn_congr (fld_setFld_of_apart _ _ (by decide)) hd

theorem powerState_lowPowerEntered (s : State) {state : Nat} (h : state < 8) :
    powerState (lowPowerEntered s state) = state :=
  (powerState_congr (lowPowerEntered_regs ..)).trans (powerState_setFld _ h)

theorem smoulderEntryDone_row {s : State} (hstate : powerState s = 4) (htarget : s.pwr.target = 1) :
    ∃ t, exec .smoulderEntryDone s = .next t ∧ powerState t = 2 ∧
      ∀ d < 23, domainOn t (12 + d) = false := by
  have hexec : exec .smoulderEntryDone s =
      .next (count (lowPowerEntered ((upFrom 12 23).foldl switchOff s) 2) bankPwr 3) := by
    change execSmoulderEntryDone s = _
    unfold execSmoulderEntryDone
    rw [if_neg (by simp [hstate, htarget])]
    generalize (upFrom 12 23).foldl switchOff s = u
    rfl
  refine ⟨_, hexec, ?_, fun d hd => ?_⟩
  · rw [powerState_congr (count_regs ..), powerState_lowPowerEntered _ (by decide)]
  · rw [domainOn_of_regs (count_regs ..) (by omega), domainOn_lowPowerEntered _ _ (by omega)]
    refine domainOn_foldl_switchOff (fun e he => ?_) s (.inl ?_)
    · have := mem_upFrom_iff.mp he
      omega
    · exact mem_upFrom_iff.mpr (by omega)

/-! ## The requests (R526–R528, R547) -/

theorem exec_pwrReqSmoulder (s : State) :
    exec (.pwrReqSmoulder 0) s = .next (requestSmoulder s) := (rfl)

theorem exec_pwrReqBanked (s : State) :
    exec (.pwrReqBanked 0) s = .next (requestBanked s).2 := (rfl)

theorem pwrReq_refused {func : Nat} (s : State) (h : func ≠ 0) :
    exec (.pwrReqStoked func) s = .next s ∧ exec (.pwrReqSmoulder func) s = .next s ∧
      exec (.pwrReqBanked func) s = .next s := by
  refine ⟨?_, ?_, ?_⟩
  · exact if_neg h
  · exact if_neg h
  · exact if_neg h

theorem requestSmoulder_of_idle {s : State} (hstoked : stoked s = true) (hidle : mayIdle s = true) :
    requestSmoulder s = startSmoulder s := by
  rw [requestSmoulder, hstoked, hidle]
  rfl

theorem requestSmoulder_of_busy {s : State} (hstoked : stoked s = true)
    (hidle : mayIdle s = false) :
    requestSmoulder s = setFld s Fld.PWR_STATUS_SMOULDER_PENDING 1 := by
  simp [requestSmoulder, hstoked, hidle]

/-- The entry to Banked that an accepted request starts. -/
def bankedStarted (s : State) : State :=
  { setFld s Fld.PWR_STATUS_STATE 4 with
    pwr := { s.pwr with target := 2 }, pmc := { s.pmc with lowPower := true } }

theorem powerState_bankedStarted (s : State) : powerState (bankedStarted s) = 4 :=
  (powerState_congr (s := setFld s Fld.PWR_STATUS_STATE 4) rfl).trans
    (powerState_setFld _ (by decide))

theorem requestBanked_refused {s : State} {reason : Nat} (h : bankedRefusal s = some reason) :
    (requestBanked s).2 = setErr (pwrInfo s 0 0 0 0 reason) Fld.PWR_ERR_REQ_REFUSED := by
  rw [requestBanked, h]

theorem requestBanked_of_stoked {s : State} (h : bankedRefusal s = none)
    (hstate : powerState s = 1) : (requestBanked s).2 = bankedStarted s := by
  unfold requestBanked
  rw [h]
  dsimp only
  rw [if_neg (by simp [hstate])]
  rfl

/-! ## Banked (R528, R529, R563) -/

/-- The module is Banked, with its link in L2. -/
def bankedDone (s : State) : State :=
  let u := setFld (setFld s Fld.PWR_STATUS_STATE 3) Fld.PWR_STATUS_SMOULDER_PENDING 0
  { u with pwr := { u.pwr with target := 0, goingDown := [] }, hif := { u.hif with l23 := true } }

theorem bankedDone_regs (s : State) : (bankedDone s).regs =
    (setFld (setFld s Fld.PWR_STATUS_STATE 3) Fld.PWR_STATUS_SMOULDER_PENDING 0).regs := (rfl)

theorem bankedDone_l23 (s : State) : (bankedDone s).hif.l23 = true := (rfl)

theorem powerState_bankedDone (s : State) : powerState (bankedDone s) = 3 := by
  rw [powerState_congr (bankedDone_regs s), powerState, fld_setFld_of_apart _ _ (by decide)]
  exact powerState_setFld _ (by decide)

theorem fld_bankedDone (s : State) {f : FieldRef} (hstate : Fld.PWR_STATUS_STATE.Apart f)
    (hpending : Fld.PWR_STATUS_SMOULDER_PENDING.Apart f) : fld (bankedDone s) f = fld s f := by
  rw [fld_congr (bankedDone_regs s), fld_setFld_of_apart _ _ hpending,
    fld_setFld_of_apart _ _ hstate]

theorem exec_bankedEntered {s : State} (hstate : powerState s = 4) (htarget : s.pwr.target = 2)
    (hmoves : s.wsp.moves = []) : exec .bankedEntered s =
      .next (count (bankedDone ((upFrom 1 34).foldl switchOff (linkDown (send s .pmEnterL23))))
        bankPwr 4) := by
  change execBankedEntered s = _
  unfold execBankedEntered
  rw [if_neg (by simp [hstate, htarget, hmoves]), linkDown]
  dsimp only
  generalize (upFrom 1 34).foldl switchOff _ = u
  rfl

theorem raw_foldl_switchOff_hifLink (ds : List Nat) (s : State) :
    raw (ds.foldl switchOff s) Reg.HIF_LINK = raw s Reg.HIF_LINK :=
  foldl_keeps (raw · Reg.HIF_LINK) raw_switchOff_hifLink ds s

theorem fld_linkDown_speed (s : State) : fld (linkDown s) Fld.HIF_LINK_SPEED = 0 := by
  rw [linkDown, fld_setFld_of_apart _ _ (by decide), fld_setFld_of_apart _ _ (by decide)]
  exact fld_setFld_same _ _ 0 0 0 (by decide) (by decide) (by decide)

theorem bankedEntered_row {s : State} (hstate : powerState s = 4) (htarget : s.pwr.target = 2)
    (hmoves : s.wsp.moves = []) :
    ∃ t, exec .bankedEntered s = .next t ∧ powerState t = 3 ∧
      (∀ d < 34, domainOn t (1 + d) = false) ∧ t.hif.l23 = true ∧ fld t Fld.HIF_LINK_SPEED = 0 := by
  refine ⟨_, exec_bankedEntered hstate htarget hmoves, ?_, fun d hd => ?_, ?_, ?_⟩
  · rw [powerState_congr (count_regs ..), powerState_bankedDone]
  · rw [domainOn_of_regs (count_regs ..) (by omega),
      domainOn_congr (fld_bankedDone _ (by decide) (by decide)) (by omega)]
    refine domainOn_foldl_switchOff (fun e he => ?_) _ (.inl ?_)
    · have := mem_upFrom_iff.mp he
      omega
    · exact mem_upFrom_iff.mpr (by omega)
  · rw [count_hif, bankedDone_l23]
  · rw [fld_congr (count_regs ..), fld_bankedDone _ (by decide) (by decide)]
    exact (congrArg (bitsOf · 0 3) (raw_foldl_switchOff_hifLink _ _)).trans (fld_linkDown_speed _)

/-- The exit from Banked begins. -/
def bankedLeft (s : State) : State :=
  { setFld s Fld.PWR_STATUS_STATE 5 with pwr := { s.pwr with leaving := 3 } }

theorem exec_bankedExit {s : State} (hstate : powerState s = 3) :
    exec (.bankedExit false) s = .next (bankedLeft s) := by
  change execBankedExit false s = _
  rw [execBankedExit, if_pos (by decide), leaveBanked, if_pos hstate]
  rfl

theorem powerState_bankedLeft (s : State) : powerState (bankedLeft s) = 5 :=
  (powerState_congr (s := setFld s Fld.PWR_STATUS_STATE 5) rfl).trans
    (powerState_setFld _ (by decide))

/-! ## The end of a wake (R527, R529) -/

theorem wakeDomains_pwr (s : State) : (wakeDomains s).pwr = s.pwr := by
  rw [wakeDomains]
  rw [count_pwr, count_pwr, foldl_keeps State.pwr switchOn_pwr]

/-- The wake is over, and the link leaves L2. -/
def awake (s : State) : State :=
  let u := setFld s Fld.PWR_STATUS_STATE 1
  { u with pwr := { u.pwr with leaving := 0 }, hif := { u.hif with l23 := false } }

theorem powerState_awake (s : State) : powerState (awake s) = 1 :=
  (powerState_congr (s := setFld s Fld.PWR_STATUS_STATE 1) rfl).trans
    (powerState_setFld _ (by decide))

theorem awake_pwr (s : State) : (awake s).pwr = { s.pwr with leaving := 0 } := by
  simp [awake]

theorem exec_wakeComplete {s : State} (hstate : powerState s = 5) (hleaving : s.pwr.leaving ≠ 0)
    (hwanted : s.pwr.warmWanted = none) :
    exec .wakeComplete s = .next (awake (wakeDomains s)) := by
  have hnone : (awake (wakeDomains s)).pwr.warmWanted = none := by
    rw [awake_pwr, wakeDomains_pwr, hwanted]
  change execWakeComplete s = _
  unfold execWakeComplete
  rw [if_neg (by simp [hstate, hleaving])]
  generalize wakeDomains s = u at hnone
  dsimp only
  split
  · rfl
  · next source hsome => exact absurd (hnone.symm.trans hsome) (by simp)

/-- Settles O52: each row is one of the lemmas above, whose domains are read off the switches' bits
and whose states off their last writes. -/
theorem powerStateRows : Obligations.PowerStateRows := by
  unfold Obligations.PowerStateRows
  refine ⟨fun row s => rowIdleTimeout_row, fun row s => rowIdleTimeout_refused,
    fun d t s => powerDownDone_row, fun row s => rowWakeDone_row,
    fun pair s => rePairIdleTimeout_row, fun pair s => rePairWakeDone_row,
    exec_smoulderIdleTimeout, exec_smoulderEntry, fun s => smoulderEntryDone_row,
    fun s => rfl, fun s hstoked hidle => ?_, fun s hstoked hidle => ?_, fun r s h => ?_,
    fun s h hstate => ?_, fun f s => pwrReq_refused s, fun s => bankedEntered_row,
    fun s hstate => ?_, fun s hstate hleaving hwanted => ?_⟩
  · rw [exec_pwrReqSmoulder, requestSmoulder_of_idle hstoked hidle]
  · rw [exec_pwrReqSmoulder, requestSmoulder_of_busy hstoked hidle]
  · rw [exec_pwrReqBanked, requestBanked_refused h]
  · refine ⟨bankedStarted s, ?_, powerState_bankedStarted s, rfl⟩
    rw [exec_pwrReqBanked, requestBanked_of_stoked h hstate]
  · exact ⟨bankedLeft s, exec_bankedExit hstate, powerState_bankedLeft s, rfl⟩
  · refine ⟨_, exec_wakeComplete hstate hleaving hwanted, powerState_awake _, ?_⟩
    rw [awake_pwr]

end Sys2Proof.Machine
end

section
/-!
# Functions, the link and READY (R541, R543, R561–R563, R567)

A configuration request goes through `configServed`: put off until READY is 1, and served from then
on. What an FLR leaves is read off its last change, `functionGone`.
-/
open Sys2Proof
namespace Sys2Proof.Machine

section
variable (s : State)

@[simp] theorem dropHolds_cp : (dropHolds s).cp = s.cp := by
  unfold dropHolds
  dsimp only
  split <;> simp [showMhz]

@[simp] theorem dropHolds_hif : (dropHolds s).hif = s.hif := by
  unfold dropHolds
  dsimp only
  split <;> simp [showMhz]

@[simp] theorem endTestMode_cp : (endTestMode s).cp = s.cp := by simp [endTestMode]

@[simp] theorem endTestMode_hif : (endTestMode s).hif = s.hif := by simp [endTestMode]

end

/-! ## Configuration requests before READY (R561, R574) -/

section
variable {s : State} (g : State → State)

theorem configServed_of_ready (h : flag s Fld.RST_STATUS_READY = true) :
    configServed s g = g s := if_pos h

theorem configServed_of_not_ready (h : flag s Fld.RST_STATUS_READY = false) :
    configServed s g = count s bankHif 5 := by
  rw [configServed, h]
  rfl

end

/-- The host interface's registers are reset, but for the link's own. -/
def hostCleared (s : State) : State :=
  let keep := fun (e : Nat × Word) =>
    blockOf (keyOffset e.1) ≠ blockOf Reg.HIF_CTL.base || ofReg Reg.HIF_LINK e.1
  irqUpdate (setFld { s with regs := s.regs.filter keep } Fld.HIF_LINK_EID 0)

/-- An FLR's effects beyond the function's own (R543, R567). -/
def flrServed (func : Nat) (s : State) : State :=
  let s := endTestMode (resetFunction s func)
  if func ≠ 0 then settleWork s
  else
    settleWork (hostCleared (dropVfs s))

section
variable (s : State)

theorem exec_flr {func : Nat} (h : func ≤ 32) :
    exec (.flr func) s = .next (configServed s (flrServed func)) :=
  if_neg (Nat.not_lt.mpr h)

/-- The functions that VF Enable brings up. -/
def vfsEnabled (numVfs : Nat) (s : State) : State :=
  if s.hif.vfEnable then s else { s with hif := { s.hif with vfEnable := true, numVfs } }

theorem exec_vfEnable {numVfs : Nat} (h : numVfs ≤ 32) :
    exec (.vfEnable numVfs) s = .next (configServed s (vfsEnabled numVfs)) :=
  if_neg (Nat.not_lt.mpr h)

theorem config_put_off {func : Nat} (hfunc : func ≤ 32)
    (h : flag s Fld.RST_STATUS_READY = false) :
    exec (.flr func) s = .next (count s bankHif 5) ∧
      exec (.d3hotEnter func) s = .next (count s bankHif 5) ∧
      exec (.d3hotExit func) s = .next (count s bankHif 5) ∧
      exec (.vfEnable func) s = .next (count s bankHif 5) ∧
      exec .vfDisable s = .next (count s bankHif 5) := by
  have hput : ∀ g, Host.Outcome.next (configServed s g) = (.next (count s bankHif 5) : Out) :=
    fun g => congrArg _ (configServed_of_not_ready g h)
  refine ⟨?_, hput _, hput _, ?_, hput _⟩
  · rw [exec_flr s hfunc, hput]
  · rw [exec_vfEnable s hfunc, hput]

end

/-! ## The reset of a function (R543, R567) -/

/-- The queues of function `f` are gone, and so is its D3hot. -/
def functionGone (s : State) (f : Nat) : State :=
  let sqs := s.cp.sqs.filter fun e => e.1 / 1024 ≠ f
  let cqs := s.cp.cqs.filter fun e => e.1 / 1024 ≠ f
  { s with cp := { s.cp with sqs, cqs, orphans := s.cp.orphans.filter fun o => o.func ≠ f }
           hif := { s.hif with d3hot := s.hif.d3hot.filter (· ≠ f) } }

section
variable (s : State) (f : Nat)

theorem functionGone_sqs : ∀ e ∈ (functionGone s f).cp.sqs, e.1 / 1024 ≠ f := by
  intro e he
  simpa using (List.mem_filter.mp he).2

theorem functionGone_cqs : ∀ e ∈ (functionGone s f).cp.cqs, e.1 / 1024 ≠ f := by
  intro e he
  simpa using (List.mem_filter.mp he).2

theorem functionGone_d3hot : (functionGone s f).hif.d3hot.contains f = false := by
  simp [functionGone]

theorem resetFunction_eq : ∃ u, resetFunction s f = functionGone u f := ⟨_, rfl⟩

end

theorem flr_virtual {f : Nat} {s : State} (h1 : 1 ≤ f) (hf : f ≤ 32)
    (hready : flag s Fld.RST_STATUS_READY = true) :
    ∃ u : State, u = endTestMode (resetFunction s f) ∧ (∀ e ∈ u.cp.sqs, e.1 / 1024 ≠ f) ∧
      (∀ e ∈ u.cp.cqs, e.1 / 1024 ≠ f) ∧ u.hif.d3hot.contains f = false ∧
      exec (.flr f) s = .next (settleWork u) := by
  obtain ⟨v, hv⟩ := resetFunction_eq s f
  refine ⟨_, rfl, ?_, ?_, ?_, ?_⟩
  · rw [endTestMode_cp, hv]
    exact functionGone_sqs v f
  · rw [endTestMode_cp, hv]
    exact functionGone_cqs v f
  · rw [endTestMode_hif, hv]
    exact functionGone_d3hot v f
  · rw [exec_flr s hf, configServed_of_ready _ hready, flrServed, if_pos (by omega)]

theorem hostCleared_hif (s : State) : (hostCleared s).hif = s.hif := by
  simp [hostCleared]

theorem fld_hostCleared_eid (s : State) : fld (hostCleared s) Fld.HIF_LINK_EID = 0 := by
  rw [hostCleared, fld_congr (irqUpdate_regs _)]
  exact fld_setFld_same _ _ 0 0 0 (by decide) (by decide) (by decide)

theorem dropVfs_vfEnable (s : State) : (dropVfs s).hif.vfEnable = false := (rfl)

theorem dropVfs_numVfs (s : State) : (dropVfs s).hif.numVfs = 0 := (rfl)

theorem flr_physical {s : State} (hready : flag s Fld.RST_STATUS_READY = true) :
    ∃ u : State, u.hif.vfEnable = false ∧ u.hif.numVfs = 0 ∧ fld u Fld.HIF_LINK_EID = 0 ∧
      exec (.flr 0) s = .next (settleWork u) := by
  have hexec : exec (.flr 0) s = .next (settleWork (hostCleared (dropVfs
      (endTestMode (resetFunction s 0))))) := by
    rw [exec_flr s (by decide), configServed_of_ready _ hready, flrServed, if_neg (by decide)]
  refine ⟨_, ?_, ?_, ?_, hexec⟩
  · rw [hostCleared_hif, dropVfs_vfEnable]
  · rw [hostCleared_hif, dropVfs_numVfs]
  · rw [fld_hostCleared_eid]

/-! ## VF Enable and D3hot (R562, R567) -/

theorem vfEnable_row {n : Nat} {s : State} (hn : n ≤ 32)
    (hready : flag s Fld.RST_STATUS_READY = true) (hoff : s.hif.vfEnable = false) :
    exec (.vfEnable n) s =
      .next { s with hif := { s.hif with vfEnable := true, numVfs := n } } := by
  rw [exec_vfEnable s hn, configServed_of_ready _ hready, vfsEnabled, hoff]
  rfl

theorem vfDisable_row {s : State} (hready : flag s Fld.RST_STATUS_READY = true)
    (hon : s.hif.vfEnable = true) : exec .vfDisable s = .next (settleWork (dropVfs s)) := by
  change execVfDisable s = _
  rw [execVfDisable, configServed_of_ready _ hready, if_pos hon]

theorem d3hotEnter_row {f : Nat} {s : State} (hready : flag s Fld.RST_STATUS_READY = true)
    (hup : functionUp s f = true) (hout : inD3hot s f = false) :
    exec (.d3hotEnter f) s =
      .next { s with hif := { s.hif with d3hot := insertSorted f s.hif.d3hot } } := by
  change execD3hotEnter f s = _
  rw [execD3hotEnter, configServed_of_ready _ hready, hup, hout]
  rfl

theorem d3hotExit_row (f : Nat) {s : State} (hready : flag s Fld.RST_STATUS_READY = true) :
    exec (.d3hotExit f) s =
      .next { s with hif := { s.hif with d3hot := s.hif.d3hot.filter (· ≠ f) } } := by
  change execD3hotExit f s = _
  rw [execD3hotExit, configServed_of_ready _ hready]

/-! ## The link (R561, R563, R573) -/

theorem pmeTurnOff_answered {s : State} (h : powerState s ≠ 4) :
    exec .pmeTurnOff s = .next (send s .pmeToAck) := by
  change execPmeTurnOff s = _
  rw [execPmeTurnOff, if_neg (by simp [h])]

theorem pmeTurnOff_banked {s : State} (h : powerState s = 4) (htarget : s.pwr.target = 2) :
    exec .pmeTurnOff s = .next s := by
  change execPmeTurnOff s = _
  rw [execPmeTurnOff, if_pos (by simp [h, htarget])]

/-- The link's registers show its speed, its width and its flit mode. -/
def linkShown (s : State) (speed width : Nat) (flit : Bool) : State :=
  setFld (setFld (setFld s Fld.HIF_LINK_SPEED speed) Fld.HIF_LINK_WIDTH width)
    Fld.HIF_LINK_FLIT (b2n flit)

/-- The link has trained: it is out of L2, and a link that was up has its training counted. -/
def linkTrained (was : Nat) (s : State) : State :=
  let u := { s with hif := { s.hif with l23 := false } }
  if was ≠ 0 then count (bumpFld u Fld.HIF_LINK_RETRAINS) bankHif 2 else u

theorem linkTrained_l23 (was : Nat) (s : State) : (linkTrained was s).hif.l23 = false := by
  unfold linkTrained
  dsimp only
  split <;> simp

theorem fld_linkTrained (was : Nat) (s : State) {f : FieldRef}
    (h : Fld.HIF_LINK_RETRAINS.Apart f) : fld (linkTrained was s) f = fld s f := by
  have hhif : ∀ x : HifState, fld { s with hif := x } f = fld s f := fun x => fld_congr rfl ..
  unfold linkTrained
  dsimp only
  split
  · rw [fld_congr (count_regs ..), bumpFld, fld_setFld_of_apart _ _ h, hhif]
  · exact hhif _

theorem exec_pcieLinkUp {speed width : Nat} (flit : Bool) {s : State} (hstate : powerState s = 1)
    (h1 : 1 ≤ speed) (h6 : speed ≤ 6) (hwidth : width ∈ [1, 2, 4, 8, 16]) :
    exec (.pcieLinkUp speed width flit) s =
      .next (linkTrained (fld s Fld.HIF_LINK_SPEED) (linkShown s speed width flit)) := by
  have hspeed : speed ≠ 0 := by omega
  have hfast : ¬ 6 < speed := by omega
  change execPcieLinkUp speed width flit s = _
  unfold execPcieLinkUp
  dsimp only
  rw [if_neg]
  · rfl
  · rw [List.contains_iff_mem.mpr hwidth]
    simp [hstate, hspeed, hfast]

theorem pcieLinkUp_row {speed width : Nat} (flit : Bool) {s : State} (hstate : powerState s = 1)
    (h1 : 1 ≤ speed) (h6 : speed ≤ 6) (hwidth : width ∈ [1, 2, 4, 8, 16]) :
    ∃ t, exec (.pcieLinkUp speed width flit) s = .next t ∧ fld t Fld.HIF_LINK_SPEED = speed ∧
      fld t Fld.HIF_LINK_WIDTH = width ∧ flag t Fld.HIF_LINK_FLIT = flit ∧ t.hif.l23 = false := by
  have hnarrow : width < 2 ^ 5 := by
    simp only [List.mem_cons, List.not_mem_nil, or_false] at hwidth
    omega
  refine ⟨_, exec_pcieLinkUp flit hstate h1 h6 hwidth, ?_, ?_, ?_, linkTrained_l23 ..⟩
  · rw [fld_linkTrained _ _ (by decide), linkShown, fld_setFld_of_apart _ _ (by decide),
      fld_setFld_of_apart _ _ (by decide)]
    exact fld_setFld_same _ _ _ 0 0 (by decide) (by decide) (Nat.lt_of_le_of_lt h6 (by decide))
  · rw [fld_linkTrained _ _ (by decide), linkShown, fld_setFld_of_apart _ _ (by decide)]
    exact fld_setFld_same _ _ _ 0 0 (by decide) (by decide) hnarrow
  · rw [flag, fld_linkTrained _ _ (by decide)]
    exact flag_setFld_same _ flit (by decide) (by decide) (by decide)

/-- Settles O55: the clauses are the rows' lemmas above, in their order. -/
theorem functionsAndLink : Obligations.FunctionsAndLink := by
  unfold Obligations.FunctionsAndLink
  exact ⟨fun f s => config_put_off s, fun f s => flr_virtual, fun s => flr_physical,
    fun n s => vfEnable_row, fun s => vfDisable_row, fun f s => d3hotEnter_row,
    fun f s => d3hotExit_row f, fun s => pmeTurnOff_answered, fun s => pmeTurnOff_banked,
    fun v w b s => pcieLinkUp_row b⟩

end Sys2Proof.Machine
end

section
/-!
# Frames of the management chain (R554–R560, R570)

Every request's row receives its frame by `chainReceive`, whose branches are the lemmas here; that
the module has counted the frame changes no register, and so not its address.
-/
open Sys2Proof
namespace Sys2Proof.Machine

theorem ringAddr_count (s : State) (b c n : Nat) : ringAddr (count s b c n) = ringAddr s :=
  fld_congr (count_regs ..) ..

/-! ## The reception of a frame (R554) -/

section
variable {bs : List Byte} {s : State} (hon : s.pwr.standbyOn = true)
include hon

theorem chainReceive_bad (hbad : frameGood bs = false) :
    chainReceive s bs = count (setErr (count s bankMgt 0) Fld.MGT_ERR_CRC_BAD) bankMgt 4 := by
  simp [chainReceive, hon, hbad]

variable (hgood : frameGood bs = true) (hresp : (readFrame bs).resp = false)
include hgood hresp

theorem chainReceive_here (hdest : (readFrame bs).dest = ringAddr s) (h0 : (readFrame bs).dest ≠ 0)
    (hall : (readFrame bs).dest ≠ 0x7F) :
    chainReceive s bs = chainServe (count s bankMgt 0) (readFrame bs) := by
  have haddr : ringAddr s ≠ 0 := hdest ▸ h0
  have hcast : ringAddr s ≠ 0x7F := hdest ▸ hall
  simp [chainReceive, hon, hgood, hresp, ringAddr_count, hdest, haddr, hcast]

theorem chainReceive_elsewhere (hdest : (readFrame bs).dest ≠ ringAddr s)
    (hall : (readFrame bs).dest ≠ 0x7F) :
    chainReceive s bs = chainForward (count s bankMgt 0) bs := by
  simp [chainReceive, hon, hgood, hresp, ringAddr_count, hdest, hall]

variable (hall : (readFrame bs).dest = 0x7F)
include hall

theorem chainReceive_enumeration (htype : (readFrame bs).type = 1 ∨ (readFrame bs).type = 2) :
    chainReceive s bs = enumerate (count s bankMgt 0) bs (readFrame bs) := by
  simp [chainReceive, hon, hgood, hresp, hall, htype]

theorem chainReceive_broadcast (h1 : (readFrame bs).type ≠ 1) (h2 : (readFrame bs).type ≠ 2)
    (haddr : ringAddr s ≠ 0) (hmajor : (readFrame bs).major = 1) :
    chainReceive s bs = chainForward (chainServe (count s bankMgt 0) (readFrame bs)) bs := by
  simp [chainReceive, hon, hgood, hresp, ringAddr_count, hall, h1, h2, haddr, hmajor]

end

theorem receiveType_of_type {s : State} {type : Nat} {bs : List Byte}
    (h : (readFrame bs).type = type) : receiveType s type bs = .next (chainReceive s bs) := if_pos h

/-- A row that receives the frames of its type is a row of the chain. -/
theorem chainRow_of_receiveType {c : List Byte → Instr} {type : Nat}
    (hc : ∀ bs s, exec (c bs) s = receiveType s type bs) : ChainRow c type := by
  rintro bs f s hon hgood rfl htype hresp
  rw [hc, receiveType_of_type htype]
  refine ⟨fun hdest h0 hall => ?_, fun hdest hall => ?_, fun hall h12 => ?_,
    fun hall h1 h2 haddr hmajor => ?_⟩
  · rw [chainReceive_here hon hgood hresp hdest h0 hall]
  · rw [chainReceive_elsewhere hon hgood hresp hdest hall]
  · rw [chainReceive_enumeration hon hgood hresp hall (htype ▸ h12)]
  · rw [chainReceive_broadcast hon hgood hresp hall (htype ▸ h1) (htype ▸ h2) haddr hmajor]

/-! ## Alerts and the chain's input (R552, R560, R572) -/

/-- Alert `a` is the one held. -/
theorem find_alert {s : State} {a : Alert} (h : s.mgt.alerts = [a]) :
    (s.mgt.alerts.find? fun x => x.seq = a.seq) = some a := by
  simp [h]

theorem alertRepeat_again {a : Alert} {s : State} (h : s.mgt.alerts = [a]) (hfew : a.repeats < 50)
    (hen : flag s Fld.MGT_CTL_ALERT_EN = true) (haddr : ringAddr s ≠ 0) :
    ∃ t, exec (.alertRepeat a.seq) s = .next t ∧
      t.mgt.alerts = [{ a with repeats := a.repeats + 1 }] ∧
      t.mgt.chainOut = s.mgt.chainOut ++ [.alert { a with repeats := a.repeats + 1 }] := by
  have hexec : exec (.alertRepeat a.seq) s = .next (count { s with mgt := { s.mgt with
      alerts := s.mgt.alerts.map fun x =>
        if x.seq = a.seq then { a with repeats := a.repeats + 1 } else x
      chainOut := s.mgt.chainOut ++ [.alert { a with repeats := a.repeats + 1 }] } } bankMgt 5) := by
    change execAlertRepeat a.seq s = _
    unfold execAlertRepeat
    rw [find_alert h]
    dsimp only
    rw [if_neg (by omega), if_pos (by simp [hen, haddr])]
  refine ⟨_, hexec, ?_, ?_⟩
  · rw [count_mgt]
    simp [h]
  · rw [count_mgt]

theorem alertRepeat_dropped {a : Alert} {s : State} (h : s.mgt.alerts = [a])
    (hmany : 50 ≤ a.repeats) :
    ∃ t, exec (.alertRepeat a.seq) s = .next t ∧ t.mgt.alerts = [] ∧
      flag t Fld.MGT_ERR_ALERT_UNACKED = true := by
  have hexec : exec (.alertRepeat a.seq) s = .next (setErr { s with mgt := { s.mgt with
      alerts := s.mgt.alerts.filter fun x => x.seq ≠ a.seq } } Fld.MGT_ERR_ALERT_UNACKED) := by
    change execAlertRepeat a.seq s = _
    unfold execAlertRepeat
    rw [find_alert h]
    dsimp only
    rw [if_pos hmany]
  refine ⟨_, hexec, ?_, flag_setErr_same _ (by decide) (by decide) (by decide)⟩
  rw [setErr_mgt]
  simp [h]

theorem chainInputLock_row {s : State} (hon : s.pwr.standbyOn = true) :
    exec .chainInputLock s = .next (setFld s Fld.MGT_CHAIN_IN_LOCK 1) := if_pos hon

theorem chainInputLost_row {s : State} (h : flag s Fld.MGT_CHAIN_IN_LOCK = true) :
    exec .chainInputLost s =
      .next (setErr (setFld s Fld.MGT_CHAIN_IN_LOCK 0) Fld.MGT_ERR_IN_LOST) := if_pos h

theorem chainInputLost_idle {s : State} (h : flag s Fld.MGT_CHAIN_IN_LOCK = false) :
    exec .chainInputLost s = .next s := if_neg (by simp [h])

/-- Settles O59: the rows of requests by `chainRow_of_receiveType`, FRAME_FORWARD by the branches
of `chainReceive`. -/
theorem chainFrames : Obligations.ChainFrames := by
  unfold Obligations.ChainFrames
  refine ⟨chainRow_of_receiveType fun _ _ => rfl, chainRow_of_receiveType fun _ _ => rfl,
    chainRow_of_receiveType fun _ _ => rfl, chainRow_of_receiveType fun _ _ => rfl,
    chainRow_of_receiveType fun _ _ => rfl, chainRow_of_receiveType fun _ _ => rfl,
    chainRow_of_receiveType fun _ _ => rfl, chainRow_of_receiveType fun _ _ => rfl,
    chainRow_of_receiveType fun _ _ => rfl, chainRow_of_receiveType fun _ _ => rfl,
    chainRow_of_receiveType fun _ _ => rfl, chainRow_of_receiveType fun _ _ => rfl,
    chainRow_of_receiveType fun _ _ => rfl, fun bs s hon hbad => ?_,
    fun bs s hon hgood hresp hall hdest => ?_, fun a s => alertRepeat_again,
    fun a s => alertRepeat_dropped, fun s => chainInputLock_row, fun s => chainInputLost_row,
    fun s => chainInputLost_idle⟩
  · exact congrArg Host.Outcome.next (chainReceive_bad hon hbad)
  · exact congrArg Host.Outcome.next (chainReceive_elsewhere hon hgood hresp hdest hall)

end Sys2Proof.Machine
end

section
/-!
# MCTP and SPDM messages (R514, R516, R517, R568)

A request of an SPDM connection is `spdmRequest`, which answers where a connection of the requester
is open and its version, algorithms and operands pass, and sends ERROR otherwise.
-/
open Sys2Proof
namespace Sys2Proof.Machine

/-! ## MCTP control messages (R568) -/

section
variable {b : Nat} (src : Nat) (s : State) (hb : b ≤ 1)
include hb

theorem setEndpointId_row {eid : Nat} (h1 : 1 ≤ eid) (h254 : eid ≤ 254) :
    exec (.setEndpointId b src eid) s =
      .next (control (setMctpEid s b eid) b src 1 [0, BitVec.ofNat 8 eid, 0]) := by
  have hvalid : ¬ (decide (eid = 0) || decide (255 ≤ eid)) = true := by
    simp only [Bool.or_eq_true, decide_eq_true_eq]
    omega
  change execSetEndpointId b src eid s = _
  rw [execSetEndpointId, if_neg (by omega), if_neg hvalid]
  rfl

theorem setEndpointId_refused :
    exec (.setEndpointId b src 0) s = .next (control s b src 1 [] 2) ∧
      exec (.setEndpointId b src 255) s = .next (control s b src 1 [] 2) := by
  have hbinding : ¬ 1 < b := by omega
  constructor
  · change execSetEndpointId b src 0 s = _
    rw [execSetEndpointId, if_neg hbinding, if_pos (by decide)]
  · change execSetEndpointId b src 255 s = _
    rw [execSetEndpointId, if_neg hbinding, if_pos (by decide)]

theorem getEndpointId_row : exec (.getEndpointId b src) s =
    .next (control s b src 2 [BitVec.ofNat 8 (mctpEid s b), 0, 0]) :=
  if_neg (by omega)

theorem getSupport_rows :
    exec (.getEndpointUuid b src) s = .next (control s b src 3 (leBytes 16 Config.endpointUuid)) ∧
      exec (.getMctpVersionSupport b src) s =
        .next (control s b src 4 [1, 0xF1, 0xF3, 0xFF, 0]) ∧
      exec (.getMessageTypeSupport b src) s = .next (control s b src 5 [1, 5]) := by
  have hbinding : ¬ 1 < b := by omega
  exact ⟨if_neg hbinding, if_neg hbinding, if_neg hbinding⟩

end

/-! ## MCTP packets (R568) -/

theorem mctpEid_count (s : State) (bank counter n b : Nat) :
    mctpEid (count s bank counter n) b = mctpEid s b := by
  have hregs := count_regs s bank counter n
  rw [mctpEid, fld_congr hregs, fld_congr hregs, mctpEid]

theorem mctpWhole_unknown (s : State) (b src : Nat) {c : Nat} (h5 : 5 < c) (h256 : c < 256) :
    (mctpWhole s b src [0, 0x80, BitVec.ofNat 8 c]).2 = control s b src c [] 5 := by
  have hcommand : fieldOf [0, 0x80, BitVec.ofNat 8 c] 2 0 8 = c := by
    simp [fieldOf, leNat, bitsOf_eq, Nat.mod_eq_of_lt h256]
  have htype : fieldOf [0, 0x80, BitVec.ofNat 8 c] 0 0 8 = 0 := rfl
  have hrq : fieldOf [0, 0x80, BitVec.ofNat 8 c] 1 0 8 = 128 := rfl
  have hlarge : ¬ c ≤ 5 := by omega
  simp only [mctpWhole, hcommand, htype, hrq]
  simp [hlarge]

/-- A packet that is a whole message, where no other is open. -/
theorem mctpPacket_whole {s : State} {b : Nat} {p : McPkt} (hsom : p.som = true)
    (heom : p.eom = true) (hdest : p.dest = mctpEid s b) (hshort : p.body.length ≤ 64)
    (hparts : s.mgt.parts = []) :
    mctpPacket s b p = mctpWhole (count s bankMgt 6) b p.src p.body := by
  have hlong : ¬ 64 < p.body.length := by omega
  simp [mctpPacket, hsom, heom, hdest, mctpEid_count, hlong, hparts]

theorem mctpPacket_unknown {b c : Nat} {p : McPkt} {s : State} (hsom : p.som = true)
    (heom : p.eom = true) (hdest : p.dest = mctpEid s b)
    (hbody : p.body = [0, 0x80, BitVec.ofNat 8 c]) (h5 : 5 < c) (h256 : c < 256)
    (hparts : s.mgt.parts = []) :
    (mctpPacket s b p).2 = control (count s bankMgt 6) b p.src c [] 5 := by
  rw [mctpPacket_whole hsom heom hdest (by simp [hbody]) hparts, hbody,
    mctpWhole_unknown _ _ _ h5 h256]

/-! ## SPDM connections (R516) -/

theorem spdm_emptied {s : State} (h : s.ras.spdm = []) :
    { s with ras := { s.ras with spdm := [] } } = s := by
  rw [← h]

theorem getVersion_row (b src : Nat) {s : State} (h : s.ras.spdm = []) :
    exec (.getVersion b src) s =
      .next (spdmSend (setConn s { eid := src, binding := b }) b src (.version [12, 13])) := by
  change execGetVersion b src s = _
  rw [execGetVersion, h]
  exact congrArg (fun t => Host.Outcome.next (spdmSend (setConn t { eid := src, binding := b })
    b src (.version [12, 13]))) (spdm_emptied h)

section
variable {b src v : Nat} {c : SpdmConn} {s : State}

theorem getCapabilities_row (n : Nat) (hconn : spdmConn s b src = some c) (hv : v = 12 ∨ v = 13) :
    exec (.getCapabilities b src v n) s = .next (spdmSend
      (setConn s { c with version := v, caps := true, algs := false, transfer := n })
      b src (.capabilities v true true 2 true 17)) := by
  have hversion : (decide (v = 12) || decide (v = 13)) = true := by simpa using hv
  change execGetCapabilities b src v n s = _
  rw [execGetCapabilities, hconn]
  exact if_pos hversion

theorem spdmRequest_none (algs ok : Bool) (f : SpdmConn → State)
    (hconn : spdmConn s b src = none) :
    spdmRequest s b src v algs ok f = .next (spdmError s b src) := by
  rw [spdmRequest, hconn]

theorem spdmRequest_some {algs ok : Bool} (f : SpdmConn → State)
    (hconn : spdmConn s b src = some c) (hcaps : c.caps = true) (hversion : c.version = v)
    (halgs : (c.algs || !algs) = true) :
    spdmRequest s b src v algs ok f = .next (if ok then f c else spdmError s b src) := by
  rw [spdmRequest, hconn]
  cases ok <;> simp [hcaps, hversion, halgs]

theorem negotiateAlgorithms_row (hconn : spdmConn s b src = some c) (hcaps : c.caps = true)
    (hversion : c.version = v) :
    exec (.negotiateAlgorithms b src v true) s =
        .next (spdmAnswer s { c with algs := true } (.algorithms v)) ∧
      exec (.negotiateAlgorithms b src v false) s = .next (spdmError s b src) := by
  have halgs : (c.algs || !false) = true := Bool.or_true _
  constructor
  · exact spdmRequest_some _ hconn hcaps hversion halgs
  · exact spdmRequest_some _ hconn hcaps hversion halgs

/-- A request of a connection that is ready is answered where its operands pass. -/
theorem spdmRequest_ready (ok : Bool) (f : SpdmConn → State) (h : SpdmReady s b src v c) :
    spdmRequest s b src v true ok f = .next (if ok then f c else spdmError s b src) := by
  obtain ⟨hconn, hcaps, hversion, halgs⟩ := h
  exact spdmRequest_some f hconn hcaps hversion (by rw [halgs, Bool.true_or])

theorem getDigests_row (h : SpdmReady s b src v c) : exec (.getDigests b src v) s =
    .next (spdmAnswer s c (.digests [0] [chainDigest])) :=
  spdmRequest_ready true _ h

theorem getCertificate_row (o n : Nat) (h : SpdmReady s b src v c) :
    exec (.getCertificate b src v 0 o n) s = .next (if o < Config.certChain.length then
      spdmAnswer s c (.certificate 0 ((Config.certChain.drop o).take n)
        (Config.certChain.length - o - n)) else spdmError s b src) := by
  change execGetCertificate b src v 0 o n s = _
  rw [execGetCertificate, spdmRequest_ready _ _ h]
  simp only [decide_true, Bool.true_and, decide_eq_true_eq, List.length_drop]

theorem challenge_row (h : SpdmReady s b src v c) : exec (.challenge b src v 0) s =
    .next (spdmAnswer (drawFree s).2 c (.challengeAuth 0 chainDigest (freshNonce (drawFree s).1)
      (Config.signature (drawFree s).1))) :=
  spdmRequest_ready true _ h

theorem getMeasurements_row {i : Nat} (h : SpdmReady s b src v c) (h1 : 1 ≤ i) (h6 : i ≤ 6) :
    exec (.getMeasurements b src v i false) s = .next (spdmAnswer (drawFree s).2 c
      (.measurements 6 [(i, measurement (drawFree s).2 i)] none)) := by
  have hindex : (decide (i ≤ 6) || decide (i = 0xFF)) = true := by simp [h6]
  have hnone : i ≠ 0 := by omega
  have hall : i ≠ 0xFF := by omega
  change execGetMeasurements b src v i false s = _
  rw [execGetMeasurements, spdmRequest_ready _ _ h, if_pos hindex]
  dsimp only
  rw [if_neg hnone, if_neg hall]
  rfl

theorem chunkGet_row {handle seq : Nat} {left : List Byte} (hconn : spdmConn s b src = some c)
    (hchunk : c.chunk = some (handle, seq, left)) (hversion : c.version = v)
    (hmore : c.transfer < left.length) (h1 : 1 ≤ c.transfer) :
    exec (.chunkGet b src v handle seq) s = .next (spdmSend
      (setConn s { c with chunk := some (handle, seq + 1, left.drop c.transfer) }) b src
      (.chunk handle seq false (left.take c.transfer))) := by
  have hrest : (left.drop c.transfer).isEmpty = false := by
    rw [List.isEmpty_eq_false_iff, ne_eq, List.drop_eq_nil_iff]
    omega
  change execChunkGet b src v handle seq s = _
  simp [execChunkGet, hconn, hchunk, hversion, Nat.max_eq_right h1, hrest]

theorem spdm_unconnected (handle seq : Nat) (hconn : spdmConn s b src = none) :
    exec (.getCapabilities b src v 0) s = .next (spdmError s b src) ∧
      exec (.getDigests b src v) s = .next (spdmError s b src) ∧
      exec (.getCertificate b src v 0 0 0) s = .next (spdmError s b src) ∧
      exec (.challenge b src v 0) s = .next (spdmError s b src) ∧
      exec (.getMeasurements b src v 0 true) s = .next (spdmError s b src) ∧
      exec (.chunkGet b src v handle seq) s = .next (spdmError s b src) ∧
      exec (.negotiateAlgorithms b src v true) s = .next (spdmError s b src) := by
  refine ⟨?_, spdmRequest_none _ _ _ hconn, spdmRequest_none _ _ _ hconn,
    spdmRequest_none _ _ _ hconn, spdmRequest_none _ _ _ hconn, ?_,
    spdmRequest_none _ _ _ hconn⟩
  · change execGetCapabilities b src v 0 s = _
    rw [execGetCapabilities, hconn]
  · change execChunkGet b src v handle seq s = _
    rw [execChunkGet, hconn]

end

/-- Settles O60: the control messages, the packets and the requests of a connection, each by its
row's lemma. -/
theorem mctpAndSpdm : Obligations.MctpAndSpdm := by
  unfold Obligations.MctpAndSpdm
  exact ⟨fun b src eid s hb => setEndpointId_row src s hb,
    fun b src s => setEndpointId_refused src s, fun b src s => getEndpointId_row src s,
    fun b src s => getSupport_rows src s, fun p s => rfl, fun f p s hf => if_neg hf,
    fun b c p s => mctpPacket_unknown, fun b src s => getVersion_row b src,
    fun b src v n c s => getCapabilities_row n, fun b src v c s => negotiateAlgorithms_row,
    fun b src v c s => getDigests_row, fun b src v o n c s => getCertificate_row o n,
    fun b src v c s => challenge_row, fun b src v i c s => getMeasurements_row,
    fun b src v h q l c s => chunkGet_row, fun b src v h q s => spdm_unconnected h q⟩

end Sys2Proof.Machine
end
